-- ==== Sys2Proof/Word.lean ====
section
/-!
DEFINITION. Words, vector registers, the operand forms of the slot operations and the small
enumerations the instruction set is written in (spec/02, R38-R45, R52; spec/09, R166; spec/11, R233).
-/
namespace Sys2Proof

abbrev Byte := BitVec 8
abbrev Word16 := BitVec 16
abbrev Word32 := BitVec 32
abbrev Word64 := BitVec 64
/-- A code address: overlay number in [21:16], word in [15:0] (R276). -/
abbrev CodeAddr := BitVec 22
/-- A vector register: lane l is bits [32l+31:32l] (R92). -/
abbrev Vec := BitVec 4096
/-- A lane mask: bit l belongs to lane l (R93). -/
abbrev LaneMask := BitVec 128

/-- The guard of a slot operation (R38, R39): runs when the predicate XOR negate is 1. -/
structure Guard where
  neg : Bool
  idx : BitVec 4
  deriving DecidableEq, Repr

/-- `(p0)`: always executes. -/
def Guard.always : Guard := ⟨false, 0⟩

/-- The three bypass latches of a slot (R44). -/
inductive Latch
  | by0 | by1 | by2
  deriving DecidableEq, Repr

/-- S source specifier (R45). -/
inductive SSrc
  | reg (r : BitVec 6) | latch (k : Latch)
  deriving DecidableEq, Repr

/-- S destination specifier (R45); `transient` is the destination written `by`. -/
inductive SDst
  | reg (r : BitVec 6) | transient
  deriving DecidableEq, Repr

/-- VA or VB source specifier (R45). -/
inductive VSrc
  | reg (r : BitVec 10) | latch (k : Latch)
  deriving DecidableEq, Repr

/-- VA or VB destination specifier (R45). -/
inductive VDst
  | reg (r : BitVec 10) | transient
  deriving DecidableEq, Repr

/-- The two vector slots and their files (R40). -/
inductive VSlot
  | va | vb
  deriving DecidableEq, Repr

/-- The nine slots in mask order (R31). -/
inductive Slot
  | s | va | vb | m | k | l | t | x | y
  deriving DecidableEq, Repr

def Slot.num : Slot → Nat
  | .s => 0 | .va => 1 | .vb => 2 | .m => 3 | .k => 4 | .l => 5 | .t => 6 | .x => 7 | .y => 8

/-- Slot width in bits (R31). -/
def Slot.width : Slot → Nat
  | .s => 64 | .va => 80 | .vb => 80 | .m => 48 | .k => 32 | .l => 64 | .t => 48 | .x => 48 | .y => 32

def Slot.all : List Slot := [.s, .va, .vb, .m, .k, .l, .t, .x, .y]

/-- Memory levels of the lvl field (R166). -/
inductive Level
  | sp | cp | xs | gl
  deriving DecidableEq, Repr

/-- Element types of a chain (R52). -/
inductive VType
  | f32 | bf16x2 | f16x2 | i32 | i16x2 | i8x4
  deriving DecidableEq, Repr

/-- Unit-one opcodes (R52). -/
inductive Op1
  | pass | fmul | fma | imul | imulh | and | or | xor | andn | clmul | clmulh | cvt
  deriving DecidableEq, Repr

/-- Unit-two opcodes (R52). -/
inductive Op2
  | pass | fadd | fsub | fmin | fmax | iadd | isub | iadds | isubs | imin | imax | iminu | imaxu
  | absd | fcmp | icmp
  deriving DecidableEq, Repr

/-- Unit-three opcodes (R52). -/
inductive Op3
  | pass | shl | shr | sar | rot | relu | gelu | exp2 | log2 | rcp | rsqrt | sel | pack | unpack
  | perm | bcast | popc | scanx | rsum | rmax | xlg
  deriving DecidableEq, Repr

/-- The operands of a chain (R52). For a compare the destination is `.reg m` with m below 16,
the lane mask written (R53). -/
structure Chain where
  op1 : Op1
  op2 : Op2
  op3 : Op3
  dst : VDst
  a : VSrc
  b : VSrc
  c : VSrc
  k : BitVec 4
  ty : VType
  aux : BitVec 4
  deriving DecidableEq, Repr

/-- Bank groups of the scratchpad (R120). -/
inductive Group
  | a | b
  deriving DecidableEq, Repr

/-- Operand format codes of a push (R121). -/
inductive MFmt
  | f32 | bf16 | f16 | e4m3 | e5m2 | i8 | log6 | bf16e4m3 | bf16e5m2 | bf16log6
  deriving DecidableEq, Repr

/-- Target of `m.mdrain` (R130). -/
inductive DrainTarget
  | vec (f : VSlot) (r : BitVec 10) | sp (g : Group) (idx : BitVec 14)
  deriving DecidableEq, Repr

/-- Source of `m.mmask` (R130). -/
inductive MaskSrc
  | ones | sp (g : Group) (idx : BitVec 17)
  deriving DecidableEq, Repr

/-- Sizes of a scalar load (R175). -/
inductive LSize
  | zb | zh | zw | d | sb | sh | sw
  deriving DecidableEq, Repr

/-- Sizes of a scalar store (R183). -/
inductive TSize
  | b | h | w | d
  deriving DecidableEq, Repr

def LSize.bytes : LSize → Nat
  | .zb | .sb => 1 | .zh | .sh => 2 | .zw | .sw => 4 | .d => 8

def TSize.bytes : TSize → Nat
  | .b => 1 | .h => 2 | .w => 4 | .d => 8

/-- Element sizes of `l.ldvt` (R173). -/
inductive EltSize
  | b4 | b2 | b1
  deriving DecidableEq, Repr

def EltSize.bytes : EltSize → Nat
  | .b4 => 4 | .b2 => 2 | .b1 => 1

/-- Destinations of `x.xcp` (R233). -/
inductive XDst
  | s (r : BitVec 6) | va (r : BitVec 10) | vb (r : BitVec 10) | ka (r : BitVec 4) | kb (r : BitVec 4)
  | la (r : BitVec 5) | ta (r : BitVec 5) | xa (r : BitVec 5)
  deriving DecidableEq, Repr

/-- Sources of `x.xcp` (R233). -/
inductive XSrc
  | s (r : SSrc) | va (r : VSrc) | vb (r : VSrc) | ka (r : BitVec 4) | kb (r : BitVec 4)
  | la (r : BitVec 5) | ta (r : BitVec 5) | xa (r : BitVec 5)
  deriving DecidableEq, Repr

/-- Page sizes of `x.tinv` (R237). -/
inductive TinvSize
  | k4 | m2 | g1 | all
  deriving DecidableEq, Repr

/-- Stored forms of a stash command (R239). -/
inductive StashMode
  | raw | zb | f8
  deriving DecidableEq, Repr

/-- Task kinds, coded as in `mbt` (R20). -/
inductive TaskKind
  | f | b | w | g
  deriving DecidableEq, Repr

def TaskKind.code : TaskKind → Nat
  | .f => 0 | .b => 1 | .w => 2 | .g => 3

def TaskKind.ofCode (n : Nat) : TaskKind :=
  match n % 4 with | 0 => .f | 1 => .b | 2 => .w | _ => .g

/-- Modes of a phaser member (R291). -/
inductive PhMode
  | s | w | sw
  deriving DecidableEq, Repr

/-- Header fields of a host frame that a step reads (R353). -/
structure Frame where
  seq : BitVec 32
  pasid : BitVec 20
  addr : Word64
  tag : Word64
  deriving DecidableEq, Repr

/-- A tile as a link delivers it (R248, R249); `bad`: the numbers of its 64-byte payloads whose flits carried the poison
bit (R356, R357). -/
structure Tile where
  pasid : Nat
  chan : BitVec 6
  prod : BitVec 4
  seq : Nat
  tag : Word32
  ts : Word64
  data : List Byte
  stamp : Nat
  bad : List Nat := []
  /-- The port on which it came; none within the chip. -/
  port : Option Nat := none
  deriving DecidableEq, Repr

/-- The context of another message, the port on which it came, none within the chip (R356), and its stamp (R394). -/
structure Via where
  port : Option Nat := none
  pasid : Nat
  stamp : Nat := 0
  deriving DecidableEq, Repr

/-- A reduction partial: the node [lo, lo + span) of the tree, its elements and the set of indices it
holds (R163, R165). -/
structure Partial where
  lo : Nat
  span : Nat
  leaves : List Nat
  elems : List Word32
  poison : Bool
  /-- The largest stamp of its contributions (R394). -/
  stamp : Nat := 0
  /-- The round that it belongs to: home chip, target and word 1 of the window, as the contributors' entries name them (R159). -/
  home : Nat := 0
  target : Nat := 0
  ctl : Word64 := 0
  deriving DecidableEq, Repr

/-- How a link-control flit shows a peer port (R358, R383). -/
inductive PortSign
  | trained | heldDown
  deriving DecidableEq, Repr

/-- What an uncorrectable platform error struck (R382). -/
inductive PlatformPart
  | headland | queueTable | descriptor | routing | breakwaterControl
  deriving DecidableEq, Repr

/-- Where an uncorrectable error at a cluster was found (R369, R370). -/
inductive ErrorSite
  | register | lanes | scratchpad | pool | instructionMemory | firstLevel | rewindPoint | engineShadow | array
  deriving DecidableEq, Repr

/-- The form of the part (R5). -/
inductive PackageForm
  | package | module
  deriving DecidableEq, Repr

def PackageForm.code : PackageForm → Nat
  | .package => 1 | .module => 2

/-- The signed configuration record that boot reads: the cores that are harvested or retired, the stepping, LPDDR-6, the
form, and the least security version (R5, R350, R359, R362). -/
structure ConfigRecord where
  disabled : List Nat
  stepping : Nat
  lpddr : Bool
  form : PackageForm
  minSecver : Nat
  deriving DecidableEq, Repr

/-- The failure of one reset step, if any, as the platform meets it (R362). -/
abbrev BootFailure := Option Nat

/-- Bits [lo+len-1:lo] of a number. -/
def bits (w lo len : Nat) : Nat := w / 2 ^ lo % 2 ^ len

/-- One bit of a number as a truth value. -/
def bitAt (w i : Nat) : Bool := w / 2 ^ i % 2 == 1

/-- Bits [lo+len-1:lo] as a word. -/
def fld (w lo len : Nat) : BitVec len := BitVec.ofNat len (w / 2 ^ lo)

/-- The signed value of the low n bits of a number. -/
def signedOf (w n : Nat) : Int :=
  if 2 * (w % 2 ^ n) < 2 ^ n then (w % 2 ^ n : Int) else (w % 2 ^ n : Int) - 2 ^ n

/-- The number of a truth value. -/
def bit (b : Bool) : Nat := if b then 1 else 0

end Sys2Proof
end

