-- ==== Sys2Proof/Syntax.lean ====
section
/-!
DEFINITION. The one inductive of whole steps: a constructor for each row of spec/opcode_table.json.
Slot operations carry their guard first. The other rows are events of the sequencer, the engines, the
scheduler, the host, the links and the recovery logic (spec/95); they carry what names their subject.
-/
namespace Sys2Proof

inductive Instr
  -- bundles, landing (R34, R365, R285, R389, R278, R46, R47)
  | waitBundle
  | segBundle
  | ovlBundle
  | markerBundle (expected : Word32)
  | loopBackEdge
  | resultLanding
  | globalLoadLanding (core load : Nat)
  -- S slot, arithmetic (R144-R152)
  | add (g : Guard) (d : SDst) (a b : SSrc)
  | sub (g : Guard) (d : SDst) (a b : SSrc)
  | and (g : Guard) (d : SDst) (a b : SSrc)
  | or (g : Guard) (d : SDst) (a b : SSrc)
  | xor (g : Guard) (d : SDst) (a b : SSrc)
  | shl (g : Guard) (d : SDst) (a b : SSrc)
  | shr (g : Guard) (d : SDst) (a b : SSrc)
  | sar (g : Guard) (d : SDst) (a b : SSrc)
  | rot (g : Guard) (d : SDst) (a b : SSrc)
  | min (g : Guard) (d : SDst) (a b : SSrc)
  | max (g : Guard) (d : SDst) (a b : SSrc)
  | minu (g : Guard) (d : SDst) (a b : SSrc)
  | maxu (g : Guard) (d : SDst) (a b : SSrc)
  | addi (g : Guard) (d : SDst) (a : SSrc) (imm : Word32)
  | andi (g : Guard) (d : SDst) (a : SSrc) (imm : Word32)
  | ori (g : Guard) (d : SDst) (a : SSrc) (imm : Word32)
  | xori (g : Guard) (d : SDst) (a : SSrc) (imm : Word32)
  | shli (g : Guard) (d : SDst) (a : SSrc) (imm : Word32)
  | shri (g : Guard) (d : SDst) (a : SSrc) (imm : Word32)
  | sari (g : Guard) (d : SDst) (a : SSrc) (imm : Word32)
  | roti (g : Guard) (d : SDst) (a : SSrc) (imm : Word32)
  | mul (g : Guard) (d : SDst) (a b : SSrc)
  | mulh (g : Guard) (d : SDst) (a b : SSrc)
  | mulhu (g : Guard) (d : SDst) (a b : SSrc)
  | div (g : Guard) (d : SDst) (a b : SSrc)
  | divu (g : Guard) (d : SDst) (a b : SSrc)
  | rem (g : Guard) (d : SDst) (a b : SSrc)
  | remu (g : Guard) (d : SDst) (a b : SSrc)
  | clz (g : Guard) (d : SDst) (a : SSrc)
  | ctz (g : Guard) (d : SDst) (a : SSrc)
  | popc (g : Guard) (d : SDst) (a : SSrc)
  | bswap (g : Guard) (d : SDst) (a : SSrc)
  | li (g : Guard) (d : SDst) (imm : BitVec 44)
  | lih (g : Guard) (d : SDst) (a : SSrc) (imm : BitVec 20)
  | sel (g : Guard) (d : SDst) (a b : SSrc) (pp : BitVec 4)
  | ceq (g : Guard) (pd : BitVec 4) (a b : SSrc)
  | cne (g : Guard) (pd : BitVec 4) (a b : SSrc)
  | clt (g : Guard) (pd : BitVec 4) (a b : SSrc)
  | cltu (g : Guard) (pd : BitVec 4) (a b : SSrc)
  | cle (g : Guard) (pd : BitVec 4) (a b : SSrc)
  | cleu (g : Guard) (pd : BitVec 4) (a b : SSrc)
  | pand (g : Guard) (pd pa pb : BitVec 4)
  | por (g : Guard) (pd pa pb : BitVec 4)
  | pxor (g : Guard) (pd pa pb : BitVec 4)
  | pnot (g : Guard) (pd pa : BitVec 4)
  -- S slot, control and system (R279-R286, R228)
  | b (g : Guard) (target : CodeAddr)
  | bp (g : Guard) (offset : CodeAddr)
  | call (g : Guard) (d : SDst) (target : CodeAddr)
  | ret (g : Guard) (a : SSrc)
  | jr (g : Guard) (a : SSrc)
  | loop (g : Guard) (c : SSrc) (last imm : CodeAddr)
  | lbrk (g : Guard) (target : CodeAddr)
  | sysr (g : Guard) (d : SDst) (num : BitVec 12)
  | sysw (g : Guard) (a : SSrc) (num : BitVec 12)
  | trap (g : Guard) (code : Word16)
  | evpop (g : Guard) (d : SDst)
  | halt (g : Guard)
  | ipf (g : Guard) (a : SSrc)
  | ipin (g : Guard) (a : SSrc)
  | iunpin (g : Guard) (a : SSrc)
  -- vector slots (R94)
  | vectorChain (f : VSlot) (g : Guard) (ch : Chain)
  -- M slot (R125-R137)
  | mpush (g : Guard) (fmt : MFmt) (aidx bidx : BitVec 14) (pair : BitVec 5)
  | mpusht (g : Guard) (fmt : MFmt) (aidx bidx : BitVec 14) (pair : BitVec 5)
  | mburst (g : Guard) (fmt : MFmt) (aidx bidx : BitVec 14) (pair : BitVec 5) (tr : Bool)
  | mshift (g : Guard)
  | mhold (g : Guard)
  | mdrain (g : Guard) (plane : Bool) (row : BitVec 7) (target : DrainTarget) (clr : Bool)
  | mclr (g : Guard) (p0 p1 : Bool)
  | mswap (g : Guard)
  | mmask (g : Guard) (block : Bool) (src : MaskSrc)
  | mend (g : Guard)
  -- K slot (R135)
  | kld (g : Guard) (e : BitVec 6) (grp : Group) (idx : BitVec 14)
  | kldp (g : Guard) (e : BitVec 6) (grp : Group) (idx : BitVec 16)
  | kmov (g : Guard) (d s : BitVec 6)
  | kset (g : Guard) (e : BitVec 6) (c : Byte)
  -- L slot (R172-R180, R204)
  | ldv (g : Guard) (f : VSlot) (dst : BitVec 10) (base : BitVec 5) (lvl : Level) (disp : BitVec 24)
  | ldvt (g : Guard) (f : VSlot) (dst : BitVec 10) (base : BitVec 5) (lvl : Level) (stride : BitVec 5)
      (es : EltSize) (disp : BitVec 17)
  | ldvp (g : Guard) (f : VSlot) (dst : BitVec 10) (base : BitVec 5) (lvl : Level) (disp : BitVec 24)
  | ldvx (g : Guard) (f : VSlot) (dst : BitVec 10) (base : BitVec 5) (lvl : Level) (idx : VSrc)
      (disp : BitVec 11)
  | ldvg (g : Guard) (f : VSlot) (dst : BitVec 10) (base : BitVec 5) (idx : VSrc) (disp : BitVec 11)
  | lds (g : Guard) (dst : BitVec 6) (base : BitVec 5) (lvl : Level) (sz : LSize) (disp : BitVec 31)
  | ldl (g : Guard) (f : VSlot) (dst : BitVec 10) (base : BitVec 5) (disp : BitVec 13)
  | ldgv (g : Guard) (f : VSlot) (dst : BitVec 10) (base : BitVec 5) (disp : BitVec 24)
  | ldacq (g : Guard) (dst : BitVec 6) (base : BitVec 5) (lvl : Level) (sz : LSize) (disp : BitVec 31)
  | pfg (g : Guard) (base : BitVec 5) (disp : BitVec 24)
  | ldmc (g : Guard) (ranks : Byte) (base : BitVec 5) (lvl : Level) (tgt : BitVec 15) (nw : BitVec 9)
  -- T slot (R181-R186, R205)
  | stv (g : Guard) (f : VSlot) (src : VSrc) (base : BitVec 5) (lvl : Level) (disp : BitVec 17)
  | stvp (g : Guard) (f : VSlot) (src : BitVec 10) (base : BitVec 5) (lvl : Level) (disp : BitVec 17)
  | stvx (g : Guard) (f : VSlot) (src : VSrc) (base : BitVec 5) (lvl : Level) (idx : BitVec 10)
  | stvg (g : Guard) (f : VSlot) (src : VSrc) (base : BitVec 5) (disp : BitVec 16)
  | stvgScatter (g : Guard) (f : VSlot) (src : VSrc) (base : BitVec 5) (idx : BitVec 10)
  | sts (g : Guard) (src : SSrc) (base : BitVec 5) (lvl : Level) (sz : TSize) (disp : BitVec 14)
  | stl (g : Guard) (f : VSlot) (src : VSrc) (base : BitVec 5) (disp : BitVec 13)
  | stsv (g : Guard) (f : VSlot) (src : VSrc) (base : BitVec 5) (lvl : Level) (lane : BitVec 7)
      (sz : EltSize) (disp : BitVec 8)
  | strel (g : Guard) (src : SSrc) (base : BitVec 5) (lvl : Level) (sz : TSize) (disp : BitVec 14)
  | ffill (g : Guard) (src : SSrc) (base : BitVec 5) (disp : BitVec 13)
  | aadd (g : Guard) (src : SSrc) (base : BitVec 5) (wide ret : Bool)
  | amin (g : Guard) (src : SSrc) (base : BitVec 5) (wide ret uns : Bool)
  | amax (g : Guard) (src : SSrc) (base : BitVec 5) (wide ret uns : Bool)
  | axchg (g : Guard) (src : SSrc) (base : BitVec 5) (wide ret : Bool)
  | acas (g : Guard) (src : SSrc) (cmp : BitVec 6) (base : BitVec 5) (wide ret : Bool)
  | atomicPerform (core : Nat)
  | engineBankRequest (core : Nat) (grp : Group) (bank : Nat)
  -- X slot: register copies, copy engine (R233-R237)
  | xcp (g : Guard) (dst : XDst) (src : XSrc) (lane : BitVec 7)
  | cpy (g : Guard) (xs xd : BitVec 5)
  | mc (g : Guard) (xs xd : BitVec 5) (ranks : Byte)
  | copyStart (core : Nat)
  | copyComplete (core : Nat)
  | tinv (g : Guard) (xv xn : BitVec 5) (size : TinvSize)
  | tinvComplete (core : Nat)
  -- stash engine (R238-R245)
  | stash (g : Guard) (xs xk : BitVec 5) (mode : StashMode)
  | spill (g : Guard) (xs xk : BitVec 5) (mode : StashMode) (lp : Bool)
  | drop (g : Guard) (xh xk : BitVec 5)
  | fetch (g : Guard) (xd xk : BitVec 5) (free : Bool)
  | wver (g : Guard) (xs xk : BitVec 5)
  | stashRelease (core : Nat)
  | pressureSpillComplete (pasid key : Nat)
  | stashReturnComplete (pasid key : Nat)
  | fetchComplete (core : Nat)
  -- engine registers (R230-R232, R246, R159)
  | engw (g : Guard) (xv : BitVec 5) (num : BitVec 12)
  | engr (g : Guard) (num : BitVec 12)
  | engrComplete (core : Nat)
  | reductionWindowWrite (fr : Frame) (num : BitVec 12) (v : Word64)
  | starenaWrite (fr : Frame) (v : Word64)
  | spillRegionWrite (fr : Frame) (num : BitVec 12) (v : Word64)
  | inChannelWrite (fr : Frame) (num : BitVec 12) (v : Word64)
  | outChannelWrite (fr : Frame) (num : BitVec 12) (v : Word64)
  -- channels and reductions (R247-R250, R160-R165)
  | chsend (g : Guard) (xs xg xt : BitVec 5) (chan : BitVec 6)
  | chrecv (g : Guard) (xd : BitVec 5) (chan : BitVec 6)
  | cheos (g : Guard) (chan : BitVec 6)
  | chsendRelease (core : Nat)
  | chrecvComplete (core : Nat)
  | tileArrival (t : Tile)
  | eosTokenArrival (via : Via) (chan : BitVec 6) (prod : BitVec 4)
  | windowAdvertisement (via : Via) (out : BitVec 6) (upto : Nat)
  | redm (g : Guard) (xs xi : BitVec 5) (win : BitVec 6)
  | partialArrival (via : Via) (win : BitVec 6) (p : Partial)
  | breakwaterRelease (cluster : Nat)
  -- Y slot: fence and tasks (R207, R271)
  | fence (g : Guard) (rr rw wr ww : Bool) (sc : BitVec 4)
  | spawn (g : Guard) (sk st sb : BitVec 6)
  | tend (g : Guard)
  | tabort (g : Guard)
  | frd (g : Guard) (d : SDst)
  | frdOwn (g : Guard) (d : SDst)
  | taskLeavesCores (tid : Nat)
  | frontierAdvance (stage : Nat)
  | taskRetire (stage : Nat)
  | frontierEviction (stage : Nat)
  | heldCreatingEvent (stage : Nat)
  | budgetExhausted (tid : Nat)
  | overlayCopyComplete (core overlay : Nat)
  -- Y slot: phasers, futures, counters, tokens, tiles (R291-R315)
  | phreg (g : Guard) (h : BitVec 4) (mode : PhMode) (chip : Bool) (index : BitVec 9)
  | phdrop (g : Guard) (h : BitVec 4) (r : Bool)
  | phsig (g : Guard) (h : BitVec 4) (r : Bool)
  | phwait (g : Guard) (h : BitVec 4) (r : Bool)
  | phsw (g : Guard) (h : BitVec 4) (r : Bool)
  | chipPhaserPerform (core : Nat)
  | pbaseInit (g : Guard) (d : BitVec 3)
  | pbase (g : Guard)
  | fwait (g : Guard) (a : SSrc)
  | futurePoll (core : Nat)
  | dctrDec (g : Guard) (n : BitVec 6)
  | dctrSet (g : Guard) (n k t : BitVec 6)
  | dctrPerform (stage : Nat)
  | tokacq (g : Guard)
  | tokrel (g : Guard)
  | tokenHop (die : Nat)
  | ntile (g : Guard) (a b : SSrc)
  | evwait (g : Guard) (count : Byte)
  -- scheduling, handler, swap (R316-R327)
  | stageEvaluation (stage : Nat)
  | taskDispatch (tid : Nat)
  | headroomPublication (die power : Nat)
  | handlerResume (tid : Nat)
  | handlerExtend (tid c : Nat)
  | handlerAbort (tid : Nat) (recreate : Bool)
  | handlerContextFault (tid : Nat)
  | teamSwap (tid : Nat)
  | swapComplete (tid : Nat)
  | swapRestore (tid : Nat)
  -- host frames, commands, queues (R335-R355)
  | managementRead (fr : Frame)
  | managementWrite (fr : Frame) (v : Word64)
  | malformedFrame (fr : Frame)
  | bulkUpload (fr : Frame) (data : List Byte)
  | firmwareStaged (slotB verified : Bool)
  | tideTableWrite (fr : Frame) (stage entry : Nat) (v : Word64)
  | stagectlWrite (fr : Frame) (stage : Nat) (v : Word64)
  | faultLogRead (fr : Frame)
  | qstateDisable (fr : Frame) (slot : Nat)
  | qstateRun (fr : Frame) (slot : Nat)
  | rptrWrite (fr : Frame) (slot : Nat) (v : Word32)
  | createContext (fr : Frame) (body : List Byte)
  | destroyContext (fr : Frame)
  | contextFreed (pasid : Nat)
  | createQueue (fr : Frame) (body : List Byte)
  | destroyQueue (fr : Frame)
  | restartQueue (fr : Frame) (rptr : Word32)
  | invalidateTranslations (fr : Frame) (va count : Word64) (size : TinvSize)
  | gangSwitch (fr : Frame) (time : Word64) (outgoing incoming : Nat)
  | gangSwitchTime
  | quiesceFlit (port pasid : Nat)
  | saveContext (fr : Frame)
  | contextSaveComplete (pasid : Nat)
  | restoreContext (fr : Frame)
  | publishStagePlan (fr : Frame) (body : List Byte)
  | replanPublication (stage clusters : Nat)
  | activateFirmware (fr : Frame) (slotB : Bool)
  | readIdentity (fr : Frame)
  | attest (fr : Frame) (nonce : List Byte)
  | resetChip (fr : Frame)
  | doorbellWrite (pasid : Option Nat) (slot : Nat) (v : Word64)
  | packetHeaderReread (slot : Nat)
  | taskPacket (slot : Nat)
  | signalPacket (slot : Nat)
  | signalStore (slot : Nat)
  | fencePacket (slot : Nat)
  | queueFenceRelease (slot : Nat)
  | launchPacket (slot : Nat)
  | launchInstall (slot : Nat)
  | nopPacket (slot : Nat)
  -- links, platform, recovery, observation (R356-R392)
  | flitResendRequest (port : Nat)
  | timeBaseFlit (port : Nat) (ns : Word64)
  | viralNeighbour (port chip : Nat)
  | powerOnReset (record : ConfigRecord) (failure : BootFailure)
  | temperatureReport (die celsius : Nat)
  | thermalTrip
  | sounderReport (first : Nat) (second : Option Nat) (strike : Nat)
  | dataError (cluster core : Nat) (site : ErrorSite) (addr : Nat)
  | rewindPointExpiry (core : Nat)
  | sounderSelfTest (cluster passing : Nat)
  | ageingMonitorRead (cluster : Nat) (slack : List Nat)
  | marginReplan (cluster millivolt guardBand : Nat)
  | contextRestoreComplete (pasid : Nat)
  | levelDataArrival (core : Nat)
  | discardedFlit (port : Nat)
  | linkControlTrainingFlit (port : Nat) (sign : PortSign)
  | firmwareImageDiscard (fr : Frame)
  | platformUncorrectableError (part : PlatformPart)
  deriving DecidableEq, Repr

end Sys2Proof
end

