-- ==== Sys2Proof/WellFormed.lean ====
section
/-!
DEFINITION. The conditions that decode puts on a slot operation beyond its field types (R53, R55, R99,
R125, R130, R171, R172, R179, R207, R234, R235, R237). Events carry none: they are no encodings.
-/
namespace Sys2Proof

/-- Result type of each conversion code (R102). -/
def cvtType (aux : Nat) : VType :=
  match aux with
  | 0 => .i32 | 1 => .f32 | 2 => .bf16x2 | 3 => .f16x2
  | 4 => .f32 | 5 => .f32 | 6 => .f32 | 7 => .f32
  | 8 => .i8x4 | 9 => .i8x4 | 10 => .i8x4 | 11 => .i8x4
  | _ => .bf16x2

def VType.isFloat : VType → Bool
  | .f32 | .bf16x2 | .f16x2 => true
  | _ => false

/-- Types that unit one accepts (R99). -/
def op1Type (o : Op1) (t : VType) (aux : Nat) : Bool :=
  match o with
  | .fmul | .fma => t.isFloat
  | .imul | .imulh => !t.isFloat
  | .clmul | .clmulh => t == .i32
  | .cvt => t == cvtType aux
  | .pass | .and | .or | .xor | .andn => true

/-- Types that unit two accepts (R99). -/
def op2Type (o : Op2) (t : VType) : Bool :=
  match o with
  | .pass => true
  | .fadd | .fsub | .fmin | .fmax | .fcmp => t.isFloat
  | .iadd | .isub | .iadds | .isubs | .imin | .imax | .iminu | .imaxu | .absd | .icmp => !t.isFloat

/-- Types that unit three accepts (R99). -/
def op3Type (o : Op3) (t : VType) : Bool :=
  match o with
  | .shl | .shr | .sar | .rot | .popc => !t.isFloat
  | .gelu | .exp2 | .log2 | .rcp | .rsqrt => t.isFloat
  | .pack => t == .i32 || t == .i16x2
  | .unpack => t == .i16x2 || t == .i8x4
  | .pass | .relu | .sel | .perm | .bcast | .scanx | .rsum | .rmax | .xlg => true

def Op1.claims (o : Op1) : Bool := o == .cvt
def Op2.claims (o : Op2) : Bool := o == .fcmp || o == .icmp
def Op3.claims (o : Op3) : Bool := o == .scanx || o == .rsum || o == .rmax || o == .xlg

/-- The aux values that the claiming unit defines (R99); zero when no unit claims it (R53). -/
def auxOk (c : Chain) : Bool :=
  let x := c.aux.toNat
  match c.op1.claims, c.op2.claims, c.op3.claims with
  | false, false, false => x == 0
  | true, false, false => true
  | false, true, false => x < 8 || !(c.ty == .f32 || c.ty == .i32)
  | false, false, true =>
    match c.op3 with
    | .scanx => x < 4
    | .rsum => x < 2
    | .rmax => x < 4 && (x < 2 || !c.ty.isFloat)
    | _ => true
  | _, _, _ => false

/-- A compare writes a lane mask: op3 is pass and dst is one of 0 to 15 (R53). -/
def cmpOk (c : Chain) : Bool :=
  if c.op2.claims then
    c.op3 == .pass && (match c.dst with | .reg r => decide (r.toNat < 16) | .transient => false)
  else true

def Chain.wf (c : Chain) : Bool :=
  auxOk c && cmpOk c && op1Type c.op1 c.ty c.aux.toNat && op2Type c.op2 c.ty && op3Type c.op3 c.ty

/-- A scale pair is named only by the formats that use one (R125). -/
def pairOk (f : MFmt) (pair : BitVec 5) : Bool := pair == 0 || f == .log6 || f == .bf16log6

/-- The allowed file pairs of a register copy, and its lane field (R233, R234). -/
def xcpOk (d : XDst) (s : XSrc) (lane : BitVec 7) : Bool :=
  match s, d with
  | .s _, .va _ | .s _, .vb _ => lane == 0
  | .va _, .s _ | .vb _, .s _ => true
  | .va _, .vb _ | .vb _, .va _ => lane == 0
  | .va _, .ka _ | .va _, .kb _ | .vb _, .ka _ | .vb _, .kb _ => lane == 0
  | .ka _, .va _ | .ka _, .vb _ | .kb _, .va _ | .kb _, .vb _ => lane == 0
  | .ka _, .kb _ | .kb _, .ka _ => lane == 0
  | .s _, .la _ | .s _, .ta _ | .s _, .xa _ => lane == 0
  | .la _, .s _ | .la _, .ta _ | .la _, .xa _ => lane == 0
  | .ta _, .s _ | .ta _, .la _ | .ta _, .xa _ => lane == 0
  | .xa _, .s _ | .xa _, .la _ | .xa _, .ta _ => lane == 0
  | _, _ => false

/-- Target bytes of `l.ldmc` stay in the scratchpad (R179). -/
def ldmcFits (tgt : BitVec 15) (nw : BitVec 9) : Bool :=
  tgt.toNat * 128 + 128 * (nw.toNat + 1) ≤ 0x300000

/-- A fence is draining when wr is set and its scope is a level (R209). -/
def fenceDrains (wr : Bool) (sc : BitVec 4) : Bool := wr && decide (sc.toNat < 8)

def Instr.wf (i : Instr) : Bool :=
  match i with
  | .vectorChain _ _ ch => ch.wf
  | .mpush _ f _ _ p | .mpusht _ f _ _ p | .mburst _ f _ _ p _ => pairOk f p
  | .mclr _ p0 p1 => p0 || p1
  | .ldv _ _ _ _ lvl _ | .ldvt _ _ _ _ lvl _ _ _ | .ldvx _ _ _ _ lvl _ _ => lvl != .gl
  | .ldvp _ _ dst _ lvl _ => lvl != .gl && dst.toNat % 2 == 0
  | .ldacq _ _ _ lvl _ _ => lvl != .sp
  | .ldmc _ ranks _ lvl tgt nw => lvl != .gl && ranks != 0 && ldmcFits tgt nw
  | .stv _ _ _ _ lvl _ | .stvx _ _ _ _ lvl _ => lvl != .gl
  | .stvp _ _ src _ lvl _ => lvl != .gl && src.toNat % 2 == 0
  | .strel _ _ _ lvl _ _ => lvl != .sp
  | .xcp _ d s lane => xcpOk d s lane
  | .mc _ _ _ ranks => ranks != 0
  | .tinv _ xv xn size => size != .all || (xv == 0 && xn == 0)
  | .fence _ rr rw wr ww sc => (rr || rw || wr || ww) && decide (sc.toNat ≤ 8)
  | _ => true

end Sys2Proof
end

