-- ==== Sys2Proof/Decode.lean ====
section
/-!
DEFINITION. The decoder of slot fields and bundles, total on any bits and rejecting by name, and the
encoder beside it, both from the layout tables of the spec (R30-R32, R38, R45, R51-R55, R125, R130,
R135, R142, R160, R169-R186, R207, R231-R247, R271, R279, R291). A field is read as a number with bit 0
its least significant bit; bytes are little-endian (R9, R32).
-/
namespace Sys2Proof

/-! ### Operand fields -/

def encGuard (g : Guard) : Nat := bit g.neg * 16 + g.idx.toNat
def decGuard (w lo : Nat) : Guard := ⟨bitAt w (lo + 4), fld w lo 4⟩

def encLatch : Latch → Nat
  | .by0 => 0 | .by1 => 1 | .by2 => 2

def encSSrc : SSrc → Nat
  | .reg r => r.toNat | .latch k => 64 + encLatch k
def decSSrc (v : Nat) : Option SSrc :=
  if v < 64 then some (.reg (BitVec.ofNat 6 v))
  else if v = 64 then some (.latch .by0) else if v = 65 then some (.latch .by1)
  else if v = 66 then some (.latch .by2) else none

def encSDst : SDst → Nat
  | .reg r => r.toNat | .transient => 127
def decSDst (v : Nat) : Option SDst :=
  if v < 64 then some (.reg (BitVec.ofNat 6 v)) else if v = 127 then some .transient else none

def encVSrc : VSrc → Nat
  | .reg r => r.toNat | .latch k => 1024 + encLatch k
def decVSrc (v : Nat) : Option VSrc :=
  if v < 1024 then some (.reg (BitVec.ofNat 10 v))
  else if v = 1024 then some (.latch .by0) else if v = 1025 then some (.latch .by1)
  else if v = 1026 then some (.latch .by2) else none

def encVDst : VDst → Nat
  | .reg r => r.toNat | .transient => 2047
def decVDst (v : Nat) : Option VDst :=
  if v < 1024 then some (.reg (BitVec.ofNat 10 v)) else if v = 2047 then some .transient else none

/-- An S register that may be no latch and no `by`. -/
def decSReg (v : Nat) : Option (BitVec 6) := if v < 64 then some (BitVec.ofNat 6 v) else none
/-- A vector register that may be no latch and no `by`. -/
def decVReg (v : Nat) : Option (BitVec 10) := if v < 1024 then some (BitVec.ofNat 10 v) else none

def encLevel : Level → Nat
  | .sp => 0 | .cp => 1 | .xs => 2 | .gl => 3
def decLevel (v : Nat) : Level :=
  match v % 4 with | 0 => .sp | 1 => .cp | 2 => .xs | _ => .gl

def encGroup : Group → Nat
  | .a => 0 | .b => 1
def decGroup (b : Bool) : Group := if b then .b else .a

def encLSize : LSize → Nat
  | .zb => 0 | .zh => 1 | .zw => 2 | .d => 3 | .sb => 4 | .sh => 5 | .sw => 6
def decLSize (v : Nat) : Option LSize :=
  match v with
  | 0 => some .zb | 1 => some .zh | 2 => some .zw | 3 => some .d
  | 4 => some .sb | 5 => some .sh | 6 => some .sw | _ => none

def encTSize : TSize → Nat
  | .b => 0 | .h => 1 | .w => 2 | .d => 3
def decTSize (v : Nat) : Option TSize :=
  match v with
  | 0 => some .b | 1 => some .h | 2 => some .w | 3 => some .d | _ => none

def encEltSize : EltSize → Nat
  | .b4 => 0 | .b2 => 1 | .b1 => 2
def decEltSize (v : Nat) : Option EltSize :=
  match v with | 0 => some .b4 | 1 => some .b2 | 2 => some .b1 | _ => none

/-- Keep an instruction only if a condition on its field holds. -/
def keepIf (b : Bool) (x : Option Instr) : Option Instr := if b then x else none

/-- Keep a decoded instruction only if it meets `Instr.wf`. -/
def wfOnly (x : Option Instr) : Option Instr := x.bind fun i => if i.wf then some i else none

/-! ### S slot (R142, R279) -/

def encS (op : Nat) (g : Guard) (rest : Nat) : Nat := op * 2 ^ 56 + encGuard g * 2 ^ 51 + rest

def encRR (op : Nat) (g : Guard) (d : SDst) (a b : SSrc) : Nat :=
  encS op g (encSDst d * 2 ^ 44 + encSSrc a * 2 ^ 37 + encSSrc b * 2 ^ 30)
def decRR (w : Nat) (k : Guard → SDst → SSrc → SSrc → Instr) : Option Instr :=
  keepIf (bits w 0 30 == 0) <| (decSDst (bits w 44 7)).bind fun d =>
    (decSSrc (bits w 37 7)).bind fun a => (decSSrc (bits w 30 7)).bind fun b =>
      some (k (decGuard w 51) d a b)

def encUn (op : Nat) (g : Guard) (d : SDst) (a : SSrc) : Nat :=
  encS op g (encSDst d * 2 ^ 44 + encSSrc a * 2 ^ 37)
def decUn (w : Nat) (k : Guard → SDst → SSrc → Instr) : Option Instr :=
  keepIf (bits w 0 37 == 0) <| (decSDst (bits w 44 7)).bind fun d =>
    (decSSrc (bits w 37 7)).bind fun a => some (k (decGuard w 51) d a)

def encRI (op : Nat) (g : Guard) (d : SDst) (a : SSrc) (imm : Word32) : Nat :=
  encS op g (encSDst d * 2 ^ 44 + encSSrc a * 2 ^ 37 + imm.toNat)
def decRI (w : Nat) (k : Guard → SDst → SSrc → Word32 → Instr) : Option Instr :=
  keepIf (bits w 32 5 == 0) <| (decSDst (bits w 44 7)).bind fun d =>
    (decSSrc (bits w 37 7)).bind fun a => some (k (decGuard w 51) d a (fld w 0 32))

def encCmp (op : Nat) (g : Guard) (pd : BitVec 4) (a b : SSrc) : Nat :=
  encS op g (pd.toNat * 2 ^ 47 + encSSrc a * 2 ^ 37 + encSSrc b * 2 ^ 30)
def decCmp (w : Nat) (k : Guard → BitVec 4 → SSrc → SSrc → Instr) : Option Instr :=
  keepIf (bits w 44 3 == 0 && bits w 0 30 == 0) <| (decSSrc (bits w 37 7)).bind fun a =>
    (decSSrc (bits w 30 7)).bind fun b => some (k (decGuard w 51) (fld w 47 4) a b)

def encPL (op : Nat) (g : Guard) (pd pa pb : BitVec 4) : Nat :=
  encS op g (pd.toNat * 2 ^ 47 + pa.toNat * 2 ^ 43 + pb.toNat * 2 ^ 39)
def decPL (w : Nat) (k : Guard → BitVec 4 → BitVec 4 → BitVec 4 → Instr) : Option Instr :=
  keepIf (bits w 0 39 == 0) <| some (k (decGuard w 51) (fld w 47 4) (fld w 43 4) (fld w 39 4))

/-- A form whose only operand is a source in [43:37]. -/
def encA (op : Nat) (g : Guard) (a : SSrc) : Nat := encS op g (encSSrc a * 2 ^ 37)
def decA (w : Nat) (k : Guard → SSrc → Instr) : Option Instr :=
  keepIf (bits w 44 7 == 0 && bits w 0 37 == 0) <|
    (decSSrc (bits w 37 7)).bind fun a => some (k (decGuard w 51) a)

/-- A form whose only operand is a code address in [21:0]. -/
def encTgt (op : Nat) (g : Guard) (t : CodeAddr) : Nat := encS op g t.toNat
def decTgt (w : Nat) (k : Guard → CodeAddr → Instr) : Option Instr :=
  keepIf (bits w 22 29 == 0) <| some (k (decGuard w 51) (fld w 0 22))

/-- The S-slot decoder (R51). -/
def decodeS (w : Nat) : Option Instr :=
  let g := decGuard w 51
  match bits w 56 8 with
  | 0x01 => decRR w .add
  | 0x02 => decRR w .sub
  | 0x03 => decRR w .and
  | 0x04 => decRR w .or
  | 0x05 => decRR w .xor
  | 0x06 => decRR w .shl
  | 0x07 => decRR w .shr
  | 0x08 => decRR w .sar
  | 0x09 => decRR w .rot
  | 0x0A => decRR w .min
  | 0x0B => decRR w .max
  | 0x0C => decRR w .minu
  | 0x0D => decRR w .maxu
  | 0x10 => decRI w .addi
  | 0x13 => decRI w .andi
  | 0x14 => decRI w .ori
  | 0x15 => decRI w .xori
  | 0x16 => decRI w .shli
  | 0x17 => decRI w .shri
  | 0x18 => decRI w .sari
  | 0x19 => decRI w .roti
  | 0x20 => decRR w .mul
  | 0x21 => decRR w .mulh
  | 0x22 => decRR w .mulhu
  | 0x24 => decRR w .div
  | 0x25 => decRR w .divu
  | 0x26 => decRR w .rem
  | 0x27 => decRR w .remu
  | 0x28 => decUn w .clz
  | 0x29 => decUn w .ctz
  | 0x2A => decUn w .popc
  | 0x2B => decUn w .bswap
  | 0x30 => (decSDst (bits w 44 7)).bind fun d => some (.li g d (fld w 0 44))
  | 0x31 => keepIf (bits w 20 17 == 0) <| (decSDst (bits w 44 7)).bind fun d =>
      (decSSrc (bits w 37 7)).bind fun a => some (.lih g d a (fld w 0 20))
  | 0x32 => keepIf (bits w 0 26 == 0) <| (decSDst (bits w 44 7)).bind fun d =>
      (decSSrc (bits w 37 7)).bind fun a => (decSSrc (bits w 30 7)).bind fun b =>
        some (.sel g d a b (fld w 26 4))
  | 0x38 => decCmp w .ceq
  | 0x39 => decCmp w .cne
  | 0x3A => decCmp w .clt
  | 0x3B => decCmp w .cltu
  | 0x3C => decCmp w .cle
  | 0x3D => decCmp w .cleu
  | 0x40 => decPL w .pand
  | 0x41 => decPL w .por
  | 0x42 => decPL w .pxor
  | 0x43 => keepIf (bits w 0 43 == 0) <| some (.pnot g (fld w 47 4) (fld w 43 4))
  | 0x48 => decTgt w .b
  | 0x49 => decTgt w .bp
  | 0x4A => keepIf (bits w 22 22 == 0) <| (decSDst (bits w 44 7)).bind fun d =>
      some (.call g d (fld w 0 22))
  | 0x4B => decA w .ret
  | 0x4C => decA w .jr
  | 0x4D => (decSSrc (bits w 44 7)).bind fun c => some (.loop g c (fld w 22 22) (fld w 0 22))
  | 0x4E => decTgt w .lbrk
  | 0x50 => keepIf (bits w 37 7 == 0 && bits w 0 25 == 0) <| (decSDst (bits w 44 7)).bind fun d =>
      some (.sysr g d (fld w 25 12))
  | 0x51 => keepIf (bits w 44 7 == 0 && bits w 0 25 == 0) <| (decSSrc (bits w 37 7)).bind fun a =>
      some (.sysw g a (fld w 25 12))
  | 0x52 => keepIf (bits w 16 35 == 0) <| some (.trap g (fld w 0 16))
  | 0x53 => keepIf (bits w 0 44 == 0) <| (decSDst (bits w 44 7)).bind fun d => some (.evpop g d)
  | 0x54 => keepIf (bits w 0 51 == 0) <| some (.halt g)
  | 0x58 => decA w .ipf
  | 0x59 => decA w .ipin
  | 0x5A => decA w .iunpin
  | _ => none

/-! ### VA and VB slots (R52, R53) -/

def encOp1 : Op1 → Nat
  | .pass => 0 | .fmul => 1 | .fma => 2 | .imul => 3 | .imulh => 4 | .and => 5 | .or => 6
  | .xor => 7 | .andn => 8 | .clmul => 9 | .clmulh => 10 | .cvt => 11
def decOp1 (v : Nat) : Option Op1 :=
  match v with
  | 0 => some .pass | 1 => some .fmul | 2 => some .fma | 3 => some .imul | 4 => some .imulh
  | 5 => some .and | 6 => some .or | 7 => some .xor | 8 => some .andn | 9 => some .clmul
  | 10 => some .clmulh | 11 => some .cvt | _ => none

def encOp2 : Op2 → Nat
  | .pass => 0 | .fadd => 1 | .fsub => 2 | .fmin => 3 | .fmax => 4 | .iadd => 5 | .isub => 6
  | .iadds => 7 | .isubs => 8 | .imin => 9 | .imax => 10 | .iminu => 11 | .imaxu => 12
  | .absd => 13 | .fcmp => 14 | .icmp => 15
def decOp2 (v : Nat) : Option Op2 :=
  match v with
  | 0 => some .pass | 1 => some .fadd | 2 => some .fsub | 3 => some .fmin | 4 => some .fmax
  | 5 => some .iadd | 6 => some .isub | 7 => some .iadds | 8 => some .isubs | 9 => some .imin
  | 10 => some .imax | 11 => some .iminu | 12 => some .imaxu | 13 => some .absd
  | 14 => some .fcmp | 15 => some .icmp | _ => none

def encOp3 : Op3 → Nat
  | .pass => 0 | .shl => 1 | .shr => 2 | .sar => 3 | .rot => 4 | .relu => 5 | .gelu => 6
  | .exp2 => 7 | .log2 => 8 | .rcp => 9 | .rsqrt => 10 | .sel => 11 | .pack => 12 | .unpack => 13
  | .perm => 14 | .bcast => 15 | .popc => 16 | .scanx => 17 | .rsum => 18 | .rmax => 19 | .xlg => 20
def decOp3 (v : Nat) : Option Op3 :=
  match v with
  | 0 => some .pass | 1 => some .shl | 2 => some .shr | 3 => some .sar | 4 => some .rot
  | 5 => some .relu | 6 => some .gelu | 7 => some .exp2 | 8 => some .log2 | 9 => some .rcp
  | 10 => some .rsqrt | 11 => some .sel | 12 => some .pack | 13 => some .unpack | 14 => some .perm
  | 15 => some .bcast | 16 => some .popc | 17 => some .scanx | 18 => some .rsum | 19 => some .rmax
  | 20 => some .xlg | _ => none

def encVType : VType → Nat
  | .f32 => 0 | .bf16x2 => 1 | .f16x2 => 2 | .i32 => 3 | .i16x2 => 4 | .i8x4 => 5
def decVType (v : Nat) : Option VType :=
  match v with
  | 0 => some .f32 | 1 => some .bf16x2 | 2 => some .f16x2 | 3 => some .i32 | 4 => some .i16x2
  | 5 => some .i8x4 | _ => none

def encChain (g : Guard) (c : Chain) : Nat :=
  encGuard g * 2 ^ 73 + encOp1 c.op1 * 2 ^ 67 + encOp2 c.op2 * 2 ^ 61 + encOp3 c.op3 * 2 ^ 55 +
  encVDst c.dst * 2 ^ 44 + encVSrc c.a * 2 ^ 33 + encVSrc c.b * 2 ^ 22 + encVSrc c.c * 2 ^ 11 +
  c.k.toNat * 2 ^ 7 + encVType c.ty * 2 ^ 4 + c.aux.toNat

def decodeV (f : VSlot) (w : Nat) : Option Instr :=
  keepIf (bits w 78 2 == 0) <| (decOp1 (bits w 67 6)).bind fun op1 =>
    (decOp2 (bits w 61 6)).bind fun op2 => (decOp3 (bits w 55 6)).bind fun op3 =>
    (decVDst (bits w 44 11)).bind fun dst => (decVSrc (bits w 33 11)).bind fun a =>
    (decVSrc (bits w 22 11)).bind fun b => (decVSrc (bits w 11 11)).bind fun c =>
    (decVType (bits w 4 3)).bind fun ty =>
      wfOnly (some (.vectorChain f (decGuard w 73) ⟨op1, op2, op3, dst, a, b, c, fld w 7 4, ty, fld w 0 4⟩))

/-! ### M slot (R125, R130) -/

def encMFmt : MFmt → Nat
  | .f32 => 0 | .bf16 => 1 | .f16 => 2 | .e4m3 => 3 | .e5m2 => 4 | .i8 => 5 | .log6 => 6
  | .bf16e4m3 => 7 | .bf16e5m2 => 8 | .bf16log6 => 9
def decMFmt (v : Nat) : Option MFmt :=
  match v with
  | 0 => some .f32 | 1 => some .bf16 | 2 => some .f16 | 3 => some .e4m3 | 4 => some .e5m2
  | 5 => some .i8 | 6 => some .log6 | 7 => some .bf16e4m3 | 8 => some .bf16e5m2
  | 9 => some .bf16log6 | _ => none

def encM (op : Nat) (g : Guard) (rest : Nat) : Nat := op * 2 ^ 44 + encGuard g * 2 ^ 39 + rest

def encPush (op : Nat) (g : Guard) (f : MFmt) (ai bi : BitVec 14) (pair : BitVec 5) (tr : Bool) : Nat :=
  encM op g (encMFmt f * 2 ^ 35 + ai.toNat * 2 ^ 21 + bi.toNat * 2 ^ 7 + pair.toNat * 4 + bit tr * 2)

def decPush (w : Nat) (k : Guard → MFmt → BitVec 14 → BitVec 14 → BitVec 5 → Instr) : Option Instr :=
  (decMFmt (bits w 35 4)).bind fun f =>
    some (k (decGuard w 39) f (fld w 21 14) (fld w 7 14) (fld w 2 5))

def decodeM (w : Nat) : Option Instr :=
  let g := decGuard w 39
  match bits w 44 4 with
  | 0x1 => keepIf (bits w 0 2 == 0) <| wfOnly (decPush w .mpush)
  | 0x2 => keepIf (bits w 0 2 == 0) <| wfOnly (decPush w .mpusht)
  | 0x3 => keepIf (bits w 0 39 == 0) <| some (.mshift g)
  | 0x4 => keepIf (bits w 0 39 == 0) <| some (.mhold g)
  | 0x5 =>
    let plane := bitAt w 38
    let row := fld w 31 7
    let clr := bitAt w 28
    match bits w 29 2 with
    | 0 => keepIf (bits w 11 17 == 0) <| (decVReg (bits w 0 11)).bind fun r =>
        some (.mdrain g plane row (.vec .va r) clr)
    | 1 => keepIf (bits w 11 17 == 0) <| (decVReg (bits w 0 11)).bind fun r =>
        some (.mdrain g plane row (.vec .vb r) clr)
    | 2 => keepIf (bits w 0 14 == 0) <| some (.mdrain g plane row (.sp .a (fld w 14 14)) clr)
    | _ => keepIf (bits w 0 14 == 0) <| some (.mdrain g plane row (.sp .b (fld w 14 14)) clr)
  | 0x6 => keepIf (bits w 0 37 == 0) <| wfOnly (some (.mclr g (bitAt w 37) (bitAt w 38)))
  | 0x7 => keepIf (bits w 0 39 == 0) <| some (.mswap g)
  | 0x8 => keepIf (bits w 0 19 == 0) <|
      if bitAt w 37 then some (.mmask g (bitAt w 38) (.sp (decGroup (bitAt w 36)) (fld w 19 17)))
      else keepIf (bits w 19 18 == 0) <| some (.mmask g (bitAt w 38) .ones)
  | 0x9 => keepIf (bits w 0 1 == 0) <| wfOnly (decPush w fun g f a b p => .mburst g f a b p (bitAt w 1))
  | 0xA => keepIf (bits w 0 39 == 0) <| some (.mend g)
  | _ => none

/-! ### K slot (R135) -/

def encK (op : Nat) (g : Guard) (rest : Nat) : Nat := op * 2 ^ 29 + encGuard g * 2 ^ 24 + rest

def decodeK (w : Nat) : Option Instr :=
  let g := decGuard w 24
  match bits w 29 3 with
  | 1 => keepIf (bits w 0 3 == 0) <| some (.kld g (fld w 18 6) (decGroup (bitAt w 17)) (fld w 3 14))
  | 2 => keepIf (bits w 0 1 == 0) <| some (.kldp g (fld w 18 6) (decGroup (bitAt w 17)) (fld w 1 16))
  | 3 => keepIf (bits w 0 12 == 0) <| some (.kmov g (fld w 18 6) (fld w 12 6))
  | 4 => keepIf (bits w 0 10 == 0) <| some (.kset g (fld w 18 6) (fld w 10 8))
  | _ => none

/-! ### L slot (R169-R178) -/

def encL (op : Nat) (g : Guard) (df dst : Nat) (base : BitVec 5) (lvl : Level) (form : Nat) : Nat :=
  op * 2 ^ 59 + encGuard g * 2 ^ 54 + df * 2 ^ 52 + dst * 2 ^ 41 + base.toNat * 2 ^ 36 +
  encLevel lvl * 2 ^ 34 + form

def encFile : VSlot → Nat
  | .va => 1 | .vb => 2
def decFile (v : Nat) : Option VSlot :=
  match v with | 1 => some .va | 2 => some .vb | _ => none

def decLV (w : Nat) (k : Guard → VSlot → BitVec 10 → BitVec 5 → Option Instr) : Option Instr :=
  (decFile (bits w 52 2)).bind fun f => (decVReg (bits w 41 11)).bind fun d =>
    k (decGuard w 54) f d (fld w 36 5)

def decLS (w : Nat) (k : Guard → BitVec 6 → BitVec 5 → Option Instr) : Option Instr :=
  keepIf (bits w 52 2 == 0) <| (decSReg (bits w 41 11)).bind fun d => k (decGuard w 54) d (fld w 36 5)

def decodeL (w : Nat) : Option Instr :=
  let lvl := decLevel (bits w 34 2)
  match bits w 59 5 with
  | 0x01 => keepIf (bits w 0 10 == 0) <| decLV w fun g f d b => wfOnly (some (.ldv g f d b lvl (fld w 10 24)))
  | 0x02 => keepIf (bits w 0 10 == 0) <| (decEltSize (bits w 27 2)).bind fun es => decLV w fun g f d b =>
      wfOnly (some (.ldvt g f d b lvl (fld w 29 5) es (fld w 10 17)))
  | 0x03 => keepIf (bits w 0 10 == 0) <| decLV w fun g f d b => wfOnly (some (.ldvp g f d b lvl (fld w 10 24)))
  | 0x04 => keepIf (bits w 0 12 == 0) <| (decVSrc (bits w 23 11)).bind fun ix => decLV w fun g f d b =>
      wfOnly (some (.ldvx g f d b lvl ix (fld w 12 11)))
  | 0x05 => keepIf (bits w 0 12 == 0 && lvl == .gl) <| (decVSrc (bits w 23 11)).bind fun ix =>
      decLV w fun g f d b => some (.ldvg g f d b ix (fld w 12 11))
  | 0x06 => (decLSize (bits w 31 3)).bind fun sz => decLS w fun g d b => some (.lds g d b lvl sz (fld w 0 31))
  | 0x07 => keepIf (bits w 0 21 == 0 && lvl == .sp) <| decLV w fun g f d b => some (.ldl g f d b (fld w 21 13))
  | 0x08 => keepIf (bits w 0 10 == 0 && lvl == .gl) <| decLV w fun g f d b => some (.ldgv g f d b (fld w 10 24))
  | 0x09 => (decLSize (bits w 31 3)).bind fun sz => decLS w fun g d b =>
      wfOnly (some (.ldacq g d b lvl sz (fld w 0 31)))
  | 0x0A => keepIf (bits w 41 13 == 0 && lvl == .gl && bits w 0 10 == 0) <|
      some (.pfg (decGuard w 54) (fld w 36 5) (fld w 10 24))
  | 0x0B => keepIf (bits w 52 2 == 0 && bits w 41 3 == 0 && bits w 0 10 == 0) <|
      wfOnly (some (.ldmc (decGuard w 54) (fld w 44 8) (fld w 36 5) lvl (fld w 19 15) (fld w 10 9)))
  | _ => none

/-! ### T slot (R170, R181-R186) -/

def encT (op : Nat) (g : Guard) (sf src : Nat) (base : BitVec 5) (lvl : Level) (form : Nat) : Nat :=
  op * 2 ^ 43 + encGuard g * 2 ^ 38 + sf * 2 ^ 35 + src * 2 ^ 24 + base.toNat * 2 ^ 19 +
  encLevel lvl * 2 ^ 17 + form

def decTV (w : Nat) (k : Guard → VSlot → VSrc → BitVec 5 → Option Instr) : Option Instr :=
  (decFile (bits w 35 3)).bind fun f => (decVSrc (bits w 24 11)).bind fun s =>
    k (decGuard w 38) f s (fld w 19 5)

def decTS (w : Nat) (k : Guard → SSrc → BitVec 5 → Option Instr) : Option Instr :=
  keepIf (bits w 35 3 == 0) <| (decSSrc (bits w 24 11)).bind fun s => k (decGuard w 38) s (fld w 19 5)

def encAtomic (op : Nat) (g : Guard) (src : SSrc) (base : BitVec 5) (wide ret uns : Bool) (cmp : Nat) : Nat :=
  encT op g 0 (encSSrc src) base .cp (bit wide * 2 ^ 16 + bit ret * 2 ^ 15 + bit uns * 2 ^ 14 + cmp * 2 ^ 7)

/-- The T slot. `stvp` stores the registers S and S + 1 (R181), so that its src names no latch (assumption log 96). -/
def decodeT (w : Nat) : Option Instr :=
  let lvl := decLevel (bits w 17 2)
  let wide := bitAt w 16
  let ret := bitAt w 15
  let uns := bitAt w 14
  match bits w 43 5 with
  | 0x01 => decTV w fun g f s b => wfOnly (some (.stv g f s b lvl (fld w 0 17)))
  | 0x02 => (decFile (bits w 35 3)).bind fun f => (decVReg (bits w 24 11)).bind fun s =>
      wfOnly (some (.stvp (decGuard w 38) f s (fld w 19 5) lvl (fld w 0 17)))
  | 0x03 => keepIf (bits w 0 6 == 0) <| (decVReg (bits w 6 11)).bind fun ix => decTV w fun g f s b =>
      wfOnly (some (.stvx g f s b lvl ix))
  | 0x04 => keepIf (lvl == .gl) <|
      if wide then keepIf (bits w 0 5 == 0) <| (decVReg (bits w 5 11)).bind fun ix => decTV w fun g f s b =>
        some (.stvgScatter g f s b ix)
      else decTV w fun g f s b => some (.stvg g f s b (fld w 0 16))
  | 0x05 => (decTSize (bits w 14 3)).bind fun sz => decTS w fun g s b => some (.sts g s b lvl sz (fld w 0 14))
  | 0x06 => keepIf (bits w 0 4 == 0 && lvl == .sp) <| decTV w fun g f s b => some (.stl g f s b (fld w 4 13))
  | 0x07 => (decEltSize (bits w 8 2)).bind fun sz => decTV w fun g f s b =>
      some (.stsv g f s b lvl (fld w 10 7) sz (fld w 0 8))
  | 0x08 => (decTSize (bits w 14 3)).bind fun sz => decTS w fun g s b =>
      wfOnly (some (.strel g s b lvl sz (fld w 0 14)))
  | 0x09 => keepIf (bits w 0 4 == 0 && lvl == .cp) <| decTS w fun g s b => some (.ffill g s b (fld w 4 13))
  | 0x0A => keepIf (lvl == .cp && bits w 0 15 == 0) <| decTS w fun g s b => some (.aadd g s b wide ret)
  | 0x0B => keepIf (lvl == .cp && bits w 0 14 == 0) <| decTS w fun g s b => some (.amin g s b wide ret uns)
  | 0x0C => keepIf (lvl == .cp && bits w 0 14 == 0) <| decTS w fun g s b => some (.amax g s b wide ret uns)
  | 0x0D => keepIf (lvl == .cp && bits w 0 15 == 0) <| decTS w fun g s b => some (.axchg g s b wide ret)
  | 0x0E => keepIf (lvl == .cp && bits w 0 7 == 0 && !uns) <| (decSReg (bits w 7 7)).bind fun cm =>
      decTS w fun g s b => some (.acas g s cm b wide ret)
  | _ => none

/-! ### X slot (R160, R231-R247) -/

def encX (op : Nat) (g : Guard) (rest : Nat) : Nat := op * 2 ^ 43 + encGuard g * 2 ^ 38 + rest

def encXDst : XDst → Nat × Nat
  | .s r => (0, r.toNat) | .va r => (1, r.toNat) | .vb r => (2, r.toNat) | .ka r => (3, r.toNat)
  | .kb r => (4, r.toNat) | .la r => (5, r.toNat) | .ta r => (6, r.toNat) | .xa r => (7, r.toNat)
def decXDst (f v : Nat) : Option XDst :=
  match f with
  | 0 => (decSReg v).map .s
  | 1 => (decVReg v).map .va
  | 2 => (decVReg v).map .vb
  | 3 => if v < 16 then some (.ka (BitVec.ofNat 4 v)) else none
  | 4 => if v < 16 then some (.kb (BitVec.ofNat 4 v)) else none
  | 5 => if v < 32 then some (.la (BitVec.ofNat 5 v)) else none
  | 6 => if v < 32 then some (.ta (BitVec.ofNat 5 v)) else none
  | 7 => if v < 32 then some (.xa (BitVec.ofNat 5 v)) else none
  | _ => none

def encXSrc : XSrc → Nat × Nat
  | .s r => (0, encSSrc r) | .va r => (1, encVSrc r) | .vb r => (2, encVSrc r) | .ka r => (3, r.toNat)
  | .kb r => (4, r.toNat) | .la r => (5, r.toNat) | .ta r => (6, r.toNat) | .xa r => (7, r.toNat)
def decXSrc (f v : Nat) : Option XSrc :=
  match f with
  | 0 => (decSSrc v).map .s
  | 1 => (decVSrc v).map .va
  | 2 => (decVSrc v).map .vb
  | 3 => if v < 16 then some (.ka (BitVec.ofNat 4 v)) else none
  | 4 => if v < 16 then some (.kb (BitVec.ofNat 4 v)) else none
  | 5 => if v < 32 then some (.la (BitVec.ofNat 5 v)) else none
  | 6 => if v < 32 then some (.ta (BitVec.ofNat 5 v)) else none
  | 7 => if v < 32 then some (.xa (BitVec.ofNat 5 v)) else none
  | _ => none

def encTinvSize : TinvSize → Nat
  | .k4 => 0 | .m2 => 1 | .g1 => 2 | .all => 3
def decTinvSize (v : Nat) : TinvSize :=
  match v % 4 with | 0 => .k4 | 1 => .m2 | 2 => .g1 | _ => .all

def encStashMode : StashMode → Nat
  | .raw => 0 | .zb => 1 | .f8 => 2
def decStashMode (v : Nat) : Option StashMode :=
  match v with | 0 => some .raw | 1 => some .zb | 2 => some .f8 | _ => none

def decodeX (w : Nat) : Option Instr :=
  let g := decGuard w 38
  match bits w 43 5 with
  | 0x01 => keepIf (bits w 0 3 == 0) <| (decXDst (bits w 35 3) (bits w 24 11)).bind fun d =>
      (decXSrc (bits w 21 3) (bits w 10 11)).bind fun s => wfOnly (some (.xcp g d s (fld w 3 7)))
  | 0x02 => keepIf (bits w 0 28 == 0) <| some (.cpy g (fld w 33 5) (fld w 28 5))
  | 0x03 => keepIf (bits w 0 20 == 0) <| wfOnly (some (.mc g (fld w 33 5) (fld w 28 5) (fld w 20 8)))
  | 0x04 => keepIf (bits w 0 26 == 0) <| (decStashMode (bits w 26 2)).bind fun m =>
      some (.stash g (fld w 33 5) (fld w 28 5) m)
  | 0x05 => keepIf (bits w 0 25 == 0) <| (decStashMode (bits w 26 2)).bind fun m =>
      some (.spill g (fld w 33 5) (fld w 28 5) m (bitAt w 25))
  | 0x06 => keepIf (bits w 0 28 == 0) <| some (.drop g (fld w 33 5) (fld w 28 5))
  | 0x07 => keepIf (bits w 0 27 == 0) <| some (.fetch g (fld w 33 5) (fld w 28 5) (bitAt w 27))
  | 0x08 => keepIf (bits w 0 28 == 0) <| some (.wver g (fld w 33 5) (fld w 28 5))
  | 0x09 => keepIf (bits w 0 17 == 0) <| some (.chsend g (fld w 33 5) (fld w 28 5) (fld w 23 5) (fld w 17 6))
  | 0x0A => keepIf (bits w 0 27 == 0) <| some (.chrecv g (fld w 33 5) (fld w 27 6))
  | 0x0B => keepIf (bits w 0 32 == 0) <| some (.cheos g (fld w 32 6))
  | 0x0C => keepIf (bits w 0 22 == 0) <| some (.redm g (fld w 33 5) (fld w 28 5) (fld w 22 6))
  | 0x0D => keepIf (bits w 0 26 == 0) <|
      wfOnly (some (.tinv g (fld w 33 5) (fld w 28 5) (decTinvSize (bits w 26 2))))
  | 0x0E => keepIf (bits w 0 21 == 0) <| some (.engw g (fld w 33 5) (fld w 21 12))
  | 0x0F => keepIf (bits w 0 26 == 0) <| some (.engr g (fld w 26 12))
  | _ => none

/-! ### Y slot (R207, R271, R291) -/

def encY (op : Nat) (g : Guard) (rest : Nat) : Nat := op * 2 ^ 27 + encGuard g * 2 ^ 22 + rest

def encPhMode : PhMode → Nat
  | .s => 1 | .w => 2 | .sw => 3
def decPhMode (v : Nat) : Option PhMode :=
  match v with | 1 => some .s | 2 => some .w | 3 => some .sw | _ => none

def encHR (op : Nat) (g : Guard) (h : BitVec 4) (r : Bool) : Nat := encY op g (h.toNat * 2 ^ 18 + bit r * 2 ^ 17)
def decHR (w : Nat) (k : Guard → BitVec 4 → Bool → Instr) : Option Instr :=
  keepIf (bits w 0 17 == 0) <| some (k (decGuard w 22) (fld w 18 4) (bitAt w 17))

def decodeY (w : Nat) : Option Instr :=
  let g := decGuard w 22
  match bits w 27 5 with
  | 0x01 => keepIf (bits w 0 6 == 0) <| (decPhMode (bits w 16 2)).bind fun m =>
      some (.phreg g (fld w 18 4) m (bitAt w 15) (fld w 6 9))
  | 0x02 => decHR w .phdrop
  | 0x03 => decHR w .phsig
  | 0x04 => decHR w .phwait
  | 0x05 => decHR w .phsw
  | 0x06 => keepIf (bits w 0 18 == 0) <|
      if bitAt w 21 then some (.pbaseInit g (fld w 18 3))
      else keepIf (bits w 18 3 == 0) <| some (.pbase g)
  | 0x07 => keepIf (bits w 0 15 == 0) <| (decSSrc (bits w 15 7)).bind fun a => some (.fwait g a)
  | 0x08 => keepIf (bits w 0 2 == 0) <|
      match bits w 20 2 with
      | 0 => keepIf (bits w 2 12 == 0) <| some (.dctrDec g (fld w 14 6))
      | 1 => some (.dctrSet g (fld w 14 6) (fld w 8 6) (fld w 2 6))
      | _ => none
  | 0x09 => keepIf (bits w 0 1 == 0) <| (decSReg (bits w 15 7)).bind fun k =>
      (decSReg (bits w 8 7)).bind fun t => (decSReg (bits w 1 7)).bind fun b => some (.spawn g k t b)
  | 0x0A => keepIf (bits w 0 22 == 0) <| some (.tend g)
  | 0x0B => keepIf (bits w 0 22 == 0) <| some (.tabort g)
  | 0x0C => keepIf (bits w 0 14 == 0) <| (decSDst (bits w 15 7)).bind fun d =>
      some (if bitAt w 14 then .frdOwn g d else .frd g d)
  | 0x0D => keepIf (bits w 0 22 == 0) <| some (.tokacq g)
  | 0x0E => keepIf (bits w 0 22 == 0) <| some (.tokrel g)
  | 0x0F => keepIf (bits w 0 8 == 0) <| (decSSrc (bits w 15 7)).bind fun a =>
      (decSSrc (bits w 8 7)).bind fun b => some (.ntile g a b)
  | 0x10 => keepIf (bits w 0 14 == 0) <|
      wfOnly (some (.fence g (bitAt w 21) (bitAt w 20) (bitAt w 19) (bitAt w 18) (fld w 14 4)))
  | 0x11 => keepIf (bits w 0 14 == 0) <| some (.evwait g (fld w 14 8))
  | _ => none

/-- The instruction in the field of a slot, or none where R55 calls it an illegal operation. -/
def decodeField (sl : Slot) (w : Nat) : Option Instr :=
  match sl with
  | .s => decodeS w
  | .va => decodeV .va w
  | .vb => decodeV .vb w
  | .m => decodeM w
  | .k => decodeK w
  | .l => decodeL w
  | .t => decodeT w
  | .x => decodeX w
  | .y => decodeY w

/-! ### The encoder -/

def VSlot.slot : VSlot → Slot
  | .va => .va | .vb => .vb

def encXcp (g : Guard) (d : XDst) (s : XSrc) (lane : BitVec 7) : Nat :=
  encX 0x01 g ((encXDst d).1 * 2 ^ 35 + (encXDst d).2 * 2 ^ 24 + (encXSrc s).1 * 2 ^ 21 +
    (encXSrc s).2 * 2 ^ 10 + lane.toNat * 2 ^ 3)

/-- The slot and the field of a slot operation; none for an event, which is no encoding. -/
def encodeField (i : Instr) : Option (Slot × Nat) :=
  match i with
  | .add g d a b => some (.s, encRR 0x01 g d a b)
  | .sub g d a b => some (.s, encRR 0x02 g d a b)
  | .and g d a b => some (.s, encRR 0x03 g d a b)
  | .or g d a b => some (.s, encRR 0x04 g d a b)
  | .xor g d a b => some (.s, encRR 0x05 g d a b)
  | .shl g d a b => some (.s, encRR 0x06 g d a b)
  | .shr g d a b => some (.s, encRR 0x07 g d a b)
  | .sar g d a b => some (.s, encRR 0x08 g d a b)
  | .rot g d a b => some (.s, encRR 0x09 g d a b)
  | .min g d a b => some (.s, encRR 0x0A g d a b)
  | .max g d a b => some (.s, encRR 0x0B g d a b)
  | .minu g d a b => some (.s, encRR 0x0C g d a b)
  | .maxu g d a b => some (.s, encRR 0x0D g d a b)
  | .addi g d a i => some (.s, encRI 0x10 g d a i)
  | .andi g d a i => some (.s, encRI 0x13 g d a i)
  | .ori g d a i => some (.s, encRI 0x14 g d a i)
  | .xori g d a i => some (.s, encRI 0x15 g d a i)
  | .shli g d a i => some (.s, encRI 0x16 g d a i)
  | .shri g d a i => some (.s, encRI 0x17 g d a i)
  | .sari g d a i => some (.s, encRI 0x18 g d a i)
  | .roti g d a i => some (.s, encRI 0x19 g d a i)
  | .mul g d a b => some (.s, encRR 0x20 g d a b)
  | .mulh g d a b => some (.s, encRR 0x21 g d a b)
  | .mulhu g d a b => some (.s, encRR 0x22 g d a b)
  | .div g d a b => some (.s, encRR 0x24 g d a b)
  | .divu g d a b => some (.s, encRR 0x25 g d a b)
  | .rem g d a b => some (.s, encRR 0x26 g d a b)
  | .remu g d a b => some (.s, encRR 0x27 g d a b)
  | .clz g d a => some (.s, encUn 0x28 g d a)
  | .ctz g d a => some (.s, encUn 0x29 g d a)
  | .popc g d a => some (.s, encUn 0x2A g d a)
  | .bswap g d a => some (.s, encUn 0x2B g d a)
  | .li g d i => some (.s, encS 0x30 g (encSDst d * 2 ^ 44 + i.toNat))
  | .lih g d a i => some (.s, encS 0x31 g (encSDst d * 2 ^ 44 + encSSrc a * 2 ^ 37 + i.toNat))
  | .sel g d a b pp => some (.s, encRR 0x32 g d a b + pp.toNat * 2 ^ 26)
  | .ceq g p a b => some (.s, encCmp 0x38 g p a b)
  | .cne g p a b => some (.s, encCmp 0x39 g p a b)
  | .clt g p a b => some (.s, encCmp 0x3A g p a b)
  | .cltu g p a b => some (.s, encCmp 0x3B g p a b)
  | .cle g p a b => some (.s, encCmp 0x3C g p a b)
  | .cleu g p a b => some (.s, encCmp 0x3D g p a b)
  | .pand g p a b => some (.s, encPL 0x40 g p a b)
  | .por g p a b => some (.s, encPL 0x41 g p a b)
  | .pxor g p a b => some (.s, encPL 0x42 g p a b)
  | .pnot g p a => some (.s, encPL 0x43 g p a 0)
  | .b g t => some (.s, encTgt 0x48 g t)
  | .bp g t => some (.s, encTgt 0x49 g t)
  | .call g d t => some (.s, encS 0x4A g (encSDst d * 2 ^ 44 + t.toNat))
  | .ret g a => some (.s, encA 0x4B g a)
  | .jr g a => some (.s, encA 0x4C g a)
  | .loop g c e i => some (.s, encS 0x4D g (encSSrc c * 2 ^ 44 + e.toNat * 2 ^ 22 + i.toNat))
  | .lbrk g t => some (.s, encTgt 0x4E g t)
  | .sysr g d n => some (.s, encS 0x50 g (encSDst d * 2 ^ 44 + n.toNat * 2 ^ 25))
  | .sysw g a n => some (.s, encS 0x51 g (encSSrc a * 2 ^ 37 + n.toNat * 2 ^ 25))
  | .trap g c => some (.s, encS 0x52 g c.toNat)
  | .evpop g d => some (.s, encS 0x53 g (encSDst d * 2 ^ 44))
  | .halt g => some (.s, encS 0x54 g 0)
  | .ipf g a => some (.s, encA 0x58 g a)
  | .ipin g a => some (.s, encA 0x59 g a)
  | .iunpin g a => some (.s, encA 0x5A g a)
  | .vectorChain f g c => some (f.slot, encChain g c)
  | .mpush g f a b p => some (.m, encPush 0x1 g f a b p false)
  | .mpusht g f a b p => some (.m, encPush 0x2 g f a b p false)
  | .mburst g f a b p tr => some (.m, encPush 0x9 g f a b p tr)
  | .mshift g => some (.m, encM 0x3 g 0)
  | .mhold g => some (.m, encM 0x4 g 0)
  | .mdrain g p row t clr => some (.m, encM 0x5 g (bit p * 2 ^ 38 + row.toNat * 2 ^ 31 + bit clr * 2 ^ 28 +
      (match t with
       | .vec .va r => r.toNat
       | .vec .vb r => 1 * 2 ^ 29 + r.toNat
       | .sp .a ix => 2 * 2 ^ 29 + ix.toNat * 2 ^ 14
       | .sp .b ix => 3 * 2 ^ 29 + ix.toNat * 2 ^ 14)))
  | .mclr g p0 p1 => some (.m, encM 0x6 g (bit p0 * 2 ^ 37 + bit p1 * 2 ^ 38))
  | .mswap g => some (.m, encM 0x7 g 0)
  | .mmask g blk src => some (.m, encM 0x8 g (bit blk * 2 ^ 38 +
      (match src with
       | .ones => 0
       | .sp gr ix => 2 ^ 37 + encGroup gr * 2 ^ 36 + ix.toNat * 2 ^ 19)))
  | .mend g => some (.m, encM 0xA g 0)
  | .kld g e gr ix => some (.k, encK 1 g (e.toNat * 2 ^ 18 + encGroup gr * 2 ^ 17 + ix.toNat * 2 ^ 3))
  | .kldp g e gr ix => some (.k, encK 2 g (e.toNat * 2 ^ 18 + encGroup gr * 2 ^ 17 + ix.toNat * 2))
  | .kmov g d s => some (.k, encK 3 g (d.toNat * 2 ^ 18 + s.toNat * 2 ^ 12))
  | .kset g e c => some (.k, encK 4 g (e.toNat * 2 ^ 18 + c.toNat * 2 ^ 10))
  | .ldv g f d b l x => some (.l, encL 0x01 g (encFile f) d.toNat b l (x.toNat * 2 ^ 10))
  | .ldvt g f d b l st es x => some (.l, encL 0x02 g (encFile f) d.toNat b l
      (st.toNat * 2 ^ 29 + encEltSize es * 2 ^ 27 + x.toNat * 2 ^ 10))
  | .ldvp g f d b l x => some (.l, encL 0x03 g (encFile f) d.toNat b l (x.toNat * 2 ^ 10))
  | .ldvx g f d b l ix x => some (.l, encL 0x04 g (encFile f) d.toNat b l (encVSrc ix * 2 ^ 23 + x.toNat * 2 ^ 12))
  | .ldvg g f d b ix x => some (.l, encL 0x05 g (encFile f) d.toNat b .gl (encVSrc ix * 2 ^ 23 + x.toNat * 2 ^ 12))
  | .lds g d b l sz x => some (.l, encL 0x06 g 0 d.toNat b l (encLSize sz * 2 ^ 31 + x.toNat))
  | .ldl g f d b x => some (.l, encL 0x07 g (encFile f) d.toNat b .sp (x.toNat * 2 ^ 21))
  | .ldgv g f d b x => some (.l, encL 0x08 g (encFile f) d.toNat b .gl (x.toNat * 2 ^ 10))
  | .ldacq g d b l sz x => some (.l, encL 0x09 g 0 d.toNat b l (encLSize sz * 2 ^ 31 + x.toNat))
  | .pfg g b x => some (.l, encL 0x0A g 0 0 b .gl (x.toNat * 2 ^ 10))
  | .ldmc g rk b l tg nw => some (.l, encL 0x0B g 0 (rk.toNat * 2 ^ 3) b l (tg.toNat * 2 ^ 19 + nw.toNat * 2 ^ 10))
  | .stv g f s b l x => some (.t, encT 0x01 g (encFile f) (encVSrc s) b l x.toNat)
  | .stvp g f s b l x => some (.t, encT 0x02 g (encFile f) s.toNat b l x.toNat)
  | .stvx g f s b l ix => some (.t, encT 0x03 g (encFile f) (encVSrc s) b l (ix.toNat * 2 ^ 6))
  | .stvg g f s b x => some (.t, encT 0x04 g (encFile f) (encVSrc s) b .gl x.toNat)
  | .stvgScatter g f s b ix => some (.t, encT 0x04 g (encFile f) (encVSrc s) b .gl (2 ^ 16 + ix.toNat * 2 ^ 5))
  | .sts g s b l sz x => some (.t, encT 0x05 g 0 (encSSrc s) b l (encTSize sz * 2 ^ 14 + x.toNat))
  | .stl g f s b x => some (.t, encT 0x06 g (encFile f) (encVSrc s) b .sp (x.toNat * 2 ^ 4))
  | .stsv g f s b l ln sz x => some (.t, encT 0x07 g (encFile f) (encVSrc s) b l
      (ln.toNat * 2 ^ 10 + encEltSize sz * 2 ^ 8 + x.toNat))
  | .strel g s b l sz x => some (.t, encT 0x08 g 0 (encSSrc s) b l (encTSize sz * 2 ^ 14 + x.toNat))
  | .ffill g s b x => some (.t, encT 0x09 g 0 (encSSrc s) b .cp (x.toNat * 2 ^ 4))
  | .aadd g s b wd rt => some (.t, encAtomic 0x0A g s b wd rt false 0)
  | .amin g s b wd rt un => some (.t, encAtomic 0x0B g s b wd rt un 0)
  | .amax g s b wd rt un => some (.t, encAtomic 0x0C g s b wd rt un 0)
  | .axchg g s b wd rt => some (.t, encAtomic 0x0D g s b wd rt false 0)
  | .acas g s cm b wd rt => some (.t, encAtomic 0x0E g s b wd rt false cm.toNat)
  | .xcp g d s ln => some (.x, encXcp g d s ln)
  | .cpy g xs xd => some (.x, encX 0x02 g (xs.toNat * 2 ^ 33 + xd.toNat * 2 ^ 28))
  | .mc g xs xd rk => some (.x, encX 0x03 g (xs.toNat * 2 ^ 33 + xd.toNat * 2 ^ 28 + rk.toNat * 2 ^ 20))
  | .stash g xs xk m => some (.x, encX 0x04 g (xs.toNat * 2 ^ 33 + xk.toNat * 2 ^ 28 + encStashMode m * 2 ^ 26))
  | .spill g xs xk m lp => some (.x, encX 0x05 g (xs.toNat * 2 ^ 33 + xk.toNat * 2 ^ 28 +
      encStashMode m * 2 ^ 26 + bit lp * 2 ^ 25))
  | .drop g xh xk => some (.x, encX 0x06 g (xh.toNat * 2 ^ 33 + xk.toNat * 2 ^ 28))
  | .fetch g xd xk fr => some (.x, encX 0x07 g (xd.toNat * 2 ^ 33 + xk.toNat * 2 ^ 28 + bit fr * 2 ^ 27))
  | .wver g xs xk => some (.x, encX 0x08 g (xs.toNat * 2 ^ 33 + xk.toNat * 2 ^ 28))
  | .chsend g xs xg xt c => some (.x, encX 0x09 g (xs.toNat * 2 ^ 33 + xg.toNat * 2 ^ 28 + xt.toNat * 2 ^ 23 + c.toNat * 2 ^ 17))
  | .chrecv g xd c => some (.x, encX 0x0A g (xd.toNat * 2 ^ 33 + c.toNat * 2 ^ 27))
  | .cheos g c => some (.x, encX 0x0B g (c.toNat * 2 ^ 32))
  | .redm g xs xi wn => some (.x, encX 0x0C g (xs.toNat * 2 ^ 33 + xi.toNat * 2 ^ 28 + wn.toNat * 2 ^ 22))
  | .tinv g xv xn sz => some (.x, encX 0x0D g (xv.toNat * 2 ^ 33 + xn.toNat * 2 ^ 28 + encTinvSize sz * 2 ^ 26))
  | .engw g xv n => some (.x, encX 0x0E g (xv.toNat * 2 ^ 33 + n.toNat * 2 ^ 21))
  | .engr g n => some (.x, encX 0x0F g (n.toNat * 2 ^ 26))
  | .fence g rr rw wr ww sc => some (.y, encY 0x10 g (bit rr * 2 ^ 21 + bit rw * 2 ^ 20 + bit wr * 2 ^ 19 +
      bit ww * 2 ^ 18 + sc.toNat * 2 ^ 14))
  | .spawn g k t b => some (.y, encY 0x09 g (k.toNat * 2 ^ 15 + t.toNat * 2 ^ 8 + b.toNat * 2))
  | .tend g => some (.y, encY 0x0A g 0)
  | .tabort g => some (.y, encY 0x0B g 0)
  | .frd g d => some (.y, encY 0x0C g (encSDst d * 2 ^ 15))
  | .frdOwn g d => some (.y, encY 0x0C g (encSDst d * 2 ^ 15 + 2 ^ 14))
  | .phreg g h m ch ix => some (.y, encY 0x01 g (h.toNat * 2 ^ 18 + encPhMode m * 2 ^ 16 + bit ch * 2 ^ 15 + ix.toNat * 2 ^ 6))
  | .phdrop g h r => some (.y, encHR 0x02 g h r)
  | .phsig g h r => some (.y, encHR 0x03 g h r)
  | .phwait g h r => some (.y, encHR 0x04 g h r)
  | .phsw g h r => some (.y, encHR 0x05 g h r)
  | .pbaseInit g d => some (.y, encY 0x06 g (2 ^ 21 + d.toNat * 2 ^ 18))
  | .pbase g => some (.y, encY 0x06 g 0)
  | .fwait g a => some (.y, encY 0x07 g (encSSrc a * 2 ^ 15))
  | .dctrDec g n => some (.y, encY 0x08 g (n.toNat * 2 ^ 14))
  | .dctrSet g n k t => some (.y, encY 0x08 g (2 ^ 20 + n.toNat * 2 ^ 14 + k.toNat * 2 ^ 8 + t.toNat * 2 ^ 2))
  | .tokacq g => some (.y, encY 0x0D g 0)
  | .tokrel g => some (.y, encY 0x0E g 0)
  | .ntile g a b => some (.y, encY 0x0F g (encSSrc a * 2 ^ 15 + encSSrc b * 2 ^ 8))
  | .evwait g n => some (.y, encY 0x11 g (n.toNat * 2 ^ 14))
  | _ => none

/-! ### Bundles (R30-R34) -/

/-- A bundle as decoded: its marks, its present slots in mask order (none where the field is an
illegal operation), the expected-cycle word of a marker, and its length in 32-bit words. -/
structure Bundle where
  ovl : Bool
  mark : Bool
  seg : Bool
  safe : Bool
  slots : List (Slot × Option Instr)
  expected : Word32
  len : Nat
  deriving DecidableEq, Repr

/-- The present slots from bit `pos` on, and the bit where they end. -/
def decodeSlots (w mask : Nat) : List Slot → Nat → List (Slot × Option Instr) × Nat
  | [], pos => ([], pos)
  | sl :: rest, pos =>
    if bitAt mask sl.num then
      let r := decodeSlots w mask rest (pos + sl.width)
      ((sl, decodeField sl (bits w pos sl.width)) :: r.1, r.2)
    else decodeSlots w mask rest pos

/-- A draining fence must stand in a bundle marked seg (R207, R209). -/
def drainRefused (seg : Bool) (x : Option Instr) : Bool :=
  match x with
  | some (.fence _ _ _ wr _ sc) => fenceDrains wr sc && !seg
  | _ => false

/-- The bundle whose bits, from its first byte on, are `w`; none for an illegal bundle (R55). -/
def decodeBundle (w : Nat) : Option Bundle :=
  let hdr := bits w 0 16
  let mask := bits hdr 0 9
  let mark := bitAt hdr 11
  let seg := bitAt hdr 10
  let r := decodeSlots w mask Slot.all 16
  let total := r.2 + (if mark then 32 else 0)
  let padded := (total + 31) / 32 * 32
  if bits hdr 13 3 != 0 || (mark && bitAt mask 8) || bits w total (padded - total) != 0 then none
  else some
    { ovl := bitAt hdr 12, mark := mark, seg := seg, safe := bitAt hdr 9,
      slots := r.1.map fun x => (x.1, if drainRefused seg x.2 then none else x.2),
      expected := if mark then fld w r.2 32 else 0, len := padded / 32 }

/-- The words of a bundle by its header: the slots of its mask, a marker word, and padding to a whole word (R32). -/
def headerWords (hdr : Nat) : Nat :=
  (16 + ((Slot.all.filter fun sl => bitAt hdr sl.num).map (·.width)).sum + (if bitAt hdr 11 then 32 else 0) + 31) / 32

/-- The number whose little-endian bytes are the list (R9). -/
def leNat : List Byte → Nat
  | [] => 0
  | b :: bs => b.toNat + 256 * leNat bs

/-- The n little-endian bytes of a number. -/
def leBytes : Nat → Nat → List Byte
  | 0, _ => []
  | n + 1, w => BitVec.ofNat 8 w :: leBytes n (w / 256)

/-- A bundle from its bytes. -/
def decodeBytes (bs : List Byte) : Option Bundle := decodeBundle (leNat bs)

/-- The header of a bundle that holds only this slot: `seg` and `safe` for a draining fence. -/
def soloHeader (i : Instr) (sl : Slot) : Nat :=
  2 ^ sl.num + (if drainRefused false (some i) then 2 ^ 10 + 2 ^ 9 else 0)

/-- The bits of the bundle that holds only this slot operation, and its length in bytes. -/
def soloBundle (i : Instr) (sl : Slot) (field : Nat) : Nat × Nat :=
  (soloHeader i sl + field * 2 ^ 16, (16 + sl.width + 31) / 32 * 4)

/-- The bytes of a well-formed slot operation alone in a bundle (R32); empty for an event. -/
def encode (i : Instr) : List Byte :=
  match encodeField i with
  | some (sl, f) => leBytes (soloBundle i sl f).2 (soloBundle i sl f).1
  | none => []

/-! ### The word the host asks about -/

/-- A slot operation read from bare slot bits. The spec tells slots apart by the header's mask (R31),
which is not among these bits, so equal words of K and Y are told by this order: Y, then K
(assumption log 6). -/
def decodeTableWord (nbits w : Nat) : Option Instr :=
  match nbits with
  | 32 => (decodeY w).orElse fun _ => decodeK w
  | 48 => (decodeT w).orElse fun _ => (decodeX w).orElse fun _ => decodeM w
  | 64 => (decodeS w).orElse fun _ => decodeL w
  | 80 => decodeV .va w
  | _ => none

end Sys2Proof
end

