-- ==== Sys2Proof/Config.lean ====
section
/-!
DEFINITION. What is fixed for the machine (figures of spec/01 R28 and the rules named), and the free
values: opaque constants with no body, applied to the counter `State.free`. Nothing can be proved of
a particular free value, so a statement about one holds for every value (assumption log 1).
-/
namespace Sys2Proof.Config

/-- Hold-back window W in cycles (R28). -/
def W : Nat := 1620
/-- Sounder report bound in cycles (R28, R365). -/
def sounderBound : Nat := 1404
/-- Cycles from evaluation to the entry bundle (R319). -/
def dispatchDelay : Nat := 8
/-- Tasks in flight per stage (R23). -/
def maxInFlight : Nat := 256
/-- Scratchpad bytes per core, and the size of one bank group (R120, R166). -/
def spBytes : Nat := 0x300000
def groupBytes : Nat := 0x180000
/-- Bytes of one lane slice (R166). -/
def lsBytes : Nat := 0x2000
/-- Largest pool allocation in bytes (R166). -/
def poolMax : Nat := 20 * 2 ^ 20
/-- Chip scratchpad bytes (R28). -/
def xsBytes : Nat := 256 * 2 ^ 20
/-- Breakwater entries of 128 bytes per cluster (R378). -/
def breakwaterEntries : Nat := 16384
/-- Records of a core's event queue (R227). -/
def evqRecords : Nat := 128
/-- Stash entries of a context on a chip (R238). -/
def stashEntries : Nat := 8192
/-- Wait-table entries of a cluster (R304). -/
def waitEntries : Nat := 256
/-- Member records of the cluster and chip phaser tables (R292). -/
def clusterMembers : Nat := 512
def chipMembers : Nat := 4096
/-- Cycles between two polls of a future (R304). -/
def pollCycles : Nat := 128
/-- Cycles of one token hop (R310). -/
def hopCycles : Nat := 4
/-- Cycles of eviction (R269). -/
def evictCycles : Nat := 4096
/-- Cycles of 1 us (R327). -/
def microsecond : Nat := 2700

/-- Cycles of a second. -/
def second : Nat := 2700000000
/-- Units of the fault log (R386). -/
def logUnits : Nat := 65536
/-- Instruction-memory lines of a core (R345). -/
def imemLines : Nat := 4096

/-- An elapsed time that the architecture leaves open (R47, R222, R324, R406), in cycles. -/
opaque freeDelay : Nat → Nat
/-- Does the signature of an image in flash, given by its bytes, verify against the key in the boot ROM (R349)? -/
opaque signed : List (Nat × BitVec 8) → Bool
/-- A choice that the spec leaves open (R165, R201, R217, R338, R343). -/
opaque freeChoice : Nat → Bool
/-- The power in milliwatts that a voltage setting in millivolts and a clock guard band take from a die's share (R322, R384). -/
opaque marginPower (vdd guardBand : Nat) : Nat
/-- A value that the spec leaves open, as a number cut to the width that takes it. -/
opaque freeWord : Nat → Nat

end Sys2Proof.Config
end

