-- ==== Sys2Proof/Machine/State.lean ====
section
/-!
DEFINITION. The state of one Vekan 7 package as plain data: 192 cores, 24 clusters, 4 dies, up to 8
stages, their tasks, the contexts, and the chip. Every structure's default values are its reset values.
Fields marked MODEL are the model's own bookkeeping; INVENTORY.md names each field's rule.
-/
namespace Sys2Proof.Machine

/-- A sparse file: sorted by number, an unlisted number holds the default its reader names. -/
abbrev Table (α : Type) := List (Nat × α)

/-- Bytes by address, sorted, no zero byte listed: an unlisted address reads 0 (assumption log 2). -/
abbrev Memory := List Host.Cell

/-- The key of a task (R254). -/
structure Key where
  ts : Nat := 0
  origin : Nat := 0
  seq : Nat := 0
  deriving DecidableEq, Repr

/-! ### Results in flight and holds -/

/-- Where a result lands (R40, R41, R46). A write to `zm` carries the mask mode in bit 96. -/
inductive Dest
  | s (r : Nat) | p (r : Nat) | v (f : VSlot) (r : Nat) | k (f : VSlot) (r : Nat) | e (r : Nat)
  | la (r : Nat) | ta (r : Nat) | xa (r : Nat) | zm
  | byS | byV (f : VSlot) | sp (addr : Nat)
  deriving DecidableEq, Repr

/-- An exposed-latency result: lands in bundle `due`; only the bits of `lanes` set are written. -/
structure Result where
  due : Nat
  slot : Slot
  dest : Dest
  val : Nat
  /-- Bits of the destination that the result writes, as a mask of its width. -/
  mask : Nat
  /-- Exception flags of `fpc` that it raises at landing (R83). -/
  flags : Nat := 0
  /-- The issue bundle, for the signature (R373). -/
  issued : Nat := 0
  /-- Pieces of a chip-scratchpad load whose data is still held elsewhere (R266): bit position in the
  value, address, bytes; the stream freezes at `due` until they are read. -/
  wait : List (Nat × Nat × Nat) := []
  signed : Bool := false
  /-- Its place among the writes: a write with a lower identity precedes it (R187). -/
  mark : Nat := 0
  /-- An interlocked load that has arrived, or a next tile: no exposed-latency result (R65). -/
  kept : Bool := false
  /-- An acquire of the chip scratchpad (R204). -/
  acquire : Bool := false
  /-- Its late data has met poison: it writes nothing and faults where it would land (R371). -/
  bad : Bool := false
  deriving DecidableEq, Repr

/-- Why a bundle does not issue (R22, R287, R390). -/
inductive HoldCause
  | interlock | level | slack | shadow | residency | frontier | token | breakwater | ywait | acquire
  | records | place | window | absent | segment
  deriving DecidableEq, Repr

structure Hold where
  cause : HoldCause
  /-- Slot number, 15 for the whole bundle (R390). -/
  slot : Nat
  deriving DecidableEq, Repr

/-- What the last meaning decided about the bundle in issue (MODEL). -/
inductive Verdict
  | ok | held | faulted
  deriving DecidableEq, Repr

/-- A fault with the bundle and the slot that raised it (R56, R57). -/
structure FaultInfo where
  code : Nat
  core : Nat
  slot : Nat
  addr : CodeAddr
  /-- True for an execution fault: the other slots of its bundle complete. -/
  atExec : Bool := false
  /-- The slots of the bundle that completed (R393). -/
  done : Nat := 0
  /-- The bundle is a shadow-free point. -/
  safe : Bool := false
  trap : Nat := 0
  deriving DecidableEq, Repr

/-! ### The array (R116) -/

/-- A slice in transit (R118, R128). -/
structure Slice where
  beat : Nat
  plane : Bool
  fmt : MFmt
  closing : Bool
  tr : Bool
  pair : Nat
  /-- The A part and the B part as little-endian numbers. -/
  a : Nat
  b : Nat
  /-- The codes read at the edges so far, code i in bits [8i+7:8i]. -/
  sa : Nat := 0
  sb : Nat := 0
  deriving DecidableEq, Repr

/-- An open LOG6 block sum of one cell (R88, R127). -/
structure Block where
  sum : BitVec 48 := 0
  nar : Bool := false
  deriving DecidableEq, Repr

structure ArrayState where
  /-- Accumulators: plane * 9216 + row * 96 + column. -/
  z : Table Word32 := []
  active : Bool := false
  zm : BitVec 96 := BitVec.allOnes 96
  blockMode : Bool := false
  wave : List Slice := []
  beat : Nat := 0
  blk : Table Block := []
  mblk : Nat := 0
  burst : Bool := false
  /-- Bundle of the last FP32 push (R126). -/
  lastF32 : Option Nat := none
  deriving DecidableEq, Repr

/-! ### Sequencing (R276, R277) -/

structure Loop where
  start : CodeAddr
  last : CodeAddr
  count : Nat
  deriving DecidableEq, Repr

structure Latches (w : Nat) where
  b0 : BitVec w := 0
  b1 : BitVec w := 0
  b2 : BitVec w := 0
  deriving DecidableEq, Repr

/-- Register files of a core (R40, R42, R44). -/
structure Regs where
  s : Table Word64 := []
  p : Word16 := 0
  va : Table Vec := []
  vb : Table Vec := []
  ka : Table LaneMask := []
  kb : Table LaneMask := []
  e : Table (BitVec 768) := []
  la : Table Word64 := []
  ta : Table Word64 := []
  xa : Table Word64 := []
  byS : Latches 64 := {}
  byVA : Latches 4096 := {}
  byVB : Latches 4096 := {}
  byM : Latches 4096 := {}
  byK : Latches 768 := {}
  byL : Latches 64 := {}
  byT : Latches 64 := {}
  byX : Latches 64 := {}
  byY : Latches 16 := {}
  fpc : Word64 := 0
  fstat : Word64 := 0
  waitlim : Word64 := 0
  driftlim : Word64 := 0
  donemask : Word64 := 0
  /-- Lamport count of the core, `lclock` (R394). -/
  lclock : BitVec 40 := 0
  deriving DecidableEq, Repr

/-- The Y state of a core (R293, R299, R301, R311, R314). -/
structure YState where
  y : Table Word16 := []
  rbase : Nat := 0
  rdepth : Nat := 1
  ntc : Nat := 0
  ntp : Nat := 0
  tokreq : Bool := false
  /-- The signal step of the held `phsw` is done (R295). -/
  phswDone : Bool := false
  deriving DecidableEq, Repr

/-- A member record of a phaser (R292). -/
structure Member where
  tid : Nat
  rank : Nat
  mode : PhMode
  q : BitVec 32
  w : BitVec 32
  deriving DecidableEq, Repr

/-- A completed phase, kept until it is W old so that a rewind can undo it (R301). -/
structure PhaseDone where
  phase : BitVec 32
  arrived : Nat
  nsig : Nat
  counted : Nat
  cycle : Nat
  signallers : List (Nat × Nat)
  stamp : Nat
  deriving DecidableEq, Repr

structure Phaser where
  phase : BitVec 32 := 0
  nsig : Nat := 0
  arrived : Nat := 0
  members : List Member := []
  /-- The signals, and the drops of `s` and `sw` members, counted in the open phase (R297). -/
  counted : Nat := 0
  /-- Cores whose signal the open phase counts, each with the segment of its signal, and their largest stamp (R301, R394). -/
  signallers : List (Nat × Nat) := []
  stamp : Nat := 0
  hist : List PhaseDone := []
  deriving DecidableEq, Repr

/-- One operation on a phaser since the segment entry, for its undoing (R301). -/
inductive PhaserUndo
  | registered (idx : Nat) (m : Member)
  | dropped (idx : Nat) (m : Member) (phase : BitVec 32)
  | signalled (idx : Nat) (phase : BitVec 32) (m : Member)
  | waited (chip : Bool) (idx : Nat) (m : Member)
  deriving DecidableEq, Repr

/-- A rewind point (R140, R277, R301, R365, R389). -/
structure RewindPoint where
  cycle : Nat
  seg : Nat
  stream : Nat
  pc : CodeAddr
  loops : List Loop
  fpc : Word64
  fstat : Word64
  budget : Nat
  spawnSeq : Nat
  arr : ArrayState
  e : Table (BitVec 768)
  ys : YState
  cyc : Nat
  lclock : BitVec 40
  /-- Counter-operation numbers taken since (R308), oldest first. -/
  numbers : List Nat := []
  /-- Word 1 of a record of which word 0 has been popped, and the fences in force (R208, R253). -/
  half : Option Word64 := none
  fenceR : Nat := 0
  fenceW : Nat := 0
  /-- Masks on their way to `zm`, which belong to the array's state (R134, R140). -/
  masks : List Result := []
  /-- The cycle from which the segment's strikes are known (R365); none while it is current. -/
  freedAt : Option Nat := none
  deriving DecidableEq, Repr

/-- One slot operation of a rerun's signature (R373). -/
structure SigRec where
  issued : Nat
  slot : Slot
  bytes : List Byte
  deriving DecidableEq, Repr

/-- The two reruns under way on a core (R372). -/
structure Rerun where
  strike : Nat
  second : Bool := false
  count : Nat := 0
  count1 : Nat := 0
  sigs : List SigRec := []
  sig1 : Word64 := 0
  /-- The task had already left its cores (R367). -/
  left : Bool := false
  deriving DecidableEq, Repr

/-- An interlocked load in flight (R47, R188). -/
structure GLoad where
  id : Nat
  slot : Slot := .l
  dest : Dest
  val : Nat
  /-- Destination bits written. -/
  mask : Nat
  /-- The pieces to read when it lands: bit position in the value, address, bytes. -/
  reads : List (Nat × Nat × Nat)
  signed : Bool := false
  va : Nat := 0
  issued : Nat
  readyAt : Nat
  seg : Nat
  acquire : Bool := false
  /-- It reads an SO page (R200). -/
  so : Bool := false
  pasid : Nat := 0
  deriving DecidableEq, Repr

/-- Sequencing of a core (R46, R276-R289, R389, R390). -/
structure Seq where
  pc : CodeAddr := 0
  /-- MODEL: the target of a transfer taken in the bundle in issue. -/
  next : Option CodeAddr := none
  /-- MODEL: the bundle in issue, its length in words and whether it is a shadow-free point. -/
  blen : Nat := 0
  bmask : Nat := 0
  bsafe : Bool := false
  inBundle : Bool := false
  verdict : Verdict := .ok
  hold : Option Hold := none
  /-- Cycles for which the bundle at `pc` has been held (R390). -/
  held : Nat := 0
  efault : Option FaultInfo := none
  /-- MODEL: flags of `fpc` and `fstat` raised by the landings of this bundle (R83). -/
  raised : Nat := 0
  raisedStat : Nat := 0
  loops : List Loop := []
  /-- Bundles issued (R46). -/
  stream : Nat := 0
  /-- C of R389. -/
  cyc : Nat := 0
  flight : List Result := []
  gloads : List GLoad := []
  halted : Bool := false
  /-- The `halt` of the bundle at `pc` has completed and the bundle has not (R284). -/
  halting : Bool := false
  /-- The bundle at `pc` waits until its task is the frontier task (R262, R263). -/
  fronted : Bool := false
  /-- `fpc` as it stood at the issue of a bundle that has stopped part-way: its other slots keep it (R82, R393). -/
  bundleFpc : Option Word64 := none
  /-- The `halt` bundle and its cycle (R284). -/
  haltPc : CodeAddr := 0
  haltAt : Nat := 0
  /-- The core has issued `y.tend`, or a trap or an abort asks the task to stop after this bundle. -/
  ended : Bool := false
  trapped : List FaultInfo := []
  /-- The core stands at a requested stop (R287). -/
  stopped : Bool := false
  /-- The bundles still traced (R390). -/
  traceLeft : Nat := 0
  /-- The marker in issue has armed the trace, which begins with the next bundle (R390). -/
  armed : Bool := false
  /-- First cycle in which the core may issue (dispatch, release, restore). -/
  issueAt : Nat := 0
  /-- The stream is frozen by the service of a gather before this cycle (R192). -/
  frozen : Nat := 0
  /-- The cycle in which a `phsw` performed its signal step (R296). -/
  signalledAt : Option Nat := none
  /-- The cycle from which the held Y wait may issue (R296, R304). -/
  releaseAt : Option Nat := none
  /-- The cycle of the next poll of a held `fwait` that found the wait table full, or 0; and the cycle in which an
  `fwait` at `pc` was first tried and held (R304, R305). -/
  waitFrom : Nat := 0
  waitAt : Option Nat := none
  /-- The cell of that `fwait`. -/
  waitCell : Nat := 0
  /-- The bundle at `pc` has begun and stopped: issued again, its header has no effect again and its watch
  stop is not taken again (R392, R393). -/
  reissue : Bool := false
  deriving DecidableEq, Repr

/-- A dependence on a segment of another core of the cluster: until its writes are strike-clear (R218),
or, for a phaser's completion, until the cycle `due` (R301). -/
structure Dep where
  core : Nat
  seg : Nat
  due : Option Nat := none
  deriving DecidableEq, Repr

/-- Recovery bookkeeping of a core (R301, R365-R373, R218). -/
structure Recovery where
  rps : List RewindPoint := []
  seg : Nat := 0
  segStart : Nat := 0
  /-- Ends of the core's earlier segments that are younger than W: segment and cycle (R217, R218). -/
  ends : Table Nat := []
  /-- No bundle has issued since the rewind point was taken or restored. -/
  fresh : Bool := true
  /-- Granules accessed in the segment; true where the first access was a read (R366). -/
  seen : Table Bool := []
  prevSeen : Table Bool := []
  prevClear : Nat := 0
  /-- Operations on cluster phasers with the segment of each, newest first (R301). -/
  undo : List (Nat × PhaserUndo) := []
  rerun : Option Rerun := none
  /-- The unclear work of other cores that this core has used in its segment (R218, R301). -/
  deps : List Dep := []
  /-- Counter-operation numbers to be taken again by a rerun (R308). -/
  reuse : List Nat := []
  /-- Engine registers that the core has written, segment, number and value, and those that a rerun writes again (R231). -/
  engws : List (Nat × Nat × Word64) := []
  engwsAgain : List (Nat × Word64) := []
  /-- Until this cycle the core keeps the last task's rewind point, and the task that it was (R367). -/
  keepUntil : Nat := 0
  last : Option Nat := none
  deriving DecidableEq, Repr

/-! ### Tasks and stages -/

inductive TaskState
  | ready | running | waiting | swapped | ended | committed | aborted
  deriving DecidableEq, Repr

/-- A granule in a task's sets: a line of its first-level cache (R260, R261). Granule numbers are
2 * (address / 128), plus one for the chip scratchpad. -/
structure Line where
  gran : Nat
  rd : Bool
  wr : Bool
  core : Nat
  deriving DecidableEq, Repr

/-- A write to the chip scratchpad (`xs`) or to a physical address of global memory. -/
structure Write where
  /-- Its place in issue order. -/
  id : Nat := 0
  xs : Bool
  addr : Nat
  bytes : List Byte
  core : Nat
  seg : Nat
  /-- Release epoch of the core: a lower epoch of one core leaves first (R217). -/
  epoch : Nat := 0
  so : Bool := false
  rel : Bool := false
  un : Bool := false
  /-- For a release: the held writes of other cores that its core has observed, by their places (R205). -/
  after : List Nat := []
  /-- The cycle from which it is strike-clear; none until its segment ends (R217). -/
  clearAt : Option Nat := none
  deriving DecidableEq, Repr

/-- The event a stage handler must answer (R323). -/
structure HandlerEvent where
  code : Nat
  trap : Nat := 0
  core : Nat
  slot : Nat
  addr : CodeAddr
  /-- The bundle stays to be issued again with its done mask (R393). -/
  budgetOut : Bool := false
  cycle : Nat := 0
  deriving DecidableEq, Repr

/-- The record that the handler receives (R323). -/
structure HandlerRecord where
  stage : Nat
  key : Key
  kind : TaskKind
  tag : Nat
  code : Nat
  trap : Nat
  addr : CodeAddr
  slot : Nat
  budgetLeft : Nat
  deriving DecidableEq, Repr

/-- A team swap under way (R327): saving or restoring, and the cycle of its end. -/
inductive SwapPhase
  | none | saving (doneAt : Nat) | restoring (doneAt : Nat)
  deriving DecidableEq, Repr

/-- A task record (R17-R24, R254-R275). -/
structure Task where
  stage : Nat
  pasid : Nat
  kind : TaskKind
  tag : Nat
  key : Key
  budget : Nat
  full : Nat
  state : TaskState := .ready
  parent : Option Nat := none
  /-- The tile that created it: channel, producer and its number there (R249). -/
  tile : Option (Nat × Nat × Nat) := none
  /-- The bytes of its tile once it has committed, for reruns of its last segment, and whether they came poisoned (R253, R367). -/
  tileKept : Option (List Byte × Bool) := none
  /-- Cluster and team slot that it holds or was swapped from (R15, R327). -/
  cluster : Nat := 0
  slot : Nat := 0
  /-- True when it was swapped by a retirement or a withdrawal, and at once resumable (R375, R376). -/
  atOnce : Bool := false
  /-- Its save belongs to a retirement, which fails where it cannot be read (R376, R377). -/
  retiring : Bool := false
  lines : List Line := []
  /-- Its speculative writes, oldest first (R215). -/
  wlog : List Write := []
  deferred : Option FaultInfo := none
  event : Option HandlerEvent := none
  /-- Not to be dispatched after `y.tabort` until a retirement (R268). -/
  heldBack : Bool := false
  /-- The cycle in which it last entered its queue (R316). -/
  queuedAt : Nat := 0
  /-- The cycle from which its age counts, after it has been held back (R268). -/
  agedAt : Option Nat := none
  /-- Swapped, with its wait satisfied: it stands in its queue (R22, R316). -/
  resumable : Bool := false
  /-- The cycle of its entry bundle, once an evaluation has chosen it (R319). -/
  dispatchAt : Option Nat := none
  waitRun : Nat := 0
  swap : SwapPhase := .none
  /-- Rank that issued `y.tend`, the last halting core, or none (R273, R284). -/
  ender : Option Nat := none
  /-- The cycle in which it became the earliest task without a slot (R269). -/
  waitSince : Option Nat := none
  /-- It has aborted and leaves its cores once its results have landed; true when re-created (R267). -/
  leaving : Option Bool := none
  stamp : Nat := 0
  /-- Its run: children of an earlier run are no longer its children (R268). -/
  run : Nat := 0
  parentRun : Nat := 0
  /-- Rewinds with the two reruns when it resumes, from this strike cycle (R368). -/
  rewindAt : Option Nat := none
  committedAt : Nat := 0
  /-- The core that ended it, of which its commit is an event (R394). -/
  lead : Nat := 0
  /-- It aborts at the end of this cycle: whether it is re-created, and held back (R267, R268). -/
  abortDue : Option (Bool × Bool) := none
  deriving DecidableEq, Repr

/-- A section of code in the segment table (R285, R344-R346). -/
structure Overlay where
  frame : Nat
  lines : Nat
  /-- The overlay that an `ovl` bundle of this section copies; 0 for none. -/
  next : Nat := 0
  deriving DecidableEq, Repr

/-- A channel that the object declares as an input (R17, R246). -/
structure ChanDecl where
  chan : Nat
  kind : TaskKind
  deriving DecidableEq, Repr

/-- A data section of an object (R70): level code 0 `ls`, 1 `sp`, 2 `cp`, 3 `xs`, 4 `gl`. -/
structure Section where
  level : Nat
  resident : Bool
  offset : Nat
  data : List Byte
  deriving DecidableEq, Repr

/-- The object that a launch installs (R344-R346): code words by code address, bundle starts, segment
table, defaults and requests. A default budget of 0 is none. -/
structure Program where
  /-- Lines of the main code. -/
  codelen : Nat := 0
  code : Table Word32 := []
  starts : List Nat := []
  overlays : Table Overlay := []
  team : Nat := 1
  budgets : Table Nat := []
  woffset : Nat := 0
  slack : Table Nat := []
  pool : Nat := 0
  xs : Nat := 0
  chans : List ChanDecl := []
  sects : List Section := []
  deriving DecidableEq, Repr

/-- A successor registered with a counter (R306). -/
structure Successor where
  kind : TaskKind
  tag : Nat
  ts : Nat
  budget : Nat
  stage : Nat
  stamp : Nat := 0
  deriving DecidableEq, Repr

structure Counter where
  count : BitVec 24 := 0
  armed : Bool := false
  succ : Option Successor := none
  deriving DecidableEq, Repr

/-- A counter operation that has issued and is not yet performed (R308). -/
structure CounterOp where
  number : Nat
  core : Nat
  seg : Nat
  clearAt : Option Nat := none
  counter : Nat
  /-- Some count and successor for a set; none for a decrement. -/
  set : Option (Nat × Successor)
  tid : Nat
  addr : CodeAddr
  stamp : Nat
  deriving DecidableEq, Repr

/-- What a pending chip-phaser operation does (R298). -/
inductive PhaserAct
  | join (mode : PhMode) | signal | leave
  deriving DecidableEq, Repr

/-- A chip-phaser operation on its way, or a pool atomic (R186, R298). -/
structure PhaserOp where
  core : Nat
  rank : Nat
  tid : Nat
  seg : Nat
  clearAt : Option Nat := none
  index : Nat
  act : PhaserAct
  stamp : Nat
  /-- Its place among the writes of its core, and the held writes of others that the core has observed (R205, R298). -/
  id : Nat := 0
  after : List Nat := []
  deriving DecidableEq, Repr

inductive AtomicKind
  | add | minS | minU | maxS | maxU | xchg | cas | store
  deriving DecidableEq, Repr

/-- A pending pool atomic or a pool release that waits for one (R186, R205). -/
structure Atomic where
  core : Nat
  tid : Nat
  seg : Nat
  clearAt : Option Nat := none
  kind : AtomicKind
  bytes : Nat
  addr : Nat
  v : Word64
  /-- The compare value; for a release, the mask of its bytes that no later write of the core replaces. -/
  cmp : Word64 := 0
  ret : Bool := false
  bundle : CodeAddr
  /-- A release by a speculative task also waits for its commit. -/
  atCommit : Bool := false
  stamp : Nat := 0
  /-- Its place among the writes of its core, and the run of its task (R205, R228). -/
  id : Nat := 0
  run : Nat := 0
  deriving DecidableEq, Repr

/-- A stage (R13-R16, R254-R264, R308, R316-R321). -/
structure Stage where
  valid : Bool := false
  clusters : List Nat := []
  team : Nat := 1
  pasid : Nat := 0
  starve : Nat := 1
  wdef : Nat := 0
  tide : Table Word64 := []
  prog : Option Program := none
  /-- Next seq of each origin but the cores' (R254). -/
  seqs : Table Nat := []
  commitPoint : Key := {}
  frontier : Option Nat := none
  /-- System register `frontier` as it reads in this cycle (R258). -/
  frontReg : Word64 := BitVec.allOnes 64
  /-- The first cycle after the frontier task's commit burst (R264). -/
  burstEnd : Nat := 0
  lastRetire : Option Nat := none
  lastB : Option Nat := none
  /-- The cycles of the evaluations that are due (R319). -/
  evalAt : List Nat := []
  ctrNext : Nat := 0
  ctrDone : Nat := 0
  ctrOps : List CounterOp := []
  /-- Counter enqueues that wait for a place (R23). -/
  waiting : List (Successor × Nat) := []
  evictAt : Option Nat := none
  /-- Granules committed in this cycle by the frontier task (R265). -/
  committed : List Nat := []
  /-- Slots out of service: 8 * cluster + team slot (R15). -/
  lost : List Nat := []
  deriving DecidableEq, Repr

/-! ### Clusters, dies -/

/-- An entry of a cluster's wait table (R304). -/
structure WaitEntry where
  cell : Nat
  tid : Nat
  rank : Nat
  deriving DecidableEq, Repr

structure Held where
  w : Write
  pasid : Nat
  stage : Nat
  key : Key
  /-- Its place in the order in which writes were committed, and the cycle in which it was. -/
  ord : Nat := 0
  since : Nat := 0
  /-- An error that could not be corrected has poisoned the entry's bytes (R369). -/
  poison : Bool := false
  deriving DecidableEq, Repr

structure Cluster where
  pool : Memory := []
  /-- Last writer of each pool byte: core, segment and cycle (R218). -/
  poolBy : Table (Nat × Nat × Nat) := []
  phasers : Table Phaser := []
  waits : List WaitEntry := []
  fpoll : BitVec 32 := 0
  held : List Held := []
  hasToken : Bool := false
  inService : Bool := true
  sounders : Nat := 48
  /-- Restarts of the recovery under way (R375). -/
  restarts : Nat := 0
  /-- The places of the data errors whose reruns go on: core, structure and address (R370). -/
  errors : List (Nat × ErrorSite × Nat) := []
  /-- The cycle in which the register phase of its context's save began here (R328). -/
  savingAt : Option Nat := none
  /-- Out of service, it has passed a self-test since (R364, R375). -/
  passed : Bool := false
  /-- What the cluster's 16 ageing monitors measured last, in picoseconds (R384). -/
  slack : List Nat := List.replicate 16 0
  /-- Rail `vdd_core` in millivolts: 0.70 V nominal, set by margin re-planning (R360, R384). -/
  vdd : Nat := 700
  guardBand : Nat := 0
  /-- Lamport counts of the synchronisation engine (R394). -/
  syncClock : Nat := 0
  deriving DecidableEq, Repr

/-- A free power token: the cluster of the die at which it stands and the cycle of its next hop (R310). -/
structure Token where
  pos : Nat
  hopAt : Nat
  deriving DecidableEq, Repr

structure Die where
  headroom : Nat := 0
  temp : Nat := 3
  tokens : List Token := [⟨0, 0⟩]
  /-- Tokens to withdraw as they pass (R310). -/
  surplus : Nat := 0
  /-- The cycle of the last publication, and the classes that stood before it: evaluations of that cycle see them (R322). -/
  before : Option (Nat × Nat × Nat) := none
  /-- The last junction temperature reported, and the highest since the last publication (R322, R361). -/
  junction : Nat := 0
  hottest : Option Nat := none
  /-- Its share of the package's 2,400 W, in watts, set with a stage plan; what the four shares leave is set aside (R322). -/
  share : Nat := 0
  deriving DecidableEq, Repr

/-! ### Engines, stash, channels, reductions (spec/11, spec/08) -/

/-- A shape record as read at issue (R225). -/
structure Shape where
  base : Nat := 0
  lvl : Nat := 0
  fmt : Nat := 0
  ndim : Nat := 1
  tr : Bool := false
  chip : Nat := 0
  sizes : List Nat := []
  strides : List Int := []
  scale : Nat := 0
  deriving DecidableEq, Repr

/-- What an engine operation does, with the operands read at its issue (R221, R226). -/
inductive EngCmd
  | copy (d s : Shape) (ranks : Option Nat)
  | tinv (va count : Nat) (size : TinvSize)
  | stash (key : Nat) (s : Shape) (mode : StashMode)
  | spill (key : Nat) (s : Shape) (mode : StashMode) (lp : Bool)
  | drop (key : Nat) (handle : Word64)
  | fetch (key : Nat) (d : Shape) (free : Bool)
  | wver (key : Nat) (s : Shape)
  | chsend (s : Shape) (tag ts chan : Nat)
  | chrecv (d : Shape) (chan : Nat)
  | cheos (chan : Nat)
  | redm (win index : Nat) (elems : List Word32)
  | engr (num : Nat)
  /-- A performed pool atomic whose record waits for room (R186, R228). -/
  | atomic
  deriving DecidableEq, Repr

/-- An engine operation of a queue (R221). -/
structure EngOp where
  id : Nat
  cmd : EngCmd
  core : Nat
  tid : Nat
  addr : CodeAddr
  seg : Nat
  /-- The cycle from which its bundle is strike-clear; none while its segment runs (R213). -/
  clearAt : Option Nat := none
  started : Bool := false
  /-- It ends no earlier than this cycle, once started. -/
  doneAt : Nat := 0
  /-- Source elements as read, each with its scale code; the status with which the read ended. -/
  elems : List (Nat × Nat) := []
  /-- Stored form or tile bytes snapshotted at issue. -/
  data : List Byte := []
  status : Nat := 0
  word1 : Word64 := 0
  /-- Its effect has left (a tile sent, a contribution made). -/
  sent : Bool := false
  /-- Completed, its record held in the engine for want of room (R228). -/
  complete : Bool := false
  stamp : Nat := 0
  /-- It holds a place in a window, or its token stands for the end of its stream (R248, R250). -/
  took : Bool := false
  /-- Held writes of other cores that its core has observed (R205, R206). -/
  after : List Nat := []
  deriving DecidableEq, Repr

/-- One engine queue: its operations in issue order, the active one first (R221). -/
abbrev EngQueue := List EngOp

/-- A completion record (R227). -/
structure EvRecord where
  w0 : Word64
  w1 : Word64
  op : Nat
  seg : Nat
  stamp : Nat := 0
  deriving DecidableEq, Repr

/-- An `l.ldmc` that has issued (R178-R180): the bundle in which it lands, its target ranks and offset,
its data, and the pieces still held elsewhere: position, address, bytes (R266). -/
structure Ldmc where
  /-- Its late data has met poison (R371). -/
  bad : Bool := false
  due : Nat
  ranks : Nat
  tgt : Nat
  data : List Byte
  wait : List (Nat × Nat × Nat) := []
  mark : Nat := 0
  issued : Nat := 0
  deriving DecidableEq, Repr

/-- An engine's request for a bank of the scratchpad that waits (R193): the refusals that count, and the cycle of the last. -/
structure BankRequest where
  bank : Nat
  refusals : Nat := 0
  last : Option Nat := none
  deriving DecidableEq, Repr

/-- The first window of a channel that an `x.engw` has made valid, to be advertised to one producer once it is released
(R246, R379). -/
structure WindowNote where
  pasid : Nat
  chan : Nat
  prod : Nat
  upto : Nat
  seg : Nat
  clearAt : Option Nat := none
  deriving DecidableEq, Repr

/-- Engine side of a core (R221, R227, R228, R231, R254). -/
structure Engines where
  copyQ : EngQueue := []
  stashQ : EngQueue := []
  chanQ : EngQueue := []
  redQ : EngQueue := []
  /-- `x.engr` operations in flight. -/
  regQ : EngQueue := []
  /-- Shadow commands saved with the register state (R252, R327). -/
  shadows : EngQueue := []
  evq : List EvRecord := []
  /-- Word 1 of the record popped last is the next word (R228). -/
  half : Option Word64 := none
  spawnSeq : Nat := 0
  atomics : List Atomic := []
  phaserOps : List PhaserOp := []
  /-- Release epoch of the core's writes (R217). -/
  epoch : Nat := 0
  /-- An `l.ldmc` of the core on its way. -/
  ldmc : Option Ldmc := none
  /-- Engine requests for banks of the scratchpad, oldest first (R193). -/
  requests : List BankRequest := []
  /-- Held writes of other cores of the cluster that the core has observed, by their places (R205). -/
  observed : List Nat := []
  /-- Lines of UN pages held in the first-level cache: physical granule and its bytes (R201). -/
  unLines : Table (List Byte) := []
  /-- Earlier UN writes not yet sent to the breakwater (R201). -/
  unWrites : List Write := []
  /-- A draining fence waits for every held write of the core (R209). -/
  draining : Bool := false
  /-- A fence puts the loads up to this place before every later load, and before every later store (R208); 0 for none. -/
  fenceR : Nat := 0
  fenceW : Nat := 0
  clocks : List Nat := [0, 0, 0, 0]
  notes : List WindowNote := []
  deriving DecidableEq, Repr

inductive StashState
  | pending | kept | spilled | returning | dropped
  deriving DecidableEq, Repr

/-- A stash entry (R238). -/
structure StashEntry where
  /-- Units of the arena that its command waits for while entries move out for it (R240). -/
  claim : Nat := 0
  /-- Its return has found the arena full, and waits for a `fetch` with free (R242). -/
  full : Bool := false
  key : Nat
  state : StashState
  mode : StashMode := .raw
  fmt : Nat := 0
  sizes : List Nat := []
  stored : List Byte := []
  /-- The 128-byte units of the arena or of the spill region that hold its stored form. -/
  place : List Nat := []
  handle : Word64 := 0
  lp : Bool := false
  /-- The operation that made it, while it is pending. -/
  op : Nat := 0
  /-- End of the move under way (pressure spill or return). -/
  moveAt : Option Nat := none
  /-- Its place among the entries that a prefetch has asked for. -/
  wanted : Option Nat := none
  deriving DecidableEq, Repr

/-- A producer of an in-channel (R249, R256). -/
structure Producer where
  arrived : Nat := 0
  watermark : Option Nat := none
  token : Bool := false
  /-- Tiles whose place has been freed; the advertised window is win + 1 beyond it. -/
  freed : Nat := 0
  /-- Tiles that have come before one of an earlier sequence number (R357). -/
  early : List Tile := []
  deriving DecidableEq, Repr

/-- A tile in its buffer slot, with the task it created (none while it waits for a place, R23). -/
structure TileSlot where
  prod : Nat
  number : Nat
  seq : Nat
  tag : Nat
  ts : Nat
  /-- Its slot of the receive buffer. -/
  place : Nat
  tid : Option Nat
  stamp : Nat
  deriving DecidableEq, Repr

structure InChan where
  valid : Bool := false
  kind : Bool := false
  win : Nat := 0
  nprod : Nat := 0
  err : Bool := false
  tilesz : Nat := 0
  buf : Nat := 0
  prods : Table Producer := []
  tiles : List TileSlot := []
  deriving DecidableEq, Repr

structure OutChan where
  valid : Bool := false
  eossent : Bool := false
  dchip : Nat := 0
  dchan : Nat := 0
  prod : Nat := 0
  tilesz : Nat := 0
  /-- Sequence number of the next tile released, places taken, and one more than the first and the largest
  advertisement, 0 before any. -/
  nextSeq : Nat := 0
  taken : Nat := 0
  first : Nat := 0
  upto : Nat := 0
  deriving DecidableEq, Repr

/-- A reduction window with its open round (R159, R160). -/
structure Window where
  w0 : Word64 := 0
  w1 : Word64 := 0
  /-- Contributions issued here to the open round and not yet recorded: core, operation and index. -/
  waiting : List (Nat × Nat × Nat) := []
  /-- Indices that stand in the open round. -/
  present : List Nat := []
  partials : List Partial := []
  deriving DecidableEq, Repr

/-! ### Cores, contexts, queues, the chip -/

structure Core where
  regs : Regs := {}
  seq : Seq := {}
  ys : YState := {}
  arr : ArrayState := {}
  rcv : Recovery := {}
  eng : Engines := {}
  /-- Scratchpad, by offset (R120, R166). -/
  sp : Memory := []
  /-- Lane slices: 0x2000 * lane + offset (R176). -/
  ls : Memory := []
  task : Option Nat := none
  rank : Nat := 0
  retired : Bool := false
  /-- Overlays present in the frames, copies under way with their end, pins (R285, R286). -/
  resident : List Nat := []
  copying : List (Nat × Nat) := []
  pins : List Nat := []
  deriving DecidableEq, Repr

/-- The cores of a swapped or saved task, by rank (R327, R328). -/
abbrev SavedTeam := Table Core

inductive ContextPhase
  | active | stopping | saving (doneAt : Nat) | saved | restoring (doneAt : Nat) | destroying
  deriving DecidableEq, Repr

/-- A write of a peer chip's engine operation to this chip's memory, as its data flit carries it (R235, R356). -/
structure PeerWrite where
  port : Nat
  pasid : Nat
  addr : Nat
  bytes : List Byte
  poison : Bool := false
  deriving DecidableEq, Repr

/-- What a router keeps in its buffers: an arrival, or a peer's write (R331). -/
inductive Arrival
  | event (i : Instr) | write (w : PeerWrite)
  deriving DecidableEq, Repr

/-- What leaves on the links (R356). -/
inductive Flit
  | tile (dchip : Nat) (t : Tile)
  | token (dchip pasid chan prod stamp : Nat)
  /-- To the producer `prod` of in-channel `chan`: the highest sequence number accepted. -/
  | window (pasid chan prod upto : Nat)
  | part (dchip pasid win : Nat) (p : Partial)
  /-- The home chip's notice that contributions have been dealt with: all of a round, or that of one index (R160). -/
  | closed (pasid win status : Nat) (index : Option Nat)
  | write (dchip pasid addr : Nat) (bytes : List Byte)
  | quiesce (port pasid : Nat)
  | viral (port : Nat)
  | resend (port lseq : Nat)
  | training (port : Nat)
  /-- A flit delivered with its poison bit set (R371, R383). -/
  | poisoned (f : Flit)
  deriving DecidableEq, Repr

/-- What a save area holds (R328, R331), link traffic included. The context's registers, channels and stash stay in its
record. -/
structure SaveArea where
  layout : Nat := 0
  stages : Table Stage := []
  tasks : Table Task := []
  clusters : Table Cluster := []
  cores : Table Core := []
  xs : Memory := []
  chipPhasers : Table Phaser := []
  counters : Table Counter := []
  outbound : List Flit := []
  buffered : List Arrival := []
  deriving DecidableEq, Repr

/-- An invalidation of translations by the host, on its way through the copy queues (R214, R338). -/
structure Marker where
  id : Nat
  va : Nat
  count : Nat
  size : TinvSize
  /-- Tag of the command, which posts an event frame at its end (R353). -/
  tag : Word64 := 0
  deriving DecidableEq, Repr

/-- A stash entry that a `fetch` with free has removed, with the task, the core and the segment of the fetch (R245). -/
structure FreedEntry where
  entry : StashEntry
  tid : Nat
  core : Nat
  seg : Nat
  deriving DecidableEq, Repr

/-- A context: its descriptor, engine registers, windows, channels and stash (R230, R238, R246, R335). -/
structure Context where
  layout : Nat := 0
  ptroot : Nat := 0
  save : Nat := 0
  phbase : Nat := 0
  phcount : Nat := 0
  dcbase : Nat := 0
  dccount : Nat := 0
  xsbase : Nat := 0
  xssize : Nat := 0
  phase : ContextPhase := .active
  /-- Tag and code of the command whose completion posts an event frame (R353); code 0 for none. -/
  tag : Word64 := 0
  command : Nat := 0
  starena : Word64 := 0
  sthbm : Word64 := 0
  stlp : Word64 := 0
  stsize : Word64 := 0
  windows : Table Window := []
  inch : Table InChan := []
  outch : Table OutChan := []
  stash : List StashEntry := []
  scope7 : Word64 := 0
  area : Option SaveArea := none
  /-- Leaf entries that a translation cache may hold, by virtual 4 KiB page, with the level of each (R338). -/
  tlb : Table (Word64 × Nat) := []
  markers : List Marker := []
  freed : List FreedEntry := []
  /-- The spawns of the context on each core (R254). -/
  spawned : Table Nat := []
  deriving DecidableEq, Repr

inductive QState
  | disabled | running | fenceWait | error
  deriving DecidableEq, Repr

/-- A queue control block (R340) with the command processor's copies of packets (R343). -/
structure Queue where
  pasid : Nat
  q : Nat
  stage : Nat
  qstate : QState := .running
  ecode : Nat := 0
  lg : Nat
  ring : Nat
  rptr : Nat := 0
  wptr : Nat := 0
  /-- Packets read ahead, by index. -/
  copies : Table (List Byte) := []
  /-- The header at rptr was read with the wrong phase; read again at this cycle (R341). -/
  rereadAt : Option Nat := none
  /-- Tasks that its packets created. -/
  tasks : List Nat := []
  /-- The packet that the command processor acts on and that waits, a SIGNAL, a FENCE or a LAUNCH: its index and its
  bytes (R342, R343, R347). -/
  acting : Option (Nat × List Byte) := none
  deriving DecidableEq, Repr

inductive QueueSlot
  | live (q : Queue) | tombstone
  deriving DecidableEq, Repr

/-- A frame sent on the Tideport (R353). -/
structure SentFrame where
  type : Nat
  seq : Nat
  pasid : Nat := 0
  code : Nat := 0
  addr : Word64 := 0
  tag : Word64 := 0
  payload : List Byte := []
  deriving DecidableEq, Repr

structure Port where
  trained : Bool := false
  heldDown : Bool := true
  /-- The neighbour on this port has entered the viral state (R333, R383). -/
  gone : Bool := false
  lseqIn : Nat := 0
  lseqOut : Nat := 0
  deriving DecidableEq, Repr

/-- An error that the chip's storage meets, as the physical world brings it about (R369, R381); those of a cluster that
cannot be corrected are the event DATA_ERROR, and those that make the chip viral PLATFORM_UNCORRECTABLE_ERROR. -/
inductive StorageError
  /-- Corrected in place and counted: in the storage of a core, or of a cluster. -/
  | corrected (core : Option Nat)
  /-- A line of the chip scratchpad, the last-level cache or LPDDR-6, numbered as a granule. -/
  | line (granule : Nat)
  /-- The data of a held write, by its place in the order of commits. -/
  | held (cluster ord : Nat)
  /-- HBM4E is read at a stripe, and its chunks in these stacks come with an error that their on-die ECC cannot correct. -/
  | stripe (number : Nat) (bad : List Nat)
  deriving DecidableEq, Repr

/-- An event record with its stamp record (R386, R387). -/
structure LogPair where
  event : Word64
  stamp : Word64
  /-- The cycle from which it is readable; none while the segment of its bundle still runs (R219). -/
  readableAt : Option Nat
  /-- The bundle that made it, dropped when a rewind discards it: core and segment. -/
  by' : Option (Nat × Nat) := none
  /-- The first unit of the pair has been read. -/
  half : Bool := false
  deriving DecidableEq, Repr

inductive UpdateState
  | none | staged | layoutPending | ready | failed
  deriving DecidableEq, Repr

/-- A firmware image as the checks see it (R349). -/
structure Image where
  bytes : Memory := []
  /-- Uploaded since it was last checked. -/
  unchecked : Bool := false
  verified : Bool := false
  secver : Nat := 0
  writes : Nat := 0
  reads : List Nat := []
  deriving DecidableEq, Repr

/-- A gang switch accepted and pending, at most one for each context (R330, R331). -/
structure Gang where
  time : Nat
  outgoing : Nat
  incoming : Nat
  tag : Word64
  /-- The time has come; ports on which a quiesce flit has arrived. -/
  begun : Bool := false
  quiet : List Nat := []
  deriving DecidableEq, Repr

/-- Tideport, firmware and fault log (R348-R355, R386). -/
structure HostSide where
  seqIn : Nat := 0
  seqOut : Nat := 0
  sent : List SentFrame := []
  log : List LogPair := []
  dropped : Nat := 0
  handlerRecords : List HandlerRecord := []
  imageA : Image := { verified := true, writes := 1, reads := [1] }
  imageB : Image := {}
  preferredB : Bool := false
  runningB : Bool := false
  update : UpdateState := .none
  minSecver : Nat := 0
  deriving DecidableEq, Repr

/-- Links (R356-R358, R394). -/
structure LinkSide where
  ports : Table Port := []
  sent : List Flit := []
  /-- Link traffic of an outgoing context, kept and not injected (R331). -/
  outbound : List (Nat × Flit) := []
  gangs : List Gang := []
  /-- Tags of refused gang switches by outgoing context (R330). -/
  refusedTags : Table Word64 := []
  /-- The last count of nanoseconds received or set, and its cycle (R330). -/
  timeBase : Nat := 0
  timeAt : Nat := 0
  /-- Arrivals for a context that is not active, kept in order in the routers' buffers (R331). -/
  buffered : List (Nat × Arrival) := []
  /-- Flits that wait for a port to be trained (R358). -/
  blocked : List Flit := []
  clock : Nat := 0
  viralPeers : List Nat := []
  deriving DecidableEq, Repr

/-- The machine. -/
structure State where
  cores : Table Core := []
  saved : Table SavedTeam := []
  clusters : Table Cluster := []
  dies : Table Die := []
  stages : Table Stage := []
  tasks : Table Task := []
  contexts : Table Context := []
  /-- Physical memory, HBM4E and LPDDR-6 (R337), and the chip scratchpad (R28). -/
  pmem : Memory := []
  xs : Memory := []
  /-- Poisoned lines, numbered as granules (R371). -/
  poison : List Nat := []
  chipPhasers : Table Phaser := []
  counters : Table Counter := []
  scopetab : Table Word64 := []
  queues : Table QueueSlot := []
  host : HostSide := {}
  link : LinkSide := {}
  hwcfg : Word64 := 0
  /-- The signed configuration record that the last boot read (R5, R362). -/
  record : ConfigRecord := { disabled := [], stepping := 0, lpddr := false, form := .package, minSecver := 0 }
  chipNo : Nat := 0
  bankClock : Nat := 0
  recovery : Bool := false
  viral : Bool := false
  tripped : Bool := false
  /-- The reset step reached (R362); 6 once the Ready event frame is sent. -/
  resetStep : Nat := 0
  stuck : Bool := false
  /-- HBM4E channels marked lost, numbered 32 * stack + channel, and the rebuilds of the last second: channel and cycle
  (R380, R381). -/
  channelsLost : List Nat := []
  rebuilds : List (Nat × Nat) := []
  /-- MODEL: chip cycle, core whose turn it is, events of this cycle still to run, what the outside
  world will do and when, counter of free values, and of identities. -/
  cycle : Nat := 0
  turn : Nat := 0
  /-- MODEL: the second pass of a cycle, for Y waits that this cycle's signals and fills end (R296, R305). -/
  late : Bool := false
  /-- MODEL: the end of a cycle, behind the last core, where what has become true in it takes effect. -/
  closing : Bool := false
  pending : List Instr := []
  inputs : List (Nat × Instr) := []
  /-- MODEL: the errors that the storage is going to meet, and when (R369, R381). -/
  errors : List (Nat × StorageError) := []
  /-- MODEL: the writes that peer chips are going to make to this chip's memory, and when. -/
  peers : List (Nat × PeerWrite) := []
  free : Nat := 0
  nextId : Nat := 0
  deriving DecidableEq, Repr

/-- Why the machine stops.
* `tripped`: raised by `step` when the thermal trip has stopped all compute and no event can follow
  before the next reset (R361). Safe: nothing is claimed of what the package does then.
* `resetStuck`: raised by `step` when a reset step has failed; the chip stays at that step (R362). Safe. -/
inductive Fault
  | tripped
  | resetStuck
  deriving DecidableEq, Repr

/-- `notModelled`: raised by an arm of `exec` whose instruction has no meaning yet; safe. -/
inductive Refusal
  | notModelled (mnemonic : String)
  deriving DecidableEq, Repr

/-- The configuration record as shipped: package form, every core enabled (R5; assumption log 4). -/
def shippedRecord : ConfigRecord :=
  { disabled := [], stepping := 0, lpddr := false, form := .package, minSecver := 0 }

/-- Reset: nothing is held, memory lists nothing, and the power-on sequence of R362 is the next event. -/
def State.reset : State := { pending := [.powerOnReset shippedRecord none] }

end Sys2Proof.Machine
end

