-- ==== Sys2Proof/Machine/Ops.lean ====
section
/-!
DEFINITION. The named operations over tables, memory, registers, results in flight, the log, tasks and
phasers that the meanings share, and at the end taking a fault (R57, R270, R323), the rewind (R365, R372)
and the return from a fault (R324).
-/
namespace Sys2Proof.Machine

/-! ### Tables and memory -/

def Table.get? {α : Type} : Table α → Nat → Option α
  | [], _ => none
  | (j, v) :: t, k => if j = k then some v else Table.get? t k

def Table.get {α : Type} (t : Table α) (d : α) (k : Nat) : α := (Table.get? t k).getD d

def Table.put {α : Type} : Table α → Nat → α → Table α
  | [], k, v => [(k, v)]
  | (j, w) :: t, k, v =>
    if k < j then (k, v) :: (j, w) :: t else if j = k then (k, v) :: t else (j, w) :: Table.put t k v

def Table.del {α : Type} (t : Table α) (k : Nat) : Table α := t.filter fun e => e.1 != k

def Table.modify {α : Type} (t : Table α) (d : α) (k : Nat) (f : α → α) : Table α :=
  Table.put t k (f (Table.get t d k))

/-- The byte at an address; an unlisted address reads 0 (assumption log 2). -/
def Memory.read : Memory → Nat → Byte
  | [], _ => 0
  | (j, b) :: m, a => if j = a then b else Memory.read m a

/-- Lists a byte at its place among the rising addresses. -/
def Memory.insert : Memory → Nat → Byte → Memory
  | [], a, b => [(a, b)]
  | (j, c) :: m, a, b =>
    if a < j then (a, b) :: (j, c) :: m else if j = a then (a, b) :: m else (j, c) :: Memory.insert m a b

/-- Writes one byte and keeps the canonical form: a byte of 0 is not listed. -/
def Memory.write (m : Memory) (a : Nat) (b : Byte) : Memory :=
  if b = 0 then m.filter fun e => e.1 != a else m.insert a b

/-- Addresses strictly rising from `lo` on, and no byte of 0. -/
def Memory.wfFrom : Nat → Memory → Bool
  | _, [] => true
  | lo, (j, b) :: m => decide (lo ≤ j) && b != 0 && Memory.wfFrom (j + 1) m

def Memory.wf (m : Memory) : Bool := Memory.wfFrom 0 m

def Memory.readBytes (m : Memory) (a : Nat) : Nat → List Byte
  | 0 => []
  | n + 1 => m.read a :: Memory.readBytes m (a + 1) n

def Memory.writeBytes (m : Memory) (a : Nat) : List Byte → Memory
  | [] => m
  | b :: bs => Memory.writeBytes (m.write a b) (a + 1) bs

/-- The little-endian number in n bytes (R9). -/
def Memory.readLE (m : Memory) (a n : Nat) : Nat := leNat (m.readBytes a n)

/-! ### Access to the parts of the state -/

def State.core (s : State) (c : Nat) : Core := Table.get s.cores {} c
def State.setCore (s : State) (c : Nat) (k : Core) : State := { s with cores := Table.put s.cores c k }
def State.modCore (s : State) (c : Nat) (f : Core → Core) : State := s.setCore c (f (s.core c))
/-- The core whose bundle is in issue. -/
def State.cur (s : State) : Core := s.core s.turn
def State.modCur (s : State) (f : Core → Core) : State := s.modCore s.turn f
def clusterOf (c : Nat) : Nat := c / 8
def State.clu (s : State) (n : Nat) : Cluster := Table.get s.clusters {} n
def State.modClu (s : State) (n : Nat) (f : Cluster → Cluster) : State :=
  { s with clusters := Table.put s.clusters n (f (s.clu n)) }
def State.die (s : State) (n : Nat) : Die := Table.get s.dies {} n
def State.modDie (s : State) (n : Nat) (f : Die → Die) : State :=
  { s with dies := Table.put s.dies n (f (s.die n)) }
def State.stage (s : State) (n : Nat) : Stage := Table.get s.stages {} n
def State.modStage (s : State) (n : Nat) (f : Stage → Stage) : State :=
  { s with stages := Table.put s.stages n (f (s.stage n)) }
def State.task? (s : State) (t : Nat) : Option Task := Table.get? s.tasks t
def State.setTask (s : State) (t : Nat) (k : Task) : State := { s with tasks := Table.put s.tasks t k }
def State.modTask (s : State) (t : Nat) (f : Task → Task) : State :=
  match s.task? t with
  | some k => s.setTask t (f k)
  | none => s
def State.ctx (s : State) (p : Nat) : Context := Table.get s.contexts {} p
def State.modCtx (s : State) (p : Nat) (f : Context → Context) : State :=
  { s with contexts := Table.put s.contexts p (f (s.ctx p)) }
def State.queue? (s : State) (slot : Nat) : Option Queue :=
  match Table.get? s.queues slot with
  | some (.live q) => some q
  | _ => none
def State.modQueue (s : State) (slot : Nat) (f : Queue → Queue) : State :=
  match s.queue? slot with
  | some q => { s with queues := Table.put s.queues slot (.live (f q)) }
  | none => s
def State.modHost (s : State) (f : HostSide → HostSide) : State := { s with host := f s.host }
def State.modLink (s : State) (f : LinkSide → LinkSide) : State := { s with link := f s.link }

/-- Flits of 64 payload bytes that some bytes take. -/
def flitsOf (bytes : Nat) : Nat := Nat.max 1 ((bytes + 63) / 64)

/-- The flits of one message (R356; assumption log 72). -/
def Flit.count : Flit → Nat
  | .tile _ t => flitsOf t.data.length
  | .part _ _ _ p => flitsOf (4 * p.elems.length)
  | .poisoned f => f.count
  | _ => 1

/-- A message leaves on a port, with the port's next link sequence numbers (R356). -/
def State.sendPort (s : State) (p : Nat) (f : Flit) : State :=
  s.modLink fun l => { l with sent := l.sent ++ [f],
                              ports := Table.modify l.ports {} p fun q => { q with lseqOut := (q.lseqOut + f.count) % 4096 } }
/-- Flits have arrived in order on a port. -/
def State.countFlits (s : State) (p n : Nat) : State :=
  s.modLink fun l => { l with ports := Table.modify l.ports {} p fun q => { q with lseqIn := (q.lseqIn + n) % 4096 } }
/-- A flit has arrived in order on a port. -/
def State.countFlit (s : State) (p : Nat) : State := s.countFlits p 1

/-- Does an arrival reach the dies: on a port that is not held down (R358), or from the chip itself? -/
def State.delivers (s : State) (port : Option Nat) : Bool :=
  match port with
  | some p => !(Table.get s.link.ports {} p).heldDown
  | none => true
/-- The flits of an arrival are counted on its port. -/
def State.countFrom (s : State) (port : Option Nat) (n : Nat) : State :=
  match port with
  | some p => s.countFlits p n
  | none => s

def Core.modRegs (k : Core) (f : Regs → Regs) : Core := { k with regs := f k.regs }
def Core.modSeq (k : Core) (f : Seq → Seq) : Core := { k with seq := f k.seq }
def Core.modYs (k : Core) (f : YState → YState) : Core := { k with ys := f k.ys }
def Core.modArr (k : Core) (f : ArrayState → ArrayState) : Core := { k with arr := f k.arr }
def Core.modRcv (k : Core) (f : Recovery → Recovery) : Core := { k with rcv := f k.rcv }
def Core.modEng (k : Core) (f : Engines → Engines) : Core := { k with eng := f k.eng }

/-- The task that a core holds. -/
def State.taskOf (s : State) (c : Nat) : Option Task := (s.core c).task.bind s.task?
/-- The stage and the context of the task that a core holds. -/
def State.stageOf (s : State) (c : Nat) : Nat := ((s.taskOf c).map (·.stage)).getD 0
def State.pasidOf (s : State) (c : Nat) : Nat := ((s.taskOf c).map (·.pasid)).getD 0
def State.progOf (s : State) (c : Nat) : Program := ((s.stage (s.stageOf c)).prog).getD {}

/-- The cores that hold a task, in ascending number. -/
def State.coresOf (s : State) (t : Nat) : List Nat :=
  (s.cores.filter fun e => e.2.task == some t).map (·.1)

/-- An evaluation of a stage is due in a cycle (R319). -/
def State.askEvaluation (s : State) (st at_ : Nat) : State :=
  s.modStage st fun g => { g with evalAt := if g.evalAt.contains at_ then g.evalAt else g.evalAt ++ [at_] }

/-- A fresh free value's index: the counter advances (assumption log 1). -/
def State.takeFree (s : State) : Nat × State := (s.free, { s with free := s.free + 1 })

/-- A fresh identity. -/
def State.takeId (s : State) : Nat × State := (s.nextId, { s with nextId := s.nextId + 1 })

/-! ### The cluster pool (R166, R186, R187, R205, R218) -/

/-- Bytes of the pool as a core observes them: its own releases that still wait for its pool atomics
stand before what the pool holds. -/
def State.poolRead (s : State) (c a n : Nat) : List Byte :=
  let pend := (s.core c).eng.atomics.filter fun (x : Atomic) => x.kind == .store
  (List.range n).map fun i =>
    match pend.reverse.find? fun (x : Atomic) => decide (x.addr ≤ a + i) && decide (a + i < x.addr + x.bytes) && bitAt x.cmp.toNat (a + i - x.addr) with
    | some x => BitVec.ofNat 8 (bits x.v.toNat (8 * (a + i - x.addr)) 8)
    | none => (s.clu (clusterOf c)).pool.read (a + i)

/-- A core's write to its pool. Each byte names its writer (R218); bytes of the core's own waiting releases
give way to the later write (R187). -/
def State.poolWrite (s : State) (c a : Nat) (bs : List Byte) : State :=
  let seg := (s.core c).rcv.seg
  let s1 := s.modClu (clusterOf c) fun k =>
    { k with pool := k.pool.writeBytes a bs,
             poolBy := (List.range bs.length).foldl (fun t i => Table.put t (a + i) (c, seg, s.cycle)) k.poolBy }
  let keep := fun (x : Atomic) => (List.range x.bytes).foldl (fun m i =>
    if a ≤ x.addr + i && x.addr + i < a + bs.length then m else m + x.cmp.toNat / 2 ^ i % 2 * 2 ^ i) 0
  s1.modCore c fun k => k.modEng fun e =>
    { e with atomics := e.atomics.map fun (x : Atomic) =>
        if x.kind == .store then { x with cmp := BitVec.ofNat 64 (keep x) } else x }

/-! ### Lamport counts (R394) -/

def stampMax : Nat := 2 ^ 40 - 1
def stampSend (c : Nat) : Nat := Nat.min (c + 1) stampMax
def stampRecv (c stamp : Nat) : Nat := Nat.min (Nat.max c stamp + 1) stampMax

/-- A sending event of a core: its count advances. -/
def State.sendStamp (s : State) (c : Nat) : State :=
  s.modCore c fun k => k.modRegs fun r => { r with lclock := BitVec.ofNat 40 (stampSend r.lclock.toNat) }
/-- A receiving event of a core. -/
def State.recvStamp (s : State) (c stamp : Nat) : State :=
  s.modCore c fun k => k.modRegs fun r => { r with lclock := BitVec.ofNat 40 (stampRecv r.lclock.toNat stamp) }
def State.stampOf (s : State) (c : Nat) : Nat := (s.core c).regs.lclock.toNat

/-! ### The fault log (R386, R387) -/

def logWord (kind core slot addr data : Nat) : Word64 :=
  BitVec.ofNat 64 (kind * 2 ^ 60 + core * 2 ^ 52 + slot * 2 ^ 48 + addr * 2 ^ 26 + data % 2 ^ 26)
def stampWord (pasid count : Nat) : Word64 := BitVec.ofNat 64 (15 * 2 ^ 60 + pasid * 2 ^ 40 + count % 2 ^ 40)

/-- Writes an event record and its stamp record as a pair, readable W later, or, of a bundle that a rewind may still
discard, W after the end of its segment (R219, R387); with fewer than two units
free the pair is dropped and counted, and the next pair that fits is preceded by an overflow record. -/
def State.logPair (s : State) (event stamp : Word64) (by' : Option (Nat × Nat)) : State :=
  let at_ := if by'.isSome then none else some (s.cycle + Config.W)
  let h := s.host
  let room := Config.logUnits - 2 * h.log.length
  if room < 2 then { s with host := { h with dropped := h.dropped + 1 } }
  else if h.dropped = 0 then
    { s with host := { h with log := h.log ++ [{ event := event, stamp := stamp, readableAt := at_, by' := by' }] } }
  else
    let overflow : LogPair :=
                          { event := logWord 7 0xFF 0xF 0 (Nat.min h.dropped (2 ^ 26 - 1)),
                            stamp := stampWord 0 0, readableAt := some (s.cycle + Config.W) }
    if room < 4 then { s with host := { h with log := h.log ++ [overflow], dropped := 1 } }
    else { s with host := { h with log := h.log ++
            [overflow, { event := event, stamp := stamp, readableAt := at_, by' := by' }], dropped := 0 } }

/-- A record that a core makes. -/
def State.logCore (s : State) (kind c slot : Nat) (addr : CodeAddr) (data : Nat) (discardable : Bool) : State :=
  s.logPair (logWord kind c slot addr.toNat data) (stampWord (s.pasidOf c) (s.stampOf c))
    (if discardable then some (c, (s.core c).rcv.seg) else none)

/-- A platform or storage event: no core, PASID 0 (R386). -/
def State.logPlatform (s : State) (kind data : Nat) : State :=
  s.logPair (logWord kind 0xFF 0xF 0 data) (stampWord 0 0) none

/-! ### Frames to the host (R353) -/

def State.sendFrame (s : State) (type code pasid : Nat) (addr tag : Word64) (payload : List Byte) : State :=
  s.modHost fun h =>
    { h with sent := h.sent ++ [{ type := type, seq := h.seqOut, pasid := pasid, code := code, addr := addr,
                                  tag := tag, payload := payload }], seqOut := (h.seqOut + 1) % 2 ^ 32 }

/-- An event frame. The viral state sends none but the one of its entry (R383). -/
def State.eventFrame (s : State) (pasid code : Nat) (tag : Word64) (payload : List Byte) : State :=
  if s.viral then s else s.sendFrame 5 code pasid 0 tag payload

/-! ### Registers (R40, R41, R44, R45) -/

def Latches.read {w : Nat} (l : Latches w) : Latch → BitVec w
  | .by0 => l.b0 | .by1 => l.b1 | .by2 => l.b2
/-- A result enters a bypass (R44). -/
def Latches.enter {w : Nat} (l : Latches w) (v : BitVec w) : Latches w := ⟨v, l.b0, l.b1⟩

/-- `s0` reads zero. -/
def Core.readSReg (k : Core) (r : Nat) : Word64 := if r = 0 then 0 else Table.get k.regs.s 0 r
/-- `p0` reads 1. -/
def Core.readP (k : Core) (r : Nat) : Bool := r == 0 || k.regs.p.getLsbD r
def Core.readS (k : Core) : SSrc → Word64
  | .reg r => k.readSReg r.toNat
  | .latch l => k.regs.byS.read l
def Core.readVReg (k : Core) (f : VSlot) (r : Nat) : Vec :=
  match f with
  | .va => Table.get k.regs.va 0 r
  | .vb => Table.get k.regs.vb 0 r
def Core.readV (k : Core) (f : VSlot) : VSrc → Vec
  | .reg r => k.readVReg f r.toNat
  | .latch l => match f with | .va => k.regs.byVA.read l | .vb => k.regs.byVB.read l
/-- `ka0` and `kb0` read all ones. -/
def Core.readK (k : Core) (f : VSlot) (r : Nat) : LaneMask :=
  if r = 0 then BitVec.allOnes 128
  else match f with
    | .va => Table.get k.regs.ka 0 r
    | .vb => Table.get k.regs.kb 0 r
def Core.readE (k : Core) (r : Nat) : BitVec 768 := Table.get k.regs.e 0 r
def Core.readLA (k : Core) (r : BitVec 5) : Word64 := Table.get k.regs.la 0 r.toNat
def Core.readTA (k : Core) (r : BitVec 5) : Word64 := Table.get k.regs.ta 0 r.toNat
def Core.readXA (k : Core) (r : BitVec 5) : Word64 := Table.get k.regs.xa 0 r.toNat

/-- The guard of an operation, read at issue (R39). -/
def Core.on (k : Core) (g : Guard) : Bool := xor (k.readP g.idx.toNat) g.neg

/-! ### Results in flight (R46) -/

/-- A result of the bundle in issue, landing n bundles later. -/
def Core.push (k : Core) (slot : Slot) (n : Nat) (dest : Dest) (val mask : Nat) (flags : Nat) (kept : Bool := false) : Core :=
  k.modSeq fun q => { q with flight := q.flight ++
    [{ due := q.stream + n, slot := slot, dest := dest, val := val, mask := mask, flags := flags,
       issued := q.stream, kept := kept }] }

def ones (n : Nat) : Nat := 2 ^ n - 1

def destS : SDst → Dest
  | .reg r => .s r.toNat
  | .transient => .byS
def destV (f : VSlot) : VDst → Dest
  | .reg r => .v f r.toNat
  | .transient => .byV f

/-- A 64-bit result for the S file or the S bypass. -/
def State.pushS (s : State) (slot : Slot) (n : Nat) (d : SDst) (v : Word64) : State :=
  s.modCur fun k => k.push slot n (destS d) v.toNat (ones 64) 0

/-- A predicate result (R153). -/
def State.pushP (s : State) (pd : BitVec 4) (v : Bool) : State :=
  s.modCur fun k => k.push .s 1 (.p pd.toNat) (bit v) 1 0

/-! ### Signatures of the reruns (R373) -/

/-- Adds bytes to the record of a slot operation while the core runs a rerun. -/
def Core.sigNote (k : Core) (issued : Nat) (slot : Slot) (bytes : List Byte) : Core :=
  match k.rcv.rerun with
  | none => k
  | some r => k.modRcv fun v =>
    { v with rerun := some { r with sigs := r.sigs ++ [{ issued := issued, slot := slot, bytes := bytes }] } }

/-- A store, an engine command or a Y operation: its level or kind, its address, its bytes or operands. -/
def State.sigEffect (s : State) (slot : Slot) (kind addr : Nat) (bytes : List Byte) : State :=
  s.modCur fun k => k.sigNote k.seq.stream slot (leBytes 1 kind ++ leBytes 8 addr ++ bytes)

/-! ### Holding a bundle -/

/-- The bundle does not issue in this cycle (R287); one that waits for the frontier keeps waiting for it (R262, R263). -/
def State.holdFor (s : State) (slot : Slot) (cause : HoldCause) : State :=
  s.modCur fun k => k.modSeq fun q =>
    { q with hold := some ⟨cause, slot.num⟩, verdict := .held, fronted := q.fronted || cause == .frontier }

/-- A hold of the whole bundle. -/
def State.holdAll (s : State) (cause : HoldCause) : State :=
  s.modCur fun k => k.modSeq fun q => { q with hold := some ⟨cause, 15⟩, verdict := .held }

/-! ### Tasks (R17-R24, R254, R257) -/

def Key.lt (a b : Key) : Bool :=
  decide (a.ts < b.ts) || (a.ts == b.ts && (decide (a.origin < b.origin) ||
    (a.origin == b.origin && decide (a.seq < b.seq))))

/-- In flight from creation until committed or aborted for good (R23). -/
def Task.inFlight (t : Task) : Bool :=
  match t.state with
  | .committed | .aborted => false
  | _ => true

def State.inFlight (s : State) (st : Nat) : List (Nat × Task) :=
  s.tasks.filter fun e => e.2.stage == st && e.2.inFlight

/-- The earliest of some tasks by key. -/
def earliest (l : List (Nat × Task)) : Option (Nat × Task) :=
  l.foldl (fun b e => match b with
    | none => some e
    | some x => if Key.lt e.2.key x.2.key then some e else b) none

/-- The latest of some tasks by key. -/
def latest (l : List (Nat × Task)) : Option (Nat × Task) :=
  l.foldl (fun b e => match b with
    | none => some e
    | some x => if Key.lt x.2.key e.2.key then some e else b) none

/-- A task is speculative unless it is its stage's frontier task (R260). -/
def State.isFrontier (s : State) (t : Nat) : Bool :=
  match s.task? t with
  | some k => (s.stage k.stage).frontier == some t
  | none => false

/-- A core without a task is never speculative, nor is a committed task that reruns its last segment (R367). -/
def State.speculative (s : State) (c : Nat) : Bool :=
  match (s.core c).task with
  | some t => !s.isFrontier t && (match s.task? t with | some k => k.state != .committed | none => true)
  | none => false

/-- The timestamp of the earliest in-flight task of a stage, or all ones (R258). -/
def State.frontierNow (s : State) (st : Nat) : Word64 :=
  match earliest (s.inFlight st) with
  | some e => BitVec.ofNat 64 e.2.key.ts
  | none => BitVec.allOnes 64

/-- System register `frontier`: it changes in the cycle after the earliest task does (R258). -/
def State.frontierReg (s : State) (st : Nat) : Word64 := (s.stage st).frontReg

/-- At the start of a cycle the stages' `frontier` registers show what the cycle before has left. -/
def State.refreshFrontier (s : State) : State :=
  { s with stages := s.stages.map fun (e : Nat × Stage) => (e.1, { e.2 with frontReg := s.frontierNow e.1 }) }

/-! ### Phasers (R292-R301) -/

def State.phaser (s : State) (cl idx : Nat) : Phaser := Table.get (s.clu cl).phasers {} idx
def State.setPhaser (s : State) (cl idx : Nat) (p : Phaser) : State :=
  s.modClu cl fun c => { c with phasers := Table.put c.phasers idx p }

def Member.same (m : Member) (tid rank : Nat) : Bool := m.tid == tid && m.rank == rank
def Phaser.member? (p : Phaser) (tid rank : Nat) : Option Member := p.members.find? (·.same tid rank)
def Phaser.setMember (p : Phaser) (m : Member) : Phaser :=
  { p with members := p.members.map fun x => if x.same m.tid m.rank then m else x }
def Phaser.dropMember (p : Phaser) (tid rank : Nat) : Phaser :=
  { p with members := p.members.filter fun x => !x.same tid rank }
def signals : PhMode → Bool
  | .w => false
  | _ => true

/-- Has a phase completed in a cycle? -/
def Phaser.doneIn (p : Phaser) (cycle : Nat) : Bool := match p.hist.head? with | some d => d.cycle == cycle | none => false

/-- Completion is tested after a cycle's signals and drops: arrived >= nsig, with at least one
signal or signalling drop counted in the open phase; at most one phase completes in a cycle (R296, R297). -/
def Phaser.settle (p : Phaser) (cycle : Nat) : Phaser :=
  if decide (0 < p.counted) && decide (p.nsig ≤ p.arrived) && !p.doneIn cycle then
    { p with phase := p.phase + 1, arrived := 0, counted := 0, signallers := [], stamp := 0,
             hist := { phase := p.phase, arrived := p.arrived, nsig := p.nsig, counted := p.counted, cycle := cycle,
                       signallers := p.signallers, stamp := p.stamp } :: p.hist }
  else p

/-- A member joins the open phase (R294). -/
def Phaser.join (p : Phaser) (tid rank : Nat) (mode : PhMode) : Phaser :=
  { p with nsig := p.nsig + bit (signals mode),
           members := p.members ++ [{ tid := tid, rank := rank, mode := mode, q := p.phase, w := p.phase }] }

/-- A signal of a member, by a core in a segment of it, is counted in the open phase (R295). -/
def Phaser.signal (p : Phaser) (m : Member) (who : Nat × Nat) (stamp : Nat) : Phaser :=
  { p.setMember { m with q := m.q + 1 } with
    arrived := p.arrived + 1, counted := p.counted + 1, signallers := who :: p.signallers,
    stamp := Nat.max p.stamp stamp }

/-- The phase that the drops of a cycle count in: the open one, or the one that has completed in this cycle (R296). -/
def Phaser.countsIn (p : Phaser) (cycle : Nat) : BitVec 32 := if p.doneIn cycle then p.phase - 1 else p.phase

/-- Does the end of a membership signal: is the member a signaller that has not signalled the phase in which the drop
counts (R297)? -/
def Phaser.owes (p : Phaser) (m : Member) (cycle : Nat) : Bool := signals m.mode && m.q == p.countsIn cycle

/-- A phase with the drop of a signaller: one that has not signalled it signals, one that has takes its signal back; one
that stands behind it has no part in its signals (R297; assumption log 103). -/
def PhaseDone.drop (d : PhaseDone) (m : Member) (who : Nat × Nat) (stamp : Nat) : PhaseDone :=
  if m.q = d.phase then { d with nsig := d.nsig - 1, arrived := d.arrived + 1, counted := d.counted + 1,
                                 signallers := who :: d.signallers, stamp := Nat.max d.stamp stamp }
  else if m.q = d.phase + 1 then { d with nsig := d.nsig - 1, arrived := d.arrived - 1, counted := d.counted + 1 }
  else { d with nsig := d.nsig - 1 }

/-- The open phase as a record. -/
def Phaser.openPhase (p : Phaser) : PhaseDone :=
  { phase := p.phase, arrived := p.arrived, nsig := p.nsig, counted := p.counted, cycle := 0, signallers := p.signallers, stamp := p.stamp }

/-- The phase of a record is the open one. -/
def Phaser.reopen (p : Phaser) (d : PhaseDone) : Phaser :=
  { p with phase := d.phase, arrived := d.arrived, nsig := d.nsig, counted := d.counted, signallers := d.signallers, stamp := d.stamp }

/-- A membership ends (R297). Behind the test of a cycle in which a phase has completed it counts with the signals of that
phase (R296). -/
def Phaser.leave (p : Phaser) (m : Member) (who : Nat × Nat) (stamp cycle : Nat) : Phaser :=
  let p1 := p.dropMember m.tid m.rank
  if !(signals m.mode) then p1
  else match p.doneIn cycle, p1.hist with
    | true, d :: ds => { p1 with nsig := p1.nsig - 1, hist := d.drop m who stamp :: ds }
    | _, _ => p1.reopen (p1.openPhase.drop m who stamp)

/-- Is phase a later than phase b, modulo 2^32? -/
def laterPhase (a b : BitVec 32) : Bool := decide (0 < (a - b).toNat) && decide ((a - b).toNat < 2 ^ 31)

/-- Corrects the counts of a phase, be it open or completed, and nsig of every later one. -/
def PhaseDone.amend (ph : BitVec 32) (nsig arrived counted : Int) (d : PhaseDone) : PhaseDone :=
  let add := fun (x : Nat) (n : Int) => ((x : Int) + n).toNat
  if laterPhase ph d.phase then d
  else if d.phase = ph then { d with nsig := add d.nsig nsig, arrived := add d.arrived arrived, counted := add d.counted counted }
  else { d with nsig := add d.nsig nsig }

def Phaser.amend (p : Phaser) (ph : BitVec 32) (nsig arrived counted : Int) : Phaser :=
  { p.reopen (p.openPhase.amend ph nsig arrived counted) with hist := p.hist.map (PhaseDone.amend ph nsig arrived counted) }

/-- Withdraws a signal that was counted in phase `ph`: a phase completed since returns to its values before that
completion; a phase that an earlier withdrawal has undone counts nothing any more (R301). -/
def Phaser.withdraw (p : Phaser) (ph : BitVec 32) (core : Nat) : Phaser :=
  let less := fun (p : Phaser) => { p.amend ph 0 (-1) (-1) with signallers := p.signallers.eraseP fun x => x.1 == core }
  if laterPhase ph p.phase then p
  else if ph = p.phase then less p
  else match p.hist.find? (·.phase == ph) with
    | some d => less ({ p with hist := p.hist.filter fun x => decide (x.cycle < d.cycle) }.reopen d)
    | none => p

/-- Undoes one operation of a core on a phaser (R301): a registration goes, a drop counts in nsig again, a signal is
withdrawn, a wait gives its phase back. -/
def undoPhaser (s : State) (core : Nat) (u : PhaserUndo) : State :=
  let cl := clusterOf core
  match u with
  | .registered i m =>
    s.setPhaser cl i (((s.phaser cl i).dropMember m.tid m.rank).amend m.q (-(bit (signals m.mode) : Int)) 0 0)
  | .dropped i m ph =>
    let p := s.phaser cl i
    let p1 :=
      if !signals m.mode then p
      else if m.q = ph then (p.withdraw ph core).amend ph 1 0 0
      else if m.q = ph + 1 then p.amend ph 1 1 (-1)
      else p.amend ph 1 0 0
    s.setPhaser cl i { p1 with members := p1.members ++ [m] }
  | .signalled i ph m => s.setPhaser cl i (((s.phaser cl i).withdraw ph core).setMember m)
  | .waited false i m => s.setPhaser cl i ((s.phaser cl i).setMember m)
  | .waited true i m =>
    let p := Table.get s.chipPhasers {} i
    { s with chipPhasers := Table.put s.chipPhasers i { p with
        members := p.members.map fun x => if x.same m.tid m.rank then { x with w := m.w } else x } }

/-- An operation of a core on a phaser is noted with the core's segment, for its undoing (R301). -/
def State.noteUndoOn (s : State) (c : Nat) (u : PhaserUndo) : State :=
  s.modCore c fun k => k.modRcv fun r => { r with undo := (r.seg, u) :: r.undo }

/-! ### Handler events (R323) -/

/-- An event is raised for the stage handler: the team's stream stops in place. -/
def State.raiseEvent (s : State) (t : Nat) (e : HandlerEvent) : State :=
  match s.task? t with
  | none => s
  | some k =>
    let rec_ : HandlerRecord :=
    { stage := k.stage, key := k.key, kind := k.kind, tag := k.tag, code := e.code,
      trap := e.trap, addr := e.addr, slot := e.slot, budgetLeft := k.budget }
    (s.setTask t { k with event := some { e with cycle := s.cycle } }).modHost
      fun h => { h with handlerRecords := h.handlerRecords ++ [rec_] }

/-- A late event has no task and is only recorded (R259, R323). -/
def State.raiseLate (s : State) (st : Nat) (key : Key) (kind : TaskKind) (tag : Nat) : State :=
  s.modHost fun h => { h with handlerRecords := h.handlerRecords ++
    [{ stage := st, key := key, kind := kind, tag := tag, code := 0xFF, trap := 0, addr := 0, slot := 15,
       budgetLeft := 0 }] }

/-- A record as the bytes of an event frame (assumption log 94 names their order). -/
def HandlerRecord.bytes (r : HandlerRecord) : List Byte :=
  leBytes 8 r.stage ++ leBytes 8 r.key.ts ++ leBytes 8 r.key.origin ++ leBytes 8 r.key.seq ++ leBytes 4 r.tag ++
    leBytes 1 r.kind.code ++ leBytes 1 r.code ++ leBytes 2 r.trap ++ leBytes 4 r.addr.toNat ++ leBytes 4 r.slot ++ leBytes 8 r.budgetLeft

/-- A requested stop of a context, which its save follows; the command that asks for it, if any, posts a frame at its end
(R353). -/
def State.stopContext (s : State) (p : Nat) (tag : Word64) (command : Nat) : State :=
  s.modCtx p fun x => { x with phase := .stopping, tag := tag, command := command }

/-- A context fault: every stage of the context takes a requested stop, the context is saved, and the host is told the
record (R324). -/
def State.contextFault (s : State) (p : Nat) (r : HandlerRecord) : State :=
  let s1 := if (s.ctx p).phase == .active then s.stopContext p 0 0 else s
  s1.eventFrame p r.code 0 r.bytes

/-! ### Aborts (R267, R268) -/

/-- Engine operations, atomics and phaser operations of a task are discarded (R213, R253, R267). Pool
atomics that have issued are not (R186), nor are committed writes to UN pages. -/
def Engines.discardTask (e : Engines) (t : Nat) : Engines :=
  let keep := fun (o : EngOp) => o.tid != t
  { e with copyQ := e.copyQ.filter keep, stashQ := e.stashQ.filter keep, chanQ := e.chanQ.filter keep,
           redQ := e.redQ.filter keep, regQ := e.regQ.filter keep, shadows := e.shadows.filter keep,
           phaserOps := e.phaserOps.filter (·.tid != t), unLines := [],
           atomics := e.atomics.filter fun (a : Atomic) => !(a.tid == t && a.atCommit) }

/-- Identities of operations that a predicate selects on one core. -/
def Engines.opsWhere (e : Engines) (f : EngOp → Bool) : List EngOp :=
  (e.copyQ ++ e.stashQ ++ e.chanQ ++ e.redQ ++ e.regQ ++ e.shadows).filter f

/-- What discarding some engine operations undoes in their context: pending stash entries vanish, a
place taken in a window returns (R245, R248). A round stays open for a discarded contribution (R159). -/
def Context.discardOps (x : Context) (ops : List EngOp) : Context :=
  let ids := ops.map (·.id)
  let x1 := { x with stash := x.stash.filter fun e => !(e.state == .pending && ids.contains e.op) }
  ops.foldl (fun (y : Context) o =>
    match o.cmd with
    | .chsend _ _ _ c =>
      if o.sent || !o.took then y
      else { y with outch := Table.modify y.outch {} c fun w =>
              { w with taken := w.taken - 1 } }
    | .cheos c => if o.sent || !o.took then y else { y with outch := Table.modify y.outch {} c fun w => { w with eossent := false } }
    | _ => y) x1

/-- Stash entries come back that discarded fetches had removed, so that a rerun decodes the same bytes again (R245). -/
def Context.unfree (x : Context) (f : FreedEntry → Bool) : Context :=
  let back := (x.freed.filter f).filter fun e => !(x.stash.any fun y => y.key == e.entry.key)
  { x with stash := back.map (·.entry) ++ x.stash, freed := x.freed.filter fun e => !f e }

/-- The chip phasers that the handles of a core name, in ascending order of the handles (R293). -/
def Core.chipHandles (k : Core) : List Nat :=
  (List.range 16).filterMap fun h =>
    let w := (Table.get k.ys.y 0 h).toNat
    if bitAt w 15 && bitAt w 14 then some (bits w 0 9) else none

/-- One membership of a core's task in a cluster phaser ends (R297): where the drop signals, that is a sending event of the
core (R394), and a rerun of a task that has ended may undo it (R301, R367). A team that is swapped out drops with the count
that was saved with it. -/
def State.endMembership (s : State) (c i : Nat) (m : Member) (away : Option Core) (ended : Bool) : State :=
  let p := s.phaser (clusterOf c) i
  let s0 := if p.owes m s.cycle && away.isNone then s.sendStamp c else s
  let (who, stamp) := match away with
    | some k => ((c, 0), stampSend k.regs.lclock.toNat)
    | none => ((c, (s.core c).rcv.seg), s0.stampOf c)
  let s1 := s0.setPhaser (clusterOf c) i (p.leave m who stamp s.cycle)
  if ended then s1.noteUndoOn c (.dropped i m (p.countsIn s.cycle)) else s1

/-- Ends every membership of a task and rank in the cluster phasers, and in the chip phasers that it has joined (R297). An
operation on a chip phaser leaves the cluster as a held write does: the drops of a task that has ended
follow the core's other operations (R298). -/
def State.dropMemberships (s : State) (c t rank : Nat) (away : Option Core) (ended : Bool) : State :=
  let s1 := (s.clu (clusterOf c)).phasers.foldl (fun (s : State) (e : Nat × Phaser) => match e.2.member? t rank with
    | some m => s.endMembership c e.1 m away ended
    | none => s) s
  if !ended then
    let stamp := stampSend (away.getD (s.core c)).regs.lclock.toNat
    { s1 with chipPhasers := s1.chipPhasers.map fun e => (e.1, match e.2.member? t rank with
        | some m => e.2.leave m (c, 0) stamp s.cycle
        | none => e.2) }
  else
    let base := (s.ctx (s.pasidOf c)).phbase
    (s.core c).chipHandles.foldl (fun (s : State) i =>
      let (id, s2) := s.takeId
      let p := Table.get s.chipPhasers {} (base + i)
      let given := ((s.core c).eng.phaserOps.filter fun o => o.index == base + i && o.tid == t && o.act == .signal).length
      let owes := match p.member? t rank with | some m => signals m.mode && m.q == p.phase && given == 0 | none => false
      (if owes then s2.sendStamp c else s2).modCore c fun k => k.modEng fun e => { e with phaserOps := e.phaserOps ++
        [{ core := c, rank := rank, tid := t, seg := k.rcv.seg, clearAt := some (s.cycle + Config.W), index := base + i, act := .leave,
           stamp := k.regs.lclock.toNat, id := id, after := e.observed }] }) s1

/-- The cores of a task stop and give it up; registers stay as the task left them (R25), and its records, held ones too,
are discarded (R228). -/
def State.releaseCore (s : State) (c : Nat) : State :=
  s.modCore c fun k =>
    let keep := fun (o : EngOp) => some o.tid != k.task
    { k with task := none,
             seq := { k.seq with flight := [], gloads := [], hold := none, halted := false, halting := false, ended := false,
                                 fronted := false, bundleFpc := none, trapped := [], efault := none, stopped := false, next := none,
                                 loops := [], traceLeft := 0, armed := false, releaseAt := none, held := 0 },
             regs := { k.regs with donemask := 0, byS := {}, byVA := {}, byVB := {} },
             ys := { k.ys with tokreq := false, phswDone := false },
             arr := { k.arr with wave := [], blk := [], mblk := 0, burst := false },
             eng := { k.eng with evq := [], half := none, copyQ := k.eng.copyQ.filter keep, stashQ := k.eng.stashQ.filter keep,
                                 chanQ := k.eng.chanQ.filter keep, redQ := k.eng.redQ.filter keep, regQ := k.eng.regQ.filter keep } }

/-- One task aborts; `again` says whether it is re-created with the same key, kind, tag and timestamp,
its full budget, and Ready. Cores it holds keep it until its results have landed (R24, R267). -/
def State.abortOne (s : State) (t : Nat) (again hold : Bool) : State :=
  match s.task? t with
  | none => s
  | some k =>
    if !k.inFlight then s else
    let cs := s.coresOf t
    let away := Table.get s.saved [] t
    let ops := (cs.map fun c => (s.core c).eng.opsWhere (·.tid == t)).flatten ++
      (away.map fun (e : Nat × Core) => e.2.eng.opsWhere (·.tid == t)).flatten
    let s0 := away.foldl (fun (s : State) (e : Nat × Core) => s.dropMemberships (8 * k.cluster) t e.1 (some e.2) false) s
    let s1 := s0.modCtx k.pasid fun x => (x.discardOps ops).unfree fun e => e.tid == t
    let s2 := cs.foldl (fun s c => s.modCore c fun q =>
      { q with eng := q.eng.discardTask t, seq := { q.seq with ended := true, efault := none, trapped := [] } }) s1
    let s3 := { s2 with saved := Table.del s2.saved t,
                        cores := s2.cores.map fun (e : Nat × Core) => (e.1, { e.2 with eng := { e.2.eng with
                          phaserOps := e.2.eng.phaserOps.filter (·.tid != t),
                          atomics := e.2.eng.atomics.filter fun (a : Atomic) => !(a.tid == t && a.atCommit) } }),
                        clusters := s2.clusters.map fun (e : Nat × Cluster) =>
                          (e.1, { e.2 with waits := e.2.waits.filter fun w => w.tid != t }) }
    let freed := cs.isEmpty && (k.swap != .none || k.dispatchAt.isSome)
    let s4 := if freed then s3.askEvaluation k.stage s.cycle else s3
    let s4 := if again then s4.askEvaluation k.stage (s.cycle + 1) else s4
    s4.setTask t { k with
      state := if again then .ready else .aborted, budget := k.full, lines := [], wlog := [],
      deferred := none, event := none, heldBack := hold, queuedAt := s.cycle, agedAt := none,
      resumable := false, dispatchAt := none, atOnce := false, retiring := false,
      waitRun := 0, swap := .none, ender := none, run := k.run + 1, rewindAt := none, abortDue := none,
      leaving := if cs.isEmpty then none else some again }

/-- Children of the current run of some tasks (R268). -/
def State.childrenOf (s : State) (ts : List (Nat × Nat)) : List Nat :=
  (s.tasks.filter fun (e : Nat × Task) => e.2.inFlight && ts.any fun p => e.2.parent == some p.1 && e.2.parentRun == p.2).map (·.1)

/-- All descendants, children first, by rounds of children. -/
def State.descendants (s : State) : Nat → List (Nat × Nat) → List Nat
  | 0, _ => []
  | n + 1, ts =>
    let cs := s.childrenOf ts
    if cs.isEmpty then [] else
      cs ++ s.descendants n (cs.map fun c => (c, ((s.task? c).map (·.run)).getD 0))

/-- A task aborts with its children, recursively; the children are not re-created (R268). -/
def State.abortTask (s : State) (t : Nat) (again hold : Bool) : State :=
  let ds := s.descendants 256 [(t, ((s.task? t).map (·.run)).getD 0)]
  (ds.foldl (fun s d => s.abortOne d false false) s).abortOne t again hold

/-- A task aborts at the end of this cycle: its cores issue no more from the next one (R267); once for good, if it is told so
twice. -/
def State.abortLater (s : State) (t : Nat) (again hold : Bool) : State :=
  s.modTask t fun k => if !k.inFlight then k else { k with abortDue := match k.abortDue with
    | some (a, h) => some (a && again, h)
    | none => some (again, hold) }

/-! ### The rewind (R290, R365, R368, R372) -/

/-- A core's own state returns to a rewind point; exposed results in flight are discarded (R114, R140, R155), next tiles,
interlocked loads and a multicast that were issued before it land as they would have, latches are cleared, and its segment
begins again. A mask that was on its way to `zm` at the point is on its way again (R140; assumption log 93). Counter
operations take again the numbers that they took (R308), and what counted against an engine's request for a bank counts no
more (R194). -/
def Core.restore (k : Core) (rp : RewindPoint) (cycle : Nat) : Core :=
  { k with
    regs := { k.regs with fpc := rp.fpc, fstat := rp.fstat, e := rp.e, donemask := 0, lclock := rp.lclock,
                          byS := {}, byVA := {}, byVB := {}, byM := {}, byK := {}, byL := {}, byT := {},
                          byX := {}, byY := {} },
    seq := { k.seq with
      pc := rp.pc, loops := rp.loops, stream := rp.stream, cyc := rp.cyc, next := none, hold := none, held := 0,
      flight := (k.seq.flight.filter fun r => r.kept && decide (r.issued < rp.stream)) ++ rp.masks,
      gloads := k.seq.gloads.filter fun l => decide (l.issued < rp.stream),
      efault := none, trapped := [], halted := false, halting := false, ended := false, stopped := false, traceLeft := 0, armed := false, frozen := 0,
      fronted := false, bundleFpc := none,
      releaseAt := none, waitFrom := 0, waitAt := none, reissue := false },
    arr := rp.arr, ys := rp.ys,
    rcv := { k.rcv with seg := rp.seg, segStart := cycle, ends := k.rcv.ends.filter fun e => decide (e.1 < rp.seg), fresh := true, seen := [],
                        prevSeen := if rp.freedAt.isNone then k.rcv.prevSeen else [],
                        undo := k.rcv.undo.filter fun u => decide (u.1 < rp.seg),
                        rps := (k.rcv.rps.filter fun p => decide (p.seg ≤ rp.seg)).map fun p =>
                          if p.seg = rp.seg then { p with freedAt := none } else p,
                        reuse := (rp.numbers ++ ((k.rcv.rps.filter fun p => decide (rp.seg < p.seg)).map (·.numbers)).flatten ++ k.rcv.reuse).dedup,
                        engws := k.rcv.engws.filter fun w => decide (w.1 < rp.seg),
                        engwsAgain := (k.rcv.engws.filter fun w => decide (rp.seg ≤ w.1)).map (·.2) ++ k.rcv.engwsAgain,
                        deps := [] },
    eng :=
      let keep := fun (o : EngOp) => decide (o.seg < rp.seg)
      { k.eng with
        copyQ := k.eng.copyQ.filter keep, stashQ := k.eng.stashQ.filter keep, chanQ := k.eng.chanQ.filter keep,
        redQ := k.eng.redQ.filter keep, regQ := k.eng.regQ.filter keep, shadows := k.eng.shadows.filter keep,
        evq := k.eng.evq.filter fun r => decide (r.seg < rp.seg),
        atomics := k.eng.atomics.filter fun a => decide (a.seg < rp.seg),
        phaserOps := k.eng.phaserOps.filter fun a => decide (a.seg < rp.seg),
        unWrites := k.eng.unWrites.filter fun w => decide (w.seg < rp.seg),
        ldmc := k.eng.ldmc.filter fun m => decide (m.issued < rp.stream),
        notes := k.eng.notes.filter fun w => decide (w.seg < rp.seg),
        requests := k.eng.requests.map fun b => { b with refusals := 0, last := none },
        half := rp.half, draining := false, fenceR := rp.fenceR, fenceW := rp.fenceW, unLines := [], spawnSeq := rp.spawnSeq } }

/-- Everything outside the core that its discarded bundles had begun is discarded: held and tagged
writes, engine operations, counter operations, log records, phaser operations, children (R190, R213,
R253, R272, R301, R308, R387). `left`: the rerun of a task that has left its cores keeps its children
(R367). -/
def State.rewindTo (s : State) (c : Nat) (rp : RewindPoint) (left : Bool) : State :=
  let k := s.core c
  let pasid := s.pasidOf c
  let ops := k.eng.opsWhere fun o => decide (rp.seg ≤ o.seg)
  let s1 := if ops.isEmpty && (s.ctx pasid).freed.isEmpty then s
    else s.modCtx pasid fun x => (x.discardOps ops).unfree fun e => e.core == c && decide (rp.seg ≤ e.seg)
  let s2 := (k.rcv.undo.filter fun u => decide (rp.seg ≤ u.1)).foldl (fun s u => undoPhaser s c u.2) s1
  let s3 := s2.modClu (clusterOf c) fun cl =>
    { cl with held := cl.held.filter fun h => !(h.w.core == c && decide (rp.seg ≤ h.w.seg)) }
  let s4 := { s3 with stages := s3.stages.map fun (e : Nat × Stage) =>
    (e.1, { e.2 with ctrOps := e.2.ctrOps.filter fun o => !(o.core == c && decide (rp.seg ≤ o.seg)) }) }
  let s5 := s4.modHost fun h =>
    { h with log := h.log.filter fun p => match p.by' with
      | some (d, g) => !(d == c && decide (rp.seg ≤ g))
      | none => true }
  let s6 := match k.task with
    | none => s5
    | some t =>
      let kids : List Nat := if left then [] else (s5.tasks.filter fun (e : Nat × Task) =>
        e.2.parent == some t && e.2.inFlight && e.2.key.origin == c && decide (rp.spawnSeq ≤ e.2.key.seq)).map fun (e : Nat × Task) => e.1
      let s7 := kids.foldl (fun (s : State) d => s.abortLater d false false) s5
      s7.modTask t fun x =>
        { x with wlog := x.wlog.filter fun w => !(w.core == c && decide (rp.seg ≤ w.seg)),
                 budget := rp.budget,
                 deferred := if (x.deferred.map fun (f : FaultInfo) => f.core) == some c then none else x.deferred,
                 ender := if x.ender == some k.rank then none else x.ender }
  s6.modCore c fun q => q.restore rp s.cycle

/-- Cores of the cluster, other than the given ones, that depend on discarded work (R218, R301). -/
def State.dependents (s : State) (done : List (Nat × Nat)) : List Nat :=
  let cl := (done.head?.map fun d => clusterOf d.1).getD 0
  (s.cores.filter fun (e : Nat × Core) => clusterOf e.1 == cl && !(done.any fun d => d.1 == e.1) &&
    e.2.rcv.deps.any fun (d : Dep) => done.any fun x => x.1 == d.core && decide (x.2 ≤ d.seg)).map (·.1)

/-- A core rewinds to the entry of its own current segment, and so, in rounds, does every core of the
cluster that depends on what is discarded (R57, R218, R301). -/
def State.rewindCurrent (s : State) : Nat → List Nat → List (Nat × Nat) → State
  | 0, _, _ => s
  | n + 1, cs, done =>
    let s1 := cs.foldl (fun s c => match (s.core c).rcv.rps.head? with
      | some rp => s.rewindTo c rp false
      | none => s) s
    let done1 := done ++ cs.map fun c => (c, (s.core c).rcv.seg)
    let next := s.dependents done1
    if next.isEmpty then s1 else s1.rewindCurrent n next done1

/-! ### Taking a fault and returning from it (R57, R270, R323, R324) -/

/-- Faults that a speculative task records and does not deliver (R270). -/
def deferrable (code : Nat) : Bool :=
  decide (code ≤ 0x07) || (decide (0x09 ≤ code) && decide (code ≤ 0x0C)) || code == 0x0F

/-- A fault is delivered: it enters the log; in a bundle that is not shadow-free the core first rewinds
to its segment entry; otherwise the done mask keeps what completed; the team stops in place and the
handler receives the event. A strike that discards the bundle where it stands drops its record too (R387). Code 0 is `s.trap`,
which only stops. -/
def State.deliverFault (s : State) (t : Nat) (f : FaultInfo) : State :=
  let s1 :=
    if f.code = 0 then s
    else if f.safe then s.modCore f.core fun k =>
      k.modRegs fun r => { r with donemask := BitVec.ofNat 64 (if f.atExec then f.done else 0) }
    else s.rewindCurrent 8 [f.core] []
  let s2 := if f.code = 0 then s1 else s1.logCore 1 f.core f.slot f.addr f.code f.safe
  s2.raiseEvent t { code := f.code, trap := f.trap, core := f.core, slot := f.slot, addr := f.addr }

/-- Taking a fault. A speculative task records a deferrable fault, and parks (R270). -/
def State.takeFault (s : State) (f : FaultInfo) : State :=
  match (s.core f.core).task with
  | none => s
  | some t =>
    if s.speculative f.core && deferrable f.code then s.modTask t fun k =>
      if k.deferred.isSome then k else { k with deferred := some f }
    else s.deliverFault t f

/-- The fault information of the bundle in issue. -/
def State.faultHere (s : State) (slot : Slot) (code : Nat) (atExec : Bool) : FaultInfo :=
  { code := code, core := s.turn, slot := slot.num, addr := s.cur.seq.pc, atExec := atExec, safe := s.cur.seq.bsafe }

def State.verdict (s : State) (v : Verdict) : State := s.modCur fun k => k.modSeq fun q => { q with verdict := v }

/-- A fault at issue: no slot of the bundle commits (R56, R57). -/
def State.issueFault (s : State) (slot : Slot) (code : Nat) : State :=
  (s.takeFault (s.faultHere slot code false)).verdict .faulted

/-- A fault during execution: the other slots of the bundle complete first (R57). Inside a bundle the
lowest-numbered faulting slot is kept, with the set of faulting slots. -/
def State.execFault (s : State) (slot : Slot) (code : Nat) : State :=
  if s.cur.seq.inBundle then
    s.modCur fun k => k.modSeq fun q =>
      match q.efault with
      | none => { q with efault := some { s.faultHere slot code true with done := 2 ^ slot.num } }
      | some f =>
        if f.slot ≤ slot.num then { q with efault := some { f with done := f.done ||| 2 ^ slot.num } }
        else { q with efault := some { s.faultHere slot code true with done := f.done ||| 2 ^ slot.num, safe := f.safe } }
  else s.takeFault { s.faultHere slot code true with done := 0 }

/-- The return from a fault: the handler's Resume. The stream continues at the stop's resume point,
where `pc` and the done mask stand (R324, R393). -/
def State.resumeTask (s : State) (t : Nat) : State := s.modTask t fun k => { k with event := none }

end Sys2Proof.Machine
end

