-- ==== Sys2Proof/Machine/Flags.lean ====
section
/-!
DEFINITION. The status registers of a core: `fpc` (R81-R83), `fstat` (R43), `driftlim` (R388), `waitlim`
(R325), and what a write to each does (R10, R42).
-/
namespace Sys2Proof.Machine

/-- The arithmetic mode captured at issue (R81, R82). -/
structure FpMode where
  rm : Nat
  ftz : Bool
  dn : Bool
  sat8 : Bool
  deriving DecidableEq, Repr

def modeOf (fpc : Word64) : FpMode :=
  { rm := bits fpc.toNat 0 2, ftz := bitAt fpc.toNat 2, dn := bitAt fpc.toNat 3, sat8 := bitAt fpc.toNat 4 }

/-- The mode of R80: nearest even, subnormals kept, default NaN, saturating 8-bit conversions. -/
def fixedMode : FpMode := { rm := 0, ftz := false, dn := true, sat8 := true }

/-- Exception flags at their positions in `fpc` (R81). -/
def fSat : Nat := 2 ^ 13
def fNv : Nat := 2 ^ 12
def fDz : Nat := 2 ^ 11
def fOf : Nat := 2 ^ 10
def fUf : Nat := 2 ^ 9
def fNx : Nat := 2 ^ 8
def fpFlags : Nat := fSat + fNv + fDz + fOf + fUf + fNx

/-- Flags raised at landing (R83). -/
def raiseFpc (fpc : Word64) (flags : Nat) : Word64 := fpc ||| BitVec.ofNat 64 flags

/-- A write to `fpc`: the mode bits are written, a 1 clears a flag; a flag raised in the same bundle
stays set, because landings come first and are kept in `raised` (R81-R83). -/
def writeFpc (old v : Word64) (raised : Nat) : Word64 :=
  let keep := old.toNat &&& fpFlags
  let clear := v.toNat &&& fpFlags
  BitVec.ofNat 64 ((keep ^^^ (keep &&& clear)) ||| raised ||| (v.toNat &&& 0x1F))

/-- A write to `fstat`: W1C bits, `coll` raised in the same bundle stays (R43). -/
def writeFstat (old v : Word64) (raised : Nat) : Word64 :=
  let keep := old.toNat &&& 3
  BitVec.ofNat 64 ((keep ^^^ (keep &&& (v.toNat &&& 3))) ||| raised)

def setColl (fstat : Word64) : Word64 := fstat ||| 1
def setFrz (fstat : Word64) : Word64 := fstat ||| 2

/-- System register numbers (R42). -/
inductive SysReg
  | hwcfg | teamid | mbt | tsk | budget | fpc | fstat | frontier | waitlim | driftlim | donemask | lclock
  deriving DecidableEq, Repr

def sysReg? (n : Nat) : Option SysReg :=
  match n with
  | 0x000 => some .hwcfg | 0x001 => some .teamid | 0x002 => some .mbt | 0x003 => some .tsk
  | 0x004 => some .budget | 0x010 => some .fpc | 0x011 => some .fstat | 0x020 => some .frontier
  | 0x030 => some .waitlim | 0x040 => some .driftlim | 0x041 => some .donemask | 0x042 => some .lclock
  | _ => none

/-- What a write is refused with: 0x0A for a register whose fields are all RO, 0x0F for a nonzero
reserved bit or a watched slot above 8 (R10, R42, R388). -/
def sysWriteFault (r : SysReg) (v : Word64) : Option Nat :=
  let n := v.toNat
  match r with
  | .hwcfg | .teamid | .mbt | .tsk | .budget | .frontier | .donemask | .lclock => some 0x0A
  | .fpc => if n / 2 ^ 14 != 0 || bits n 5 3 != 0 then some 0x0F else none
  | .fstat => if n / 4 != 0 then some 0x0F else none
  | .waitlim => if n / 2 ^ 32 != 0 then some 0x0F else none
  | .driftlim => if 8 < bits n 58 4 then some 0x0F else none

end Sys2Proof.Machine
end

