-- ==== Sys2Proof/Machine/Float.lean ====
section
/-!
DEFINITION. Number formats and rounding (R72-R80), exact sums and products, conversions, and LOG6
(R84-R88). A finite value is held exactly as a sign, a natural mantissa and a binary exponent.
-/
namespace Sys2Proof.Machine

/-! ### Formats (R72) -/

structure Fmt where
  eb : Nat
  fb : Nat
  bias : Nat
  /-- No infinities, one NaN code per sign (E4M3). -/
  finiteOnly : Bool := false
  deriving DecidableEq, Repr

def FP32 : Fmt := ⟨8, 23, 127, false⟩
def BF16 : Fmt := ⟨8, 7, 127, false⟩
def FP16 : Fmt := ⟨5, 10, 15, false⟩
def E4M3 : Fmt := ⟨4, 3, 7, true⟩
def E5M2 : Fmt := ⟨5, 2, 15, false⟩

def Fmt.width (f : Fmt) : Nat := 1 + f.eb + f.fb
def Fmt.signBit (f : Fmt) : Nat := 2 ^ (f.eb + f.fb)
/-- Magnitude codes of infinity and of the largest finite value. -/
def Fmt.infCode (f : Fmt) : Nat := (2 ^ f.eb - 1) * 2 ^ f.fb
def Fmt.maxCode (f : Fmt) : Nat := if f.finiteOnly then f.signBit - 2 else f.infCode - 1
def Fmt.defaultNaN (f : Fmt) : Nat :=
  if f.finiteOnly then f.signBit - 1 else f.infCode + 2 ^ (f.fb - 1)
/-- Exponent of the least quantum. -/
def Fmt.qmin (f : Fmt) : Int := 1 - (f.bias : Int) - f.fb

/-- A value: ± m * 2^e, an infinity, or a NaN with its fraction. -/
inductive FVal
  | fin (neg : Bool) (m : Nat) (e : Int)
  | inf (neg : Bool)
  | nan (neg : Bool) (frac : Nat) (signalling : Bool)
  deriving DecidableEq, Repr

/-- The value of a code; with `ftz` a subnormal is read as zero of its sign (R76). -/
def decodeF (f : Fmt) (ftz : Bool) (c : Nat) : FVal :=
  let neg := bitAt c (f.eb + f.fb)
  let mag := c % f.signBit
  let ex := mag / 2 ^ f.fb
  let fr := mag % 2 ^ f.fb
  if f.maxCode < mag && !(mag == f.infCode && !f.finiteOnly) then
    .nan neg fr (!f.finiteOnly && !bitAt fr (f.fb - 1))
  else if mag == f.infCode && !f.finiteOnly then .inf neg
  else if ex = 0 then (if ftz then .fin neg 0 0 else .fin neg fr f.qmin)
  else .fin neg (2 ^ f.fb + fr) (f.qmin + (ex - 1))

def FVal.neg? : FVal → Bool
  | .fin n _ _ => n | .inf n => n | .nan n _ _ => n
def FVal.negate : FVal → FVal
  | .fin n m e => .fin (!n) m e | .inf n => .inf (!n) | .nan n f s => .nan n f s
def FVal.isNaN : FVal → Bool
  | .nan _ _ _ => true
  | _ => false
def FVal.isSig : FVal → Bool
  | .nan _ _ s => s
  | _ => false
def FVal.isInf : FVal → Bool
  | .inf _ => true
  | _ => false
def FVal.isZero : FVal → Bool
  | .fin _ m _ => m == 0
  | _ => false

/-! ### Rounding (R75, R76, R78) -/

/-- Number of bits of a natural number. -/
def bitLen (m : Nat) : Nat := if m = 0 then 0 else m.log2 + 1

/-- m * 2^(e - q) rounded to an integer under a mode, and whether it was inexact. -/
def roundAt (rm : Nat) (neg : Bool) (m : Nat) (e q : Int) : Nat × Bool :=
  if q ≤ e then (m * 2 ^ (e - q).toNat, false)
  else
    let d := (q - e).toNat
    let n := m / 2 ^ d
    let r := m % 2 ^ d
    if r = 0 then (n, false)
    else
      let up := match rm with
        | 0 => decide (2 ^ d < 2 * r) || (2 * r == 2 ^ d && n % 2 == 1)
        | 1 => false
        | 2 => !neg
        | _ => neg
      (n + bit up, true)

/-- Does an overflow under this mode deliver infinity (R75)? -/
def overflowInf (rm : Nat) (neg : Bool) : Bool :=
  match rm with
  | 0 => true | 1 => false | 2 => !neg | _ => neg

/-- A nonzero exact value rounded into a format: code and flags. `narrow8`: a conversion into an 8-bit
format, where `sat8` replaces an infinity (R78). -/
def roundF (f : Fmt) (md : FpMode) (neg : Bool) (m : Nat) (e : Int) : Nat × Nat :=
  let sgn := bit neg * f.signBit
  if m = 0 then (sgn, 0)
  else
    let E := e + (bitLen m - 1)
    let emin := f.qmin + f.fb
    let q := if E < emin then f.qmin else E - f.fb
    let (n, inexact) := roundAt md.rm neg m e q
    let mag := if n < 2 ^ f.fb then n else ((q - f.qmin).toNat + 1) * 2 ^ f.fb + (n - 2 ^ f.fb)
    let (nu, _) := roundAt md.rm neg m e (E - f.fb)
    let tiny := decide (E < emin) && !(E == emin - 1 && nu == 2 ^ (f.fb + 1))
    if f.maxCode < mag then
      let fl := fOf + fNx
      if overflowInf md.rm neg then
        if f.width = 8 && md.sat8 then (sgn + f.maxCode, fl)
        else (sgn + (if f.finiteOnly then f.defaultNaN else f.infCode), fl)
      else (sgn + f.maxCode, fl)
    else if md.ftz && mag != 0 && decide (mag < 2 ^ f.fb) then (sgn, fUf + fNx)
    else (sgn + mag, (if inexact then fNx else 0) + (if tiny && inexact then fUf else 0))

/-- An infinite result or input in a format (R78). -/
def infIn (f : Fmt) (md : FpMode) (neg : Bool) : Nat :=
  bit neg * f.signBit +
    (if f.width = 8 && md.sat8 then f.maxCode else if f.finiteOnly then f.defaultNaN else f.infCode)

/-- The NaN that an operation delivers for its first NaN input, from format `src` into `dst` (R77). -/
def nanIn (src dst : Fmt) (md : FpMode) (neg : Bool) (frac : Nat) : Nat :=
  if md.dn then dst.defaultNaN
  else if dst.finiteOnly then bit neg * dst.signBit + dst.defaultNaN
  else
    let fr := if src.fb ≤ dst.fb then frac * 2 ^ (dst.fb - src.fb) else frac / 2 ^ (src.fb - dst.fb)
    bit neg * dst.signBit + dst.infCode + (fr ||| 2 ^ (dst.fb - 1))

/-- The NaN rule over the inputs of a unit in their order: the result, if some input is a NaN. -/
def nanRule (f : Fmt) (md : FpMode) (xs : List FVal) : Option (Nat × Nat) :=
  let sig := if xs.any FVal.isSig then fNv else 0
  match xs.find? FVal.isNaN with
  | some (.nan n fr _) => some (nanIn f f md n fr, sig)
  | _ => none

/-- An invalid operation without a NaN input (R77). -/
def invalidF (f : Fmt) : Nat × Nat := (f.defaultNaN, fNv)

/-! ### Exact sums and products -/

/-- An exact finite number, zero with its sign. -/
structure Exact where
  neg : Bool
  m : Nat
  e : Int
  deriving DecidableEq, Repr

def Exact.mul (x y : Exact) : Exact := ⟨xor x.neg y.neg, x.m * y.m, x.e + y.e⟩

def Exact.scaled (x : Exact) (q : Int) : Int :=
  let v : Int := x.m * 2 ^ (x.e - q).toNat
  if x.neg then -v else v

/-- The exact sum; a sum of zeros of one sign keeps it, any other zero sum is +0, or -0 when rounding
toward minus infinity (IEEE 754, R75). -/
def Exact.add (rm : Nat) (x y : Exact) : Exact :=
  if x.m = 0 && y.m = 0 then ⟨if x.neg == y.neg then x.neg else rm == 3, 0, 0⟩
  else if x.m = 0 then y
  else if y.m = 0 then x
  else
    let q := min x.e y.e
    let v := x.scaled q + y.scaled q
    if v = 0 then ⟨rm == 3, 0, 0⟩ else ⟨decide (v < 0), v.natAbs, q⟩

def Exact.round (x : Exact) (f : Fmt) (md : FpMode) : Nat × Nat := roundF f md x.neg x.m x.e

def FVal.exact : FVal → Exact
  | .fin n m e => ⟨n, m, e⟩
  | _ => ⟨false, 0, 0⟩

/-! ### Floating-point operations (R77, R96) -/

def addV (f : Fmt) (md : FpMode) (x y : FVal) : Nat × Nat :=
  match nanRule f md [x, y] with
  | some r => r
  | none => match x, y with
    | .inf a, .inf b => if a == b then (infIn f md a, 0) else invalidF f
    | .inf a, _ => (infIn f md a, 0)
    | _, .inf b => (infIn f md b, 0)
    | _, _ => (x.exact.add md.rm y.exact).round f md

def mulV (f : Fmt) (md : FpMode) (x y : FVal) : Nat × Nat :=
  match nanRule f md [x, y] with
  | some r => r
  | none =>
    let s := xor x.neg? y.neg?
    if x.isInf || y.isInf then (if x.isZero || y.isZero then invalidF f else (infIn f md s, 0))
    else (x.exact.mul y.exact).round f md

/-- a * b + c, rounded once; 0 × ∞ is invalid even beside a NaN c (R100). -/
def fmaV (f : Fmt) (md : FpMode) (x y z : FVal) : Nat × Nat :=
  if (x.isInf && y.isZero) || (x.isZero && y.isInf) then invalidF f
  else match nanRule f md [x, y, z] with
  | some r => r
  | none =>
    let s := xor x.neg? y.neg?
    if x.isInf || y.isInf then
      match z with
        | .inf b => if b == s then (infIn f md s, 0) else invalidF f
        | _ => (infIn f md s, 0)
    else match z with
      | .inf b => (infIn f md b, 0)
      | _ => ((x.exact.mul y.exact).add md.rm z.exact).round f md

/-- Order of two numbers, neither a NaN; zeros compare equal. -/
def ltV (x y : FVal) : Bool :=
  match x, y with
  | .inf a, .inf b => a && !b
  | .inf a, _ => a
  | _, .inf b => !b
  | _, _ =>
    let q := min x.exact.e y.exact.e
    decide (x.exact.scaled q < y.exact.scaled q)

def eqV (x y : FVal) : Bool := !x.isNaN && !y.isNaN && !ltV x y && !ltV y x

/-- The value as a code of its own format, exact. -/
def encodeExact (f : Fmt) (x : FVal) : Nat :=
  match x with
  | .inf n => bit n * f.signBit + f.infCode
  | .fin n m e => (roundF f { rm := 0, ftz := false, dn := true, sat8 := false } n m e).1
  | .nan n fr _ => bit n * f.signBit + f.infCode + fr

/-! ### Conversions (R77-R79) -/

def convF (src dst : Fmt) (md : FpMode) (c : Nat) : Nat × Nat :=
  match decodeF src md.ftz c with
  | .nan n fr sig => (nanIn src dst md n fr, if sig then fNv else 0)
  | .inf n => (infIn dst md n, 0)
  | .fin n m e => roundF dst md n m e

/-- A value to a signed integer of w bits (R79). -/
def toIntV (rm w : Nat) (x : FVal) : Nat × Nat :=
  let hi : Int := 2 ^ (w - 1) - 1
  let lo : Int := -(2 ^ (w - 1))
  let enc := fun (v : Int) => (v % 2 ^ w).toNat
  match x with
  | .nan _ _ _ => (0, fNv)
  | .inf n => (enc (if n then lo else hi), fSat)
  | .fin n m e =>
    let (k, inexact) := roundAt rm n m e 0
    let v : Int := if n then -(k : Int) else k
    if hi < v then (enc hi, fSat) else if v < lo then (enc lo, fSat)
    else (enc v, if inexact then fNx else 0)

/-- Floating point to a signed integer of w bits. -/
def toIntF (src : Fmt) (md : FpMode) (w : Nat) (c : Nat) : Nat × Nat := toIntV md.rm w (decodeF src md.ftz c)

/-- A signed integer to floating point; an exact zero is +0. -/
def ofIntF (dst : Fmt) (md : FpMode) (v : Int) : Nat × Nat := roundF dst md (decide (v < 0)) v.natAbs 0

/-! ### LOG6 (R84-R88) -/

/-- The fraction table (R88). -/
def logFrac (i : Nat) : Nat :=
  match i % 4 with
  | 0 => 0x8000 | 1 => 0x9838 | 2 => 0xB505 | _ => 0xD745

def logL (c : Nat) : Int := signedOf c 5

/-- The exact value of an element under a scale code; none for NaR (R84, R85, R87). -/
def logExact (c sc : Nat) : Option Exact :=
  if sc = 0xFF || c = 0x30 then none
  else if c = 0x10 then some ⟨false, 0, 0⟩
  else
    let L := logL c
    some ⟨bitAt c 5, logFrac (L % 4).toNat, L / 4 - 15 + sc - 127⟩

/-- One step of a block sum: the sum and whether a NaR was met (R88, R127). -/
def blockStep (acc : Int) (nar : Bool) (a b : Nat) : Int × Bool :=
  if a = 0x30 || b = 0x30 then (acc, true)
  else if a = 0x10 || b = 0x10 then (acc, nar)
  else
    let q := logL a + logL b
    let term : Int := logFrac (q % 4).toNat * 2 ^ (q / 4 + 8).toNat
    (if xor (bitAt a 5) (bitAt b 5) then acc - term else acc + term, nar)

/-- 4 * log2 of a positive dyadic, rounded to the nearest integer: the halfway points 2^((2j+1)/8) are
irrational, so comparing eighth powers decides (R86). -/
def quarterLog (m : Nat) (e : Int) : Int :=
  let E := e + (bitLen m - 1)
  let f := bitLen m - 1
  -- x = 2^E * (m / 2^f), and m / 2^f lies in [1, 2)
  let above := fun (j : Nat) => decide (2 ^ (2 * j + 1) * 2 ^ (8 * f) < m ^ 8)
  4 * E + bit (above 0) + bit (above 1) + bit (above 2) + bit (above 3)

end Sys2Proof.Machine
end

