-- ==== Sys2Proof/Machine/Operands.lean ====
section
/-!
DEFINITION. Operand forms: lanes and sub-elements of vector values (R73, R92), effective addresses (R167),
and the S, VA and VB registers that an operation names, for the interlock of R47.
-/
namespace Sys2Proof.Machine

/-- Lane l of a vector value. -/
def lane (v : Vec) (l : Nat) : Word32 := BitVec.ofNat 32 (bits v.toNat (32 * l) 32)

/-- The vector whose lanes are the list, lane 0 first. -/
def ofLanes (ls : List Word32) : Vec := BitVec.ofNat 4096 (ls.foldr (fun x acc => x.toNat + 2 ^ 32 * acc) 0)

def lanes (v : Vec) : List Word32 := (List.range 128).map fun l => lane v l

/-- The 4096-bit mask of the lanes whose bit is set. -/
def laneBits (m : LaneMask) : Nat :=
  (List.range 128).foldr (fun l acc => (if m.getLsbD l then 2 ^ 32 - 1 else 0) + 2 ^ 32 * acc) 0

/-- The vector value under which a mask enters a bypass (R98). -/
def maskVec (m : LaneMask) : Vec := BitVec.ofNat 4096 (laneBits m)

def allLanes : Nat := 2 ^ 4096 - 1

/-- A 64-bit wrapping sum of a base and a signed displacement in units (R167). -/
def effAddr (base : Word64) (disp : Int) (unit : Nat) : Nat :=
  (base + BitVec.ofInt 64 (disp * unit)).toNat

/-- A signed field. -/
def sdisp {n : Nat} (d : BitVec n) : Int := d.toInt

def srcS : SSrc → List Dest
  | .reg r => [.s r.toNat]
  | .latch _ => []
def dstS : SDst → List Dest
  | .reg r => [.s r.toNat]
  | .transient => []
def srcV (f : VSlot) : VSrc → List Dest
  | .reg r => [.v f r.toNat]
  | .latch _ => []

def xdstRegs : XDst → List Dest
  | .s r => [.s r.toNat] | .va r => [.v .va r.toNat] | .vb r => [.v .vb r.toNat] | _ => []
def xsrcRegs : XSrc → List Dest
  | .s r => srcS r | .va r => srcV .va r | .vb r => srcV .vb r | _ => []

/-- The S, VA and VB registers that an operation reads or writes (R47). -/
def namedRegs (i : Instr) (ntp : Nat) : List Dest :=
  match i with
  | .add _ d a b | .sub _ d a b | .and _ d a b | .or _ d a b | .xor _ d a b | .shl _ d a b | .shr _ d a b
  | .sar _ d a b | .rot _ d a b | .min _ d a b | .max _ d a b | .minu _ d a b | .maxu _ d a b
  | .mul _ d a b | .mulh _ d a b | .mulhu _ d a b | .div _ d a b | .divu _ d a b | .rem _ d a b
  | .remu _ d a b | .sel _ d a b _ => dstS d ++ srcS a ++ srcS b
  | .addi _ d a _ | .andi _ d a _ | .ori _ d a _ | .xori _ d a _ | .shli _ d a _ | .shri _ d a _
  | .sari _ d a _ | .roti _ d a _ | .clz _ d a | .ctz _ d a | .popc _ d a | .bswap _ d a | .lih _ d a _ =>
    dstS d ++ srcS a
  | .li _ d _ | .call _ d _ | .sysr _ d _ | .evpop _ d | .frd _ d | .frdOwn _ d => dstS d
  | .ceq _ _ a b | .cne _ _ a b | .clt _ _ a b | .cltu _ _ a b | .cle _ _ a b | .cleu _ _ a b
  | .ntile _ a b =>
    srcS a ++ srcS b ++ (match i with | .ntile _ _ _ => [.s (60 + ntp)] | _ => [])
  | .ret _ a | .jr _ a | .loop _ a _ _ | .sysw _ a _ | .ipf _ a | .ipin _ a | .iunpin _ a | .fwait _ a
  | .sts _ a _ _ _ _ | .strel _ a _ _ _ _ | .ffill _ a _ _ | .aadd _ a _ _ _ | .amin _ a _ _ _ _
  | .amax _ a _ _ _ _ | .axchg _ a _ _ _ => srcS a
  | .acas _ a c _ _ _ => srcS a ++ [.s c.toNat]
  | .vectorChain f _ ch =>
    (match ch.dst with
      | .reg r => if ch.op2 == .fcmp || ch.op2 == .icmp then [] else [.v f r.toNat]
      | .transient => []) ++ srcV f ch.a ++ srcV f ch.b ++ srcV f ch.c
  | .mdrain _ _ _ (.vec f r) _ => [.v f r.toNat]
  | .ldv _ f d _ _ _ | .ldvt _ f d _ _ _ _ _ | .ldl _ f d _ _ | .ldgv _ f d _ _ => [.v f d.toNat]
  | .ldvp _ f d _ _ _ => [.v f d.toNat, .v f (d.toNat + 1)]
  | .ldvx _ f d _ _ x _ | .ldvg _ f d _ x _ => .v f d.toNat :: srcV f x
  | .lds _ d _ _ _ _ | .ldacq _ d _ _ _ _ => [.s d.toNat]
  | .stv _ f r _ _ _ | .stvg _ f r _ _ | .stl _ f r _ _ | .stsv _ f r _ _ _ _ _ => srcV f r
  | .stvp _ f r _ _ _ => [.v f r.toNat, .v f (r.toNat + 1)]
  | .stvx _ f r _ _ x | .stvgScatter _ f r _ x => .v f x.toNat :: srcV f r
  | .xcp _ d a _ => xdstRegs d ++ xsrcRegs a
  | .spawn _ a b c | .dctrSet _ a b c => [.s a.toNat, .s b.toNat, .s c.toNat]
  | .dctrDec _ a => [.s a.toNat]
  | _ => []

end Sys2Proof.Machine
end

