-- ==== Sys2Proof/Machine/Landing.lean ====
section
/-!
DEFINITION. RESULT_LANDING (R46): the results due in the bundle about to issue land, with their collisions
(R48-R50), their entry into the bypasses (R44) and their flags (R83); GLOBAL_LOAD_LANDING (R47, R188) and
the idempotence tracker that a landing drain consults (R132, R366).
-/
namespace Sys2Proof.Machine

/-! ### The idempotence tracker (R366) -/

/-- Granule numbers of the tracker: three levels interleaved. -/
def granSp (a : Nat) : Nat := 3 * (a / 128)
def granPool (a : Nat) : Nat := 3 * (a / 128) + 1
def granLs (o : Nat) : Nat := 3 * (o / 128) + 2

/-- The granules of a byte range. -/
def granRange (g : Nat → Nat) (a n : Nat) : List Nat :=
  (List.range ((a % 128 + n + 127) / 128)).map fun i => g ((a / 128 + i) * 128)

/-- The first access to a granule in the segment decides whether it is read-first. -/
def Core.noteAccess (k : Core) (gs : List Nat) (read : Bool) : Core :=
  k.modRcv fun r => { r with seen := gs.foldl (fun t g =>
    match Table.get? t g with
    | some _ => t
    | none => Table.put t g read) r.seen }

/-- A write breaches the tracker when a granule is read-first in the current segment, or in the previous
one while that is not sounder-clear. -/
def Core.breaches (k : Core) (gs : List Nat) (cycle : Nat) : Bool :=
  gs.any fun g => Table.get k.rcv.seen false g ||
    (decide (cycle < k.rcv.prevClear) && Table.get k.rcv.prevSeen false g)

/-! ### Landing (R44, R46, R48-R50) -/

/-- The slot that owns the file a result lands in (R40). -/
def owner : Dest → Slot
  | .s _ | .p _ | .byS => .s
  | .v .va _ | .k .va _ | .byV .va => .va
  | .v .vb _ | .k .vb _ | .byV .vb => .vb
  | .e _ => .k
  | .la _ => .l
  | .ta _ => .t
  | .xa _ => .x
  | .zm | .sp _ => .m

/-- A destination whose file takes no write never collides (R41, R50); nor does a transient. -/
def collides : Dest → Bool
  | .s r | .p r | .k _ r => r != 0
  | .v _ _ | .e _ | .la _ | .ta _ | .xa _ => true
  | .byS | .byV _ | .sp _ | .zm => false

/-- Precedence among results of slots that do not own the register (R48, rule 3). -/
def slotRank : Slot → Nat
  | .m => 0 | .l => 1 | .y => 2 | .x => 3 | _ => 4

/-- Does result a prevail over result b in the file, both aimed at one register (R48)? The list is in
issue order, so `later` says that a was issued later. -/
def prevails (a b : Result) (later : Bool) : Bool :=
  let o := owner a.dest
  if a.slot == o && b.slot != o then true
  else if b.slot == o && a.slot != o then false
  else if a.slot == b.slot then later
  else decide (slotRank a.slot < slotRank b.slot)

/-- Insertion by issue bundle and then by mask order of the issuing slot (R44). -/
def insertIssue (r : Result) : List Result → List Result
  | [] => [r]
  | x :: xs =>
    if r.issued < x.issued || (r.issued == x.issued && decide (r.slot.num < x.slot.num)) then r :: x :: xs
    else x :: insertIssue r xs

def issueOrder (l : List Result) : List Result := l.foldl (fun acc r => insertIssue r acc) []

/-- How a result fares: it reaches the file, only the bypass, or is discarded with `coll` (R49). -/
inductive Fate
  | file | bypass | discarded
  deriving DecidableEq, Repr

def fateOf (l : List (Nat × Result)) (i : Nat) (r : Result) : Fate :=
  let rivals := l.filter fun x => x.1 != i && x.2.dest == r.dest
  if !collides r.dest then .file
  else if rivals.any fun x => x.2.slot != r.slot && prevails x.2 r (decide (i < x.1)) then .discarded
  else if rivals.any fun x => x.2.slot == r.slot && decide (i < x.1) then .bypass
  else .file

/-- The value of a masked write over an old value. -/
def mergeBits (old val mask : Nat) : Nat := (old ^^^ (old &&& mask)) ||| (val &&& mask)

/-- A result writes its file (unless only its bypass takes it) and enters its bypass. -/
def Regs.land (r : Regs) (x : Result) (toFile : Bool) : Regs :=
  match x.dest with
  | .s n =>
    let v := BitVec.ofNat 64 x.val
    { r with byS := r.byS.enter v, s := if toFile && n != 0 then Table.put r.s n v else r.s }
  | .p n =>
    let b := x.val % 2
    { r with byS := r.byS.enter (BitVec.ofNat 64 b),
             p := if toFile && n != 0 then BitVec.ofNat 16 (mergeBits r.p.toNat (b * 2 ^ n) (2 ^ n)) else r.p }
  | .v .va n =>
    let v := BitVec.ofNat 4096 (mergeBits (Table.get r.va 0 n).toNat x.val x.mask)
    { r with byVA := r.byVA.enter v, va := if toFile then Table.put r.va n v else r.va }
  | .v .vb n =>
    let v := BitVec.ofNat 4096 (mergeBits (Table.get r.vb 0 n).toNat x.val x.mask)
    { r with byVB := r.byVB.enter v, vb := if toFile then Table.put r.vb n v else r.vb }
  | .k .va n =>
    let old := if n = 0 then BitVec.allOnes 128 else Table.get r.ka 0 n
    let v : LaneMask := BitVec.ofNat 128 (mergeBits old.toNat x.val x.mask)
    { r with byVA := r.byVA.enter (maskVec v), ka := if toFile && n != 0 then Table.put r.ka n v else r.ka }
  | .k .vb n =>
    let old := if n = 0 then BitVec.allOnes 128 else Table.get r.kb 0 n
    let v : LaneMask := BitVec.ofNat 128 (mergeBits old.toNat x.val x.mask)
    { r with byVB := r.byVB.enter (maskVec v), kb := if toFile && n != 0 then Table.put r.kb n v else r.kb }
  | .e n =>
    let v := BitVec.ofNat 768 x.val
    { r with byK := r.byK.enter v, e := if toFile then Table.put r.e n v else r.e }
  | .la n =>
    let v := BitVec.ofNat 64 x.val
    { r with byL := r.byL.enter v, la := if toFile then Table.put r.la n v else r.la }
  | .ta n =>
    let v := BitVec.ofNat 64 x.val
    { r with byT := r.byT.enter v, ta := if toFile then Table.put r.ta n v else r.ta }
  | .xa n =>
    let v := BitVec.ofNat 64 x.val
    { r with byX := r.byX.enter v, xa := if toFile then Table.put r.xa n v else r.xa }
  | .byS => { r with byS := r.byS.enter (BitVec.ofNat 64 x.val) }
  | .byV .va => { r with byVA := r.byVA.enter (BitVec.ofNat 4096 x.val) }
  | .byV .vb => { r with byVB := r.byVB.enter (BitVec.ofNat 4096 x.val) }
  | .zm | .sp _ => r

/-- The bytes of a landing drain that its mask enables: bits of `mask` come four bytes at a time. -/
def drainBytes (m : Memory) (addr val mask : Nat) : Nat → Memory
  | 0 => m
  | j + 1 =>
    let m1 := drainBytes m addr val mask j
    if bitAt mask (8 * j) then m1.write (addr + j) (BitVec.ofNat 8 (bits val (8 * j) 8)) else m1

/-- The destination specifier and the size in bytes of a file's value, as a signature holds them (R373). -/
def sigDest : Dest → Option (Nat × Nat)
  | .s r => some (r, 8) | .p r => some (r, 1) | .v _ r => some (r, 512) | .k _ r => some (r, 16)
  | .e r => some (r, 96) | .la r => some (r, 8) | .ta r => some (r, 8) | .xa r => some (r, 8)
  | .zm | .byS | .byV _ | .sp _ => none

/-- The value that a file receives from a result. -/
def fileValue (r : Regs) (x : Result) : Nat :=
  match x.dest with
  | .v .va n => mergeBits (Table.get r.va 0 n).toNat x.val x.mask
  | .v .vb n => mergeBits (Table.get r.vb 0 n).toNat x.val x.mask
  | .k .va n => mergeBits (Table.get r.ka 0 n).toNat x.val x.mask
  | .k .vb n => mergeBits (Table.get r.kb 0 n).toNat x.val x.mask
  | _ => x.val

/-- Has a result been issued in the segment that a rerun repeats? -/
def Core.inRerun (k : Core) (x : Result) : Bool := match k.rcv.rps.head? with | some rp => decide (rp.stream ≤ x.issued) | none => false

/-- A result written to a file joins the record of the operation of the rerun that issued it (R373). -/
def Core.sigLand (k : Core) (x : Result) (toFile : Bool) : Core :=
  match toFile && collides x.dest && k.inRerun x, sigDest x.dest with
  | true, some (n, size) => k.sigNote x.issued x.slot (leBytes 2 n ++ leBytes size (fileValue k.regs x))
  | _, _ => k

/-- One due result lands (R46): file, bypass, flags, `coll`. A drain into the scratchpad that breaches
the tracker does not take place and faults in this bundle (R132), as a load does whose late data is poisoned (R371). -/
def landOne (cycle cid : Nat) (k : Core) (x : Result) (fate : Fate) : Core :=
  let k1 := k.modSeq fun q => { q with raised := q.raised ||| x.flags }
  let stop := fun (k : Core) (slot : Slot) (code : Nat) => k.modSeq fun q =>
    { q with efault := some { code := code, core := cid, slot := slot.num, addr := q.pc, atExec := true, safe := q.inBundle && q.bsafe } }
  if x.bad then stop k x.slot 0x0C
  else match fate, x.dest with
  | .discarded, _ =>
    (k.modRegs fun r => { r with fstat := setColl r.fstat }).modSeq fun q => { q with raisedStat := q.raisedStat ||| 1 }
  | _, .zm =>
    k1.modArr fun a => { a with zm := BitVec.ofNat 96 x.val, blockMode := bitAt x.val 96 }
  | _, .sp addr =>
    let gs := (((List.range 96).filter fun j => bitAt x.mask (32 * j)).map fun j => granSp (addr + 4 * j)).dedup
    if k.breaches gs cycle then stop k1 .m 0x06
    else { k1.noteAccess gs false with sp := drainBytes k.sp addr x.val x.mask 384 }
  | _, _ => (k1.sigLand x (fate == .file)).modRegs fun r => { r.land x (fate == .file) with fpc := raiseFpc r.fpc x.flags }

def number {α : Type} : Nat → List α → List (Nat × α)
  | _, [] => []
  | n, x :: xs => (n, x) :: number (n + 1) xs

/-- Every result due by the bundle about to issue lands. What a bundle has raised before it stopped in place stays raised when it
is issued again (R83, R287). -/
def Core.landDue (k : Core) (cycle cid : Nat) : Core :=
  let due := issueOrder (k.seq.flight.filter fun r => decide (r.due ≤ k.seq.stream))
  let k0 := k.modSeq fun q =>
    { q with flight := q.flight.filter fun r => !decide (r.due ≤ k.seq.stream),
             raised := if q.reissue then q.raised else 0, raisedStat := if q.reissue then q.raisedStat else 0 }
  let l := number 0 due
  l.foldl (fun k x => landOne cycle cid k x.2 (fateOf l x.1 x.2)) k0

/-- Has a load's register an exposed result still to land that was issued before it (R47)? -/
def Core.blocked (k : Core) (g : GLoad) : Bool :=
  k.seq.flight.any fun r => r.dest == g.dest && decide (r.issued < g.issued)

/-- RESULT_LANDING (R46) on the core whose bundle is about to issue. -/
def execResultLanding (s : State) : Host.Outcome State Fault Refusal :=
  .next (s.modCur fun k => k.landDue s.cycle s.turn)

end Sys2Proof.Machine
end

