-- ==== Sys2Proof/Machine/Sequence.lean ====
section
/-!
DEFINITION. The sequencer around the slots: segments and rewind points (R67, R365, R366), the header's
marks (R34, R285, R389, R390), code residency (R285), the choice of the next bundle (R278) and the end of
a bundle with the delivery of its execution fault (R57, R393).
-/
namespace Sys2Proof.Machine

/-! ### Code (R36, R37, R276, R285) -/

/-- A marked bundle start in a section that the segment table holds (R280). -/
def Program.isStart (p : Program) (a : CodeAddr) : Bool :=
  p.starts.contains a.toNat && (a.toNat / 65536 == 0 || (Table.get? p.overlays (a.toNat / 65536)).isSome)

/-- Code addresses wrap within their section (R276). -/
def advance (a : CodeAddr) (n : Nat) : CodeAddr :=
  BitVec.ofNat 22 (a.toNat / 65536 * 65536 + (a.toNat + n) % 65536)

/-- The 512 bits of code from a word on; an unlisted word reads 0. -/
def Program.window (p : Program) (a : CodeAddr) : Nat → Nat
  | 0 => 0
  | n + 1 => (Table.get p.code 0 a.toNat).toNat + 2 ^ 32 * p.window (advance a 1) n

/-- The bundle at an address; none is the illegal-bundle fault, which the bitmap can also raise (R37). -/
def Program.bundleAt (p : Program) (a : CodeAddr) : Option Bundle :=
  if !p.isStart a then none
  else match decodeBundle (p.window a 16) with
    | none => none
    | some b =>
      if (List.range b.len).any fun i => i != 0 && p.starts.contains (advance a i).toNat then none else some b

def overlayOf (a : CodeAddr) : Nat := a.toNat / 65536

/-- Resident in the core's instruction memory (R285). -/
def Core.hasCode (k : Core) (a : CodeAddr) : Bool := overlayOf a == 0 || k.resident.contains (overlayOf a)

/-- Starts the copy of an overlay into its frame in every core of the team, unless it is resident or being
copied, or is no overlay (R285, R286, R345). -/
def State.startCopy (s : State) (c ovl : Nat) : State :=
  let k := s.core c
  match k.task, Table.get? (s.progOf c).overlays ovl with
  | some t, some o =>
    if ovl = 0 || k.resident.contains ovl || k.copying.any (·.1 == ovl) then s
    else (s.coresOf t).foldl (fun s d => s.modCore d fun q =>
      { q with copying := q.copying ++ [(ovl, s.cycle + 24 + o.lines)] }) s
  | _, _ => s

/-- The overlays that occupy the frame of an overlay. -/
def Program.sharing (p : Program) (ovl : Nat) : List Nat :=
  match Table.get? p.overlays ovl with
  | none => []
  | some o => (p.overlays.filter fun e => e.2.frame == o.frame && e.1 != ovl).map (·.1)

/-- OVERLAY_COPY_COMPLETE: the copy takes the frame, unless a pin or the next bundle of a core of the team
keeps the overlay that is resident there (R285). A core that issues no more has no next bundle. -/
def execOverlayCopyComplete (core ovl : Nat) (s : State) : Host.Outcome State Fault Refusal :=
  let k := s.core core
  let due := k.copying.any fun e => e.1 == ovl && decide (e.2 ≤ s.cycle)
  match k.task with
  | none => .next s
  | some t =>
    let team := s.coresOf t
    let old := (s.progOf core).sharing ovl
    let here := old.filter fun o => team.any fun d => (s.core d).resident.contains o
    let kept := team.any fun d => (s.core d).pins.any (here.contains ·) ||
      (!((s.core d).seq.halted || (s.core d).seq.ended) && here.contains (overlayOf (s.core d).seq.pc))
    if !due || kept then .next s
    else .next (team.foldl (fun s d => s.modCore d fun q =>
      { q with resident := ovl :: q.resident.filter (fun o => o != ovl && !old.contains o),
               copying := q.copying.filter (·.1 != ovl) }) s)

/-! ### Segments and rewind points (R140, R217, R277, R301, R365, R366) -/

/-- The current segment of a core ends in this cycle: what it issued becomes strike-clear W later (R217). -/
def State.closeSegment (s : State) (c : Nat) : State :=
  let seg := (s.core c).rcv.seg
  let at_ := some (s.cycle + Config.W)
  let end_ := fun (w : Write) => if w.core == c && w.clearAt.isNone && decide (w.seg ≤ seg) then { w with clearAt := at_ } else w
  let mark := fun (o : EngOp) => if o.clearAt.isNone && o.seg ≤ seg then { o with clearAt := at_ } else o
  let s1 := s.modClu (clusterOf c) fun cl =>
    { cl with held := cl.held.map fun h =>
        { h with w := end_ h.w } }
  let s2 := { s1 with stages := s1.stages.map fun (e : Nat × Stage) =>
    (e.1, { e.2 with ctrOps := e.2.ctrOps.map fun (o : CounterOp) =>
        if o.core == c && o.clearAt.isNone then { o with clearAt := at_ } else o }) }
  let s3 := match (s.core c).task with
    | some t => s2.modTask t fun x => { x with wlog := x.wlog.map end_ }
    | none => s2
  let s4 := s3.modCore c fun k => k.modRcv fun r =>
    { r with ends := Table.put (r.ends.filter fun e => decide (s.cycle < e.2 + Config.W)) seg ((Table.get? r.ends seg).getD s.cycle) }
  let s5 := s4.modHost fun h => { h with log := h.log.map fun p => match p.by' with
    | some (d, g) => if d == c && g ≤ seg && p.readableAt.isNone then { p with readableAt := at_ } else p
    | none => p }
  s5.modCore c fun k => k.modEng fun e =>
    { e with unWrites := e.unWrites.map end_,
             notes := e.notes.map fun w => if w.clearAt.isNone then { w with clearAt := at_ } else w,
             copyQ := e.copyQ.map mark, stashQ := e.stashQ.map mark, chanQ := e.chanQ.map mark,
             redQ := e.redQ.map mark, regQ := e.regQ.map mark,
             atomics := e.atomics.map fun (a : Atomic) => if a.clearAt.isNone then { a with clearAt := at_ } else a,
             phaserOps := e.phaserOps.map fun (a : PhaserOp) => if a.clearAt.isNone then { a with clearAt := at_ } else a }

/-- The checkpoint of a core as it stands (R140, R277, R301, R365, R389). -/
def State.checkpoint (s : State) (c seg : Nat) : RewindPoint :=
  let k := s.core c
  { cycle := s.cycle, seg := seg, stream := k.seq.stream, pc := k.seq.pc, loops := k.seq.loops,
    fpc := k.regs.fpc, fstat := k.regs.fstat, budget := ((s.taskOf c).map (·.budget)).getD 0,
    spawnSeq := k.eng.spawnSeq, arr := k.arr, e := k.regs.e, ys := k.ys, cyc := k.seq.cyc,
    lclock := k.regs.lclock, masks := k.seq.flight.filter fun r => r.dest == .zm, half := k.eng.half,
    fenceR := k.eng.fenceR, fenceW := k.eng.fenceW }

/-- A core takes a rewind point and begins a new segment; the point of the segment that ends is held for
1,404 cycles more (R365). -/
def State.takePoint (s : State) (c : Nat) : State :=
  let s1 := s.closeSegment c
  let seg := (s.core c).rcv.seg + 1
  let rp := s1.checkpoint c seg
  s1.modCore c fun k => k.modRcv fun r =>
    let old := (r.rps.take 1).map fun p => { p with freedAt := some (s.cycle + Config.sounderBound) }
    { r with rps := rp :: old, seg := seg, segStart := s.cycle, fresh := true, seen := [], prevSeen := r.seen,
             prevClear := s.cycle + Config.sounderBound, deps := [],
             undo := r.undo.filter fun u => decide (seg ≤ u.1 + 1), engws := r.engws.filter fun u => decide (seg ≤ u.1 + 1) }

/-- REWIND_POINT_EXPIRY (R365, R367): the point of a previous segment is freed 1,404 cycles after it. -/
def execRewindPointExpiry (core : Nat) (s : State) : Host.Outcome State Fault Refusal :=
  .next (s.modCore core fun k => k.modRcv fun r =>
    { r with rps := r.rps.filter fun p => match p.freedAt with
        | some f => decide (s.cycle < f)
        | none => true })

/-- 64-bit CRC of R373, one bit at a time, most significant bit first. -/
def crcBits (crc : Nat) (b : Nat) : Nat → Nat
  | 0 => crc
  | n + 1 =>
    let top := crc / 2 ^ 63
    let inBit := b / 2 ^ n % 2
    let sh := crc * 2 % 2 ^ 64
    crcBits (if top != inBit then sh ^^^ 0x42F0E1EBA9EA3693 else sh) b n
def crc64 (bytes : List Byte) : Word64 :=
  BitVec.ofNat 64 (bytes.foldl (fun c b => crcBits c b.toNat 8) (2 ^ 64 - 1))

/-- Records in the order of their issue bundle and then of mask order. -/
def insertSig (r : SigRec) : List SigRec → List SigRec
  | [] => [r]
  | x :: xs =>
    if r.issued < x.issued || (r.issued == x.issued && decide (r.slot.num < x.slot.num)) then r :: x :: xs
    else x :: insertSig r xs
def signature (l : List SigRec) : Word64 :=
  crc64 ((l.foldl (fun acc r => insertSig r acc) []).map (·.bytes)).flatten

/-- `hwcfg` counts the cores that are enabled, and the clusters with one (R5, R6); a retired core enters the configuration
record that a later boot reads (assumption log 88). -/
def State.recount (s : State) : State :=
  let off := (List.range 192).filter fun c => (s.core c).retired
  let alive := (List.range 24).filter fun n => (List.range 8).any fun j => !(s.core (8 * n + j)).retired
  { s with hwcfg := BitVec.ofNat 64 (s.hwcfg.toNat % 2 ^ 19 + alive.length * 2 ^ 19 + (192 - off.length) * 2 ^ 24),
           record := { s.record with disabled := off } }

/-- The writes of a task that has left its cores can no longer be formed: its cores are free, and its context takes the
context fault (R367). -/
def State.loseWrites (s : State) (team : List Nat) (pasid : Nat) (r : HandlerRecord) : State :=
  (team.foldl (fun (s : State) d => s.modCore d fun q => { q with seq := { q.seq with ended := true }, rcv := { q.rcv with rerun := none } }) s).contextFault
    pasid r

/-- The rewind point of a core's recovery: the newest while its reruns go on, and behind them the one before it as long as it
is held (R372, R376). -/
def Core.recoveryPoint (k : Core) : Option RewindPoint := if k.rcv.rerun.isSome then k.rcv.rps.head? else k.rcv.rps.getLast?

/-- The two runs disagree: the rerun-mismatch fault is logged, the core is retired and its clock gated,
its team slot leaves service, and the task is put back at its rewind points to be resumed elsewhere with
the two reruns first (R15, R376). A task that had left its cores keeps its state and its children, and its context takes
the context fault (R367). -/
def State.retireCore (s : State) (c : Nat) : State :=
  let k := s.core c
  let s1 := s.logCore 1 c 15 k.seq.pc 0x0D false
  let s2 := (s1.modCore c fun q => { q with retired := true }).recount
  match k.task with
  | none => s2
  | some t =>
    match s2.task? t with
    | none => s2
    | some tk =>
      let s3 := s2.modStage tk.stage fun g => { g with lost := (8 * tk.cluster + tk.slot) :: g.lost }
      let team := s3.coresOf t
      let left := match k.rcv.rerun with | some r => r.left | none => false
      let s4 := team.foldl (fun s d => match (s.core d).recoveryPoint with
        | some rp => s.rewindTo d rp left
        | none => s) s3
      let rec_ : HandlerRecord :=
        { stage := tk.stage, key := tk.key, kind := tk.kind, tag := tk.tag, code := 0x0D, trap := 0,
          addr := k.seq.pc, slot := 15, budgetLeft := tk.budget }
      let s5 := s4.modHost fun h => { h with handlerRecords := h.handlerRecords ++ [rec_] }
      if left then s5.loseWrites team tk.pasid rec_
      else s5.modTask t fun x => { x with state := .swapped, atOnce := true, retiring := true, event := none, resumable := false,
                                          swap := .saving (s.cycle + Config.microsecond + 1), rewindAt := some 0 }

/-- The end of a rerun of a core, and whether the two agree: after the first the core rewinds and runs again;
after the second the issue counts and the signatures, with what is still to land, are compared (R372, R373, R376), and places that agreeing reruns have read
are good again (R370). -/
def State.endRun (s : State) (c : Nat) : Bool × State :=
  let k := s.core c
  match k.rcv.rerun, k.rcv.rps.head? with
  | some r, some rp =>
    let rest := (k.seq.flight.filter k.inRerun).foldl (fun (k : Core) x => k.sigLand x true) k
    let sig := signature ((rest.rcv.rerun.map (·.sigs)).getD [])
    if !r.second then
      (false, (s.rewindTo c rp r.left).modCore c fun q => q.modRcv fun v =>
        { v with rerun := some { r with second := true, count := 0, count1 := r.count, sigs := [], sig1 := sig } })
    else if r.count1 != r.count || r.sig1 != sig then (false, s.retireCore c)
    else (true, (s.modCore c fun q => q.modRcv fun v => { v with rerun := none }).modClu (clusterOf c) fun k =>
      { k with errors := k.errors.filter fun e => e.1 != c })
  | _, _ => (true, s)

/-- SEG_BUNDLE (R365): a rewind point and a new segment. At the end of the first rerun the core rewinds
and runs again; at the end of the second the runs are compared (R372, R376). -/
def execSegBundle (s : State) : Host.Outcome State Fault Refusal :=
  let k := s.cur
  if k.rcv.fresh then .next s
  else match k.rcv.rerun with
    | some _ =>
      let (agreed, s1) := s.endRun s.turn
      .next (if agreed then s1.takePoint s.turn else s1.verdict .held)
    | none => .next (s.takePoint s.turn)

/-- OVL_BUNDLE: the copy of the next overlay of this section starts (R285, R346). -/
def execOvlBundle (s : State) : Host.Outcome State Fault Refusal :=
  let p := s.progOf s.turn
  let here := overlayOf s.cur.seq.pc
  let next := if here = 0 then (if p.overlays.isEmpty then 0 else 1) else ((Table.get? p.overlays here).map (·.next)).getD 0
  .next (s.startCopy s.turn next)

def saturate (x : Int) (m : Int) : Int := if m < x then m else if x < -m then -m else x

/-- MARKER_BUNDLE: logs the drift C - E, arms the trace, and may take a marker stop after the bundle
(R389, R390, R392); nothing of it during the reruns (R391). -/
def execMarkerBundle (expected : Word32) (s : State) : Host.Outcome State Fault Refusal :=
  let k := s.cur
  if k.rcv.rerun.isSome then .next s
  else
    let d : Int := (k.seq.cyc : Int) - expected.toNat
    let s1 := s.logCore 2 s.turn 15 k.seq.pc ((saturate d (2 ^ 25 - 1)) % 2 ^ 26).toNat true
    let lim := k.regs.driftlim.toNat
    let tlen := bits lim 16 20
    if bits lim 0 16 < d.natAbs && tlen != 0 then
      let s2 := s1.modCur fun q => q.modSeq fun v => { v with traceLeft := tlen, armed := true }
      if bitAt lim 63 then
        let s3 := s2.logCore 4 s.turn 15 k.seq.pc 0 true
        .next (s3.modCur fun q => q.modSeq fun v =>
          { v with trapped := [{ code := 0, core := s.turn, slot := 15, addr := v.pc, trap := 0xFFF0 }] })
      else .next s2
    else .next s1

/-! ### The end of a bundle (R57, R278, R393) -/

/-- LOOP_BACK_EDGE: rule 3 of R278 at the end of the top loop; elsewhere the sequential bundle. -/
def execLoopBackEdge (s : State) : Host.Outcome State Fault Refusal :=
  .next (s.modCur fun k => k.modSeq fun q =>
    match q.loops with
    | l :: rest =>
      if l.last = q.pc then
        if 1 < l.count then { q with pc := l.start, loops := { l with count := l.count - 1 } :: rest }
        else { q with pc := advance q.pc q.blen, loops := rest }
      else { q with pc := advance q.pc q.blen }
    | [] => { q with pc := advance q.pc q.blen })

/-- Interlock-trace causes (R390). -/
def traceCause : HoldCause → Option Nat
  | .interlock => some 1 | .level => some 2 | .slack => some 3 | .shadow => some 4
  | .residency => some 5 | .frontier => some 6 | .token => some 7 | .breakwater => some 8
  | .ywait | .place | .records => some 9 | .acquire => some 10
  | .window | .absent | .segment => none

/-- Slot of a trace record: that of the held operation, 0xF when the whole bundle is held (R390). -/
def traceSlot (h : Hold) : Nat :=
  match h.cause with
  | .interlock | .ywait | .place | .records | .acquire => h.slot
  | _ => 15

/-- A traced bundle that was delayed logs its delay (R390, R391). -/
def State.traceDelay (s : State) : State :=
  let q := s.cur.seq
  match q.hold, (q.hold.bind fun h => traceCause h.cause) with
  | some h, some cause =>
    if 0 < q.traceLeft && 0 < q.held && s.cur.rcv.rerun.isNone then
      s.logCore 3 s.turn (traceSlot h) q.pc (cause * 2 ^ 22 + Nat.min q.held (2 ^ 22 - 1)) true
    else s
  | _, _ => s

/-- The next bundle after one that has issued (R278), and the count of issued bundles (R46). -/
def State.nextBundle (s : State) : State :=
  let q := s.cur.seq
  let s1 := match q.next with
    | some a => s.modCur fun k => k.modSeq fun v => { v with pc := a }
    | none => match execLoopBackEdge s with
      | .next t => t
      | _ => s
  s1.modCur fun k =>
    { k with
      seq := { k.seq with next := none, stream := k.seq.stream + 1, hold := none, held := 0, inBundle := false, signalledAt := none,
                          traceLeft := if k.seq.armed then k.seq.traceLeft else k.seq.traceLeft - 1, armed := false, releaseAt := none, waitFrom := 0, waitAt := none, reissue := false, halted := k.seq.halted || k.seq.halting, halting := false,
                          fronted := false, bundleFpc := none },
      regs := { k.regs with donemask := 0 },
      rcv := { k.rcv with fresh := false,
                          rerun := k.rcv.rerun.map fun r => { r with count := r.count + 1 } } }

/-- The mode register of the bundle in issue: as it stood when the bundle was first issued (R82). -/
def Core.modeFpc (k : Core) : Word64 := k.seq.bundleFpc.getD k.regs.fpc

/-- The end of a bundle: its execution fault, if any, is taken with the slots that completed; otherwise
the stream moves to the next bundle, and then a trap of the bundle takes effect, or a debug stop; where it has both, the stop
follows once the trap has been answered (R392). -/
def State.finishBundle (s : State) : State :=
  let q := s.cur.seq
  match q.efault with
  | some f =>
    let done := q.bmask ^^^ (q.bmask &&& f.done)
    ((s.traceDelay.modCur fun k => k.modSeq fun v => { v with efault := none, inBundle := false, hold := none, held := 0, reissue := true }).takeFault
      { f with done := done }).verdict .faulted
  | none =>
    let s1 := s.traceDelay.nextBundle
    match q.trapped with
    | f :: rest => (s1.modCur fun k => k.modSeq fun v => { v with trapped := rest }).takeFault f
    | [] => s1

/-- WAIT_BUNDLE: a bundle with an empty slot mask issues and does nothing for one cycle (R34). -/
def execWaitBundle (s : State) : Host.Outcome State Fault Refusal := .next s.finishBundle

end Sys2Proof.Machine
end

