-- ==== Sys2Proof/Machine/Matrix.lean ====
section
/-!
DEFINITION. The matrix array: advancing beats, slices, cell arithmetic in every format, drains, masks and
bursts (R116-R134, R137-R141), and the K slot (R89, R135, R136).
-/
namespace Sys2Proof.Machine

/-! ### Formats of a slice (R121) -/

inductive Elem
  | fp (f : Fmt) | i8 | log6
  deriving DecidableEq, Repr

def Elem.bits : Elem → Nat
  | .fp f => f.width | .i8 => 8 | .log6 => 6

/-- A element, B element and depth D. -/
def sliceShape : MFmt → Elem × Elem × Nat
  | .f32 => (.fp FP32, .fp FP32, 1)
  | .bf16 => (.fp BF16, .fp BF16, 1)
  | .f16 => (.fp FP16, .fp FP16, 1)
  | .e4m3 => (.fp E4M3, .fp E4M3, 2)
  | .e5m2 => (.fp E5M2, .fp E5M2, 2)
  | .i8 => (.i8, .i8, 2)
  | .log6 => (.log6, .log6, 4)
  | .bf16e4m3 => (.fp BF16, .fp E4M3, 1)
  | .bf16e5m2 => (.fp BF16, .fp E5M2, 1)
  | .bf16log6 => (.fp BF16, .log6, 1)

/-- Bytes of the A part and of the B part. -/
def partBytes (f : MFmt) : Nat × Nat :=
  let (a, b, d) := sliceShape f
  (96 * d * a.bits / 8, 96 * d * b.bits / 8)

/-- The raw code of row or column x at step d (R121). -/
def elemCode (e : Elem) (depth : Nat) (tr : Bool) (part x d : Nat) : Nat :=
  let pos := if tr then 96 * d + x else x * depth + d
  Sys2Proof.bits part (e.bits * pos) e.bits

/-- The exact real value of an element; a LOG6 element takes its scale code (R87, R127). -/
def widen (e : Elem) (code scale : Nat) : FVal :=
  match e with
  | .fp f => decodeF f false code
  | .i8 => let v := signedOf code 8; .fin (decide (v < 0)) v.natAbs 0
  | .log6 => match logExact code scale with
    | some x => .fin x.neg x.m x.e
    | none => .nan false 0 false

/-! ### RoundFP32 over exact values (R127) -/

def mulExactV (x y : FVal) : FVal :=
  match x, y with
  | .nan _ _ _, _ | _, .nan _ _ _ => .nan false 0 false
  | .fin a m e, .fin b n k => .fin (xor a b) (m * n) (e + k)
  | x, y => if x.isZero || y.isZero then .nan false 0 false else .inf (xor x.neg? y.neg?)

def addExactV (x y : FVal) : FVal :=
  match x, y with
  | .nan _ _ _, _ | _, .nan _ _ _ => .nan false 0 false
  | .inf a, .inf b => if a == b then .inf a else .nan false 0 false
  | .inf a, _ | _, .inf a => .inf a
  | .fin a m e, .fin b n k => let z := Exact.add 0 ⟨a, m, e⟩ ⟨b, n, k⟩; .fin z.neg z.m z.e

/-- One rounding to nearest even of an exact sum. -/
def roundFP32 (x : FVal) : Nat :=
  match x with
  | .nan _ _ _ => FP32.defaultNaN
  | .inf n => infIn FP32 fixedMode n
  | .fin n m e => (roundF FP32 fixedMode n m e).1

/-! ### Cells (R118, R127, R128, R134) -/

def cellKey (plane : Bool) (i j : Nat) : Nat := bit plane * 9216 + i * 96 + j

def ArrayState.cell (a : ArrayState) (plane : Bool) (i j : Nat) : Word32 := Table.get a.z 0 (cellKey plane i j)

/-- Enabled(i, j). -/
def ArrayState.enabled (a : ArrayState) (i j : Nat) : Bool :=
  if a.blockMode then a.zm.getLsbD (12 * (i / 12) + j / 8) else a.zm.getLsbD i

/-- The block sum of a cell after the steps of one LOG6 slice. -/
def blockOf (a : ArrayState) (s : Slice) (i j : Nat) : Block :=
  let b := Table.get a.blk {} (96 * i + j)
  let r := (List.range 4).foldl (fun (acc : Int × Bool) d =>
    blockStep acc.1 acc.2 (elemCode .log6 4 false s.a i d) (elemCode .log6 4 s.tr s.b j d)) (b.sum.toInt, b.nar)
  { sum := BitVec.ofInt 48 r.1, nar := r.2 }

/-- The FP32 accumulator that the close of a block leaves (R88). -/
def closeBlock (z : Word32) (b : Block) (sa sb : Nat) : Nat :=
  if b.nar || sa = 0xFF || sb = 0xFF then FP32.defaultNaN
  else roundFP32 (addExactV (decodeF FP32 false z.toNat)
    (.fin (decide (b.sum.toInt < 0)) b.sum.toInt.natAbs ((sa : Int) + sb - 277)))

/-- The sum of a slice's products for cell (i, j) in the formats without block sums. -/
def sliceSum (s : Slice) (i j : Nat) : FVal :=
  let (ea, eb, d) := sliceShape s.fmt
  let term := fun k => mulExactV (widen ea (elemCode ea d false s.a i k) 0)
    (widen eb (elemCode eb d s.tr s.b j k) (Sys2Proof.bits s.sb (8 * j) 8))
  match d with
  | 1 => term 0
  | _ => addExactV (term 0) (term 1)

/-- Cell (i, j) applies a slice (R127). -/
def applyCell (s : Slice) (a : ArrayState) (i j : Nat) : ArrayState :=
  let key := cellKey s.plane i j
  if !a.enabled i j then (if s.closing then { a with blk := Table.del a.blk (96 * i + j) } else a)
  else if s.fmt = .log6 then
    let b := blockOf a s i j
    if s.closing then
      { a with z := Table.put a.z key (BitVec.ofNat 32 (closeBlock (a.cell s.plane i j) b
                      (Sys2Proof.bits s.sa (8 * i) 8) (Sys2Proof.bits s.sb (8 * j) 8))),
               blk := Table.del a.blk (96 * i + j) }
    else { a with blk := Table.put a.blk (96 * i + j) b }
  else { a with z := Table.put a.z key (BitVec.ofNat 32 (roundFP32
            (addExactV (decodeF FP32 false (a.cell s.plane i j).toNat) (sliceSum s i j)))) }

/-- The edge reads of a slice at distance k from its own beat, k below 96 (R128). -/
def edgeRead (e : Nat → BitVec 768) (s : Slice) (k : Nat) : Slice :=
  if k < 96 then
    let code := fun (r : Nat) => Sys2Proof.bits (e r).toNat (8 * k) 8 * 2 ^ (8 * k)
    if s.fmt = .log6 && s.closing then { s with sa := s.sa + code (2 * s.pair), sb := s.sb + code (2 * s.pair + 1) }
    else if s.fmt = .bf16log6 then { s with sb := s.sb + code (2 * s.pair + 1) }
    else s
  else s

/-- The cells of the antidiagonal i + j = k. -/
def diagonal (k : Nat) : List (Nat × Nat) :=
  ((List.range 96).filter fun i => decide (i ≤ k) && decide (k - i < 96)).map fun i => (i, k - i)

/-- One slice in one advancing bundle: its edge reads, then its cells. -/
def advanceSlice (e : Nat → BitVec 768) (beat : Nat) (a : ArrayState) (s : Slice) : ArrayState :=
  let k := beat - s.beat
  let s1 := edgeRead e s k
  let a1 := (diagonal k).foldl (fun a c => applyCell s1 a c.1 c.2) a
  if k < 190 then { a1 with wave := a1.wave ++ [s1] } else a1

/-- The advancing beat of a bundle (R117, R118): every slice in transit moves, in injection order. -/
def ArrayState.advance (a : ArrayState) (e : Nat → BitVec 768) : ArrayState :=
  let a1 := a.wave.foldl (advanceSlice e a.beat) { a with wave := [] }
  { a1 with beat := a.beat + 1 }

/-! ### Pushes (R123-R126, R137) -/

/-- Past the group's end, or bank rows of more than two banks (R123). -/
def bankRefused (off n : Nat) : Bool :=
  decide (Config.groupBytes < off + n) || decide (2 < (off + n - 1) / 256 - off / 256 + 1)

def groupBase : Group → Nat
  | .a => 0 | .b => Config.groupBytes

/-- Freezes the stream for want of a power token (R137). -/
def State.tokenHeld (s : State) (burst : Bool) : Bool :=
  !(s.clu (clusterOf s.turn)).hasToken && (burst || s.cur.arr.burst)

/-- The issue checks of a push in the order of R126: an FP32 push occupies the cells for four bundles, whatever follows. -/
def pushRefused (k : Core) (fmt : MFmt) (aoff boff : Nat) (burst : Bool) : Option Nat :=
  let n := partBytes fmt
  if !burst && !k.arr.burst then some 0x0F
  else if k.arr.mblk != 0 && fmt != MFmt.log6 then some 0x0F
  else if (match k.arr.lastF32 with
      | some b => decide (k.seq.stream ≤ b + 3)
      | none => false) then some 0x0F
  else if bankRefused aoff n.1 || bankRefused boff n.2 then some 0x04
  else none

/-- The slice that a push injects, with the array after it has counted the push. -/
def Core.inject (k : Core) (fmt : MFmt) (aoff boff pair : Nat) (tr : Bool) : Core :=
  let n := partBytes fmt
  let mblk := if fmt = MFmt.log6 then (k.arr.mblk + 1) % 6 else k.arr.mblk
  let sl : Slice := { beat := k.arr.beat, plane := k.arr.active, fmt := fmt, tr := tr, pair := pair,
                      closing := fmt == MFmt.log6 && mblk == 0, a := k.sp.readLE aoff n.1,
                      b := k.sp.readLE (Config.groupBytes + boff) n.2 }
  let k1 := k.noteAccess (granRange granSp aoff n.1 ++ granRange granSp (Config.groupBytes + boff) n.2) true
  k1.modArr fun a => ({ a with wave := a.wave ++ [sl], mblk := mblk, burst := true,
                               lastF32 := if fmt = MFmt.f32 then some k.seq.stream else a.lastF32 }).advance k.readE

/-- A push of any kind (R125, R126). -/
def State.push (s : State) (g : Guard) (fmt : MFmt) (aidx bidx : BitVec 14) (pair : BitVec 5) (tr burst : Bool) : State :=
  let aoff := 96 * aidx.toNat
  let boff := 96 * bidx.toNat
  if !s.cur.on g then s
  else match pushRefused s.cur fmt aoff boff burst with
    | some code => s.issueFault .m code
    | none =>
      if s.tokenHeld burst then s.holdFor .m .token
      else s.modCur fun k => k.inject fmt aoff boff pair.toNat tr

def execMpush (g : Guard) (fmt : MFmt) (aidx bidx : BitVec 14) (pair : BitVec 5) (s : State) :
    Host.Outcome State Fault Refusal := .next (s.push g fmt aidx bidx pair false false)
def execMpusht (g : Guard) (fmt : MFmt) (aidx bidx : BitVec 14) (pair : BitVec 5) (s : State) :
    Host.Outcome State Fault Refusal := .next (s.push g fmt aidx bidx pair true false)
def execMburst (g : Guard) (fmt : MFmt) (aidx bidx : BitVec 14) (pair : BitVec 5) (tr : Bool) (s : State) :
    Host.Outcome State Fault Refusal := .next (s.push g fmt aidx bidx pair tr true)

/-! ### Other beats (R130-R134) -/

def execMshift (g : Guard) (s : State) : Host.Outcome State Fault Refusal :=
  .next (if s.cur.on g then s.modCur fun k => k.modArr fun a => a.advance k.readE else s)
/-- `m.mhold` has no effect (R131). -/
def execMhold (_g : Guard) (s : State) : Host.Outcome State Fault Refusal := .next s
def execMend (g : Guard) (s : State) : Host.Outcome State Fault Refusal :=
  .next (if s.cur.on g then s.modCur fun k => k.modArr fun a => { a with burst := false } else s)

/-- The enabled columns of a row. -/
def ArrayState.enabledCols (a : ArrayState) (row : Nat) : List Nat := (List.range 96).filter (a.enabled row)

/-- Value and mask of a drained row: lane j in bits [32j+31:32j]. -/
def drainRow (a : ArrayState) (plane : Bool) (row : Nat) : Nat × Nat :=
  (a.enabledCols row).foldl (fun acc j =>
    (acc.1 + (a.cell plane row j).toNat * 2 ^ (32 * j), acc.2 + ones 32 * 2 ^ (32 * j))) (0, 0)

/-- `m.mdrain`: a row that does not exist is refused before a region that R123 refuses; R132 gives no order of the two
(assumption log 91). -/
def execMdrain (g : Guard) (plane : Bool) (row : BitVec 7) (target : DrainTarget) (clr : Bool) (s : State) :
    Host.Outcome State Fault Refusal :=
  let a := s.cur.arr
  let r := row.toNat
  let refused := match target with
    | .vec _ _ => false
    | .sp _ idx => bankRefused (96 * idx.toNat) 384
  let dest : Dest := match target with
    | .vec f v => .v f v.toNat
    | .sp grp idx => .sp (groupBase grp + 96 * idx.toNat)
  let v := drainRow a plane r
  let cols := a.enabledCols r
  .next (
    if !s.cur.on g then s
    else if 96 ≤ r then s.issueFault .m 0x0F
    else if refused then s.issueFault .m 0x04
    else s.modCur fun k =>
      let k1 := if cols.isEmpty then k else k.push .m 4 dest v.1 v.2 0
      if clr then k1.modArr fun x => { x with z := cols.foldl (fun z j => Table.del z (cellKey plane r j)) x.z } else k1)

/-- Every cell of the named planes becomes +0.0, whatever the mask holds (R133). -/
def execMclr (g : Guard) (p0 p1 : Bool) (s : State) : Host.Outcome State Fault Refusal :=
  .next (
    if !s.cur.on g then s
    else s.modCur fun k => k.modArr fun a =>
      { a with z := a.z.filter fun (e : Nat × Word32) => if e.1 < 9216 then !p0 else !p1 })

def execMswap (g : Guard) (s : State) : Host.Outcome State Fault Refusal :=
  .next (
    if !s.cur.on g then s
    else if s.cur.arr.mblk != 0 then s.issueFault .m 0x0F
    else s.modCur fun k => k.modArr fun a => { a with active := !a.active })

/-- The mask and its mode land in bundle n+6; the mask's 12 bytes are read at issue (R134). -/
def execMmask (g : Guard) (block : Bool) (src : MaskSrc) (s : State) : Host.Outcome State Fault Refusal :=
  let put := fun (k : Core) (v : Nat) => k.push .m 6 .zm (v % 2 ^ 96 + bit block * 2 ^ 96) (ones 97) 0
  .next (
    if !s.cur.on g then s
    else match src with
      | .ones => s.modCur fun k => put k (ones 96)
      | .sp grp idx =>
        let off := 16 * idx.toNat
        if bankRefused off 12 then s.issueFault .m 0x04
        else s.modCur fun k =>
          put (k.noteAccess (granRange granSp (groupBase grp + off) 12) true) (k.sp.readLE (groupBase grp + off) 12))

/-! ### The K slot (R89, R135, R136) -/

/-- A scale register from 96 codes, code 0 lowest. -/
def pushE (k : Core) (e : BitVec 6) (codes : List Byte) : Core := k.push .k 8 (.e e.toNat) (leNat codes) (ones 768) 0

/-- The un-swizzled codes of a bank word (R89). -/
def unswizzle (m : Memory) (addr w : Nat) : List Byte := (List.range 96).map fun q => m.read (addr + (q ^^^ (8 * w)))

def execKld (g : Guard) (e : BitVec 6) (grp : Group) (idx : BitVec 14) (s : State) : Host.Outcome State Fault Refusal :=
  let addr := groupBase grp + 128 * idx.toNat
  .next (
    if !s.cur.on g then s
    else if 12288 ≤ idx.toNat then s.execFault .k 0x05
    else s.modCur fun k =>
      pushE (k.noteAccess (granRange granSp addr 128) true) e (unswizzle k.sp addr (idx.toNat % 4)))

def execKldp (g : Guard) (e : BitVec 6) (grp : Group) (idx : BitVec 16) (s : State) : Host.Outcome State Fault Refusal :=
  let off := 32 * idx.toNat
  let addr := groupBase grp + off
  .next (
    if !s.cur.on g then s
    else if Config.groupBytes < off + 96 then s.execFault .k 0x05
    else s.modCur fun k => pushE (k.noteAccess (granRange granSp addr 96) true) e (k.sp.readBytes addr 96))

def execKmov (g : Guard) (d r : BitVec 6) (s : State) : Host.Outcome State Fault Refusal :=
  .next (if s.cur.on g then s.modCur fun k => k.push .k 8 (.e d.toNat) (k.readE r.toNat).toNat (ones 768) 0 else s)
def execKset (g : Guard) (e : BitVec 6) (c : Byte) (s : State) : Host.Outcome State Fault Refusal :=
  .next (if s.cur.on g then s.modCur fun k => pushE k e (List.replicate 96 c) else s)

end Sys2Proof.Machine
end

