-- ==== Sys2Proof/Machine/Records.lean ====
section
/-!
DEFINITION. The four engine queues of a core, completion records and the event queue (R221, R227, R228),
with the Lamport counts of the queues (R394).
-/
namespace Sys2Proof.Machine

/-- Record kind of a command (R227). -/
def recordKind : EngCmd → Nat
  | .copy _ _ _ => 0x1 | .atomic => 0x2 | .engr _ => 0x3 | .stash _ _ _ => 0x4 | .spill _ _ _ _ => 0x5
  | .drop _ _ => 0x6 | .fetch _ _ _ => 0x7 | .wver _ _ => 0x8 | .chsend _ _ _ _ => 0x9 | .chrecv _ _ => 0xA
  | .cheos _ => 0xB | .redm _ _ _ => 0xC | .tinv _ _ _ => 0xD

/-- Queue of a command: copy, stash, channel, reduction (R221); 4 holds what uses no queue. -/
def queueNo : EngCmd → Nat
  | .copy _ _ _ | .tinv _ _ _ => 0
  | .stash _ _ _ | .spill _ _ _ _ | .drop _ _ | .fetch _ _ _ | .wver _ _ => 1
  | .chsend _ _ _ _ | .chrecv _ _ | .cheos _ => 2
  | .redm _ _ _ => 3
  | .engr _ | .atomic => 4

def Engines.queue (e : Engines) : Nat → EngQueue
  | 0 => e.copyQ | 1 => e.stashQ | 2 => e.chanQ | 3 => e.redQ | _ => e.regQ

def Engines.setQueue (e : Engines) (q : Nat) (l : EngQueue) : Engines :=
  match q with
  | 0 => { e with copyQ := l } | 1 => { e with stashQ := l } | 2 => { e with chanQ := l }
  | 3 => { e with redQ := l } | _ => { e with regQ := l }

def Engines.ops (e : Engines) : List EngOp := e.copyQ ++ e.stashQ ++ e.chanQ ++ e.redQ ++ e.regQ

/-- Replaces an operation in its queue. -/
def Engines.setOp (e : Engines) (o : EngOp) : Engines :=
  let q := queueNo o.cmd
  e.setQueue q ((e.queue q).map fun x => if x.id == o.id then o else x)

def Engines.dropOp (e : Engines) (o : EngOp) : Engines :=
  let q := queueNo o.cmd
  e.setQueue q ((e.queue q).filter fun x => x.id != o.id)

/-- The two words of a record (R227). -/
def recordOf (o : EngOp) (stamp : Nat) : EvRecord :=
  let slot := match o.cmd with | .atomic => 6 | _ => 7
  { w0 := BitVec.ofNat 64 (2 ^ 63 + recordKind o.cmd * 2 ^ 59 + slot * 2 ^ 55 + o.status * 2 ^ 48 + o.addr.toNat),
    w1 := o.word1, op := o.id, seg := o.seg, stamp := stamp }

/-- Posts the record of a completed operation, a sending event of its queue behind its fork (assumption log 102), when the event queue has room;
otherwise the record stays in the engine, and its place in the queue with it. -/
def Engines.post (e : Engines) (o : EngOp) : Engines :=
  if e.evq.length < Config.evqRecords then
    let q := queueNo o.cmd
    let stamp := stampSend (Nat.max (e.clocks.getD q 0) o.stamp)
    { e.dropOp o with evq := e.evq ++ [recordOf o stamp], clocks := e.clocks.set q stamp }
  else e.setOp { o with complete := true }

/-- A pop makes room: the held record of the operation issued first is posted. -/
def Engines.takeHeld (e : Engines) : Engines :=
  match (e.ops.filter (·.complete)).foldl (fun b o => match b with
      | none => some o
      | some x => if o.id < x.id then some o else b) (none : Option EngOp) with
  | some o => e.post o
  | none => e

/-- Completed operations whose records wait for room. -/
def Engines.heldRecords (e : Engines) : Nat := (e.ops.filter (·.complete)).length

/-- An operation completes with a status and a value. -/
def State.complete (s : State) (c : Nat) (o : EngOp) (status : Nat) (w1 : Word64) : State :=
  s.modCore c fun k => k.modEng fun e => e.post { o with status := status, word1 := w1 }

/-- The fault that a record's status raises in the joining bundle (R229). -/
def recordFault (w0 : Word64) : Option Nat :=
  match bits w0.toNat 48 7 with
  | 0x09 => some 0x09 | 0x0A => some 0x0A | 0x0C => some 0x0C
  | 0x45 => some 0x05 | 0x46 => some 0x06 | 0x4B => some 0x0B
  | _ => none

end Sys2Proof.Machine
end

