-- ==== Sys2Proof/Machine/Scalar.lean ====
section
/-!
DEFINITION. The S-slot arithmetic, compares and predicate operations (R142-R153).
-/
namespace Sys2Proof.Machine

/-! ### The functions of R144-R152 -/

/-- Shifts and the rotate, the amount unsigned over the element width (R91, R145). -/
def shlW {w : Nat} (a : BitVec w) (n : Nat) : BitVec w := if w ≤ n then 0 else a <<< n
def shrW {w : Nat} (a : BitVec w) (n : Nat) : BitVec w := if w ≤ n then 0 else a >>> n
def sarW {w : Nat} (a : BitVec w) (n : Nat) : BitVec w := a.sshiftRight (if w ≤ n then w else n)
def rotW {w : Nat} (a : BitVec w) (n : Nat) : BitVec w := a.rotateLeft (n % w)

def minS {w : Nat} (a b : BitVec w) : BitVec w := if a.toInt < b.toInt then a else b
def maxS {w : Nat} (a b : BitVec w) : BitVec w := if a.toInt < b.toInt then b else a
def minU {w : Nat} (a b : BitVec w) : BitVec w := if a.toNat < b.toNat then a else b
def maxU {w : Nat} (a b : BitVec w) : BitVec w := if a.toNat < b.toNat then b else a

/-- Bits [127:64] of the signed and of the unsigned product (R146). -/
def mulhS (a b : Word64) : Word64 := BitVec.ofInt 64 ((a.toInt * b.toInt) / 2 ^ 64)
def mulhU (a b : Word64) : Word64 := BitVec.ofNat 64 ((a.toNat * b.toNat) / 2 ^ 64)

/-- Division truncates toward zero, and each corner has one result (R147). -/
def divS (a b : Word64) : Word64 := if b = 0 then BitVec.allOnes 64 else BitVec.ofInt 64 (a.toInt.tdiv b.toInt)
def divU (a b : Word64) : Word64 := if b = 0 then BitVec.allOnes 64 else BitVec.ofNat 64 (a.toNat / b.toNat)
def remS (a b : Word64) : Word64 := if b = 0 then a else BitVec.ofInt 64 (a.toInt - b.toInt * a.toInt.tdiv b.toInt)
def remU (a b : Word64) : Word64 := if b = 0 then a else BitVec.ofNat 64 (a.toNat % b.toNat)

/-- Zero bits above the highest 1 bit, below the lowest 1 bit, and 1 bits, among n bits (R148). -/
def clzN (x : Nat) : Nat → Nat
  | 0 => 0
  | n + 1 => if bitAt x n then 0 else clzN x n + 1
def ctzN (x : Nat) : Nat → Nat
  | 0 => 0
  | n + 1 => if x % 2 = 1 then 0 else ctzN (x / 2) n + 1
def popcN (x : Nat) : Nat → Nat
  | 0 => 0
  | n + 1 => x % 2 + popcN (x / 2) n
def bswap64 (a : Word64) : Word64 := BitVec.ofNat 64 (leNat (leBytes 8 a.toNat).reverse)

/-! ### The two shapes -/

/-- An S operation with a value for d: lands n bundles on (R46, R143). -/
def sOp (s : State) (g : Guard) (d : SDst) (n : Nat) (v : Word64) : State :=
  if s.cur.on g then s.pushS .s n d v else s

/-- An S operation with a bit for pd (R151-R153). -/
def pOp (s : State) (g : Guard) (pd : BitVec 4) (v : Bool) : State :=
  if s.cur.on g then s.pushP pd v else s

/-! ### Meanings -/

def execAdd (g : Guard) (d : SDst) (a b : SSrc) (s : State) : Host.Outcome State Fault Refusal :=
  .next (sOp s g d 1 (s.cur.readS a + s.cur.readS b))
def execSub (g : Guard) (d : SDst) (a b : SSrc) (s : State) : Host.Outcome State Fault Refusal :=
  .next (sOp s g d 1 (s.cur.readS a - s.cur.readS b))
def execAnd (g : Guard) (d : SDst) (a b : SSrc) (s : State) : Host.Outcome State Fault Refusal :=
  .next (sOp s g d 1 (s.cur.readS a &&& s.cur.readS b))
def execOr (g : Guard) (d : SDst) (a b : SSrc) (s : State) : Host.Outcome State Fault Refusal :=
  .next (sOp s g d 1 (s.cur.readS a ||| s.cur.readS b))
def execXor (g : Guard) (d : SDst) (a b : SSrc) (s : State) : Host.Outcome State Fault Refusal :=
  .next (sOp s g d 1 (s.cur.readS a ^^^ s.cur.readS b))
def execShl (g : Guard) (d : SDst) (a b : SSrc) (s : State) : Host.Outcome State Fault Refusal :=
  .next (sOp s g d 1 (shlW (s.cur.readS a) (s.cur.readS b).toNat))
def execShr (g : Guard) (d : SDst) (a b : SSrc) (s : State) : Host.Outcome State Fault Refusal :=
  .next (sOp s g d 1 (shrW (s.cur.readS a) (s.cur.readS b).toNat))
def execSar (g : Guard) (d : SDst) (a b : SSrc) (s : State) : Host.Outcome State Fault Refusal :=
  .next (sOp s g d 1 (sarW (s.cur.readS a) (s.cur.readS b).toNat))
def execRot (g : Guard) (d : SDst) (a b : SSrc) (s : State) : Host.Outcome State Fault Refusal :=
  .next (sOp s g d 1 (rotW (s.cur.readS a) (s.cur.readS b).toNat))
def execMin (g : Guard) (d : SDst) (a b : SSrc) (s : State) : Host.Outcome State Fault Refusal :=
  .next (sOp s g d 1 (minS (s.cur.readS a) (s.cur.readS b)))
def execMax (g : Guard) (d : SDst) (a b : SSrc) (s : State) : Host.Outcome State Fault Refusal :=
  .next (sOp s g d 1 (maxS (s.cur.readS a) (s.cur.readS b)))
def execMinu (g : Guard) (d : SDst) (a b : SSrc) (s : State) : Host.Outcome State Fault Refusal :=
  .next (sOp s g d 1 (minU (s.cur.readS a) (s.cur.readS b)))
def execMaxu (g : Guard) (d : SDst) (a b : SSrc) (s : State) : Host.Outcome State Fault Refusal :=
  .next (sOp s g d 1 (maxU (s.cur.readS a) (s.cur.readS b)))
def execAddi (g : Guard) (d : SDst) (a : SSrc) (imm : Word32) (s : State) : Host.Outcome State Fault Refusal :=
  .next (sOp s g d 1 (s.cur.readS a + imm.signExtend 64))
def execAndi (g : Guard) (d : SDst) (a : SSrc) (imm : Word32) (s : State) : Host.Outcome State Fault Refusal :=
  .next (sOp s g d 1 (s.cur.readS a &&& imm.signExtend 64))
def execOri (g : Guard) (d : SDst) (a : SSrc) (imm : Word32) (s : State) : Host.Outcome State Fault Refusal :=
  .next (sOp s g d 1 (s.cur.readS a ||| imm.signExtend 64))
def execXori (g : Guard) (d : SDst) (a : SSrc) (imm : Word32) (s : State) : Host.Outcome State Fault Refusal :=
  .next (sOp s g d 1 (s.cur.readS a ^^^ imm.signExtend 64))
def execShli (g : Guard) (d : SDst) (a : SSrc) (imm : Word32) (s : State) : Host.Outcome State Fault Refusal :=
  .next (sOp s g d 1 (shlW (s.cur.readS a) imm.toNat))
def execShri (g : Guard) (d : SDst) (a : SSrc) (imm : Word32) (s : State) : Host.Outcome State Fault Refusal :=
  .next (sOp s g d 1 (shrW (s.cur.readS a) imm.toNat))
def execSari (g : Guard) (d : SDst) (a : SSrc) (imm : Word32) (s : State) : Host.Outcome State Fault Refusal :=
  .next (sOp s g d 1 (sarW (s.cur.readS a) imm.toNat))
def execRoti (g : Guard) (d : SDst) (a : SSrc) (imm : Word32) (s : State) : Host.Outcome State Fault Refusal :=
  .next (sOp s g d 1 (rotW (s.cur.readS a) imm.toNat))
def execMul (g : Guard) (d : SDst) (a b : SSrc) (s : State) : Host.Outcome State Fault Refusal :=
  .next (sOp s g d 3 (s.cur.readS a * s.cur.readS b))
def execMulh (g : Guard) (d : SDst) (a b : SSrc) (s : State) : Host.Outcome State Fault Refusal :=
  .next (sOp s g d 3 (mulhS (s.cur.readS a) (s.cur.readS b)))
def execMulhu (g : Guard) (d : SDst) (a b : SSrc) (s : State) : Host.Outcome State Fault Refusal :=
  .next (sOp s g d 3 (mulhU (s.cur.readS a) (s.cur.readS b)))
def execDiv (g : Guard) (d : SDst) (a b : SSrc) (s : State) : Host.Outcome State Fault Refusal :=
  .next (sOp s g d 12 (divS (s.cur.readS a) (s.cur.readS b)))
def execDivu (g : Guard) (d : SDst) (a b : SSrc) (s : State) : Host.Outcome State Fault Refusal :=
  .next (sOp s g d 12 (divU (s.cur.readS a) (s.cur.readS b)))
def execRem (g : Guard) (d : SDst) (a b : SSrc) (s : State) : Host.Outcome State Fault Refusal :=
  .next (sOp s g d 12 (remS (s.cur.readS a) (s.cur.readS b)))
def execRemu (g : Guard) (d : SDst) (a b : SSrc) (s : State) : Host.Outcome State Fault Refusal :=
  .next (sOp s g d 12 (remU (s.cur.readS a) (s.cur.readS b)))
def execClz (g : Guard) (d : SDst) (a : SSrc) (s : State) : Host.Outcome State Fault Refusal :=
  .next (sOp s g d 1 (BitVec.ofNat 64 (clzN (s.cur.readS a).toNat 64)))
def execCtz (g : Guard) (d : SDst) (a : SSrc) (s : State) : Host.Outcome State Fault Refusal :=
  .next (sOp s g d 1 (BitVec.ofNat 64 (ctzN (s.cur.readS a).toNat 64)))
def execPopc (g : Guard) (d : SDst) (a : SSrc) (s : State) : Host.Outcome State Fault Refusal :=
  .next (sOp s g d 1 (BitVec.ofNat 64 (popcN (s.cur.readS a).toNat 64)))
def execBswap (g : Guard) (d : SDst) (a : SSrc) (s : State) : Host.Outcome State Fault Refusal :=
  .next (sOp s g d 1 (bswap64 (s.cur.readS a)))
def execLi (g : Guard) (d : SDst) (imm : BitVec 44) (s : State) : Host.Outcome State Fault Refusal :=
  .next (sOp s g d 1 (imm.signExtend 64))
def execLih (g : Guard) (d : SDst) (a : SSrc) (imm : BitVec 20) (s : State) : Host.Outcome State Fault Refusal :=
  .next (sOp s g d 1 (imm ++ (s.cur.readS a).extractLsb' 0 44))
def execSel (g : Guard) (d : SDst) (a b : SSrc) (pp : BitVec 4) (s : State) : Host.Outcome State Fault Refusal :=
  .next (sOp s g d 1 (if s.cur.readP pp.toNat then s.cur.readS a else s.cur.readS b))
def execCeq (g : Guard) (pd : BitVec 4) (a b : SSrc) (s : State) : Host.Outcome State Fault Refusal :=
  .next (pOp s g pd (s.cur.readS a == s.cur.readS b))
def execCne (g : Guard) (pd : BitVec 4) (a b : SSrc) (s : State) : Host.Outcome State Fault Refusal :=
  .next (pOp s g pd (s.cur.readS a != s.cur.readS b))
def execClt (g : Guard) (pd : BitVec 4) (a b : SSrc) (s : State) : Host.Outcome State Fault Refusal :=
  .next (pOp s g pd ((s.cur.readS a).slt (s.cur.readS b)))
def execCltu (g : Guard) (pd : BitVec 4) (a b : SSrc) (s : State) : Host.Outcome State Fault Refusal :=
  .next (pOp s g pd ((s.cur.readS a).ult (s.cur.readS b)))
def execCle (g : Guard) (pd : BitVec 4) (a b : SSrc) (s : State) : Host.Outcome State Fault Refusal :=
  .next (pOp s g pd ((s.cur.readS a).sle (s.cur.readS b)))
def execCleu (g : Guard) (pd : BitVec 4) (a b : SSrc) (s : State) : Host.Outcome State Fault Refusal :=
  .next (pOp s g pd ((s.cur.readS a).ule (s.cur.readS b)))
def execPand (g : Guard) (pd pa pb : BitVec 4) (s : State) : Host.Outcome State Fault Refusal :=
  .next (pOp s g pd (s.cur.readP pa.toNat && s.cur.readP pb.toNat))
def execPor (g : Guard) (pd pa pb : BitVec 4) (s : State) : Host.Outcome State Fault Refusal :=
  .next (pOp s g pd (s.cur.readP pa.toNat || s.cur.readP pb.toNat))
def execPxor (g : Guard) (pd pa pb : BitVec 4) (s : State) : Host.Outcome State Fault Refusal :=
  .next (pOp s g pd (xor (s.cur.readP pa.toNat) (s.cur.readP pb.toNat)))
def execPnot (g : Guard) (pd pa : BitVec 4) (s : State) : Host.Outcome State Fault Refusal :=
  .next (pOp s g pd (!s.cur.readP pa.toNat))

end Sys2Proof.Machine
end

