-- ==== Sys2Proof/Machine/Control.lean ====
section
/-!
DEFINITION. The control-transfer, system, event, trap, halt and overlay operations of the S slot
(R279-R286, R228, R229).
-/
namespace Sys2Proof.Machine

/-! ### Transfers (R278, R280, R281) -/

def State.loopDepth (s : State) : Nat := s.cur.seq.loops.length
def State.marked (s : State) (a : CodeAddr) : Bool := (s.progOf s.turn).isStart a

/-- A transfer to a target: a target that is no marked bundle start raises the misaligned-target fault;
otherwise the bundle at the target is next, and `eff` happens too. -/
def State.transfer (s : State) (tgt : CodeAddr) (eff : State → State) : State :=
  if s.marked tgt then eff (s.modCur fun k => k.modSeq fun q => { q with next := some tgt })
  else s.issueFault .s 0x03

/-- The link of a call in the bundle in issue (R280). -/
def State.callLink (s : State) : Word64 :=
  BitVec.ofNat 64 (s.loopDepth * 2 ^ 24 + (s.cur.seq.pc.toNat + s.cur.seq.blen) % 2 ^ 22)

def execB (g : Guard) (target : CodeAddr) (s : State) : Host.Outcome State Fault Refusal :=
  .next (if s.cur.on g then s.transfer target id else s)

def execBp (g : Guard) (offset : CodeAddr) (s : State) : Host.Outcome State Fault Refusal :=
  .next (if s.cur.on g then s.transfer (s.cur.seq.pc + offset) id else s)

def execCall (g : Guard) (d : SDst) (target : CodeAddr) (s : State) : Host.Outcome State Fault Refusal :=
  .next (if s.cur.on g then s.transfer target fun t => t.pushS .s 1 d s.callLink else s)

def execRet (g : Guard) (a : SSrc) (s : State) : Host.Outcome State Fault Refusal :=
  let v := (s.cur.readS a).toNat
  .next (
    if !s.cur.on g then s
    else if v / 2 ^ 27 != 0 || bits v 22 2 != 0 || bits v 24 3 != s.loopDepth then s.issueFault .s 0x0F
    else s.transfer (fld v 0 22) id)

def execJr (g : Guard) (a : SSrc) (s : State) : Host.Outcome State Fault Refusal :=
  let v := (s.cur.readS a).toNat
  .next (
    if !s.cur.on g then s
    else if v / 2 ^ 22 != 0 then s.issueFault .s 0x0F
    else s.transfer (fld v 0 22) id)

def execLbrk (g : Guard) (target : CodeAddr) (s : State) : Host.Outcome State Fault Refusal :=
  .next (
    if !s.cur.on g then s
    else if s.loopDepth = 0 then s.issueFault .s 0x0F
    else s.transfer target fun t => t.modCur fun k => k.modSeq fun q => { q with loops := q.loops.tail })

/-- Words of the bundle at an address, by its header (R32). -/
def State.bundleWords (s : State) (a : CodeAddr) : Nat := headerWords ((s.progOf s.turn).window a 1)

/-- The reserved-operand conditions of `s.loop` (R281). -/
def loopRefused (s : State) (cnt : Word64) (last : CodeAddr) : Bool :=
  let A := s.cur.seq.pc
  let start := advance A s.cur.seq.blen
  decide (0xFFFFFFFF < cnt.toNat) || decide (last.toNat < start.toNat) || overlayOf last != overlayOf start ||
    s.loopDepth == 6 ||
    (match s.cur.seq.loops with
      | top :: _ => last == top.last || A == top.last
      | [] => false)

def execLoop (g : Guard) (c : SSrc) (last imm : CodeAddr) (s : State) : Host.Outcome State Fault Refusal :=
  let cnt := s.cur.readS c + imm.setWidth 64
  let start := advance s.cur.seq.pc s.cur.seq.blen
  .next (
    if !s.cur.on g then s
    else if loopRefused s cnt last then s.issueFault .s 0x0F
    else if !s.marked last then s.issueFault .s 0x03
    else if cnt = 0 then
      let past := advance last (s.bundleWords last)
      s.modCur fun k => k.modSeq fun q => { q with next := some past }
    else s.modCur fun k => k.modSeq fun q =>
      { q with loops := { start := start, last := last, count := cnt.toNat } :: q.loops })

/-! ### System registers (R20, R42, R282) -/

/-- `teamid` of the reading core (R20). -/
def State.teamid (s : State) : Nat :=
  let st := s.stageOf s.turn
  st * 2 ^ 13 + clusterOf s.turn * 2 ^ 8 + ((s.stage st).team - 1) * 2 ^ 4 + s.cur.rank

/-- The value of a system register at the reading bundle's issue. -/
def State.sysRead (s : State) (r : SysReg) : Word64 :=
  let t := s.taskOf s.turn
  let k := s.cur
  match r with
  | .hwcfg => s.hwcfg
  | .teamid => BitVec.ofNat 64 s.teamid
  | .mbt => BitVec.ofNat 64 (match t with | some x => x.kind.code * 2 ^ 32 + x.tag % 2 ^ 32 | none => 0)
  | .tsk => BitVec.ofNat 64 (match t with | some x => x.key.ts | none => 0)
  | .budget => BitVec.ofNat 64 (match t with | some x => x.budget | none => 0)
  | .fpc => k.regs.fpc
  | .fstat => k.regs.fstat
  | .frontier => s.frontierReg (s.stageOf s.turn)
  | .waitlim => k.regs.waitlim
  | .driftlim => k.regs.driftlim
  | .donemask => k.regs.donemask
  | .lclock => k.regs.lclock.setWidth 64

/-- The register as a write leaves it; RO registers keep their value. -/
def Core.sysWrite (k : Core) (r : SysReg) (v : Word64) : Core :=
  match r with
  | .fpc => k.modRegs fun x => { x with fpc := writeFpc x.fpc v k.seq.raised }
  | .fstat => k.modRegs fun x => { x with fstat := writeFstat x.fstat v k.seq.raisedStat }
  | .waitlim => k.modRegs fun x => { x with waitlim := v }
  | .driftlim => k.modRegs fun x => { x with driftlim := v }
  | .hwcfg | .teamid | .mbt | .tsk | .budget | .frontier | .donemask | .lclock => k

def execSysr (g : Guard) (d : SDst) (num : BitVec 12) (s : State) : Host.Outcome State Fault Refusal :=
  .next (
    if !s.cur.on g then s
    else match sysReg? num.toNat with
      | none => s.issueFault .s 0x0F
      | some r => s.pushS .s 2 d (s.sysRead r))

def execSysw (g : Guard) (a : SSrc) (num : BitVec 12) (s : State) : Host.Outcome State Fault Refusal :=
  let v := s.cur.readS a
  .next (
    if !s.cur.on g then s
    else match sysReg? num.toNat with
      | none => s.issueFault .s 0x0F
      | some r => match sysWriteFault r v with
        | some code => s.issueFault .s code
        | none => s.modCur fun k => k.sysWrite r v)

/-! ### Trap, event queue, halt (R228, R229, R283, R284) -/

/-- The handler is asked to act once the bundle has completed (R283). -/
def execTrap (g : Guard) (code : Word16) (s : State) : Host.Outcome State Fault Refusal :=
  .next (
    if !s.cur.on g then s
    else
      let f : FaultInfo := { code := 0, core := s.turn, slot := 0, addr := s.cur.seq.pc, safe := s.cur.seq.bsafe, trap := code.toNat }
      if s.cur.seq.inBundle then s.modCur fun k => k.modSeq fun q => { q with trapped := f :: q.trapped }
      else s.takeFault f)

/-- An execution fault of a slot that nevertheless completes (R229). -/
def State.completedFault (s : State) (slot : Slot) (code : Nat) : State :=
  if s.cur.seq.inBundle then
    s.modCur fun k => k.modSeq fun q =>
      match q.efault with
      | none => { q with efault := some (s.faultHere slot code true) }
      | some f => { q with efault := some { f with code := if f.slot ≤ slot.num then f.code else code,
                                                   slot := Nat.min f.slot slot.num } }
  else s.takeFault { s.faultHere slot code true with done := 2 ^ slot.num }

/-- `s.evpop`: one word of the queue, or 0 from an empty queue (R228). The pop of word 0 is the join. -/
def execEvpop (g : Guard) (d : SDst) (s : State) : Host.Outcome State Fault Refusal :=
  .next (
    if !s.cur.on g then s
    else match s.cur.eng.half, s.cur.eng.evq with
      | some w, _ => (s.modCur fun k => k.modEng fun e => { e with half := none }).pushS .s 1 d w
      | none, [] => s.pushS .s 1 d 0
      | none, r :: rest =>
        let s1 := (s.modCur fun k => k.modEng fun e => { e with evq := rest, half := some r.w1 }.takeHeld).recvStamp s.turn r.stamp
        let s2 := s1.pushS .s 1 d r.w0
        match recordFault r.w0 with
        | some code => s2.completedFault .s code
        | none => s2)

/-- `s.halt`: the core stops once its bundle has completed; the task's end is decided by `TASK_LEAVES_CORES` (R284). -/
def execHalt (g : Guard) (s : State) : Host.Outcome State Fault Refusal :=
  .next (if s.cur.on g then s.modCur fun k => k.modSeq fun q =>
    { q with halting := true, haltPc := q.pc, haltAt := s.cycle } else s)

/-! ### Overlays (R286) -/

def State.overlayArg (s : State) (a : SSrc) : Nat := bits (s.cur.readS a).toNat 16 6

def execIpf (g : Guard) (a : SSrc) (s : State) : Host.Outcome State Fault Refusal :=
  .next (if s.cur.on g then s.startCopy s.turn (s.overlayArg a) else s)

/-- Frames of the program, and frames that a set of pins keeps. -/
def Program.frames (p : Program) : List Nat := (p.overlays.map fun e => e.2.frame).dedup
def Program.framesOf (p : Program) (pins : List Nat) : List Nat :=
  ((p.overlays.filter fun e => pins.contains e.1).map fun e => e.2.frame).dedup

/-- A pin that would leave no frame unpinned raises the reserved-operand-value fault (R286). -/
def execIpin (g : Guard) (a : SSrc) (s : State) : Host.Outcome State Fault Refusal :=
  let o := s.overlayArg a
  let p := s.progOf s.turn
  let team := match s.cur.task with | some t => s.coresOf t | none => [s.turn]
  let pins := o :: (team.map fun c => (s.core c).pins).flatten
  .next (
    if !s.cur.on g then s
    else if (Table.get? p.overlays o).isNone then s
    else if p.frames.length ≤ (p.framesOf pins).length then s.issueFault .s 0x0F
    else (s.startCopy s.turn o).modCur fun k => { k with pins := if k.pins.contains o then k.pins else o :: k.pins })

def execIunpin (g : Guard) (a : SSrc) (s : State) : Host.Outcome State Fault Refusal :=
  let o := s.overlayArg a
  .next (if s.cur.on g then s.modCur fun k => { k with pins := k.pins.filter (· != o) } else s)

end Sys2Proof.Machine
end

