-- ==== Sys2Proof/Machine/Sync.lean ====
section
/-!
DEFINITION. The Y-slot phaser, rotating-base, future, counter, token and next-tile operations and the
events of the synchronisation engine and the counter bank (R291-R315).
-/
namespace Sys2Proof.Machine

/-! ### Handles (R293, R299) -/

/-- The handle index that an operation selects; none when r = 1 and h is not below D (R299). -/
def Core.handleIndex (k : Core) (h : BitVec 4) (r : Bool) : Option Nat :=
  if !r then some h.toNat
  else if h.toNat < k.ys.rdepth then some ((h.toNat + k.ys.rbase) % k.ys.rdepth) else none

def Core.handle (k : Core) (i : Nat) : Nat := (Table.get k.ys.y 0 i).toNat

def encHandle (chip : Bool) (mode : PhMode) (index : Nat) : Word16 :=
  BitVec.ofNat 16 (2 ^ 15 + bit chip * 2 ^ 14 + encPhMode mode * 2 ^ 12 + index)

/-- A handle with v = 1: scope, phaser index, mode. -/
def decHandle (w : Nat) : Option (Bool × Nat × PhMode) :=
  if bitAt w 15 then (decPhMode (bits w 12 2)).map fun m => (bitAt w 14, bits w 0 9, m) else none

/-- The chip phaser that an index of the context names (R292, R335). -/
def State.chipIndex (s : State) (index : Nat) : Nat := (s.ctx (s.pasidOf s.turn)).phbase + index

/-- A phaser of either scope, seen from the core in issue. -/
def State.phaserAt (s : State) (chip : Bool) (index : Nat) : Phaser :=
  if chip then Table.get s.chipPhasers {} (s.chipIndex index) else s.phaser (clusterOf s.turn) index

def State.setPhaserAt (s : State) (chip : Bool) (index : Nat) (p : Phaser) : State :=
  if chip then { s with chipPhasers := Table.put s.chipPhasers (s.chipIndex index) p }
  else s.setPhaser (clusterOf s.turn) index p

def State.tidHere (s : State) : Nat := s.cur.task.getD 0

/-- The member record that a handle names. -/
def State.memberHere (s : State) (chip : Bool) (index : Nat) : Option Member :=
  (s.phaserAt chip index).member? s.tidHere s.cur.rank

def State.noteUndo (s : State) (u : PhaserUndo) : State := s.noteUndoOn s.turn u

/-- Members that the phasers of one scope hold together, with the registrations of every core that are on their way to the
chip phasers (R292, R294). -/
def State.memberCount (s : State) (chip : Bool) : Nat :=
  let t := if chip then s.chipPhasers else (s.clu (clusterOf s.turn)).phasers
  let joins := fun (o : PhaserOp) => match o.act with | .join _ => true | _ => false
  (t.map fun e => e.2.members.length).sum +
    (if chip then (s.cores.map fun (e : Nat × Core) => (e.2.eng.phaserOps.filter joins).length).sum else 0)

/-- A chip-phaser operation leaves the cluster when its bundle is committed and strike-clear (R298). -/
def State.queuePhaserOp (s : State) (index : Nat) (act : PhaserAct) : State :=
  let i := s.chipIndex index
  let (id, s) := s.takeId
  s.modCur fun k => k.modEng fun e =>
    { e with phaserOps := e.phaserOps ++
        [{ core := s.turn, rank := k.rank, tid := k.task.getD 0, seg := k.rcv.seg, index := i, act := act,
           stamp := k.regs.lclock.toNat, id := id, after := e.observed }] }

/-- After the cycle's signals and drops, every phaser's completion is tested once (R296, R297). -/
def State.settleAll (s : State) : State :=
  { s with clusters := s.clusters.map fun (e : Nat × Cluster) =>
             (e.1, { e.2 with phasers := e.2.phasers.map fun (p : Nat × Phaser) => (p.1, p.2.settle s.cycle) }),
           chipPhasers := s.chipPhasers.map fun (p : Nat × Phaser) => (p.1, p.2.settle s.cycle) }

/-! ### Registration and dropping (R294, R297) -/

/-- Is a registration of a task at a chip phaser on its way from a core? -/
def pendingJoin (k : Core) (idx tid : Nat) : Bool :=
  k.eng.phaserOps.any fun o => o.index == idx && o.tid == tid && (match o.act with | .join _ => true | _ => false)

def execPhreg (g : Guard) (h : BitVec 4) (mode : PhMode) (chip : Bool) (index : BitVec 9) (s : State) :
    Host.Outcome State Fault Refusal :=
  let i := index.toNat
  let cap := if chip then Config.chipMembers else Config.clusterMembers
  let pending := chip && pendingJoin s.cur (s.chipIndex i) s.tidHere
  .next (
    if !s.cur.on g then s
    else if (decHandle (s.cur.handle h.toNat)).isSome || (!chip && decide (64 ≤ i)) ||
        (s.memberHere chip i).isSome || pending || decide (cap ≤ s.memberCount chip) then s.issueFault .y 0x0F
    else if chip && (s.ctx (s.pasidOf s.turn)).phcount ≤ i then s.issueFault .y 0x0A
    else
      let s1 := if chip then s.queuePhaserOp i (.join mode)
        else
          let p := (s.phaserAt false i).join s.tidHere s.cur.rank mode
          let m : Member := { tid := s.tidHere, rank := s.cur.rank, mode := mode, q := p.phase, w := p.phase }
          (s.setPhaserAt false i p).noteUndo (.registered i m)
      (s1.sigEffect .y 1 i (leBytes 1 (encPhMode mode))).modCur fun k => k.modYs fun y =>
        { y with y := Table.put y.y h.toNat (encHandle chip mode i) })

/-- The open phase of a member of a chip phaser whose own operations are still on their way: its q and w
follow the operations that it has issued. -/
def pendingSignals (k : Core) (idx : Nat) (tid : Nat) : Nat :=
  (k.eng.phaserOps.filter fun o => o.index == idx && o.tid == tid && o.act == .signal).length

/-- What a handle operation works on: the handle's index, scope, phaser and mode. -/
def State.withHandle (s : State) (h : BitVec 4) (r : Bool) (eff : Nat → Bool → Nat → PhMode → State) : State :=
  match s.cur.handleIndex h r with
  | none => s.issueFault .y 0x0F
  | some n => match decHandle (s.cur.handle n) with
    | none => s.issueFault .y 0x0F
    | some (chip, i, mode) => eff n chip i mode

/-- Does the phsig hold apply: has the member already signalled the open phase? On a chip phaser the
signals it has issued and that are on their way count too, and the first signal behind a registration that is on its way follows
it there (assumption log 104). -/
def State.sigHeld (s : State) (chip : Bool) (i : Nat) : Bool :=
  match s.memberHere chip i with
  | none => chip && (!pendingJoin s.cur (s.chipIndex i) s.tidHere || decide (0 < pendingSignals s.cur (s.chipIndex i) s.tidHere))
  | some m => m.q != (s.phaserAt chip i).phase || (chip && 0 < pendingSignals s.cur (s.chipIndex i) s.tidHere)

def execPhdrop (g : Guard) (h : BitVec 4) (r : Bool) (s : State) : Host.Outcome State Fault Refusal :=
  .next (
    if !s.cur.on g then s
    else s.withHandle h r fun n chip i mode =>
      let s0 := if signals mode && !s.sigHeld chip i then s.sendStamp s.turn else s
      let s1 := if chip then s0.queuePhaserOp i .leave
        else match s0.memberHere false i with
          | none => s0
          | some m =>
            let p := s0.phaserAt false i
            (s0.setPhaserAt false i (p.leave m (s.turn, s.cur.rcv.seg) (s0.stampOf s.turn) s.cycle)).noteUndo
              (.dropped i m (p.countsIn s.cycle))
      (s1.sigEffect .y 2 i []).modCur fun k => k.modYs fun y =>
        { y with y := Table.put y.y n (BitVec.ofNat 16 (k.handle n % 2 ^ 15)) })

/-! ### Signal and wait (R295, R296, R298) -/

/-- The signal step (R295). -/
def State.signalStep (s : State) (chip : Bool) (i : Nat) : State :=
  let s0 := s.sendStamp s.turn
  if chip then s0.queuePhaserOp i .signal
  else match s0.memberHere false i with
    | none => s0
    | some m =>
      let p := s0.phaserAt false i
      (s0.setPhaserAt false i (p.signal m (s.turn, s.cur.rcv.seg) (s0.stampOf s.turn))).noteUndo (.signalled i p.phase m)

/-- Does the phwait hold apply: has phase w not yet completed? A completion releases a bundle that was
held one cycle later, or eight on a chip phaser (R296). -/
def State.waitHeld (s : State) (chip : Bool) (i : Nat) (wasHeld : Bool) : Bool :=
  match s.memberHere chip i with
  | none => true
  | some m =>
    let p := s.phaserAt chip i
    if p.phase = m.w then true
    else wasHeld && (match p.hist.find? (·.phase == m.w) with
      | some d => decide (s.cycle < d.cycle + (if chip then 8 else 1))
      | none => false)

/-- The wait step: the acquire on the phase that completed, its stamp received; on a cluster phaser
younger than W the core depends on the signallers (R206, R301, R394). -/
def State.waitStep (s : State) (chip : Bool) (i : Nat) : State :=
  match s.memberHere chip i with
  | none => s
  | some m =>
    let p := s.phaserAt chip i
    let s1 := s.setPhaserAt chip i (p.setMember { m with w := m.w + 1 })
    let s2 := s1.noteUndo (.waited chip (if chip then s.chipIndex i else i) m)
    match p.hist.find? (·.phase == m.w) with
    | none => s2.recvStamp s.turn 0
    | some d =>
      let s3 := s2.recvStamp s.turn d.stamp
      if chip || d.cycle + Config.W ≤ s.cycle then s3
      else s3.modCur fun k => k.modRcv fun r =>
        { r with deps := r.deps ++ ((d.signallers.filter fun x => x.1 != s.turn).map fun x =>
            { core := x.1, seg := x.2, due := some (d.cycle + Config.W) }) }

/-- Was the bundle in issue held at a Y wait in the cycle before? -/
def State.wasHeld (s : State) : Bool :=
  match s.cur.seq.hold with
  | some h => h.cause == .ywait
  | none => false

/-- A held `phsig` issues in the cycle after the completion (R296). -/
def State.sigLate (s : State) (chip : Bool) (i : Nat) : Bool :=
  s.wasHeld && (match (s.phaserAt chip i).hist.head? with
    | some d => decide (s.cycle < d.cycle + (if chip then 8 else 1))
    | none => false)

def execPhsig (g : Guard) (h : BitVec 4) (r : Bool) (s : State) : Host.Outcome State Fault Refusal :=
  .next (
    if !s.cur.on g then s
    else s.withHandle h r fun _ chip i mode =>
      if !signals mode then s.issueFault .y 0x0F
      else if s.sigHeld chip i || s.sigLate chip i then s.holdFor .y .ywait
      else (s.signalStep chip i).sigEffect .y 3 i [])

def execPhwait (g : Guard) (h : BitVec 4) (r : Bool) (s : State) : Host.Outcome State Fault Refusal :=
  .next (
    if !s.cur.on g then s
    else s.withHandle h r fun _ chip i mode =>
      if mode == .s then s.issueFault .y 0x0F
      else if s.waitHeld chip i s.wasHeld then s.holdFor .y .ywait
      else (s.waitStep chip i).sigEffect .y 4 i [])

/-- `phsw`: the signal step at the first attempt at which its hold does not apply, then the wait step. A
signal that itself completes the phase lets the bundle issue in the same cycle (R295, R296). Only an `sw`
handle has both steps. -/
def execPhsw (g : Guard) (h : BitVec 4) (r : Bool) (s : State) : Host.Outcome State Fault Refusal :=
  .next (
    if !s.cur.on g then s
    else s.withHandle h r fun _ chip i mode =>
      if mode != .sw then s.issueFault .y 0x0F
      else if !s.cur.ys.phswDone && (s.sigHeld chip i || s.sigLate chip i) then s.holdFor .y .ywait
      else
        let s1 := if s.cur.ys.phswDone then s else
          (s.signalStep chip i).modCur fun k =>
            (k.modYs fun y => { y with phswDone := true }).modSeq fun q => { q with signalledAt := some s.cycle }
        if s1.waitHeld chip i (s1.cur.seq.signalledAt != some s.cycle) then s1.holdFor .y .ywait
        else ((s1.waitStep chip i).sigEffect .y 5 i []).modCur fun k => k.modYs fun y => { y with phswDone := false })

/-- May an operation of a core leave: strike-clear, and its task the frontier task or committed? -/
def State.clearFor (s : State) (clearAt : Option Nat) (tid : Nat) : Bool :=
  (match clearAt with | some a => decide (a ≤ s.cycle) | none => false) &&
  (match s.task? tid with
    | some t => s.isFrontier tid || t.state == .committed
    | none => true)

/-! ### Rotating base, tokens (R299, R311) -/

def execPbaseInit (g : Guard) (d : BitVec 3) (s : State) : Host.Outcome State Fault Refusal :=
  .next (if s.cur.on g then (s.modCur fun k => k.modYs fun y => { y with rdepth := d.toNat + 1, rbase := 0 }).sigEffect .y 6 0 (leBytes 1 d.toNat)
    else s)
def execPbase (g : Guard) (s : State) : Host.Outcome State Fault Refusal :=
  .next (if s.cur.on g then (s.modCur fun k => k.modYs fun y => { y with rbase := (y.rbase + 1) % y.rdepth }).sigEffect .y 6 0 [] else s)
def execTokacq (g : Guard) (s : State) : Host.Outcome State Fault Refusal :=
  .next (if s.cur.on g then (s.modCur fun k => k.modYs fun y => { y with tokreq := true }).sigEffect .y 13 0 [] else s)
def execTokrel (g : Guard) (s : State) : Host.Outcome State Fault Refusal :=
  .next (if s.cur.on g then (s.modCur fun k => k.modYs fun y => { y with tokreq := false }).sigEffect .y 14 0 [] else s)

/-! ### Futures (R303-R305) -/

/-- The pool allocation of the stage that a core runs (R166). -/
def State.poolBound (s : State) (c : Nat) : Nat := Nat.min (s.progOf c).pool Config.poolMax

def State.cellFull (s : State) (c cell : Nat) : Bool :=
  bitAt (leNat (s.poolRead c (cell + 8) 1)) 0

/-- The waiter depends on the core that wrote the cell, as on any pool read (R218, R305). -/
def State.dependOnPool (s : State) (c a n : Nat) : State :=
  let cl := s.clu (clusterOf c)
  let ws := ((List.range n).filterMap fun i => Table.get? cl.poolBy (a + i)).dedup
  let ws1 := ws.filter fun w => w.1 != c && decide (s.cycle < w.2.2 + Config.W)
  if ws1.isEmpty then s
  else s.modCore c fun k => k.modRcv fun r =>
    { r with deps := r.deps ++ ws1.map fun w => { core := w.1, seg := w.2.1 } }

/-- An `fwait` that holds, with its cell (R304). -/
def State.holdFwait (s : State) (cell : Nat) : State :=
  (s.modCur fun k => k.modSeq fun q => { q with waitAt := some (q.waitAt.getD s.cycle), waitCell := cell }).holdFor .y .ywait

/-- Behind the last core of a cycle, an `fwait` that is held takes a wait-table entry, or polls when the table is full
(R304). -/
def State.enterWait (s : State) (c : Nat) : State :=
  let k := s.core c
  let q := k.seq
  let cl := clusterOf c
  let e : WaitEntry := { cell := q.waitCell, tid := k.task.getD 0, rank := k.rank }
  let held := match q.hold with | some h => h.cause == .ywait | none => false
  if !held || q.waitAt.isNone || q.waitFrom != 0 || q.releaseAt.isSome || (s.clu cl).waits.contains e then s
  else if (s.clu cl).waits.length < Config.waitEntries then s.modClu cl fun x => { x with waits := x.waits ++ [e] }
  else (s.modClu cl fun x => { x with fpoll := if x.fpoll = BitVec.allOnes 32 then x.fpoll else x.fpoll + 1 }).modCore c
    fun k => k.modSeq fun q => { q with waitFrom := s.cycle + Config.pollCycles }

/-- `fwait`: issues when the full flag is 1; held, it issues at the cycle its release gives (R303, R304). -/
def execFwait (g : Guard) (a : SSrc) (s : State) : Host.Outcome State Fault Refusal :=
  let cell := (s.cur.readS a).toNat
  let done := fun (t : State) =>
    ((((t.recvStamp s.turn (s.clu (clusterOf s.turn)).syncClock).dependOnPool s.turn cell 16).modClu (clusterOf s.turn)
      fun c => { c with waits := c.waits.filter fun w => !(w.tid == s.tidHere && w.rank == s.cur.rank) }).modCur
      fun k => k.modSeq fun q => { q with waitFrom := 0 }).sigEffect .y 7 cell []
  .next (
    if !s.cur.on g then s
    else if cell % 16 != 0 || cell / 2 ^ 25 != 0 then s.issueFault .y 0x0F
    else if s.poolBound s.turn < cell + 16 then s.execFault .y 0x0A
    else if !s.wasHeld then (if s.cellFull s.turn cell then done s else s.holdFwait cell)
    else match s.cur.seq.releaseAt with
      | some r => if r ≤ s.cycle then done s else s.holdFor .y .ywait
      | none => s.holdFwait cell)

/-- A fill of a cell releases its entries: their bundles issue in cycle f + 2 (R304). An entry of a
swapped task stays until its task is resumed and finds the cell full. -/
def State.wakeCell (s : State) (cl cell : Nat) : State :=
  let ws := (s.clu cl).waits.filter fun w => w.cell == cell
  let s1 := ws.foldl (fun (s : State) w =>
    match (s.cores.filter fun (e : Nat × Core) => e.2.task == some w.tid && e.2.rank == w.rank).head? with
    | some e => s.modCore e.1 fun k => k.modSeq fun q => { q with releaseAt := some (s.cycle + 2) }
    | none => s) s
  s1.modClu cl fun c => { c with waits := c.waits.filter fun w => w.cell != cell }

/-- The cell of the `fwait` at which a core is held. -/
def State.fwaitCell (s : State) (core : Nat) : Option Nat :=
  let q := (s.core core).seq
  q.waitAt.map fun _ => q.waitCell

/-- FUTURE_POLL: the fallback read of a cell every 128 cycles; the bundle issues in the next cycle (R304). -/
def execFuturePoll (core : Nat) (s : State) : Host.Outcome State Fault Refusal :=
  let k := s.core core
  match s.fwaitCell core with
  | none => .next s
  | some a =>
    if k.seq.waitFrom = 0 || s.cycle < k.seq.waitFrom then .next s
    else if s.cellFull core a then
      .next (s.modCore core fun q => q.modSeq fun v => { v with releaseAt := some (s.cycle + 1), waitFrom := 0 })
    else .next (s.modCore core fun q => q.modSeq fun v => { v with waitFrom := v.waitFrom + Config.pollCycles })

/-! ### Dependence counters (R306-R309) -/

/-- An operation takes the next number of its stage's sequence, or the number it took in the first run. -/
def State.queueCounterOp (s : State) (counter : Nat) (set : Option (Nat × Successor)) : State :=
  let st := s.stageOf s.turn
  let k := s.cur
  let (num, s1) := match k.rcv.reuse with
    | n :: rest => (n, s.modCur fun q => q.modRcv fun r => { r with reuse := rest })
    | [] => ((s.stage st).ctrNext, s.modStage st fun g => { g with ctrNext := g.ctrNext + 1 })
  let s2 := s1.modCur fun q => q.modRcv fun r =>
    { r with rps := match r.rps with
        | p :: ps => { p with numbers := if p.numbers.contains num then p.numbers else p.numbers ++ [num] } :: ps
        | [] => [] }
  let s3 := s2.sendStamp s.turn
  s3.modStage st fun g => { g with ctrOps := g.ctrOps ++
    [{ number := num, core := s.turn, seg := k.rcv.seg, counter := counter, set := set, tid := s.tidHere,
       addr := k.seq.pc, stamp := s3.stampOf s.turn }] }

def State.counterBase (s : State) : Nat × Nat :=
  let x := s.ctx (s.pasidOf s.turn)
  (x.dcbase, x.dccount)

def execDctrDec (g : Guard) (n : BitVec 6) (s : State) : Host.Outcome State Fault Refusal :=
  let v := (s.cur.readSReg n.toNat).toNat
  .next (
    if !s.cur.on g then s
    else if v / 2 ^ 16 != 0 then s.issueFault .y 0x0F
    else if s.counterBase.2 ≤ v then s.issueFault .y 0x0A
    else if s.speculative s.turn then s.holdFor .y .frontier
    else (s.queueCounterOp (s.counterBase.1 + v) none).sigEffect .y 8 v [])

def execDctrSet (g : Guard) (n k t : BitVec 6) (s : State) : Host.Outcome State Fault Refusal :=
  let v := (s.cur.readSReg n.toNat).toNat
  let kv := (s.cur.readSReg k.toNat).toNat
  let tv := (s.cur.readSReg t.toNat).toNat
  let kind := TaskKind.ofCode (bits kv 32 2)
  let budget := Table.get (s.progOf s.turn).budgets 0 kind.code
  let c := bits v 0 16
  .next (
    if !s.cur.on g then s
    else if bits v 16 24 = 0 || v / 2 ^ 40 != 0 || kv / 2 ^ 34 != 0 || budget = 0 then s.issueFault .y 0x0F
    else if s.counterBase.2 ≤ c then s.issueFault .y 0x0A
    else if s.speculative s.turn then s.holdFor .y .frontier
    else
      let su : Successor := { kind := kind, tag := bits kv 0 32, ts := tv, budget := budget, stage := s.stageOf s.turn }
      (s.queueCounterOp (s.counterBase.1 + c) (some (bits v 16 24, su))).sigEffect .y 9 c (leBytes 8 kv ++ leBytes 8 tv))

/-! ### Next-tile requests (R312-R314) -/

/-- The tile of index i of a descriptor, or the null flag (R313). -/
def tileValue (T nx ny order rest i : Nat) : Nat :=
  if T ≤ i || nx = 0 || ny = 0 || 1 < order || rest != 0 then 2 ^ 64 - 1
  else
    let x := if order = 0 then i % nx else i / ny % nx
    let y := if order = 0 then i / nx % ny else i % ny
    i / (nx * ny) * 2 ^ 32 + y * 2 ^ 16 + x

def execNtile (g : Guard) (a b : SSrc) (s : State) : Host.Outcome State Fault Refusal :=
  let d := (s.cur.readS a).toNat
  let w := (s.cur.readS b).toNat
  let r := bits w 0 16
  let P := bits w 16 16
  let m := fun (a n : Nat) => leNat (s.poolRead s.turn a n)
  .next (
    if !s.cur.on g then s
    else if d % 16 != 0 || d / 2 ^ 25 != 0 || w / 2 ^ 32 != 0 || P ≤ r then s.issueFault .y 0x0F
    else if s.poolBound s.turn < d + 16 then s.execFault .y 0x0A
    else
      let y := s.cur.ys
      let v := tileValue (m d 4) (m (d + 4) 2) (m (d + 6) 2) (m (d + 8) 1)
        (m (d + 9) 7) (y.ntc * P + r)
      ((s.dependOnPool s.turn d 16).modCur fun k =>
        (k.push .y 64 (.s (60 + y.ntp)) v (ones 64) 0 true).modYs fun q =>
          { q with ntc := (q.ntc + 1) % 2 ^ 64, ntp := (q.ntp + 1) % 4 }).sigEffect .y 15 d (leBytes 8 w))

/-! ### Waiting for records (R315) -/

/-- `evwait n`: the join of the n oldest records once the queue holds them. -/
def execEvwait (g : Guard) (count : Byte) (s : State) : Host.Outcome State Fault Refusal :=
  let n := count.toNat
  .next (
    if !s.cur.on g then s
    else if n = 0 || 128 < n then s.issueFault .y 0x0F
    else if s.cur.eng.evq.length < n then s.holdFor .y .records
    else ((s.cur.eng.evq.take n).foldl (fun t r => t.recvStamp s.turn r.stamp) s).sigEffect .y 17 0 (leBytes 1 n))

/-! ### Power tokens (R137, R310, R322) -/

/-- Does a cluster need a token: a burst open, a core frozen at `m.mburst`, or a request set? -/
def State.needsToken (s : State) (cl : Nat) : Bool :=
  (List.range 8).any fun j =>
    let k := s.core (8 * cl + j)
    k.arr.burst || k.ys.tokreq || (match k.seq.hold with | some h => h.cause == .token | none => false)

/-- TOKEN_HOP on one die, one cycle of the loop: held tokens leave clusters that no longer need them, free
tokens that have arrived stay at a cluster that needs one, surplus ones are withdrawn, the others move on
one cluster every 4 cycles (R310). -/
def execTokenHop (die : Nat) (s : State) : Host.Outcome State Fault Refusal :=
  let idx := List.range 6
  let freed := idx.filter fun i => (s.clu (6 * die + i)).hasToken && !s.needsToken (6 * die + i)
  let s1 := freed.foldl (fun (s : State) i => s.modClu (6 * die + i) fun c => { c with hasToken := false }) s
  let s2 := s1.modDie die fun d =>
    { d with tokens := d.tokens ++ freed.map fun i => { pos := (i + 1) % 6, hopAt := s.cycle + Config.hopCycles } }
  let step := fun (s : State) (t : Token) =>
    let cl := 6 * die + t.pos
    if s.cycle < t.hopAt then s.modDie die fun d => { d with tokens := d.tokens ++ [t] }
    else if s.needsToken cl && !(s.clu cl).hasToken then s.modClu cl fun c => { c with hasToken := true }
    else if 0 < (s.die die).surplus && !s.needsToken cl then s.modDie die fun d => { d with surplus := d.surplus - 1 }
    else s.modDie die fun d => { d with tokens := d.tokens ++ [{ pos := (t.pos + 1) % 6, hopAt := s.cycle + Config.hopCycles }] }
  .next ((s2.die die).tokens.foldl step (s2.modDie die fun d => { d with tokens := [] }))

end Sys2Proof.Machine
end

