-- ==== Sys2Proof/Machine/Memory.lean ====
section
/-!
DEFINITION. Memory beyond the core: page walks (R336-R338), the resolution of an access into pieces with its
checks (R167, R168, R191), what a read observes (R187, R190, R201, R215, R265, R266), the sets of a
speculative task (R260-R263), writes on their way, and the breakwater (R190, R205, R217, R378).
-/
namespace Sys2Proof.Machine

/-! ### Translation (R336-R338) -/

def hbmEnd : Nat := 0x5400000000
def doorBase : Nat := 0x20000000000

def hasLpddr (s : State) : Bool := bitAt s.hwcfg.toNat 4

/-- The physical range of a page or table lies in one range of R337; the doorbells take kind SO only. -/
def physOk (s : State) (a n kind : Nat) : Bool :=
  decide (a + n ≤ hbmEnd) ||
  (hasLpddr s && decide (0x10000000000 ≤ a) && decide (a + n ≤ 0x1C000000000)) ||
  (kind == 0 && decide (doorBase ≤ a) && decide (a + n ≤ doorBase + 0x1000000))

/-- Size of a leaf at a level. -/
def leafSize : Nat → Nat
  | 1 => 2 ^ 30 | 2 => 2 ^ 21 | _ => 2 ^ 12

def pteFrame (e : Nat) : Nat := bits e 12 38 * 4096

/-- The faults of one entry at a level (R337). -/
def pteBad (s : State) (e level : Nat) : Bool :=
  let leaf := bitAt e 1
  !bitAt e 0 || bits e 6 6 != 0 ||
  (if leaf then
    level == 0 || pteFrame e % leafSize level != 0 || bits e 4 2 == 3 ||
      !physOk s (pteFrame e) (leafSize level) (bits e 4 2)
  else level == 3 || bits e 50 14 != 0 || bits e 4 2 != 0 || !decide (pteFrame e + 4096 ≤ hbmEnd))

/-- Position of the index bits of a level. -/
def vaIndex (va level : Nat) : Nat :=
  match level with
  | 0 => bits va 39 18 | 1 => bits va 30 9 | 2 => bits va 21 9 | _ => bits va 12 9

/-- The walk from a table: a leaf entry and its level, or none for the translation fault. -/
def walkFrom (s : State) (va : Nat) : Nat → Nat → Option (Nat × Nat)
  | 0, _ => none
  | n + 1, table =>
    let level := 3 - n
    let e := s.pmem.readLE (table + 8 * vaIndex va level) 8
    if pteBad s e level then none
    else if bitAt e 1 then some (e, level)
    else walkFrom s va n (pteFrame e)

/-- The leaf entry that an access uses. `old`: what a translation cache still holds, be it that a page had none, stands before
what the tables say now (R214, R338). -/
def leafFor (s : State) (pasid va : Nat) (old : Bool := false) : Option (Nat × Nat) :=
  let x := s.ctx pasid
  let w := if va / 2 ^ 57 != 0 then none else walkFrom s va 4 x.ptroot
  match old, Table.get? x.tlb (va / 4096) with
  | true, some (e, level) => if bitAt e.toNat 0 then some (e.toNat, level) else none
  | _, _ => w

/-- Does one access to some virtual addresses use the entries that the translation caches hold, or the tables? Until an
invalidation either may serve it, one for all its bytes (R214, R338). -/
def State.oldMapping (s : State) (pasid : Nat) (vas : List Nat) : Bool :=
  Config.freeChoice s.free && vas.all fun va => (Table.get? (s.ctx pasid).tlb (va / 4096)).isSome

/-- A page as an access sees it. -/
structure Page where
  pa : Nat
  kind : Nat
  home : Nat
  r : Bool
  w : Bool
  deriving DecidableEq, Repr

def translate (s : State) (pasid va : Nat) (old : Bool := false) : Option Page :=
  (leafFor s pasid va old).map fun (e : Nat × Nat) =>
    { pa := pteFrame e.1 + va % leafSize e.2, kind := bits e.1 4 2, home := bits e.1 50 14,
      r := bitAt e.1 2, w := bitAt e.1 3 }

/-- The translation cache keeps the entries that an access has read, and an older one that it holds until that is dropped
(R214). -/
def State.tlbFill (s : State) (pasid : Nat) (vas : List Nat) : State :=
  let put := fun (t : Table (Word64 × Nat)) va => match Table.get? t (va / 4096), leafFor s pasid va with
    | none, some (e, l) => Table.put t (va / 4096) (BitVec.ofNat 64 e, l)
    | _, _ => t
  s.modCtx pasid fun x => { x with tlb := vas.foldl put x.tlb }

/-! ### Resolving an access (R167, R191, R203) -/

/-- One piece of an access: its byte position in the value, where its bytes lie (an offset of the core or
the pool, or an absolute chip-scratchpad or physical address), its length and its order kind (R199). -/
structure Piece where
  pos : Nat
  addr : Nat
  len : Nat
  kind : Nat := 1
  deriving DecidableEq, Repr

inductive Resolved
  | fault (code : Nat)
  | ok (ps : List Piece)
  deriving DecidableEq, Repr

/-- Bound of an on-chip level (R166). -/
def State.levelBound (s : State) (c : Nat) : Level → Nat
  | .sp => Config.spBytes
  | .cp => s.poolBound c
  | .xs => (s.progOf c).xs
  | .gl => 0

/-- The slot of a doorbell page, for an address in the doorbell range. -/
def doorSlot (pa : Nat) : Option Nat := if doorBase ≤ pa then some ((pa - doorBase) / 4096) else none

/-- Does an address lie in the doorbell page of a live queue of another PASID (R341)? -/
def State.foreignDoor (s : State) (pasid pa : Nat) : Bool :=
  match (doorSlot pa).bind fun n => s.queue? n with
  | some q => q.pasid != pasid
  | none => false

/-- One piece in global memory. `sync`: an acquire or a release. -/
def resolveGlobal (s : State) (c : Nat) (wr sync : Bool) (p : Piece) (old : Bool := false) : Resolved :=
  match translate s (s.pasidOf c) p.addr old with
  | none => .fault 0x09
  | some g =>
    if (if wr then !g.w else !g.r) || g.home != s.chipNo || (sync && g.kind == 2) || (wr && s.foreignDoor (s.pasidOf c) g.pa) then .fault 0x0A
    else .ok [{ p with addr := g.pa, kind := g.kind }]

/-- The pieces of an access at a level, or its fault: that of the first failing piece. -/
def resolve (s : State) (c : Nat) (lvl : Level) (wr sync : Bool) (ps : List Piece) : Resolved :=
  match lvl with
  | .gl =>
    let old := s.oldMapping (s.pasidOf c) (ps.map (·.addr))
    ps.foldl (fun acc p => match acc with
      | .fault f => .fault f
      | .ok l => match resolveGlobal s c wr sync p old with
        | .fault f => .fault f
        | .ok l1 => .ok (l ++ l1)) (.ok [])
  | _ =>
    let base := if lvl = .xs then (s.ctx (s.pasidOf c)).xsbase else 0
    if ps.any fun p => decide (s.levelBound c lvl < p.addr + p.len) then .fault 0x0A
    else .ok (ps.map fun p => { p with addr := base + p.addr })

/-! ### Granules and the sets of a speculative task (R260-R263) -/

def granOf (xs : Bool) (a : Nat) : Nat := 2 * (a / 128) + bit xs

/-- The granules of pieces, without repeats. -/
def granules (xs : Bool) (ps : List Piece) : List Nat :=
  ((ps.map fun p => (List.range ((p.addr % 128 + p.len + 127) / 128)).map fun i => granOf xs ((p.addr / 128 + i) * 128)).flatten).dedup

/-- Set of the first-level cache that a granule falls in: 2 MiB of 16 ways of 128 bytes. -/
def cacheSet (g : Nat) : Nat := g / 2 % 1024

/-- Does a tracked access of a task on a core need a line that is not free (R263)? -/
def State.overflows (s : State) (c t : Nat) (gs : List Nat) : Bool :=
  let mine := ((s.task? t).map fun (k : Task) => k.lines.filter fun l => l.core == c).getD []
  let fresh := gs.filter fun g => !(mine.any fun l => l.gran == g)
  let all := (s.tasks.map fun (e : Nat × Task) => e.2.lines.filter fun l => l.core == c).flatten
  let tags := (s.tasks.filter fun (e : Nat × Task) => e.1 != t && e.2.lines.any fun l => l.core == c).length
  (mine.isEmpty && !fresh.isEmpty && decide (8 ≤ tags)) ||
  fresh.any fun g => decide (12 < (all.filter fun l => cacheSet l.gran == cacheSet g).length +
    (fresh.filter fun h => cacheSet h == cacheSet g).length)

/-- Granules enter the read or the write set of a task. -/
def State.track (s : State) (c t : Nat) (gs : List Nat) (wr : Bool) : State :=
  s.modTask t fun k =>
    { k with lines := gs.foldl (fun ls g =>
        if ls.any fun l => l.gran == g && l.core == c
        then ls.map fun l => if l.gran == g && l.core == c then { l with rd := l.rd || !wr, wr := l.wr || wr } else l
        else ls ++ [{ gran := g, rd := !wr, wr := wr, core := c }]) k.lines }

/-! ### What a read observes -/

/-- Bytes of the home of a location. -/
def State.homeRead (s : State) (xs : Bool) (a n : Nat) : List Byte := (if xs then s.xs else s.pmem).readBytes a n

/-- A write laid over bytes read from address a on. -/
def patch (a : Nat) (bs : List Byte) (w : Write) : List Byte :=
  bs.zipIdx.map fun x =>
    let i := a + x.2
    if w.addr ≤ i && i < w.addr + w.bytes.length then w.bytes.getD (i - w.addr) 0 else x.1

/-- Does a core observe a held write of its cluster: one of its context (R334), which has not been committed in this very cycle by
another core or another task (R265); a release of another core not before the pool atomics that it follows (R186, R205)? -/
def State.sees (s : State) (c : Nat) (h : Held) : Bool :=
  h.pasid == s.pasidOf c &&
  (if h.w.core == c then h.since != s.cycle || ((s.taskOf c).map (·.key)) == some h.key
   else h.since != s.cycle && !(h.w.rel && (s.core h.w.core).eng.atomics.any fun a => decide (a.id < h.w.id)))

/-- The held writes of its cluster that a core observes. -/
def State.heldSeen (s : State) (c : Nat) : List Write := ((s.clu (clusterOf c)).held.filter (s.sees c)).map (·.w)

/-- The writes on their way that a core observes, oldest first: held writes of its cluster, its own first-level UN
writes, and its task's speculative writes. -/
def State.visible (s : State) (c : Nat) (xs : Bool) : List Write :=
  let held := s.heldSeen c
  let spec := ((s.taskOf c).map fun (t : Task) => t.wlog).getD []
  (held ++ (s.core c).eng.unWrites ++ spec).filter fun w => w.xs == xs

/-- A line of a UN page that the core keeps (R201). -/
def State.unLine (s : State) (c a : Nat) : Option (List Byte) := Table.get? (s.core c).eng.unLines (a / 128)

/-- The committed bytes of a UN line, as a core brings it into its first-level cache: no task's speculative bytes (R215). -/
def State.lineBytes (s : State) (c l : Nat) : List Byte :=
  ((s.heldSeen c ++ (s.core c).eng.unWrites).filter fun w => !w.xs).foldl (patch (128 * l)) (s.homeRead false (128 * l) 128)

/-- Speculative writes of the task that a core holds (R215). -/
def State.ownSpec (s : State) (c : Nat) (xs : Bool) : List Write :=
  (((s.taskOf c).map fun (t : Task) => t.wlog).getD []).filter fun w => w.xs == xs

/-- The bytes of a piece as a core observes them at its issue. A doorbell page reads as a free value. -/
def State.observe (s : State) (c : Nat) (xs : Bool) (p : Piece) : List Byte :=
  if !xs && doorBase ≤ p.addr then leBytes p.len (Config.freeWord s.free)
  else
    let now := (s.visible c xs).foldl (patch p.addr) (s.homeRead xs p.addr p.len)
    if p.kind = 2 then
      match s.unLine c p.addr with
      | some l => (s.ownSpec c xs).foldl (patch p.addr) ((l.drop (p.addr % 128)).take p.len)
      | none => now
    else now

/-- The value of an access from its pieces. -/
def gather (f : Piece → List Byte) (ps : List Piece) : Nat :=
  ps.foldl (fun acc p => acc + leNat (f p) * 2 ^ (8 * p.pos)) 0

/-- Does a cluster other than the core's hold a committed write of the same stage in a granule (R266): one that has been
committed before this cycle, since a read of the same cycle comes before the commit (R265)? -/
def State.heldElsewhere (s : State) (c g : Nat) : Bool :=
  let st := s.stageOf c
  s.clusters.any fun (e : Nat × Cluster) => e.1 != clusterOf c && e.2.held.any fun h =>
    h.stage == st && h.pasid == s.pasidOf c && h.since != s.cycle && (granules h.w.xs [{ pos := 0, addr := h.w.addr, len := h.w.bytes.length }]).contains g

def State.pieceHeld (s : State) (c : Nat) (xs : Bool) (p : Piece) : Bool := (granules xs [p]).any fun g => s.heldElsewhere c g

/-- Pieces that wait for a release, as an entry in flight keeps them. -/
def waitOf (ps : List Piece) : List (Nat × Nat × Nat) := ps.map fun p => (8 * p.pos, p.addr, p.len)

/-- Reads the waiting pieces of an entry into its value. -/
def fillWait (f : Piece → List Byte) (val : Nat) (ws : List (Nat × Nat × Nat)) : Nat :=
  ws.foldl (fun v w =>
    let n := leNat (f { pos := 0, addr := w.2.1, len := w.2.2 })
    let hole := ones (8 * w.2.2) * 2 ^ w.1
    (v ^^^ (v &&& hole)) + n * 2 ^ w.1) val

/-- A core has observed held writes of other cores of its cluster: its later releases follow them (R205), and it depends
on the writers of those that are younger than W (R218). -/
def State.observeHeld (s : State) (c : Nat) (hs : List Held) : State :=
  if hs.isEmpty then s
  else
    let all := ((s.clu (clusterOf c)).held.map (·.ord))
    let young := hs.filter fun h => decide (s.cycle < h.since + Config.W)
    s.modCore c fun k =>
      (k.modRcv fun r => { r with deps := r.deps ++ (young.map fun h => { core := h.w.core, seg := h.w.seg : Dep }).dedup }).modEng
        fun e => { e with observed := ((e.observed.filter (all.contains ·)) ++ hs.map (·.ord)).dedup }

/-- The held writes of other cores of its cluster that a core reads. -/
def State.heldRead (s : State) (c : Nat) (xs : Bool) (ps : List Piece) : List Held :=
  (s.clu (clusterOf c)).held.filter fun h => h.w.core != c && h.w.xs == xs && s.sees c h &&
    ps.any fun p => decide (h.w.addr < p.addr + p.len) && decide (p.addr < h.w.addr + h.w.bytes.length)

/-- A read of a core that issued at a place in its order and has waited observes held writes only now: every release that the core
has issued behind it follows them (R205). -/
def State.observeAt (s : State) (c place : Nat) (hs : List Held) : State :=
  if hs.isEmpty then s
  else
    let ords := hs.map (·.ord)
    let add := fun (l : List Nat) => (l ++ ords).dedup
    let late := fun (w : Write) => if w.core == c && w.rel && decide (place < w.id) then { w with after := add w.after } else w
    let op := fun (o : EngOp) => if place < o.id then { o with after := add o.after } else o
    let s1 := (s.observeHeld c hs).modClu (clusterOf c) fun k => { k with held := k.held.map fun h => { h with w := late h.w } }
    { s1 with tasks := s1.tasks.map fun (e : Nat × Task) => (e.1, { e.2 with wlog := e.2.wlog.map late }) }.modCore c fun k => k.modEng fun e =>
      { e with chanQ := e.chanQ.map op, stashQ := e.stashQ.map op, copyQ := e.copyQ.map op,
               phaserOps := e.phaserOps.map fun (o : PhaserOp) => if place < o.id then { o with after := add o.after } else o }

/-- The core depends on the writers of held bytes that it reads in its own cluster (R205, R218). -/
def State.dependOnHeld (s : State) (c : Nat) (xs : Bool) (ps : List Piece) : State := s.observeHeld c (s.heldRead c xs ps)

/-! ### Poison (R369, R371, R380, R381) -/

/-- Where a byte of HBM4E lies: its stripe, the stack of its chunk, and the number of a stripe's channel in a stack (R380). -/
def stripeOf (a : Nat) : Nat := a / 1792
def stackOf (a : Nat) : Nat := (stripeOf a % 8 + 1 + a % 1792 / 256) % 8
def channelOf (stack stripe : Nat) : Nat := 32 * stack + stripe % 32

/-- The first address of the data chunk that a stack holds of a stripe; none where it holds the parity (R380). -/
def chunkAt (stack stripe : Nat) : Option Nat :=
  let c := (stack + 7 - stripe % 8) % 8
  if c < 7 then some (1792 * stripe + 256 * c) else none

/-- A line whose chunk and another of its stripe lie on lost channels cannot be rebuilt (R381). -/
def State.lineLost (s : State) (a : Nat) : Bool :=
  let lost := fun (k : Nat) => s.channelsLost.contains (channelOf k (stripeOf a))
  decide (a < hbmEnd) && lost (stackOf a) && ((List.range 8).any fun k => k != stackOf a && lost k)

/-- A poisoned line, by its granule (R371). -/
def State.linePoisoned (s : State) (g : Nat) : Bool := s.poison.contains g || (g % 2 == 0 && s.lineLost (128 * (g / 2)))

/-- Does a core read the bytes of a held write that an error has poisoned (R369)? -/
def State.heldPoison (s : State) (c : Nat) (xs : Bool) (p : Piece) : Bool :=
  (s.clu (clusterOf c)).held.any fun h =>
    h.poison && h.w.xs == xs && s.sees c h && decide (h.w.addr < p.addr + p.len) && decide (p.addr < h.w.addr + h.w.bytes.length)

/-- A poisoned line, or poisoned bytes of its own cluster's breakwater, under a read of a core (R369, R371). -/
def State.poisoned (s : State) (c : Nat) (xs : Bool) (ps : List Piece) : Bool :=
  (granules xs ps).any s.linePoisoned || ps.any (s.heldPoison c xs)

/-- A UN line that is read stays in the first-level cache, or the core evicts it: a choice left open (R201). -/
def State.cacheUn (s : State) (c : Nat) (ps : List Piece) : State :=
  let lines := ((ps.filter fun p => p.kind == 2).map fun p => p.addr / 128).dedup
  if lines.isEmpty then s
  else
    let (i, s1) := s.takeFree
    if Config.freeChoice i then
      s1.modCore c fun k => k.modEng fun e => { e with unLines := lines.foldl (fun t l => Table.del t l) e.unLines }
    else lines.foldl (fun (s : State) l => match Table.get? (s.core c).eng.unLines l with
      | some _ => s
      | none =>
        let bs := s.lineBytes c l
        s.modCore c fun k => k.modEng fun e => { e with unLines := Table.put e.unLines l bs }) s1

/-- Does a load of the core that has issued and still waits for its data stand before a new read of some bytes (R187,
R198, R200): one of a common byte, or one SO read before another? -/
def State.readsWait (s : State) (c : Nat) (xs : Bool) (p : Piece) : Bool :=
  let k := s.core c
  let meets := fun (w : Nat × Nat × Nat) => decide (w.2.1 < p.addr + p.len) && decide (p.addr < w.2.1 + w.2.2)
  if xs then (k.seq.flight.any fun r => r.wait.any meets) || (match k.eng.ldmc with | some m => m.wait.any meets | none => false)
  else k.seq.gloads.any fun g => g.reads.any meets || (g.so && p.kind == 0 && !g.reads.isEmpty)

/-- The pieces of a read that do not take their value at its issue: data that another cluster holds (R266), and what
stands behind an earlier read that waits. -/
def State.lateOf (s : State) (c : Nat) (xs : Bool) (ps : List Piece) : List Piece :=
  ps.filter fun p => s.pieceHeld c xs p || s.readsWait c xs p

/-! ### Why an access to the chip scratchpad or global memory is held at its issue -/

/-- Breakwater entries that some held writes take: writes of one line from one segment share one (R378). -/
def entryKeys (ws : List Write) : List (Nat × Nat × Nat) :=
  (ws.map fun w => (w.core, w.seg, granOf w.xs w.addr)).dedup
/-- Is there no free entry for some more writes? One that merges into an entry needs none (R378). -/
def State.noRoom (s : State) (cl : Nat) (new : List (Nat × Nat × Nat)) : Bool :=
  let h := (s.clu cl).held
  decide (Config.breakwaterEntries < h.length + new.length) &&
    (let keys := entryKeys (h.map (·.w))
     decide (Config.breakwaterEntries < keys.length + (new.filter fun x => !keys.contains x).length))

/-- Is there no free entry for the UN writes that a core would send out of its first-level cache (R201, R378)? -/
def State.unStuck (s : State) (c : Nat) : Bool := s.noRoom (clusterOf c) (entryKeys (s.core c).eng.unWrites)

/-- R262-R264, R378: SO accesses and overflowing accesses wait for the frontier, and one that has overflowed waits
although lines have been freed since; tracked accesses wait for the end of the commit burst, a committed write waits for
a breakwater entry. -/
def State.accessHold (s : State) (c : Nat) (xs wr : Bool) (ps : List Piece) : Option HoldCause :=
  match (s.core c).task with
  | none => none
  | some t =>
    let so := fun (p : Piece) => !xs && p.kind == 0
    if s.speculative c then
      if ps.any so || (s.core c).seq.fronted || s.overflows c t (granules xs ps) then some .frontier
      else none
    else if s.cycle < (s.stage (s.stageOf c)).burstEnd && !ps.all so then some .frontier
    else if wr && s.noRoom (clusterOf c) ((granules xs ps).map fun g => (c, (s.core c).rcv.seg, g)) then some .breakwater
    else none

/-! ### Writes on their way (R190, R201, R215, R216, R265) -/

/-- A committed write enters the breakwater of a cluster. -/
def State.hold1 (s : State) (cl : Nat) (st pasid : Nat) (key : Key) (w : Write) : State :=
  let (n, s1) := s.takeId
  s1.modClu cl fun k => { k with held := k.held ++
    [{ w := w, pasid := pasid, stage := st, key := key, ord := n, since := s.cycle }] }

/-- Granules are committed in this cycle (R265): the aborts follow at the end of the cycle. -/
def State.commitGranules (s : State) (st : Nat) (gs : List Nat) : State :=
  s.modStage st fun g => { g with committed := (g.committed ++ gs).dedup }

/-- A core's own committed UN write also changes the line that it keeps. -/
def updateLine (e : Engines) (w : Write) : Engines :=
  match Table.get? e.unLines (w.addr / 128) with
  | some l => { e with unLines := Table.put e.unLines (w.addr / 128) (patch (w.addr / 128 * 128) l w) }
  | none => e

/-- A store that misses in a UN line allocates it (R168), or the core evicts it again at once: a choice left open (R201). -/
def State.allocUn (s : State) (w : Write) : State := if w.un then s.cacheUn s.turn [{ pos := 0, addr := w.addr, len := 1, kind := 2 }] else s

/-- One piece of a store of the core in issue leaves its slot. -/
def State.storePiece (s : State) (xs rel : Bool) (v : Nat) (p : Piece) : State :=
  let k := s.cur
  let (id, s) := s.takeId
  let w : Write := { id := id, xs := xs, addr := p.addr, bytes := leBytes p.len (v / 2 ^ (8 * p.pos)), core := s.turn,
                     seg := k.rcv.seg, epoch := k.eng.epoch, so := !xs && p.kind == 0, rel := rel, un := !xs && p.kind == 2,
                     after := if rel then k.eng.observed else [] }
  match k.task with
  | none => s
  | some t =>
    let s := s.allocUn w
    let st := s.stageOf s.turn
    if s.speculative s.turn then
      s.modTask t fun x => { x with wlog := x.wlog ++ [w] }
    else
      let s1 := s.commitGranules st (granules xs [p])
      if w.un then s1.modCur fun q => q.modEng fun e => { updateLine e w with unWrites := e.unWrites ++ [w] }
      else s1.hold1 (clusterOf s.turn) st (s.pasidOf s.turn) ((s.taskOf s.turn).map (·.key) |>.getD {}) w

/-- Pieces cut at line boundaries, so that a write lies in one line. -/
def cutLines (p : Piece) : List Piece :=
  let n := (p.addr % 128 + p.len + 127) / 128
  (List.range n).map fun i =>
    let lo := if i = 0 then p.addr else (p.addr / 128 + i) * 128
    let hi := Nat.min (p.addr + p.len) ((p.addr / 128 + i + 1) * 128)
    { p with pos := p.pos + (lo - p.addr), addr := lo, len := hi - lo }

/-- A store to the chip scratchpad or global memory: pieces in order, the later prevails. A release opens
a new epoch before and after itself (R205, R217). -/
def State.storeOut (s : State) (xs rel : Bool) (v : Nat) (ps : List Piece) : State :=
  let bump := fun (s : State) => s.modCur fun k => k.modEng fun e => { e with epoch := e.epoch + 1 }
  let s0 := match s.cur.task with
    | some t => if s.speculative s.turn then s.track s.turn t (granules xs ps) true else s
    | none => s
  let s1 := if rel then bump s0 else s0
  let s2 := ((ps.map cutLines).flatten).foldl (fun s p => s.storePiece xs rel v p) s1
  if rel then bump s2 else s2

/-- First-level UN writes of a core go to the breakwater (R201). -/
def State.flushUn (s : State) (c : Nat) : State :=
  let ws := (s.core c).eng.unWrites
  let key := ((s.taskOf c).map (·.key)).getD {}
  let s1 := s.modCore c fun k => k.modEng fun e => { e with unWrites := [] }
  ws.foldl (fun s w => s.hold1 (clusterOf c) (s.stageOf c) (s.pasidOf c) key w) s1

/-- At any time a core may evict a line of a UN page: a clean one goes, and written bytes go to the breakwater. Whether
it does so in a cycle, and with which line, is left open (R201); it does not where the breakwater has no room (R378). -/
def State.evictUn (s : State) (c : Nat) : State :=
  let e := (s.core c).eng
  let lines : List Nat := ((e.unWrites.map fun (w : Write) => w.addr / 128) ++ e.unLines.map fun (x : Nat × List Byte) => x.1).dedup
  match lines with
  | [] => s
  | l0 :: _ =>
    let (i, s1) := s.takeFree
    if !Config.freeChoice i || s.unStuck c then s1
    else
      let l := lines.getD (Config.freeWord i % lines.length) l0
      let out := e.unWrites.filter fun w => w.addr / 128 == l
      let key := ((s.taskOf c).map (·.key)).getD {}
      out.foldl (fun (s : State) w => s.hold1 (clusterOf c) (s.stageOf c) (s.pasidOf c) key w)
        (s1.modCore c fun k => k.modEng fun e =>
          { e with unLines := Table.del e.unLines l, unWrites := e.unWrites.filter fun w => w.addr / 128 != l })

/-! ### The breakwater (R217, R378) -/

def overlap (a b : Write) : Bool :=
  a.xs == b.xs && decide (a.addr < b.addr + b.bytes.length) && decide (b.addr < a.addr + a.bytes.length)

/-- The waiting chip-scratchpad reads of a core in the order of their issue: their places and pieces. -/
def Core.xsWaits (k : Core) : List (Nat × List (Nat × Nat × Nat)) :=
  let fl := (k.seq.flight.filter fun r => !r.wait.isEmpty).map fun r => (r.mark, r.wait)
  let md := match k.eng.ldmc with | some m => if m.wait.isEmpty then [] else [(m.mark, m.wait)] | none => []
  fl.filter (fun x => md.all fun y => decide (x.1 ≤ y.1)) ++ md ++ fl.filter fun x => !(md.all fun y => decide (x.1 ≤ y.1))

/-- May a release of a core take effect beyond its cluster: nothing that R205 puts before it is still on its way? `id` is
its place in the core's order, `after` the held writes of others that the core had observed. Writes and pool atomics of
the core that precede it, and the writes of tasks of the stage with an earlier key, have left, and the reads that precede it
have observed what they observe. Only writes of its own context count (R334). -/
def State.releaseClear (s : State) (core id : Nat) (after : List Nat) (stage : Nat) (key : Key) (pasid : Nat) : Bool :=
  let everywhere := ((s.clusters.map fun (e : Nat × Cluster) => e.2.held).flatten).filter fun h => h.pasid == pasid
  let k := s.core core
  !(k.seq.gloads.any fun g => decide (g.id < id) && !g.reads.isEmpty) && !(k.xsWaits.any fun x => decide (x.1 < id)) &&
  !(everywhere.any fun x => (x.w.core == core && decide (x.w.id < id)) || after.contains x.ord || (x.stage == stage && Key.lt x.key key)) &&
  !(k.eng.atomics.any fun a => decide (a.id < id)) && !(k.eng.unWrites.any fun w => decide (w.id < id)) &&
  !(s.tasks.any fun (e : Nat × Task) => s.isFrontier e.1 && e.2.wlog.any fun w => w.core == core && decide (w.id < id))

/-- Has an operation still to read its tensor, which then does not observe what its core has written behind it (R212)? -/
def EngOp.unread (o : EngOp) : Bool :=
  !o.started && !o.complete && o.status == 0 && (match o.cmd with
    | .copy _ _ _ | .chsend _ _ _ _ | .stash _ _ _ | .spill _ _ _ _ | .wver _ _ => true
    | _ => false)

/-- May a held write be released now? Strike-clear, after the lower epochs of its core, SO writes in issue
order, writes to one byte in the order of their commits, after what earlier commands read, a release after all that R205 puts
before it. -/
def State.releasable (s : State) (cl : Nat) (h : Held) : Bool :=
  let here := (s.clu cl).held
  let everywhere := (s.clusters.map fun (e : Nat × Cluster) => e.2.held).flatten
  let k := s.core h.w.core
  (match h.w.clearAt with | some t => decide (t ≤ s.cycle) | none => false) && !s.viral &&
  !(here.any fun x => x.w.core == h.w.core && x.pasid == h.pasid && (decide (x.w.epoch < h.w.epoch) || (x.w.so && h.w.so && decide (x.ord < h.ord)))) &&
  !(everywhere.any fun x => decide (x.ord < h.ord) && overlap x.w h.w) &&
  !(k.seq.gloads.any fun g => decide (g.id < h.w.id) && ((g.so && h.w.so && !g.reads.isEmpty) || g.reads.any fun r =>
      !h.w.xs && decide (r.2.1 < h.w.addr + h.w.bytes.length) && decide (h.w.addr < r.2.1 + r.2.2))) &&
  !(s.tasks.any fun (e : Nat × Task) => e.2.wlog.any fun w => w.core == h.w.core && decide (w.epoch < h.w.epoch) && s.isFrontier e.1) &&
  !((k.eng.copyQ ++ k.eng.stashQ ++ k.eng.chanQ).any fun o => o.unread && decide (o.id < h.w.id)) &&
  !(k.seq.flight.any fun r => !r.wait.isEmpty && decide (r.mark ≤ h.w.id)) &&
  !(match k.eng.ldmc with | some m => !m.wait.isEmpty && decide (m.mark ≤ h.w.id) | none => false) &&
  (!h.w.rel || s.releaseClear h.w.core h.w.id h.w.after h.stage h.key h.pasid)

/-- CHIP_PHASER_PERFORM: the oldest chip-phaser operation of a core is performed at the phaser, as a `strel` at level 0
would be: its bundle committed and strike-clear, after all that R205 puts before a release (R298). -/
def execChipPhaserPerform (core : Nat) (s : State) : Host.Outcome State Fault Refusal :=
  match (s.core core).eng.phaserOps with
  | [] => .next s
  | o :: rest =>
    let t := s.task? o.tid
    let first := s.releaseClear core o.id o.after ((t.map (·.stage)).getD 0) ((t.map (·.key)).getD {}) (s.pasidOf core)
    if !s.clearFor o.clearAt o.tid || !first then .next s
    else
      let p := Table.get s.chipPhasers {} o.index
      let p1 := match o.act with
        | .join m => p.join o.tid o.rank m
        | .signal => match p.member? o.tid o.rank with
          | some m => p.signal m (core, o.seg) o.stamp
          | none => p
        | .leave => match p.member? o.tid o.rank with
          | some m => p.leave m (core, o.seg) o.stamp s.cycle
          | none => p
      let s1 := { s with chipPhasers := Table.put s.chipPhasers o.index (p1),
                         bankClock := Nat.max s.bankClock o.stamp }
      .next (s1.modCore core fun k => k.modEng fun e => { e with phaserOps := rest })

/-- A released doorbell store: an aligned 8-byte store at offset 0 from the queue's PASID writes the queue's `wptr`; any
other is discarded (R341). -/
def State.doorbell (s : State) (pasid : Nat) (w : Write) : State :=
  match doorSlot w.addr with
  | some n =>
    if (w.addr - doorBase) % 4096 = 0 && w.bytes.length = 8 && ((s.queue? n).map fun (q : Queue) => q.pasid == pasid).getD false then
      s.modQueue n fun q => { q with wptr := leNat (w.bytes.take 4), rereadAt := q.rereadAt.map fun _ => s.cycle }
    else s
  | none => s

/-- A write of a context reaches its home; one that covers a whole line clears its poison (R371). -/
def State.homeWrite (s : State) (pasid : Nat) (w : Write) : State :=
  if !w.xs && doorBase ≤ w.addr then s.doorbell pasid w
  else
    let s1 := if w.xs then { s with xs := s.xs.writeBytes w.addr w.bytes } else { s with pmem := s.pmem.writeBytes w.addr w.bytes }
    if w.addr % 128 = 0 && w.bytes.length = 128 then { s1 with poison := s1.poison.filter (· != granOf w.xs w.addr) } else s1

/-- A held write leaves for its home; poisoned bytes poison the line that they reach (R369). -/
def State.releaseOne (s : State) (cl : Nat) (h : Held) : State :=
  let s1 := (s.modClu cl fun k => { k with held := k.held.filter fun x => x.ord != h.ord }).homeWrite h.pasid h.w
  if h.poison then { s1 with poison := s1.poison ++ [granOf h.w.xs h.w.addr] } else s1

/-- An entry leaves: of the writes of one line and one segment that it merges, those that may, in their order (R378). -/
def State.releaseEntry (s : State) (cl : Nat) (h : Held) : State :=
  let key := fun (w : Write) => (w.core, w.seg, granOf w.xs w.addr)
  ((s.clu cl).held.filter fun x => x.pasid == h.pasid && key x.w == key h.w).foldl
    (fun (s : State) x => if s.releasable cl x then s.releaseOne cl x else s) s

/-- Up to n entries leave in one cycle, each picked freely among those that may (R217). -/
def State.releaseSome (s : State) (cl : Nat) : Nat → State
  | 0 => s
  | n + 1 =>
    let l := (s.clu cl).held.filter fun h => s.releasable cl h
    match l with
    | [] => s
    | h0 :: _ =>
      let (i, s1) := s.takeFree
      let h := l.getD (Config.freeWord i % l.length) h0
      (s1.releaseEntry cl h).releaseSome cl n

/-- BREAKWATER_RELEASE (R217, R378): 1 KiB a cycle, eight entries of 128 bytes. -/
def execBreakwaterRelease (cluster : Nat) (s : State) : Host.Outcome State Fault Refusal :=
  .next (s.releaseSome cluster 8)

/-! ### Data that arrives late (R189, R266) and interlocked loads (R47, R188) -/

/-- What a core observes at an address once nothing of it is held elsewhere, without its own writes that
follow the place `before` in its order (R187, R212). -/
def State.observeLate (s : State) (c before : Nat) (xs : Bool) (p : Piece) : List Byte :=
  let ws := (s.visible c xs).filter fun w => w.core != c || decide (w.id < before)
  ws.foldl (patch p.addr) (s.homeRead xs p.addr p.len)

/-- The value of a scalar load, extended (R175). -/
def extendTo (signed : Bool) (n v : Nat) : Nat := if signed then (signedOf v (8 * n) % 2 ^ 64).toNat else v

/-- Do two lists of waiting pieces share a byte? -/
def waitsMeet (a b : List (Nat × Nat × Nat)) : Bool :=
  a.any fun x => b.any fun y => decide (x.2.1 < y.2.1 + y.2.2) && decide (y.2.1 < x.2.1 + x.2.2)

/-- The waiting reads of a core that must wait on, by their places: something of them is held elsewhere, or an earlier one
that shares a byte with them waits on (R198, R266). -/
def stuckWaits (free : Nat × Nat × Nat → Bool) (l : List (Nat × List (Nat × Nat × Nat))) : List Nat :=
  (l.foldl (fun (acc : List Nat × List (Nat × Nat × Nat)) x =>
    if x.2.all free && !waitsMeet x.2 acc.2 then acc else (acc.1 ++ [x.1], acc.2 ++ x.2)) ([], [])).1

def piecesOf (l : List (Nat × Nat × Nat)) : List Piece := l.map fun w => { pos := 0, addr := w.2.1, len := w.2.2 }

/-- LEVEL_DATA_ARRIVAL (R189, R266): the data of the core's chip-scratchpad loads and of its `l.ldmc` that
waited for releases arrives, for each whose granules are no longer held elsewhere. What meets poison will fault where it lands
(R371; assumption log 109). -/
def execLevelDataArrival (core : Nat) (s : State) : Host.Outcome State Fault Refusal :=
  let free := fun (w : Nat × Nat × Nat) => !s.pieceHeld core true { pos := 0, addr := w.2.1, len := w.2.2 }
  let read := fun (n : Nat) => s.observeLate core n true
  let waits := (s.core core).xsWaits
  let stuck := stuckWaits free waits
  let ready := waits.filter fun x => !stuck.contains x.1
  let bad := fun (w : List (Nat × Nat × Nat)) => s.poisoned core true (piecesOf w)
  .next ((ready.foldl (fun (s : State) x => s.observeAt core x.1 (s.heldRead core true (piecesOf x.2))) s).modCore core fun k =>
    (k.modSeq fun q => { q with flight := q.flight.map fun r =>
        if !r.wait.isEmpty && !stuck.contains r.mark then { r with val := extendTo r.signed ((r.wait.map fun w => w.2.2).sum) (fillWait (read r.mark) r.val r.wait), wait := [], bad := bad r.wait } else r }).modEng
      fun e => { e with ldmc := e.ldmc.map fun m =>
        if !m.wait.isEmpty && !stuck.contains m.mark then
          { m with data := leBytes m.data.length (fillWait (read m.mark) (leNat m.data) m.wait), wait := [], bad := bad m.wait } else m })

/-- Does an earlier interlocked load of the core stand before a load that is to be read: one of a common byte, or one SO
read before another (R198, R200)? -/
def Core.loadBehind (k : Core) (g : GLoad) : Bool :=
  k.seq.gloads.any fun e => decide (e.id < g.id) && (waitsMeet e.reads g.reads || (e.so && g.so && !e.reads.isEmpty && !g.reads.isEmpty))

/-- GLOBAL_LOAD_LANDING (R47, R188): the load's data has arrived; it lands with the next bundle, which faults if it has met
poison (R371). -/
def execGlobalLoadLanding (core load : Nat) (s : State) : Host.Outcome State Fault Refusal :=
  let k := s.core core
  match k.seq.gloads.find? fun g => g.id == load with
  | none => .next s
  | some g =>
    let held := g.reads.any fun r => s.pieceHeld core false { pos := 0, addr := r.2.1, len := r.2.2 }
    if s.cycle < g.readyAt || k.blocked g || k.loadBehind g || held then .next s
    else
      let v := fillWait (s.observeLate core g.id false) g.val g.reads
      let n := (g.reads.map fun r => r.2.2).sum
      let v1 := if g.signed && !g.reads.isEmpty then extendTo true n v else v
      .next ((s.observeAt core g.id (s.heldRead core false (piecesOf g.reads))).modCore core fun q => q.modSeq fun x =>
        { x with gloads := x.gloads.filter fun y => y.id != load,
                 flight := x.flight ++ [{ due := x.stream, slot := g.slot, dest := g.dest, val := v1, mask := g.mask, issued := g.issued,
                                          kept := true, bad := s.poisoned core false (piecesOf g.reads) }] })

end Sys2Proof.Machine
end

