-- ==== Sys2Proof/Machine/Load.lean ====
section
/-!
DEFINITION. The L slot (R169-R180, R187-R192, R203, R204): one shared operation reads the pieces of an
access at a level and sends the values on their way.
-/
namespace Sys2Proof.Machine

/-! ### The shared load -/

def latency : Level → Nat
  | .sp => 6 | .cp => 12 | .xs => 40 | .gl => 1

/-- A destination of a load: which bytes of the value it takes. -/
structure LoadOut where
  dest : Dest
  pos : Nat
  len : Nat
  mask : Nat
  signed : Bool := false
  deriving DecidableEq, Repr

/-- Cycles in which the scratchpad serves pieces: the most bank rows that they touch in one bank (R192). -/
def bankCycles (ps : List Piece) : Nat :=
  let rows := (ps.map fun p => p.addr / 256).dedup
  rows.foldl (fun m r => Nat.max m (rows.filter fun x => x % 12 == r % 12 && (x < 6144) == (r < 6144)).length) 1

/-- The stream is frozen for c - 1 cycles after a bundle with a gather, a scatter or a transposing access. -/
def State.freezeFor (s : State) (scattered : Bool) (ps : List Piece) : State :=
  if scattered then s.modCur fun k => k.modSeq fun q => { q with frozen := Nat.max q.frozen (s.cycle + bankCycles ps) } else s

def outValue (v : Nat) (o : LoadOut) : Nat := extendTo o.signed o.len (bits v (8 * o.pos) (8 * o.len))

/-- Exposed results of a load; pieces that wait stay with the result that takes them. No other data is late (assumption
log 95). -/
def State.pushLoad (s : State) (lvl : Level) (v : Nat) (waits : List Piece) (outs : List LoadOut) (acquire : Bool := false) : State :=
  outs.foldl (fun (s : State) o =>
    let mine := waits.filter fun p => decide (o.pos ≤ p.pos) && decide (p.pos < o.pos + o.len)
    s.modCur fun k => k.modSeq fun q => { q with flight := q.flight ++
      [{ due := q.stream + latency lvl, slot := .l, dest := o.dest, val := outValue v o, mask := o.mask,
         issued := q.stream, signed := o.signed, mark := s.nextId, acquire := acquire,
         wait := waitOf (mine.map fun p => { p with pos := p.pos - o.pos }) }] }) s

/-- Interlocked loads of an access in flight; data that another cluster holds is read when it lands. -/
def State.pushGlobal (s : State) (v : Nat) (waits : List Piece) (acquire so : Bool) (outs : List LoadOut) : State :=
  outs.foldl (fun (s : State) o =>
    let (id, s1) := s.takeId
    let (i, s2) := s1.takeFree
    let k := s2.cur
    let g : GLoad := { id := id, dest := o.dest, val := outValue v o, mask := o.mask, reads := waitOf waits,
                       signed := o.signed, issued := k.seq.stream, readyAt := s.cycle + 1 + Config.freeDelay i,
                       seg := k.rcv.seg, acquire := acquire, so := so, pasid := s.pasidOf s.turn }
    s2.modCur fun q => q.modSeq fun x => { x with gloads := x.gloads ++ [g] }) s

/-- A load of the core in issue: pieces with effective addresses, and the destinations of the value. -/
def State.load (s : State) (lvl : Level) (acquire scattered : Bool) (ps : List Piece) (outs : List LoadOut) : State :=
  let c := s.turn
  match resolve s c lvl false acquire ps with
  | .fault code => s.execFault .l code
  | .ok qs =>
    match lvl with
    | .sp =>
      let v := gather (fun p => s.cur.sp.readBytes p.addr p.len) qs
      ((s.modCur fun k => k.noteAccess ((qs.map fun p => granRange granSp p.addr p.len).flatten) true).pushLoad lvl v [] outs).freezeFor scattered qs
    | .cp =>
      let v := gather (fun p => s.poolRead c p.addr p.len) qs
      let s1 := s.modCur fun k => k.noteAccess ((qs.map fun p => granRange granPool p.addr p.len).flatten) true
      (qs.foldl (fun s p => s.dependOnPool c p.addr p.len) s1).pushLoad lvl v [] outs
    | _ =>
      let xs := lvl == .xs
      match s.accessHold c xs false qs with
      | some cause => s.holdFor .l cause
      | none =>
        if s.poisoned c xs qs then s.execFault .l 0x0C
        else
          let v := gather (s.observe c xs) qs
          let waits := s.lateOf c xs qs
          let s1 := if s.speculative c then s.track c (s.cur.task.getD 0) (granules xs qs) false else s
          let s2 := s1.dependOnHeld c xs (qs.filter fun p => !waits.contains p)
          if xs then
            let s3 := s2.pushLoad lvl v waits outs acquire
            if waits.isEmpty then s3 else s3.takeId.2
          else
            let s3 := (s2.tlbFill (s.pasidOf c) (ps.map (·.addr))).cacheUn c qs
            let door := qs.any fun p => decide (doorBase ≤ p.addr)
            (if door then s3.takeFree.2 else s3).pushGlobal v waits acquire (qs.any fun p => p.kind == 0) outs

/-! ### Forms of access -/

/-- 128-byte words in order, so that each piece lies in one page and one line. -/
def words128 (ea n : Nat) : List Piece := (List.range n).map fun i => { pos := 128 * i, addr := ea + 128 * i, len := 128 }

def vecOut (f : VSlot) (r pos : Nat) : LoadOut := { dest := .v f r, pos := pos, len := 512, mask := allLanes }

/-- A contiguous whole-register load of n registers (R172). The first register's result comes before the second's, so that of a
pair the second stands in `by0` (assumption log 110). -/
def State.loadVec (s : State) (g : Guard) (f : VSlot) (dst : BitVec 10) (base : BitVec 5) (lvl : Level) (disp : BitVec 24)
    (n : Nat) : State :=
  let ea := effAddr (s.cur.readLA base) disp.toInt 128
  if !s.cur.on g then s
  else if ea % 128 != 0 then s.issueFault .l 0x0F
  else s.load lvl false false (words128 ea (4 * n)) ((List.range n).map fun j => vecOut f (dst.toNat + j) (512 * j))

def execLdv (g : Guard) (f : VSlot) (dst : BitVec 10) (base : BitVec 5) (lvl : Level) (disp : BitVec 24) (s : State) :
    Host.Outcome State Fault Refusal := .next (s.loadVec g f dst base lvl disp 1)
def execLdvp (g : Guard) (f : VSlot) (dst : BitVec 10) (base : BitVec 5) (lvl : Level) (disp : BitVec 24) (s : State) :
    Host.Outcome State Fault Refusal := .next (s.loadVec g f dst base lvl disp 2)
def execLdgv (g : Guard) (f : VSlot) (dst : BitVec 10) (base : BitVec 5) (disp : BitVec 24) (s : State) :
    Host.Outcome State Fault Refusal := .next (s.loadVec g f dst base .gl disp 1)

/-- Elements of a transposing load: element k at ea + k * stride, in the place k * w of the register (R173). -/
def stridePieces (ea : Word64) (st : Word64) (w : Nat) : List Piece :=
  (List.range (512 / w)).map fun k => { pos := w * k, addr := (ea + BitVec.ofNat 64 k * st).toNat, len := w }

def execLdvt (g : Guard) (f : VSlot) (dst : BitVec 10) (base : BitVec 5) (lvl : Level) (stride : BitVec 5) (es : EltSize)
    (disp : BitVec 17) (s : State) : Host.Outcome State Fault Refusal :=
  let ea := effAddr (s.cur.readLA base) disp.toInt es.bytes
  let st := s.cur.readLA stride
  .next (
    if !s.cur.on g then s
    else if ea % es.bytes != 0 || st.toNat % es.bytes != 0 then s.issueFault .l 0x0F
    else s.load lvl false true (stridePieces (BitVec.ofNat 64 ea) st es.bytes) [vecOut f dst.toNat 0])

/-- Lane addresses of a gather or scatter; offsets are sign-extended in global memory (R174, R182). -/
def lanePieces (ea : Word64) (idx : Vec) (signExt : Bool) : List Piece :=
  (List.range 128).map fun l =>
    let o := lane idx l
    { pos := 4 * l, addr := (ea + (if signExt then o.signExtend 64 else o.setWidth 64)).toNat, len := 4 }

def State.loadGather (s : State) (g : Guard) (f : VSlot) (dst : BitVec 10) (base : BitVec 5) (lvl : Level) (idx : VSrc)
    (disp : BitVec 11) : State :=
  let ea := effAddr (s.cur.readLA base) disp.toInt 4
  let ps := lanePieces (BitVec.ofNat 64 ea) (s.cur.readV f idx) (lvl == .gl)
  if !s.cur.on g then s
  else if ps.any fun p => p.addr % 4 != 0 then s.issueFault .l 0x0F
  else s.load lvl false true ps [vecOut f dst.toNat 0]

def execLdvx (g : Guard) (f : VSlot) (dst : BitVec 10) (base : BitVec 5) (lvl : Level) (idx : VSrc) (disp : BitVec 11) (s : State) :
    Host.Outcome State Fault Refusal := .next (s.loadGather g f dst base lvl idx disp)
def execLdvg (g : Guard) (f : VSlot) (dst : BitVec 10) (base : BitVec 5) (idx : VSrc) (disp : BitVec 11) (s : State) :
    Host.Outcome State Fault Refusal := .next (s.loadGather g f dst base .gl idx disp)

def loadSigned : LSize → Bool
  | .sb | .sh | .sw => true
  | _ => false

def State.loadScalar (s : State) (g : Guard) (dst : BitVec 6) (base : BitVec 5) (lvl : Level) (sz : LSize) (disp : BitVec 31)
    (acquire : Bool) : State :=
  let ea := effAddr (s.cur.readLA base) disp.toInt 1
  if !s.cur.on g then s
  else if ea % sz.bytes != 0 then s.issueFault .l 0x0F
  else s.load lvl acquire false [{ pos := 0, addr := ea, len := sz.bytes }]
    [{ dest := .s dst.toNat, pos := 0, len := sz.bytes, mask := ones 64, signed := loadSigned sz }]

def execLds (g : Guard) (dst : BitVec 6) (base : BitVec 5) (lvl : Level) (sz : LSize) (disp : BitVec 31) (s : State) :
    Host.Outcome State Fault Refusal := .next (s.loadScalar g dst base lvl sz disp false)
/-- `l.ldacq`: acquire order, and a fault on a UN page (R203, R204). -/
def execLdacq (g : Guard) (dst : BitVec 6) (base : BitVec 5) (lvl : Level) (sz : LSize) (disp : BitVec 31) (s : State) :
    Host.Outcome State Fault Refusal := .next (s.loadScalar g dst base lvl sz disp true)

/-- Offset of a lane-slice access (R176). -/
def State.sliceFault (s : State) (slot : Slot) (o : Nat) (eff : State) : State :=
  if o % 4 != 0 then s.issueFault slot 0x0F
  else if Config.lsBytes < o + 4 then s.execFault slot 0x0A
  else eff

def sliceRead (m : Memory) (o : Nat) : Vec :=
  ofLanes ((List.range 128).map fun l => BitVec.ofNat 32 (m.readLE (Config.lsBytes * l + o) 4))

def execLdl (g : Guard) (f : VSlot) (dst : BitVec 10) (base : BitVec 5) (disp : BitVec 13) (s : State) :
    Host.Outcome State Fault Refusal :=
  let o := effAddr (s.cur.readLA base) disp.toNat 1
  .next (
    if !s.cur.on g then s
    else s.sliceFault .l o (s.modCur fun k =>
      (k.noteAccess (granRange granLs o 4) true).push .l 3 (.v f dst.toNat) (sliceRead k.ls o).toNat allLanes 0))

/-! ### Prefetch (R168, R177) -/

/-- Lines of UN pages that a prefetch brings in; parts that would fault are dropped, SO pages are not
cached, and a line already present stays. Nothing else of a prefetch is visible. -/
def execPfg (g : Guard) (base : BitVec 5) (disp : BitVec 24) (s : State) : Host.Outcome State Fault Refusal :=
  let c := s.turn
  let ea := effAddr (s.cur.readLA base) disp.toInt 128
  let one := fun (s : State) (p : Piece) => match resolve s c .gl false false [p] with
    | .ok [q] =>
      let s1 := s.tlbFill (s.pasidOf c) [p.addr]
      if q.kind = 2 && (s.unLine c q.addr).isNone then
        let bs := s.lineBytes c (q.addr / 128)
        s1.modCur fun k => k.modEng fun e => { e with unLines := Table.put e.unLines (q.addr / 128) bs }
      else s1
    | _ => s
  .next (
    if !s.cur.on g then s
    else if ea % 128 != 0 then s.issueFault .l 0x0F
    else (words128 ea 4).foldl one s)

/-! ### Multicast load (R178-R180) -/

def execLdmc (g : Guard) (ranks : Byte) (base : BitVec 5) (lvl : Level) (tgt : BitVec 15) (nw : BitVec 9) (s : State) :
    Host.Outcome State Fault Refusal :=
  let c := s.turn
  let src := (s.cur.readLA base).toNat
  let words := nw.toNat + 1
  let team := (s.stage (s.stageOf c)).team
  let ps := words128 src words
  let xs := lvl == .xs
  let due := s.cur.seq.stream + latency lvl + (words + 3) / 4
  let busy := match s.cur.eng.ldmc with
    | some m => decide (s.cur.seq.stream < m.due)
    | none => false
  .next (
    if !s.cur.on g then s
    else if src % 128 != 0 || ranks.toNat / 2 ^ team != 0 || busy then s.issueFault .l 0x0F
    else match resolve s c lvl false false ps with
      | .fault code => s.execFault .l code
      | .ok qs =>
        match (if xs then s.accessHold c true false qs else none) with
        | some cause => s.holdFor .l cause
        | none =>
          if xs && s.poisoned c true qs then s.execFault .l 0x0C
          else
            let data := gather (fun p => match lvl with
              | .sp => s.cur.sp.readBytes p.addr p.len
              | .cp => s.poolRead c p.addr p.len
              | _ => s.observe c true p) qs
            let gs := match lvl with
              | .sp => granRange granSp src (128 * words)
              | .cp => granRange granPool src (128 * words)
              | _ => []
            let s1 := s.modCur fun k => k.noteAccess gs true
            let s2 := match lvl with
              | .cp => s1.dependOnPool c src (128 * words)
              | .xs => (if s1.speculative c then s1.track c (s.cur.task.getD 0) (granules true qs) false else s1).dependOnHeld c true
                  (qs.filter fun p => !(s.lateOf c true qs).contains p)
              | _ => s1
            let m : Ldmc :=
              { due := due, ranks := ranks.toNat, tgt := tgt.toNat * 128, data := leBytes (128 * words) data, mark := s.nextId,
                issued := s.cur.seq.stream, wait := if xs then waitOf (s.lateOf c true qs) else [] }
            let s3 := s2.modCur fun k => k.modEng fun e => { e with ldmc := some m }
            if m.wait.isEmpty then s3 else s3.takeId.2)

/-! ### Engine traffic (R193) -/

/-- Bank of a scratchpad byte: 12 in each group (R120). -/
def bankOf (a : Nat) : Nat := (if a < Config.groupBytes then 0 else 12) + a % Config.groupBytes / 256 % 12

/-- Engine traffic asks for bank rows of a core's scratchpad, one request for each row; when each arrives is left open. -/
def State.askBanks (s : State) (c : Nat) (addrs : List Nat) : State :=
  ((addrs.map fun a => a / 256).dedup).foldl (fun (s : State) row =>
    let (i, s1) := s.takeFree
    let b := bankOf (256 * row)
    { s1 with inputs := s1.inputs ++
        [(s.cycle + 1 + Config.freeDelay i, Instr.engineBankRequest c (if b < 12 then .a else .b) (b % 12))] }) s

/-- The multicast data lands with the issuer's bundle `due`: in the scratchpads of the named ranks, where it is engine
traffic of the others (R180, R193). The issuer's own tracker counts its write (R366); a breach, or poison in late data (R371), stops
the whole write (assumption log 29). -/
def State.landLdmc (s : State) (c : Nat) : State :=
  let k := s.core c
  match k.eng.ldmc with
  | none => s
  | some m =>
    if k.seq.stream < m.due then s
    else
      let gs := granRange granSp m.tgt m.data.length
      let code := if m.bad then some 0x0C else if bitAt m.ranks k.rank && k.breaches gs s.cycle then some 0x06 else none
      let team := match k.task with | some t => s.coresOf t | none => []
      let s1 := s.modCore c fun q => q.modEng fun e => { e with ldmc := none }
      match code with
      | some n => s1.modCore c fun q => q.modSeq fun v =>
        { v with efault := some { code := n, core := c, slot := Slot.l.num, addr := v.pc, atExec := true, safe := v.inBundle && v.bsafe } }
      | none => team.foldl (fun (s : State) d =>
        if bitAt m.ranks (s.core d).rank then
          let s2 := s.modCore d fun q =>
            let q1 := if d = c then q.noteAccess gs false else q
            { q1 with sp := q.sp.writeBytes m.tgt m.data }
          if d = c then s2 else s2.askBanks d ((List.range m.data.length).map fun i => m.tgt + i)
        else s) s1

end Sys2Proof.Machine
end

