-- ==== Sys2Proof/Machine/Store.lean ====
section
/-!
DEFINITION. The T slot (R181-R186, R190, R205): one shared operation writes the pieces of an access at a
level; pool atomics and the releases that wait for them; engine bank requests (R193).
-/
namespace Sys2Proof.Machine

/-! ### The shared store -/

def levelCode : Level → Nat
  | .sp => 0 | .cp => 1 | .xs => 2 | .gl => 3

/-- A release or a `ww` fence opens an epoch: what the core writes behind it leaves behind what it wrote before (R217). -/
def State.newEpoch (s : State) : State := s.modCur fun k => k.modEng fun e => { e with epoch := e.epoch + 1 }

/-- Bytes of a piece of a value. -/
def pieceBytes (v : Nat) (p : Piece) : List Byte := leBytes p.len (v / 2 ^ (8 * p.pos))

/-- A write of the core in issue to its scratchpad or the pool, checked by the tracker first (R366). -/
def State.storeNear (s : State) (lvl : Level) (scattered : Bool) (v : Nat) (ps : List Piece) : State :=
  let c := s.turn
  let gran := if lvl = .sp then granSp else granPool
  let gs := (ps.map fun p => granRange gran p.addr p.len).flatten
  if s.cur.breaches gs s.cycle then s.execFault .t 0x06
  else
    let s1 := s.modCur fun k => k.noteAccess gs false
    if lvl = .sp then
      (ps.foldl (fun s p => s.modCur fun k => { k with sp := k.sp.writeBytes p.addr (pieceBytes v p) }) s1).freezeFor scattered ps
    else ps.foldl (fun s p => s.poolWrite c p.addr (pieceBytes v p)) s1

/-- A store of the core in issue. Later pieces prevail over earlier ones (R182); a fault writes nothing. A release sends the
core's UN writes out of its first-level cache before it (assumption log 97). -/
def State.store (s : State) (lvl : Level) (rel scattered : Bool) (v : Nat) (ps : List Piece) : State :=
  let c := s.turn
  match resolve s c lvl true rel ps with
  | .fault code => s.execFault .t code
  | .ok qs =>
    let done := fun (t : State) =>
      if scattered then ps.foldl (fun t p => t.sigEffect .t (levelCode lvl) p.addr (pieceBytes v p)) t
      else t.sigEffect .t (levelCode lvl) ((ps.headD { pos := 0, addr := 0, len := 0 }).addr) ((ps.map (pieceBytes v)).flatten)
    match lvl with
    | .sp | .cp => done ((if rel then s.newEpoch else s).storeNear lvl scattered v qs)
    | _ =>
      let xs := lvl == .xs
      match s.accessHold c xs true qs with
      | some cause => s.holdFor .t cause
      | none =>
        if rel && s.unStuck c then s.holdFor .t .breakwater else
        let s1 := if xs then s else s.tlbFill (s.pasidOf c) (ps.map (·.addr))
        let s2 := if rel then s1.flushUn c else s1
        done (s2.storeOut xs rel v qs)

/-! ### Whole registers, lanes and scalars (R181-R184) -/

def State.storeVec (s : State) (g : Guard) (base : BitVec 5) (lvl : Level) (disp : Int) (n v : Nat) : State :=
  let ea := effAddr (s.cur.readTA base) disp 128
  if !s.cur.on g then s
  else if ea % 128 != 0 then s.issueFault .t 0x0F
  else s.store lvl false false v (words128 ea (4 * n))

def execStv (g : Guard) (f : VSlot) (src : VSrc) (base : BitVec 5) (lvl : Level) (disp : BitVec 17) (s : State) :
    Host.Outcome State Fault Refusal := .next (s.storeVec g base lvl disp.toInt 1 (s.cur.readV f src).toNat)
def execStvp (g : Guard) (f : VSlot) (src : BitVec 10) (base : BitVec 5) (lvl : Level) (disp : BitVec 17) (s : State) :
    Host.Outcome State Fault Refusal :=
  .next (s.storeVec g base lvl disp.toInt 2
    ((s.cur.readVReg f src.toNat).toNat + 2 ^ 4096 * (s.cur.readVReg f (src.toNat + 1)).toNat))
def execStvg (g : Guard) (f : VSlot) (src : VSrc) (base : BitVec 5) (disp : BitVec 16) (s : State) :
    Host.Outcome State Fault Refusal := .next (s.storeVec g base .gl disp.toInt 1 (s.cur.readV f src).toNat)

def State.storeScatter (s : State) (g : Guard) (f : VSlot) (src : VSrc) (base : BitVec 5) (lvl : Level) (idx : BitVec 10) : State :=
  let ps := lanePieces (s.cur.readTA base) (s.cur.readVReg f idx.toNat) (lvl == .gl)
  if !s.cur.on g then s
  else if ps.any fun p => p.addr % 4 != 0 then s.issueFault .t 0x0F
  else s.store lvl false true (s.cur.readV f src).toNat ps

def execStvx (g : Guard) (f : VSlot) (src : VSrc) (base : BitVec 5) (lvl : Level) (idx : BitVec 10) (s : State) :
    Host.Outcome State Fault Refusal := .next (s.storeScatter g f src base lvl idx)
def execStvgScatter (g : Guard) (f : VSlot) (src : VSrc) (base : BitVec 5) (idx : BitVec 10) (s : State) :
    Host.Outcome State Fault Refusal := .next (s.storeScatter g f src base .gl idx)

def execSts (g : Guard) (src : SSrc) (base : BitVec 5) (lvl : Level) (sz : TSize) (disp : BitVec 14) (s : State) :
    Host.Outcome State Fault Refusal :=
  let ea := effAddr (s.cur.readTA base) disp.toInt 1
  .next (
    if !s.cur.on g then s
    else if ea % sz.bytes != 0 then s.issueFault .t 0x0F
    else s.store lvl false false (s.cur.readS src).toNat [{ pos := 0, addr := ea, len := sz.bytes }])

def execStsv (g : Guard) (f : VSlot) (src : VSrc) (base : BitVec 5) (lvl : Level) (ln : BitVec 7) (sz : EltSize)
    (disp : BitVec 8) (s : State) : Host.Outcome State Fault Refusal :=
  let ea := effAddr (s.cur.readTA base) disp.toInt 1
  .next (
    if !s.cur.on g then s
    else if ea % sz.bytes != 0 then s.issueFault .t 0x0F
    else s.store lvl false false (lane (s.cur.readV f src) ln.toNat).toNat [{ pos := 0, addr := ea, len := sz.bytes }])

/-- Lane l's four bytes at the offset of slice l. -/
def sliceWrite (m : Memory) (o : Nat) (v : Vec) : Memory :=
  (List.range 128).foldl (fun m l => m.writeBytes (Config.lsBytes * l + o) (leBytes 4 (lane v l).toNat)) m

def execStl (g : Guard) (f : VSlot) (src : VSrc) (base : BitVec 5) (disp : BitVec 13) (s : State) :
    Host.Outcome State Fault Refusal :=
  let o := effAddr (s.cur.readTA base) disp.toNat 1
  let v := s.cur.readV f src
  let gs := granRange granLs o 4
  .next (
    if !s.cur.on g then s
    else s.sliceFault .t o (
      if s.cur.breaches gs s.cycle then s.execFault .t 0x06
      else (s.modCur fun k => { k.noteAccess gs false with ls := sliceWrite k.ls o v }).sigEffect .t 4 o (leBytes 512 v.toNat)))

/-! ### Futures (R185) -/

/-- `t.ffill`: the whole cell in one write, and the wake of the matching wait-table entries. -/
def execFfill (g : Guard) (src : SSrc) (base : BitVec 5) (disp : BitVec 13) (s : State) : Host.Outcome State Fault Refusal :=
  let ea := effAddr (s.cur.readTA base) disp.toInt 16
  let cl := clusterOf s.turn
  let s0 := s.sendStamp s.turn
  let v := (s.cur.readS src).toNat + 2 ^ 64
  .next (
    if !s.cur.on g then s
    else if ea % 16 != 0 then s.issueFault .t 0x0F
    else if s.poolBound s.turn < ea + 16 then s.execFault .t 0x0A
    else if s.cur.breaches (granRange granPool ea 16) s.cycle then s.execFault .t 0x06
    else ((s0.store .cp false false v [{ pos := 0, addr := ea, len := 16 }]).modClu cl fun k =>
        { k with syncClock := Nat.max k.syncClock (s0.stampOf s.turn) }).wakeCell cl ea)

/-! ### Pool atomics and releases (R186, R203, R205) -/

/-- An operation joins the core's pending pool operations. -/
def State.queueAtomic (s : State) (kind : AtomicKind) (n addr : Nat) (v cmp : Word64) (ret atCommit : Bool) : State :=
  let (id, s) := s.takeId
  s.modCur fun k => k.modEng fun e => { e with atomics := e.atomics ++
    [{ core := s.turn, tid := k.task.getD 0, seg := k.rcv.seg, kind := kind, bytes := n, addr := addr, v := v, cmp := cmp,
       ret := ret, bundle := k.seq.pc, atCommit := atCommit, stamp := k.regs.lclock.toNat, id := id,
       run := ((s.taskOf s.turn).map (·.run)).getD 0 }] }

/-- An atomic reads its operands at issue; the bound is checked then too, at execution. -/
def State.atomicOp (s : State) (g : Guard) (kind : AtomicKind) (src : SSrc) (base : BitVec 5) (wide ret : Bool) (cmp : Word64) : State :=
  let n := if wide then 8 else 4
  let a := (s.cur.readTA base).toNat
  let v := s.cur.readS src
  if !s.cur.on g then s
  else if a % n != 0 then s.issueFault .t 0x0F
  else if s.poolBound s.turn < a + n then s.execFault .t 0x0A
  else (s.queueAtomic kind n a v cmp ret false).sigEffect .t 1 a (leBytes n v.toNat)

def execAadd (g : Guard) (src : SSrc) (base : BitVec 5) (wide ret : Bool) (s : State) : Host.Outcome State Fault Refusal :=
  .next (s.atomicOp g .add src base wide ret 0)
def execAmin (g : Guard) (src : SSrc) (base : BitVec 5) (wide ret uns : Bool) (s : State) : Host.Outcome State Fault Refusal :=
  .next (s.atomicOp g (if uns then .minU else .minS) src base wide ret 0)
def execAmax (g : Guard) (src : SSrc) (base : BitVec 5) (wide ret uns : Bool) (s : State) : Host.Outcome State Fault Refusal :=
  .next (s.atomicOp g (if uns then .maxU else .maxS) src base wide ret 0)
def execAxchg (g : Guard) (src : SSrc) (base : BitVec 5) (wide ret : Bool) (s : State) : Host.Outcome State Fault Refusal :=
  .next (s.atomicOp g .xchg src base wide ret 0)
def execAcas (g : Guard) (src : SSrc) (cmp : BitVec 6) (base : BitVec 5) (wide ret : Bool) (s : State) :
    Host.Outcome State Fault Refusal := .next (s.atomicOp g .cas src base wide ret (s.cur.readSReg cmp.toNat))

/-- The new value of a location under an atomic (R186). -/
def atomicNew (kind : AtomicKind) (n old v cmp : Nat) : Nat :=
  let w := 8 * n
  let v := v % 2 ^ w
  match kind with
  | .add => (old + v) % 2 ^ w
  | .minS => if signedOf v w < signedOf old w then v else old
  | .maxS => if signedOf old w < signedOf v w then v else old
  | .minU => Nat.min old v
  | .maxU => Nat.max old v
  | .xchg | .store => v
  | .cas => if old = cmp % 2 ^ w then v else old

/-- Bytes of a release that it still writes: the others keep what the pool holds. -/
def releaseValue (n old v mask : Nat) : Nat :=
  (List.range n).foldl (fun acc i => acc + bits (if bitAt mask i then v else old) (8 * i) 8 * 2 ^ (8 * i)) 0

/-- Is a release of a speculative task still to be committed (R205)? -/
def State.uncommitted (s : State) (a : Atomic) : Bool := a.atCommit && !s.clearFor a.clearAt a.tid

/-- The pending pool operation of a core that is performed next: the oldest; an atomic passes releases that wait for their
commit, unless they write its bytes (R186, R205). -/
def State.nextAtomic (s : State) : List Atomic → List Atomic → Option Atomic
  | _, [] => none
  | passed, a :: rest =>
    if s.uncommitted a then s.nextAtomic (passed ++ [a]) rest
    else if passed.isEmpty || (a.kind != .store && !(passed.any fun x => decide (x.addr < a.addr + a.bytes) && decide (a.addr < x.addr + x.bytes)))
      then some a
    else none

/-- ATOMIC_PERFORM: the next pending pool operation of a core is performed at the bank, once its bundle is
strike-clear; a release by a speculative task also waits for its commit (R186, R205). The core depends on who wrote the
old value that a record will carry (R218); the record of a task that has left the core, or of an earlier run of it, is
discarded (R228). -/
def execAtomicPerform (core : Nat) (s : State) : Host.Outcome State Fault Refusal :=
  let k := s.core core
  match s.nextAtomic [] k.eng.atomics with
  | none => .next s
  | some a =>
    let clear := match a.clearAt with | some t => decide (t ≤ s.cycle) | none => false
    if !clear then .next s
    else
      let cl := clusterOf core
      let old := (s.clu cl).pool.readLE a.addr a.bytes
      let new := if a.kind == .store then releaseValue a.bytes old a.v.toNat a.cmp.toNat
                 else atomicNew a.kind a.bytes old a.v.toNat a.cmp.toNat
      let s1 := s.modClu cl fun x => { x with pool := x.pool.writeBytes a.addr (leBytes a.bytes new) }
      let s2 := s1.modCore core fun q => q.modEng fun e => { e with atomics := e.atomics.filter fun x => x.id != a.id }
      if a.ret && k.task == some a.tid && ((s.task? a.tid).map fun (t : Task) => t.run == a.run && t.leaving.isNone).getD false then
        let (id, s3) := (s2.dependOnPool core a.addr a.bytes).takeId
        let o : EngOp := { id := id, cmd := .atomic, core := core, tid := a.tid, addr := a.bundle, seg := a.seg,
                           stamp := a.stamp, word1 := BitVec.ofNat 64 old }
        .next (s3.modCore core fun q => q.modEng fun e => { e with regQ := e.regQ ++ [o] }.post o)
      else .next s2

/-- `t.strel`: in the pool, a release waits for the core's pending pool atomics, and a speculative task's for
its commit; elsewhere it is a store that the breakwater releases last (R205). -/
def execStrel (g : Guard) (src : SSrc) (base : BitVec 5) (lvl : Level) (sz : TSize) (disp : BitVec 14) (s : State) :
    Host.Outcome State Fault Refusal :=
  let ea := effAddr (s.cur.readTA base) disp.toInt 1
  let n := sz.bytes
  let v := s.cur.readS src
  let gs := granRange granPool ea n
  .next (
    if !s.cur.on g then s
    else if ea % n != 0 then s.issueFault .t 0x0F
    else if lvl != .cp || (s.cur.eng.atomics.isEmpty && !s.speculative s.turn) then
      s.store lvl true false v.toNat [{ pos := 0, addr := ea, len := n }]
    else if s.poolBound s.turn < ea + n then s.execFault .t 0x0A
    else if s.cur.breaches gs s.cycle then s.execFault .t 0x06
    else ((s.newEpoch.modCur fun k => k.noteAccess gs false).queueAtomic .store n ea v (BitVec.ofNat 64 (ones n)) false
      (s.speculative s.turn)).sigEffect .t 1 ea (leBytes n v.toNat))

/-! ### Engine bank requests (R192, R193) -/

/-- The scratchpad pieces that a slot operation takes through the core's ports. -/
def portPieces (k : Core) (i : Instr) : List Piece :=
  match i with
  | .ldv g _ _ b .sp d => if k.on g then words128 (effAddr (k.readLA b) d.toInt 128) 4 else []
  | .ldvp g _ _ b .sp d => if k.on g then words128 (effAddr (k.readLA b) d.toInt 128) 8 else []
  | .ldvt g _ _ b .sp st es d =>
    if k.on g then stridePieces (BitVec.ofNat 64 (effAddr (k.readLA b) d.toInt es.bytes)) (k.readLA st) es.bytes else []
  | .ldvx g f _ b .sp x d => if k.on g then lanePieces (BitVec.ofNat 64 (effAddr (k.readLA b) d.toInt 4)) (k.readV f x) false else []
  | .lds g _ b .sp sz d => if k.on g then [{ pos := 0, addr := effAddr (k.readLA b) d.toInt 1, len := sz.bytes }] else []
  | .ldmc g _ b .sp _ nw => if k.on g then words128 (k.readLA b).toNat (nw.toNat + 1) else []
  | .stv g _ _ b .sp d => if k.on g then words128 (effAddr (k.readTA b) d.toInt 128) 4 else []
  | .stvp g _ _ b .sp d => if k.on g then words128 (effAddr (k.readTA b) d.toInt 128) 8 else []
  | .stvx g f _ b .sp x => if k.on g then lanePieces (k.readTA b) (k.readVReg f x.toNat) false else []
  | .sts g _ b .sp sz d => if k.on g then [{ pos := 0, addr := effAddr (k.readTA b) d.toInt 1, len := sz.bytes }] else []
  | .stsv g _ _ b .sp _ sz d => if k.on g then [{ pos := 0, addr := effAddr (k.readTA b) d.toInt 1, len := sz.bytes }] else []
  | .mpush g f a b _ | .mpusht g f a b _ | .mburst g f a b _ _ =>
    if k.on g then [{ pos := 0, addr := 96 * a.toNat, len := (partBytes f).1 },
                    { pos := 0, addr := Config.groupBytes + 96 * b.toNat, len := (partBytes f).2 }] else []
  | .mmask g _ (.sp grp x) => if k.on g then [{ pos := 0, addr := groupBase grp + 16 * x.toNat, len := 12 }] else []
  | .kld g _ grp x => if k.on g then [{ pos := 0, addr := groupBase grp + 128 * x.toNat, len := 128 }] else []
  | .kldp g _ grp x => if k.on g then [{ pos := 0, addr := groupBase grp + 32 * x.toNat, len := 96 }] else []
  | _ => []

/-- Does a bundle that issues hold a bank: with the drains that land in it, `before` its landings, or with its slots, which
read their registers behind them? -/
def holdsBank (before k : Core) (slots : List (Slot × Option Instr)) (bank : Nat) : Bool :=
  let touches := fun (a n : Nat) => decide (n ≠ 0) && (bankOf a == bank || bankOf (a + n - 1) == bank)
  (before.seq.flight.any fun r => match r.dest with | .sp a => decide (r.due ≤ before.seq.stream) && touches a 384 | _ => false) ||
  slots.any fun x => match x.2 with
    | some i => (portPieces k i).any fun p => touches p.addr p.len
    | none => false

/-- The slack in force at a code address: that of the last table entry at or before it (R63, R70). -/
def Program.slackAt (p : Program) (a : CodeAddr) : Nat :=
  (p.slack.foldl (fun best e => if e.1 ≤ a.toNat then e.2 else best) 0)

/-- ENGINE_BANK_REQUEST: a request for a bank of a core's scratchpad arrives and waits behind the earlier ones; the ports
of the core come first in every cycle (R193). -/
def execEngineBankRequest (core : Nat) (grp : Group) (bank : Nat) (s : State) : Host.Outcome State Fault Refusal :=
  .next (s.modCore core fun q => q.modEng fun e =>
    { e with requests := e.requests ++ [{ bank := (if grp = .a then 0 else 12) + bank % 12 }] })

/-- What a bundle that would issue does to the waiting requests, when it holds some banks: requests for other banks are
served, the oldest refused one counts, and one refusal past the slack freezes the core instead (R193). True: it freezes. -/
def State.refuseBanks (s : State) (c : Nat) (holds : Nat → Bool) : Bool × State :=
  let e := (s.core c).eng
  let refused := (e.requests.filter fun r => holds r.bank).map fun r => { r with last := some s.cycle }
  match refused with
  | [] => (false, s)
  | r :: rest =>
    if r.refusals < (s.progOf c).slackAt (s.core c).seq.pc then
      (false, s.modCore c fun q => q.modEng fun e => { e with requests := { r with refusals := r.refusals + 1 } :: rest })
    else (true, s)

/-- The cycle that a core loses to an engine request: no bundle issues, the requests are served and `fstat.frz` is set. -/
def State.slackFreeze (s : State) : State :=
  s.modCur fun q => ((q.modEng fun e => { e with requests := [] }).modRegs fun r => { r with fstat := setFrz r.fstat }).modSeq
    fun v => { v with hold := some ⟨.slack, 15⟩ }

/-- At the end of a cycle the requests that it did not refuse have been served. -/
def State.serveBanks (s : State) (c : Nat) : State :=
  s.modCore c fun q => q.modEng fun e => { e with requests := e.requests.filter fun r => r.last == some s.cycle }

end Sys2Proof.Machine
end

