-- ==== Sys2Proof/Machine/Tensor.lean ====
section
/-!
DEFINITION. Shape records (R224-R226), the elements of a tensor and where they lie (R85, R89, R225), their
conversion (R79, R80, R86, R235), and the reads and writes of an engine (R167, R212, R213, R253, R366).
-/
namespace Sys2Proof.Machine

/-! ### Shape records -/

/-- The record at an offset of the scratchpad; none where R224 or R226 refuses it. -/
def parseShape (m : Memory) (chipNo : Nat) (ptr : Word64) : Option Shape :=
  let p := ptr.toNat
  let b := fun (o n : Nat) => m.readLE (p + o) n
  let ndim := b 10 1
  let sizes := (List.range 5).map fun d => b (16 + 4 * d) 4
  let strides := 0 :: (List.range 4).map fun d => signedOf (b (36 + 4 * d) 4) 32
  let dims := List.range 5
  if p % 64 != 0 || Config.spBytes < p + 64 then none
  else if b 0 8 / 2 ^ 57 != 0 || 4 < b 8 1 || 8 < b 9 1 || ndim = 0 || 5 < ndim || 1 < b 11 1 || b 14 2 != 0 || b 52 4 != 0 ||
      (b 8 1 != 4 && b 12 2 != 0) || 16383 < b 12 2 || (b 8 1 == 4 && b 12 2 == chipNo) || (b 9 1 != 6 && b 56 8 != 0) ||
      (sizes.any fun z => z = 0 || 2 ^ 24 < z) || dims.any fun d => ndim ≤ d && (sizes.getD d 1 != 1 || strides.getD d 0 != 0) then none
  else some { base := b 0 8, lvl := b 8 1, fmt := b 9 1, ndim := ndim, tr := b 11 1 == 1, chip := b 12 2, sizes := sizes,
              strides := strides, scale := b 56 8 }

/-- The record that an `xa` register names, as the core's command reads it. -/
def State.shapeAt (s : State) (x : BitVec 5) : Option Shape := parseShape s.cur.sp s.chipNo (s.cur.readXA x)

/-- The pages of virtual addresses of global memory enter the translation caches as they stand now, where none is held
(R214, R338), with those that the tables do not hold. -/
def State.prefill (s : State) (pasid : Nat) (vas : List Nat) : State :=
  let new := ((vas.map (· / 4096)).dedup).filter fun p => (Table.get? (s.ctx pasid).tlb p).isNone
  if new.isEmpty then s
  else
    let put := fun (t : Table (Word64 × Nat)) p => match leafFor s pasid (4096 * p) with
      | some (e, l) => Table.put t p (BitVec.ofNat 64 e, l)
      | none => Table.put t p (0, 0)
    s.modCtx pasid fun x => { x with tlb := new.foldl put x.tlb }

def swap01 {α : Type} : List α → List α
  | a :: b :: r => b :: a :: r
  | l => l

/-- Logical sizes, after `tr`. -/
def Shape.logical (z : Shape) : List Nat := if z.tr then swap01 z.sizes else z.sizes
def Shape.count (z : Shape) : Nat := z.sizes.foldl (· * ·) 1

/-- Bits of an element by format code. -/
def fmtBits : Nat → Nat
  | 0 => 32 | 1 => 16 | 2 => 16 | 3 => 8 | 4 => 8 | 5 => 8 | 6 => 6 | 7 => 32 | _ => 16

/-- Digits of k in the mixed radix of some sizes, dimension 0 fastest. -/
def digits : List Nat → Nat → List Nat
  | [], _ => []
  | z :: zs, k => k % z :: digits zs (k / z)

def undigits : List Nat → List Nat → Nat
  | z :: zs, d :: ds => d + z * undigits zs ds
  | _, _ => 0

/-- The stored index of logical element k. -/
def Shape.stored (z : Shape) (k : Nat) : List Nat :=
  let ix := digits z.logical k
  if z.tr then swap01 ix else ix

/-- The logical number of a stored index. -/
def Shape.logicalNo (z : Shape) (ix : List Nat) : Nat := undigits z.logical (if z.tr then swap01 ix else ix)

/-- Byte address of the row of a stored index. -/
def Shape.rowAddr (z : Shape) (ix : List Nat) : Int :=
  (z.base : Int) + ((List.range 5).map fun d => if d = 0 then 0 else (ix.getD d 0 : Int) * z.strides.getD d 0).sum

/-- Number of a stored index's row. -/
def Shape.rowNo (z : Shape) (ix : List Nat) : Nat := undigits z.sizes.tail ix.tail

/-- Where the scale code of row r and stored element i0 stands (R89, R225). -/
def Shape.scaleAddr (z : Shape) (r i0 : Nat) : Nat :=
  let w := i0 % 96 / 24
  z.scale + 512 * (r / 96 * (z.sizes.getD 0 1 / 96) + i0 / 96) + 128 * w + ((r % 96) ^^^ (8 * w))

/-- Does an extent fail to fill whole tiles, or the scale pointer break its alignment (R90)? -/
def Shape.badTiles (z : Shape) : Bool :=
  z.sizes.getD 0 1 % 96 != 0 || (z.sizes.tail.foldl (· * ·) 1) % 96 != 0 || z.scale % 512 != 0
def Shape.badScale (z : Shape) : Bool := z.fmt == 6 && z.badTiles

/-! ### Where an engine's bytes lie -/

/-- A byte of an engine access, once checked; in global memory with the number of its virtual page, where that is of the
SO kind (R202). -/
inductive Loc
  | sp (a : Nat) | cp (a : Nat) | xs (a : Nat) | gl (pa : Nat) (so : Option Nat) | remote (a : Nat)
  deriving DecidableEq, Repr

def EngCmd.isTinv : EngCmd → Bool
  | .tinv _ _ _ => true
  | _ => false

/-- Is an invalidation of a context, by a core or by the host, still on its way, with a place that a predicate selects
(R214)? -/
def State.markersOf (s : State) (pasid : Nat) (f : Nat → Bool) : Bool :=
  (s.cores.any fun (e : Nat × Core) => s.pasidOf e.1 == pasid && e.2.eng.copyQ.any fun o => o.cmd.isTinv && !o.complete && f o.id) ||
  (s.ctx pasid).markers.any fun m => f m.id

/-- Does an engine command translate with the entries that the translation caches hold? Ahead of a marker it does, behind
one it uses the new mapping, and otherwise either (R214, R338). -/
def State.engineOld (s : State) (c before : Nat) : Bool :=
  let p := s.pasidOf c
  if s.markersOf p fun i => decide (i < before) then false
  else if s.markersOf p fun i => decide (before < i) then true
  else Config.freeChoice s.free

/-- The status that the tables of another chip give to a page of an operand at lvl 4: its translation, its protection and
its home are checked there, and the outcome is open here (R338). -/
def State.remoteStatus (s : State) (wr : Bool) (page : Nat) : Nat :=
  match Config.freeWord (s.free + 2 ^ 60 + page) % 4 with
  | 1 => 0x09
  | 2 => 0x0A
  | 3 => if wr then 0 else 0x0C
  | _ => 0

/-- The byte at an offset or virtual address of a level, or the status of its fault (R167, R226). -/
def State.locate (s : State) (c before lvl : Nat) (wr : Bool) (a : Int) : Loc ⊕ Nat :=
  let n := (a % 2 ^ 64).toNat
  match lvl with
  | 0 => if Config.spBytes ≤ n then .inr 0x0A else .inl (.sp n)
  | 1 => if s.poolBound c ≤ n then .inr 0x0A else .inl (.cp n)
  | 2 => if (s.progOf c).xs ≤ n then .inr 0x0A else
    let a := (s.ctx (s.pasidOf c)).xsbase + n
    if !wr && s.poisoned c true [{ pos := 0, addr := a, len := 1 }] then .inr 0x0C else .inl (.xs a)
  | 3 => match resolveGlobal s c wr false { pos := 0, addr := n, len := 1 } (s.engineOld c before) with
    | .ok [p] => if !wr && s.poisoned c false [p] then .inr 0x0C else .inl (.gl p.addr (if p.kind = 0 then some (n / 4096) else none))
    | .fault f => .inr f
    | _ => .inr 0x09
  | _ =>
    if 2 ^ 57 ≤ n then .inr 0x09
    else match s.remoteStatus wr (n / 4096) with
      | 0 => .inl (.remote n)
      | f => .inr f

/-- The byte as an operation reads it: writes of the core from its own bundle on stand after it (R212). A byte
of another chip's memory is a free value. -/
def State.locRead (s : State) (c before : Nat) : Loc → Byte
  | .sp a => (s.core c).sp.read a
  | .cp a => (s.poolRead c a 1).getD 0 0
  | .xs a => (s.observeLate c before true { pos := 0, addr := a, len := 1 }).getD 0 0
  | .gl a _ => if doorBase ≤ a then BitVec.ofNat 8 (Config.freeWord (s.free + a)) else
      (s.observeLate c before false { pos := 0, addr := a, len := 1 }).getD 0 0
  | .remote a => BitVec.ofNat 8 (Config.freeWord (s.free + a))

/-- Is the byte held by another cluster's breakwater (R266)? -/
def State.locHeld (s : State) (c : Nat) : Loc → Bool
  | .xs a => s.heldElsewhere c (granOf true a)
  | .gl a _ => s.heldElsewhere c (granOf false a)
  | _ => false

/-! ### Reading a tensor -/

def tensorBytes (z : Shape) : Nat := z.count * fmtBits z.fmt / 8

/-- The cycles that some bytes need at least on the paths of an operation that reads one level and writes another: 1 KiB a
cycle leaves a cluster, the package's HBM4E moves 22.4 TB/s, and a link carries at most the 3.6 Tbit/s of a reef port (R406;
assumption log 34). -/
def pathCycles (lvlIn lvlOut n : Nat) : Nat :=
  Nat.max (Nat.max (if 2 ≤ lvlOut then (n + 1023) / 1024 else 0) (if lvlIn = 3 ∨ lvlOut = 3 then n * 27 / 224000 else 0))
    (if lvlIn = 4 ∨ lvlOut = 4 then n * 3 / 500 else 0)

/-- Byte addresses of an element: those its bits touch. -/
def Shape.elemBytes (z : Shape) (ix : List Nat) : List Int :=
  let bit0 := fmtBits z.fmt * ix.getD 0 0
  let n := (bit0 % 8 + fmtBits z.fmt + 7) / 8
  (List.range n).map fun j => z.rowAddr ix + ((bit0 / 8 + j : Nat) : Int)

/-- Bytes that reading element k needs: its own, and its scale code where `scales` asks for it. -/
def Shape.needs (z : Shape) (scales : Bool) (k : Nat) : List Int :=
  let ix := z.stored k
  z.elemBytes ix ++ (if scales && z.fmt == 6 then [(z.scaleAddr (z.rowNo ix) (ix.getD 0 0) : Int)] else [])

/-- The status with which checking some bytes of a level ends: 0, or that of the first that fails. -/
def State.checkBytes (s : State) (c before lvl : Nat) (wr : Bool) (as : List Int) : Nat :=
  as.foldl (fun st a => if st != 0 then st else match s.locate c before lvl wr a with
    | .inl _ => 0
    | .inr f => f) 0

def State.byteAt (s : State) (c before lvl : Nat) (a : Int) : Byte :=
  match s.locate c before lvl false a with
  | .inl l => s.locRead c before l
  | .inr _ => 0

/-- The code of element k, and its scale code. -/
def State.elemAt (s : State) (c before : Nat) (z : Shape) (scales : Bool) (k : Nat) : Nat × Nat :=
  let ix := z.stored k
  let v := leNat ((z.elemBytes ix).map fun a => s.byteAt c before z.lvl a)
  let sc := if scales && z.fmt == 6 then (s.byteAt c before z.lvl (z.scaleAddr (z.rowNo ix) (ix.getD 0 0) : Int)).toNat else 0
  (bits v (fmtBits z.fmt * ix.getD 0 0 % 8) (fmtBits z.fmt), sc)

/-- The elements that a read delivers before its first failing one, and the status (R226). -/
def State.readTensor (s : State) (c before : Nat) (z : Shape) (scales : Bool) : List (Nat × Nat) × Nat :=
  (List.range z.count).foldl (fun (acc : List (Nat × Nat) × Nat) k =>
    if acc.2 != 0 then acc
    else
      let st := s.checkBytes c before z.lvl false (z.needs scales k)
      if st != 0 then (acc.1, st) else (acc.1 ++ [s.elemAt c before z scales k], 0)) ([], 0)

/-- Where the bytes lie that a read of the tensor needs. -/
def State.tensorLocs (s : State) (c before : Nat) (z : Shape) (scales : Bool) : List Loc :=
  ((List.range z.count).map fun k => (z.needs scales k).filterMap fun a => match s.locate c before z.lvl false a with
    | .inl l => some l
    | .inr _ => none).flatten

/-- Does a read of the tensor wait for another cluster's breakwater (R266)? -/
def State.tensorHeld (s : State) (c before : Nat) (z : Shape) (scales : Bool) : Bool :=
  (s.tensorLocs c before z scales).any (s.locHeld c)

/-- Writes of other cores of the cluster that are held under some bytes. -/
def State.heldAt (s : State) (c : Nat) (ls : List Loc) : List Held :=
  ls.foldl (fun (acc : List Held) l =>
    let hs := match l with
      | .xs a => s.heldRead c true [{ pos := 0, addr := a, len := 1 }]
      | .gl a _ => s.heldRead c false [{ pos := 0, addr := a, len := 1 }]
      | _ => []
    acc ++ hs.filter fun h => !acc.contains h) []

/-- Does a read that an operation makes behind its own segment wait: it would take bytes that another core of the cluster
has written and that a strike may still discard (R218, R219)? -/
def State.tensorUnclear (s : State) (c : Nat) (o : EngOp) (z : Shape) (scales : Bool) : Bool :=
  o.clearAt.isSome && (s.heldAt c (s.tensorLocs c o.id z scales)).any fun h => match h.w.clearAt with
    | some t => decide (s.cycle < t)
    | none => true

/-- The core of an operation depends on whose bytes it has read (R205, R218). -/
def State.tensorDepends (s : State) (c before : Nat) (z : Shape) (scales : Bool) : State :=
  let ls := s.tensorLocs c before z scales
  (ls.filterMap fun l => match l with | .cp a => some a | _ => none).foldl (fun (s : State) a => s.dependOnPool c a 1)
    (s.observeHeld c (s.heldAt c ls))

/-- The scratchpad rows of a tensor that an engine reads (R193). -/
def State.askTensor (s : State) (c : Nat) (z : Shape) (scales : Bool) : State :=
  if z.lvl = 0 then s.askBanks c ((s.tensorLocs c 0 z scales).filterMap fun l => match l with | .sp a => some a | _ => none) else s

/-! ### Conversion (R79, R80, R86, R87, R235) -/

def fmtOf : Nat → Option Fmt
  | 0 => some FP32 | 1 => some BF16 | 2 => some FP16 | 3 => some E4M3 | 4 => some E5M2 | _ => none

/-- The exact value of an element. -/
def elemValue (fmt code scale : Nat) : FVal :=
  match fmtOf fmt with
  | some f => decodeF f false code
  | none =>
    if fmt = 6 then widen .log6 code scale
    else let v := signedOf code (fmtBits fmt); .fin (decide (v < 0)) v.natAbs 0

/-- Convert(v, fmt), for every format but LOG6: the code and the flags. -/
def convertElem (fmt : Nat) (x : FVal) : Nat × Nat :=
  match fmtOf fmt with
  | some f => match x with
    | .nan _ _ sig => (f.defaultNaN, if sig then fNv else 0)
    | .inf n => (infIn f fixedMode n, 0)
    | .fin n m e => roundF f fixedMode n m e
  | none => toIntV 0 (fmtBits fmt) x

def sameExact (a b : Exact) : Bool := let q := min a.e b.e; a.scaled q == b.scaled q

/-- R86 on one block: the scale code, the element codes and the flags. -/
def encodeLog6 (xs : List FVal) : Nat × List Nat × Nat :=
  if xs.any fun x => x.isNaN || x.isInf then (0xFF, xs.map fun _ => 0x30, fNv)
  else
    let qs := (xs.filter fun x => !x.isZero).map fun x => quarterLog x.exact.m x.exact.e
    match qs with
    | [] => (0x7F, xs.map fun _ => 0x10, 0)
    | q0 :: _ =>
      let top := qs.foldl max q0
      let sc := Nat.min (top / 4 - 3 + 127).toNat 0xFE
      let one := fun (x : FVal) =>
        if x.isZero then (0x10, 0)
        else
          let l := quarterLog x.exact.m x.exact.e - 4 * ((sc : Int) - 127)
          let r := if l ≤ -16 then (0x10, fUf)
            else if 15 < l then (bit x.neg? * 32 + 15, fOf)
            else (bit x.neg? * 32 + (l % 32).toNat, 0)
          (r.1, r.2 ||| (match logExact r.1 sc with
            | some y => if sameExact y x.exact then 0 else fNx
            | none => 0))
      let rs := xs.map one
      (sc, rs.map (·.1), rs.foldl (fun f r => f ||| r.2) 0)

/-! ### Bytes that a tensor's elements become -/

/-- Codes of logical elements laid out at a destination other than LOG6: address and byte. -/
def Shape.place (z : Shape) (codes : List Nat) : List (Int × Byte) :=
  (codes.zipIdx.map fun x =>
    ((z.elemBytes (z.stored x.2)).zip (leBytes (fmtBits z.fmt / 8) x.1))).flatten

def packSix (cs : List Nat) : List Byte := leBytes (cs.length * 6 / 8) (cs.foldr (fun c acc => c % 64 + 64 * acc) 0)

/-- The blocks of a LOG6 tensor: stored index of the first of 24 elements of each. -/
def Shape.blocks (z : Shape) : List (List Nat) :=
  let rows := z.sizes.tail.foldl (· * ·) 1
  ((List.range rows).map fun r => (List.range (z.sizes.getD 0 1 / 24)).map fun b => (24 * b) :: digits z.sizes.tail r).flatten

/-- A LOG6 destination: element bytes, scale codes and the zero bytes of the tiles, with the flags. -/
def Shape.placeLog6 (z : Shape) (vals : List FVal) : List (Int × Byte) × Nat :=
  let vs := vals.toArray
  let one := fun (ix : List Nat) =>
    let i0 := ix.getD 0 0
    let xs := (List.range 24).map fun j => (vs.getD (z.logicalNo ((i0 + j) :: ix.tail)) (.fin false 0 0))
    let (sc, cs, fl) := encodeLog6 xs
    let body := ((packSix cs).zipIdx.map fun (b : Byte × Nat) => (z.rowAddr ix + ((6 * i0 / 8 + b.2 : Nat) : Int), b.1))
    (body ++ [((z.scaleAddr (z.rowNo ix) i0 : Int), BitVec.ofNat 8 sc)], fl)
  let rs := z.blocks.map one
  let tiles := z.count / 9216
  let pad := ((List.range (4 * tiles)).map fun (w : Nat) => (List.range 32).map fun (j : Nat) => (((z.scale + 128 * w + 96 + j : Nat) : Int), (0 : Byte))).flatten
  ((rs.map (·.1)).flatten ++ pad, rs.foldl (fun f r => f ||| r.2) 0)

/-- The bytes of a copy from its source elements, and its flags (R235). -/
def copyBytes (d src : Shape) (elems : List (Nat × Nat)) : List (Int × Byte) × Nat :=
  if d.fmt = 6 then
    if elems.length < d.count then ([], 0)
    else d.placeLog6 (elems.map fun e => elemValue src.fmt e.1 e.2)
  else if d.fmt = src.fmt then (d.place (elems.map (·.1)), 0)
  else
    let rs := elems.map fun e => convertElem d.fmt (elemValue src.fmt e.1 e.2)
    (d.place (rs.map (·.1)), rs.foldl (fun f r => f ||| r.2) 0)

/-- The byte stream of a tensor in logical order, padded to a multiple of 128 (R243). -/
def streamBytes (fmt : Nat) (codes : List Nat) : List Byte :=
  if fmt = 6 then packSix codes else (codes.map fun c => leBytes (fmtBits fmt / 8) c).flatten
def padTo (n : Nat) (bs : List Byte) : List Byte := bs ++ List.replicate ((n - bs.length % n) % n) 0

/-- Codes of a stream of n elements. -/
def streamCodes (fmt n : Nat) (bs : List Byte) : List Nat :=
  let w := fmtBits fmt
  (List.range n).map fun k => bits (leNat ((bs.drop (w * k / 8)).take ((w * k % 8 + w + 7) / 8))) (w * k % 8) w

/-- The destination bytes of a tensor received as codes: a LOG6 destination's scale tiles are not part of a
stream and stay as they are (R243). -/
def Shape.placeCodes (z : Shape) (codes : List Nat) : List (Int × Byte) :=
  if z.fmt = 6 then
    let cs := codes.toArray
    (z.blocks.map fun ix => ((packSix ((List.range 24).map fun j => cs.getD (z.logicalNo ((ix.getD 0 0 + j) :: ix.tail)) 0)).zipIdx.map
      fun (b : Byte × Nat) => (z.rowAddr ix + ((6 * ix.getD 0 0 / 8 + b.2 : Nat) : Int), b.1))).flatten
  else z.place codes

/-! ### An engine's writes (R190, R213, R222, R235, R366) -/

/-- The checks of a write: the bytes up to the first that fails, in order, and the status; SO bytes beyond the lowest page
that is not whole among them are left out (R202, in steps of 4 KiB). A byte of the issuer's scratchpad or of the pool that
breaches its tracker fails with 0x46. -/
def State.checkOut (s : State) (c before lvl : Nat) (own : Bool) (bs : List (Int × Byte)) : List (Loc × Byte) × Nat :=
  let r := bs.foldl (fun (acc : List (Loc × Byte) × Nat) x =>
    if acc.2 != 0 then acc
    else match s.locate c before lvl true x.1 with
      | .inr f => (acc.1, f)
      | .inl l =>
        let g := match l with
          | .sp a => if own then [granSp a] else []
          | .cp a => [granPool a]
          | _ => []
        if (s.core c).breaches g s.cycle then (acc.1, 0x46) else (acc.1 ++ [(l, x.2)], 0)) ([], 0)
  match (bs.drop r.1.length).map fun x => (x.1 % 2 ^ 64).toNat / 4096 with
  | [] => r
  | p :: ps => (r.1.filter fun x => match x.1 with | .gl _ (some n) => decide (n ≤ ps.foldl Nat.min p) | _ => true, r.2)

/-! ### Link traffic (R331, R356, R358) -/

/-- Does a gang switch keep this context's traffic from the links (R331)? -/
def State.gated (s : State) (pasid : Nat) : Bool := s.link.gangs.any fun k => k.begun && k.outgoing == pasid

/-- Ports on which flits leave. -/
def State.upPorts (s : State) : List Nat :=
  (s.link.ports.filter fun (e : Nat × Port) => e.2.trained && !e.2.heldDown).map fun (e : Nat × Port) => e.1

/-- A flit goes out on one of the ports, which the route chooses (assumption log 72); without one it waits (R358). -/
def State.send (s : State) (f : Flit) : State :=
  match s.upPorts with
  | [] => s.modLink fun k => { k with blocked := k.blocked ++ [f] }
  | p :: ps =>
    let (i, s1) := s.takeFree
    s1.sendPort ((p :: ps).getD (Config.freeWord i % (ps.length + 1)) p) f

/-- A flit of a context leaves, or waits in the outbound queue of a gang switch. -/
def State.emit (s : State) (pasid : Nat) (f : Flit) : State :=
  if s.gated pasid then s.modLink fun k => { k with outbound := k.outbound ++ [(pasid, f)] } else s.send f

/-- One byte of an engine's write on this chip; a write to the issuer's scratchpad or the pool counts in its tracker. -/
def State.outByte (s : State) (c : Nat) (own : Bool) (ranks : List Nat) (l : Loc) (b : Byte) : State :=
  let home := fun (xs : Bool) (a : Nat) =>
    (s.homeWrite (s.pasidOf c) { xs := xs, addr := a, bytes := [b], core := c, seg := 0 }).commitGranules (s.stageOf c) [granOf xs a]
  match l with
  | .sp a => ranks.foldl (fun (s : State) d => s.modCore d fun k =>
      { (if d = c && own then k.noteAccess [granSp a] false else k) with sp := k.sp.write a b }) s
  | .cp a => (s.modCore c fun k => k.noteAccess [granPool a] false).poolWrite c a [b]
  | .xs a => home true a
  | .gl a _ => home false a
  | .remote _ => s

/-- Bytes of another chip's memory as flits carry them: runs of consecutive bytes, at most 64 in each (R356). -/
def remoteRuns (bs : List (Loc × Byte)) : List (Nat × List Byte) :=
  let far := bs.filterMap fun x => match x.1 with | .remote a => some (a, x.2) | _ => none
  (far.foldl (fun (acc : List (Nat × List Byte)) x => match acc with
    | (a, l) :: rest => if x.1 = a + l.length && decide (l.length < 64) then (a, l ++ [x.2]) :: rest else (x.1, [x.2]) :: acc
    | [] => [(x.1, [x.2])]) []).reverse

/-- Lines that some bytes cover whole: their poison is cleared (R371). -/
def wholeLines (bs : List (Loc × Byte)) : List Nat :=
  let gs := bs.filterMap fun x => match x.1 with
    | .xs a => some (granOf true a, a)
    | .gl a _ => some (granOf false a, a)
    | _ => none
  ((gs.map (·.1)).dedup).filter fun g => ((gs.filter fun x => x.1 == g).dedup).length = 128

/-- The aligned 8-byte unit of a byte, which is written whole or not at all (R196). -/
def Loc.unit : Loc → Nat
  | .sp a => 5 * (a / 8) | .cp a => 5 * (a / 8) + 1 | .xs a => 5 * (a / 8) + 2 | .gl a _ => 5 * (a / 8) + 3 | .remote a => 5 * (a / 8) + 4

/-- The bytes of a stopped write that have been written: whole units in any order and grouping, and SO pages in ascending
order (R196, R202, R222, R226). -/
def partWritten (i : Nat) (bs : List (Loc × Byte)) : List (Loc × Byte) :=
  let pick := fun (l : Loc) => bitAt (Config.freeWord i) l.unit
  bs.filter fun x => match x.1 with
    | .gl _ (some p) => decide (p < Config.freeWord (i + 1)) || (p == Config.freeWord (i + 1) && pick x.1)
    | l => pick l

/-- The doorbells that some bytes ring: all eight at offset 0 of a page (R341). -/
def rung (bs : List (Loc × Byte)) : List (Nat × List Byte) :=
  let at_ := fun (a : Nat) => (bs.filterMap fun x => match x.1 with | .gl b _ => if a = b then some x.2 else none | _ => none).getLast?
  ((bs.filterMap fun x => match x.1 with | .gl a _ => if doorBase ≤ a && a % 4096 == 0 then some a else none | _ => none).dedup).filterMap
    fun a => let b := (List.range 8).filterMap fun j => at_ (a + j)
      if b.length = 8 then some (a, b) else none

/-- An engine's write of its bytes: all, or those that a fault has let through. -/
def State.writeOut (s : State) (c chip : Nat) (own : Bool) (ranks : List Nat) (status : Nat) (bs : List (Loc × Byte)) : State :=
  let out := if status = 0 then bs else partWritten s.free bs
  let s0 := if status = 0 then s else { s with free := s.free + 2 }
  let s1 := (remoteRuns out).foldl (fun (s : State) x => s.emit (s.pasidOf c) (.write chip (s.pasidOf c) x.1 x.2))
    (out.foldl (fun (s : State) x => s.outByte c own ranks x.1 x.2) s0)
  let s2 := (rung out).foldl (fun (s : State) x => s.doorbell (s.pasidOf c) { xs := false, addr := x.1, bytes := x.2, core := c, seg := 0 }) s1
  let rows := out.filterMap fun x => match x.1 with | .sp a => some a | _ => none
  let s3 := if rows.isEmpty then s2 else ranks.foldl (fun (s : State) d => s.askBanks d rows) s2
  { s3 with poison := s3.poison.filter fun g => !(wholeLines out).contains g }

/-- The free values that the checks of operands at lvl 4 have used. -/
def State.spendRemote (s : State) (zs : List Shape) : State :=
  if zs.any fun z => 3 ≤ z.lvl then { s with free := s.free + 2 ^ 64 } else s

/-- The flits that bring the bytes of a read at lvl 4 are counted on a port, which the route chooses (R356). -/
def State.countRemote (s : State) (z : Shape) : State :=
  match s.upPorts with
  | [] => s
  | p :: ps =>
    if z.lvl != 4 then s
    else
      let (i, s1) := s.takeFree
      s1.countFlits ((p :: ps).getD (Config.freeWord i % (ps.length + 1)) p) (flitsOf (tensorBytes z))

/-- Does a write of these bytes leave the cluster? -/
def leaves (l : Loc) : Bool :=
  match l with
  | .sp _ | .cp _ => false
  | _ => true

/-- A write that was issued before an operation and lies under its bytes is still held: the operation's own
write follows it (R212). -/
def State.heldUnder (s : State) (before : Nat) (ls : List Loc) : Bool :=
  s.clusters.any fun (e : Nat × Cluster) => e.2.held.any fun h => decide (h.w.id < before) && ls.any fun l => match l with
    | .xs a => h.w.xs && decide (h.w.addr ≤ a) && decide (a < h.w.addr + h.w.bytes.length)
    | .gl a _ => !h.w.xs && decide (h.w.addr ≤ a) && decide (a < h.w.addr + h.w.bytes.length)
    | _ => false

end Sys2Proof.Machine
end

