-- ==== Sys2Proof/Machine/EngReg.lean ====
section
/-!
DEFINITION. The engine registers of a context: their values and what a write to each does or is refused with,
for `x.engw` and the management endpoint alike (R10, R159, R230-R232, R246, R354).
-/
namespace Sys2Proof.Machine

/-- Engine registers by number (R230). -/
inductive EngReg
  | window (w : Nat) (second : Bool) | starena | sthbm | stlp | stsize | evq
  | inChan (c : Nat) (second : Bool) | outChan (c : Nat)
  deriving DecidableEq, Repr

def engReg? (n : Nat) : Option EngReg :=
  if n < 0x80 then some (.window (n / 2) (n % 2 == 1))
  else if n = 0x100 then some .starena
  else if n = 0x101 then some .sthbm
  else if n = 0x102 then some .stlp
  else if n = 0x103 then some .stsize
  else if n = 0x110 then some .evq
  else if 0x200 ≤ n && n < 0x280 then some (.inChan ((n - 0x200) / 2) (n % 2 == 1))
  else if 0x280 ≤ n && n < 0x2C0 then some (.outChan (n - 0x280))
  else none

def Context.window (x : Context) (w : Nat) : Window := Table.get x.windows {} w
def Context.inChan (x : Context) (c : Nat) : InChan := Table.get x.inch {} c
def Context.outChan (x : Context) (c : Nat) : OutChan := Table.get x.outch {} c
def Context.setIn (x : Context) (c : Nat) (v : InChan) : Context := { x with inch := Table.put x.inch c v }
def Context.setOut (x : Context) (c : Nat) (v : OutChan) : Context := { x with outch := Table.put x.outch c v }

def InChan.producer (v : InChan) (p : Nat) : Producer := Table.get v.prods {} p
def InChan.tokmask (v : InChan) : Nat := ((List.range 16).map fun p => bit (v.producer p).token * 2 ^ p).sum
/-- Every registered producer's token has arrived, and no tile of theirs waits for an earlier one (R250, R357; assumption
log 120). -/
def InChan.eos (v : InChan) : Bool := v.valid && (List.range (v.nprod + 1)).all fun p => (v.producer p).token && (v.producer p).early.isEmpty

/-- Tiles sent and not yet retired: places taken beyond those that advertisements have opened anew (R248). -/
def OutChan.inflight (v : OutChan) : Nat := v.taken - (v.upto - v.first)

def InChan.word0 (v : InChan) : Nat :=
  bit v.valid * 2 ^ 63 + bit v.kind * 2 ^ 62 + v.win * 2 ^ 56 + v.nprod * 2 ^ 52 + bit v.err * 2 ^ 51 + bit v.eos * 2 ^ 48 +
    v.tokmask * 2 ^ 32
def OutChan.word (v : OutChan) : Nat :=
  bit v.valid * 2 ^ 63 + bit v.eossent * 2 ^ 62 + v.dchip * 2 ^ 48 + v.dchan * 2 ^ 42 + v.prod * 2 ^ 38 + v.inflight * 2 ^ 31 +
    v.tilesz * 2 ^ 15

/-- The value of an engine register of a context, as core `c` reads it. -/
def State.engRead (s : State) (pasid c : Nat) (r : EngReg) : Word64 :=
  let x := s.ctx pasid
  match r with
  | .window w second => if second then (x.window w).w1 else (x.window w).w0
  | .starena => x.starena
  | .sthbm => x.sthbm
  | .stlp => x.stlp
  | .stsize => x.stsize
  | .evq => BitVec.ofNat 64 ((s.core c).eng.evq.length * 256 + (s.core c).eng.heldRecords)
  | .inChan n second => if second then BitVec.ofNat 64 ((x.inChan n).tilesz * 2 ^ 48 + (x.inChan n).buf) else BitVec.ofNat 64 (x.inChan n).word0
  | .outChan n => BitVec.ofNat 64 (x.outChan n).word

/-! ### What a write is refused with -/

def winValid (w1 : Nat) : Bool := bitAt w1 63
def winCount (w1 : Nat) : Nat := bits w1 16 24
def winElems (w1 : Nat) : Nat := bits w1 0 14 + 1
def winFmt (w1 : Nat) : Nat := bits w1 57 3
def winOp (w1 : Nat) : Nat := bits w1 60 2
/-- Element bytes of a window's format. -/
def winBytes (w1 : Nat) : Nat := if winFmt w1 = 1 then 2 else 4

/-- Does a context own a task: one in flight here, or one in its save area? -/
def State.ownsTask (s : State) (pasid tid : Nat) : Bool :=
  ((s.task? tid).map fun (t : Task) => t.pasid == pasid).getD false ||
  ((s.ctx pasid).area.map fun (a : SaveArea) => a.tasks.any fun e => e.1 == tid).getD false

/-- The engine operations of a context that have issued and are not gone: on its cores, of its swapped teams and in its
save area, shadows and held records included. -/
def State.opsOf (s : State) (pasid : Nat) : List EngOp :=
  let all := fun (k : Core) => k.eng.opsWhere fun _ => true
  ((s.cores.filter fun e => s.pasidOf e.1 == pasid).map fun (e : Nat × Core) => all e.2).flatten ++
  ((s.saved.filter fun e => s.ownsTask pasid e.1).map fun (e : Nat × SavedTeam) => (e.2.map fun (k : Nat × Core) => all k.2).flatten).flatten ++
  (((s.ctx pasid).area.map fun (a : SaveArea) => (a.cores.map fun (e : Nat × Core) => all e.2).flatten).getD [])

/-- A round is open here until every contribution issued here has posted its record (R159). -/
def State.roundOpen (s : State) (pasid w : Nat) : Bool :=
  !((s.ctx pasid).window w).waiting.isEmpty ||
  (s.opsOf pasid).any fun o => match o.cmd with
    | .redm n _ _ => n == w
    | _ => false

/-- The target of a valid window must translate to a writable leaf page of the RC kind (R159). -/
def State.targetOk (s : State) (pasid w0 : Nat) : Bool :=
  match translate s pasid w0 with
  | some g => g.w && g.kind == 1
  | none => false

def State.anySpilled (s : State) (pasid : Nat) : Bool := (s.ctx pasid).stash.any fun e => e.state == .spilled

/-- The fault of a write, in the order reserved operand value, then protection; none when it is accepted. A write that sets
`valid` while `tilesz` is 0 has a reserved operand value (assumption log 119). -/
def State.engRefuse (s : State) (pasid : Nat) (r : EngReg) (v : Word64) : Option Nat :=
  let n := v.toNat
  let x := s.ctx pasid
  match r with
  | .evq => some 0x0A
  | .window w second =>
    let old := x.window w
    let w0 := if second then old.w0.toNat else n
    let w1 := if second then n else old.w1.toNat
    let badValue := if second then bits n 40 17 != 0 || bits n 14 2 != 0 || !(winOp n == 0 || winOp n == 1) ||
        !(winFmt n == 0 || winFmt n == 1 || winFmt n == 3) || winCount n == 0
      else n / 2 ^ 57 != 0 || n % 128 != 0
    if badValue then some 0x0F
    else if s.roundOpen pasid w || (winValid w1 && !s.targetOk pasid w0) then some 0x0A else none
  | .starena =>
    if n / 2 ^ 48 != 0 then some 0x0F
    else if x.xssize < 128 * (bits n 24 24 + bits n 0 24) || !x.stash.isEmpty then some 0x0A else none
  | .sthbm | .stlp => if n / 2 ^ 57 != 0 || n % 4096 != 0 then some 0x0F else if s.anySpilled pasid then some 0x0A else none
  | .stsize => if n % 2 ^ 32 != 0 && !hasLpddr s then some 0x0F else if s.anySpilled pasid then some 0x0A else none
  | .inChan c second =>
    let old := x.inChan c
    if second then
      if bits n 21 27 != 0 || bits n 48 16 = 0 then some 0x0F else if old.valid then some 0x0A
      else if x.xssize < 128 * (bits n 0 21 + (old.win + 1) * (old.nprod + 1) * bits n 48 16) then some 0x0A else none
    else if bits n 49 2 != 0 || n % 2 ^ 32 != 0 then some 0x0F
    else if old.valid && bitAt n 63 then some 0x0A
    else if bitAt n 63 && old.tilesz == 0 then some 0x0F
    else if bitAt n 63 && decide (x.xssize < 128 * (old.buf + (bits n 56 6 + 1) * (bits n 52 4 + 1) * old.tilesz)) then some 0x0A
    else none
  | .outChan c =>
    if n % 2 ^ 15 != 0 || (bitAt n 63 && bits n 15 16 == 0) then some 0x0F
    else if (x.outChan c).valid && bitAt n 63 then some 0x0A else none

/-! ### The write -/

/-- An out-channel that has received an advertisement of a highest sequence number. -/
def OutChan.opened (o : OutChan) (upto : Nat) : OutChan :=
  { o with first := if o.upto = 0 then upto + 1 else o.first, upto := Nat.max o.upto (upto + 1) }

/-- An advertisement to producer p of an in-channel: at once to an out-channel of the same chip, else on its way over the
links (R246, R249). -/
def State.advertise (s : State) (pasid chan p upto : Nat) : State :=
  let mine := fun (o : OutChan) => o.valid && o.dchip == s.chipNo && o.dchan == chan && o.prod == p
  if (s.ctx pasid).outch.any fun (e : Nat × OutChan) => mine e.2 then
    s.modCtx pasid fun x => { x with outch := x.outch.map fun (e : Nat × OutChan) => if mine e.2 then (e.1, e.2.opened upto) else e }
  else s.emit pasid (.window pasid chan p upto)

/-- What a write has to advertise: setting the valid bit of an in-channel opens the first window to each registered producer
(R246). -/
def firstWindows (r : EngReg) (v : Word64) : List (Nat × Nat × Nat) :=
  match r with
  | .inChan c false => if bitAt v.toNat 63 then (List.range (bits v.toNat 52 4 + 1)).map fun p => (c, p, bits v.toNat 56 6) else []
  | _ => []

/-- A write that has passed its checks. Clearing a channel's valid bit discards its tiles, tokens and counts (R246). -/
def State.engWrite (s : State) (pasid : Nat) (r : EngReg) (v : Word64) : State :=
  let n := v.toNat
  match r with
  | .evq => s
  | .window w second => s.modCtx pasid fun x => { x with windows := Table.modify x.windows {} w fun o =>
      if second then { o with w1 := v } else { o with w0 := v } }
  | .starena => s.modCtx pasid fun x => { x with starena := v }
  | .sthbm => s.modCtx pasid fun x => { x with sthbm := v }
  | .stlp => s.modCtx pasid fun x => { x with stlp := v }
  | .stsize => s.modCtx pasid fun x => { x with stsize := v }
  | .inChan c true => s.modCtx pasid fun x => x.setIn c { x.inChan c with tilesz := bits n 48 16, buf := bits n 0 21 }
  | .inChan c false => s.modCtx pasid fun x =>
      let o := x.inChan c
      let kept : InChan := { o with valid := bitAt n 63, kind := bitAt n 62, win := bits n 56 6, nprod := bits n 52 4, err := o.err && !bitAt n 51 }
      x.setIn c (if bitAt n 63 then kept else { kept with prods := [], tiles := [] })
  | .outChan c => s.modCtx pasid fun x =>
      let old := x.outChan c
      let o : OutChan := { valid := bitAt n 63, dchip := bits n 48 14, dchan := bits n 42 6, prod := bits n 38 4, tilesz := bits n 15 16 }
      let i := x.inChan o.dchan
      if !o.valid then x.setOut c o
      else if o.dchip != s.chipNo then x.setOut c { o with first := old.first, upto := old.upto }
      else if i.valid && o.prod ≤ i.nprod then x.setOut c (o.opened ((i.producer o.prod).freed + i.win))
      else x.setOut c o

/-- The host's write, which is released at once. -/
def State.engWriteNow (s : State) (pasid : Nat) (r : EngReg) (v : Word64) : State :=
  (firstWindows r v).foldl (fun (s : State) w => s.advertise pasid w.1 w.2.1 w.2.2) (s.engWrite pasid r v)

/-- A core's write: what it has to advertise leaves once its bundle is strike-clear (R379). -/
def State.engWriteLater (s : State) (pasid : Nat) (r : EngReg) (v : Word64) : State :=
  (s.engWrite pasid r v).modCur fun k => k.modEng fun e => { e with notes := e.notes ++ (firstWindows r v).map fun w =>
    { pasid := pasid, chan := w.1, prod := w.2.1, upto := w.2.2, seg := k.rcv.seg } }

/-- The advertisements of a core that are strike-clear leave, those of channels that are still valid. -/
def State.sendNotes (s : State) (c : Nat) : State :=
  let clear := fun (w : WindowNote) => match w.clearAt with | some t => decide (t ≤ s.cycle) | none => false
  let go := (s.core c).eng.notes.filter clear
  if go.isEmpty then s
  else go.foldl (fun (s : State) w => if ((s.ctx w.pasid).inChan w.chan).valid then s.advertise w.pasid w.chan w.prod w.upto else s)
    (s.modCore c fun k => k.modEng fun e => { e with notes := e.notes.filter fun w => !clear w })

end Sys2Proof.Machine
end

