-- ==== Sys2Proof/Machine/Engine.lean ====
section
/-!
DEFINITION. The X slot's register copies, the issue of an engine command (R221-R226), the copy engine (R235,
R236), translation invalidation (R214, R237), the engine-register commands (R231) and the fence (R201, R207-R209).
-/
namespace Sys2Proof.Machine

/-! ### Fence -/

/-- `y.fence`: the UN actions at issue, the loads in flight that later accesses wait for, those of its own bundle among
them, a release epoch for ww, and the freeze of a draining fence, which waits for the frontier first (R262). -/
def execFence (g : Guard) (rr rw wr ww : Bool) (sc : BitVec 4) (s : State) : Host.Outcome State Fault Refusal :=
  let c := s.turn
  let drains := fenceDrains wr sc
  .next (
    if !s.cur.on g then s
    else if drains && s.speculative c then s.holdFor .y .frontier
    else if (wr || ww) && s.unStuck c then s.holdFor .y .breakwater
    else
      let s1 := if rr || wr then s.modCur fun k => k.modEng fun e => { e with unLines := [] } else s
      let s2 := if wr || ww then s1.flushUn c else s1
      let s3 := s2.modCur fun k => k.modEng fun e =>
        { e with fenceR := if rr then s.nextId else e.fenceR,
                 fenceW := if rw then s.nextId else e.fenceW,
                 epoch := if ww then e.epoch + 1 else e.epoch,
                 draining := e.draining || drains }
      s3.sigEffect .y 16 sc.toNat [])

/-! ### Register copies (R233, R234) -/

def xcpDest : XDst → Dest
  | .s r => .s r.toNat
  | .va r => .v .va r.toNat | .vb r => .v .vb r.toNat
  | .ka r => .k .va r.toNat | .kb r => .k .vb r.toNat
  | .la r => .la r.toNat | .ta r => .ta r.toNat | .xa r => .xa r.toNat

def destMask : XDst → Nat
  | .va _ | .vb _ => allLanes
  | .ka _ | .kb _ => ones 128
  | _ => ones 64

/-- The value of a source in the form that a destination file takes. -/
def xcpValue (k : Core) (dst : XDst) (src : XSrc) (ln : BitVec 7) : Nat :=
  let vec := fun (v : Vec) => match dst with
    | .s _ => (lane v ln.toNat).toNat
    | .ka _ | .kb _ => ((List.range 128).map fun l => bit (lane v l != 0) * 2 ^ l).sum
    | _ => v.toNat
  let mask := fun (m : LaneMask) => match dst with
    | .va _ | .vb _ => laneBits m
    | _ => m.toNat
  let word := fun (w : Word64) => match dst with
    | .va _ | .vb _ => (ofLanes (List.replicate 128 (w.setWidth 32))).toNat
    | _ => w.toNat
  match src with
  | .s r => word (k.readS r)
  | .la r => word (k.readLA r) | .ta r => word (k.readTA r) | .xa r => word (k.readXA r)
  | .va r => vec (k.readV .va r) | .vb r => vec (k.readV .vb r)
  | .ka r => mask (k.readK .va r.toNat) | .kb r => mask (k.readK .vb r.toNat)

def execXcp (g : Guard) (dst : XDst) (src : XSrc) (ln : BitVec 7) (s : State) : Host.Outcome State Fault Refusal :=
  .next (if s.cur.on g then
      s.modCur fun k => k.push .x 3 (xcpDest dst) (xcpValue k dst src ln) (destMask dst) 0
    else s)

/-! ### The issue of a command (R221, R226) -/

/-- The tensor that a command reads, and whether with its scale codes. -/
def EngCmd.source : EngCmd → Option (Shape × Bool)
  | .copy _ a _ => some (a, true)
  | .stash _ z _ | .spill _ z _ _ | .wver _ z | .chsend z _ _ _ => some (z, false)
  | _ => none

/-- The virtual addresses in global memory that a command's tensors touch. -/
def EngCmd.pages (cmd : EngCmd) : List Nat :=
  let of := fun (z : Shape) (scales : Bool) =>
    if z.lvl = 3 then (((List.range z.count).map fun k => (z.needs scales k).map fun a => (a % 2 ^ 64).toNat).flatten) else []
  (match cmd.source with | some (z, sc) => of z sc | none => []) ++
  match cmd with
  | .copy d _ _ => of d true
  | .fetch _ d _ | .chrecv d _ => of d false
  | _ => []

/-- The tensor that an operation reads at its fork: one in the scratchpad or the pool, and any that is read at issue. -/
def EngOp.readsNow (o : EngOp) : Option (Shape × Bool) :=
  match o.cmd with
  | .copy _ a _ => if a.lvl < 2 then some (a, true) else none
  | _ => if o.started then o.cmd.source else none

/-- The operation that the bundle in issue forks: a sending event of the core. Its pages are translated (R214), and what it
reads at the fork counts as a read of the bundle (R193, R205, R218). -/
def State.fork (s : State) (cmd : EngCmd) (f : EngOp → EngOp) : State :=
  let (id, s1) := (s.sendStamp s.turn).takeId
  let k := s1.cur
  let q := queueNo cmd
  let o : EngOp := { id := id, cmd := cmd, core := s.turn, tid := k.task.getD 0, addr := k.seq.pc, seg := k.rcv.seg,
                     stamp := k.regs.lclock.toNat, after := k.eng.observed }
  let s2 := s1.modCur fun k => k.modEng fun e =>
    e.setQueue q (e.queue q ++ [f o])
  let s3 := s2.prefill (s.pasidOf s.turn) cmd.pages
  match (f o).readsNow with
  | some (z, sc) => (s3.tensorDepends s.turn (id + 1) z sc).askTensor s.turn z sc
  | none => s3

/-- An X-slot command: its issue faults, the hold of an occupied shadow, its own hold, then the fork. -/
def State.command (s : State) (g : Guard) (fault : Option Nat) (hold : Option HoldCause) (cmd : EngCmd) (f : EngOp → EngOp)
    (ops : List Byte) : State :=
  if !s.cur.on g then s
  else match fault with
    | some code => s.issueFault .x code
    | none =>
      if queueNo cmd < 4 && 2 ≤ (s.cur.eng.queue (queueNo cmd)).length then s.holdFor .x .shadow
      else match hold with
        | some h => s.holdFor .x h
        | none => (s.fork cmd f).sigEffect .x (recordKind cmd) 0 ops

/-- A tensor in the scratchpad or the pool is read at the fork; one at a tracked level when its operation starts. -/
def tracked (z : Shape) : Bool := decide (2 ≤ z.lvl)

def shapeOps (z : Shape) : List Byte := leBytes 8 z.base ++ leBytes 1 z.lvl ++ leBytes 1 z.fmt

/-! ### Copy and multicast (R235, R236) -/

def State.copyIssue (s : State) (g : Guard) (xs xd : BitVec 5) (ranks : Option Nat) : State :=
  let team := (s.stage (s.stageOf s.turn)).team
  match s.shapeAt xs, s.shapeAt xd with
  | some a, some d =>
    let bad := a.logical != d.logical || (match ranks with | some m => d.lvl != 0 || decide (m / 2 ^ team ≠ 0) | none => false)
    s.command g (if bad then some 0x0F else none) none (.copy d a ranks)
      (fun o => if tracked a then o
        else
          let (es, st) := s.readTensor s.turn (s.nextId + 1) a true
          { o with elems := es, status := st })
      (shapeOps a ++ shapeOps d ++ leBytes 1 (ranks.getD 0))
  | _, _ => s.command g (some 0x0F) none .atomic id []

def execCpy (g : Guard) (xs xd : BitVec 5) (s : State) : Host.Outcome State Fault Refusal := .next (s.copyIssue g xs xd none)
def execMc (g : Guard) (xs xd : BitVec 5) (ranks : Byte) (s : State) : Host.Outcome State Fault Refusal :=
  .next (s.copyIssue g xs xd (some ranks.toNat))

/-- Is the task of an operation the frontier task, or committed? -/
def State.opCommitted (s : State) (o : EngOp) : Bool :=
  match s.task? o.tid with
  | some t => s.isFrontier o.tid || t.state == .committed
  | none => true

/-- COPY_START: the active copy starts: one that touches a tracked level only once its task is the frontier
task, nothing that it reads is held by another cluster, and nothing would be lost to a strike (R219, R236, R266). -/
def execCopyStart (core : Nat) (s : State) : Host.Outcome State Fault Refusal :=
  match (s.core core).eng.copyQ with
  | [] => .next s
  | o :: _ =>
    match o.cmd with
    | .copy d a _ =>
      if o.started || o.complete || ((tracked a || tracked d) && !s.opCommitted o) || (tracked a && (s.tensorHeld core o.id a true || s.tensorUnclear core o a true)) then .next s
      else
        let (i, s1) := s.takeFree
        let o1 := if tracked a then
            let (es, st) := s.readTensor core o.id a true
            { o with elems := es, status := st }
          else o
        let st := if a.badScale || d.badScale then 0x45 else o1.status
        let s2 := ((if tracked a then s1.tensorDepends core o.id a true else s1).spendRemote [a]).countRemote a
        .next (s2.modCore core fun k => k.modEng fun e => e.setOp
          { o1 with started := true, status := st, doneAt := s.cycle + 1 + pathCycles a.lvl d.lvl (tensorBytes d) + Config.freeDelay i })
    | _ => .next s

/-- The cores whose scratchpads a copy writes. -/
def State.copyCores (s : State) (core : Nat) (ranks : Option Nat) : List Nat :=
  match ranks, (s.core core).task with
  | some m, some t => (s.coresOf t).filter fun d => bitAt m (s.core d).rank
  | _, _ => [core]

/-- COPY_COMPLETE: the copy's writes are performed and its record posts. Writes that leave the cluster wait until
the bundle is committed and strike-clear, and for the earlier writes that they follow (R213). -/
def execCopyComplete (core : Nat) (s : State) : Host.Outcome State Fault Refusal :=
  match (s.core core).eng.copyQ with
  | [] => .next s
  | o :: _ =>
    match o.cmd with
    | .copy d a ranks =>
      if !o.started || o.complete || s.cycle < o.doneAt then .next s
      else if o.status = 0x45 then .next (s.complete core o 0x45 0)
      else
        let (bs, flags) := copyBytes d a o.elems
        let cores := s.copyCores core ranks
        let own := cores.contains core
        let (ls, st) := s.checkOut core o.id d.lvl own bs
        let status := if o.status != 0 then o.status else st
        let outside := ls.any fun x => leaves x.1
        if outside && (!s.clearFor o.clearAt o.tid || s.heldUnder o.id (ls.map (·.1))) then .next s
        else .next (((s.writeOut core d.chip own cores status ls).spendRemote [d]).complete core o status (BitVec.ofNat 64 flags))
    | _ => .next s

/-! ### Translation invalidation (R214, R237) -/

def tinvBytes : TinvSize → Nat
  | .k4 => 2 ^ 12 | .m2 => 2 ^ 21 | .g1 => 2 ^ 30 | .all => 2 ^ 57

/-- Entries of a context's translation caches outside an invalidated range stay. -/
def State.dropTranslations (s : State) (pasid va count : Nat) (size : TinvSize) : State :=
  s.modCtx pasid fun x => { x with tlb := x.tlb.filter fun e =>
    !(size == .all || (decide (va ≤ e.1 * 4096) && decide (e.1 * 4096 < va + count * tinvBytes size))) }

def tinvRefused (va count : Nat) (size : TinvSize) : Bool :=
  size != .all && (va % tinvBytes size != 0 || count = 0 || decide (512 < count))

def execTinv (g : Guard) (xv xn : BitVec 5) (size : TinvSize) (s : State) : Host.Outcome State Fault Refusal :=
  let va := if size = .all then 0 else (s.cur.readXA xv).toNat
  let n := if size = .all then 0 else (s.cur.readXA xn).toNat
  .next (s.command g (if tinvRefused va n size then some 0x0F else none) none (.tinv va n size) id (leBytes 8 va ++ leBytes 8 n))

/-- Has every copy queue of the chip passed the marker with a place? -/
def State.passed (s : State) (id : Nat) : Bool :=
  s.cores.all fun (e : Nat × Core) => e.2.eng.copyQ.all fun x => decide (id ≤ x.id) || x.complete

/-- The host's invalidations that every copy queue has passed take effect, and each posts its event frame (R338, R353). -/
def State.passMarkers (s : State) : State :=
  s.contexts.foldl (fun (s : State) (e : Nat × Context) =>
    let done := e.2.markers.filter fun m => s.passed m.id
    if done.isEmpty then s
    else (done.foldl (fun (s : State) m => (s.dropTranslations e.1 m.va m.count m.size).eventFrame e.1 0x06 m.tag []) s).modCtx e.1 fun x =>
      { x with markers := x.markers.filter fun m => !done.contains m }) s

/-- TINV_COMPLETE: every copy queue of the chip has passed the marker, and the caches drop the old entries. -/
def execTinvComplete (core : Nat) (s : State) : Host.Outcome State Fault Refusal :=
  match (s.core core).eng.copyQ with
  | [] => .next s
  | o :: _ =>
    match o.cmd with
    | .tinv va n size =>
      if o.complete || !s.passed o.id then .next s
      else .next ((s.dropTranslations (s.pasidOf core) va n size).complete core o 0 0)
    | _ => .next s

/-! ### Engine registers (R231) -/

/-- `x.engw`: a task that is not the frontier task waits, and the refusals are judged when the write issues (R159, R231). A
rerun writes the same value again. -/
def execEngw (g : Guard) (xv : BitVec 5) (num : BitVec 12) (s : State) : Host.Outcome State Fault Refusal :=
  let v := s.cur.readXA xv
  let p := s.pasidOf s.turn
  .next (
    if !s.cur.on g then s
    else match engReg? num.toNat with
      | none => s.issueFault .x 0x0F
      | some .evq => s.issueFault .x 0x0A
      | some r =>
        let again := s.cur.rcv.engwsAgain.contains (num.toNat, v)
        if s.speculative s.turn then s.holdFor .x .frontier
        else match if again then none else s.engRefuse p r v with
          | some code => s.issueFault .x code
          | none =>
            ((s.engWriteLater p r v).modCur fun k => k.modRcv fun q =>
              { q with engws := q.engws ++ [(q.seg, num.toNat, v)], engwsAgain := q.engwsAgain.erase (num.toNat, v) }).sigEffect
                .x 0x0E num.toNat (leBytes 8 v.toNat))

/-- `x.engr`: an operation outside the queues. -/
def execEngr (g : Guard) (num : BitVec 12) (s : State) : Host.Outcome State Fault Refusal :=
  let (i, s1) := s.takeFree
  .next (
    if !s.cur.on g then s
    else if (engReg? num.toNat).isNone then s.issueFault .x 0x0F
    else (s1.fork (.engr num.toNat) fun o => { o with doneAt := s.cycle + 1 + Config.freeDelay i }).sigEffect .x 0x0F num.toNat [])

/-- ENGR_COMPLETE: the oldest register read is performed, and its record carries the value of that moment. -/
def execEngrComplete (core : Nat) (s : State) : Host.Outcome State Fault Refusal :=
  match (s.core core).eng.regQ.find? fun o => !o.complete with
  | none => .next s
  | some o =>
    match o.cmd with
    | .engr n =>
      if s.cycle < o.doneAt then .next s
      else
        let v := match engReg? n with
          | some r => s.engRead (s.pasidOf core) core r
          | none => 0
        .next (s.complete core o 0 v)
    | _ => .next s

end Sys2Proof.Machine
end

