-- ==== Sys2Proof/Machine/Stash.lean ====
section
/-!
DEFINITION. The stash engine (R238-R245): stored forms, the entries of a context, their placement in the arena
and the spill regions, prefetch and fetch.
-/
namespace Sys2Proof.Machine

/-! ### Stored forms (R243, R244) -/

/-- Element bytes of a format in mode `zb`: 1 for LOG6 too. -/
def zbWidth (fmt : Nat) : Nat := Nat.max 1 (fmtBits fmt / 8)

def blocksOf (n : Nat) : Nat → List Byte → List (List Byte)
  | 0, _ => []
  | f + 1, bs => if bs.isEmpty then [] else bs.take n :: blocksOf n f (bs.drop n)

/-- One 128-byte chunk in mode `zb`. -/
def zbChunk (e : Nat) (c : List Byte) : List Byte :=
  let els := blocksOf e 128 c
  let map := els.zipIdx.foldl (fun acc x => acc + (if x.1.any (· != 0) then 2 ^ x.2 else 0)) 0
  padTo 4 (leBytes (128 / e / 8) map ++ (els.filter fun x => x.any (· != 0)).flatten)

def zbEncode (e : Nat) (bs : List Byte) : List Byte := ((blocksOf 128 (bs.length / 128) bs).map (zbChunk e)).flatten

/-- Decodes n blocksOf. -/
def zbDecode (e : Nat) : Nat → List Byte → List Byte
  | 0, _ => []
  | n + 1, bs =>
    let m := 128 / e
    let map := leNat (bs.take (m / 8))
    let k := ((List.range m).filter fun i => bitAt map i).length
    let body := bs.drop (m / 8)
    let els := blocksOf e m (body.take (k * e))
    let out := (List.range m).map fun i =>
      if bitAt map i then els.getD ((List.range i).filter fun j => bitAt map j).length [] else List.replicate e 0
    out.flatten ++ zbDecode e n (bs.drop ((m / 8 + k * e + 3) / 4 * 4))

/-- One block of 24 in mode `f8`: the scale code and the E4M3 codes. -/
def f8Block (xs : List FVal) : Nat × List Nat :=
  if xs.any fun x => x.isNaN || x.isInf then (0xFF, xs.map fun x => 0x7F + 128 * bit x.neg?)
  else
    let nz := (xs.filter fun x => !x.isZero).map fun x => x.exact
    match nz with
    | [] => (0x7F, xs.map fun x => 128 * bit x.neg?)
    | x0 :: _ =>
      let big := nz.foldl (fun (m : Exact) x => if ltV (.fin false m.m m.e) (.fin false x.m x.e) then x else m) x0
      let e : Int := big.e + (bitLen big.m - 1)
      let small := !ltV (.fin false 448 0) (.fin false big.m (big.e + 8 - e))
      let sc : Nat := Nat.min (if small then e - 8 + 127 else e - 7 + 127).toNat 0xFE
      (sc, xs.map fun x => (roundF E4M3 fixedMode x.neg? x.exact.m (x.exact.e + 127 - sc)).1)

/-- Codes of an entry's format from an element of a block, with the flags. -/
def f8Value (fmt sc c : Nat) : Nat × Nat :=
  let f := (fmtOf fmt).getD FP32
  if sc = 0xFF then (f.defaultNaN, 0)
  else match decodeF E4M3 false c with
    | .fin n m e => roundF f fixedMode n m (e + sc - 127)
    | _ => (f.defaultNaN, 0)

/-- The blocks of a tensor in mode `f8`: tile, block column w and row q, in the order in which they are coded,
each with the logical number of its first element. -/
def f8Order (n0 rows : Nat) : List (Nat × Nat × Nat × Nat) :=
  ((List.range (rows / 96)).map fun rg => ((List.range (n0 / 96)).map fun cg =>
    ((List.range 96).map fun q => (List.range 4).map fun w =>
      (rg * (n0 / 96) + cg, w, q, (96 * rg + q) * n0 + 96 * cg + 24 * w)).flatten).flatten).flatten

def tileBytes : Nat := 512 + 9216

def f8Encode (n0 rows : Nat) (vals : List FVal) : List Byte :=
  let vs := vals.toArray
  let coded := (f8Order n0 rows).map fun x => (x, f8Block ((List.range 24).map fun j => vs.getD (x.2.2.2 + j) (.fin false 0 0)))
  let tile := fun (t : Nat) =>
    let mine := coded.filter fun x => x.1.1 == t
    let scales := mine.foldl (fun (m : Memory) x => m.write (128 * x.1.2.1 + (x.1.2.2.1 ^^^ (8 * x.1.2.1))) (BitVec.ofNat 8 x.2.1)) []
    scales.readBytes 0 512 ++ (mine.map fun x => x.2.2.map fun c => BitVec.ofNat 8 c).flatten
  ((List.range (rows / 96 * (n0 / 96))).map tile).flatten

def f8Decode (fmt n0 rows : Nat) (bs : List Byte) : List Nat × Nat :=
  let a := bs.toArray
  let els := (f8Order n0 rows).map fun x =>
    let base := x.1 * tileBytes
    let sc := (a.getD (base + 128 * x.2.1 + (x.2.2.1 ^^^ (8 * x.2.1))) 0).toNat
    (List.range 24).map fun j => (x.2.2.2 + j, f8Value fmt sc (a.getD (base + 512 + 96 * x.2.2.1 + 24 * x.2.1 + j) 0).toNat)
  let t : Table (Nat × Nat) := els.flatten.foldl (fun t e => Table.put t e.1 e.2) []
  (t.map fun e => e.2.1, t.foldl (fun f e => f ||| e.2.2) 0)

/-- The stored form of a tensor: bytes, the mode in which they stand, and whether `zb` fell back to raw. -/
def storeForm (mode : StashMode) (z : Shape) (codes : List Nat) : List Byte × StashMode × Bool :=
  let raw := padTo 128 (streamBytes z.fmt codes)
  match mode with
  | .raw => (raw, .raw, false)
  | .zb => let c := zbEncode (zbWidth z.fmt) raw
    if c.length < raw.length then (c, .zb, false) else (raw, .raw, true)
  | .f8 =>
    let ls := z.logical
    (f8Encode (ls.getD 0 1) (ls.tail.foldl (· * ·) 1) (codes.map fun c => elemValue z.fmt c 0), .f8, false)

/-- Codes and flags of an entry's stored form. -/
def StashEntry.decode (e : StashEntry) : List Nat × Nat :=
  let n := e.sizes.foldl (· * ·) 1
  match e.mode with
  | .raw => (streamCodes e.fmt n e.stored, 0)
  | .zb => (streamCodes e.fmt n (zbDecode (zbWidth e.fmt) ((n * fmtBits e.fmt + 1023) / 1024) e.stored), 0)
  | .f8 => f8Decode e.fmt (e.sizes.getD 0 1) (e.sizes.tail.foldl (· * ·) 1) e.stored

/-! ### Entries and room (R238, R240, R242) -/

def keyTag (k : Nat) : Nat := bits k 0 32
def keySid (k : Nat) : Nat := bits k 32 6
def keyWv (k : Nat) : Bool := bitAt k 38

def Context.entry? (x : Context) (k : Nat) : Option StashEntry := x.stash.find? fun e => e.key == k
def Context.dropEntry (x : Context) (k : Nat) : Context := { x with stash := x.stash.filter fun e => e.key != k }
def Context.setEntry (x : Context) (e : StashEntry) : Context := { x with stash := x.stash.map fun y => if y.key == e.key then e else y }
/-- An entry becomes Kept: it is the youngest of the Kept ones. -/
def Context.keep (x : Context) (e : StashEntry) : Context :=
  { x with stash := (x.stash.filter fun y => y.key != e.key) ++ [{ e with state := .kept, moveAt := none, wanted := none }] }

/-- Units of 128 bytes that a stored form takes. -/
def StashEntry.units (e : StashEntry) : Nat := (e.stored.length + 127) / 128
def Context.arenaUnits (x : Context) : Nat := bits x.starena.toNat 0 24
def Context.arenaUsed (x : Context) : Nat :=
  ((x.stash.filter fun e => e.state == .kept || e.state == .returning).map StashEntry.units).sum
/-- Units that waiting commands claim, those of one operation apart (R240). -/
def Context.claimed (x : Context) (op : Nat) : Nat := ((x.stash.filter fun e => e.op != op).map (·.claim)).sum
def Context.spillUnits (x : Context) (lp : Bool) : Nat := (if lp then bits x.stsize.toNat 0 32 else bits x.stsize.toNat 32 32) * 8192
def Context.spillUsed (x : Context) (lp : Bool) : Nat :=
  ((x.stash.filter fun e => (e.state == .spilled && e.lp == lp) || (e.state == .kept && e.moveAt.isSome && !lp)).map StashEntry.units).sum

/-- Keys that issued and uncompleted fetches of a context name, those of swapped and saved teams among them. -/
def State.fetchedKeys (s : State) (pasid : Nat) : List Nat :=
  (s.opsOf pasid).filterMap fun o => match o.cmd with
    | .fetch k _ _ => if o.complete then none else some k
    | _ => none

/-- Some units of a region of `total` that are not in use, from the unit u on; which ones is left open. -/
def freeUnits (used : List Nat) (total : Nat) : Nat → Nat → Nat → List Nat
  | 0, _, _ => []
  | f + 1, n, u =>
    if n = 0 then []
    else if used.contains (u % total) then freeUnits used total f n (u % total + 1)
    else u % total :: freeUnits used total f (n - 1) (u % total + 1)

/-- Units of the arena, or of a spill region, that stored forms hold. -/
def Context.unitsIn (x : Context) (spill : Option Bool) : List Nat :=
  ((x.stash.filter fun e => match spill with
    | none => e.state == .kept || e.state == .returning
    | some lp => e.state == .spilled && e.lp == lp).map (·.place)).flatten

/-- Units for a stored form, chosen by a free value. -/
def Context.pickUnits (x : Context) (spill : Option Bool) (n i : Nat) : List Nat :=
  let used := x.unitsIn spill
  freeUnits used (match spill with | none => x.arenaUnits | some lp => x.spillUnits lp) (n + used.length) n (Config.freeWord i)

/-- The virtual address of a unit of a spill region. -/
def Context.spillAddr (x : Context) (lp : Bool) (u : Nat) : Nat := (if lp then x.stlp else x.sthbm).toNat + 128 * u

/-- The bytes of a stored form reach their units: in the arena of the chip scratchpad, or in a spill region (R238). They leave
the cluster here, behind the same condition as other outbound writes (R213). -/
def State.writeForm (s : State) (pasid : Nat) (spill : Option Bool) (e : StashEntry) : State :=
  let x := s.ctx pasid
  let bs := padTo 128 e.stored
  e.place.zipIdx.foldl (fun (t : State) u =>
    let w : Write := { xs := spill.isNone, addr := 0, bytes := (bs.drop (128 * u.2)).take 128, core := 0, seg := 0 }
    match spill with
    | none => t.homeWrite pasid { w with addr := x.xsbase + 128 * (bits x.starena.toNat 24 24 + u.1) }
    | some lp => match translate s pasid (x.spillAddr lp u.1) with
      | some g => if g.w && g.home == s.chipNo then t.homeWrite pasid { w with addr := g.pa } else t
      | none => t) s

/-- Wanted entries start their return, in the order in which they were asked for, while the arena has room beyond what waiting
commands claim; one that finds it full waits for a `fetch` with free (R242). -/
def State.pumpReturns (s : State) (pasid : Nat) : Nat → State
  | 0 => s
  | n + 1 =>
    let x := s.ctx pasid
    let ws := x.stash.filter fun e => e.state == .spilled && e.wanted.isSome
    match ws with
    | [] => s
    | w0 :: _ =>
      let e := ws.foldl (fun (b : StashEntry) y => if y.wanted.getD 0 < b.wanted.getD 0 then y else b) w0
      if e.full then s
      else if x.arenaUnits < x.arenaUsed + x.claimed (2 ^ 64) + e.units then s.modCtx pasid fun x => x.setEntry { e with full := true }
      else
        let (i, s1) := s.takeFree
        (s1.modCtx pasid fun x => x.setEntry { e with
          state := .returning, place := x.pickUnits none e.units i,
          moveAt := some (s.cycle + 1 + pathCycles (if e.lp then 0 else 3) 0 e.stored.length + Config.freeDelay i) }).pumpReturns pasid n

def State.pump (s : State) (pasid : Nat) : State := s.pumpReturns pasid (s.ctx pasid).stash.length

/-- A `fetch` with free has made room: returns that have found the arena full try again. -/
def State.pumpFreed (s : State) (pasid : Nat) : State :=
  (s.modCtx pasid fun x => { x with stash := x.stash.map fun e => { e with full := false } }).pump pasid

/-- Asks for the return of a Spilled entry. -/
def State.want (s : State) (pasid key : Nat) : State :=
  match (s.ctx pasid).entry? key with
  | some e =>
    if e.state == .spilled && e.wanted.isNone then
      let (i, s1) := s.takeId
      s1.modCtx pasid fun x => x.setEntry { e with wanted := some i }
    else s
  | none => s

/-- Keys sorted by an order on numbers. -/
def sortKeys (f : Nat → Nat) (ks : List Nat) : List Nat :=
  let ins := fun (k : Nat) (l : List Nat) => (l.filter fun x => f x ≤ f k) ++ k :: l.filter fun x => f k < f x
  ks.foldl (fun l k => ins k l) []

/-- A B task of a tag was created, or a tide entry looks ahead: Spilled entries of the tags come back, wv = 0
first, then by ascending sid (R242, R320). -/
def State.wantTags (s : State) (pasid : Nat) (tags : List Nat) : State :=
  let ks := ((s.ctx pasid).stash.filter fun e => e.state == .spilled).map (·.key)
  (tags.foldl (fun (s : State) t =>
    (sortKeys (fun k => bit (keyWv k) * 64 + keySid k) (ks.filter fun k => keyTag k == t)).foldl (fun s k => s.want pasid k) s) s).pump pasid

/-- Stash-ready (R242). -/
def State.stashReady (s : State) (pasid tag : Nat) : Bool :=
  !((s.ctx pasid).stash.any fun e => keyTag e.key == tag && (e.state == .pending || e.state == .spilled || e.state == .returning))

/-! ### Issue (R238-R241) -/

def badKey (k : Nat) : Bool := k / 2 ^ 39 != 0

/-- A command that makes an entry: Pending from its issue, unless the key is taken or no entry is free. -/
def State.stashIssue (s : State) (g : Guard) (xk : BitVec 5) (shape : Option (Option Shape)) (bad : Nat → Option Shape → Bool)
    (cmd : Nat → Shape → EngCmd) (handle : Word64) : State :=
  let key := (s.cur.readXA xk).toNat
  let p := s.pasidOf s.turn
  let z := (shape.getD none).getD {}
  let refused := badKey key || shape == some none || bad key (shape.getD none)
  let x := s.ctx p
  let status := if (x.entry? key).isSome then 1 else if Config.stashEntries ≤ x.stash.length then 2 else 0
  let s1 := s.command g (if refused then some 0x0F else none) none (cmd key z)
    (fun o =>
      if status != 0 then { o with status := status, sent := true }
      else if shape.isNone || (tracked z && s.tensorHeld s.turn o.id z false) then o
      else
        let (es, st) := s.readTensor s.turn o.id z false
        { o with elems := es, status := st, started := true })
    (leBytes 8 key ++ leBytes 8 handle.toNat)
  if !s.cur.on g || refused || status != 0 || s1.cur.seq.verdict == .held then s1
  else s1.modCtx p fun x => { x with stash := x.stash ++ [{ key := key, state := .pending, handle := handle, op := s1.nextId - 1 }] }

def execStash (g : Guard) (xs xk : BitVec 5) (mode : StashMode) (s : State) : Host.Outcome State Fault Refusal :=
  .next (s.stashIssue g xk (some (s.shapeAt xs))
    (fun k z => keyWv k || (mode == .f8 && decide (2 < (z.map (·.fmt)).getD 0))) (fun k z => .stash k z mode) 0)

def execSpill (g : Guard) (xs xk : BitVec 5) (mode : StashMode) (lp : Bool) (s : State) : Host.Outcome State Fault Refusal :=
  .next (s.stashIssue g xk (some (s.shapeAt xs))
    (fun k z => keyWv k || (lp && !hasLpddr s) || (mode == .f8 && decide (2 < (z.map (·.fmt)).getD 0))) (fun k z => .spill k z mode lp) 0)

def execDrop (g : Guard) (xh xk : BitVec 5) (s : State) : Host.Outcome State Fault Refusal :=
  let h := s.cur.readXA xh
  .next (s.stashIssue g xk none (fun k _ => keyWv k) (fun k _ => .drop k h) h)

def execWver (g : Guard) (xs xk : BitVec 5) (s : State) : Host.Outcome State Fault Refusal :=
  .next (s.stashIssue g xk (some (s.shapeAt xs)) (fun k _ => !keyWv k) (fun k z => .wver k z) 0)

/-- `x.fetch`: held while the entry is Pending, Spilled or Returning; a Spilled one is asked for at once. Behind a command of its
own queue that may be waiting for the move of the entry it is held until the move has ended (assumption log 114). -/
def execFetch (g : Guard) (xd xk : BitVec 5) (free : Bool) (s : State) : Host.Outcome State Fault Refusal :=
  let key := (s.cur.readXA xk).toNat
  let p := s.pasidOf s.turn
  let away : Bool := match (s.ctx p).entry? key with
    | some e => e.state == .pending || e.state == .spilled || e.state == .returning ||
        (e.moveAt.isSome && s.cur.eng.stashQ.any fun o => !o.complete && !o.sent && (match o.cmd with | .stash _ _ _ => true | _ => false))
    | none => false
  let (i, s1) := s.takeFree
  .next (
    if !s.cur.on g then s
    else match s.shapeAt xd with
      | none => s.issueFault .x 0x0F
      | some d =>
        if badKey key then s.issueFault .x 0x0F
        else if away then ((s.want p key).pump p).holdFor .x .absent
        else s1.command g none none (.fetch key d free)
          (fun o => { o with started := true, doneAt := s.cycle + 1 + pathCycles 2 d.lvl (tensorBytes d) + Config.freeDelay i })
          (leBytes 8 key ++ shapeOps d))

/-! ### Release and placement (R240) -/

/-- Where the stored form of an operation goes. -/
inductive Placed
  | done | wait | refused | fault (code : Nat)
  deriving DecidableEq, Repr

/-- A spill region must be mapped and writable where some of its units lie (R167, R232). -/
def State.regionFault (s : State) (pasid : Nat) (lp : Bool) (us : List Nat) : Option Nat :=
  (us.filterMap fun u => match translate s pasid ((s.ctx pasid).spillAddr lp u) with
    | none => some 0x09
    | some g => if !g.w || g.home != s.chipNo then some 0x0A else none).head?

/-- Kept entries that arena pressure may move, oldest first, as many as make room for `need` units. -/
def pickVictims (busy : List Nat) (need : Nat) : List StashEntry → List StashEntry
  | [] => []
  | e :: es =>
    if need = 0 then []
    else if e.state == .kept && !keyWv e.key && e.moveAt.isNone && !busy.contains e.key then e :: pickVictims busy (need - e.units) es
    else pickVictims busy need es

/-- Room in the arena for the units of an operation: at once, after moves that start now and for which it claims its room, or
never. A spill region whose first unit does not translate or is not writable cannot take entries (assumption log 116). -/
def State.arenaRoom (s : State) (pasid op need : Nat) (pressure : Bool) : Placed × State :=
  let x := s.ctx pasid
  let others := x.claimed op
  let waits := x.stash.any fun e => e.op == op && e.claim != 0
  let claim := fun (s : State) => s.modCtx pasid fun x => { x with stash := x.stash.map fun e => if e.op = op then { e with claim := need } else e }
  let moving := ((x.stash.filter fun e => e.state == .kept && e.moveAt.isSome).map StashEntry.units).sum
  if waits then (if x.arenaUsed + need ≤ x.arenaUnits then (.done, s) else (.wait, s))
  else if x.arenaUsed + others + need ≤ x.arenaUnits then (.done, s)
  else if !pressure then (.refused, s)
  else
    let vs := pickVictims (s.fetchedKeys pasid) (x.arenaUsed + others + need - x.arenaUnits - moving) x.stash
    let got := (vs.map StashEntry.units).sum
    if x.arenaUnits + moving + got < x.arenaUsed + others + need || x.spillUnits false < x.spillUsed false + got || (s.regionFault pasid false [0]).isSome then
      (.refused, s)
    else
      (.wait, claim (vs.foldl (fun (s : State) e =>
        let (i, s1) := s.takeFree
        s1.modCtx pasid fun x => x.setEntry { e with moveAt := some (s.cycle + 1 + pathCycles 3 0 e.stored.length + Config.freeDelay i) }) s))

/-- The end of a command that made an entry: with a status of refusal or fault the entry is gone. -/
def State.stashFail (s : State) (core pasid : Nat) (o : EngOp) (key status : Nat) : State :=
  (s.modCtx pasid fun x => { x with stash := x.stash.filter fun e => !(e.key == key && e.op == o.id) }).complete core o status 0

/-- STASH_RELEASE: the oldest command of the stash queue that makes an entry is released, once its bundle is
committed and strike-clear, and its entry is Kept, Spilled or Dropped once its bytes have moved (R213, R238, R406). The extents that mode f8 tiles are the
logical sizes (R90; assumption log 82). -/
def execStashRelease (core : Nat) (s : State) : Host.Outcome State Fault Refusal :=
  let p := s.pasidOf core
  let place := fun (o : EngOp) (key : Nat) (z : Shape) (mode : StashMode) (lp : Option Bool) (pressure : Bool) =>
    if !o.started then
      if s.tensorHeld core o.id z false || s.tensorUnclear core o z false then s
      else
        let (es, st) := s.readTensor core o.id z false
        ((s.spendRemote [z]).countRemote z).modCore core fun k => k.modEng fun e => e.setOp { o with elems := es, status := st, started := true }
    else if z.badScale || (mode == .f8 && (z.logical.getD 0 1 % 96 != 0 || (z.logical.tail.foldl (· * ·) 1) % 96 != 0)) then s.stashFail core p o key 0x45
    else if o.status != 0 then s.stashFail core p o key o.status
    else if o.doneAt = 0 then
      let (i, s1) := s.takeFree
      let out := match lp with | some false => 3 | _ => 2
      s1.modCore core fun k => k.modEng fun e => e.setOp
        { o with doneAt := s.cycle + 1 + pathCycles z.lvl out (tensorBytes z) + Config.freeDelay i }
    else if s.cycle < o.doneAt then s
    else
      let (bs, form, fell) := storeForm mode z (o.elems.map (·.1))
      let u := (bs.length + 127) / 128
      let (i, s0) := s.takeFree
      let (room, s1) := match lp with
        | none => s0.arenaRoom p o.id u pressure
        | some l =>
          if (s.ctx p).spillUnits l < (s.ctx p).spillUsed l + u then (.refused, s0)
          else match s0.regionFault p l ((s.ctx p).pickUnits lp u i) with
            | some f => (.fault f, s0)
            | none => (.done, s0)
      match room with
      | .wait => s1
      | .refused => s1.stashFail core p o key 0x02
      | .fault f => s1.stashFail core p o key f
      | .done =>
        let e : StashEntry :=
          { key := key, state := if lp.isSome then .spilled else .kept, mode := form, fmt := z.fmt, sizes := z.logical, stored := bs,
            place := (s1.ctx p).pickUnits lp u i, lp := lp.getD false, op := o.id }
        let s2 := s1.modCtx p fun x => if lp.isSome then x.setEntry e else x.keep e
        (s2.writeForm p lp e).complete core o (if fell then 0x04 else 0) (BitVec.ofNat 64 bs.length)
  match (s.core core).eng.stashQ with
  | [] => .next s
  | o :: _ =>
    if o.complete then .next s
    else if o.sent then .next (s.complete core o o.status 0)
    else if !s.clearFor o.clearAt o.tid then .next s
    else match o.cmd with
      | .stash k z mode => .next (place o k z mode none true)
      | .spill k z mode lp => .next (place o k z mode (some lp) false)
      | .wver k z => .next (place o k z .raw none false)
      | .drop k h => .next ((s.modCtx p fun x => x.setEntry { key := k, state := .dropped, handle := h, op := o.id }).complete core o 0 0)
      | _ => .next s

/-- PRESSURE_SPILL_COMPLETE: the move of an entry to the HBM spill region ends; one that a fetch names stays
until the fetch has completed (R240). The room is for the command that waits for it, not for returns (R242). -/
def execPressureSpillComplete (pasid key : Nat) (s : State) : Host.Outcome State Fault Refusal :=
  match (s.ctx pasid).entry? key with
  | some e =>
    match e.state, e.moveAt with
    | .kept, some t =>
      if s.cycle < t || (s.fetchedKeys pasid).contains key then .next s
      else
        let (i, s1) := s.takeFree
        let e1 := { e with state := .spilled, lp := false, moveAt := none, place := (s.ctx pasid).pickUnits (some false) e.units i }
        .next ((s1.modCtx pasid fun x => x.setEntry e1).writeForm pasid (some false) e1)
    | _, _ => .next s
  | none => .next s

/-- STASH_RETURN_COMPLETE: a returning entry is Kept again (R238, R242). -/
def execStashReturnComplete (pasid key : Nat) (s : State) : Host.Outcome State Fault Refusal :=
  match (s.ctx pasid).entry? key with
  | some e =>
    match e.state, e.moveAt with
    | .returning, some t => if s.cycle < t then .next s else .next ((s.modCtx pasid fun x => x.keep e).writeForm pasid none e)
    | _, _ => .next s
  | none => .next s

/-- FETCH_COMPLETE: the active fetch decodes its entry into its record's tensor, or reports why it does not; a
fetch with free removes the entry that it has delivered (R240), which a rerun or the task run again finds again (R245). A tensor
outside the scratchpad and the pool is written behind the commit (assumption log 115). -/
def execFetchComplete (core : Nat) (s : State) : Host.Outcome State Fault Refusal :=
  let p := s.pasidOf core
  match (s.core core).eng.stashQ with
  | [] => .next s
  | o :: _ =>
    match o.cmd with
    | .fetch key d free =>
      let gone := fun (t : State) => if free then (t.modCtx p fun x => { x.dropEntry key with
        freed := x.freed ++ (x.entry? key).toList.map fun e => { entry := e, tid := o.tid, core := core, seg := o.seg } }).pumpFreed p else t
      if o.complete || s.cycle < o.doneAt then .next s
      else match (s.ctx p).entry? key with
        | none => .next (s.complete core o 0x03 0)
        | some e =>
          if e.state == .dropped then .next ((gone s).complete core o 0x05 e.handle)
          else if d.fmt != e.fmt || d.logical != e.sizes then .next (s.complete core o 0x06 0)
          else if d.badScale then .next (s.complete core o 0x45 0)
          else
            let (codes, flags) := e.decode
            let (ls, st) := s.checkOut core o.id d.lvl true (d.placeCodes codes)
            if (ls.any fun x => leaves x.1) && (!s.clearFor o.clearAt o.tid || s.heldUnder o.id (ls.map (·.1))) then .next s
            else
              let s1 := (s.writeOut core d.chip true [core] st ls).spendRemote [d]
              .next ((if st = 0 then gone s1 else s1).complete core o st (BitVec.ofNat 64 flags))
    | _ => .next s

end Sys2Proof.Machine
end

