-- ==== Sys2Proof/Machine/Create.lean ====
section
/-!
DEFINITION. The creation of tasks (R17-R19, R23, R242, R254, R259), the horizon and the frontier condition
(R256, R257).
-/
namespace Sys2Proof.Machine

/-- Are the 256 places of a stage taken (R23)? -/
def State.stageFull (s : State) (st : Nat) : Bool := decide (Config.maxInFlight ≤ (s.inFlight st).length)

/-- The next seq of an origin, counted (R254). -/
def State.takeSeq (s : State) (st origin : Nat) : Nat × State :=
  let n := Table.get (s.stage st).seqs 0 origin
  (n, s.modStage st fun g => { g with seqs := Table.put g.seqs origin (n + 1) })

def State.isLate (s : State) (st : Nat) (key : Key) : Bool := Key.lt key (s.stage st).commitPoint

/-- A task is created Ready; its stage evaluates in the next cycle. A B task asks for the return of its tag's
stash entries (R242). -/
def State.create (s : State) (st : Nat) (kind : TaskKind) (tag : Nat) (key : Key) (budget : Nat) (parent : Option (Nat × Nat))
    (tile : Option (Nat × Nat × Nat)) (stamp : Nat) : Nat × State :=
  let (tid, s1) := s.takeId
  let g := s.stage st
  let t : Task :=
    { stage := st, pasid := g.pasid, kind := kind, tag := tag, key := key, budget := budget, full := budget, parent := parent.map (·.1),
      parentRun := (parent.map (·.2)).getD 0, tile := tile, queuedAt := s.cycle, stamp := stamp }
  let s2 := (s1.setTask tid t).askEvaluation st (s.cycle + 1)
  (tid, if kind = .b then (s2.modStage st fun g => { g with lastB := some tag }).wantTags g.pasid [tag] else s2)

/-- The stage whose program declares an in-channel of a context (R17, R256). -/
def State.channelStage (s : State) (pasid chan : Nat) : Option Nat :=
  ((s.stages.filter fun (e : Nat × Stage) => e.2.valid && e.2.pasid == pasid && match e.2.prog with
    | some p => p.chans.any fun d => d.chan == chan
    | none => false).head?).map (·.1)

/-- The watermarks of a stage: none is undefined; the token's +∞ is left out (R256). -/
def State.watermarks (s : State) (st : Nat) : List (Option Nat) :=
  let g := s.stage st
  let x := s.ctx g.pasid
  match g.prog with
  | none => []
  | some p => (p.chans.map fun d =>
      let v := x.inChan d.chan
      if !v.valid then []
      else (List.range (v.nprod + 1)).filterMap fun q =>
        let w := v.producer q
        if w.token then none else some w.watermark).flatten

/-- Is a timestamp within the horizon: H defined and not below it? -/
def State.withinHorizon (s : State) (st ts : Nat) : Bool :=
  (s.watermarks st).all fun w => match w with
    | some h => decide (ts ≤ h)
    | none => false

/-- The task that meets the condition of R257, if any. -/
def State.frontierCandidate (s : State) (st : Nat) : Option Nat :=
  match earliest (s.inFlight st) with
  | some e => if s.withinHorizon st e.2.key.ts then some e.1 else none
  | none => none

end Sys2Proof.Machine
end

