-- ==== Sys2Proof/Machine/Channel.lean ====
section
/-!
DEFINITION. Tensor channels (R246-R251): sends, receives, end-of-stream tokens, and what arrives over the links.
-/
namespace Sys2Proof.Machine

/-! ### Sending (R247, R248, R250) -/

/-- `x.chsend`: at issue a place in the window is taken, for which it waits. A tile of the wrong size, or one after the
producer's own token, completes with the channel-protocol status and gives its place back. -/
def execChsend (g : Guard) (xs xg xt : BitVec 5) (chan : BitVec 6) (s : State) : Host.Outcome State Fault Refusal :=
  let p := s.pasidOf s.turn
  let c := chan.toNat
  let v := (s.ctx p).outChan c
  let tag := (s.cur.readXA xg).toNat
  let ts := (s.cur.readXA xt).toNat
  .next (match s.shapeAt xs with
    | none => s.command g (some 0x0F) none .atomic id []
    | some z =>
      let wrong := v.eossent || tensorBytes z != 128 * v.tilesz
      let hold := if s.speculative s.turn then some HoldCause.frontier else if v.upto ≤ v.taken then some .window else none
      let s1 := s.command g (if !v.valid || tag / 2 ^ 32 != 0 then some 0x0F else none) hold (.chsend z tag ts c)
        (fun o =>
          if wrong then { o with status := 0x4B, took := true }
          else if tracked z && s.tensorHeld s.turn o.id z false then { o with took := true }
          else
            let (es, st) := s.readTensor s.turn o.id z false
            { o with elems := es, status := st, started := true, took := true })
        (shapeOps z ++ leBytes 4 tag ++ leBytes 8 ts ++ leBytes 1 c)
      if !s.cur.on g || s1.cur.eng.chanQ.length ≤ s.cur.eng.chanQ.length then s1
      else s1.modCtx p fun x => x.setOut c { v with taken := v.taken + 1 })

/-- `x.cheos`: the token sets `eossent` at issue; a second one completes with the channel-protocol status. -/
def execCheos (g : Guard) (chan : BitVec 6) (s : State) : Host.Outcome State Fault Refusal :=
  let p := s.pasidOf s.turn
  let c := chan.toNat
  let v := (s.ctx p).outChan c
  let s1 := s.command g (if v.valid then none else some 0x0F) none (.cheos c)
    (fun o => if v.eossent then { o with status := 0x4B } else { o with took := true }) (leBytes 1 c)
  .next (if v.eossent || s1.cur.eng.chanQ.length ≤ s.cur.eng.chanQ.length then s1
    else s1.modCtx p fun x => x.setOut c { v with eossent := true })

/-- Arrivals for a context that is being saved, is saved or is coming back stay in the routers' buffers, in their order and with
their ports (R331). -/
def State.buffers (s : State) (pasid : Nat) : Bool :=
  s.gated pasid || (match Table.get? s.contexts pasid with
    | some x => !(x.phase == .active || x.phase == .stopping || x.phase == .destroying)
    | none => false)
def State.buffer (s : State) (pasid : Nat) (i : Instr) : State :=
  s.modLink fun k => { k with buffered := k.buffered ++ [(pasid, .event i)] }

/-- What a chip sends to itself arrives in the next cycle. -/
def State.arriveHere (s : State) (i : Instr) : State := { s with inputs := s.inputs ++ [(s.cycle + 1, i)] }

/-- May a send or a token of a core leave: its bundle is committed and strike-clear, and all that R205 puts before a release
has left (R206, R213)? -/
def State.sendClear (s : State) (core : Nat) (o : EngOp) : Bool :=
  let t := s.task? o.tid
  s.clearFor o.clearAt o.tid && s.releaseClear core o.id o.after ((t.map (·.stage)).getD 0) ((t.map (·.key)).getD {}) (s.pasidOf core)

/-- CHSEND_RELEASE: the oldest send or token of the channel queue leaves once its bundle is committed and
strike-clear and, for a tile, its bytes have moved (R406); a tile takes the producer's next sequence number then (R213, R248, R250). One that has no effect gives its
place back. -/
def execChsendRelease (core : Nat) (s : State) : Host.Outcome State Fault Refusal :=
  let p := s.pasidOf core
  match (s.core core).eng.chanQ with
  | [] => .next s
  | o :: _ =>
    if o.complete then .next s
    else match o.cmd with
    | .chsend z tag ts c =>
      let v := (s.ctx p).outChan c
      let back := (s.modCtx p fun x => x.setOut c { v with taken := v.taken - 1 }).complete core { o with took := false } o.status 0
      if o.status = 0x4B then .next back
      else if !s.sendClear core o then .next s
      else if !o.started then
        if s.tensorHeld core o.id z false || s.tensorUnclear core o z false then .next s
        else
          let (es, st) := s.readTensor core o.id z false
          .next (((s.spendRemote [z]).countRemote z).modCore core fun k => k.modEng fun e => e.setOp { o with elems := es, status := st, started := true })
      else if o.status != 0 then .next back
      else if o.doneAt = 0 then
        let (i, s1) := s.takeFree
        let out := if v.dchip = s.chipNo then 2 else 4
        .next (s1.modCore core fun k => k.modEng fun e => e.setOp
          { o with doneAt := s.cycle + 1 + pathCycles z.lvl out (tensorBytes z) + Config.freeDelay i })
      else if s.cycle < o.doneAt then .next s
      else
        let t : Tile := { pasid := p, chan := BitVec.ofNat 6 v.dchan, prod := BitVec.ofNat 4 v.prod, seq := v.nextSeq,
                          tag := BitVec.ofNat 32 tag, ts := BitVec.ofNat 64 ts, data := streamBytes z.fmt (o.elems.map (·.1)), stamp := o.stamp }
        let s1 := s.modCtx p fun x => x.setOut c { v with nextSeq := v.nextSeq + 1 }
        let s2 := if v.dchip = s.chipNo then s1.arriveHere (.tileArrival t) else s1.emit p (.tile v.dchip t)
        .next (s2.complete core { o with sent := true } 0 0)
    | .cheos c =>
      let v := (s.ctx p).outChan c
      if o.status = 0x4B then .next (s.complete core o 0x4B 0)
      else if !s.sendClear core o then .next s
      else
        let s1 := if v.dchip = s.chipNo then s.arriveHere (.eosTokenArrival { pasid := p, stamp := o.stamp } (BitVec.ofNat 6 v.dchan) (BitVec.ofNat 4 v.prod))
          else s.emit p (.token v.dchip p v.dchan v.prod o.stamp)
        .next (s1.complete core { o with sent := true } 0 0)
    | _ => .next s

/-! ### Receiving (R249) -/

/-- The tile that created a task, in its buffer slot. -/
def State.tileOf (s : State) (pasid chan tid : Nat) : Option TileSlot := (((s.ctx pasid).inChan chan).tiles.find? fun t => t.tid == some tid)

/-- The place in the chip scratchpad of a slot of a channel's receive buffer (R232, R246). -/
def State.bufferAt (s : State) (pasid : Nat) (v : InChan) (place : Nat) : Nat := (s.ctx pasid).xsbase + 128 * (v.buf + place * v.tilesz)

/-- Does a tile of some lines in the receive buffer hold poison (R371)? -/
def State.tilePoisoned (s : State) (a lines : Nat) : Bool := (List.range lines).any fun n => s.linePoisoned (granOf true (a + 128 * n))

/-- The bytes of the tile that created the task of the core in issue, and whether they are poisoned: from its buffer slot or,
in a rerun of a task that has committed, as they stood then (R249, R253, R367). -/
def State.tileHere (s : State) (p chan : Nat) : Option (List Byte × Bool) :=
  let v := (s.ctx p).inChan chan
  match s.tileOf p chan (s.cur.task.getD 0), s.taskOf s.turn with
  | some t, _ => let a := s.bufferAt p v t.place; some (s.xs.readBytes a (128 * v.tilesz), s.tilePoisoned a v.tilesz)
  | none, some k => if (k.tile.map (·.1)) == some chan then k.tileKept else none
  | none, none => none

/-- `x.chrecv`: copies the tile that created the issuing task. -/
def execChrecv (g : Guard) (xd : BitVec 5) (chan : BitVec 6) (s : State) : Host.Outcome State Fault Refusal :=
  let p := s.pasidOf s.turn
  let v := (s.ctx p).inChan chan.toNat
  let (i, s1) := s.takeFree
  .next (if !s.cur.on g then s else match s.shapeAt xd, s.tileHere p chan.toNat with
    | some d, some t =>
      s1.command g (if !v.valid || tensorBytes d != 128 * v.tilesz then some 0x0F else none) none (.chrecv d chan.toNat)
        (fun o =>
          { o with data := t.1, started := true,
                   status := if t.2 then 0x0C else 0, doneAt := s.cycle + 1 + pathCycles 2 d.lvl (128 * v.tilesz) + Config.freeDelay i })
        (shapeOps d ++ leBytes 1 chan.toNat)
    | _, _ => s.command g (some 0x0F) none .atomic id [])

/-- CHRECV_COMPLETE: the tile's bytes are written to the record's tensor, and the record posts; a receive that met poison
writes nothing (R357, R371). -/
def execChrecvComplete (core : Nat) (s : State) : Host.Outcome State Fault Refusal :=
  match (s.core core).eng.chanQ with
  | [] => .next s
  | o :: _ =>
    match o.cmd with
    | .chrecv d _ =>
      if o.complete || s.cycle < o.doneAt then .next s
      else if o.status != 0 then .next (s.complete core o o.status 0)
      else
        let (ls, st) := s.checkOut core o.id d.lvl true (d.placeCodes (streamCodes d.fmt d.count o.data))
        if (ls.any fun x => leaves x.1) && (!s.clearFor o.clearAt o.tid || s.heldUnder o.id (ls.map (·.1))) then .next s
        else .next (((s.writeOut core d.chip true [core] st ls).spendRemote [d]).complete core o st 0)
    | _ => .next s

/-! ### Arrivals (R248-R250, R256, R259, R394) -/

/-- The link endpoint receives a stamp. -/
def State.linkRecv (s : State) (stamp : Nat) : State := s.modLink fun k => { k with clock := stampRecv k.clock stamp }

/-- The place of a tile is free again: the producer's window opens by one. -/
def State.openWindow (s : State) (pasid chan p : Nat) : State :=
  let v := (s.ctx pasid).inChan chan
  let q := v.producer p
  (s.modCtx pasid fun x => x.setIn chan { v with prods := Table.put v.prods p { q with freed := q.freed + 1 } }).advertise
    pasid chan p (q.freed + 1 + v.win)

/-- A task that a tile created has committed: the tile's slot is freed (R249). -/
def State.tileCommitted (s : State) (pasid tid : Nat) (tile : Nat × Nat × Nat) : State :=
  match s.tileOf pasid tile.1 tid with
  | none => s
  | some t =>
    let v := (s.ctx pasid).inChan tile.1
    let at_ := s.bufferAt pasid v t.place
    let kept := (s.xs.readBytes at_ (128 * v.tilesz), s.tilePoisoned at_ v.tilesz)
    ((s.modTask tid fun x => { x with tileKept := some kept }).modCtx pasid fun x => x.setIn tile.1 { v with tiles := v.tiles.filter fun y => y.tid != some tid }).openWindow
      pasid tile.1 t.prod

/-- A tile or token of a channel that does not take it is discarded and logged (R246, R386). -/
def State.discardFlit (s : State) : State := s.logPair (logWord 5 0xFF 0xF 0 0x03) (stampWord 0 s.link.clock) none

/-- A tile in a buffer slot creates its task when its stage has a place (R17, R23). -/
def State.createFromTile (s : State) (st pasid chan : Nat) (t : TileSlot) : State :=
  if s.stageFull st then s
  else
    let v := (s.ctx pasid).inChan chan
    let kind : TaskKind := if v.kind then .b else .f
    let budget := Table.get ((s.stage st).prog.getD {}).budgets 0 kind.code
    let (tid, s1) := s.create st kind t.tag { ts := t.ts, origin := 256 + chan, seq := t.seq } budget none
      (some (chan, t.prod, t.number)) t.stamp
    s1.modCtx pasid fun x => x.setIn chan { x.inChan chan with tiles := (x.inChan chan).tiles.map fun y =>
      if y.prod == t.prod && y.number == t.number then { y with tid := some tid } else y }

/-- The slot that an arriving tile takes: one of the free slots of the buffer; which one is left open. -/
def InChan.freePlace (v : InChan) (i : Nat) : Nat :=
  let free := (List.range ((v.win + 1) * (v.nprod + 1))).filter fun n => !(v.tiles.any fun t => t.place == n)
  free.getD (Config.freeWord i % free.length) 0

/-- The payload of an arriving tile goes to its slot in the chip scratchpad. That of a poisoned flit is not written, and its
line is poisoned, so that it is not consumed (R356, R357). -/
def State.fillSlot (s : State) (a : Nat) (t : Tile) : State :=
  let lines := (List.range (t.data.length / 128)).map fun n => granOf true (a + 128 * n)
  let s1 := { s with poison := s.poison.filter fun g => !lines.contains g }
  if t.bad.isEmpty then { s1 with xs := s1.xs.writeBytes a t.data }
  else
    let flits := List.range (t.data.length / 64)
    let good := flits.filter fun n => !t.bad.contains n
    { s1 with xs := good.foldl (fun (m : Memory) n => m.writeBytes (a + 64 * n) ((t.data.drop (64 * n)).take 64)) s1.xs,
              poison := s1.poison ++ (flits.filter t.bad.contains).map fun n => granOf true (a + 64 * n) }

/-- TILE_ARRIVAL (R249): the tile creates a task, or is discarded as of the wrong size, late, or of a channel
that does not take it. Each producer's tiles are taken in the order of their sequence numbers, once each (R357). -/
def execTileArrival (t : Tile) (s : State) : Host.Outcome State Fault Refusal :=
  if s.recovery || !s.delivers t.port then .next s else
  let s := s.countFrom t.port (flitsOf t.data.length)
  if s.buffers t.pasid then .next (s.buffer t.pasid (.tileArrival t)) else
  let s := s.linkRecv t.stamp
  let c := t.chan.toNat
  let p := t.prod.toNat
  let v := (s.ctx t.pasid).inChan c
  match s.channelStage t.pasid c with
  | none => .next s.discardFlit
  | some st =>
    if !v.valid || v.nprod < p then .next s.discardFlit
    else
      let q := v.producer p
      let ts := t.ts.toNat
      let s := match q.early.find? fun (e : Tile) => t.seq = q.arrived && e.seq == q.arrived + 1 with
        | some e => s.arriveHere (.tileArrival e)
        | none => s
      let q1 : Producer := { q with arrived := q.arrived + 1, watermark := some (match q.watermark with | some w => Nat.max w ts | none => ts) }
      let q2 : Producer := { q1 with early := q.early.filter fun e => decide (q.arrived + 1 < e.seq) }
      let note := fun (s : State) (v : InChan) => s.modCtx t.pasid fun x => x.setIn c { v with prods := Table.put v.prods p q2 }
      if t.seq < q.arrived then .next s
      else if q.arrived < t.seq then
        let q3 : Producer := { q with early := if q.early.any (fun e => e.seq == t.seq) then q.early else q.early ++ [{ t with port := none }] }
        .next (s.modCtx t.pasid fun x => x.setIn c { v with prods := Table.put v.prods p q3 })
      else if t.data.length != 128 * v.tilesz then .next ((note s { v with err := true }).openWindow t.pasid c p)
      else
        let (seq, s1) := s.takeSeq st (256 + c)
        let key : Key := { ts := ts, origin := 256 + c, seq := seq }
        let kind : TaskKind := if v.kind then .b else .f
        if (match q.watermark with | some w => decide (ts ≤ w) | none => false) || s.isLate st key then
          .next (((note s1 v).raiseLate st key kind t.tag.toNat).openWindow t.pasid c p)
        else
          let (i, s2) := s1.takeFree
          let slot : TileSlot :=
            { prod := p, number := q.arrived, seq := seq, tag := t.tag.toNat, ts := ts, place := v.freePlace i, tid := none, stamp := s.link.clock }
          let s3 := (note s2 { v with tiles := v.tiles ++ [slot] })
          .next ((s3.fillSlot (s3.bufferAt t.pasid v slot.place) t).createFromTile st t.pasid c slot)

/-- EOS_TOKEN_ARRIVAL (R250, R246). -/
def execEosTokenArrival (via : Via) (chan : BitVec 6) (prod : BitVec 4) (s : State) : Host.Outcome State Fault Refusal :=
  let pasid := via.pasid
  if s.recovery || !s.delivers via.port then .next s else
  let s := s.countFrom via.port 1
  if s.buffers pasid then .next (s.buffer pasid (.eosTokenArrival via chan prod)) else
  let s := s.linkRecv via.stamp
  let v := (s.ctx pasid).inChan chan.toNat
  let p := prod.toNat
  .next (
    if !v.valid || v.nprod < p then s.discardFlit
    else s.modCtx pasid fun x => x.setIn chan.toNat { v with prods := Table.put v.prods p { v.producer p with token := true } })

/-- WINDOW_ADVERTISEMENT: the highest sequence number that the receiver accepts. A producer acts on the largest one that
it has received; one that arrives before the out-channel is set valid is kept. -/
def execWindowAdvertisement (via : Via) (out : BitVec 6) (upto : Nat) (s : State) : Host.Outcome State Fault Refusal :=
  let pasid := via.pasid
  if s.recovery || !s.delivers via.port then .next s else
  let s := s.countFrom via.port 1
  if s.buffers pasid then .next (s.buffer pasid (.windowAdvertisement via out upto)) else
  .next ((s.linkRecv via.stamp).modCtx pasid fun x => x.setOut out.toNat ((x.outChan out.toNat).opened upto))

end Sys2Proof.Machine
end

