-- ==== Sys2Proof/Machine/Reduce.lean ====
section
/-!
DEFINITION. Fabric reductions (R157-R165): contributions, the joining of partials in the fixed tree and in
arrival mode, and the close of a round.
-/
namespace Sys2Proof.Machine

/-- Do two partials belong to one round: contributions sent to different homes fall into separate rounds (R159)? -/
def sameRound (a b : Partial) : Bool := a.home == b.home && a.target == b.target && a.ctl == b.ctl

/-! ### Combine (R161) -/

/-- The greater of two values, +0 above -0; a NaN gives the default NaN. -/
def maxCode (f : Fmt) (a b : Nat) : Nat :=
  let x := decodeF f false a
  let y := decodeF f false b
  if x.isNaN || y.isNaN then f.defaultNaN
  else if ltV x y then b else if ltV y x then a else if x.neg? then b else a

def combineOne (op fmt : Nat) (a b : Word32) : Word32 :=
  if fmt = 3 then (if op = 0 then a + b else if a.toInt < b.toInt then b else a)
  else
    let f := if fmt = 1 then BF16 else FP32
    BitVec.ofNat 32 (if op = 0 then (addV f fixedMode (decodeF f false a.toNat) (decodeF f false b.toNat)).1 else maxCode f a.toNat b.toNat)

def combineLists (w1 : Nat) (x y : List Word32) : List Word32 := x.zipWith (combineOne (winOp w1) (winFmt w1)) y

/-- The node over two children, the left one with the lower indices (R157). -/
def joinParts (w1 : Nat) (x y : Partial) (lo span : Nat) : Partial :=
  { x with lo := lo, span := span, leaves := x.leaves ++ y.leaves, elems := combineLists w1 x.elems y.elems, poison := x.poison || y.poison,
           stamp := Nat.max x.stamp y.stamp }

/-- A partial enters the fixed tree over N leaves: it passes up where its sibling is absent, and joins its
sibling where that has arrived (R157, R163). -/
def enterTree (w1 N : Nat) : Nat → Partial → List Partial → List Partial
  | 0, p, ps => ps ++ [p]
  | f + 1, p, ps =>
    if p.lo = 0 && N ≤ p.span then ps ++ [p]
    else
      let right := p.lo / p.span % 2 == 1
      let sib := if right then p.lo - p.span else p.lo + p.span
      if !right && N ≤ sib then enterTree w1 N f { p with span := 2 * p.span } ps
      else match ps.find? fun q => sameRound q p && q.lo == sib && q.span == p.span with
        | none => ps ++ [p]
        | some q =>
          let rest := ps.filter fun x => !(sameRound x p && x.lo == sib && x.span == p.span)
          let n := if right then joinParts w1 q p sib (2 * p.span) else joinParts w1 p q p.lo (2 * p.span)
          enterTree w1 N f n rest

/-- Arrival mode: two partials chosen freely are joined in a freely chosen operand order, until one is left (R165). -/
def joinFreely (w1 : Nat) : Nat → Nat → List Partial → List Partial
  | 0, _, ps => ps
  | f + 1, i, ps =>
    match ps with
    | [] => []
    | [p] => [p]
    | p0 :: _ =>
      let a := Config.freeWord i % ps.length
      let x := ps.getD a p0
      let rest := ps.eraseIdx a
      let b := Config.freeWord (i + 1) % rest.length
      let y := rest.getD b p0
      let j := if Config.freeChoice i then joinParts w1 x y 0 0 else joinParts w1 y x 0 0
      joinFreely w1 f (i + 2) (j :: rest.eraseIdx b)

/-! ### Contributions (R160) -/

def readElems (m : Memory) (a n w : Nat) : List Word32 := (List.range n).map fun i => BitVec.ofNat 32 (m.readLE (a + w * i) w)

def execRedm (g : Guard) (xs xi : BitVec 5) (win : BitVec 6) (s : State) : Host.Outcome State Fault Refusal :=
  let p := s.pasidOf s.turn
  let w := (s.ctx p).window win.toNat
  let w1 := w.w1.toNat
  let a := (s.cur.readXA xs).toNat
  let i := (s.cur.readXA xi).toNat
  let bad := !winValid w1 || !(winOp w1 == 0 || winOp w1 == 1) || !(winFmt w1 == 0 || winFmt w1 == 1 || winFmt w1 == 3) ||
    a % 128 != 0 || decide (Config.spBytes < a + winElems w1 * winBytes w1) || i / 2 ^ 24 != 0 || decide (winCount w1 ≤ i)
  let s1 := s.command g (if bad then some 0x0F else none) none
    (.redm win.toNat i (readElems s.cur.sp a (winElems w1) (winBytes w1))) id (leBytes 1 win.toNat ++ leBytes 8 i ++ leBytes 8 a)
  let ops := s1.opsOf p
  let live := fun (x : Nat × Nat × Nat) => ops.any fun o => o.id == x.2.1
  .next (if s1.cur.eng.redQ.length ≤ s.cur.eng.redQ.length then s1
    else s1.modCtx p fun x => { x with windows := Table.modify x.windows {} win.toNat fun v =>
      { v with waiting := (v.waiting.filter fun y => y.2.2 != i || live y) ++ [(s.turn, s1.nextId - 1, i)] } })

/-! ### Rounds (R160, R163) -/

/-- Pieces of at most a line of some bytes at a virtual address, translated for a write to an RC page. -/
def State.targetPieces (s : State) (pasid va n : Nat) : List (Option (Option Piece)) :=
  (cutLines { pos := 0, addr := va, len := n }).map fun p => match translate s pasid p.addr with
    | none => none
    | some g => if g.w && g.kind == 1 then some (some { p with addr := g.pa }) else some none

/-- Has a contribution that waits for its record left its core? -/
def State.departed (s : State) (pasid : Nat) (x : Nat × Nat × Nat) : Bool := (s.opsOf pasid).any fun o => o.id == x.2.1 && o.sent

/-- Records of a round post: those of the contributions issued here that have left their core and that `f` picks (R160). One that
has not left its core stands for a later round, and one that was discarded keeps the round open until the contribution issued in
its place has posted (R159). -/
def State.postRound (s : State) (pasid win status : Nat) (f : Nat × Nat × Nat → Bool) : State :=
  let w := (s.ctx pasid).window win
  let gone := fun (x : Nat × Nat × Nat) => f x && s.departed pasid x
  let s1 := (w.waiting.filter gone).foldl (fun (s : State) x =>
    s.cores.foldl (fun (s : State) (e : Nat × Core) => match e.2.eng.redQ.find? fun o => o.id == x.2.1 && o.sent && !o.complete with
      | some o => s.complete e.1 o status 0
      | none => s) s) s
  s1.modCtx pasid fun x => { x with windows := Table.modify x.windows {} win fun v => { v with waiting := v.waiting.filter fun y => !gone y } }

/-- ROUND_CLOSE at the home chip: the merged result replaces the elements at the target, or nothing is written and every
record carries the fault's status; the round's records post, those of other chips by a notice (R160, R357). Where several statuses
apply, poison comes first, then a failed translation, then a page that is refused (assumption log 113). -/
def State.closeRound (s : State) (pasid win : Nat) (r : Partial) : State :=
  let w := (s.ctx pasid).window win
  let n := winBytes r.ctl.toNat
  let bytes := (r.elems.map fun e => leBytes n e.toNat).flatten
  let ps := s.targetPieces pasid r.target bytes.length
  let status : Nat := if r.poison then 0x0C else if ps.any (·.isNone) then 0x09 else if ps.any (· == some none) then 0x0A else 0
  let s1 := if status = 0 then ps.foldl (fun (s : State) q => match q with
      | some (some p) => s.homeWrite pasid { xs := false, addr := p.addr, bytes := (bytes.drop p.pos).take p.len, core := 0, seg := 0 }
      | _ => s) s else s
  let s2 := if r.leaves.all fun i => w.waiting.any fun y => y.2.2 == i && s.departed pasid y then s1 else s1.emit pasid (.closed pasid win status none)
  (s2.modCtx pasid fun x => { x with windows := Table.modify x.windows {} win fun v =>
    { v with partials := v.partials.filter fun q => !sameRound q r } }).postRound pasid win status fun y => r.leaves.contains y.2.2

/-- The home chip of a contribution, which this chip's own entry for the target names (R159). Where that entry does not
translate, the model takes this chip, whose memory port then closes the round with status 0x09 (assumption log 83). -/
def State.homeOf (s : State) (pasid win : Nat) : Nat :=
  match translate s pasid ((s.ctx pasid).window win).w0.toNat with
  | some g => g.home
  | none => s.chipNo

/-- A partial enters its round on this chip, which needs no entry of its own for that. At the home chip it is joined and kept
until the round closes; elsewhere it is joined with the partials of this chip and leaves with them some cycles later (R159,
R163, R165). -/
def State.enterRound (s : State) (pasid win : Nat) (p : Partial) : State :=
  let w := (s.ctx pasid).window win
  let w1 := p.ctl.toNat
  let N := winCount w1
  let put := fun (s : State) (ps : List Partial) => s.modCtx pasid fun x => { x with windows := Table.put x.windows win { w with
    present := if p.home = s.chipNo then w.present.filter (fun i => !p.leaves.contains i) else w.present, partials := ps } }
  let ps := if bitAt w1 62 then w.partials ++ [p] else enterTree w1 N 26 p w.partials
  if p.home != s.chipNo then
    let (i, s1) := s.takeFree
    let flush : Partial := { lo := 0, span := 0, leaves := [], elems := [], poison := true }
    let s2 := put s1 ps
    { s2 with inputs := s2.inputs ++ [(s.cycle + 1 + Config.freeDelay i, .partialArrival { pasid := pasid } (BitVec.ofNat 6 win) flush)] }
  else if bitAt w1 62 then
    let mine := ps.filter (sameRound p)
    if N ≤ ((mine.map fun q => q.leaves.length).sum) then
      let (i, s1) := s.takeFree
      match joinFreely w1 mine.length i mine with
      | r :: _ => (put { s1 with free := s1.free + 2 * mine.length } ps).closeRound pasid win r
      | [] => s1
    else put s ps
  else
    match ps.find? fun q => sameRound q p && q.lo == 0 && decide (N ≤ q.span) with
    | some r => (put s ps).closeRound pasid win r
    | none => put s ps

/-- Does an index stand in the open round of a contribution: it has come to the home chip, or has left this one or waits to
(R160)? -/
def State.stands (s : State) (w : Window) (p : Partial) (i : Nat) : Bool :=
  w.present.contains i || (p.home == s.chipNo && w.partials.any fun q => sameRound q p && q.leaves.contains i)

/-- The partials that a chip holds for another home leave for it; in arrival mode joined first, or each by itself. -/
def State.flushPartials (s : State) (pasid win : Nat) : State :=
  let w := (s.ctx pasid).window win
  let away := w.partials.filter fun q => q.home != s.chipNo
  let rounds := away.foldl (fun (l : List Partial) q => if l.any (sameRound q) then l else l ++ [q]) []
  rounds.foldl (fun (s : State) r =>
    let mine := away.filter (sameRound r)
    let (i, s1) := s.takeFree
    let joined := bitAt r.ctl.toNat 62 && Config.freeChoice i
    let ps := if joined then joinFreely r.ctl.toNat mine.length (i + 1) mine else mine
    ps.foldl (fun (s : State) p => s.emit pasid (.part p.home pasid win p)) { s1 with free := s1.free + 2 * mine.length })
    (s.modCtx pasid fun x => { x with windows := Table.put x.windows win { w with partials := w.partials.filter fun q => q.home == s.chipNo } })

/-- PARTIAL_ARRIVAL (R160, R162, R163). With leaves: a partial from a link. Without leaves (assumption log 84): a status in
`elems` is the home chip's notice that a round has closed, or, with `span` = i + 1, that index i has been refused; on
this chip itself `poison` marks the departure of its partials, and otherwise operation `span` of core `lo` contributes,
once its bundle is committed and strike-clear; during a gang switch it waits in the outbound queue (R331). -/
def execPartialArrival (via : Via) (win : BitVec 6) (p : Partial) (s : State) : Host.Outcome State Fault Refusal :=
  let pasid := via.pasid
  if s.recovery || !s.delivers via.port then .next s else
  let s := s.countFrom via.port (flitsOf (4 * p.elems.length))
  let w := (s.ctx pasid).window win.toNat
  if p.leaves.isEmpty && p.elems.isEmpty && !p.poison then
    match (s.core p.lo).eng.redQ with
    | [] => .next s
    | o :: _ =>
      match o.cmd with
      | .redm n i es =>
        if via.port.isSome || o.id != p.span || o.sent || o.complete || n != win.toNat || !s.clearFor o.clearAt o.tid then .next s
        else if s.stands w { lo := i, span := 1, leaves := [i], elems := [], poison := false, home := s.homeOf pasid n, target := w.w0.toNat, ctl := w.w1 } i then
          .next ((s.modCtx pasid fun x => { x with windows := Table.put x.windows n { w with
            waiting := w.waiting.filter fun y => y.2.1 != o.id } }).complete p.lo o 0x01 0)
        else
          let q : Partial := { lo := i, span := 1, leaves := [i], elems := es, poison := false, stamp := o.stamp,
                               home := s.homeOf pasid n, target := w.w0.toNat, ctl := w.w1 }
          let s1 := s.modCore p.lo fun k => k.modEng fun e => e.setOp { o with sent := true }
          let s2 := if s.gated pasid || q.home != s.chipNo then
              s1.modCtx pasid fun x => { x with windows := Table.put x.windows n { w with present := w.present ++ [i] } }
            else s1
          .next (if s.gated pasid then s2.modLink fun k => { k with outbound := k.outbound ++ [(pasid, .part s.chipNo pasid n q)] }
            else s2.enterRound pasid n q)
      | _ => .next s
  else if s.buffers pasid then .next (s.buffer pasid (.partialArrival via win p))
  else match p.leaves, p.elems with
    | [], [] => .next (s.flushPartials pasid win.toNat)
    | [], st :: _ =>
      let s1 := s.linkRecv via.stamp
      if p.span = 0 then
        .next ((s1.modCtx pasid fun x => { x with windows := Table.put x.windows win.toNat { w with
          present := [] } }).postRound pasid win.toNat st.toNat fun _ => true)
      else .next (s1.postRound pasid win.toNat st.toNat fun y => y.2.2 + 1 == p.span)
    | _, _ =>
      let s1 := s.linkRecv p.stamp
      if p.home == s.chipNo && p.leaves.any (s.stands w p) then
        .next (p.leaves.foldl (fun (s : State) i => s.emit pasid (.closed pasid win.toNat 0x01 (some i))) s1)
      else .next (s1.enterRound pasid win.toNat p)

end Sys2Proof.Machine
end

