-- ==== Sys2Proof/Machine/Tasks.lean ====
section
/-!
DEFINITION. The life of a task: the task instructions of the Y slot (R271-R275), leaving the cores (R24, R273,
R284, R297), the frontier, commit and retirement (R257, R264, R268), conflict aborts (R265), eviction (R269), held
creating events (R23), budgets (R21) and the counter bank (R306-R309).
-/
namespace Sys2Proof.Machine

/-! ### Team slots (R15, R319, R367) -/

def teamCores (team cl slot : Nat) : List Nat := (List.range team).map fun i => 8 * cl + slot * team + i

/-- The team slots of a stage in ascending order of cluster and slot. -/
def Stage.slots (g : Stage) : List (Nat × Nat) :=
  let cs := (List.range 24).filter fun c => g.clusters.contains c
  (cs.map fun c => (List.range (8 / Nat.max 1 g.team)).map fun j => (c, j)).flatten

def Task.holdsSlot (t : Task) : Bool := t.state == .running || t.state == .waiting || t.swap != .none || t.leaving.isSome

def State.slotBusy (s : State) (st : Nat) (x : Nat × Nat) : Bool :=
  let g := s.stage st
  g.lost.contains (8 * x.1 + x.2) || !(s.clu x.1).inService ||
  ((teamCores g.team x.1 x.2).any fun c => (s.core c).task.isSome || decide (s.cycle < (s.core c).rcv.keepUntil) || (s.core c).retired) ||
  s.tasks.any fun (e : Nat × Task) => e.2.stage == st && e.2.inFlight && e.2.holdsSlot && e.2.cluster == x.1 && e.2.slot == x.2

def State.freeSlots (s : State) (st : Nat) : List (Nat × Nat) := (s.stage st).slots.filter fun x => !s.slotBusy st x

/-! ### Spawn and frd (R272, R275) -/

/-- `y.spawn`. The reruns of a task that has left its cores create nothing (R272, R367). -/
def execSpawn (g : Guard) (sk st sb : BitVec 6) (s : State) : Host.Outcome State Fault Refusal :=
  let k := s.cur
  let kv := (k.readSReg sk.toNat).toNat
  let ts := (k.readSReg st.toNat).toNat
  let bv := (k.readSReg sb.toNat).toNat
  let kind := TaskKind.ofCode (bits kv 32 2)
  let own := sb.toNat != 0
  let budget := if own then bv else Table.get (s.progOf s.turn).budgets 0 kind.code
  let stage := s.stageOf s.turn
  let quiet := match k.rcv.rerun with | some r => r.left | none => false
  .next (match s.taskOf s.turn with
    | none => s
    | some t =>
      if !k.on g then s
      else if kv / 2 ^ 34 != 0 || ts ≤ t.key.ts || budget = 0 || (own && bv / 2 ^ 48 != 0) then s.issueFault .y 0x0F
      else if !quiet && s.stageFull stage then s.holdFor .y .place
      else
        let s1 := (s.sendStamp s.turn).modCur fun q => q.modEng fun e => { e with spawnSeq := e.spawnSeq + 1 }
        let s2 := if quiet then s1
          else (s1.create stage kind (bits kv 0 32) { ts := ts, origin := s.turn, seq := k.eng.spawnSeq } budget
            (some (k.task.getD 0, t.run)) none (s1.stampOf s.turn)).2
        s2.sigEffect .y 9 0 (leBytes 8 kv ++ leBytes 8 ts ++ leBytes 8 budget))

def execFrd (g : Guard) (d : SDst) (s : State) : Host.Outcome State Fault Refusal :=
  .next (if s.cur.on g then s.pushS .y 2 d (s.frontierReg (s.stageOf s.turn)) else s)

/-- `y.frd.own`. -/
def execFrdOwn (g : Guard) (d : SDst) (s : State) : Host.Outcome State Fault Refusal :=
  .next (if s.cur.on g then s.pushS .y 2 d (BitVec.ofNat 64 (bit (s.isFrontier s.tidHere))) else s)

/-! ### End and abort (R229, R273, R274, R284) -/

/-- Has every engine operation of a task posted its record or been held? -/
def State.recordsSettled (s : State) (t : Nat) : Bool :=
  (s.coresOf t).all fun c => (s.core c).eng.ops.all fun o => o.complete || o.tid != t

/-- The oldest unpopped record with a fault status in the event queues of some cores: core, code, operation. -/
def State.faultRecord (s : State) (cs : List Nat) : Option (Nat × Nat × Nat) :=
  (cs.filterMap fun c => ((s.core c).eng.evq.find? fun r => (recordFault r.w0).isSome).map
    fun r => (c, (recordFault r.w0).getD 0, r.op)).head?

def State.dropRecord (s : State) (c op : Nat) : State :=
  s.modCore c fun k => k.modEng fun e => { e with evq := e.evq.filter fun r => r.op != op }.takeHeld

/-- `y.tend` (R229, R273): the issuing core's queue is searched first, then the other ranks'. -/
def execTend (g : Guard) (s : State) : Host.Outcome State Fault Refusal :=
  let t := s.tidHere
  let team := s.coresOf t
  .next (
    if !s.cur.on g then s
    else if !s.recordsSettled t then s.holdFor .y .records
    else match s.faultRecord (s.turn :: team.filter (· != s.turn)) with
      | some (c, code, op) => (s.dropRecord c op).execFault .y code
      | none =>
        ((team.foldl (fun (s : State) c => s.modCore c fun k => k.modSeq fun q => { q with ended := true }) s).modTask t
          fun x => { x with ender := some s.cur.rank }).sigEffect .y 10 0 [])

/-- `y.tabort`: the frontier task may not; the other slots of the bundle are discarded with the task, which aborts in this
cycle: the other cores of its team and its children still issue in it (R267, R274). -/
def execTabort (g : Guard) (s : State) : Host.Outcome State Fault Refusal :=
  .next (
    if !s.cur.on g then s
    else if s.isFrontier s.tidHere then s.issueFault .y 0x0F
    else (s.abortLater s.tidHere true true).modCur fun k => k.modSeq fun q => { q with ended := true })

/-- No result of a core is in flight any more. -/
def Core.landed (k : Core) : Bool := k.seq.flight.isEmpty && k.seq.gloads.isEmpty && k.eng.ldmc.isNone

/-- The cores of an ended or aborted task give it up, and its entries of the wait tables go (R304). -/
def State.releaseTeam (s : State) (t : Nat) (keep : Bool) : State :=
  (s.coresOf t).foldl (fun (s : State) c =>
    let rank := (s.core c).rank
    let s1 := (((s.closeSegment c).flushUn c).dropMemberships c t rank none keep).modClu (clusterOf c) fun k =>
      { k with waits := k.waits.filter fun w => w.tid != t }
    (s1.releaseCore c).modCore c fun k => k.modRcv fun r =>
      { r with seg := r.seg + 1, rerun := none, deps := [], last := some t,
               keepUntil := if keep then s.cycle + Config.sounderBound else 0,
               rps := if keep then (r.rps.take 1).map fun p => { p with freedAt := some (s.cycle + Config.sounderBound) } else [] }) s

/-- TASK_LEAVES_CORES (R24, R273, R284): an aborted task once its results have landed; a task whose last core
has halted takes the check of R229 at the one that halted last, of those in one cycle the highest-numbered (assumption log
106); an ended task W after the entries of its last segments, or after the reruns that it
owes (R367). A record is not dropped while an earlier fault of the task is still to be delivered. -/
def execTaskLeavesCores (tid : Nat) (s : State) : Host.Outcome State Fault Refusal :=
  let cs := s.coresOf tid
  match s.task? tid with
  | none => .next s
  | some t =>
    if cs.isEmpty || t.event.isSome || (t.leaving.isNone && t.swap != .none) || !(cs.all fun c => (s.core c).landed) || cs.any s.unStuck then .next s
    else match t.leaving with
    | some _ =>
      .next (((s.releaseTeam tid false).modTask tid fun x => { x with leaving := none }).askEvaluation t.stage s.cycle)
    | none =>
      let halts := t.ender.isNone && cs.all fun c => (s.core c).seq.halted
      if !halts && t.ender.isNone then .next s
      else if !s.recordsSettled tid || t.deferred.isSome then .next s
      else
        let last := cs.foldl (fun b d => if (s.core b).seq.haltAt ≤ (s.core d).seq.haltAt then d else b) (cs.headD 0)
        match s.faultRecord (last :: cs.filter (· != last)) with
        | some (c, code, op) =>
          .next ((s.dropRecord c op).takeFault { code := code, core := last, slot := 0, addr := (s.core last).seq.haltPc, atExec := true, safe := true })
        | none =>
          let aged := cs.all fun c => decide ((s.core c).rcv.segStart + Config.W ≤ s.cycle)
          if cs.any fun c => (s.core c).rcv.rerun.isSome then
            .next (cs.foldl (fun (s : State) c =>
              if (s.core c).rcv.rerun.isSome && decide ((s.core c).rcv.segStart + Config.W ≤ s.cycle) then (s.endRun c).2 else s) s)
          else if t.state == .ended || t.state == .committed then
            .next ((s.releaseTeam tid true).askEvaluation t.stage (s.cycle + Config.sounderBound))
          else if !aged then .next s
          else
            let lead := match t.ender with | some r => (cs.find? fun c => (s.core c).rank == r).getD last | none => last
            .next (((s.releaseTeam tid true).modTask tid fun x => { x with state := .ended, ender := none, lead := lead }).askEvaluation
              t.stage (s.cycle + Config.sounderBound))

/-! ### Frontier, commit, retirement (R257, R264-R268) -/

/-- The granule that a write lies in: writes are cut at line boundaries. -/
def Write.gran (w : Write) : Nat := granOf w.xs w.addr

/-- One cycle of a commit burst: the next 64 granules of the task's writes, in issue order (R264, R265); where the breakwater has
no free entry for them, the burst takes a cycle more (R378). -/
def State.burst (s : State) (tid : Nat) : State :=
  match s.task? tid with
  | none => s
  | some t =>
    let gs := ((t.wlog.map Write.gran).dedup).take 64
    let now := t.wlog.filter fun w => gs.contains w.gran
    let full := ((now.map fun w => clusterOf w.core).dedup).any fun cl => s.noRoom cl (entryKeys (now.filter fun w => clusterOf w.core == cl))
    if full then s.modStage t.stage fun g => { g with burstEnd := g.burstEnd + 1 }
    else
    let s1 := (s.commitGranules t.stage gs).modTask tid fun x => { x with wlog := x.wlog.filter fun w => !gs.contains w.gran }
    now.foldl (fun (s : State) w =>
      (if w.un then s.modCore w.core fun k => k.modEng fun e => updateLine e w else s).hold1 (clusterOf w.core) t.stage t.pasid t.key w) s1

/-- The recorded fault of a task that is the frontier task is delivered once its writes are committed (R270), and not before the
event that the task's stream already stands stopped for has its answer (DEDUCED; assumption log 124). -/
def State.deliverDeferred (s : State) (tid : Nat) : State :=
  match s.task? tid with
  | some t => match t.deferred with
    | some f => if t.wlog.isEmpty && t.event.isNone then (s.modTask tid fun x => { x with deferred := none }).deliverFault tid f else s
    | none => s
  | none => s

/-- A task held back after `y.tabort` may be dispatched from now on, and its age counts from now on (R268). -/
def State.unhold (s : State) (st : Nat) (f : Nat → Bool) : State :=
  let ts := (s.inFlight st).filter fun e => e.2.heldBack && f e.1
  if ts.isEmpty then s
  else (ts.foldl (fun (s : State) e => s.modTask e.1 fun x => { x with heldBack := false, agedAt := some s.cycle }) s)

/-- FRONTIER_ADVANCE: the earliest in-flight task becomes the frontier task and begins its commit burst; or the
frontier task's burst goes on (R257, R264). A task that has been told to abort in this cycle does not become it (R29). A frontier task that no longer meets R257, because H has become undefined or
has fallen below it, is the frontier task no more. -/
def execFrontierAdvance (stage : Nat) (s : State) : Host.Outcome State Fault Refusal :=
  let g := s.stage stage
  match g.frontier with
  | some t => .next (if s.frontierCandidate stage != some t then s.modStage stage fun g => { g with frontier := none }
      else (if ((s.task? t).map fun (x : Task) => x.wlog.isEmpty).getD true then s else s.burst t).deliverDeferred t)
  | none =>
    match s.frontierCandidate stage with
    | none => .next s
    | some t =>
      if g.lastRetire == some s.cycle || ((s.task? t).bind fun (x : Task) => x.abortDue).isSome then .next s
      else
        let x := (s.task? t).getD { stage := stage, pasid := 0, kind := .f, tag := 0, key := {}, budget := 0, full := 0 }
        let b := (((x.wlog.map Write.gran).dedup).length + 63) / 64
        let s1 := (s.modStage stage fun g => { g with frontier := some t, commitPoint := x.key, burstEnd := s.cycle + b }).modTask t
          fun x => { x with lines := [], heldBack := false, agedAt := if x.heldBack then some s.cycle else x.agedAt }
        .next ((s1.burst t).deliverDeferred t)

/-- A commit is a sending event of the core that ended the task, which no rewind takes back (R394; assumption log 102). -/
def State.commitStamp (s : State) (c : Nat) : State :=
  let s1 := s.sendStamp c
  s1.modCore c fun k => k.modRcv fun r => { r with rps := r.rps.map fun p =>
    { p with lclock := BitVec.ofNat 40 (Nat.max p.lclock.toNat (s1.stampOf c)) } }

/-- TASK_RETIRE: the ended frontier task retires in the last cycle of its burst; a B task creates its W task, which the
commit stamps (R17, R18, R264, R394); its tile's slot is freed (R249). -/
def execTaskRetire (stage : Nat) (s : State) : Host.Outcome State Fault Refusal :=
  let g := s.stage stage
  match g.frontier.bind fun t => (s.task? t).map fun x => (t, x) with
  | none => .next s
  | some (tid, t) =>
    if t.state != .ended || !t.wlog.isEmpty || t.event.isSome || s.cycle + 1 < g.burstEnd || g.lastRetire == some s.cycle then .next s
    else
      let s1 := ((s.commitStamp t.lead).modTask tid fun x => { x with state := .committed, committedAt := s.cycle }).modStage stage
        fun g => { g with frontier := none, lastRetire := some s.cycle }
      let s2 := match t.tile with | some q => s1.tileCommitted t.pasid tid q | none => s1
      let s3 := s2.unhold stage fun _ => true
      if t.kind != .b then .next s3
      else
        let (seq, s4) := s3.takeSeq stage 511
        let p := g.prog.getD {}
        let w := Table.get p.budgets 0 TaskKind.w.code
        if w = 0 then .next s4
        else .next (s4.create stage .w t.tag { ts := Nat.min (t.key.ts + p.woffset) (2 ^ 64 - 1), origin := 511, seq := seq } w none none (s4.stampOf t.lead)).2

/-- CONFLICT_ABORT (R265): at the end of a cycle, every later task of the stage that holds a committed granule in
its read set aborts, and is re-created. -/
def State.conflictAborts (s : State) : State :=
  s.stages.foldl (fun (s : State) (e : Nat × Stage) =>
    if e.2.committed.isEmpty then s
    else
      let s1 := s.modStage e.1 fun g => { g with committed := [] }
      let hit := (s.inFlight e.1).filter fun x => Key.lt e.2.commitPoint x.2.key && x.2.lines.any fun l => l.rd && e.2.committed.contains l.gran
      hit.foldl (fun (s : State) x => match s.task? x.1 with
        | some t => if t.inFlight && t.run == x.2.run then s.abortTask x.1 true false else s
        | none => s) s1) s

/-- FRONTIER_EVICTION (R269): once the earliest task has stood for 4,096 cycles without a free slot, the latest
task that holds one aborts; again every 4,096 cycles. A task held back after `y.tabort` is free for dispatch once it is
the earliest in-flight task (R268). -/
def execFrontierEviction (stage : Nat) (s : State) : Host.Outcome State Fault Refusal :=
  let first := (earliest (s.inFlight stage)).map (·.1)
  let s0 := s.unhold stage fun x => first == some x
  match s.frontierCandidate stage with
  | none => .next s0
  | some t =>
    let waits := match s.task? t with
      | some x => (x.state == .ready || x.state == .swapped) && x.leaving.isNone
      | none => false
    if !waits || !(s.freeSlots stage).isEmpty then
      .next ((s0.modTask t fun x => { x with waitSince := none }).modStage stage fun g => { g with evictAt := none })
    else match ((s.task? t).bind fun (x : Task) => x.waitSince) with
      | none => .next (s0.modTask t fun x => { x with waitSince := some s.cycle })
      | some w =>
        let due := match (s.stage stage).evictAt with | some e => e + Config.evictCycles | none => w + Config.evictCycles
        let holders := (s.inFlight stage).filter fun e => e.1 != t && e.2.holdsSlot && e.2.leaving.isNone
        if s.cycle < due then .next s0
        else match latest holders with
          | some e => .next ((s0.abortTask e.1 true false).modStage stage fun g => { g with evictAt := some s.cycle })
          | none => .next s0

/-! ### Held creating events and budgets (R21, R23) -/

/-- A counter's successor becomes a task, or is late (R259, R308). -/
def State.enqueueSuccessor (s : State) (su : Successor) (seq : Nat) : State :=
  let key : Key := { ts := su.ts, origin := 384, seq := seq }
  if s.isLate su.stage key then s.raiseLate su.stage key su.kind su.tag
  else if s.stageFull su.stage then s.modStage su.stage fun g => { g with waiting := g.waiting ++ [(su, seq)] }
  else (s.create su.stage su.kind su.tag key su.budget none none su.stamp).2

/-- HELD_CREATING_EVENT: a place is free: the oldest tile that waits in a channel of the stage becomes a task, or is late by
now (R259), and otherwise the oldest counter enqueue. -/
def execHeldCreatingEvent (stage : Nat) (s : State) : Host.Outcome State Fault Refusal :=
  let g := s.stage stage
  let p := g.prog.getD {}
  if s.stageFull stage then .next s
  else match (p.chans.filterMap fun d => (((s.ctx g.pasid).inChan d.chan).tiles.find? fun t => t.tid.isNone).map fun t => (d.chan, t)).head? with
    | some (c, t) =>
      let key : Key := { ts := t.ts, origin := 256 + c, seq := t.seq }
      let v := (s.ctx g.pasid).inChan c
      .next (if !s.isLate stage key then s.createFromTile stage g.pasid c t
        else (((s.modCtx g.pasid fun x => x.setIn c { v with tiles := v.tiles.filter fun y => !(y.prod == t.prod && y.number == t.number) }).raiseLate
          stage key (if v.kind then .b else .f) t.tag).openWindow g.pasid c t.prod))
    | none => match g.waiting with
      | (su, seq) :: rest => .next ((s.modStage stage fun g => { g with waiting := rest }).enqueueSuccessor su seq)
      | [] => .next s

/-- BUDGET_EXHAUSTED (R21, R323, R386): never deferred; the stream stops in place and the handler is asked. -/
def execBudgetExhausted (tid : Nat) (s : State) : Host.Outcome State Fault Refusal :=
  match s.task? tid with
  | none => .next s
  | some t =>
    if t.budget != 0 || t.event.isSome || t.leaving.isSome || !t.inFlight then .next s
    else match (s.coresOf tid).find? fun c => (s.core c).rank = 0 with
      | none => .next s
      | some c =>
        let pc := (s.core c).seq.pc
        .next ((s.logCore 1 c 15 pc 0x08 false).raiseEvent tid { code := 0x08, core := c, slot := 15, addr := pc, budgetOut := true })

/-! ### The counter bank (R306-R309) -/

/-- A decrement at a count of 0 is reported, with the context and the stamp of its operation (R387); a task that still holds its
cores stops in place (R309). -/
def State.counterUnderflow (s : State) (o : CounterOp) : State :=
  let pasid := match s.task? o.tid with | some t => t.pasid | none => s.pasidOf o.core
  let s1 := s.logPair (logWord 1 o.core 8 o.addr.toNat 0x07) (stampWord pasid o.stamp) none
  match s.task? o.tid with
  | none => s1
  | some t =>
    let ev : HandlerEvent := { code := 0x07, core := o.core, slot := 8, addr := o.addr }
    if (s.coresOf o.tid).isEmpty || t.event.isSome then s1.modHost fun h => { h with handlerRecords := h.handlerRecords ++
        [{ stage := t.stage, key := t.key, kind := t.kind, tag := t.tag, code := 0x07, trap := 0, addr := o.addr, slot := 8,
           budgetLeft := t.budget }] }
    else s1.raiseEvent o.tid ev

def State.performCounter (s : State) (o : CounterOp) : State :=
  let s0 := { s with bankClock := Nat.max s.bankClock o.stamp }
  let c := Table.get s.counters {} o.counter
  let put := fun (x : Counter) => { s0 with counters := Table.put s0.counters o.counter x }
  match o.set with
  | some (n, su) => put { count := BitVec.ofNat 24 n, armed := true, succ := some su }
  | none =>
    if c.count = 0 then s0.counterUnderflow o
    else
      let n := c.count - 1
      match n = 0 && c.armed, c.succ with
      | true, some su =>
        let (seq, s1) := (put { c with count := n, armed := false }).takeSeq su.stage 384
        s1.enqueueSuccessor { su with stamp := s1.bankClock } seq
      | _, _ => put { c with count := n }

/-- The operations of a stage that may be performed now, in sequence order: one decrement in a cycle, and the
sets before it (R405). -/
def State.performCounters (s : State) (st : Nat) (decs : Nat) : Nat → State
  | 0 => s
  | f + 1 =>
    let g := s.stage st
    match g.ctrOps.find? fun o => o.number == g.ctrDone with
    | none => s
    | some o =>
      let clear := match o.clearAt with | some t => decide (t ≤ s.cycle) | none => false
      if !clear || (o.set.isNone && decs == 0) then s
      else ((s.modStage st fun g => { g with ctrDone := g.ctrDone + 1, ctrOps := g.ctrOps.filter fun x => x.number != o.number }).performCounter
        o).performCounters st (if o.set.isNone then decs - 1 else decs) f

/-- DCTR_PERFORM: strike-clear counter operations of a stage are performed at the bank in sequence order. -/
def execDctrPerform (stage : Nat) (s : State) : Host.Outcome State Fault Refusal :=
  .next (s.performCounters stage 1 (s.stage stage).ctrOps.length)

end Sys2Proof.Machine
end

