-- ==== Sys2Proof/Machine/Sched.lean ====
section
/-!
DEFINITION. The stage scheduler (R316-R322): ready queues, the tide table, evaluation and dispatch; the publication
of the dies' classes (R310, R322); and the answers of the stage handler (R323, R324).
-/
namespace Sys2Proof.Machine

/-! ### Ready queues (R316) -/

/-- Does a task stand in its queue: Ready, or Swapped with its wait satisfied, though it may still be on its way out of its
cores (R268, R316, R326)? -/
def Task.queued (t : Task) : Bool := t.inFlight && (t.state == .ready || (t.state == .swapped && t.resumable))

/-- May a queued task be chosen: it is not held back, and nothing of its former run is left on its cores (R268, R327)? -/
def Task.free (t : Task) : Bool := !t.heldBack && t.leaving.isNone && t.swap == .none && t.abortDue.isNone

def State.queuedTasks (s : State) (st : Nat) : List (Nat × Task) := (s.inFlight st).filter fun e => e.2.queued
def occupancy (q : List (Nat × Task)) (k : TaskKind) : Nat := (q.filter fun e => e.2.kind == k).length
/-- Tasks of a kind that are Running or Waiting. -/
def State.holding (s : State) (st : Nat) (k : TaskKind) : Nat :=
  ((s.inFlight st).filter fun e => e.2.kind == k && (e.2.state == .running || e.2.state == .waiting)).length

/-! ### The tide table (R317, R318) -/

structure Tide where
  valid : Bool
  kind : TaskKind
  force : Bool
  idle : Bool
  prio : Nat
  hmask : Nat
  tmask : Nat
  qmin : Nat
  hmax : Nat
  okind : TaskKind
  othr : Nat
  sready : Bool
  look : Nat
  deriving DecidableEq, Repr

def decTide (w : Nat) : Tide :=
  { valid := bitAt w 63, kind := TaskKind.ofCode (bits w 61 2), force := bitAt w 60, idle := bitAt w 59, prio := bits w 56 3,
    hmask := bits w 52 4, tmask := bits w 48 4, qmin := bits w 40 8, hmax := bits w 32 8, okind := TaskKind.ofCode (bits w 30 2),
    othr := bits w 24 6, sready := bitAt w 23, look := bits w 16 7 }

/-- A write of an entry that is accepted. -/
def tideOk (w : Nat) : Bool :=
  let e := decTide w
  w % 2 ^ 16 == 0 && (!e.idle || (e.kind == .f && !e.force && e.prio == 0 && e.qmin == 0 && e.hmax == 0 && e.okind == .f &&
    e.othr == 0 && !e.sready && e.look == 0)) && (e.kind == .b || (!e.force && !e.sready && e.look == 0))

def stagectlOk (w : Nat) : Bool := w / 2 ^ 32 != 0

/-- The classes of a die as an evaluation of this cycle sees them. -/
def State.classOf (s : State) (d : Die) : Nat × Nat :=
  match d.before with
  | some (c, h, t) => if c = s.cycle then (h, t) else (d.headroom, d.temp)
  | none => (d.headroom, d.temp)

/-- The least headroom class and the highest temperature class of the dies that hold the stage's clusters (R322). -/
def State.classes (s : State) (st : Nat) : Nat × Nat :=
  let dies := ((s.stage st).clusters.map fun c => c / 6).dedup.map fun c => s.classOf (s.die c)
  (dies.foldl (fun m d => Nat.min m d.1) 3, dies.foldl (fun m d => Nat.max m d.2) 0)

/-- What an entry needs beside sready. -/
def Tide.applies (e : Tide) (s : State) (st : Nat) (q : List (Nat × Task)) : Bool :=
  let cl := s.classes st
  e.valid && bitAt e.hmask cl.1 && bitAt e.tmask cl.2 &&
  (e.idle || (decide (Nat.max e.qmin 1 ≤ occupancy q e.kind) && (e.hmax == 0 || decide (s.holding st e.kind < e.hmax)) &&
    (e.othr == 0 || decide (e.othr ≤ occupancy q e.okind))))

/-! ### Evaluation (R319-R321) -/

/-- May a queued task take a slot: a swapped one only in its own cluster, or in that which a re-plan has given it (R327). -/
def fits (e : Nat × Task) (cl : Nat) : Bool := e.2.state == .ready || e.2.cluster == cl

/-- The scan of the table: nominations with their priority, and the lookahead tags of the scanned entries. -/
def scanTide (s : State) (st : Nat) (q able : List (Nat × Task)) (entries : List Tide) : List (Nat × Nat × Task) × Nat :=
  let g := s.stage st
  let ready := fun (e : Nat × Task) => e.2.kind == .b && s.stashReady g.pasid e.2.tag
  (entries.foldl (fun (acc : Bool × List (Nat × Nat × Task) × Nat) e =>
    if acc.1 then acc
    else if !e.applies s st q then acc
    else if e.idle then (true, acc.2)
    else
      let look := Nat.max acc.2.2 e.look
      if e.sready && !(q.any ready) then (false, acc.2.1, look)
      else
        let mine := able.filter fun x => x.2.kind == e.kind && (e.kind != .b || e.force || ready x)
        (false, (match earliest mine with | some x => acc.2.1 ++ [(e.prio, x)] | none => acc.2.1), look)) (false, [], 0)).2

/-- The nomination with the highest priority; ties go to the earlier key and then to the lower entry. -/
def bestOf (l : List (Nat × Nat × Task)) : Option (Nat × Task) :=
  (l.foldl (fun (b : Option (Nat × Nat × Task)) x => match b with
    | none => some x
    | some y => if y.1 < x.1 || (y.1 == x.1 && Key.lt x.2.2.key y.2.2.key) then some x else b) none).map (·.2)

/-- The queues as they stand at an evaluation's start: what enters one in this very cycle is seen by the next evaluation. -/
def State.standing (s : State) (st : Nat) : List (Nat × Task) := (s.queuedTasks st).filter fun e => decide (e.2.queuedAt < s.cycle)

/-- The earliest starving task that may take a slot of one of some clusters (R319, R321). -/
def State.starving (s : State) (st : Nat) (cls : List Nat) : Option (Nat × Task) :=
  earliest ((s.standing st).filter fun e => e.2.free && cls.any (fun c => fits e c) && decide (e.2.agedAt.getD e.2.queuedAt + (s.stage st).starve ≤ s.cycle))

/-- The choice for a slot of a cluster, and the largest look of the scanned entries (0 when the table is not consulted). -/
def State.choose (s : State) (st cl : Nat) : Option (Nat × Task) × Nat :=
  let g := s.stage st
  let q := s.standing st
  let able := q.filter fun e => e.2.free && fits e cl
  match s.starving st [cl] with
  | some e => (some e, 0)
  | none =>
    let r := scanTide s st q able ((List.range 32).map fun i => decTide (Table.get g.tide 0 i).toNat)
    (bestOf r.1, r.2)

/-- The choice of an evaluation among free slots: the earliest starving task that fits one of them; otherwise the first
slot for which the table chooses a task. -/
def State.pick (s : State) (st : Nat) (slots : List (Nat × Nat)) : Option ((Nat × Nat) × Nat × Task) × Nat :=
  match s.starving st (slots.map (·.1)) with
  | some e => ((slots.find? fun x => fits e x.1).map fun x => (x, e), 0)
  | none =>
    let cs := slots.map fun x => (x, s.choose st x.1)
    (cs.findSome? fun c => c.2.1.map fun e => (c.1, e), cs.foldl (fun m c => Nat.max m c.2.2) 0)

/-- Cycles of the phases of a swap (R327). -/
def registerCycles : Nat := Config.microsecond
def memoryCycles (team : Nat) : Nat := Config.microsecond + 4 * Config.microsecond * team

/-- A chosen task takes its slot: a Ready one issues its entry bundle 8 cycles later, a resumable one is restored. -/
def State.place (s : State) (tid : Nat) (t : Task) (x : Nat × Nat) : State :=
  let g := s.stage t.stage
  if t.state == .ready then
    let at_ := s.cycle + Config.dispatchDelay
    { s with inputs := s.inputs ++ [(at_, Instr.taskDispatch tid)] : State }.modTask tid fun k =>
      { k with state := .running, cluster := x.1, slot := x.2, dispatchAt := some at_ }
  else
    s.modTask tid fun k => { k with cluster := x.1, slot := x.2, resumable := false,
                                    swap := .restoring (s.cycle + registerCycles + memoryCycles g.team) }

/-- Is the context of a stage in place, neither saved nor on its way out or in? -/
def State.stageLive (s : State) (st : Nat) : Bool :=
  let g := s.stage st
  g.valid && g.prog.isSome && (s.ctx g.pasid).phase == .active

/-- STAGE_EVALUATION (R319): for the first free slot that a task fits, one task; another evaluation follows in the
next cycle while slots stay free. A lookahead of an entry asks for the stash entries of the next tags (R320). -/
def execStageEvaluation (stage : Nat) (s : State) : Host.Outcome State Fault Refusal :=
  let g := s.stage stage
  if !(g.evalAt.any fun a => decide (a ≤ s.cycle)) then .next s
  else
    let s1 := s.modStage stage fun g => { g with evalAt := g.evalAt.filter fun a => !decide (a ≤ s.cycle) }
    let slots := s.freeSlots stage
    if !s.stageLive stage || slots.isEmpty then .next s1
    else
      let p := s.pick stage slots
      let s2 := match g.lastB with
        | some b => s1.wantTags g.pasid ((List.range p.2).map fun i => (b + 1 + i) % 2 ^ 32)
        | none => s1
      match p.1 with
      | some (x, e) =>
        let s3 := s2.place e.1 e.2 x
        .next (if 1 < slots.length then s3.askEvaluation stage (s.cycle + 1) else s3)
      | none => .next s2

/-! ### Dispatch (R25, R319, R365) -/

/-- The registers of a core as dispatch leaves them. -/
def clearForDispatch (k : Core) (tid rank : Nat) (wdef cycle : Nat) : Core :=
  { k with
    task := some tid, rank := rank,
    regs := { va := k.regs.va, vb := k.regs.vb, ka := k.regs.ka, kb := k.regs.kb, lclock := k.regs.lclock, driftlim := k.regs.driftlim,
              waitlim := BitVec.ofNat 64 wdef },
    seq := { stream := k.seq.stream, issueAt := cycle },
    ys := {},
    arr := { z := k.arr.z, zm := k.arr.zm, blockMode := k.arr.blockMode },
    rcv := { k.rcv with rps := [], fresh := true, seen := [], prevSeen := [], undo := [], rerun := none, deps := [], reuse := [],
                        engws := [], engwsAgain := [],
                        keepUntil := 0, last := none },
    eng := { k.eng with evq := [], half := none, draining := false, fenceR := 0, fenceW := 0, requests := [], ldmc := none, shadows := [] } }

/-- TASK_DISPATCH: the chosen task's cores start at the entry bundle. Dispatch receives the stamp of the task and
takes a rewind point, which begins a segment. Entries that committed tasks have fetched away on these cores will not come
back. A slot that has left service since the evaluation gives the task back to its queue. -/
def execTaskDispatch (tid : Nat) (s : State) : Host.Outcome State Fault Refusal :=
  match s.task? tid with
  | none => .next s
  | some t =>
    if t.dispatchAt != some s.cycle then .next s
    else if (s.ctx t.pasid).phase != .active || (s.stage t.stage).lost.contains (8 * t.cluster + t.slot) || !(s.clu t.cluster).inService then
      .next ((s.modTask tid fun k => { k with state := .ready, dispatchAt := none }).askEvaluation t.stage (s.cycle + 1))
    else
      let g := s.stage t.stage
      let cs := teamCores g.team t.cluster t.slot
      let s1 := (s.modTask tid fun k => { k with dispatchAt := none, budget := k.full, waitRun := 0 }).modCtx t.pasid fun x =>
        { x with freed := x.freed.filter fun e => !cs.contains e.core || ((s.task? e.tid).map (·.inFlight)).getD false }
      .next (cs.zipIdx.foldl (fun (s : State) x =>
        ((s.modCore x.1 fun k => clearForDispatch k tid x.2 g.wdef s.cycle).recvStamp x.1 t.stamp).takePoint x.1) s1)

/-! ### Headroom and tokens (R310, R322) -/

def tokenCount (headroom temp : Nat) : Nat :=
  if temp = 3 then 1 else match headroom with | 3 => 6 | 2 => 4 | 1 => 2 | _ => 1

/-- A new token enters at the lowest-numbered cluster that needs one and holds none, else at cluster 0 of the die. -/
def State.addToken (s : State) (die : Nat) : State :=
  match (List.range 6).find? fun i => s.needsToken (6 * die + i) && !(s.clu (6 * die + i)).hasToken with
  | some i => s.modClu (6 * die + i) fun c => { c with hasToken := true }
  | none => s.modDie die fun d => { d with tokens := d.tokens ++ [{ pos := 0, hopAt := s.cycle }] }

/-- Tokens of a die, free or held, but for those to be withdrawn. -/
def State.tokensOf (s : State) (die : Nat) : Nat :=
  (s.die die).tokens.length + ((List.range 6).filter fun i => (s.clu (6 * die + i)).hasToken).length - (s.die die).surplus

def repeatN (f : State → State) : Nat → State → State
  | 0, s => s
  | n + 1, s => repeatN f n (f s)

/-- How far a measure stands above its three thresholds: a threshold once crossed holds until the measure has fallen by a
margin below it (R322). -/
def aboveThresholds (now measure margin : Nat) (thresholds : List Nat) : Nat :=
  (thresholds.zipIdx.filter fun x => decide (x.1 ≤ measure) || (decide (x.2 < now) && decide (x.1 < measure + margin))).length

/-- A die's average power, given in milliwatts, in hundredths of a percent of its share less the margins of its six clusters
(R322, R384; assumption log 121). -/
def State.dieLoad (s : State) (die power : Nat) : Nat :=
  let margins := ((List.range 6).map fun i => Config.marginPower (s.clu (6 * die + i)).vdd (s.clu (6 * die + i)).guardBand).sum
  power * 10000 / Nat.max 1 (1000 * (s.die die).share - margins)

/-- HEADROOM_PUBLICATION: the classes of a die, from its average power and from the highest junction
temperature that it reported since the last publication, and its token count; the die's stages evaluate in the next cycle when a class has changed (R322). -/
def execHeadroomPublication (die power : Nat) (s : State) : Host.Outcome State Fault Refusal :=
  let d := s.die die
  let h := 3 - aboveThresholds (3 - d.headroom) (s.dieLoad die power) 300 [7000, 8500, 9500]
  let t := match d.hottest with | some x => aboveThresholds d.temp x 3 [85, 95, 105] | none => d.temp
  let changed := d.headroom != h || d.temp != t
  let s1 := s.modDie die fun d => { d with headroom := h, temp := t, hottest := none,
                                           before := match d.before with
                                             | some x => if x.1 = s.cycle then some x else some (s.cycle, d.headroom, d.temp)
                                             | none => some (s.cycle, d.headroom, d.temp) }
  let want := tokenCount h t
  let have_ := s1.tokensOf die
  let up := want - have_
  let back := Nat.min up (s1.die die).surplus
  let s2 := s1.modDie die fun d => { d with surplus := d.surplus - back + (have_ - want) }
  let s3 := repeatN (fun s => s.addToken die) (up - back) s2
  .next (if changed then
    (List.range 8).foldl (fun (s : State) st =>
      if (s.stage st).valid && ((s.stage st).clusters.any fun c => c / 6 == die) then s.askEvaluation st (s.cycle + 1) else s) s3
    else s3)

/-! ### Answers of the stage handler (R324) -/

/-- HANDLER_RESUME: refused for budget exhaustion. -/
def execHandlerResume (tid : Nat) (s : State) : Host.Outcome State Fault Refusal :=
  match (s.task? tid).bind fun (t : Task) => t.event with
  | none => .next s
  | some e => .next (if e.budgetOut then s else s.resumeTask tid)

/-- HANDLER_EXTEND: the budget is set and the stream resumes; the extension is logged with the core of rank 0 (R386). -/
def execHandlerExtend (tid c : Nat) (s : State) : Host.Outcome State Fault Refusal :=
  match (s.task? tid).bind fun (t : Task) => t.event with
  | none => .next s
  | some e =>
    if c = 0 || 2 ^ 48 ≤ c then .next s
    else
      let head := ((s.coresOf tid).find? fun c => (s.core c).rank = 0).getD e.core
      .next (((s.modTask tid fun t => { t with budget := c }).resumeTask tid).logPair
        (logWord 5 head 15 (s.core head).seq.pc.toNat 0x04) (stampWord 0 0) none)

/-- HANDLER_ABORT: refused for the frontier task; a task that a tile created is always re-created. -/
def execHandlerAbort (tid : Nat) (recreate : Bool) (s : State) : Host.Outcome State Fault Refusal :=
  match s.task? tid with
  | none => .next s
  | some t => .next (if t.event.isNone || s.isFrontier tid then s else s.abortLater tid (recreate || t.tile.isSome) false)

end Sys2Proof.Machine
end

