-- ==== Sys2Proof/Machine/Switch.lean ====
section
/-!
DEFINITION. Team swaps (R302, R325-R327), context switches (R328, R329, R287-R289), gang switches (R330-R333) and the
two reruns that a resumed task may owe (R368, R372).
-/
namespace Sys2Proof.Machine

/-! ### Waiting (R302, R325) -/

def isWait : HoldCause → Bool
  | .ywait | .window | .absent => true
  | _ => false

/-- Held at a waiting bundle, a closed window or an absent entry, which makes its task Waiting (R22, R302); or halted. -/
def Core.heldAtWait (k : Core) : Bool := match k.seq.hold with | some h => isWait h.cause | none => false
def Core.waits (k : Core) : Bool := k.seq.halted || k.heldAtWait

def State.waitIdle (s : State) (tid : Nat) : Bool :=
  let cs := s.coresOf tid
  !cs.isEmpty && cs.all fun c => (s.core c).waits

/-- The team's limit: the least nonzero `waitlim.lim` (R325). -/
def State.waitLimit (s : State) (tid : Nat) : Option Nat :=
  ((s.coresOf tid).map fun c => bits (s.core c).regs.waitlim.toNat 0 32).foldl (fun b n =>
    if n = 0 then b else match b with | none => some n | some m => some (Nat.min m n)) none

/-- Is the bundle at a core's `pc` a shadow-free point (R65, R365)? -/
def State.shadowFree (s : State) (c : Nat) : Bool :=
  match (s.progOf c).bundleAt (s.core c).seq.pc with
  | some b => b.safe || b.seg
  | none => false

/-- The meaning of an operation that waits; none for any other. -/
def waitingMeaning (i : Instr) (s : State) : Option (Host.Outcome State Fault Refusal) :=
  match i with
  | .phsig g h r => some (execPhsig g h r s)
  | .phwait g h r => some (execPhwait g h r s)
  | .phsw g h r => some (execPhsw g h r s)
  | .fwait g a => some (execFwait g a s)
  | .chsend g xs xg xt chan => some (execChsend g xs xg xt chan s)
  | .fetch g xd xk free => some (execFetch g xd xk free s)
  | _ => none

/-- Would the waiting bundle of the core in turn be held if it were issued now? -/
def State.wouldHold (s : State) : Bool :=
  match (s.progOf s.turn).bundleAt s.cur.seq.pc with
  | none => false
  | some b =>
    let s1 := s.modCur fun k => k.modSeq fun q => { q with hold := none, verdict := .ok, waitFrom := 0 }
    b.slots.any fun x => match x.2.bind fun i => waitingMeaning i s1 with
      | some (.next t) => t.cur.seq.verdict == .held
      | _ => false

/-- A swapped team seen as if it held its cores. -/
def State.asIf (s : State) (tid : Nat) (t : Task) : State :=
  let base := 8 * t.cluster + t.slot * (s.stage t.stage).team
  (Table.get s.saved [] tid).foldl (fun (s : State) (e : Nat × Core) => s.setCore (base + e.1) { e.2 with task := some tid }) s

/-- A swapped task becomes resumable when the wait of one of its cores is satisfied, be it still on its way out of its
cores (R326), and at once after a retirement or a withdrawal (R22). -/
def State.markResumable (s : State) : State :=
  s.tasks.foldl (fun (s : State) (e : Nat × Task) =>
    let t := e.2
    let restoring := match t.swap with | .restoring _ => true | _ => false
    if t.state != .swapped || restoring || t.resumable || !t.inFlight || (s.ctx t.pasid).phase != .active then s
    else
      let s1 := if t.swap == .none then s.asIf e.1 t else s
      let base := 8 * t.cluster + t.slot * (s.stage t.stage).team
      let team := (List.range (s.stage t.stage).team).map fun r => base + r
      let ready := t.atOnce || team.any fun c =>
        (s1.core c).task == some e.1 && !(s1.core c).seq.halted && !({ s1 with turn := c }).wouldHold
      if ready then (s.modTask e.1 fun x => { x with resumable := true, queuedAt := s.cycle, agedAt := none }).askEvaluation t.stage (s.cycle + 1) else s) s

/-! ### Reruns (R372) -/

/-- The rewind point of a report: the latest held one taken at or before the strike, else the oldest (R372). -/
def Core.pointFor (k : Core) (strike : Nat) : Option RewindPoint :=
  match k.rcv.rps.find? fun p => decide (p.cycle ≤ strike) with
  | some p => some p
  | none => k.rcv.rps.getLast?

/-- A core returns to its newest rewind point and owes the two reruns from there. -/
def State.beginRerun (s : State) (c strike : Nat) (left : Bool) : State :=
  s.modCore c fun k => k.modRcv fun r => { r with rerun := some { strike := strike, left := left } }

/-! ### Saving and restoring a core (R139, R252, R327, R368) -/

/-- The register phase of a team begins: the current segments end, the shadow commands go with the registers (R252, R368). -/
def State.startSaving (s : State) (tid : Nat) : State :=
  (s.coresOf tid).foldl (fun (s : State) c =>
    ((s.closeSegment c).flushUn c).modCore c fun k => k.modEng fun e =>
      { e with copyQ := e.copyQ.take 1, stashQ := e.stashQ.take 1, chanQ := e.chanQ.take 1, redQ := e.redQ.take 1,
               shadows := e.shadows ++ e.copyQ.drop 1 ++ e.stashQ.drop 1 ++ e.chanQ.drop 1 ++ e.redQ.drop 1 }) s

/-- Nothing of a team stands in the way of its save: interlocked loads have landed, active operations have posted
their records or are held, results but for next tiles, masks on their way to `zm`, and those of the completed slots of a bundle that an execution fault
has stopped have landed (R139, R188, R252, R287; assumption log 93). An `l.ldmc` whose data has arrived is saved with its remaining count, as a next tile is, and lands in the
resumed team (assumption log 85: the spec does not say). With `rounds`, a contribution that has left its core does not count: its round is saved (R164, R331). -/
def State.savable (s : State) (tid : Nat) (rounds : Bool) : Bool :=
  (s.coresOf tid).all fun c =>
    let k := s.core c
    k.seq.gloads.isEmpty && (match k.eng.ldmc with | some m => m.wait.isEmpty | none => true) && (k.eng.ops.all fun o => o.complete || (rounds && o.sent)) &&
    k.seq.flight.all fun r => (k.seq.reissue && r.issued == k.seq.stream) || match r.dest with
      | .s n => r.slot == .y && decide (60 ≤ n)
      | .zm => true
      | _ => false

/-- What is saved of a core: latches are lost; pending atomics and phaser operations stay at the cluster (R27, R252). -/
def savedCore (k : Core) : Core :=
  { k with
    regs := { k.regs with byS := {}, byVA := {}, byVB := {}, byM := {}, byK := {}, byL := {}, byT := {}, byX := {}, byY := {} },
    eng := { k.eng with atomics := [], phaserOps := [], unWrites := [], unLines := [], requests := [], observed := [] } }

/-- What the save area holds of a core: with it what its tasks have issued and what waits for their commit (R186, R298). -/
def packedCore (k : Core) : Core :=
  let v := savedCore k
  { v with eng := { v.eng with atomics := k.eng.atomics, phaserOps := k.eng.phaserOps } }

/-- A core that gives its task up to a save keeps only what belongs to the core. -/
def Core.vacate (k : Core) : Core :=
  { k with
    task := none,
    seq := { stream := k.seq.stream },
    ys := {},
    arr := { k.arr with wave := [], blk := [], mblk := 0, burst := false },
    rcv := { seg := k.rcv.seg + 1, ends := k.rcv.ends },
    regs := { k.regs with donemask := 0, byS := {}, byVA := {}, byVB := {} },
    eng := { atomics := k.eng.atomics, phaserOps := k.eng.phaserOps, unWrites := k.eng.unWrites, epoch := k.eng.epoch,
             observed := k.eng.observed, clocks := k.eng.clocks, spawnSeq := k.eng.spawnSeq } }

/-- A saved core on the core `c`, whose own numbering of segments goes on: shadows are reissued, records stay. -/
def refill (phys k : Core) (tid c cycle : Nat) : Core :=
  let seg := phys.rcv.seg + 1
  let mine := fun (o : EngOp) => { o with core := c, seg := seg }
  let q := fun (n : Nat) (l : EngQueue) => (l ++ k.eng.shadows.filter fun o => queueNo o.cmd == n).map mine
  { k with
    task := some tid, retired := phys.retired, resident := phys.resident, copying := phys.copying, pins := phys.pins,
    seq := { k.seq with hold := none, held := 0, stopped := false, issueAt := cycle, waitFrom := 0, waitAt := none, releaseAt := none, signalledAt := none },
    rcv := { k.rcv with seg := seg, segStart := cycle, ends := phys.rcv.ends, fresh := true, deps := [], undo := [], seen := [], prevSeen := [],
                        rps := k.rcv.rps.map fun p => { p with seg := seg, spawnSeq := phys.eng.spawnSeq } },
    eng := { k.eng with
      copyQ := q 0 k.eng.copyQ, stashQ := q 1 k.eng.stashQ, chanQ := q 2 k.eng.chanQ, redQ := q 3 k.eng.redQ, shadows := [],
      evq := k.eng.evq.map fun r => { r with seg := seg },
      atomics := k.eng.atomics ++ phys.eng.atomics, phaserOps := k.eng.phaserOps ++ phys.eng.phaserOps,
      unWrites := phys.eng.unWrites, epoch := phys.eng.epoch,
      observed := phys.eng.observed, spawnSeq := phys.eng.spawnSeq } }

/-- A restored core resumes: it takes a rewind point, or runs the two reruns that its task owes (R365, R368). -/
def State.resumeCore (s : State) (c : Nat) (owed : Option Nat) : State :=
  match owed, (s.core c).rcv.rps.head? with
  | some strike, some rp =>
    (s.modCore c fun k => k.modRcv fun r =>
      { r with seg := rp.seg + 1, rps := [{ rp with seg := rp.seg + 1, freedAt := none }] }).beginRerun c strike false
  | _, _ => (s.modCore c fun k => k.modRcv fun r => { r with rps := [] }).takePoint c

/-! ### Team swap (R326, R327) -/

/-- TEAM_SWAP: a wait-idle team that has reached its limit is swapped if an evaluation would fill its slot, unless it is
about to end: each of its cores has halted (R284). A
speculative task with sets that are not empty aborts instead (R269). -/
def execTeamSwap (tid : Nat) (s : State) : Host.Outcome State Fault Refusal :=
  match s.task? tid with
  | none => .next s
  | some t =>
    let reached := match s.waitLimit tid with | some l => decide (l ≤ t.waitRun) | none => false
    let safe := (s.coresOf tid).all fun c => (s.core c).seq.halted || s.shadowFree c
    let ending := t.ender.isSome || (s.coresOf tid).all fun c => (s.core c).seq.halted
    if !reached || ending || !s.waitIdle tid || !safe || t.swap != .none || t.event.isSome || t.leaving.isSome ||
        (s.choose t.stage t.cluster).1.isNone || (s.coresOf tid).any s.unStuck then .next s
    else if !s.isFrontier tid && !t.lines.isEmpty then .next (s.abortLater tid true false)
    else
      let team := (s.stage t.stage).team
      .next ((s.startSaving tid).modTask tid fun x =>
        { x with state := .swapped, swap := .saving (s.cycle + registerCycles + memoryCycles team), waitRun := 0, resumable := false })

/-- SWAP_COMPLETE: the memory phase ends, the state of every core is in the swap area and the slot frees. -/
def execSwapComplete (tid : Nat) (s : State) : Host.Outcome State Fault Refusal :=
  match s.task? tid with
  | none => .next s
  | some t =>
    match t.swap with
    | .saving at_ =>
      if s.cycle < at_ || !s.savable tid false then .next s
      else
        let cs := s.coresOf tid
        let team := cs.foldl (fun (m : SavedTeam) c => Table.put m (s.core c).rank (savedCore (s.core c))) []
        let s1 := cs.foldl (fun (s : State) c => s.modCore c Core.vacate) { s with saved := Table.put s.saved tid team }
        .next ((s1.modTask tid fun x => { x with state := .swapped, swap := .none, retiring := false }).askEvaluation t.stage s.cycle)
    | _ => .next s

/-- SWAP_RESTORE: the phases run in reverse and the team resumes at its waiting bundle. -/
def execSwapRestore (tid : Nat) (s : State) : Host.Outcome State Fault Refusal :=
  match s.task? tid with
  | none => .next s
  | some t =>
    match t.swap with
    | .restoring at_ =>
      if s.cycle < at_ || !(s.clu t.cluster).inService then .next s
      else
        let base := 8 * t.cluster + t.slot * (s.stage t.stage).team
        let s1 := (Table.get s.saved [] tid).foldl (fun (s : State) (e : Nat × Core) =>
          let c := base + e.1
          (s.setCore c (refill (s.core c) e.2 tid c s.cycle)).resumeCore c t.rewindAt) { s with saved := Table.del s.saved tid }
        .next (s1.modTask tid fun x => { x with state := .running, swap := .none, waitRun := 0, atOnce := false, rewindAt := none })
    | _ => .next s

/-! ### Context switch out (R328) -/

/-- Tasks of a context that are in flight. -/
def State.ctxTasks (s : State) (p : Nat) : List (Nat × Task) := s.tasks.filter fun (e : Nat × Task) => e.2.pasid == p && e.2.inFlight
def State.ctxStages (s : State) (p : Nat) : List (Nat × Stage) := s.stages.filter fun (e : Nat × Stage) => e.2.valid && e.2.pasid == p
def State.ctxClusters (s : State) (p : Nat) : List Nat := ((s.ctxStages p).map fun e => e.2.clusters).flatten

/-- A task by its identity, in flight on the chip or in the save area of its context. -/
def State.taskAny (s : State) (tid : Nat) : Option Task :=
  match s.task? tid with
  | some t => some t
  | none => s.contexts.findSome? fun (e : Nat × Context) => e.2.area.bind fun a => Table.get? a.tasks tid

/-- Has a stage tasks in flight, here or in the save area of its context, or one that still has to leave its cores (R23, R24;
assumption log 60)? -/
def State.stageBusy (s : State) (st : Nat) : Bool :=
  !(s.inFlight st).isEmpty || (s.cores.any fun (e : Nat × Core) => e.2.task.isSome && s.stageOf e.1 == st) || s.contexts.any fun (e : Nat × Context) => (e.2.area.map fun (a : SaveArea) =>
    a.tasks.any fun x => x.2.stage == st && x.2.inFlight).getD false

/-- The spawns of a context on some cores stay with the context (R254). -/
def State.keepSpawns (s : State) (p : Nat) (cs : List Nat) : State :=
  s.modCtx p fun x => { x with spawned := cs.foldl (fun t c => Table.put t c (s.core c).eng.spawnSeq) x.spawned }
/-- Some cores count on the spawns of the context that they come to. -/
def State.loadSpawns (s : State) (p : Nat) (cs : List Nat) : State :=
  cs.foldl (fun (s : State) c => s.modCore c fun k => k.modEng fun e => { e with spawnSeq := Table.get (s.ctx p).spawned 0 c }) s

/-- A core that comes to a stage of another plan keeps nothing but its unperformed work; in another context not its pool
atomics either, since the pool that they would change is cleared. -/
def Core.handOver (k : Core) (keepMemory : Bool) : Core :=
  let v := k.vacate
  if keepMemory then v
  else { v with eng := { v.eng with atomics := [] }, sp := [], ls := [], regs := {}, arr := {}, resident := [], copying := [], pins := [] }

/-- A cluster comes from one context, or from none, to another: its cores keep nothing, and its pool, phasers and wait
table are cleared (R25, R292, R334). In a stage that a plan makes anew its cores count their spawns from 0 (R254). -/
def State.handCluster (s : State) (cl : Nat) (src : Option Nat) (dst : Nat) (anew : Bool) : State :=
  let cs := (List.range 8).map fun i => 8 * cl + i
  let same := src == some dst
  let s0 := match src with | some p => s.keepSpawns p cs | none => s
  let s1 := if anew then s0.modCtx dst fun x => { x with spawned := x.spawned.filter fun e => !cs.contains e.1 } else s0
  let s2 := (cs.foldl (fun (v : State) c => v.modCore c fun k => k.handOver same) s1).loadSpawns dst cs
  if same then s2 else s2.modClu cl fun k => { k with pool := [], poolBy := [], phasers := [], waits := [], savingAt := none }

/-- Has a team stopped: every core halted or at its stop, no answer pending, nothing of it on its way out or in. -/
def State.teamStopped (s : State) (e : Nat × Task) : Bool :=
  let t := e.2
  t.event.isNone && t.leaving.isNone && t.swap == .none && t.ender.isNone &&
  (s.coresOf e.1).all fun c =>
    let k := s.core c
    (k.seq.stopped || k.seq.halted) && decide (k.rcv.segStart + Config.W ≤ s.cycle)

/-- Cycles of the memory phase of a context (R328). -/
def contextMemoryCycles : Nat := 100 * Config.microsecond

def inRange (lo n a : Nat) : Bool := decide (lo ≤ a) && decide (a < lo + n)

/-- The save area takes what belongs to the context, and the chip keeps none of it. -/
def State.packContext (s : State) (p : Nat) : State :=
  let x := s.ctx p
  let cls := s.ctxClusters p
  let mineC := fun (c : Nat) => cls.contains (clusterOf c)
  let stages := s.ctxStages p
  let isTask := fun (e : Nat × Task) => e.2.pasid == p && e.2.inFlight
  let area : SaveArea :=
    { layout := if s.host.runningB then s.host.imageB.writes else s.host.imageA.writes,
      stages := stages,
      tasks := (s.tasks.filter isTask).map fun (e : Nat × Task) =>
        (e.1, if e.2.dispatchAt.isSome then { e.2 with state := .ready, dispatchAt := none } else e.2),
      clusters := s.clusters.filter fun (e : Nat × Cluster) => cls.contains e.1,
      cores := (s.cores.filter fun (e : Nat × Core) => mineC e.1).map fun (e : Nat × Core) => (e.1, packedCore e.2),
      xs := s.xs.filter fun (e : Host.Cell) => inRange x.xsbase x.xssize e.1,
      chipPhasers := s.chipPhasers.filter fun e => inRange x.phbase x.phcount e.1,
      counters := s.counters.filter fun e => inRange x.dcbase x.dccount e.1,
      outbound := (s.link.outbound.filter fun (e : Nat × Flit) => e.1 == p).map fun (e : Nat × Flit) => e.2,
      buffered := (s.link.buffered.filter fun (e : Nat × Arrival) => e.1 == p).map fun (e : Nat × Arrival) => e.2 }
  let s := s.keepSpawns p ((cls.map fun cl => (List.range 8).map fun i => 8 * cl + i).flatten)
  { s with
    link := { s.link with outbound := s.link.outbound.filter fun (e : Nat × Flit) => e.1 != p,
                          buffered := s.link.buffered.filter fun (e : Nat × Arrival) => e.1 != p },
    tasks := s.tasks.filter fun e => !isTask e,
    stages := s.stages.map fun (e : Nat × Stage) => if e.2.valid && e.2.pasid == p then
      (e.1, { valid := true, clusters := e.2.clusters, team := e.2.team, pasid := p, starve := e.2.starve, wdef := e.2.wdef,
              tide := e.2.tide, prog := e.2.prog, lost := e.2.lost : Stage }) else e,
    clusters := s.clusters.map fun (e : Nat × Cluster) => if cls.contains e.1 then
      (e.1, { e.2 with pool := [], poolBy := [], phasers := [], waits := [], savingAt := none }) else e,
    cores := s.cores.map fun (e : Nat × Core) => if mineC e.1 then
      let v := e.2.vacate
      (e.1, { v with sp := [], ls := [], pins := [], regs := {}, arr := {}, eng := { v.eng with atomics := [], phaserOps := [] } }) else e,
    xs := s.xs.filter fun (e : Host.Cell) => !inRange x.xsbase x.xssize e.1,
    chipPhasers := s.chipPhasers.filter fun e => !inRange x.phbase x.phcount e.1,
    counters := s.counters.filter fun e => !inRange x.dcbase x.dccount e.1 }.modCtx p fun x =>
      { x with phase := .saved, area := some area, tlb := [], layout := area.layout }

/-- The gang switch that takes a context out: the one under way, or else the pending one of the earliest time (R330). -/
def State.gangOf (s : State) (p : Nat) : Option Gang :=
  let mine := s.link.gangs.filter fun g => g.outgoing == p
  match mine.find? (·.begun) with
  | some g => some g
  | none => mine.foldl (fun b g => match b with
    | none => some g
    | some h => if g.time < h.time then some g else b) none

/-- Does nothing more come in on a port: a quiesce flit of the switch has arrived on it, or it has no neighbour that could
send one: the neighbour is viral (R333), or the port is not up (assumption log 86)? -/
def State.portQuiet (s : State) (g : Gang) (port : Nat) : Bool := g.quiet.contains port || !s.upPorts.contains port || (Table.get s.link.ports {} port).gone

/-- Is every port quiet, when a gang switch of the context is under way (R331)? -/
def State.gangQuiet (s : State) (p : Nat) : Bool :=
  match s.gangOf p with
  | some g => !g.begun || (List.range 8).all (s.portQuiet g)
  | none => true

/-- A restore begins: the memory phase and then the register phase (R329). -/
def State.startRestore (s : State) (p : Nat) (tag : Word64) (command : Nat) : State :=
  s.modCtx p fun x => { x with phase := .restoring (s.cycle + contextMemoryCycles + registerCycles), tag := tag, command := command }

/-- The end of a command posts one event frame with its tag and its code (R353). -/
def State.commandDone (s : State) (p : Nat) : State :=
  let x := s.ctx p
  if x.command = 0 then s else s.eventFrame p x.command x.tag []

/-- An update is in Layout pending while its image does not read the layout of some save area on the chip, and Ready once it
reads them all (R351). -/
def State.layoutCheck (s : State) : State :=
  let im := if s.host.runningB then s.host.imageA else s.host.imageB
  let bad := s.contexts.any fun (e : Nat × Context) => match e.2.area with
    | some a => !im.reads.contains a.layout
    | none => false
  s.modHost fun h => { h with update := if h.update == .layoutPending || h.update == .ready then (if bad then .layoutPending else .ready) else h.update }

/-! ### The scope table (R210, R211) -/

def scopeEntry (chips radius : Nat) : Word64 := BitVec.ofNat 64 (chips * 2 ^ 32 + radius * 2 ^ 24 + 1)

/-- The chips within n hops, from a topology that is left open but for this: none without a trained peer, at least one
and at most one for each port at one hop, and no fewer at a greater distance. -/
def scopeChips (i peers : Nat) : Nat → Nat
  | 0 => 1
  | n + 1 =>
    let c := scopeChips i peers n
    if peers = 0 then 1
    else if n = 0 then 2 + Config.freeWord i % peers
    else Nat.min 16384 (c + Config.freeWord (i + n) % 16384)

/-- The entry of level 7 counts the chips that map a context: this one alone without a peer, and otherwise left open; the
radius is 0 for this chip alone (R211; assumption log 87). -/
def scopeSeven (i peers p : Nat) : Word64 :=
  let chips := 1 + Config.freeWord (i + 8 + 2 * p) % 16384
  if peers = 0 || chips = 1 then scopeEntry 1 0 else scopeEntry chips (1 + Config.freeWord (i + 9 + 2 * p) % 255)

/-- Firmware fills the scope table from the topology. -/
def State.fillScope (s : State) : State :=
  let peers := s.upPorts.length
  let (i, s1) := s.takeFree
  { s1 with scopetab := (List.range 7).map fun n => (n, scopeEntry (scopeChips i peers n) n),
            contexts := s1.contexts.map fun (e : Nat × Context) => (e.1, { e.2 with scope7 := scopeSeven i peers e.1 }),
            free := s1.free + 2 ^ 22 }

/-- A chip at one hop leaves every level of the table; whether it counted in the entry of a context is left open. With the last
peer gone every level counts this chip alone (R211). -/
def State.leaveScope (s : State) : State :=
  let alone := s.upPorts.isEmpty
  let chips := fun (w : Word64) => if alone then 1 else Nat.max 1 (bits w.toNat 32 16 - 1)
  let less := fun (w : Word64) => scopeEntry (chips w) (bits w.toNat 24 8)
  let seven := fun (w : Word64) => if chips w = 1 then scopeEntry 1 0 else less w
  { s with scopetab := s.scopetab.map fun (e : Nat × Word64) => if e.1 = 0 then e else (e.1, less e.2),
           contexts := s.contexts.map fun (e : Nat × Context) =>
             if alone || Config.freeChoice (s.free + e.1) then (e.1, { e.2 with scope7 := seven e.2.scope7 }) else e,
           free := s.free + 2 ^ 20 }

/-! ### How many contexts (R329, R334) -/

/-- Contexts that run on the chip. -/
def State.running (s : State) : Nat := (s.contexts.filter fun (e : Nat × Context) => e.2.phase != .saved).length
/-- Contexts that are saved or on their way out. -/
def State.resident (s : State) : Nat :=
  (s.contexts.filter fun (e : Nat × Context) => match e.2.phase with | .stopping | .saving _ | .saved => true | _ => false).length

/-- Contexts whose save area is in use. -/
def State.areas (s : State) : Nat :=
  (s.contexts.filter fun (e : Nat × Context) => match e.2.phase with | .saving _ | .saved => true | _ => false).length

/-- May a saved context come back: does the running image read its layout (R329)? Its stages stay in the plan while tasks of
them are in flight (R407). -/
def State.restorable (s : State) (p : Nat) : Bool :=
  let im := if s.host.runningB then s.host.imageB else s.host.imageA
  match (s.ctx p).phase, (s.ctx p).area with
  | .saved, some a => im.reads.contains a.layout
  | _, _ => false

/-! ### The save (R269, R328) -/

/-- Does an operation have an effect beyond its cluster, for which it waits until its task is the frontier task (R213)? -/
def EngCmd.outward : EngCmd → Bool
  | .copy d a _ => decide (2 ≤ d.lvl) || decide (2 ≤ a.lvl)
  | .fetch _ d _ | .chrecv d _ => decide (2 ≤ d.lvl)
  | .stash _ _ _ | .spill _ _ _ _ | .drop _ _ | .wver _ _ | .chsend _ _ _ _ | .cheos _ | .redm _ _ _ => true
  | .tinv _ _ _ | .engr _ | .atomic => false

/-- Does a core of a speculative task wait for what comes only with the frontier: a frozen bundle (R262), a parked fault
(R270) or, with `ops`, an active engine operation (R213)? -/
def State.waitsFrontier (s : State) (e : Nat × Task) (ops : Bool) : Bool :=
  !s.isFrontier e.1 && (e.2.deferred.isSome || (s.coresOf e.1).any fun c =>
    let k := s.core c
    (!k.seq.stopped && (match k.seq.hold with | some h => h.cause == .frontier | none => false)) ||
      (ops && k.eng.ops.any fun o => !o.complete && !o.sent && o.cmd.outward))

/-- The teams of a context that hold cores of a cluster. -/
def State.teamsIn (s : State) (p cl : Nat) : List (Nat × Task) := (s.ctxTasks p).filter fun e => (s.coresOf e.1).any fun c => clusterOf c == cl

/-- May the register phase of a cluster begin: each of its teams has stopped, and no task that has left reruns there (R328)? -/
def State.clusterReady (s : State) (p cl : Nat) : Bool :=
  (s.clu cl).savingAt.isNone && (s.teamsIn p cl).all s.teamStopped && !((List.range 8).any fun i => s.unStuck (8 * cl + i)) &&
  (List.range 8).all fun i => match (s.core (8 * cl + i)).rcv.rerun with | some r => !r.left | none => true

/-- The register phase of a cluster begins; a team that reruns goes back, and owes its reruns after its resume (R328, R368). -/
def State.saveCluster (s : State) (p cl : Nat) : State :=
  let back := fun (s : State) (e : Nat × Task) => ((s.coresOf e.1).foldl (fun (s : State) c => match (s.core c).rcv.rps.head? with
    | some rp => s.rewindTo c rp false
    | none => s) s).modTask e.1 fun x => { x with rewindAt := some 0 }
  let owing := (s.teamsIn p cl).filter fun e => (s.coresOf e.1).any fun c => (s.core c).rcv.rerun.isSome
  ((s.teamsIn p cl).foldl (fun (s : State) e => s.startSaving e.1) (owing.foldl back s)).modClu cl fun k => { k with savingAt := some s.cycle }

/-- A gang switch has nothing to take out, or nothing left of it: the incoming context, if any, is restored. -/
def State.endGang (s : State) (g : Gang) : State :=
  let s1 := (s.modLink fun l => { l with gangs := l.gangs.filter (· != g) }).fillScope
  if g.incoming != 0 && s1.restorable g.incoming && decide (s1.running < 8) then s1.startRestore g.incoming g.tag 0x07
  else s1.eventFrame g.outgoing 0x07 g.tag []

/-- Is there a save area for a context that stops: fewer than eight are in use, or the switch under way frees one of them
(R329; assumption log 58)? -/
def State.areaFor (s : State) (p : Nat) : Bool :=
  decide (s.areas < 8) || (match s.gangOf p with | some g => g.begun && (s.ctx g.incoming).phase == .saved | none => false)

/-- CONTEXT_SAVE_COMPLETE, the phases of a save: once every team of a cluster has stopped and W has passed since its segment
entries, the register phase of that cluster runs, and speculative tasks with sets abort; after the memory phase, which follows
the last cluster's register phase, with every committed write released and the ports quiet, the save is complete (R269, R328,
R331). A speculative task that waits for what only the
frontier brings aborts once it alone stands in the way, since its save could never end (assumption log 47). -/
def execContextSaveComplete (p : Nat) (s : State) : Host.Outcome State Fault Refusal :=
  let held := s.clusters.any fun (e : Nat × Cluster) => e.2.held.any fun h => h.pasid == p
  let mine := s.ctxTasks p
  let onCores := mine.filter fun e => !(s.coresOf e.1).isEmpty
  let drop := fun (l : List (Nat × Task)) => l.foldl (fun (s : State) e => s.abortLater e.1 true false) s
  match (s.ctx p).phase with
  | .stopping =>
    let spec := mine.filter fun e => !s.isFrontier e.1 && !e.2.lines.isEmpty && e.2.leaving.isNone && e.2.event.isNone
    let begun := fun (e : Nat × Task) => (s.coresOf e.1).any fun c => (s.clu (clusterOf c)).savingAt.isSome
    let rest := mine.filter fun e => !begun e && !s.teamStopped e
    if !spec.isEmpty then .next (drop spec)
    else if !rest.isEmpty && rest.all fun e => e.2.event.isNone && s.waitsFrontier e false then .next (drop rest)
    else
      let cls := s.ctxClusters p
      let s1 := (cls.filter (s.clusterReady p)).foldl (fun (s : State) cl => s.saveCluster p cl) s
      .next (if rest.isEmpty && s.areaFor p && cls.all fun cl => (s1.clu cl).savingAt.isSome then
          s1.modCtx p fun x => { x with phase := .saving (s.cycle + registerCycles + contextMemoryCycles) }
        else s1)
  | .saving at_ =>
    let rest := onCores.filter fun e => !s.savable e.1 true || e.2.leaving.isSome
    if s.cycle < at_ then .next s
    else if !rest.isEmpty then .next (if rest.all fun e => e.2.leaving.isNone && s.waitsFrontier e true then drop rest else s)
    else if held || !s.gangQuiet p then .next s
    else
      let s1 := (s.packContext p).layoutCheck
      .next (match s.gangOf p with
        | some g => if g.begun then (if (s.ctx p).command = 0x07 then s1 else s1.commandDone p).endGang g else s1.commandDone p
        | none => s1.commandDone p)
  | _ => .next s

/-! ### Link traffic that comes back (R235, R331, R332) -/

/-- A peer's write to this chip's memory: translated under its context here, and written at home. Of a poisoned flit nothing
is written (R357); what does not translate is left out. -/
def State.peerStore (s : State) (w : PeerWrite) : State :=
  if w.poison then s
  else (cutLines { pos := 0, addr := w.addr, len := w.bytes.length }).foldl (fun (s : State) p =>
    match translate s w.pasid p.addr with
    | some g => if g.w && g.home == s.chipNo then
        s.homeWrite w.pasid { xs := false, addr := g.pa, bytes := (w.bytes.drop p.pos).take p.len, core := 0, seg := 0 } else s
    | none => s) s

/-- A data flit of a peer's engine operation arrives (R235, R331, R356, R358). -/
def State.peerWrite (s : State) (w : PeerWrite) : State :=
  if s.recovery || !s.delivers (some w.port) then s
  else
    let s1 := s.countFlits w.port (flitsOf w.bytes.length)
    if s1.buffers w.pasid then s1.modLink fun k => { k with buffered := k.buffered ++ [(w.pasid, .write w)] }
    else (s1.linkRecv 0).peerStore w

/-- A router re-injects a saved flit, which has been counted on its port when it arrived. -/
def State.reinject (s : State) (a : Arrival) : State :=
  let run := fun (o : Host.Outcome State Fault Refusal) => match o with | .next t => t | _ => s
  match a with
  | .write w => (s.linkRecv 0).peerStore w
  | .event (.tileArrival t) => run (execTileArrival { t with port := none } s)
  | .event (.eosTokenArrival v c q) => run (execEosTokenArrival { v with port := none } c q s)
  | .event (.windowAdvertisement v c n) => run (execWindowAdvertisement { v with port := none } c n s)
  | .event (.partialArrival v w q) => run (execPartialArrival { v with port := none } w q s)
  | .event _ => s

/-- The outbound queue's next flit is injected; a contribution to a round of this chip enters it. -/
def State.inject (s : State) (p : Nat) (f : Flit) : State :=
  match f with
  | .part d q w r => if d = s.chipNo then s.enterRound q w r else s.emit p f
  | _ => s.emit p f

/-! ### Tasks that a re-plan moves (R327, R375, R376) -/

/-- Clusters of a stage in which a task may still be placed: in service, with a slot that is not lost. -/
def State.usable (s : State) (g : Stage) : List Nat :=
  g.clusters.filter fun c => (s.clu c).inService && g.slots.any fun x => x.1 == c && !g.lost.contains (8 * x.1 + x.2)

/-- The members of some tasks in the phasers of a cluster go with them, where nobody else takes part, to phasers of the other
cluster in which nobody does (assumption log 107). -/
def movePhasers (src dst : Cluster) (tids : List Nat) : Table Phaser :=
  src.phasers.foldl (fun (t : Table Phaser) (e : Nat × Phaser) =>
    if !e.2.members.isEmpty && e.2.members.all (fun m => tids.contains m.tid) && (Table.get t {} e.1).members.isEmpty then Table.put t e.1 e.2 else t)
    dst.phasers

/-- The tasks that a retirement or a withdrawal has swapped in a cluster which can take them no more go to another cluster of the
stage, one that joins if there is one, and that cluster receives the pool of the old one (R327, R375, R376). Which cluster it
is, is firmware's choice. `old` gives the clusters as the tasks left them. -/
def State.replace (s : State) (st : Nat) (fresh : List Nat) (gone : Nat → Bool) (old : Nat → Cluster) : State :=
  let able := s.usable (s.stage st)
  let out := (s.inFlight st).filter fun e => e.2.state == .swapped && e.2.atOnce && gone e.2.cluster
  let targets := if (fresh.filter able.contains).isEmpty then able else fresh.filter able.contains
  ((out.map fun e => e.2.cluster).dedup).foldl (fun (s : State) o =>
    let (i, s1) := s.takeFree
    match targets[Config.freeWord i % targets.length]? with
    | none => s
    | some n =>
      let mine := (out.filter fun e => e.2.cluster == o).map (·.1)
      let s2 := s1.modClu n fun c => { c with pool := (old o).pool, poolBy := [], phasers := movePhasers (old o) c mine }
      mine.foldl (fun (s : State) t => s.modTask t fun x => { x with cluster := n }) s2) s

/-! ### Context switch in (R329, R332) -/

/-- The stages of a save area come back, each on the clusters and with the controls that the plan in force gives it (R329,
R407). -/
def State.restoreStages (s : State) (p : Nat) (a : SaveArea) : Table Stage :=
  a.stages.foldl (fun t (e : Nat × Stage) =>
    let g := s.stage e.1
    if g.valid && g.pasid == p && g.team == e.2.team then
      Table.put t e.1 { e.2 with clusters := g.clusters, lost := g.lost, starve := g.starve, wdef := g.wdef, tide := g.tide }
    else t) s.stages

/-- A team whose slot has left service or its stage while its context was saved comes back as Swapped, as on a withdrawal
(R375; assumption log 108). -/
def State.restoreAside (s : State) (a : SaveArea) (tid : Nat) : State :=
  let team := a.cores.foldl (fun (m : SavedTeam) (e : Nat × Core) => if e.2.task == some tid then Table.put m e.2.rank e.2 else m) []
  { s with saved := Table.put s.saved tid team }.modTask tid fun x => { x with state := .swapped, atOnce := true, resumable := false, swap := .none }

/-- The cores of a save area are refilled; those of a team set aside are not. -/
def State.restoreCore (s : State) (aside : List Nat) (e : Nat × Core) : State :=
  match e.2.task with
  | some tid =>
    if aside.contains tid then s
    else
      let owed := (s.task? tid).bind fun (t : Task) => t.rewindAt
      (s.setCore e.1 (refill (s.core e.1) e.2 tid e.1 s.cycle)).resumeCore e.1 owed
  | none => s.modCore e.1 fun k => { k with regs := e.2.regs, arr := e.2.arr, sp := e.2.sp, ls := e.2.ls }

/-- CONTEXT_RESTORE_COMPLETE: the state is back, every stopped core issues its stop point's bundle in one cycle; saved flits
go in first, in their order, and then the outbound queue. -/
def execContextRestoreComplete (p : Nat) (s : State) : Host.Outcome State Fault Refusal :=
  let x := s.ctx p
  match x.phase, x.area with
  | .restoring at_, some a =>
    if s.cycle < at_ then .next s
    else
      let s0 := { s with
        tasks := a.tasks.foldl (fun t (e : Nat × Task) => Table.put t e.1 e.2) s.tasks,
        stages := s.restoreStages p a,
        xs := a.xs.foldl (fun m (e : Host.Cell) => m.write e.1 e.2) s.xs,
        chipPhasers := a.chipPhasers.foldl (fun t (e : Nat × Phaser) => Table.put t e.1 e.2) s.chipPhasers,
        counters := a.counters.foldl (fun t (e : Nat × Counter) => Table.put t e.1 e.2) s.counters }
      let cls := s0.ctxClusters p
      let s1 := ((a.clusters.filter fun (e : Nat × Cluster) => cls.contains e.1).foldl (fun (s : State) (e : Nat × Cluster) =>
        s.modClu e.1 fun c => { c with pool := e.2.pool, phasers := e.2.phasers, waits := e.2.waits }) s0).loadSpawns p
          ((cls.map fun cl => (List.range 8).map fun i => 8 * cl + i).flatten)
      let here := fun (tid : Nat) => match s1.task? tid with
        | some t => cls.contains t.cluster && (s1.clu t.cluster).inService && !(s1.stage t.stage).lost.contains (8 * t.cluster + t.slot)
        | none => false
      let aside := ((a.cores.filterMap fun (e : Nat × Core) => e.2.task).dedup).filter fun tid => !here tid
      let s2 := (a.cores.filter fun (e : Nat × Core) => e.2.task.isSome || cls.contains (clusterOf e.1)).foldl
        (fun (s : State) e => s.restoreCore aside e) (aside.foldl (fun (s : State) tid => s.restoreAside a tid) s1)
      let s3 := a.cores.foldl (fun (s : State) (e : Nat × Core) => match e.2.task with
        | some tid => if aside.contains tid then s else s.modTask tid fun t => { t with rewindAt := none }
        | none => s) s2
      let moved := (s3.ctxStages p).foldl (fun (s : State) e =>
        s.replace e.1 [] (fun cl => !e.2.clusters.contains cl) fun cl => Table.get a.clusters {} cl) s3
      let s4 := (a.stages.foldl (fun (s : State) (e : Nat × Stage) => s.askEvaluation e.1 s.cycle) moved).modCtx p fun x =>
        { x with phase := .active, area := none }
      let back := a.buffered ++ (s4.link.buffered.filter fun (e : Nat × Arrival) => e.1 == p).map fun (e : Nat × Arrival) => e.2
      let s5 := s4.modLink fun l => { l with buffered := l.buffered.filter fun e => e.1 != p }
      .next ((a.outbound.foldl (fun (s : State) f => s.inject p f) (back.foldl State.reinject s5)).commandDone p)
  | _, _ => .next s

/-! ### Gang switch (R330-R333) -/

/-- The chip's copy of the time base, in nanoseconds: 2.7 cycles to one (R330). -/
def State.timeNow (s : State) : Nat := s.link.timeBase + (s.cycle - s.link.timeAt) * 10 / 27

/-- The switch begins: link traffic of the outgoing context is kept, its cores take a requested stop, and a quiesce
flit follows the last injected flit on each port that is up. It waits while the context comes back, is being destroyed or
goes out with another switch, and a save under way goes on for it (assumption log 58). -/
def State.beginGang (s : State) (g : Gang) : State :=
  let out := s.ctx g.outgoing
  if g.outgoing = 0 || (Table.get? s.contexts g.outgoing).isNone || out.phase == .saved then s.endGang g
  else match out.phase with
    | .restoring _ | .destroying => s
    | _ =>
      if s.gated g.outgoing then s
      else
      let s0 := s.modLink fun l => { l with gangs := (l.gangs.filter (· != g)) ++ [{ g with begun := true }] }
      let s1 := if s.viral then s0 else s.upPorts.foldl (fun (s : State) q => s.sendPort q (.quiesce q g.outgoing)) s0
      if out.phase == .active then s1.stopContext g.outgoing g.tag 0x07 else s1

/-- GANG_SWITCH_TIME: the time base has reached the T of one or more switches. -/
def execGangSwitchTime (s : State) : Host.Outcome State Fault Refusal :=
  .next ((s.link.gangs.filter fun g => !g.begun && decide (g.time ≤ s.timeNow)).foldl State.beginGang s)

/-- A quiesce flit of a context has come in on a port. -/
def State.noteQuiet (s : State) (port pasid : Nat) : State :=
  match s.gangOf pasid with
  | some h => s.modLink fun l => { l with gangs := l.gangs.map fun g =>
      if g == h then { g with quiet := if g.quiet.contains port then g.quiet else g.quiet ++ [port] } else g }
  | none => s

/-- QUIESCE_FLIT: counted for the switch of its context; a chip that runs the context without a pending switch of it acts
as if it had accepted one for this moment, with the tag of the command that it has refused, if any (R330, R331). -/
def execQuiesceFlit (port pasid : Nat) (s : State) : Host.Outcome State Fault Refusal :=
  if s.recovery || !s.delivers (some port) then .next s
  else
    let s := (s.countFlit port).linkRecv 0
    if (s.gangOf pasid).isSome then .next (s.noteQuiet port pasid)
    else if (Table.get? s.contexts pasid).isNone || (s.ctx pasid).phase != .active then .next s
    else
      let g : Gang := { time := s.timeNow, outgoing := pasid, incoming := 0, tag := Table.get s.link.refusedTags 0 pasid }
      .next (((s.modLink fun l => { l with refusedTags := Table.del l.refusedTags pasid }).beginGang g).noteQuiet port pasid)

/-- HANDLER_CONTEXT_FAULT: the context stops and is saved, and the host is told the record (R324). A task without budget
goes back to its segment entries for its stop, where its budget is what it was (R288, R365). -/
def execHandlerContextFault (tid : Nat) (s : State) : Host.Outcome State Fault Refusal :=
  match s.task? tid with
  | none => .next s
  | some t => match t.event with
    | none => .next s
    | some e =>
      let s1 := if e.budgetOut then s.rewindCurrent 8 (s.coresOf tid) [] else s
      .next ((s1.modTask tid fun x => { x with event := none }).contextFault t.pasid
        { stage := t.stage, key := t.key, kind := t.kind, tag := t.tag, code := e.code, trap := e.trap, addr := e.addr, slot := e.slot,
          budgetLeft := t.budget })

end Sys2Proof.Machine
end

