-- ==== Sys2Proof/Machine/Recovery.lean ====
section
/-!
DEFINITION. Recovery (R363-R384): sounder reports and data errors, the clusters that leave service, re-plans, ageing,
and the viral state; the thermal trip (R361); and the reset sequence with the choice of firmware (R350, R362).
-/
namespace Sys2Proof.Machine

/-! ### The viral state (R382, R383) -/

/-- The chip cuts itself off: flits that have not left come with their poison bit, one viral flit goes out on each port that is
not held down (R358), the ports are held down, and one event frame is sent. -/
def State.enterViral (s : State) : State :=
  if s.viral then s
  else
    let late := s.link.blocked ++ s.link.outbound.map fun (e : Nat × Flit) => e.2
    let s1 := s.modLink fun l => { l with outbound := [], blocked := [] }
    let s2 := if s.upPorts.isEmpty then s1 else (late.map Flit.poisoned).foldl State.send s1
    let s3 := s.upPorts.foldl (fun (s : State) q => s.sendPort q (.viral q)) s2
    let s4 := s3.modLink fun l => { l with ports := l.ports.map fun (e : Nat × Port) => (e.1, { e.2 with heldDown := true }) }
    { s4.eventFrame 0 0 0 [] with viral := true }

/-- PLATFORM_UNCORRECTABLE_ERROR. -/
def execPlatformUncorrectableError (_part : PlatformPart) (s : State) : Host.Outcome State Fault Refusal := .next s.enterViral

/-- VIRAL_NEIGHBOUR: routes go around the chip, it leaves every level of the scope table, once however many of its ports say
so, and its port counts as quiesced (R210, R333). When the last trained peer has gone, the table counts this chip alone (R211). -/
def execViralNeighbour (port chip : Nat) (s : State) : Host.Outcome State Fault Refusal :=
  let s1 := ((s.countFlit port).linkRecv 0).modLink fun l =>
    { l with ports := Table.modify l.ports {} port fun q => { q with trained := false, gone := true } }
  .next (if s.recovery || !s.delivers (some port) then s
    else if s.link.viralPeers.contains chip then (if s1.upPorts.isEmpty then s1.leaveScope else s1)
    else (s1.modLink fun l => { l with viralPeers := l.viralPeers ++ [chip] }).leaveScope)

/-! ### Errors of the storage outside the clusters' data (R369, R380, R381) -/

/-- A chunk is rebuilt from the seven others of its stripe: counted; with the 16th rebuild within one second firmware marks
the channel lost (R381). -/
def State.rebuild (s : State) (channel : Nat) : State :=
  let s1 := s.logPlatform 6 0x02
  if s1.channelsLost.contains channel then s1
  else
    let rs := (s1.rebuilds.filter fun r => decide (s.cycle < r.2 + Config.second)) ++ [(channel, s.cycle)]
    let s2 := { s1 with rebuilds := rs }
    if (rs.filter fun r => r.1 == channel).length < 16 then s2
    else { s2 with channelsLost := s2.channelsLost ++ [channel] }.logPlatform 6 0x03

/-- The lines of the data chunks that some stacks hold of a stripe. -/
def chunkLines (stripe : Nat) (ks : List Nat) : List Nat :=
  (((ks.filterMap fun k => chunkAt k stripe).filter fun a => decide (a < hbmEnd)).map fun a => [granOf false a, granOf false (a + 128)]).flatten

/-- The storage meets an error. -/
def State.meetError (s : State) (e : StorageError) : State :=
  match e with
  | .corrected core => s.logPair (logWord 6 (core.getD 0xFF) 0xF (match core with | some c => (s.core c).seq.pc.toNat | none => 0) 0x01) (stampWord 0 0) none
  | .line g => { s with poison := (s.poison ++ [g]).dedup }
  | .held cl n => s.modClu cl fun k => { k with held := k.held.map fun h => if h.ord == n then { h with poison := true } else h }
  | .stripe n ks =>
    let bad := (List.range 8).filter fun k => ks.contains k || s.channelsLost.contains (channelOf k n)
    match bad with
    | [] => s
    | [k] => s.rebuild (channelOf k n)
    | _ => { s with poison := (s.poison ++ chunkLines n bad).dedup }

/-! ### Reports (R363, R372-R375) -/

/-- The cycle in which the register phase of a task's save began, while it is being saved (R368). -/
def State.saveStart (s : State) (t : Task) : Option Nat :=
  match t.swap with
  | .saving at_ => some (at_ - registerCycles - memoryCycles (s.stage t.stage).team)
  | _ => (s.clu t.cluster).savingAt

/-- Has a core writes that have not left the cluster? -/
def State.unreleased (s : State) (c : Nat) : Bool :=
  ((s.clu (clusterOf c)).held.any fun h => h.w.core == c) ||
  s.tasks.any fun (e : Nat × Task) => e.2.wlog.any fun w => w.core == c

/-- A core that holds a task, or has just lost one, recovers from a strike. -/
def State.recoverCore (s : State) (c strike : Nat) : State :=
  let k := s.core c
  match k.task with
  | some tid =>
    match s.task? tid, k.pointFor strike with
    | some t, some rp =>
      if t.leaving.isSome then s
      else match s.saveStart t with
      | some b => if strike < b then (s.rewindTo c rp false).modTask tid fun x => { x with rewindAt := some strike } else s
      | none =>
        let left := match k.rcv.rerun with | some r => r.left | none => false
        ((s.rewindTo c rp left).beginRerun c strike left).modTask tid fun x => { x with event := none }
    | _, _ => s
  | none =>
    match k.rcv.last, k.rcv.rps.head? with
    | some tid, some rp =>
      if s.cycle < k.rcv.keepUntil && strike + Config.sounderBound < k.rcv.keepUntil then
        let s1 := s.modCore c fun q => { q with task := some tid }
        (s1.rewindTo c { rp with freedAt := none } true).beginRerun c strike true
      else s
    | _, _ => s

/-- The cores of a cluster that a report concerns. -/
def clusterCores (cl : Nat) : List Nat := (List.range 8).map fun i => 8 * cl + i

/-- A cluster leaves service: each of its tasks is saved at its rewind points and resumes with the two reruns, and no
slot of the cluster is used until a self-test has passed and a re-plan has followed (R364, R375). A team that is being swapped
out or in there is then swapped by the withdrawal; one whose context is being saved stays with its save. A task that had left
its cores and was being rerun there loses its writes, as on a retirement (R367; assumption log 88). -/
def State.withdraw (s : State) (cl : Nat) : State :=
  let tids := ((clusterCores cl).filterMap fun c => (s.core c).task).dedup
  let s0 := s.modClu cl fun k => { k with inService := false, passed := false, restarts := 0 }
  let s1 := { s0 with tasks := s0.tasks.map fun (e : Nat × Task) => match e.2.swap with
    | .restoring _ => if e.2.cluster = cl then (e.1, { e.2 with swap := .none, atOnce := true }) else e
    | _ => e }
  tids.foldl (fun (s : State) tid => match s.task? tid with
    | none => s
    | some t =>
      let cs := s.coresOf tid
      let left := cs.any fun c => match (s.core c).rcv.rerun with | some r => r.left | none => false
      if left then s.loseWrites cs t.pasid
        { stage := t.stage, key := t.key, kind := t.kind, tag := t.tag, code := 0x0D, trap := 0, addr := 0, slot := 15, budgetLeft := t.budget }
      else if t.swap != .none then s.modTask tid fun x => { x with atOnce := true }
      else if t.leaving.isSome || !t.inFlight || (s.clu cl).savingAt.isSome then s
      else
        let s2 := cs.foldl (fun (s : State) c => match (s.core c).rcv.rps.head? with
          | some rp => (s.rewindTo c rp false).modCore c fun k => k.modRcv fun r => { r with rerun := none }
          | none => s) s
        (s2.startSaving tid).modTask tid fun x =>
          { x with state := .swapped, atOnce := true, resumable := false, event := none, rewindAt := some 0,
                   swap := .saving (s.cycle + registerCycles + memoryCycles (s.stage t.stage).team) }) s1

/-- A report reaches a cluster. -/
def State.report (s : State) (cl strike : Nat) : State :=
  let again := (clusterCores cl).any fun c => (s.core c).rcv.rerun.isSome
  let n := if again then (s.clu cl).restarts + 1 else 0
  let tooOld := (clusterCores cl).any fun c =>
    s.unreleased c && !(s.core c).rcv.rps.isEmpty && (s.core c).rcv.rps.all fun p => decide (strike < p.cycle)
  if tooOld then s.enterViral
  else
    let s1 := (clusterCores cl).foldl (fun (s : State) c => s.recoverCore c strike) (s.modClu cl fun k => { k with restarts := n })
    if 4 ≤ n then s1.withdraw cl else s1

/-- SOUNDER_REPORT: one cluster, or two adjacent clusters of a die. -/
def execSounderReport (first : Nat) (second : Option Nat) (strike : Nat) (s : State) : Host.Outcome State Fault Refusal :=
  if s.viral || s.tripped then .next s
  else
    let s1 := s.report first strike
    .next (match second with | some c => s1.report c strike | none => s1)

/-- DATA_ERROR (R370): as a report of its cluster and cycle; found again at the same place by a rerun, it is stored, and
the uncorrectable-data fault is raised in the bundle that reads it, never deferred. In a rewind point or a scratchpad
it makes a retirement under way fail (R377). -/
def execDataError (cluster core : Nat) (site : ErrorSite) (addr : Nat) (s : State) : Host.Outcome State Fault Refusal :=
  let c := 8 * cluster + core % 8
  let place := (c, site, addr)
  let retiring : Bool := (site == .scratchpad || site == .rewindPoint) && ((s.taskOf c).map (·.retiring)).getD false
  if s.viral || s.tripped then .next s
  else if retiring then .next s.enterViral
  else if (s.core c).rcv.rerun.isSome && (s.clu cluster).errors.contains place then
    match (s.core c).task with
    | none => .next s
    | some tid =>
      let s1 := (clusterCores cluster).foldl (fun (s : State) d => s.modCore d fun k => k.modRcv fun r => { r with rerun := none }) s
      .next ((s1.modClu cluster fun k => { k with errors := k.errors.filter (· != place) }).deliverFault tid
        { code := 0x0C, core := c, slot := 15, addr := (s.core c).seq.pc, safe := s.shadowFree c })
  else .next ((s.modClu cluster fun k => { k with errors := if k.errors.contains place then k.errors else k.errors ++ [place] }).report cluster s.cycle)

/-- SOUNDER_SELF_TEST: fewer than 40 passing sounders take the cluster out of service at once. -/
def execSounderSelfTest (cluster passing : Nat) (s : State) : Host.Outcome State Fault Refusal :=
  let s1 := s.modClu cluster fun k => { k with sounders := passing, passed := decide (40 ≤ passing) }
  .next (if passing < 40 then (if (s.clu cluster).inService then s1.withdraw cluster else s1).logPlatform 6 0x04 else s1)

/-! ### Ageing and re-plans (R14, R15, R376, R384, R407) -/

/-- AGEING_MONITOR_READ: the slack that the cluster's 16 monitors measure, in picoseconds (R384). -/
def execAgeingMonitorRead (cluster : Nat) (slack : List Nat) (s : State) : Host.Outcome State Fault Refusal :=
  .next (if slack.length = 16 then s.modClu cluster fun k => { k with slack := slack } else s)

/-- Cores become retired and `hwcfg` follows (R5, R6). -/
def State.retireAll (s : State) (cs : List Nat) : State :=
  (cs.foldl (fun (s : State) c => s.modCore c fun k => { k with retired := true }) s).recount

/-- MARGIN_REPLAN: at a quiet point only. A cluster that would need more than 0.80 V leaves service, its cores retired. -/
def execMarginReplan (cluster millivolt guardBand : Nat) (s : State) : Host.Outcome State Fault Refusal :=
  let quiet := ((clusterCores cluster).all fun c => (s.core c).task.isNone) || s.link.gangs.any (·.begun) ||
    s.contexts.any fun (e : Nat × Context) => match e.2.phase with | .saving _ => true | .restoring _ => true | _ => false
  if !quiet then .next s
  else if 800 < millivolt then .next ((s.withdraw cluster).retireAll (clusterCores cluster))
  else .next (s.modClu cluster fun k => { k with vdd := millivolt, guardBand := guardBand })

/-- The slots of a stage that hold a retired core. -/
def State.lostSlots (s : State) (g : Stage) : List Nat :=
  (g.slots.filter fun x => (teamCores g.team x.1 x.2).any fun c => (s.core c).retired).map fun x => 8 * x.1 + x.2

/-- A section laid out over the lane slices, one part per lane (R64). -/
def placeLanes (m : Memory) (o : Nat) (bs : List Byte) : Memory :=
  let n := bs.length / 128
  (List.range 128).foldl (fun (m : Memory) l => m.writeBytes (0x2000 * l + o) ((bs.drop (l * n)).take n)) m

/-- A data section goes to its place in one cluster (R344). -/
def State.placeSection (s : State) (g : Stage) (cl : Nat) (d : Section) : State :=
  let cores := (g.slots.filter fun x => x.1 == cl).map (fun x => teamCores g.team x.1 x.2)
  match d.level with
  | 0 => cores.flatten.foldl (fun (s : State) c => s.modCore c fun k => { k with ls := placeLanes k.ls d.offset d.data }) s
  | 1 => cores.flatten.foldl (fun (s : State) c => s.modCore c fun k => { k with sp := k.sp.writeBytes d.offset d.data }) s
  | 2 => s.modClu cl fun k => { k with pool := k.pool.writeBytes d.offset d.data }
  | _ => s

/-- The spawns of every context stay with it when its clusters may change hands (R254). -/
def State.keepAllSpawns (s : State) : State :=
  (s.stages.filter fun (e : Nat × Stage) => e.2.valid).foldl (fun (s : State) (e : Nat × Stage) =>
    s.keepSpawns e.2.pasid ((e.2.clusters.map clusterCores).flatten)) s

/-- Does a cluster hold a task that only it can take back: a team on its cores, here or in the save area of its context while
the cluster is in service, or a task that has been swapped there by its own wait (R327, R329)? -/
def State.parked (s : State) (cl : Nat) : Bool :=
  let waits := fun (t : Task) => t.cluster == cl && t.inFlight && t.state == .swapped && !t.atOnce
  ((clusterCores cl).any fun d => (s.core d).task.isSome) || (s.tasks.any fun (e : Nat × Task) => waits e.2) ||
  s.contexts.any fun (e : Nat × Context) => match e.2.area with
    | some a => (a.tasks.any fun (x : Nat × Task) => waits x.2) ||
        ((s.clu cl).inService && a.cores.any fun (x : Nat × Core) => clusterOf x.1 == cl && x.2.task.isSome)
    | none => false

/-- REPLAN_PUBLICATION: a re-plan of one stage keeps its team size and its context, and takes no cluster away that a task still
needs. A cluster that has passed its self-test returns to service, slots without a retired core return, clusters that join
are cleared and receive the launch contents, and tasks whose cluster has left are placed anew. -/
def execReplanPublication (stage clusters : Nat) (s : State) : Host.Outcome State Fault Refusal :=
  let g := s.stage stage
  let cs := (List.range 24).filter fun c => bitAt clusters c
  let taken := s.stages.any fun (e : Nat × Stage) => e.1 != stage && e.2.valid && e.2.clusters.any (cs.contains ·)
  let busy := (g.clusters.filter fun c => !cs.contains c).any s.parked
  if !g.valid || cs.isEmpty || taken || busy || clusters / 2 ^ 24 != 0 then .next s
  else
    let fresh := cs.filter fun c => !g.clusters.contains c
    let s1 := cs.foldl (fun (s : State) c => s.modClu c fun k => { k with inService := k.inService || k.passed }) s.keepAllSpawns
    let s2 := fresh.foldl (fun (s : State) c => s.handCluster c none g.pasid false) s1
    let g1 := { g with clusters := cs }
    let s3 := s2.modStage stage fun _ => { g1 with lost := s2.lostSlots g1 }
    let p := g.prog.getD {}
    let s4 := fresh.foldl (fun (s : State) c => p.sects.foldl (fun (s : State) d => s.placeSection g1 c d) s) s3
    .next (((s4.replace stage fresh (fun c => !(s4.usable (s4.stage stage)).contains c) s4.clu).fillScope).askEvaluation stage (s.cycle + 1))

/-! ### Temperature (R361) -/

/-- The trip stops all compute and holds the ports down until reset. -/
def State.trip (s : State) : State :=
  { s with tripped := true }.modLink fun l => { l with ports := l.ports.map fun (e : Nat × Port) => (e.1, { e.2 with heldDown := true }) }

def execThermalTrip (s : State) : Host.Outcome State Fault Refusal := .next s.trip

def execTemperatureReport (die celsius : Nat) (s : State) : Host.Outcome State Fault Refusal :=
  let s1 := s.modDie die fun d => { d with junction := celsius, hottest := some (Nat.max (d.hottest.getD 0) celsius) }
  .next (if 115 ≤ celsius then s1.trip else s1)

/-! ### Reset (R350-R352, R362) -/

/-- `hwcfg` from the configuration record: enabled cores and clusters, stepping, LPDDR-6 and form (R5). -/
def recordWord (r : ConfigRecord) : Word64 :=
  let on := (List.range 192).filter fun c => !r.disabled.contains c
  BitVec.ofNat 64 (on.length * 2 ^ 24 + ((on.map clusterOf).dedup).length * 2 ^ 19 + r.stepping % 2 ^ 8 * 2 ^ 8 + bit r.lpddr * 2 ^ 4 + r.form.code)

/-- Bytes of an image's header and signature, and of a slot (R349). -/
def imageHeader : Nat := 64
def imageSignature : Nat := 7856
def imageBytes : Nat := 2 ^ 24

def field (bs : List Byte) (o n : Nat) : Nat := leNat ((bs.drop o).take n)
def zeroAt (bs : List Byte) (o n : Nat) : Bool := ((bs.drop o).take n).all (· == 0)

/-- The check of an image (R349): its header as its bytes give it, its length, and its signature. -/
def Image.parse (i : Image) : Image :=
  let b := i.bytes.readBytes 0 imageHeader
  let n := field b 14 1
  let ok := field b 0 4 == 0x464E5856 && zeroAt b 15 1 && zeroAt b 40 24 && decide (1 ≤ n) && decide (n ≤ 8) &&
    zeroAt b (16 + 2 * n) (16 - 2 * n) && decide (imageHeader + field b 32 8 + imageSignature ≤ imageBytes)
  let reads := (List.range n).map fun j => field b (16 + 2 * j) 2
  { i with verified := Config.signed i.bytes && ok && reads.contains (field b 12 2), unchecked := false,
           secver := field b 4 4, writes := field b 12 2, reads := reads }

/-- The boot ROM checks what has been uploaded since the last check (R350, R352). -/
def Image.checked (i : Image) : Image := if i.unchecked then i.parse else i

def Image.qualifies (i : Image) (minSecver : Nat) : Bool := i.verified && decide (minSecver ≤ i.secver)

/-- What the machine itself has put among the events to come, and what comes over links, ends with a reset. -/
def ownInput : Instr → Bool
  | .taskDispatch _ => true
  | .tileArrival t => t.port.isNone
  | .eosTokenArrival v _ _ | .windowAdvertisement v _ _ | .partialArrival v _ _ => v.port.isNone
  | _ => false

/-- What the scheduler has put among the events to come. -/
def ownDispatch : Instr → Bool
  | .taskDispatch _ => true
  | _ => false

/-- The state of a chip whose rails have just come up: flash, memory contents and what the world has seen stay.
`warm`: an activation, which resets the headland, the skerries and the compute dies: saved contexts with their swap areas, the
harbour die's tables, log and Tideport, and what the routers keep for saved contexts stay too (R331, R351, R386). -/
def State.cold (s : State) (warm : Bool) : State :=
  { pmem := s.pmem, poison := s.poison, record := s.record, errors := s.errors, peers := s.peers, chipNo := s.chipNo,
    host := if warm then { s.host with update := .none } else
      { sent := s.host.sent, imageA := s.host.imageA, imageB := s.host.imageB, preferredB := s.host.preferredB },
    link := if warm then { sent := s.link.sent, buffered := s.link.buffered, outbound := s.link.outbound, blocked := s.link.blocked }
      else { sent := s.link.sent },
    contexts := if warm then s.contexts else [], queues := if warm then s.queues else [], saved := if warm then s.saved else [],
    cycle := s.cycle, turn := s.turn, pending := s.pending, inputs := s.inputs.filter (fun e => if warm then !ownDispatch e.2 else !ownInput e.2), free := s.free, nextId := s.nextId }

/-- Step 2 of the reset: the boot ROM checks the slots and selects one; a fallback is logged. None qualifies: recovery
(R350). -/
def State.bootSlot (s : State) (minSecver : Nat) : State :=
  let s0 := s.modHost fun h => { h with imageA := h.imageA.checked, imageB := h.imageB.checked }
  let h := s0.host
  let a := h.imageA.qualifies minSecver
  let b := h.imageB.qualifies minSecver
  if !a && !b then { s0 with recovery := true }
  else
    let useB := if h.preferredB then b else !a
    let s1 := s0.modHost fun h => { h with runningB := useB, minSecver := minSecver }
    if useB != h.preferredB then s1.logPlatform 5 0x01 else s1

/-- Step 3: the record gives `hwcfg`, and the cores that it disables are out of use (R5, R359). -/
def State.bootRecord (s : State) (r : ConfigRecord) : State :=
  { (r.disabled.foldl (fun (s : State) c => if c < 192 then s.modCore c fun k => { k with retired := true } else s) s) with
    record := r, hwcfg := recordWord r }

/-- Step 5: each port is trained that has a peer, which is left open, and the scope table is filled (R210, R358). -/
def State.bootPorts (s : State) : State :=
  let ports : Table Port := (List.range 8).map fun p => (p, if Config.freeChoice (s.free + p) then { trained := true, heldDown := false } else {})
  ({ s with free := s.free + 8 }.modLink fun l => { l with ports := ports }).fillScope

/-- Step 6: the headland's first publication for every die, and then the Ready frame (R322, R362). -/
def State.bootReady (s : State) : State :=
  let one := fun (s : State) d =>
    let s1 := s.modDie d fun x => { x with hottest := some (Config.freeWord s.free % 115) }
    match execHeadroomPublication d (Config.freeWord (s.free + 1) % 10001) { s1 with free := s.free + 2 } with | .next t => t | _ => s
  ((List.range 4).foldl one s).eventFrame 0 0 0 []

/-- The steps of the reset sequence up to the n-th, in order (R362); recovery ends it at step 2. -/
def State.bootUpTo (s : State) (r : ConfigRecord) : Nat → State
  | 0 => s
  | n + 1 =>
    let t := s.bootUpTo r n
    if t.recovery then t
    else
      let u := match n + 1 with
        | 2 => t.bootSlot r.minSecver
        | 3 => t.bootRecord r
        | 5 => t.bootPorts
        | 6 => t.bootReady
        | _ => t
      { u with resetStep := n + 1 }

/-- The reset sequence; a step that fails leaves the chip there, with the earlier steps done, and is logged. -/
def State.boot (s : State) (r : ConfigRecord) (failure : BootFailure) (warm : Bool) : State :=
  match failure with
  | none => (s.cold warm).bootUpTo r 6
  | some k =>
    let t := (s.cold warm).bootUpTo r (Nat.min k 6 - 1)
    if t.recovery then t
    else ({ t with resetStep := Nat.min k 6, stuck := true }).logPlatform 5 (0x02 + 256 * (Nat.min k 6))

/-- POWER_ON_RESET. -/
def execPowerOnReset (record : ConfigRecord) (failure : BootFailure) (s : State) : Host.Outcome State Fault Refusal :=
  .next (s.boot record failure false)

end Sys2Proof.Machine
end

