-- ==== Sys2Proof/Machine/Host.lean ====
section
/-!
DEFINITION. The Tideport (R352-R355): frames and their answers, the management units, the fault log, and the commands on
contexts, translations, plans, firmware and the chip (R317, R321, R329-R331, R335, R346, R349-R351, R386, R407).
-/
namespace Sys2Proof.Machine

/-! ### Frames (R352, R353) -/

/-- A frame out of sequence is dropped, and its answer holds the expected number. -/
def State.badFrame (s : State) (fr : Frame) : State :=
  s.modHost fun h => { h with sent := h.sent ++
    [{ type := 4, seq := h.seqIn, pasid := fr.pasid.toNat, code := 4, addr := fr.addr, tag := fr.tag }] }

/-- Acts on a frame in sequence and answers it with the status and the payload of the action. In recovery and in the
viral state only what `always` allows is served; a chip that has stayed at a reset step serves nothing (R362). -/
def State.frame (s : State) (fr : Frame) (always : Bool) (act : State → Nat × List Byte × State) : State :=
  if s.stuck then s
  else if fr.seq.toNat != s.host.seqIn then s.badFrame fr
  else
    let s1 := s.modHost fun h => { h with seqIn := (h.seqIn + 1) % 2 ^ 32 }
    let (status, payload, s2) := if (s.recovery || s.viral) && !always then (0x03, [], s1) else act s1
    s2.sendFrame 4 status fr.pasid.toNat fr.addr fr.tag payload

/-- An action that only has a status. -/
def State.command1 (s : State) (fr : Frame) (act : State → Nat × State) : State :=
  s.frame fr false fun t => let (st, u) := act t; (st, [], u)

/-- Accepts an action under a condition, and refuses it otherwise. -/
def State.acceptIf (s : State) (ok : Bool) (act : State → State) : Nat × State := if ok then (0, act s) else (1, s)

def execMalformedFrame (fr : Frame) (s : State) : Host.Outcome State Fault Refusal := .next (if s.stuck then s else s.badFrame fr)

/-! ### Management units (R346, R354) -/

def qstateCode : QState → Nat
  | .disabled => 0 | .running => 1 | .fenceWait => 2 | .error => 3

/-- Unit j of a queue-control slot (R340). -/
def queueUnit (q : Option QueueSlot) (j : Nat) : Nat :=
  match q with
  | none => 0
  | some .tombstone => if j = 0 then 2 * 2 ^ 28 else 0
  | some (.live q) => match j with
    | 0 => q.pasid + q.q * 2 ^ 20 + 2 ^ 28 + qstateCode q.qstate * 2 ^ 32 + q.stage * 2 ^ 40 + q.ecode * 2 ^ 48 + q.lg * 2 ^ 56
    | 1 => q.ring
    | 2 => q.rptr + q.wptr * 2 ^ 32
    | _ => 0

/-- An entry of the segment table of a stage. -/
def State.segEntry (s : State) (st k : Nat) : Nat :=
  let g := s.stage st
  match g.prog with
  | none => 0
  | some p =>
    if k = 0 then (if p.overlays.isEmpty then 0 else 2 ^ 50) + p.codelen * 2 ^ 32
    else match Table.get? p.overlays k with
      | none => 0
      | some o =>
        let src := p.codelen + ((p.overlays.filter fun (e : Nat × Overlay) => e.1 < k).map fun (e : Nat × Overlay) => e.2.lines).sum
        let pins := ((List.range g.team).map fun r => bit (g.slots.any fun x =>
          (s.core (8 * x.1 + x.2 * g.team + r)).pins.contains k) * 2 ^ r).sum
        o.next * 2 ^ 50 + o.frame * 2 ^ 44 + o.lines * 2 ^ 32 + src * 2 ^ 16 + pins

/-- The status and value of a read at a management address; the log head is not among them. -/
def State.unitRead (s : State) (pasid a : Nat) : Nat × Nat :=
  let st := (a - 0x20000) / 0x1000
  let off := (a - 0x20000) % 0x1000
  if a % 8 != 0 then (2, 0)
  else if 0x10000 ≤ a && a < 0x10038 then (0, (Table.get s.scopetab 0 ((a - 0x10000) / 8)).toNat)
  else if a = 0x10038 then (0, (s.ctx pasid).scope7.toNat)
  else if 0x20000 ≤ a && a < 0x28000 && (off ≤ 0x100 || (0x800 ≤ off && off < 0xA00)) then
    let g := s.stage st
    if !g.valid then (1, 0)
    else if off < 0x100 then (0, (Table.get g.tide 0 (off / 8)).toNat)
    else if off = 0x100 then (0, g.starve * 2 ^ 32 + g.wdef)
    else (0, s.segEntry st ((off - 0x800) / 8))
  else if 0x30000 ≤ a && a < 0x300C0 then (0, (s.clu ((a - 0x30000) / 8)).fpoll.toNat)
  else if 0x40000 ≤ a && a < 0x80000 then (0, queueUnit (Table.get? s.queues ((a - 0x40000) / 64)) (a / 8 % 8))
  else if 0x90000 ≤ a && a < 0x98000 then
    match engReg? ((a - 0x90000) / 8) with
    | none => (2, 0)
    | some .evq => (2, 0)
    | some r => if (Table.get? s.contexts pasid).isNone then (1, 0) else (0, (s.engRead pasid 0 r).toNat)
  else (2, 0)

def LogPair.ready (p : LogPair) (cycle : Nat) : Bool :=
  match p.readableAt with | some t => decide (t ≤ cycle) | none => false

/-- The first readable pair with no unreadable pair of its agent, the core that it names, before it. -/
def pickPair (cycle : Nat) : List Nat → List LogPair → Option LogPair
  | _, [] => none
  | blocked, p :: rest =>
    let agent := bits p.event.toNat 52 8
    if !p.ready cycle then pickPair cycle (agent :: blocked) rest
    else if blocked.contains agent then pickPair cycle blocked rest
    else some p

/-- The log head: the stamp of the pair half read, else the event of the next readable pair; 0 when there is none
(R386, R387). -/
def State.logRead (s : State) : Nat × State :=
  let l := s.host.log
  match l.find? (·.half) with
  | some p => (p.stamp.toNat, s.modHost fun h => { h with log := l.erase p })
  | none => match pickPair s.cycle [] l with
    | some p => (p.event.toNat, s.modHost fun h => { h with log := l.replace p { p with half := true } })
    | none => (0, s)

/-- FAULT_LOG_READ. -/
def execFaultLogRead (fr : Frame) (s : State) : Host.Outcome State Fault Refusal :=
  .next (s.frame fr true fun t => let (v, u) := t.logRead; (0, leBytes 8 v, u))

/-- MANAGEMENT_READ. -/
def execManagementRead (fr : Frame) (s : State) : Host.Outcome State Fault Refusal :=
  let a := fr.addr.toNat
  if a = 0x80000 then execFaultLogRead fr s
  else .next (s.frame fr (!s.recovery && decide (0x10000 ≤ a) && decide (a < 0x10040)) fun t =>
    let (st, v) := t.unitRead fr.pasid.toNat a
    (st, if st = 0 then leBytes 8 v else [], t))

/-! ### Management writes -/

/-- A tide-table entry of a stage of the plan (R317). -/
def State.tideWrite (s : State) (st e : Nat) (v : Word64) : Nat × State :=
  s.acceptIf ((s.stage st).valid && decide (e < 32) && tideOk v.toNat) fun t => t.modStage st fun g => { g with tide := Table.put g.tide e v }

def State.stagectl (s : State) (st : Nat) (v : Word64) : Nat × State :=
  s.acceptIf ((s.stage st).valid && stagectlOk v.toNat) fun t =>
    t.modStage st fun g => { g with starve := v.toNat / 2 ^ 32, wdef := v.toNat % 2 ^ 32 }

def ringSize (q : Queue) : Nat := 2 ^ q.lg
/-- Packets between rptr and wptr, modulo 2^32. -/
def ahead (q : Queue) : Nat := (q.wptr + 2 ^ 32 - q.rptr) % 2 ^ 32
def stopped (q : Queue) : Bool := q.qstate == .error || q.qstate == .disabled

/-- Disabled: the command processor stops after the packet on which it acts, which stays (R347). -/
def State.queueDisable (s : State) (slot : Nat) : Nat × State :=
  s.acceptIf (s.queue? slot).isSome fun t => t.modQueue slot fun q => { q with qstate := .disabled, copies := [] }

def State.queueRun (s : State) (slot : Nat) : Nat × State :=
  match s.queue? slot with
  | none => (1, s)
  | some q => s.acceptIf (stopped q && decide (ahead q ≤ ringSize q)) fun t =>
      t.modQueue slot fun q => { q with qstate := (if (q.acting.map fun a => field a.2 0 1) == some 3 then .fenceWait else .running),
                                        copies := [], rereadAt := none }

def State.queueRptr (s : State) (slot : Nat) (v : Nat) : Nat × State :=
  match s.queue? slot with
  | none => (1, s)
  | some q => s.acceptIf (stopped q) fun t => t.modQueue slot fun q => { q with rptr := v, copies := [], acting := none }

/-- An engine register of a context (R230). -/
def State.engineUnit (s : State) (pasid num : Nat) (v : Word64) : Nat × State :=
  match engReg? num with
  | none => (2, s)
  | some .evq => (2, s)
  | some r => s.acceptIf ((Table.get? s.contexts pasid).isSome && (s.engRefuse pasid r v).isNone) fun t => t.engWriteNow pasid r v

/-- A write at a management address. -/
def State.unitWrite (s : State) (pasid a : Nat) (v : Word64) : Nat × State :=
  let st := (a - 0x20000) / 0x1000
  let off := (a - 0x20000) % 0x1000
  let slot := (a - 0x40000) / 64
  if a % 8 != 0 then (2, s)
  else if 0x10000 ≤ a && a < 0x10040 then (1, s)
  else if 0x20000 ≤ a && a < 0x28000 && off < 0x100 then s.tideWrite st (off / 8) v
  else if 0x20000 ≤ a && a < 0x28000 && off = 0x100 then s.stagectl st v
  else if 0x20000 ≤ a && a < 0x28000 && 0x800 ≤ off && off < 0xA00 then (1, s)
  else if 0x30000 ≤ a && a < 0x300C0 then (1, s)
  else if 0x40000 ≤ a && a < 0x80000 then
    match a / 8 % 8 with
    | 0 => match bits v.toNat 32 8 with
      | 0 => s.queueDisable slot
      | 1 => s.queueRun slot
      | _ => (1, s)
    | 2 => s.queueRptr slot (v.toNat % 2 ^ 32)
    | _ => (1, s)
  else if a = 0x80000 then (1, s)
  else if 0x90000 ≤ a && a < 0x98000 then s.engineUnit pasid ((a - 0x90000) / 8) v
  else (2, s)

def execManagementWrite (fr : Frame) (v : Word64) (s : State) : Host.Outcome State Fault Refusal :=
  .next (s.command1 fr fun t => t.unitWrite fr.pasid.toNat fr.addr.toNat v)
def execTideTableWrite (fr : Frame) (stage entry : Nat) (v : Word64) (s : State) : Host.Outcome State Fault Refusal :=
  .next (s.command1 fr fun t => t.tideWrite stage entry v)
def execStagectlWrite (fr : Frame) (stage : Nat) (v : Word64) (s : State) : Host.Outcome State Fault Refusal :=
  .next (s.command1 fr fun t => t.stagectl stage v)
def execQstateDisable (fr : Frame) (slot : Nat) (s : State) : Host.Outcome State Fault Refusal :=
  .next (s.command1 fr fun t => t.queueDisable slot)
def execQstateRun (fr : Frame) (slot : Nat) (s : State) : Host.Outcome State Fault Refusal :=
  .next (s.command1 fr fun t => t.queueRun slot)
def execRptrWrite (fr : Frame) (slot : Nat) (v : Word32) (s : State) : Host.Outcome State Fault Refusal :=
  .next (s.command1 fr fun t => t.queueRptr slot v.toNat)
/-- REDUCTION_WINDOW_WRITE (R159). -/
def execReductionWindowWrite (fr : Frame) (num : BitVec 12) (v : Word64) (s : State) : Host.Outcome State Fault Refusal :=
  .next (s.command1 fr fun t => t.engineUnit fr.pasid.toNat num.toNat v)
/-- STARENA_WRITE (R232). -/
def execStarenaWrite (fr : Frame) (v : Word64) (s : State) : Host.Outcome State Fault Refusal :=
  .next (s.command1 fr fun t => t.engineUnit fr.pasid.toNat 0x100 v)
/-- SPILL_REGION_WRITE (R232). -/
def execSpillRegionWrite (fr : Frame) (num : BitVec 12) (v : Word64) (s : State) : Host.Outcome State Fault Refusal :=
  .next (s.command1 fr fun t => t.engineUnit fr.pasid.toNat num.toNat v)
/-- IN_CHANNEL_WRITE (R246). -/
def execInChannelWrite (fr : Frame) (num : BitVec 12) (v : Word64) (s : State) : Host.Outcome State Fault Refusal :=
  .next (s.command1 fr fun t => t.engineUnit fr.pasid.toNat num.toNat v)
/-- OUT_CHANNEL_WRITE (R246). -/
def execOutChannelWrite (fr : Frame) (num : BitVec 12) (v : Word64) (s : State) : Host.Outcome State Fault Refusal :=
  .next (s.command1 fr fun t => t.engineUnit fr.pasid.toNat num.toNat v)

/-! ### Contexts (R328, R329, R335) -/

def disjoint (a n b m : Nat) : Bool := n = 0 || m = 0 || decide (a + n ≤ b) || decide (b + m ≤ a)

/-- The context that a descriptor creates; its entry of the scope table is filled with it. -/
def descriptor (bs : List Byte) : Context :=
  { layout := field bs 4 2, ptroot := field bs 8 8, save := field bs 16 8, phbase := field bs 24 2, phcount := field bs 26 2,
    dcbase := field bs 28 4, dccount := field bs 32 4, xsbase := field bs 40 8, xssize := field bs 48 8, scope7 := scopeEntry 1 0 }

def State.descriptorOk (s : State) (bs : List Byte) : Bool :=
  let x := descriptor bs
  let p := field bs 0 4
  bs.length == 64 && p != 0 && decide (p < 2 ^ 20) && zeroAt bs 6 2 && zeroAt bs 36 4 && zeroAt bs 56 8 &&
  (Table.get? s.contexts p).isNone && decide (s.running < 8) &&
  x.ptroot % 2 ^ 21 == 0 && decide (x.ptroot + 2 ^ 21 ≤ hbmEnd) && x.save % 2 ^ 30 == 0 && decide (x.save < hbmEnd) &&
  x.xsbase % 128 == 0 && decide (x.phbase + x.phcount ≤ 512) && decide (x.dcbase + x.dccount ≤ 65536) &&
  decide (x.xsbase + x.xssize ≤ Config.xsBytes) &&
  s.contexts.all fun (e : Nat × Context) => disjoint x.phbase x.phcount e.2.phbase e.2.phcount &&
    disjoint x.dcbase x.dccount e.2.dcbase e.2.dccount && disjoint x.xsbase x.xssize e.2.xsbase e.2.xssize

/-- What the ranges of a context hold on the chip is cleared. -/
def State.clearRanges (s : State) (x : Context) : State :=
  { s with xs := s.xs.filter fun (e : Host.Cell) => !inRange x.xsbase x.xssize e.1,
           chipPhasers := s.chipPhasers.filter fun e => !inRange x.phbase x.phcount e.1,
           counters := s.counters.filter fun e => !inRange x.dcbase x.dccount e.1 }

/-- CREATE_CONTEXT. -/
def execCreateContext (fr : Frame) (body : List Byte) (s : State) : Host.Outcome State Fault Refusal :=
  .next (s.command1 fr fun t => t.acceptIf (t.descriptorOk body) fun u =>
    let x := descriptor body
    let p := field body 0 4
    { u.clearRanges x with contexts := Table.put u.contexts p { x with scope7 := scopeSeven u.free u.upPorts.length p }, free := u.free + 2 ^ 22 })

/-- Is a gang switch of the context under way: has its time come (R335)? -/
def State.inGang (s : State) (p : Nat) : Bool := s.link.gangs.any fun g => g.begun && (g.outgoing == p || g.incoming == p)

/-- DESTROY_CONTEXT: tasks abort, queues become tombstones, the rest is freed when nothing of it is left: what a save area
and the swap areas hold at once, link traffic included. -/
def execDestroyContext (fr : Frame) (s : State) : Host.Outcome State Fault Refusal :=
  let p := fr.pasid.toNat
  .next (s.command1 fr fun t =>
    let ph := (t.ctx p).phase
    t.acceptIf ((Table.get? t.contexts p).isSome && (ph == .active || ph == .saved) && !t.inGang p) fun u =>
      let u1 := (u.ctxTasks p).foldl (fun (u : State) e => u.abortLater e.1 false false) u
      { u1 with saved := u1.saved.filter fun (e : Nat × SavedTeam) => !((u.ctx p).area.map fun (a : SaveArea) => a.tasks.any fun x => x.1 == e.1).getD false,
                queues := u1.queues.map fun (e : Nat × QueueSlot) => match e.2 with
          | .live q => if q.pasid == p then (e.1, .tombstone) else e
          | .tombstone => e }.modCtx p fun x =>
        { x with phase := .destroying, tag := fr.tag, command := 0x02, area := none, stash := [], windows := [], inch := [], outch := [] })

/-- CONTEXT_FREED: no core, no task and no held write of the context is left. -/
def execContextFreed (pasid : Nat) (s : State) : Host.Outcome State Fault Refusal :=
  let x := s.ctx pasid
  let held := s.clusters.any fun (e : Nat × Cluster) => e.2.held.any fun h => h.pasid == pasid
  let busy := s.tasks.any fun (e : Nat × Task) => e.2.pasid == pasid && (e.2.inFlight || !(s.coresOf e.1).isEmpty)
  if x.phase != .destroying || held || busy then .next s
  else
    let cls := s.ctxClusters pasid
    let s1 := s.clearRanges x
    let s2 := { s1 with
      contexts := Table.del s1.contexts pasid,
      stages := s1.stages.map fun (e : Nat × Stage) => if e.2.pasid == pasid then (e.1, {}) else e,
      clusters := s1.clusters.map fun (e : Nat × Cluster) => if cls.contains e.1 then
        (e.1, { e.2 with pool := [], poolBy := [], phasers := [], waits := [], savingAt := none }) else e,
      cores := s1.cores.map fun (e : Nat × Core) => if cls.contains (clusterOf e.1) then
        (e.1, { (e.2.handOver false) with eng := { (e.2.handOver false).eng with phaserOps := [], spawnSeq := 0 } }) else e,
      link := { s1.link with buffered := s1.link.buffered.filter fun (e : Nat × Arrival) => e.1 != pasid,
                             outbound := s1.link.outbound.filter fun (e : Nat × Flit) => e.1 != pasid } }
    .next ((if x.command = 0 then s2 else s2.eventFrame pasid x.command x.tag []).layoutCheck)

/-- SAVE_CONTEXT. -/
def execSaveContext (fr : Frame) (s : State) : Host.Outcome State Fault Refusal :=
  let p := fr.pasid.toNat
  .next (s.command1 fr fun t => t.acceptIf ((Table.get? t.contexts p).isSome && (t.ctx p).phase == .active && !t.inGang p && decide (t.resident < 8))
    fun u => u.stopContext p fr.tag 0x08)

/-- RESTORE_CONTEXT: a chip runs at most eight contexts (R334). -/
def execRestoreContext (fr : Frame) (s : State) : Host.Outcome State Fault Refusal :=
  let p := fr.pasid.toNat
  .next (s.command1 fr fun t => t.acceptIf (t.restorable p && !t.inGang p && decide (t.running < 8)) fun u => u.startRestore p fr.tag 0x09)

/-- INVALIDATE_TRANSLATIONS (R214, R237, R338, R353): the command is answered, and a marker enters the copy queues; it takes effect, and posts
its event frame, at the end of the cycle in which each has passed it. -/
def execInvalidateTranslations (fr : Frame) (va count : Word64) (size : TinvSize) (s : State) : Host.Outcome State Fault Refusal :=
  .next (s.command1 fr fun t => t.acceptIf ((Table.get? t.contexts fr.pasid.toNat).isSome && !tinvRefused va.toNat count.toNat size)
    fun u =>
      let (id, u1) := u.takeId
      u1.modCtx fr.pasid.toNat fun x => { x with markers := x.markers ++ [{ id := id, va := va.toNat, count := count.toNat, size := size, tag := fr.tag }] })

/-- GANG_SWITCH (R330): refused with the queue error once T has passed, and accepted before; what it meets at T counts then
(assumption log 58). -/
def execGangSwitch (fr : Frame) (time : Word64) (outgoing incoming : Nat) (s : State) : Host.Outcome State Fault Refusal :=
  .next (s.frame fr false fun t =>
    if time.toNat < t.timeNow then
      (1, leBytes 8 0x0E, t.modLink fun l => { l with refusedTags := Table.put l.refusedTags outgoing fr.tag })
    else
      (0, [], t.modLink fun l => { l with refusedTags := Table.del l.refusedTags outgoing,
                                               gangs := l.gangs ++ [{ time := time.toNat, outgoing := outgoing, incoming := incoming, tag := fr.tag }] }))

/-! ### Stage plans (R14, R407) -/

structure PlanRecord where
  clusters : Nat
  stage : Nat
  team : Nat
  pasid : Nat
  ctl : Nat
  tide : List Nat
  zero : Bool
  deriving DecidableEq, Repr

def planRecords (body : List Byte) : List PlanRecord :=
  (List.range ((body.length - 8) / 320)).map fun i =>
    let b := (body.drop (8 + 320 * i)).take 320
    { clusters := field b 0 4, stage := field b 4 1, team := field b 5 1, pasid := field b 8 4, ctl := field b 16 8,
      tide := (List.range 32).map fun e => field b (64 + 8 * e) 8, zero := zeroAt b 6 2 && zeroAt b 12 4 && zeroAt b 24 40 }

def maskClusters (m : Nat) : List Nat := (List.range 24).filter fun c => bitAt m c

/-- A stage that a record keeps as it was. -/
def PlanRecord.keeps (r : PlanRecord) (s : State) : Bool :=
  let g := s.stage r.stage
  g.valid && g.clusters == maskClusters r.clusters && g.team == r.team && g.pasid == r.pasid

def State.planOk (s : State) (body : List Byte) : Bool :=
  let rs := planRecords body
  let k := field body 0 1
  decide (1 ≤ k) && decide (k ≤ 8) && zeroAt body 1 7 && body.length == 8 + 320 * k &&
  (rs.all fun r => r.clusters != 0 && decide (r.clusters < 2 ^ 24) && decide (r.stage < 8) && decide (1 ≤ r.team) && decide (r.team ≤ 8) &&
    (Table.get? s.contexts r.pasid).isSome && stagectlOk r.ctl && (r.tide.all tideOk) && r.zero) &&
  decide (rs.map (·.stage)).Nodup && decide (rs.map fun r => maskClusters r.clusters).flatten.Nodup &&
  s.stages.all fun (e : Nat × Stage) => !e.2.valid || !s.stageBusy e.1 || rs.any fun r => r.stage == e.1 && r.keeps s

/-- The shares of the dies, in watts: left open, but together no more than 2,400 W (R322). -/
def dieShares (i : Nat) : List Nat :=
  let a := Config.freeWord i % 2401
  let b := Config.freeWord (i + 1) % (2401 - a)
  let c := Config.freeWord (i + 2) % (2401 - a - b)
  [a, b, c, Config.freeWord (i + 3) % (2401 - a - b - c)]

/-- PUBLISH_STAGE_PLAN: the plan is replaced as a whole. -/
def execPublishStagePlan (fr : Frame) (body : List Byte) (s : State) : Host.Outcome State Fault Refusal :=
  .next (s.command1 fr fun t => t.acceptIf (t.planOk body) fun u =>
    let rs := planRecords body
    let owner := fun (c : Nat) => (u.stages.find? fun (e : Nat × Stage) => e.2.valid && e.2.clusters.contains c).map fun (e : Nat × Stage) => e.2.pasid
    let u1 := rs.foldl (fun (v : State) r => if r.keeps u then v else (maskClusters r.clusters).foldl (fun (v : State) cl =>
      v.handCluster cl (owner cl) r.pasid true) v) u.keepAllSpawns
    let stages : Table Stage := rs.foldl (fun (m : Table Stage) r =>
      let tide : Table Word64 := r.tide.zipIdx.foldl (fun (m : Table Word64) x => Table.put m x.2 (BitVec.ofNat 64 x.1)) []
      let g0 : Stage := if r.keeps u then u.stage r.stage
        else { valid := true, clusters := maskClusters r.clusters, team := r.team, pasid := r.pasid }
      let g1 := { g0 with starve := r.ctl / 2 ^ 32, wdef := r.ctl % 2 ^ 32, tide := tide }
      Table.put m r.stage { g1 with lost := u1.lostSlots g1 }) []
    let kept := fun (e : Nat × Stage) => rs.any fun r => r.stage == e.1 && r.keeps u
    let contexts := u1.contexts.map fun (e : Nat × Context) =>
      (e.1, { e.2 with area := e.2.area.map fun (a : SaveArea) => { a with stages := a.stages.filter kept } })
    let (i, u2) := { u1 with stages := stages, contexts := contexts }.fillScope.takeFree
    (dieShares i).zipIdx.foldl (fun (v : State) d => v.modDie d.2 fun x => { x with share := d.1 }) { u2 with free := u2.free + 3 })

/-! ### Firmware and the chip (R349-R352, R355, R359) -/

def State.setImage (s : State) (slotB : Bool) (f : Image → Image) : State :=
  s.modHost fun h => if slotB then { h with imageB := f h.imageB } else { h with imageA := f h.imageA }

/-- BULK_UPLOAD: the payload, 0 to 4,096 bytes in multiples of 8 (R353), goes to the slot that does not run; in recovery,
where neither runs, bit 24 of the offset names the slot. -/
def execBulkUpload (fr : Frame) (data : List Byte) (s : State) : Host.Outcome State Fault Refusal :=
  if data.length % 8 != 0 || 4096 < data.length then execMalformedFrame fr s
  else .next (s.frame fr true fun t =>
    let a := fr.addr.toNat
    let slotB := if t.recovery then bitAt a 24 else !t.host.runningB
    let o := if t.recovery then a % 2 ^ 24 + a / 2 ^ 25 * 2 ^ 25 else a
    if 2 ^ 24 < o + data.length then (1, [], t)
    else (0, [], (t.setImage slotB fun i => { i with bytes := i.bytes.writeBytes o data, verified := false, unchecked := true }).modHost
      fun h => { h with update := .none }))

/-- FIRMWARE_STAGED: the upload is complete, and the image is checked (R349, R351); in recovery the next reset checks it. The
event carries the outcome of the signature check, which is that of the image's bytes: another outcome is no event of the
machine and changes nothing. -/
def execFirmwareStaged (slotB verified : Bool) (s : State) : Host.Outcome State Fault Refusal :=
  let s1 := s.setImage slotB Image.parse
  let im := if slotB then s1.host.imageB else s1.host.imageA
  .next (if s.recovery || s.stuck || slotB == s.host.runningB || verified != Config.signed im.bytes then s
    else if !im.verified || decide (im.secver < s1.host.minSecver) then s1.modHost fun h => { h with update := .failed }
    else (s1.modHost fun h => { h with update := .layoutPending }).layoutCheck)

/-- FIRMWARE_IMAGE_DISCARD. -/
def execFirmwareImageDiscard (fr : Frame) (s : State) : Host.Outcome State Fault Refusal :=
  .next (s.command1 fr fun t => t.acceptIf (t.host.update == .layoutPending || t.host.update == .ready || t.host.update == .failed)
    fun u => (u.setImage (!u.host.runningB) fun _ => {}).modHost fun h => { h with update := .none })

/-- ACTIVATE_FIRMWARE: the slot becomes preferred, and the headland, the skerries and the compute dies reset. -/
def execActivateFirmware (fr : Frame) (slotB : Bool) (s : State) : Host.Outcome State Fault Refusal :=
  let idle := s.contexts.all fun (e : Nat × Context) => e.2.phase == .saved
  let ok := s.host.update == .ready && slotB != s.host.runningB && idle
  let s1 := s.command1 fr fun t => t.acceptIf ok fun u => u.modHost fun h => { h with preferredB := slotB }
  .next (if ok && !s.recovery && !s.viral && !s.stuck && fr.seq.toNat == s.host.seqIn then s1.boot s.record none true else s1)

/-- READ_IDENTITY: the identity is a value that the spec leaves open. -/
def execReadIdentity (fr : Frame) (s : State) : Host.Outcome State Fault Refusal :=
  .next (s.frame fr true fun t => let (i, u) := t.takeFree; (0, leBytes 32 (Config.freeWord i), u))

/-- ATTEST: an attestation over a nonce of 32 bytes, of an open value. -/
def execAttest (fr : Frame) (nonce : List Byte) (s : State) : Host.Outcome State Fault Refusal :=
  .next (s.frame fr true fun t =>
    if nonce.length != 32 then (1, [], t)
    else let (i, u) := t.takeFree; (0, leBytes 64 (Config.freeWord i), u))

/-- RESET_CHIP: the reset sequence follows the answer. -/
def execResetChip (fr : Frame) (s : State) : Host.Outcome State Fault Refusal :=
  .next (s.frame fr true fun t => (0, [], { t with inputs := (t.cycle + 1, Instr.powerOnReset t.record none) :: t.inputs }))

end Sys2Proof.Machine
end

