-- ==== Sys2Proof/Machine/Launch.lean ====
section
/-!
DEFINITION. The loader: reading an object from memory (R36, R64, R70), its refusals (R344, R345) and its installation
into a stage (R246, R344-R346).
-/
namespace Sys2Proof.Machine

/-! ### Reading under a PASID -/

/-- Bytes at virtual addresses of a context, from home memory; none on a translation or protection fault. -/
def State.virtRead (s : State) (pasid va n : Nat) : Option (List Byte) :=
  (cutLines { pos := 0, addr := va, len := n }).foldl (fun (acc : Option (List Byte)) p => match acc, translate s pasid p.addr with
    | some bs, some g => if g.r && g.home == s.chipNo then some (bs ++ s.pmem.readBytes g.pa p.len) else none
    | _, _ => none) (some [])

/-- A number at an offset of an object. -/
def numAt (rd : Nat → Nat → Option (List Byte)) (o n : Nat) : Option Nat := (rd o n).map leNat

/-! ### Lines (R36, R70) -/

/-- Some lines of code: words and bundle starts by code address, and the offset behind them; none when a bitmap marks
an odd halfword. -/
def readLines (rd : Nat → Nat → Option (List Byte)) (base : Nat) :
    Nat → Nat → Table Word32 × List Nat → Nat → Option ((Table Word32 × List Nat) × Nat)
  | 0, _, acc, o => some (acc, o)
  | n + 1, line, acc, o =>
    match rd o 64, numAt rd (o + 64) 4 with
    | some bs, some map =>
      if (List.range 16).any fun i => bitAt map (2 * i + 1) then none
      else
        let at_ := base + 16 * line
        let words : Table Word32 := (List.range 16).map fun i => (at_ + i, BitVec.ofNat 32 (field bs (4 * i) 4))
        let starts := ((List.range 16).filter fun i => bitAt map (2 * i)).map fun i => at_ + i
        readLines rd base n (line + 1) (acc.1 ++ words, acc.2 ++ starts) (o + 68)
    | _, _ => none

/-- The overlays of an object, with the line count of each. -/
def readOverlays (rd : Nat → Nat → Option (List Byte)) :
    Nat → Nat → (Table Word32 × List Nat) × List Nat → Nat → Option (((Table Word32 × List Nat) × List Nat) × Nat)
  | 0, _, acc, o => some (acc, o)
  | n + 1, k, acc, o =>
    match numAt rd o 4 with
    | some len =>
      if len = 0 || 4095 < len then none
      else match readLines rd (65536 * k) len 0 acc.1 (o + 4) with
        | some (code, o1) => readOverlays rd n (k + 1) (code, acc.2 ++ [len]) o1
        | none => none
    | none => none

/-- The data sections; one with a level code above 4, a resident byte above 1 or nonzero zero bytes is refused (assumption
log 89). -/
def readSections (rd : Nat → Nat → Option (List Byte)) : Nat → List Section → Nat → Option (List Section)
  | 0, acc, _ => some acc
  | n + 1, acc, o =>
    match rd o 20 with
    | some h =>
      let len := field h 12 8
      if 4 < field h 0 1 || 1 < field h 1 1 || !zeroAt h 2 2 then none
      else match rd (o + 20) len with
        | some bs => readSections rd n (acc ++ [{ level := field h 0 1, resident := field h 1 1 == 1, offset := field h 4 8, data := bs }]) (o + 20 + len)
        | none => none
    | none => none

/-! ### The object (R70, R344, R345) -/

def objectMagic : Nat := 0x4F374B56

/-- Bounds of a section in its level. R64 gives decec the refusal of an `ls` section that breaks its length, alignment or
end, and the scratchpad has an end: that the loader refuses such an object too is the model's choice (assumption log 90). -/
def sectionFits (pool xs : Nat) (d : Section) : Bool :=
  let n := d.data.length
  match d.level with
  | 0 => n % 512 == 0 && d.offset % 4 == 0 && decide (d.offset + n / 128 ≤ Config.lsBytes)
  | 1 => decide (d.offset + n ≤ Config.spBytes)
  | 2 => decide (d.offset + n ≤ pool)
  | 3 => decide (d.offset + n ≤ xs)
  | _ => true

/-- The segment table: frames of the largest overlay's size behind the main code (R345). -/
def segments (codelen : Nat) (lens : List Nat) : Option (Table Overlay) :=
  let count := lens.length
  if count = 0 then some []
  else
    let lf := lens.foldl Nat.max 1
    let f := Nat.min count ((Config.imemLines - codelen) / lf)
    if f = 0 || (2 ≤ count && f < 2) then none
    else some (lens.zipIdx.map fun x =>
      (x.2 + 1, { frame := x.2 % f, lines := x.1, next := if x.2 + 1 < count then x.2 + 2 else 0 }))

/-- The channel declarations with their windows. -/
def readChans (bs : List Byte) (n : Nat) : List (ChanDecl × Nat) :=
  (List.range n).map fun i =>
    ({ chan := field bs (8 * i) 4, kind := if field bs (8 * i + 4) 1 = 0 then .f else .b }, field bs (8 * i + 5) 1)

/-- An entry of the channel table; one with a reserved kind, a window outside 1 to 64, nonzero zero bytes or no default budget
for its kind is refused (R17, R246; assumption log 89). -/
def chanOk (bs : List Byte) (budgets : Table Nat) (i : Nat) : Bool :=
  let kind := field bs (8 * i + 4) 1
  let win := field bs (8 * i + 5) 1
  decide (field bs (8 * i) 4 < 64) && decide (kind ≤ 1) && decide (1 ≤ win) && decide (win ≤ 64) && zeroAt bs (8 * i + 6) 2 &&
    Table.get budgets 0 kind != 0

/-- The program that an object holds, with the windows of its channels; none where the loader refuses it. Beyond magic,
version, lengths and bitmaps (R70), the model refuses reserved bits and codes and a default budget of 2^48 or more
(assumption log 89). Of two entries of one channel the later holds (assumption log 118). -/
def readObject (rd : Nat → Nat → Option (List Byte)) : Option (Program × List (ChanDecl × Nat)) :=
  match rd 0 0x50, numAt rd 0x50 4 with
  | some h, some nch =>
    let codelen := field h 0x30 4
    let ovcount := field h 0x34 4
    let nslack := field h 0x3C 4
    let budgets : Table Nat := (List.range 4).map fun i => (i, field h (0x10 + 8 * i) 8)
    let pool := field h 0x40 8
    let xs := field h 0x48 8
    if field h 0 4 != objectMagic || field h 4 2 != 1 || field h 6 1 = 0 || 8 < field h 6 1 || field h 7 1 != bit (ovcount != 0) ||
        64 < nch || Config.imemLines < codelen || 63 < ovcount ||
        budgets.any (fun (b : Nat × Nat) => 2 ^ 48 ≤ b.2) || Config.poolMax < pool then none
    else match rd 0x54 (8 * nch), rd (0x54 + 8 * nch) (8 * nslack) with
      | some cs, some sl =>
        if !(List.range nch).all (chanOk cs budgets) then none
        else
          let o := 0x54 + 8 * nch + 8 * nslack
          match readLines rd 0 codelen 0 ([], []) o with
          | none => none
          | some (main, o1) =>
            match readOverlays rd ovcount 1 (main, []) o1 with
            | none => none
            | some ((code, lens), o2) =>
              match readSections rd (field h 0x38 4) [] o2, segments codelen lens with
              | some sects, some ovls =>
                if 4 * 2 ^ 20 < 68 * (codelen + lens.sum) || !sects.all (sectionFits pool xs) then none
                else
                  let slack : Table Nat := (List.range nslack).foldl (fun (t : Table Nat) i => Table.put t (field sl (8 * i) 4) (field sl (8 * i + 4) 4)) []
                  some ({ codelen := codelen, code := code.1, starts := code.2, overlays := ovls, team := field h 6 1, budgets := budgets,
                          woffset := field h 8 8, slack := slack, pool := pool, xs := xs, chans := (readChans cs nch).map (·.1), sects := sects },
                        readChans cs nch)
              | _, _ => none
      | _, _ => none
  | _, _ => none

/-! ### Installation (R344) -/

/-- Global pieces of a section, all writable and none in a doorbell page of another PASID (R341), or none. -/
def State.sectionPieces (s : State) (pasid : Nat) (d : Section) : Option (List Piece) :=
  (cutLines { pos := 0, addr := d.offset, len := d.data.length }).foldl (fun (acc : Option (List Piece)) p =>
    match acc, translate s pasid p.addr with
    | some l, some g => if g.w && g.home == s.chipNo && !s.foreignDoor pasid g.pa then some (l ++ [{ p with addr := g.pa }]) else none
    | _, _ => none) (some [])

/-- The sections that stand once on the chip: in the chip scratchpad and in global memory. -/
def State.placeShared (s : State) (pasid : Nat) (d : Section) : State :=
  match d.level with
  | 3 => { s with xs := s.xs.writeBytes ((s.ctx pasid).xsbase + d.offset) d.data }
  | 4 => ((s.sectionPieces pasid d).getD []).foldl (fun (s : State) p =>
      s.homeWrite pasid { xs := false, addr := p.addr, bytes := (d.data.drop p.pos).take p.len, core := 0, seg := 0 }) s
  | _ => s

/-- A launch that passes the checks of R344: code, segment table, sections, channels with valid = 0. -/
def State.install (s : State) (st : Nat) (p : Program) (chans : List (ChanDecl × Nat)) : State :=
  let g := { s.stage st with prog := some p }
  let s1 := s.modStage st fun _ => g
  let s2 := g.clusters.foldl (fun (s : State) cl =>
    let s0 := (clusterCores cl).foldl (fun (s : State) c => s.modCore c fun k => { k with resident := [], copying := [], pins := [] }) s
    p.sects.foldl (fun (s : State) d => s.placeSection g cl d) s0) s1
  let s3 := p.sects.foldl (fun (s : State) d => s.placeShared g.pasid d) s2
  chans.foldl (fun (s : State) d => s.modCtx g.pasid fun x =>
    x.setIn d.1.chan { kind := d.1.kind == .b, win := d.2 - 1 }) s3

/-- Loads the object at a virtual address into a stage; none where the launch is refused. -/
def State.launch (s : State) (st va : Nat) : Option State :=
  let g := s.stage st
  match readObject fun o n => s.virtRead g.pasid (va + o) n with
  | none => none
  | some (p, chans) =>
    if p.team != g.team || (s.ctx g.pasid).xssize < p.xs || p.sects.any (fun d => d.level == 4 && (s.sectionPieces g.pasid d).isNone) then none
    else some (s.install st p chans)

end Sys2Proof.Machine
end

