-- ==== Sys2Proof/Machine/Queue.lean ====
section
/-!
DEFINITION. Queues (R339-R343, R347): their creation and destruction, doorbells, the reading of packets by the command
processor, and what each packet does.
-/
namespace Sys2Proof.Machine

/-! ### The slot table (R339) -/

def probes (pasid q : Nat) : List Nat := (List.range 8).map fun i => ((pasid * 40503 + q * 1021) % 4096 + i) % 4096

def QueueSlot.hasKey (e : QueueSlot) (pasid q : Nat) : Bool :=
  match e with | .live x => x.pasid == pasid && x.q == q | .tombstone => false

/-- Lookup stops at the matching live block, at the first empty slot, or after eight probes. -/
def lookupSlot (t : Table QueueSlot) (pasid q : Nat) : List Nat → Option Nat
  | [] => none
  | n :: rest => match Table.get? t n with
    | none => none
    | some e => if e.hasKey pasid q then some n else lookupSlot t pasid q rest

def State.findQueue (s : State) (pasid q : Nat) : Option Nat := lookupSlot s.queues pasid q (probes pasid q)

/-- The slot that a new queue takes; none where creation is refused. -/
def State.newSlot (s : State) (pasid q : Nat) : Option Nat :=
  if (probes pasid q).any fun n => match Table.get? s.queues n with | some e => e.hasKey pasid q | none => false then none
  else (probes pasid q).find? fun n => match Table.get? s.queues n with | some (.live _) => false | _ => true

/-- A command on a queue answers 0x04 when bits of its address beyond q are set (R355). -/
def State.queueCommand (s : State) (fr : Frame) (act : State → Nat → Nat → Nat × State) : State :=
  s.command1 fr fun t => if fr.addr.toNat / 256 != 0 then (4, t) else act t fr.pasid.toNat fr.addr.toNat

/-- CREATE_QUEUE: the body holds bytes 5 to 23 of the control block. -/
def execCreateQueue (fr : Frame) (body : List Byte) (s : State) : Host.Outcome State Fault Refusal :=
  .next (s.queueCommand fr fun t p q =>
    let stage := field body 0 1
    let lg := field body 2 1
    let ring := field body 3 8
    let ok := decide (19 ≤ body.length) && zeroAt body 19 5 && (Table.get? t.contexts p).isSome && (t.ctx p).phase != .destroying &&
      decide (stage < 8) && decide (4 ≤ lg) && decide (lg ≤ 16) && ring % 4096 == 0 && decide (ring < 2 ^ 57)
    match t.newSlot p q with
    | some n => t.acceptIf ok fun u =>
        { u with queues := Table.put u.queues n (.live { pasid := p, q := q, stage := stage, lg := lg, ring := ring }) }
    | none => (1, t))

/-- Has a queue tasks that are still in flight, on the chip or in a save area? -/
def State.queueBusy (s : State) (q : Queue) : Bool := q.tasks.any fun t => ((s.taskAny t).map (·.inFlight)).getD false

/-- DESTROY_QUEUE. -/
def execDestroyQueue (fr : Frame) (s : State) : Host.Outcome State Fault Refusal :=
  .next (s.queueCommand fr fun t p q =>
    match t.findQueue p q with
    | none => (1, t)
    | some n => match t.queue? n with
      | none => (1, t)
      | some x => t.acceptIf (x.rptr == x.wptr && !t.queueBusy x) fun u => { u with queues := Table.put u.queues n .tombstone })

/-- RESTART_QUEUE: rptr and Running in one step, checked against the new rptr (R347). -/
def execRestartQueue (fr : Frame) (rptr : Word32) (s : State) : Host.Outcome State Fault Refusal :=
  .next (s.queueCommand fr fun t p q =>
    match t.findQueue p q with
    | none => (1, t)
    | some n =>
      let (st, u) := t.queueRptr n rptr.toNat
      if st != 0 then (st, t)
      else
        let (st2, v) := u.queueRun n
        if st2 = 0 then (0, v) else (st2, t))

/-! ### Reading packets (R341-R343) -/

/-- A queue enters Error at its packet, and the driver receives PASID, q, rptr and cause (R347). -/
def State.queueError (s : State) (slot cause : Nat) : State :=
  match s.queue? slot with
  | none => s
  | some q =>
    (s.modQueue slot fun x => { x with qstate := .error, ecode := cause, acting := none, copies := [] }).eventFrame q.pasid 0x0E 0
      (leBytes 4 q.pasid ++ leBytes 4 q.q ++ leBytes 4 q.rptr ++ leBytes 4 cause)

def expectedPhase (q : Queue) (i : Nat) : Bool := i / ringSize q % 2 == 0

def State.packetBytes (s : State) (q : Queue) (i : Nat) : Option (List Byte) := s.virtRead q.pasid (q.ring + 64 * (i % ringSize q)) 64

/-- The copies of the packets after rptr that the command processor may make: each is its choice, in order, as long as
the phase is the expected one. -/
def State.readAhead (s : State) (slot i : Nat) : Nat → State
  | 0 => s
  | n + 1 => match s.queue? slot with
    | none => s
    | some q =>
      let idx := (q.rptr + i) % 2 ^ 32
      let (c, s1) := s.takeFree
      if ahead q ≤ i || !Config.freeChoice c then s
      else match s.packetBytes q idx with
        | some bs => if bitAt (field bs 0 8) 8 == expectedPhase q idx then
            (s1.modQueue slot fun x => if (Table.get? x.copies idx).isSome then x else { x with copies := Table.put x.copies idx bs }).readAhead slot (i + 1) n
          else s1
        | none => s1

/-- Is wptr more than N ahead of rptr on a queue that the command processor serves, be it acting on a packet or not (R341)? -/
def Queue.overrun (q : Queue) : Bool := (q.qstate == .running || q.qstate == .fenceWait) && decide (ringSize q < ahead q)

/-- PACKET_HEADER_REREAD: wptr is tested against rptr; the header of the packet at rptr is read, again after each doorbell and
every 1 us while its phase is not the expected one. -/
def execPacketHeaderReread (slot : Nat) (s : State) : Host.Outcome State Fault Refusal :=
  match s.queue? slot with
  | none => .next s
  | some q =>
    let type := (Table.get? q.copies q.rptr).map fun bs => field bs 0 1
    if q.overrun then .next (s.queueError slot 0x08)
    else if q.qstate != .running || q.acting.isSome || q.rptr = q.wptr then .next s
    else if type.isSome then .next (if type == some 0 || 5 < type.getD 1 then s.queueError slot 0x01 else s)
    else if (match q.rereadAt with | some t => decide (s.cycle < t) | none => false) then .next s
    else match s.packetBytes q q.rptr with
      | none => .next (s.queueError slot 0x05)
      | some bs =>
        let h := field bs 0 8
        if bitAt h 8 != expectedPhase q q.rptr then
          .next (s.modQueue slot fun x => { x with rereadAt := some (s.cycle + Config.microsecond) })
        else if h % 256 = 0 || 5 < h % 256 then .next (s.queueError slot 0x01)
        else if h / 2 ^ 9 != 0 then .next (s.queueError slot 0x02)
        else .next ((s.modQueue slot fun x => { x with copies := Table.put x.copies q.rptr bs, rereadAt := none }).readAhead slot 1 7)

/-- DOORBELL_WRITE: from the host or from a program of the queue's PASID; another PASID writes nothing (R341). -/
def execDoorbellWrite (pasid : Option Nat) (slot : Nat) (v : Word64) (s : State) : Host.Outcome State Fault Refusal :=
  if s.recovery || s.stuck then .next s else
  match s.queue? slot with
  | none => .next s
  | some q =>
    if (match pasid with | some p => p != q.pasid | none => false) then .next s
    else .next (s.modQueue slot fun x => { x with wptr := v.toNat % 2 ^ 32, rereadAt := none })

/-! ### Packets (R342) -/

/-- The packet on which the command processor acts, when it is of a type: it is finished even where the queue has been
disabled (R347). -/
def State.actingOn (s : State) (slot type : Nat) : Option (Queue × List Byte) :=
  match s.queue? slot with
  | none => none
  | some q => match q.acting with
    | some (_, bs) => if field bs 0 1 = type then some (q, bs) else none
    | none => none

/-- The packet at rptr becomes the one on which the command processor acts. -/
def State.actOn (s : State) (slot : Nat) (bs : List Byte) : State := s.modQueue slot fun q => { q with acting := some (q.rptr, bs) }

/-- The packet at rptr, when the queue runs and the packet is of a type. A packet read ahead is checked like any other. -/
def State.packetAt (s : State) (slot type : Nat) : Option (Queue × List Byte) :=
  match s.queue? slot with
  | none => none
  | some q => if q.qstate != .running || q.acting.isSome then none
    else match Table.get? q.copies q.rptr with
      | some bs => if field bs 0 1 = type then some (q, bs) else none
      | none => none

def State.consume (s : State) (slot : Nat) : State :=
  s.modQueue slot fun q => { q with copies := Table.del q.copies q.rptr, rptr := (q.rptr + 1) % 2 ^ 32, acting := none }

/-- Header bits that must be zero, seen again for a packet read ahead. -/
def badHeader (bs : List Byte) : Bool := field bs 0 8 / 2 ^ 9 != 0

/-- Does the queue's context hold the queue's stage? -/
def State.holdsStage (s : State) (q : Queue) : Bool := (s.stage q.stage).valid && (s.stage q.stage).pasid == q.pasid

/-- TASK_PACKET. -/
def execTaskPacket (slot : Nat) (s : State) : Host.Outcome State Fault Refusal :=
  match s.packetAt slot 1 with
  | none => .next s
  | some (q, bs) =>
    let g := s.stage q.stage
    let ts := field bs 8 8
    let kind := TaskKind.ofCode (field bs 20 1)
    let usedef := bitAt (field bs 21 1) 0
    let given := field bs 24 8
    let budget := if usedef then Table.get (g.prog.getD {}).budgets 0 kind.code else given
    let key : Key := { ts := ts, origin := 448, seq := Table.get g.seqs 0 448 }
    .next (
      if badHeader bs || 3 < field bs 20 1 || 1 < field bs 21 1 || !zeroAt bs 22 2 || !zeroAt bs 32 32 then s.queueError slot 0x02
      else if !s.holdsStage q then s.queueError slot 0x07
      else if g.prog.isNone then s.queueError slot 0x09
      else if 2 ^ 48 ≤ given || budget = 0 then s.queueError slot 0x03
      else if s.isLate q.stage key then (s.raiseLate q.stage key kind (field bs 16 4)).queueError slot 0x04
      else if s.stageFull q.stage || (s.ctx q.pasid).phase != .active then s
      else
        let (_, s1) := s.takeSeq q.stage 448
        let (tid, s2) := s1.create q.stage kind (field bs 16 4) key budget none none 0
        (s2.modQueue slot fun x => { x with tasks := x.tasks ++ [tid] }).consume slot)

/-- Are the writes of a committed task of a PASID released: none of them is held, and none waits in a first-level cache (R201, R217)? -/
def State.writesReleased (s : State) (pasid tid : Nat) : Bool :=
  match s.task? tid with
  | none => true
  | some t => t.wlog.isEmpty && (s.coresOf tid).isEmpty &&
      !(s.clusters.any fun (e : Nat × Cluster) => e.2.held.any fun h => h.pasid == pasid && h.stage == t.stage && h.key == t.key)

/-- SIGNAL_PACKET: accepted, it waits. -/
def execSignalPacket (slot : Nat) (s : State) : Host.Outcome State Fault Refusal :=
  match s.packetAt slot 2 with
  | none => .next s
  | some (_, bs) => .next (if badHeader bs || field bs 8 8 % 8 != 0 || !zeroAt bs 24 40 then s.queueError slot 0x02
      else s.actOn slot bs)

/-- SIGNAL_STORE: the release store of 8 bytes under the queue's PASID (R203, R205). -/
def execSignalStore (slot : Nat) (s : State) : Host.Outcome State Fault Refusal :=
  match s.actingOn slot 2 with
  | none => .next s
  | some (q, bs) =>
    let done := q.tasks.all fun t => ((s.taskAny t).map fun (k : Task) => k.state == .committed).getD true && s.writesReleased q.pasid t
    if !done then .next s
    else match translate s q.pasid (field bs 8 8) with
      | none => .next (s.queueError slot 0x05)
      | some g =>
        if !g.w || g.kind == 2 || g.home != s.chipNo || s.foreignDoor q.pasid g.pa then .next (s.queueError slot 0x05)
        else .next ((s.homeWrite q.pasid { xs := false, addr := g.pa, bytes := (bs.drop 16).take 8, core := 0, seg := 0 }).consume slot)

/-- FENCE_PACKET (R343). -/
def execFencePacket (slot : Nat) (s : State) : Host.Outcome State Fault Refusal :=
  match s.packetAt slot 3 with
  | none => .next s
  | some (_, bs) => .next (if badHeader bs || !zeroAt bs 8 56 then s.queueError slot 0x02
      else (s.actOn slot bs).modQueue slot fun x => { x with qstate := .fenceWait })

/-- QUEUE_FENCE_RELEASE: later copies are discarded, the fence is consumed and the queue runs. -/
def execQueueFenceRelease (slot : Nat) (s : State) : Host.Outcome State Fault Refusal :=
  match s.actingOn slot 3 with
  | none => .next s
  | some (q, _) =>
    let done := q.tasks.all fun t => ((s.taskAny t).map fun (k : Task) => k.state == .committed || k.state == .aborted).getD true && s.writesReleased q.pasid t
    if !done then .next s
    else .next ((s.modQueue slot fun x => { x with copies := [], qstate := if x.qstate == .fenceWait then .running else x.qstate }).consume slot)

/-- LAUNCH_PACKET: accepted, it waits until the stage has no task in flight. -/
def execLaunchPacket (slot : Nat) (s : State) : Host.Outcome State Fault Refusal :=
  match s.packetAt slot 4 with
  | none => .next s
  | some (q, bs) => .next (if badHeader bs || field bs 8 8 % 4096 != 0 || !zeroAt bs 16 48 then s.queueError slot 0x02
      else if !s.holdsStage q then s.queueError slot 0x07
      else s.actOn slot bs)

/-- LAUNCH_INSTALL (R344). -/
def execLaunchInstall (slot : Nat) (s : State) : Host.Outcome State Fault Refusal :=
  match s.actingOn slot 4 with
  | none => .next s
  | some (q, bs) =>
    let idle := !s.stageBusy q.stage && !(s.tasks.any fun (e : Nat × Task) => e.2.stage == q.stage && !(s.coresOf e.1).isEmpty)
    if !idle || (s.ctx q.pasid).phase != .active then .next s
    else if !s.holdsStage q then .next (s.queueError slot 0x07)
    else .next (match s.launch q.stage (field bs 8 8) with
      | some t => t.consume slot
      | none => s.queueError slot 0x06)

/-- NOP_PACKET. -/
def execNopPacket (slot : Nat) (s : State) : Host.Outcome State Fault Refusal :=
  match s.packetAt slot 5 with
  | none => .next s
  | some (_, bs) => .next (if badHeader bs || !zeroAt bs 8 56 then s.queueError slot 0x02 else s.consume slot)

end Sys2Proof.Machine
end

