-- ==== Sys2Proof/Machine/Link.lean ====
section
/-!
DEFINITION. Link events that carry no tile, token, window, partial or quiesce (R330, R356-R358, R383, R386).
-/
namespace Sys2Proof.Machine

def State.port (s : State) (p : Nat) : Port := Table.get s.link.ports {} p
def State.modPort (s : State) (p : Nat) (f : Port → Port) : State :=
  s.modLink fun l => { l with ports := Table.modify l.ports {} p f }

/-- FLIT_RESEND_REQUEST: a flit with a bad CRC or out of order is discarded with all behind it, and the sender is asked
to resend from the lost number. -/
def execFlitResendRequest (port : Nat) (s : State) : Host.Outcome State Fault Refusal :=
  .next (if (s.port port).heldDown then s
    else (s.linkRecv 0).sendPort port (.resend port (s.port port).lseqIn))

/-- TIME_BASE_FLIT: time-base flits run on the reef ring, ports 6 and 7 (assumption log 51). -/
def execTimeBaseFlit (port : Nat) (ns : Word64) (s : State) : Host.Outcome State Fault Refusal :=
  .next (if (s.port port).heldDown || port < 6 then s
    else ((s.countFlit port).linkRecv 0).modLink fun l => { l with timeBase := ns.toNat, timeAt := s.cycle })

/-- DISCARDED_FLIT: a reserved type or a nonzero zero field; discarded and logged. -/
def execDiscardedFlit (port : Nat) (s : State) : Host.Outcome State Fault Refusal :=
  .next (if (s.port port).heldDown then s else ((s.countFlit port).linkRecv 0).discardFlit)

/-- LINK_CONTROL_TRAINING_FLIT: firmware trains the port, unless the chip is in recovery, viral, tripped or stays at a reset
step, and flits that have waited for a port leave; or the peer shows itself held down, and routes go around it. The scope
table follows at the next re-plan (R210). -/
def execLinkControlTrainingFlit (port : Nat) (sign : PortSign) (s : State) : Host.Outcome State Fault Refusal :=
  .next (if s.recovery || s.viral || s.tripped || s.stuck || 8 ≤ port then s
    else match sign with
      | .trained =>
        let s1 := ((s.countFlit port).linkRecv 0).modPort port fun q => { q with trained := true, heldDown := false, gone := false }
        s.link.blocked.foldl State.send (s1.modLink fun l => { l with blocked := [] })
      | .heldDown => (((s.countFlit port).linkRecv 0).modPort port fun q => { q with trained := false }).sendPort port (.training port))

end Sys2Proof.Machine
end

