-- ==== Sys2Proof/Machine/Elementary.lean ====
section
/-!
DEFINITION. `gelu`, `exp2`, `log2`, `rcp` and `rsqrt` (R107): the exact value rounded once. An irrational
value is cut to a multiple of 2^-p between certain bounds, with p far below every rounding boundary, and a
sticky bit stands for the rest. Where the bounds do not decide the cut, the value is a free value.
-/
namespace Sys2Proof.Machine

/-! ### Integer square root and fixed point -/

/-- Newton's iteration downwards from a bound above the root; stops when it no longer falls. -/
def isqrtIter (n : Nat) : Nat → Nat → Nat
  | 0, x => x
  | k + 1, x =>
    let y := (x + n / x) / 2
    if y < x then isqrtIter n k y else x
/-- The floor of the square root. -/
def isqrt (n : Nat) : Nat := if n = 0 then 0 else isqrtIter n (n.log2 + 8) (2 ^ ((n.log2 + 2) / 2))

/-- An interval cut to p fractional bits, with a sticky bit below: the exact value with which a value
strictly inside [lo, hi] (at `g + p` fractional bits) rounds, if the interval decides it. -/
def cutSticky (lo hi g p : Nat) (neg : Bool) : Option Exact :=
  if lo / 2 ^ g = hi / 2 ^ g then some ⟨neg, 2 * (lo / 2 ^ g) + 1, -((p : Int) + 1)⟩ else none

/-! ### exp2 -/

/-- Working bits of `exp2`. -/
def expBits : Nat := 300

/-- Lower and upper bounds of 2^(f / 2^n), from the highest bit of f down: the root is that of the bit. -/
def powTwo (f : Nat) : Nat → Nat × Nat → Nat × Nat → Nat × Nat
  | 0, _, acc => acc
  | n + 1, (rl, rh), (al, ah) =>
    let one := 2 ^ expBits
    let root := (isqrt (rl * one), isqrt (rh * one) + 1)
    let acc := if bitAt f n then (al * root.1 / one, ah * root.2 / one + 1) else (al, ah)
    powTwo f n root acc

/-- 2^x for a finite nonzero x = v * 2^e; none when the bounds do not decide. -/
def exp2Exact (neg : Bool) (m : Nat) (e : Int) : Option Exact :=
  let mag := bitLen m + e
  if 13 < mag then some ⟨false, 1, if neg then -100000 else 100000⟩
  else if 0 ≤ e then
    let v : Int := m * 2 ^ e.toNat
    some ⟨false, 1, if neg then -v else v⟩
  else
    let k := (-e).toNat
    let v : Int := if neg then -(m : Int) else m
    let whole := v / 2 ^ k
    let frac := (v % 2 ^ k).toNat
    if frac = 0 then some ⟨false, 1, whole⟩
    else
      let one := 2 ^ expBits
      let (lo, hi) := powTwo frac k (2 * one, 2 * one) (one, one)
      (cutSticky lo (Nat.min hi (2 * one - 1)) 200 100 false).map fun x => { x with e := x.e + whole }

/-! ### log2 -/

/-- The first n fractional bits of log2 of a number in [1, 2), by squaring bounds with 400 bits. -/
def logBits : Nat → Nat × Nat → Nat → Option Nat
  | 0, _, acc => some acc
  | n + 1, (lo, hi), acc =>
    let one := 2 ^ 400
    let l := lo * lo / one
    let h := hi * hi / one + 1
    if 2 * one ≤ l then logBits n (l / 2, h / 2 + 1) (2 * acc + 1)
    else if h < 2 * one then logBits n (l, h) (2 * acc)
    else none

/-- log2 of a positive number that is no power of two; a power of two gives its exponent. -/
def log2Exact (m : Nat) (e : Int) : Option Exact :=
  let f := bitLen m - 1
  let E := e + f
  if m = 2 ^ f then some ⟨decide (E < 0), E.natAbs, 0⟩
  else
    let x := m * 2 ^ (400 - f)
    (logBits 100 (x, x) 0).map fun l =>
      let t : Int := E * 2 ^ 100 + l
      if 0 ≤ t then ⟨false, 2 * t.toNat + 1, -101⟩ else ⟨true, 2 * (-t - 1).toNat + 1, -101⟩

/-! ### rcp and rsqrt -/

/-- 1 / (m * 2^e), exact or cut with a sticky bit. -/
def rcpExact (neg : Bool) (m : Nat) (e : Int) : Exact :=
  let q := 2 ^ 100 / m
  ⟨neg, 2 * q + bit (2 ^ 100 % m != 0), -101 - e⟩

/-- 1 / sqrt(m * 2^e) for a positive number. -/
def rsqrtExact (m : Nat) (e : Int) : Exact :=
  let m2 := if e % 2 = 0 then m else 2 * m
  let e2 := if e % 2 = 0 then e else e - 1
  let r := isqrt (2 ^ 200 / m2)
  ⟨false, 2 * r + bit (r * r * m2 != 2 ^ 200), -101 - e2 / 2⟩

/-! ### gelu -/

/-- Working bits of the series. -/
def serBits : Nat := 900

/-- The arctangent of 1/k with `serBits` bits: sum over n of (-1)^n / ((2n+1) k^(2n+1)). -/
def arctanInv (k : Nat) : Nat → Nat → Nat → Int → Int
  | 0, _, _, acc => acc
  | n + 1, i, term, acc =>
    let t : Int := (term / (2 * i + 1) : Nat)
    arctanInv k n (i + 1) (term / (k * k)) (if i % 2 = 0 then acc + t else acc - t)

/-- pi by Machin's formula, to well within 2^-800. -/
def piFixed : Nat :=
  let one := 2 ^ serBits
  (16 * arctanInv 5 210 0 (one / 5) 0 - 4 * arctanInv 239 70 0 (one / 239) 0).toNat

/-- The integral of exp(-t^2/2) from 0 to x = xs * 2^-149: sum over n of (-1)^n x^(2n+1) / (2^n n! (2n+1)). -/
def gaussSeries (xs : Nat) : Nat → Nat → Nat → Int → Int
  | 0, _, _, acc => acc
  | n + 1, i, term, acc =>
    let t : Int := (term / (2 * i + 1) : Nat)
    gaussSeries xs n (i + 1) (term * xs * xs / 2 ^ 298 / (2 * (i + 1)))
      (if i % 2 = 0 then acc + t else acc - t)

/-- x * Phi(x) for a finite nonzero x = m * 2^e with e at least -149. -/
def geluExact (neg : Bool) (m : Nat) (e : Int) : Option Exact :=
  let one : Int := 2 ^ serBits
  if 16 < (m : Int) * 2 ^ (e + 149).toNat / 2 ^ 149 then
    -- beyond 16, Phi differs from 0 or 1 by less than 2^-180
    some (if neg then ⟨true, 1, -1000⟩ else ⟨false, m * 2 ^ 200 - 1, e - 200⟩)
  else
    let xs := m * 2 ^ (e + 149).toNat
    let s := gaussSeries xs 1400 0 (xs * 2 ^ (serBits - 149)) 0
    let root : Int := isqrt (2 * piFixed * 2 ^ serBits)
    let part := s * one / root
    let slack : Int := 2 ^ 300
    let phi := if neg then one / 2 - part else one / 2 + part
    let lo := (phi - slack).toNat * xs
    let hi := (phi + slack).toNat * xs
    cutSticky lo hi (serBits + 149 - 310) 310 neg

/-! ### The functions with their special inputs (R107) -/

inductive ElemFn
  | gelu | exp2 | log2 | rcp | rsqrt
  deriving DecidableEq, Repr

/-- Table of R107 for NaN, infinite and zero inputs; none for the others. -/
def elemSpecial (fn : ElemFn) (f : Fmt) (md : FpMode) (x : FVal) : Option (Nat × Nat) :=
  let sg := fun (b : Bool) => bit b * f.signBit
  let oneCode := f.bias * 2 ^ f.fb
  match nanRule f md [x] with
  | some r => some r
  | none => match x with
    | .inf n => some (match fn with
      | .gelu => if n then (sg true, 0) else (f.infCode, 0)
      | .exp2 => if n then (0, 0) else (f.infCode, 0)
      | .log2 => if n then invalidF f else (f.infCode, 0)
      | .rcp => (sg n, 0)
      | .rsqrt => if n then invalidF f else (0, 0))
    | .fin n m _ =>
      if m = 0 then some (match fn with
        | .gelu => (sg n, 0)
        | .exp2 => (oneCode, 0)
        | .log2 => (sg true + f.infCode, fDz)
        | .rcp | .rsqrt => (sg n + f.infCode, fDz))
      else if n && (fn == .log2 || fn == .rsqrt) then some (invalidF f)
      else none
    | .nan _ _ _ => none

/-- The exact value, or its cut, of a function at a finite nonzero argument in its domain. -/
def elemExact (fn : ElemFn) (neg : Bool) (m : Nat) (e : Int) : Option Exact :=
  match fn with
  | .gelu => geluExact neg m e
  | .exp2 => exp2Exact neg m e
  | .log2 => log2Exact m e
  | .rcp => some (rcpExact neg m e)
  | .rsqrt => some (rsqrtExact m e)

/-- A reciprocal below the smallest normal raises `uf`, be it exact; under `ftz` it is zero, although a directed mode would
round it up to the smallest normal (R107; assumption log 112). -/
def rcpFlags (fn : ElemFn) (f : Fmt) (md : FpMode) (y : Exact) (r : Nat × Nat) : Nat × Nat :=
  if fn != .rcp then r
  else if md.ftz && decide (y.e + (bitLen y.m - 1) < f.qmin + f.fb) then (bit y.neg * f.signBit, fUf + fNx)
  else if r.1 % f.signBit < 2 ^ f.fb then (r.1, r.2 ||| fUf)
  else r

/-- One element: code and flags. -/
def elemF (fn : ElemFn) (f : Fmt) (md : FpMode) (c : Nat) : Nat × Nat :=
  let x := decodeF f md.ftz c
  match elemSpecial fn f md x with
  | some r => r
  | none => match x with
    | .fin n m e => match elemExact fn n m e with
      | some y => rcpFlags fn f md y (y.round f md)
      | none => (Config.freeWord c % 2 ^ f.width, fNx)
    | _ => invalidF f

end Sys2Proof.Machine
end

