-- ==== Sys2Proof/Machine/Vector.lean ====
section
/-!
DEFINITION. The vector chain: units one, two and three over 128 lanes (R92-R115). A lane is a number below
2^32; every unit answers a lane and the flags raised while forming it.
-/
namespace Sys2Proof.Machine

/-! ### Elements of a lane (R73) -/

/-- Element width and count of a type. -/
def vshape : VType → Nat × Nat
  | .f32 | .i32 => (32, 1)
  | .bf16x2 | .f16x2 | .i16x2 => (16, 2)
  | .i8x4 => (8, 4)

def vfmt : VType → Fmt
  | .bf16x2 => BF16 | .f16x2 => FP16 | _ => FP32

def sub (w x j : Nat) : Nat := bits x (w * j) w

/-- Applies a function to each element and joins values and flags. -/
def perElem (ty : VType) (f : Nat → Nat × Nat) : Nat × Nat :=
  let (w, n) := (vshape ty)
  (List.range n).foldl (fun acc j => let r := f j; (acc.1 + r.1 % 2 ^ w * 2 ^ (w * j), acc.2 ||| r.2)) (0, 0)

def wrapI (w : Nat) (v : Int) : Nat := (v % 2 ^ w).toNat
def clampI (w : Nat) (v : Int) : Int :=
  if v < -(2 ^ (w - 1)) then -(2 ^ (w - 1)) else if 2 ^ (w - 1) - 1 < v then 2 ^ (w - 1) - 1 else v

/-- A clamped signed value of w bits, with `sat` when clamping changed it. -/
def satI (w : Nat) (v : Int) : Nat × Nat := (wrapI w (clampI w v), if clampI w v = v then 0 else fSat)

/-! ### Unit one (R100-R102) -/

/-- The carry-less product (R101). -/
def clmulN (a b : Nat) : Nat → Nat
  | 0 => 0
  | j + 1 => let p := clmulN a b j; if bitAt b j then p ^^^ (a * 2 ^ j) else p

/-- Conversions (R102). -/
def cvtLane (md : FpMode) (aux a b : Nat) : Nat × Nat :=
  let pair := fun (x y : Nat × Nat) (w at_ : Nat) => ((x.1 + y.1 * 2 ^ w) * 2 ^ at_, x.2 ||| y.2)
  match aux with
  | 0 => toIntF FP32 md 32 a
  | 1 => ofIntF FP32 md (signedOf a 32)
  | 2 => pair (convF FP32 BF16 md a) (convF FP32 BF16 md b) 16 0
  | 3 => pair (convF FP32 FP16 md a) (convF FP32 FP16 md b) 16 0
  | 4 => convF BF16 FP32 md (sub 16 a 0)
  | 5 => convF BF16 FP32 md (sub 16 a 1)
  | 6 => convF FP16 FP32 md (sub 16 a 0)
  | 7 => convF FP16 FP32 md (sub 16 a 1)
  | 8 => pair (convF FP32 E4M3 md a) (convF FP32 E4M3 md b) 8 0
  | 9 => pair (convF FP32 E4M3 md a) (convF FP32 E4M3 md b) 8 16
  | 10 => pair (convF FP32 E5M2 md a) (convF FP32 E5M2 md b) 8 0
  | 11 => pair (convF FP32 E5M2 md a) (convF FP32 E5M2 md b) 8 16
  | 12 => pair (convF E4M3 BF16 md (sub 8 a 0)) (convF E4M3 BF16 md (sub 8 a 1)) 16 0
  | 13 => pair (convF E4M3 BF16 md (sub 8 a 2)) (convF E4M3 BF16 md (sub 8 a 3)) 16 0
  | 14 => pair (convF E5M2 BF16 md (sub 8 a 0)) (convF E5M2 BF16 md (sub 8 a 1)) 16 0
  | _ => pair (convF E5M2 BF16 md (sub 8 a 2)) (convF E5M2 BF16 md (sub 8 a 3)) 16 0

def unit1 (o : Op1) (ty : VType) (aux : Nat) (md : FpMode) (a b c : Nat) : Nat × Nat :=
  let w := (vshape ty).1
  let f := (vfmt ty)
  let x := fun (v j : Nat) => decodeF f md.ftz (sub w v j)
  match o with
  | .pass => (a, 0)
  | .fmul => perElem ty fun j => mulV f md (x a j) (x b j)
  | .fma => perElem ty fun j => fmaV f md (x a j) (x b j) (x c j)
  | .imul => perElem ty fun j => (sub w a j * sub w b j, 0)
  | .imulh => perElem ty fun j => (wrapI w (signedOf (sub w a j) w * signedOf (sub w b j) w / 2 ^ w), 0)
  | .and => (a &&& b, 0)
  | .or => (a ||| b, 0)
  | .xor => (a ^^^ b, 0)
  | .andn => (a ^^^ (a &&& b), 0)
  | .clmul => (clmulN a b 32 % 2 ^ 32, 0)
  | .clmulh => (clmulN a b 32 / 2 ^ 32, 0)
  | .cvt => cvtLane md aux a b

/-! ### Unit two (R103-R105) -/

/-- The greater or the lesser, -0 below +0, a NaN by R77. -/
def pickF (big : Bool) (f : Fmt) (md : FpMode) (x y : FVal) : Nat × Nat :=
  match nanRule f md [x, y] with
  | some r => r
  | none =>
    let yFirst := ltV y x || (x.isZero && y.isZero && y.neg? && !x.neg?)
    let r := if big then (if yFirst then x else y) else (if yFirst then y else x)
    (encodeExact f r, 0)

/-- The outcome of a floating-point compare and its flags (R105). -/
def cmpF (cond : Nat) (x y : FVal) : Bool × Nat :=
  let un := x.isNaN || y.isNaN
  let nv := x.isSig || y.isSig || (un && decide (2 ≤ cond) && decide (cond ≤ 5))
  let r := match cond with
    | 0 => eqV x y
    | 1 => !eqV x y
    | 2 => !un && ltV x y
    | 3 => !un && (ltV x y || eqV x y)
    | 4 => !un && ltV y x
    | 5 => !un && (ltV y x || eqV x y)
    | 6 => un
    | _ => !un
  (r, if nv then fNv else 0)

def cmpI (cond w a b : Nat) : Bool :=
  let sa := signedOf a w
  let sb := signedOf b w
  match cond with
  | 0 => a == b
  | 1 => a != b
  | 2 => decide (sa < sb)
  | 3 => decide (sa ≤ sb)
  | 4 => decide (a < b)
  | 5 => decide (a ≤ b)
  | 6 => decide (sb < sa)
  | _ => decide (b < a)

/-- The lane's bit: all sub-elements true, or any when aux[3] is 1. -/
def combine (aux : Nat) (l : List Bool) : Nat := bit (if bitAt aux 3 then l.any id else l.all id)

def unit2 (o : Op2) (ty : VType) (aux : Nat) (md : FpMode) (t c : Nat) : Nat × Nat :=
  let (w, n) := (vshape ty)
  let f := (vfmt ty)
  let x := fun (v j : Nat) => decodeF f md.ftz (sub w v j)
  let sg := fun (v j : Nat) => signedOf (sub w v j) w
  match o with
  | .pass => (t, 0)
  | .fadd => perElem ty fun j => addV f md (x t j) (x c j)
  | .fsub => perElem ty fun j => addV f md (x t j) (x c j).negate
  | .fmin => perElem ty fun j => pickF false f md (x t j) (x c j)
  | .fmax => perElem ty fun j => pickF true f md (x t j) (x c j)
  | .iadd => perElem ty fun j => (sub w t j + sub w c j, 0)
  | .isub => perElem ty fun j => (sub w t j + 2 ^ w - sub w c j, 0)
  | .iadds => perElem ty fun j => satI w (sg t j + sg c j)
  | .isubs => perElem ty fun j => satI w (sg t j - sg c j)
  | .imin => perElem ty fun j => (if sg t j < sg c j then sub w t j else sub w c j, 0)
  | .imax => perElem ty fun j => (if sg t j < sg c j then sub w c j else sub w t j, 0)
  | .iminu => perElem ty fun j => (Nat.min (sub w t j) (sub w c j), 0)
  | .imaxu => perElem ty fun j => (Nat.max (sub w t j) (sub w c j), 0)
  | .absd => perElem ty fun j => ((sg t j - sg c j).natAbs, 0)
  | .fcmp =>
    let rs := (List.range n).map fun j => cmpF (aux % 8) (x t j) (x c j)
    (combine aux (rs.map (·.1)), rs.foldl (fun acc r => acc ||| r.2) 0)
  | .icmp => (combine aux ((List.range n).map fun j => cmpI (aux % 8) w (sub w t j) (sub w c j)), 0)

/-! ### Unit three, lane by lane (R106-R108) -/

def elemFn? : Op3 → Option ElemFn
  | .gelu => some .gelu | .exp2 => some .exp2 | .log2 => some .log2 | .rcp => some .rcp | .rsqrt => some .rsqrt
  | _ => none

def reluE (ty : VType) (md : FpMode) (v : Nat) : Nat × Nat :=
  let w := (vshape ty).1
  if ty.isFloat then
    let x := decodeF (vfmt ty) md.ftz v
    match nanRule (vfmt ty) md [x] with
    | some r => r
    | none => (if x.neg? then 0 else encodeExact (vfmt ty) x, 0)
  else (if signedOf v w < 0 then 0 else v, 0)

/-- The opcodes whose lane depends on the same lane alone; `on` is the lane's k bit. -/
def unit3Lane (o : Op3) (ty : VType) (md : FpMode) (on : Bool) (t b : Nat) : Nat × Nat :=
  let w := (vshape ty).1
  let sh := fun (f : BitVec w → Nat → BitVec w) => perElem ty fun j => ((f (BitVec.ofNat w (sub w t j)) (sub w b j)).toNat, 0)
  match o with
  | .shl => sh shlW
  | .shr => sh shrW
  | .sar => sh sarW
  | .rot => sh rotW
  | .popc => perElem ty fun j => (popcN (sub w t j) w, 0)
  | .relu => perElem ty fun j => reluE ty md (sub w t j)
  | .gelu | .exp2 | .log2 | .rcp | .rsqrt => perElem ty fun j => match elemFn? o with
    | some fn => elemF fn (vfmt ty) md (sub w t j)
    | none => (0, 0)
  | .sel => (if on then t else b, 0)
  | .pack =>
    if ty == .i32 then
      let lo := satI 16 (signedOf t 32)
      let hi := satI 16 (signedOf b 32)
      (lo.1 + hi.1 * 2 ^ 16, lo.2 ||| hi.2)
    else
      let q := fun (v j : Nat) => satI 8 (signedOf (sub 16 v j) 16)
      let r := [q t 0, q t 1, q b 0, q b 1]
      (r.foldr (fun x acc => x.1 + 256 * acc) 0, r.foldl (fun acc x => acc ||| x.2) 0)
  | .unpack =>
    let h := b % 2
    if ty == .i16x2 then (wrapI 32 (signedOf (sub 16 t h) 16), 0)
    else (wrapI 16 (signedOf (sub 8 t (2 * h)) 8) + wrapI 16 (signedOf (sub 8 t (2 * h + 1)) 8) * 2 ^ 16, 0)
  | .pass | .perm | .bcast | .scanx | .rsum | .rmax | .xlg => (t, 0)

/-! ### Unit three, lane movement and reductions (R109-R112) -/

/-- The fixed tree over 2^k values, in index order (R110, R157). -/
def treeOf (f : Nat × Nat → Nat × Nat → Nat × Nat) : Nat → List (Nat × Nat) → Nat × Nat
  | 0, l => l.headD (0, 0)
  | k + 1, l => f (treeOf f k (l.take (2 ^ k))) (treeOf f k (l.drop (2 ^ k)))

/-- One node of `rsum` or `rmax` on one element position. -/
def reduceNode (max : Bool) (ty : VType) (aux : Nat) (md : FpMode) (x y : Nat × Nat) : Nat × Nat :=
  let (w, _) := (vshape ty)
  let f := (vfmt ty)
  let v := fun (c : Nat) => decodeF f md.ftz c
  let r : Nat × Nat :=
    if ty.isFloat then (if max then pickF true f md (v x.1) (v y.1) else addV f md (v x.1) (v y.1))
    else if !max then ((x.1 + y.1) % 2 ^ w, 0)
    else if bitAt aux 1 then (Nat.max x.1 y.1, 0)
    else (if signedOf x.1 w < signedOf y.1 w then y.1 else x.1, 0)
  (r.1, r.2 ||| x.2 ||| y.2)

/-- Log2 of the span, and the spans of the 128 lanes. -/
def spanLog (aux : Nat) : Nat := if bitAt aux 0 then 7 else 4
def chunks (n : Nat) : Nat → List (Nat × Nat) → List (List (Nat × Nat))
  | 0, _ => []
  | k + 1, l => l.take n :: chunks n k (l.drop n)

def reduceSpan (max : Bool) (ty : VType) (aux : Nat) (md : FpMode) (l : List (Nat × Nat)) : List (Nat × Nat) :=
  let (w, _) := (vshape ty)
  let inFlags := l.foldl (fun acc x => acc ||| x.2) 0
  let r := perElem ty fun j => treeOf (reduceNode max ty aux md) (spanLog aux) (l.map fun x => (sub w x.1 j, 0))
  l.map fun _ => (r.1, r.2 ||| inFlags)

/-- The XOR scan of one span (R111). A lane receives the flags of the values that its scan holds. -/
def scanSpan (exclusive : Bool) : List (Nat × Nat) → Nat × Nat → List (Nat × Nat)
  | [], _ => []
  | x :: xs, acc =>
    let acc1 := (acc.1 ^^^ x.1, acc.2 ||| x.2)
    (if exclusive then acc else acc1) :: scanSpan exclusive xs acc1

/-- All lanes of unit three: each with its value and the flags counted for it (R97). -/
def unit3 (o : Op3) (ty : VType) (aux : Nat) (md : FpMode) (k : LaneMask) (t : List (Nat × Nat)) (b : Nat → Nat) :
    List (Nat × Nat) :=
  let pick := fun (src : Nat → Nat) => (List.range 128).map fun l => t.getD (src l) (0, 0)
  let spans := chunks (2 ^ spanLog aux) (2 ^ (7 - spanLog aux)) t
  match o with
  | .perm => pick fun l => l / 16 * 16 + b l % 16
  | .bcast => pick fun l => l / 16 * 16 + b (l / 16 * 16) % 16
  | .rsum => (spans.map (reduceSpan false ty aux md)).flatten
  | .rmax => (spans.map (reduceSpan true ty aux md)).flatten
  | .scanx => (spans.zipIdx.map fun x => scanSpan (bitAt aux 1) x.1 (b (x.2 * 2 ^ spanLog aux), 0)).flatten
  | .xlg =>
    let s := aux % 8
    pick fun l => (if bitAt aux 3 then (l / 16) ^^^ s else (l / 16 + s) % 8) * 16 + l % 16
  | _ => t.zipIdx.map fun x =>
    let r := unit3Lane o ty md (k.getLsbD x.2) x.1.1 (b x.2)
    (r.1, x.1.2 ||| r.2)

/-! ### The chain (R94, R97, R98) -/

/-- Bundles to landing (R46). -/
def chainLatency (ch : Chain) : Nat :=
  match ch.op3 with
  | .xlg => 9
  | .scanx | .rsum | .rmax => if ch.aux.getLsbD 0 then 9 else 5
  | _ => 5

def laneN (v : Vec) (l : Nat) : Nat := bits v.toNat (32 * l) 32

/-- t2 of every lane with the flags of units one and two. -/
def chainFront (ch : Chain) (md : FpMode) (a b c : Vec) : List (Nat × Nat) :=
  (List.range 128).map fun l =>
    let x := unit1 ch.op1 ch.ty ch.aux.toNat md (laneN a l) (laneN b l) (laneN c l)
    let y := unit2 ch.op2 ch.ty ch.aux.toNat md x.1 (laneN c l)
    (y.1, x.2 ||| y.2)

/-- The lanes of a chain, with a compare's bits as lanes of value 0 or 1. -/
def chainLanes (ch : Chain) (md : FpMode) (k : LaneMask) (a b c : Vec) : List (Nat × Nat) :=
  let t := chainFront ch md a b c
  if ch.op2.claims then t else unit3 ch.op3 ch.ty ch.aux.toNat md k t (laneN b)

/-- Flags over the lanes that count. -/
def activeFlags (l : List (Nat × Nat)) (k : LaneMask) : Nat :=
  l.zipIdx.foldl (fun acc x => if k.getLsbD x.2 then acc ||| x.1.2 else acc) 0

def packLanes (l : List (Nat × Nat)) : Nat := l.foldr (fun x acc => x.1 + 2 ^ 32 * acc) 0
def packMask (l : List (Nat × Nat)) : Nat := l.foldr (fun x acc => x.1 % 2 + 2 * acc) 0

/-- The result of a chain: destination, value, write mask, flags. -/
def chainResult (f : VSlot) (ch : Chain) (md : FpMode) (kf : LaneMask) (a b c : Vec) : Dest × Nat × Nat × Nat :=
  let l := chainLanes ch md kf a b c
  let k : LaneMask := if ch.op3 == .sel then BitVec.allOnes 128 else kf
  if ch.op2.claims then
    let r := match ch.dst with | .reg r => r.toNat % 16 | .transient => 0
    (.k f r, packMask l, k.toNat, activeFlags l k)
  else (destV f ch.dst, packLanes l, laneBits k, activeFlags l k)

def slotOfV : VSlot → Slot
  | .va => .va | .vb => .vb

/-- VECTOR_CHAIN (R94). -/
def execVectorChain (f : VSlot) (g : Guard) (ch : Chain) (s : State) : Host.Outcome State Fault Refusal :=
  let q := s.cur
  .next (
    if !q.on g then s
    else
      let r := chainResult f ch (modeOf q.modeFpc) (q.readK f ch.k.toNat) (q.readV f ch.a) (q.readV f ch.b) (q.readV f ch.c)
      s.modCur fun k => k.push (slotOfV f) (chainLatency ch) r.1 r.2.1 r.2.2.1 r.2.2.2)

end Sys2Proof.Machine
end

