-- ==== Sys2Proof/Machine/Dispatch.lean ====
section
/-!
DEFINITION. The meaning of every constructor of Instr: one arm, one direct call.
-/
namespace Sys2Proof.Machine

def exec (i : Instr) (s : State) : Host.Outcome State Fault Refusal :=
  match i with
  | .waitBundle => Sys2Proof.Machine.execWaitBundle s
  | .segBundle => Sys2Proof.Machine.execSegBundle s
  | .ovlBundle => Sys2Proof.Machine.execOvlBundle s
  | .markerBundle expected => Sys2Proof.Machine.execMarkerBundle expected s
  | .loopBackEdge => Sys2Proof.Machine.execLoopBackEdge s
  | .resultLanding => Sys2Proof.Machine.execResultLanding s
  | .globalLoadLanding core load => Sys2Proof.Machine.execGlobalLoadLanding core load s
  | .add g d a b => Sys2Proof.Machine.execAdd g d a b s
  | .sub g d a b => Sys2Proof.Machine.execSub g d a b s
  | .and g d a b => Sys2Proof.Machine.execAnd g d a b s
  | .or g d a b => Sys2Proof.Machine.execOr g d a b s
  | .xor g d a b => Sys2Proof.Machine.execXor g d a b s
  | .shl g d a b => Sys2Proof.Machine.execShl g d a b s
  | .shr g d a b => Sys2Proof.Machine.execShr g d a b s
  | .sar g d a b => Sys2Proof.Machine.execSar g d a b s
  | .rot g d a b => Sys2Proof.Machine.execRot g d a b s
  | .min g d a b => Sys2Proof.Machine.execMin g d a b s
  | .max g d a b => Sys2Proof.Machine.execMax g d a b s
  | .minu g d a b => Sys2Proof.Machine.execMinu g d a b s
  | .maxu g d a b => Sys2Proof.Machine.execMaxu g d a b s
  | .addi g d a imm => Sys2Proof.Machine.execAddi g d a imm s
  | .andi g d a imm => Sys2Proof.Machine.execAndi g d a imm s
  | .ori g d a imm => Sys2Proof.Machine.execOri g d a imm s
  | .xori g d a imm => Sys2Proof.Machine.execXori g d a imm s
  | .shli g d a imm => Sys2Proof.Machine.execShli g d a imm s
  | .shri g d a imm => Sys2Proof.Machine.execShri g d a imm s
  | .sari g d a imm => Sys2Proof.Machine.execSari g d a imm s
  | .roti g d a imm => Sys2Proof.Machine.execRoti g d a imm s
  | .mul g d a b => Sys2Proof.Machine.execMul g d a b s
  | .mulh g d a b => Sys2Proof.Machine.execMulh g d a b s
  | .mulhu g d a b => Sys2Proof.Machine.execMulhu g d a b s
  | .div g d a b => Sys2Proof.Machine.execDiv g d a b s
  | .divu g d a b => Sys2Proof.Machine.execDivu g d a b s
  | .rem g d a b => Sys2Proof.Machine.execRem g d a b s
  | .remu g d a b => Sys2Proof.Machine.execRemu g d a b s
  | .clz g d a => Sys2Proof.Machine.execClz g d a s
  | .ctz g d a => Sys2Proof.Machine.execCtz g d a s
  | .popc g d a => Sys2Proof.Machine.execPopc g d a s
  | .bswap g d a => Sys2Proof.Machine.execBswap g d a s
  | .li g d imm => Sys2Proof.Machine.execLi g d imm s
  | .lih g d a imm => Sys2Proof.Machine.execLih g d a imm s
  | .sel g d a b pp => Sys2Proof.Machine.execSel g d a b pp s
  | .ceq g pd a b => Sys2Proof.Machine.execCeq g pd a b s
  | .cne g pd a b => Sys2Proof.Machine.execCne g pd a b s
  | .clt g pd a b => Sys2Proof.Machine.execClt g pd a b s
  | .cltu g pd a b => Sys2Proof.Machine.execCltu g pd a b s
  | .cle g pd a b => Sys2Proof.Machine.execCle g pd a b s
  | .cleu g pd a b => Sys2Proof.Machine.execCleu g pd a b s
  | .pand g pd pa pb => Sys2Proof.Machine.execPand g pd pa pb s
  | .por g pd pa pb => Sys2Proof.Machine.execPor g pd pa pb s
  | .pxor g pd pa pb => Sys2Proof.Machine.execPxor g pd pa pb s
  | .pnot g pd pa => Sys2Proof.Machine.execPnot g pd pa s
  | .b g target => Sys2Proof.Machine.execB g target s
  | .bp g offset => Sys2Proof.Machine.execBp g offset s
  | .call g d target => Sys2Proof.Machine.execCall g d target s
  | .ret g a => Sys2Proof.Machine.execRet g a s
  | .jr g a => Sys2Proof.Machine.execJr g a s
  | .loop g c last imm => Sys2Proof.Machine.execLoop g c last imm s
  | .lbrk g target => Sys2Proof.Machine.execLbrk g target s
  | .sysr g d num => Sys2Proof.Machine.execSysr g d num s
  | .sysw g a num => Sys2Proof.Machine.execSysw g a num s
  | .trap g code => Sys2Proof.Machine.execTrap g code s
  | .evpop g d => Sys2Proof.Machine.execEvpop g d s
  | .halt g => Sys2Proof.Machine.execHalt g s
  | .ipf g a => Sys2Proof.Machine.execIpf g a s
  | .ipin g a => Sys2Proof.Machine.execIpin g a s
  | .iunpin g a => Sys2Proof.Machine.execIunpin g a s
  | .vectorChain f g ch => Sys2Proof.Machine.execVectorChain f g ch s
  | .mpush g fmt aidx bidx pair => Sys2Proof.Machine.execMpush g fmt aidx bidx pair s
  | .mpusht g fmt aidx bidx pair => Sys2Proof.Machine.execMpusht g fmt aidx bidx pair s
  | .mburst g fmt aidx bidx pair tr => Sys2Proof.Machine.execMburst g fmt aidx bidx pair tr s
  | .mshift g => Sys2Proof.Machine.execMshift g s
  | .mhold g => Sys2Proof.Machine.execMhold g s
  | .mdrain g plane row target clr => Sys2Proof.Machine.execMdrain g plane row target clr s
  | .mclr g p0 p1 => Sys2Proof.Machine.execMclr g p0 p1 s
  | .mswap g => Sys2Proof.Machine.execMswap g s
  | .mmask g block src => Sys2Proof.Machine.execMmask g block src s
  | .mend g => Sys2Proof.Machine.execMend g s
  | .kld g e grp idx => Sys2Proof.Machine.execKld g e grp idx s
  | .kldp g e grp idx => Sys2Proof.Machine.execKldp g e grp idx s
  | .kmov g d r => Sys2Proof.Machine.execKmov g d r s
  | .kset g e c => Sys2Proof.Machine.execKset g e c s
  | .ldv g f dst base lvl disp => Sys2Proof.Machine.execLdv g f dst base lvl disp s
  | .ldvt g f dst base lvl stride es disp => Sys2Proof.Machine.execLdvt g f dst base lvl stride es disp s
  | .ldvp g f dst base lvl disp => Sys2Proof.Machine.execLdvp g f dst base lvl disp s
  | .ldvx g f dst base lvl idx disp => Sys2Proof.Machine.execLdvx g f dst base lvl idx disp s
  | .ldvg g f dst base idx disp => Sys2Proof.Machine.execLdvg g f dst base idx disp s
  | .lds g dst base lvl sz disp => Sys2Proof.Machine.execLds g dst base lvl sz disp s
  | .ldl g f dst base disp => Sys2Proof.Machine.execLdl g f dst base disp s
  | .ldgv g f dst base disp => Sys2Proof.Machine.execLdgv g f dst base disp s
  | .ldacq g dst base lvl sz disp => Sys2Proof.Machine.execLdacq g dst base lvl sz disp s
  | .pfg g base disp => Sys2Proof.Machine.execPfg g base disp s
  | .ldmc g ranks base lvl tgt nw => Sys2Proof.Machine.execLdmc g ranks base lvl tgt nw s
  | .stv g f src base lvl disp => Sys2Proof.Machine.execStv g f src base lvl disp s
  | .stvp g f src base lvl disp => Sys2Proof.Machine.execStvp g f src base lvl disp s
  | .stvx g f src base lvl idx => Sys2Proof.Machine.execStvx g f src base lvl idx s
  | .stvg g f src base disp => Sys2Proof.Machine.execStvg g f src base disp s
  | .stvgScatter g f src base idx => Sys2Proof.Machine.execStvgScatter g f src base idx s
  | .sts g src base lvl sz disp => Sys2Proof.Machine.execSts g src base lvl sz disp s
  | .stl g f src base disp => Sys2Proof.Machine.execStl g f src base disp s
  | .stsv g f src base lvl lane sz disp => Sys2Proof.Machine.execStsv g f src base lvl lane sz disp s
  | .strel g src base lvl sz disp => Sys2Proof.Machine.execStrel g src base lvl sz disp s
  | .ffill g src base disp => Sys2Proof.Machine.execFfill g src base disp s
  | .aadd g src base wide ret => Sys2Proof.Machine.execAadd g src base wide ret s
  | .amin g src base wide ret uns => Sys2Proof.Machine.execAmin g src base wide ret uns s
  | .amax g src base wide ret uns => Sys2Proof.Machine.execAmax g src base wide ret uns s
  | .axchg g src base wide ret => Sys2Proof.Machine.execAxchg g src base wide ret s
  | .acas g src cmp base wide ret => Sys2Proof.Machine.execAcas g src cmp base wide ret s
  | .atomicPerform core => Sys2Proof.Machine.execAtomicPerform core s
  | .engineBankRequest core grp bank => Sys2Proof.Machine.execEngineBankRequest core grp bank s
  | .xcp g dst src lane => Sys2Proof.Machine.execXcp g dst src lane s
  | .cpy g xs xd => Sys2Proof.Machine.execCpy g xs xd s
  | .mc g xs xd ranks => Sys2Proof.Machine.execMc g xs xd ranks s
  | .copyStart core => Sys2Proof.Machine.execCopyStart core s
  | .copyComplete core => Sys2Proof.Machine.execCopyComplete core s
  | .tinv g xv xn size => Sys2Proof.Machine.execTinv g xv xn size s
  | .tinvComplete core => Sys2Proof.Machine.execTinvComplete core s
  | .stash g xs xk mode => Sys2Proof.Machine.execStash g xs xk mode s
  | .spill g xs xk mode lp => Sys2Proof.Machine.execSpill g xs xk mode lp s
  | .drop g xh xk => Sys2Proof.Machine.execDrop g xh xk s
  | .fetch g xd xk free => Sys2Proof.Machine.execFetch g xd xk free s
  | .wver g xs xk => Sys2Proof.Machine.execWver g xs xk s
  | .stashRelease core => Sys2Proof.Machine.execStashRelease core s
  | .pressureSpillComplete pasid key => Sys2Proof.Machine.execPressureSpillComplete pasid key s
  | .stashReturnComplete pasid key => Sys2Proof.Machine.execStashReturnComplete pasid key s
  | .fetchComplete core => Sys2Proof.Machine.execFetchComplete core s
  | .engw g xv num => Sys2Proof.Machine.execEngw g xv num s
  | .engr g num => Sys2Proof.Machine.execEngr g num s
  | .engrComplete core => Sys2Proof.Machine.execEngrComplete core s
  | .reductionWindowWrite fr num v => Sys2Proof.Machine.execReductionWindowWrite fr num v s
  | .starenaWrite fr v => Sys2Proof.Machine.execStarenaWrite fr v s
  | .spillRegionWrite fr num v => Sys2Proof.Machine.execSpillRegionWrite fr num v s
  | .inChannelWrite fr num v => Sys2Proof.Machine.execInChannelWrite fr num v s
  | .outChannelWrite fr num v => Sys2Proof.Machine.execOutChannelWrite fr num v s
  | .chsend g xs xg xt chan => Sys2Proof.Machine.execChsend g xs xg xt chan s
  | .chrecv g xd chan => Sys2Proof.Machine.execChrecv g xd chan s
  | .cheos g chan => Sys2Proof.Machine.execCheos g chan s
  | .chsendRelease core => Sys2Proof.Machine.execChsendRelease core s
  | .chrecvComplete core => Sys2Proof.Machine.execChrecvComplete core s
  | .tileArrival t => Sys2Proof.Machine.execTileArrival t s
  | .eosTokenArrival via chan prod => Sys2Proof.Machine.execEosTokenArrival via chan prod s
  | .windowAdvertisement via out upto => Sys2Proof.Machine.execWindowAdvertisement via out upto s
  | .redm g xs xi win => Sys2Proof.Machine.execRedm g xs xi win s
  | .partialArrival via win p => Sys2Proof.Machine.execPartialArrival via win p s
  | .breakwaterRelease cluster => Sys2Proof.Machine.execBreakwaterRelease cluster s
  | .fence g rr rw wr ww sc => Sys2Proof.Machine.execFence g rr rw wr ww sc s
  | .spawn g sk st sb => Sys2Proof.Machine.execSpawn g sk st sb s
  | .tend g => Sys2Proof.Machine.execTend g s
  | .tabort g => Sys2Proof.Machine.execTabort g s
  | .frd g d => Sys2Proof.Machine.execFrd g d s
  | .frdOwn g d => Sys2Proof.Machine.execFrdOwn g d s
  | .taskLeavesCores tid => Sys2Proof.Machine.execTaskLeavesCores tid s
  | .frontierAdvance stage => Sys2Proof.Machine.execFrontierAdvance stage s
  | .taskRetire stage => Sys2Proof.Machine.execTaskRetire stage s
  | .frontierEviction stage => Sys2Proof.Machine.execFrontierEviction stage s
  | .heldCreatingEvent stage => Sys2Proof.Machine.execHeldCreatingEvent stage s
  | .budgetExhausted tid => Sys2Proof.Machine.execBudgetExhausted tid s
  | .overlayCopyComplete core overlay => Sys2Proof.Machine.execOverlayCopyComplete core overlay s
  | .phreg g h mode chip index => Sys2Proof.Machine.execPhreg g h mode chip index s
  | .phdrop g h r => Sys2Proof.Machine.execPhdrop g h r s
  | .phsig g h r => Sys2Proof.Machine.execPhsig g h r s
  | .phwait g h r => Sys2Proof.Machine.execPhwait g h r s
  | .phsw g h r => Sys2Proof.Machine.execPhsw g h r s
  | .chipPhaserPerform core => Sys2Proof.Machine.execChipPhaserPerform core s
  | .pbaseInit g d => Sys2Proof.Machine.execPbaseInit g d s
  | .pbase g => Sys2Proof.Machine.execPbase g s
  | .fwait g a => Sys2Proof.Machine.execFwait g a s
  | .futurePoll core => Sys2Proof.Machine.execFuturePoll core s
  | .dctrDec g n => Sys2Proof.Machine.execDctrDec g n s
  | .dctrSet g n k t => Sys2Proof.Machine.execDctrSet g n k t s
  | .dctrPerform stage => Sys2Proof.Machine.execDctrPerform stage s
  | .tokacq g => Sys2Proof.Machine.execTokacq g s
  | .tokrel g => Sys2Proof.Machine.execTokrel g s
  | .tokenHop die => Sys2Proof.Machine.execTokenHop die s
  | .ntile g a b => Sys2Proof.Machine.execNtile g a b s
  | .evwait g count => Sys2Proof.Machine.execEvwait g count s
  | .stageEvaluation stage => Sys2Proof.Machine.execStageEvaluation stage s
  | .taskDispatch tid => Sys2Proof.Machine.execTaskDispatch tid s
  | .headroomPublication die power => Sys2Proof.Machine.execHeadroomPublication die power s
  | .handlerResume tid => Sys2Proof.Machine.execHandlerResume tid s
  | .handlerExtend tid c => Sys2Proof.Machine.execHandlerExtend tid c s
  | .handlerAbort tid recreate => Sys2Proof.Machine.execHandlerAbort tid recreate s
  | .handlerContextFault tid => Sys2Proof.Machine.execHandlerContextFault tid s
  | .teamSwap tid => Sys2Proof.Machine.execTeamSwap tid s
  | .swapComplete tid => Sys2Proof.Machine.execSwapComplete tid s
  | .swapRestore tid => Sys2Proof.Machine.execSwapRestore tid s
  | .managementRead fr => Sys2Proof.Machine.execManagementRead fr s
  | .managementWrite fr v => Sys2Proof.Machine.execManagementWrite fr v s
  | .malformedFrame fr => Sys2Proof.Machine.execMalformedFrame fr s
  | .bulkUpload fr data => Sys2Proof.Machine.execBulkUpload fr data s
  | .firmwareStaged slotB verified => Sys2Proof.Machine.execFirmwareStaged slotB verified s
  | .tideTableWrite fr stage entry v => Sys2Proof.Machine.execTideTableWrite fr stage entry v s
  | .stagectlWrite fr stage v => Sys2Proof.Machine.execStagectlWrite fr stage v s
  | .faultLogRead fr => Sys2Proof.Machine.execFaultLogRead fr s
  | .qstateDisable fr slot => Sys2Proof.Machine.execQstateDisable fr slot s
  | .qstateRun fr slot => Sys2Proof.Machine.execQstateRun fr slot s
  | .rptrWrite fr slot v => Sys2Proof.Machine.execRptrWrite fr slot v s
  | .createContext fr body => Sys2Proof.Machine.execCreateContext fr body s
  | .destroyContext fr => Sys2Proof.Machine.execDestroyContext fr s
  | .contextFreed pasid => Sys2Proof.Machine.execContextFreed pasid s
  | .createQueue fr body => Sys2Proof.Machine.execCreateQueue fr body s
  | .destroyQueue fr => Sys2Proof.Machine.execDestroyQueue fr s
  | .restartQueue fr rptr => Sys2Proof.Machine.execRestartQueue fr rptr s
  | .invalidateTranslations fr va count size => Sys2Proof.Machine.execInvalidateTranslations fr va count size s
  | .gangSwitch fr time outgoing incoming => Sys2Proof.Machine.execGangSwitch fr time outgoing incoming s
  | .gangSwitchTime => Sys2Proof.Machine.execGangSwitchTime s
  | .quiesceFlit port pasid => Sys2Proof.Machine.execQuiesceFlit port pasid s
  | .saveContext fr => Sys2Proof.Machine.execSaveContext fr s
  | .contextSaveComplete pasid => Sys2Proof.Machine.execContextSaveComplete pasid s
  | .restoreContext fr => Sys2Proof.Machine.execRestoreContext fr s
  | .publishStagePlan fr body => Sys2Proof.Machine.execPublishStagePlan fr body s
  | .replanPublication stage clusters => Sys2Proof.Machine.execReplanPublication stage clusters s
  | .activateFirmware fr slotB => Sys2Proof.Machine.execActivateFirmware fr slotB s
  | .readIdentity fr => Sys2Proof.Machine.execReadIdentity fr s
  | .attest fr nonce => Sys2Proof.Machine.execAttest fr nonce s
  | .resetChip fr => Sys2Proof.Machine.execResetChip fr s
  | .doorbellWrite pasid slot v => Sys2Proof.Machine.execDoorbellWrite pasid slot v s
  | .packetHeaderReread slot => Sys2Proof.Machine.execPacketHeaderReread slot s
  | .taskPacket slot => Sys2Proof.Machine.execTaskPacket slot s
  | .signalPacket slot => Sys2Proof.Machine.execSignalPacket slot s
  | .signalStore slot => Sys2Proof.Machine.execSignalStore slot s
  | .fencePacket slot => Sys2Proof.Machine.execFencePacket slot s
  | .queueFenceRelease slot => Sys2Proof.Machine.execQueueFenceRelease slot s
  | .launchPacket slot => Sys2Proof.Machine.execLaunchPacket slot s
  | .launchInstall slot => Sys2Proof.Machine.execLaunchInstall slot s
  | .nopPacket slot => Sys2Proof.Machine.execNopPacket slot s
  | .flitResendRequest port => Sys2Proof.Machine.execFlitResendRequest port s
  | .timeBaseFlit port ns => Sys2Proof.Machine.execTimeBaseFlit port ns s
  | .viralNeighbour port chip => Sys2Proof.Machine.execViralNeighbour port chip s
  | .powerOnReset record failure => Sys2Proof.Machine.execPowerOnReset record failure s
  | .temperatureReport die celsius => Sys2Proof.Machine.execTemperatureReport die celsius s
  | .thermalTrip => Sys2Proof.Machine.execThermalTrip s
  | .sounderReport first second strike => Sys2Proof.Machine.execSounderReport first second strike s
  | .dataError cluster core site addr => Sys2Proof.Machine.execDataError cluster core site addr s
  | .rewindPointExpiry core => Sys2Proof.Machine.execRewindPointExpiry core s
  | .sounderSelfTest cluster passing => Sys2Proof.Machine.execSounderSelfTest cluster passing s
  | .ageingMonitorRead cluster slack => Sys2Proof.Machine.execAgeingMonitorRead cluster slack s
  | .marginReplan cluster millivolt guardBand => Sys2Proof.Machine.execMarginReplan cluster millivolt guardBand s
  | .contextRestoreComplete pasid => Sys2Proof.Machine.execContextRestoreComplete pasid s
  | .levelDataArrival core => Sys2Proof.Machine.execLevelDataArrival core s
  | .discardedFlit port => Sys2Proof.Machine.execDiscardedFlit port s
  | .linkControlTrainingFlit port sign => Sys2Proof.Machine.execLinkControlTrainingFlit port sign s
  | .firmwareImageDiscard fr => Sys2Proof.Machine.execFirmwareImageDiscard fr s
  | .platformUncorrectableError part => Sys2Proof.Machine.execPlatformUncorrectableError part s

end Sys2Proof.Machine
end

