-- ==== Sys2Proof/Machine/Issue.lean ====
section
/-!
DEFINITION. The issue of a bundle: which cores may issue, what holds a bundle (R47, R67, R189, R204, R208, R209, R217,
R218, R285), the requested stop (R287, R288), the debug stops (R392, R393), the faults of decode and issue (R57) and
the slots in the order of the model.
-/
namespace Sys2Proof.Machine

/-- The state that an operation leads to. -/
def State.perform (s : State) (i : Instr) : State :=
  match exec i s with
  | .next t => t
  | _ => s

/-! ### Which core (R257, R270, R289, R319, R323, R383) -/

/-- Do the streams of a context run? One that is being destroyed ends with its tasks at the end of the cycle (R267, R335). -/
def State.ctxRuns (s : State) (p : Nat) : Bool :=
  match (s.ctx p).phase with
  | .active | .stopping | .destroying => true
  | _ => false

/-- May a core issue in this cycle: it runs a task whose stream is not stopped. -/
def State.canIssue (s : State) (c : Nat) : Bool :=
  let k := s.core c
  let q := k.seq
  match k.task.bind s.task? with
  | none => false
  | some t =>
    !(s.viral || s.tripped || s.recovery) && s.ctxRuns t.pasid && (s.clu (clusterOf c)).savingAt.isNone &&
    t.event.isNone && t.leaving.isNone && t.deferred.isNone && t.swap == .none &&
    !(q.halted || q.ended || q.stopped || k.retired) && decide (q.issueAt ≤ s.cycle)

/-- May a held core try again behind the other cores of this cycle: its own `phsw` has signalled in it, or its
`fwait` began to hold in it and the cell has been filled (R296, R305). -/
def State.retries (s : State) (c : Nat) : Bool :=
  let q := (s.core c).seq
  (match q.hold with | some h => h.cause == .ywait | none => false) &&
    (q.signalledAt == some s.cycle ||
      (q.waitAt == some s.cycle && (match s.fwaitCell c with | some a => s.cellFull c a | none => false)))

/-- The next core to issue in this cycle. -/
def State.nextCore (s : State) : Option Nat :=
  ((s.cores.find? fun (e : Nat × Core) => decide (s.turn ≤ e.1) && s.canIssue e.1 && (!s.late || s.retries e.1))).map (·.1)

/-! ### What holds a bundle -/

/-- Does a draining fence still wait: a store of an earlier segment of the core has not been released (R209)? -/
def State.drainWaits (s : State) : Bool :=
  let c := s.turn
  let k := s.cur
  let mine := fun (w : Write) => w.core == c && decide (w.seg < k.rcv.seg)
  k.eng.draining && ((s.clu (clusterOf c)).held.any (fun h => mine h.w) || k.eng.unWrites.any mine ||
    ((s.taskOf c).map fun (t : Task) => t.wlog.any mine).getD false)

/-- Is the data of a load due in this bundle still on its way (R189, R266)? -/
def Core.dataLate (k : Core) : Bool :=
  (k.seq.flight.any fun r => decide (r.due ≤ k.seq.stream) && !r.wait.isEmpty) ||
  (match k.eng.ldmc with | some m => decide (m.due ≤ k.seq.stream) && !m.wait.isEmpty | none => false)

/-- Does the bundle at `pc` lie in an overlay of the segment table that is not resident (R285)? -/
def State.codeAway (s : State) : Bool :=
  let a := s.cur.seq.pc
  !s.cur.hasCode a && (Table.get? (s.progOf s.turn).overlays (overlayOf a)).isSome

/-- The freezes that come before the bundle is looked at. -/
def State.freeze (s : State) : Option HoldCause :=
  let q := s.cur.seq
  if s.cycle < q.frozen then some (match q.hold with | some h => if h.cause == .slack then .slack else .level | none => .level)
  else if s.drainWaits || s.cur.dataLate then some .level
  else if s.codeAway then some .residency
  else none

/-- Is what a core depends on strike-clear (R218, R301)? -/
def State.depClear (s : State) (d : Dep) : Bool :=
  match d.due with
  | some t => decide (t ≤ s.cycle)
  | none =>
    let w := (s.core d.core).rcv
    decide (d.seg < w.seg) && (match Table.get? w.ends d.seg with | some e => decide (e + Config.W ≤ s.cycle) | none => true)

/-- May a `seg` bundle issue: W has passed since the entry of the segment, and what the core used is strike-clear (R67,
R217, R218)? -/
def State.segmentOver (s : State) : Bool :=
  let r := s.cur.rcv
  r.fresh || (decide (r.segStart + Config.W ≤ s.cycle) && r.deps.all s.depClear)

/-- An access beyond the core's own storage that a fence orders (R208). -/
def farAccess (i : Instr) : Bool :=
  match i with
  | .ldv _ _ _ _ l _ | .ldvt _ _ _ _ l _ _ _ | .ldvp _ _ _ _ l _ | .ldvx _ _ _ _ l _ _ | .lds _ _ _ l _ _
  | .ldacq _ _ _ l _ _ | .ldmc _ _ _ l _ _ | .stv _ _ _ _ l _ | .stvp _ _ _ _ l _ | .stvx _ _ _ _ l _
  | .sts _ _ _ l _ _ | .stsv _ _ _ _ l _ _ _ | .strel _ _ _ l _ _ => l != .sp
  | .ldvg _ _ _ _ _ _ | .ldgv _ _ _ _ _ | .stvg _ _ _ _ _ | .stvgScatter _ _ _ _ _ | .ffill _ _ _ _ => true
  | _ => false

/-- Has a core loads in flight that had issued before a place in its order (R208)? Data of the chip scratchpad that another
cluster holds counts with them (assumption log 92). -/
def Core.loadsBefore (k : Core) (bound : Nat) : Bool :=
  (k.seq.gloads.any fun g => decide (g.id < bound)) || k.xsWaits.any fun x => decide (x.1 < bound)

/-- Is an acquire still to be performed: a global one in flight, or one of the chip scratchpad whose data waits (R204, R266)? -/
def Core.acquiring (k : Core) : Bool :=
  (k.seq.gloads.any (·.acquire)) || k.seq.flight.any fun r => r.acquire && !r.wait.isEmpty

/-- Has a bundle an access of a slot that a fence orders? -/
def farIn (b : Bundle) (sl : Slot) : Bool := b.slots.any fun x => x.1 == sl && (x.2.map farAccess).getD false

/-- The accesses of a fence's own bundle are later ones, and wait for the loads in flight as those of the bundles behind it
do (R208). -/
def State.ownFence (s : State) (b : Bundle) : Bool :=
  s.cur.loadsBefore s.nextId && b.slots.any fun x => match x.2 with
    | some (.fence g rr rw _ _ _) => s.cur.on g && ((rr && farIn b .l) || (rw && farIn b .t))
    | _ => false

/-- What waits for an `ldacq` at global level (R204). -/
def waitsForAcquire (x : Slot × Option Instr) : Bool :=
  match x with
  | (.l, _) | (.t, _) => true
  | (.x, some (.xcp _ _ _ _)) => false
  | (.x, _) => true
  | (.y, some (.fence _ _ _ _ _ _)) => true
  | _ => false

def onWhole (h : HoldCause) : Hold := ⟨h, 15⟩

/-- Does a rerun still wait for the value of a load of its segment, which its signature takes in (R373; assumption log 111)? -/
def Core.rerunLoads (k : Core) : Bool :=
  k.rcv.rerun.isSome && match k.rcv.rps.head? with
    | some rp => k.seq.gloads.any fun g => decide (rp.stream ≤ g.issued)
    | none => false

/-- What holds a decoded bundle before its slots are tried. -/
def State.bundleHold (s : State) (b : Bundle) (begun : Bool) : Option Hold :=
  let k := s.cur
  let named := fun (x : Slot × Option Instr) => match x.2 with
    | some i => (namedRegs i k.ys.ntp).any fun r => k.seq.gloads.any fun g => g.dest == r
    | none => false
  if b.seg && !begun && !s.segmentOver then some (onWhole .segment)
  else if b.seg && !begun && k.rerunLoads then some (onWhole .level)
  else if let some x := (if k.acquiring then b.slots.find? waitsForAcquire else none) then some ⟨.acquire, x.1.num⟩
  else if (farIn b .l && k.loadsBefore k.eng.fenceR) || (farIn b .t && k.loadsBefore k.eng.fenceW) then some (onWhole .level)
  else (b.slots.find? named).map fun x => ⟨.interlock, x.1.num⟩

/-! ### The slots -/

/-- Opcode field and guard of a slot field (R38). -/
def slotOp (sl : Slot) (f : Nat) : Nat × Guard :=
  match sl with
  | .s => (bits f 56 8, decGuard f 51)
  | .va | .vb => (bits f 78 2, decGuard f 73)
  | .m => (bits f 44 4, decGuard f 39)
  | .k => (bits f 29 3, decGuard f 24)
  | .l => (bits f 59 5, decGuard f 54)
  | .t | .x => (bits f 43 5, decGuard f 38)
  | .y => (bits f 27 5, decGuard f 22)

def opOf (i : Instr) : Nat × Guard :=
  match encodeField i with
  | some (sl, f) => slotOp sl f
  | none => (0, Guard.always)

/-- A slot tried alone on the state before the bundle. A field that is no operation faults (R53, R56). -/
def State.trySlot (s : State) (x : Slot × Option Instr) : State :=
  match x.2 with
  | none => s.issueFault x.1 0x02
  | some i => s.perform i

/-- The fault of the lowest-numbered faulting slot, and otherwise the first hold (R57). -/
def State.probe (s : State) (l : List (Slot × Option Instr)) : Option State :=
  let ts := l.map s.trySlot
  match ts.find? fun t => t.cur.seq.verdict == .faulted with
  | some t => some t
  | none => ts.find? fun t => t.cur.seq.verdict == .held

/-- One slot of an issuing bundle; a rerun signs it (R373). -/
def State.runSlot (s : State) (x : Slot × Option Instr) : State :=
  match x.2 with
  | none => s
  | some i =>
    let o := opOf i
    let s1 := if s.cur.rcv.rerun.isSome && s.cur.on o.2 then s.modCur fun k => k.sigNote k.seq.stream x.1 [BitVec.ofNat 8 x.1.num, BitVec.ofNat 8 o.1] else s
    s1.perform i

def isTend (x : Slot × Option Instr) : Bool := match x.2 with | some (.tend _) => true | _ => false
def isFence (x : Slot × Option Instr) : Bool := match x.2 with | some (.fence _ _ _ _ _ _) => true | _ => false

/-- The order in which the slots of a bundle act on one another's state; registers are read as they stood (R11). A fence
acts at its issue, before the accesses of its bundle (R201, R208). -/
def execOrder (l : List (Slot × Option Instr)) : List (Slot × Option Instr) :=
  let pick := fun (sl : Slot) => l.filter fun x => x.1 == sl && !isTend x && !isFence x
  l.filter isFence ++ pick .va ++ pick .vb ++ pick .m ++ pick .k ++ pick .l ++ pick .x ++ pick .y ++ pick .t ++ pick .s ++ l.filter isTend

def State.runSlots (s : State) (l : List (Slot × Option Instr)) : State := (execOrder l).foldl State.runSlot s

/-- A `y.tabort` that discards its bundle with its task (R274). -/
def Core.abortsIn (k : Core) (l : List (Slot × Option Instr)) : Option Instr :=
  (l.find? fun x => match x.2 with | some (.tabort g) => k.on g | _ => false).bind (·.2)

/-! ### Debug stops (R388, R392, R393) -/

/-- The watched slot, when the watch stop is to be taken in the bundle at `pc`. -/
def State.watched (s : State) (b : Bundle) : Option Slot :=
  let d := s.cur.regs.driftlim.toNat
  if bitAt d 62 && bits d 36 22 == s.cur.seq.pc.toNat && !s.cur.seq.reissue && s.cur.rcv.rerun.isNone then
    (b.slots.find? fun x => x.1.num == bits d 58 4 && (x.2.map fun i => s.cur.on (opOf i).2).getD false).map (·.1)
  else none

def maskOf (l : List (Slot × Option Instr)) : Nat := (l.map fun x => 2 ^ x.1.num).sum

/-- The watch stop: the slots before the watched one have completed, but for one that an execution fault has stopped: it executes
again with the rest of the bundle, and faults then (R57, R392). -/
def State.watchStop (s : State) (sl : Slot) (done : Nat) : State :=
  let q := s.cur.seq
  let again := match q.efault with | some f => f.done | none => 0
  let done := done ^^^ (done &&& again)
  let s1 := s.traceDelay.logCore 4 s.turn 15 q.pc (done + 2 ^ 9) true
  ((s1.modCur fun k => { k with seq := { k.seq with inBundle := false, hold := none, held := 0, reissue := true,
                                                    efault := if again = 0 then k.seq.efault else none },
                                  regs := { k.regs with donemask := BitVec.ofNat 64 done } }).takeFault
      { code := 0, core := s.turn, slot := sl.num, addr := q.pc, safe := q.bsafe, trap := 0xFFF1 })

/-! ### The bundle -/

/-- A held bundle: what its trial did to the waits stays, and the results that it would have landed stay in flight. -/
def Core.unland (before after : Core) : Core :=
  { after with
    regs := { before.regs with lclock := after.regs.lclock }, sp := before.sp, arr := before.arr,
    seq := { after.seq with flight := before.seq.flight, efault := before.seq.efault, raised := before.seq.raised,
                            raisedStat := before.seq.raisedStat, inBundle := false, bundleFpc := before.seq.bundleFpc },
    rcv := { after.rcv with seen := before.rcv.seen, rerun := before.rcv.rerun } }

/-- Is a stop requested of the core in issue (R287)? The reruns of a task that has left its cores go to their end (R367). -/
def State.stopAsked (s : State) : Bool :=
  (s.ctx (s.pasidOf s.turn)).phase == .stopping && !((s.cur.rcv.rerun.map (·.left)).getD false)

/-- The freezes in place, whose end a requested stop awaits (R221, R287, R315, R378). -/
def freezesInPlace (cause : HoldCause) : Bool :=
  match cause with
  | .slack | .level | .shadow | .residency | .frontier | .token | .breakwater | .records => true
  | .interlock | .ywait | .acquire | .place | .window | .absent | .segment => false

/-- The waits at a bundle (R288): Y waits, a place that has not come, a closed window, an absent stash entry. -/
def waitsAt (cause : HoldCause) : Bool :=
  match cause with
  | .ywait | .window | .absent | .place => true
  | _ => false

/-- A core held at a waiting bundle that is not shadow-free, while its context is to stop, goes back to its segment entry
(R288). -/
def State.stopHeld (s : State) (b : Bundle) : State :=
  let waits := match s.cur.seq.hold with | some h => waitsAt h.cause | none => false
  if s.stopAsked && waits && !(b.safe || b.seg) && !s.cur.rcv.fresh then s.rewindCurrent 8 [s.turn] [] else s

/-- The core stands at its requested stop, before the bundle at its `pc` (R287). -/
def State.standStill (s : State) : State := s.modCur fun k => k.modSeq fun q => { q with stopped := true, hold := none, held := 0 }

/-- The core before a bundle that may issue: due results have landed (R46), and its modes are fixed (R82). -/
def State.prelude (s : State) (b : Bundle) : State :=
  s.modCur fun k => (k.modSeq fun q =>
    { q with efault := if q.reissue then q.efault else none, blen := b.len, bmask := maskOf b.slots, bsafe := b.safe || b.seg, inBundle := true, verdict := .ok,
             bundleFpc := some (q.bundleFpc.getD k.regs.fpc) }).landDue s.cycle s.turn

/-- The header's effects (R365, R285, R389). The delay of a marker bundle itself is traced before it arms (R390). -/
def State.header (s : State) (b : Bundle) : State :=
  let s1 := if b.seg then s.perform .segBundle else s
  if s1.cur.seq.verdict == .held then s1
  else
    let s2 := if b.ovl then s1.perform .ovlBundle else s1
    if b.mark then (s2.traceDelay.modCur fun k => k.modSeq fun q => { q with hold := none, held := 0 }).perform (.markerBundle b.expected)
    else s2

/-- The slots of a bundle that issues, up to the watch stop, and its end. -/
def State.runBundle (s : State) (b : Bundle) (l : List (Slot × Option Instr)) : State :=
  match s.watched b with
  | some sl =>
    let first := l.filter fun x => decide (x.1.num < sl.num)
    (s.runSlots first).watchStop sl (maskOf first)
  | none => if b.slots.isEmpty then s.perform .waitBundle else (s.runSlots l).finishBundle

/-- A `seg` bundle that waits for records ends the segment before it: the records of that segment's operations are posted
only behind its end (R217, R229, R403). -/
def State.heldForRecords (s1 : State) (b : Bundle) (begun : Bool) (h : Option Hold) : Bool :=
  b.seg && !begun && !s1.cur.rcv.fresh && (match h with | some x => x.cause == .records | none => false)

/-- The wait of such a bundle: due results have landed, the rewind point is taken (or a rerun ends). -/
def State.segHeld (s1 : State) (h : Option Hold) : State :=
  let s2 := s1.perform .segBundle
  s2.modCur fun k => k.modSeq fun q => { q with hold := h, verdict := .held, inBundle := false }

/-- The bundle issues, with the landings and the header of `s1`: its slots, and its end. `s` is the state before it. A `y.tabort`
that no watch stop keeps from executing discards the bundle with its task (R274, R392). -/
def State.goBundle (s s1 : State) (b : Bundle) (l : List (Slot × Option Instr)) : State :=
  match (if (s1.watched b).all (fun sl => decide (Slot.y.num < sl.num)) then s1.cur.abortsIn l else none) with
  | some i => s1.traceDelay.perform i
  | none =>
    let s2 := s1.landLdmc s.turn
    let s3 := if s.cur.seq.reissue then s2 else s2.header b
    if s3.cur.seq.verdict == .held then s3
    else
      let s4 := s3.runBundle b l
      if s4.cur.seq.verdict == .held then
        s.modCur fun k => k.modSeq fun q => { q with hold := s4.cur.seq.hold, verdict := .held, fronted := q.fronted || s4.cur.seq.fronted }
      else s4

/-- The bundle b at the pc of the core in turn: a requested stop before a shadow-free bundle that no freeze in place holds
(R287), a hold, a fault, a cycle lost to an engine's bank request (R193), or its issue. -/
def State.issueBundle (s : State) (b : Bundle) : State :=
  let begun := s.cur.seq.reissue
  let stops := s.stopAsked && (b.safe || b.seg || s.cur.rcv.fresh)
  let stopsAt := fun (h : Option Hold) => stops && (match h with | some x => !freezesInPlace x.cause | none => true)
  match s.bundleHold b begun with
  | some h =>
    if stopsAt (some h) then s.standStill
    else (s.modCur fun k => k.modSeq fun q => { q with hold := some h }).stopHeld b
  | none =>
    let s1 := s.prelude b
    let l := b.slots.filter fun x => !bitAt s.cur.regs.donemask.toNat x.1.num
    if s1.ownFence b then s.modCur fun k => k.modSeq fun q => { q with hold := some (onWhole .level) }
    else match s1.probe l with
    | some t =>
      if t.cur.seq.verdict == .held then
        if stopsAt t.cur.seq.hold then s.standStill
        else if s1.heldForRecords b begun t.cur.seq.hold then s1.segHeld t.cur.seq.hold
        else (t.modCur fun k => s.cur.unland k).stopHeld b
      else if stops then s.standStill
      else t
    | none =>
      if stops then s.standStill
      else
        let (frozen, s2) := s1.refuseBanks s.turn fun n => holdsBank s.cur s1.cur l n
        if frozen then s.slackFreeze else s.goBundle s2 b l

/-- The core in turn is at its next bundle: a freeze, the illegal-bundle fault (R37, R57), or the bundle. The copy of an absent
overlay starts at once, whatever else freezes the core (R285). -/
def State.issueNext (s : State) : State :=
  match s.freeze with
  | some cause =>
    let s1 := if s.codeAway then s.startCopy s.turn (overlayOf s.cur.seq.pc) else s
    s1.modCur fun k => k.modSeq fun q => { q with hold := some (onWhole cause) }
  | none =>
    let s0 := if s.cur.eng.draining then s.modCur fun k => k.modEng fun e => { e with draining := false } else s
    match (s0.progOf s0.turn).bundleAt s0.cur.seq.pc with
    | none => s0.takeFault { code := 0x01, core := s0.turn, slot := 15, addr := s0.cur.seq.pc }
    | some b => s0.issueBundle b

/-- A core issues; a debug stop that has followed a trap of the same bundle comes first (R392). -/
def State.issue (s : State) : State :=
  match s.cur.seq.trapped with
  | f :: rest => if s.cur.seq.reissue then s.issueNext else (s.modCur fun k => k.modSeq fun v => { v with trapped := rest }).takeFault f
  | [] => s.issueNext

/-- One core's turn. At the end of the first rerun the core has gone back, and its `seg` bundle issues in the same cycle
(R372). In the second pass an `fwait` that began to hold in this cycle is tried afresh (R305). -/
def State.takeTurn (s : State) (c : Nat) : State :=
  let s0 := { s with turn := c }
  let s1 := if s.late && s0.cur.seq.signalledAt != some s.cycle then
      s0.modCur fun k => k.modSeq fun q => { q with hold := none, releaseAt := none }
    else s0
  let s2 := s1.issue
  let again := match (s1.core c).rcv.rerun, (s2.core c).rcv.rerun with | some a, some b => !a.second && b.second | _, _ => false
  { (if again then s2.issue else s2) with turn := c + 1 }

end Sys2Proof.Machine
end

