-- ==== Sys2Proof/Machine/Cycle.lean ====
section
/-!
DEFINITION. The end of a chip cycle: completions of phasers (R296), conflict aborts (R265), budgets and cycle counts
(R21, R389), waits (R325, R390), the landing of results on cores that issue no more (R24, R284), and the events of the
next cycle: what the outside world does then and what the machine's own agents are due to do.
-/
namespace Sys2Proof.Machine

/-! ### Counting (R21, R325, R389, R390) -/

/-- Does a task's cycle count against its budget: it holds its cores and no stop in place awaits the handler (R21)? The cycle
that raises the event does not count (assumption log 105), nor does one in which a save or restore of its registers is under
way (assumption log 117). -/
def State.counts (s : State) (e : Nat × Task) : Bool :=
  let t := e.2
  let phase := (s.ctx t.pasid).phase
  (t.state == .running || t.state == .waiting) && t.swap == .none && t.event.isNone && t.leaving.isNone && t.dispatchAt.isNone &&
  (phase == .active || phase == .stopping) && !(s.viral || s.tripped) &&
  s.cores.any fun x => x.2.task == some e.1 && (s.clu (clusterOf x.1)).savingAt.isNone

/-- One cycle of the counts of a task and its cores. -/
def State.countTask (s : State) (e : Nat × Task) : State :=
  if !s.counts e then s
  else
    let idle := s.waitIdle e.1
    let waits := e.2.ender.isNone && (s.coresOf e.1).any fun c => (s.core c).heldAtWait
    let s1 := s.modTask e.1 fun t =>
      { t with budget := t.budget - 1, waitRun := if idle then t.waitRun + 1 else 0, state := if waits then .waiting else .running }
    (s.coresOf e.1).foldl (fun (s : State) c => s.modCore c fun k => k.modSeq fun q =>
      { q with cyc := q.cyc + 1, held := if q.hold.isSome then q.held + 1 else q.held }) s1

/-! ### Cores that issue no more (R24, R284, R287) -/

/-- Does a core that issues no more issue wait cycles so that its results land: halted, ended or leaving its task, be its
team or its context on the way out (R24, R284)? A team that has stopped in place holds its results (R287). -/
def State.drains (s : State) (c : Nat) : Bool :=
  let k := s.core c
  (k.seq.halted || k.seq.ended) && !(s.viral || s.tripped || s.recovery) && (match k.task.bind s.task? with
    | some t => t.event.isNone && t.deferred.isNone
    | none => false)

/-- Is a core stopped for a save, where only what is due lands? -/
def State.settling (s : State) (c : Nat) : Bool :=
  let k := s.core c
  match k.task.bind s.task? with
  | some t => k.seq.stopped || t.swap != .none || (s.clu (clusterOf c)).savingAt.isSome
  | none => false

/-- A breach found by such a landing is a fault of the core's last bundle. -/
def State.lateBreach (s : State) (c : Nat) : State :=
  match (s.core c).seq.efault with
  | none => s
  | some f =>
    let s1 := s.modCore c fun k => k.modSeq fun q => { q with efault := none }
    match (s.core c).task.bind s.task? with
    | some t => if t.leaving.isSome then s1 else s1.takeFault f
    | none => s1

/-- One cycle of such a core; data that is late stops its landings as it stops a stream (R189). -/
def State.drainCore (s : State) (c : Nat) : State :=
  if (s.core c).dataLate then s
  else if s.drains c then
    (((s.modCore c fun k => k.landDue s.cycle c).landLdmc c).lateBreach c).modCore c
      fun k => k.modSeq fun q => { q with stream := q.stream + 1 }
  else if s.settling c && (s.core c).seq.efault.isNone then ((s.modCore c fun k => k.landDue s.cycle c).landLdmc c).lateBreach c
  else s

/-! ### What is due in a cycle -/

def reached (at_ cycle : Nat) : Bool := decide (at_ ≤ cycle)

def whenever (b : Bool) (i : Instr) : List Instr := if b then [i] else []

/-- Engine events of a core: its pending pool and phaser operations, then each queue's active operation. -/
def State.engineEvents (s : State) (c : Nat) (k : Core) : List Instr :=
  let e := k.eng
  let due := fun (o : EngOp) => !o.complete && reached o.doneAt s.cycle
  whenever (!e.atomics.isEmpty) (.atomicPerform c) ++ whenever (!e.phaserOps.isEmpty) (.chipPhaserPerform c) ++
  (match e.copyQ with
    | o :: _ => (match o.cmd with
      | .tinv _ _ _ => whenever (!o.complete) (.tinvComplete c)
      | _ => if o.started then whenever (due o) (.copyComplete c) else whenever (!o.complete) (.copyStart c))
    | [] => []) ++
  (match e.stashQ with
    | o :: _ => (match o.cmd with
      | .fetch _ _ _ => whenever (due o) (.fetchComplete c)
      | _ => whenever (!o.complete) (.stashRelease c))
    | [] => []) ++
  (match e.chanQ with
    | o :: _ => (match o.cmd with
      | .chrecv _ _ => whenever (due o) (.chrecvComplete c)
      | _ => whenever (!o.complete) (.chsendRelease c))
    | [] => []) ++
  (match e.redQ with
    | o :: _ => (match o.cmd with
      | .redm w _ _ => whenever (!o.sent && !o.complete)
          (.partialArrival { pasid := s.pasidOf c } (BitVec.ofNat 6 w) { lo := c, span := o.id, leaves := [], elems := [], poison := false })
      | _ => [])
    | [] => []) ++
  whenever (e.regQ.any due) (.engrComplete c)

/-- The other events of a core: loads and data that arrive, overlays, polls, rewind points that expire. -/
def State.coreEvents (s : State) (c : Nat) (k : Core) : List Instr :=
  ((k.seq.gloads.filter fun g => reached g.readyAt s.cycle).map fun g => Instr.globalLoadLanding c g.id) ++
  whenever ((k.seq.flight.any fun r => !r.wait.isEmpty) || (match k.eng.ldmc with | some m => !m.wait.isEmpty | none => false))
    (.levelDataArrival c) ++
  ((k.copying.filter fun e => reached e.2 s.cycle).map fun e => Instr.overlayCopyComplete c e.1) ++
  whenever (k.seq.waitFrom != 0 && reached k.seq.waitFrom s.cycle) (.futurePoll c) ++
  whenever (k.rcv.rps.any fun p => match p.freedAt with | some f => reached f s.cycle | none => false) (.rewindPointExpiry c)

/-- Events of a task at the end of a cycle: it leaves its cores (R273), or its budget has run out (R21). -/
def State.closingTask (s : State) (t : Nat) (k : Task) : List Instr :=
  let cs := s.coresOf t
  whenever (!cs.isEmpty && (k.leaving.isSome || k.ender.isSome || k.state == .ended || k.state == .committed ||
    cs.all fun c => (s.core c).seq.halted)) (.taskLeavesCores t) ++
  whenever (k.budget == 0 && k.event.isNone && (k.state == .running || k.state == .waiting)) (.budgetExhausted t)

/-- Events of a task at the start of a cycle: it is swapped, saved or restored. -/
def State.taskEvents (s : State) (t : Nat) (k : Task) : List Instr :=
  whenever (k.swap == .none && (match s.waitLimit t with | some l => decide (l ≤ k.waitRun) | none => false)) (.teamSwap t) ++
  (match k.swap with
    | .saving d => whenever (reached d s.cycle) (.swapComplete t)
    | .restoring d => whenever (reached d s.cycle) (.swapRestore t)
    | .none => [])

def State.liveTasks (s : State) : List (Nat × Task) :=
  s.tasks.filter fun (e : Nat × Task) => e.2.inFlight || s.cores.any fun x => x.2.task == some e.1

/-- Is the context of a stage in place? -/
def State.stageOn (s : State) (g : Stage) : Bool :=
  let phase := (s.ctx g.pasid).phase
  g.valid && g.prog.isSome && (phase == .active || phase == .stopping)

/-- Events of a stage at the start of a cycle: counters, held creations, the frontier. -/
def State.stageEvents (s : State) (st : Nat) (g : Stage) : List Instr :=
  if !s.stageOn g then []
  else whenever (!g.ctrOps.isEmpty) (.dctrPerform st) ++ [.heldCreatingEvent st, .frontierAdvance st]

/-- Events of a stage at the end of a cycle: retirement, eviction, and the evaluation that fills what they free (R264, R269,
R319). -/
def State.closingStage (s : State) (st : Nat) (g : Stage) : List Instr :=
  if s.stageOn g then [.taskRetire st, .frontierEviction st, .stageEvaluation st] else []

/-- Events of a context: stash moves, its switch out and in, its end. -/
def State.contextEvents (s : State) (p : Nat) (x : Context) : List Instr :=
  let moves := fun (st : StashState) => x.stash.filter fun e => e.state == st && (match e.moveAt with | some t => reached t s.cycle | none => false)
  ((moves .kept).map fun e => Instr.pressureSpillComplete p e.key) ++ ((moves .returning).map fun e => Instr.stashReturnComplete p e.key) ++
  (match x.phase with
    | .stopping => [.contextSaveComplete p]
    | .saving d => whenever (reached d s.cycle) (.contextSaveComplete p)
    | .restoring d => whenever (reached d s.cycle) (.contextRestoreComplete p)
    | .destroying => [.contextFreed p]
    | .active | .saved => [])

/-- What the command processor does next on a queue: it finishes the packet on which it acts, even where the queue has been
disabled (R341-R343, R347). -/
def State.queueEvents (slot : Nat) (q : QueueSlot) : List Instr :=
  match q with
  | .tombstone => []
  | .live q =>
    if q.overrun then [.packetHeaderReread slot]
    else match q.acting with
    | some a => match leNat (a.2.take 1) with
      | 2 => [.signalStore slot]
      | 3 => [.queueFenceRelease slot]
      | 4 => [.launchInstall slot]
      | _ => []
    | none =>
      if q.qstate != .running || q.rptr == q.wptr then []
      else match Table.get? q.copies q.rptr with
        | none => [.packetHeaderReread slot]
        | some bs => match leNat (bs.take 1) with
          | 1 => [.taskPacket slot]
          | 2 => [.signalPacket slot]
          | 3 => [.fencePacket slot]
          | 4 => [.launchPacket slot]
          | 5 => [.nopPacket slot]
          | _ => [.packetHeaderReread slot]

/-- The events at the start of a cycle, in the order in which the model takes them (assumption log 20). -/
def State.poll (s : State) : List Instr :=
  let cores := fun (f : Nat → Core → List Instr) => (s.cores.map fun (e : Nat × Core) => f e.1 e.2).flatten
  cores s.coreEvents ++
  ((s.clusters.filter fun (e : Nat × Cluster) => !e.2.held.isEmpty).map fun e => Instr.breakwaterRelease e.1) ++
  cores s.engineEvents ++
  (s.liveTasks.map fun (e : Nat × Task) => s.taskEvents e.1 e.2).flatten ++
  (s.stages.map fun (e : Nat × Stage) => s.stageEvents e.1 e.2).flatten ++
  (s.contexts.map fun (e : Nat × Context) => s.contextEvents e.1 e.2).flatten ++
  whenever (s.link.gangs.any fun g => !g.begun) .gangSwitchTime ++
  (s.queues.map fun (e : Nat × QueueSlot) => State.queueEvents e.1 e.2).flatten ++
  [.tokenHop 0, .tokenHop 1, .tokenHop 2, .tokenHop 3]

/-! ### The cycle's end -/

/-- A chip that has failed at a reset step, is in recovery, viral or has tripped has no events of its own (R361, R362, R383). -/
def State.asleep (s : State) : Bool := s.stuck || s.recovery || s.tripped || s.viral

/-- Behind the first pass over the cores: the cycle's signals and drops are tested, and a second pass follows (R296). -/
def State.secondPass (s : State) : State := { s.settleAll with late := true, turn := 0 }

/-- Events at the end of a cycle, in the order in which the model takes them (assumption log 20): what has become true
in a cycle takes effect in it (R21, R264, R273, R319). -/
def State.closingEvents (s : State) : List Instr :=
  (s.liveTasks.map fun (e : Nat × Task) => s.closingTask e.1 e.2).flatten ++
  (s.stages.map fun (e : Nat × Stage) => s.closingStage e.1 e.2).flatten

/-- The tasks that were told in this cycle to abort do so at its end (R267). -/
def State.dueAborts (s : State) : State :=
  s.tasks.foldl (fun (s : State) (e : Nat × Task) => match (s.task? e.1).bind fun (t : Task) => t.abortDue with
    | some (again, hold) => s.abortTask e.1 again hold
    | none => s) s

/-- Behind the last core: entries in the wait tables, aborts, the counts, and the closing events. -/
def State.closeCycle (s : State) : State :=
  let s0 := (s.cores.map fun (e : Nat × Core) => e.1).foldl State.enterWait s
  let s1 := s0.dueAborts.conflictAborts
  let s2 := s1.liveTasks.foldl State.countTask s1
  { s2 with closing := true, pending := if s2.asleep then [] else s2.closingEvents }

/-- What the last moment of a cycle brings on every core: requests for banks that were not refused have been served (R193),
lines of UN pages may leave the first-level cache (R201), and advertisements that are strike-clear leave (R379). -/
def State.lastOfCore (s : State) (c : Nat) : State := ((s.serveBanks c).evictUn c).sendNotes c

/-- The cycle ends: the drops of the tasks that have left their cores in it are tested with its signals (R296), swapped
tasks become resumable, and the copy queues have passed what markers they have (R214). -/
def State.finishCycle (s : State) : State :=
  let s1 := s.settleAll.markResumable
  ((s1.cores.map fun (e : Nat × Core) => e.1).foldl State.lastOfCore s1).passMarkers

/-- The next cycle begins: `frontier` registers, errors that the storage meets, what peers and the outside world do, results
on cores that issue no more, the machine's events. -/
def State.endCycle (s : State) : State :=
  let s1 := { s.finishCycle.refreshFrontier with cycle := s.cycle + 1, turn := 0, late := false, closing := false }
  let s2 := (s1.cores.map fun (e : Nat × Core) => e.1).foldl State.drainCore s1
  let due := s2.inputs.filter fun e => reached e.1 s2.cycle
  let met := (s2.errors.filter fun e => reached e.1 s2.cycle).map (·.2)
  let come := (s2.peers.filter fun e => reached e.1 s2.cycle).map (·.2)
  let s3 := { s2 with inputs := s2.inputs.filter fun e => !reached e.1 s2.cycle, errors := s2.errors.filter fun e => !reached e.1 s2.cycle,
                      peers := s2.peers.filter fun e => !reached e.1 s2.cycle }
  let s4 := if s3.asleep then s3 else come.foldl State.peerWrite (met.foldl State.meetError s3)
  { s4 with pending := due.map (·.2) ++ (if s4.asleep then [] else s4.poll) }

end Sys2Proof.Machine
end

