-- ==== Sys2Proof/Machine/Place.lean ====
section
/-!
DEFINITION. The placement of one slot operation, alone in its bundle, where core 0 issues next: it stands for the
launch of a program and the dispatch of its frontier task (assumption log 21).
-/
namespace Sys2Proof.Machine

/-- The slot that a bare field of some width is read in: that of the decoder that takes it, else the first of its width. -/
def placeSlot (nbits w : Nat) : Slot :=
  match (decodeTableWord nbits w).bind encodeField with
  | some (sl, _) => sl
  | none => match nbits with | 32 => .y | 48 => .t | 64 => .s | _ => .va

/-- The bundle of the field: its bits and its length in words. -/
def placeBundle (nbits w : Nat) : Nat × Nat :=
  let sl := placeSlot nbits w
  let field := w % 2 ^ sl.width
  let hdr := match decodeTableWord nbits w with
    | some i => soloHeader i sl
    | none => 2 ^ sl.num
  (hdr + field * 2 ^ 16, (16 + sl.width + 31) / 32)

/-- A program that holds only this bundle, at code address 0. -/
def placeProgram (nbits w : Nat) : Program :=
  let b := placeBundle nbits w
  { codelen := 1, code := (List.range b.2).map fun i => (i, BitVec.ofNat 32 (b.1 / 2 ^ (32 * i))), starts := [0],
    pool := Config.poolMax, xs := Config.xsBytes, budgets := [(0, 2 ^ 40), (1, 2 ^ 40), (2, 2 ^ 40), (3, 2 ^ 40)] }

/-- Core 0 with the frontier task `tid` of stage 0 at the first bundle of a program: registers stand as they are. -/
def State.placeCore (s : State) (tid : Nat) : State :=
  let s1 := s.modCore 0 fun k =>
    { k with task := some tid, rank := 0, retired := false, seq := { stream := k.seq.stream },
             rcv := { seg := k.rcv.seg + 1, segStart := s.cycle, ends := k.rcv.ends },
             regs := { k.regs with donemask := 0 }, eng := {} }
  s1.modCore 0 fun k => k.modRcv fun r => { r with rps := [s1.checkpoint 0 r.seg] }

def State.place1 (s : State) (nbits w : Nat) : State :=
  let tid := s.nextId
  let t : Task := { stage := 0, pasid := 1, kind := .f, tag := 0, key := {}, budget := 2 ^ 40, full := 2 ^ 40, state := .running }
  let s1 : State := { s with
    pending := [], turn := 0, late := false, closing := false, stuck := false, tripped := false, viral := false, recovery := false,
    nextId := tid + 1, tasks := [(tid, t)],
    stages := [(0, { valid := true, clusters := [0], pasid := 1, prog := some (placeProgram nbits w), frontier := some tid,
                     frontReg := 0 })],
    contexts := Table.put s.contexts 1
      { xssize := Config.xsBytes, phcount := 512, dccount := 1024, phbase := 0, dcbase := 0, xsbase := 0 } }
  (s1.modClu 0 fun c => { c with inService := true, hasToken := true }).placeCore tid

end Sys2Proof.Machine
end

