-- ==== Sys2Proof/Machine/Step.lean ====
section
/-!
DEFINITION. One step of the machine: the next event of the cycle, else the turn of the next core, else the end of a pass,
the closing of the cycle or the start of the next; and the placement of one instruction where the next step runs it.
-/
namespace Sys2Proof.Machine

/-- One step (assumption log 20). A package that has tripped or failed at a reset step takes only what the outside
world does to it; without any, it stands still, which is a fault (R361, R362). -/
def step (s : State) : Host.Outcome State Fault Refusal :=
  match s.pending with
  | i :: rest => exec i { s with pending := rest }
  | [] =>
    if s.stuck && s.inputs.isEmpty then .fault .resetStuck
    else if s.tripped && s.inputs.isEmpty then .fault .tripped
    else if s.closing then .next s.endCycle
    else match s.nextCore with
      | some c => .next (s.takeTurn c)
      | none => .next (if s.late then s.closeCycle else s.secondPass)

/-- The state with one slot operation where core 0 issues next, so that the next step runs it (assumption log 21). -/
def State.withFetchWord (s : State) (nbits w : Nat) : State := s.place1 nbits w

end Sys2Proof.Machine
end

