-- ==== Sys2Proof/Laws/Encoding.lean ====
section
/-!
SUPPORT. The fields of an encoding: what each operand's code is bounded by, and that its decoder reads it back.
-/
namespace Sys2Proof

theorem bit_false : bit false = 0 := rfl
theorem zero_toNat : (0 : BitVec 4).toNat = 0 := rfl
theorem encLevel_sp : encLevel .sp = 0 := rfl
theorem encLevel_cp : encLevel .cp = 1 := rfl
theorem encLevel_gl : encLevel .gl = 3 := rfl
theorem bit_lt (b : Bool) : bit b < 2 := by cases b <;> decide

theorem fld_of_bits {w lo n : Nat} {x : BitVec n} (h : bits w lo n = x.toNat) : fld w lo n = x := by
  apply BitVec.eq_of_toNat_eq
  simpa [fld, bits] using h

theorem bitAt_of_bits {w i : Nat} {b : Bool} (h : bits w i 1 = bit b) : bitAt w i = b := by
  simp only [bits, pow_one] at h
  rw [bitAt, h]; cases b <;> rfl

theorem encGuard_lt (g : Guard) : encGuard g < 32 := by
  have := g.idx.isLt; have := bit_lt g.neg; unfold encGuard; omega

theorem decGuard_of_bits {w lo : Nat} {g : Guard} (h : bits w lo 5 = encGuard g) : decGuard w lo = g := by
  obtain ⟨n, x⟩ := g
  have hx := x.isLt
  simp only [bits, encGuard] at h
  have h1 : w / 2 ^ lo % 2 ^ 5 / 2 ^ 4 = bit n := by have := bit_lt n; omega
  have e : w / 2 ^ (lo + 4) = w / 2 ^ lo / 2 ^ 4 := by rw [Nat.pow_add, Nat.div_div_eq_div_mul]
  have a : bitAt w (lo + 4) = n := bitAt_of_bits (by simp only [bits, e]; omega)
  have b : fld w lo 4 = x := fld_of_bits (by simp only [bits]; have := bit_lt n; omega)
  simp [decGuard, a, b]

theorem encLatch_lt (k : Latch) : encLatch k < 3 := by cases k <;> decide
theorem encSSrc_lt (a : SSrc) : encSSrc a < 128 := by
  cases a with
  | reg r => have := r.isLt; simp only [encSSrc]; omega
  | latch k => have := encLatch_lt k; simp only [encSSrc]; omega
theorem encSDst_lt (d : SDst) : encSDst d < 128 := by
  cases d with
  | reg r => have := r.isLt; simp only [encSDst]; omega
  | transient => decide
theorem encVSrc_lt (a : VSrc) : encVSrc a < 2048 := by
  cases a with
  | reg r => have := r.isLt; simp only [encVSrc]; omega
  | latch k => have := encLatch_lt k; simp only [encVSrc]; omega
theorem encVDst_lt (d : VDst) : encVDst d < 2048 := by
  cases d with
  | reg r => have := r.isLt; simp only [encVDst]; omega
  | transient => decide

@[simp] theorem decSSrc_enc (a : SSrc) : decSSrc (encSSrc a) = some a := by
  cases a with
  | reg r => have := r.isLt; simp [decSSrc, encSSrc, this]
  | latch k => cases k <;> rfl
@[simp] theorem decSDst_enc (d : SDst) : decSDst (encSDst d) = some d := by
  cases d with
  | reg r => have := r.isLt; simp [decSDst, encSDst, this]
  | transient => rfl
@[simp] theorem decVSrc_enc (a : VSrc) : decVSrc (encVSrc a) = some a := by
  cases a with
  | reg r => have := r.isLt; simp [decVSrc, encVSrc, this]
  | latch k => cases k <;> rfl
@[simp] theorem decVDst_enc (d : VDst) : decVDst (encVDst d) = some d := by
  cases d with
  | reg r => have := r.isLt; simp [decVDst, encVDst, this]
  | transient => rfl
@[simp] theorem decSReg_toNat (r : BitVec 6) : decSReg r.toNat = some r := by
  have := r.isLt; simp [decSReg, this]
@[simp] theorem decVReg_toNat (r : BitVec 10) : decVReg r.toNat = some r := by
  have := r.isLt; simp [decVReg, this]

theorem encLevel_lt (l : Level) : encLevel l < 4 := by cases l <;> decide
@[simp] theorem decLevel_enc (l : Level) : decLevel (encLevel l) = l := by cases l <;> rfl
theorem encGroup_lt (g : Group) : encGroup g < 2 := by cases g <;> decide
theorem decGroup_of_bits {w i : Nat} {g : Group} (h : bits w i 1 = encGroup g) : decGroup (bitAt w i) = g := by
  have h' : bitAt w i = decide (g = .b) := bitAt_of_bits (by rw [h]; cases g <;> rfl)
  rw [h']; cases g <;> rfl
theorem encLSize_lt (x : LSize) : encLSize x < 8 := by cases x <;> decide
@[simp] theorem decLSize_enc (x : LSize) : decLSize (encLSize x) = some x := by cases x <;> rfl
theorem encTSize_lt (x : TSize) : encTSize x < 4 := by cases x <;> decide
@[simp] theorem decTSize_enc (x : TSize) : decTSize (encTSize x) = some x := by cases x <;> rfl
theorem encEltSize_lt (x : EltSize) : encEltSize x < 4 := by cases x <;> decide
@[simp] theorem decEltSize_enc (x : EltSize) : decEltSize (encEltSize x) = some x := by cases x <;> rfl
theorem encOp1_lt (x : Op1) : encOp1 x < 64 := by cases x <;> decide
@[simp] theorem decOp1_enc (x : Op1) : decOp1 (encOp1 x) = some x := by cases x <;> rfl
theorem encOp2_lt (x : Op2) : encOp2 x < 64 := by cases x <;> decide
@[simp] theorem decOp2_enc (x : Op2) : decOp2 (encOp2 x) = some x := by cases x <;> rfl
theorem encOp3_lt (x : Op3) : encOp3 x < 64 := by cases x <;> decide
@[simp] theorem decOp3_enc (x : Op3) : decOp3 (encOp3 x) = some x := by cases x <;> rfl
theorem encVType_lt (x : VType) : encVType x < 8 := by cases x <;> decide
@[simp] theorem decVType_enc (x : VType) : decVType (encVType x) = some x := by cases x <;> rfl
theorem encMFmt_lt (x : MFmt) : encMFmt x < 16 := by cases x <;> decide
@[simp] theorem decMFmt_enc (x : MFmt) : decMFmt (encMFmt x) = some x := by cases x <;> rfl
theorem encFile_lt (f : VSlot) : encFile f < 4 := by cases f <;> decide
@[simp] theorem decFile_enc (f : VSlot) : decFile (encFile f) = some f := by cases f <;> rfl
theorem encTinvSize_lt (x : TinvSize) : encTinvSize x < 4 := by cases x <;> decide
@[simp] theorem decTinvSize_enc (x : TinvSize) : decTinvSize (encTinvSize x) = x := by cases x <;> rfl
theorem encStashMode_lt (x : StashMode) : encStashMode x < 4 := by cases x <;> decide
@[simp] theorem decStashMode_enc (x : StashMode) : decStashMode (encStashMode x) = some x := by cases x <;> rfl
theorem encPhMode_lt (x : PhMode) : encPhMode x < 4 := by cases x <;> decide
@[simp] theorem decPhMode_enc (x : PhMode) : decPhMode (encPhMode x) = some x := by cases x <;> rfl

theorem encXDst_lt (d : XDst) : (encXDst d).1 < 8 ∧ (encXDst d).2 < 2048 := by
  cases d <;> simp only [encXDst] <;> refine ⟨by omega, ?_⟩ <;> rename_i r <;> have := r.isLt <;> omega
@[simp] theorem decXDst_enc (d : XDst) : decXDst (encXDst d).1 (encXDst d).2 = some d := by
  cases d <;> rename_i r <;> have := r.isLt <;> simp [decXDst, encXDst, this]
theorem encXSrc_lt (a : XSrc) : (encXSrc a).1 < 8 ∧ (encXSrc a).2 < 2048 := by
  cases a <;> rename_i r <;> simp only [encXSrc] <;> refine ⟨by omega, ?_⟩
  · have := encSSrc_lt r; omega
  · exact encVSrc_lt r
  · exact encVSrc_lt r
  all_goals have := r.isLt; omega
@[simp] theorem decXSrc_enc (a : XSrc) : decXSrc (encXSrc a).1 (encXSrc a).2 = some a := by
  cases a <;> rename_i r
  · simp [decXSrc, encXSrc]
  · simp [decXSrc, encXSrc]
  · simp [decXSrc, encXSrc]
  all_goals have := r.isLt; simp [decXSrc, encXSrc, this]

@[simp] theorem keepIf_true (x : Option Instr) : keepIf true x = x := rfl
theorem wfOnly_some {i : Instr} (h : i.wf = true) : wfOnly (some i) = some i := by simp [wfOnly, h]

end Sys2Proof
end

