-- ==== Sys2Proof/Laws/PerInstr.lean ====
section
/-!
SUPPORT. The family RoundTrip: the field that the encoder writes for a well-formed slot operation fits its slot and
decodes to that operation. Events are no encodings, and the statement is empty for them.
-/
namespace Sys2Proof
-- One proof after another: many at once hold a thread each, and their stacks exceed the memory that a check allows.
set_option Elab.async false

/-- Decoding a field that the encoder wrote gives the operation back. -/
def Laws.RoundTrip.Statement (i : Instr) : Prop :=
  i.wf = true → match encodeField i with
    | some (sl, w) => w < 2 ^ sl.width ∧ decodeField sl w = some i
    | none => True

theorem statement_of {i : Instr} {sl : Slot} {w0 : Nat} (he : encodeField i = some (sl, w0))
    (h : ∀ w, w = w0 → i.wf = true → w < 2 ^ sl.width ∧ decodeField sl w = some i) : Laws.RoundTrip.Statement i := by
  intro hwf
  rw [he]
  exact h w0 rfl hwf

theorem statement_none {i : Instr} (he : encodeField i = none) : Laws.RoundTrip.Statement i := by
  intro _
  rw [he]
  trivial

/-! ### Shapes of the S slot -/

theorem decRR_enc (op : Nat) (hop : op < 256) (g : Guard) (d : SDst) (a b : SSrc) (k : Guard → SDst → SSrc → SSrc → Instr) (w : Nat)
    (hw : w = encRR op g d a b) : w < 2 ^ 64 ∧ bits w 56 8 = op ∧ decRR w k = some (k g d a b) := by
  have b0 := encGuard_lt g
  have b1 := encSDst_lt d
  have b2 := encSSrc_lt a
  have b3 := encSSrc_lt b
  simp only [encRR, encS] at hw
  have h0 : bits w 56 8 = op := by simp only [bits]; omega
  have h1 : bits w 51 5 = encGuard g := by simp only [bits]; omega
  have h2 : bits w 44 7 = encSDst d := by simp only [bits]; omega
  have h3 : bits w 37 7 = encSSrc a := by simp only [bits]; omega
  have h4 : bits w 30 7 = encSSrc b := by simp only [bits]; omega
  have h5 : bits w 0 30 = 0 := by simp only [bits]; omega
  exact ⟨by omega, h0, by simp [decRR, decGuard_of_bits h1, h2, h3, h4, h5]⟩

theorem decRI_enc (op : Nat) (hop : op < 256) (g : Guard) (d : SDst) (a : SSrc) (imm : Word32) (k : Guard → SDst → SSrc → Word32 → Instr) (w : Nat)
    (hw : w = encRI op g d a imm) : w < 2 ^ 64 ∧ bits w 56 8 = op ∧ decRI w k = some (k g d a imm) := by
  have b0 := encGuard_lt g
  have b1 := encSDst_lt d
  have b2 := encSSrc_lt a
  have b3 := imm.isLt
  simp only [encRI, encS] at hw
  have h0 : bits w 56 8 = op := by simp only [bits]; omega
  have h1 : bits w 51 5 = encGuard g := by simp only [bits]; omega
  have h2 : bits w 44 7 = encSDst d := by simp only [bits]; omega
  have h3 : bits w 37 7 = encSSrc a := by simp only [bits]; omega
  have h4 : bits w 32 5 = 0 := by simp only [bits]; omega
  have h5 : bits w 0 32 = imm.toNat := by simp only [bits]; omega
  exact ⟨by omega, h0, by simp [decRI, decGuard_of_bits h1, h2, h3, h4, fld_of_bits h5]⟩

theorem decUn_enc (op : Nat) (hop : op < 256) (g : Guard) (d : SDst) (a : SSrc) (k : Guard → SDst → SSrc → Instr) (w : Nat)
    (hw : w = encUn op g d a) : w < 2 ^ 64 ∧ bits w 56 8 = op ∧ decUn w k = some (k g d a) := by
  have b0 := encGuard_lt g
  have b1 := encSDst_lt d
  have b2 := encSSrc_lt a
  simp only [encUn, encS] at hw
  have h0 : bits w 56 8 = op := by simp only [bits]; omega
  have h1 : bits w 51 5 = encGuard g := by simp only [bits]; omega
  have h2 : bits w 44 7 = encSDst d := by simp only [bits]; omega
  have h3 : bits w 37 7 = encSSrc a := by simp only [bits]; omega
  have h4 : bits w 0 37 = 0 := by simp only [bits]; omega
  exact ⟨by omega, h0, by simp [decUn, decGuard_of_bits h1, h2, h3, h4]⟩

theorem decCmp_enc (op : Nat) (hop : op < 256) (g : Guard) (pd : BitVec 4) (a b : SSrc) (k : Guard → BitVec 4 → SSrc → SSrc → Instr) (w : Nat)
    (hw : w = encCmp op g pd a b) : w < 2 ^ 64 ∧ bits w 56 8 = op ∧ decCmp w k = some (k g pd a b) := by
  have b0 := encGuard_lt g
  have b1 := pd.isLt
  have b2 := encSSrc_lt a
  have b3 := encSSrc_lt b
  simp only [encCmp, encS] at hw
  have h0 : bits w 56 8 = op := by simp only [bits]; omega
  have h1 : bits w 51 5 = encGuard g := by simp only [bits]; omega
  have h2 : bits w 47 4 = pd.toNat := by simp only [bits]; omega
  have h3 : bits w 44 3 = 0 := by simp only [bits]; omega
  have h4 : bits w 37 7 = encSSrc a := by simp only [bits]; omega
  have h5 : bits w 30 7 = encSSrc b := by simp only [bits]; omega
  have h6 : bits w 0 30 = 0 := by simp only [bits]; omega
  exact ⟨by omega, h0, by simp [decCmp, decGuard_of_bits h1, fld_of_bits h2, h3, h4, h5, h6]⟩

theorem decPL_enc (op : Nat) (hop : op < 256) (g : Guard) (pd pa pb : BitVec 4) (k : Guard → BitVec 4 → BitVec 4 → BitVec 4 → Instr) (w : Nat)
    (hw : w = encPL op g pd pa pb) : w < 2 ^ 64 ∧ bits w 56 8 = op ∧ decPL w k = some (k g pd pa pb) := by
  have b0 := encGuard_lt g
  have b1 := pd.isLt
  have b2 := pa.isLt
  have b3 := pb.isLt
  simp only [encPL, encS] at hw
  have h0 : bits w 56 8 = op := by simp only [bits]; omega
  have h1 : bits w 51 5 = encGuard g := by simp only [bits]; omega
  have h2 : bits w 47 4 = pd.toNat := by simp only [bits]; omega
  have h3 : bits w 43 4 = pa.toNat := by simp only [bits]; omega
  have h4 : bits w 39 4 = pb.toNat := by simp only [bits]; omega
  have h5 : bits w 0 39 = 0 := by simp only [bits]; omega
  exact ⟨by omega, h0, by simp [decPL, decGuard_of_bits h1, fld_of_bits h2, fld_of_bits h3, fld_of_bits h4, h5]⟩

theorem decA_enc (op : Nat) (hop : op < 256) (g : Guard) (a : SSrc) (k : Guard → SSrc → Instr) (w : Nat)
    (hw : w = encA op g a) : w < 2 ^ 64 ∧ bits w 56 8 = op ∧ decA w k = some (k g a) := by
  have b0 := encGuard_lt g
  have b1 := encSSrc_lt a
  simp only [encA, encS] at hw
  have h0 : bits w 56 8 = op := by simp only [bits]; omega
  have h1 : bits w 51 5 = encGuard g := by simp only [bits]; omega
  have h2 : bits w 44 7 = 0 := by simp only [bits]; omega
  have h3 : bits w 37 7 = encSSrc a := by simp only [bits]; omega
  have h4 : bits w 0 37 = 0 := by simp only [bits]; omega
  exact ⟨by omega, h0, by simp [decA, decGuard_of_bits h1, h2, h3, h4]⟩

theorem decTgt_enc (op : Nat) (hop : op < 256) (g : Guard) (t : CodeAddr) (k : Guard → CodeAddr → Instr) (w : Nat)
    (hw : w = encTgt op g t) : w < 2 ^ 64 ∧ bits w 56 8 = op ∧ decTgt w k = some (k g t) := by
  have b0 := encGuard_lt g
  have b1 := t.isLt
  simp only [encTgt, encS] at hw
  have h0 : bits w 56 8 = op := by simp only [bits]; omega
  have h1 : bits w 51 5 = encGuard g := by simp only [bits]; omega
  have h2 : bits w 22 29 = 0 := by simp only [bits]; omega
  have h3 : bits w 0 22 = t.toNat := by simp only [bits]; omega
  exact ⟨by omega, h0, by simp [decTgt, decGuard_of_bits h1, h2, fld_of_bits h3]⟩

/-! ### Slot operations -/

theorem Laws.RoundTrip.add (g : Guard) (d : SDst) (a b : SSrc) : Laws.RoundTrip.Statement (.add g d a b) := by
  refine statement_of rfl fun w hw _ => ?_
  obtain ⟨h1, h2, h3⟩ := decRR_enc 0x01 (by decide) g d a b .add w hw
  exact ⟨h1, by simp [decodeField, decodeS, h2, h3]⟩

theorem Laws.RoundTrip.sub (g : Guard) (d : SDst) (a b : SSrc) : Laws.RoundTrip.Statement (.sub g d a b) := by
  refine statement_of rfl fun w hw _ => ?_
  obtain ⟨h1, h2, h3⟩ := decRR_enc 0x02 (by decide) g d a b .sub w hw
  exact ⟨h1, by simp [decodeField, decodeS, h2, h3]⟩

theorem Laws.RoundTrip.and (g : Guard) (d : SDst) (a b : SSrc) : Laws.RoundTrip.Statement (.and g d a b) := by
  refine statement_of rfl fun w hw _ => ?_
  obtain ⟨h1, h2, h3⟩ := decRR_enc 0x03 (by decide) g d a b .and w hw
  exact ⟨h1, by simp [decodeField, decodeS, h2, h3]⟩

theorem Laws.RoundTrip.or (g : Guard) (d : SDst) (a b : SSrc) : Laws.RoundTrip.Statement (.or g d a b) := by
  refine statement_of rfl fun w hw _ => ?_
  obtain ⟨h1, h2, h3⟩ := decRR_enc 0x04 (by decide) g d a b .or w hw
  exact ⟨h1, by simp [decodeField, decodeS, h2, h3]⟩

theorem Laws.RoundTrip.xor (g : Guard) (d : SDst) (a b : SSrc) : Laws.RoundTrip.Statement (.xor g d a b) := by
  refine statement_of rfl fun w hw _ => ?_
  obtain ⟨h1, h2, h3⟩ := decRR_enc 0x05 (by decide) g d a b .xor w hw
  exact ⟨h1, by simp [decodeField, decodeS, h2, h3]⟩

theorem Laws.RoundTrip.shl (g : Guard) (d : SDst) (a b : SSrc) : Laws.RoundTrip.Statement (.shl g d a b) := by
  refine statement_of rfl fun w hw _ => ?_
  obtain ⟨h1, h2, h3⟩ := decRR_enc 0x06 (by decide) g d a b .shl w hw
  exact ⟨h1, by simp [decodeField, decodeS, h2, h3]⟩

theorem Laws.RoundTrip.shr (g : Guard) (d : SDst) (a b : SSrc) : Laws.RoundTrip.Statement (.shr g d a b) := by
  refine statement_of rfl fun w hw _ => ?_
  obtain ⟨h1, h2, h3⟩ := decRR_enc 0x07 (by decide) g d a b .shr w hw
  exact ⟨h1, by simp [decodeField, decodeS, h2, h3]⟩

theorem Laws.RoundTrip.sar (g : Guard) (d : SDst) (a b : SSrc) : Laws.RoundTrip.Statement (.sar g d a b) := by
  refine statement_of rfl fun w hw _ => ?_
  obtain ⟨h1, h2, h3⟩ := decRR_enc 0x08 (by decide) g d a b .sar w hw
  exact ⟨h1, by simp [decodeField, decodeS, h2, h3]⟩

theorem Laws.RoundTrip.rot (g : Guard) (d : SDst) (a b : SSrc) : Laws.RoundTrip.Statement (.rot g d a b) := by
  refine statement_of rfl fun w hw _ => ?_
  obtain ⟨h1, h2, h3⟩ := decRR_enc 0x09 (by decide) g d a b .rot w hw
  exact ⟨h1, by simp [decodeField, decodeS, h2, h3]⟩

theorem Laws.RoundTrip.min (g : Guard) (d : SDst) (a b : SSrc) : Laws.RoundTrip.Statement (.min g d a b) := by
  refine statement_of rfl fun w hw _ => ?_
  obtain ⟨h1, h2, h3⟩ := decRR_enc 0x0a (by decide) g d a b .min w hw
  exact ⟨h1, by simp [decodeField, decodeS, h2, h3]⟩

theorem Laws.RoundTrip.max (g : Guard) (d : SDst) (a b : SSrc) : Laws.RoundTrip.Statement (.max g d a b) := by
  refine statement_of rfl fun w hw _ => ?_
  obtain ⟨h1, h2, h3⟩ := decRR_enc 0x0b (by decide) g d a b .max w hw
  exact ⟨h1, by simp [decodeField, decodeS, h2, h3]⟩

theorem Laws.RoundTrip.minu (g : Guard) (d : SDst) (a b : SSrc) : Laws.RoundTrip.Statement (.minu g d a b) := by
  refine statement_of rfl fun w hw _ => ?_
  obtain ⟨h1, h2, h3⟩ := decRR_enc 0x0c (by decide) g d a b .minu w hw
  exact ⟨h1, by simp [decodeField, decodeS, h2, h3]⟩

theorem Laws.RoundTrip.maxu (g : Guard) (d : SDst) (a b : SSrc) : Laws.RoundTrip.Statement (.maxu g d a b) := by
  refine statement_of rfl fun w hw _ => ?_
  obtain ⟨h1, h2, h3⟩ := decRR_enc 0x0d (by decide) g d a b .maxu w hw
  exact ⟨h1, by simp [decodeField, decodeS, h2, h3]⟩

theorem Laws.RoundTrip.addi (g : Guard) (d : SDst) (a : SSrc) (imm : Word32) : Laws.RoundTrip.Statement (.addi g d a imm) := by
  refine statement_of rfl fun w hw _ => ?_
  obtain ⟨h1, h2, h3⟩ := decRI_enc 0x10 (by decide) g d a imm .addi w hw
  exact ⟨h1, by simp [decodeField, decodeS, h2, h3]⟩

theorem Laws.RoundTrip.andi (g : Guard) (d : SDst) (a : SSrc) (imm : Word32) : Laws.RoundTrip.Statement (.andi g d a imm) := by
  refine statement_of rfl fun w hw _ => ?_
  obtain ⟨h1, h2, h3⟩ := decRI_enc 0x13 (by decide) g d a imm .andi w hw
  exact ⟨h1, by simp [decodeField, decodeS, h2, h3]⟩

theorem Laws.RoundTrip.ori (g : Guard) (d : SDst) (a : SSrc) (imm : Word32) : Laws.RoundTrip.Statement (.ori g d a imm) := by
  refine statement_of rfl fun w hw _ => ?_
  obtain ⟨h1, h2, h3⟩ := decRI_enc 0x14 (by decide) g d a imm .ori w hw
  exact ⟨h1, by simp [decodeField, decodeS, h2, h3]⟩

theorem Laws.RoundTrip.xori (g : Guard) (d : SDst) (a : SSrc) (imm : Word32) : Laws.RoundTrip.Statement (.xori g d a imm) := by
  refine statement_of rfl fun w hw _ => ?_
  obtain ⟨h1, h2, h3⟩ := decRI_enc 0x15 (by decide) g d a imm .xori w hw
  exact ⟨h1, by simp [decodeField, decodeS, h2, h3]⟩

theorem Laws.RoundTrip.shli (g : Guard) (d : SDst) (a : SSrc) (imm : Word32) : Laws.RoundTrip.Statement (.shli g d a imm) := by
  refine statement_of rfl fun w hw _ => ?_
  obtain ⟨h1, h2, h3⟩ := decRI_enc 0x16 (by decide) g d a imm .shli w hw
  exact ⟨h1, by simp [decodeField, decodeS, h2, h3]⟩

theorem Laws.RoundTrip.shri (g : Guard) (d : SDst) (a : SSrc) (imm : Word32) : Laws.RoundTrip.Statement (.shri g d a imm) := by
  refine statement_of rfl fun w hw _ => ?_
  obtain ⟨h1, h2, h3⟩ := decRI_enc 0x17 (by decide) g d a imm .shri w hw
  exact ⟨h1, by simp [decodeField, decodeS, h2, h3]⟩

theorem Laws.RoundTrip.sari (g : Guard) (d : SDst) (a : SSrc) (imm : Word32) : Laws.RoundTrip.Statement (.sari g d a imm) := by
  refine statement_of rfl fun w hw _ => ?_
  obtain ⟨h1, h2, h3⟩ := decRI_enc 0x18 (by decide) g d a imm .sari w hw
  exact ⟨h1, by simp [decodeField, decodeS, h2, h3]⟩

theorem Laws.RoundTrip.roti (g : Guard) (d : SDst) (a : SSrc) (imm : Word32) : Laws.RoundTrip.Statement (.roti g d a imm) := by
  refine statement_of rfl fun w hw _ => ?_
  obtain ⟨h1, h2, h3⟩ := decRI_enc 0x19 (by decide) g d a imm .roti w hw
  exact ⟨h1, by simp [decodeField, decodeS, h2, h3]⟩

theorem Laws.RoundTrip.mul (g : Guard) (d : SDst) (a b : SSrc) : Laws.RoundTrip.Statement (.mul g d a b) := by
  refine statement_of rfl fun w hw _ => ?_
  obtain ⟨h1, h2, h3⟩ := decRR_enc 0x20 (by decide) g d a b .mul w hw
  exact ⟨h1, by simp [decodeField, decodeS, h2, h3]⟩

theorem Laws.RoundTrip.mulh (g : Guard) (d : SDst) (a b : SSrc) : Laws.RoundTrip.Statement (.mulh g d a b) := by
  refine statement_of rfl fun w hw _ => ?_
  obtain ⟨h1, h2, h3⟩ := decRR_enc 0x21 (by decide) g d a b .mulh w hw
  exact ⟨h1, by simp [decodeField, decodeS, h2, h3]⟩

theorem Laws.RoundTrip.mulhu (g : Guard) (d : SDst) (a b : SSrc) : Laws.RoundTrip.Statement (.mulhu g d a b) := by
  refine statement_of rfl fun w hw _ => ?_
  obtain ⟨h1, h2, h3⟩ := decRR_enc 0x22 (by decide) g d a b .mulhu w hw
  exact ⟨h1, by simp [decodeField, decodeS, h2, h3]⟩

theorem Laws.RoundTrip.div (g : Guard) (d : SDst) (a b : SSrc) : Laws.RoundTrip.Statement (.div g d a b) := by
  refine statement_of rfl fun w hw _ => ?_
  obtain ⟨h1, h2, h3⟩ := decRR_enc 0x24 (by decide) g d a b .div w hw
  exact ⟨h1, by simp [decodeField, decodeS, h2, h3]⟩

theorem Laws.RoundTrip.divu (g : Guard) (d : SDst) (a b : SSrc) : Laws.RoundTrip.Statement (.divu g d a b) := by
  refine statement_of rfl fun w hw _ => ?_
  obtain ⟨h1, h2, h3⟩ := decRR_enc 0x25 (by decide) g d a b .divu w hw
  exact ⟨h1, by simp [decodeField, decodeS, h2, h3]⟩

theorem Laws.RoundTrip.rem (g : Guard) (d : SDst) (a b : SSrc) : Laws.RoundTrip.Statement (.rem g d a b) := by
  refine statement_of rfl fun w hw _ => ?_
  obtain ⟨h1, h2, h3⟩ := decRR_enc 0x26 (by decide) g d a b .rem w hw
  exact ⟨h1, by simp [decodeField, decodeS, h2, h3]⟩

theorem Laws.RoundTrip.remu (g : Guard) (d : SDst) (a b : SSrc) : Laws.RoundTrip.Statement (.remu g d a b) := by
  refine statement_of rfl fun w hw _ => ?_
  obtain ⟨h1, h2, h3⟩ := decRR_enc 0x27 (by decide) g d a b .remu w hw
  exact ⟨h1, by simp [decodeField, decodeS, h2, h3]⟩

theorem Laws.RoundTrip.clz (g : Guard) (d : SDst) (a : SSrc) : Laws.RoundTrip.Statement (.clz g d a) := by
  refine statement_of rfl fun w hw _ => ?_
  obtain ⟨h1, h2, h3⟩ := decUn_enc 0x28 (by decide) g d a .clz w hw
  exact ⟨h1, by simp [decodeField, decodeS, h2, h3]⟩

theorem Laws.RoundTrip.ctz (g : Guard) (d : SDst) (a : SSrc) : Laws.RoundTrip.Statement (.ctz g d a) := by
  refine statement_of rfl fun w hw _ => ?_
  obtain ⟨h1, h2, h3⟩ := decUn_enc 0x29 (by decide) g d a .ctz w hw
  exact ⟨h1, by simp [decodeField, decodeS, h2, h3]⟩

theorem Laws.RoundTrip.popc (g : Guard) (d : SDst) (a : SSrc) : Laws.RoundTrip.Statement (.popc g d a) := by
  refine statement_of rfl fun w hw _ => ?_
  obtain ⟨h1, h2, h3⟩ := decUn_enc 0x2a (by decide) g d a .popc w hw
  exact ⟨h1, by simp [decodeField, decodeS, h2, h3]⟩

theorem Laws.RoundTrip.bswap (g : Guard) (d : SDst) (a : SSrc) : Laws.RoundTrip.Statement (.bswap g d a) := by
  refine statement_of rfl fun w hw _ => ?_
  obtain ⟨h1, h2, h3⟩ := decUn_enc 0x2b (by decide) g d a .bswap w hw
  exact ⟨h1, by simp [decodeField, decodeS, h2, h3]⟩

theorem Laws.RoundTrip.li (g : Guard) (d : SDst) (imm : BitVec 44) : Laws.RoundTrip.Statement (.li g d imm) := by
  refine statement_of rfl fun w hw hwf => ?_
  have b0 := encGuard_lt g
  have b1 := encSDst_lt d
  have b2 := imm.isLt
  simp only [encS] at hw
  have h0 : bits w 56 8 = 48 := by simp only [bits]; omega
  have h1 : bits w 51 5 = encGuard g := by simp only [bits]; omega
  have h2 : bits w 44 7 = encSDst d := by simp only [bits]; omega
  have h3 : bits w 0 44 = imm.toNat := by simp only [bits]; omega
  exact ⟨by simp only [Slot.width]; omega, by simp [decodeField, decodeS, h0, decGuard_of_bits h1, h2, fld_of_bits h3]⟩

theorem Laws.RoundTrip.lih (g : Guard) (d : SDst) (a : SSrc) (imm : BitVec 20) : Laws.RoundTrip.Statement (.lih g d a imm) := by
  refine statement_of rfl fun w hw hwf => ?_
  have b0 := encGuard_lt g
  have b1 := encSDst_lt d
  have b2 := encSSrc_lt a
  have b3 := imm.isLt
  simp only [encS] at hw
  have h0 : bits w 56 8 = 49 := by simp only [bits]; omega
  have h1 : bits w 51 5 = encGuard g := by simp only [bits]; omega
  have h2 : bits w 44 7 = encSDst d := by simp only [bits]; omega
  have h3 : bits w 37 7 = encSSrc a := by simp only [bits]; omega
  have h4 : bits w 20 17 = 0 := by simp only [bits]; omega
  have h5 : bits w 0 20 = imm.toNat := by simp only [bits]; omega
  exact ⟨by simp only [Slot.width]; omega, by simp [decodeField, decodeS, h0, decGuard_of_bits h1, h2, h3, h4, fld_of_bits h5]⟩

theorem Laws.RoundTrip.sel (g : Guard) (d : SDst) (a b : SSrc) (pp : BitVec 4) : Laws.RoundTrip.Statement (.sel g d a b pp) := by
  refine statement_of rfl fun w hw hwf => ?_
  have b0 := encGuard_lt g
  have b1 := encSDst_lt d
  have b2 := encSSrc_lt a
  have b3 := encSSrc_lt b
  have b4 := pp.isLt
  simp only [encS, encRR] at hw
  have h0 : bits w 56 8 = 50 := by simp only [bits]; omega
  have h1 : bits w 51 5 = encGuard g := by simp only [bits]; omega
  have h2 : bits w 44 7 = encSDst d := by simp only [bits]; omega
  have h3 : bits w 37 7 = encSSrc a := by simp only [bits]; omega
  have h4 : bits w 30 7 = encSSrc b := by simp only [bits]; omega
  have h5 : bits w 26 4 = pp.toNat := by simp only [bits]; omega
  have h6 : bits w 0 26 = 0 := by simp only [bits]; omega
  exact ⟨by simp only [Slot.width]; omega, by simp [decodeField, decodeS, h0, decGuard_of_bits h1, h2, h3, h4, fld_of_bits h5, h6]⟩

theorem Laws.RoundTrip.ceq (g : Guard) (pd : BitVec 4) (a b : SSrc) : Laws.RoundTrip.Statement (.ceq g pd a b) := by
  refine statement_of rfl fun w hw _ => ?_
  obtain ⟨h1, h2, h3⟩ := decCmp_enc 0x38 (by decide) g pd a b .ceq w hw
  exact ⟨h1, by simp [decodeField, decodeS, h2, h3]⟩

theorem Laws.RoundTrip.cne (g : Guard) (pd : BitVec 4) (a b : SSrc) : Laws.RoundTrip.Statement (.cne g pd a b) := by
  refine statement_of rfl fun w hw _ => ?_
  obtain ⟨h1, h2, h3⟩ := decCmp_enc 0x39 (by decide) g pd a b .cne w hw
  exact ⟨h1, by simp [decodeField, decodeS, h2, h3]⟩

theorem Laws.RoundTrip.clt (g : Guard) (pd : BitVec 4) (a b : SSrc) : Laws.RoundTrip.Statement (.clt g pd a b) := by
  refine statement_of rfl fun w hw _ => ?_
  obtain ⟨h1, h2, h3⟩ := decCmp_enc 0x3a (by decide) g pd a b .clt w hw
  exact ⟨h1, by simp [decodeField, decodeS, h2, h3]⟩

theorem Laws.RoundTrip.cltu (g : Guard) (pd : BitVec 4) (a b : SSrc) : Laws.RoundTrip.Statement (.cltu g pd a b) := by
  refine statement_of rfl fun w hw _ => ?_
  obtain ⟨h1, h2, h3⟩ := decCmp_enc 0x3b (by decide) g pd a b .cltu w hw
  exact ⟨h1, by simp [decodeField, decodeS, h2, h3]⟩

theorem Laws.RoundTrip.cle (g : Guard) (pd : BitVec 4) (a b : SSrc) : Laws.RoundTrip.Statement (.cle g pd a b) := by
  refine statement_of rfl fun w hw _ => ?_
  obtain ⟨h1, h2, h3⟩ := decCmp_enc 0x3c (by decide) g pd a b .cle w hw
  exact ⟨h1, by simp [decodeField, decodeS, h2, h3]⟩

theorem Laws.RoundTrip.cleu (g : Guard) (pd : BitVec 4) (a b : SSrc) : Laws.RoundTrip.Statement (.cleu g pd a b) := by
  refine statement_of rfl fun w hw _ => ?_
  obtain ⟨h1, h2, h3⟩ := decCmp_enc 0x3d (by decide) g pd a b .cleu w hw
  exact ⟨h1, by simp [decodeField, decodeS, h2, h3]⟩

theorem Laws.RoundTrip.pand (g : Guard) (pd pa pb : BitVec 4) : Laws.RoundTrip.Statement (.pand g pd pa pb) := by
  refine statement_of rfl fun w hw _ => ?_
  obtain ⟨h1, h2, h3⟩ := decPL_enc 0x40 (by decide) g pd pa pb .pand w hw
  exact ⟨h1, by simp [decodeField, decodeS, h2, h3]⟩

theorem Laws.RoundTrip.por (g : Guard) (pd pa pb : BitVec 4) : Laws.RoundTrip.Statement (.por g pd pa pb) := by
  refine statement_of rfl fun w hw _ => ?_
  obtain ⟨h1, h2, h3⟩ := decPL_enc 0x41 (by decide) g pd pa pb .por w hw
  exact ⟨h1, by simp [decodeField, decodeS, h2, h3]⟩

theorem Laws.RoundTrip.pxor (g : Guard) (pd pa pb : BitVec 4) : Laws.RoundTrip.Statement (.pxor g pd pa pb) := by
  refine statement_of rfl fun w hw _ => ?_
  obtain ⟨h1, h2, h3⟩ := decPL_enc 0x42 (by decide) g pd pa pb .pxor w hw
  exact ⟨h1, by simp [decodeField, decodeS, h2, h3]⟩

theorem Laws.RoundTrip.pnot (g : Guard) (pd pa : BitVec 4) : Laws.RoundTrip.Statement (.pnot g pd pa) := by
  refine statement_of rfl fun w hw hwf => ?_
  have b0 := encGuard_lt g
  have b1 := pd.isLt
  have b2 := pa.isLt
  simp only [encS, encPL, zero_toNat] at hw
  have h0 : bits w 56 8 = 67 := by simp only [bits]; omega
  have h1 : bits w 51 5 = encGuard g := by simp only [bits]; omega
  have h2 : bits w 47 4 = pd.toNat := by simp only [bits]; omega
  have h3 : bits w 43 4 = pa.toNat := by simp only [bits]; omega
  have h4 : bits w 0 43 = 0 := by simp only [bits]; omega
  exact ⟨by simp only [Slot.width]; omega, by simp [decodeField, decodeS, h0, decGuard_of_bits h1, fld_of_bits h2, fld_of_bits h3, h4]⟩

theorem Laws.RoundTrip.b (g : Guard) (t : CodeAddr) : Laws.RoundTrip.Statement (.b g t) := by
  refine statement_of rfl fun w hw _ => ?_
  obtain ⟨h1, h2, h3⟩ := decTgt_enc 0x48 (by decide) g t .b w hw
  exact ⟨h1, by simp [decodeField, decodeS, h2, h3]⟩

theorem Laws.RoundTrip.bp (g : Guard) (t : CodeAddr) : Laws.RoundTrip.Statement (.bp g t) := by
  refine statement_of rfl fun w hw _ => ?_
  obtain ⟨h1, h2, h3⟩ := decTgt_enc 0x49 (by decide) g t .bp w hw
  exact ⟨h1, by simp [decodeField, decodeS, h2, h3]⟩

theorem Laws.RoundTrip.call (g : Guard) (d : SDst) (target : CodeAddr) : Laws.RoundTrip.Statement (.call g d target) := by
  refine statement_of rfl fun w hw hwf => ?_
  have b0 := encGuard_lt g
  have b1 := encSDst_lt d
  have b2 := target.isLt
  simp only [encS] at hw
  have h0 : bits w 56 8 = 74 := by simp only [bits]; omega
  have h1 : bits w 51 5 = encGuard g := by simp only [bits]; omega
  have h2 : bits w 44 7 = encSDst d := by simp only [bits]; omega
  have h3 : bits w 22 22 = 0 := by simp only [bits]; omega
  have h4 : bits w 0 22 = target.toNat := by simp only [bits]; omega
  exact ⟨by simp only [Slot.width]; omega, by simp [decodeField, decodeS, h0, decGuard_of_bits h1, h2, h3, fld_of_bits h4]⟩

theorem Laws.RoundTrip.ret (g : Guard) (a : SSrc) : Laws.RoundTrip.Statement (.ret g a) := by
  refine statement_of rfl fun w hw _ => ?_
  obtain ⟨h1, h2, h3⟩ := decA_enc 0x4b (by decide) g a .ret w hw
  exact ⟨h1, by simp [decodeField, decodeS, h2, h3]⟩

theorem Laws.RoundTrip.jr (g : Guard) (a : SSrc) : Laws.RoundTrip.Statement (.jr g a) := by
  refine statement_of rfl fun w hw _ => ?_
  obtain ⟨h1, h2, h3⟩ := decA_enc 0x4c (by decide) g a .jr w hw
  exact ⟨h1, by simp [decodeField, decodeS, h2, h3]⟩

theorem Laws.RoundTrip.loop (g : Guard) (c : SSrc) (last imm : CodeAddr) : Laws.RoundTrip.Statement (.loop g c last imm) := by
  refine statement_of rfl fun w hw hwf => ?_
  have b0 := encGuard_lt g
  have b1 := encSSrc_lt c
  have b2 := last.isLt
  have b3 := imm.isLt
  simp only [encS] at hw
  have h0 : bits w 56 8 = 77 := by simp only [bits]; omega
  have h1 : bits w 51 5 = encGuard g := by simp only [bits]; omega
  have h2 : bits w 44 7 = encSSrc c := by simp only [bits]; omega
  have h3 : bits w 22 22 = last.toNat := by simp only [bits]; omega
  have h4 : bits w 0 22 = imm.toNat := by simp only [bits]; omega
  exact ⟨by simp only [Slot.width]; omega, by simp [decodeField, decodeS, h0, decGuard_of_bits h1, h2, fld_of_bits h3, fld_of_bits h4]⟩

theorem Laws.RoundTrip.lbrk (g : Guard) (t : CodeAddr) : Laws.RoundTrip.Statement (.lbrk g t) := by
  refine statement_of rfl fun w hw _ => ?_
  obtain ⟨h1, h2, h3⟩ := decTgt_enc 0x4e (by decide) g t .lbrk w hw
  exact ⟨h1, by simp [decodeField, decodeS, h2, h3]⟩

theorem Laws.RoundTrip.sysr (g : Guard) (d : SDst) (num : BitVec 12) : Laws.RoundTrip.Statement (.sysr g d num) := by
  refine statement_of rfl fun w hw hwf => ?_
  have b0 := encGuard_lt g
  have b1 := encSDst_lt d
  have b2 := num.isLt
  simp only [encS] at hw
  have h0 : bits w 56 8 = 80 := by simp only [bits]; omega
  have h1 : bits w 51 5 = encGuard g := by simp only [bits]; omega
  have h2 : bits w 44 7 = encSDst d := by simp only [bits]; omega
  have h3 : bits w 37 7 = 0 := by simp only [bits]; omega
  have h4 : bits w 25 12 = num.toNat := by simp only [bits]; omega
  have h5 : bits w 0 25 = 0 := by simp only [bits]; omega
  exact ⟨by simp only [Slot.width]; omega, by simp [decodeField, decodeS, h0, decGuard_of_bits h1, h2, h3, fld_of_bits h4, h5]⟩

theorem Laws.RoundTrip.sysw (g : Guard) (a : SSrc) (num : BitVec 12) : Laws.RoundTrip.Statement (.sysw g a num) := by
  refine statement_of rfl fun w hw hwf => ?_
  have b0 := encGuard_lt g
  have b1 := encSSrc_lt a
  have b2 := num.isLt
  simp only [encS] at hw
  have h0 : bits w 56 8 = 81 := by simp only [bits]; omega
  have h1 : bits w 51 5 = encGuard g := by simp only [bits]; omega
  have h2 : bits w 44 7 = 0 := by simp only [bits]; omega
  have h3 : bits w 37 7 = encSSrc a := by simp only [bits]; omega
  have h4 : bits w 25 12 = num.toNat := by simp only [bits]; omega
  have h5 : bits w 0 25 = 0 := by simp only [bits]; omega
  exact ⟨by simp only [Slot.width]; omega, by simp [decodeField, decodeS, h0, decGuard_of_bits h1, h2, h3, fld_of_bits h4, h5]⟩

theorem Laws.RoundTrip.trap (g : Guard) (code : Word16) : Laws.RoundTrip.Statement (.trap g code) := by
  refine statement_of rfl fun w hw hwf => ?_
  have b0 := encGuard_lt g
  have b1 := code.isLt
  simp only [encS] at hw
  have h0 : bits w 56 8 = 82 := by simp only [bits]; omega
  have h1 : bits w 51 5 = encGuard g := by simp only [bits]; omega
  have h2 : bits w 16 35 = 0 := by simp only [bits]; omega
  have h3 : bits w 0 16 = code.toNat := by simp only [bits]; omega
  exact ⟨by simp only [Slot.width]; omega, by simp [decodeField, decodeS, h0, decGuard_of_bits h1, h2, fld_of_bits h3]⟩

theorem Laws.RoundTrip.evpop (g : Guard) (d : SDst) : Laws.RoundTrip.Statement (.evpop g d) := by
  refine statement_of rfl fun w hw hwf => ?_
  have b0 := encGuard_lt g
  have b1 := encSDst_lt d
  simp only [encS] at hw
  have h0 : bits w 56 8 = 83 := by simp only [bits]; omega
  have h1 : bits w 51 5 = encGuard g := by simp only [bits]; omega
  have h2 : bits w 44 7 = encSDst d := by simp only [bits]; omega
  have h3 : bits w 0 44 = 0 := by simp only [bits]; omega
  exact ⟨by simp only [Slot.width]; omega, by simp [decodeField, decodeS, h0, decGuard_of_bits h1, h2, h3]⟩

theorem Laws.RoundTrip.halt (g : Guard) : Laws.RoundTrip.Statement (.halt g) := by
  refine statement_of rfl fun w hw hwf => ?_
  have b0 := encGuard_lt g
  simp only [encS] at hw
  have h0 : bits w 56 8 = 84 := by simp only [bits]; omega
  have h1 : bits w 51 5 = encGuard g := by simp only [bits]; omega
  have h2 : bits w 0 51 = 0 := by simp only [bits]; omega
  exact ⟨by simp only [Slot.width]; omega, by simp [decodeField, decodeS, h0, decGuard_of_bits h1, h2]⟩

theorem Laws.RoundTrip.ipf (g : Guard) (a : SSrc) : Laws.RoundTrip.Statement (.ipf g a) := by
  refine statement_of rfl fun w hw _ => ?_
  obtain ⟨h1, h2, h3⟩ := decA_enc 0x58 (by decide) g a .ipf w hw
  exact ⟨h1, by simp [decodeField, decodeS, h2, h3]⟩

theorem Laws.RoundTrip.ipin (g : Guard) (a : SSrc) : Laws.RoundTrip.Statement (.ipin g a) := by
  refine statement_of rfl fun w hw _ => ?_
  obtain ⟨h1, h2, h3⟩ := decA_enc 0x59 (by decide) g a .ipin w hw
  exact ⟨h1, by simp [decodeField, decodeS, h2, h3]⟩

theorem Laws.RoundTrip.iunpin (g : Guard) (a : SSrc) : Laws.RoundTrip.Statement (.iunpin g a) := by
  refine statement_of rfl fun w hw _ => ?_
  obtain ⟨h1, h2, h3⟩ := decA_enc 0x5a (by decide) g a .iunpin w hw
  exact ⟨h1, by simp [decodeField, decodeS, h2, h3]⟩

theorem Laws.RoundTrip.mpush (g : Guard) (fmt : MFmt) (aidx bidx : BitVec 14) (pair : BitVec 5) : Laws.RoundTrip.Statement (.mpush g fmt aidx bidx pair) := by
  refine statement_of rfl fun w hw hwf => ?_
  have b0 := encGuard_lt g
  have b1 := encMFmt_lt fmt
  have b2 := aidx.isLt
  have b3 := bidx.isLt
  have b4 := pair.isLt
  simp only [encM, encPush, bit_false] at hw
  have h0 : bits w 44 4 = 1 := by simp only [bits]; omega
  have h1 : bits w 39 5 = encGuard g := by simp only [bits]; omega
  have h2 : bits w 35 4 = encMFmt fmt := by simp only [bits]; omega
  have h3 : bits w 21 14 = aidx.toNat := by simp only [bits]; omega
  have h4 : bits w 7 14 = bidx.toNat := by simp only [bits]; omega
  have h5 : bits w 2 5 = pair.toNat := by simp only [bits]; omega
  have h6 : bits w 0 2 = 0 := by simp only [bits]; omega
  exact ⟨by simp only [Slot.width]; omega, by simp [decodeField, decodeM, h0, decGuard_of_bits h1, h2, fld_of_bits h3, fld_of_bits h4, fld_of_bits h5, h6, wfOnly_some hwf, decPush]⟩

theorem Laws.RoundTrip.mpusht (g : Guard) (fmt : MFmt) (aidx bidx : BitVec 14) (pair : BitVec 5) : Laws.RoundTrip.Statement (.mpusht g fmt aidx bidx pair) := by
  refine statement_of rfl fun w hw hwf => ?_
  have b0 := encGuard_lt g
  have b1 := encMFmt_lt fmt
  have b2 := aidx.isLt
  have b3 := bidx.isLt
  have b4 := pair.isLt
  simp only [encM, encPush, bit_false] at hw
  have h0 : bits w 44 4 = 2 := by simp only [bits]; omega
  have h1 : bits w 39 5 = encGuard g := by simp only [bits]; omega
  have h2 : bits w 35 4 = encMFmt fmt := by simp only [bits]; omega
  have h3 : bits w 21 14 = aidx.toNat := by simp only [bits]; omega
  have h4 : bits w 7 14 = bidx.toNat := by simp only [bits]; omega
  have h5 : bits w 2 5 = pair.toNat := by simp only [bits]; omega
  have h6 : bits w 0 2 = 0 := by simp only [bits]; omega
  exact ⟨by simp only [Slot.width]; omega, by simp [decodeField, decodeM, h0, decGuard_of_bits h1, h2, fld_of_bits h3, fld_of_bits h4, fld_of_bits h5, h6, wfOnly_some hwf, decPush]⟩

theorem Laws.RoundTrip.mburst (g : Guard) (fmt : MFmt) (aidx bidx : BitVec 14) (pair : BitVec 5) (tr : Bool) : Laws.RoundTrip.Statement (.mburst g fmt aidx bidx pair tr) := by
  refine statement_of rfl fun w hw hwf => ?_
  have b0 := encGuard_lt g
  have b1 := encMFmt_lt fmt
  have b2 := aidx.isLt
  have b3 := bidx.isLt
  have b4 := pair.isLt
  have b5 := bit_lt tr
  simp only [encM, encPush] at hw
  have h0 : bits w 44 4 = 9 := by simp only [bits]; omega
  have h1 : bits w 39 5 = encGuard g := by simp only [bits]; omega
  have h2 : bits w 35 4 = encMFmt fmt := by simp only [bits]; omega
  have h3 : bits w 21 14 = aidx.toNat := by simp only [bits]; omega
  have h4 : bits w 7 14 = bidx.toNat := by simp only [bits]; omega
  have h5 : bits w 2 5 = pair.toNat := by simp only [bits]; omega
  have h6 : bits w 1 1 = bit tr := by simp only [bits]; omega
  have h7 : bits w 0 1 = 0 := by simp only [bits]; omega
  exact ⟨by simp only [Slot.width]; omega, by simp [decodeField, decodeM, h0, decGuard_of_bits h1, h2, fld_of_bits h3, fld_of_bits h4, fld_of_bits h5, bitAt_of_bits h6, h7, wfOnly_some hwf, decPush]⟩

theorem Laws.RoundTrip.mshift (g : Guard) : Laws.RoundTrip.Statement (.mshift g) := by
  refine statement_of rfl fun w hw hwf => ?_
  have b0 := encGuard_lt g
  simp only [encM] at hw
  have h0 : bits w 44 4 = 3 := by simp only [bits]; omega
  have h1 : bits w 39 5 = encGuard g := by simp only [bits]; omega
  have h2 : bits w 0 39 = 0 := by simp only [bits]; omega
  exact ⟨by simp only [Slot.width]; omega, by simp [decodeField, decodeM, h0, decGuard_of_bits h1, h2]⟩

theorem Laws.RoundTrip.mhold (g : Guard) : Laws.RoundTrip.Statement (.mhold g) := by
  refine statement_of rfl fun w hw hwf => ?_
  have b0 := encGuard_lt g
  simp only [encM] at hw
  have h0 : bits w 44 4 = 4 := by simp only [bits]; omega
  have h1 : bits w 39 5 = encGuard g := by simp only [bits]; omega
  have h2 : bits w 0 39 = 0 := by simp only [bits]; omega
  exact ⟨by simp only [Slot.width]; omega, by simp [decodeField, decodeM, h0, decGuard_of_bits h1, h2]⟩

theorem Laws.RoundTrip.mclr (g : Guard) (p0 p1 : Bool) : Laws.RoundTrip.Statement (.mclr g p0 p1) := by
  refine statement_of rfl fun w hw hwf => ?_
  have b0 := encGuard_lt g
  have b1 := bit_lt p1
  have b2 := bit_lt p0
  simp only [encM] at hw
  have h0 : bits w 44 4 = 6 := by simp only [bits]; omega
  have h1 : bits w 39 5 = encGuard g := by simp only [bits]; omega
  have h2 : bits w 38 1 = bit p1 := by simp only [bits]; omega
  have h3 : bits w 37 1 = bit p0 := by simp only [bits]; omega
  have h4 : bits w 0 37 = 0 := by simp only [bits]; omega
  exact ⟨by simp only [Slot.width]; omega, by simp [decodeField, decodeM, h0, decGuard_of_bits h1, bitAt_of_bits h2, bitAt_of_bits h3, h4, wfOnly_some hwf]⟩

theorem Laws.RoundTrip.mswap (g : Guard) : Laws.RoundTrip.Statement (.mswap g) := by
  refine statement_of rfl fun w hw hwf => ?_
  have b0 := encGuard_lt g
  simp only [encM] at hw
  have h0 : bits w 44 4 = 7 := by simp only [bits]; omega
  have h1 : bits w 39 5 = encGuard g := by simp only [bits]; omega
  have h2 : bits w 0 39 = 0 := by simp only [bits]; omega
  exact ⟨by simp only [Slot.width]; omega, by simp [decodeField, decodeM, h0, decGuard_of_bits h1, h2]⟩

theorem Laws.RoundTrip.mend (g : Guard) : Laws.RoundTrip.Statement (.mend g) := by
  refine statement_of rfl fun w hw hwf => ?_
  have b0 := encGuard_lt g
  simp only [encM] at hw
  have h0 : bits w 44 4 = 10 := by simp only [bits]; omega
  have h1 : bits w 39 5 = encGuard g := by simp only [bits]; omega
  have h2 : bits w 0 39 = 0 := by simp only [bits]; omega
  exact ⟨by simp only [Slot.width]; omega, by simp [decodeField, decodeM, h0, decGuard_of_bits h1, h2]⟩

theorem Laws.RoundTrip.kld (g : Guard) (e : BitVec 6) (grp : Group) (idx : BitVec 14) : Laws.RoundTrip.Statement (.kld g e grp idx) := by
  refine statement_of rfl fun w hw hwf => ?_
  have b0 := encGuard_lt g
  have b1 := e.isLt
  have b2 := encGroup_lt grp
  have b3 := idx.isLt
  simp only [encK] at hw
  have h0 : bits w 29 3 = 1 := by simp only [bits]; omega
  have h1 : bits w 24 5 = encGuard g := by simp only [bits]; omega
  have h2 : bits w 18 6 = e.toNat := by simp only [bits]; omega
  have h3 : bits w 17 1 = encGroup grp := by simp only [bits]; omega
  have h4 : bits w 3 14 = idx.toNat := by simp only [bits]; omega
  have h5 : bits w 0 3 = 0 := by simp only [bits]; omega
  exact ⟨by simp only [Slot.width]; omega, by simp [decodeField, decodeK, h0, decGuard_of_bits h1, fld_of_bits h2, decGroup_of_bits h3, fld_of_bits h4, h5]⟩

theorem Laws.RoundTrip.kldp (g : Guard) (e : BitVec 6) (grp : Group) (idx : BitVec 16) : Laws.RoundTrip.Statement (.kldp g e grp idx) := by
  refine statement_of rfl fun w hw hwf => ?_
  have b0 := encGuard_lt g
  have b1 := e.isLt
  have b2 := encGroup_lt grp
  have b3 := idx.isLt
  simp only [encK] at hw
  have h0 : bits w 29 3 = 2 := by simp only [bits]; omega
  have h1 : bits w 24 5 = encGuard g := by simp only [bits]; omega
  have h2 : bits w 18 6 = e.toNat := by simp only [bits]; omega
  have h3 : bits w 17 1 = encGroup grp := by simp only [bits]; omega
  have h4 : bits w 1 16 = idx.toNat := by simp only [bits]; omega
  have h5 : bits w 0 1 = 0 := by simp only [bits]; omega
  exact ⟨by simp only [Slot.width]; omega, by simp [decodeField, decodeK, h0, decGuard_of_bits h1, fld_of_bits h2, decGroup_of_bits h3, fld_of_bits h4, h5]⟩

theorem Laws.RoundTrip.kmov (g : Guard) (d r : BitVec 6) : Laws.RoundTrip.Statement (.kmov g d r) := by
  refine statement_of rfl fun w hw hwf => ?_
  have b0 := encGuard_lt g
  have b1 := d.isLt
  have b2 := r.isLt
  simp only [encK] at hw
  have h0 : bits w 29 3 = 3 := by simp only [bits]; omega
  have h1 : bits w 24 5 = encGuard g := by simp only [bits]; omega
  have h2 : bits w 18 6 = d.toNat := by simp only [bits]; omega
  have h3 : bits w 12 6 = r.toNat := by simp only [bits]; omega
  have h4 : bits w 0 12 = 0 := by simp only [bits]; omega
  exact ⟨by simp only [Slot.width]; omega, by simp [decodeField, decodeK, h0, decGuard_of_bits h1, fld_of_bits h2, fld_of_bits h3, h4]⟩

theorem Laws.RoundTrip.kset (g : Guard) (e : BitVec 6) (c : Byte) : Laws.RoundTrip.Statement (.kset g e c) := by
  refine statement_of rfl fun w hw hwf => ?_
  have b0 := encGuard_lt g
  have b1 := e.isLt
  have b2 := c.isLt
  simp only [encK] at hw
  have h0 : bits w 29 3 = 4 := by simp only [bits]; omega
  have h1 : bits w 24 5 = encGuard g := by simp only [bits]; omega
  have h2 : bits w 18 6 = e.toNat := by simp only [bits]; omega
  have h3 : bits w 10 8 = c.toNat := by simp only [bits]; omega
  have h4 : bits w 0 10 = 0 := by simp only [bits]; omega
  exact ⟨by simp only [Slot.width]; omega, by simp [decodeField, decodeK, h0, decGuard_of_bits h1, fld_of_bits h2, fld_of_bits h3, h4]⟩

theorem Laws.RoundTrip.ldv (g : Guard) (f : VSlot) (dst : BitVec 10) (base : BitVec 5) (lvl : Level) (disp : BitVec 24) : Laws.RoundTrip.Statement (.ldv g f dst base lvl disp) := by
  refine statement_of rfl fun w hw hwf => ?_
  have b0 := encGuard_lt g
  have b1 := encFile_lt f
  have b2 := dst.isLt
  have b3 := base.isLt
  have b4 := encLevel_lt lvl
  have b5 := disp.isLt
  simp only [encL] at hw
  have h0 : bits w 59 5 = 1 := by simp only [bits]; omega
  have h1 : bits w 54 5 = encGuard g := by simp only [bits]; omega
  have h2 : bits w 52 2 = encFile f := by simp only [bits]; omega
  have h3 : bits w 41 11 = dst.toNat := by simp only [bits]; omega
  have h4 : bits w 36 5 = base.toNat := by simp only [bits]; omega
  have h5 : bits w 34 2 = encLevel lvl := by simp only [bits]; omega
  have h6 : bits w 10 24 = disp.toNat := by simp only [bits]; omega
  have h7 : bits w 0 10 = 0 := by simp only [bits]; omega
  exact ⟨by simp only [Slot.width]; omega, by simp [decodeField, decodeL, decLV, h0, decGuard_of_bits h1, h2, h3, fld_of_bits h4, h5, fld_of_bits h6, h7, wfOnly_some hwf]⟩

theorem Laws.RoundTrip.ldvt (g : Guard) (f : VSlot) (dst : BitVec 10) (base : BitVec 5) (lvl : Level) (stride : BitVec 5) (es : EltSize) (disp : BitVec 17) : Laws.RoundTrip.Statement (.ldvt g f dst base lvl stride es disp) := by
  refine statement_of rfl fun w hw hwf => ?_
  have b0 := encGuard_lt g
  have b1 := encFile_lt f
  have b2 := dst.isLt
  have b3 := base.isLt
  have b4 := encLevel_lt lvl
  have b5 := stride.isLt
  have b6 := encEltSize_lt es
  have b7 := disp.isLt
  simp only [encL] at hw
  have h0 : bits w 59 5 = 2 := by simp only [bits]; omega
  have h1 : bits w 54 5 = encGuard g := by simp only [bits]; omega
  have h2 : bits w 52 2 = encFile f := by simp only [bits]; omega
  have h3 : bits w 41 11 = dst.toNat := by simp only [bits]; omega
  have h4 : bits w 36 5 = base.toNat := by simp only [bits]; omega
  have h5 : bits w 34 2 = encLevel lvl := by simp only [bits]; omega
  have h6 : bits w 29 5 = stride.toNat := by simp only [bits]; omega
  have h7 : bits w 27 2 = encEltSize es := by simp only [bits]; omega
  have h8 : bits w 10 17 = disp.toNat := by simp only [bits]; omega
  have h9 : bits w 0 10 = 0 := by simp only [bits]; omega
  exact ⟨by simp only [Slot.width]; omega, by simp [decodeField, decodeL, decLV, h0, decGuard_of_bits h1, h2, h3, fld_of_bits h4, h5, fld_of_bits h6, h7, fld_of_bits h8, h9, wfOnly_some hwf]⟩

theorem Laws.RoundTrip.ldvp (g : Guard) (f : VSlot) (dst : BitVec 10) (base : BitVec 5) (lvl : Level) (disp : BitVec 24) : Laws.RoundTrip.Statement (.ldvp g f dst base lvl disp) := by
  refine statement_of rfl fun w hw hwf => ?_
  have b0 := encGuard_lt g
  have b1 := encFile_lt f
  have b2 := dst.isLt
  have b3 := base.isLt
  have b4 := encLevel_lt lvl
  have b5 := disp.isLt
  simp only [encL] at hw
  have h0 : bits w 59 5 = 3 := by simp only [bits]; omega
  have h1 : bits w 54 5 = encGuard g := by simp only [bits]; omega
  have h2 : bits w 52 2 = encFile f := by simp only [bits]; omega
  have h3 : bits w 41 11 = dst.toNat := by simp only [bits]; omega
  have h4 : bits w 36 5 = base.toNat := by simp only [bits]; omega
  have h5 : bits w 34 2 = encLevel lvl := by simp only [bits]; omega
  have h6 : bits w 10 24 = disp.toNat := by simp only [bits]; omega
  have h7 : bits w 0 10 = 0 := by simp only [bits]; omega
  exact ⟨by simp only [Slot.width]; omega, by simp [decodeField, decodeL, decLV, h0, decGuard_of_bits h1, h2, h3, fld_of_bits h4, h5, fld_of_bits h6, h7, wfOnly_some hwf]⟩

theorem Laws.RoundTrip.ldvx (g : Guard) (f : VSlot) (dst : BitVec 10) (base : BitVec 5) (lvl : Level) (idx : VSrc) (disp : BitVec 11) : Laws.RoundTrip.Statement (.ldvx g f dst base lvl idx disp) := by
  refine statement_of rfl fun w hw hwf => ?_
  have b0 := encGuard_lt g
  have b1 := encFile_lt f
  have b2 := dst.isLt
  have b3 := base.isLt
  have b4 := encLevel_lt lvl
  have b5 := encVSrc_lt idx
  have b6 := disp.isLt
  simp only [encL] at hw
  have h0 : bits w 59 5 = 4 := by simp only [bits]; omega
  have h1 : bits w 54 5 = encGuard g := by simp only [bits]; omega
  have h2 : bits w 52 2 = encFile f := by simp only [bits]; omega
  have h3 : bits w 41 11 = dst.toNat := by simp only [bits]; omega
  have h4 : bits w 36 5 = base.toNat := by simp only [bits]; omega
  have h5 : bits w 34 2 = encLevel lvl := by simp only [bits]; omega
  have h6 : bits w 23 11 = encVSrc idx := by simp only [bits]; omega
  have h7 : bits w 12 11 = disp.toNat := by simp only [bits]; omega
  have h8 : bits w 0 12 = 0 := by simp only [bits]; omega
  exact ⟨by simp only [Slot.width]; omega, by simp [decodeField, decodeL, decLV, h0, decGuard_of_bits h1, h2, h3, fld_of_bits h4, h5, h6, fld_of_bits h7, h8, wfOnly_some hwf]⟩

theorem Laws.RoundTrip.ldvg (g : Guard) (f : VSlot) (dst : BitVec 10) (base : BitVec 5) (idx : VSrc) (disp : BitVec 11) : Laws.RoundTrip.Statement (.ldvg g f dst base idx disp) := by
  refine statement_of rfl fun w hw hwf => ?_
  have b0 := encGuard_lt g
  have b1 := encFile_lt f
  have b2 := dst.isLt
  have b3 := base.isLt
  have b4 := encVSrc_lt idx
  have b5 := disp.isLt
  simp only [encL, encLevel_gl] at hw
  have h0 : bits w 59 5 = 5 := by simp only [bits]; omega
  have h1 : bits w 54 5 = encGuard g := by simp only [bits]; omega
  have h2 : bits w 52 2 = encFile f := by simp only [bits]; omega
  have h3 : bits w 41 11 = dst.toNat := by simp only [bits]; omega
  have h4 : bits w 36 5 = base.toNat := by simp only [bits]; omega
  have h5 : bits w 34 2 = 3 := by simp only [bits]; omega
  have h6 : bits w 23 11 = encVSrc idx := by simp only [bits]; omega
  have h7 : bits w 12 11 = disp.toNat := by simp only [bits]; omega
  have h8 : bits w 0 12 = 0 := by simp only [bits]; omega
  exact ⟨by simp only [Slot.width]; omega, by simp [decodeField, decodeL, decLV, h0, decGuard_of_bits h1, h2, h3, fld_of_bits h4, h5, h6, fld_of_bits h7, h8, decLevel]⟩

theorem Laws.RoundTrip.lds (g : Guard) (dst : BitVec 6) (base : BitVec 5) (lvl : Level) (sz : LSize) (disp : BitVec 31) : Laws.RoundTrip.Statement (.lds g dst base lvl sz disp) := by
  refine statement_of rfl fun w hw hwf => ?_
  have b0 := encGuard_lt g
  have b1 := dst.isLt
  have b2 := base.isLt
  have b3 := encLevel_lt lvl
  have b4 := encLSize_lt sz
  have b5 := disp.isLt
  simp only [encL] at hw
  have h0 : bits w 59 5 = 6 := by simp only [bits]; omega
  have h1 : bits w 54 5 = encGuard g := by simp only [bits]; omega
  have h2 : bits w 52 2 = 0 := by simp only [bits]; omega
  have h3 : bits w 41 11 = dst.toNat := by simp only [bits]; omega
  have h4 : bits w 36 5 = base.toNat := by simp only [bits]; omega
  have h5 : bits w 34 2 = encLevel lvl := by simp only [bits]; omega
  have h6 : bits w 31 3 = encLSize sz := by simp only [bits]; omega
  have h7 : bits w 0 31 = disp.toNat := by simp only [bits]; omega
  exact ⟨by simp only [Slot.width]; omega, by simp [decodeField, decodeL, decLS, h0, decGuard_of_bits h1, h2, h3, fld_of_bits h4, h5, h6, fld_of_bits h7]⟩

theorem Laws.RoundTrip.ldl (g : Guard) (f : VSlot) (dst : BitVec 10) (base : BitVec 5) (disp : BitVec 13) : Laws.RoundTrip.Statement (.ldl g f dst base disp) := by
  refine statement_of rfl fun w hw hwf => ?_
  have b0 := encGuard_lt g
  have b1 := encFile_lt f
  have b2 := dst.isLt
  have b3 := base.isLt
  have b4 := disp.isLt
  simp only [encL, encLevel_sp] at hw
  have h0 : bits w 59 5 = 7 := by simp only [bits]; omega
  have h1 : bits w 54 5 = encGuard g := by simp only [bits]; omega
  have h2 : bits w 52 2 = encFile f := by simp only [bits]; omega
  have h3 : bits w 41 11 = dst.toNat := by simp only [bits]; omega
  have h4 : bits w 36 5 = base.toNat := by simp only [bits]; omega
  have h5 : bits w 34 2 = 0 := by simp only [bits]; omega
  have h6 : bits w 21 13 = disp.toNat := by simp only [bits]; omega
  have h7 : bits w 0 21 = 0 := by simp only [bits]; omega
  exact ⟨by simp only [Slot.width]; omega, by simp [decodeField, decodeL, decLV, h0, decGuard_of_bits h1, h2, h3, fld_of_bits h4, h5, fld_of_bits h6, h7, decLevel]⟩

theorem Laws.RoundTrip.ldgv (g : Guard) (f : VSlot) (dst : BitVec 10) (base : BitVec 5) (disp : BitVec 24) : Laws.RoundTrip.Statement (.ldgv g f dst base disp) := by
  refine statement_of rfl fun w hw hwf => ?_
  have b0 := encGuard_lt g
  have b1 := encFile_lt f
  have b2 := dst.isLt
  have b3 := base.isLt
  have b4 := disp.isLt
  simp only [encL, encLevel_gl] at hw
  have h0 : bits w 59 5 = 8 := by simp only [bits]; omega
  have h1 : bits w 54 5 = encGuard g := by simp only [bits]; omega
  have h2 : bits w 52 2 = encFile f := by simp only [bits]; omega
  have h3 : bits w 41 11 = dst.toNat := by simp only [bits]; omega
  have h4 : bits w 36 5 = base.toNat := by simp only [bits]; omega
  have h5 : bits w 34 2 = 3 := by simp only [bits]; omega
  have h6 : bits w 10 24 = disp.toNat := by simp only [bits]; omega
  have h7 : bits w 0 10 = 0 := by simp only [bits]; omega
  exact ⟨by simp only [Slot.width]; omega, by simp [decodeField, decodeL, decLV, h0, decGuard_of_bits h1, h2, h3, fld_of_bits h4, h5, fld_of_bits h6, h7, decLevel]⟩

theorem Laws.RoundTrip.ldacq (g : Guard) (dst : BitVec 6) (base : BitVec 5) (lvl : Level) (sz : LSize) (disp : BitVec 31) : Laws.RoundTrip.Statement (.ldacq g dst base lvl sz disp) := by
  refine statement_of rfl fun w hw hwf => ?_
  have b0 := encGuard_lt g
  have b1 := dst.isLt
  have b2 := base.isLt
  have b3 := encLevel_lt lvl
  have b4 := encLSize_lt sz
  have b5 := disp.isLt
  simp only [encL] at hw
  have h0 : bits w 59 5 = 9 := by simp only [bits]; omega
  have h1 : bits w 54 5 = encGuard g := by simp only [bits]; omega
  have h2 : bits w 52 2 = 0 := by simp only [bits]; omega
  have h3 : bits w 41 11 = dst.toNat := by simp only [bits]; omega
  have h4 : bits w 36 5 = base.toNat := by simp only [bits]; omega
  have h5 : bits w 34 2 = encLevel lvl := by simp only [bits]; omega
  have h6 : bits w 31 3 = encLSize sz := by simp only [bits]; omega
  have h7 : bits w 0 31 = disp.toNat := by simp only [bits]; omega
  exact ⟨by simp only [Slot.width]; omega, by simp [decodeField, decodeL, decLS, h0, decGuard_of_bits h1, h2, h3, fld_of_bits h4, h5, h6, fld_of_bits h7, wfOnly_some hwf]⟩

theorem Laws.RoundTrip.pfg (g : Guard) (base : BitVec 5) (disp : BitVec 24) : Laws.RoundTrip.Statement (.pfg g base disp) := by
  refine statement_of rfl fun w hw hwf => ?_
  have b0 := encGuard_lt g
  have b1 := base.isLt
  have b2 := disp.isLt
  simp only [encL, encLevel_gl] at hw
  have h0 : bits w 59 5 = 10 := by simp only [bits]; omega
  have h1 : bits w 54 5 = encGuard g := by simp only [bits]; omega
  have h2 : bits w 41 13 = 0 := by simp only [bits]; omega
  have h3 : bits w 36 5 = base.toNat := by simp only [bits]; omega
  have h4 : bits w 34 2 = 3 := by simp only [bits]; omega
  have h5 : bits w 10 24 = disp.toNat := by simp only [bits]; omega
  have h6 : bits w 0 10 = 0 := by simp only [bits]; omega
  exact ⟨by simp only [Slot.width]; omega, by simp [decodeField, decodeL, h0, decGuard_of_bits h1, h2, fld_of_bits h3, h4, fld_of_bits h5, h6, decLevel]⟩

theorem Laws.RoundTrip.ldmc (g : Guard) (ranks : Byte) (base : BitVec 5) (lvl : Level) (tgt : BitVec 15) (nw : BitVec 9) : Laws.RoundTrip.Statement (.ldmc g ranks base lvl tgt nw) := by
  refine statement_of rfl fun w hw hwf => ?_
  have b0 := encGuard_lt g
  have b1 := ranks.isLt
  have b2 := base.isLt
  have b3 := encLevel_lt lvl
  have b4 := tgt.isLt
  have b5 := nw.isLt
  simp only [encL] at hw
  have h0 : bits w 59 5 = 11 := by simp only [bits]; omega
  have h1 : bits w 54 5 = encGuard g := by simp only [bits]; omega
  have h2 : bits w 52 2 = 0 := by simp only [bits]; omega
  have h3 : bits w 44 8 = ranks.toNat := by simp only [bits]; omega
  have h4 : bits w 41 3 = 0 := by simp only [bits]; omega
  have h5 : bits w 36 5 = base.toNat := by simp only [bits]; omega
  have h6 : bits w 34 2 = encLevel lvl := by simp only [bits]; omega
  have h7 : bits w 19 15 = tgt.toNat := by simp only [bits]; omega
  have h8 : bits w 10 9 = nw.toNat := by simp only [bits]; omega
  have h9 : bits w 0 10 = 0 := by simp only [bits]; omega
  exact ⟨by simp only [Slot.width]; omega, by simp [decodeField, decodeL, h0, decGuard_of_bits h1, h2, fld_of_bits h3, h4, fld_of_bits h5, h6, fld_of_bits h7, fld_of_bits h8, h9, wfOnly_some hwf]⟩

theorem Laws.RoundTrip.stv (g : Guard) (f : VSlot) (src : VSrc) (base : BitVec 5) (lvl : Level) (disp : BitVec 17) : Laws.RoundTrip.Statement (.stv g f src base lvl disp) := by
  refine statement_of rfl fun w hw hwf => ?_
  have b0 := encGuard_lt g
  have b1 := encFile_lt f
  have b2 := encVSrc_lt src
  have b3 := base.isLt
  have b4 := encLevel_lt lvl
  have b5 := disp.isLt
  simp only [encT] at hw
  have h0 : bits w 43 5 = 1 := by simp only [bits]; omega
  have h1 : bits w 38 5 = encGuard g := by simp only [bits]; omega
  have h2 : bits w 35 3 = encFile f := by simp only [bits]; omega
  have h3 : bits w 24 11 = encVSrc src := by simp only [bits]; omega
  have h4 : bits w 19 5 = base.toNat := by simp only [bits]; omega
  have h5 : bits w 17 2 = encLevel lvl := by simp only [bits]; omega
  have h6 : bits w 0 17 = disp.toNat := by simp only [bits]; omega
  exact ⟨by simp only [Slot.width]; omega, by simp [decodeField, decodeT, decTV, h0, decGuard_of_bits h1, h2, h3, fld_of_bits h4, h5, fld_of_bits h6, wfOnly_some hwf]⟩

theorem Laws.RoundTrip.stvp (g : Guard) (f : VSlot) (src : BitVec 10) (base : BitVec 5) (lvl : Level) (disp : BitVec 17) : Laws.RoundTrip.Statement (.stvp g f src base lvl disp) := by
  refine statement_of rfl fun w hw hwf => ?_
  have b0 := encGuard_lt g
  have b1 := encFile_lt f
  have b2 := src.isLt
  have b3 := base.isLt
  have b4 := encLevel_lt lvl
  have b5 := disp.isLt
  simp only [encT] at hw
  have h0 : bits w 43 5 = 2 := by simp only [bits]; omega
  have h1 : bits w 38 5 = encGuard g := by simp only [bits]; omega
  have h2 : bits w 35 3 = encFile f := by simp only [bits]; omega
  have h3 : bits w 24 11 = src.toNat := by simp only [bits]; omega
  have h4 : bits w 19 5 = base.toNat := by simp only [bits]; omega
  have h5 : bits w 17 2 = encLevel lvl := by simp only [bits]; omega
  have h6 : bits w 0 17 = disp.toNat := by simp only [bits]; omega
  exact ⟨by simp only [Slot.width]; omega, by simp [decodeField, decodeT, h0, decGuard_of_bits h1, h2, h3, fld_of_bits h4, h5, fld_of_bits h6, wfOnly_some hwf]⟩

theorem Laws.RoundTrip.stvx (g : Guard) (f : VSlot) (src : VSrc) (base : BitVec 5) (lvl : Level) (idx : BitVec 10) : Laws.RoundTrip.Statement (.stvx g f src base lvl idx) := by
  refine statement_of rfl fun w hw hwf => ?_
  have b0 := encGuard_lt g
  have b1 := encFile_lt f
  have b2 := encVSrc_lt src
  have b3 := base.isLt
  have b4 := encLevel_lt lvl
  have b5 := idx.isLt
  simp only [encT] at hw
  have h0 : bits w 43 5 = 3 := by simp only [bits]; omega
  have h1 : bits w 38 5 = encGuard g := by simp only [bits]; omega
  have h2 : bits w 35 3 = encFile f := by simp only [bits]; omega
  have h3 : bits w 24 11 = encVSrc src := by simp only [bits]; omega
  have h4 : bits w 19 5 = base.toNat := by simp only [bits]; omega
  have h5 : bits w 17 2 = encLevel lvl := by simp only [bits]; omega
  have h6 : bits w 6 11 = idx.toNat := by simp only [bits]; omega
  have h7 : bits w 0 6 = 0 := by simp only [bits]; omega
  exact ⟨by simp only [Slot.width]; omega, by simp [decodeField, decodeT, decTV, h0, decGuard_of_bits h1, h2, h3, fld_of_bits h4, h5, h6, h7, wfOnly_some hwf]⟩

theorem Laws.RoundTrip.stvg (g : Guard) (f : VSlot) (src : VSrc) (base : BitVec 5) (disp : BitVec 16) : Laws.RoundTrip.Statement (.stvg g f src base disp) := by
  refine statement_of rfl fun w hw hwf => ?_
  have b0 := encGuard_lt g
  have b1 := encFile_lt f
  have b2 := encVSrc_lt src
  have b3 := base.isLt
  have b4 := disp.isLt
  simp only [encT, encLevel_gl] at hw
  have h0 : bits w 43 5 = 4 := by simp only [bits]; omega
  have h1 : bits w 38 5 = encGuard g := by simp only [bits]; omega
  have h2 : bits w 35 3 = encFile f := by simp only [bits]; omega
  have h3 : bits w 24 11 = encVSrc src := by simp only [bits]; omega
  have h4 : bits w 19 5 = base.toNat := by simp only [bits]; omega
  have h5 : bits w 17 2 = 3 := by simp only [bits]; omega
  have h6 : bits w 16 1 = 0 := by simp only [bits]; omega
  have h7 : bits w 0 16 = disp.toNat := by simp only [bits]; omega
  exact ⟨by simp only [Slot.width]; omega, by simp [decodeField, decodeT, decTV, h0, decGuard_of_bits h1, h2, h3, fld_of_bits h4, h5, bitAt_of_bits (b := false) h6, fld_of_bits h7, decLevel]⟩

theorem Laws.RoundTrip.stvgScatter (g : Guard) (f : VSlot) (src : VSrc) (base : BitVec 5) (idx : BitVec 10) : Laws.RoundTrip.Statement (.stvgScatter g f src base idx) := by
  refine statement_of rfl fun w hw hwf => ?_
  have b0 := encGuard_lt g
  have b1 := encFile_lt f
  have b2 := encVSrc_lt src
  have b3 := base.isLt
  have b4 := idx.isLt
  simp only [encT, encLevel_gl] at hw
  have h0 : bits w 43 5 = 4 := by simp only [bits]; omega
  have h1 : bits w 38 5 = encGuard g := by simp only [bits]; omega
  have h2 : bits w 35 3 = encFile f := by simp only [bits]; omega
  have h3 : bits w 24 11 = encVSrc src := by simp only [bits]; omega
  have h4 : bits w 19 5 = base.toNat := by simp only [bits]; omega
  have h5 : bits w 17 2 = 3 := by simp only [bits]; omega
  have h6 : bits w 16 1 = 1 := by simp only [bits]; omega
  have h7 : bits w 5 11 = idx.toNat := by simp only [bits]; omega
  have h8 : bits w 0 5 = 0 := by simp only [bits]; omega
  exact ⟨by simp only [Slot.width]; omega, by simp [decodeField, decodeT, decTV, h0, decGuard_of_bits h1, h2, h3, fld_of_bits h4, h5, bitAt_of_bits (b := true) h6, h7, h8, decLevel]⟩

theorem Laws.RoundTrip.sts (g : Guard) (src : SSrc) (base : BitVec 5) (lvl : Level) (sz : TSize) (disp : BitVec 14) : Laws.RoundTrip.Statement (.sts g src base lvl sz disp) := by
  refine statement_of rfl fun w hw hwf => ?_
  have b0 := encGuard_lt g
  have b1 := encSSrc_lt src
  have b2 := base.isLt
  have b3 := encLevel_lt lvl
  have b4 := encTSize_lt sz
  have b5 := disp.isLt
  simp only [encT] at hw
  have h0 : bits w 43 5 = 5 := by simp only [bits]; omega
  have h1 : bits w 38 5 = encGuard g := by simp only [bits]; omega
  have h2 : bits w 35 3 = 0 := by simp only [bits]; omega
  have h3 : bits w 24 11 = encSSrc src := by simp only [bits]; omega
  have h4 : bits w 19 5 = base.toNat := by simp only [bits]; omega
  have h5 : bits w 17 2 = encLevel lvl := by simp only [bits]; omega
  have h6 : bits w 14 3 = encTSize sz := by simp only [bits]; omega
  have h7 : bits w 0 14 = disp.toNat := by simp only [bits]; omega
  exact ⟨by simp only [Slot.width]; omega, by simp [decodeField, decodeT, decTS, h0, decGuard_of_bits h1, h2, h3, fld_of_bits h4, h5, h6, fld_of_bits h7]⟩

theorem Laws.RoundTrip.stl (g : Guard) (f : VSlot) (src : VSrc) (base : BitVec 5) (disp : BitVec 13) : Laws.RoundTrip.Statement (.stl g f src base disp) := by
  refine statement_of rfl fun w hw hwf => ?_
  have b0 := encGuard_lt g
  have b1 := encFile_lt f
  have b2 := encVSrc_lt src
  have b3 := base.isLt
  have b4 := disp.isLt
  simp only [encT, encLevel_sp] at hw
  have h0 : bits w 43 5 = 6 := by simp only [bits]; omega
  have h1 : bits w 38 5 = encGuard g := by simp only [bits]; omega
  have h2 : bits w 35 3 = encFile f := by simp only [bits]; omega
  have h3 : bits w 24 11 = encVSrc src := by simp only [bits]; omega
  have h4 : bits w 19 5 = base.toNat := by simp only [bits]; omega
  have h5 : bits w 17 2 = 0 := by simp only [bits]; omega
  have h6 : bits w 4 13 = disp.toNat := by simp only [bits]; omega
  have h7 : bits w 0 4 = 0 := by simp only [bits]; omega
  exact ⟨by simp only [Slot.width]; omega, by simp [decodeField, decodeT, decTV, h0, decGuard_of_bits h1, h2, h3, fld_of_bits h4, h5, fld_of_bits h6, h7, decLevel]⟩

theorem Laws.RoundTrip.stsv (g : Guard) (f : VSlot) (src : VSrc) (base : BitVec 5) (lvl : Level) (lane : BitVec 7) (sz : EltSize) (disp : BitVec 8) : Laws.RoundTrip.Statement (.stsv g f src base lvl lane sz disp) := by
  refine statement_of rfl fun w hw hwf => ?_
  have b0 := encGuard_lt g
  have b1 := encFile_lt f
  have b2 := encVSrc_lt src
  have b3 := base.isLt
  have b4 := encLevel_lt lvl
  have b5 := lane.isLt
  have b6 := encEltSize_lt sz
  have b7 := disp.isLt
  simp only [encT] at hw
  have h0 : bits w 43 5 = 7 := by simp only [bits]; omega
  have h1 : bits w 38 5 = encGuard g := by simp only [bits]; omega
  have h2 : bits w 35 3 = encFile f := by simp only [bits]; omega
  have h3 : bits w 24 11 = encVSrc src := by simp only [bits]; omega
  have h4 : bits w 19 5 = base.toNat := by simp only [bits]; omega
  have h5 : bits w 17 2 = encLevel lvl := by simp only [bits]; omega
  have h6 : bits w 10 7 = lane.toNat := by simp only [bits]; omega
  have h7 : bits w 8 2 = encEltSize sz := by simp only [bits]; omega
  have h8 : bits w 0 8 = disp.toNat := by simp only [bits]; omega
  exact ⟨by simp only [Slot.width]; omega, by simp [decodeField, decodeT, decTV, h0, decGuard_of_bits h1, h2, h3, fld_of_bits h4, h5, fld_of_bits h6, h7, fld_of_bits h8]⟩

theorem Laws.RoundTrip.strel (g : Guard) (src : SSrc) (base : BitVec 5) (lvl : Level) (sz : TSize) (disp : BitVec 14) : Laws.RoundTrip.Statement (.strel g src base lvl sz disp) := by
  refine statement_of rfl fun w hw hwf => ?_
  have b0 := encGuard_lt g
  have b1 := encSSrc_lt src
  have b2 := base.isLt
  have b3 := encLevel_lt lvl
  have b4 := encTSize_lt sz
  have b5 := disp.isLt
  simp only [encT] at hw
  have h0 : bits w 43 5 = 8 := by simp only [bits]; omega
  have h1 : bits w 38 5 = encGuard g := by simp only [bits]; omega
  have h2 : bits w 35 3 = 0 := by simp only [bits]; omega
  have h3 : bits w 24 11 = encSSrc src := by simp only [bits]; omega
  have h4 : bits w 19 5 = base.toNat := by simp only [bits]; omega
  have h5 : bits w 17 2 = encLevel lvl := by simp only [bits]; omega
  have h6 : bits w 14 3 = encTSize sz := by simp only [bits]; omega
  have h7 : bits w 0 14 = disp.toNat := by simp only [bits]; omega
  exact ⟨by simp only [Slot.width]; omega, by simp [decodeField, decodeT, decTS, h0, decGuard_of_bits h1, h2, h3, fld_of_bits h4, h5, h6, fld_of_bits h7, wfOnly_some hwf]⟩

theorem Laws.RoundTrip.ffill (g : Guard) (src : SSrc) (base : BitVec 5) (disp : BitVec 13) : Laws.RoundTrip.Statement (.ffill g src base disp) := by
  refine statement_of rfl fun w hw hwf => ?_
  have b0 := encGuard_lt g
  have b1 := encSSrc_lt src
  have b2 := base.isLt
  have b3 := disp.isLt
  simp only [encT, encLevel_cp] at hw
  have h0 : bits w 43 5 = 9 := by simp only [bits]; omega
  have h1 : bits w 38 5 = encGuard g := by simp only [bits]; omega
  have h2 : bits w 35 3 = 0 := by simp only [bits]; omega
  have h3 : bits w 24 11 = encSSrc src := by simp only [bits]; omega
  have h4 : bits w 19 5 = base.toNat := by simp only [bits]; omega
  have h5 : bits w 17 2 = 1 := by simp only [bits]; omega
  have h6 : bits w 4 13 = disp.toNat := by simp only [bits]; omega
  have h7 : bits w 0 4 = 0 := by simp only [bits]; omega
  exact ⟨by simp only [Slot.width]; omega, by simp [decodeField, decodeT, decTS, h0, decGuard_of_bits h1, h2, h3, fld_of_bits h4, h5, fld_of_bits h6, h7, decLevel]⟩

theorem Laws.RoundTrip.aadd (g : Guard) (src : SSrc) (base : BitVec 5) (wide ret : Bool) : Laws.RoundTrip.Statement (.aadd g src base wide ret) := by
  refine statement_of rfl fun w hw hwf => ?_
  have b0 := encGuard_lt g
  have b1 := encSSrc_lt src
  have b2 := base.isLt
  have b3 := bit_lt wide
  have b4 := bit_lt ret
  simp only [encT, encAtomic, bit_false, encLevel_cp] at hw
  have h0 : bits w 43 5 = 10 := by simp only [bits]; omega
  have h1 : bits w 38 5 = encGuard g := by simp only [bits]; omega
  have h2 : bits w 35 3 = 0 := by simp only [bits]; omega
  have h3 : bits w 24 11 = encSSrc src := by simp only [bits]; omega
  have h4 : bits w 19 5 = base.toNat := by simp only [bits]; omega
  have h5 : bits w 17 2 = 1 := by simp only [bits]; omega
  have h6 : bits w 16 1 = bit wide := by simp only [bits]; omega
  have h7 : bits w 15 1 = bit ret := by simp only [bits]; omega
  have h8 : bits w 0 15 = 0 := by simp only [bits]; omega
  exact ⟨by simp only [Slot.width]; omega, by simp [decodeField, decodeT, decTS, h0, decGuard_of_bits h1, h2, h3, fld_of_bits h4, h5, bitAt_of_bits h6, bitAt_of_bits h7, h8, decLevel]⟩

theorem Laws.RoundTrip.amin (g : Guard) (src : SSrc) (base : BitVec 5) (wide ret uns : Bool) : Laws.RoundTrip.Statement (.amin g src base wide ret uns) := by
  refine statement_of rfl fun w hw hwf => ?_
  have b0 := encGuard_lt g
  have b1 := encSSrc_lt src
  have b2 := base.isLt
  have b3 := bit_lt wide
  have b4 := bit_lt ret
  have b5 := bit_lt uns
  simp only [encT, encAtomic, encLevel_cp] at hw
  have h0 : bits w 43 5 = 11 := by simp only [bits]; omega
  have h1 : bits w 38 5 = encGuard g := by simp only [bits]; omega
  have h2 : bits w 35 3 = 0 := by simp only [bits]; omega
  have h3 : bits w 24 11 = encSSrc src := by simp only [bits]; omega
  have h4 : bits w 19 5 = base.toNat := by simp only [bits]; omega
  have h5 : bits w 17 2 = 1 := by simp only [bits]; omega
  have h6 : bits w 16 1 = bit wide := by simp only [bits]; omega
  have h7 : bits w 15 1 = bit ret := by simp only [bits]; omega
  have h8 : bits w 14 1 = bit uns := by simp only [bits]; omega
  have h9 : bits w 0 14 = 0 := by simp only [bits]; omega
  exact ⟨by simp only [Slot.width]; omega, by simp [decodeField, decodeT, decTS, h0, decGuard_of_bits h1, h2, h3, fld_of_bits h4, h5, bitAt_of_bits h6, bitAt_of_bits h7, bitAt_of_bits h8, h9, decLevel]⟩

theorem Laws.RoundTrip.amax (g : Guard) (src : SSrc) (base : BitVec 5) (wide ret uns : Bool) : Laws.RoundTrip.Statement (.amax g src base wide ret uns) := by
  refine statement_of rfl fun w hw hwf => ?_
  have b0 := encGuard_lt g
  have b1 := encSSrc_lt src
  have b2 := base.isLt
  have b3 := bit_lt wide
  have b4 := bit_lt ret
  have b5 := bit_lt uns
  simp only [encT, encAtomic, encLevel_cp] at hw
  have h0 : bits w 43 5 = 12 := by simp only [bits]; omega
  have h1 : bits w 38 5 = encGuard g := by simp only [bits]; omega
  have h2 : bits w 35 3 = 0 := by simp only [bits]; omega
  have h3 : bits w 24 11 = encSSrc src := by simp only [bits]; omega
  have h4 : bits w 19 5 = base.toNat := by simp only [bits]; omega
  have h5 : bits w 17 2 = 1 := by simp only [bits]; omega
  have h6 : bits w 16 1 = bit wide := by simp only [bits]; omega
  have h7 : bits w 15 1 = bit ret := by simp only [bits]; omega
  have h8 : bits w 14 1 = bit uns := by simp only [bits]; omega
  have h9 : bits w 0 14 = 0 := by simp only [bits]; omega
  exact ⟨by simp only [Slot.width]; omega, by simp [decodeField, decodeT, decTS, h0, decGuard_of_bits h1, h2, h3, fld_of_bits h4, h5, bitAt_of_bits h6, bitAt_of_bits h7, bitAt_of_bits h8, h9, decLevel]⟩

theorem Laws.RoundTrip.axchg (g : Guard) (src : SSrc) (base : BitVec 5) (wide ret : Bool) : Laws.RoundTrip.Statement (.axchg g src base wide ret) := by
  refine statement_of rfl fun w hw hwf => ?_
  have b0 := encGuard_lt g
  have b1 := encSSrc_lt src
  have b2 := base.isLt
  have b3 := bit_lt wide
  have b4 := bit_lt ret
  simp only [encT, encAtomic, bit_false, encLevel_cp] at hw
  have h0 : bits w 43 5 = 13 := by simp only [bits]; omega
  have h1 : bits w 38 5 = encGuard g := by simp only [bits]; omega
  have h2 : bits w 35 3 = 0 := by simp only [bits]; omega
  have h3 : bits w 24 11 = encSSrc src := by simp only [bits]; omega
  have h4 : bits w 19 5 = base.toNat := by simp only [bits]; omega
  have h5 : bits w 17 2 = 1 := by simp only [bits]; omega
  have h6 : bits w 16 1 = bit wide := by simp only [bits]; omega
  have h7 : bits w 15 1 = bit ret := by simp only [bits]; omega
  have h8 : bits w 0 15 = 0 := by simp only [bits]; omega
  exact ⟨by simp only [Slot.width]; omega, by simp [decodeField, decodeT, decTS, h0, decGuard_of_bits h1, h2, h3, fld_of_bits h4, h5, bitAt_of_bits h6, bitAt_of_bits h7, h8, decLevel]⟩

theorem Laws.RoundTrip.acas (g : Guard) (src : SSrc) (cmp : BitVec 6) (base : BitVec 5) (wide ret : Bool) : Laws.RoundTrip.Statement (.acas g src cmp base wide ret) := by
  refine statement_of rfl fun w hw hwf => ?_
  have b0 := encGuard_lt g
  have b1 := encSSrc_lt src
  have b2 := base.isLt
  have b3 := bit_lt wide
  have b4 := bit_lt ret
  have b5 := cmp.isLt
  simp only [encT, encAtomic, bit_false, encLevel_cp] at hw
  have h0 : bits w 43 5 = 14 := by simp only [bits]; omega
  have h1 : bits w 38 5 = encGuard g := by simp only [bits]; omega
  have h2 : bits w 35 3 = 0 := by simp only [bits]; omega
  have h3 : bits w 24 11 = encSSrc src := by simp only [bits]; omega
  have h4 : bits w 19 5 = base.toNat := by simp only [bits]; omega
  have h5 : bits w 17 2 = 1 := by simp only [bits]; omega
  have h6 : bits w 16 1 = bit wide := by simp only [bits]; omega
  have h7 : bits w 15 1 = bit ret := by simp only [bits]; omega
  have h8 : bits w 14 1 = 0 := by simp only [bits]; omega
  have h9 : bits w 7 7 = cmp.toNat := by simp only [bits]; omega
  have h10 : bits w 0 7 = 0 := by simp only [bits]; omega
  exact ⟨by simp only [Slot.width]; omega, by simp [decodeField, decodeT, decTS, h0, decGuard_of_bits h1, h2, h3, fld_of_bits h4, h5, bitAt_of_bits h6, bitAt_of_bits h7, bitAt_of_bits (b := false) h8, h9, h10, decLevel]⟩

theorem Laws.RoundTrip.xcp (g : Guard) (dst : XDst) (src : XSrc) (lane : BitVec 7) : Laws.RoundTrip.Statement (.xcp g dst src lane) := by
  refine statement_of rfl fun w hw hwf => ?_
  have b0 := encGuard_lt g
  have b1 := (encXDst_lt dst).1
  have b2 := (encXDst_lt dst).2
  have b3 := (encXSrc_lt src).1
  have b4 := (encXSrc_lt src).2
  have b5 := lane.isLt
  simp only [encX, encXcp] at hw
  have h0 : bits w 43 5 = 1 := by simp only [bits]; omega
  have h1 : bits w 38 5 = encGuard g := by simp only [bits]; omega
  have h2 : bits w 35 3 = (encXDst dst).1 := by simp only [bits]; omega
  have h3 : bits w 24 11 = (encXDst dst).2 := by simp only [bits]; omega
  have h4 : bits w 21 3 = (encXSrc src).1 := by simp only [bits]; omega
  have h5 : bits w 10 11 = (encXSrc src).2 := by simp only [bits]; omega
  have h6 : bits w 3 7 = lane.toNat := by simp only [bits]; omega
  have h7 : bits w 0 3 = 0 := by simp only [bits]; omega
  exact ⟨by simp only [Slot.width]; omega, by simp [decodeField, decodeX, h0, decGuard_of_bits h1, h2, h3, h4, h5, fld_of_bits h6, h7, wfOnly_some hwf]⟩

theorem Laws.RoundTrip.cpy (g : Guard) (xs xd : BitVec 5) : Laws.RoundTrip.Statement (.cpy g xs xd) := by
  refine statement_of rfl fun w hw hwf => ?_
  have b0 := encGuard_lt g
  have b1 := xs.isLt
  have b2 := xd.isLt
  simp only [encX] at hw
  have h0 : bits w 43 5 = 2 := by simp only [bits]; omega
  have h1 : bits w 38 5 = encGuard g := by simp only [bits]; omega
  have h2 : bits w 33 5 = xs.toNat := by simp only [bits]; omega
  have h3 : bits w 28 5 = xd.toNat := by simp only [bits]; omega
  have h4 : bits w 0 28 = 0 := by simp only [bits]; omega
  exact ⟨by simp only [Slot.width]; omega, by simp [decodeField, decodeX, h0, decGuard_of_bits h1, fld_of_bits h2, fld_of_bits h3, h4]⟩

theorem Laws.RoundTrip.mc (g : Guard) (xs xd : BitVec 5) (ranks : Byte) : Laws.RoundTrip.Statement (.mc g xs xd ranks) := by
  refine statement_of rfl fun w hw hwf => ?_
  have b0 := encGuard_lt g
  have b1 := xs.isLt
  have b2 := xd.isLt
  have b3 := ranks.isLt
  simp only [encX] at hw
  have h0 : bits w 43 5 = 3 := by simp only [bits]; omega
  have h1 : bits w 38 5 = encGuard g := by simp only [bits]; omega
  have h2 : bits w 33 5 = xs.toNat := by simp only [bits]; omega
  have h3 : bits w 28 5 = xd.toNat := by simp only [bits]; omega
  have h4 : bits w 20 8 = ranks.toNat := by simp only [bits]; omega
  have h5 : bits w 0 20 = 0 := by simp only [bits]; omega
  exact ⟨by simp only [Slot.width]; omega, by simp [decodeField, decodeX, h0, decGuard_of_bits h1, fld_of_bits h2, fld_of_bits h3, fld_of_bits h4, h5, wfOnly_some hwf]⟩

theorem Laws.RoundTrip.tinv (g : Guard) (xv xn : BitVec 5) (size : TinvSize) : Laws.RoundTrip.Statement (.tinv g xv xn size) := by
  refine statement_of rfl fun w hw hwf => ?_
  have b0 := encGuard_lt g
  have b1 := xv.isLt
  have b2 := xn.isLt
  have b3 := encTinvSize_lt size
  simp only [encX] at hw
  have h0 : bits w 43 5 = 13 := by simp only [bits]; omega
  have h1 : bits w 38 5 = encGuard g := by simp only [bits]; omega
  have h2 : bits w 33 5 = xv.toNat := by simp only [bits]; omega
  have h3 : bits w 28 5 = xn.toNat := by simp only [bits]; omega
  have h4 : bits w 26 2 = encTinvSize size := by simp only [bits]; omega
  have h5 : bits w 0 26 = 0 := by simp only [bits]; omega
  exact ⟨by simp only [Slot.width]; omega, by simp [decodeField, decodeX, h0, decGuard_of_bits h1, fld_of_bits h2, fld_of_bits h3, h4, h5, wfOnly_some hwf]⟩

theorem Laws.RoundTrip.stash (g : Guard) (xs xk : BitVec 5) (mode : StashMode) : Laws.RoundTrip.Statement (.stash g xs xk mode) := by
  refine statement_of rfl fun w hw hwf => ?_
  have b0 := encGuard_lt g
  have b1 := xs.isLt
  have b2 := xk.isLt
  have b3 := encStashMode_lt mode
  simp only [encX] at hw
  have h0 : bits w 43 5 = 4 := by simp only [bits]; omega
  have h1 : bits w 38 5 = encGuard g := by simp only [bits]; omega
  have h2 : bits w 33 5 = xs.toNat := by simp only [bits]; omega
  have h3 : bits w 28 5 = xk.toNat := by simp only [bits]; omega
  have h4 : bits w 26 2 = encStashMode mode := by simp only [bits]; omega
  have h5 : bits w 0 26 = 0 := by simp only [bits]; omega
  exact ⟨by simp only [Slot.width]; omega, by simp [decodeField, decodeX, h0, decGuard_of_bits h1, fld_of_bits h2, fld_of_bits h3, h4, h5]⟩

theorem Laws.RoundTrip.spill (g : Guard) (xs xk : BitVec 5) (mode : StashMode) (lp : Bool) : Laws.RoundTrip.Statement (.spill g xs xk mode lp) := by
  refine statement_of rfl fun w hw hwf => ?_
  have b0 := encGuard_lt g
  have b1 := xs.isLt
  have b2 := xk.isLt
  have b3 := encStashMode_lt mode
  have b4 := bit_lt lp
  simp only [encX] at hw
  have h0 : bits w 43 5 = 5 := by simp only [bits]; omega
  have h1 : bits w 38 5 = encGuard g := by simp only [bits]; omega
  have h2 : bits w 33 5 = xs.toNat := by simp only [bits]; omega
  have h3 : bits w 28 5 = xk.toNat := by simp only [bits]; omega
  have h4 : bits w 26 2 = encStashMode mode := by simp only [bits]; omega
  have h5 : bits w 25 1 = bit lp := by simp only [bits]; omega
  have h6 : bits w 0 25 = 0 := by simp only [bits]; omega
  exact ⟨by simp only [Slot.width]; omega, by simp [decodeField, decodeX, h0, decGuard_of_bits h1, fld_of_bits h2, fld_of_bits h3, h4, bitAt_of_bits h5, h6]⟩

theorem Laws.RoundTrip.drop (g : Guard) (xh xk : BitVec 5) : Laws.RoundTrip.Statement (.drop g xh xk) := by
  refine statement_of rfl fun w hw hwf => ?_
  have b0 := encGuard_lt g
  have b1 := xh.isLt
  have b2 := xk.isLt
  simp only [encX] at hw
  have h0 : bits w 43 5 = 6 := by simp only [bits]; omega
  have h1 : bits w 38 5 = encGuard g := by simp only [bits]; omega
  have h2 : bits w 33 5 = xh.toNat := by simp only [bits]; omega
  have h3 : bits w 28 5 = xk.toNat := by simp only [bits]; omega
  have h4 : bits w 0 28 = 0 := by simp only [bits]; omega
  exact ⟨by simp only [Slot.width]; omega, by simp [decodeField, decodeX, h0, decGuard_of_bits h1, fld_of_bits h2, fld_of_bits h3, h4]⟩

theorem Laws.RoundTrip.fetch (g : Guard) (xd xk : BitVec 5) (free : Bool) : Laws.RoundTrip.Statement (.fetch g xd xk free) := by
  refine statement_of rfl fun w hw hwf => ?_
  have b0 := encGuard_lt g
  have b1 := xd.isLt
  have b2 := xk.isLt
  have b3 := bit_lt free
  simp only [encX] at hw
  have h0 : bits w 43 5 = 7 := by simp only [bits]; omega
  have h1 : bits w 38 5 = encGuard g := by simp only [bits]; omega
  have h2 : bits w 33 5 = xd.toNat := by simp only [bits]; omega
  have h3 : bits w 28 5 = xk.toNat := by simp only [bits]; omega
  have h4 : bits w 27 1 = bit free := by simp only [bits]; omega
  have h5 : bits w 0 27 = 0 := by simp only [bits]; omega
  exact ⟨by simp only [Slot.width]; omega, by simp [decodeField, decodeX, h0, decGuard_of_bits h1, fld_of_bits h2, fld_of_bits h3, bitAt_of_bits h4, h5]⟩

theorem Laws.RoundTrip.wver (g : Guard) (xs xk : BitVec 5) : Laws.RoundTrip.Statement (.wver g xs xk) := by
  refine statement_of rfl fun w hw hwf => ?_
  have b0 := encGuard_lt g
  have b1 := xs.isLt
  have b2 := xk.isLt
  simp only [encX] at hw
  have h0 : bits w 43 5 = 8 := by simp only [bits]; omega
  have h1 : bits w 38 5 = encGuard g := by simp only [bits]; omega
  have h2 : bits w 33 5 = xs.toNat := by simp only [bits]; omega
  have h3 : bits w 28 5 = xk.toNat := by simp only [bits]; omega
  have h4 : bits w 0 28 = 0 := by simp only [bits]; omega
  exact ⟨by simp only [Slot.width]; omega, by simp [decodeField, decodeX, h0, decGuard_of_bits h1, fld_of_bits h2, fld_of_bits h3, h4]⟩

theorem Laws.RoundTrip.engw (g : Guard) (xv : BitVec 5) (num : BitVec 12) : Laws.RoundTrip.Statement (.engw g xv num) := by
  refine statement_of rfl fun w hw hwf => ?_
  have b0 := encGuard_lt g
  have b1 := xv.isLt
  have b2 := num.isLt
  simp only [encX] at hw
  have h0 : bits w 43 5 = 14 := by simp only [bits]; omega
  have h1 : bits w 38 5 = encGuard g := by simp only [bits]; omega
  have h2 : bits w 33 5 = xv.toNat := by simp only [bits]; omega
  have h3 : bits w 21 12 = num.toNat := by simp only [bits]; omega
  have h4 : bits w 0 21 = 0 := by simp only [bits]; omega
  exact ⟨by simp only [Slot.width]; omega, by simp [decodeField, decodeX, h0, decGuard_of_bits h1, fld_of_bits h2, fld_of_bits h3, h4]⟩

theorem Laws.RoundTrip.engr (g : Guard) (num : BitVec 12) : Laws.RoundTrip.Statement (.engr g num) := by
  refine statement_of rfl fun w hw hwf => ?_
  have b0 := encGuard_lt g
  have b1 := num.isLt
  simp only [encX] at hw
  have h0 : bits w 43 5 = 15 := by simp only [bits]; omega
  have h1 : bits w 38 5 = encGuard g := by simp only [bits]; omega
  have h2 : bits w 26 12 = num.toNat := by simp only [bits]; omega
  have h3 : bits w 0 26 = 0 := by simp only [bits]; omega
  exact ⟨by simp only [Slot.width]; omega, by simp [decodeField, decodeX, h0, decGuard_of_bits h1, fld_of_bits h2, h3]⟩

theorem Laws.RoundTrip.chsend (g : Guard) (xs xg xt : BitVec 5) (chan : BitVec 6) : Laws.RoundTrip.Statement (.chsend g xs xg xt chan) := by
  refine statement_of rfl fun w hw hwf => ?_
  have b0 := encGuard_lt g
  have b1 := xs.isLt
  have b2 := xg.isLt
  have b3 := xt.isLt
  have b4 := chan.isLt
  simp only [encX] at hw
  have h0 : bits w 43 5 = 9 := by simp only [bits]; omega
  have h1 : bits w 38 5 = encGuard g := by simp only [bits]; omega
  have h2 : bits w 33 5 = xs.toNat := by simp only [bits]; omega
  have h3 : bits w 28 5 = xg.toNat := by simp only [bits]; omega
  have h4 : bits w 23 5 = xt.toNat := by simp only [bits]; omega
  have h5 : bits w 17 6 = chan.toNat := by simp only [bits]; omega
  have h6 : bits w 0 17 = 0 := by simp only [bits]; omega
  exact ⟨by simp only [Slot.width]; omega, by simp [decodeField, decodeX, h0, decGuard_of_bits h1, fld_of_bits h2, fld_of_bits h3, fld_of_bits h4, fld_of_bits h5, h6]⟩

theorem Laws.RoundTrip.chrecv (g : Guard) (xd : BitVec 5) (chan : BitVec 6) : Laws.RoundTrip.Statement (.chrecv g xd chan) := by
  refine statement_of rfl fun w hw hwf => ?_
  have b0 := encGuard_lt g
  have b1 := xd.isLt
  have b2 := chan.isLt
  simp only [encX] at hw
  have h0 : bits w 43 5 = 10 := by simp only [bits]; omega
  have h1 : bits w 38 5 = encGuard g := by simp only [bits]; omega
  have h2 : bits w 33 5 = xd.toNat := by simp only [bits]; omega
  have h3 : bits w 27 6 = chan.toNat := by simp only [bits]; omega
  have h4 : bits w 0 27 = 0 := by simp only [bits]; omega
  exact ⟨by simp only [Slot.width]; omega, by simp [decodeField, decodeX, h0, decGuard_of_bits h1, fld_of_bits h2, fld_of_bits h3, h4]⟩

theorem Laws.RoundTrip.cheos (g : Guard) (chan : BitVec 6) : Laws.RoundTrip.Statement (.cheos g chan) := by
  refine statement_of rfl fun w hw hwf => ?_
  have b0 := encGuard_lt g
  have b1 := chan.isLt
  simp only [encX] at hw
  have h0 : bits w 43 5 = 11 := by simp only [bits]; omega
  have h1 : bits w 38 5 = encGuard g := by simp only [bits]; omega
  have h2 : bits w 32 6 = chan.toNat := by simp only [bits]; omega
  have h3 : bits w 0 32 = 0 := by simp only [bits]; omega
  exact ⟨by simp only [Slot.width]; omega, by simp [decodeField, decodeX, h0, decGuard_of_bits h1, fld_of_bits h2, h3]⟩

theorem Laws.RoundTrip.redm (g : Guard) (xs xi : BitVec 5) (win : BitVec 6) : Laws.RoundTrip.Statement (.redm g xs xi win) := by
  refine statement_of rfl fun w hw hwf => ?_
  have b0 := encGuard_lt g
  have b1 := xs.isLt
  have b2 := xi.isLt
  have b3 := win.isLt
  simp only [encX] at hw
  have h0 : bits w 43 5 = 12 := by simp only [bits]; omega
  have h1 : bits w 38 5 = encGuard g := by simp only [bits]; omega
  have h2 : bits w 33 5 = xs.toNat := by simp only [bits]; omega
  have h3 : bits w 28 5 = xi.toNat := by simp only [bits]; omega
  have h4 : bits w 22 6 = win.toNat := by simp only [bits]; omega
  have h5 : bits w 0 22 = 0 := by simp only [bits]; omega
  exact ⟨by simp only [Slot.width]; omega, by simp [decodeField, decodeX, h0, decGuard_of_bits h1, fld_of_bits h2, fld_of_bits h3, fld_of_bits h4, h5]⟩

theorem Laws.RoundTrip.fence (g : Guard) (rr rw wr ww : Bool) (sc : BitVec 4) : Laws.RoundTrip.Statement (.fence g rr rw wr ww sc) := by
  refine statement_of rfl fun w hw hwf => ?_
  have b0 := encGuard_lt g
  have b1 := bit_lt rr
  have b2 := bit_lt rw
  have b3 := bit_lt wr
  have b4 := bit_lt ww
  have b5 := sc.isLt
  simp only [encY] at hw
  have h0 : bits w 27 5 = 16 := by simp only [bits]; omega
  have h1 : bits w 22 5 = encGuard g := by simp only [bits]; omega
  have h2 : bits w 21 1 = bit rr := by simp only [bits]; omega
  have h3 : bits w 20 1 = bit rw := by simp only [bits]; omega
  have h4 : bits w 19 1 = bit wr := by simp only [bits]; omega
  have h5 : bits w 18 1 = bit ww := by simp only [bits]; omega
  have h6 : bits w 14 4 = sc.toNat := by simp only [bits]; omega
  have h7 : bits w 0 14 = 0 := by simp only [bits]; omega
  exact ⟨by simp only [Slot.width]; omega, by simp [decodeField, decodeY, h0, decGuard_of_bits h1, bitAt_of_bits h2, bitAt_of_bits h3, bitAt_of_bits h4, bitAt_of_bits h5, fld_of_bits h6, h7, wfOnly_some hwf]⟩

theorem Laws.RoundTrip.spawn (g : Guard) (sk st sb : BitVec 6) : Laws.RoundTrip.Statement (.spawn g sk st sb) := by
  refine statement_of rfl fun w hw hwf => ?_
  have b0 := encGuard_lt g
  have b1 := sk.isLt
  have b2 := st.isLt
  have b3 := sb.isLt
  simp only [encY] at hw
  have h0 : bits w 27 5 = 9 := by simp only [bits]; omega
  have h1 : bits w 22 5 = encGuard g := by simp only [bits]; omega
  have h2 : bits w 15 7 = sk.toNat := by simp only [bits]; omega
  have h3 : bits w 8 7 = st.toNat := by simp only [bits]; omega
  have h4 : bits w 1 7 = sb.toNat := by simp only [bits]; omega
  have h5 : bits w 0 1 = 0 := by simp only [bits]; omega
  exact ⟨by simp only [Slot.width]; omega, by simp [decodeField, decodeY, h0, decGuard_of_bits h1, h2, h3, h4, h5]⟩

theorem Laws.RoundTrip.tend (g : Guard) : Laws.RoundTrip.Statement (.tend g) := by
  refine statement_of rfl fun w hw hwf => ?_
  have b0 := encGuard_lt g
  simp only [encY] at hw
  have h0 : bits w 27 5 = 10 := by simp only [bits]; omega
  have h1 : bits w 22 5 = encGuard g := by simp only [bits]; omega
  have h2 : bits w 0 22 = 0 := by simp only [bits]; omega
  exact ⟨by simp only [Slot.width]; omega, by simp [decodeField, decodeY, h0, decGuard_of_bits h1, h2]⟩

theorem Laws.RoundTrip.tabort (g : Guard) : Laws.RoundTrip.Statement (.tabort g) := by
  refine statement_of rfl fun w hw hwf => ?_
  have b0 := encGuard_lt g
  simp only [encY] at hw
  have h0 : bits w 27 5 = 11 := by simp only [bits]; omega
  have h1 : bits w 22 5 = encGuard g := by simp only [bits]; omega
  have h2 : bits w 0 22 = 0 := by simp only [bits]; omega
  exact ⟨by simp only [Slot.width]; omega, by simp [decodeField, decodeY, h0, decGuard_of_bits h1, h2]⟩

theorem Laws.RoundTrip.frd (g : Guard) (d : SDst) : Laws.RoundTrip.Statement (.frd g d) := by
  refine statement_of rfl fun w hw hwf => ?_
  have b0 := encGuard_lt g
  have b1 := encSDst_lt d
  simp only [encY] at hw
  have h0 : bits w 27 5 = 12 := by simp only [bits]; omega
  have h1 : bits w 22 5 = encGuard g := by simp only [bits]; omega
  have h2 : bits w 15 7 = encSDst d := by simp only [bits]; omega
  have h3 : bits w 14 1 = 0 := by simp only [bits]; omega
  have h4 : bits w 0 14 = 0 := by simp only [bits]; omega
  exact ⟨by simp only [Slot.width]; omega, by simp [decodeField, decodeY, h0, decGuard_of_bits h1, h2, bitAt_of_bits (b := false) h3, h4]⟩

theorem Laws.RoundTrip.frdOwn (g : Guard) (d : SDst) : Laws.RoundTrip.Statement (.frdOwn g d) := by
  refine statement_of rfl fun w hw hwf => ?_
  have b0 := encGuard_lt g
  have b1 := encSDst_lt d
  simp only [encY] at hw
  have h0 : bits w 27 5 = 12 := by simp only [bits]; omega
  have h1 : bits w 22 5 = encGuard g := by simp only [bits]; omega
  have h2 : bits w 15 7 = encSDst d := by simp only [bits]; omega
  have h3 : bits w 14 1 = 1 := by simp only [bits]; omega
  have h4 : bits w 0 14 = 0 := by simp only [bits]; omega
  exact ⟨by simp only [Slot.width]; omega, by simp [decodeField, decodeY, h0, decGuard_of_bits h1, h2, bitAt_of_bits (b := true) h3, h4]⟩

theorem Laws.RoundTrip.phreg (g : Guard) (h : BitVec 4) (mode : PhMode) (chip : Bool) (index : BitVec 9) : Laws.RoundTrip.Statement (.phreg g h mode chip index) := by
  refine statement_of rfl fun w hw hwf => ?_
  have b0 := encGuard_lt g
  have b1 := h.isLt
  have b2 := encPhMode_lt mode
  have b3 := bit_lt chip
  have b4 := index.isLt
  simp only [encY] at hw
  have h0 : bits w 27 5 = 1 := by simp only [bits]; omega
  have h1 : bits w 22 5 = encGuard g := by simp only [bits]; omega
  have h2 : bits w 18 4 = h.toNat := by simp only [bits]; omega
  have h3 : bits w 16 2 = encPhMode mode := by simp only [bits]; omega
  have h4 : bits w 15 1 = bit chip := by simp only [bits]; omega
  have h5 : bits w 6 9 = index.toNat := by simp only [bits]; omega
  have h6 : bits w 0 6 = 0 := by simp only [bits]; omega
  exact ⟨by simp only [Slot.width]; omega, by simp [decodeField, decodeY, h0, decGuard_of_bits h1, fld_of_bits h2, h3, bitAt_of_bits h4, fld_of_bits h5, h6]⟩

theorem Laws.RoundTrip.phdrop (g : Guard) (h : BitVec 4) (r : Bool) : Laws.RoundTrip.Statement (.phdrop g h r) := by
  refine statement_of rfl fun w hw hwf => ?_
  have b0 := encGuard_lt g
  have b1 := h.isLt
  have b2 := bit_lt r
  simp only [encHR, encY] at hw
  have h0 : bits w 27 5 = 2 := by simp only [bits]; omega
  have h1 : bits w 22 5 = encGuard g := by simp only [bits]; omega
  have h2 : bits w 18 4 = h.toNat := by simp only [bits]; omega
  have h3 : bits w 17 1 = bit r := by simp only [bits]; omega
  have h4 : bits w 0 17 = 0 := by simp only [bits]; omega
  exact ⟨by simp only [Slot.width]; omega, by simp [decodeField, decodeY, decHR, h0, decGuard_of_bits h1, fld_of_bits h2, bitAt_of_bits h3, h4]⟩

theorem Laws.RoundTrip.phsig (g : Guard) (h : BitVec 4) (r : Bool) : Laws.RoundTrip.Statement (.phsig g h r) := by
  refine statement_of rfl fun w hw hwf => ?_
  have b0 := encGuard_lt g
  have b1 := h.isLt
  have b2 := bit_lt r
  simp only [encHR, encY] at hw
  have h0 : bits w 27 5 = 3 := by simp only [bits]; omega
  have h1 : bits w 22 5 = encGuard g := by simp only [bits]; omega
  have h2 : bits w 18 4 = h.toNat := by simp only [bits]; omega
  have h3 : bits w 17 1 = bit r := by simp only [bits]; omega
  have h4 : bits w 0 17 = 0 := by simp only [bits]; omega
  exact ⟨by simp only [Slot.width]; omega, by simp [decodeField, decodeY, decHR, h0, decGuard_of_bits h1, fld_of_bits h2, bitAt_of_bits h3, h4]⟩

theorem Laws.RoundTrip.phwait (g : Guard) (h : BitVec 4) (r : Bool) : Laws.RoundTrip.Statement (.phwait g h r) := by
  refine statement_of rfl fun w hw hwf => ?_
  have b0 := encGuard_lt g
  have b1 := h.isLt
  have b2 := bit_lt r
  simp only [encHR, encY] at hw
  have h0 : bits w 27 5 = 4 := by simp only [bits]; omega
  have h1 : bits w 22 5 = encGuard g := by simp only [bits]; omega
  have h2 : bits w 18 4 = h.toNat := by simp only [bits]; omega
  have h3 : bits w 17 1 = bit r := by simp only [bits]; omega
  have h4 : bits w 0 17 = 0 := by simp only [bits]; omega
  exact ⟨by simp only [Slot.width]; omega, by simp [decodeField, decodeY, decHR, h0, decGuard_of_bits h1, fld_of_bits h2, bitAt_of_bits h3, h4]⟩

theorem Laws.RoundTrip.phsw (g : Guard) (h : BitVec 4) (r : Bool) : Laws.RoundTrip.Statement (.phsw g h r) := by
  refine statement_of rfl fun w hw hwf => ?_
  have b0 := encGuard_lt g
  have b1 := h.isLt
  have b2 := bit_lt r
  simp only [encHR, encY] at hw
  have h0 : bits w 27 5 = 5 := by simp only [bits]; omega
  have h1 : bits w 22 5 = encGuard g := by simp only [bits]; omega
  have h2 : bits w 18 4 = h.toNat := by simp only [bits]; omega
  have h3 : bits w 17 1 = bit r := by simp only [bits]; omega
  have h4 : bits w 0 17 = 0 := by simp only [bits]; omega
  exact ⟨by simp only [Slot.width]; omega, by simp [decodeField, decodeY, decHR, h0, decGuard_of_bits h1, fld_of_bits h2, bitAt_of_bits h3, h4]⟩

theorem Laws.RoundTrip.pbaseInit (g : Guard) (d : BitVec 3) : Laws.RoundTrip.Statement (.pbaseInit g d) := by
  refine statement_of rfl fun w hw hwf => ?_
  have b0 := encGuard_lt g
  have b1 := d.isLt
  simp only [encY] at hw
  have h0 : bits w 27 5 = 6 := by simp only [bits]; omega
  have h1 : bits w 22 5 = encGuard g := by simp only [bits]; omega
  have h2 : bits w 21 1 = 1 := by simp only [bits]; omega
  have h3 : bits w 18 3 = d.toNat := by simp only [bits]; omega
  have h4 : bits w 0 18 = 0 := by simp only [bits]; omega
  exact ⟨by simp only [Slot.width]; omega, by simp [decodeField, decodeY, h0, decGuard_of_bits h1, bitAt_of_bits (b := true) h2, fld_of_bits h3, h4]⟩

theorem Laws.RoundTrip.pbase (g : Guard) : Laws.RoundTrip.Statement (.pbase g) := by
  refine statement_of rfl fun w hw hwf => ?_
  have b0 := encGuard_lt g
  simp only [encY] at hw
  have h0 : bits w 27 5 = 6 := by simp only [bits]; omega
  have h1 : bits w 22 5 = encGuard g := by simp only [bits]; omega
  have h2 : bits w 21 1 = 0 := by simp only [bits]; omega
  have h3 : bits w 18 3 = 0 := by simp only [bits]; omega
  have h4 : bits w 0 18 = 0 := by simp only [bits]; omega
  exact ⟨by simp only [Slot.width]; omega, by simp [decodeField, decodeY, h0, decGuard_of_bits h1, bitAt_of_bits (b := false) h2, h3, h4]⟩

theorem Laws.RoundTrip.fwait (g : Guard) (a : SSrc) : Laws.RoundTrip.Statement (.fwait g a) := by
  refine statement_of rfl fun w hw hwf => ?_
  have b0 := encGuard_lt g
  have b1 := encSSrc_lt a
  simp only [encY] at hw
  have h0 : bits w 27 5 = 7 := by simp only [bits]; omega
  have h1 : bits w 22 5 = encGuard g := by simp only [bits]; omega
  have h2 : bits w 15 7 = encSSrc a := by simp only [bits]; omega
  have h3 : bits w 0 15 = 0 := by simp only [bits]; omega
  exact ⟨by simp only [Slot.width]; omega, by simp [decodeField, decodeY, h0, decGuard_of_bits h1, h2, h3]⟩

theorem Laws.RoundTrip.dctrDec (g : Guard) (n : BitVec 6) : Laws.RoundTrip.Statement (.dctrDec g n) := by
  refine statement_of rfl fun w hw hwf => ?_
  have b0 := encGuard_lt g
  have b1 := n.isLt
  simp only [encY] at hw
  have h0 : bits w 27 5 = 8 := by simp only [bits]; omega
  have h1 : bits w 22 5 = encGuard g := by simp only [bits]; omega
  have h2 : bits w 20 2 = 0 := by simp only [bits]; omega
  have h3 : bits w 14 6 = n.toNat := by simp only [bits]; omega
  have h4 : bits w 2 12 = 0 := by simp only [bits]; omega
  have h5 : bits w 0 2 = 0 := by simp only [bits]; omega
  exact ⟨by simp only [Slot.width]; omega, by simp [decodeField, decodeY, h0, decGuard_of_bits h1, h2, fld_of_bits h3, h4, h5]⟩

theorem Laws.RoundTrip.dctrSet (g : Guard) (n k t : BitVec 6) : Laws.RoundTrip.Statement (.dctrSet g n k t) := by
  refine statement_of rfl fun w hw hwf => ?_
  have b0 := encGuard_lt g
  have b1 := n.isLt
  have b2 := k.isLt
  have b3 := t.isLt
  simp only [encY] at hw
  have h0 : bits w 27 5 = 8 := by simp only [bits]; omega
  have h1 : bits w 22 5 = encGuard g := by simp only [bits]; omega
  have h2 : bits w 20 2 = 1 := by simp only [bits]; omega
  have h3 : bits w 14 6 = n.toNat := by simp only [bits]; omega
  have h4 : bits w 8 6 = k.toNat := by simp only [bits]; omega
  have h5 : bits w 2 6 = t.toNat := by simp only [bits]; omega
  have h6 : bits w 0 2 = 0 := by simp only [bits]; omega
  exact ⟨by simp only [Slot.width]; omega, by simp [decodeField, decodeY, h0, decGuard_of_bits h1, h2, fld_of_bits h3, fld_of_bits h4, fld_of_bits h5, h6]⟩

theorem Laws.RoundTrip.tokacq (g : Guard) : Laws.RoundTrip.Statement (.tokacq g) := by
  refine statement_of rfl fun w hw hwf => ?_
  have b0 := encGuard_lt g
  simp only [encY] at hw
  have h0 : bits w 27 5 = 13 := by simp only [bits]; omega
  have h1 : bits w 22 5 = encGuard g := by simp only [bits]; omega
  have h2 : bits w 0 22 = 0 := by simp only [bits]; omega
  exact ⟨by simp only [Slot.width]; omega, by simp [decodeField, decodeY, h0, decGuard_of_bits h1, h2]⟩

theorem Laws.RoundTrip.tokrel (g : Guard) : Laws.RoundTrip.Statement (.tokrel g) := by
  refine statement_of rfl fun w hw hwf => ?_
  have b0 := encGuard_lt g
  simp only [encY] at hw
  have h0 : bits w 27 5 = 14 := by simp only [bits]; omega
  have h1 : bits w 22 5 = encGuard g := by simp only [bits]; omega
  have h2 : bits w 0 22 = 0 := by simp only [bits]; omega
  exact ⟨by simp only [Slot.width]; omega, by simp [decodeField, decodeY, h0, decGuard_of_bits h1, h2]⟩

theorem Laws.RoundTrip.ntile (g : Guard) (a b : SSrc) : Laws.RoundTrip.Statement (.ntile g a b) := by
  refine statement_of rfl fun w hw hwf => ?_
  have b0 := encGuard_lt g
  have b1 := encSSrc_lt a
  have b2 := encSSrc_lt b
  simp only [encY] at hw
  have h0 : bits w 27 5 = 15 := by simp only [bits]; omega
  have h1 : bits w 22 5 = encGuard g := by simp only [bits]; omega
  have h2 : bits w 15 7 = encSSrc a := by simp only [bits]; omega
  have h3 : bits w 8 7 = encSSrc b := by simp only [bits]; omega
  have h4 : bits w 0 8 = 0 := by simp only [bits]; omega
  exact ⟨by simp only [Slot.width]; omega, by simp [decodeField, decodeY, h0, decGuard_of_bits h1, h2, h3, h4]⟩

theorem Laws.RoundTrip.evwait (g : Guard) (count : Byte) : Laws.RoundTrip.Statement (.evwait g count) := by
  refine statement_of rfl fun w hw hwf => ?_
  have b0 := encGuard_lt g
  have b1 := count.isLt
  simp only [encY] at hw
  have h0 : bits w 27 5 = 17 := by simp only [bits]; omega
  have h1 : bits w 22 5 = encGuard g := by simp only [bits]; omega
  have h2 : bits w 14 8 = count.toNat := by simp only [bits]; omega
  have h3 : bits w 0 14 = 0 := by simp only [bits]; omega
  exact ⟨by simp only [Slot.width]; omega, by simp [decodeField, decodeY, h0, decGuard_of_bits h1, fld_of_bits h2, h3]⟩

/-! ### Operations with alternatives inside a field -/

theorem Laws.RoundTrip.mdrain (g : Guard) (plane : Bool) (row : BitVec 7) (target : DrainTarget) (clr : Bool) :
    Laws.RoundTrip.Statement (.mdrain g plane row target clr) := by
  refine statement_of rfl fun w hw _ => ?_
  have b0 := encGuard_lt g
  have b1 := bit_lt plane
  have b2 := row.isLt
  have b3 := bit_lt clr
  obtain ⟨f, r⟩ | ⟨gr, ix⟩ := target
  · have b4 := r.isLt
    have h5 : bits w 29 2 = encFile f - 1 ∧ bits w 44 4 = 5 ∧ bits w 39 5 = encGuard g ∧ bits w 38 1 = bit plane ∧
        bits w 31 7 = row.toNat ∧ bits w 28 1 = bit clr ∧ bits w 11 17 = 0 ∧ bits w 0 11 = r.toNat ∧ w < 2 ^ 48 := by
      cases f <;> simp only [encM, encFile] at hw ⊢ <;> simp only [bits] <;> omega
    obtain ⟨h0, h1, h2, h3, h4, h5, h6, h7, h8⟩ := h5
    refine ⟨by simpa [Slot.width] using h8, ?_⟩
    cases f <;> simp [decodeField, decodeM, h0, h1, h6, h7, encFile, decGuard_of_bits h2, bitAt_of_bits h3, fld_of_bits h4,
      bitAt_of_bits h5]
  · have b4 := ix.isLt
    have h5 : bits w 29 2 = 2 + encGroup gr ∧ bits w 44 4 = 5 ∧ bits w 39 5 = encGuard g ∧ bits w 38 1 = bit plane ∧
        bits w 31 7 = row.toNat ∧ bits w 28 1 = bit clr ∧ bits w 14 14 = ix.toNat ∧ bits w 0 14 = 0 ∧ w < 2 ^ 48 := by
      cases gr <;> simp only [encM, encGroup] at hw ⊢ <;> simp only [bits] <;> omega
    obtain ⟨h0, h1, h2, h3, h4, h5, h6, h7, h8⟩ := h5
    refine ⟨by simpa [Slot.width] using h8, ?_⟩
    cases gr <;> simp [decodeField, decodeM, h0, h1, h7, encGroup, decGuard_of_bits h2, bitAt_of_bits h3, fld_of_bits h4,
      bitAt_of_bits h5, fld_of_bits h6]

theorem Laws.RoundTrip.mmask (g : Guard) (block : Bool) (src : MaskSrc) :
    Laws.RoundTrip.Statement (.mmask g block src) := by
  refine statement_of rfl fun w hw _ => ?_
  have b0 := encGuard_lt g
  have b1 := bit_lt block
  obtain _ | ⟨gr, ix⟩ := src
  · simp only [encM] at hw
    have h1 : bits w 44 4 = 8 := by simp only [bits]; omega
    have h2 : bits w 39 5 = encGuard g := by simp only [bits]; omega
    have h3 : bits w 38 1 = bit block := by simp only [bits]; omega
    have h4 : bits w 37 1 = bit false := by simp only [bits, bit_false]; omega
    have h5 : bits w 19 18 = 0 := by simp only [bits]; omega
    have h6 : bits w 0 19 = 0 := by simp only [bits]; omega
    exact ⟨by simp only [Slot.width]; omega, by simp [decodeField, decodeM, h1, h5, h6, decGuard_of_bits h2,
      bitAt_of_bits h3, bitAt_of_bits h4]⟩
  · have b4 := ix.isLt
    have b5 := encGroup_lt gr
    simp only [encM] at hw
    have h1 : bits w 44 4 = 8 := by simp only [bits]; omega
    have h2 : bits w 39 5 = encGuard g := by simp only [bits]; omega
    have h3 : bits w 38 1 = bit block := by simp only [bits]; omega
    have h4 : bits w 37 1 = bit true := by simp only [bits, show bit true = 1 from rfl]; omega
    have h5 : bits w 36 1 = encGroup gr := by simp only [bits]; omega
    have h6 : bits w 19 17 = ix.toNat := by simp only [bits]; omega
    have h7 : bits w 0 19 = 0 := by simp only [bits]; omega
    exact ⟨by simp only [Slot.width]; omega, by simp [decodeField, decodeM, h1, h7, decGuard_of_bits h2,
      bitAt_of_bits h3, bitAt_of_bits h4, decGroup_of_bits h5, fld_of_bits h6]⟩

theorem Laws.RoundTrip.vectorChain (f : VSlot) (g : Guard) (ch : Chain) :
    Laws.RoundTrip.Statement (.vectorChain f g ch) := by
  refine statement_of rfl fun w hw hwf => ?_
  have b0 := encGuard_lt g
  have b1 := encOp1_lt ch.op1
  have b2 := encOp2_lt ch.op2
  have b3 := encOp3_lt ch.op3
  have b4 := encVDst_lt ch.dst
  have b5 := encVSrc_lt ch.a
  have b6 := encVSrc_lt ch.b
  have b7 := encVSrc_lt ch.c
  have b8 := ch.k.isLt
  have b9 := encVType_lt ch.ty
  have b10 := ch.aux.isLt
  simp only [encChain] at hw
  have h0 : bits w 78 2 = 0 := by simp only [bits]; omega
  have h1 : bits w 73 5 = encGuard g := by simp only [bits]; omega
  have h2 : bits w 67 6 = encOp1 ch.op1 := by simp only [bits]; omega
  have h3 : bits w 61 6 = encOp2 ch.op2 := by simp only [bits]; omega
  have h4 : bits w 55 6 = encOp3 ch.op3 := by simp only [bits]; omega
  have h5 : bits w 44 11 = encVDst ch.dst := by simp only [bits]; omega
  have h6 : bits w 33 11 = encVSrc ch.a := by simp only [bits]; omega
  have h7 : bits w 22 11 = encVSrc ch.b := by simp only [bits]; omega
  have h8 : bits w 11 11 = encVSrc ch.c := by simp only [bits]; omega
  have h9 : bits w 7 4 = ch.k.toNat := by simp only [bits]; omega
  have h10 : bits w 4 3 = encVType ch.ty := by simp only [bits]; omega
  have h11 : bits w 0 4 = ch.aux.toNat := by simp only [bits]; omega
  have hd : decodeV f w = some (.vectorChain f g ch) := by
    simp [decodeV, h0, h2, h3, h4, h5, h6, h7, h8, h10, decGuard_of_bits h1, fld_of_bits h9, fld_of_bits h11,
      wfOnly_some hwf]
  refine ⟨?_, by cases f <;> simpa [decodeField, VSlot.slot] using hd⟩
  have : w < 2 ^ 80 := by omega
  cases f <;> simpa [VSlot.slot, Slot.width] using this

/-! ### Events -/

theorem Laws.RoundTrip.waitBundle : Laws.RoundTrip.Statement (.waitBundle) := statement_none rfl
theorem Laws.RoundTrip.segBundle : Laws.RoundTrip.Statement (.segBundle) := statement_none rfl
theorem Laws.RoundTrip.ovlBundle : Laws.RoundTrip.Statement (.ovlBundle) := statement_none rfl
theorem Laws.RoundTrip.markerBundle (expected : Word32) : Laws.RoundTrip.Statement (.markerBundle expected) := statement_none rfl
theorem Laws.RoundTrip.loopBackEdge : Laws.RoundTrip.Statement (.loopBackEdge) := statement_none rfl
theorem Laws.RoundTrip.resultLanding : Laws.RoundTrip.Statement (.resultLanding) := statement_none rfl
theorem Laws.RoundTrip.globalLoadLanding (core load : Nat) : Laws.RoundTrip.Statement (.globalLoadLanding core load) := statement_none rfl
theorem Laws.RoundTrip.atomicPerform (core : Nat) : Laws.RoundTrip.Statement (.atomicPerform core) := statement_none rfl
theorem Laws.RoundTrip.engineBankRequest (core : Nat) (grp : Group) (bank : Nat) : Laws.RoundTrip.Statement (.engineBankRequest core grp bank) := statement_none rfl
theorem Laws.RoundTrip.copyStart (core : Nat) : Laws.RoundTrip.Statement (.copyStart core) := statement_none rfl
theorem Laws.RoundTrip.copyComplete (core : Nat) : Laws.RoundTrip.Statement (.copyComplete core) := statement_none rfl
theorem Laws.RoundTrip.tinvComplete (core : Nat) : Laws.RoundTrip.Statement (.tinvComplete core) := statement_none rfl
theorem Laws.RoundTrip.stashRelease (core : Nat) : Laws.RoundTrip.Statement (.stashRelease core) := statement_none rfl
theorem Laws.RoundTrip.pressureSpillComplete (pasid key : Nat) : Laws.RoundTrip.Statement (.pressureSpillComplete pasid key) := statement_none rfl
theorem Laws.RoundTrip.stashReturnComplete (pasid key : Nat) : Laws.RoundTrip.Statement (.stashReturnComplete pasid key) := statement_none rfl
theorem Laws.RoundTrip.fetchComplete (core : Nat) : Laws.RoundTrip.Statement (.fetchComplete core) := statement_none rfl
theorem Laws.RoundTrip.engrComplete (core : Nat) : Laws.RoundTrip.Statement (.engrComplete core) := statement_none rfl
theorem Laws.RoundTrip.reductionWindowWrite (fr : Frame) (num : BitVec 12) (v : Word64) : Laws.RoundTrip.Statement (.reductionWindowWrite fr num v) := statement_none rfl
theorem Laws.RoundTrip.starenaWrite (fr : Frame) (v : Word64) : Laws.RoundTrip.Statement (.starenaWrite fr v) := statement_none rfl
theorem Laws.RoundTrip.spillRegionWrite (fr : Frame) (num : BitVec 12) (v : Word64) : Laws.RoundTrip.Statement (.spillRegionWrite fr num v) := statement_none rfl
theorem Laws.RoundTrip.inChannelWrite (fr : Frame) (num : BitVec 12) (v : Word64) : Laws.RoundTrip.Statement (.inChannelWrite fr num v) := statement_none rfl
theorem Laws.RoundTrip.outChannelWrite (fr : Frame) (num : BitVec 12) (v : Word64) : Laws.RoundTrip.Statement (.outChannelWrite fr num v) := statement_none rfl
theorem Laws.RoundTrip.chsendRelease (core : Nat) : Laws.RoundTrip.Statement (.chsendRelease core) := statement_none rfl
theorem Laws.RoundTrip.chrecvComplete (core : Nat) : Laws.RoundTrip.Statement (.chrecvComplete core) := statement_none rfl
theorem Laws.RoundTrip.tileArrival (t : Tile) : Laws.RoundTrip.Statement (.tileArrival t) := statement_none rfl
theorem Laws.RoundTrip.eosTokenArrival (via : Via) (chan : BitVec 6) (prod : BitVec 4) : Laws.RoundTrip.Statement (.eosTokenArrival via chan prod) := statement_none rfl
theorem Laws.RoundTrip.windowAdvertisement (via : Via) (out : BitVec 6) (upto : Nat) : Laws.RoundTrip.Statement (.windowAdvertisement via out upto) := statement_none rfl
theorem Laws.RoundTrip.partialArrival (via : Via) (win : BitVec 6) (p : Partial) : Laws.RoundTrip.Statement (.partialArrival via win p) := statement_none rfl
theorem Laws.RoundTrip.breakwaterRelease (cluster : Nat) : Laws.RoundTrip.Statement (.breakwaterRelease cluster) := statement_none rfl
theorem Laws.RoundTrip.taskLeavesCores (tid : Nat) : Laws.RoundTrip.Statement (.taskLeavesCores tid) := statement_none rfl
theorem Laws.RoundTrip.frontierAdvance (stage : Nat) : Laws.RoundTrip.Statement (.frontierAdvance stage) := statement_none rfl
theorem Laws.RoundTrip.taskRetire (stage : Nat) : Laws.RoundTrip.Statement (.taskRetire stage) := statement_none rfl
theorem Laws.RoundTrip.frontierEviction (stage : Nat) : Laws.RoundTrip.Statement (.frontierEviction stage) := statement_none rfl
theorem Laws.RoundTrip.heldCreatingEvent (stage : Nat) : Laws.RoundTrip.Statement (.heldCreatingEvent stage) := statement_none rfl
theorem Laws.RoundTrip.budgetExhausted (tid : Nat) : Laws.RoundTrip.Statement (.budgetExhausted tid) := statement_none rfl
theorem Laws.RoundTrip.overlayCopyComplete (core overlay : Nat) : Laws.RoundTrip.Statement (.overlayCopyComplete core overlay) := statement_none rfl
theorem Laws.RoundTrip.chipPhaserPerform (core : Nat) : Laws.RoundTrip.Statement (.chipPhaserPerform core) := statement_none rfl
theorem Laws.RoundTrip.futurePoll (core : Nat) : Laws.RoundTrip.Statement (.futurePoll core) := statement_none rfl
theorem Laws.RoundTrip.dctrPerform (stage : Nat) : Laws.RoundTrip.Statement (.dctrPerform stage) := statement_none rfl
theorem Laws.RoundTrip.tokenHop (die : Nat) : Laws.RoundTrip.Statement (.tokenHop die) := statement_none rfl
theorem Laws.RoundTrip.stageEvaluation (stage : Nat) : Laws.RoundTrip.Statement (.stageEvaluation stage) := statement_none rfl
theorem Laws.RoundTrip.taskDispatch (tid : Nat) : Laws.RoundTrip.Statement (.taskDispatch tid) := statement_none rfl
theorem Laws.RoundTrip.headroomPublication (die power : Nat) : Laws.RoundTrip.Statement (.headroomPublication die power) := statement_none rfl
theorem Laws.RoundTrip.handlerResume (tid : Nat) : Laws.RoundTrip.Statement (.handlerResume tid) := statement_none rfl
theorem Laws.RoundTrip.handlerExtend (tid c : Nat) : Laws.RoundTrip.Statement (.handlerExtend tid c) := statement_none rfl
theorem Laws.RoundTrip.handlerAbort (tid : Nat) (recreate : Bool) : Laws.RoundTrip.Statement (.handlerAbort tid recreate) := statement_none rfl
theorem Laws.RoundTrip.handlerContextFault (tid : Nat) : Laws.RoundTrip.Statement (.handlerContextFault tid) := statement_none rfl
theorem Laws.RoundTrip.teamSwap (tid : Nat) : Laws.RoundTrip.Statement (.teamSwap tid) := statement_none rfl
theorem Laws.RoundTrip.swapComplete (tid : Nat) : Laws.RoundTrip.Statement (.swapComplete tid) := statement_none rfl
theorem Laws.RoundTrip.swapRestore (tid : Nat) : Laws.RoundTrip.Statement (.swapRestore tid) := statement_none rfl
theorem Laws.RoundTrip.managementRead (fr : Frame) : Laws.RoundTrip.Statement (.managementRead fr) := statement_none rfl
theorem Laws.RoundTrip.managementWrite (fr : Frame) (v : Word64) : Laws.RoundTrip.Statement (.managementWrite fr v) := statement_none rfl
theorem Laws.RoundTrip.malformedFrame (fr : Frame) : Laws.RoundTrip.Statement (.malformedFrame fr) := statement_none rfl
theorem Laws.RoundTrip.bulkUpload (fr : Frame) (data : List Byte) : Laws.RoundTrip.Statement (.bulkUpload fr data) := statement_none rfl
theorem Laws.RoundTrip.firmwareStaged (slotB verified : Bool) : Laws.RoundTrip.Statement (.firmwareStaged slotB verified) := statement_none rfl
theorem Laws.RoundTrip.tideTableWrite (fr : Frame) (stage entry : Nat) (v : Word64) : Laws.RoundTrip.Statement (.tideTableWrite fr stage entry v) := statement_none rfl
theorem Laws.RoundTrip.stagectlWrite (fr : Frame) (stage : Nat) (v : Word64) : Laws.RoundTrip.Statement (.stagectlWrite fr stage v) := statement_none rfl
theorem Laws.RoundTrip.faultLogRead (fr : Frame) : Laws.RoundTrip.Statement (.faultLogRead fr) := statement_none rfl
theorem Laws.RoundTrip.qstateDisable (fr : Frame) (slot : Nat) : Laws.RoundTrip.Statement (.qstateDisable fr slot) := statement_none rfl
theorem Laws.RoundTrip.qstateRun (fr : Frame) (slot : Nat) : Laws.RoundTrip.Statement (.qstateRun fr slot) := statement_none rfl
theorem Laws.RoundTrip.rptrWrite (fr : Frame) (slot : Nat) (v : Word32) : Laws.RoundTrip.Statement (.rptrWrite fr slot v) := statement_none rfl
theorem Laws.RoundTrip.createContext (fr : Frame) (body : List Byte) : Laws.RoundTrip.Statement (.createContext fr body) := statement_none rfl
theorem Laws.RoundTrip.destroyContext (fr : Frame) : Laws.RoundTrip.Statement (.destroyContext fr) := statement_none rfl
theorem Laws.RoundTrip.contextFreed (pasid : Nat) : Laws.RoundTrip.Statement (.contextFreed pasid) := statement_none rfl
theorem Laws.RoundTrip.createQueue (fr : Frame) (body : List Byte) : Laws.RoundTrip.Statement (.createQueue fr body) := statement_none rfl
theorem Laws.RoundTrip.destroyQueue (fr : Frame) : Laws.RoundTrip.Statement (.destroyQueue fr) := statement_none rfl
theorem Laws.RoundTrip.restartQueue (fr : Frame) (rptr : Word32) : Laws.RoundTrip.Statement (.restartQueue fr rptr) := statement_none rfl
theorem Laws.RoundTrip.invalidateTranslations (fr : Frame) (va count : Word64) (size : TinvSize) : Laws.RoundTrip.Statement (.invalidateTranslations fr va count size) := statement_none rfl
theorem Laws.RoundTrip.gangSwitch (fr : Frame) (time : Word64) (outgoing incoming : Nat) : Laws.RoundTrip.Statement (.gangSwitch fr time outgoing incoming) := statement_none rfl
theorem Laws.RoundTrip.gangSwitchTime : Laws.RoundTrip.Statement (.gangSwitchTime) := statement_none rfl
theorem Laws.RoundTrip.quiesceFlit (port pasid : Nat) : Laws.RoundTrip.Statement (.quiesceFlit port pasid) := statement_none rfl
theorem Laws.RoundTrip.saveContext (fr : Frame) : Laws.RoundTrip.Statement (.saveContext fr) := statement_none rfl
theorem Laws.RoundTrip.contextSaveComplete (pasid : Nat) : Laws.RoundTrip.Statement (.contextSaveComplete pasid) := statement_none rfl
theorem Laws.RoundTrip.restoreContext (fr : Frame) : Laws.RoundTrip.Statement (.restoreContext fr) := statement_none rfl
theorem Laws.RoundTrip.publishStagePlan (fr : Frame) (body : List Byte) : Laws.RoundTrip.Statement (.publishStagePlan fr body) := statement_none rfl
theorem Laws.RoundTrip.replanPublication (stage clusters : Nat) : Laws.RoundTrip.Statement (.replanPublication stage clusters) := statement_none rfl
theorem Laws.RoundTrip.activateFirmware (fr : Frame) (slotB : Bool) : Laws.RoundTrip.Statement (.activateFirmware fr slotB) := statement_none rfl
theorem Laws.RoundTrip.readIdentity (fr : Frame) : Laws.RoundTrip.Statement (.readIdentity fr) := statement_none rfl
theorem Laws.RoundTrip.attest (fr : Frame) (nonce : List Byte) : Laws.RoundTrip.Statement (.attest fr nonce) := statement_none rfl
theorem Laws.RoundTrip.resetChip (fr : Frame) : Laws.RoundTrip.Statement (.resetChip fr) := statement_none rfl
theorem Laws.RoundTrip.doorbellWrite (pasid : Option Nat) (slot : Nat) (v : Word64) : Laws.RoundTrip.Statement (.doorbellWrite pasid slot v) := statement_none rfl
theorem Laws.RoundTrip.packetHeaderReread (slot : Nat) : Laws.RoundTrip.Statement (.packetHeaderReread slot) := statement_none rfl
theorem Laws.RoundTrip.taskPacket (slot : Nat) : Laws.RoundTrip.Statement (.taskPacket slot) := statement_none rfl
theorem Laws.RoundTrip.signalPacket (slot : Nat) : Laws.RoundTrip.Statement (.signalPacket slot) := statement_none rfl
theorem Laws.RoundTrip.signalStore (slot : Nat) : Laws.RoundTrip.Statement (.signalStore slot) := statement_none rfl
theorem Laws.RoundTrip.fencePacket (slot : Nat) : Laws.RoundTrip.Statement (.fencePacket slot) := statement_none rfl
theorem Laws.RoundTrip.queueFenceRelease (slot : Nat) : Laws.RoundTrip.Statement (.queueFenceRelease slot) := statement_none rfl
theorem Laws.RoundTrip.launchPacket (slot : Nat) : Laws.RoundTrip.Statement (.launchPacket slot) := statement_none rfl
theorem Laws.RoundTrip.launchInstall (slot : Nat) : Laws.RoundTrip.Statement (.launchInstall slot) := statement_none rfl
theorem Laws.RoundTrip.nopPacket (slot : Nat) : Laws.RoundTrip.Statement (.nopPacket slot) := statement_none rfl
theorem Laws.RoundTrip.flitResendRequest (port : Nat) : Laws.RoundTrip.Statement (.flitResendRequest port) := statement_none rfl
theorem Laws.RoundTrip.timeBaseFlit (port : Nat) (ns : Word64) : Laws.RoundTrip.Statement (.timeBaseFlit port ns) := statement_none rfl
theorem Laws.RoundTrip.viralNeighbour (port chip : Nat) : Laws.RoundTrip.Statement (.viralNeighbour port chip) := statement_none rfl
theorem Laws.RoundTrip.powerOnReset (record : ConfigRecord) (failure : BootFailure) : Laws.RoundTrip.Statement (.powerOnReset record failure) := statement_none rfl
theorem Laws.RoundTrip.temperatureReport (die celsius : Nat) : Laws.RoundTrip.Statement (.temperatureReport die celsius) := statement_none rfl
theorem Laws.RoundTrip.thermalTrip : Laws.RoundTrip.Statement (.thermalTrip) := statement_none rfl
theorem Laws.RoundTrip.sounderReport (first : Nat) (second : Option Nat) (strike : Nat) : Laws.RoundTrip.Statement (.sounderReport first second strike) := statement_none rfl
theorem Laws.RoundTrip.dataError (cluster core : Nat) (site : ErrorSite) (addr : Nat) : Laws.RoundTrip.Statement (.dataError cluster core site addr) := statement_none rfl
theorem Laws.RoundTrip.rewindPointExpiry (core : Nat) : Laws.RoundTrip.Statement (.rewindPointExpiry core) := statement_none rfl
theorem Laws.RoundTrip.sounderSelfTest (cluster passing : Nat) : Laws.RoundTrip.Statement (.sounderSelfTest cluster passing) := statement_none rfl
theorem Laws.RoundTrip.ageingMonitorRead (cluster : Nat) (slack : List Nat) : Laws.RoundTrip.Statement (.ageingMonitorRead cluster slack) := statement_none rfl
theorem Laws.RoundTrip.marginReplan (cluster millivolt guardBand : Nat) : Laws.RoundTrip.Statement (.marginReplan cluster millivolt guardBand) := statement_none rfl
theorem Laws.RoundTrip.contextRestoreComplete (pasid : Nat) : Laws.RoundTrip.Statement (.contextRestoreComplete pasid) := statement_none rfl
theorem Laws.RoundTrip.levelDataArrival (core : Nat) : Laws.RoundTrip.Statement (.levelDataArrival core) := statement_none rfl
theorem Laws.RoundTrip.discardedFlit (port : Nat) : Laws.RoundTrip.Statement (.discardedFlit port) := statement_none rfl
theorem Laws.RoundTrip.linkControlTrainingFlit (port : Nat) (sign : PortSign) : Laws.RoundTrip.Statement (.linkControlTrainingFlit port sign) := statement_none rfl
theorem Laws.RoundTrip.firmwareImageDiscard (fr : Frame) : Laws.RoundTrip.Statement (.firmwareImageDiscard fr) := statement_none rfl
theorem Laws.RoundTrip.platformUncorrectableError (part : PlatformPart) : Laws.RoundTrip.Statement (.platformUncorrectableError part) := statement_none rfl

end Sys2Proof
end

