-- ==== Sys2Proof/Safety.lean ====
section
/-!
DEFINITION. What the statements say of a run: a result entering flight, what an operation leaves alone, the
fields of `hwcfg` that read zero, canonical memories, and states that a sequence of steps reaches.
-/
namespace Sys2Proof.Machine

/-- The state in which the core in turn has one more result in flight, and nothing else is different: the result of a
slot operation of the bundle in issue that lands n bundles later (R46). -/
def State.gains (s : State) (slot : Slot) (n : Nat) (dest : Dest) (val mask flags : Nat) : State :=
  s.setCore s.turn { s.cur with seq := { s.cur.seq with
    flight := s.cur.seq.flight ++ [{ due := s.cur.seq.stream + n, slot := slot, dest := dest, val := val, mask := mask,
                                     flags := flags, issued := s.cur.seq.stream }] } }

/-- The guard of a slot operation (R38); an event has none. -/
def slotGuard (i : Instr) : Option Guard :=
  match i with
  | .add g _ _ _ | .sub g _ _ _ | .and g _ _ _ | .or g _ _ _ | .xor g _ _ _ | .shl g _ _ _ | .shr g _ _ _
  | .sar g _ _ _ | .rot g _ _ _ | .min g _ _ _ | .max g _ _ _ | .minu g _ _ _ | .maxu g _ _ _ | .addi g _ _ _
  | .andi g _ _ _ | .ori g _ _ _ | .xori g _ _ _ | .shli g _ _ _ | .shri g _ _ _ | .sari g _ _ _ | .roti g _ _ _
  | .mul g _ _ _ | .mulh g _ _ _ | .mulhu g _ _ _ | .div g _ _ _ | .divu g _ _ _ | .rem g _ _ _ | .remu g _ _ _
  | .clz g _ _ | .ctz g _ _ | .popc g _ _ | .bswap g _ _ | .li g _ _ | .lih g _ _ _ | .sel g _ _ _ _ | .ceq g _ _ _
  | .cne g _ _ _ | .clt g _ _ _ | .cltu g _ _ _ | .cle g _ _ _ | .cleu g _ _ _ | .pand g _ _ _ | .por g _ _ _
  | .pxor g _ _ _ | .pnot g _ _ | .b g _ | .bp g _ | .call g _ _ | .ret g _ | .jr g _ | .loop g _ _ _ | .lbrk g _
  | .sysr g _ _ | .sysw g _ _ | .trap g _ | .evpop g _ | .halt g | .ipf g _ | .ipin g _ | .iunpin g _
  | .vectorChain _ g _ | .mpush g _ _ _ _ | .mpusht g _ _ _ _ | .mburst g _ _ _ _ _ | .mshift g | .mhold g
  | .mdrain g _ _ _ _ | .mclr g _ _ | .mswap g | .mmask g _ _ | .mend g | .kld g _ _ _ | .kldp g _ _ _ | .kmov g _ _
  | .kset g _ _ | .ldv g _ _ _ _ _ | .ldvt g _ _ _ _ _ _ _ | .ldvp g _ _ _ _ _ | .ldvx g _ _ _ _ _ _
  | .ldvg g _ _ _ _ _ | .lds g _ _ _ _ _ | .ldl g _ _ _ _ | .ldgv g _ _ _ _ | .ldacq g _ _ _ _ _ | .pfg g _ _
  | .ldmc g _ _ _ _ _ | .stv g _ _ _ _ _ | .stvp g _ _ _ _ _ | .stvx g _ _ _ _ _ | .stvg g _ _ _ _
  | .stvgScatter g _ _ _ _ | .sts g _ _ _ _ _ | .stl g _ _ _ _ | .stsv g _ _ _ _ _ _ _ | .strel g _ _ _ _ _
  | .ffill g _ _ _ | .aadd g _ _ _ _ | .amin g _ _ _ _ _ | .amax g _ _ _ _ _ | .axchg g _ _ _ _ | .acas g _ _ _ _ _
  | .xcp g _ _ _ | .cpy g _ _ | .mc g _ _ _ | .tinv g _ _ _ | .stash g _ _ _ | .spill g _ _ _ _ | .drop g _ _
  | .fetch g _ _ _ | .wver g _ _ | .engw g _ _ | .engr g _ | .chsend g _ _ _ _ | .chrecv g _ _ | .cheos g _
  | .redm g _ _ _ | .fence g _ _ _ _ _ | .spawn g _ _ _ | .tend g | .tabort g | .frd g _ | .frdOwn g _
  | .phreg g _ _ _ _ | .phdrop g _ _ | .phsig g _ _ | .phwait g _ _ | .phsw g _ _ | .pbaseInit g _ | .pbase g
  | .fwait g _ | .dctrDec g _ | .dctrSet g _ _ _ | .tokacq g | .tokrel g | .ntile g _ _ | .evwait g _ => some g
  | .waitBundle | .segBundle | .ovlBundle | .markerBundle _ | .loopBackEdge | .resultLanding
  | .globalLoadLanding _ _ | .atomicPerform _ | .engineBankRequest _ _ _ | .copyStart _ | .copyComplete _
  | .tinvComplete _ | .stashRelease _ | .pressureSpillComplete _ _ | .stashReturnComplete _ _ | .fetchComplete _
  | .engrComplete _ | .reductionWindowWrite _ _ _ | .starenaWrite _ _ | .spillRegionWrite _ _ _
  | .inChannelWrite _ _ _ | .outChannelWrite _ _ _ | .chsendRelease _ | .chrecvComplete _ | .tileArrival _
  | .eosTokenArrival _ _ _ | .windowAdvertisement _ _ _ | .partialArrival _ _ _ | .breakwaterRelease _
  | .taskLeavesCores _ | .frontierAdvance _ | .taskRetire _ | .frontierEviction _ | .heldCreatingEvent _
  | .budgetExhausted _ | .overlayCopyComplete _ _ | .chipPhaserPerform _ | .futurePoll _ | .dctrPerform _
  | .tokenHop _ | .stageEvaluation _ | .taskDispatch _ | .headroomPublication _ _ | .handlerResume _
  | .handlerExtend _ _ | .handlerAbort _ _ | .handlerContextFault _ | .teamSwap _ | .swapComplete _
  | .swapRestore _ | .managementRead _ | .managementWrite _ _ | .malformedFrame _ | .bulkUpload _ _
  | .firmwareStaged _ _ | .tideTableWrite _ _ _ _ | .stagectlWrite _ _ _ | .faultLogRead _ | .qstateDisable _ _
  | .qstateRun _ _ | .rptrWrite _ _ _ | .createContext _ _ | .destroyContext _ | .contextFreed _ | .createQueue _ _
  | .destroyQueue _ | .restartQueue _ _ | .invalidateTranslations _ _ _ _ | .gangSwitch _ _ _ _ | .gangSwitchTime
  | .quiesceFlit _ _ | .saveContext _ | .contextSaveComplete _ | .restoreContext _ | .publishStagePlan _ _
  | .replanPublication _ _ | .activateFirmware _ _ | .readIdentity _ | .attest _ _ | .resetChip _
  | .doorbellWrite _ _ _ | .packetHeaderReread _ | .taskPacket _ | .signalPacket _ | .signalStore _
  | .fencePacket _ | .queueFenceRelease _ | .launchPacket _ | .launchInstall _ | .nopPacket _
  | .flitResendRequest _ | .timeBaseFlit _ _ | .viralNeighbour _ _ | .powerOnReset _ _ | .temperatureReport _ _
  | .thermalTrip | .sounderReport _ _ _ | .dataError _ _ _ _ | .rewindPointExpiry _ | .sounderSelfTest _ _
  | .ageingMonitorRead _ _ | .marginReplan _ _ _ | .contextRestoreComplete _ | .levelDataArrival _
  | .discardedFlit _ | .linkControlTrainingFlit _ _ | .firmwareImageDiscard _ | .platformUncorrectableError _ => none

/-- The bits of `hwcfg` that the spec reserves read zero: [63:32], [18:16] and [7:5] (R5). -/
def State.hwcfgReserved (s : State) : Bool :=
  bits s.hwcfg.toNat 32 32 == 0 && bits s.hwcfg.toNat 16 3 == 0 && bits s.hwcfg.toNat 5 3 == 0

/-- The chip's two shared memories are in canonical form. -/
def State.memoryWf (s : State) : Bool := Memory.wf s.pmem && Memory.wf s.xs

/-- Some number of steps, none of which faults or refuses, leads from one state to another. -/
inductive Reaches : State → State → Prop
  | here (s : State) : Reaches s s
  | more {s t u : State} (h : step s = .next t) (r : Reaches t u) : Reaches s u

/-- A safe run never meets a fault or a refusal. -/
def SafeFrom (s : State) : Prop := ∀ t, Reaches s t → ∃ u, step t = .next u

end Sys2Proof.Machine
end

