-- ==== Sys2Proof/Laws/State.lean ====
section
/-!
SUPPORT. One lemma per field per update of the state, true by rfl; reads after writes of tables and cores.
-/
namespace Sys2Proof.Machine

/-! ### Tables: a read after a write -/

theorem Table.get?_put_same {α : Type} (t : Table α) (k : Nat) (v : α) : Table.get? (Table.put t k v) k = some v := by
  induction t with
  | nil => simp [Table.put, Table.get?]
  | cons e t ih =>
    obtain ⟨j, w⟩ := e
    simp only [Table.put]
    split
    · simp [Table.get?]
    · split
      · simp [Table.get?]
      · rename_i h2; simp [Table.get?, h2, ih]

theorem Table.get?_put_other {α : Type} (t : Table α) {k q : Nat} (v : α) (h : q ≠ k) :
    Table.get? (Table.put t k v) q = Table.get? t q := by
  induction t with
  | nil => simp [Table.put, Table.get?, Ne.symm h]
  | cons e t ih =>
    obtain ⟨j, w⟩ := e
    simp only [Table.put]
    split
    · simp [Table.get?, Ne.symm h]
    · split
      · rename_i h2; subst h2; simp [Table.get?, Ne.symm h]
      · simp only [Table.get?, ih]

@[simp] theorem Table.get_put_same {α : Type} (t : Table α) (d : α) (k : Nat) (v : α) :
    Table.get (Table.put t k v) d k = v := by simp [Table.get, Table.get?_put_same]

theorem Table.get_put_other {α : Type} (t : Table α) (d : α) {k q : Nat} (v : α) (h : q ≠ k) :
    Table.get (Table.put t k v) d q = Table.get t d q := by simp [Table.get, Table.get?_put_other t v h]

theorem Table.put_put {α : Type} (t : Table α) (k : Nat) (v w : α) :
    Table.put (Table.put t k v) k w = Table.put t k w := by
  induction t with
  | nil => simp [Table.put]
  | cons e t ih =>
    obtain ⟨j, x⟩ := e
    simp only [Table.put]
    split
    · simp [Table.put]
    · split
      · simp [Table.put]
      · rename_i h1 h2; simp [Table.put, h1, h2, ih]

/-! ### Cores: a read after a write -/

@[simp] theorem State.core_setCore_same (s : State) (c : Nat) (k : Core) : (s.setCore c k).core c = k :=
  Table.get_put_same _ _ _ _
theorem State.core_setCore_other (s : State) {c d : Nat} (k : Core) (h : d ≠ c) : (s.setCore c k).core d = s.core d :=
  Table.get_put_other _ _ _ h
@[simp] theorem State.core_modCore_same (s : State) (c : Nat) (f : Core → Core) : (s.modCore c f).core c = f (s.core c) :=
  Table.get_put_same _ _ _ _
theorem State.core_modCore_other (s : State) {c d : Nat} (f : Core → Core) (h : d ≠ c) : (s.modCore c f).core d = s.core d :=
  Table.get_put_other _ _ _ h
@[simp] theorem State.cur_setCore (s : State) (k : Core) : (s.setCore s.turn k).cur = k := Table.get_put_same _ _ _ _
@[simp] theorem State.cur_modCur (s : State) (f : Core → Core) : (s.modCur f).cur = f s.cur := Table.get_put_same _ _ _ _
theorem State.core_modCur_other (s : State) {d : Nat} (f : Core → Core) (h : d ≠ s.turn) :
    (s.modCur f).core d = s.core d := Table.get_put_other _ _ _ h
theorem State.setCore_setCore (s : State) (c : Nat) (j k : Core) : (s.setCore c j).setCore c k = s.setCore c k := by
  simp [State.setCore, Table.put_put]
@[simp] theorem State.clu_modClu_same (s : State) (n : Nat) (f : Cluster → Cluster) : (s.modClu n f).clu n = f (s.clu n) :=
  Table.get_put_same _ _ _ _
theorem State.clu_modClu_other (s : State) {n q : Nat} (f : Cluster → Cluster) (h : q ≠ n) :
    (s.modClu n f).clu q = s.clu q := Table.get_put_other _ _ _ h
@[simp] theorem State.stage_modStage_same (s : State) (n : Nat) (f : Stage → Stage) : (s.modStage n f).stage n = f (s.stage n) :=
  Table.get_put_same _ _ _ _
theorem State.stage_modStage_other (s : State) {n q : Nat} (f : Stage → Stage) (h : q ≠ n) :
    (s.modStage n f).stage q = s.stage q := Table.get_put_other _ _ _ h
@[simp] theorem State.ctx_modCtx_same (s : State) (p : Nat) (f : Context → Context) : (s.modCtx p f).ctx p = f (s.ctx p) :=
  Table.get_put_same _ _ _ _
theorem State.ctx_modCtx_other (s : State) {p q : Nat} (f : Context → Context) (h : q ≠ p) :
    (s.modCtx p f).ctx q = s.ctx q := Table.get_put_other _ _ _ h
@[simp] theorem State.task?_setTask_same (s : State) (t : Nat) (k : Task) : (s.setTask t k).task? t = some k :=
  Table.get?_put_same _ _ _
theorem State.task?_setTask_other (s : State) {t q : Nat} (k : Task) (h : q ≠ t) :
    (s.setTask t k).task? q = s.task? q := Table.get?_put_other _ _ h
theorem State.modTask_some {s : State} {t : Nat} {k : Task} (h : s.task? t = some k) (f : Task → Task) :
    s.modTask t f = s.setTask t (f k) := by simp [State.modTask, h]
theorem State.modTask_none {s : State} {t : Nat} (h : s.task? t = none) (f : Task → Task) : s.modTask t f = s := by
  simp [State.modTask, h]
/-- What the current operation's result leaves behind: one more result, and nothing else of the core. -/
@[simp] theorem State.cur_gains (s : State) (sl : Slot) (n : Nat) (d : Dest) (v m f : Nat) :
    (s.gains sl n d v m f).cur = { s.cur with seq := { s.cur.seq with flight := s.cur.seq.flight ++
      [{ due := s.cur.seq.stream + n, slot := sl, dest := d, val := v, mask := m, flags := f, issued := s.cur.seq.stream }] } } :=
  Table.get_put_same _ _ _ _
theorem State.modCur_push (s : State) (sl : Slot) (n : Nat) (d : Dest) (v m f : Nat) :
    s.modCur (fun k => k.push sl n d v m f) = s.gains sl n d v m f := rfl
theorem State.pushS_eq (s : State) (sl : Slot) (n : Nat) (d : SDst) (v : Word64) :
    s.pushS sl n d v = s.gains sl n (destS d) v.toNat (2 ^ 64 - 1) 0 := rfl

/-! ### Updates of one part leave the other parts -/

@[simp] theorem State.setCore_saved (s : State) (c : Nat) (k : Core) : (s.setCore c k).saved = s.saved := rfl
@[simp] theorem State.setCore_clusters (s : State) (c : Nat) (k : Core) : (s.setCore c k).clusters = s.clusters := rfl
@[simp] theorem State.setCore_dies (s : State) (c : Nat) (k : Core) : (s.setCore c k).dies = s.dies := rfl
@[simp] theorem State.setCore_stages (s : State) (c : Nat) (k : Core) : (s.setCore c k).stages = s.stages := rfl
@[simp] theorem State.setCore_tasks (s : State) (c : Nat) (k : Core) : (s.setCore c k).tasks = s.tasks := rfl
@[simp] theorem State.setCore_contexts (s : State) (c : Nat) (k : Core) : (s.setCore c k).contexts = s.contexts := rfl
@[simp] theorem State.setCore_pmem (s : State) (c : Nat) (k : Core) : (s.setCore c k).pmem = s.pmem := rfl
@[simp] theorem State.setCore_xs (s : State) (c : Nat) (k : Core) : (s.setCore c k).xs = s.xs := rfl
@[simp] theorem State.setCore_poison (s : State) (c : Nat) (k : Core) : (s.setCore c k).poison = s.poison := rfl
@[simp] theorem State.setCore_chipPhasers (s : State) (c : Nat) (k : Core) : (s.setCore c k).chipPhasers = s.chipPhasers := rfl
@[simp] theorem State.setCore_counters (s : State) (c : Nat) (k : Core) : (s.setCore c k).counters = s.counters := rfl
@[simp] theorem State.setCore_scopetab (s : State) (c : Nat) (k : Core) : (s.setCore c k).scopetab = s.scopetab := rfl
@[simp] theorem State.setCore_queues (s : State) (c : Nat) (k : Core) : (s.setCore c k).queues = s.queues := rfl
@[simp] theorem State.setCore_host (s : State) (c : Nat) (k : Core) : (s.setCore c k).host = s.host := rfl
@[simp] theorem State.setCore_link (s : State) (c : Nat) (k : Core) : (s.setCore c k).link = s.link := rfl
@[simp] theorem State.setCore_hwcfg (s : State) (c : Nat) (k : Core) : (s.setCore c k).hwcfg = s.hwcfg := rfl
@[simp] theorem State.setCore_record (s : State) (c : Nat) (k : Core) : (s.setCore c k).record = s.record := rfl
@[simp] theorem State.setCore_chipNo (s : State) (c : Nat) (k : Core) : (s.setCore c k).chipNo = s.chipNo := rfl
@[simp] theorem State.setCore_bankClock (s : State) (c : Nat) (k : Core) : (s.setCore c k).bankClock = s.bankClock := rfl
@[simp] theorem State.setCore_recovery (s : State) (c : Nat) (k : Core) : (s.setCore c k).recovery = s.recovery := rfl
@[simp] theorem State.setCore_viral (s : State) (c : Nat) (k : Core) : (s.setCore c k).viral = s.viral := rfl
@[simp] theorem State.setCore_tripped (s : State) (c : Nat) (k : Core) : (s.setCore c k).tripped = s.tripped := rfl
@[simp] theorem State.setCore_resetStep (s : State) (c : Nat) (k : Core) : (s.setCore c k).resetStep = s.resetStep := rfl
@[simp] theorem State.setCore_stuck (s : State) (c : Nat) (k : Core) : (s.setCore c k).stuck = s.stuck := rfl
@[simp] theorem State.setCore_channelsLost (s : State) (c : Nat) (k : Core) : (s.setCore c k).channelsLost = s.channelsLost := rfl
@[simp] theorem State.setCore_rebuilds (s : State) (c : Nat) (k : Core) : (s.setCore c k).rebuilds = s.rebuilds := rfl
@[simp] theorem State.setCore_cycle (s : State) (c : Nat) (k : Core) : (s.setCore c k).cycle = s.cycle := rfl
@[simp] theorem State.setCore_turn (s : State) (c : Nat) (k : Core) : (s.setCore c k).turn = s.turn := rfl
@[simp] theorem State.setCore_late (s : State) (c : Nat) (k : Core) : (s.setCore c k).late = s.late := rfl
@[simp] theorem State.setCore_closing (s : State) (c : Nat) (k : Core) : (s.setCore c k).closing = s.closing := rfl
@[simp] theorem State.setCore_pending (s : State) (c : Nat) (k : Core) : (s.setCore c k).pending = s.pending := rfl
@[simp] theorem State.setCore_inputs (s : State) (c : Nat) (k : Core) : (s.setCore c k).inputs = s.inputs := rfl
@[simp] theorem State.setCore_errors (s : State) (c : Nat) (k : Core) : (s.setCore c k).errors = s.errors := rfl
@[simp] theorem State.setCore_peers (s : State) (c : Nat) (k : Core) : (s.setCore c k).peers = s.peers := rfl
@[simp] theorem State.setCore_free (s : State) (c : Nat) (k : Core) : (s.setCore c k).free = s.free := rfl
@[simp] theorem State.setCore_nextId (s : State) (c : Nat) (k : Core) : (s.setCore c k).nextId = s.nextId := rfl
@[simp] theorem State.modCore_saved (s : State) (c : Nat) (f : Core → Core) : (s.modCore c f).saved = s.saved := rfl
@[simp] theorem State.modCore_clusters (s : State) (c : Nat) (f : Core → Core) : (s.modCore c f).clusters = s.clusters := rfl
@[simp] theorem State.modCore_dies (s : State) (c : Nat) (f : Core → Core) : (s.modCore c f).dies = s.dies := rfl
@[simp] theorem State.modCore_stages (s : State) (c : Nat) (f : Core → Core) : (s.modCore c f).stages = s.stages := rfl
@[simp] theorem State.modCore_tasks (s : State) (c : Nat) (f : Core → Core) : (s.modCore c f).tasks = s.tasks := rfl
@[simp] theorem State.modCore_contexts (s : State) (c : Nat) (f : Core → Core) : (s.modCore c f).contexts = s.contexts := rfl
@[simp] theorem State.modCore_pmem (s : State) (c : Nat) (f : Core → Core) : (s.modCore c f).pmem = s.pmem := rfl
@[simp] theorem State.modCore_xs (s : State) (c : Nat) (f : Core → Core) : (s.modCore c f).xs = s.xs := rfl
@[simp] theorem State.modCore_poison (s : State) (c : Nat) (f : Core → Core) : (s.modCore c f).poison = s.poison := rfl
@[simp] theorem State.modCore_chipPhasers (s : State) (c : Nat) (f : Core → Core) : (s.modCore c f).chipPhasers = s.chipPhasers := rfl
@[simp] theorem State.modCore_counters (s : State) (c : Nat) (f : Core → Core) : (s.modCore c f).counters = s.counters := rfl
@[simp] theorem State.modCore_scopetab (s : State) (c : Nat) (f : Core → Core) : (s.modCore c f).scopetab = s.scopetab := rfl
@[simp] theorem State.modCore_queues (s : State) (c : Nat) (f : Core → Core) : (s.modCore c f).queues = s.queues := rfl
@[simp] theorem State.modCore_host (s : State) (c : Nat) (f : Core → Core) : (s.modCore c f).host = s.host := rfl
@[simp] theorem State.modCore_link (s : State) (c : Nat) (f : Core → Core) : (s.modCore c f).link = s.link := rfl
@[simp] theorem State.modCore_hwcfg (s : State) (c : Nat) (f : Core → Core) : (s.modCore c f).hwcfg = s.hwcfg := rfl
@[simp] theorem State.modCore_record (s : State) (c : Nat) (f : Core → Core) : (s.modCore c f).record = s.record := rfl
@[simp] theorem State.modCore_chipNo (s : State) (c : Nat) (f : Core → Core) : (s.modCore c f).chipNo = s.chipNo := rfl
@[simp] theorem State.modCore_bankClock (s : State) (c : Nat) (f : Core → Core) : (s.modCore c f).bankClock = s.bankClock := rfl
@[simp] theorem State.modCore_recovery (s : State) (c : Nat) (f : Core → Core) : (s.modCore c f).recovery = s.recovery := rfl
@[simp] theorem State.modCore_viral (s : State) (c : Nat) (f : Core → Core) : (s.modCore c f).viral = s.viral := rfl
@[simp] theorem State.modCore_tripped (s : State) (c : Nat) (f : Core → Core) : (s.modCore c f).tripped = s.tripped := rfl
@[simp] theorem State.modCore_resetStep (s : State) (c : Nat) (f : Core → Core) : (s.modCore c f).resetStep = s.resetStep := rfl
@[simp] theorem State.modCore_stuck (s : State) (c : Nat) (f : Core → Core) : (s.modCore c f).stuck = s.stuck := rfl
@[simp] theorem State.modCore_channelsLost (s : State) (c : Nat) (f : Core → Core) : (s.modCore c f).channelsLost = s.channelsLost := rfl
@[simp] theorem State.modCore_rebuilds (s : State) (c : Nat) (f : Core → Core) : (s.modCore c f).rebuilds = s.rebuilds := rfl
@[simp] theorem State.modCore_cycle (s : State) (c : Nat) (f : Core → Core) : (s.modCore c f).cycle = s.cycle := rfl
@[simp] theorem State.modCore_turn (s : State) (c : Nat) (f : Core → Core) : (s.modCore c f).turn = s.turn := rfl
@[simp] theorem State.modCore_late (s : State) (c : Nat) (f : Core → Core) : (s.modCore c f).late = s.late := rfl
@[simp] theorem State.modCore_closing (s : State) (c : Nat) (f : Core → Core) : (s.modCore c f).closing = s.closing := rfl
@[simp] theorem State.modCore_pending (s : State) (c : Nat) (f : Core → Core) : (s.modCore c f).pending = s.pending := rfl
@[simp] theorem State.modCore_inputs (s : State) (c : Nat) (f : Core → Core) : (s.modCore c f).inputs = s.inputs := rfl
@[simp] theorem State.modCore_errors (s : State) (c : Nat) (f : Core → Core) : (s.modCore c f).errors = s.errors := rfl
@[simp] theorem State.modCore_peers (s : State) (c : Nat) (f : Core → Core) : (s.modCore c f).peers = s.peers := rfl
@[simp] theorem State.modCore_free (s : State) (c : Nat) (f : Core → Core) : (s.modCore c f).free = s.free := rfl
@[simp] theorem State.modCore_nextId (s : State) (c : Nat) (f : Core → Core) : (s.modCore c f).nextId = s.nextId := rfl
@[simp] theorem State.modCur_saved (s : State) (f : Core → Core) : (s.modCur f).saved = s.saved := rfl
@[simp] theorem State.modCur_clusters (s : State) (f : Core → Core) : (s.modCur f).clusters = s.clusters := rfl
@[simp] theorem State.modCur_dies (s : State) (f : Core → Core) : (s.modCur f).dies = s.dies := rfl
@[simp] theorem State.modCur_stages (s : State) (f : Core → Core) : (s.modCur f).stages = s.stages := rfl
@[simp] theorem State.modCur_tasks (s : State) (f : Core → Core) : (s.modCur f).tasks = s.tasks := rfl
@[simp] theorem State.modCur_contexts (s : State) (f : Core → Core) : (s.modCur f).contexts = s.contexts := rfl
@[simp] theorem State.modCur_pmem (s : State) (f : Core → Core) : (s.modCur f).pmem = s.pmem := rfl
@[simp] theorem State.modCur_xs (s : State) (f : Core → Core) : (s.modCur f).xs = s.xs := rfl
@[simp] theorem State.modCur_poison (s : State) (f : Core → Core) : (s.modCur f).poison = s.poison := rfl
@[simp] theorem State.modCur_chipPhasers (s : State) (f : Core → Core) : (s.modCur f).chipPhasers = s.chipPhasers := rfl
@[simp] theorem State.modCur_counters (s : State) (f : Core → Core) : (s.modCur f).counters = s.counters := rfl
@[simp] theorem State.modCur_scopetab (s : State) (f : Core → Core) : (s.modCur f).scopetab = s.scopetab := rfl
@[simp] theorem State.modCur_queues (s : State) (f : Core → Core) : (s.modCur f).queues = s.queues := rfl
@[simp] theorem State.modCur_host (s : State) (f : Core → Core) : (s.modCur f).host = s.host := rfl
@[simp] theorem State.modCur_link (s : State) (f : Core → Core) : (s.modCur f).link = s.link := rfl
@[simp] theorem State.modCur_hwcfg (s : State) (f : Core → Core) : (s.modCur f).hwcfg = s.hwcfg := rfl
@[simp] theorem State.modCur_record (s : State) (f : Core → Core) : (s.modCur f).record = s.record := rfl
@[simp] theorem State.modCur_chipNo (s : State) (f : Core → Core) : (s.modCur f).chipNo = s.chipNo := rfl
@[simp] theorem State.modCur_bankClock (s : State) (f : Core → Core) : (s.modCur f).bankClock = s.bankClock := rfl
@[simp] theorem State.modCur_recovery (s : State) (f : Core → Core) : (s.modCur f).recovery = s.recovery := rfl
@[simp] theorem State.modCur_viral (s : State) (f : Core → Core) : (s.modCur f).viral = s.viral := rfl
@[simp] theorem State.modCur_tripped (s : State) (f : Core → Core) : (s.modCur f).tripped = s.tripped := rfl
@[simp] theorem State.modCur_resetStep (s : State) (f : Core → Core) : (s.modCur f).resetStep = s.resetStep := rfl
@[simp] theorem State.modCur_stuck (s : State) (f : Core → Core) : (s.modCur f).stuck = s.stuck := rfl
@[simp] theorem State.modCur_channelsLost (s : State) (f : Core → Core) : (s.modCur f).channelsLost = s.channelsLost := rfl
@[simp] theorem State.modCur_rebuilds (s : State) (f : Core → Core) : (s.modCur f).rebuilds = s.rebuilds := rfl
@[simp] theorem State.modCur_cycle (s : State) (f : Core → Core) : (s.modCur f).cycle = s.cycle := rfl
@[simp] theorem State.modCur_turn (s : State) (f : Core → Core) : (s.modCur f).turn = s.turn := rfl
@[simp] theorem State.modCur_late (s : State) (f : Core → Core) : (s.modCur f).late = s.late := rfl
@[simp] theorem State.modCur_closing (s : State) (f : Core → Core) : (s.modCur f).closing = s.closing := rfl
@[simp] theorem State.modCur_pending (s : State) (f : Core → Core) : (s.modCur f).pending = s.pending := rfl
@[simp] theorem State.modCur_inputs (s : State) (f : Core → Core) : (s.modCur f).inputs = s.inputs := rfl
@[simp] theorem State.modCur_errors (s : State) (f : Core → Core) : (s.modCur f).errors = s.errors := rfl
@[simp] theorem State.modCur_peers (s : State) (f : Core → Core) : (s.modCur f).peers = s.peers := rfl
@[simp] theorem State.modCur_free (s : State) (f : Core → Core) : (s.modCur f).free = s.free := rfl
@[simp] theorem State.modCur_nextId (s : State) (f : Core → Core) : (s.modCur f).nextId = s.nextId := rfl
@[simp] theorem State.modClu_cores (s : State) (n : Nat) (f : Cluster → Cluster) : (s.modClu n f).cores = s.cores := rfl
@[simp] theorem State.modClu_saved (s : State) (n : Nat) (f : Cluster → Cluster) : (s.modClu n f).saved = s.saved := rfl
@[simp] theorem State.modClu_dies (s : State) (n : Nat) (f : Cluster → Cluster) : (s.modClu n f).dies = s.dies := rfl
@[simp] theorem State.modClu_stages (s : State) (n : Nat) (f : Cluster → Cluster) : (s.modClu n f).stages = s.stages := rfl
@[simp] theorem State.modClu_tasks (s : State) (n : Nat) (f : Cluster → Cluster) : (s.modClu n f).tasks = s.tasks := rfl
@[simp] theorem State.modClu_contexts (s : State) (n : Nat) (f : Cluster → Cluster) : (s.modClu n f).contexts = s.contexts := rfl
@[simp] theorem State.modClu_pmem (s : State) (n : Nat) (f : Cluster → Cluster) : (s.modClu n f).pmem = s.pmem := rfl
@[simp] theorem State.modClu_xs (s : State) (n : Nat) (f : Cluster → Cluster) : (s.modClu n f).xs = s.xs := rfl
@[simp] theorem State.modClu_poison (s : State) (n : Nat) (f : Cluster → Cluster) : (s.modClu n f).poison = s.poison := rfl
@[simp] theorem State.modClu_chipPhasers (s : State) (n : Nat) (f : Cluster → Cluster) : (s.modClu n f).chipPhasers = s.chipPhasers := rfl
@[simp] theorem State.modClu_counters (s : State) (n : Nat) (f : Cluster → Cluster) : (s.modClu n f).counters = s.counters := rfl
@[simp] theorem State.modClu_scopetab (s : State) (n : Nat) (f : Cluster → Cluster) : (s.modClu n f).scopetab = s.scopetab := rfl
@[simp] theorem State.modClu_queues (s : State) (n : Nat) (f : Cluster → Cluster) : (s.modClu n f).queues = s.queues := rfl
@[simp] theorem State.modClu_host (s : State) (n : Nat) (f : Cluster → Cluster) : (s.modClu n f).host = s.host := rfl
@[simp] theorem State.modClu_link (s : State) (n : Nat) (f : Cluster → Cluster) : (s.modClu n f).link = s.link := rfl
@[simp] theorem State.modClu_hwcfg (s : State) (n : Nat) (f : Cluster → Cluster) : (s.modClu n f).hwcfg = s.hwcfg := rfl
@[simp] theorem State.modClu_record (s : State) (n : Nat) (f : Cluster → Cluster) : (s.modClu n f).record = s.record := rfl
@[simp] theorem State.modClu_chipNo (s : State) (n : Nat) (f : Cluster → Cluster) : (s.modClu n f).chipNo = s.chipNo := rfl
@[simp] theorem State.modClu_bankClock (s : State) (n : Nat) (f : Cluster → Cluster) : (s.modClu n f).bankClock = s.bankClock := rfl
@[simp] theorem State.modClu_recovery (s : State) (n : Nat) (f : Cluster → Cluster) : (s.modClu n f).recovery = s.recovery := rfl
@[simp] theorem State.modClu_viral (s : State) (n : Nat) (f : Cluster → Cluster) : (s.modClu n f).viral = s.viral := rfl
@[simp] theorem State.modClu_tripped (s : State) (n : Nat) (f : Cluster → Cluster) : (s.modClu n f).tripped = s.tripped := rfl
@[simp] theorem State.modClu_resetStep (s : State) (n : Nat) (f : Cluster → Cluster) : (s.modClu n f).resetStep = s.resetStep := rfl
@[simp] theorem State.modClu_stuck (s : State) (n : Nat) (f : Cluster → Cluster) : (s.modClu n f).stuck = s.stuck := rfl
@[simp] theorem State.modClu_channelsLost (s : State) (n : Nat) (f : Cluster → Cluster) : (s.modClu n f).channelsLost = s.channelsLost := rfl
@[simp] theorem State.modClu_rebuilds (s : State) (n : Nat) (f : Cluster → Cluster) : (s.modClu n f).rebuilds = s.rebuilds := rfl
@[simp] theorem State.modClu_cycle (s : State) (n : Nat) (f : Cluster → Cluster) : (s.modClu n f).cycle = s.cycle := rfl
@[simp] theorem State.modClu_turn (s : State) (n : Nat) (f : Cluster → Cluster) : (s.modClu n f).turn = s.turn := rfl
@[simp] theorem State.modClu_late (s : State) (n : Nat) (f : Cluster → Cluster) : (s.modClu n f).late = s.late := rfl
@[simp] theorem State.modClu_closing (s : State) (n : Nat) (f : Cluster → Cluster) : (s.modClu n f).closing = s.closing := rfl
@[simp] theorem State.modClu_pending (s : State) (n : Nat) (f : Cluster → Cluster) : (s.modClu n f).pending = s.pending := rfl
@[simp] theorem State.modClu_inputs (s : State) (n : Nat) (f : Cluster → Cluster) : (s.modClu n f).inputs = s.inputs := rfl
@[simp] theorem State.modClu_errors (s : State) (n : Nat) (f : Cluster → Cluster) : (s.modClu n f).errors = s.errors := rfl
@[simp] theorem State.modClu_peers (s : State) (n : Nat) (f : Cluster → Cluster) : (s.modClu n f).peers = s.peers := rfl
@[simp] theorem State.modClu_free (s : State) (n : Nat) (f : Cluster → Cluster) : (s.modClu n f).free = s.free := rfl
@[simp] theorem State.modClu_nextId (s : State) (n : Nat) (f : Cluster → Cluster) : (s.modClu n f).nextId = s.nextId := rfl
@[simp] theorem State.modDie_cores (s : State) (n : Nat) (f : Die → Die) : (s.modDie n f).cores = s.cores := rfl
@[simp] theorem State.modDie_saved (s : State) (n : Nat) (f : Die → Die) : (s.modDie n f).saved = s.saved := rfl
@[simp] theorem State.modDie_clusters (s : State) (n : Nat) (f : Die → Die) : (s.modDie n f).clusters = s.clusters := rfl
@[simp] theorem State.modDie_stages (s : State) (n : Nat) (f : Die → Die) : (s.modDie n f).stages = s.stages := rfl
@[simp] theorem State.modDie_tasks (s : State) (n : Nat) (f : Die → Die) : (s.modDie n f).tasks = s.tasks := rfl
@[simp] theorem State.modDie_contexts (s : State) (n : Nat) (f : Die → Die) : (s.modDie n f).contexts = s.contexts := rfl
@[simp] theorem State.modDie_pmem (s : State) (n : Nat) (f : Die → Die) : (s.modDie n f).pmem = s.pmem := rfl
@[simp] theorem State.modDie_xs (s : State) (n : Nat) (f : Die → Die) : (s.modDie n f).xs = s.xs := rfl
@[simp] theorem State.modDie_poison (s : State) (n : Nat) (f : Die → Die) : (s.modDie n f).poison = s.poison := rfl
@[simp] theorem State.modDie_chipPhasers (s : State) (n : Nat) (f : Die → Die) : (s.modDie n f).chipPhasers = s.chipPhasers := rfl
@[simp] theorem State.modDie_counters (s : State) (n : Nat) (f : Die → Die) : (s.modDie n f).counters = s.counters := rfl
@[simp] theorem State.modDie_scopetab (s : State) (n : Nat) (f : Die → Die) : (s.modDie n f).scopetab = s.scopetab := rfl
@[simp] theorem State.modDie_queues (s : State) (n : Nat) (f : Die → Die) : (s.modDie n f).queues = s.queues := rfl
@[simp] theorem State.modDie_host (s : State) (n : Nat) (f : Die → Die) : (s.modDie n f).host = s.host := rfl
@[simp] theorem State.modDie_link (s : State) (n : Nat) (f : Die → Die) : (s.modDie n f).link = s.link := rfl
@[simp] theorem State.modDie_hwcfg (s : State) (n : Nat) (f : Die → Die) : (s.modDie n f).hwcfg = s.hwcfg := rfl
@[simp] theorem State.modDie_record (s : State) (n : Nat) (f : Die → Die) : (s.modDie n f).record = s.record := rfl
@[simp] theorem State.modDie_chipNo (s : State) (n : Nat) (f : Die → Die) : (s.modDie n f).chipNo = s.chipNo := rfl
@[simp] theorem State.modDie_bankClock (s : State) (n : Nat) (f : Die → Die) : (s.modDie n f).bankClock = s.bankClock := rfl
@[simp] theorem State.modDie_recovery (s : State) (n : Nat) (f : Die → Die) : (s.modDie n f).recovery = s.recovery := rfl
@[simp] theorem State.modDie_viral (s : State) (n : Nat) (f : Die → Die) : (s.modDie n f).viral = s.viral := rfl
@[simp] theorem State.modDie_tripped (s : State) (n : Nat) (f : Die → Die) : (s.modDie n f).tripped = s.tripped := rfl
@[simp] theorem State.modDie_resetStep (s : State) (n : Nat) (f : Die → Die) : (s.modDie n f).resetStep = s.resetStep := rfl
@[simp] theorem State.modDie_stuck (s : State) (n : Nat) (f : Die → Die) : (s.modDie n f).stuck = s.stuck := rfl
@[simp] theorem State.modDie_channelsLost (s : State) (n : Nat) (f : Die → Die) : (s.modDie n f).channelsLost = s.channelsLost := rfl
@[simp] theorem State.modDie_rebuilds (s : State) (n : Nat) (f : Die → Die) : (s.modDie n f).rebuilds = s.rebuilds := rfl
@[simp] theorem State.modDie_cycle (s : State) (n : Nat) (f : Die → Die) : (s.modDie n f).cycle = s.cycle := rfl
@[simp] theorem State.modDie_turn (s : State) (n : Nat) (f : Die → Die) : (s.modDie n f).turn = s.turn := rfl
@[simp] theorem State.modDie_late (s : State) (n : Nat) (f : Die → Die) : (s.modDie n f).late = s.late := rfl
@[simp] theorem State.modDie_closing (s : State) (n : Nat) (f : Die → Die) : (s.modDie n f).closing = s.closing := rfl
@[simp] theorem State.modDie_pending (s : State) (n : Nat) (f : Die → Die) : (s.modDie n f).pending = s.pending := rfl
@[simp] theorem State.modDie_inputs (s : State) (n : Nat) (f : Die → Die) : (s.modDie n f).inputs = s.inputs := rfl
@[simp] theorem State.modDie_errors (s : State) (n : Nat) (f : Die → Die) : (s.modDie n f).errors = s.errors := rfl
@[simp] theorem State.modDie_peers (s : State) (n : Nat) (f : Die → Die) : (s.modDie n f).peers = s.peers := rfl
@[simp] theorem State.modDie_free (s : State) (n : Nat) (f : Die → Die) : (s.modDie n f).free = s.free := rfl
@[simp] theorem State.modDie_nextId (s : State) (n : Nat) (f : Die → Die) : (s.modDie n f).nextId = s.nextId := rfl
@[simp] theorem State.modStage_cores (s : State) (n : Nat) (f : Stage → Stage) : (s.modStage n f).cores = s.cores := rfl
@[simp] theorem State.modStage_saved (s : State) (n : Nat) (f : Stage → Stage) : (s.modStage n f).saved = s.saved := rfl
@[simp] theorem State.modStage_clusters (s : State) (n : Nat) (f : Stage → Stage) : (s.modStage n f).clusters = s.clusters := rfl
@[simp] theorem State.modStage_dies (s : State) (n : Nat) (f : Stage → Stage) : (s.modStage n f).dies = s.dies := rfl
@[simp] theorem State.modStage_tasks (s : State) (n : Nat) (f : Stage → Stage) : (s.modStage n f).tasks = s.tasks := rfl
@[simp] theorem State.modStage_contexts (s : State) (n : Nat) (f : Stage → Stage) : (s.modStage n f).contexts = s.contexts := rfl
@[simp] theorem State.modStage_pmem (s : State) (n : Nat) (f : Stage → Stage) : (s.modStage n f).pmem = s.pmem := rfl
@[simp] theorem State.modStage_xs (s : State) (n : Nat) (f : Stage → Stage) : (s.modStage n f).xs = s.xs := rfl
@[simp] theorem State.modStage_poison (s : State) (n : Nat) (f : Stage → Stage) : (s.modStage n f).poison = s.poison := rfl
@[simp] theorem State.modStage_chipPhasers (s : State) (n : Nat) (f : Stage → Stage) : (s.modStage n f).chipPhasers = s.chipPhasers := rfl
@[simp] theorem State.modStage_counters (s : State) (n : Nat) (f : Stage → Stage) : (s.modStage n f).counters = s.counters := rfl
@[simp] theorem State.modStage_scopetab (s : State) (n : Nat) (f : Stage → Stage) : (s.modStage n f).scopetab = s.scopetab := rfl
@[simp] theorem State.modStage_queues (s : State) (n : Nat) (f : Stage → Stage) : (s.modStage n f).queues = s.queues := rfl
@[simp] theorem State.modStage_host (s : State) (n : Nat) (f : Stage → Stage) : (s.modStage n f).host = s.host := rfl
@[simp] theorem State.modStage_link (s : State) (n : Nat) (f : Stage → Stage) : (s.modStage n f).link = s.link := rfl
@[simp] theorem State.modStage_hwcfg (s : State) (n : Nat) (f : Stage → Stage) : (s.modStage n f).hwcfg = s.hwcfg := rfl
@[simp] theorem State.modStage_record (s : State) (n : Nat) (f : Stage → Stage) : (s.modStage n f).record = s.record := rfl
@[simp] theorem State.modStage_chipNo (s : State) (n : Nat) (f : Stage → Stage) : (s.modStage n f).chipNo = s.chipNo := rfl
@[simp] theorem State.modStage_bankClock (s : State) (n : Nat) (f : Stage → Stage) : (s.modStage n f).bankClock = s.bankClock := rfl
@[simp] theorem State.modStage_recovery (s : State) (n : Nat) (f : Stage → Stage) : (s.modStage n f).recovery = s.recovery := rfl
@[simp] theorem State.modStage_viral (s : State) (n : Nat) (f : Stage → Stage) : (s.modStage n f).viral = s.viral := rfl
@[simp] theorem State.modStage_tripped (s : State) (n : Nat) (f : Stage → Stage) : (s.modStage n f).tripped = s.tripped := rfl
@[simp] theorem State.modStage_resetStep (s : State) (n : Nat) (f : Stage → Stage) : (s.modStage n f).resetStep = s.resetStep := rfl
@[simp] theorem State.modStage_stuck (s : State) (n : Nat) (f : Stage → Stage) : (s.modStage n f).stuck = s.stuck := rfl
@[simp] theorem State.modStage_channelsLost (s : State) (n : Nat) (f : Stage → Stage) : (s.modStage n f).channelsLost = s.channelsLost := rfl
@[simp] theorem State.modStage_rebuilds (s : State) (n : Nat) (f : Stage → Stage) : (s.modStage n f).rebuilds = s.rebuilds := rfl
@[simp] theorem State.modStage_cycle (s : State) (n : Nat) (f : Stage → Stage) : (s.modStage n f).cycle = s.cycle := rfl
@[simp] theorem State.modStage_turn (s : State) (n : Nat) (f : Stage → Stage) : (s.modStage n f).turn = s.turn := rfl
@[simp] theorem State.modStage_late (s : State) (n : Nat) (f : Stage → Stage) : (s.modStage n f).late = s.late := rfl
@[simp] theorem State.modStage_closing (s : State) (n : Nat) (f : Stage → Stage) : (s.modStage n f).closing = s.closing := rfl
@[simp] theorem State.modStage_pending (s : State) (n : Nat) (f : Stage → Stage) : (s.modStage n f).pending = s.pending := rfl
@[simp] theorem State.modStage_inputs (s : State) (n : Nat) (f : Stage → Stage) : (s.modStage n f).inputs = s.inputs := rfl
@[simp] theorem State.modStage_errors (s : State) (n : Nat) (f : Stage → Stage) : (s.modStage n f).errors = s.errors := rfl
@[simp] theorem State.modStage_peers (s : State) (n : Nat) (f : Stage → Stage) : (s.modStage n f).peers = s.peers := rfl
@[simp] theorem State.modStage_free (s : State) (n : Nat) (f : Stage → Stage) : (s.modStage n f).free = s.free := rfl
@[simp] theorem State.modStage_nextId (s : State) (n : Nat) (f : Stage → Stage) : (s.modStage n f).nextId = s.nextId := rfl
@[simp] theorem State.setTask_cores (s : State) (t : Nat) (k : Task) : (s.setTask t k).cores = s.cores := rfl
@[simp] theorem State.setTask_saved (s : State) (t : Nat) (k : Task) : (s.setTask t k).saved = s.saved := rfl
@[simp] theorem State.setTask_clusters (s : State) (t : Nat) (k : Task) : (s.setTask t k).clusters = s.clusters := rfl
@[simp] theorem State.setTask_dies (s : State) (t : Nat) (k : Task) : (s.setTask t k).dies = s.dies := rfl
@[simp] theorem State.setTask_stages (s : State) (t : Nat) (k : Task) : (s.setTask t k).stages = s.stages := rfl
@[simp] theorem State.setTask_contexts (s : State) (t : Nat) (k : Task) : (s.setTask t k).contexts = s.contexts := rfl
@[simp] theorem State.setTask_pmem (s : State) (t : Nat) (k : Task) : (s.setTask t k).pmem = s.pmem := rfl
@[simp] theorem State.setTask_xs (s : State) (t : Nat) (k : Task) : (s.setTask t k).xs = s.xs := rfl
@[simp] theorem State.setTask_poison (s : State) (t : Nat) (k : Task) : (s.setTask t k).poison = s.poison := rfl
@[simp] theorem State.setTask_chipPhasers (s : State) (t : Nat) (k : Task) : (s.setTask t k).chipPhasers = s.chipPhasers := rfl
@[simp] theorem State.setTask_counters (s : State) (t : Nat) (k : Task) : (s.setTask t k).counters = s.counters := rfl
@[simp] theorem State.setTask_scopetab (s : State) (t : Nat) (k : Task) : (s.setTask t k).scopetab = s.scopetab := rfl
@[simp] theorem State.setTask_queues (s : State) (t : Nat) (k : Task) : (s.setTask t k).queues = s.queues := rfl
@[simp] theorem State.setTask_host (s : State) (t : Nat) (k : Task) : (s.setTask t k).host = s.host := rfl
@[simp] theorem State.setTask_link (s : State) (t : Nat) (k : Task) : (s.setTask t k).link = s.link := rfl
@[simp] theorem State.setTask_hwcfg (s : State) (t : Nat) (k : Task) : (s.setTask t k).hwcfg = s.hwcfg := rfl
@[simp] theorem State.setTask_record (s : State) (t : Nat) (k : Task) : (s.setTask t k).record = s.record := rfl
@[simp] theorem State.setTask_chipNo (s : State) (t : Nat) (k : Task) : (s.setTask t k).chipNo = s.chipNo := rfl
@[simp] theorem State.setTask_bankClock (s : State) (t : Nat) (k : Task) : (s.setTask t k).bankClock = s.bankClock := rfl
@[simp] theorem State.setTask_recovery (s : State) (t : Nat) (k : Task) : (s.setTask t k).recovery = s.recovery := rfl
@[simp] theorem State.setTask_viral (s : State) (t : Nat) (k : Task) : (s.setTask t k).viral = s.viral := rfl
@[simp] theorem State.setTask_tripped (s : State) (t : Nat) (k : Task) : (s.setTask t k).tripped = s.tripped := rfl
@[simp] theorem State.setTask_resetStep (s : State) (t : Nat) (k : Task) : (s.setTask t k).resetStep = s.resetStep := rfl
@[simp] theorem State.setTask_stuck (s : State) (t : Nat) (k : Task) : (s.setTask t k).stuck = s.stuck := rfl
@[simp] theorem State.setTask_channelsLost (s : State) (t : Nat) (k : Task) : (s.setTask t k).channelsLost = s.channelsLost := rfl
@[simp] theorem State.setTask_rebuilds (s : State) (t : Nat) (k : Task) : (s.setTask t k).rebuilds = s.rebuilds := rfl
@[simp] theorem State.setTask_cycle (s : State) (t : Nat) (k : Task) : (s.setTask t k).cycle = s.cycle := rfl
@[simp] theorem State.setTask_turn (s : State) (t : Nat) (k : Task) : (s.setTask t k).turn = s.turn := rfl
@[simp] theorem State.setTask_late (s : State) (t : Nat) (k : Task) : (s.setTask t k).late = s.late := rfl
@[simp] theorem State.setTask_closing (s : State) (t : Nat) (k : Task) : (s.setTask t k).closing = s.closing := rfl
@[simp] theorem State.setTask_pending (s : State) (t : Nat) (k : Task) : (s.setTask t k).pending = s.pending := rfl
@[simp] theorem State.setTask_inputs (s : State) (t : Nat) (k : Task) : (s.setTask t k).inputs = s.inputs := rfl
@[simp] theorem State.setTask_errors (s : State) (t : Nat) (k : Task) : (s.setTask t k).errors = s.errors := rfl
@[simp] theorem State.setTask_peers (s : State) (t : Nat) (k : Task) : (s.setTask t k).peers = s.peers := rfl
@[simp] theorem State.setTask_free (s : State) (t : Nat) (k : Task) : (s.setTask t k).free = s.free := rfl
@[simp] theorem State.setTask_nextId (s : State) (t : Nat) (k : Task) : (s.setTask t k).nextId = s.nextId := rfl
@[simp] theorem State.modCtx_cores (s : State) (p : Nat) (f : Context → Context) : (s.modCtx p f).cores = s.cores := rfl
@[simp] theorem State.modCtx_saved (s : State) (p : Nat) (f : Context → Context) : (s.modCtx p f).saved = s.saved := rfl
@[simp] theorem State.modCtx_clusters (s : State) (p : Nat) (f : Context → Context) : (s.modCtx p f).clusters = s.clusters := rfl
@[simp] theorem State.modCtx_dies (s : State) (p : Nat) (f : Context → Context) : (s.modCtx p f).dies = s.dies := rfl
@[simp] theorem State.modCtx_stages (s : State) (p : Nat) (f : Context → Context) : (s.modCtx p f).stages = s.stages := rfl
@[simp] theorem State.modCtx_tasks (s : State) (p : Nat) (f : Context → Context) : (s.modCtx p f).tasks = s.tasks := rfl
@[simp] theorem State.modCtx_pmem (s : State) (p : Nat) (f : Context → Context) : (s.modCtx p f).pmem = s.pmem := rfl
@[simp] theorem State.modCtx_xs (s : State) (p : Nat) (f : Context → Context) : (s.modCtx p f).xs = s.xs := rfl
@[simp] theorem State.modCtx_poison (s : State) (p : Nat) (f : Context → Context) : (s.modCtx p f).poison = s.poison := rfl
@[simp] theorem State.modCtx_chipPhasers (s : State) (p : Nat) (f : Context → Context) : (s.modCtx p f).chipPhasers = s.chipPhasers := rfl
@[simp] theorem State.modCtx_counters (s : State) (p : Nat) (f : Context → Context) : (s.modCtx p f).counters = s.counters := rfl
@[simp] theorem State.modCtx_scopetab (s : State) (p : Nat) (f : Context → Context) : (s.modCtx p f).scopetab = s.scopetab := rfl
@[simp] theorem State.modCtx_queues (s : State) (p : Nat) (f : Context → Context) : (s.modCtx p f).queues = s.queues := rfl
@[simp] theorem State.modCtx_host (s : State) (p : Nat) (f : Context → Context) : (s.modCtx p f).host = s.host := rfl
@[simp] theorem State.modCtx_link (s : State) (p : Nat) (f : Context → Context) : (s.modCtx p f).link = s.link := rfl
@[simp] theorem State.modCtx_hwcfg (s : State) (p : Nat) (f : Context → Context) : (s.modCtx p f).hwcfg = s.hwcfg := rfl
@[simp] theorem State.modCtx_record (s : State) (p : Nat) (f : Context → Context) : (s.modCtx p f).record = s.record := rfl
@[simp] theorem State.modCtx_chipNo (s : State) (p : Nat) (f : Context → Context) : (s.modCtx p f).chipNo = s.chipNo := rfl
@[simp] theorem State.modCtx_bankClock (s : State) (p : Nat) (f : Context → Context) : (s.modCtx p f).bankClock = s.bankClock := rfl
@[simp] theorem State.modCtx_recovery (s : State) (p : Nat) (f : Context → Context) : (s.modCtx p f).recovery = s.recovery := rfl
@[simp] theorem State.modCtx_viral (s : State) (p : Nat) (f : Context → Context) : (s.modCtx p f).viral = s.viral := rfl
@[simp] theorem State.modCtx_tripped (s : State) (p : Nat) (f : Context → Context) : (s.modCtx p f).tripped = s.tripped := rfl
@[simp] theorem State.modCtx_resetStep (s : State) (p : Nat) (f : Context → Context) : (s.modCtx p f).resetStep = s.resetStep := rfl
@[simp] theorem State.modCtx_stuck (s : State) (p : Nat) (f : Context → Context) : (s.modCtx p f).stuck = s.stuck := rfl
@[simp] theorem State.modCtx_channelsLost (s : State) (p : Nat) (f : Context → Context) : (s.modCtx p f).channelsLost = s.channelsLost := rfl
@[simp] theorem State.modCtx_rebuilds (s : State) (p : Nat) (f : Context → Context) : (s.modCtx p f).rebuilds = s.rebuilds := rfl
@[simp] theorem State.modCtx_cycle (s : State) (p : Nat) (f : Context → Context) : (s.modCtx p f).cycle = s.cycle := rfl
@[simp] theorem State.modCtx_turn (s : State) (p : Nat) (f : Context → Context) : (s.modCtx p f).turn = s.turn := rfl
@[simp] theorem State.modCtx_late (s : State) (p : Nat) (f : Context → Context) : (s.modCtx p f).late = s.late := rfl
@[simp] theorem State.modCtx_closing (s : State) (p : Nat) (f : Context → Context) : (s.modCtx p f).closing = s.closing := rfl
@[simp] theorem State.modCtx_pending (s : State) (p : Nat) (f : Context → Context) : (s.modCtx p f).pending = s.pending := rfl
@[simp] theorem State.modCtx_inputs (s : State) (p : Nat) (f : Context → Context) : (s.modCtx p f).inputs = s.inputs := rfl
@[simp] theorem State.modCtx_errors (s : State) (p : Nat) (f : Context → Context) : (s.modCtx p f).errors = s.errors := rfl
@[simp] theorem State.modCtx_peers (s : State) (p : Nat) (f : Context → Context) : (s.modCtx p f).peers = s.peers := rfl
@[simp] theorem State.modCtx_free (s : State) (p : Nat) (f : Context → Context) : (s.modCtx p f).free = s.free := rfl
@[simp] theorem State.modCtx_nextId (s : State) (p : Nat) (f : Context → Context) : (s.modCtx p f).nextId = s.nextId := rfl
@[simp] theorem State.modHost_cores (s : State) (f : HostSide → HostSide) : (s.modHost f).cores = s.cores := rfl
@[simp] theorem State.modHost_saved (s : State) (f : HostSide → HostSide) : (s.modHost f).saved = s.saved := rfl
@[simp] theorem State.modHost_clusters (s : State) (f : HostSide → HostSide) : (s.modHost f).clusters = s.clusters := rfl
@[simp] theorem State.modHost_dies (s : State) (f : HostSide → HostSide) : (s.modHost f).dies = s.dies := rfl
@[simp] theorem State.modHost_stages (s : State) (f : HostSide → HostSide) : (s.modHost f).stages = s.stages := rfl
@[simp] theorem State.modHost_tasks (s : State) (f : HostSide → HostSide) : (s.modHost f).tasks = s.tasks := rfl
@[simp] theorem State.modHost_contexts (s : State) (f : HostSide → HostSide) : (s.modHost f).contexts = s.contexts := rfl
@[simp] theorem State.modHost_pmem (s : State) (f : HostSide → HostSide) : (s.modHost f).pmem = s.pmem := rfl
@[simp] theorem State.modHost_xs (s : State) (f : HostSide → HostSide) : (s.modHost f).xs = s.xs := rfl
@[simp] theorem State.modHost_poison (s : State) (f : HostSide → HostSide) : (s.modHost f).poison = s.poison := rfl
@[simp] theorem State.modHost_chipPhasers (s : State) (f : HostSide → HostSide) : (s.modHost f).chipPhasers = s.chipPhasers := rfl
@[simp] theorem State.modHost_counters (s : State) (f : HostSide → HostSide) : (s.modHost f).counters = s.counters := rfl
@[simp] theorem State.modHost_scopetab (s : State) (f : HostSide → HostSide) : (s.modHost f).scopetab = s.scopetab := rfl
@[simp] theorem State.modHost_queues (s : State) (f : HostSide → HostSide) : (s.modHost f).queues = s.queues := rfl
@[simp] theorem State.modHost_link (s : State) (f : HostSide → HostSide) : (s.modHost f).link = s.link := rfl
@[simp] theorem State.modHost_hwcfg (s : State) (f : HostSide → HostSide) : (s.modHost f).hwcfg = s.hwcfg := rfl
@[simp] theorem State.modHost_record (s : State) (f : HostSide → HostSide) : (s.modHost f).record = s.record := rfl
@[simp] theorem State.modHost_chipNo (s : State) (f : HostSide → HostSide) : (s.modHost f).chipNo = s.chipNo := rfl
@[simp] theorem State.modHost_bankClock (s : State) (f : HostSide → HostSide) : (s.modHost f).bankClock = s.bankClock := rfl
@[simp] theorem State.modHost_recovery (s : State) (f : HostSide → HostSide) : (s.modHost f).recovery = s.recovery := rfl
@[simp] theorem State.modHost_viral (s : State) (f : HostSide → HostSide) : (s.modHost f).viral = s.viral := rfl
@[simp] theorem State.modHost_tripped (s : State) (f : HostSide → HostSide) : (s.modHost f).tripped = s.tripped := rfl
@[simp] theorem State.modHost_resetStep (s : State) (f : HostSide → HostSide) : (s.modHost f).resetStep = s.resetStep := rfl
@[simp] theorem State.modHost_stuck (s : State) (f : HostSide → HostSide) : (s.modHost f).stuck = s.stuck := rfl
@[simp] theorem State.modHost_channelsLost (s : State) (f : HostSide → HostSide) : (s.modHost f).channelsLost = s.channelsLost := rfl
@[simp] theorem State.modHost_rebuilds (s : State) (f : HostSide → HostSide) : (s.modHost f).rebuilds = s.rebuilds := rfl
@[simp] theorem State.modHost_cycle (s : State) (f : HostSide → HostSide) : (s.modHost f).cycle = s.cycle := rfl
@[simp] theorem State.modHost_turn (s : State) (f : HostSide → HostSide) : (s.modHost f).turn = s.turn := rfl
@[simp] theorem State.modHost_late (s : State) (f : HostSide → HostSide) : (s.modHost f).late = s.late := rfl
@[simp] theorem State.modHost_closing (s : State) (f : HostSide → HostSide) : (s.modHost f).closing = s.closing := rfl
@[simp] theorem State.modHost_pending (s : State) (f : HostSide → HostSide) : (s.modHost f).pending = s.pending := rfl
@[simp] theorem State.modHost_inputs (s : State) (f : HostSide → HostSide) : (s.modHost f).inputs = s.inputs := rfl
@[simp] theorem State.modHost_errors (s : State) (f : HostSide → HostSide) : (s.modHost f).errors = s.errors := rfl
@[simp] theorem State.modHost_peers (s : State) (f : HostSide → HostSide) : (s.modHost f).peers = s.peers := rfl
@[simp] theorem State.modHost_free (s : State) (f : HostSide → HostSide) : (s.modHost f).free = s.free := rfl
@[simp] theorem State.modHost_nextId (s : State) (f : HostSide → HostSide) : (s.modHost f).nextId = s.nextId := rfl
@[simp] theorem State.modLink_cores (s : State) (f : LinkSide → LinkSide) : (s.modLink f).cores = s.cores := rfl
@[simp] theorem State.modLink_saved (s : State) (f : LinkSide → LinkSide) : (s.modLink f).saved = s.saved := rfl
@[simp] theorem State.modLink_clusters (s : State) (f : LinkSide → LinkSide) : (s.modLink f).clusters = s.clusters := rfl
@[simp] theorem State.modLink_dies (s : State) (f : LinkSide → LinkSide) : (s.modLink f).dies = s.dies := rfl
@[simp] theorem State.modLink_stages (s : State) (f : LinkSide → LinkSide) : (s.modLink f).stages = s.stages := rfl
@[simp] theorem State.modLink_tasks (s : State) (f : LinkSide → LinkSide) : (s.modLink f).tasks = s.tasks := rfl
@[simp] theorem State.modLink_contexts (s : State) (f : LinkSide → LinkSide) : (s.modLink f).contexts = s.contexts := rfl
@[simp] theorem State.modLink_pmem (s : State) (f : LinkSide → LinkSide) : (s.modLink f).pmem = s.pmem := rfl
@[simp] theorem State.modLink_xs (s : State) (f : LinkSide → LinkSide) : (s.modLink f).xs = s.xs := rfl
@[simp] theorem State.modLink_poison (s : State) (f : LinkSide → LinkSide) : (s.modLink f).poison = s.poison := rfl
@[simp] theorem State.modLink_chipPhasers (s : State) (f : LinkSide → LinkSide) : (s.modLink f).chipPhasers = s.chipPhasers := rfl
@[simp] theorem State.modLink_counters (s : State) (f : LinkSide → LinkSide) : (s.modLink f).counters = s.counters := rfl
@[simp] theorem State.modLink_scopetab (s : State) (f : LinkSide → LinkSide) : (s.modLink f).scopetab = s.scopetab := rfl
@[simp] theorem State.modLink_queues (s : State) (f : LinkSide → LinkSide) : (s.modLink f).queues = s.queues := rfl
@[simp] theorem State.modLink_host (s : State) (f : LinkSide → LinkSide) : (s.modLink f).host = s.host := rfl
@[simp] theorem State.modLink_hwcfg (s : State) (f : LinkSide → LinkSide) : (s.modLink f).hwcfg = s.hwcfg := rfl
@[simp] theorem State.modLink_record (s : State) (f : LinkSide → LinkSide) : (s.modLink f).record = s.record := rfl
@[simp] theorem State.modLink_chipNo (s : State) (f : LinkSide → LinkSide) : (s.modLink f).chipNo = s.chipNo := rfl
@[simp] theorem State.modLink_bankClock (s : State) (f : LinkSide → LinkSide) : (s.modLink f).bankClock = s.bankClock := rfl
@[simp] theorem State.modLink_recovery (s : State) (f : LinkSide → LinkSide) : (s.modLink f).recovery = s.recovery := rfl
@[simp] theorem State.modLink_viral (s : State) (f : LinkSide → LinkSide) : (s.modLink f).viral = s.viral := rfl
@[simp] theorem State.modLink_tripped (s : State) (f : LinkSide → LinkSide) : (s.modLink f).tripped = s.tripped := rfl
@[simp] theorem State.modLink_resetStep (s : State) (f : LinkSide → LinkSide) : (s.modLink f).resetStep = s.resetStep := rfl
@[simp] theorem State.modLink_stuck (s : State) (f : LinkSide → LinkSide) : (s.modLink f).stuck = s.stuck := rfl
@[simp] theorem State.modLink_channelsLost (s : State) (f : LinkSide → LinkSide) : (s.modLink f).channelsLost = s.channelsLost := rfl
@[simp] theorem State.modLink_rebuilds (s : State) (f : LinkSide → LinkSide) : (s.modLink f).rebuilds = s.rebuilds := rfl
@[simp] theorem State.modLink_cycle (s : State) (f : LinkSide → LinkSide) : (s.modLink f).cycle = s.cycle := rfl
@[simp] theorem State.modLink_turn (s : State) (f : LinkSide → LinkSide) : (s.modLink f).turn = s.turn := rfl
@[simp] theorem State.modLink_late (s : State) (f : LinkSide → LinkSide) : (s.modLink f).late = s.late := rfl
@[simp] theorem State.modLink_closing (s : State) (f : LinkSide → LinkSide) : (s.modLink f).closing = s.closing := rfl
@[simp] theorem State.modLink_pending (s : State) (f : LinkSide → LinkSide) : (s.modLink f).pending = s.pending := rfl
@[simp] theorem State.modLink_inputs (s : State) (f : LinkSide → LinkSide) : (s.modLink f).inputs = s.inputs := rfl
@[simp] theorem State.modLink_errors (s : State) (f : LinkSide → LinkSide) : (s.modLink f).errors = s.errors := rfl
@[simp] theorem State.modLink_peers (s : State) (f : LinkSide → LinkSide) : (s.modLink f).peers = s.peers := rfl
@[simp] theorem State.modLink_free (s : State) (f : LinkSide → LinkSide) : (s.modLink f).free = s.free := rfl
@[simp] theorem State.modLink_nextId (s : State) (f : LinkSide → LinkSide) : (s.modLink f).nextId = s.nextId := rfl
@[simp] theorem State.gains_saved (s : State) (sl : Slot) (n : Nat) (d : Dest) (v m x : Nat) : (s.gains sl n d v m x).saved = s.saved := rfl
@[simp] theorem State.gains_clusters (s : State) (sl : Slot) (n : Nat) (d : Dest) (v m x : Nat) : (s.gains sl n d v m x).clusters = s.clusters := rfl
@[simp] theorem State.gains_dies (s : State) (sl : Slot) (n : Nat) (d : Dest) (v m x : Nat) : (s.gains sl n d v m x).dies = s.dies := rfl
@[simp] theorem State.gains_stages (s : State) (sl : Slot) (n : Nat) (d : Dest) (v m x : Nat) : (s.gains sl n d v m x).stages = s.stages := rfl
@[simp] theorem State.gains_tasks (s : State) (sl : Slot) (n : Nat) (d : Dest) (v m x : Nat) : (s.gains sl n d v m x).tasks = s.tasks := rfl
@[simp] theorem State.gains_contexts (s : State) (sl : Slot) (n : Nat) (d : Dest) (v m x : Nat) : (s.gains sl n d v m x).contexts = s.contexts := rfl
@[simp] theorem State.gains_pmem (s : State) (sl : Slot) (n : Nat) (d : Dest) (v m x : Nat) : (s.gains sl n d v m x).pmem = s.pmem := rfl
@[simp] theorem State.gains_xs (s : State) (sl : Slot) (n : Nat) (d : Dest) (v m x : Nat) : (s.gains sl n d v m x).xs = s.xs := rfl
@[simp] theorem State.gains_poison (s : State) (sl : Slot) (n : Nat) (d : Dest) (v m x : Nat) : (s.gains sl n d v m x).poison = s.poison := rfl
@[simp] theorem State.gains_chipPhasers (s : State) (sl : Slot) (n : Nat) (d : Dest) (v m x : Nat) : (s.gains sl n d v m x).chipPhasers = s.chipPhasers := rfl
@[simp] theorem State.gains_counters (s : State) (sl : Slot) (n : Nat) (d : Dest) (v m x : Nat) : (s.gains sl n d v m x).counters = s.counters := rfl
@[simp] theorem State.gains_scopetab (s : State) (sl : Slot) (n : Nat) (d : Dest) (v m x : Nat) : (s.gains sl n d v m x).scopetab = s.scopetab := rfl
@[simp] theorem State.gains_queues (s : State) (sl : Slot) (n : Nat) (d : Dest) (v m x : Nat) : (s.gains sl n d v m x).queues = s.queues := rfl
@[simp] theorem State.gains_host (s : State) (sl : Slot) (n : Nat) (d : Dest) (v m x : Nat) : (s.gains sl n d v m x).host = s.host := rfl
@[simp] theorem State.gains_link (s : State) (sl : Slot) (n : Nat) (d : Dest) (v m x : Nat) : (s.gains sl n d v m x).link = s.link := rfl
@[simp] theorem State.gains_hwcfg (s : State) (sl : Slot) (n : Nat) (d : Dest) (v m x : Nat) : (s.gains sl n d v m x).hwcfg = s.hwcfg := rfl
@[simp] theorem State.gains_record (s : State) (sl : Slot) (n : Nat) (d : Dest) (v m x : Nat) : (s.gains sl n d v m x).record = s.record := rfl
@[simp] theorem State.gains_chipNo (s : State) (sl : Slot) (n : Nat) (d : Dest) (v m x : Nat) : (s.gains sl n d v m x).chipNo = s.chipNo := rfl
@[simp] theorem State.gains_bankClock (s : State) (sl : Slot) (n : Nat) (d : Dest) (v m x : Nat) : (s.gains sl n d v m x).bankClock = s.bankClock := rfl
@[simp] theorem State.gains_recovery (s : State) (sl : Slot) (n : Nat) (d : Dest) (v m x : Nat) : (s.gains sl n d v m x).recovery = s.recovery := rfl
@[simp] theorem State.gains_viral (s : State) (sl : Slot) (n : Nat) (d : Dest) (v m x : Nat) : (s.gains sl n d v m x).viral = s.viral := rfl
@[simp] theorem State.gains_tripped (s : State) (sl : Slot) (n : Nat) (d : Dest) (v m x : Nat) : (s.gains sl n d v m x).tripped = s.tripped := rfl
@[simp] theorem State.gains_resetStep (s : State) (sl : Slot) (n : Nat) (d : Dest) (v m x : Nat) : (s.gains sl n d v m x).resetStep = s.resetStep := rfl
@[simp] theorem State.gains_stuck (s : State) (sl : Slot) (n : Nat) (d : Dest) (v m x : Nat) : (s.gains sl n d v m x).stuck = s.stuck := rfl
@[simp] theorem State.gains_channelsLost (s : State) (sl : Slot) (n : Nat) (d : Dest) (v m x : Nat) : (s.gains sl n d v m x).channelsLost = s.channelsLost := rfl
@[simp] theorem State.gains_rebuilds (s : State) (sl : Slot) (n : Nat) (d : Dest) (v m x : Nat) : (s.gains sl n d v m x).rebuilds = s.rebuilds := rfl
@[simp] theorem State.gains_cycle (s : State) (sl : Slot) (n : Nat) (d : Dest) (v m x : Nat) : (s.gains sl n d v m x).cycle = s.cycle := rfl
@[simp] theorem State.gains_turn (s : State) (sl : Slot) (n : Nat) (d : Dest) (v m x : Nat) : (s.gains sl n d v m x).turn = s.turn := rfl
@[simp] theorem State.gains_late (s : State) (sl : Slot) (n : Nat) (d : Dest) (v m x : Nat) : (s.gains sl n d v m x).late = s.late := rfl
@[simp] theorem State.gains_closing (s : State) (sl : Slot) (n : Nat) (d : Dest) (v m x : Nat) : (s.gains sl n d v m x).closing = s.closing := rfl
@[simp] theorem State.gains_pending (s : State) (sl : Slot) (n : Nat) (d : Dest) (v m x : Nat) : (s.gains sl n d v m x).pending = s.pending := rfl
@[simp] theorem State.gains_inputs (s : State) (sl : Slot) (n : Nat) (d : Dest) (v m x : Nat) : (s.gains sl n d v m x).inputs = s.inputs := rfl
@[simp] theorem State.gains_errors (s : State) (sl : Slot) (n : Nat) (d : Dest) (v m x : Nat) : (s.gains sl n d v m x).errors = s.errors := rfl
@[simp] theorem State.gains_peers (s : State) (sl : Slot) (n : Nat) (d : Dest) (v m x : Nat) : (s.gains sl n d v m x).peers = s.peers := rfl
@[simp] theorem State.gains_free (s : State) (sl : Slot) (n : Nat) (d : Dest) (v m x : Nat) : (s.gains sl n d v m x).free = s.free := rfl
@[simp] theorem State.gains_nextId (s : State) (sl : Slot) (n : Nat) (d : Dest) (v m x : Nat) : (s.gains sl n d v m x).nextId = s.nextId := rfl
@[simp] theorem State.modTask_cores (s : State) (t : Nat) (f : Task → Task) : (s.modTask t f).cores = s.cores := by
  unfold State.modTask; split <;> rfl
@[simp] theorem State.modTask_saved (s : State) (t : Nat) (f : Task → Task) : (s.modTask t f).saved = s.saved := by
  unfold State.modTask; split <;> rfl
@[simp] theorem State.modTask_clusters (s : State) (t : Nat) (f : Task → Task) : (s.modTask t f).clusters = s.clusters := by
  unfold State.modTask; split <;> rfl
@[simp] theorem State.modTask_dies (s : State) (t : Nat) (f : Task → Task) : (s.modTask t f).dies = s.dies := by
  unfold State.modTask; split <;> rfl
@[simp] theorem State.modTask_stages (s : State) (t : Nat) (f : Task → Task) : (s.modTask t f).stages = s.stages := by
  unfold State.modTask; split <;> rfl
@[simp] theorem State.modTask_contexts (s : State) (t : Nat) (f : Task → Task) : (s.modTask t f).contexts = s.contexts := by
  unfold State.modTask; split <;> rfl
@[simp] theorem State.modTask_pmem (s : State) (t : Nat) (f : Task → Task) : (s.modTask t f).pmem = s.pmem := by
  unfold State.modTask; split <;> rfl
@[simp] theorem State.modTask_xs (s : State) (t : Nat) (f : Task → Task) : (s.modTask t f).xs = s.xs := by
  unfold State.modTask; split <;> rfl
@[simp] theorem State.modTask_poison (s : State) (t : Nat) (f : Task → Task) : (s.modTask t f).poison = s.poison := by
  unfold State.modTask; split <;> rfl
@[simp] theorem State.modTask_chipPhasers (s : State) (t : Nat) (f : Task → Task) : (s.modTask t f).chipPhasers = s.chipPhasers := by
  unfold State.modTask; split <;> rfl
@[simp] theorem State.modTask_counters (s : State) (t : Nat) (f : Task → Task) : (s.modTask t f).counters = s.counters := by
  unfold State.modTask; split <;> rfl
@[simp] theorem State.modTask_scopetab (s : State) (t : Nat) (f : Task → Task) : (s.modTask t f).scopetab = s.scopetab := by
  unfold State.modTask; split <;> rfl
@[simp] theorem State.modTask_queues (s : State) (t : Nat) (f : Task → Task) : (s.modTask t f).queues = s.queues := by
  unfold State.modTask; split <;> rfl
@[simp] theorem State.modTask_host (s : State) (t : Nat) (f : Task → Task) : (s.modTask t f).host = s.host := by
  unfold State.modTask; split <;> rfl
@[simp] theorem State.modTask_link (s : State) (t : Nat) (f : Task → Task) : (s.modTask t f).link = s.link := by
  unfold State.modTask; split <;> rfl
@[simp] theorem State.modTask_hwcfg (s : State) (t : Nat) (f : Task → Task) : (s.modTask t f).hwcfg = s.hwcfg := by
  unfold State.modTask; split <;> rfl
@[simp] theorem State.modTask_record (s : State) (t : Nat) (f : Task → Task) : (s.modTask t f).record = s.record := by
  unfold State.modTask; split <;> rfl
@[simp] theorem State.modTask_chipNo (s : State) (t : Nat) (f : Task → Task) : (s.modTask t f).chipNo = s.chipNo := by
  unfold State.modTask; split <;> rfl
@[simp] theorem State.modTask_bankClock (s : State) (t : Nat) (f : Task → Task) : (s.modTask t f).bankClock = s.bankClock := by
  unfold State.modTask; split <;> rfl
@[simp] theorem State.modTask_recovery (s : State) (t : Nat) (f : Task → Task) : (s.modTask t f).recovery = s.recovery := by
  unfold State.modTask; split <;> rfl
@[simp] theorem State.modTask_viral (s : State) (t : Nat) (f : Task → Task) : (s.modTask t f).viral = s.viral := by
  unfold State.modTask; split <;> rfl
@[simp] theorem State.modTask_tripped (s : State) (t : Nat) (f : Task → Task) : (s.modTask t f).tripped = s.tripped := by
  unfold State.modTask; split <;> rfl
@[simp] theorem State.modTask_resetStep (s : State) (t : Nat) (f : Task → Task) : (s.modTask t f).resetStep = s.resetStep := by
  unfold State.modTask; split <;> rfl
@[simp] theorem State.modTask_stuck (s : State) (t : Nat) (f : Task → Task) : (s.modTask t f).stuck = s.stuck := by
  unfold State.modTask; split <;> rfl
@[simp] theorem State.modTask_channelsLost (s : State) (t : Nat) (f : Task → Task) : (s.modTask t f).channelsLost = s.channelsLost := by
  unfold State.modTask; split <;> rfl
@[simp] theorem State.modTask_rebuilds (s : State) (t : Nat) (f : Task → Task) : (s.modTask t f).rebuilds = s.rebuilds := by
  unfold State.modTask; split <;> rfl
@[simp] theorem State.modTask_cycle (s : State) (t : Nat) (f : Task → Task) : (s.modTask t f).cycle = s.cycle := by
  unfold State.modTask; split <;> rfl
@[simp] theorem State.modTask_turn (s : State) (t : Nat) (f : Task → Task) : (s.modTask t f).turn = s.turn := by
  unfold State.modTask; split <;> rfl
@[simp] theorem State.modTask_late (s : State) (t : Nat) (f : Task → Task) : (s.modTask t f).late = s.late := by
  unfold State.modTask; split <;> rfl
@[simp] theorem State.modTask_closing (s : State) (t : Nat) (f : Task → Task) : (s.modTask t f).closing = s.closing := by
  unfold State.modTask; split <;> rfl
@[simp] theorem State.modTask_pending (s : State) (t : Nat) (f : Task → Task) : (s.modTask t f).pending = s.pending := by
  unfold State.modTask; split <;> rfl
@[simp] theorem State.modTask_inputs (s : State) (t : Nat) (f : Task → Task) : (s.modTask t f).inputs = s.inputs := by
  unfold State.modTask; split <;> rfl
@[simp] theorem State.modTask_errors (s : State) (t : Nat) (f : Task → Task) : (s.modTask t f).errors = s.errors := by
  unfold State.modTask; split <;> rfl
@[simp] theorem State.modTask_peers (s : State) (t : Nat) (f : Task → Task) : (s.modTask t f).peers = s.peers := by
  unfold State.modTask; split <;> rfl
@[simp] theorem State.modTask_free (s : State) (t : Nat) (f : Task → Task) : (s.modTask t f).free = s.free := by
  unfold State.modTask; split <;> rfl
@[simp] theorem State.modTask_nextId (s : State) (t : Nat) (f : Task → Task) : (s.modTask t f).nextId = s.nextId := by
  unfold State.modTask; split <;> rfl
@[simp] theorem Core.modRegs_regs (k : Core) (f : Regs → Regs) : (k.modRegs f).regs = f k.regs := rfl
@[simp] theorem Core.modRegs_seq (k : Core) (f : Regs → Regs) : (k.modRegs f).seq = k.seq := rfl
@[simp] theorem Core.modRegs_ys (k : Core) (f : Regs → Regs) : (k.modRegs f).ys = k.ys := rfl
@[simp] theorem Core.modRegs_arr (k : Core) (f : Regs → Regs) : (k.modRegs f).arr = k.arr := rfl
@[simp] theorem Core.modRegs_rcv (k : Core) (f : Regs → Regs) : (k.modRegs f).rcv = k.rcv := rfl
@[simp] theorem Core.modRegs_eng (k : Core) (f : Regs → Regs) : (k.modRegs f).eng = k.eng := rfl
@[simp] theorem Core.modRegs_sp (k : Core) (f : Regs → Regs) : (k.modRegs f).sp = k.sp := rfl
@[simp] theorem Core.modRegs_ls (k : Core) (f : Regs → Regs) : (k.modRegs f).ls = k.ls := rfl
@[simp] theorem Core.modRegs_task (k : Core) (f : Regs → Regs) : (k.modRegs f).task = k.task := rfl
@[simp] theorem Core.modRegs_rank (k : Core) (f : Regs → Regs) : (k.modRegs f).rank = k.rank := rfl
@[simp] theorem Core.modRegs_retired (k : Core) (f : Regs → Regs) : (k.modRegs f).retired = k.retired := rfl
@[simp] theorem Core.modRegs_resident (k : Core) (f : Regs → Regs) : (k.modRegs f).resident = k.resident := rfl
@[simp] theorem Core.modRegs_copying (k : Core) (f : Regs → Regs) : (k.modRegs f).copying = k.copying := rfl
@[simp] theorem Core.modRegs_pins (k : Core) (f : Regs → Regs) : (k.modRegs f).pins = k.pins := rfl
@[simp] theorem Core.modSeq_regs (k : Core) (f : Seq → Seq) : (k.modSeq f).regs = k.regs := rfl
@[simp] theorem Core.modSeq_seq (k : Core) (f : Seq → Seq) : (k.modSeq f).seq = f k.seq := rfl
@[simp] theorem Core.modSeq_ys (k : Core) (f : Seq → Seq) : (k.modSeq f).ys = k.ys := rfl
@[simp] theorem Core.modSeq_arr (k : Core) (f : Seq → Seq) : (k.modSeq f).arr = k.arr := rfl
@[simp] theorem Core.modSeq_rcv (k : Core) (f : Seq → Seq) : (k.modSeq f).rcv = k.rcv := rfl
@[simp] theorem Core.modSeq_eng (k : Core) (f : Seq → Seq) : (k.modSeq f).eng = k.eng := rfl
@[simp] theorem Core.modSeq_sp (k : Core) (f : Seq → Seq) : (k.modSeq f).sp = k.sp := rfl
@[simp] theorem Core.modSeq_ls (k : Core) (f : Seq → Seq) : (k.modSeq f).ls = k.ls := rfl
@[simp] theorem Core.modSeq_task (k : Core) (f : Seq → Seq) : (k.modSeq f).task = k.task := rfl
@[simp] theorem Core.modSeq_rank (k : Core) (f : Seq → Seq) : (k.modSeq f).rank = k.rank := rfl
@[simp] theorem Core.modSeq_retired (k : Core) (f : Seq → Seq) : (k.modSeq f).retired = k.retired := rfl
@[simp] theorem Core.modSeq_resident (k : Core) (f : Seq → Seq) : (k.modSeq f).resident = k.resident := rfl
@[simp] theorem Core.modSeq_copying (k : Core) (f : Seq → Seq) : (k.modSeq f).copying = k.copying := rfl
@[simp] theorem Core.modSeq_pins (k : Core) (f : Seq → Seq) : (k.modSeq f).pins = k.pins := rfl
@[simp] theorem Core.modYs_regs (k : Core) (f : YState → YState) : (k.modYs f).regs = k.regs := rfl
@[simp] theorem Core.modYs_seq (k : Core) (f : YState → YState) : (k.modYs f).seq = k.seq := rfl
@[simp] theorem Core.modYs_ys (k : Core) (f : YState → YState) : (k.modYs f).ys = f k.ys := rfl
@[simp] theorem Core.modYs_arr (k : Core) (f : YState → YState) : (k.modYs f).arr = k.arr := rfl
@[simp] theorem Core.modYs_rcv (k : Core) (f : YState → YState) : (k.modYs f).rcv = k.rcv := rfl
@[simp] theorem Core.modYs_eng (k : Core) (f : YState → YState) : (k.modYs f).eng = k.eng := rfl
@[simp] theorem Core.modYs_sp (k : Core) (f : YState → YState) : (k.modYs f).sp = k.sp := rfl
@[simp] theorem Core.modYs_ls (k : Core) (f : YState → YState) : (k.modYs f).ls = k.ls := rfl
@[simp] theorem Core.modYs_task (k : Core) (f : YState → YState) : (k.modYs f).task = k.task := rfl
@[simp] theorem Core.modYs_rank (k : Core) (f : YState → YState) : (k.modYs f).rank = k.rank := rfl
@[simp] theorem Core.modYs_retired (k : Core) (f : YState → YState) : (k.modYs f).retired = k.retired := rfl
@[simp] theorem Core.modYs_resident (k : Core) (f : YState → YState) : (k.modYs f).resident = k.resident := rfl
@[simp] theorem Core.modYs_copying (k : Core) (f : YState → YState) : (k.modYs f).copying = k.copying := rfl
@[simp] theorem Core.modYs_pins (k : Core) (f : YState → YState) : (k.modYs f).pins = k.pins := rfl
@[simp] theorem Core.modArr_regs (k : Core) (f : ArrayState → ArrayState) : (k.modArr f).regs = k.regs := rfl
@[simp] theorem Core.modArr_seq (k : Core) (f : ArrayState → ArrayState) : (k.modArr f).seq = k.seq := rfl
@[simp] theorem Core.modArr_ys (k : Core) (f : ArrayState → ArrayState) : (k.modArr f).ys = k.ys := rfl
@[simp] theorem Core.modArr_arr (k : Core) (f : ArrayState → ArrayState) : (k.modArr f).arr = f k.arr := rfl
@[simp] theorem Core.modArr_rcv (k : Core) (f : ArrayState → ArrayState) : (k.modArr f).rcv = k.rcv := rfl
@[simp] theorem Core.modArr_eng (k : Core) (f : ArrayState → ArrayState) : (k.modArr f).eng = k.eng := rfl
@[simp] theorem Core.modArr_sp (k : Core) (f : ArrayState → ArrayState) : (k.modArr f).sp = k.sp := rfl
@[simp] theorem Core.modArr_ls (k : Core) (f : ArrayState → ArrayState) : (k.modArr f).ls = k.ls := rfl
@[simp] theorem Core.modArr_task (k : Core) (f : ArrayState → ArrayState) : (k.modArr f).task = k.task := rfl
@[simp] theorem Core.modArr_rank (k : Core) (f : ArrayState → ArrayState) : (k.modArr f).rank = k.rank := rfl
@[simp] theorem Core.modArr_retired (k : Core) (f : ArrayState → ArrayState) : (k.modArr f).retired = k.retired := rfl
@[simp] theorem Core.modArr_resident (k : Core) (f : ArrayState → ArrayState) : (k.modArr f).resident = k.resident := rfl
@[simp] theorem Core.modArr_copying (k : Core) (f : ArrayState → ArrayState) : (k.modArr f).copying = k.copying := rfl
@[simp] theorem Core.modArr_pins (k : Core) (f : ArrayState → ArrayState) : (k.modArr f).pins = k.pins := rfl
@[simp] theorem Core.modRcv_regs (k : Core) (f : Recovery → Recovery) : (k.modRcv f).regs = k.regs := rfl
@[simp] theorem Core.modRcv_seq (k : Core) (f : Recovery → Recovery) : (k.modRcv f).seq = k.seq := rfl
@[simp] theorem Core.modRcv_ys (k : Core) (f : Recovery → Recovery) : (k.modRcv f).ys = k.ys := rfl
@[simp] theorem Core.modRcv_arr (k : Core) (f : Recovery → Recovery) : (k.modRcv f).arr = k.arr := rfl
@[simp] theorem Core.modRcv_rcv (k : Core) (f : Recovery → Recovery) : (k.modRcv f).rcv = f k.rcv := rfl
@[simp] theorem Core.modRcv_eng (k : Core) (f : Recovery → Recovery) : (k.modRcv f).eng = k.eng := rfl
@[simp] theorem Core.modRcv_sp (k : Core) (f : Recovery → Recovery) : (k.modRcv f).sp = k.sp := rfl
@[simp] theorem Core.modRcv_ls (k : Core) (f : Recovery → Recovery) : (k.modRcv f).ls = k.ls := rfl
@[simp] theorem Core.modRcv_task (k : Core) (f : Recovery → Recovery) : (k.modRcv f).task = k.task := rfl
@[simp] theorem Core.modRcv_rank (k : Core) (f : Recovery → Recovery) : (k.modRcv f).rank = k.rank := rfl
@[simp] theorem Core.modRcv_retired (k : Core) (f : Recovery → Recovery) : (k.modRcv f).retired = k.retired := rfl
@[simp] theorem Core.modRcv_resident (k : Core) (f : Recovery → Recovery) : (k.modRcv f).resident = k.resident := rfl
@[simp] theorem Core.modRcv_copying (k : Core) (f : Recovery → Recovery) : (k.modRcv f).copying = k.copying := rfl
@[simp] theorem Core.modRcv_pins (k : Core) (f : Recovery → Recovery) : (k.modRcv f).pins = k.pins := rfl
@[simp] theorem Core.modEng_regs (k : Core) (f : Engines → Engines) : (k.modEng f).regs = k.regs := rfl
@[simp] theorem Core.modEng_seq (k : Core) (f : Engines → Engines) : (k.modEng f).seq = k.seq := rfl
@[simp] theorem Core.modEng_ys (k : Core) (f : Engines → Engines) : (k.modEng f).ys = k.ys := rfl
@[simp] theorem Core.modEng_arr (k : Core) (f : Engines → Engines) : (k.modEng f).arr = k.arr := rfl
@[simp] theorem Core.modEng_rcv (k : Core) (f : Engines → Engines) : (k.modEng f).rcv = k.rcv := rfl
@[simp] theorem Core.modEng_eng (k : Core) (f : Engines → Engines) : (k.modEng f).eng = f k.eng := rfl
@[simp] theorem Core.modEng_sp (k : Core) (f : Engines → Engines) : (k.modEng f).sp = k.sp := rfl
@[simp] theorem Core.modEng_ls (k : Core) (f : Engines → Engines) : (k.modEng f).ls = k.ls := rfl
@[simp] theorem Core.modEng_task (k : Core) (f : Engines → Engines) : (k.modEng f).task = k.task := rfl
@[simp] theorem Core.modEng_rank (k : Core) (f : Engines → Engines) : (k.modEng f).rank = k.rank := rfl
@[simp] theorem Core.modEng_retired (k : Core) (f : Engines → Engines) : (k.modEng f).retired = k.retired := rfl
@[simp] theorem Core.modEng_resident (k : Core) (f : Engines → Engines) : (k.modEng f).resident = k.resident := rfl
@[simp] theorem Core.modEng_copying (k : Core) (f : Engines → Engines) : (k.modEng f).copying = k.copying := rfl
@[simp] theorem Core.modEng_pins (k : Core) (f : Engines → Engines) : (k.modEng f).pins = k.pins := rfl

end Sys2Proof.Machine
end

