-- ==== Sys2Proof/Certificates/Slice0/Obligations.lean ====
section
/-!
DEFINITION. The statements for the provers, family by family; every one is about the model of this package.
-/
namespace Sys2Proof
open Sys2Proof.Machine


/-! ### Guards, landing and control (spec/02, spec/13) -/

/-- The copy of an overlay that a core asks for: in every core of its team, ending 24 cycles and one cycle a line later
(R285, R345); an overlay that the core has or is copying needs none. -/
def asksFor (s t : State) (o : Nat) : Prop :=
  ∀ (k : Nat) (x : Overlay), s.cur.task = some k → Table.get? (s.progOf s.turn).overlays o = some x → o ≠ 0 →
    (o ∈ s.cur.resident ∨ (∃ e ∈ s.cur.copying, e.1 = o) → t = s) ∧
    (o ∉ s.cur.resident → (∀ e ∈ s.cur.copying, e.1 ≠ o) →
      ∀ c ∈ s.coresOf k, (o, s.cycle + 24 + x.lines) ∈ (t.core c).copying ∧ (t.core c).resident = (s.core c).resident)

/-! ### Bundle marks and the fault log (spec/02, spec/18, spec/19) -/

/-- The drift of a marker as its record holds it: saturated to 2^25 - 1 either way, in two's complement of 26 bits. -/
def driftField (d : Int) : Nat := ((max (-(2 ^ 25 - 1)) (min (2 ^ 25 - 1) d)) % 2 ^ 26).toNat

/-! ### Vector chains (spec/05) -/

/-- The 32-bit result of one lane of unit one on integers (R101). -/
def laneOne (o : Op1) (a b : Nat) : Nat :=
  match o with
  | .and => a &&& b | .or => a ||| b | .xor => a ^^^ b | .imul => a * b % 2 ^ 32 | _ => a

/-- The 32-bit result of one lane of unit two on integers (R104). -/
def laneTwo (o : Op2) (t c : Nat) : Nat :=
  match o with
  | .iadd => (t + c) % 2 ^ 32 | .isub => (t + 2 ^ 32 - c) % 2 ^ 32
  | .iminu => min t c | .imaxu => max t c | _ => t

/-- One lane of unit three on `i32` (R91, R106): an amount of 32 or more shifts every bit out, and a rotate counts modulo 32. -/
def laneThree (o : Op3) (t : Word32) (n : Nat) : Nat :=
  match o with
  | .shl => if 32 ≤ n then 0 else t.toNat * 2 ^ n % 2 ^ 32
  | .shr => if 32 ≤ n then 0 else t.toNat / 2 ^ n
  | .sar => (BitVec.ofInt 32 (t.toInt / 2 ^ (min n 32))).toNat
  | .rot => t.toNat * 2 ^ (n % 32) % 2 ^ 32 + t.toNat * 2 ^ (n % 32) / 2 ^ 32
  | .popc => ((List.range 32).filter fun i => t.getLsbD i).length
  | .relu => if t.toInt < 0 then 0 else t.toNat
  | _ => t.toNat

/-! ### The matrix array and its scale registers (spec/06, spec/04) -/

/-- A part of n bytes at a group offset lies in its group and in at most two banks (R123). -/
def partFits (off n : Nat) : Prop := off + n ≤ 0x180000 ∧ (off + n - 1) / 256 ≤ off / 256 + 1

/-- Bytes of the A and the B part of a slice (R121). -/
def partSizes : MFmt → Nat × Nat
  | .f32 => (384, 384) | .bf16 | .f16 => (192, 192) | .e4m3 | .e5m2 | .i8 => (192, 192) | .log6 => (288, 288)
  | .bf16e4m3 | .bf16e5m2 => (192, 96) | .bf16log6 => (192, 72)

/-! ### Loads (spec/09) -/

/-- The translation caches of a context hold what its tables say. -/
def freshCaches (s : State) (p : Nat) : Prop :=
  ∀ (va : Nat) (e : Word64 × Nat), Table.get? (s.ctx p).tlb (va / 4096) = some e → leafFor s p va = some (e.1.toNat, e.2)

/-- Nothing is on its way that a read of the core in turn would meet: its task is not speculative and no commit burst
runs, no cluster holds a write, the core and its task keep none, no load of the core waits for its data, no line is poisoned,
and the translation caches of its context are up to date. -/
def quiet (s : State) : Prop :=
  freshCaches s (s.pasidOf s.turn) ∧ (∀ r ∈ s.cur.seq.flight, r.wait = []) ∧ (∀ x ∈ s.cur.seq.gloads, x.reads = []) ∧
  (∀ m, s.cur.eng.ldmc = some m → m.wait = []) ∧
  s.speculative s.turn = false ∧ (s.stage (s.stageOf s.turn)).burstEnd ≤ s.cycle ∧ (∀ e ∈ s.clusters, e.2.held = []) ∧
  (s.clu (s.turn / 8)).held = [] ∧ s.cur.eng.unWrites = [] ∧ s.cur.eng.unLines = [] ∧
  (∀ t, s.taskOf s.turn = some t → t.wlog = []) ∧ s.poison = [] ∧ s.channelsLost = []

/-- The core in turn may read n bytes now, in elements of w bytes whose byte k lies at A k of a level, and byte k of them
is B k (R166, R167, R187, R191). -/
def readsNow (s : State) (lvl : Level) (n w : Nat) (A : Nat → Nat) (B : Nat → Byte) : Prop :=
  match lvl with
  | .sp => ∀ k, k < n → A k < 0x300000 ∧ B k = s.cur.sp.read (A k)
  | .cp => s.cur.eng.atomics = [] ∧ ∀ k, k < n → A k < s.poolBound s.turn ∧ B k = (s.clu (s.turn / 8)).pool.read (A k)
  | .xs => quiet s ∧ ∀ k, k < n → A k < (s.progOf s.turn).xs ∧
      B k = s.xs.read ((s.ctx (s.pasidOf s.turn)).xsbase + A k)
  | .gl => quiet s ∧ ∀ k, k < n → k % w = 0 → ∃ pg, translate s (s.pasidOf s.turn) (A k) = some pg ∧ pg.r = true ∧
      pg.home = s.chipNo ∧ pg.kind ≠ 2 ∧ pg.pa + w ≤ 0x20000000000 ∧ ∀ j, j < w → B (k + j) = s.pmem.read (pg.pa + j)

/-- Bundles from issue to landing at an on-chip level (R166). -/
def loadLatency : Level → Nat
  | .sp => 6 | .cp => 12 | _ => 40

/-- What a load leaves alone: registers, the core's own storage, the array, other cores and every memory. -/
def loadFrame (s t : State) : Prop :=
  t.cur.regs = s.cur.regs ∧ t.cur.sp = s.cur.sp ∧ t.cur.ls = s.cur.ls ∧ t.cur.arr = s.cur.arr ∧ t.cur.ys = s.cur.ys ∧
  (∀ c, c ≠ s.turn → t.core c = s.core c) ∧ t.clusters = s.clusters ∧ t.pmem = s.pmem ∧ t.xs = s.xs

/-- A load has sent a value for a destination: exposed, at an on-chip level, with its landing bundle; interlocked, at
global level, in flight until its data arrives (R47, R171, R188). -/
def hasSent (s t : State) (lvl : Level) (dest : Dest) (good : Nat → Prop) : Prop :=
  if lvl = .gl then
    t.cur.seq.flight = s.cur.seq.flight ∧
    ∃ g, t.cur.seq.gloads = s.cur.seq.gloads ++ [g] ∧ g.dest = dest ∧ good g.val ∧ g.issued = s.cur.seq.stream ∧
      s.cycle < g.readyAt ∧ g.reads = []
  else ∃ r, r ∈ t.cur.seq.flight ∧ r.due = s.cur.seq.stream + loadLatency lvl ∧ r.slot = .l ∧ r.dest = dest ∧ good r.val ∧
      r.issued = s.cur.seq.stream ∧ r.wait = [] ∧ r.flags = 0 ∧ (∀ x ∈ s.cur.seq.flight, x ∈ t.cur.seq.flight)

/-- Byte k of a value is B k, for the first n. -/
def holdsBytes (n : Nat) (B : Nat → Byte) (v : Nat) : Prop := ∀ k, k < n → v / 2 ^ (8 * k) % 2 ^ 8 = (B k).toNat

/-- A load that fills one vector register: its file and register, its level, the size of its elements, and where byte k
of the register comes from (R172, R173, R174). -/
def vectorLoad (i : Instr) (s : State) : Option (VSlot × Nat × Level × Nat × (Nat → Nat)) :=
  match i with
  | .ldv _ f d b l x =>
    some (f, d.toNat, l, 128, fun k => (s.cur.readLA b + BitVec.ofInt 64 (x.toInt * 128)).toNat + k)
  | .ldgv _ f d b x =>
    some (f, d.toNat, .gl, 128, fun k => (s.cur.readLA b + BitVec.ofInt 64 (x.toInt * 128)).toNat + k)
  | .ldvt _ f d b l st es x =>
    some (f, d.toNat, l, es.bytes, fun k =>
      (s.cur.readLA b + BitVec.ofInt 64 (x.toInt * es.bytes) + BitVec.ofNat 64 (k / es.bytes) * s.cur.readLA st).toNat +
        k % es.bytes)
  | .ldvx _ f d b l ix x =>
    some (f, d.toNat, l, 4, fun k =>
      (s.cur.readLA b + BitVec.ofInt 64 (x.toInt * 4) + (lane (s.cur.readV f ix) (k / 4)).setWidth 64).toNat + k % 4)
  | .ldvg _ f d b ix x =>
    some (f, d.toNat, .gl, 4, fun k =>
      (s.cur.readLA b + BitVec.ofInt 64 (x.toInt * 4) + (lane (s.cur.readV f ix) (k / 4)).signExtend 64).toNat + k % 4)
  | _ => none

/-! ### Stores, futures and pool atomics (spec/10) -/

/-- A store: its level, its bytes, the size of its elements, the address of byte k, and the value whose byte k is stored
there (R181, R182, R183, R184, R205). -/
def storedBytes (i : Instr) (s : State) : Option (Level × Nat × Nat × (Nat → Nat) × Nat) :=
  match i with
  | .stv _ f r b l x =>
    some (l, 512, 128, fun k => (s.cur.readTA b + BitVec.ofInt 64 (x.toInt * 128)).toNat + k, (s.cur.readV f r).toNat)
  | .stvp _ f r b l x =>
    some (l, 1024, 128, fun k => (s.cur.readTA b + BitVec.ofInt 64 (x.toInt * 128)).toNat + k,
      (s.cur.readVReg f r.toNat).toNat + 2 ^ 4096 * (s.cur.readVReg f (r.toNat + 1)).toNat)
  | .stvg _ f r b x =>
    some (.gl, 512, 128, fun k => (s.cur.readTA b + BitVec.ofInt 64 (x.toInt * 128)).toNat + k, (s.cur.readV f r).toNat)
  | .stvx _ f r b l ix =>
    if l = .gl then none
    else some (l, 512, 4,
      fun k => (s.cur.readTA b + (lane (s.cur.readVReg f ix.toNat) (k / 4)).setWidth 64).toNat + k % 4, (s.cur.readV f r).toNat)
  | .stvgScatter _ f r b ix =>
    some (.gl, 512, 4,
      fun k => (s.cur.readTA b + (lane (s.cur.readVReg f ix.toNat) (k / 4)).signExtend 64).toNat + k % 4, (s.cur.readV f r).toNat)
  | .sts _ a b l sz x =>
    some (l, sz.bytes, sz.bytes, fun k => (s.cur.readTA b + BitVec.ofInt 64 x.toInt).toNat + k, (s.cur.readS a).toNat)
  | .stsv _ f r b l n sz x =>
    some (l, sz.bytes, sz.bytes, fun k => (s.cur.readTA b + BitVec.ofInt 64 x.toInt).toNat + k,
      (lane (s.cur.readV f r) n.toNat).toNat)
  | .strel _ a b l sz x =>
    some (l, sz.bytes, sz.bytes, fun k => (s.cur.readTA b + BitVec.ofInt 64 x.toInt).toNat + k, (s.cur.readS a).toNat)
  | _ => none

/-- A release of the pool goes at once only when no pool atomic of the core is pending and its task is not speculative;
any other store never waits for that (R205). -/
def goesAtOnce (i : Instr) (s : State) : Prop :=
  match i with
  | .strel _ _ _ .cp _ _ => s.cur.eng.atomics = [] ∧ s.speculative s.turn = false
  | _ => True

/-- The first access to the granule of an address in the current segment, and in the previous one while it is not yet
sounder-clear, was no read, for the scratchpad (0), the pool (1) or the lane slices (2) (R366). -/
def notReadFirst (s : State) (space a : Nat) : Prop :=
  Table.get s.cur.rcv.seen false (3 * (a / 128) + space) = false ∧
  (s.cycle < s.cur.rcv.prevClear → Table.get s.cur.rcv.prevSeen false (3 * (a / 128) + space) = false)

/-- Byte k of a store to the chip scratchpad or to global memory lies at P k: an offset beyond the context's region, or a
byte of a page of this chip that it may write (R166, R168, R336). -/
def storesTo (s : State) (lvl : Level) (n w : Nat) (A P : Nat → Nat) : Prop :=
  match lvl with
  | .xs => ∀ k, k < n → A k < (s.progOf s.turn).xs ∧ P k = (s.ctx (s.pasidOf s.turn)).xsbase + A k
  | .gl => ∀ k, k < n → k % w = 0 → ∃ pg, translate s (s.pasidOf s.turn) (A k) = some pg ∧ pg.w = true ∧
      pg.home = s.chipNo ∧ pg.kind = 1 ∧ pg.pa + w ≤ 0x20000000000 ∧ ∀ j, j < w → P (k + j) = pg.pa + j
  | _ => False

/-- The core's own writes of the line are already in its task's write set (R260, R263). -/
def ownsLine (s : State) (k : Task) (xs : Bool) (a : Nat) : Prop :=
  ∃ l ∈ k.lines, l.core = s.turn ∧ l.gran = 2 * (a / 128) + (if xs then 1 else 0)

/-- The fault of one piece of an access to global memory: its page does not translate; it lacks the right, lies on
another chip, is a UN page of an acquire or a release, or is the doorbell page of another context's queue (R200, R204, R336,
R337, R341). -/
def globalFault (s : State) (wr sync : Bool) (va : Nat) : Option Nat :=
  match translate s (s.pasidOf s.turn) va with
  | none => some 0x09
  | some pg =>
    if (if wr then pg.w else pg.r) = false ∨ pg.home ≠ s.chipNo ∨ (sync = true ∧ pg.kind = 2) ∨
        (wr = true ∧ s.foreignDoor (s.pasidOf s.turn) pg.pa = true) then some 0x0A else none

/-- Of the elements of an access, at A k for each multiple k of w below n, the first that faults has a code. -/
def firstFault (s : State) (wr sync : Bool) (n w : Nat) (A : Nat → Nat) (code : Nat) : Prop :=
  ∃ k, k < n ∧ k % w = 0 ∧ globalFault s wr sync (A k) = some code ∧ ∀ j, j < k → j % w = 0 → globalFault s wr sync (A j) = none

/-- An atomic's kind, operand, base, width, return flag and compare value (R186). -/
def atomicForm (i : Instr) (s : State) : Option (AtomicKind × Word64 × BitVec 5 × Bool × Bool × Word64) :=
  match i with
  | .aadd _ a b w r => some (.add, s.cur.readS a, b, w, r, 0)
  | .amin _ a b w r u => some (if u then .minU else .minS, s.cur.readS a, b, w, r, 0)
  | .amax _ a b w r u => some (if u then .maxU else .maxS, s.cur.readS a, b, w, r, 0)
  | .axchg _ a b w r => some (.xchg, s.cur.readS a, b, w, r, 0)
  | .acas _ a c b w r => some (.cas, s.cur.readS a, b, w, r, s.cur.readSReg c.toNat)
  | _ => none

/-- What a pool atomic leaves in its location (R186). -/
def atomicResult (kind : AtomicKind) (n old v cmp : Nat) : Option Nat :=
  let m := 2 ^ (8 * n)
  let u := v % m
  let sg := fun (x : Nat) => if x < m / 2 then (x : Int) else (x : Int) - m
  match kind with
  | .add => some ((old + v) % m)
  | .minS => some (if sg u < sg old then u else old)
  | .maxS => some (if sg old < sg u then u else old)
  | .minU => some (min old u)
  | .maxU => some (max old u)
  | .xchg => some u
  | .cas => some (if old = cmp % m then u else old)
  | .store => none

/-! ### X slot: register copies and engine commands (spec/11) -/

/-- The command that an X operation gives its engine, with the operands that it reads at issue, where its rules refuse
nothing and no wait applies; none otherwise (R221, R226, R235-R241, R247-R250, R160, R231). A copy joins its queue whatever its task,
and waits there (R236; assumption log 45); a fetch of an entry that is moving behind a stash of the same core is held (log 114). -/
def commandOf (i : Instr) (s : State) : Option EngCmd :=
  let p := s.pasidOf s.turn
  let key := fun (x : BitVec 5) => (s.cur.readXA x).toNat
  let team := (s.stage (s.stageOf s.turn)).team
  match i with
  | .cpy _ a d => match s.shapeAt a, s.shapeAt d with
    | some x, some y => if x.logical = y.logical then some (.copy y x none) else none
    | _, _ => none
  | .mc _ a d r => match s.shapeAt a, s.shapeAt d with
    | some x, some y => if x.logical = y.logical ∧ y.lvl = 0 ∧ r.toNat < 2 ^ team then some (.copy y x (some r.toNat)) else none
    | _, _ => none
  | .tinv _ v n size =>
    let unit := match size with | .k4 => 2 ^ 12 | .m2 => 2 ^ 21 | .g1 => 2 ^ 30 | .all => 1
    if size = .all then some (.tinv 0 0 size)
    else if key v % unit = 0 ∧ 0 < key n ∧ key n ≤ 512 then some (.tinv (key v) (key n) size) else none
  | .stash _ x k m => match s.shapeAt x with
    | some z => if key k < 2 ^ 38 ∧ (m = .f8 → z.fmt ≤ 2) then some (.stash (key k) z m) else none
    | none => none
  | .spill _ x k m lp => match s.shapeAt x with
    | some z => if key k < 2 ^ 38 ∧ (m = .f8 → z.fmt ≤ 2) ∧ (lp = true → s.hwcfg.getLsbD 4 = true) then
        some (.spill (key k) z m lp) else none
    | none => none
  | .drop _ h k => if key k < 2 ^ 38 then some (.drop (key k) (s.cur.readXA h)) else none
  | .wver _ x k => match s.shapeAt x with
    | some z => if 2 ^ 38 ≤ key k ∧ key k < 2 ^ 39 then some (.wver (key k) z) else none
    | none => none
  | .fetch _ d k free => match s.shapeAt d with
    | some z =>
      let here : Bool := match (s.ctx p).entry? (key k) with
        | some e => (e.state == .kept || e.state == .dropped) && (e.moveAt.isNone || s.cur.eng.stashQ.all fun o => o.complete || o.sent ||
            (match o.cmd with | .stash _ _ _ => false | _ => true))
        | none => true
      if key k < 2 ^ 39 ∧ here = true then some (.fetch (key k) z free) else none
    | none => none
  | .chsend _ x g t c =>
    let v := (s.ctx p).outChan c.toNat
    match s.shapeAt x with
    | some z => if v.valid = true ∧ key g < 2 ^ 32 ∧ s.speculative s.turn = false ∧ v.taken < v.upto then
        some (.chsend z (key g) (key t) c.toNat) else none
    | none => none
  | .chrecv _ d c =>
    let v := (s.ctx p).inChan c.toNat
    match s.shapeAt d, s.tileHere p c.toNat with
    | some z, some _ => if v.valid = true ∧ tensorBytes z = 128 * v.tilesz then some (.chrecv z c.toNat) else none
    | _, _ => none
  | .cheos _ c => if ((s.ctx p).outChan c.toNat).valid = true then some (.cheos c.toNat) else none
  | .redm _ x i w =>
    let w1 := ((s.ctx p).window w.toNat).w1.toNat
    let op := w1 / 2 ^ 60 % 4
    let fmt := w1 / 2 ^ 57 % 8
    let n := w1 % 2 ^ 14 + 1
    let b := if fmt = 1 then 2 else 4
    if w1 / 2 ^ 63 = 1 ∧ op ≤ 1 ∧ (fmt = 0 ∨ fmt = 1 ∨ fmt = 3) ∧ key x % 128 = 0 ∧ key x + n * b ≤ 0x300000 ∧
        key i < w1 / 2 ^ 16 % 2 ^ 24 then
      some (.redm w.toNat (key i) ((List.range n).map fun j => BitVec.ofNat 32 (s.cur.sp.readLE (key x + b * j) b))) else none
  | .engr _ n => if (engReg? n.toNat).isSome = true then some (.engr n.toNat) else none
  | _ => none

/-- What the issue of a command does in its context: an entry of the stash is pending from then on, a place in a channel's
window is taken, a token is sent, a contribution is counted; any other command changes nothing there; but for the translations
that its operands bring into the caches. -/
def takesPlace (s : State) (cmd : EngCmd) (id : Nat) (x z : Context) : Prop :=
  let y := { z with tlb := x.tlb }
  match cmd with
  | .stash k _ _ | .spill k _ _ _ | .wver k _ => x.entry? k = none → x.stash.length < 8192 →
      y = { x with stash := x.stash ++ [{ key := k, state := .pending, op := id }] }
  | .drop k h => x.entry? k = none → x.stash.length < 8192 →
      y = { x with stash := x.stash ++ [{ key := k, state := .pending, handle := h, op := id }] }
  | .chsend _ _ _ c => y = x.setOut c { x.outChan c with taken := (x.outChan c).taken + 1 }
  | .cheos c => let v := x.outChan c
      (v.eossent = true → y = x) ∧ (v.eossent = false → y = x.setOut c { v with eossent := true })
  | .redm w i _ => (s.turn, id, i) ∈ (y.window w).waiting
  | _ => y = x

/-- A record of an operation stands last in a core's event queue (R227), and the operation has left its queue. -/
def hasPosted (s t : State) (c kind slot status : Nat) (addr : CodeAddr) (w1 : Word64) : Prop :=
  ∃ r, (t.core c).eng.evq = (s.core c).eng.evq ++ [r] ∧ r.w1 = w1 ∧
    r.w0 = BitVec.ofNat 64 (2 ^ 63 + kind * 2 ^ 59 + slot * 2 ^ 55 + status * 2 ^ 48 + addr.toNat)

/-- A core's engine has finished a command without touching a register, the array, a cluster or global memory. -/
def engineFrameOnCore (s t : State) (c : Nat) : Prop :=
  (t.core c).regs = (s.core c).regs ∧ (t.core c).arr = (s.core c).arr ∧ (t.core c).ls = (s.core c).ls ∧
  (t.core c).seq = (s.core c).seq ∧ (∀ d, d ≠ c → t.core d = s.core d) ∧ t.clusters = s.clusters ∧ t.tasks = s.tasks ∧
  t.pmem = s.pmem

/-- Nor a byte of the chip scratchpad. -/
def engineFrame (s t : State) (c : Nat) : Prop := engineFrameOnCore s t c ∧ t.xs = s.xs

/-- Where a byte of an engine's write to the chip scratchpad (level 2) or to global memory of this chip (level 3) lies (R166,
R167, R226). -/
def outAddr (s : State) (c lvl : Nat) (a : Int) : Option Nat :=
  let n := (a % 2 ^ 64).toNat
  if lvl = 2 then (if n < (s.progOf c).xs then some ((s.ctx (s.pasidOf c)).xsbase + n) else none)
  else match translate s (s.pasidOf c) n with
    | some pg => if pg.w = true ∧ pg.home = s.chipNo ∧ pg.pa < 0x20000000000 then some pg.pa else none
    | none => none

/-- The bundle of an operation is committed and strike-clear (R213). -/
def opIsClear (s : State) (o : EngOp) : Prop :=
  (∃ τ, o.clearAt = some τ ∧ τ ≤ s.cycle) ∧ ∀ k, s.task? o.tid = some k → s.isFrontier o.tid = true ∨ k.state = .committed

/-! ### Engine registers, channels, reductions (spec/08, spec/11) -/

/-- What a context holds once an engine register of it has taken a value (R159, R230, R232, R246). -/
def registerTakes (x y : Context) (r : EngReg) (v : Word64) : Prop :=
  let n := v.toNat
  match r with
  | .window w second =>
    (if second then (y.window w).w1 = v ∧ (y.window w).w0 = (x.window w).w0
     else (y.window w).w0 = v ∧ (y.window w).w1 = (x.window w).w1) ∧ (∀ q, q ≠ w → y.window q = x.window q)
  | .starena => y = { x with starena := v }
  | .sthbm => y = { x with sthbm := v }
  | .stlp => y = { x with stlp := v }
  | .stsize => y = { x with stsize := v }
  | .evq => False
  | .inChan c true => (y.inChan c).tilesz = n / 2 ^ 48 ∧ (y.inChan c).buf = n % 2 ^ 21 ∧ (y.inChan c).valid = (x.inChan c).valid
  | .inChan c false =>
    let i := y.inChan c
    i.valid = v.getLsbD 63 ∧ i.kind = v.getLsbD 62 ∧ i.win = n / 2 ^ 56 % 64 ∧ i.nprod = n / 2 ^ 52 % 16 ∧
      i.tilesz = (x.inChan c).tilesz ∧ (v.getLsbD 63 = false → i.tiles = [] ∧ i.prods = []) ∧
      (v.getLsbD 51 = true → i.err = false) ∧ (v.getLsbD 51 = false → i.err = (x.inChan c).err)
  | .outChan c =>
    let o := y.outChan c
    o.valid = v.getLsbD 63 ∧ o.dchip = n / 2 ^ 48 % 2 ^ 14 ∧ o.dchan = n / 2 ^ 42 % 64 ∧ o.prod = n / 2 ^ 38 % 16 ∧
      o.tilesz = n / 2 ^ 15 % 2 ^ 16 ∧ o.eossent = false ∧ o.taken = 0 ∧ o.nextSeq = 0

/-- The device answers a frame with a status and a payload, and expects the next one (R352, R353). -/
def hasAnswered (s t : State) (fr : Frame) (status : Nat) (payload : List Byte) : Prop :=
  t.host.sent = s.host.sent ++ [{ type := 4, seq := s.host.seqOut, pasid := fr.pasid.toNat, code := status, addr := fr.addr,
                                  tag := fr.tag, payload := payload }] ∧
  t.host.seqIn = (s.host.seqIn + 1) % 2 ^ 32

/-- A frame is in sequence, and the chip serves commands: it has passed its reset steps and is neither in recovery nor viral (R350,
R352, R362, R383). -/
def isServed (s : State) (fr : Frame) : Prop :=
  fr.seq.toNat = s.host.seqIn ∧ s.recovery = false ∧ s.viral = false ∧ s.stuck = false

/-- Nothing that R205 puts before a release of a core is on its way. -/
def nothingBefore (s : State) (c : Nat) : Prop :=
  (∀ e ∈ s.clusters, e.2.held = []) ∧ (s.core c).eng.atomics = [] ∧ (s.core c).eng.unWrites = [] ∧ (∀ e ∈ s.tasks, e.2.wlog = []) ∧
  (∀ g ∈ (s.core c).seq.gloads, g.reads = []) ∧ (∀ r ∈ (s.core c).seq.flight, r.wait = []) ∧
  (∀ m, (s.core c).eng.ldmc = some m → m.wait = [])

/-- Cores and memories stand as they did. -/
def leavesMachine (s t : State) : Prop :=
  t.cores = s.cores ∧ t.clusters = s.clusters ∧ t.tasks = s.tasks ∧ t.pmem = s.pmem ∧ t.xs = s.xs ∧ t.hwcfg = s.hwcfg

/-! ### Task instructions and the life of a task (spec/12) -/

/-- The core in turn, but for its Lamport count, its Y state and what its engine holds, every other core and every memory
stand as they did. -/
def turnFrame (s t : State) : Prop :=
  t.cur.regs.s = s.cur.regs.s ∧ t.cur.regs.p = s.cur.regs.p ∧ t.cur.regs.fpc = s.cur.regs.fpc ∧
  t.cur.regs.fstat = s.cur.regs.fstat ∧ t.cur.regs.va = s.cur.regs.va ∧ t.cur.regs.vb = s.cur.regs.vb ∧
  t.cur.sp = s.cur.sp ∧ t.cur.ls = s.cur.ls ∧ t.cur.arr = s.cur.arr ∧
  (∀ c, c ≠ s.turn → t.core c = s.core c) ∧ t.pmem = s.pmem ∧ t.xs = s.xs

/-- The cores stand as they did, but for the Lamport count of one of them (R394). -/
def coresButCount (c : Nat) (s t : State) : Prop :=
  (∀ d, d ≠ c → t.core d = s.core d) ∧ (t.core c).seq = (s.core c).seq ∧ (t.core c).eng = (s.core c).eng ∧
  (t.core c).sp = (s.core c).sp ∧ (t.core c).ls = (s.core c).ls ∧ (t.core c).arr = (s.core c).arr ∧ (t.core c).task = (s.core c).task ∧
  (t.core c).regs = { (s.core c).regs with lclock := (t.core c).regs.lclock }

/-! ### Phasers, futures, counters, tokens, tiles (spec/14) -/

/-- The phasers of the cluster of the core in turn. -/
def phaserHere (s : State) (i : Nat) : Phaser := s.phaser (s.turn / 8) i

/-! ### Evaluation, dispatch, the die's classes, the stage handler (spec/15) -/

/-- A running task that alone holds one core, in a machine in which no task has a parent. -/
def heldAlone (τ c : Nat) (k : Task) (s : State) : Prop :=
  s.task? τ = some k ∧ k.state = .running ∧ s.coresOf τ = [c] ∧ (s.core c).task = some τ ∧ ∀ e ∈ s.tasks, e.2.parent = none

/-- The task has aborted: it keeps its key, its kind and its tag, has its full budget again and empty sets, and leaves its
core, whose registers and memories stay. -/
def abortedTo (τ c : Nat) (k : Task) (again hold : Bool) (s t : State) : Prop :=
  (∃ n, t.task? τ = some n ∧ n.state = (if again then .ready else .aborted) ∧ n.key = k.key ∧ n.kind = k.kind ∧ n.tag = k.tag ∧
    n.budget = k.full ∧ n.wlog = [] ∧ n.lines = [] ∧ n.event = none ∧ n.heldBack = hold ∧ n.leaving = some again) ∧
  (t.core c).seq.ended = true ∧ (t.core c).regs = (s.core c).regs ∧ (t.core c).sp = (s.core c).sp ∧ (t.core c).ls = (s.core c).ls ∧
  (∀ q, q ≠ τ → t.task? q = s.task? q) ∧
  (∀ d, d ≠ c → (t.core d).regs = (s.core d).regs ∧ (t.core d).sp = (s.core d).sp ∧ (t.core d).seq = (s.core d).seq) ∧
  t.pmem = s.pmem ∧ t.xs = s.xs

/-- The task has been told to abort at the end of the cycle (R267). -/
def toldToAbort (τ : Nat) (k : Task) (again hold : Bool) (s t : State) : Prop :=
  t.task? τ = some { k with abortDue := some (again, hold) } ∧ (∀ q, q ≠ τ → t.task? q = s.task? q) ∧ t.cores = s.cores ∧
  t.clusters = s.clusters ∧ t.contexts = s.contexts ∧ t.pmem = s.pmem ∧ t.xs = s.xs

/-! ### Swaps, saves, restores, gang switches (spec/15) -/

/-- Nothing of a core is in flight: no result, no interlocked load, no operation of its engines. -/
def quietCore (q : Core) : Prop :=
  q.seq.flight = [] ∧ q.seq.gloads = [] ∧ q.eng.ldmc = none ∧ q.eng.ops = [] ∧ q.eng.shadows = [] ∧ q.eng.unWrites = []

/-- A core holds what another held that was saved: its files, planes, memories, its place and its loops. -/
def resumesAs (a b : Core) : Prop :=
  a.regs.s = b.regs.s ∧ a.regs.p = b.regs.p ∧ a.regs.va = b.regs.va ∧ a.regs.vb = b.regs.vb ∧ a.regs.ka = b.regs.ka ∧
  a.regs.kb = b.regs.kb ∧ a.regs.e = b.regs.e ∧ a.regs.la = b.regs.la ∧ a.regs.ta = b.regs.ta ∧ a.regs.xa = b.regs.xa ∧
  a.regs.fpc = b.regs.fpc ∧ a.regs.fstat = b.regs.fstat ∧ a.regs.donemask = b.regs.donemask ∧ a.arr = b.arr ∧ a.ys = b.ys ∧
  a.sp = b.sp ∧ a.ls = b.ls ∧ a.seq.pc = b.seq.pc ∧ a.seq.loops = b.seq.loops ∧ a.rank = b.rank

/-- The end of a command on a context posts one event frame with its code (assumption log 59) and tag; where no command asked for
it, none (R353). -/
def endsCommand (s t : State) (p : Nat) : Prop :=
  ((s.ctx p).command = 0 → t.host.sent = s.host.sent) ∧
  ((s.ctx p).command ≠ 0 → ∃ f, t.host.sent = s.host.sent ++ [f] ∧ f.type = 5 ∧ f.code = (s.ctx p).command ∧
    f.tag = (s.ctx p).tag ∧ f.pasid = p)

/-- The core has been held by a wait, a closed window or an absent entry (R302, R325). -/
def heldByWait (q : Core) : Prop :=
  q.seq.halted = false ∧ ∃ h, q.seq.hold = some h ∧ (h.cause = .ywait ∨ h.cause = .window ∨ h.cause = .absent)

/-! ### The Tideport (spec/16, spec/17) -/

/-- Contexts, queues, stages and the firmware stand as they did. -/
def leavesTables (s t : State) : Prop :=
  t.contexts = s.contexts ∧ t.queues = s.queues ∧ t.stages = s.stages ∧ t.scopetab = s.scopetab ∧ t.host.log = s.host.log ∧
  t.host.update = s.host.update

/-! ### Queues and packets (spec/16) -/

/-- A queue's slot holds this queue, and no other slot changes. -/
def queueBecomes (s t : State) (i : Nat) (x : Queue) : Prop :=
  Table.get? t.queues i = some (.live x) ∧ ∀ j, j ≠ i → Table.get? t.queues j = Table.get? s.queues j

/-- R347: the queue is in Error at its packet with this cause, and the driver has received an event with PASID, q, `rptr` and
the cause; in the viral state the chip sends none (R383). -/
def hasFailed (s t : State) (i : Nat) (x : Queue) (cause : Nat) : Prop :=
  queueBecomes s t i { x with qstate := .error, ecode := cause, acting := none, copies := [] } ∧
  (s.viral = false → ∃ f, t.host.sent = s.host.sent ++ [f] ∧ f.type = 5 ∧ f.pasid = x.pasid ∧
    f.payload = leBytes 4 x.pasid ++ leBytes 4 x.q ++ leBytes 4 x.rptr ++ leBytes 4 cause) ∧
  leavesMachine s t ∧ t.contexts = s.contexts ∧ t.stages = s.stages

/-- The queue after its packet is consumed. -/
def behind (x : Queue) : Queue :=
  { x with copies := Table.del x.copies x.rptr, rptr := (x.rptr + 1) % 2 ^ 32, acting := none }

/-! ### Links, recovery, temperature, reset (spec/17, spec/18) -/

/-- An event record stands alone in the log: its kind and its data. -/
def logsAlone (s t : State) (kind data : Nat) : Prop :=
  s.host.log = [] → s.host.dropped = 0 → ∃ l, t.host.log = [l] ∧ l.event.toNat / 2 ^ 60 = kind ∧ l.event.toNat % 2 ^ 26 = data

/-- A core that holds a task and one rewind point, alone in its cluster, with nothing on its way, in a machine in which no
task has a parent. -/
def strikable (c τ : Nat) (k : Task) (rp : RewindPoint) (s : State) : Prop :=
  (s.core c).task = some τ ∧ s.task? τ = some k ∧ k.leaving = none ∧ k.swap = .none ∧ (s.ctx k.pasid).phase = .active ∧
  (s.clu (c / 8)).savingAt = none ∧ (s.core c).rcv.rps = [rp] ∧ rp.seg = (s.core c).rcv.seg ∧ (∀ e ∈ s.tasks, e.2.parent = none) ∧ (s.core c).rcv.undo = [] ∧
  (∀ d, d / 8 = c / 8 → (s.core d).rcv.rerun = none) ∧
  (∀ d, d / 8 = c / 8 → d ≠ c → (s.core d).task = none ∧ (s.core d).rcv.last = none ∧ (s.core d).rcv.rps = [])

/-- R365, R368, R372: the core stands at its rewind point again, with the two reruns before it: its array, scale registers, Y state,
`fpc`, loops and place are those of the point, its scalar and vector registers and its scratchpad stay, and what it wrote
since is discarded. -/
def rerunsFrom (c τ : Nat) (rp : RewindPoint) (strike : Nat) (s t : State) : Prop :=
  (t.core c).seq.pc = rp.pc ∧ (t.core c).seq.loops = rp.loops ∧ (t.core c).seq.stream = rp.stream ∧ (t.core c).arr = rp.arr ∧
  (t.core c).ys = rp.ys ∧ (t.core c).regs.e = rp.e ∧ (t.core c).regs.fpc = rp.fpc ∧ (t.core c).regs.fstat = rp.fstat ∧
  (t.core c).regs.s = (s.core c).regs.s ∧ (t.core c).regs.va = (s.core c).regs.va ∧ (t.core c).sp = (s.core c).sp ∧
  (t.core c).ls = (s.core c).ls ∧ (∃ r, (t.core c).rcv.rerun = some r ∧ r.strike = strike ∧ r.second = false) ∧
  (∃ n, t.task? τ = some n ∧ n.budget = rp.budget ∧ n.event = none ∧ ∀ w ∈ n.wlog, w.core = c → w.seg < rp.seg) ∧
  (∀ h ∈ (t.clu (c / 8)).held, h.w.core = c → h.w.seg < rp.seg) ∧
  (∀ d, d ≠ c → t.core d = s.core d) ∧ (∀ q, q ≠ τ → t.task? q = s.task? q) ∧ t.pmem = s.pmem ∧ t.xs = s.xs

/-- The slot of an image qualifies at a reset with a record: its signature verifies, by the check at the last staging or, for one
uploaded since, by the boot ROM's own, and its security version is at least the record's least (R349, R350, R352). -/
def bootable (r : ConfigRecord) (i : Image) : Prop := i.checked.verified = true ∧ r.minSecver ≤ i.checked.secver

/-- `hwcfg` and the cores follow a record: the counts of its enabled cores and of the clusters that have one, its stepping,
LPDDR-6 and form, reserved bits zero; exactly the cores that it disables are retired (R5, R359). -/
def followsRecord (r : ConfigRecord) (t : State) : Prop :=
  let on := fun (c : Nat) => decide (c ∉ r.disabled)
  t.hwcfg.toNat / 2 ^ 24 = ((List.range 192).filter on).length ∧
  t.hwcfg.toNat / 2 ^ 19 % 2 ^ 5 = ((List.range 24).filter fun n => (List.range 8).any fun j => on (8 * n + j)).length ∧
  t.hwcfg.toNat / 2 ^ 16 % 2 ^ 3 = 0 ∧ t.hwcfg.toNat / 2 ^ 8 % 2 ^ 8 = r.stepping % 2 ^ 8 ∧ t.hwcfg.toNat / 2 ^ 5 % 2 ^ 3 = 0 ∧
  t.hwcfg.getLsbD 4 = r.lpddr ∧ t.hwcfg.toNat % 2 ^ 4 = r.form.code ∧ t.record = r ∧
  ∀ c, (t.core c).retired = true ↔ c < 192 ∧ c ∈ r.disabled

end Sys2Proof

open Sys2Proof Sys2Proof.Machine

/-- R144: sums and differences modulo 2^64 and the bitwise operations, with the immediate sign-extended; the result
lands in the next bundle, and nothing else changes.

R145: shifts and rotates over the whole 64-bit amount, register and immediate forms.

R144, R149: lesser and greater, and the two constant loads.

R148: the counts, each fixed by what it counts, and the byte swap. -/
def Obligations.ScalarResults : Prop :=
  (∀ (g : Guard) (d : SDst) (a b : SSrc) (imm : Word32) (s : State), s.cur.on g = true →
     let x := s.cur.readS a
     let y := s.cur.readS b
     let out := fun (v : Nat) => Host.Outcome.next (s.gains .s 1 (destS d) v (2 ^ 64 - 1) 0)
     exec (.add g d a b) s = out ((x.toNat + y.toNat) % 2 ^ 64) ∧
     exec (.sub g d a b) s = out ((x.toNat + (2 ^ 64 - y.toNat)) % 2 ^ 64) ∧
     exec (.and g d a b) s = out (x.toNat &&& y.toNat) ∧
     exec (.or g d a b) s = out (x.toNat ||| y.toNat) ∧
     exec (.xor g d a b) s = out (x.toNat ^^^ y.toNat) ∧
     exec (.addi g d a imm) s = out ((x.toInt + imm.toInt) % 2 ^ 64).toNat ∧
     exec (.andi g d a imm) s = out (x &&& BitVec.ofInt 64 imm.toInt).toNat ∧
     exec (.ori g d a imm) s = out (x ||| BitVec.ofInt 64 imm.toInt).toNat ∧
     exec (.xori g d a imm) s = out (x ^^^ BitVec.ofInt 64 imm.toInt).toNat) ∧
  (∀ (g : Guard) (d : SDst) (a b : SSrc) (imm : Word32) (s : State), s.cur.on g = true →
     let x := s.cur.readS a
     let out := fun (v : Word64) => Host.Outcome.next (s.gains .s 1 (destS d) v.toNat (2 ^ 64 - 1) 0)
     let left := fun (n : Nat) => if 64 ≤ n then (0 : Word64) else BitVec.ofNat 64 (x.toNat * 2 ^ n)
     let right := fun (n : Nat) => if 64 ≤ n then (0 : Word64) else BitVec.ofNat 64 (x.toNat / 2 ^ n)
     let arith := fun (n : Nat) => if 64 ≤ n then (if x.toInt < 0 then BitVec.allOnes 64 else 0)
       else BitVec.ofInt 64 (x.toInt / 2 ^ n)
     let turn := fun (n : Nat) => BitVec.ofNat 64 (x.toNat * 2 ^ (n % 64) % 2 ^ 64 + x.toNat * 2 ^ (n % 64) / 2 ^ 64)
     let n := (s.cur.readS b).toNat
     exec (.shl g d a b) s = out (left n) ∧ exec (.shli g d a imm) s = out (left imm.toNat) ∧
     exec (.shr g d a b) s = out (right n) ∧ exec (.shri g d a imm) s = out (right imm.toNat) ∧
     exec (.sar g d a b) s = out (arith n) ∧ exec (.sari g d a imm) s = out (arith imm.toNat) ∧
     exec (.rot g d a b) s = out (turn n) ∧ exec (.roti g d a imm) s = out (turn imm.toNat)) ∧
  (∀ (g : Guard) (d : SDst) (a b : SSrc) (imm : BitVec 44) (high : BitVec 20) (s : State),
     s.cur.on g = true →
     let x := s.cur.readS a
     let y := s.cur.readS b
     let out := fun (v : Word64) => Host.Outcome.next (s.gains .s 1 (destS d) v.toNat (2 ^ 64 - 1) 0)
     exec (.min g d a b) s = out (BitVec.ofInt 64 (min x.toInt y.toInt)) ∧
     exec (.max g d a b) s = out (BitVec.ofInt 64 (max x.toInt y.toInt)) ∧
     exec (.minu g d a b) s = out (BitVec.ofNat 64 (min x.toNat y.toNat)) ∧
     exec (.maxu g d a b) s = out (BitVec.ofNat 64 (max x.toNat y.toNat)) ∧
     exec (.li g d imm) s = out (BitVec.ofInt 64 imm.toInt) ∧
     exec (.lih g d a high) s = out (BitVec.ofNat 64 (high.toNat * 2 ^ 44 + x.toNat % 2 ^ 44))) ∧
  (∀ (g : Guard) (d : SDst) (a : SSrc) (s : State), s.cur.on g = true →
     let x := s.cur.readS a
     let out := fun (v : Word64) => Host.Outcome.next (s.gains .s 1 (destS d) v.toNat (2 ^ 64 - 1) 0)
     (∃ n : Nat, exec (.clz g d a) s = out (BitVec.ofNat 64 n) ∧ (x = 0 → n = 64) ∧
       (x ≠ 0 → n < 64 ∧ 2 ^ (63 - n) ≤ x.toNat ∧ x.toNat < 2 ^ (64 - n))) ∧
     (∃ n : Nat, exec (.ctz g d a) s = out (BitVec.ofNat 64 n) ∧ (x = 0 → n = 64) ∧
       (x ≠ 0 → n < 64 ∧ x.toNat % 2 ^ n = 0 ∧ x.toNat / 2 ^ n % 2 = 1)) ∧
     exec (.popc g d a) s = out (BitVec.ofNat 64 ((List.range 64).filter fun i => x.getLsbD i).length) ∧
     (∃ v : Word64, exec (.bswap g d a) s = out v ∧
       ∀ k : Nat, k < 8 → v.toNat / 2 ^ (8 * k) % 256 = x.toNat / 2 ^ (8 * (7 - k)) % 256))

/-- R151, R152: a compare or a predicate operation sends one bit to its predicate, in the next bundle; its word has its opcode in
[63:56], its guard in [55:51] and its operands where the layouts CMP and PL put them, with zeros elsewhere. -/
def Obligations.PredicateResults : Prop :=
  ∀ (g : Guard) (pd pa pb : BitVec 4) (a b : SSrc),
    (∀ s : State, s.cur.on g = true →
      let x := s.cur.readS a
      let y := s.cur.readS b
      let out := fun (v : Bool) => Host.Outcome.next (s.gains .s 1 (.p pd.toNat) (if v then 1 else 0) 1 0)
      exec (.ceq g pd a b) s = out (decide (x.toNat = y.toNat)) ∧
      exec (.cne g pd a b) s = out (decide (x.toNat ≠ y.toNat)) ∧
      exec (.clt g pd a b) s = out (decide (x.toInt < y.toInt)) ∧
      exec (.cltu g pd a b) s = out (decide (x.toNat < y.toNat)) ∧
      exec (.cle g pd a b) s = out (decide (x.toInt ≤ y.toInt)) ∧
      exec (.cleu g pd a b) s = out (decide (x.toNat ≤ y.toNat)) ∧
      exec (.pand g pd pa pb) s = out (s.cur.readP pa.toNat && s.cur.readP pb.toNat) ∧
      exec (.por g pd pa pb) s = out (s.cur.readP pa.toNat || s.cur.readP pb.toNat) ∧
      exec (.pxor g pd pa pb) s = out (s.cur.readP pa.toNat != s.cur.readP pb.toNat) ∧
      exec (.pnot g pd pa) s = out (!s.cur.readP pa.toNat)) ∧
    let cmp := encGuard g * 2 ^ 51 + pd.toNat * 2 ^ 47 + encSSrc a * 2 ^ 37 + encSSrc b * 2 ^ 30
    let pl := encGuard g * 2 ^ 51 + pd.toNat * 2 ^ 47 + pa.toNat * 2 ^ 43 + pb.toNat * 2 ^ 39
    let reads := fun (w : Nat) (i : Instr) => encodeField i = some (.s, w) ∧ decodeField .s w = some i
    reads (0x38 * 2 ^ 56 + cmp) (.ceq g pd a b) ∧ reads (0x39 * 2 ^ 56 + cmp) (.cne g pd a b) ∧
    reads (0x3A * 2 ^ 56 + cmp) (.clt g pd a b) ∧ reads (0x3B * 2 ^ 56 + cmp) (.cltu g pd a b) ∧
    reads (0x3C * 2 ^ 56 + cmp) (.cle g pd a b) ∧ reads (0x3D * 2 ^ 56 + cmp) (.cleu g pd a b) ∧
    reads (0x40 * 2 ^ 56 + pl) (.pand g pd pa pb) ∧ reads (0x41 * 2 ^ 56 + pl) (.por g pd pa pb) ∧
    reads (0x42 * 2 ^ 56 + pl) (.pxor g pd pa pb) ∧
    reads (0x43 * 2 ^ 56 + (pl - pb.toNat * 2 ^ 39)) (.pnot g pd pa)

/-- R146, R147: the products land three bundles on and the quotients and remainders twelve; a division by zero and the
one quotient that does not fit have the results that R147 tabulates. -/
def Obligations.ScalarProductsAndQuotients : Prop :=
  ∀ (g : Guard) (d : SDst) (a b : SSrc) (s : State), s.cur.on g = true →
    let x := s.cur.readS a
    let y := s.cur.readS b
    let out := fun (n : Nat) (v : Word64) => Host.Outcome.next (s.gains .s n (destS d) v.toNat (2 ^ 64 - 1) 0)
    exec (.mul g d a b) s = out 3 (BitVec.ofNat 64 (x.toNat * y.toNat)) ∧
    exec (.mulh g d a b) s = out 3 (BitVec.ofInt 64 (x.toInt * y.toInt / 2 ^ 64)) ∧
    exec (.mulhu g d a b) s = out 3 (BitVec.ofNat 64 (x.toNat * y.toNat / 2 ^ 64)) ∧
    (y = 0 → exec (.div g d a b) s = out 12 (BitVec.allOnes 64) ∧ exec (.divu g d a b) s = out 12 (BitVec.allOnes 64) ∧
      exec (.rem g d a b) s = out 12 x ∧ exec (.remu g d a b) s = out 12 x) ∧
    (y ≠ 0 → exec (.divu g d a b) s = out 12 (BitVec.ofNat 64 (x.toNat / y.toNat)) ∧
      exec (.remu g d a b) s = out 12 (BitVec.ofNat 64 (x.toNat % y.toNat)) ∧
      (∃ q r : Word64, exec (.div g d a b) s = out 12 q ∧ exec (.rem g d a b) s = out 12 r ∧
        x = y * q + r ∧ r.toInt.natAbs < y.toInt.natAbs ∧ (r.toInt < 0 → x.toInt < 0) ∧ (0 < r.toInt → 0 < x.toInt))) ∧
    (x = BitVec.intMin 64 ∧ y = BitVec.allOnes 64 →
      exec (.div g d a b) s = out 12 (BitVec.intMin 64) ∧ exec (.rem g d a b) s = out 12 0)

/-- R150: `s.sel` delivers a if its predicate, read at issue, is 1 and b otherwise, in the next bundle; with its guard false it
writes nothing, whatever the predicate holds; its opcode is 0x32, and its fields stand as the layout SEL of R142 places them, the rest zero. -/
def Obligations.SelectsFollowTheirPredicate : Prop :=
  ∀ (g : Guard) (d : SDst) (a b : SSrc) (pp : BitVec 4) (s : State),
    (s.cur.on g = true → s.cur.readP pp.toNat = true →
      exec (.sel g d a b pp) s = .next (s.gains .s 1 (destS d) (s.cur.readS a).toNat (2 ^ 64 - 1) 0)) ∧
    (s.cur.on g = true → s.cur.readP pp.toNat = false →
      exec (.sel g d a b pp) s = .next (s.gains .s 1 (destS d) (s.cur.readS b).toNat (2 ^ 64 - 1) 0)) ∧
    (s.cur.on g = false → exec (.sel g d a b pp) s = .next s) ∧
    let w := 0x32 * 2 ^ 56 + encGuard g * 2 ^ 51 + encSDst d * 2 ^ 44 + encSSrc a * 2 ^ 37 + encSSrc b * 2 ^ 30 + pp.toNat * 2 ^ 26
    encodeField (.sel g d a b pp) = some (.s, w) ∧ decodeField .s w = some (.sel g d a b pp)

/-- R39: a guarded-off slot operation writes nothing, raises no fault and leaves every part of the machine as it is. -/
def Obligations.GuardedOffDoesNothing : Prop :=
  ∀ (i : Instr) (g : Guard) (s : State), slotGuard i = some g → s.cur.on g = false → exec i s = .next s

/-- R41, R44, R46: a lone due result for an S register lands: it enters the S bypass in front of the two values before
it, and the register takes it unless it is `s0`, which takes nothing.

R41, R44, R46: a lone due result lands in the register that it names, of whatever file, and enters the bypass of the slot that
owns the file in front of what stood there; `p0`, `ka0` and `kb0` take nothing; a masked result changes the bits of its mask alone; a
row mask lands in `zm`. A result whose late data was poisoned faults in its bundle instead (R371; the model's choice, assumption
log 109).

R48, R49, R50: of two due results for one register that takes writes, one reaches it. That of the slot that owns the register
prevails over any other's, and between others' M comes before L, L before Y, Y before X: the register and the latches are left as if
the prevailing one had landed alone, and `coll` is set. Of two results of one slot the later prevails; both enter the bypass, in issue
order, and `coll` stays as it was.

R46, R50: a result that is not yet due stays in flight, and with nothing due no register changes. -/
def Obligations.ResultsLandInTheirBundle : Prop :=
  (∀ (s : State) (x : Result) (r : Nat), s.cur.seq.flight = [x] → x.dest = .s r → x.due ≤ s.cur.seq.stream → x.flags = 0 →
     x.bad = false → s.cur.rcv.rerun = none →
     ∃ t, exec .resultLanding s = .next t ∧ t.cur.seq.flight = [] ∧
       t.cur.regs.byS = ⟨BitVec.ofNat 64 x.val, s.cur.regs.byS.b0, s.cur.regs.byS.b1⟩ ∧
       t.cur.readSReg 0 = 0 ∧ (r ≠ 0 → t.cur.readSReg r = BitVec.ofNat 64 x.val) ∧
       (∀ q, q ≠ r → t.cur.readSReg q = s.cur.readSReg q) ∧
       t.cur.regs.p = s.cur.regs.p ∧ t.cur.regs.fpc = s.cur.regs.fpc ∧ t.cur.regs.fstat = s.cur.regs.fstat ∧
       t.cur.regs.va = s.cur.regs.va ∧ t.cur.regs.vb = s.cur.regs.vb ∧ t.cur.sp = s.cur.sp ∧ t.cur.ls = s.cur.ls ∧
       (∀ c, c ≠ s.turn → t.core c = s.core c) ∧ t.clusters = s.clusters ∧ t.pmem = s.pmem ∧ t.xs = s.xs) ∧
  (∀ (s : State) (x : Result), s.cur.seq.flight = [x] → x.due ≤ s.cur.seq.stream → x.flags = 0 → s.cur.rcv.rerun = none →
     let old := s.cur.regs
     let merged := fun (v o : Nat) (i : Nat) => if x.mask.testBit i then v.testBit i else o.testBit i
     ∃ t, exec .resultLanding s = .next t ∧ t.cur.seq.flight = [] ∧ (∀ c, c ≠ s.turn → t.core c = s.core c) ∧
       (x.bad = true → t.cur.regs = old ∧ (t.cur.seq.efault.map fun f => (f.code, f.slot)) = some (0x0C, x.slot.num)) ∧
       (x.bad = false →
         (∀ n, x.dest = .p n → n < 16 → t.cur.readP 0 = true ∧ (n ≠ 0 → t.cur.readP n = decide (x.val % 2 = 1)) ∧
           (∀ m, m ≠ n → t.cur.readP m = s.cur.readP m) ∧
           t.cur.regs.byS = ⟨BitVec.ofNat 64 (x.val % 2), old.byS.b0, old.byS.b1⟩ ∧ t.cur.regs.s = old.s) ∧
         (∀ n, x.dest = .v .va n → (∀ i, i < 4096 → (Table.get t.cur.regs.va 0 n).getLsbD i = merged x.val (Table.get old.va 0 n).toNat i) ∧
           (∀ m, m ≠ n → Table.get t.cur.regs.va 0 m = Table.get old.va 0 m) ∧
           t.cur.regs.byVA = ⟨Table.get t.cur.regs.va 0 n, old.byVA.b0, old.byVA.b1⟩ ∧ t.cur.regs.vb = old.vb) ∧
         (∀ n, x.dest = .v .vb n → (∀ i, i < 4096 → (Table.get t.cur.regs.vb 0 n).getLsbD i = merged x.val (Table.get old.vb 0 n).toNat i) ∧
           (∀ m, m ≠ n → Table.get t.cur.regs.vb 0 m = Table.get old.vb 0 m) ∧
           t.cur.regs.byVB = ⟨Table.get t.cur.regs.vb 0 n, old.byVB.b0, old.byVB.b1⟩ ∧ t.cur.regs.va = old.va) ∧
         (∀ n, x.dest = .k .va n → n ≠ 0 →
           (∀ i, i < 128 → (Table.get t.cur.regs.ka 0 n).getLsbD i = merged x.val (Table.get old.ka 0 n).toNat i) ∧
           (∀ m, m ≠ n → Table.get t.cur.regs.ka 0 m = Table.get old.ka 0 m) ∧ t.cur.regs.kb = old.kb) ∧
         (∀ n, x.dest = .k .vb n → n ≠ 0 →
           (∀ i, i < 128 → (Table.get t.cur.regs.kb 0 n).getLsbD i = merged x.val (Table.get old.kb 0 n).toNat i) ∧
           (∀ m, m ≠ n → Table.get t.cur.regs.kb 0 m = Table.get old.kb 0 m) ∧ t.cur.regs.ka = old.ka) ∧
         (x.dest = .k .va 0 ∨ x.dest = .k .vb 0 → t.cur.regs.ka = old.ka ∧ t.cur.regs.kb = old.kb) ∧
         (∀ n, x.dest = .e n → Table.get t.cur.regs.e 0 n = BitVec.ofNat 768 x.val ∧
           (∀ m, m ≠ n → Table.get t.cur.regs.e 0 m = Table.get old.e 0 m) ∧
           t.cur.regs.byK = ⟨BitVec.ofNat 768 x.val, old.byK.b0, old.byK.b1⟩) ∧
         (∀ n, x.dest = .la n → Table.get t.cur.regs.la 0 n = BitVec.ofNat 64 x.val ∧
           (∀ m, m ≠ n → Table.get t.cur.regs.la 0 m = Table.get old.la 0 m) ∧
           t.cur.regs.byL = ⟨BitVec.ofNat 64 x.val, old.byL.b0, old.byL.b1⟩) ∧
         (∀ n, x.dest = .ta n → Table.get t.cur.regs.ta 0 n = BitVec.ofNat 64 x.val ∧
           (∀ m, m ≠ n → Table.get t.cur.regs.ta 0 m = Table.get old.ta 0 m) ∧
           t.cur.regs.byT = ⟨BitVec.ofNat 64 x.val, old.byT.b0, old.byT.b1⟩) ∧
         (∀ n, x.dest = .xa n → Table.get t.cur.regs.xa 0 n = BitVec.ofNat 64 x.val ∧
           (∀ m, m ≠ n → Table.get t.cur.regs.xa 0 m = Table.get old.xa 0 m) ∧
           t.cur.regs.byX = ⟨BitVec.ofNat 64 x.val, old.byX.b0, old.byX.b1⟩) ∧
         (x.dest = .zm → t.cur.arr.zm = BitVec.ofNat 96 x.val ∧ t.cur.regs = old))) ∧
  (∀ (s : State) (w l : Result), s.cur.seq.flight = [w, l] ∨ s.cur.seq.flight = [l, w] → w.dest = l.dest → collides w.dest = true →
     w.due ≤ s.cur.seq.stream → l.due ≤ s.cur.seq.stream → w.flags = 0 → l.flags = 0 → w.bad = false → l.bad = false →
     s.cur.rcv.rerun = none →
     let file := owner w.dest
     let order := fun (x : Slot) => match x with | .m => 0 | .l => 1 | .y => 2 | .x => 3 | _ => 4
     let alone := s.setCore s.turn { s.cur with seq := { s.cur.seq with flight := [w] } }
     ∃ t u, exec .resultLanding s = .next t ∧ exec .resultLanding alone = .next u ∧ t.cur.seq.flight = [] ∧
       ((w.slot = file ∧ l.slot ≠ file) ∨ (w.slot ≠ file ∧ l.slot ≠ file ∧ order w.slot < order l.slot) →
         t.cur.regs = { u.cur.regs with fstat := s.cur.regs.fstat ||| 1 }) ∧
       (∀ n, w.dest = .s n → w.slot = l.slot → l.issued < w.issued →
         t.cur.readSReg n = BitVec.ofNat 64 w.val ∧ t.cur.regs.fstat = s.cur.regs.fstat ∧
         t.cur.regs.byS = ⟨BitVec.ofNat 64 w.val, BitVec.ofNat 64 l.val, s.cur.regs.byS.b0⟩)) ∧
  (∀ s : State, (∀ x ∈ s.cur.seq.flight, s.cur.seq.stream < x.due) →
     ∃ t, exec .resultLanding s = .next t ∧ t.cur.regs = s.cur.regs ∧ t.cur.seq.flight = s.cur.seq.flight ∧
       t.cur.sp = s.cur.sp ∧ t.cur.arr = s.cur.arr ∧ (∀ c, c ≠ s.turn → t.core c = s.core c))

/-- R278, R280: a transfer with a true guard to a marked bundle start makes it the next bundle; `call` also sends its
link to d, and `lbrk` drops the top loop. Nothing else changes.

R280: what a transfer refuses. A link of another depth or with a reserved bit set, a register target with a bit above
[21:0] and a loop break without a loop raise the reserved-operand-value fault before the target is looked at; a target
that is no marked start raises the misaligned-target fault. -/
def Obligations.TransfersOfControl : Prop :=
  (∀ (g : Guard) (d : SDst) (a : SSrc) (tgt : CodeAddr) (s : State), s.cur.on g = true →
     (s.progOf s.turn).isStart tgt = true →
     let depth := s.cur.seq.loops.length
     let v := (s.cur.readS a).toNat
     let there := fun (loops : List Loop) =>
       s.setCore s.turn { s.cur with seq := { s.cur.seq with next := some tgt, loops := loops } }
     exec (.b g tgt) s = .next (there s.cur.seq.loops) ∧
     (∀ off : CodeAddr, s.cur.seq.pc + off = tgt → exec (.bp g off) s = .next (there s.cur.seq.loops)) ∧
     exec (.call g d tgt) s = .next ((there s.cur.seq.loops).gains .s 1 (destS d)
       (BitVec.ofNat 64 (depth * 2 ^ 24 + (s.cur.seq.pc.toNat + s.cur.seq.blen) % 2 ^ 22)).toNat (2 ^ 64 - 1) 0) ∧
     (depth ≤ 7 → v = depth * 2 ^ 24 + tgt.toNat → exec (.ret g a) s = .next (there s.cur.seq.loops)) ∧
     (v = tgt.toNat → exec (.jr g a) s = .next (there s.cur.seq.loops)) ∧
     (∀ top rest, s.cur.seq.loops = top :: rest → exec (.lbrk g tgt) s = .next (there rest))) ∧
  (∀ (g : Guard) (d : SDst) (a : SSrc) (tgt : CodeAddr) (s : State), s.cur.on g = true →
     let v := (s.cur.readS a).toNat
     let depth := s.cur.seq.loops.length
     ((s.progOf s.turn).isStart tgt = false →
       exec (.b g tgt) s = .next (s.issueFault .s 0x03) ∧ exec (.call g d tgt) s = .next (s.issueFault .s 0x03) ∧
       (∀ off : CodeAddr, s.cur.seq.pc + off = tgt → exec (.bp g off) s = .next (s.issueFault .s 0x03)) ∧
       (depth ≤ 7 → v = depth * 2 ^ 24 + tgt.toNat → exec (.ret g a) s = .next (s.issueFault .s 0x03)) ∧
       (v = tgt.toNat → exec (.jr g a) s = .next (s.issueFault .s 0x03)) ∧
       (s.cur.seq.loops ≠ [] → exec (.lbrk g tgt) s = .next (s.issueFault .s 0x03))) ∧
     (v / 2 ^ 24 % 8 ≠ depth → exec (.ret g a) s = .next (s.issueFault .s 0x0F)) ∧
     (2 ^ 27 ≤ v ∨ v / 2 ^ 22 % 4 ≠ 0 → exec (.ret g a) s = .next (s.issueFault .s 0x0F)) ∧
     (2 ^ 22 ≤ v → exec (.jr g a) s = .next (s.issueFault .s 0x0F)) ∧
     (s.cur.seq.loops = [] → exec (.lbrk g tgt) s = .next (s.issueFault .s 0x0F)))

/-- R281: a loop whose count is 1 to 2^32 - 1, whose end is a marked start at or behind its first bundle in the same
overlay, with fewer than six loops open and none that ends there or here, is pushed; a count of zero skips the body and
its end bundle, whose length the slot mask and the marker bit of its header give (R32), be its bundle legal or not.

R281: what `loop` refuses. A count above 2^32 - 1, an end before the first bundle or in another overlay, a sixth open loop, and an
open loop that ends there or here raise the reserved-operand-value fault; an end that passes these and is no marked bundle start
raises the misaligned-target fault.

R278, rule 3 and rule 4: behind the end bundle of the top loop the body begins again while more than one pass is
left, and the entry is popped at the last; elsewhere the sequential bundle follows, and code addresses wrap within
their section (R276).

R34, R46, R278: a wait bundle with no stop pending lets one bundle pass and does nothing else: the next bundle is the
one that the loop stack gives, the count of issued bundles advances, and no register, memory or array changes. -/
def Obligations.LoopsAndWaits : Prop :=
  (∀ (g : Guard) (c : SSrc) (last imm : CodeAddr) (s : State), s.cur.on g = true →
     let cnt := ((s.cur.readS c).toNat + imm.toNat) % 2 ^ 64
     let A := s.cur.seq.pc
     let start : CodeAddr := BitVec.ofNat 22 (A.toNat / 65536 * 65536 + (A.toNat + s.cur.seq.blen) % 65536)
     cnt < 2 ^ 32 → start.toNat ≤ last.toNat → last.toNat / 65536 = start.toNat / 65536 → s.cur.seq.loops.length < 6 →
     (∀ top rest, s.cur.seq.loops = top :: rest → last ≠ top.last ∧ A ≠ top.last) → (s.progOf s.turn).isStart last = true →
     (0 < cnt → exec (.loop g c last imm) s = .next (s.setCore s.turn { s.cur with seq := { s.cur.seq with
       loops := { start := start, last := last, count := cnt } :: s.cur.seq.loops } })) ∧
     (cnt = 0 →
       let h := (Table.get (s.progOf s.turn).code 0 last.toNat).toNat
       let words := (16 + ((Slot.all.filter fun sl => h.testBit sl.num).map Slot.width).sum + (if h.testBit 11 then 32 else 0) + 31) / 32
       exec (.loop g c last imm) s = .next (s.setCore s.turn { s.cur with seq := { s.cur.seq with
         next := some (BitVec.ofNat 22 (last.toNat / 65536 * 65536 + (last.toNat + words) % 65536)) } }))) ∧
  (∀ (g : Guard) (c : SSrc) (last imm : CodeAddr) (s : State), s.cur.on g = true →
     let cnt := ((s.cur.readS c).toNat + imm.toNat) % 2 ^ 64
     let A := s.cur.seq.pc
     let start : CodeAddr := BitVec.ofNat 22 (A.toNat / 65536 * 65536 + (A.toNat + s.cur.seq.blen) % 65536)
     let refused := 2 ^ 32 ≤ cnt ∨ last.toNat < start.toNat ∨ last.toNat / 65536 ≠ start.toNat / 65536 ∨ s.cur.seq.loops.length = 6 ∨
       ∃ top rest, s.cur.seq.loops = top :: rest ∧ (last = top.last ∨ A = top.last)
     (refused → exec (.loop g c last imm) s = .next (s.issueFault .s 0x0F)) ∧
     (¬ refused → (s.progOf s.turn).isStart last = false → exec (.loop g c last imm) s = .next (s.issueFault .s 0x03))) ∧
  (∀ s : State,
     let q := s.cur.seq
     let along : CodeAddr := BitVec.ofNat 22 (q.pc.toNat / 65536 * 65536 + (q.pc.toNat + q.blen) % 65536)
     let to_ := fun (pc : CodeAddr) (loops : List Loop) =>
       Host.Outcome.next (s.setCore s.turn { s.cur with seq := { q with pc := pc, loops := loops } })
     (∀ top rest, q.loops = top :: rest → top.last = q.pc → 1 < top.count →
       exec .loopBackEdge s = to_ top.start ({ top with count := top.count - 1 } :: rest)) ∧
     (∀ top rest, q.loops = top :: rest → top.last = q.pc → top.count ≤ 1 → exec .loopBackEdge s = to_ along rest) ∧
     ((∀ top rest, q.loops = top :: rest → top.last ≠ q.pc) → exec .loopBackEdge s = to_ along q.loops)) ∧
  (∀ s : State, s.cur.seq.efault = none → s.cur.seq.trapped = [] → s.cur.seq.traceLeft = 0 →
     ∃ t, exec .waitBundle s = .next t ∧ t.cur.seq.stream = s.cur.seq.stream + 1 ∧
       (∀ a, s.cur.seq.next = some a → t.cur.seq.pc = a ∧ t.cur.seq.loops = s.cur.seq.loops) ∧
       (s.cur.seq.next = none → s.cur.seq.loops = [] → t.cur.seq.pc = BitVec.ofNat 22
         (s.cur.seq.pc.toNat / 65536 * 65536 + (s.cur.seq.pc.toNat + s.cur.seq.blen) % 65536)) ∧
       t.cur.regs = { s.cur.regs with donemask := 0 } ∧ t.cur.seq.flight = s.cur.seq.flight ∧ t.cur.arr = s.cur.arr ∧
       t.cur.sp = s.cur.sp ∧ t.cur.ls = s.cur.ls ∧ t.cur.eng = s.cur.eng ∧ t.cur.ys = s.cur.ys ∧
       (∀ c, c ≠ s.turn → t.core c = s.core c) ∧ t.clusters = s.clusters ∧ t.tasks = s.tasks ∧ t.pmem = s.pmem ∧ t.xs = s.xs)

/-- R5, R42, R81, R43, R258: a read of a system register lands two bundles on with the value at issue; a write takes
effect at once where every reserved bit is zero; a register whose fields are all read-only keeps its value and the
write raises the protection fault; an unknown number and a nonzero reserved bit raise the reserved-operand fault.

R283, R284: `trap` asks, behind its bundle, for a stop that carries its code; in a speculative task the request is
recorded and waits, as a deferred fault does (R270); `halt` marks its core, and changes nothing else; a core so marked has
halted once its bundle has completed.

R228: a pop takes the oldest record's first word, then its second word, and zero from an empty queue; each lands in
the next bundle. The first word's pop takes the record off the queue. -/
def Obligations.SystemRegistersTrapsAndHalts : Prop :=
  (∀ (g : Guard) (d : SDst) (a : SSrc) (s : State), s.cur.on g = true →
     let v := s.cur.readS a
     let out := fun (x : Word64) => Host.Outcome.next (s.gains .s 2 (destS d) x.toNat (2 ^ 64 - 1) 0)
     let regs := fun (r : Regs) => Host.Outcome.next (s.setCore s.turn { s.cur with regs := r })
     exec (.sysr g d 0x000) s = out s.hwcfg ∧ exec (.sysr g d 0x010) s = out s.cur.regs.fpc ∧
     exec (.sysr g d 0x011) s = out s.cur.regs.fstat ∧ exec (.sysr g d 0x020) s = out (s.frontierReg (s.stageOf s.turn)) ∧
     exec (.sysr g d 0x030) s = out s.cur.regs.waitlim ∧ exec (.sysr g d 0x040) s = out s.cur.regs.driftlim ∧
     exec (.sysr g d 0x041) s = out s.cur.regs.donemask ∧ exec (.sysr g d 0x042) s = out (s.cur.regs.lclock.setWidth 64) ∧
     (∀ t k, s.cur.task = some t → s.task? t = some k →
       exec (.sysr g d 0x001) s = out (BitVec.ofNat 64 (k.stage * 2 ^ 13 + s.turn / 8 * 2 ^ 8 +
         ((s.stage k.stage).team - 1) * 2 ^ 4 + s.cur.rank)) ∧
       exec (.sysr g d 0x002) s = out (BitVec.ofNat 64 (k.kind.code * 2 ^ 32 + k.tag % 2 ^ 32)) ∧
       exec (.sysr g d 0x003) s = out (BitVec.ofNat 64 k.key.ts) ∧ exec (.sysr g d 0x004) s = out (BitVec.ofNat 64 k.budget)) ∧
     (v.toNat < 2 ^ 32 → exec (.sysw g a 0x030) s = regs { s.cur.regs with waitlim := v }) ∧
     (v.toNat / 2 ^ 58 % 16 ≤ 8 → exec (.sysw g a 0x040) s = regs { s.cur.regs with driftlim := v }) ∧
     (v.toNat < 2 ^ 14 → v.toNat / 32 % 8 = 0 → s.cur.seq.raised = 0 →
       ∃ x : Word64, exec (.sysw g a 0x010) s = regs { s.cur.regs with fpc := x } ∧
         (∀ i, i < 5 → x.getLsbD i = v.getLsbD i) ∧
         (∀ i, 8 ≤ i → i < 14 → x.getLsbD i = (s.cur.regs.fpc.getLsbD i && !v.getLsbD i))) ∧
     (v.toNat < 4 → s.cur.seq.raisedStat = 0 →
       ∃ x : Word64, exec (.sysw g a 0x011) s = regs { s.cur.regs with fstat := x } ∧
         (∀ i, i < 2 → x.getLsbD i = (s.cur.regs.fstat.getLsbD i && !v.getLsbD i))) ∧
     (∀ num : BitVec 12, num ∈ [0x000, 0x001, 0x002, 0x003, 0x004, 0x020, 0x041, 0x042] →
       exec (.sysw g a num) s = .next (s.issueFault .s 0x0A)) ∧
     (∀ num : BitVec 12, num ∉ [0x000, 0x001, 0x002, 0x003, 0x004, 0x010, 0x011, 0x020, 0x030, 0x040, 0x041, 0x042] →
       exec (.sysr g d num) s = .next (s.issueFault .s 0x0F) ∧ exec (.sysw g a num) s = .next (s.issueFault .s 0x0F)) ∧
     (2 ^ 32 ≤ v.toNat → exec (.sysw g a 0x030) s = .next (s.issueFault .s 0x0F)) ∧
     (2 ^ 14 ≤ v.toNat ∨ v.toNat / 32 % 8 ≠ 0 → exec (.sysw g a 0x010) s = .next (s.issueFault .s 0x0F)) ∧
     (4 ≤ v.toNat → exec (.sysw g a 0x011) s = .next (s.issueFault .s 0x0F)) ∧
     (8 < v.toNat / 2 ^ 58 % 16 → exec (.sysw g a 0x040) s = .next (s.issueFault .s 0x0F))) ∧
  (∀ (g : Guard) (code : Word16) (s : State), s.cur.on g = true →
     (s.cur.seq.inBundle = true → exec (.trap g code) s = .next (s.setCore s.turn { s.cur with seq := { s.cur.seq with
       trapped := { code := 0, core := s.turn, slot := 0, addr := s.cur.seq.pc, safe := s.cur.seq.bsafe,
                    trap := code.toNat } :: s.cur.seq.trapped } })) ∧
     (∀ (t : Nat) (k : Task), s.cur.seq.inBundle = false → s.cur.task = some t → s.task? t = some k →
       ∃ u k', exec (.trap g code) s = .next u ∧ u.task? t = some k' ∧
         (s.speculative s.turn = false →
           (k'.event.map fun e => (e.code, e.trap, e.core, e.addr)) = some (0, code.toNat, s.turn, s.cur.seq.pc)) ∧
         (s.speculative s.turn = true → k.deferred = none →
           k'.event = k.event ∧ (k'.deferred.map fun f => (f.code, f.trap, f.core)) = some (0, code.toNat, s.turn))) ∧
     exec (.halt g) s = .next (s.setCore s.turn { s.cur with seq := { s.cur.seq with
       halting := true, haltPc := s.cur.seq.pc, haltAt := s.cycle } }) ∧
     (s.cur.seq.halting = true → s.cur.seq.efault = none → s.cur.seq.trapped = [] → s.finishBundle.cur.seq.halted = true)) ∧
  (∀ (g : Guard) (d : SDst) (s : State), s.cur.on g = true →
     (s.cur.eng.half = none → s.cur.eng.evq = [] →
       exec (.evpop g d) s = .next (s.gains .s 1 (destS d) 0 (2 ^ 64 - 1) 0)) ∧
     (∀ w, s.cur.eng.half = some w → exec (.evpop g d) s = .next
       ((s.setCore s.turn { s.cur with eng := { s.cur.eng with half := none } }).gains .s 1 (destS d) w.toNat (2 ^ 64 - 1) 0)) ∧
     (∀ r rest, s.cur.eng.half = none → s.cur.eng.evq = r :: rest → recordFault r.w0 = none → s.cur.eng.heldRecords = 0 →
       ∃ t, exec (.evpop g d) s = .next t ∧ t.cur.eng.evq = rest ∧ t.cur.eng.half = some r.w1 ∧
         t.cur.seq.flight = (s.gains .s 1 (destS d) r.w0.toNat (2 ^ 64 - 1) 0).cur.seq.flight ∧
         t.cur.regs.s = s.cur.regs.s ∧ t.cur.sp = s.cur.sp ∧ t.pmem = s.pmem ∧ (∀ c, c ≠ s.turn → t.core c = s.core c)))

/-- R285, R286, R346: `ipf` and the mark `ovl` start a copy; `iunpin` takes a pin away.

R286: a pin that leaves the program some frame without a pin is kept, and the overlay is asked for; one that would
leave none raises the reserved-operand fault.

R285: a copy that is due takes its frame in every core of the team, in the place of the overlays that shared the
frame, unless a pin or the next bundle of one of those cores keeps one of them that is resident there; a core that has
halted or ended has no next bundle. -/
def Obligations.OverlaysComeAndStay : Prop :=
  (∀ (g : Guard) (a : SSrc) (s : State), s.cur.on g = true →
     let o := (s.cur.readS a).toNat / 2 ^ 16 % 64
     (∃ t, exec (.ipf g a) s = .next t ∧ asksFor s t o) ∧
     (∃ t, exec .ovlBundle s = .next t ∧
       (∀ x, s.cur.seq.pc.toNat / 65536 ≠ 0 → Table.get? (s.progOf s.turn).overlays (s.cur.seq.pc.toNat / 65536) = some x →
         asksFor s t x.next)) ∧
     exec (.iunpin g a) s = .next (s.setCore s.turn { s.cur with pins := s.cur.pins.filter (· != o) })) ∧
  (∀ (g : Guard) (a : SSrc) (k : Nat) (x : Overlay) (s : State), s.cur.on g = true → s.cur.task = some k →
     let o := (s.cur.readS a).toNat / 2 ^ 16 % 64
     let p := s.progOf s.turn
     Table.get? p.overlays o = some x → o ≠ 0 → s.coresOf k = [s.turn] →
     let kept := fun (f : Nat) => f = x.frame ∨ ∃ e ∈ p.overlays, e.1 ∈ s.cur.pins ∧ e.2.frame = f
     ((∃ e ∈ p.overlays, ¬ kept e.2.frame) →
       ∃ t, exec (.ipin g a) s = .next t ∧ o ∈ t.cur.pins ∧ (∀ q ∈ s.cur.pins, q ∈ t.cur.pins) ∧
         (o ∉ s.cur.resident → o ∈ t.cur.copying.map (·.1))) ∧
     ((∀ e ∈ p.overlays, kept e.2.frame) → exec (.ipin g a) s = .next (s.issueFault .s 0x0F))) ∧
  (∀ (c k o : Nat) (x : Overlay) (s : State), (s.core c).task = some k →
     Table.get? (s.progOf c).overlays o = some x → (∃ e ∈ (s.core c).copying, e.1 = o ∧ e.2 ≤ s.cycle) →
     let shares := fun (q : Nat) => q ≠ o ∧ ∃ e ∈ (s.progOf c).overlays, e.1 = q ∧ e.2.frame = x.frame
     let here := fun (q : Nat) => shares q ∧ ∃ d ∈ s.coresOf k, q ∈ (s.core d).resident
     let free := ∀ d ∈ s.coresOf k, (∀ q ∈ (s.core d).pins, ¬ here q) ∧
       ((s.core d).seq.halted = false → (s.core d).seq.ended = false → ¬ here ((s.core d).seq.pc.toNat / 65536))
     (free → ∃ t, exec (.overlayCopyComplete c o) s = .next t ∧
       (∀ d ∈ s.coresOf k, o ∈ (t.core d).resident ∧ (∀ q ∈ (t.core d).resident, ¬ shares q) ∧
         ∀ e ∈ (t.core d).copying, e.1 ≠ o) ∧
       (∀ d, d ∉ s.coresOf k → t.core d = s.core d) ∧ t.clusters = s.clusters ∧ t.pmem = s.pmem) ∧
     (¬ free → exec (.overlayCopyComplete c o) s = .next s))

/-- R365, R366, R277: outside a rerun a `seg` bundle takes a rewind point that holds the sequencing state, the mode, the
array, the scale registers, the Y state and the budget as they stand, and begins a segment; the point of the segment
before it is held 1,404 cycles more. A bundle at a segment's entry takes no second point.

R365: a rewind point whose time has come is given up, and only such a point.

R386, R387, R389: outside a rerun a marker within its threshold, or with no trace length set, only logs its drift:
an event record with kind 2, slot 0xF, its address and its drift, followed by its stamp record, when the log has room
for the pair and nothing has been dropped before it; a pair that finds no room is counted. In a rerun it logs
nothing.

R390, R392: a marker beyond its threshold with a trace length arms the trace for that many bundles; with the stop
bit set it also asks for a marker stop behind its bundle. -/
def Obligations.SegmentsAndMarkers : Prop :=
  (∀ s : State, s.cur.rcv.rerun = none →
     (s.cur.rcv.fresh = true → exec .segBundle s = .next s) ∧
     (s.cur.rcv.fresh = false →
       ∃ t rp, exec .segBundle s = .next t ∧ t.cur.rcv.rps.head? = some rp ∧ rp.pc = s.cur.seq.pc ∧
         rp.loops = s.cur.seq.loops ∧ rp.stream = s.cur.seq.stream ∧ rp.fpc = s.cur.regs.fpc ∧ rp.fstat = s.cur.regs.fstat ∧
         rp.e = s.cur.regs.e ∧ rp.arr = s.cur.arr ∧ rp.ys = s.cur.ys ∧ rp.cyc = s.cur.seq.cyc ∧
         rp.spawnSeq = s.cur.eng.spawnSeq ∧ rp.cycle = s.cycle ∧
         (∀ t' k, s.cur.task = some t' → s.task? t' = some k → rp.budget = k.budget) ∧
         (∀ old, s.cur.rcv.rps.head? = some old →
           t.cur.rcv.rps = [rp, { old with freedAt := some (s.cycle + 1404) }]) ∧
         t.cur.rcv.seg = s.cur.rcv.seg + 1 ∧ t.cur.rcv.segStart = s.cycle ∧ t.cur.rcv.fresh = true ∧ t.cur.rcv.seen = [] ∧
         t.cur.rcv.prevSeen = s.cur.rcv.seen ∧ t.cur.regs = s.cur.regs ∧ t.cur.seq = s.cur.seq ∧ t.cur.sp = s.cur.sp ∧
         (∀ c, c ≠ s.turn → t.core c = s.core c) ∧ t.pmem = s.pmem ∧ t.xs = s.xs)) ∧
  (∀ (c : Nat) (s : State), ∃ t, exec (.rewindPointExpiry c) s = .next t ∧
     (∀ p, p ∈ (t.core c).rcv.rps ↔ p ∈ (s.core c).rcv.rps ∧ ∀ f, p.freedAt = some f → s.cycle < f) ∧
     (t.core c).regs = (s.core c).regs ∧ (t.core c).seq = (s.core c).seq ∧ (∀ d, d ≠ c → t.core d = s.core d) ∧
     t.clusters = s.clusters ∧ t.pmem = s.pmem) ∧
  (∀ (e : Word32) (s : State), s.turn < 192 →
     (s.cur.rcv.rerun ≠ none → exec (.markerBundle e) s = .next s) ∧
     (s.cur.rcv.rerun = none →
       let d : Int := (s.cur.seq.cyc : Int) - e.toNat
       let lim := s.cur.regs.driftlim.toNat
       d.natAbs ≤ lim % 2 ^ 16 ∨ lim / 2 ^ 16 % 2 ^ 20 = 0 →
       ∃ t, exec (.markerBundle e) s = .next t ∧ t.cores = s.cores ∧ t.tasks = s.tasks ∧ t.pmem = s.pmem ∧
         (2 * s.host.log.length + 2 ≤ 65536 → s.host.dropped = 0 →
           ∃ p, t.host.log = s.host.log ++ [p] ∧ p.event.toNat = 2 * 2 ^ 60 + s.turn * 2 ^ 52 + 15 * 2 ^ 48 +
               s.cur.seq.pc.toNat * 2 ^ 26 + driftField d) ∧
         (65536 < 2 * s.host.log.length + 2 → t.host.log = s.host.log ∧ t.host.dropped = s.host.dropped + 1))) ∧
  (∀ (e : Word32) (s : State), s.cur.rcv.rerun = none →
     let d : Int := (s.cur.seq.cyc : Int) - e.toNat
     let lim := s.cur.regs.driftlim.toNat
     lim % 2 ^ 16 < d.natAbs → lim / 2 ^ 16 % 2 ^ 20 ≠ 0 →
     ∃ t, exec (.markerBundle e) s = .next t ∧ t.cur.seq.traceLeft = lim / 2 ^ 16 % 2 ^ 20 ∧ t.cur.regs = s.cur.regs ∧
       (s.cur.regs.driftlim.getLsbD 63 = false → t.cur.seq.trapped = s.cur.seq.trapped) ∧
       (s.cur.regs.driftlim.getLsbD 63 = true →
         (t.cur.seq.trapped.map fun f => (f.code, f.trap, f.core, f.addr)) = [(0, 0xFFF0, s.turn, s.cur.seq.pc)]))

/-- R46, R94, R97, R98: a chain with a true guard reads its mask and operands at issue and sends one result: to the
register or transient destination, in the lanes whose mask bit is set (in every lane under `sel`), or, for a compare, to
the lane mask named by dst, in those lanes only. It lands five bundles on, nine for the operations that cross lane
groups. Nothing else changes.

R94, R97: lane by lane, a chain whose unit three moves no lanes and that is no compare delivers what its three units compose: unit
one over A, B and C, unit two over that and C, unit three over that and B. Its flags are those that the units raise in the lanes whose
mask bit is set, and in every lane under `sel`. (Conversions have a statement of their own below.)

R75, R77, R100, R103: on FP32 numbers that are neither infinite nor NaN, the sum, the difference, the product and the fused product
and sum are the exact result, rounded once under the mode in force. (The sign of an exact zero sum is that of R100 and R103.)

R107: the elementary functions at zeros and infinities of FP32, as its table gives them, and the flags that go with them.

R79, R102: the conversions between FP32 and 32-bit integers: an integer becomes the FP32 number that its value rounds to; an FP32
number becomes the integer that it rounds to, the nearest end of the range beyond it, and 0 from a NaN. -/
def Obligations.VectorChainIssues : Prop :=
  (∀ (f : VSlot) (g : Guard) (ch : Chain) (s : State), s.cur.on g = true →
     let far := ch.op3 = .xlg ∨ ((ch.op3 = .scanx ∨ ch.op3 = .rsum ∨ ch.op3 = .rmax) ∧ ch.aux.getLsbD 0 = true)
     let k := s.cur.readK f ch.k.toNat
     ∃ n dest val mask flags,
       exec (.vectorChain f g ch) s = .next (s.gains (if f = .va then .va else .vb) n dest val mask flags) ∧
       (far → n = 9) ∧ (¬ far → n = 5) ∧
       (ch.op2 ≠ .fcmp → ch.op2 ≠ .icmp →
         dest = (match ch.dst with | .reg r => Dest.v f r.toNat | .transient => Dest.byV f) ∧
         (∀ l b, l < 128 → b < 32 → mask.testBit (32 * l + b) = (k.getLsbD l || decide (ch.op3 = .sel)))) ∧
       (∀ r, ch.op2 = .fcmp ∨ ch.op2 = .icmp → ch.op3 ≠ .sel → ch.dst = .reg r → r.toNat < 16 →
         dest = .k f r.toNat ∧ mask = k.toNat)) ∧
  (∀ (f : VSlot) (g : Guard) (ch : Chain) (s : State), s.cur.on g = true → ch.op1 ≠ .cvt → ch.op2 ≠ .fcmp → ch.op2 ≠ .icmp →
     ch.op3 ∉ [Op3.perm, .bcast, .rsum, .rmax, .scanx, .xlg] →
     let md := modeOf s.cur.modeFpc
     let a := fun (l : Nat) => (lane (s.cur.readV f ch.a) l).toNat
     let b := fun (l : Nat) => (lane (s.cur.readV f ch.b) l).toNat
     let c := fun (l : Nat) => (lane (s.cur.readV f ch.c) l).toNat
     let k := s.cur.readK f ch.k.toNat
     let u1 := fun (l : Nat) => unit1 ch.op1 ch.ty ch.aux.toNat md (a l) (b l) (c l)
     let u2 := fun (l : Nat) => unit2 ch.op2 ch.ty ch.aux.toNat md (u1 l).1 (c l)
     let u3 := fun (l : Nat) => unit3Lane ch.op3 ch.ty md (k.getLsbD l) (u2 l).1 (b l)
     ∃ dest val mask flags, exec (.vectorChain f g ch) s =
         .next (s.gains (if f = .va then .va else .vb) 5 dest val mask flags) ∧
       (∀ l, l < 128 → val / 2 ^ (32 * l) % 2 ^ 32 = (u3 l).1) ∧
       (∀ i, flags.testBit i = true ↔ ∃ l, l < 128 ∧ (k.getLsbD l = true ∨ ch.op3 = .sel) ∧
         ((u1 l).2.testBit i = true ∨ (u2 l).2.testBit i = true ∨ (u3 l).2.testBit i = true))) ∧
  (∀ (f : VSlot) (g : Guard) (ch : Chain) (s : State), s.cur.on g = true → ch.ty = .f32 → ch.op3 = .pass →
     let md := modeOf s.cur.modeFpc
     let x := fun (r : VSrc) (l : Nat) => decodeF FP32 md.ftz (lane (s.cur.readV f r) l).toNat
     ∃ dest val mask flags, exec (.vectorChain f g ch) s =
         .next (s.gains (if f = .va then .va else .vb) 5 dest val mask flags) ∧
       ∀ l, l < 128 → ∀ (na nb nc : Bool) (ma mb mc : Nat) (ea eb ec : Int),
         x ch.a l = .fin na ma ea → x ch.b l = .fin nb mb eb → x ch.c l = .fin nc mc ec →
         let got := val / 2 ^ (32 * l) % 2 ^ 32
         let product := (⟨na, ma, ea⟩ : Exact).mul ⟨nb, mb, eb⟩
         (ch.op1 = .fmul → ch.op2 = .pass → got = (product.round FP32 md).1) ∧
         (ch.op1 = .fma → ch.op2 = .pass → got = ((product.add md.rm ⟨nc, mc, ec⟩).round FP32 md).1) ∧
         (ch.op1 = .pass → ch.op2 = .fadd → got = (((⟨na, ma, ea⟩ : Exact).add md.rm ⟨nc, mc, ec⟩).round FP32 md).1) ∧
         (ch.op1 = .pass → ch.op2 = .fsub → got = (((⟨na, ma, ea⟩ : Exact).add md.rm ⟨!nc, mc, ec⟩).round FP32 md).1)) ∧
  (∀ (f : VSlot) (g : Guard) (ch : Chain) (s : State), s.cur.on g = true → ch.ty = .f32 → ch.op1 = .pass → ch.op2 = .pass →
     ch.op3 ∈ [Op3.gelu, .exp2, .log2, .rcp, .rsqrt] →
     let pick := fun (gelu exp2 log2 rcp rsqrt : Nat) => match ch.op3 with
       | .gelu => gelu | .exp2 => exp2 | .log2 => log2 | .rcp => rcp | _ => rsqrt
     let k := s.cur.readK f ch.k.toNat
     ∃ dest val mask flags, exec (.vectorChain f g ch) s =
         .next (s.gains (if f = .va then .va else .vb) 5 dest val mask flags) ∧
       ∀ l, l < 128 →
         let a := (lane (s.cur.readV f ch.a) l).toNat
         let got := val / 2 ^ (32 * l) % 2 ^ 32
         (a = 0 → got = pick 0 0x3F800000 0xFF800000 0x7F800000 0x7F800000) ∧
         (a = 0x80000000 → got = pick 0x80000000 0x3F800000 0xFF800000 0xFF800000 0xFF800000) ∧
         (a = 0x7F800000 → got = pick 0x7F800000 0x7F800000 0x7F800000 0 0) ∧
         (a = 0xFF800000 → got = pick 0x80000000 0 0x7FC00000 0x80000000 0x7FC00000) ∧
         (k.getLsbD l = true → a = 0 → ch.op3 ∈ [Op3.log2, .rcp, .rsqrt] → flags.testBit 11 = true) ∧
         (k.getLsbD l = true → a = 0xFF800000 → ch.op3 ∈ [Op3.log2, .rsqrt] → flags.testBit 12 = true)) ∧
  (∀ (f : VSlot) (g : Guard) (ch : Chain) (s : State), s.cur.on g = true → ch.op1 = .cvt → ch.op2 = .pass → ch.op3 = .pass →
     let md := modeOf s.cur.modeFpc
     ∃ dest val mask flags, exec (.vectorChain f g ch) s =
         .next (s.gains (if f = .va then .va else .vb) 5 dest val mask flags) ∧
       (ch.ty = .f32 → ch.aux = 1 → ∀ l, l < 128 →
         let v := (lane (s.cur.readV f ch.a) l).toInt
         val / 2 ^ (32 * l) % 2 ^ 32 = (roundF FP32 md (decide (v < 0)) v.natAbs 0).1) ∧
       (ch.ty = .i32 → ch.aux = 0 → ∀ l, l < 128 →
         let got : Word32 := BitVec.ofNat 32 (val / 2 ^ (32 * l))
         match decodeF FP32 md.ftz (lane (s.cur.readV f ch.a) l).toNat with
         | .nan _ _ _ => got = 0
         | .inf n => got = if n then BitVec.intMin 32 else BitVec.intMax 32
         | .fin n m e =>
           let whole := (roundAt md.rm n m e 0).1
           got.toInt = max (-(2 ^ 31)) (min (2 ^ 31 - 1) (if n then -(whole : Int) else whole))))

/-- R94, R101, R104: lane by lane, an `i32` chain of wrapping products, bitwise operations, wrapping sums and
differences and unsigned choices has the value that the rules compose, and raises no flag.

R91, R106: lane by lane, the shifts, the rotate, the bit count and `relu` of unit three on `i32`, with no flag.

R104: lane by lane, the signed choices, the clamped sum and difference and the distance of unit two on `i32`; a clamped value in a
lane whose mask bit is set raises `sat`.

R105: an `icmp` on `i32` sends, for every lane, the outcome of its condition; no flag is raised. -/
def Obligations.VectorIntegerResults : Prop :=
  (∀ (f : VSlot) (g : Guard) (ch : Chain) (s : State), s.cur.on g = true → ch.ty = .i32 → ch.op3 = .pass →
     ch.op1 ∈ [Op1.pass, .and, .or, .xor, .imul] → ch.op2 ∈ [Op2.pass, .iadd, .isub, .iminu, .imaxu] →
     ∃ dest val mask, exec (.vectorChain f g ch) s =
         .next (s.gains (if f = .va then .va else .vb) 5 dest val mask 0) ∧
       ∀ l, l < 128 → val / 2 ^ (32 * l) % 2 ^ 32 =
         laneTwo ch.op2 (laneOne ch.op1 (lane (s.cur.readV f ch.a) l).toNat (lane (s.cur.readV f ch.b) l).toNat)
           (lane (s.cur.readV f ch.c) l).toNat) ∧
  (∀ (f : VSlot) (g : Guard) (ch : Chain) (s : State), s.cur.on g = true → ch.ty = .i32 → ch.op1 = .pass → ch.op2 = .pass →
     ch.op3 ∈ [Op3.shl, .shr, .sar, .rot, .popc, .relu] →
     ∃ dest val mask, exec (.vectorChain f g ch) s =
         .next (s.gains (if f = .va then .va else .vb) 5 dest val mask 0) ∧
       ∀ l, l < 128 → val / 2 ^ (32 * l) % 2 ^ 32 =
         laneThree ch.op3 (lane (s.cur.readV f ch.a) l) (lane (s.cur.readV f ch.b) l).toNat) ∧
  (∀ (f : VSlot) (g : Guard) (ch : Chain) (s : State), s.cur.on g = true → ch.ty = .i32 → ch.op1 = .pass → ch.op3 = .pass →
     ch.op2 ∈ [Op2.imin, .imax, .absd, .iadds, .isubs] →
     let x := fun (l : Nat) => (lane (s.cur.readV f ch.a) l).toInt
     let y := fun (l : Nat) => (lane (s.cur.readV f ch.c) l).toInt
     let full := fun (l : Nat) => if ch.op2 = .iadds then x l + y l else x l - y l
     let clamped := fun (l : Nat) => max (-(2 ^ 31)) (min (2 ^ 31 - 1) (full l))
     ∃ dest val mask flags, exec (.vectorChain f g ch) s =
         .next (s.gains (if f = .va then .va else .vb) 5 dest val mask flags) ∧
       (∀ l, l < 128 →
         let got : Word32 := BitVec.ofNat 32 (val / 2 ^ (32 * l))
         (ch.op2 = .imin → got.toInt = min (x l) (y l)) ∧ (ch.op2 = .imax → got.toInt = max (x l) (y l)) ∧
         (ch.op2 = .absd → got.toNat = (x l - y l).natAbs) ∧
         (ch.op2 = .iadds ∨ ch.op2 = .isubs → got.toInt = clamped l)) ∧
       (flags ≠ 0 ↔ (ch.op2 = .iadds ∨ ch.op2 = .isubs) ∧
         ∃ l, l < 128 ∧ (s.cur.readK f ch.k.toNat).getLsbD l = true ∧ clamped l ≠ full l)) ∧
  (∀ (f : VSlot) (g : Guard) (ch : Chain) (r : BitVec 10) (s : State), s.cur.on g = true → ch.ty = .i32 → ch.op1 = .pass →
     ch.op2 = .icmp → ch.op3 = .pass → ch.dst = .reg r → r.toNat < 16 → ch.aux.toNat < 8 →
     ∃ val, exec (.vectorChain f g ch) s = .next (s.gains (if f = .va then .va else .vb) 5 (.k f r.toNat) val
         (s.cur.readK f ch.k.toNat).toNat 0) ∧
       ∀ l, l < 128 →
         let x := lane (s.cur.readV f ch.a) l
         let y := lane (s.cur.readV f ch.c) l
         val.testBit l = (match ch.aux.toNat with
           | 0 => decide (x.toNat = y.toNat) | 1 => decide (x.toNat ≠ y.toNat) | 2 => decide (x.toInt < y.toInt)
           | 3 => decide (x.toInt ≤ y.toInt) | 4 => decide (x.toNat < y.toNat) | 5 => decide (x.toNat ≤ y.toNat)
           | 6 => decide (y.toInt < x.toInt) | _ => decide (y.toNat < x.toNat)))

/-- R108, R109: `sel` takes A's chain value where the mask bit is set and B elsewhere, and writes every lane; `perm` takes,
in each group of 16 lanes, the lane whose number B gives.

R109, R111, R112: `bcast` spreads one lane of each group over the group; `xlg` takes each lane from another group, rotated by or
exchanged with aux[2:0]; `scanx` folds XOR over a span of 16 or 128 lanes, seeded by B's first lane of the span, with or without the lane
itself. None raises a flag.

R108, R110: on `i32`, `rsum` gives every lane of a span the sum of the span's lanes modulo 2^32 and `rmax` their greatest, signed or
unsigned; `pack` joins two lanes, each saturated to 16 bits; `unpack` on `i16x2` extends the sign of the half that B names. -/
def Obligations.VectorSelectAndPermute : Prop :=
  (∀ (f : VSlot) (g : Guard) (ch : Chain) (s : State), s.cur.on g = true → ch.op1 = .pass → ch.op2 = .pass →
     let a := fun (l : Nat) => (lane (s.cur.readV f ch.a) l).toNat
     let b := fun (l : Nat) => (lane (s.cur.readV f ch.b) l).toNat
     let k := s.cur.readK f ch.k.toNat
     (ch.op3 = .sel → ∃ dest val, exec (.vectorChain f g ch) s =
         .next (s.gains (if f = .va then .va else .vb) 5 dest val (2 ^ 4096 - 1) 0) ∧
       ∀ l, l < 128 → val / 2 ^ (32 * l) % 2 ^ 32 = if k.getLsbD l then a l else b l) ∧
     (ch.op3 = .perm → ∃ dest val mask, exec (.vectorChain f g ch) s =
         .next (s.gains (if f = .va then .va else .vb) 5 dest val mask 0) ∧
       ∀ l, l < 128 → val / 2 ^ (32 * l) % 2 ^ 32 = a (l / 16 * 16 + b l % 16))) ∧
  (∀ (f : VSlot) (g : Guard) (ch : Chain) (s : State), s.cur.on g = true → ch.op1 = .pass → ch.op2 = .pass →
     let a := fun (l : Nat) => (lane (s.cur.readV f ch.a) l).toNat
     let b := fun (l : Nat) => (lane (s.cur.readV f ch.b) l).toNat
     let sends := fun (n : Nat) (v : Nat → Nat) => ∃ dest val mask, exec (.vectorChain f g ch) s =
         .next (s.gains (if f = .va then .va else .vb) n dest val mask 0) ∧
       ∀ l, l < 128 → val / 2 ^ (32 * l) % 2 ^ 32 = v l
     let N := if ch.aux.getLsbD 0 then 128 else 16
     let n := if ch.aux.getLsbD 0 then 9 else 5
     (ch.op3 = .bcast → sends 5 fun l => a (l / 16 * 16 + b (l / 16 * 16) % 16)) ∧
     (ch.op3 = .xlg → sends 9 fun l =>
       a ((if ch.aux.getLsbD 3 then (l / 16) ^^^ (ch.aux.toNat % 8) else (l / 16 + ch.aux.toNat % 8) % 8) * 16 + l % 16)) ∧
     (ch.op3 = .scanx → sends n fun l =>
       (List.range (l % N + (if ch.aux.getLsbD 1 then 0 else 1))).foldl (fun acc j => acc ^^^ a (l / N * N + j)) (b (l / N * N)))) ∧
  (∀ (f : VSlot) (g : Guard) (ch : Chain) (s : State), s.cur.on g = true → ch.op1 = .pass → ch.op2 = .pass →
     let x := fun (l : Nat) => lane (s.cur.readV f ch.a) l
     let y := fun (l : Nat) => lane (s.cur.readV f ch.b) l
     let N := if ch.aux.getLsbD 0 then 128 else 16
     let n := if ch.aux.getLsbD 0 then 9 else 5
     let sat := fun (v : Word32) => (max (-(2 ^ 15)) (min (2 ^ 15 - 1) v.toInt) % 2 ^ 16).toNat
     ∃ m dest val mask flags, exec (.vectorChain f g ch) s =
         .next (s.gains (if f = .va then .va else .vb) m dest val mask flags) ∧
       (ch.ty = .i32 → ch.op3 = .rsum → m = n ∧ flags = 0 ∧ ∀ l, l < 128 →
         val / 2 ^ (32 * l) % 2 ^ 32 = ((List.range N).map fun j => (x (l / N * N + j)).toNat).sum % 2 ^ 32) ∧
       (ch.ty = .i32 → ch.op3 = .rmax → m = n ∧ flags = 0 ∧ ∀ l, l < 128 →
         let got : Word32 := BitVec.ofNat 32 (val / 2 ^ (32 * l))
         (∃ j, j < N ∧ got = x (l / N * N + j)) ∧
         ∀ j, j < N → if ch.aux.getLsbD 1 then (x (l / N * N + j)).toNat ≤ got.toNat else (x (l / N * N + j)).toInt ≤ got.toInt) ∧
       (ch.ty = .i32 → ch.op3 = .pack → m = 5 ∧ ∀ l, l < 128 →
         val / 2 ^ (32 * l) % 2 ^ 32 = sat (x l) + sat (y l) * 2 ^ 16) ∧
       (ch.ty = .i16x2 → ch.op3 = .unpack → m = 5 ∧ flags = 0 ∧ ∀ l, l < 128 →
         (BitVec.ofNat 32 (val / 2 ^ (32 * l)) : Word32).toInt = ((x l).extractLsb' (16 * ((y l).toNat % 2)) 16).toInt))

/-- R117, R118, R120, R126, R133: a push that meets none of the conditions of R126 and has its token injects a slice
of the two parts read now, tagged with the active plane, and its bundle carries an advancing beat; a LOG6 push counts
towards its block. `mburst` opens a burst; the other two need one open. Registers, memories and other cores stay.

R126, R137: `mburst` without a token holds its bundle. What a push is refused with: no burst open, another format inside a LOG6 block, a push of any format in the three
bundles after an FP32 push, or a part that passes its group or touches a third bank.

R117, R118, R127 (and, for the sign of an exact zero sum, assumption log 5): with one FP32 slice at its own beat, an advancing bundle adds the product of its first row and
column elements to cell (0, 0) of its plane, rounded once, when the cell is enabled; every other cell stays.

R117, R131, R133, R137: the beats that inject nothing. A quiet array counts the beat of `mshift`; `mhold` has no
effect; `mend` closes the burst; `mclr` sets the named planes to zero and leaves the other, whatever the mask holds;
`mswap` toggles the active plane, and is refused inside a LOG6 block. -/
def Obligations.MatrixPushesAndBeats : Prop :=
  (∀ (g : Guard) (fmt : MFmt) (ai bi : BitVec 14) (pair : BitVec 5) (tr : Bool) (s : State), s.cur.on g = true →
     partFits (96 * ai.toNat) (partSizes fmt).1 → partFits (96 * bi.toNat) (partSizes fmt).2 →
     (s.cur.arr.mblk = 0 ∨ fmt = .log6) →
     (∀ b, s.cur.arr.lastF32 = some b → b + 3 < s.cur.seq.stream) →
     (s.clu (s.turn / 8)).hasToken = true →
     let pushed := fun (o : Host.Outcome State Fault Refusal) (tr : Bool) =>
       ∃ t, o = .next t ∧ t.cur.arr.beat = s.cur.arr.beat + 1 ∧ t.cur.arr.burst = true ∧
         t.cur.arr.active = s.cur.arr.active ∧ t.cur.arr.zm = s.cur.arr.zm ∧
         t.cur.arr.mblk = (if fmt = .log6 then (s.cur.arr.mblk + 1) % 6 else s.cur.arr.mblk) ∧
         (fmt = .f32 → t.cur.arr.lastF32 = some s.cur.seq.stream) ∧
         (s.cur.arr.wave = [] → ∃ x, t.cur.arr.wave = [x] ∧ x.beat = s.cur.arr.beat ∧ x.plane = s.cur.arr.active ∧
           x.fmt = fmt ∧ x.tr = tr ∧ x.pair = pair.toNat ∧ x.a = s.cur.sp.readLE (96 * ai.toNat) (partSizes fmt).1 ∧
           x.b = s.cur.sp.readLE (0x180000 + 96 * bi.toNat) (partSizes fmt).2) ∧
         t.cur.regs = s.cur.regs ∧ t.cur.seq = s.cur.seq ∧ t.cur.sp = s.cur.sp ∧
         (∀ c, c ≠ s.turn → t.core c = s.core c) ∧ t.clusters = s.clusters ∧ t.pmem = s.pmem
     pushed (exec (.mburst g fmt ai bi pair tr) s) tr ∧
     (s.cur.arr.burst = true → pushed (exec (.mpush g fmt ai bi pair) s) false ∧
       pushed (exec (.mpusht g fmt ai bi pair) s) true)) ∧
  (∀ (g : Guard) (fmt : MFmt) (ai bi : BitVec 14) (pair : BitVec 5) (tr : Bool) (s : State), s.cur.on g = true →
     (s.cur.arr.burst = false → exec (.mpush g fmt ai bi pair) s = .next (s.issueFault .m 0x0F) ∧
       exec (.mpusht g fmt ai bi pair) s = .next (s.issueFault .m 0x0F)) ∧
     ((s.clu (s.turn / 8)).hasToken = false → partFits (96 * ai.toNat) (partSizes fmt).1 → partFits (96 * bi.toNat) (partSizes fmt).2 →
       s.cur.arr.mblk = 0 ∨ fmt = .log6 → (∀ b, s.cur.arr.lastF32 = some b → b + 3 < s.cur.seq.stream) →
       exec (.mburst g fmt ai bi pair tr) s = .next (s.holdFor .m .token)) ∧
     (s.cur.arr.mblk ≠ 0 → fmt ≠ .log6 → exec (.mburst g fmt ai bi pair tr) s = .next (s.issueFault .m 0x0F)) ∧
     (∀ b, s.cur.arr.lastF32 = some b → s.cur.seq.stream ≤ b + 3 →
       exec (.mburst g fmt ai bi pair tr) s = .next (s.issueFault .m 0x0F)) ∧
     ((∀ b, s.cur.arr.lastF32 = some b → b + 3 < s.cur.seq.stream) → s.cur.arr.mblk = 0 ∨ fmt = .log6 → ¬ partFits (96 * ai.toNat) (partSizes fmt).1 →
       exec (.mburst g fmt ai bi pair tr) s = .next (s.issueFault .m 0x04))) ∧
  (∀ (g : Guard) (x : Slice) (s : State), s.cur.on g = true → s.cur.arr.wave = [x] → x.beat = s.cur.arr.beat →
     x.fmt = .f32 → x.tr = false → s.cur.arr.enabled 0 0 = true →
     ∃ t, exec (.mshift g) s = .next t ∧
       t.cur.arr.cell x.plane 0 0 = BitVec.ofNat 32 (roundFP32 (addExactV (decodeF FP32 false (s.cur.arr.cell x.plane 0 0).toNat)
         (mulExactV (decodeF FP32 false (x.a % 2 ^ 32)) (decodeF FP32 false (x.b % 2 ^ 32))))) ∧
       (∀ p i j, i < 96 → j < 96 → (p, i, j) ≠ (x.plane, 0, 0) → t.cur.arr.cell p i j = s.cur.arr.cell p i j) ∧
       t.cur.arr.wave = [x] ∧ t.cur.arr.beat = s.cur.arr.beat + 1) ∧
  (∀ (g : Guard) (p0 p1 : Bool) (s : State), s.cur.on g = true →
     let arr := fun (a : ArrayState) => Host.Outcome.next (s.setCore s.turn { s.cur with arr := a })
     (s.cur.arr.wave = [] → exec (.mshift g) s = arr { s.cur.arr with beat := s.cur.arr.beat + 1 }) ∧
     exec (.mhold g) s = .next s ∧
     exec (.mend g) s = arr { s.cur.arr with burst := false } ∧
     (∃ a, exec (.mclr g p0 p1) s = arr a ∧ a = { s.cur.arr with z := a.z } ∧
       ∀ p i j, i < 96 → j < 96 → a.cell p i j = if (if p then p1 else p0) then 0 else s.cur.arr.cell p i j) ∧
     (s.cur.arr.mblk = 0 → exec (.mswap g) s = arr { s.cur.arr with active := !s.cur.arr.active }) ∧
     (s.cur.arr.mblk ≠ 0 → exec (.mswap g) s = .next (s.issueFault .m 0x0F)))

/-- R132, R134: a drain of a row sends the enabled cells four bundles on, lane by lane or word by word, and leaves the
others out; with `clr` the enabled cells become zero. A row past 95 is refused, and so is a region past its group or on a
third bank. A mask lands six bundles on: all ones, or the twelve bytes at its offset.

R89, R135, R136: scale registers take, eight bundles on, the codes of a bank word with its swizzle undone, 96 bytes as
they lie, another scale register, or one code in all 96 places. -/
def Obligations.MatrixDrainsMasksAndScales : Prop :=
  (∀ (g : Guard) (plane : Bool) (row : BitVec 7) (f : VSlot) (r : BitVec 10) (grp : Group) (ix : BitVec 14) (mx : BitVec 17)
     (clr block : Bool) (s : State), s.cur.on g = true →
     let base := match grp with | .a => 0 | .b => 0x180000
     let drained := fun (o : Host.Outcome State Fault Refusal) (dest : Dest) =>
       (∃ j, j < 96 ∧ s.cur.arr.enabled row.toNat j = true) →
       ∃ t v m, o = .next t ∧ t.cur.seq = (s.gains .m 4 dest v m 0).cur.seq ∧
         (∀ j, j < 96 → s.cur.arr.enabled row.toNat j = true →
           v / 2 ^ (32 * j) % 2 ^ 32 = (s.cur.arr.cell plane row.toNat j).toNat ∧ m / 2 ^ (32 * j) % 2 ^ 32 = 2 ^ 32 - 1) ∧
         (∀ j, s.cur.arr.enabled row.toNat j = false ∨ 96 ≤ j → m / 2 ^ (32 * j) % 2 ^ 32 = 0) ∧
         (∀ p i j, i < 96 → j < 96 → t.cur.arr.cell p i j =
           if clr ∧ p = plane ∧ i = row.toNat ∧ s.cur.arr.enabled i j = true then 0 else s.cur.arr.cell p i j) ∧
         t.cur.regs = s.cur.regs ∧ t.cur.sp = s.cur.sp ∧ (∀ c, c ≠ s.turn → t.core c = s.core c)
     (row.toNat < 96 → drained (exec (.mdrain g plane row (.vec f r) clr) s) (.v f r.toNat)) ∧
     (row.toNat < 96 → partFits (96 * ix.toNat) 384 →
       drained (exec (.mdrain g plane row (.sp grp ix) clr) s) (.sp (base + 96 * ix.toNat))) ∧
     (96 ≤ row.toNat → exec (.mdrain g plane row (.vec f r) clr) s = .next (s.issueFault .m 0x0F)) ∧
     (row.toNat < 96 → ¬ partFits (96 * ix.toNat) 384 →
       exec (.mdrain g plane row (.sp grp ix) clr) s = .next (s.issueFault .m 0x04)) ∧
     exec (.mmask g block .ones) s =
       .next (s.gains .m 6 .zm (2 ^ 96 - 1 + (if block then 2 ^ 96 else 0)) (2 ^ 97 - 1) 0) ∧
     (16 * mx.toNat + 12 ≤ 0x180000 → ∃ t, exec (.mmask g block (.sp grp mx)) s = .next t ∧
       t.cur.seq = (s.gains .m 6 .zm (s.cur.sp.readLE (base + 16 * mx.toNat) 12 + (if block then 2 ^ 96 else 0)) (2 ^ 97 - 1) 0).cur.seq ∧
       t.cur.arr = s.cur.arr ∧ t.cur.regs = s.cur.regs)) ∧
  (∀ (g : Guard) (e d r : BitVec 6) (grp : Group) (ix : BitVec 14) (px : BitVec 16) (c : Byte) (s : State), s.cur.on g = true →
     let base := match grp with | .a => 0 | .b => 0x180000
     let sent := fun (o : Host.Outcome State Fault Refusal) (dst : BitVec 6) (code : Nat → Nat) =>
       ∃ t v, o = .next t ∧ t.cur.seq = (s.gains .k 8 (.e dst.toNat) v (2 ^ 768 - 1) 0).cur.seq ∧
         (∀ q, q < 96 → v / 2 ^ (8 * q) % 2 ^ 8 = code q) ∧ t.cur.regs = s.cur.regs ∧ t.cur.sp = s.cur.sp ∧
         t.cur.arr = s.cur.arr ∧ (∀ n, n ≠ s.turn → t.core n = s.core n)
     (ix.toNat < 12288 → sent (exec (.kld g e grp ix) s) e fun q =>
       (s.cur.sp.read (base + 128 * ix.toNat + (q ^^^ (8 * (ix.toNat % 4))))).toNat) ∧
     (32 * px.toNat + 96 ≤ 0x180000 → sent (exec (.kldp g e grp px) s) e fun q =>
       (s.cur.sp.read (base + 32 * px.toNat + q)).toNat) ∧
     sent (exec (.kmov g d r) s) d (fun q => (s.cur.readE r.toNat).toNat / 2 ^ (8 * q) % 2 ^ 8) ∧
     sent (exec (.kset g e c) s) e (fun _ => c.toNat) ∧
     (12288 ≤ ix.toNat → exec (.kld g e grp ix) s = .next (s.execFault .k 0x05)) ∧
     (0x180000 < 32 * px.toNat + 96 → exec (.kldp g e grp px) s = .next (s.execFault .k 0x05)))

/-- R171-R174, R187: a whole-register load whose elements are aligned and readable sends the bytes read at its issue to
its register, and changes no register and no memory.

R172, R175: a pair load sends 1,024 bytes to two registers; a scalar load sends 1, 2, 4 or 8 bytes, zero-extended or
sign-extended, and `ldacq` sends what `lds` sends.

R176: a load of the lane slices sends to each lane the four bytes at its offset of that lane's slice.

R167, R172-R176: a load whose first address is misaligned raises the reserved-operand fault at issue and sends
nothing; an aligned one that passes the bound of an on-chip level raises the protection fault in execution.

R168, R177: a prefetch changes no register and no memory and sends nothing; a misaligned one is refused. -/
def Obligations.LoadsReadTheirLevel : Prop :=
  (∀ (i : Instr) (g : Guard) (f : VSlot) (d : Nat) (lvl : Level) (w : Nat) (A : Nat → Nat) (B : Nat → Byte) (s : State),
     slotGuard i = some g → s.cur.on g = true → i.wf = true → vectorLoad i s = some (f, d, lvl, w, A) →
     (∀ j, j * w < 512 → A (j * w) % w = 0) → readsNow s lvl 512 w A B →
     ∃ t, exec i s = .next t ∧ hasSent s t lvl (.v f d) (holdsBytes 512 B) ∧ loadFrame s t) ∧
  (∀ (g : Guard) (f : VSlot) (d : BitVec 10) (sd : BitVec 6) (b : BitVec 5) (lvl : Level) (sz : LSize) (x : BitVec 24)
     (y : BitVec 31) (B : Nat → Byte) (s : State), s.cur.on g = true →
     let ea := (s.cur.readLA b + BitVec.ofInt 64 (x.toInt * 128)).toNat
     let es := (s.cur.readLA b + BitVec.ofInt 64 y.toInt).toNat
     let n := sz.bytes
     let signed := sz = .sb ∨ sz = .sh ∨ sz = .sw
     let good := fun (v : Nat) => holdsBytes n B v ∧ v < 2 ^ 64 ∧
       (∀ k, n ≤ k → k < 8 → v / 2 ^ (8 * k) % 2 ^ 8 = if signed ∧ (B (n - 1)).msb = true then 255 else 0)
     (ea % 128 = 0 → lvl ≠ .gl → readsNow s lvl 1024 128 (fun k => ea + k) B →
       ∃ t, exec (.ldvp g f d b lvl x) s = .next t ∧ hasSent s t lvl (.v f d.toNat) (holdsBytes 512 B) ∧
         hasSent s t lvl (.v f (d.toNat + 1)) (holdsBytes 512 fun k => B (512 + k)) ∧ loadFrame s t) ∧
     (es % n = 0 → readsNow s lvl n n (fun k => es + k) B →
       (∃ t, exec (.lds g sd b lvl sz y) s = .next t ∧ hasSent s t lvl (.s sd.toNat) good ∧ loadFrame s t) ∧
       (∃ t, exec (.ldacq g sd b lvl sz y) s = .next t ∧ hasSent s t lvl (.s sd.toNat) good ∧ loadFrame s t))) ∧
  (∀ (g : Guard) (f : VSlot) (d : BitVec 10) (b : BitVec 5) (x : BitVec 13) (s : State), s.cur.on g = true →
     let o := (s.cur.readLA b + BitVec.ofNat 64 x.toNat).toNat
     (o % 4 = 0 → o + 4 ≤ 0x2000 → ∃ t v, exec (.ldl g f d b x) s = .next t ∧
       t.cur.seq = (s.gains .l 3 (.v f d.toNat) v (2 ^ 4096 - 1) 0).cur.seq ∧
       (∀ l k, l < 128 → k < 4 → v / 2 ^ (32 * l + 8 * k) % 2 ^ 8 = (s.cur.ls.read (0x2000 * l + o + k)).toNat) ∧
       loadFrame s t) ∧
     (o % 4 ≠ 0 → exec (.ldl g f d b x) s = .next (s.issueFault .l 0x0F)) ∧
     (o % 4 = 0 → 0x2000 < o + 4 → exec (.ldl g f d b x) s = .next (s.execFault .l 0x0A))) ∧
  (∀ (i : Instr) (g : Guard) (f : VSlot) (d : Nat) (lvl : Level) (w : Nat) (A : Nat → Nat) (s : State),
     slotGuard i = some g → s.cur.on g = true → i.wf = true → vectorLoad i s = some (f, d, lvl, w, A) →
     ((∃ j, j * w < 512 ∧ A (j * w) % w ≠ 0) → exec i s = .next (s.issueFault .l 0x0F)) ∧
     ((∀ j, j * w < 512 → A (j * w) % w = 0) → lvl ≠ .gl → (∃ k, k < 512 ∧ s.levelBound s.turn lvl ≤ A k) →
       exec i s = .next (s.execFault .l 0x0A))) ∧
  (∀ (g : Guard) (b : BitVec 5) (x : BitVec 24) (s : State), s.cur.on g = true →
     let ea := (s.cur.readLA b + BitVec.ofInt 64 (x.toInt * 128)).toNat
     (ea % 128 = 0 → ∃ t, exec (.pfg g b x) s = .next t ∧ loadFrame s t ∧ t.cur.seq = s.cur.seq ∧ t.tasks = s.tasks) ∧
     (ea % 128 ≠ 0 → exec (.pfg g b x) s = .next (s.issueFault .l 0x0F)))

/-- R178, R179, R180: a multicast load takes its snapshot at issue and will land it, after the level's latency and a
bundle for each four words, in the scratchpads of the ranks that it names; a source that is misaligned, a rank beyond the
team and a second one before the first has landed are refused with the reserved-operand fault.

R178, R180, R366, R371: before its bundle the data of a multicast load stays on its way; with it, its bytes stand at the
target address of the scratchpad of every core of the team whose rank it names, and no other byte of any scratchpad changes. Data that
met poison raises fault 0x0C instead and a target that the issuer's segment has read first the tracker's fault, and nothing is written
(that one breach stops the whole write is the model's choice, assumption log 29, and that late poison faults where the data lands log
109).

R47, R188: an interlocked load whose time has come, with no earlier result for its register in flight, gives its
value to the next bundle and leaves the interlock; before that time it stays.

R189, R266: the data of a chip-scratchpad load that waited for releases is filled in once no other cluster holds
its granules, and only then; the result stays in flight. What another cluster has committed in this very cycle does not hold it, nor
what another context has written (R265, R334). -/
def Obligations.LoadsLandLater : Prop :=
  (∀ (g : Guard) (ranks : Byte) (b : BitVec 5) (lvl : Level) (tgt : BitVec 15) (nw : BitVec 9) (B : Nat → Byte) (s : State),
     s.cur.on g = true → lvl ≠ .gl →
     let src := (s.cur.readLA b).toNat
     let words := nw.toNat + 1
     let team := (s.stage (s.stageOf s.turn)).team
     (src % 128 = 0 → ranks.toNat < 2 ^ team → s.cur.eng.ldmc = none →
       readsNow s lvl (128 * words) 128 (fun k => src + k) B →
       ∃ t m, exec (.ldmc g ranks b lvl tgt nw) s = .next t ∧ t.cur.eng.ldmc = some m ∧
         m.due = s.cur.seq.stream + loadLatency lvl + (words + 3) / 4 ∧ m.ranks = ranks.toNat ∧ m.tgt = 128 * tgt.toNat ∧
         m.data.length = 128 * words ∧ (∀ k, k < 128 * words → m.data.getD k 0 = B k) ∧ m.wait = [] ∧
         t.cur.seq = s.cur.seq ∧ loadFrame s t) ∧
     (src % 128 ≠ 0 ∨ 2 ^ team ≤ ranks.toNat ∨ (∃ m, s.cur.eng.ldmc = some m ∧ s.cur.seq.stream < m.due) →
       exec (.ldmc g ranks b lvl tgt nw) s = .next (s.issueFault .l 0x0F))) ∧
  (∀ (c : Nat) (m : Ldmc) (s : State), (s.core c).eng.ldmc = some m →
     let k := s.core c
     let named := fun (d : Nat) => (∃ τ, k.task = some τ ∧ d ∈ s.coresOf τ) ∧ m.ranks.testBit (s.core d).rank = true
     let breach := m.ranks.testBit k.rank = true ∧ k.breaches (granRange granSp m.tgt m.data.length) s.cycle = true
     let t := s.landLdmc c
     (k.seq.stream < m.due → t = s) ∧
     (m.due ≤ k.seq.stream →
       (t.core c).eng.ldmc = none ∧ t.pmem = s.pmem ∧ t.xs = s.xs ∧ t.clusters = s.clusters ∧ t.tasks = s.tasks ∧
       (∀ d, (t.core d).regs = (s.core d).regs) ∧
       (m.bad = false → ¬breach → (t.core c).seq = k.seq ∧
         ∀ d, (named d → ∀ a, (t.core d).sp.read a =
             if m.tgt ≤ a ∧ a < m.tgt + m.data.length then m.data.getD (a - m.tgt) 0 else (s.core d).sp.read a) ∧
           (¬named d → (t.core d).sp = (s.core d).sp)) ∧
       (m.bad = true ∨ breach → (∀ d, (t.core d).sp = (s.core d).sp) ∧
         ((t.core c).seq.efault.map fun f => (f.code, f.slot, f.core)) = some (if m.bad then 0x0C else 0x06, 5, c)))) ∧
  (∀ (c id : Nat) (x : GLoad) (s : State), (s.core c).seq.gloads.find? (fun y => y.id == id) = some x →
     (x.readyAt ≤ s.cycle → x.reads = [] → (∀ r ∈ (s.core c).seq.flight, r.dest = x.dest → x.issued ≤ r.issued) →
       ∃ t, exec (.globalLoadLanding c id) s = .next t ∧
         (∃ r, (t.core c).seq.flight = (s.core c).seq.flight ++ [r] ∧ r.due = (s.core c).seq.stream ∧ r.dest = x.dest ∧
           r.val = x.val ∧ r.mask = x.mask ∧ r.issued = x.issued) ∧
         (∀ y, y ∈ (t.core c).seq.gloads ↔ y ∈ (s.core c).seq.gloads ∧ y.id ≠ id) ∧
         (t.core c).regs = (s.core c).regs ∧ (∀ d, d ≠ c → t.core d = s.core d) ∧ t.pmem = s.pmem) ∧
     (s.cycle < x.readyAt → exec (.globalLoadLanding c id) s = .next s)) ∧
  (∀ (c a n : Nat) (r : Result) (s : State), (s.core c).seq.flight = [r] → r.wait = [(0, a, n)] → r.signed = false →
     (s.core c).eng.ldmc = none →
     ∃ t, exec (.levelDataArrival c) s = .next t ∧ (t.core c).regs = (s.core c).regs ∧
       (∀ d, d ≠ c → t.core d = s.core d) ∧ t.xs = s.xs ∧
       ((∃ e ∈ s.clusters, e.1 ≠ c / 8 ∧ ∃ h ∈ e.2.held, h.stage = s.stageOf c ∧
           h.pasid = s.pasidOf c ∧ h.since ≠ s.cycle ∧ h.w.xs = true ∧ h.w.addr = a ∧
           h.w.bytes.length = n ∧ 0 < n) → (t.core c).seq.flight = [r]) ∧
       ((∀ e ∈ s.clusters, e.2.held = []) → (s.clu (c / 8)).held = [] → (s.core c).eng.unWrites = [] →
         (∀ k, s.taskOf c = some k → k.wlog = []) → r.val = 0 →
         ∃ q, (t.core c).seq.flight = [q] ∧ q.wait = [] ∧ q.due = r.due ∧ q.dest = r.dest ∧
           q.val = leNat (s.xs.readBytes a n)))

/-- R166, R181-R184, R187: an aligned store within its level, to granules that its segment has not read first, is in the
scratchpad or the pool when it has issued: each byte of it reads as stored (of bytes with one address, the last
prevails), every other byte as before; and nothing else of the machine's registers and memories changes.

R176, R185, R302, R304: a store of the lane slices puts each lane's four bytes at its offset of that lane's slice. A fill
puts its value, the full flag and zeros into a cell of the pool in one write, advances the core's Lamport count, and
each entry of the wait table for the cell leaves it, its bundle to issue two cycles later. -/
def Obligations.StoresOnTheCluster : Prop :=
  (∀ (i : Instr) (g : Guard) (lvl : Level) (n w v : Nat) (A : Nat → Nat) (s : State),
     slotGuard i = some g → s.cur.on g = true → i.wf = true → storedBytes i s = some (lvl, n, w, A, v) → goesAtOnce i s →
     (∀ k, k < n → k % w = 0 → A k % w = 0) →
     ((lvl = .sp ∧ ∀ k, k < n → A k < 0x300000 ∧ notReadFirst s 0 (A k)) ∨
       (lvl = .cp ∧ ∀ k, k < n → A k < s.poolBound s.turn ∧ notReadFirst s 1 (A k))) →
     ∃ t, exec i s = .next t ∧
       (let before := if lvl = .sp then s.cur.sp else (s.clu (s.turn / 8)).pool
        let after := if lvl = .sp then t.cur.sp else (t.clu (s.turn / 8)).pool
        (∀ k, k < n → (∀ j, k < j → j < n → A j ≠ A k) → (after.read (A k)).toNat = v / 2 ^ (8 * k) % 2 ^ 8) ∧
        (∀ a, (∀ k, k < n → A k ≠ a) → after.read a = before.read a)) ∧
       (if lvl = .sp then t.clusters = s.clusters else
         t.cur.sp = s.cur.sp ∧ (∀ c, c ≠ s.turn / 8 → t.clu c = s.clu c) ∧
         (t.clu (s.turn / 8)).phasers = (s.clu (s.turn / 8)).phasers ∧ (t.clu (s.turn / 8)).waits = (s.clu (s.turn / 8)).waits) ∧
       t.cur.regs = s.cur.regs ∧ t.cur.ls = s.cur.ls ∧ t.cur.arr = s.cur.arr ∧ t.cur.ys = s.cur.ys ∧
       t.cur.seq.flight = s.cur.seq.flight ∧ t.cur.seq.gloads = s.cur.seq.gloads ∧ t.cur.seq.verdict = s.cur.seq.verdict ∧
       (∀ c, c ≠ s.turn → t.core c = s.core c) ∧ t.tasks = s.tasks ∧ t.pmem = s.pmem ∧ t.xs = s.xs) ∧
  ((∀ (g : Guard) (f : VSlot) (r : VSrc) (b : BitVec 5) (x : BitVec 13) (s : State), s.cur.on g = true →
     let o := (s.cur.readTA b + BitVec.ofNat 64 x.toNat).toNat
     o % 4 = 0 → o + 4 ≤ 0x2000 → notReadFirst s 2 o →
     ∃ t, exec (.stl g f r b x) s = .next t ∧
       (∀ l k, l < 128 → k < 4 → t.cur.ls.read (0x2000 * l + o + k) =
         BitVec.ofNat 8 ((lane (s.cur.readV f r) l).toNat / 2 ^ (8 * k))) ∧
       (∀ a, (∀ l k, l < 128 → k < 4 → a ≠ 0x2000 * l + o + k) → t.cur.ls.read a = s.cur.ls.read a) ∧
       t.cur.regs = s.cur.regs ∧ t.cur.seq = s.cur.seq ∧ t.cur.sp = s.cur.sp ∧ t.cur.arr = s.cur.arr ∧
       (∀ c, c ≠ s.turn → t.core c = s.core c) ∧ t.clusters = s.clusters ∧ t.pmem = s.pmem ∧ t.xs = s.xs) ∧
   (∀ (g : Guard) (a : SSrc) (b : BitVec 5) (x : BitVec 13) (s : State), s.cur.on g = true →
     let ea := (s.cur.readTA b + BitVec.ofInt 64 (x.toInt * 16)).toNat
     let cl := s.turn / 8
     (ea % 16 = 0 → ea + 16 ≤ s.poolBound s.turn → notReadFirst s 1 ea →
       ∃ t, exec (.ffill g a b x) s = .next t ∧
         (∀ k, k < 16 → ((t.clu cl).pool.read (ea + k)).toNat =
           if k < 8 then (s.cur.readS a).toNat / 2 ^ (8 * k) % 2 ^ 8 else if k = 8 then 1 else 0) ∧
         (∀ p, p < ea ∨ ea + 16 ≤ p → (t.clu cl).pool.read p = (s.clu cl).pool.read p) ∧
         (t.clu cl).waits = ((s.clu cl).waits.filter fun e => e.cell ≠ ea) ∧
         (∀ e ∈ (s.clu cl).waits, e.cell = ea →
           ∀ c, (∃ x ∈ s.cores, x.2.task = some e.tid ∧ x.2.rank = e.rank) →
             (∀ x ∈ s.cores, x.2.task = some e.tid → x.2.rank = e.rank → x.1 = c) →
             (t.core c).seq.releaseAt = some (s.cycle + 2)) ∧
         t.cur.regs.lclock.toNat = min (s.cur.regs.lclock.toNat + 1) (2 ^ 40 - 1) ∧
         t.cur.regs.s = s.cur.regs.s ∧ t.cur.sp = s.cur.sp ∧ (∀ c, c ≠ cl → t.clu c = s.clu c) ∧ t.pmem = s.pmem) ∧
     (ea % 16 ≠ 0 → exec (.ffill g a b x) s = .next (s.issueFault .t 0x0F)) ∧
     (ea % 16 = 0 → s.poolBound s.turn < ea + 16 → exec (.ffill g a b x) s = .next (s.execFault .t 0x0A))))

/-- R190, R215, R217, R262: an aligned store to the chip scratchpad or to a page of kind RC in global memory changes neither
memory when it issues; from then on the core observes each stored byte as stored and every other byte as before. A task
that is not speculative commits it: it waits in the cluster's breakwater. A speculative task keeps it.

R200, R201, R262: what a scalar store does at issue on a page of kind SO or UN, in a task that is not speculative. On an SO
page its bytes wait in the cluster's breakwater, marked as such, and leave in issue order among those; on a UN page they stay in the
core's first-level cache. No memory changes. A speculative task's SO store is held until its task is the frontier task.

R167, R181-R184, R366: a misaligned store raises the reserved-operand fault at issue; an aligned one past its level's
bound raises the protection fault in execution, and one within the scratchpad or the pool that meets a granule that its
segment has read first raises the tracker's fault; none of them stores anything.

R167, R191, R200, R204, R336, R341: an aligned access to global memory whose page does not translate raises the translation
fault in execution, one without the right, to another chip's page, to a UN page by an acquire or a release, or to another context's
doorbell the protection fault; of several elements the first that fails decides. It reads and writes nothing. -/
def Obligations.StoresBeyondTheCluster : Prop :=
  (∀ (i : Instr) (g : Guard) (lvl : Level) (n w v τ : Nat) (A P : Nat → Nat) (k : Task) (s : State),
     slotGuard i = some g → s.cur.on g = true → i.wf = true → storedBytes i s = some (lvl, n, w, A, v) →
     (∀ j, j < n → j % w = 0 → A j % w = 0) → storesTo s lvl n w A P → s.cur.task = some τ → s.task? τ = some k →
     s.cur.eng.unWrites = [] → freshCaches s (s.pasidOf s.turn) →
     let xs := decide (lvl = .xs)
     let seen := fun (t : State) (a : Nat) => t.observe s.turn xs { pos := 0, addr := a, len := 1 }
     let stored := fun (t : State) =>
       (∀ j, j < n → (∀ q, j < q → q < n → P q ≠ P j) → seen t (P j) = [BitVec.ofNat 8 (v / 2 ^ (8 * j))]) ∧
       (∀ a, (xs = false → a < 0x20000000000) → (∀ j, j < n → P j ≠ a) → seen t a = seen s a) ∧
       t.pmem = s.pmem ∧ t.xs = s.xs ∧ t.cur.regs = s.cur.regs ∧ t.cur.sp = s.cur.sp ∧ t.cur.ls = s.cur.ls ∧
       t.cur.seq = s.cur.seq ∧ (∀ c, c ≠ s.turn → t.core c = s.core c) ∧
       (∀ c, (t.clu c).pool = (s.clu c).pool)
     (s.speculative s.turn = false → (s.stage (s.stageOf s.turn)).burstEnd ≤ s.cycle →
       (s.clu (s.turn / 8)).held.length + 256 ≤ 16384 → k.wlog = [] →
       ∃ t new, exec i s = .next t ∧ stored t ∧ t.tasks = s.tasks ∧
         (t.clu (s.turn / 8)).held = (s.clu (s.turn / 8)).held ++ new ∧ new ≠ [] ∧
         ∀ h ∈ new, h.w.core = s.turn ∧ h.w.clearAt = none ∧ h.since = s.cycle ∧ h.key = k.key) ∧
     (s.speculative s.turn = true → s.cur.seq.fronted = false → (∀ j, j < n → ownsLine s k xs (P j)) →
       ∃ t k' new, exec i s = .next t ∧ stored t ∧ t.clusters = s.clusters ∧ t.task? τ = some k' ∧
         k'.wlog = k.wlog ++ new ∧ new ≠ [] ∧ ∀ h ∈ new, h.core = s.turn)) ∧
  (∀ (g : Guard) (a : SSrc) (b : BitVec 5) (sz : TSize) (x : BitVec 14) (τ : Nat) (k : Task) (pg : Page) (s : State),
     let ea := (s.cur.readTA b + BitVec.ofInt 64 x.toInt).toNat
     let n := sz.bytes
     s.cur.on g = true → ea % n = 0 → freshCaches s (s.pasidOf s.turn) → translate s (s.pasidOf s.turn) ea = some pg →
     pg.w = true → pg.home = s.chipNo → pg.pa + n ≤ 0x20000000000 → s.cur.task = some τ → s.task? τ = some k →
     let frame := fun (t : State) => t.pmem = s.pmem ∧ t.xs = s.xs ∧ t.cur.regs = s.cur.regs ∧ t.cur.sp = s.cur.sp ∧
       t.cur.ls = s.cur.ls ∧ t.cur.seq = s.cur.seq ∧ t.tasks = s.tasks ∧ (∀ c, c ≠ s.turn → t.core c = s.core c) ∧
       (∀ c, (t.clu c).pool = (s.clu c).pool)
     let bytes := fun (w : Write) => w.xs = false ∧ w.addr = pg.pa ∧ w.core = s.turn ∧
       w.bytes = (List.range n).map fun j => BitVec.ofNat 8 ((s.cur.readS a).toNat / 2 ^ (8 * j))
     (s.speculative s.turn = false → (s.clu (s.turn / 8)).held.length + 256 ≤ 16384 →
       (pg.kind = 0 →
         ∃ t h, exec (.sts g a b .gl sz x) s = .next t ∧ frame t ∧ t.cur.eng.unWrites = s.cur.eng.unWrites ∧
           (t.clu (s.turn / 8)).held = (s.clu (s.turn / 8)).held ++ [h] ∧ bytes h.w ∧ h.w.so = true ∧ h.w.clearAt = none) ∧
       (pg.kind = 2 → (s.stage (s.stageOf s.turn)).burstEnd ≤ s.cycle →
         ∃ t w, exec (.sts g a b .gl sz x) s = .next t ∧ frame t ∧ t.cur.eng.unWrites = s.cur.eng.unWrites ++ [w] ∧ bytes w ∧
           t.clusters = s.clusters)) ∧
     (s.speculative s.turn = true → pg.kind = 0 → exec (.sts g a b .gl sz x) s = .next (s.holdFor .t .frontier))) ∧
  ((∀ (i : Instr) (g : Guard) (lvl : Level) (n w v : Nat) (A : Nat → Nat) (s : State),
     slotGuard i = some g → s.cur.on g = true → i.wf = true → storedBytes i s = some (lvl, n, w, A, v) →
     ((∃ k, k < n ∧ k % w = 0 ∧ A k % w ≠ 0) → exec i s = .next (s.issueFault .t 0x0F)) ∧
     ((∀ k, k < n → k % w = 0 → A k % w = 0) → lvl ≠ .gl → (∃ k, k < n ∧ s.levelBound s.turn lvl ≤ A k) →
       exec i s = .next (s.execFault .t 0x0A)) ∧
     ((∀ k, k < n → k % w = 0 → A k % w = 0) →
       ((lvl = .sp ∧ (∀ k, k < n → A k < 0x300000) ∧
           ∃ k, k < n ∧ Table.get s.cur.rcv.seen false (3 * (A k / 128)) = true) ∨
         (lvl = .cp ∧ goesAtOnce i s ∧ (∀ k, k < n → A k < s.poolBound s.turn) ∧
           ∃ k, k < n ∧ Table.get s.cur.rcv.seen false (3 * (A k / 128) + 1) = true)) →
       s.cur.seq.inBundle = true → s.cur.seq.efault = none →
       ∃ t, exec i s = .next t ∧ t.cur.sp = s.cur.sp ∧ (∀ c, t.clu c = s.clu c) ∧ t.pmem = s.pmem ∧
         t.cur.regs = s.cur.regs ∧ (t.cur.seq.efault.map fun f => (f.code, f.slot, f.core)) = some (0x06, 6, s.turn))) ∧
   (∀ (g : Guard) (f : VSlot) (r : VSrc) (b : BitVec 5) (x : BitVec 13) (s : State), s.cur.on g = true →
     let o := (s.cur.readTA b + BitVec.ofNat 64 x.toNat).toNat
     (o % 4 ≠ 0 → exec (.stl g f r b x) s = .next (s.issueFault .t 0x0F)) ∧
     (o % 4 = 0 → 0x2000 < o + 4 → exec (.stl g f r b x) s = .next (s.execFault .t 0x0A)))) ∧
  (∀ (i : Instr) (g : Guard) (s : State), slotGuard i = some g → s.cur.on g = true → i.wf = true →
     freshCaches s (s.pasidOf s.turn) →
     (∀ (f : VSlot) (d w code : Nat) (A : Nat → Nat), vectorLoad i s = some (f, d, .gl, w, A) →
       (∀ j, j * w < 512 → A (j * w) % w = 0) → firstFault s false false 512 w A code →
       exec i s = .next (s.execFault .l code)) ∧
     (∀ (sd : BitVec 6) (b : BitVec 5) (sz : LSize) (x : BitVec 31) (acq : Bool) (code : Nat),
       i = (if acq then .ldacq g sd b .gl sz x else .lds g sd b .gl sz x) →
       let ea := (s.cur.readLA b + BitVec.ofInt 64 x.toInt).toNat
       ea % sz.bytes = 0 → globalFault s false acq ea = some code → exec i s = .next (s.execFault .l code)) ∧
     (∀ (n w v code : Nat) (A : Nat → Nat), storedBytes i s = some (.gl, n, w, A, v) →
       (∀ k, k < n → k % w = 0 → A k % w = 0) →
       firstFault s true (match i with | .strel _ _ _ _ _ _ => true | _ => false) n w A code →
       exec i s = .next (s.execFault .t code)))

/-- R186: a pool atomic with an aligned address in the pool reads its operands at issue and joins the core's pending pool
operations behind the earlier ones; the pool and the registers do not change. A misaligned address raises the
reserved-operand fault at issue, one past the allocation the protection fault in execution.

R186, R227: once its bundle is strike-clear, a core's oldest pool atomic is performed: its location holds the result and
no other byte of the pool changes; with the return flag the old value comes back in a record of the core that issued
it, while the run of its task that issued it holds the core. Before that time nothing happens. -/
def Obligations.PoolAtomics : Prop :=
  (∀ (i : Instr) (g : Guard) (kind : AtomicKind) (v cmp : Word64) (b : BitVec 5) (wide ret : Bool) (s : State),
     slotGuard i = some g → s.cur.on g = true → atomicForm i s = some (kind, v, b, wide, ret, cmp) →
     let a := (s.cur.readTA b).toNat
     let n := if wide then 8 else 4
     (a % n = 0 → a + n ≤ s.poolBound s.turn →
       ∃ t x, exec i s = .next t ∧ t.cur.eng.atomics = s.cur.eng.atomics ++ [x] ∧ x.kind = kind ∧ x.addr = a ∧ x.bytes = n ∧
         x.v = v ∧ x.cmp = cmp ∧ x.ret = ret ∧ x.clearAt = none ∧ x.atCommit = false ∧ x.seg = s.cur.rcv.seg ∧
         t.cur.regs = s.cur.regs ∧ t.cur.seq = s.cur.seq ∧ t.cur.sp = s.cur.sp ∧ (∀ c, c ≠ s.turn → t.core c = s.core c) ∧
         t.clusters = s.clusters ∧ t.pmem = s.pmem ∧ t.xs = s.xs) ∧
     (a % n ≠ 0 → exec i s = .next (s.issueFault .t 0x0F)) ∧
     (a % n = 0 → s.poolBound s.turn < a + n → exec i s = .next (s.execFault .t 0x0A))) ∧
  (∀ (c new : Nat) (x : Atomic) (rest : List Atomic) (s : State), (s.core c).eng.atomics = x :: rest → x.atCommit = false →
     x.bytes = 4 ∨ x.bytes = 8 → (∀ y ∈ rest, y.id ≠ x.id) →
     let cl := c / 8
     let old := (s.clu cl).pool.readLE x.addr x.bytes
     atomicResult x.kind x.bytes old x.v.toNat x.cmp.toNat = some new →
     ((∃ τ, x.clearAt = some τ ∧ τ ≤ s.cycle) →
       ∃ t, exec (.atomicPerform c) s = .next t ∧ (t.core c).eng.atomics = rest ∧
         (t.clu cl).pool.readLE x.addr x.bytes = new ∧
         (∀ a, a < x.addr ∨ x.addr + x.bytes ≤ a → (t.clu cl).pool.read a = (s.clu cl).pool.read a) ∧
         (x.ret = false → (t.core c).eng.evq = (s.core c).eng.evq) ∧
         (x.ret = true → (s.core c).task = some x.tid → (∃ k, s.task? x.tid = some k ∧ k.run = x.run ∧ k.leaving = none) →
           (s.core c).eng.evq.length < 128 →
           ∃ r, (t.core c).eng.evq = (s.core c).eng.evq ++ [r] ∧ r.w1.toNat = old) ∧
         (t.core c).regs = (s.core c).regs ∧ (t.core c).sp = (s.core c).sp ∧ (∀ d, d ≠ c → t.core d = s.core d) ∧
         (∀ d, d ≠ cl → t.clu d = s.clu d) ∧ t.pmem = s.pmem ∧ t.xs = s.xs) ∧
     ((∀ τ, x.clearAt = some τ → s.cycle < τ) → exec (.atomicPerform c) s = .next s))

/-- R190, R217: a release of a cluster's breakwater that finds nothing strike-clear changes nothing. A lone held write of the
chip scratchpad or of global memory that is strike-clear, no release and not behind anything of its core reaches its home: its bytes
read as written, every other byte as before, and it leaves the breakwater. Of two writes of one core the one behind a `strel` or a `ww`
fence, and the later of two SO writes, stays while the other is not yet strike-clear.

R193: an engine's request for a bank joins those that wait. Where the bundle that would issue holds none of the banks
asked for, none is refused; where it does, the oldest refused one counts one refusal more, and every request for another bank
is served, while its refusals are below the slack in force; the next one freezes the core instead: no bundle issues,
`fstat.frz` is set and the requests are served. -/
def Obligations.HeldWritesAndBankRequests : Prop :=
  ((∀ (cl : Nat) (h : Held) (s : State), (s.clu cl).held = [h] →
     ((∀ τ, h.w.clearAt = some τ → s.cycle < τ) → exec (.breakwaterRelease cl) s = .next s) ∧
     ((∃ τ, h.w.clearAt = some τ ∧ τ ≤ s.cycle) → s.viral = false → h.w.rel = false →
       (h.w.xs = false → h.w.addr + h.w.bytes.length ≤ 0x20000000000 ∧ 0 < h.w.bytes.length) →
       (∀ e ∈ s.clusters, e.1 ≠ cl → e.2.held = []) → (∀ e ∈ s.clusters, e.1 = cl → e.2.held = [h]) →
       (∀ e ∈ s.tasks, e.2.wlog = []) →
       (let k := s.core h.w.core
        k.eng.copyQ = [] ∧ k.eng.stashQ = [] ∧ k.eng.chanQ = [] ∧ k.eng.ldmc = none ∧ k.seq.flight = [] ∧ k.seq.gloads = []) →
       ∃ t, exec (.breakwaterRelease cl) s = .next t ∧ (t.clu cl).held = [] ∧
         (let before := if h.w.xs then s.xs else s.pmem
          let after := if h.w.xs then t.xs else t.pmem
          (∀ k, k < h.w.bytes.length → after.read (h.w.addr + k) = h.w.bytes.getD k 0) ∧
          (∀ a, a < h.w.addr ∨ h.w.addr + h.w.bytes.length ≤ a → after.read a = before.read a)) ∧
         (if h.w.xs then t.pmem = s.pmem else t.xs = s.xs) ∧ t.cores = s.cores ∧ t.tasks = s.tasks)) ∧
   ∀ (cl : Nat) (h₁ h₂ : Held) (s : State), (s.clu cl).held = [h₁, h₂] → (∀ τ, h₁.w.clearAt = some τ → s.cycle < τ) →
     h₁.w.core = h₂.w.core → h₁.pasid = h₂.pasid →
     (h₁.w.epoch < h₂.w.epoch ∨ (h₁.w.so = true ∧ h₂.w.so = true ∧ h₁.ord < h₂.ord)) →
     exec (.breakwaterRelease cl) s = .next s) ∧
  ((∀ (c b : Nat) (grp : Group) (s : State), b < 12 →
     ∃ t, exec (.engineBankRequest c grp b) s = .next t ∧
       (t.core c).eng.requests = (s.core c).eng.requests ++ [{ bank := b + (match grp with | .a => 0 | .b => 12) }] ∧
       (t.core c).regs = (s.core c).regs ∧ (t.core c).sp = (s.core c).sp ∧ (t.core c).seq = (s.core c).seq ∧
       (∀ d, d ≠ c → t.core d = s.core d) ∧ t.clusters = s.clusters ∧ t.tasks = s.tasks ∧ t.pmem = s.pmem ∧ t.xs = s.xs) ∧
   (∀ (c : Nat) (holds : Nat → Bool) (s : State),
     let rs := (s.core c).eng.requests
     let slack := (s.progOf c).slackAt (s.core c).seq.pc
     ((∀ r ∈ rs, holds r.bank = false) → s.refuseBanks c holds = (false, s)) ∧
     (∀ (pre post : List BankRequest) (r : BankRequest), rs = pre ++ r :: post → (∀ x ∈ pre, holds x.bank = false) →
       holds r.bank = true →
       (slack ≤ r.refusals → s.refuseBanks c holds = (true, s)) ∧
       (r.refusals < slack →
         ∃ t, s.refuseBanks c holds = (false, t) ∧
           (t.core c).eng.requests.map (fun x => (x.bank, x.refusals)) =
             (r.bank, r.refusals + 1) :: (post.filter fun x => holds x.bank).map (fun x => (x.bank, x.refusals)) ∧
           (t.core c).regs = (s.core c).regs ∧ (t.core c).seq = (s.core c).seq ∧ (∀ d, d ≠ c → t.core d = s.core d)))) ∧
   (∀ s : State,
     s.slackFreeze.cur.eng = { s.cur.eng with requests := [] } ∧ s.slackFreeze.cur.regs.fstat.getLsbD 1 = true ∧
       s.slackFreeze.cur.regs.fstat.getLsbD 0 = s.cur.regs.fstat.getLsbD 0 ∧ s.slackFreeze.cur.regs.s = s.cur.regs.s ∧
       s.slackFreeze.cur.seq.pc = s.cur.seq.pc ∧ (s.slackFreeze.cur.seq.hold.map fun h => h.cause) = some .slack ∧
       (∀ d, d ≠ s.turn → s.slackFreeze.core d = s.core d)))

/-- R233, R234: a register copy reads its source at issue and sends, three bundles on, every lane of the destination: a
vector as it stands or one lane of it, an S register broadcast to all lanes or whole, a mask as one bit or as all ones or
zeros in each lane, and a vector's nonzero lanes as a mask.

R160, R221, R222, R226, R238, R248, R394: a command that nothing refuses and whose queue has room joins the queue, behind
the command at work, with its operands as they stood; issuing it advances the core's Lamport count and changes no other
register, no memory and no other core.

R221, R224, R226, R241: a command whose queue holds two is held for the shadow; a shape record that its rules refuse
raises the reserved-operand fault; a fetch of an entry that is pending, spilled or returning is held, and the return of a spilled
one has been asked for. -/
def Obligations.EngineCommandsIssue : Prop :=
  (∀ (g : Guard) (dst : XDst) (src : XSrc) (ln : BitVec 7) (s : State), s.cur.on g = true →
     Instr.wf (.xcp g dst src ln) = true →
     let file := match dst with
       | .s r => Dest.s r.toNat | .va r => .v .va r.toNat | .vb r => .v .vb r.toNat | .ka r => .k .va r.toNat
       | .kb r => .k .vb r.toNat | .la r => .la r.toNat | .ta r => .ta r.toNat | .xa r => .xa r.toNat
     let width := match file with | .v _ _ => 4096 | .k _ _ => 128 | _ => 64
     let vec : Option Vec := match src with | .va r => some (s.cur.readV .va r) | .vb r => some (s.cur.readV .vb r) | _ => none
     let mask : Option LaneMask := match src with
       | .ka r => some (s.cur.readK .va r.toNat) | .kb r => some (s.cur.readK .vb r.toNat) | _ => none
     let word : Option Word64 := match src with
       | .s r => some (s.cur.readS r) | .la r => some (s.cur.readLA r) | .ta r => some (s.cur.readTA r)
       | .xa r => some (s.cur.readXA r) | _ => none
     ∃ v, exec (.xcp g dst src ln) s = .next (s.gains .x 3 file v (2 ^ width - 1) 0) ∧
       (∀ x, vec = some x → width = 4096 → v = x.toNat) ∧
       (∀ x, vec = some x → width = 64 → v = (lane x ln.toNat).toNat) ∧
       (∀ x, vec = some x → width = 128 → ∀ l, l < 128 → v.testBit l = decide (lane x l ≠ 0)) ∧
       (∀ x, mask = some x → width = 128 → v = x.toNat) ∧
       (∀ x, mask = some x → width = 4096 → ∀ l b, l < 128 → b < 32 → v.testBit (32 * l + b) = x.getLsbD l) ∧
       (∀ x, word = some x → width = 64 → v = x.toNat) ∧
       (∀ x, word = some x → width = 4096 → ∀ l, l < 128 → v / 2 ^ (32 * l) % 2 ^ 32 = x.toNat % 2 ^ 32)) ∧
  (∀ (i : Instr) (g : Guard) (cmd : EngCmd) (s : State), slotGuard i = some g → s.cur.on g = true → i.wf = true →
     s.cur.seq.verdict = .ok → commandOf i s = some cmd →
     let q := queueNo cmd
     (q < 4 → (s.cur.eng.queue q).length < 2) →
     ∃ t o, exec i s = .next t ∧ t.cur.eng.queue q = s.cur.eng.queue q ++ [o] ∧ o.cmd = cmd ∧ o.core = s.turn ∧
       o.tid = s.cur.task.getD 0 ∧ o.addr = s.cur.seq.pc ∧ o.seg = s.cur.rcv.seg ∧ o.clearAt = none ∧ o.complete = false ∧
       (∀ r, r ≠ q → r < 5 → t.cur.eng.queue r = s.cur.eng.queue r) ∧ t.cur.eng.evq = s.cur.eng.evq ∧
       takesPlace s cmd o.id (s.ctx (s.pasidOf s.turn)) (t.ctx (s.pasidOf s.turn)) ∧
       t.cur.regs = { s.cur.regs with lclock := BitVec.ofNat 40 (min (s.cur.regs.lclock.toNat + 1) (2 ^ 40 - 1)) } ∧
       t.cur.seq = s.cur.seq ∧ t.cur.sp = s.cur.sp ∧ t.cur.ls = s.cur.ls ∧ t.cur.arr = s.cur.arr ∧
       (∀ c, c ≠ s.turn → t.core c = s.core c) ∧ t.clusters = s.clusters ∧ t.tasks = s.tasks ∧ t.pmem = s.pmem ∧ t.xs = s.xs) ∧
  (∀ (i : Instr) (g : Guard) (s : State), slotGuard i = some g → s.cur.on g = true →
     (∀ cmd, commandOf i s = some cmd → queueNo cmd < 4 → 2 ≤ (s.cur.eng.queue (queueNo cmd)).length →
       ∃ t, exec i s = .next t ∧ t.cur.seq.verdict = .held ∧ (t.cur.seq.hold.map fun h => (h.cause, h.slot)) = some (.shadow, 7) ∧
         t.cur.eng = s.cur.eng ∧ t.cur.regs = s.cur.regs ∧ t.contexts = s.contexts) ∧
     (∀ x y m c lp, (i = .cpy g x y ∨ i = .stash g x y m ∨ i = .spill g x y m lp ∨ i = .wver g x y ∨ i = .chrecv g x c) →
       s.shapeAt x = none → exec i s = .next (s.issueFault .x 0x0F)) ∧
     (∀ d k free e, i = .fetch g d k free → (s.shapeAt d).isSome = true → (s.cur.readXA k).toNat < 2 ^ 39 →
       (s.ctx (s.pasidOf s.turn)).entry? (s.cur.readXA k).toNat = some e → (e.state = .pending ∨ e.state = .returning) →
       ∃ t, exec i s = .next t ∧ t.cur.seq.verdict = .held ∧ (t.cur.seq.hold.map fun h => (h.cause, h.slot)) = some (.absent, 7) ∧
         t.cur.eng = s.cur.eng ∧ t.cur.regs = s.cur.regs) ∧
     (∀ d k free e, i = .fetch g d k free → (s.shapeAt d).isSome = true → (s.cur.readXA k).toNat < 2 ^ 39 →
       (s.ctx (s.pasidOf s.turn)).entry? (s.cur.readXA k).toNat = some e → e.state = .spilled →
       ∃ t f, exec i s = .next t ∧ t.cur.seq.verdict = .held ∧ (t.cur.seq.hold.map fun h => (h.cause, h.slot)) = some (.absent, 7) ∧
         t.cur.eng = s.cur.eng ∧ t.cur.regs = s.cur.regs ∧
         (t.ctx (s.pasidOf s.turn)).entry? (s.cur.readXA k).toNat = some f ∧ f.wanted ≠ none ∧ (f.state = .spilled ∨ f.state = .returning)))

/-- R222, R227, R235: a copy between the core's own storage starts at once. When its time has come, a copy into the scratchpad
whose bytes lie within it, at different addresses in granules not read first, has written each of them and no other
byte, and posts its record with status 0; one whose LOG6 shape breaks the tile rules posts status 0x45 and writes
nothing.

R235: a multicast whose time has come has written its bytes, which lie within the scratchpad, at different addresses and in
granules not read first, in the scratchpad of each core of the team whose rank it names, and no other byte of any scratchpad; its record
posts with status 0.

R202, R212, R213, R235, R236, R266: copies that reach beyond the cluster. One whose source or destination lies at level 2, 3 or 4
does not start before its task is the frontier task, nor while another cluster holds what it reads; then it reads its source as it
stands. Its bytes for the chip scratchpad or for global memory wait until its bundle is committed and strike-clear and until
the earlier writes under them have left, and then stand there, with no other byte changed. Bytes for another chip leave in flits of at
most 64 consecutive ones, in order; the status that a page of the other chip gives is open (assumption log 72 for the route).

R214, R237: an invalidation that no older copy of the chip precedes empties the translation caches of its context of the
entries in its range and posts its record. -/
def Obligations.CopiesAndInvalidationsComplete : Prop :=
  (∀ (c : Nat) (o : EngOp) (rest : EngQueue) (d a : Shape) (s : State), (s.core c).eng.copyQ = o :: rest →
     o.cmd = .copy d a none → o.complete = false →
     (o.started = false → a.lvl < 2 → d.lvl < 2 →
       ∃ t x, exec (.copyStart c) s = .next t ∧ (t.core c).eng.copyQ.head? = some x ∧ x.started = true ∧ s.cycle < x.doneAt ∧
         x.elems = o.elems ∧ x.cmd = o.cmd ∧ engineFrame s t c ∧ (t.core c).sp = (s.core c).sp) ∧
     (o.started = true → o.doneAt ≤ s.cycle → (s.core c).eng.evq.length < 128 →
       (o.status = 0x45 → ∃ t, exec (.copyComplete c) s = .next t ∧ hasPosted s t c 1 7 0x45 o.addr 0 ∧ engineFrame s t c ∧
         (t.core c).sp = (s.core c).sp) ∧
       (let bs := (copyBytes d a o.elems).1
        let flags := (copyBytes d a o.elems).2
        o.status = 0 → d.lvl = 0 →
         (∀ x ∈ bs, 0 ≤ x.1 ∧ x.1 < 0x300000 ∧ Table.get (s.core c).rcv.seen false (3 * (x.1.toNat / 128)) = false ∧
           Table.get (s.core c).rcv.prevSeen false (3 * (x.1.toNat / 128)) = false) →
         ∃ t, exec (.copyComplete c) s = .next t ∧ hasPosted s t c 1 7 0 o.addr (BitVec.ofNat 64 flags) ∧ engineFrame s t c ∧
           ((bs.map (·.1)).Nodup → ∀ x ∈ bs, (t.core c).sp.read x.1.toNat = x.2) ∧
           (∀ q, (∀ x ∈ bs, x.1.toNat ≠ q) → (t.core c).sp.read q = (s.core c).sp.read q)))) ∧
  (∀ (c m τ : Nat) (o : EngOp) (rest : EngQueue) (d a : Shape) (s : State), (s.core c).eng.copyQ = o :: rest →
     o.cmd = .copy d a (some m) → o.complete = false → o.started = true → o.doneAt ≤ s.cycle → (s.core c).eng.evq.length < 128 →
     o.status = 0 → d.lvl = 0 → (s.core c).task = some τ →
     let bs := (copyBytes d a o.elems).1
     let named := fun (e : Nat) => e ∈ s.coresOf τ ∧ m.testBit (s.core e).rank = true
     (∀ x ∈ bs, 0 ≤ x.1 ∧ x.1 < 0x300000 ∧ Table.get (s.core c).rcv.seen false (3 * (x.1.toNat / 128)) = false ∧
       Table.get (s.core c).rcv.prevSeen false (3 * (x.1.toNat / 128)) = false) →
     ∃ t, exec (.copyComplete c) s = .next t ∧ hasPosted s t c 1 7 0 o.addr (BitVec.ofNat 64 (copyBytes d a o.elems).2) ∧
       (∀ e, (t.core e).regs = (s.core e).regs ∧ (t.core e).arr = (s.core e).arr ∧ (t.core e).ls = (s.core e).ls ∧
         (t.core e).seq = (s.core e).seq) ∧
       t.clusters = s.clusters ∧ t.tasks = s.tasks ∧ t.pmem = s.pmem ∧ t.xs = s.xs ∧
       (∀ e, named e → ((bs.map (·.1)).Nodup → ∀ x ∈ bs, (t.core e).sp.read x.1.toNat = x.2) ∧
         ∀ q, (∀ x ∈ bs, x.1.toNat ≠ q) → (t.core e).sp.read q = (s.core e).sp.read q) ∧
       (∀ e, ¬named e → (t.core e).sp = (s.core e).sp)) ∧
  (∀ (c : Nat) (o : EngOp) (rest : EngQueue) (d a : Shape) (s : State), (s.core c).eng.copyQ = o :: rest →
     o.cmd = .copy d a none → o.complete = false →
     let committed := ∀ k, s.task? o.tid = some k → s.isFrontier o.tid = true ∨ k.state = .committed
     let far := 2 ≤ a.lvl ∨ 2 ≤ d.lvl
     (o.started = false → far →
       (¬committed → exec (.copyStart c) s = .next s) ∧
       (2 ≤ a.lvl → s.tensorHeld c o.id a true = true → exec (.copyStart c) s = .next s) ∧
       (committed → (2 ≤ a.lvl → s.tensorHeld c o.id a true = false ∧ s.tensorUnclear c o a true = false) →
         ∃ t x, exec (.copyStart c) s = .next t ∧ (t.core c).eng.copyQ.head? = some x ∧ x.started = true ∧ s.cycle < x.doneAt ∧
           x.cmd = o.cmd ∧ (2 ≤ a.lvl → x.elems = (s.readTensor c o.id a true).1) ∧ (a.lvl < 2 → x.elems = o.elems) ∧
           x.status = (if a.badScale = true ∨ d.badScale = true then 0x45 else
             if 2 ≤ a.lvl then (s.readTensor c o.id a true).2 else o.status) ∧
           engineFrame s t c ∧ (t.core c).sp = (s.core c).sp)) ∧
     (o.started = true → o.doneAt ≤ s.cycle → o.status = 0 → (s.core c).eng.evq.length < 128 →
       let bs := (copyBytes d a o.elems).1
       let flags := BitVec.ofNat 64 (copyBytes d a o.elems).2
       let frame := fun (t : State) => (t.core c).regs = (s.core c).regs ∧ (t.core c).arr = (s.core c).arr ∧
         (t.core c).ls = (s.core c).ls ∧ (t.core c).seq = (s.core c).seq ∧ (t.core c).sp = (s.core c).sp ∧
         (∀ e, e ≠ c → t.core e = s.core e) ∧ t.clusters = s.clusters ∧ t.tasks = s.tasks
       bs ≠ [] →
       (∀ P : Int → Nat, d.lvl = 2 ∨ d.lvl = 3 → freshCaches s (s.pasidOf c) →
         (∀ x ∈ bs, outAddr s c d.lvl x.1 = some (P x.1)) →
         let before := if d.lvl = 2 then s.xs else s.pmem
         let behind := ∃ e ∈ s.clusters, ∃ h ∈ e.2.held, h.w.id < o.id ∧ h.w.xs = decide (d.lvl = 2) ∧
           ∃ x ∈ bs, h.w.addr ≤ P x.1 ∧ P x.1 < h.w.addr + h.w.bytes.length
         (¬opIsClear s o ∨ behind → exec (.copyComplete c) s = .next s) ∧
         (opIsClear s o → ¬behind →
           ∃ t, exec (.copyComplete c) s = .next t ∧ hasPosted s t c 1 7 0 o.addr flags ∧ frame t ∧
             (let after := if d.lvl = 2 then t.xs else t.pmem
              ((bs.map fun x => P x.1).Nodup → ∀ x ∈ bs, after.read (P x.1) = x.2) ∧
              (∀ q, (∀ x ∈ bs, P x.1 ≠ q) → after.read q = before.read q)) ∧
             (if d.lvl = 2 then t.pmem = s.pmem else t.xs = s.xs))) ∧
       (d.lvl = 4 → (∀ x ∈ bs, 0 ≤ x.1 ∧ x.1 < 2 ^ 57) → s.link.gangs = [] →
         let taken := ∀ x ∈ bs, s.remoteStatus true (x.1.toNat / 4096) = 0
         (¬opIsClear s o → taken → exec (.copyComplete c) s = .next s) ∧
         (opIsClear s o →
           ∃ (t : State) (st : Nat) (runs : List (Nat × List Byte)), exec (.copyComplete c) s = .next t ∧ hasPosted s t c 1 7 st o.addr flags ∧
             frame t ∧ t.pmem = s.pmem ∧ t.xs = s.xs ∧ (st = 0 ∨ st = 0x09 ∨ st = 0x0A) ∧ (taken → st = 0) ∧
             (∀ r ∈ runs, 0 < r.2.length ∧ r.2.length ≤ 64) ∧
             (taken → (runs.map fun r => r.2.zipIdx.map fun b => (r.1 + b.2, b.1)).flatten = (bs.map fun x => (x.1.toNat, x.2))) ∧
             (let flits := runs.map fun r => Flit.write d.chip (s.pasidOf c) r.1 r.2
              (s.upPorts ≠ [] → t.link.sent = s.link.sent ++ flits) ∧
              (s.upPorts = [] → t.link.blocked = s.link.blocked ++ flits ∧ t.link.sent = s.link.sent)))))) ∧
  (∀ (c va n : Nat) (size : TinvSize) (o : EngOp) (rest : EngQueue) (s : State), (s.core c).eng.copyQ = o :: rest →
     o.cmd = .tinv va n size → o.complete = false → (s.core c).eng.evq.length < 128 →
     let p := s.pasidOf c
     let unit := match size with | .k4 => 2 ^ 12 | .m2 => 2 ^ 21 | .g1 => 2 ^ 30 | .all => 2 ^ 57
     (∀ e ∈ s.cores, ∀ x ∈ e.2.eng.copyQ, o.id ≤ x.id ∨ x.complete = true) →
     ∃ t, exec (.tinvComplete c) s = .next t ∧ hasPosted s t c 13 7 0 o.addr 0 ∧ engineFrame s t c ∧
       (t.core c).sp = (s.core c).sp ∧
       ∀ e, e ∈ (t.ctx p).tlb ↔ e ∈ (s.ctx p).tlb ∧ size ≠ .all ∧ ¬ (va ≤ e.1 * 4096 ∧ e.1 * 4096 < va + n * unit))

/-- R238, R240, R243: a stash in raw mode whose elements are read, whose bundle is committed and strike-clear, whose bytes have moved
(R406) and with room in the arena beyond what waiting commands claim leaves a Kept entry that holds the elements' bytes, padded to 128,
and its record gives their number; its units lie in the arena of the chip scratchpad, where the bytes stand, and no byte outside them
changes. The number of units and their places are the model's (assumption logs 36, 37). A drop leaves a Dropped entry with its handle.

R240, R242: the move of an entry that no fetch names ends with the entry Spilled, the return of one with the entry Kept;
before its time nothing happens. A fetch that finds no entry posts status 0x03, and one that finds a dropped entry
0x05 with its handle. A fetch of an entry of the record's format and extents, with a record of the scratchpad whose bytes lie
within it in granules not read first, completes: its tensor holds the decoded elements, no other byte changes, and its
record posts with status 0; with the free bit the entry is gone. -/
def Obligations.StashEntries : Prop :=
  (∀ (c key : Nat) (o : EngOp) (rest : EngQueue) (s : State), (s.core c).eng.stashQ = o :: rest → o.complete = false →
     o.sent = false → (∃ τ, o.clearAt = some τ ∧ τ ≤ s.cycle) →
     (∀ k, s.task? o.tid = some k → s.isFrontier o.tid = true ∨ k.state = .committed) → (s.core c).eng.evq.length < 128 →
     let p := s.pasidOf c
     let x := s.ctx p
     (∀ z e, o.cmd = .stash key z .raw → o.started = true → o.status = 0 → z.badScale = false → x.entry? key = some e →
       o.doneAt ≠ 0 → o.doneAt ≤ s.cycle →
       let bs := padTo 128 (streamBytes z.fmt (o.elems.map (·.1)))
       x.arenaUsed + x.claimed o.id + (bs.length + 127) / 128 ≤ x.arenaUnits →
       ∃ t f, exec (.stashRelease c) s = .next t ∧ (t.ctx p).entry? key = some f ∧ f.state = .kept ∧ f.stored = bs ∧
         f.fmt = z.fmt ∧ f.sizes = z.logical ∧ hasPosted s t c 4 7 0 o.addr (BitVec.ofNat 64 bs.length) ∧ engineFrameOnCore s t c ∧
         (∀ q, q ≠ key → (t.ctx p).entry? q = x.entry? q) ∧
         (let unit := fun (u : Nat) => x.xsbase + 128 * (x.starena.toNat / 2 ^ 24 % 2 ^ 24 + u)
          (∀ u ∈ f.place, u < x.arenaUnits) ∧
          (∀ a, (∀ u ∈ f.place, a < unit u ∨ unit u + 128 ≤ a) → t.xs.read a = s.xs.read a) ∧
          (f.place.Nodup → ∀ k u j, f.place[k]? = some u → j < 128 → 128 * k + j < bs.length →
            t.xs.read (unit u + j) = bs.getD (128 * k + j) 0))) ∧
     (∀ h e, o.cmd = .drop key h → x.entry? key = some e →
       ∃ t f, exec (.stashRelease c) s = .next t ∧ (t.ctx p).entry? key = some f ∧ f.state = .dropped ∧ f.handle = h ∧
         hasPosted s t c 6 7 0 o.addr 0 ∧ engineFrame s t c ∧ (∀ q, q ≠ key → (t.ctx p).entry? q = x.entry? q))) ∧
  ((∀ (p key at_ : Nat) (e : StashEntry) (s : State), (s.ctx p).entry? key = some e → e.moveAt = some at_ →
     (at_ ≤ s.cycle →
       (e.state = .kept → key ∉ s.fetchedKeys p → ∃ t f, exec (.pressureSpillComplete p key) s = .next t ∧
         (t.ctx p).entry? key = some f ∧ f = { e with state := .spilled, lp := false, moveAt := none, place := f.place } ∧
         (∀ q, q ≠ key → (t.ctx p).entry? q = (s.ctx p).entry? q) ∧ t.cores = s.cores ∧ t.tasks = s.tasks ∧ t.xs = s.xs ∧
         (∀ a, (∀ u ∈ f.place, ∀ pg, translate s p (((s.ctx p).sthbm).toNat + 128 * u) = some pg → a < pg.pa ∨ pg.pa + 128 ≤ a) →
           t.pmem.read a = s.pmem.read a)) ∧
       (e.state = .returning → ∃ t f, exec (.stashReturnComplete p key) s = .next t ∧ (t.ctx p).entry? key = some f ∧
         f = { e with state := .kept, moveAt := none, wanted := none } ∧ (∀ q, q ≠ key → (t.ctx p).entry? q = (s.ctx p).entry? q) ∧
         t.cores = s.cores ∧ t.tasks = s.tasks ∧ t.pmem = s.pmem)) ∧
     (s.cycle < at_ → exec (.pressureSpillComplete p key) s = .next s ∧ exec (.stashReturnComplete p key) s = .next s)) ∧
   (∀ (c key : Nat) (d : Shape) (o : EngOp) (rest : EngQueue) (s : State), (s.core c).eng.stashQ = o :: rest →
     o.cmd = .fetch key d false → o.complete = false → o.doneAt ≤ s.cycle → (s.core c).eng.evq.length < 128 →
     ((s.ctx (s.pasidOf c)).entry? key = none →
       ∃ t, exec (.fetchComplete c) s = .next t ∧ hasPosted s t c 7 7 3 o.addr 0 ∧ engineFrame s t c ∧ t.contexts = s.contexts) ∧
     (∀ e, (s.ctx (s.pasidOf c)).entry? key = some e → e.state = .dropped →
       ∃ t, exec (.fetchComplete c) s = .next t ∧ hasPosted s t c 7 7 5 o.addr e.handle ∧ engineFrame s t c ∧
         t.contexts = s.contexts)) ∧
   (∀ (c key : Nat) (d : Shape) (free : Bool) (e : StashEntry) (o : EngOp) (rest : EngQueue) (s : State),
     (s.core c).eng.stashQ = o :: rest → o.cmd = .fetch key d free → o.complete = false → o.doneAt ≤ s.cycle →
     (s.core c).eng.evq.length < 128 →
     let p := s.pasidOf c
     (s.ctx p).entry? key = some e → e.state ≠ .dropped → d.fmt = e.fmt → d.logical = e.sizes → d.badScale = false → d.lvl = 0 →
     let bs := d.placeCodes e.decode.1
     (∀ x ∈ bs, 0 ≤ x.1 ∧ x.1 < 0x300000 ∧ Table.get (s.core c).rcv.seen false (3 * (x.1.toNat / 128)) = false ∧
       Table.get (s.core c).rcv.prevSeen false (3 * (x.1.toNat / 128)) = false) →
     ∃ t, exec (.fetchComplete c) s = .next t ∧ hasPosted s t c 7 7 0 o.addr (BitVec.ofNat 64 e.decode.2) ∧ engineFrame s t c ∧
       ((bs.map (·.1)).Nodup → ∀ x ∈ bs, (t.core c).sp.read x.1.toNat = x.2) ∧
       (∀ q, (∀ x ∈ bs, x.1.toNat ≠ q) → (t.core c).sp.read q = (s.core c).sp.read q) ∧
       (free = false → t.contexts = s.contexts) ∧ (free = true → (t.ctx p).entry? key = none)))

/-- R159, R230, R231, R232, R246: a write that no rule refuses puts its value into the register, from the frontier task's
program and from the host alike; a program's write of an unknown number raises the reserved-operand fault, of `evq` the
protection fault, one of a speculative task waits, and a refused value of the frontier task's program raises the fault of the refusal. What
a program's write advertises stands with its segment until that is strike-clear (R379), and a rerun writes its value again. A spill region's base
that is not a multiple of 4 KiB below 2^57 is refused as a reserved operand value, and while an entry is spilled any
change is a protection fault.

R227, R231: the oldest register read posts, when its time has come, a record of kind 3 whose second word is the register's
value at that moment; `evq` gives the number of records in the queue and of those held. -/
def Obligations.EngineRegisters : Prop :=
  ((∀ (g : Guard) (xv : BitVec 5) (num : BitVec 12) (s : State), s.cur.on g = true →
     let v := s.cur.readXA xv
     let p := s.pasidOf s.turn
     (engReg? num.toNat = none → exec (.engw g xv num) s = .next (s.issueFault .x 0x0F)) ∧
     (num = 0x110 → exec (.engw g xv num) s = .next (s.issueFault .x 0x0A)) ∧
     (∀ r code, engReg? num.toNat = some r → s.speculative s.turn = false → s.engRefuse p r v = some code →
       (num.toNat, v) ∉ s.cur.rcv.engwsAgain → exec (.engw g xv num) s = .next (s.issueFault .x code)) ∧
     (∀ r, engReg? num.toNat = some r → num ≠ 0x110 → s.speculative s.turn = true →
       exec (.engw g xv num) s = .next (s.holdFor .x .frontier)) ∧
     (∀ r, engReg? num.toNat = some r → num ≠ 0x110 → s.engRefuse p r v = none ∨ (num.toNat, v) ∈ s.cur.rcv.engwsAgain →
       s.speculative s.turn = false →
       ∃ t new, exec (.engw g xv num) s = .next t ∧ registerTakes (s.ctx p) (t.ctx p) r v ∧ (∀ q, q ≠ p → t.ctx q = s.ctx q) ∧
         t.cur.regs = s.cur.regs ∧ t.cur.seq = s.cur.seq ∧ t.cur.eng = { s.cur.eng with notes := s.cur.eng.notes ++ new } ∧
         (∀ w ∈ new, w.seg = s.cur.rcv.seg ∧ w.clearAt = none) ∧ t.link = s.link ∧ t.cur.sp = s.cur.sp ∧
         (∀ c, c ≠ s.turn → t.core c = s.core c) ∧ t.clusters = s.clusters ∧ t.tasks = s.tasks ∧ t.pmem = s.pmem ∧ t.xs = s.xs)) ∧
   (∀ (fr : Frame) (num : BitVec 12) (v : Word64) (r : EngReg) (s : State), isServed s fr →
     let p := fr.pasid.toNat
     (Table.get? s.contexts p).isSome = true → engReg? num.toNat = some r → s.engRefuse p r v = none →
     let taken := fun (o : Host.Outcome State Fault Refusal) =>
       ∃ t, o = .next t ∧ hasAnswered s t fr 0 [] ∧ registerTakes (s.ctx p) (t.ctx p) r v ∧ (∀ q, q ≠ p → t.ctx q = s.ctx q) ∧
         leavesMachine s t
     taken (exec (.reductionWindowWrite fr num v) s) ∧ taken (exec (.spillRegionWrite fr num v) s) ∧
     taken (exec (.inChannelWrite fr num v) s) ∧ taken (exec (.outChannelWrite fr num v) s) ∧
     (num = 0x100 → taken (exec (.starenaWrite fr v) s))) ∧
   (∀ (p : Nat) (v : Word64) (s : State),
     (s.engRefuse p .sthbm v = some 0x0F ↔ 2 ^ 57 ≤ v.toNat ∨ v.toNat % 4096 ≠ 0) ∧
     (v.toNat < 2 ^ 57 → v.toNat % 4096 = 0 →
       (s.engRefuse p .sthbm v = some 0x0A ↔ ∃ e ∈ (s.ctx p).stash, e.state = .spilled)))) ∧
  (∀ (c n : Nat) (o : EngOp) (r : EngReg) (s : State), (s.core c).eng.regQ.find? (fun x => !x.complete) = some o →
     o.cmd = .engr n → engReg? n = some r → (s.core c).eng.evq.length < 128 →
     let x := s.ctx (s.pasidOf c)
     (o.doneAt ≤ s.cycle → ∃ t v, exec (.engrComplete c) s = .next t ∧ hasPosted s t c 3 7 0 o.addr v ∧ engineFrame s t c ∧
       (t.core c).sp = (s.core c).sp ∧
       (r = .starena → v = x.starena) ∧ (r = .sthbm → v = x.sthbm) ∧ (r = .stlp → v = x.stlp) ∧ (r = .stsize → v = x.stsize) ∧
       (∀ w, r = .window w false → v = (x.window w).w0) ∧ (∀ w, r = .window w true → v = (x.window w).w1) ∧
       (r = .evq → v = BitVec.ofNat 64 ((s.core c).eng.evq.length * 256 + (s.core c).eng.heldRecords))) ∧
     (s.cycle < o.doneAt → exec (.engrComplete c) s = .next s))

/-- R206, R213, R227, R248, R250, R406: a send that is read, committed and strike-clear, with nothing before it on its way, leaves once its
bytes have had the time to move, with the next sequence number of its out-channel, and a token leaves with its producer number; each
goes to the chip that the channel names, through a trained port to another chip, and posts its record. That what a chip sends to
itself arrives in the next cycle is the model's choice (assumption log 122), and so is the stamp that a tile or token carries (log
102).

R227, R249, R371: a receive whose time has come has written its tile's elements to its tensor in the scratchpad, and posts its
record; one that met poison in its buffer posts status 0x0C and writes nothing. -/
def Obligations.ChannelsSendAndReceive : Prop :=
  (∀ (c ch : Nat) (o : EngOp) (rest : EngQueue) (s : State), (s.core c).eng.chanQ = o :: rest → o.complete = false →
     o.status = 0 → (∃ τ, o.clearAt = some τ ∧ τ ≤ s.cycle) → s.link.gangs = [] → nothingBefore s c →
     (∀ k, s.task? o.tid = some k → s.isFrontier o.tid = true ∨ k.state = .committed) → (s.core c).eng.evq.length < 128 →
     let p := s.pasidOf c
     let v := (s.ctx p).outChan ch
     (∀ z tag ts, o.cmd = .chsend z tag ts ch → o.started = true → o.doneAt = 0 →
       ∃ t x, exec (.chsendRelease c) s = .next t ∧ (t.core c).eng.chanQ.head? = some x ∧ s.cycle < x.doneAt ∧
         x = { o with doneAt := x.doneAt } ∧ engineFrame s t c ∧ t.contexts = s.contexts ∧ t.link = s.link ∧ t.inputs = s.inputs) ∧
     (∀ z tag ts, o.cmd = .chsend z tag ts ch → o.started = true → o.doneAt ≠ 0 → s.cycle < o.doneAt →
       exec (.chsendRelease c) s = .next s) ∧
     (∀ z tag ts, o.cmd = .chsend z tag ts ch → o.started = true → o.doneAt ≠ 0 → o.doneAt ≤ s.cycle →
       let tile : Tile := { pasid := p, chan := BitVec.ofNat 6 v.dchan, prod := BitVec.ofNat 4 v.prod, seq := v.nextSeq,
                            tag := BitVec.ofNat 32 tag, ts := BitVec.ofNat 64 ts,
                            data := streamBytes z.fmt (o.elems.map (·.1)), stamp := o.stamp }
       ∃ t, exec (.chsendRelease c) s = .next t ∧ (t.ctx p).outChan ch = { v with nextSeq := v.nextSeq + 1 } ∧
         hasPosted s t c 9 7 0 o.addr 0 ∧ engineFrame s t c ∧
         (v.dchip = s.chipNo → t.inputs = s.inputs ++ [(s.cycle + 1, .tileArrival tile)] ∧ t.link = s.link) ∧
         (v.dchip ≠ s.chipNo → s.upPorts ≠ [] → t.link.sent = s.link.sent ++ [.tile v.dchip tile] ∧ t.inputs = s.inputs)) ∧
     (o.cmd = .cheos ch →
       ∃ t, exec (.chsendRelease c) s = .next t ∧ hasPosted s t c 11 7 0 o.addr 0 ∧ engineFrame s t c ∧ t.contexts = s.contexts ∧
         (v.dchip = s.chipNo → t.inputs = s.inputs ++
           [(s.cycle + 1, .eosTokenArrival { pasid := p, stamp := o.stamp } (BitVec.ofNat 6 v.dchan) (BitVec.ofNat 4 v.prod))]) ∧
         (v.dchip ≠ s.chipNo → s.upPorts ≠ [] → t.link.sent = s.link.sent ++ [.token v.dchip p v.dchan v.prod o.stamp]))) ∧
  (∀ (c ch : Nat) (o : EngOp) (rest : EngQueue) (d : Shape) (s : State), (s.core c).eng.chanQ = o :: rest →
     o.cmd = .chrecv d ch → o.complete = false → (s.core c).eng.evq.length < 128 →
     let bs := d.placeCodes (streamCodes d.fmt d.count o.data)
     (o.doneAt ≤ s.cycle → o.status = 0 → d.lvl = 0 →
       (∀ x ∈ bs, 0 ≤ x.1 ∧ x.1 < 0x300000 ∧ Table.get (s.core c).rcv.seen false (3 * (x.1.toNat / 128)) = false ∧
         Table.get (s.core c).rcv.prevSeen false (3 * (x.1.toNat / 128)) = false) →
       ∃ t, exec (.chrecvComplete c) s = .next t ∧ hasPosted s t c 10 7 0 o.addr 0 ∧ engineFrame s t c ∧
         ((bs.map (·.1)).Nodup → ∀ x ∈ bs, (t.core c).sp.read x.1.toNat = x.2) ∧
         (∀ q, (∀ x ∈ bs, x.1.toNat ≠ q) → (t.core c).sp.read q = (s.core c).sp.read q)) ∧
     (o.doneAt ≤ s.cycle → o.status = 0x0C →
       ∃ t, exec (.chrecvComplete c) s = .next t ∧ hasPosted s t c 10 7 0x0C o.addr 0 ∧ engineFrame s t c ∧
         (t.core c).sp = (s.core c).sp) ∧
     (s.cycle < o.doneAt → exec (.chrecvComplete c) s = .next s))

/-- R17, R246, R248-R250, R254, R357: what arrives over the links. A tile of the channel's size, later than its producer's watermark
and than the stage's last commit point, creates a Ready task with its timestamp, tag and the channel's origin, and its
bytes stand in a free slot of the receive buffer, but for those of a poisoned flit, which are not written and whose line is poisoned (the
model's choice, log entry 80); no other byte of the chip scratchpad changes. Which free slot it takes is left open. One of another size
sets the channel's error bit and creates nothing. A tile or a token for a channel that no stage declares or that is not valid, or of a
producer that is not registered, is discarded. A tile that comes again changes nothing, and one that comes before an earlier one of its
producer waits. A token is noted with its producer, and an advertisement opens the producer's window: it names the largest number
that the receiver accepts, be the channel set up or not (log entry 42).

R157, R159, R160, R161, R163: two partials of an INT32 sum over two contributions close their round at the home chip in the fixed
tree: the target in global memory receives the wrapping sums, element by element, and the window stands empty. A contribution whose
index stands in the round already posts status 0x01 and changes nothing of it. That one event stands for a partial, a notice and a
local contribution, told apart by what it carries, is the model's form (assumption log 84). -/
def Obligations.LinkTrafficAndReductions : Prop :=
  (∀ (p : Nat) (x : Context) (port : Option Nat) (s : State), Table.get? s.contexts p = some x → x.phase = .active →
     s.link.gangs = [] → s.recovery = false → (∀ n, port = some n → (Table.get s.link.ports {} n).heldDown = false) →
     (∀ (t : Tile), t.pasid = p → t.port = port →
       s.channelStage p t.chan.toNat = none ∨ (x.inChan t.chan.toNat).valid = false ∨ (x.inChan t.chan.toNat).nprod < t.prod.toNat →
       ∃ u, exec (.tileArrival t) s = .next u ∧ u.contexts = s.contexts ∧ leavesMachine s u) ∧
     (∀ (t : Tile) (st : Nat), t.pasid = p → t.port = port → s.channelStage p t.chan.toNat = some st →
       let v := x.inChan t.chan.toNat
       let key : Key := { ts := t.ts.toNat, origin := 256 + t.chan.toNat, seq := Table.get (s.stage st).seqs 0 (256 + t.chan.toNat) }
       let q := v.producer t.prod.toNat
       v.valid = true → t.prod.toNat ≤ v.nprod →
       (t.seq < q.arrived → ∃ u, exec (.tileArrival t) s = .next u ∧ u.contexts = s.contexts ∧ leavesMachine s u) ∧
       (q.arrived < t.seq → ∃ u, exec (.tileArrival t) s = .next u ∧ leavesMachine s u ∧
         (((u.ctx p).inChan t.chan.toNat).producer t.prod.toNat).arrived = q.arrived) ∧
       (t.seq = q.arrived → t.data.length = 128 * v.tilesz → (∀ w, q.watermark = some w → w < t.ts.toNat) →
         s.isLate st key = false → s.stageFull st = false →
         (∃ n, n < (v.win + 1) * (v.nprod + 1) ∧ ∀ y ∈ v.tiles, y.place ≠ n) →
         ∃ u tid k slot, exec (.tileArrival t) s = .next u ∧ s.nextId ≤ tid ∧ u.task? tid = some k ∧ k.key = key ∧ k.stage = st ∧
           k.tag = t.tag.toNat ∧ k.kind = (if v.kind then TaskKind.b else .f) ∧ k.state = .ready ∧
           (∀ q, q ≠ tid → u.task? q = s.task? q) ∧ ((u.ctx p).inChan t.chan.toNat).valid = true ∧
           (((u.ctx p).inChan t.chan.toNat).producer t.prod.toNat).watermark = some t.ts.toNat ∧
           slot ∈ ((u.ctx p).inChan t.chan.toNat).tiles ∧ slot.tid = some tid ∧ slot.prod = t.prod.toNat ∧ slot.number = t.seq ∧
           slot.place < (v.win + 1) * (v.nprod + 1) ∧ (∀ y ∈ v.tiles, y.place ≠ slot.place) ∧
           (let b := x.xsbase + 128 * (v.buf + slot.place * v.tilesz)
            (∀ j, j < t.data.length → u.xs.read (b + j) = if j / 64 ∈ t.bad then s.xs.read (b + j) else t.data.getD j 0) ∧
            (∀ a, a < b ∨ b + t.data.length ≤ a → u.xs.read a = s.xs.read a) ∧
            (∀ f ∈ t.bad, 64 * f < t.data.length → granOf true (b + 64 * f) ∈ u.poison)) ∧ u.cores = s.cores ∧ u.pmem = s.pmem) ∧
       (t.seq = q.arrived → t.data.length ≠ 128 * v.tilesz →
         ∃ u, exec (.tileArrival t) s = .next u ∧ ((u.ctx p).inChan t.chan.toNat).err = true ∧ u.tasks = s.tasks ∧ u.xs = s.xs ∧
           u.cores = s.cores ∧ u.pmem = s.pmem)) ∧
     (∀ (ch : BitVec 6) (pr : BitVec 4), let v := x.inChan ch.toNat
       (v.valid = true → pr.toNat ≤ v.nprod →
         ∃ u, exec (.eosTokenArrival { port := port, pasid := p } ch pr) s = .next u ∧ (((u.ctx p).inChan ch.toNat).producer pr.toNat).token = true ∧
           (∀ q, q ≠ pr.toNat → ((u.ctx p).inChan ch.toNat).producer q = v.producer q) ∧ leavesMachine s u) ∧
       (v.valid = false ∨ v.nprod < pr.toNat →
         ∃ u, exec (.eosTokenArrival { port := port, pasid := p } ch pr) s = .next u ∧ u.contexts = s.contexts ∧ leavesMachine s u)) ∧
     (∀ (ch : BitVec 6) (n : Nat),
       ∃ u, exec (.windowAdvertisement { port := port, pasid := p } ch n) s = .next u ∧
         ((u.ctx p).outChan ch.toNat).upto = max (x.outChan ch.toNat).upto (n + 1) ∧
         ((u.ctx p).outChan ch.toNat).taken = (x.outChan ch.toNat).taken ∧
         (∀ q, q ≠ ch.toNat → (u.ctx p).outChan q = x.outChan q) ∧ leavesMachine s u)) ∧
  ((∀ (p va : Nat) (ctl : Word64) (x : Context) (port : Option Nat) (w : BitVec 6) (xs ys : List Word32) (P : Nat → Nat) (s : State),
     Table.get? s.contexts p = some x → x.phase = .active → s.link.gangs = [] → s.recovery = false →
     (∀ n, port = some n → (Table.get s.link.ports {} n).heldDown = false) →
     let v := x.window w.toNat
     let w1 := ctl.toNat
     let part := fun (i : Nat) (l : List Word32) =>
       ({ lo := i, span := 1, leaves := [i], elems := l, poison := false, home := s.chipNo, target := va, ctl := ctl } : Partial)
     w1 / 2 ^ 16 % 2 ^ 24 = 2 → w1 / 2 ^ 57 % 8 = 3 → w1 / 2 ^ 60 % 4 = 0 → ctl.getLsbD 62 = false → v.waiting = [] →
     v.present = [] → v.partials = [part 0 xs] →
     xs.length = ys.length → 0 < xs.length → va % 128 = 0 →
     (∀ i, 128 * i < 4 * xs.length → ∃ pg, translate s p (va + 128 * i) = some pg ∧ pg.w = true ∧ pg.kind = 1 ∧
       pg.home = s.chipNo ∧ pg.pa + 128 ≤ 0x20000000000 ∧ ∀ j, j < 128 → P (128 * i + j) = pg.pa + j) →
     (∀ i j, i < 4 * xs.length → j < 4 * xs.length → P i = P j → i = j) →
     ∃ t, exec (.partialArrival { port := port, pasid := p } w (part 1 ys)) s = .next t ∧
       (∀ i k, i < xs.length → k < 4 →
         t.pmem.read (P (4 * i + k)) = BitVec.ofNat 8 ((xs.getD i 0 + ys.getD i 0).toNat / 2 ^ (8 * k))) ∧
       (∀ a, (∀ i, i < 4 * xs.length → a ≠ P i) → t.pmem.read a = s.pmem.read a) ∧
       ((t.ctx p).window w.toNat).partials = [] ∧ ((t.ctx p).window w.toNat).present = [] ∧ t.cores = s.cores ∧ t.xs = s.xs) ∧
   (∀ (p c i : Nat) (w : BitVec 6) (es : List Word32) (o : EngOp) (rest : EngQueue) (s : State),
     (s.core c).eng.redQ = o :: rest → o.cmd = .redm w.toNat i es → o.complete = false → o.sent = false →
     (∃ τ, o.clearAt = some τ ∧ τ ≤ s.cycle) → (∀ k, s.task? o.tid = some k → s.isFrontier o.tid = true ∨ k.state = .committed) →
     i ∈ ((s.ctx p).window w.toNat).present → s.recovery = false → (s.core c).eng.evq.length < 128 →
     ∃ t, exec (.partialArrival { pasid := p } w { lo := c, span := o.id, leaves := [], elems := [], poison := false }) s = .next t ∧
       hasPosted s t c 12 7 1 o.addr 0 ∧ engineFrame s t c ∧
       ((t.ctx p).window w.toNat).present = ((s.ctx p).window w.toNat).present ∧
       ((t.ctx p).window w.toNat).partials = ((s.ctx p).window w.toNat).partials))

/-- R207-R209: a fence whose `wr` is set with a level as its scope waits, in a speculative task, for the frontier; any other
issues: with `rr` or `wr` the kept lines of UN pages are given up, with `ww` a new release epoch begins, a draining fence
is marked, and the place in the core's order behind which later accesses wait for the loads is noted. -/
def Obligations.FencesOrder : Prop :=
  ∀ (g : Guard) (rr rw wr ww : Bool) (sc : BitVec 4) (s : State), s.cur.on g = true →
    let drains : Bool := wr && decide (sc.toNat < 8)
    (drains = true → s.speculative s.turn = true → exec (.fence g rr rw wr ww sc) s = .next (s.holdFor .y .frontier)) ∧
    (drains = false ∨ s.speculative s.turn = false → s.cur.eng.unWrites = [] → (s.clu (s.turn / 8)).held.length ≤ 16384 →
      ∃ t, exec (.fence g rr rw wr ww sc) s = .next t ∧
        t.cur.eng.unLines = (if rr || wr then [] else s.cur.eng.unLines) ∧
        t.cur.eng.epoch = s.cur.eng.epoch + (if ww then 1 else 0) ∧
        t.cur.eng.draining = (s.cur.eng.draining || drains) ∧
        (rr = true → t.cur.eng.fenceR = s.nextId) ∧ (rw = true → t.cur.eng.fenceW = s.nextId) ∧
        (rr = false → t.cur.eng.fenceR = s.cur.eng.fenceR) ∧ (rw = false → t.cur.eng.fenceW = s.cur.eng.fenceW) ∧
        t.cur.seq = s.cur.seq ∧ t.cur.eng.evq = s.cur.eng.evq ∧ turnFrame s t ∧ t.cur.ys = s.cur.ys ∧ t.clusters = s.clusters ∧ t.tasks = s.tasks)

/-- R258, R272, R275: a spawn with an unknown kind field, a timestamp not above its task's or no budget raises the
reserved-operand fault; a stage with 256 tasks in flight holds it; otherwise a Ready task is created with the timestamp,
kind, tag, budget and parent that the operands give and the core's next number. A frontier read lands two bundles on.

R229, R273, R274: an end with an engine operation outstanding waits for its record; with none outstanding and no record of
a fault it stops every core of the team, and the task remembers the rank that ended it. The frontier task may not abort
itself; another task is told to abort at the end of the cycle (the model's order within a cycle, assumption log 20) and its core stops; by that abort it keeps its key and its tag, has
its full budget and no writes, and is held back. -/
def Obligations.TasksAreCreatedEndedAndAborted : Prop :=
  (∀ (g : Guard) (sk st sb : BitVec 6) (d : SDst) (τ : Nat) (k : Task) (s : State), s.cur.on g = true →
     s.cur.task = some τ → s.task? τ = some k → s.cur.rcv.rerun = none →
     let kv := (s.cur.readSReg sk.toNat).toNat
     let ts := (s.cur.readSReg st.toNat).toNat
     let kind := TaskKind.ofCode (kv / 2 ^ 32 % 4)
     let budget := if sb = 0 then Table.get (s.progOf s.turn).budgets 0 kind.code else (s.cur.readSReg sb.toNat).toNat
     let places := (s.inFlight k.stage).length
     (2 ^ 34 ≤ kv ∨ ts ≤ k.key.ts ∨ budget = 0 ∨ (sb ≠ 0 ∧ 2 ^ 48 ≤ budget) → exec (.spawn g sk st sb) s = .next (s.issueFault .y 0x0F)) ∧
     (kv < 2 ^ 34 → k.key.ts < ts → 0 < budget → budget < 2 ^ 48 → 256 ≤ places →
       exec (.spawn g sk st sb) s = .next (s.holdFor .y .place)) ∧
     (kv < 2 ^ 34 → k.key.ts < ts → 0 < budget → budget < 2 ^ 48 → places < 256 →
       ∃ t n, exec (.spawn g sk st sb) s = .next t ∧ t.task? s.nextId = some n ∧
         n.key = { ts := ts, origin := s.turn, seq := s.cur.eng.spawnSeq } ∧ n.kind = kind ∧ n.tag = kv % 2 ^ 32 ∧
         n.budget = budget ∧ n.full = budget ∧ n.parent = some τ ∧ n.stage = k.stage ∧ n.state = .ready ∧
         (∀ q, q ≠ s.nextId → t.task? q = s.task? q) ∧ t.cur.eng.spawnSeq = s.cur.eng.spawnSeq + 1 ∧ t.cur.seq = s.cur.seq ∧
         turnFrame s t ∧ t.cur.ys = s.cur.ys ∧ t.clusters = s.clusters) ∧
     exec (.frd g d) s = .next (s.gains .y 2 (destS d) (s.frontierReg k.stage).toNat (2 ^ 64 - 1) 0) ∧
     exec (.frdOwn g d) s = .next (s.gains .y 2 (destS d) (if s.isFrontier τ then 1 else 0) (2 ^ 64 - 1) 0)) ∧
  (∀ (g : Guard) (τ : Nat) (k : Task) (s : State), s.cur.on g = true → s.cur.task = some τ → s.task? τ = some k →
     (s.recordsSettled τ = false → exec (.tend g) s = .next (s.holdFor .y .records)) ∧
     ((∀ c ∈ s.coresOf τ, (s.core c).eng.evq = []) → s.cur.eng.evq = [] → s.recordsSettled τ = true →
       ∃ t n, exec (.tend g) s = .next t ∧ t.task? τ = some n ∧ n.ender = some s.cur.rank ∧ n.state = k.state ∧ n.key = k.key ∧
         n.wlog = k.wlog ∧ (∀ c ∈ s.coresOf τ, (t.core c).seq.ended = true ∧ (t.core c).regs = (s.core c).regs) ∧
         (∀ c, c ∉ s.coresOf τ → c ≠ s.turn → t.core c = s.core c) ∧ (∀ q, q ≠ τ → t.task? q = s.task? q) ∧
         t.clusters = s.clusters ∧ t.pmem = s.pmem ∧ t.xs = s.xs) ∧
     (s.isFrontier τ = true → exec (.tabort g) s = .next (s.issueFault .y 0x0F)) ∧
     (s.isFrontier τ = false → k.state = .running →
       (k.abortDue = none →
         ∃ t, exec (.tabort g) s = .next t ∧ t.task? τ = some { k with abortDue := some (true, true) } ∧ t.cur.seq.ended = true ∧
           t.cur.sp = s.cur.sp ∧ t.cur.regs = s.cur.regs ∧ (∀ q, q ≠ τ → t.task? q = s.task? q) ∧
           (∀ c, c ≠ s.turn → t.core c = s.core c) ∧ t.clusters = s.clusters ∧ t.pmem = s.pmem ∧ t.xs = s.xs) ∧
       ((∀ e ∈ s.tasks, e.2.parent = none) → s.coresOf τ = [s.turn] →
         let t := s.abortTask τ true true
         ∃ n, t.task? τ = some n ∧ n.state = .ready ∧ n.key = k.key ∧ n.tag = k.tag ∧
           n.budget = k.full ∧ n.wlog = [] ∧ n.lines = [] ∧ n.heldBack = true ∧ n.leaving = some true ∧ n.abortDue = none ∧
           t.cur.seq.ended = true ∧ t.cur.sp = s.cur.sp ∧ t.cur.regs = s.cur.regs ∧ (∀ q, q ≠ τ → t.task? q = s.task? q) ∧
           (∀ c, c ≠ s.turn → (t.core c).regs = (s.core c).regs ∧ (t.core c).sp = (s.core c).sp ∧ (t.core c).seq = (s.core c).seq) ∧
           t.pmem = s.pmem ∧ t.xs = s.xs)))

/-- R24, R267, R273: an aborted task whose results have landed leaves its core, which keeps its registers and its
scratchpad; an ended task that is not being swapped leaves W after the entry of its last segment, and is Ended.

R257, R264: with no frontier task, the earliest task in flight becomes it when it lies within the horizon, with its key as
the commit point and a burst of a cycle for each 64 granules of its writes: the writes of the first 64 enter the breakwaters of their
clusters at once. One that has been told to abort in this cycle does not become it (the model's order, assumption log 20), and one
that no longer meets the condition is the frontier task no more. The ended frontier task retires once its writes are committed; then no
task is the frontier task.

R17, R18, R249, R264: with the retirement of a B task its W task is created, Ready, with its tag, the W offset added to its
timestamp and held at the largest, the W budget of the stage and the next number of origin 511; a stage without a W budget creates
none. The tile that created a task gives its slot up when the task retires, and its producer's window opens by one. -/
def Obligations.TasksLeaveAndRetire : Prop :=
  (∀ (τ c : Nat) (k : Task) (s : State), s.task? τ = some k → s.coresOf τ = [c] → k.event = none → (s.core c).task = some τ →
     (s.core c).seq.flight = [] → (s.core c).seq.gloads = [] → (s.core c).eng.ldmc = none →
     (s.core c).eng.unWrites = [] → (s.clu (c / 8)).held.length ≤ 16384 →
     let left := fun (t : State) =>
       (t.core c).task = none ∧ (t.core c).sp = (s.core c).sp ∧ (t.core c).ls = (s.core c).ls ∧
       (t.core c).regs.s = (s.core c).regs.s ∧ (t.core c).regs.va = (s.core c).regs.va ∧ (t.core c).seq.loops = [] ∧
       (∀ d, d ≠ c → t.core d = s.core d) ∧ (∀ q, q ≠ τ → t.task? q = s.task? q) ∧ t.pmem = s.pmem ∧ t.xs = s.xs
     (k.leaving ≠ none → ∃ t n, exec (.taskLeavesCores τ) s = .next t ∧ left t ∧ t.task? τ = some n ∧ n.leaving = none ∧
       n.state = k.state ∧ n.key = k.key) ∧
     (k.leaving = none → k.swap = .none → k.ender ≠ none → (s.core c).eng.ops = [] → (s.core c).eng.evq = [] → (s.core c).rcv.rerun = none →
       k.deferred = none → k.state = .running →
       ((s.core c).rcv.segStart + 1620 ≤ s.cycle → ∃ t n, exec (.taskLeavesCores τ) s = .next t ∧ left t ∧ t.task? τ = some n ∧
         n.state = .ended ∧ n.key = k.key) ∧
       (s.cycle < (s.core c).rcv.segStart + 1620 → exec (.taskLeavesCores τ) s = .next s))) ∧
  (∀ (st τ : Nat) (k : Task) (s : State), s.task? τ = some k → k.stage = st →
     ((s.stage st).frontier = none → s.frontierCandidate st = some τ → (s.stage st).lastRetire ≠ some s.cycle →
       k.abortDue = none → k.deferred = none → (∀ w ∈ k.wlog, w.un = false) →
       (∀ cl, (s.clu cl).held.length + k.wlog.length ≤ 16384) →
       let grans := (k.wlog.map Write.gran).dedup
       let now := fun (w : Write) => decide (w.gran ∈ grans.take 64)
       ∃ t n, exec (.frontierAdvance st) s = .next t ∧ (t.stage st).frontier = some τ ∧ (t.stage st).commitPoint = k.key ∧
         (t.stage st).burstEnd = s.cycle + (grans.length + 63) / 64 ∧ t.task? τ = some n ∧
         n = { k with lines := [], heldBack := false, agedAt := n.agedAt, wlog := k.wlog.filter fun w => !now w } ∧
         (k.heldBack = false → n.agedAt = k.agedAt) ∧ t.isFrontier τ = true ∧
         (∀ cl, ∃ new, (t.clu cl).held = (s.clu cl).held ++ new ∧
           new.map (·.w) = (k.wlog.filter fun w => now w && decide (w.core / 8 = cl)) ∧
           ∀ h ∈ new, h.since = s.cycle ∧ h.key = k.key ∧ h.stage = st ∧ h.pasid = k.pasid) ∧
         (∀ q, q ≠ τ → t.task? q = s.task? q) ∧ t.cores = s.cores ∧ (k.wlog = [] → t.clusters = s.clusters) ∧ t.pmem = s.pmem ∧
         t.xs = s.xs) ∧
     ((s.stage st).frontier = none → s.frontierCandidate st = some τ → k.abortDue ≠ none → exec (.frontierAdvance st) s = .next s) ∧
     ((s.stage st).frontier = none → s.frontierCandidate st = none → exec (.frontierAdvance st) s = .next s) ∧
     ((s.stage st).frontier = some τ → s.frontierCandidate st ≠ some τ →
       ∃ t, exec (.frontierAdvance st) s = .next t ∧ (t.stage st).frontier = none ∧ t.tasks = s.tasks ∧ t.cores = s.cores ∧
         t.clusters = s.clusters ∧ t.pmem = s.pmem) ∧
     ((s.stage st).frontier = some τ → k.state = .ended → k.wlog = [] → k.event = none → (s.stage st).burstEnd ≤ s.cycle + 1 →
       (s.stage st).lastRetire ≠ some s.cycle → k.kind ≠ .b → k.tile = none → (∀ e ∈ s.tasks, e.2.heldBack = false) →
       ∃ t n, exec (.taskRetire st) s = .next t ∧ (t.stage st).frontier = none ∧ t.task? τ = some n ∧ n.state = .committed ∧
         n.committedAt = s.cycle ∧ (t.stage st).lastRetire = some s.cycle ∧ (∀ q, q ≠ τ → t.task? q = s.task? q) ∧
         coresButCount k.lead s t ∧ t.clusters = s.clusters ∧ t.pmem = s.pmem)) ∧
  (∀ (st τ : Nat) (k : Task) (s : State), s.task? τ = some k → k.stage = st → (s.stage st).frontier = some τ → k.state = .ended →
     k.wlog = [] → k.event = none → (s.stage st).burstEnd ≤ s.cycle + 1 → (s.stage st).lastRetire ≠ some s.cycle →
     (∀ e ∈ s.tasks, e.2.heldBack = false) → τ ≠ s.nextId →
     let prog := (s.stage st).prog.getD {}
     let budget := Table.get prog.budgets 0 TaskKind.w.code
     let retired := fun (t : State) => (t.stage st).frontier = none ∧
       (∃ n, t.task? τ = some n ∧ n.state = .committed ∧ n.committedAt = s.cycle) ∧ coresButCount k.lead s t ∧ t.clusters = s.clusters ∧
       t.pmem = s.pmem
     (k.kind = .b → k.tile = none → budget ≠ 0 →
       ∃ t n, exec (.taskRetire st) s = .next t ∧ retired t ∧ t.task? s.nextId = some n ∧ n.kind = .w ∧ n.tag = k.tag ∧ n.stage = st ∧
         n.state = .ready ∧ n.budget = budget ∧ n.full = budget ∧
         n.key = { ts := min (k.key.ts + prog.woffset) (2 ^ 64 - 1), origin := 511, seq := Table.get (s.stage st).seqs 0 511 } ∧
         (∀ q, q ≠ τ → q ≠ s.nextId → t.task? q = s.task? q)) ∧
     (k.kind = .b → k.tile = none → budget = 0 →
       ∃ t, exec (.taskRetire st) s = .next t ∧ retired t ∧ ∀ q, q ≠ τ → t.task? q = s.task? q) ∧
     (∀ c p m y, k.kind ≠ .b → k.tile = some (c, p, m) → s.tileOf k.pasid c τ = some y →
       let v := (s.ctx k.pasid).inChan c
       ∃ t, exec (.taskRetire st) s = .next t ∧ retired t ∧ (∀ q, q ≠ τ → t.task? q = s.task? q) ∧
         ((t.ctx k.pasid).inChan c).tiles = (v.tiles.filter fun x => x.tid ≠ some τ) ∧
         (((t.ctx k.pasid).inChan c).producer y.prod).freed = (v.producer y.prod).freed + 1))

/-- R21, R23, R269, R308: the earliest task, when it finds no free slot, begins its wait; a creating event that waits for a
place becomes a task when there is one; a task whose budget has run out stops in place, and its handler receives the
record with the budget fault, which enters the log with the team's core of rank 0 and the address at which it stopped.

R269: once the earliest task has stood for 4,096 cycles without a slot, the latest task that holds one aborts and is
created again, and the next eviction is 4,096 cycles away. -/
def Obligations.WaitsPlacesAndBudgets : Prop :=
  ((∀ (st τ : Nat) (k : Task) (s : State), s.frontierCandidate st = some τ → s.task? τ = some k → k.state = .ready →
     k.leaving = none → k.waitSince = none → s.freeSlots st = [] → (∀ e ∈ s.tasks, e.2.heldBack = false) →
     ∃ t, exec (.frontierEviction st) s = .next t ∧ t.task? τ = some { k with waitSince := some s.cycle } ∧
       (∀ q, q ≠ τ → t.task? q = s.task? q) ∧ t.cores = s.cores ∧ t.clusters = s.clusters ∧ t.pmem = s.pmem) ∧
   (∀ (st n : Nat) (u : Successor) (rest : List (Successor × Nat)) (s : State), s.stageFull st = false →
     (s.stage st).waiting = (u, n) :: rest → u.stage = st → (s.stage st).prog = none → u.kind ≠ .b →
     let key : Key := { ts := u.ts, origin := 384, seq := n }
     s.isLate st key = false →
     ∃ t k, exec (.heldCreatingEvent st) s = .next t ∧ (t.stage st).waiting = rest ∧ t.task? s.nextId = some k ∧ k.key = key ∧
       k.kind = u.kind ∧ k.tag = u.tag ∧ k.budget = u.budget ∧ k.state = .ready ∧ (∀ q, q ≠ s.nextId → t.task? q = s.task? q) ∧
       t.cores = s.cores ∧ t.pmem = s.pmem) ∧
   (∀ (τ c : Nat) (k : Task) (s : State), s.task? τ = some k → k.budget = 0 → k.event = none → k.leaving = none →
     k.state = .running → s.coresOf τ = [c] → (s.core c).rank = 0 → c < 192 →
     ∃ t e n r, exec (.budgetExhausted τ) s = .next t ∧ t.task? τ = some n ∧ n = { k with event := some e } ∧ e.code = 0x08 ∧
       e.core = c ∧ e.addr = (s.core c).seq.pc ∧ t.host.handlerRecords = s.host.handlerRecords ++ [r] ∧ r.code = 0x08 ∧
       r.key = k.key ∧ r.budgetLeft = 0 ∧
       (s.host.log = [] → s.host.dropped = 0 → ∃ l, t.host.log = [l] ∧ l.event.toNat / 2 ^ 60 = 1 ∧ l.event.toNat / 2 ^ 52 % 2 ^ 8 = c ∧
         l.event.toNat / 2 ^ 48 % 2 ^ 4 = 15 ∧ l.event.toNat / 2 ^ 26 % 2 ^ 22 = (s.core c).seq.pc.toNat ∧ l.event.toNat % 2 ^ 26 = 8) ∧
       t.cores = s.cores ∧ (∀ q, q ≠ τ → t.task? q = s.task? q) ∧ t.pmem = s.pmem)) ∧
  (∀ (st τ θ c : Nat) (k x : Task) (s : State), s.frontierCandidate st = some τ → τ ≠ θ → s.task? τ = some k → k.stage = st →
     k.state = .ready → k.leaving = none → k.heldBack = false → s.coresOf τ = [] → s.inFlight st = [(τ, k), (θ, x)] →
     heldAlone θ c x s → x.stage = st → x.leaving = none → x.heldBack = false → s.freeSlots st = [] →
     ∀ w, k.waitSince = some w →
       ((s.stage st).evictAt = none → w + 4096 ≤ s.cycle → ∃ t, exec (.frontierEviction st) s = .next t ∧ abortedTo θ c x true false s t ∧
         (t.stage st).evictAt = some s.cycle) ∧
       ((s.stage st).evictAt = none → s.cycle < w + 4096 → exec (.frontierEviction st) s = .next s) ∧
       (∀ e, (s.stage st).evictAt = some e → s.cycle < e + 4096 → exec (.frontierEviction st) s = .next s))

/-- R292-R294, R297-R299, R301: registering joins the open phase of a cluster phaser and writes the handle, and on a chip phaser
queues the operation; dropping acts as
the member's signal when it has not signalled the open phase, and clears the handle's valid bit. A handle that is taken, an
index of 64 or more and a membership that exists raise the reserved-operand fault, a chip index beyond the context's
allocation the protection fault; so does, as a reserved operand, a handle that is not valid. With r = 1 the rotating base
selects the handle.

R295, R296, R299: on a cluster phaser a signal that its member has not given in the open phase is counted at once, and a
wait for a phase that has completed issues; a second signal and a wait for the open phase are held; a wait-only member may
not signal, a signal-only one may not wait, and only a member of mode `sw` may do both in one operation, which signals first
and then waits.

R295, R296, R297: after a cycle's signals and drops a phase in which one was counted completes when as many have arrived
as signal, once in a cycle: the next phase is open with nothing arrived; otherwise the phaser stays as it is. -/
def Obligations.ClusterPhasers : Prop :=
  (∀ (g : Guard) (h : BitVec 4) (r : Bool) (mode : PhMode) (index : BitVec 9) (τ : Nat) (s : State), s.cur.on g = true →
     s.cur.task = some τ →
     let i := index.toNat
     let p := phaserHere s i
     let taken := (Table.get s.cur.ys.y 0 h.toNat).getLsbD 15
     let code := match mode with | .s => 1 | .w => 2 | .sw => 3
     ((taken = true ∧ (Table.get s.cur.ys.y 0 h.toNat).toNat / 2 ^ 12 % 4 ≠ 0) ∨ 64 ≤ i ∨ (p.member? τ s.cur.rank).isSome = true →
       exec (.phreg g h mode false index) s = .next (s.issueFault .y 0x0F)) ∧
     (let x := s.ctx (s.pasidOf s.turn)
      taken = false → (Table.get s.chipPhasers {} (x.phbase + i)).member? τ s.cur.rank = none →
       (∀ o ∈ s.cur.eng.phaserOps, o.index ≠ x.phbase + i) → s.memberCount true < 4096 →
       (x.phcount ≤ i → exec (.phreg g h mode true index) s = .next (s.issueFault .y 0x0A)) ∧
       (i < x.phcount →
         ∃ t o, exec (.phreg g h mode true index) s = .next t ∧ t.cur.eng.phaserOps = s.cur.eng.phaserOps ++ [o] ∧ o.act = .join mode ∧
           o.index = x.phbase + i ∧ o.tid = τ ∧ o.rank = s.cur.rank ∧ o.clearAt = none ∧
           Table.get t.cur.ys.y 0 h.toNat = BitVec.ofNat 16 (2 ^ 15 + 2 ^ 14 + code * 2 ^ 12 + i) ∧
           t.chipPhasers = s.chipPhasers ∧ t.clusters = s.clusters ∧ turnFrame s t ∧ t.cur.seq = s.cur.seq)) ∧
     (taken = false → i < 64 → p.member? τ s.cur.rank = none → s.memberCount false < 512 →
       ∃ t, exec (.phreg g h mode false index) s = .next t ∧
         (phaserHere t i).phase = p.phase ∧ (phaserHere t i).arrived = p.arrived ∧
         (phaserHere t i).nsig = p.nsig + (if mode = .w then 0 else 1) ∧
         (phaserHere t i).members = p.members ++ [{ tid := τ, rank := s.cur.rank, mode := mode, q := p.phase, w := p.phase }] ∧
         (∀ j, j ≠ i → phaserHere t j = phaserHere s j) ∧
         Table.get t.cur.ys.y 0 h.toNat = BitVec.ofNat 16 (2 ^ 15 + code * 2 ^ 12 + i) ∧
         (∀ n, n ≠ h.toNat → Table.get t.cur.ys.y 0 n = Table.get s.cur.ys.y 0 n) ∧ turnFrame s t ∧ t.cur.regs = s.cur.regs ∧
         t.cur.seq = s.cur.seq ∧ (t.clu (s.turn / 8)).pool = (s.clu (s.turn / 8)).pool) ∧
     (r = true → s.cur.ys.rdepth ≤ h.toNat → exec (.phdrop g h r) s = .next (s.issueFault .y 0x0F)) ∧
     (∀ n, (r = false ∧ n = h.toNat) ∨ (r = true ∧ h.toNat < s.cur.ys.rdepth ∧ n = (h.toNat + s.cur.ys.rbase) % s.cur.ys.rdepth) →
       let w := (Table.get s.cur.ys.y 0 n).toNat
       (w < 2 ^ 15 → exec (.phdrop g h r) s = .next (s.issueFault .y 0x0F)) ∧
       (∀ m, w = 2 ^ 15 + code * 2 ^ 12 + i → p.member? τ s.cur.rank = some m → m.mode = mode → p.doneIn s.cycle = false →
         ∃ t, exec (.phdrop g h r) s = .next t ∧ (phaserHere t i).member? τ s.cur.rank = none ∧ (phaserHere t i).phase = p.phase ∧
           (mode = .w → (phaserHere t i).nsig = p.nsig ∧ (phaserHere t i).arrived = p.arrived) ∧
           (mode ≠ .w → m.q = p.phase → (phaserHere t i).nsig = p.nsig - 1 ∧ (phaserHere t i).arrived = p.arrived + 1) ∧
           (mode ≠ .w → m.q = p.phase + 1 → (phaserHere t i).nsig = p.nsig - 1 ∧ (phaserHere t i).arrived = p.arrived - 1) ∧
           (∀ j, j ≠ i → phaserHere t j = phaserHere s j) ∧
           Table.get t.cur.ys.y 0 n = BitVec.ofNat 16 (code * 2 ^ 12 + i) ∧ turnFrame s t ∧ t.cur.seq = s.cur.seq))) ∧
  (∀ (g : Guard) (h : BitVec 4) (i τ : Nat) (m : Member) (mode : PhMode) (s : State), s.cur.on g = true → s.cur.task = some τ →
     i < 64 → s.cur.seq.hold = none → s.cur.ys.phswDone = false → s.cur.seq.signalledAt = none →
     let p := phaserHere s i
     let code := match mode with | .s => 1 | .w => 2 | .sw => 3
     Table.get s.cur.ys.y 0 h.toNat = BitVec.ofNat 16 (2 ^ 15 + code * 2 ^ 12 + i) → p.member? τ s.cur.rank = some m →
     let moved := fun (t : State) (q w : BitVec 32) =>
       (phaserHere t i).member? τ s.cur.rank = some { m with q := q, w := w } ∧ (phaserHere t i).phase = p.phase ∧
       (phaserHere t i).nsig = p.nsig ∧ (∀ j, j ≠ i → phaserHere t j = phaserHere s j) ∧ turnFrame s t ∧
       t.cur.seq.flight = s.cur.seq.flight ∧ t.cur.seq.verdict = s.cur.seq.verdict ∧
       (t.clu (s.turn / 8)).pool = (s.clu (s.turn / 8)).pool
     (mode = .w → exec (.phsig g h false) s = .next (s.issueFault .y 0x0F)) ∧
     (mode = .s → exec (.phwait g h false) s = .next (s.issueFault .y 0x0F)) ∧
     (mode ≠ .sw → exec (.phsw g h false) s = .next (s.issueFault .y 0x0F)) ∧
     (mode ≠ .w → m.q ≠ p.phase → exec (.phsig g h false) s = .next (s.holdFor .y .ywait)) ∧
     (mode ≠ .s → m.w = p.phase → exec (.phwait g h false) s = .next (s.holdFor .y .ywait)) ∧
     (mode ≠ .w → m.q = p.phase →
       ∃ t, exec (.phsig g h false) s = .next t ∧ moved t (m.q + 1) m.w ∧ (phaserHere t i).arrived = p.arrived + 1 ∧
         (phaserHere t i).counted = p.counted + 1) ∧
     (mode ≠ .s → m.w ≠ p.phase →
       ∃ t, exec (.phwait g h false) s = .next t ∧ moved t m.q (m.w + 1) ∧ (phaserHere t i).arrived = p.arrived) ∧
     (mode = .sw → m.q = p.phase → m.w ≠ p.phase →
       ∃ t, exec (.phsw g h false) s = .next t ∧ moved t (m.q + 1) (m.w + 1) ∧ (phaserHere t i).arrived = p.arrived + 1 ∧
         t.cur.ys.phswDone = false) ∧
     (mode = .sw → m.q = p.phase → m.w = p.phase →
       ∃ t, exec (.phsw g h false) s = .next t ∧ (phaserHere t i).member? τ s.cur.rank = some { m with q := m.q + 1 } ∧
         (phaserHere t i).arrived = p.arrived + 1 ∧ t.cur.ys.phswDone = true ∧ t.cur.seq.verdict = .held)) ∧
  (∀ (p : Phaser) (cycle : Nat),
     (0 < p.counted → p.nsig ≤ p.arrived → p.doneIn cycle = false →
       (p.settle cycle).phase = p.phase + 1 ∧ (p.settle cycle).arrived = 0 ∧ (p.settle cycle).counted = 0 ∧
       (p.settle cycle).nsig = p.nsig ∧ (p.settle cycle).members = p.members) ∧
     (p.counted = 0 ∨ p.arrived < p.nsig ∨ p.doneIn cycle = true → p.settle cycle = p))

/-- R298: an operation on a chip phaser waits for its bundle to be committed and strike-clear and for all that
stands before a release; then it acts at the phaser and leaves the core.

R294, R295, R296, R298: on a chip phaser a signal queues its operation at issue, once for the open phase of its member: a second one,
one whose own signal is on its way is held; the first behind a registration that has not been performed follows it there, and a wait there
is held (both are the model's choice, assumption log 104). A wait for a phase that has completed issues, one for the open phase is held. A drop queues its operation and
clears the handle's valid bit. The phaser itself does not change at issue, but for the wait's own phase.

R303, R304: a wait for a future whose cell is full issues; one whose cell is empty is held, and behind the cycle's bundles takes an
entry in the cluster's wait table or, when that is full, counts a poll 128 cycles away; a cell that is misaligned or beyond 2^25 is refused, one past the allocation is a protection fault. A poll
that finds the cell full lets the bundle issue in the next cycle, and otherwise polls again 128 cycles later. -/
def Obligations.ChipPhasersAndFutures : Prop :=
  (∀ (c : Nat) (o : PhaserOp) (rest : List PhaserOp) (s : State), (s.core c).eng.phaserOps = o :: rest →
     let p := Table.get s.chipPhasers {} o.index
     ((∀ τ, o.clearAt = some τ → s.cycle < τ) → exec (.chipPhaserPerform c) s = .next s) ∧
     ((∃ τ, o.clearAt = some τ ∧ τ ≤ s.cycle) → (∀ k, s.task? o.tid = some k → s.isFrontier o.tid = true ∨ k.state = .committed) →
       nothingBefore s c →
       ∃ t, exec (.chipPhaserPerform c) s = .next t ∧ (t.core c).eng = { (s.core c).eng with phaserOps := rest } ∧
         (∀ md, o.act = .join md → (Table.get t.chipPhasers {} o.index).nsig = p.nsig + (if md = .w then 0 else 1) ∧
           (Table.get t.chipPhasers {} o.index).members = p.members ++
             [{ tid := o.tid, rank := o.rank, mode := md, q := p.phase, w := p.phase }]) ∧
         (∀ m, o.act = .signal → p.member? o.tid o.rank = some m →
           (Table.get t.chipPhasers {} o.index).arrived = p.arrived + 1 ∧
           (Table.get t.chipPhasers {} o.index).member? o.tid o.rank = some { m with q := m.q + 1 }) ∧
         (o.act = .leave → (Table.get t.chipPhasers {} o.index).member? o.tid o.rank = none) ∧
         (∀ j, j ≠ o.index → Table.get t.chipPhasers {} j = Table.get s.chipPhasers {} j) ∧
         (t.core c).regs = (s.core c).regs ∧ (∀ d, d ≠ c → t.core d = s.core d) ∧ t.clusters = s.clusters ∧ t.pmem = s.pmem)) ∧
  (∀ (g : Guard) (h : BitVec 4) (i τ : Nat) (mode : PhMode) (s : State), s.cur.on g = true → s.cur.task = some τ →
     i < 512 → s.cur.seq.hold = none → s.cur.ys.phswDone = false → s.cur.seq.signalledAt = none →
     let n := (s.ctx (s.pasidOf s.turn)).phbase + i
     let p := Table.get s.chipPhasers {} n
     let code := match mode with | .s => 1 | .w => 2 | .sw => 3
     Table.get s.cur.ys.y 0 h.toNat = BitVec.ofNat 16 (2 ^ 15 + 2 ^ 14 + code * 2 ^ 12 + i) →
     let queued := fun (t : State) (act : PhaserAct) => ∃ o, t.cur.eng.phaserOps = s.cur.eng.phaserOps ++ [o] ∧ o.act = act ∧
       o.index = n ∧ o.tid = τ ∧ o.rank = s.cur.rank ∧ o.clearAt = none
     let frame := fun (t : State) => turnFrame s t ∧ t.cur.seq.flight = s.cur.seq.flight ∧ t.clusters = s.clusters ∧ t.tasks = s.tasks ∧
       t.cur.eng.evq = s.cur.eng.evq
     let none_ := ∀ o ∈ s.cur.eng.phaserOps, o.index = n → o.tid = τ → o.act ≠ .signal
     (mode = .w → exec (.phsig g h false) s = .next (s.issueFault .y 0x0F)) ∧
     (mode = .s → exec (.phwait g h false) s = .next (s.issueFault .y 0x0F)) ∧
     (mode ≠ .sw → exec (.phsw g h false) s = .next (s.issueFault .y 0x0F)) ∧
     (p.member? τ s.cur.rank = none →
       let joining := ∃ o ∈ s.cur.eng.phaserOps, o.index = n ∧ o.tid = τ ∧ o.act = .join mode
       (mode ≠ .w → (∀ o ∈ s.cur.eng.phaserOps, o.index ≠ n) ∨ ¬none_ → exec (.phsig g h false) s = .next (s.holdFor .y .ywait)) ∧
       (mode ≠ .w → joining → none_ →
         ∃ t, exec (.phsig g h false) s = .next t ∧ queued t .signal ∧ t.chipPhasers = s.chipPhasers ∧ frame t ∧
           t.cur.seq.verdict = s.cur.seq.verdict) ∧
       (mode ≠ .s → exec (.phwait g h false) s = .next (s.holdFor .y .ywait))) ∧
     (∀ m, p.member? τ s.cur.rank = some m →
       let waited := fun (t : State) => (Table.get t.chipPhasers {} n).member? τ s.cur.rank = some { m with w := m.w + 1 } ∧
         (Table.get t.chipPhasers {} n).phase = p.phase ∧ (Table.get t.chipPhasers {} n).arrived = p.arrived ∧
         ∀ j, j ≠ n → Table.get t.chipPhasers {} j = Table.get s.chipPhasers {} j
       (mode ≠ .w → m.q ≠ p.phase ∨ ¬none_ → exec (.phsig g h false) s = .next (s.holdFor .y .ywait)) ∧
       (mode ≠ .w → m.q = p.phase → none_ →
         ∃ t, exec (.phsig g h false) s = .next t ∧ queued t .signal ∧ t.chipPhasers = s.chipPhasers ∧ frame t ∧
           t.cur.seq.verdict = s.cur.seq.verdict) ∧
       (mode ≠ .s → m.w = p.phase → exec (.phwait g h false) s = .next (s.holdFor .y .ywait)) ∧
       (mode ≠ .s → m.w ≠ p.phase →
         ∃ t, exec (.phwait g h false) s = .next t ∧ waited t ∧ t.cur.eng.phaserOps = s.cur.eng.phaserOps ∧ frame t ∧
           t.cur.seq.verdict = s.cur.seq.verdict) ∧
       (mode = .sw → m.q = p.phase → none_ → m.w ≠ p.phase →
         ∃ t, exec (.phsw g h false) s = .next t ∧ queued t .signal ∧ waited t ∧ frame t ∧ t.cur.ys.phswDone = false ∧
           t.cur.seq.verdict = s.cur.seq.verdict) ∧
       (mode = .sw → m.q = p.phase → none_ → m.w = p.phase →
         ∃ t, exec (.phsw g h false) s = .next t ∧ queued t .signal ∧ t.chipPhasers = s.chipPhasers ∧ frame t ∧
           t.cur.ys.phswDone = true ∧ t.cur.seq.verdict = .held)) ∧
     (∃ t, exec (.phdrop g h false) s = .next t ∧ queued t .leave ∧ t.chipPhasers = s.chipPhasers ∧ frame t ∧
       Table.get t.cur.ys.y 0 h.toNat = BitVec.ofNat 16 (2 ^ 14 + code * 2 ^ 12 + i) ∧ t.cur.seq.verdict = s.cur.seq.verdict)) ∧
  ((∀ (g : Guard) (a : SSrc) (s : State), s.cur.on g = true → s.cur.seq.hold = none → s.cur.eng.atomics = [] →
     let cell := (s.cur.readS a).toNat
     let cl := s.turn / 8
     let full := ((s.clu cl).pool.read (cell + 8)).getLsbD 0
     (cell % 16 ≠ 0 ∨ 2 ^ 25 ≤ cell → exec (.fwait g a) s = .next (s.issueFault .y 0x0F)) ∧
     (cell % 16 = 0 → cell < 2 ^ 25 → s.poolBound s.turn < cell + 16 → exec (.fwait g a) s = .next (s.execFault .y 0x0A)) ∧
     (cell % 16 = 0 → cell + 16 ≤ s.poolBound s.turn → full = true →
       ∃ t, exec (.fwait g a) s = .next t ∧ turnFrame s t ∧ t.cur.ys = s.cur.ys ∧ t.cur.seq.verdict = s.cur.seq.verdict ∧
         t.cur.seq.flight = s.cur.seq.flight ∧ (t.clu cl).pool = (s.clu cl).pool ∧ t.tasks = s.tasks) ∧
     (cell % 16 = 0 → cell + 16 ≤ s.poolBound s.turn → full = false →
       ∃ t, exec (.fwait g a) s = .next t ∧ t.cur.seq.verdict = .held ∧
         (t.cur.seq.hold.map fun x => (x.cause, x.slot)) = some (.ywait, 8) ∧ t.cur.seq.waitAt = some (s.cur.seq.waitAt.getD s.cycle) ∧
         t.cur.seq.waitCell = cell ∧ t.clusters = s.clusters ∧ turnFrame s t)) ∧
   (∀ (c : Nat) (s : State) (h : Hold), (s.core c).seq.hold = some h → h.cause = .ywait → (s.core c).seq.waitAt ≠ none →
     (s.core c).seq.waitFrom = 0 → (s.core c).seq.releaseAt = none →
     let e : WaitEntry := { cell := (s.core c).seq.waitCell, tid := (s.core c).task.getD 0, rank := (s.core c).rank }
     let k := s.clu (c / 8)
     let put := fun (w : Cluster) => s.modClu (c / 8) fun _ => w
     (e ∈ k.waits → s.enterWait c = s) ∧
     (e ∉ k.waits → k.waits.length < 256 → s.enterWait c = put { k with waits := k.waits ++ [e] }) ∧
     (e ∉ k.waits → 256 ≤ k.waits.length →
       ((s.enterWait c).clu (c / 8)).fpoll.toNat = min (k.fpoll.toNat + 1) (2 ^ 32 - 1) ∧
       ((s.enterWait c).clu (c / 8)).waits = k.waits ∧
       ((s.enterWait c).core c).seq = { (s.core c).seq with waitFrom := s.cycle + 128 } ∧
       ∀ d, d ≠ c → (s.enterWait c).core d = s.core d)) ∧
   (∀ (c a : Nat) (s : State), s.fwaitCell c = some a → (s.core c).seq.waitFrom ≠ 0 → (s.core c).seq.waitFrom ≤ s.cycle →
     (s.core c).eng.atomics = [] →
     let full := ((s.clu (c / 8)).pool.read (a + 8)).getLsbD 0
     let put := fun (q : Seq) => Host.Outcome.next (s.setCore c { s.core c with seq := q })
     (full = true → exec (.futurePoll c) s = put { (s.core c).seq with releaseAt := some (s.cycle + 1), waitFrom := 0 }) ∧
     (full = false → exec (.futurePoll c) s = put { (s.core c).seq with waitFrom := (s.core c).seq.waitFrom + 128 })))

/-- R299, R311, R315: the rotating base is set, or moves by one within its depth; a token request is set or cleared; a wait
for records passes when the queue holds them, is held while it holds fewer, and refuses 0 and more than 128.

R310: a free token that has arrived stays at a cluster that needs one, and otherwise moves on to the next of the six
clusters, four cycles away; before its time it stays on its way.

R312, R313: a next-tile request whose descriptor lies in the pool sends, 64 bundles on, the tile of the participant's next
index, or the null flag, to the S registers 60 to 63 in turn, and counts its request; a participant beyond the count is
refused, and a descriptor past the allocation is a protection fault. -/
def Obligations.BasesTokensAndTiles : Prop :=
  (∀ (g : Guard) (d : BitVec 3) (n : Byte) (s : State), s.cur.on g = true →
     let ys := fun (i : Instr) (y : YState) => ∃ t, exec i s = .next t ∧ t.cur.ys = y ∧ t.cur.regs = s.cur.regs ∧ t.cur.seq = s.cur.seq ∧
       t.cur.eng = s.cur.eng ∧ turnFrame s t ∧ t.clusters = s.clusters ∧ t.tasks = s.tasks ∧
       (s.cur.rcv.rerun = none → t.cur.rcv = s.cur.rcv)
     ys (.pbaseInit g d) { s.cur.ys with rdepth := d.toNat + 1, rbase := 0 } ∧
     ys (.pbase g) { s.cur.ys with rbase := (s.cur.ys.rbase + 1) % s.cur.ys.rdepth } ∧
     ys (.tokacq g) { s.cur.ys with tokreq := true } ∧
     ys (.tokrel g) { s.cur.ys with tokreq := false } ∧
     (n = 0 ∨ 128 < n.toNat → exec (.evwait g n) s = .next (s.issueFault .y 0x0F)) ∧
     (0 < n.toNat → n.toNat ≤ 128 → s.cur.eng.evq.length < n.toNat → exec (.evwait g n) s = .next (s.holdFor .y .records)) ∧
     (0 < n.toNat → n.toNat ≤ 128 → n.toNat ≤ s.cur.eng.evq.length →
       ∃ t, exec (.evwait g n) s = .next t ∧ t.cur.eng = s.cur.eng ∧ t.cur.seq = s.cur.seq ∧ t.cur.ys = s.cur.ys ∧
         turnFrame s t ∧ t.clusters = s.clusters ∧ t.tasks = s.tasks)) ∧
  (∀ (d pos at_ : Nat) (s : State), pos < 6 → (s.die d).tokens = [⟨pos, at_⟩] → (s.die d).surplus = 0 →
     (∀ i, i < 6 → (s.clu (6 * d + i)).hasToken = false) →
     ∃ t, exec (.tokenHop d) s = .next t ∧ t.cores = s.cores ∧ t.tasks = s.tasks ∧ t.pmem = s.pmem ∧
       (∀ c, (t.clu c).pool = (s.clu c).pool ∧ (t.clu c).held = (s.clu c).held) ∧
       (s.cycle < at_ → (t.die d).tokens = [⟨pos, at_⟩] ∧ ∀ c, (t.clu c).hasToken = (s.clu c).hasToken) ∧
       (at_ ≤ s.cycle → s.needsToken (6 * d + pos) = true → (t.die d).tokens = [] ∧ (t.clu (6 * d + pos)).hasToken = true) ∧
       (at_ ≤ s.cycle → s.needsToken (6 * d + pos) = false →
         (t.die d).tokens = [⟨(pos + 1) % 6, s.cycle + 4⟩] ∧ ∀ c, (t.clu c).hasToken = (s.clu c).hasToken)) ∧
  (∀ (g : Guard) (a b : SSrc) (s : State), s.cur.on g = true → s.cur.eng.atomics = [] →
     let d := (s.cur.readS a).toNat
     let w := (s.cur.readS b).toNat
     let r := w % 2 ^ 16
     let P := w / 2 ^ 16
     let m := fun (o n : Nat) => (s.clu (s.turn / 8)).pool.readLE (d + o) n
     let T := m 0 4
     let nx := m 4 2
     let ny := m 6 2
     let order := m 8 1
     let i := s.cur.ys.ntc * P + r
     let v := if T ≤ i ∨ nx = 0 ∨ ny = 0 ∨ 1 < order ∨ m 9 7 ≠ 0 then 2 ^ 64 - 1
       else i / (nx * ny) * 2 ^ 32 + (if order = 0 then i / nx % ny else i % ny) * 2 ^ 16 +
         (if order = 0 then i % nx else i / ny % nx)
     (d % 16 ≠ 0 ∨ 2 ^ 25 ≤ d ∨ 2 ^ 32 ≤ w ∨ P ≤ r → exec (.ntile g a b) s = .next (s.issueFault .y 0x0F)) ∧
     (d % 16 = 0 → d < 2 ^ 25 → w < 2 ^ 32 → r < P → s.poolBound s.turn < d + 16 →
       exec (.ntile g a b) s = .next (s.execFault .y 0x0A)) ∧
     (d % 16 = 0 → w < 2 ^ 32 → r < P → d + 16 ≤ s.poolBound s.turn →
       ∃ t, exec (.ntile g a b) s = .next t ∧
         t.cur.seq = { s.cur.seq with flight := s.cur.seq.flight ++
           [{ due := s.cur.seq.stream + 64, slot := .y, dest := .s (60 + s.cur.ys.ntp), val := v, mask := 2 ^ 64 - 1,
              issued := s.cur.seq.stream, kept := true }] } ∧
         t.cur.ys = { s.cur.ys with ntc := (s.cur.ys.ntc + 1) % 2 ^ 64, ntp := (s.cur.ys.ntp + 1) % 4 } ∧
         turnFrame s t ∧ t.clusters = s.clusters ∧ t.tasks = s.tasks))

/-- R262, R306, R307, R308: a counter operation of the frontier task takes the next number of its stage and joins its pending
operations; a speculative task's waits; a counter beyond the context's allocation is a protection fault, and a value with
other bits a refused operand.

R306, R308, R309: a strike-clear counter operation whose turn has come is performed: a set arms the counter with its count
and successor; a decrement lowers a count above one, and at one of an armed counter enqueues the successor as a Ready task,
once; at zero it leaves the count and logs the underflow. -/
def Obligations.DependenceCounters : Prop :=
  (∀ (g : Guard) (n k t : BitVec 6) (s : State), s.cur.on g = true →
     let v := (s.cur.readSReg n.toNat).toNat
     let kv := (s.cur.readSReg k.toNat).toNat
     let x := s.ctx (s.pasidOf s.turn)
     let st := s.stageOf s.turn
     let kind := TaskKind.ofCode (kv / 2 ^ 32 % 4)
     let budget := Table.get (s.progOf s.turn).budgets 0 kind.code
     let queued := fun (o : Host.Outcome State Fault Refusal) (counter : Nat) (what : Option (Nat × Successor)) =>
       ∃ u y, o = .next u ∧ (u.stage st).ctrOps = (s.stage st).ctrOps ++ [y] ∧ y.number = (s.stage st).ctrNext ∧
         y.core = s.turn ∧ y.counter = counter ∧ y.set = what ∧ y.clearAt = none ∧ (u.stage st).ctrNext = (s.stage st).ctrNext + 1 ∧
         turnFrame s u ∧ u.cur.seq = s.cur.seq ∧ u.counters = s.counters ∧ u.clusters = s.clusters
     (2 ^ 16 ≤ v → exec (.dctrDec g n) s = .next (s.issueFault .y 0x0F)) ∧
     (v < 2 ^ 16 → x.dccount ≤ v → exec (.dctrDec g n) s = .next (s.issueFault .y 0x0A)) ∧
     (v < 2 ^ 16 → v < x.dccount → s.speculative s.turn = true → exec (.dctrDec g n) s = .next (s.holdFor .y .frontier)) ∧
     (v < 2 ^ 16 → v < x.dccount → s.speculative s.turn = false → s.cur.rcv.reuse = [] →
       queued (exec (.dctrDec g n) s) (x.dcbase + v) none) ∧
     (v / 2 ^ 16 % 2 ^ 24 = 0 ∨ 2 ^ 40 ≤ v ∨ 2 ^ 34 ≤ kv ∨ budget = 0 → exec (.dctrSet g n k t) s = .next (s.issueFault .y 0x0F)) ∧
     (v / 2 ^ 16 ≠ 0 → v < 2 ^ 40 → kv < 2 ^ 34 → budget ≠ 0 → x.dccount ≤ v % 2 ^ 16 →
       exec (.dctrSet g n k t) s = .next (s.issueFault .y 0x0A)) ∧
     (v / 2 ^ 16 ≠ 0 → v < 2 ^ 40 → kv < 2 ^ 34 → budget ≠ 0 → v % 2 ^ 16 < x.dccount → s.speculative s.turn = true →
       exec (.dctrSet g n k t) s = .next (s.holdFor .y .frontier)) ∧
     (v / 2 ^ 16 ≠ 0 → v < 2 ^ 40 → kv < 2 ^ 34 → budget ≠ 0 → v % 2 ^ 16 < x.dccount → s.speculative s.turn = false →
       s.cur.rcv.reuse = [] → queued (exec (.dctrSet g n k t) s) (x.dcbase + v % 2 ^ 16)
         (some (v / 2 ^ 16, { kind := kind, tag := kv % 2 ^ 32, ts := (s.cur.readSReg t.toNat).toNat, budget := budget, stage := st })))) ∧
  (∀ (st τ : Nat) (o : CounterOp) (s : State), (s.stage st).ctrOps = [o] → o.number = (s.stage st).ctrDone →
     let c := Table.get s.counters {} o.counter
     (o.clearAt = some τ → s.cycle < τ → exec (.dctrPerform st) s = .next s) ∧
     (o.clearAt = some τ → τ ≤ s.cycle →
       (∀ n su, o.set = some (n, su) → ∃ t, exec (.dctrPerform st) s = .next t ∧
         Table.get t.counters {} o.counter = { count := BitVec.ofNat 24 n, armed := true, succ := some su } ∧
         (t.stage st).ctrOps = [] ∧ (t.stage st).ctrDone = (s.stage st).ctrDone + 1 ∧ t.tasks = s.tasks ∧ t.cores = s.cores) ∧
       (o.set = none → 1 < c.count.toNat → ∃ t, exec (.dctrPerform st) s = .next t ∧
         Table.get t.counters {} o.counter = { c with count := c.count - 1 } ∧ (t.stage st).ctrOps = [] ∧ t.tasks = s.tasks ∧
         t.cores = s.cores) ∧
       (∀ su, o.set = none → c.count = 1 → c.armed = true → c.succ = some su → su.kind ≠ .b →
         let key : Key := { ts := su.ts, origin := 384, seq := Table.get (s.stage su.stage).seqs 0 384 }
         s.isLate su.stage key = false → s.stageFull su.stage = false →
         ∃ t k, exec (.dctrPerform st) s = .next t ∧ Table.get t.counters {} o.counter = { c with count := 0, armed := false } ∧
           t.task? s.nextId = some k ∧ k.key = key ∧ k.kind = su.kind ∧ k.tag = su.tag ∧ k.budget = su.budget ∧ k.state = .ready ∧
           (∀ q, q ≠ s.nextId → t.task? q = s.task? q) ∧ t.cores = s.cores) ∧
       (o.set = none → c.count = 0 → s.task? o.tid = none → ∃ t, exec (.dctrPerform st) s = .next t ∧
         Table.get t.counters {} o.counter = c ∧ t.tasks = s.tasks ∧ t.cores = s.cores ∧
         (s.host.log = [] → s.host.dropped = 0 → t.host.log.length = 1))))

/-- R317-R319, R321: an evaluation that is due in a stage with one free slot and one queued Ready task gives the task the slot
and its entry bundle 8 cycles later when the task is starving, and, when it is not, when entry 0 of the tide table names its
kind and holds in every class; an idle entry 0 leaves the slot free. An evaluation that is not due does nothing.

R25, R319, R365: in the cycle of its dispatch a task's cores start at the entry bundle with an empty loop stack; scalar
registers, predicates, scale and address registers, handles and `fstat` are cleared; vector files, lane masks,
accumulators, lane slices and scratchpad keep what they hold; each core takes a rewind point there.

R310, R322, R384: a publication sets the die's classes from its power, in hundredths of a percent of its share less its margins (how
a margin takes from the share is the model's choice, assumption log 121), and from the
hottest temperature reported since the one before: a class moves to a worse value when its threshold is reached, and back
only at 3 points or 3 degrees below it. The die's tokens come to the number of the class, 6, 4, 2 and 1 from headroom class 3
down, and 1 in temperature class 3; a change asks every stage with a cluster on the die for an evaluation in the next cycle. -/
def Obligations.TasksAreChosenAndDispatched : Prop :=
  (∀ (st τ prio : Nat) (k : Task) (x : Nat × Nat) (s : State), k.stage = st → s.task? τ = some k → k.state = .ready →
     k.free = true → s.queuedTasks st = [(τ, k)] → s.stageLive st = true → s.freeSlots st = [x] → prio < 8 →
     (∀ d, (s.die d).temp < 4 ∧ ∀ x, (s.die d).before = some x → x.2.2 < 4) → k.queuedAt < s.cycle →
     let starving := k.agedAt.getD k.queuedAt + (s.stage st).starve ≤ s.cycle
     let chosen := fun (t : State) =>
       t.task? τ = some { k with state := .running, cluster := x.1, slot := x.2, dispatchAt := some (s.cycle + 8) } ∧
       t.inputs = s.inputs ++ [(s.cycle + 8, .taskDispatch τ)] ∧ (∀ q, q ≠ τ → t.task? q = s.task? q) ∧ t.cores = s.cores ∧
       t.clusters = s.clusters ∧ t.pmem = s.pmem
     ((∀ a ∈ (s.stage st).evalAt, s.cycle < a) → exec (.stageEvaluation st) s = .next s) ∧
     ((∃ a ∈ (s.stage st).evalAt, a ≤ s.cycle) →
       (starving → ∃ t, exec (.stageEvaluation st) s = .next t ∧ chosen t) ∧
       (¬ starving → k.kind ≠ .b →
         (s.stage st).tide = [(0, BitVec.ofNat 64 (2 ^ 63 + k.kind.code * 2 ^ 61 + prio * 2 ^ 56 + 0xFF * 2 ^ 48))] →
         ∃ t, exec (.stageEvaluation st) s = .next t ∧ chosen t) ∧
       (¬ starving → (s.stage st).tide = [(0, BitVec.ofNat 64 (2 ^ 63 + 2 ^ 59 + 0xFF * 2 ^ 48))] →
         ∃ t, exec (.stageEvaluation st) s = .next t ∧ t.tasks = s.tasks ∧ t.inputs = s.inputs ∧ t.cores = s.cores ∧
           (t.stage st).evalAt = (s.stage st).evalAt.filter (s.cycle < ·)))) ∧
  (∀ (τ : Nat) (k : Task) (s : State), s.task? τ = some k →
     (k.dispatchAt ≠ some s.cycle → exec (.taskDispatch τ) s = .next s) ∧
     (k.dispatchAt = some s.cycle → (s.ctx k.pasid).phase = .active → (s.clu k.cluster).inService = true →
       8 * k.cluster + k.slot ∉ (s.stage k.stage).lost →
       let team := (s.stage k.stage).team
       let first := 8 * k.cluster + k.slot * team
       ∃ t n, exec (.taskDispatch τ) s = .next t ∧ t.task? τ = some n ∧ n.budget = k.full ∧ n.dispatchAt = none ∧ n.key = k.key ∧
         n.state = k.state ∧ (∀ q, q ≠ τ → t.task? q = s.task? q) ∧
         (∀ c, c < first ∨ first + team ≤ c → t.core c = s.core c) ∧ t.pmem = s.pmem ∧ t.xs = s.xs ∧
         ∀ j, j < team →
           let a := t.core (first + j)
           let b := s.core (first + j)
           a.task = some τ ∧ a.rank = j ∧ a.seq.pc = 0 ∧ a.seq.loops = [] ∧ a.regs.s = [] ∧ a.regs.p = 0 ∧ a.regs.e = [] ∧
           a.regs.la = [] ∧ a.regs.ta = [] ∧ a.regs.xa = [] ∧ a.regs.fstat = 0 ∧ a.ys.y = [] ∧ a.regs.donemask = 0 ∧
           a.regs.waitlim = BitVec.ofNat 64 (s.stage k.stage).wdef ∧ a.regs.va = b.regs.va ∧ a.regs.vb = b.regs.vb ∧
           a.regs.ka = b.regs.ka ∧ a.regs.kb = b.regs.kb ∧ a.arr.z = b.arr.z ∧ a.arr.zm = b.arr.zm ∧ a.sp = b.sp ∧ a.ls = b.ls ∧
           a.rcv.segStart = s.cycle ∧ ∃ rp, a.rcv.rps.head? = some rp ∧ rp.pc = 0 ∧ rp.cycle = s.cycle ∧ rp.budget = k.full)) ∧
  (∀ (d power hot : Nat) (s : State), (s.die d).hottest = some hot → (s.die d).headroom < 4 → (s.die d).temp < 4 →
     (s.die d).surplus ≤ (s.die d).tokens.length + ((List.range 6).filter fun i => (s.clu (6 * d + i)).hasToken).length →
     let p := s.dieLoad d power
     ∃ t h x, exec (.headroomPublication d power) s = .next t ∧ (t.die d).headroom = h ∧ (t.die d).temp = x ∧ h < 4 ∧ x < 4 ∧
       (h = 0 ↔ 9500 ≤ p ∨ ((s.die d).headroom = 0 ∧ 9200 < p)) ∧ (h ≤ 1 ↔ 8500 ≤ p ∨ ((s.die d).headroom ≤ 1 ∧ 8200 < p)) ∧
       (h ≤ 2 ↔ 7000 ≤ p ∨ ((s.die d).headroom ≤ 2 ∧ 6700 < p)) ∧
       (x = 3 ↔ 105 ≤ hot ∨ ((s.die d).temp = 3 ∧ 102 < hot)) ∧ (2 ≤ x ↔ 95 ≤ hot ∨ (2 ≤ (s.die d).temp ∧ 92 < hot)) ∧
       (1 ≤ x ↔ 85 ≤ hot ∨ (1 ≤ (s.die d).temp ∧ 82 < hot)) ∧
       t.tokensOf d = (if x = 3 then 1 else if h = 3 then 6 else if h = 2 then 4 else if h = 1 then 2 else 1) ∧
       (∀ e, e ≠ d → t.die e = s.die e) ∧ t.cores = s.cores ∧ t.tasks = s.tasks ∧ t.pmem = s.pmem ∧
       (∀ c, (t.clu c).pool = (s.clu c).pool) ∧
       (h ≠ (s.die d).headroom ∨ x ≠ (s.die d).temp → ∀ st, st < 8 → (s.stage st).valid = true →
         (∃ c ∈ (s.stage st).clusters, c / 6 = d) → s.cycle + 1 ∈ (t.stage st).evalAt) ∧
       (h = (s.die d).headroom → x = (s.die d).temp → t.stages = s.stages))

/-- R21, R324: Resume lets the stream of a stopped task go on, but not after a budget exhaustion; Extend sets the budget and
resumes, and logs it; Abort of a task that is not the frontier task makes it abort at the end of the cycle (the model's order within a
cycle, assumption log 20); with a context fault the context of the task is asked to stop and the host receives the event, with the
fault's code in the frame (log 59). An answer to a task that has not asked changes nothing. -/
def Obligations.TheHandlerAnswers : Prop :=
  ∀ (τ c : Nat) (k : Task) (s : State), heldAlone τ c k s → k.abortDue = none → (s.ctx k.pasid).phase = .active → s.viral = false →
    (k.event = none → (∀ n, exec (.handlerResume τ) s = .next s ∧ exec (.handlerExtend τ n) s = .next s ∧
      ∀ a, exec (.handlerAbort τ a) s = .next s) ∧ exec (.handlerContextFault τ) s = .next s) ∧
    (∀ e, k.event = some e →
      (e.budgetOut = false → exec (.handlerResume τ) s = .next (s.setTask τ { k with event := none })) ∧
      (e.budgetOut = true → exec (.handlerResume τ) s = .next s) ∧
      (∀ n, n = 0 ∨ 2 ^ 48 ≤ n → exec (.handlerExtend τ n) s = .next s) ∧
      (∀ n, 0 < n → n < 2 ^ 48 → c < 192 → (s.core c).rank = 0 → s.host.log = [] → s.host.dropped = 0 →
        ∃ t l, exec (.handlerExtend τ n) s = .next t ∧ t.task? τ = some { k with event := none, budget := n } ∧
          t.host.log = [l] ∧ l.event.toNat / 2 ^ 60 = 5 ∧ l.event.toNat % 2 ^ 26 = 4 ∧ (∀ q, q ≠ τ → t.task? q = s.task? q) ∧
          t.cores = s.cores ∧ t.pmem = s.pmem) ∧
      (∀ again, s.isFrontier τ = true → exec (.handlerAbort τ again) s = .next s) ∧
      (∀ again, s.isFrontier τ = false →
        ∃ t, exec (.handlerAbort τ again) s = .next t ∧ toldToAbort τ k (again || k.tile.isSome) false s t) ∧
      (∃ t n f, exec (.handlerContextFault τ) s = .next t ∧ (t.ctx k.pasid).phase = .stopping ∧
        t.host.sent.getLast? = some f ∧ f.type = 5 ∧ f.code = e.code ∧ f.pasid = k.pasid ∧
        (e.budgetOut = false → t.task? τ = some n ∧ n = { k with event := none } ∧ t.cores = s.cores ∧
          (∀ p, p ≠ k.pasid → t.ctx p = s.ctx p) ∧ (∀ q, q ≠ τ → t.task? q = s.task? q) ∧ t.pmem = s.pmem)))

/-- R269, R325-R327: a wait-idle team of one core that has reached its limit at a shadow-free bundle and could be replaced begins its
swap, 2,700 cycles and then 1 µs and 4 µs for the core (the rule gives them as bounds: assumption log 53); a speculative one with sets is
told to abort instead. One whose waiting bundle is not shadow-free is not swapped, nor is one whose cores have all halted, which ends (R284). At the
end the core's state stands in the swap area and the core is free.

R327, R365: when the restore of a team of one core ends (the model's time, assumption log 53), its core holds what was saved, takes a
rewind point, and resumes at the waiting bundle; the wait run starts again from zero. In a cluster that has left service nothing is
restored (R375). -/
def Obligations.TeamsAreSwapped : Prop :=
  (∀ (τ c : Nat) (k : Task) (s : State), s.task? τ = some k → s.coresOf τ = [c] → (s.core c).task = some τ →
     k.event = none → k.leaving = none →
     let team := (s.stage k.stage).team
     let limit := (s.core c).regs.waitlim.toNat % 2 ^ 32
     ((s.core c).seq.halted = true → exec (.teamSwap τ) s = .next s) ∧
     (limit = 0 ∨ k.waitRun < limit → exec (.teamSwap τ) s = .next s) ∧
     ((∃ b, (s.progOf c).bundleAt (s.core c).seq.pc = some b ∧ b.safe = false ∧ b.seg = false) → exec (.teamSwap τ) s = .next s) ∧
     (k.swap = .none → k.ender = none → heldByWait (s.core c) → limit ≠ 0 → limit ≤ k.waitRun →
       (∃ b, (s.progOf c).bundleAt (s.core c).seq.pc = some b ∧ (b.safe = true ∨ b.seg = true)) →
       (s.core c).eng.unWrites = [] → (s.clu (c / 8)).held.length ≤ 16384 → (s.choose k.stage k.cluster).1 ≠ none →
       (s.isFrontier τ = true ∨ k.lines = [] →
         ∃ t n, exec (.teamSwap τ) s = .next t ∧ t.task? τ = some n ∧ n.state = .swapped ∧
           n.swap = .saving (s.cycle + 2700 + (2700 + 10800 * team)) ∧ n.waitRun = 0 ∧ n.key = k.key ∧
           (t.core c).regs = (s.core c).regs ∧ (t.core c).sp = (s.core c).sp ∧ (t.core c).seq = (s.core c).seq ∧
           (∀ q, q ≠ τ → t.task? q = s.task? q) ∧ (∀ d, d ≠ c → t.core d = s.core d) ∧ t.pmem = s.pmem ∧ t.xs = s.xs) ∧
       (s.isFrontier τ = false → k.lines ≠ [] → k.state = .waiting → k.abortDue = none →
         ∃ t, exec (.teamSwap τ) s = .next t ∧ toldToAbort τ k true false s t)) ∧
     (∀ due, k.swap = .saving due →
       (s.cycle < due → exec (.swapComplete τ) s = .next s) ∧
       (due ≤ s.cycle → quietCore (s.core c) →
         ∃ t n q, exec (.swapComplete τ) s = .next t ∧ Table.get? t.saved τ = some [((s.core c).rank, q)] ∧ resumesAs q (s.core c) ∧
           (t.core c).task = none ∧ t.task? τ = some n ∧ n.state = .swapped ∧ n.swap = .none ∧ n.key = k.key ∧ n.wlog = k.wlog ∧
           (∀ u, u ≠ τ → t.task? u = s.task? u) ∧ (∀ d, d ≠ c → t.core d = s.core d) ∧ t.clusters = s.clusters ∧
           t.pmem = s.pmem ∧ t.xs = s.xs))) ∧
  (∀ (τ due : Nat) (k : Task) (q : Core) (s : State), s.task? τ = some k → k.swap = .restoring due →
     let c := 8 * k.cluster + k.slot * (s.stage k.stage).team
     (s.cycle < due ∨ (s.clu k.cluster).inService = false → exec (.swapRestore τ) s = .next s) ∧
     (due ≤ s.cycle → (s.clu k.cluster).inService = true → Table.get? s.saved τ = some [(0, q)] → q.rank = 0 → k.rewindAt = none →
       ∃ t n, exec (.swapRestore τ) s = .next t ∧ (t.core c).task = some τ ∧ resumesAs (t.core c) q ∧
         (t.core c).seq.issueAt = s.cycle ∧ (t.core c).rcv.segStart = s.cycle ∧ Table.get t.saved [] τ = [] ∧
         (∃ rp, (t.core c).rcv.rps = [rp] ∧ rp.pc = q.seq.pc ∧ rp.cycle = s.cycle) ∧
         t.task? τ = some n ∧ n.state = .running ∧ n.swap = .none ∧ n.waitRun = 0 ∧ n.key = k.key ∧
         (∀ u, u ≠ τ → t.task? u = s.task? u) ∧ (∀ d, d ≠ c → t.core d = s.core d) ∧ t.pmem = s.pmem ∧ t.xs = s.xs))

/-- R328, R329: a save or a restore command that the rules allow is answered and begins, at most eight contexts
being saved and eight running, and none of a gang switch under way; others are refused with status 1, a restore from a layout that the running
image does not read among them. The limits and the status are the model's choice (assumption log 67), the times too (53), and the
command's code (59).

R328: once its one team has stopped and W has passed since its segment entry, the register phase of its cluster runs, apart from
those of the other clusters of the context, whose register phases need not wait; once every cluster's has begun, the save goes on for
2,700 and 270,000 cycles (bounds in the rule: assumption log 53); at its end,
with no write of the context held, the save area holds the core as it stood, the core is free of it, the task has left the
chip, and an event frame carries the tag of the command that asked for it, if any. Before, it waits.

R329: when the restore of a context ends (at the model's time, assumption log 53), the core of its one team, whose slot is in service and
in the plan's stage, holds what the save area held, takes a rewind point and
resumes, the task is back, the stage is as it was saved on the clusters that the plan in force gives it, the context is active, and an event
frame carries the tag of the command that asked for it. -/
def Obligations.ContextsAreSavedAndRestored : Prop :=
  (∀ (fr : Frame) (s : State), isServed s fr →
     let p := fr.pasid.toNat
     let x := s.ctx p
     (Table.get? s.contexts p ≠ none → x.phase = .active → s.inGang p = false → s.resident < 8 →
       ∃ t, exec (.saveContext fr) s = .next t ∧ hasAnswered s t fr 0 [] ∧ t.ctx p = { x with phase := .stopping, tag := fr.tag, command := 8 } ∧
         (∀ q, q ≠ p → t.ctx q = s.ctx q) ∧ leavesMachine s t) ∧
     (x.phase ≠ .active ∨ s.inGang p = true ∨ 8 ≤ s.resident → ∃ t, exec (.saveContext fr) s = .next t ∧ hasAnswered s t fr 1 [] ∧
       t.contexts = s.contexts ∧ leavesMachine s t) ∧
     (∀ a, x.phase = .saved → x.area = some a → a.layout ∈ (if s.host.runningB then s.host.imageB.reads else s.host.imageA.reads) →
       s.inGang p = false → s.running < 8 →
       ∃ t, exec (.restoreContext fr) s = .next t ∧ hasAnswered s t fr 0 [] ∧
         t.ctx p = { x with phase := .restoring (s.cycle + 270000 + 2700), tag := fr.tag, command := 9 } ∧
         (∀ q, q ≠ p → t.ctx q = s.ctx q) ∧ leavesMachine s t) ∧
     (x.phase ≠ .saved ∨ 8 ≤ s.running ∨ s.inGang p = true ∨
       (∃ a, x.area = some a ∧ a.layout ∉ (if s.host.runningB then s.host.imageB.reads else s.host.imageA.reads)) → ∃ t, exec (.restoreContext fr) s = .next t ∧ hasAnswered s t fr 1 [] ∧ t.contexts = s.contexts ∧
       leavesMachine s t)) ∧
  (∀ (p τ c : Nat) (k : Task) (g : Stage) (s : State), s.ctxTasks p = [(τ, k)] → s.task? τ = some k → s.coresOf τ = [c] →
     (s.core c).task = some τ → k.event = none → k.leaving = none → k.swap = .none → k.ender = none →
     s.isFrontier τ = true → s.ctxStages p = [(k.stage, g)] → s.stage k.stage = g → g.valid = true → g.pasid = p → c / 8 ∈ g.clusters →
     (∀ d, d ≠ c → Table.get? s.cores d = none) → quietCore (s.core c) → (s.core c).rcv.rerun = none → s.viral = false →
     ((s.ctx p).phase = .stopping → (∀ cl ∈ g.clusters, (s.clu cl).savingAt = none ∧ (s.clu cl).held.length ≤ 16384) →
       ((s.core c).seq.stopped = false ∧ (s.core c).seq.halted = false ∨ s.cycle < (s.core c).rcv.segStart + 1620 →
         ∃ t, exec (.contextSaveComplete p) s = .next t ∧ (t.ctx p).phase = .stopping ∧ t.cores = s.cores ∧ t.tasks = s.tasks ∧
           t.contexts = s.contexts ∧ (t.clu (c / 8)).savingAt = none ∧
           (∀ cl ∈ g.clusters, cl ≠ c / 8 → (t.clu cl).savingAt = some s.cycle)) ∧
       ((s.core c).seq.stopped = true → (s.core c).rcv.segStart + 1620 ≤ s.cycle → s.areas < 8 →
         ∃ t, exec (.contextSaveComplete p) s = .next t ∧ (t.ctx p).phase = .saving (s.cycle + 2700 + 270000) ∧
           (∀ cl ∈ g.clusters, (t.clu cl).savingAt = some s.cycle) ∧
           (t.core c).regs = (s.core c).regs ∧ (t.core c).sp = (s.core c).sp ∧ (t.core c).seq = (s.core c).seq ∧
           (∀ q, q ≠ p → t.ctx q = s.ctx q) ∧ (∀ d, d ≠ c → t.core d = s.core d) ∧ t.pmem = s.pmem ∧ t.xs = s.xs)) ∧
     (∀ due, (s.ctx p).phase = .saving due →
       (s.cycle < due → exec (.contextSaveComplete p) s = .next s) ∧
       (due ≤ s.cycle → s.link.gangs = [] → (∀ e ∈ s.clusters, ∀ h ∈ e.2.held, h.pasid ≠ p) → s.cores.map (·.1) = [c] →
         s.tasks.map (·.1) = [τ] →
         ∃ t a, exec (.contextSaveComplete p) s = .next t ∧ (t.ctx p).phase = .saved ∧ (t.ctx p).area = some a ∧
           resumesAs (Table.get a.cores {} c) (s.core c) ∧ (Table.get a.cores {} c).task = some τ ∧ a.tasks.map (·.1) = [τ] ∧
           (t.core c).task = none ∧ (t.core c).sp = [] ∧ (t.core c).ls = [] ∧ (t.core c).regs = {} ∧ t.task? τ = none ∧
           endsCommand s t p ∧ (∀ q, q ≠ p → t.ctx q = s.ctx q) ∧ t.pmem = s.pmem))) ∧
  (∀ (p τ c due : Nat) (k : Task) (g : Stage) (q : Core) (a : SaveArea) (s : State), (s.ctx p).phase = .restoring due →
     (s.ctx p).area = some a → a.cores = [(c, q)] → a.tasks = [(τ, k)] → q.task = some τ → k.rewindAt = none → k.atOnce = false →
     (∀ e ∈ s.tasks, e.2.atOnce = false) → a.stages = [(k.stage, g)] → g.valid = true → g.pasid = p →
     (s.stage k.stage).valid = true → (s.stage k.stage).pasid = p → (s.stage k.stage).team = g.team →
     k.cluster ∈ (s.stage k.stage).clusters → (s.clu k.cluster).inService = true →
     8 * k.cluster + k.slot ∉ (s.stage k.stage).lost → s.viral = false →
     a.outbound = [] → a.buffered = [] → (∀ e ∈ s.link.buffered, e.1 ≠ p) →
     (s.cycle < due → exec (.contextRestoreComplete p) s = .next s) ∧
     (due ≤ s.cycle →
       ∃ t n, exec (.contextRestoreComplete p) s = .next t ∧ (t.core c).task = some τ ∧ resumesAs (t.core c) q ∧
         (t.core c).rcv.segStart = s.cycle ∧ t.task? τ = some n ∧ n.key = k.key ∧ n.state = k.state ∧
         (t.stage k.stage).clusters = (s.stage k.stage).clusters ∧ (t.stage k.stage).committed = g.committed ∧ (t.stage k.stage).prog = g.prog ∧
         (t.ctx p).phase = .active ∧ (t.ctx p).area = none ∧ endsCommand s t p ∧
         (∀ d, d ≠ c → (t.core d).regs = (s.core d).regs ∧ (t.core d).sp = (s.core d).sp ∧ (t.core d).seq = (s.core d).seq ∧
           (t.core d).task = (s.core d).task) ∧ (∀ u, u ≠ τ → t.task? u = s.task? u) ∧
         (∀ u, u ≠ p → t.ctx u = s.ctx u) ∧ t.pmem = s.pmem))

/-- R330, R331: a gang switch whose time has not passed is accepted and pending, whatever it finds at its arrival; a passed one is
refused with the queue error (in the payload of an answer of status 1: assumption log 58), and its tag is kept. Nothing happens before its time;
then a quiesce flit leaves on each port that is up and the outgoing context stops; a switch whose outgoing context comes back or is being
destroyed waits (log 58), and one without an outgoing context restores the incoming one, or posts its event frame where there is none (log 59). A
quiesce flit for the outgoing context makes its port quiet; on a chip that runs the context without a pending switch
of it, it acts as a switch for this moment, with the tag of the command that was refused, or 0. -/
def Obligations.GangSwitchesRun : Prop :=
  (∀ (fr : Frame) (T : Word64) (o i : Nat) (s : State), isServed s fr →
    (T.toNat < s.timeNow → ∃ t, exec (.gangSwitch fr T o i) s = .next t ∧ hasAnswered s t fr 1 (leBytes 8 0x0E) ∧
      t.link.gangs = s.link.gangs ∧ Table.get t.link.refusedTags 0 o = fr.tag ∧ t.contexts = s.contexts ∧ leavesMachine s t) ∧
    (s.timeNow ≤ T.toNat →
      ∃ t, exec (.gangSwitch fr T o i) s = .next t ∧ hasAnswered s t fr 0 [] ∧
        t.link.gangs = s.link.gangs ++ [{ time := T.toNat, outgoing := o, incoming := i, tag := fr.tag }] ∧
        t.contexts = s.contexts ∧ leavesMachine s t)) ∧
  (∀ (g : Gang) (s : State), s.link.gangs = [g] → g.begun = false →
    (s.timeNow < g.time → exec .gangSwitchTime s = .next s) ∧
    (g.outgoing ≠ 0 → (Table.get? s.contexts g.outgoing).isSome = true →
      (s.ctx g.outgoing).phase = .destroying ∨ (∃ due, (s.ctx g.outgoing).phase = .restoring due) → exec .gangSwitchTime s = .next s) ∧
    (g.time ≤ s.timeNow → g.outgoing = 0 → g.incoming ≠ 0 → s.restorable g.incoming = true → s.running < 8 →
      ∃ t, exec .gangSwitchTime s = .next t ∧ t.link.gangs = [] ∧ (t.ctx g.incoming).phase = .restoring (s.cycle + 270000 + 2700) ∧
        (t.ctx g.incoming).tag = g.tag ∧ (∀ p, p ≠ g.incoming → (t.ctx p).phase = (s.ctx p).phase) ∧ t.host = s.host ∧ leavesMachine s t) ∧
    (g.time ≤ s.timeNow → g.outgoing = 0 → g.incoming = 0 → s.viral = false →
      ∃ t f, exec .gangSwitchTime s = .next t ∧ t.link.gangs = [] ∧ t.host.sent = s.host.sent ++ [f] ∧ f.type = 5 ∧ f.code = 7 ∧
        f.tag = g.tag ∧ (∀ p, (t.ctx p).phase = (s.ctx p).phase) ∧ leavesMachine s t) ∧
    (g.time ≤ s.timeNow → g.outgoing ≠ 0 → (Table.get? s.contexts g.outgoing).isSome = true → (s.ctx g.outgoing).phase = .active →
      s.viral = false →
      ∃ t, exec .gangSwitchTime s = .next t ∧ t.link.gangs = [{ g with begun := true }] ∧
        t.link.sent = s.link.sent ++ s.upPorts.map (fun q => Flit.quiesce q g.outgoing) ∧
        t.ctx g.outgoing = { s.ctx g.outgoing with phase := .stopping, tag := g.tag, command := 7 } ∧
        (∀ p, p ≠ g.outgoing → t.ctx p = s.ctx p) ∧ leavesMachine s t)) ∧
  (∀ (port pasid : Nat) (g : Gang) (s : State), s.recovery = false → (Table.get s.link.ports {} port).heldDown = false →
    (s.link.gangs = [g] → g.outgoing = pasid → port ∉ g.quiet →
      ∃ t, exec (.quiesceFlit port pasid) s = .next t ∧ t.link.gangs = [{ g with quiet := g.quiet ++ [port] }] ∧
        t.contexts = s.contexts ∧ t.link.sent = s.link.sent ∧ leavesMachine s t) ∧
    (s.link.gangs = [] → pasid ≠ 0 → (Table.get? s.contexts pasid).isSome = true → (s.ctx pasid).phase = .active → s.viral = false →
      ∃ t h, exec (.quiesceFlit port pasid) s = .next t ∧ t.link.gangs = [h] ∧ h.outgoing = pasid ∧ h.incoming = 0 ∧
        h.begun = true ∧ h.quiet = [port] ∧ h.tag = Table.get s.link.refusedTags 0 pasid ∧ (t.ctx pasid).phase = .stopping ∧
        t.link.sent = s.link.sent ++ s.upPorts.map (fun q => Flit.quiesce q pasid) ∧
        t.host = s.host ∧ (∀ p, p ≠ pasid → t.ctx p = s.ctx p) ∧ leavesMachine s t))

/-- R352-R354: an aligned management read answers with the unit at its address: the scope table, a tide-table entry and
`stagectl` of a stage of the plan, a poll count, the three units of a queue control block, an engine register; a read
of a stage outside the plan answers 1, an address that is no unit's, or misaligned, 2.

R317, R321, R346, R354: a management write of an acceptable value to a tide-table entry or `stagectl` of a stage of the
plan takes effect, as the frame that names stage and entry does; a value with a reserved bit, an idle entry with another
field set, and a starvation bound of 0 are refused; a read-only unit answers 1 and an unassigned address 2; nothing
changes then. -/
def Obligations.ManagementUnits : Prop :=
  (∀ (fr : Frame) (s : State), isServed s fr →
     let a := fr.addr.toNat
     let p := fr.pasid.toNat
     let answers := fun (status : Nat) (bs : List Byte) =>
       ∃ t, exec (.managementRead fr) s = .next t ∧ hasAnswered s t fr status bs ∧ leavesMachine s t ∧ leavesTables s t
     (∀ n, n < 7 → a = 0x10000 + 8 * n → answers 0 (leBytes 8 (Table.get s.scopetab 0 n).toNat)) ∧
     (a = 0x10038 → answers 0 (leBytes 8 (s.ctx p).scope7.toNat)) ∧
     (∀ st e, st < 8 → e < 32 → a = 0x20000 + 0x1000 * st + 8 * e →
       ((s.stage st).valid = true → answers 0 (leBytes 8 (Table.get (s.stage st).tide 0 e).toNat)) ∧
       ((s.stage st).valid = false → answers 1 [])) ∧
     (∀ st, st < 8 → a = 0x20100 + 0x1000 * st → (s.stage st).valid = true →
       answers 0 (leBytes 8 ((s.stage st).starve * 2 ^ 32 + (s.stage st).wdef))) ∧
     (∀ c, c < 24 → a = 0x30000 + 8 * c → answers 0 (leBytes 8 (s.clu c).fpoll.toNat)) ∧
     (∀ i q, i < 4096 → s.queue? i = some q →
       (a = 0x40000 + 64 * i → answers 0 (leBytes 8 (q.pasid + q.q * 2 ^ 20 + 2 ^ 28 +
         (match q.qstate with | .disabled => 0 | .running => 1 | .fenceWait => 2 | .error => 3) * 2 ^ 32 + q.stage * 2 ^ 40 +
         q.ecode * 2 ^ 48 + q.lg * 2 ^ 56))) ∧
       (a = 0x40000 + 64 * i + 8 → answers 0 (leBytes 8 q.ring)) ∧
       (a = 0x40000 + 64 * i + 16 → answers 0 (leBytes 8 (q.rptr + q.wptr * 2 ^ 32)))) ∧
     (∀ i, i < 4096 → Table.get? s.queues i = none → a = 0x40000 + 64 * i → answers 0 (leBytes 8 0)) ∧
     (Table.get? s.contexts p ≠ none → (a = 0x90000 + 8 * 0x100 → answers 0 (leBytes 8 (s.ctx p).starena.toNat)) ∧
       (a = 0x90000 + 8 * 0x101 → answers 0 (leBytes 8 (s.ctx p).sthbm.toNat))) ∧
     (a % 8 ≠ 0 ∨ a = 0 ∨ a = 0x30000 + 8 * 24 ∨ a = 0x90000 + 8 * 0x110 → answers 2 [])) ∧
  (∀ (fr : Frame) (v : Word64) (st e : Nat) (s : State), isServed s fr → st < 8 → e < 32 → (s.stage st).valid = true →
     let a := fr.addr.toNat
     let refused := fun (o : Host.Outcome State Fault Refusal) (status : Nat) =>
       ∃ t, o = .next t ∧ hasAnswered s t fr status [] ∧ leavesMachine s t ∧ leavesTables s t
     let tide := fun (o : Host.Outcome State Fault Refusal) =>
       ∃ t, o = .next t ∧ hasAnswered s t fr 0 [] ∧ leavesMachine s t ∧ t.contexts = s.contexts ∧ t.queues = s.queues ∧
         Table.get (t.stage st).tide 0 e = v ∧ (∀ i, i ≠ e → Table.get (t.stage st).tide 0 i = Table.get (s.stage st).tide 0 i) ∧
         (∀ i, i ≠ st → t.stage i = s.stage i)
     let ctl := fun (o : Host.Outcome State Fault Refusal) =>
       ∃ t, o = .next t ∧ hasAnswered s t fr 0 [] ∧ leavesMachine s t ∧ t.contexts = s.contexts ∧ t.queues = s.queues ∧
         t.stage st = { s.stage st with starve := v.toNat / 2 ^ 32, wdef := v.toNat % 2 ^ 32 } ∧ (∀ i, i ≠ st → t.stage i = s.stage i)
     let idle := v.getLsbD 59
     let kind := v.toNat / 2 ^ 61 % 4
     let sound : Prop := v.toNat % 2 ^ 16 = 0 ∧ (kind ≠ 1 → v.getLsbD 60 = false ∧ v.toNat / 2 ^ 16 % 2 ^ 8 = 0) ∧
       (idle = true → kind = 0 ∧ v.toNat / 2 ^ 56 % 8 = 0 ∧ v.toNat / 2 ^ 24 % 2 ^ 24 = 0)
     (sound → tide (exec (.tideTableWrite fr st e v) s) ∧
       (a = 0x20000 + 0x1000 * st + 8 * e → tide (exec (.managementWrite fr v) s))) ∧
     (¬ sound → refused (exec (.tideTableWrite fr st e v) s) 1) ∧
     (2 ^ 32 ≤ v.toNat → ctl (exec (.stagectlWrite fr st v) s) ∧
       (a = 0x20100 + 0x1000 * st → ctl (exec (.managementWrite fr v) s))) ∧
     (v.toNat < 2 ^ 32 → refused (exec (.stagectlWrite fr st v) s) 1) ∧
     (a = 0x80000 ∨ (∃ n, n < 8 ∧ a = 0x10000 + 8 * n) ∨ (∃ c, c < 24 ∧ a = 0x30000 + 8 * c) ∨
       (∃ k, k < 64 ∧ a = 0x20800 + 0x1000 * st + 8 * k) → refused (exec (.managementWrite fr v) s) 1) ∧
     (a % 8 ≠ 0 ∨ a = 0 → refused (exec (.managementWrite fr v) s) 2))

/-- R350, R352, R353, R383: a frame out of sequence, or malformed, is dropped and answered with status 4 and the number that is
expected; a command in recovery or in the viral state is answered with status 3 and changes nothing; reads of identity,
attestations over 32 bytes and resets are served there too. A reset follows in the next cycle, with the record of the harbour die (the cycle is the
model's choice, assumption log 4). A chip that has stayed at a reset step serves nothing (the model's reading of R362, log 64). The length
of an identity is the model's too (log 66).

R219, R386, R387: a read of the log head gives the event of the oldest readable pair, and the next read its stamp, which
takes the pair out of the log; with nothing readable it gives 0. The head is also the management unit at 0x80000. -/
def Obligations.FramesAndTheLog : Prop :=
  (∀ (fr : Frame) (s : State),
     let bad := Host.Outcome.next (s.modHost fun h => { h with sent := h.sent ++
       [{ type := 4, seq := s.host.seqIn, pasid := fr.pasid.toNat, code := 4, addr := fr.addr, tag := fr.tag }] })
     (s.stuck = true → exec (.malformedFrame fr) s = .next s ∧ exec (.saveContext fr) s = .next s ∧ exec (.readIdentity fr) s = .next s ∧
       exec (.resetChip fr) s = .next s) ∧
     (s.stuck = false → exec (.malformedFrame fr) s = bad) ∧
     (s.stuck = false → fr.seq.toNat ≠ s.host.seqIn → exec (.saveContext fr) s = bad ∧ exec (.readIdentity fr) s = bad ∧ exec (.resetChip fr) s = bad ∧
       exec (.faultLogRead fr) s = bad ∧ (∀ v, exec (.managementWrite fr v) s = bad) ∧ ∀ d, exec (.bulkUpload fr d) s = bad) ∧
     (s.stuck = false → fr.seq.toNat = s.host.seqIn →
       (s.recovery = true ∨ s.viral = true → ∃ t, exec (.saveContext fr) s = .next t ∧ hasAnswered s t fr 3 [] ∧
         leavesMachine s t ∧ leavesTables s t) ∧
       (∃ t bs, exec (.readIdentity fr) s = .next t ∧ bs.length = 32 ∧ hasAnswered s t fr 0 bs ∧ leavesMachine s t ∧ leavesTables s t) ∧
       (∀ nonce, nonce.length = 32 → ∃ t bs, exec (.attest fr nonce) s = .next t ∧ hasAnswered s t fr 0 bs ∧
         leavesMachine s t ∧ leavesTables s t) ∧
       (∀ nonce, nonce.length ≠ 32 → ∃ t, exec (.attest fr nonce) s = .next t ∧ hasAnswered s t fr 1 [] ∧
         leavesMachine s t ∧ leavesTables s t) ∧
       (∃ t, exec (.resetChip fr) s = .next t ∧ hasAnswered s t fr 0 [] ∧
         t.inputs = (s.cycle + 1, .powerOnReset s.record none) :: s.inputs ∧ leavesMachine s t ∧ leavesTables s t))) ∧
  (∀ (fr : Frame) (l : LogPair) (rest : List LogPair) (s : State), fr.seq.toNat = s.host.seqIn → s.stuck = false →
     let reads := fun (o : Host.Outcome State Fault Refusal) (v : Nat) (log : List LogPair) =>
       ∃ t, o = .next t ∧ hasAnswered s t fr 0 (leBytes 8 v) ∧ t.host.log = log ∧ t.host.dropped = s.host.dropped ∧
         leavesMachine s t ∧ t.contexts = s.contexts ∧ t.queues = s.queues ∧ t.stages = s.stages
     (s.host.log = [] → reads (exec (.faultLogRead fr) s) 0 [] ∧
       (fr.addr = 0x80000 → reads (exec (.managementRead fr) s) 0 [])) ∧
     (s.host.log = l :: rest → l.half = true → reads (exec (.faultLogRead fr) s) l.stamp.toNat rest) ∧
     (s.host.log = l :: rest → (∀ x ∈ rest, x.half = false) → l.half = false → (∃ c, l.readableAt = some c ∧ c ≤ s.cycle) →
       reads (exec (.faultLogRead fr) s) l.event.toNat ({ l with half := true } :: rest)) ∧
     (s.host.log = [l] → l.half = false → (∀ c, l.readableAt = some c → s.cycle < c) → reads (exec (.faultLogRead fr) s) 0 [l]))

/-- R335, R348: a context is created from a descriptor of 64 bytes that no rule refuses; with an identity of 0, or one that
exists, it is refused. A context without tasks is destroyed when asked: its queues become tombstones, and once nothing of
it is left it is gone, its ranges are cleared (the model's choice, assumption log 123), and an event frame carries the tag, with the
command's code (log 59).

R214, R237, R338, R353: an invalidation is answered and waits as a marker; one
that is misaligned, or of no page or more than 512, is refused. At the end of a cycle in which no copy that was queued before it is on its
way, it takes the entries of the named pages out of the translation caches of its context and
leaves those of every other, and posts an event frame with its tag; not before. -/
def Obligations.ContextsAndTranslations : Prop :=
  ((∀ (fr : Frame) (b : List Byte) (s : State), isServed s fr → b.length = 64 →
     let n := fun (o k : Nat) => leNat ((b.drop o).take k)
     let p := n 0 4
     (p = 0 ∨ (Table.get? s.contexts p).isSome = true ∨ n 56 8 ≠ 0 → ∃ t, exec (.createContext fr b) s = .next t ∧
       hasAnswered s t fr 1 [] ∧ leavesMachine s t ∧ leavesTables s t) ∧
     (s.contexts = [] → 0 < p → p < 2 ^ 20 → n 6 2 = 0 → n 36 4 = 0 → n 56 8 = 0 → n 8 8 % 2 ^ 21 = 0 →
       n 8 8 + 2 ^ 21 ≤ hbmEnd → n 16 8 % 2 ^ 30 = 0 → n 16 8 < hbmEnd → n 40 8 % 128 = 0 → n 24 2 + n 26 2 ≤ 512 →
       n 28 4 + n 32 4 ≤ 65536 → n 40 8 + n 48 8 ≤ Config.xsBytes →
       ∃ t, exec (.createContext fr b) s = .next t ∧ hasAnswered s t fr 0 [] ∧
         (t.ctx p).ptroot = n 8 8 ∧ (t.ctx p).save = n 16 8 ∧ (t.ctx p).phbase = n 24 2 ∧ (t.ctx p).phcount = n 26 2 ∧
         (t.ctx p).dcbase = n 28 4 ∧ (t.ctx p).dccount = n 32 4 ∧ (t.ctx p).xsbase = n 40 8 ∧ (t.ctx p).xssize = n 48 8 ∧
         (t.ctx p).phase = .active ∧ (t.ctx p).stash = [] ∧ (t.ctx p).windows = [] ∧ (t.ctx p).inch = [] ∧ (t.ctx p).outch = [] ∧
         (∀ q, q ≠ p → Table.get? t.contexts q = none) ∧ t.cores = s.cores ∧ t.clusters = s.clusters ∧ t.pmem = s.pmem)) ∧
   (∀ (fr : Frame) (s : State), isServed s fr →
     let p := fr.pasid.toNat
     (Table.get? s.contexts p = none → ∃ t, exec (.destroyContext fr) s = .next t ∧ hasAnswered s t fr 1 [] ∧
       leavesMachine s t ∧ leavesTables s t) ∧
     (Table.get? s.contexts p ≠ none → (s.ctx p).phase = .active ∨ (s.ctx p).phase = .saved → s.inGang p = false → s.ctxTasks p = [] →
       ∃ t, exec (.destroyContext fr) s = .next t ∧ hasAnswered s t fr 0 [] ∧ (t.ctx p).phase = .destroying ∧
         (t.ctx p).tag = fr.tag ∧ (t.ctx p).area = none ∧ (∀ q, q ≠ p → t.ctx q = s.ctx q) ∧
         (∀ i q, s.queue? i = some q → (q.pasid = p → Table.get? t.queues i = some .tombstone) ∧
           (q.pasid ≠ p → t.queue? i = some q)) ∧ leavesMachine s t)) ∧
   (∀ (p : Nat) (s : State),
     ((s.ctx p).phase ≠ .destroying → exec (.contextFreed p) s = .next s) ∧
     ((s.ctx p).phase = .destroying → s.viral = false → (∀ e ∈ s.clusters, ∀ h ∈ e.2.held, h.pasid ≠ p) →
       (∀ e ∈ s.tasks, e.2.pasid = p → e.2.inFlight = false ∧ s.coresOf e.1 = []) →
       ∃ t, exec (.contextFreed p) s = .next t ∧ Table.get? t.contexts p = none ∧ (∀ q, q ≠ p → t.ctx q = s.ctx q) ∧
         endsCommand s t p ∧ t.tasks = s.tasks ∧ t.pmem = s.pmem ∧
         (∀ a, (s.ctx p).xsbase ≤ a → a < (s.ctx p).xsbase + (s.ctx p).xssize → t.xs.read a = 0) ∧
         (∀ a, a < (s.ctx p).xsbase ∨ (s.ctx p).xsbase + (s.ctx p).xssize ≤ a → t.xs.read a = s.xs.read a) ∧
         (∀ c, c / 8 ∉ s.ctxClusters p → t.core c = s.core c) ∧ (∀ c ∈ s.ctxClusters p, (t.clu c).pool = [] ∧ (t.clu c).phasers = [])))) ∧
  ((∀ (fr : Frame) (va n : Word64) (size : TinvSize) (s : State), isServed s fr →
     let p := fr.pasid.toNat
     let unit := match size with | .k4 => 2 ^ 12 | .m2 => 2 ^ 21 | .g1 => 2 ^ 30 | .all => 2 ^ 57
     (size ≠ .all → va.toNat % unit ≠ 0 ∨ n = 0 ∨ 512 < n.toNat → ∃ t, exec (.invalidateTranslations fr va n size) s = .next t ∧
       hasAnswered s t fr 1 [] ∧ leavesMachine s t ∧ leavesTables s t) ∧
     (Table.get? s.contexts p ≠ none → size = .all ∨ (va.toNat % unit = 0 ∧ n ≠ 0 ∧ n.toNat ≤ 512) →
       ∃ t, exec (.invalidateTranslations fr va n size) s = .next t ∧ hasAnswered s t fr 0 [] ∧ leavesMachine s t ∧
         (∀ q, q ≠ p → t.ctx q = s.ctx q) ∧
         t.ctx p = { s.ctx p with markers := (s.ctx p).markers ++
           [{ id := s.nextId, va := va.toNat, count := n.toNat, size := size, tag := fr.tag }] })) ∧
   (∀ (p : Nat) (m : Marker) (s : State), (s.contexts.map (·.1)).Nodup → (Table.get? s.contexts p).isSome = true → (s.ctx p).markers = [m] →
     (∀ e ∈ s.contexts, e.1 ≠ p → e.2.markers = []) →
     let unit := match m.size with | .k4 => 2 ^ 12 | .m2 => 2 ^ 21 | .g1 => 2 ^ 30 | .all => 2 ^ 57
     ((∃ e ∈ s.cores, ∃ x ∈ e.2.eng.copyQ, x.id < m.id ∧ x.complete = false) → s.passMarkers = s) ∧
     ((∀ e ∈ s.cores, ∀ x ∈ e.2.eng.copyQ, m.id ≤ x.id ∨ x.complete = true) →
       let t := s.passMarkers
       leavesMachine s t ∧ (∀ q, q ≠ p → t.ctx q = s.ctx q) ∧
       (∀ e, e ∈ (t.ctx p).tlb ↔ e ∈ (s.ctx p).tlb ∧ m.size ≠ .all ∧ (e.1 * 4096 < m.va ∨ m.va + m.count * unit ≤ e.1 * 4096)) ∧
       { t.ctx p with tlb := (s.ctx p).tlb, markers := [m] } = s.ctx p ∧ (t.ctx p).markers = [] ∧
       (s.viral = false → ∃ f, t.host.sent = s.host.sent ++ [f] ∧ f.type = 5 ∧ f.code = 6 ∧ f.tag = m.tag ∧ f.pasid = p))))

/-- R339, R340, R347: a queue is created in the first of its eight probed slots that is empty or a tombstone, Running, with both pointers 0; a
queue that exists in one of them, eight slots taken by others, a ring of another size than 16 to 65,536 slots and one that is not
page-aligned are refused. A queue is found by the same probes, which end at an empty slot. An idle
queue is destroyed into a tombstone. Disabled stops a queue; in Error or Disabled `rptr` may be written, and Running is
accepted while `wptr` is no more than a ring ahead, and a fence on which the queue acted is waited for again; a restart does
both.

R341: a store of the host or of the queue's own context to the doorbell sets `wptr`; one of another context writes
nothing. -/
def Obligations.QueuesAreControlled : Prop :=
  (∀ (fr : Frame) (s : State), isServed s fr →
     let p := fr.pasid.toNat
     let q := fr.addr.toNat
     let probe := fun (j : Nat) => ((p * 40503 + q * 1021) % 4096 + j) % 4096
     let mine := fun (e : QueueSlot) => ∃ x : Queue, e = .live x ∧ x.pasid = p ∧ x.q = q
     let passes := fun (j : Nat) => ∃ e, Table.get? s.queues (probe j) = some e ∧ ¬ mine e
     let reached := fun (i : Nat) => ∃ j, j < 8 ∧ i = probe j ∧ ∀ n, n < j → passes n
     let absent : Prop := (∀ j, j < 8 → passes j) ∨ ∃ j, j < 8 ∧ Table.get? s.queues (probe j) = none ∧ ∀ n, n < j → passes n
     let refused := fun (o : Host.Outcome State Fault Refusal) (status : Nat) =>
       ∃ t, o = .next t ∧ hasAnswered s t fr status [] ∧ leavesMachine s t ∧ leavesTables s t
     let becomes := fun (o : Host.Outcome State Fault Refusal) (i : Nat) (x : QueueSlot) =>
       ∃ t, o = .next t ∧ hasAnswered s t fr 0 [] ∧ leavesMachine s t ∧ t.contexts = s.contexts ∧ t.stages = s.stages ∧
         Table.get? t.queues i = some x ∧ ∀ j, j ≠ i → Table.get? t.queues j = Table.get? s.queues j
     (∀ b : List Byte, b.length = 24 →
       let n := fun (o k : Nat) => leNat ((b.drop o).take k)
       (256 ≤ q → refused (exec (.createQueue fr b) s) 4) ∧
       (q < 256 → n 2 1 < 4 ∨ 16 < n 2 1 ∨ n 3 8 % 4096 ≠ 0 → refused (exec (.createQueue fr b) s) 1) ∧
       (q < 256 → (∃ j e, j < 8 ∧ Table.get? s.queues (probe j) = some e ∧ mine e) ∨
         (∀ j, j < 8 → ∃ x : Queue, Table.get? s.queues (probe j) = some (.live x)) → refused (exec (.createQueue fr b) s) 1) ∧
       (∀ j, q < 256 → j < 8 → (∀ n, n < j → ∃ x : Queue, Table.get? s.queues (probe n) = some (.live x)) →
         Table.get? s.queues (probe j) = none ∨ Table.get? s.queues (probe j) = some .tombstone →
         (∀ n e, n < 8 → Table.get? s.queues (probe n) = some e → ¬ mine e) → (Table.get? s.contexts p).isSome = true →
         (s.ctx p).phase ≠ .destroying → n 0 1 < 8 → 4 ≤ n 2 1 → n 2 1 ≤ 16 → n 3 8 % 4096 = 0 → n 3 8 < 2 ^ 57 → n 19 5 = 0 →
         becomes (exec (.createQueue fr b) s) (probe j)
           (.live { pasid := p, q := q, stage := n 0 1, lg := n 2 1, ring := n 3 8, qstate := .running, rptr := 0, wptr := 0, ecode := 0 }))) ∧
     (∀ i x, s.queue? i = some x →
       becomes (exec (.qstateDisable fr i) s) i (.live { x with qstate := .disabled, copies := [] }) ∧
       (x.qstate = .error ∨ x.qstate = .disabled →
         (∀ v, becomes (exec (.rptrWrite fr i v) s) i (.live { x with rptr := v.toNat, copies := [], acting := none })) ∧
         ((x.wptr + 2 ^ 32 - x.rptr) % 2 ^ 32 ≤ 2 ^ x.lg →
           (∀ a b, x.acting = some (a, b) → leNat (b.take 1) = 3 →
             becomes (exec (.qstateRun fr i) s) i (.live { x with copies := [], rereadAt := none, qstate := .fenceWait })) ∧
           ((∀ a b, x.acting = some (a, b) → leNat (b.take 1) ≠ 3) →
             becomes (exec (.qstateRun fr i) s) i (.live { x with copies := [], rereadAt := none, qstate := .running }))) ∧
         (2 ^ x.lg < (x.wptr + 2 ^ 32 - x.rptr) % 2 ^ 32 → refused (exec (.qstateRun fr i) s) 1) ∧
         (q < 256 → reached i → x.pasid = p → x.q = q → ∀ v : Word32, (x.wptr + 2 ^ 32 - v.toNat) % 2 ^ 32 ≤ 2 ^ x.lg →
           becomes (exec (.restartQueue fr v) s) i
             (.live { x with rptr := v.toNat, copies := [], acting := none, qstate := .running, rereadAt := none }))) ∧
       (x.qstate = .running ∨ x.qstate = .fenceWait → (∀ v, refused (exec (.rptrWrite fr i v) s) 1) ∧ refused (exec (.qstateRun fr i) s) 1) ∧
       (q < 256 → reached i → x.pasid = p → x.q = q → x.rptr = x.wptr → (∀ τ ∈ x.tasks, ∀ k, s.taskAny τ = some k → k.inFlight = false) →
         becomes (exec (.destroyQueue fr) s) i .tombstone) ∧
       (q < 256 → reached i → x.pasid = p → x.q = q → x.rptr ≠ x.wptr → refused (exec (.destroyQueue fr) s) 1)) ∧
     (q < 256 → absent → refused (exec (.destroyQueue fr) s) 1 ∧ ∀ v, refused (exec (.restartQueue fr v) s) 1)) ∧
  (∀ (i : Nat) (x : Queue) (by' : Option Nat) (v : Word64) (s : State), s.queue? i = some x → s.recovery = false → s.stuck = false →
     (by' = none ∨ by' = some x.pasid → ∃ t, exec (.doorbellWrite by' i v) s = .next t ∧
       queueBecomes s t i { x with wptr := v.toNat % 2 ^ 32, rereadAt := none } ∧ leavesMachine s t ∧ t.contexts = s.contexts ∧
       t.host = s.host) ∧
     (∀ p, by' = some p → p ≠ x.pasid → exec (.doorbellWrite by' i v) s = .next s))

/-- R14, R15, R407 (with the model's choices of assumption log 60 and 61 for what joins a stage): a published plan of one stage replaces the plan; its stage holds the clusters, the team size, the context,
the control values and the tide table of its record, and no other stage is in it; what joins a stage is cleared. A re-plan of a stage changes its clusters
and asks for an evaluation in the next cycle; one that names no cluster changes nothing.

R349, R351, R355: an upload writes its payload at its offset into the slot that does not run, and refuses one that ends beyond
16 MiB. An image that fails its signature, its header or the least security version fails the update; one that passes is
Ready when it reads the layout of every save area, and waits for its layout otherwise. The driver may discard it. A ready
update is activated when no context is active: its slot becomes preferred. That the queue table is kept at an activation is the model's reading
(assumption log 68). -/
def Obligations.PlansAndFirmware : Prop :=
  ((∀ (fr : Frame) (b : List Byte) (s : State), isServed s fr → b.length = 328 →
     let n := fun (o k : Nat) => leNat ((b.drop o).take k)
     let st := n 12 1
     let tide := fun (e : Nat) => n (72 + 8 * e) 8
     n 0 1 = 1 → n 1 7 = 0 → 0 < n 8 4 → n 8 4 < 2 ^ 24 → st < 8 → 1 ≤ n 13 1 → n 13 1 ≤ 8 → (Table.get? s.contexts (n 16 4)).isSome = true →
     2 ^ 32 ≤ n 24 8 → n 14 2 = 0 → n 20 4 = 0 → n 32 8 = 0 → n 40 8 = 0 → n 48 8 = 0 → n 56 8 = 0 → n 64 8 = 0 →
     (∀ e, e < 32 → tide e % 2 ^ 24 = 0 ∧ (tide e).testBit 59 = false ∧ (tide e).testBit 60 = false) → s.stages = [] → (∀ e ∈ s.contexts, e.2.area = none) →
     ∃ t, exec (.publishStagePlan fr b) s = .next t ∧ hasAnswered s t fr 0 [] ∧ (t.stage st).valid = true ∧
       (∀ c, c ∈ (t.stage st).clusters ↔ c < 24 ∧ (n 8 4).testBit c = true) ∧ (t.stage st).team = n 13 1 ∧
       (t.stage st).pasid = n 16 4 ∧ (t.stage st).starve = n 24 8 / 2 ^ 32 ∧ (t.stage st).wdef = n 24 8 % 2 ^ 32 ∧
       (∀ e, e < 32 → Table.get (t.stage st).tide 0 e = BitVec.ofNat 64 (tide e)) ∧ (t.stage st).prog = none ∧
       (∀ i, i ≠ st → (t.stage i).valid = false) ∧ t.tasks = s.tasks ∧
       (∀ q, { t.ctx q with scope7 := (s.ctx q).scope7, spawned := (s.ctx q).spawned } = s.ctx q) ∧
       (∀ c, c < 24 → (n 8 4).testBit c = true → (t.clu c).pool = [] ∧ ∀ i, i < 8 → (t.core (8 * c + i)).sp = [] ∧ (t.core (8 * c + i)).ls = []) ∧ t.pmem = s.pmem ∧ t.xs = s.xs) ∧
   (∀ (st m : Nat) (s : State), (s.stage st).valid = true →
     (m = 0 ∨ 2 ^ 24 ≤ m → exec (.replanPublication st m) s = .next s) ∧
     (0 < m → m < 2 ^ 24 → s.stages.map (·.1) = [st] → (s.stage st).prog = none → (∀ e ∈ s.tasks, e.2.state ≠ .swapped) →
       (∀ c ∈ (s.stage st).clusters, m.testBit c = false → ∀ i, i < 8 → (s.core (8 * c + i)).task = none) →
       let joins := fun (c : Nat) => c < 24 ∧ m.testBit c = true ∧ c ∉ (s.stage st).clusters
       ∃ t, exec (.replanPublication st m) s = .next t ∧ (∀ c, c ∈ (t.stage st).clusters ↔ c < 24 ∧ m.testBit c = true) ∧
         (t.stage st).team = (s.stage st).team ∧ (t.stage st).pasid = (s.stage st).pasid ∧ s.cycle + 1 ∈ (t.stage st).evalAt ∧
         (∀ c, c < 24 → m.testBit c = true → (t.clu c).inService = ((s.clu c).inService || (s.clu c).passed)) ∧
         (∀ c, joins c → (t.clu c).pool = [] ∧ (t.clu c).phasers = [] ∧
           ∀ i, i < 8 → (t.core (8 * c + i)).sp = [] ∧ (t.core (8 * c + i)).ls = [] ∧ (t.core (8 * c + i)).task = none) ∧
         (∀ c, ¬ joins c → (t.clu c).pool = (s.clu c).pool ∧ ∀ i, i < 8 → t.core (8 * c + i) = s.core (8 * c + i)) ∧
         t.tasks = s.tasks ∧ t.pmem = s.pmem ∧ t.xs = s.xs))) ∧
  ((∀ (fr : Frame) (d : List Byte) (s : State), fr.seq.toNat = s.host.seqIn → s.recovery = false → s.stuck = false →
     let a := fr.addr.toNat
     let spare := fun (h : HostSide) => if s.host.runningB then h.imageA else h.imageB
     let running := fun (h : HostSide) => if s.host.runningB then h.imageB else h.imageA
     (d.length % 8 ≠ 0 ∨ 4096 < d.length → exec (.bulkUpload fr d) s = exec (.malformedFrame fr) s) ∧
     (d.length % 8 = 0 → d.length ≤ 4096 → 2 ^ 24 < a + d.length → ∃ t, exec (.bulkUpload fr d) s = .next t ∧ hasAnswered s t fr 1 [] ∧ leavesMachine s t ∧
       spare t.host = spare s.host ∧ running t.host = running s.host) ∧
     (d.length % 8 = 0 → d.length ≤ 4096 → a + d.length ≤ 2 ^ 24 → ∃ t, exec (.bulkUpload fr d) s = .next t ∧ hasAnswered s t fr 0 [] ∧ leavesMachine s t ∧
       running t.host = running s.host ∧ (spare t.host).verified = false ∧ (spare t.host).unchecked = true ∧ t.host.update = .none ∧
       (∀ i, (h : i < d.length) → (spare t.host).bytes.read (a + i) = d[i]) ∧
       (∀ x, x < a ∨ a + d.length ≤ x → (spare t.host).bytes.read x = (spare s.host).bytes.read x) ∧ t.contexts = s.contexts)) ∧
   (∀ (s : State), (s.recovery = true ∨ s.stuck = true → ∀ b v, exec (.firmwareStaged b v) s = .next s)) ∧
   (∀ (s : State), s.recovery = false → s.stuck = false → s.host.runningB = false →
     let i := s.host.imageB
     let b := fun (o n : Nat) => i.bytes.readLE o n
     let fits : Prop := 64 + b 32 8 + 7856 ≤ 2 ^ 24
     let good : Prop := Config.signed i.bytes = true ∧ fits ∧ b 0 4 = 0x464E5856 ∧ b 14 1 = 1 ∧ b 15 1 = 0 ∧ b 16 2 = b 12 2 ∧ b 18 14 = 0 ∧ b 40 24 = 0
     (Config.signed i.bytes = false ∨ ¬ fits ∨ b 0 4 ≠ 0x464E5856 ∨ b 15 1 ≠ 0 ∨ b 4 4 < s.host.minSecver →
       ∃ t, exec (.firmwareStaged true (Config.signed i.bytes)) s = .next t ∧ t.host.update = .failed ∧ leavesMachine s t ∧ t.contexts = s.contexts) ∧
     (good → s.host.minSecver ≤ b 4 4 →
       ∃ t, exec (.firmwareStaged true true) s = .next t ∧ t.host.imageB.verified = true ∧ t.host.imageB.secver = b 4 4 ∧
         t.host.imageB.writes = b 12 2 ∧ t.host.imageB.reads = [b 16 2] ∧ t.host.imageB.bytes = i.bytes ∧
         t.host.imageA = s.host.imageA ∧ leavesMachine s t ∧ t.contexts = s.contexts ∧
         ((∀ e ∈ s.contexts, ∀ a, e.2.area = some a → a.layout = b 16 2) → t.host.update = .ready) ∧
         ((∃ e ∈ s.contexts, ∃ a, e.2.area = some a ∧ a.layout ≠ b 16 2) → t.host.update = .layoutPending)) ∧
     (∀ v, exec (.firmwareStaged false v) s = .next s) ∧
     exec (.firmwareStaged true (!Config.signed i.bytes)) s = .next s) ∧
   (∀ (fr : Frame) (s : State), isServed s fr → s.host.runningB = false →
     (s.host.update = .none ∨ s.host.update = .staged → ∃ t, exec (.firmwareImageDiscard fr) s = .next t ∧ hasAnswered s t fr 1 [] ∧
       leavesMachine s t ∧ leavesTables s t ∧ t.host.imageB = s.host.imageB) ∧
     (s.host.update = .ready ∨ s.host.update = .layoutPending ∨ s.host.update = .failed →
       ∃ t, exec (.firmwareImageDiscard fr) s = .next t ∧ hasAnswered s t fr 0 [] ∧ leavesMachine s t ∧ t.host.update = .none ∧
         t.host.imageB = {} ∧ t.host.imageA = s.host.imageA) ∧
     (s.host.update ≠ .ready ∨ (∃ e ∈ s.contexts, e.2.phase ≠ .saved) → ∃ t, exec (.activateFirmware fr true) s = .next t ∧
       hasAnswered s t fr 1 [] ∧ leavesMachine s t ∧ leavesTables s t) ∧
     (s.host.update = .ready → (∀ e ∈ s.contexts, e.2.phase = .saved) → s.host.imageB.verified = true → s.host.imageB.unchecked = false →
       s.record.minSecver ≤ s.host.imageB.secver →
       ∃ t, exec (.activateFirmware fr true) s = .next t ∧ t.host.preferredB = true ∧ t.host.runningB = true ∧ t.recovery = false ∧
         t.resetStep = 6 ∧ t.stages = [] ∧ t.tasks = [] ∧ t.saved = s.saved ∧ t.queues = s.queues ∧
         (∀ c, (t.core c).task = none ∧ ((t.core c).retired = true ↔ c < 192 ∧ c ∈ s.record.disabled)) ∧
         (∀ p, { t.ctx p with scope7 := (s.ctx p).scope7 } = s.ctx p) ∧ t.pmem = s.pmem)))

/-- R341-R343, R347: the header at `rptr` is read while the queue runs; with the expected phase and zero where zero is required
the packet is copied; with the other phase it is read again 1 µs later; a ring overrun (whatever packet the processor acts on), an unreadable ring, a reserved
type and a nonzero bit put the queue into Error.

R17, R18, R254, R342, R347: a TASK packet of the stage's context creates a Ready task with its timestamp, tag and kind, origin
448 and the next number, and the budget given or the kind's default, and is consumed; it waits for a place; a kind above
3, a foreign stage, a stage without a program, a budget of 0 and a late key put the queue into Error. -/
def Obligations.PacketsAndTasks : Prop :=
  ((∀ (i : Nat) (x : Queue) (s : State), s.queue? i = some x → x.qstate = .running ∨ x.qstate = .fenceWait →
     2 ^ x.lg < (x.wptr + 2 ^ 32 - x.rptr) % 2 ^ 32 → ∃ t, exec (.packetHeaderReread i) s = .next t ∧ hasFailed s t i x 0x08) ∧
   ∀ (i : Nat) (x : Queue) (s : State), s.queue? i = some x → x.qstate = .running → x.rptr ≠ x.wptr →
     x.acting = none → Table.get? x.copies x.rptr = none → x.rereadAt = none →
     let n := (x.wptr + 2 ^ 32 - x.rptr) % 2 ^ 32
     let o := exec (.packetHeaderReread i) s
     let phase : Bool := x.rptr / 2 ^ x.lg % 2 == 0
     (n ≤ 2 ^ x.lg → s.virtRead x.pasid (x.ring + 64 * (x.rptr % 2 ^ x.lg)) 64 = none → ∃ t, o = .next t ∧ hasFailed s t i x 0x05) ∧
     (n ≤ 2 ^ x.lg → ∀ bs, s.virtRead x.pasid (x.ring + 64 * (x.rptr % 2 ^ x.lg)) 64 = some bs →
       let h := leNat (bs.take 8)
       (h.testBit 8 ≠ phase → ∃ t, o = .next t ∧ queueBecomes s t i { x with rereadAt := some (s.cycle + 2700) } ∧
         leavesMachine s t ∧ t.host = s.host) ∧
       (h.testBit 8 = phase → h % 256 = 0 ∨ 5 < h % 256 → ∃ t, o = .next t ∧ hasFailed s t i x 0x01) ∧
       (h.testBit 8 = phase → 0 < h % 256 → h % 256 ≤ 5 → h / 2 ^ 9 ≠ 0 → ∃ t, o = .next t ∧ hasFailed s t i x 0x02) ∧
       (h.testBit 8 = phase → 0 < h % 256 → h % 256 ≤ 5 → h / 2 ^ 9 = 0 →
         ∃ t y, o = .next t ∧ queueBecomes s t i y ∧ Table.get? y.copies x.rptr = some bs ∧ y.rptr = x.rptr ∧ y.wptr = x.wptr ∧
           y.qstate = .running ∧ leavesMachine s t ∧ t.host = s.host ∧ t.contexts = s.contexts))) ∧
  (∀ (i : Nat) (x : Queue) (bs : List Byte) (p : Program) (s : State), s.queue? i = some x → x.qstate = .running → x.acting = none → bs.length = 64 →
     Table.get? x.copies x.rptr = some bs →
     let n := fun (o k : Nat) => leNat ((bs.drop o).take k)
     let g := s.stage x.stage
     let kind := TaskKind.ofCode (n 20 1)
     let budget := if n 21 1 = 1 then Table.get p.budgets 0 kind.code else n 24 8
     let key : Key := { ts := n 8 8, origin := 448, seq := Table.get g.seqs 0 448 }
     let o := exec (.taskPacket i) s
     n 0 1 = 1 → n 0 8 / 2 ^ 9 = 0 →
     (3 < n 20 1 ∨ 1 < n 21 1 ∨ n 22 2 ≠ 0 ∨ n 32 32 ≠ 0 → ∃ t, o = .next t ∧ hasFailed s t i x 0x02) ∧
     (n 20 1 ≤ 3 → n 21 1 ≤ 1 → n 22 2 = 0 → n 32 32 = 0 →
       (g.valid = false ∨ g.pasid ≠ x.pasid → ∃ t, o = .next t ∧ hasFailed s t i x 0x07) ∧
       (g.valid = true → g.pasid = x.pasid → g.prog = none → ∃ t, o = .next t ∧ hasFailed s t i x 0x09) ∧
       (g.valid = true → g.pasid = x.pasid → g.prog = some p →
         (2 ^ 48 ≤ n 24 8 ∨ budget = 0 → ∃ t, o = .next t ∧ hasFailed s t i x 0x03) ∧
         (n 24 8 < 2 ^ 48 → budget ≠ 0 →
           (Key.lt key g.commitPoint = true → ∃ t r, o = .next t ∧ queueBecomes s t i { x with qstate := .error, ecode := 4, acting := none, copies := [] } ∧
             t.host.handlerRecords = s.host.handlerRecords ++ [r] ∧ r.key = key ∧ t.tasks = s.tasks) ∧
           (Key.lt key g.commitPoint = false → 256 ≤ (s.inFlight x.stage).length → o = .next s) ∧
           (Key.lt key g.commitPoint = false → (s.inFlight x.stage).length < 256 → (s.ctx x.pasid).phase = .active →
             ∃ t k, o = .next t ∧ t.task? s.nextId = some k ∧ k.key = key ∧ k.kind = kind ∧ k.tag = n 16 4 ∧ k.budget = budget ∧
               k.full = budget ∧ k.stage = x.stage ∧ k.pasid = x.pasid ∧ k.state = .ready ∧ k.parent = none ∧
               (∀ q, q ≠ s.nextId → t.task? q = s.task? q) ∧ queueBecomes s t i (behind { x with tasks := x.tasks ++ [s.nextId] }) ∧
               t.cores = s.cores ∧ t.clusters = s.clusters ∧ t.pmem = s.pmem)))))

/-- R205, R217, R342: a SIGNAL packet with an aligned address waits, and a misaligned one puts the queue into Error; once the tasks
of the earlier packets have committed and their writes are released, its 8 bytes are stored, and it is consumed; a page
that cannot be written, one at home elsewhere and the doorbell page of another PASID put the queue into Error.

R343: a FENCE sets the queue to Fence wait; once the tasks of the earlier packets have committed or aborted and their writes are
released, every later copy is discarded, the fence is consumed and the queue runs; one that has been disabled meanwhile finishes
its fence and stays disabled (R347). A NOP is consumed, and one with a nonzero byte beyond its header puts the queue into
Error.

R342, R344, R346, R347: a LAUNCH packet with an aligned address of a stage of the context waits; once the stage has no task in
flight, an object that the loader accepts is installed: its program is the stage's, the cores of the stage hold no overlay
and no pin, its channels are declared and not valid, a pool section stands in the pool of every cluster of the stage, and
the packet is consumed. A refused object puts the queue into Error. -/
def Obligations.PacketsActInOrder : Prop :=
  (∀ (i : Nat) (x : Queue) (bs : List Byte) (s : State), s.queue? i = some x → bs.length = 64 →
     let n := fun (o k : Nat) => leNat ((bs.drop o).take k)
     let atHead : Prop := x.qstate = .running ∧ x.acting = none ∧ Table.get? x.copies x.rptr = some bs
     n 0 1 = 2 → n 0 8 / 2 ^ 9 = 0 →
     (atHead → n 8 8 % 8 ≠ 0 ∨ n 24 40 ≠ 0 → ∃ t, exec (.signalPacket i) s = .next t ∧ hasFailed s t i x 0x02) ∧
     (atHead → n 8 8 % 8 = 0 → n 24 40 = 0 → ∃ t, exec (.signalPacket i) s = .next t ∧
       queueBecomes s t i { x with acting := some (x.rptr, bs) } ∧ leavesMachine s t ∧ t.host = s.host) ∧
     (x.acting = some (x.rptr, bs) →
       ((∃ τ ∈ x.tasks, ∃ k, s.taskAny τ = some k ∧ k.state ≠ .committed) → exec (.signalStore i) s = .next s) ∧
       ((∀ τ ∈ x.tasks, ∀ k, s.taskAny τ = some k → k.state = .committed ∧ k.wlog = [] ∧ s.coresOf τ = [] ∧
           ∀ e ∈ s.clusters, ∀ h ∈ e.2.held, h.stage = k.stage → h.key ≠ k.key) →
         (translate s x.pasid (n 8 8) = none → ∃ t, exec (.signalStore i) s = .next t ∧ hasFailed s t i x 0x05) ∧
         (∀ g, translate s x.pasid (n 8 8) = some g →
           (g.w = false ∨ g.home ≠ s.chipNo → ∃ t, exec (.signalStore i) s = .next t ∧ hasFailed s t i x 0x05) ∧
           (∀ j y, g.pa = doorBase + 4096 * j → s.queue? j = some y → y.pasid ≠ x.pasid →
             ∃ t, exec (.signalStore i) s = .next t ∧ hasFailed s t i x 0x05) ∧
           (g.w = true → g.kind ≠ 2 → g.home = s.chipNo → g.pa + 8 ≤ doorBase → ∃ t, exec (.signalStore i) s = .next t ∧
             t.pmem.readLE g.pa 8 = n 16 8 ∧ (∀ a, a < g.pa ∨ g.pa + 8 ≤ a → t.pmem.read a = s.pmem.read a) ∧
             queueBecomes s t i (behind x) ∧ t.cores = s.cores ∧ t.clusters = s.clusters ∧ t.tasks = s.tasks ∧ t.xs = s.xs))))) ∧
  (∀ (i : Nat) (x : Queue) (bs : List Byte) (s : State), s.queue? i = some x →
     let n := fun (o k : Nat) => leNat ((bs.drop o).take k)
     (Table.get? x.copies x.rptr = some bs → bs.length = 64 → x.qstate = .running → x.acting = none → n 0 8 / 2 ^ 9 = 0 →
       (n 0 1 = 3 → n 8 56 = 0 → ∃ t, exec (.fencePacket i) s = .next t ∧ queueBecomes s t i { x with qstate := .fenceWait, acting := some (x.rptr, bs) } ∧
         leavesMachine s t ∧ t.host = s.host) ∧
       (n 0 1 = 3 → n 8 56 ≠ 0 → ∃ t, exec (.fencePacket i) s = .next t ∧ hasFailed s t i x 0x02) ∧
       (n 0 1 = 5 → n 8 56 ≠ 0 → ∃ t, exec (.nopPacket i) s = .next t ∧ hasFailed s t i x 0x02) ∧
       (n 0 1 = 5 → n 8 56 = 0 → ∃ t, exec (.nopPacket i) s = .next t ∧ queueBecomes s t i (behind x) ∧ leavesMachine s t ∧ t.host = s.host)) ∧
     (x.acting = some (x.rptr, bs) → n 0 1 = 3 →
       ((∃ τ ∈ x.tasks, ∃ k, s.taskAny τ = some k ∧ k.inFlight = true) → exec (.queueFenceRelease i) s = .next s) ∧
       ((∀ τ ∈ x.tasks, ∀ k, s.taskAny τ = some k → k.inFlight = false ∧ k.wlog = [] ∧ s.coresOf τ = [] ∧
           ∀ e ∈ s.clusters, ∀ h ∈ e.2.held, h.stage = k.stage → h.key ≠ k.key) →
         ∃ t, exec (.queueFenceRelease i) s = .next t ∧ queueBecomes s t i (behind { x with copies := [], qstate := if x.qstate = .fenceWait then .running else x.qstate }) ∧
           leavesMachine s t ∧ t.host = s.host))) ∧
  (∀ (i : Nat) (x : Queue) (bs : List Byte) (s : State), s.queue? i = some x → bs.length = 64 →
     let n := fun (o k : Nat) => leNat ((bs.drop o).take k)
     let atHead : Prop := x.qstate = .running ∧ x.acting = none ∧ Table.get? x.copies x.rptr = some bs
     let g := s.stage x.stage
     n 0 1 = 4 → n 0 8 / 2 ^ 9 = 0 →
     (atHead → n 8 8 % 4096 ≠ 0 ∨ n 16 48 ≠ 0 → ∃ t, exec (.launchPacket i) s = .next t ∧ hasFailed s t i x 0x02) ∧
     (atHead → n 8 8 % 4096 = 0 → n 16 48 = 0 → (g.valid = false ∨ g.pasid ≠ x.pasid) →
       ∃ t, exec (.launchPacket i) s = .next t ∧ hasFailed s t i x 0x07) ∧
     (atHead → n 8 8 % 4096 = 0 → n 16 48 = 0 → g.valid = true → g.pasid = x.pasid →
       ∃ t, exec (.launchPacket i) s = .next t ∧ queueBecomes s t i { x with acting := some (x.rptr, bs) } ∧ leavesMachine s t ∧ t.host = s.host) ∧
     (x.acting = some (x.rptr, bs) →
       (s.inFlight x.stage ≠ [] → exec (.launchInstall i) s = .next s) ∧
       ((∀ e ∈ s.tasks, e.2.stage ≠ x.stage) → (∀ e ∈ s.cores, e.2.task ≠ none → s.stageOf e.1 ≠ x.stage) → (∀ e ∈ s.contexts, ∀ a, e.2.area = some a → ∀ y ∈ a.tasks, y.2.stage ≠ x.stage) → (s.ctx x.pasid).phase = .active → g.valid = true → g.pasid = x.pasid →
         let object := readObject fun o k => s.virtRead g.pasid (n 8 8 + o) k
         (object = none → ∃ t, exec (.launchInstall i) s = .next t ∧ hasFailed s t i x 0x06) ∧
         (∀ p chans, object = some (p, chans) → p.team ≠ g.team → ∃ t, exec (.launchInstall i) s = .next t ∧ hasFailed s t i x 0x06) ∧
         (∀ p chans, object = some (p, chans) → p.team = g.team → p.xs ≤ (s.ctx g.pasid).xssize → (∀ d ∈ p.sects, d.level = 2) →
           ∃ t, exec (.launchInstall i) s = .next t ∧ t.stage x.stage = { g with prog := some p } ∧
             (∀ j, j ≠ x.stage → t.stage j = s.stage j) ∧ queueBecomes s t i (behind x) ∧
             (∀ c, c / 8 ∈ g.clusters → t.core c = { s.core c with resident := [], copying := [], pins := [] }) ∧
             (∀ c, c / 8 ∉ g.clusters → t.core c = s.core c) ∧
             (∀ d, chans = [d] → ((t.ctx g.pasid).inChan d.1.chan).valid = false ∧ ((t.ctx g.pasid).inChan d.1.chan).win = d.2 - 1 ∧
               ((t.ctx g.pasid).inChan d.1.chan).kind = (d.1.kind == .b)) ∧
             (∀ d, p.sects = [d] → ∀ cl ∈ g.clusters, (t.clu cl).pool.readBytes d.offset d.data.length = d.data) ∧
             t.tasks = s.tasks ∧ t.pmem = s.pmem ∧ t.xs = s.xs))))

/-- R330, R356-R358, R383: on a port that is not held down a lost flit asks the sender for its number again, a discarded one is
counted and logged, and a time-base flit on the reef ring sets the time base; on a port held down nothing does. A training
flit puts the port into service; one from a peer that is held down takes it out and is answered (what follows a training flit is the
model's choice, assumption logs 51, 62 and 72, as is the route of a flit). A viral neighbour's port leaves service and counts as quiet;
at the first notice of a chip every level of the scope table but its own counts one chip less, and at a later one, over another port, no
more; with no peer left each counts this chip alone (the table's values at boot are the model's, log 62). A flit that has waited for a
port leaves when one is trained.

R369, R382, R383: an uncorrectable platform error makes the chip viral: one viral flit leaves on each port in service (R358), every port
is held down, and an event frame goes to the host. A chip that is viral stays as it is. -/
def Obligations.LinksAndTheViralState : Prop :=
  (∀ (p : Nat) (s : State), p < 8 →
     let q := s.port p
     let up := (q.lseqIn + 1) % 4096
     (q.heldDown = true → exec (.flitResendRequest p) s = .next s ∧ exec (.discardedFlit p) s = .next s ∧
       ∀ ns, exec (.timeBaseFlit p ns) s = .next s) ∧
     (p < 6 → ∀ ns, exec (.timeBaseFlit p ns) s = .next s) ∧
     (q.heldDown = false →
       (∃ t, exec (.flitResendRequest p) s = .next t ∧ t.link.sent = s.link.sent ++ [.resend p q.lseqIn] ∧
         t.port p = { q with lseqOut := (q.lseqOut + 1) % 4096 } ∧ (∀ r, r ≠ p → t.port r = s.port r) ∧ leavesMachine s t) ∧
       (∃ t, exec (.discardedFlit p) s = .next t ∧ t.port p = { q with lseqIn := up } ∧ logsAlone s t 5 3 ∧
         t.contexts = s.contexts ∧ leavesMachine s t) ∧
       (6 ≤ p → ∀ ns, ∃ t, exec (.timeBaseFlit p ns) s = .next t ∧ t.timeNow = ns.toNat ∧ t.port p = { q with lseqIn := up } ∧
         t.contexts = s.contexts ∧ leavesMachine s t)) ∧
     (s.recovery = false → s.viral = false → s.tripped = false → s.stuck = false →
       (∀ f, s.link.blocked = [f] → s.upPorts = [] → ∃ t, exec (.linkControlTrainingFlit p .trained) s = .next t ∧
         t.link.sent = s.link.sent ++ [f] ∧ t.link.blocked = [] ∧ (t.port p).trained = true ∧ (t.port p).heldDown = false ∧ leavesMachine s t) ∧
       (s.link.blocked = [] → ∃ t, exec (.linkControlTrainingFlit p .trained) s = .next t ∧
         t.port p = { q with trained := true, heldDown := false, gone := false, lseqIn := up } ∧
         (∀ r, r ≠ p → t.port r = s.port r) ∧ t.link.sent = s.link.sent ∧ leavesMachine s t) ∧
       (∃ t, exec (.linkControlTrainingFlit p .heldDown) s = .next t ∧ (t.port p).trained = false ∧ (t.port p).lseqIn = up ∧
         (∀ r, r ≠ p → t.port r = s.port r) ∧ t.link.sent = s.link.sent ++ [.training p] ∧ leavesMachine s t)) ∧
     (s.recovery = true ∨ s.viral = true ∨ s.tripped = true ∨ s.stuck = true → ∀ g, exec (.linkControlTrainingFlit p g) s = .next s) ∧
     (∀ chip, s.recovery = true ∨ q.heldDown = true → exec (.viralNeighbour p chip) s = .next s) ∧
     (∀ chip, s.recovery = false → q.heldDown = false → ∃ t, exec (.viralNeighbour p chip) s = .next t ∧ chip ∈ t.link.viralPeers ∧
       t.port p = { q with lseqIn := up, trained := false, gone := true } ∧ (∀ g, t.portQuiet g p = true) ∧
       Table.get? t.scopetab 0 = Table.get? s.scopetab 0 ∧
       (∀ n v, n ≠ 0 → Table.get? s.scopetab n = some v → ∃ w, Table.get? t.scopetab n = some w ∧
         (t.upPorts = [] → w.toNat / 2 ^ 32 % 2 ^ 16 = 1) ∧
         (t.upPorts ≠ [] → chip ∈ s.link.viralPeers → w = v) ∧
         (t.upPorts ≠ [] → chip ∉ s.link.viralPeers → w.toNat / 2 ^ 32 % 2 ^ 16 = max 1 (v.toNat / 2 ^ 32 % 2 ^ 16 - 1) ∧
           w.toNat / 2 ^ 24 % 2 ^ 8 = v.toNat / 2 ^ 24 % 2 ^ 8)) ∧
       (∀ r, r ≠ p → t.port r = s.port r) ∧ (∀ c, { t.ctx c with scope7 := (s.ctx c).scope7 } = s.ctx c) ∧ leavesMachine s t)) ∧
  (∀ (part : PlatformPart) (s : State),
     (s.viral = true → exec (.platformUncorrectableError part) s = .next s) ∧
     (s.viral = false → s.link.outbound = [] → s.link.blocked = [] → ∃ t f, exec (.platformUncorrectableError part) s = .next t ∧ t.viral = true ∧
       t.link.sent = s.link.sent ++ s.upPorts.map Flit.viral ∧ (∀ p, p < 8 → (t.port p).heldDown = true) ∧
       t.host.sent = s.host.sent ++ [f] ∧ f.type = 5 ∧ t.contexts = s.contexts ∧ leavesMachine s t))

/-- R363, R370, R372, R382: a report of a strike at or after the rewind point of the one core of a cluster sends it back to
that point, and so does a data error in the cycle in which it is found; one older than the point of a core with held
writes makes the chip viral. A data error that a rerun finds again at its place is the uncorrectable-data fault. Reports to
a viral or a tripped chip change nothing.

R5, R6, R364, R375, R384: a self-test with 40 passing sounders or more passes; with fewer an idle cluster leaves service, and the
log says so. The readings of the 16 ageing monitors are kept. At a quiet point a margin re-plan sets the cluster's voltage and guard band, and one
that needs more than 800 mV takes the cluster out of service, retires its cores and leaves in `hwcfg` the count of cores, and of clusters with one, that are not retired; while the
cluster runs it changes nothing. -/
def Obligations.RecoveryAndAgeing : Prop :=
  (∀ (c τ strike : Nat) (k : Task) (rp : RewindPoint) (s : State),
     let cl := c / 8
     (s.viral = true ∨ s.tripped = true → exec (.sounderReport cl none strike) s = .next s ∧
       ∀ site a, exec (.dataError cl c site a) s = .next s) ∧
     (s.viral = false → s.tripped = false →
       (strikable c τ k rp s →
         (rp.cycle ≤ strike → ∃ t, exec (.sounderReport cl none strike) s = .next t ∧ rerunsFrom c τ rp strike s t ∧ t.viral = false) ∧
         (strike < rp.cycle → (∃ h ∈ (s.clu cl).held, h.w.core = c) → ∃ t, exec (.sounderReport cl none strike) s = .next t ∧
           t.viral = true ∧ leavesMachine s t) ∧
         (rp.cycle ≤ s.cycle → k.retiring = false → ∀ site a, ∃ t, exec (.dataError cl c site a) s = .next t ∧
           rerunsFrom c τ rp s.cycle s t ∧ (c, site, a) ∈ (t.clu cl).errors)) ∧
       (∀ site a r, (s.core c).task = some τ → s.task? τ = some k → k.retiring = false → (s.core c).rcv.rerun = some r →
         (c, site, a) ∈ (s.clu cl).errors → s.shadowFree c = true →
         ∃ t n e, exec (.dataError cl c site a) s = .next t ∧ t.task? τ = some n ∧ n.event = some e ∧ e.code = 0x0C ∧ e.core = c ∧
           e.addr = (s.core c).seq.pc ∧ (c < 192 → logsAlone s t 1 0x0C) ∧ (t.core c).rcv.rerun = none ∧ (c, site, a) ∉ (t.clu cl).errors ∧
           (t.core c).seq = (s.core c).seq ∧ (t.core c).sp = (s.core c).sp ∧ t.pmem = s.pmem ∧ t.xs = s.xs))) ∧
  (∀ (cl n v g : Nat) (slack : List Nat) (s : State), cl < 24 → (∀ e ∈ s.tasks, ∀ due, e.2.swap ≠ .restoring due) →
     let idle : Prop := ∀ d, d / 8 = cl → (s.core d).task = none
     let others := fun (t : State) => (∀ x, x ≠ cl → t.clu x = s.clu x) ∧ t.tasks = s.tasks ∧ t.pmem = s.pmem ∧ t.xs = s.xs
     (40 ≤ n → exec (.sounderSelfTest cl n) s = .next (s.modClu cl fun k => { k with sounders := n, passed := true })) ∧
     (n < 40 → idle → ∃ t, exec (.sounderSelfTest cl n) s = .next t ∧ ((s.clu cl).inService = true → (t.clu cl).inService = false) ∧
       (t.clu cl).passed = false ∧ (t.clu cl).sounders = n ∧ (t.clu cl).pool = (s.clu cl).pool ∧ logsAlone s t 6 4 ∧ others t ∧
       t.cores = s.cores ∧ t.hwcfg = s.hwcfg) ∧
     (slack.length = 16 → exec (.ageingMonitorRead cl slack) s = .next (s.modClu cl fun k => { k with slack := slack })) ∧
     (slack.length ≠ 16 → exec (.ageingMonitorRead cl slack) s = .next s) ∧
     (¬ idle → (∀ e ∈ s.link.gangs, e.begun = false) → (∀ e ∈ s.contexts, e.2.phase = .active) → exec (.marginReplan cl v g) s = .next s) ∧
     (idle → v ≤ 800 → exec (.marginReplan cl v g) s = .next (s.modClu cl fun k => { k with vdd := v, guardBand := g })) ∧
     (idle → 800 < v → ∃ t, exec (.marginReplan cl v g) s = .next t ∧ (t.clu cl).inService = false ∧
       (∀ d, d / 8 = cl → t.core d = { s.core d with retired := true }) ∧ (∀ d, d / 8 ≠ cl → t.core d = s.core d) ∧ others t ∧
       t.hwcfg.toNat % 2 ^ 19 = s.hwcfg.toNat % 2 ^ 19 ∧
       t.hwcfg.toNat / 2 ^ 24 = ((List.range 192).filter fun d => !(t.core d).retired).length ∧
       t.hwcfg.toNat / 2 ^ 19 % 2 ^ 5 =
         ((List.range 24).filter fun n => (List.range 8).any fun j => !(t.core (8 * n + j)).retired).length))

/-- R369, R371, R380, R381, R386: errors that the storage meets. A corrected error is counted in the log and changes nothing
else. A line that cannot be corrected is poisoned, and no other. A chunk of HBM4E that cannot be read is rebuilt from its
stripe, which the log counts and which poisons nothing; the 16th rebuild of a channel within one second marks it lost. Two
chunks of one stripe that cannot be read, by an error or on lost channels, poison their data lines. A held write whose data
is struck is poisoned, and no other. Memory keeps its bytes throughout. -/
def Obligations.TheStorageMeetsErrors : Prop :=
  ∀ s : State,
    let keeps := fun (t : State) => t.cores = s.cores ∧ t.tasks = s.tasks ∧ t.pmem = s.pmem ∧ t.xs = s.xs ∧ t.contexts = s.contexts
    (∀ c, let t := s.meetError (.corrected c)
      keeps t ∧ t.clusters = s.clusters ∧ t.poison = s.poison ∧ ((∀ n, c = some n → n < 192) → logsAlone s t 6 1)) ∧
    (∀ g, let t := s.meetError (.line g)
      keeps t ∧ t.clusters = s.clusters ∧ t.linePoisoned g = true ∧ ∀ q, q ≠ g → t.linePoisoned q = s.linePoisoned q) ∧
    (∀ cl n, let t := s.meetError (.held cl n)
      keeps t ∧ t.poison = s.poison ∧ (∀ x, x ≠ cl → t.clu x = s.clu x) ∧ (t.clu cl).pool = (s.clu cl).pool ∧
        (t.clu cl).held = (s.clu cl).held.map fun h => if h.ord = n then { h with poison := true } else h) ∧
    (∀ a k n, a < 0x5400000000 → n = a / 1792 → k = (n % 8 + 1 + a % 1792 / 256) % 8 →
      let lost := fun (j : Nat) => 32 * j + n % 32 ∈ s.channelsLost
      let recent := s.rebuilds.filter fun r => r.1 == 32 * k + n % 32 && decide (s.cycle < r.2 + 2700000000)
      ((∀ j, j < 8 → ¬ lost j) → let t := s.meetError (.stripe n [k])
        keeps t ∧ t.clusters = s.clusters ∧ t.poison = s.poison ∧
        (recent.length < 15 → t.channelsLost = s.channelsLost ∧ logsAlone s t 6 2) ∧
        (15 ≤ recent.length → t.channelsLost = s.channelsLost ++ [32 * k + n % 32])) ∧
      (∀ j, j < 8 → j ≠ k → let t := s.meetError (.stripe n [k, j])
        keeps t ∧ t.clusters = s.clusters ∧ t.linePoisoned (granOf false a) = true ∧ t.host = s.host) ∧
      (∀ j, j < 8 → j ≠ k → lost j → (s.meetError (.stripe n [k])).linePoisoned (granOf false a) = true) ∧
      (lost k → (∀ j, j < 8 → j ≠ k → ¬ lost j) → s.linePoisoned (granOf false a) = decide (granOf false a ∈ s.poison)) ∧
      (lost k → (∃ j, j < 8 ∧ j ≠ k ∧ lost j) → s.linePoisoned (granOf false a) = true))

/-- R361: a report below 115 degrees is kept; from 115 degrees on, and at a trip, all compute stops and every port is held down.

R5, R25, R350, R352, R362, R386: a reset whose steps end without failure and that finds a slot that qualifies leaves the chip
running from the preferred slot, or from the other with a log record, with `hwcfg` and the cores in use from the configuration
record, no task, no stage, no context and no queue, and sends the Ready event frame; without such a slot the chip enters
recovery. A step that fails leaves the chip there, with the steps before it done and a log record. Memory keeps its contents
(the model's choice, log entry 40). -/
def Obligations.TripsAndResets : Prop :=
  (∀ (d x : Nat) (s : State),
     let tripped := fun (t : State) => t.tripped = true ∧ (∀ p, (t.port p).heldDown = true) ∧ t.contexts = s.contexts ∧
       leavesMachine s t
     (x < 115 → exec (.temperatureReport d x) s = .next (s.modDie d fun q => { q with junction := x, hottest := some (Nat.max (q.hottest.getD 0) x) })) ∧
     (115 ≤ x → ∃ t, exec (.temperatureReport d x) s = .next t ∧ (t.die d).junction = x ∧ tripped t) ∧
     (∃ t, exec .thermalTrip s = .next t ∧ t.dies = s.dies ∧ tripped t)) ∧
  (∀ (r : ConfigRecord) (s : State),
     let fits := bootable r
     let slot := fun (b : Bool) => if b then s.host.imageB else s.host.imageA
     let blank := fun (t : State) => (∀ c, (t.core c).task = none ∧ (t.core c).regs = {} ∧ (t.core c).sp = [] ∧ (t.core c).ls = []) ∧
       t.clusters = [] ∧ t.tasks = [] ∧ t.stages = [] ∧ t.contexts = [] ∧ t.queues = [] ∧
       t.counters = [] ∧ t.chipPhasers = [] ∧ t.xs = [] ∧ t.saved = [] ∧ t.viral = false ∧ t.tripped = false ∧ t.pmem = s.pmem
     let runs := fun (b : Bool) =>
       ∃ t f, exec (.powerOnReset r none) s = .next t ∧ blank t ∧ followsRecord r t ∧ t.resetStep = 6 ∧ t.stuck = false ∧
         t.recovery = false ∧ t.host.runningB = b ∧ t.host.minSecver = r.minSecver ∧ t.host.sent = s.host.sent ++ [f] ∧ f.type = 5 ∧
         (b = s.host.preferredB → t.host.log = []) ∧
         (b ≠ s.host.preferredB → ∃ l, t.host.log = [l] ∧ l.event.toNat / 2 ^ 60 = 5 ∧ l.event.toNat % 2 ^ 26 = 1)
     let none_ := ¬ fits s.host.imageA ∧ ¬ fits s.host.imageB
     (s.host.preferredB = false → fits s.host.imageA → runs false) ∧
     (s.host.preferredB = true → fits s.host.imageB → runs true) ∧
     (s.host.preferredB = false → ¬ fits s.host.imageA → fits s.host.imageB → runs true) ∧
     (s.host.preferredB = true → fits s.host.imageA → ¬ fits s.host.imageB → runs false) ∧
     (∀ n : Option Nat, none_ → (∀ k, n = some k → 3 ≤ k) → ∃ t, exec (.powerOnReset r n) s = .next t ∧ blank t ∧ t.recovery = true ∧
       t.stuck = false ∧ t.resetStep = 2 ∧ t.host.sent = s.host.sent) ∧
     (∀ n, 1 ≤ n → n < 7 → n < 3 ∨ ¬ none_ → ∃ t l, exec (.powerOnReset r (some n)) s = .next t ∧ blank t ∧ t.resetStep = n ∧
       t.stuck = true ∧ t.recovery = false ∧ t.host.log.getLast? = some l ∧ l.event.toNat / 2 ^ 60 = 5 ∧
       l.event.toNat % 2 ^ 26 = 2 + 256 * n ∧ t.host.sent = s.host.sent ∧ (3 ≤ n → fits (slot t.host.runningB)) ∧
       (n < 4 → t.hwcfg = 0 ∧ t.cores = []) ∧ (4 ≤ n → followsRecord r t)))

/-- R350: at reset the boot ROM considers each slot whose signature verifies and whose security version is at least the minimum of
the configuration record; it starts from the preferred slot if that one qualifies, and from the other qualifying slot
otherwise, with a record of the fallback in the log; without one the chip enters recovery. -/
def Obligations.TheBootRomPicksASlot : Prop :=
  ∀ (r : ConfigRecord) (s : State),
    let preferred := if s.host.preferredB then s.host.imageB else s.host.imageA
    let other := if s.host.preferredB then s.host.imageA else s.host.imageB
    (∀ i : Image, i.unchecked = true → (bootable r i → Config.signed i.bytes = true ∧ r.minSecver ≤ i.bytes.readLE 4 4)) ∧
    (∀ i : Image, i.unchecked = false → (bootable r i ↔ i.verified = true ∧ r.minSecver ≤ i.secver)) ∧
    (bootable r preferred → ∃ t, exec (.powerOnReset r none) s = .next t ∧ t.host.runningB = s.host.preferredB ∧ t.recovery = false ∧
      t.host.log = []) ∧
    (¬ bootable r preferred → bootable r other → ∃ t l, exec (.powerOnReset r none) s = .next t ∧
      t.host.runningB = !s.host.preferredB ∧ t.recovery = false ∧ t.host.log = [l] ∧ l.event.toNat / 2 ^ 60 = 5 ∧
      l.event.toNat % 2 ^ 26 = 1) ∧
    (¬ bootable r preferred → ¬ bootable r other → ∃ t, exec (.powerOnReset r none) s = .next t ∧ t.recovery = true)

/-- R57, R270, R323, R386, R393: a fault at issue is recorded by a speculative task, which goes no further, when it is one that
waits for the frontier. Otherwise it enters the log, the team stops in place with the event of the handler, and the handler
receives its record; in a bundle that is a shadow-free point the core stands there, with the done mask of what completed;
in any other it first returns to its segment's entry. -/
def Obligations.FaultsAreTaken : Prop :=
  ∀ (slot : Slot) (code τ : Nat) (k : Task) (s : State), s.cur.task = some τ → s.task? τ = some k → s.turn < 192 →
    0 < code → code < 256 →
    let c := s.turn
    let t := s.issueFault slot code
    let waits : Prop := code ≤ 7 ∨ (9 ≤ code ∧ code ≤ 0x0C) ∨ code = 0x0F
    let told := fun (t : State) (code slot : Nat) =>
      ∃ n e r, t.task? τ = some n ∧ n.event = some e ∧ e.code = code ∧ e.core = c ∧ e.slot = slot ∧ e.addr = s.cur.seq.pc ∧
        e.cycle = s.cycle ∧ n.key = k.key ∧ n.state = k.state ∧ t.host.handlerRecords = s.host.handlerRecords ++ [r] ∧
        r.code = code ∧ r.key = k.key ∧ r.tag = k.tag ∧ r.addr = s.cur.seq.pc ∧
        (s.host.log = [] → s.host.dropped = 0 → ∃ l, t.host.log.getLast? = some l ∧ l.event.toNat / 2 ^ 60 = 1 ∧ l.event.toNat % 2 ^ 26 = code)
    (s.speculative c = true → waits → k.deferred = none →
      ∃ f, t.task? τ = some { k with deferred := some f } ∧ f.code = code ∧ f.core = c ∧ f.slot = slot.num ∧ f.addr = s.cur.seq.pc ∧
        t.cur.seq.verdict = .faulted ∧ t.cur.regs = s.cur.regs ∧ t.host = s.host ∧ (∀ d, d ≠ c → t.core d = s.core d) ∧ t.pmem = s.pmem) ∧
    (s.speculative c = false ∨ ¬ waits →
      (s.cur.seq.bsafe = true → told t code slot.num ∧ t.cur.seq.verdict = .faulted ∧ t.cur.regs = { s.cur.regs with donemask := 0 } ∧
        t.cur.sp = s.cur.sp ∧ t.cur.seq.pc = s.cur.seq.pc ∧ t.cur.seq.flight = s.cur.seq.flight ∧
        (∀ d, d ≠ c → t.core d = s.core d) ∧ t.clusters = s.clusters ∧ t.pmem = s.pmem ∧ t.xs = s.xs) ∧
      (∀ rp, s.cur.seq.bsafe = false → s.cur.rcv.rps = [rp] → s.cur.rcv.undo = [] → (∀ e ∈ s.tasks, e.2.parent = none) →
        (∀ d, d ≠ c → (s.core d).rcv.deps = []) →
        told t code slot.num ∧ t.cur.seq.pc = rp.pc ∧ t.cur.seq.loops = rp.loops ∧ t.cur.arr = rp.arr ∧ t.cur.ys = rp.ys ∧
        t.cur.regs.e = rp.e ∧ t.cur.regs.fpc = rp.fpc ∧ t.cur.regs.s = s.cur.regs.s ∧ t.cur.sp = s.cur.sp ∧
        (∀ d, d ≠ c → t.core d = s.core d) ∧ t.pmem = s.pmem ∧ t.xs = s.xs) ∧
      (∀ f, s.cur.seq.efault = some f → f.code = code → f.core = c → f.slot = slot.num → f.addr = s.cur.seq.pc → f.atExec = true →
        f.safe = true → f.trap = 0 →
        told s.finishBundle code slot.num ∧
        s.finishBundle.cur.regs = { s.cur.regs with donemask := BitVec.ofNat 64 (s.cur.seq.bmask ^^^ (s.cur.seq.bmask &&& f.done)) } ∧
        s.finishBundle.cur.seq.pc = s.cur.seq.pc))

/-- R13, R29, R38, R46, R278, R362, R405: a step takes the next event of the cycle; with none left it gives its turn to the next core that may
issue: when the words at its program counter decode to a bundle of one slot operation, and no freeze, hold or mark stands
before it, the step runs that operation on the state with due results landed, and then moves on to the next bundle; an
operation that faults or is held ends the turn there. With no core left a pass, or the cycle, ends. A chip that failed at a
reset step, or that has tripped, stands still when nothing comes from outside. -/
def Obligations.AStepRunsTheDecodedInstruction : Prop :=
  (∀ (i : Instr) (rest : List Instr) (s : State), s.pending = i :: rest → step s = exec i { s with pending := rest }) ∧
  (∀ s : State, s.pending = [] →
    (s.stuck = true → s.inputs = [] → step s = .fault .resetStuck) ∧
    (s.stuck = false → s.tripped = true → s.inputs = [] → step s = .fault .tripped) ∧
    (s.stuck = false → s.tripped = false →
      (s.closing = true → step s = .next s.endCycle) ∧
      (s.closing = false → s.nextCore = none → s.late = true → step s = .next s.closeCycle) ∧
      (s.closing = false → s.nextCore = none → s.late = false → step s = .next s.secondPass))) ∧
  (∀ (c : Nat) (b : Bundle) (sl : Slot) (i : Instr) (s t : State), s.pending = [] → s.stuck = false → s.tripped = false →
    s.closing = false → s.late = false → s.nextCore = some c →
    let q := s.core c
    let p := s.progOf c
    let here := ({ s with turn := c }).prelude b
    (s.ctx (s.pasidOf c)).phase = .active → q.rcv.rerun = none → q.seq.frozen ≤ s.cycle → q.eng.draining = false →
    (∀ r ∈ q.seq.flight, r.wait = []) → q.eng.ldmc = none → q.seq.gloads = [] → q.eng.requests = [] →
    q.regs.donemask = 0 → q.seq.trapped = [] → q.regs.driftlim.getLsbD 62 = false → q.seq.pc.toNat < 65536 → q.seq.pc.toNat ∈ p.starts →
    (∀ n, 0 < n → n < b.len → (advance q.seq.pc n).toNat ∉ p.starts) → decodeBundle (p.window q.seq.pc 16) = some b →
    b.ovl = false → b.mark = false → b.seg = false → b.slots = [(sl, some i)] → (∀ g, i ≠ .tabort g) → exec i here = .next t →
    (t.cur.seq.verdict = .ok → step s = .next { t.finishBundle with turn := c + 1 }) ∧
    (t.cur.seq.verdict = .faulted → step s = .next { t with turn := c + 1 }) ∧
    (t.cur.seq.verdict = .held → step s = .next { (t.modCur fun k => q.unland k).stopHeld b with turn := c + 1 }))

/-- Words and bundles of the spec's encodings, most of them its own worked cases, decode to the operations they stand for, one
or more of every slot; a field with a reserved bit set does not. -/
def Obligations.WordsDecode : Prop :=
  let always : Guard := ⟨false, 0⟩
  let chain : Instr := .vectorChain .va always
    { op1 := .fmul, op2 := .fadd, op3 := .pass, dst := .reg 7, a := .reg 1, b := .reg 2, c := .reg 3, k := 0, ty := .f32, aux := 0 }
  let push : Instr := .mpush always .bf16 2 2 0
  let header : Instr := .strel always (.reg 22) 3 .gl .d 0
  decodeField .s 0x0100_5188_8000_0000 = some (.add always (.reg 5) (.reg 12) (.reg 34)) ∧
  decodeField .s 0x0100_5188_8000_0001 = none ∧
  decodeField .va 0x0008_2000_7002_0080_1800 = some chain ∧
  decodeField .m 0x9008_0000_0000 = some (.mburst always .bf16 0 0 0 false) ∧
  decodeField .m 0x1008_0040_0100 = some push ∧
  decodeField .k 0x800D_FC00 = some (.kset always 3 0x7F) ∧
  decodeField .l 0x0810_0C20_0000_0400 = some (.ldv always .va 6 2 .sp 1) ∧
  decodeField .t 0x4000_161E_C000 = some header ∧
  decodeField .x 0x4808_5306_0000 = some (.chsend always 4 5 6 3) ∧
  decodeField .x 0x6004_3140_0000 = some (.redm always 2 3 5) ∧
  decodeField .x 0x2804_6400_0000 = some (.spill always 2 6 .zb false) ∧
  decodeField .y 0x8035_C000 = some (.fence always true true false true 7) ∧
  decodeField .y 0x6004_C000 = some (.frdOwn always (.reg 9)) ∧
  decodeField .y 0x4011_0518 = some (.dctrSet always 4 5 6) ∧
  decodeField .y 0x7802_8600 = some (.ntile always (.reg 5) (.reg 6)) ∧
  (decodeBytes [0x02, 0x00, 0x00, 0x18, 0x80, 0x00, 0x02, 0x70, 0x00, 0x20, 0x08, 0x00]).map (fun b => (b.slots, b.safe, b.len)) =
    some ([(.va, some chain)], false, 3) ∧
  (decodeBytes [0x08, 0x00, 0x00, 0x01, 0x40, 0x00, 0x08, 0x10]).map (fun b => (b.slots, b.safe, b.len)) =
    some ([(.m, some push)], false, 2) ∧
  (decodeBytes [0x40, 0x02, 0x00, 0xC0, 0x1E, 0x16, 0x00, 0x40]).map (fun b => (b.slots, b.safe, b.len)) =
    some ([(.t, some header)], true, 2)

/-- Decoding what the encoder writes gives every well-formed slot operation back, as its field and as the one slot of a
bundle. -/
def Obligations.EncodedInstructionsDecode : Prop :=
  (∀ i : Instr, Laws.RoundTrip.Statement i) ∧
  (∀ (i : Instr) (sl : Slot) (f : Nat), encodeField i = some (sl, f) → i.wf = true →
    decodeBytes (encode i) = some { ovl := false, mark := false, seg := drainRefused false (some i), safe := drainRefused false (some i),
                                    slots := [(sl, some i)], expected := 0, len := (16 + sl.width + 31) / 32 })

/-- R5: the reserved bits [63:32], [18:16] and [7:5] of `hwcfg` read zero after every step if they do before it. -/
def Obligations.ReservedBitsStayZero : Prop :=
  ∀ s t : State, s.hwcfgReserved = true → step s = .next t → t.hwcfgReserved = true

/-- A memory is a list of cells with strictly rising addresses and no byte that an unlisted address would read as: the memory of
the package and the chip scratchpad keep that form through every step (the form is the model's, assumption log 2). -/
def Obligations.MemoryStaysCanonical : Prop :=
  ∀ s t : State, s.memoryWf = true → step s = .next t → t.memoryWf = true

/-- At reset the reserved bits of `hwcfg` read zero, both memories are in canonical form, and the first step runs the reset
sequence, which ends with the chip ready. -/
def Obligations.ResetMeetsTheInvariant : Prop :=
  State.reset.hwcfgReserved = true ∧ State.reset.memoryWf = true ∧ State.reset.tasks = [] ∧
  ∃ t, step State.reset = .next t ∧ t.resetStep = 6 ∧ t.pending = [] ∧ t.hwcfgReserved = true ∧ t.hwcfg.toNat / 2 ^ 24 = 192
end

