-- ==== Sys2Proof/Laws/Memory.lean ====
section
/-!
SUPPORT. Memories: a read after a write, and the canonical form, which every memory operation keeps.
-/
namespace Sys2Proof.Machine

/-! ### Reads after writes -/

theorem Memory.read_insert_same (m : Memory) (a : Nat) (b : Byte) : Memory.read (Memory.insert m a b) a = b := by
  induction m with
  | nil => simp [Memory.insert, Memory.read]
  | cons e m ih =>
    obtain ⟨j, c⟩ := e
    simp only [Memory.insert]
    split
    · simp [Memory.read]
    · split
      · simp [Memory.read]
      · simp [Memory.read, *]

theorem Memory.read_insert_other (m : Memory) {a q : Nat} (b : Byte) (h : q ≠ a) :
    Memory.read (Memory.insert m a b) q = Memory.read m q := by
  induction m with
  | nil => simp [Memory.insert, Memory.read, h.symm]
  | cons e m ih =>
    obtain ⟨j, c⟩ := e
    simp only [Memory.insert]
    split
    · simp [Memory.read, h.symm]
    · split
      · subst j; simp [Memory.read, h.symm]
      · simp [Memory.read, ih]

theorem Memory.read_filter_same (m : Memory) (a : Nat) : Memory.read (m.filter fun e => e.1 != a) a = 0 := by
  induction m with
  | nil => rfl
  | cons e m ih =>
    by_cases h : e.1 = a
    · simpa [List.filter, h] using ih
    · have : (e.1 != a) = true := by simpa using h
      simpa [List.filter, this, Memory.read, h] using ih

theorem Memory.read_filter_other (m : Memory) {a q : Nat} (h : q ≠ a) :
    Memory.read (m.filter fun e => e.1 != a) q = Memory.read m q := by
  induction m with
  | nil => rfl
  | cons e m ih =>
    by_cases k : e.1 = a
    · simpa [List.filter, k, Memory.read, Ne.symm h] using ih
    · have : (e.1 != a) = true := by simpa using k
      simp [List.filter, this, Memory.read, ih]

@[simp] theorem Memory.read_write_same (m : Memory) (a : Nat) (b : Byte) : Memory.read (Memory.write m a b) a = b := by
  unfold Memory.write
  split
  · rename_i h; rw [h]; exact Memory.read_filter_same m a
  · exact Memory.read_insert_same m a b

theorem Memory.read_write_other (m : Memory) {a q : Nat} (b : Byte) (h : q ≠ a) :
    Memory.read (Memory.write m a b) q = Memory.read m q := by
  unfold Memory.write
  split
  · exact Memory.read_filter_other m h
  · exact Memory.read_insert_other m b h

theorem Memory.read_writeBytes_outside (m : Memory) (a : Nat) (bs : List Byte) {q : Nat}
    (h : q < a ∨ a + bs.length ≤ q) : Memory.read (Memory.writeBytes m a bs) q = Memory.read m q := by
  induction bs generalizing m a with
  | nil => rfl
  | cons b bs ih =>
    simp only [List.length_cons] at h
    rw [Memory.writeBytes, ih _ _ (by omega), Memory.read_write_other _ _ (by omega)]

theorem Memory.read_writeBytes_inside (m : Memory) (a : Nat) (bs : List Byte) {i : Nat} (h : i < bs.length) :
    Memory.read (Memory.writeBytes m a bs) (a + i) = bs[i] := by
  induction bs generalizing m a i with
  | nil => simp at h
  | cons b bs ih =>
    cases i with
    | zero => rw [Memory.writeBytes, Memory.read_writeBytes_outside _ _ _ (by omega)]; simp
    | succ i =>
      have := ih (m.write a b) (a + 1) (i := i) (by simpa using h)
      rw [Memory.writeBytes, show a + (i + 1) = a + 1 + i by omega, this]; simp

@[simp] theorem Memory.readBytes_length (m : Memory) (a n : Nat) : (Memory.readBytes m a n).length = n := by
  induction n generalizing a with
  | zero => rfl
  | succ n ih => simp [Memory.readBytes, ih]

theorem Memory.readBytes_get (m : Memory) (a : Nat) {n i : Nat} (h : i < (Memory.readBytes m a n).length) :
    (Memory.readBytes m a n)[i] = Memory.read m (a + i) := by
  induction n generalizing a i with
  | zero => simp [Memory.readBytes] at h
  | succ n ih =>
    cases i with
    | zero => simp [Memory.readBytes]
    | succ i =>
      simp only [Memory.readBytes, List.length_cons] at h
      simpa [Memory.readBytes, Nat.add_assoc, Nat.add_comm 1] using ih (a + 1) (i := i) (by omega)

/-! ### The canonical form -/

theorem Memory.wfFrom_mono {lo hi : Nat} (m : Memory) (h : lo ≤ hi) (w : Memory.wfFrom hi m = true) :
    Memory.wfFrom lo m = true := by
  cases m with
  | nil => rfl
  | cons e m =>
    obtain ⟨j, b⟩ := e
    simp only [Memory.wfFrom, Bool.and_eq_true, decide_eq_true_eq] at w ⊢
    exact ⟨⟨by omega, w.1.2⟩, w.2⟩

theorem Memory.wfFrom_insert (m : Memory) {lo a : Nat} {b : Byte} (hb : b ≠ 0) (ha : lo ≤ a)
    (w : Memory.wfFrom lo m = true) : Memory.wfFrom lo (Memory.insert m a b) = true := by
  induction m generalizing lo with
  | nil => simpa [Memory.insert, Memory.wfFrom, ha] using hb
  | cons e m ih =>
    obtain ⟨j, c⟩ := e
    simp only [Memory.wfFrom, Bool.and_eq_true, decide_eq_true_eq, bne_iff_ne, ne_eq] at w
    simp only [Memory.insert]
    split
    · simp only [Memory.wfFrom, Bool.and_eq_true, decide_eq_true_eq, bne_iff_ne, ne_eq]
      exact ⟨⟨ha, hb⟩, ⟨by omega, w.1.2⟩, w.2⟩
    · split
      · subst j
        simp only [Memory.wfFrom, Bool.and_eq_true, decide_eq_true_eq, bne_iff_ne, ne_eq]
        exact ⟨⟨ha, hb⟩, w.2⟩
      · simp only [Memory.wfFrom, Bool.and_eq_true, decide_eq_true_eq, bne_iff_ne, ne_eq]
        exact ⟨⟨w.1.1, w.1.2⟩, ih (by omega) w.2⟩

theorem Memory.wfFrom_filter (m : Memory) {lo : Nat} (p : Host.Cell → Bool) (w : Memory.wfFrom lo m = true) :
    Memory.wfFrom lo (m.filter p) = true := by
  induction m generalizing lo with
  | nil => rfl
  | cons e m ih =>
    obtain ⟨j, c⟩ := e
    simp only [Memory.wfFrom, Bool.and_eq_true, decide_eq_true_eq, bne_iff_ne, ne_eq] at w
    simp only [List.filter]
    split
    · simp only [Memory.wfFrom, Bool.and_eq_true, decide_eq_true_eq, bne_iff_ne, ne_eq]
      exact ⟨⟨w.1.1, w.1.2⟩, ih w.2⟩
    · exact Memory.wfFrom_mono _ (by omega) (ih w.2)

theorem Memory.wf_write (m : Memory) (a : Nat) (b : Byte) (w : Memory.wf m = true) : Memory.wf (Memory.write m a b) = true := by
  unfold Memory.write
  split
  · exact Memory.wfFrom_filter m _ w
  · rename_i h; exact Memory.wfFrom_insert m h (Nat.zero_le a) w

theorem Memory.wf_writeBytes (m : Memory) (a : Nat) (bs : List Byte) (w : Memory.wf m = true) :
    Memory.wf (Memory.writeBytes m a bs) = true := by
  induction bs generalizing m a with
  | nil => exact w
  | cons b bs ih => exact ih _ _ (Memory.wf_write m a b w)

/-- Memory at reset lists nothing, and so is in canonical form. -/
theorem State.reset_memoryWf : Memory.wf State.reset.pmem = true ∧ Memory.wf State.reset.xs = true ∧ State.reset.cores = [] ∧
    State.reset.clusters = [] := by decide

/-- Two memories in canonical form that read the same at every address are the same list. -/
theorem Memory.wf_ext : ∀ (m n : Memory) (lo : Nat), Memory.wfFrom lo m = true → Memory.wfFrom lo n = true →
    (∀ a, Memory.read m a = Memory.read n a) → m = n
  | [], [], _, _, _, _ => rfl
  | [], (j, b) :: n, lo, _, w, h => by
    have := h j
    simp [Memory.read] at this
    simp [Memory.wfFrom, ← this] at w
  | (j, b) :: m, [], lo, w, _, h => by
    have := h j
    simp [Memory.read] at this
    simp [Memory.wfFrom, this] at w
  | (j, b) :: m, (k, c) :: n, lo, w, v, h => by
    simp only [Memory.wfFrom, Bool.and_eq_true, decide_eq_true_eq, bne_iff_ne, ne_eq] at w v
    have low : ∀ (l : Memory) (lo a : Nat), Memory.wfFrom lo l = true → a < lo → Memory.read l a = 0 := by
      intro l
      induction l with
      | nil => intro _ _ _ _; rfl
      | cons e l ih =>
        obtain ⟨i, d⟩ := e
        intro lo a w' ha
        simp only [Memory.wfFrom, Bool.and_eq_true, decide_eq_true_eq] at w'
        rw [Memory.read, if_neg (by omega)]
        exact ih _ _ w'.2 (by omega)
    have jk : j = k := by
      rcases Nat.lt_trichotomy j k with g | g | g
      · have := h j
        rw [Memory.read, if_pos rfl, Memory.read, if_neg (by omega), low n _ _ v.2 (by omega)] at this
        exact absurd this w.1.2
      · exact g
      · have := h k
        rw [Memory.read, if_neg (by omega), low m _ _ w.2 (by omega), Memory.read, if_pos rfl] at this
        exact absurd this.symm v.1.2
    subst jk
    have bc : b = c := by simpa [Memory.read] using h j
    subst bc
    congr 1
    refine Memory.wf_ext m n (j + 1) w.2 v.2 fun a => ?_
    by_cases ga : j = a
    · subst ga; rw [low m _ _ w.2 (by omega), low n _ _ v.2 (by omega)]
    · simpa [Memory.read, ga] using h a

end Sys2Proof.Machine
end

