-- ==== Sys2Proof/Laws/Ops.lean ====
section
/-!
SUPPORT. What the shared operations of Machine/Ops.lean do, said once: the hard-wired registers, latches, results put in
flight, holds, free values, log records, frames to the host, and taking a fault.
-/
namespace Sys2Proof.Machine

/-! ### Hard-wired registers and latches (R40, R41, R44) -/

@[simp] theorem Core.readSReg_zero (k : Core) : k.readSReg 0 = 0 := rfl
@[simp] theorem Core.readP_zero (k : Core) : k.readP 0 = true := rfl
@[simp] theorem Core.readK_zero (k : Core) (f : VSlot) : k.readK f 0 = BitVec.allOnes 128 := rfl
@[simp] theorem Core.on_always (k : Core) : k.on Guard.always = true := rfl
theorem Core.on_eq (k : Core) (g : Guard) : k.on g = (k.readP g.idx.toNat != g.neg) := by simp [Core.on]
@[simp] theorem Latches.enter_b0 {w : Nat} (l : Latches w) (v : BitVec w) : (l.enter v).b0 = v := rfl
@[simp] theorem Latches.enter_b1 {w : Nat} (l : Latches w) (v : BitVec w) : (l.enter v).b1 = l.b0 := rfl
@[simp] theorem Latches.enter_b2 {w : Nat} (l : Latches w) (v : BitVec w) : (l.enter v).b2 = l.b1 := rfl

/-! ### Results in flight (R46): a push changes the list of results and nothing else -/

@[simp] theorem Core.push_flight (k : Core) (sl : Slot) (n : Nat) (d : Dest) (v m f : Nat) :
    (k.push sl n d v m f).seq.flight = k.seq.flight ++
      [{ due := k.seq.stream + n, slot := sl, dest := d, val := v, mask := m, flags := f, issued := k.seq.stream }] := rfl
@[simp] theorem Core.push_regs (k : Core) (sl : Slot) (n : Nat) (d : Dest) (v m f : Nat) : (k.push sl n d v m f).regs = k.regs := rfl
@[simp] theorem Core.push_ys (k : Core) (sl : Slot) (n : Nat) (d : Dest) (v m f : Nat) : (k.push sl n d v m f).ys = k.ys := rfl
@[simp] theorem Core.push_arr (k : Core) (sl : Slot) (n : Nat) (d : Dest) (v m f : Nat) : (k.push sl n d v m f).arr = k.arr := rfl
@[simp] theorem Core.push_rcv (k : Core) (sl : Slot) (n : Nat) (d : Dest) (v m f : Nat) : (k.push sl n d v m f).rcv = k.rcv := rfl
@[simp] theorem Core.push_eng (k : Core) (sl : Slot) (n : Nat) (d : Dest) (v m f : Nat) : (k.push sl n d v m f).eng = k.eng := rfl
@[simp] theorem Core.push_sp (k : Core) (sl : Slot) (n : Nat) (d : Dest) (v m f : Nat) : (k.push sl n d v m f).sp = k.sp := rfl
@[simp] theorem Core.push_ls (k : Core) (sl : Slot) (n : Nat) (d : Dest) (v m f : Nat) : (k.push sl n d v m f).ls = k.ls := rfl
@[simp] theorem Core.push_pc (k : Core) (sl : Slot) (n : Nat) (d : Dest) (v m f : Nat) : (k.push sl n d v m f).seq.pc = k.seq.pc := rfl
@[simp] theorem Core.push_stream (k : Core) (sl : Slot) (n : Nat) (d : Dest) (v m f : Nat) :
    (k.push sl n d v m f).seq.stream = k.seq.stream := rfl

/-! ### Holds (R287): a hold changes the held bundle's cause and verdict, and nothing else -/

theorem State.holdFor_eq (s : State) (sl : Slot) (c : HoldCause) :
    s.holdFor sl c = s.setCore s.turn { s.cur with seq := { s.cur.seq with
      hold := some ⟨c, sl.num⟩, verdict := .held, fronted := s.cur.seq.fronted || c == .frontier } } := rfl
theorem State.holdAll_eq (s : State) (c : HoldCause) :
    s.holdAll c = s.setCore s.turn { s.cur with seq := { s.cur.seq with hold := some ⟨c, 15⟩, verdict := .held } } := rfl

/-! ### Free values and identities (assumption log 1) -/

@[simp] theorem State.takeFree_fst (s : State) : s.takeFree.1 = s.free := rfl
@[simp] theorem State.takeFree_snd (s : State) : s.takeFree.2 = { s with free := s.free + 1 } := rfl
@[simp] theorem State.takeId_fst (s : State) : s.takeId.1 = s.nextId := rfl
@[simp] theorem State.takeId_snd (s : State) : s.takeId.2 = { s with nextId := s.nextId + 1 } := rfl

/-! ### The fault log and frames (R353, R386, R387) -/

/-- A record changes the host's side only. -/
theorem State.logPair_eq (s : State) (event stamp : Word64) (o : Option (Nat × Nat)) :
    s.logPair event stamp o = { s with host := (s.logPair event stamp o).host } := by
  unfold State.logPair; dsimp only; split
  · rfl
  · split
    · rfl
    · split <;> rfl

/-- Into an empty log with nothing dropped, a record enters as it is. -/
theorem State.logPair_first (s : State) (event stamp : Word64) (o : Option (Nat × Nat)) (h : s.host.log = [])
    (d : s.host.dropped = 0) :
    (s.logPair event stamp o).host.log =
      [{ event := event, stamp := stamp, readableAt := if o.isSome then none else some (s.cycle + Config.W), by' := o }] := by
  simp [State.logPair, h, d, Config.logUnits]

@[simp] theorem State.sendFrame_sent (s : State) (y c p : Nat) (a t : Word64) (b : List Byte) :
    (s.sendFrame y c p a t b).host.sent =
      s.host.sent ++ [{ type := y, seq := s.host.seqOut, pasid := p, code := c, addr := a, tag := t, payload := b }] := rfl
@[simp] theorem State.sendFrame_log (s : State) (y c p : Nat) (a t : Word64) (b : List Byte) :
    (s.sendFrame y c p a t b).host.log = s.host.log := rfl
@[simp] theorem State.sendFrame_cores (s : State) (y c p : Nat) (a t : Word64) (b : List Byte) :
    (s.sendFrame y c p a t b).cores = s.cores := rfl

/-! ### Taking a fault and returning from it (R57, R270, R324) -/

/-- A speculative task keeps its first deferrable fault, and nothing else changes (R270). -/
theorem State.takeFault_deferred {s : State} {f : FaultInfo} {t : Nat} (ht : (s.core f.core).task = some t)
    (hs : s.speculative f.core = true) (hd : deferrable f.code = true) :
    s.takeFault f = s.modTask t fun k => if k.deferred.isSome then k else { k with deferred := some f } := by
  simp [State.takeFault, ht, hs, hd]

/-- Any other fault of a core with a task is delivered (R270). -/
theorem State.takeFault_delivered {s : State} {f : FaultInfo} {t : Nat} (ht : (s.core f.core).task = some t)
    (h : s.speculative f.core = false ∨ deferrable f.code = false) : s.takeFault f = s.deliverFault t f := by
  rcases h with h | h <;> simp [State.takeFault, ht, h]

/-- A core without a task takes no fault. -/
theorem State.takeFault_idle {s : State} {f : FaultInfo} (h : (s.core f.core).task = none) : s.takeFault f = s := by
  simp [State.takeFault, h]

/-- Inside a bundle an execution fault is kept for the bundle's end, and nothing else changes (R57). -/
theorem State.execFault_inBundle {s : State} {sl : Slot} {code : Nat} (h : s.cur.seq.inBundle = true) :
    ∃ f, s.execFault sl code = s.setCore s.turn { s.cur with seq := { s.cur.seq with efault := some f } } := by
  unfold State.execFault
  rw [if_pos h]
  cases e : s.cur.seq.efault with
  | none => exact ⟨_, by simp only [State.modCur, State.modCore, Core.modSeq, State.cur] at e ⊢; rw [e]⟩
  | some f =>
    by_cases c : f.slot ≤ sl.num
    · exact ⟨{ f with done := f.done ||| 2 ^ sl.num }, by
        simp only [State.modCur, State.modCore, Core.modSeq, State.cur] at e ⊢; rw [e]; simp only [c, if_true]⟩
    · exact ⟨{ s.faultHere sl code true with done := f.done ||| 2 ^ sl.num, safe := f.safe }, by
        simp only [State.modCur, State.modCore, Core.modSeq, State.cur] at e ⊢; rw [e]; simp only [c, if_false]⟩

theorem State.resumeTask_other (s : State) {t q : Nat} (h : q ≠ t) : (s.resumeTask t).task? q = s.task? q := by
  unfold State.resumeTask
  cases e : s.task? t with
  | none => rw [State.modTask_none e]
  | some k => rw [State.modTask_some e]; exact State.task?_setTask_other s _ h

theorem State.resumeTask_event {s : State} {t : Nat} {k : Task} (h : s.task? t = some k) :
    s.resumeTask t = s.setTask t { k with event := none } := State.modTask_some h _

end Sys2Proof.Machine
end

