-- ==== Sys2Proof/Tests/Slice0.lean ====
section
/-!
SUPPORT. Tests: well-formedness refuses what decode must refuse, words written from the spec's layout tables decode to
their operations, the hypotheses of the statements are met by states written here, and a few single steps.
-/
namespace Sys2Proof.Tests
open Sys2Proof Sys2Proof.Machine

/-! ### Well-formedness: an ill-formed term for each check; no word decodes to it (R53, R99, R125, R130, R171-R183, R207,
R209, R234-R237) -/

def g : Guard := ⟨true, 5⟩

abbrev refused (i : Instr) : Prop :=
  i.wf = false ∧ (encodeField i).bind (fun x => decodeField x.1 x.2) = none

def chain (o1 : Op1) (o2 : Op2) (o3 : Op3) (ty : VType) (aux : BitVec 4) (dst : VDst := .reg 7) : Instr :=
  .vectorChain .va g { op1 := o1, op2 := o2, op3 := o3, dst := dst, a := .reg 1, b := .reg 2, c := .reg 3, k := 0, ty := ty, aux := aux }

theorem test_refuses_chains :
    refused (chain .pass .pass .pass .i32 1) ∧ refused (chain .cvt .fcmp .pass .f32 4) ∧ refused (chain .pass .icmp .shl .i32 0) ∧
    refused (chain .pass .icmp .pass .i32 0 (.reg 16)) ∧ refused (chain .pass .icmp .pass .i32 0 .transient) ∧
    refused (chain .pass .icmp .pass .i32 8) ∧ refused (chain .fmul .pass .pass .i32 0) ∧ refused (chain .imul .pass .pass .f32 0) ∧
    refused (chain .clmul .pass .pass .i16x2 0) ∧ refused (chain .cvt .pass .pass .i32 4) ∧ refused (chain .pass .fadd .pass .i32 0) ∧
    refused (chain .pass .iadd .pass .f32 0) ∧ refused (chain .pass .pass .shl .f32 0) ∧ refused (chain .pass .pass .gelu .i32 0) ∧
    refused (chain .pass .pass .pack .i8x4 0) ∧ refused (chain .pass .pass .unpack .i32 0) ∧ refused (chain .pass .pass .scanx .i32 4) ∧
    refused (chain .pass .pass .rsum .i32 2) ∧ refused (chain .pass .pass .rmax .f32 2) := by
  and_intros <;> decide

theorem test_refuses_array_and_memory :
    refused (.mpush g .bf16 0 0 1) ∧ refused (.mburst g .f32 0 0 3 false) ∧ refused (.mpusht g .i8 0 0 1) ∧ refused (.mclr g false false) ∧
    refused (.ldv g .va 1 0 .gl 0) ∧ refused (.ldvt g .va 1 0 .gl 0 .b4 0) ∧ refused (.ldvx g .va 1 0 .gl (.reg 2) 0) ∧
    refused (.ldvp g .va 1 0 .sp 0) ∧ refused (.ldvp g .va 2 0 .gl 0) ∧ refused (.ldacq g 1 0 .sp .d 0) ∧ refused (.ldmc g 0 0 .sp 0 0) ∧
    refused (.ldmc g 1 0 .gl 0 0) ∧ refused (.ldmc g 1 0 .sp 24575 1) ∧ refused (.stv g .va (.reg 1) 0 .gl 0) ∧
    refused (.stvx g .va (.reg 1) 0 .gl 2) ∧ refused (.stvp g .va 1 0 .sp 0) ∧ refused (.stvp g .va 2 0 .gl 0) ∧
    refused (.strel g (.reg 1) 0 .sp .d 0) := by
  and_intros <;> decide

theorem test_refuses_engines_and_fences :
    refused (.xcp g (.s 1) (.s (.reg 2)) 0) ∧ refused (.xcp g (.vb 1) (.va (.reg 2)) 1) ∧ refused (.xcp g (.la 1) (.ka 2) 0) ∧
    refused (.mc g 1 2 0) ∧ refused (.tinv g 1 0 .all) ∧ refused (.tinv g 0 1 .all) ∧ refused (.fence g false false false false 8) ∧
    refused (.fence g true true true true 9) := by
  and_intros <;> decide

/-- R207, R209: a draining fence stands in a `seg` bundle; the worked case of the spec with its bit 10 set, and without it. -/
theorem test_draining_fence :
    (decodeBytes [0x00, 0x07, 0x00, 0xC0, 0x3D, 0x80, 0x00, 0x00]).map (fun b => (b.seg, b.slots)) =
      some (true, [(.y, some (.fence ⟨false, 0⟩ true true true true 7))]) ∧
    (decodeBytes [0x00, 0x03, 0x00, 0xC0, 0x3D, 0x80, 0x00, 0x00]).map (fun b => b.slots) = some [(.y, none)] := by
  constructor <;> decide

/-! ### A word for every slot operation, written from the layout tables, guard p5 negated (R38, R45, R52, R121-R135, R142-R152,
R160, R169-R186, R207, R231-R247, R271, R279, R291) -/

abbrev reads (sl : Slot) (w : Nat) (i : Instr) : Prop := decodeField sl w = some i ∧ encodeField i = some (sl, w)

theorem test_words_scalar_1 :
    reads .s 0x1A8518FC0000000 (.add g (.reg 5) (.reg 12) (.reg 63)) ∧
    reads .s 0x2AFF82880000000 (.sub g .transient (.latch .by1) (.reg 34)) ∧
    reads .s 0x3ABF03080000000 (.and g (.reg 63) (.reg 1) (.latch .by2)) ∧
    reads .s 0x4A8518FC0000000 (.or g (.reg 5) (.reg 12) (.reg 63)) ∧
    reads .s 0x5AFF82880000000 (.xor g .transient (.latch .by1) (.reg 34)) ∧
    reads .s 0x6ABF03080000000 (.shl g (.reg 63) (.reg 1) (.latch .by2)) ∧
    reads .s 0x7A8518FC0000000 (.shr g (.reg 5) (.reg 12) (.reg 63)) ∧
    reads .s 0x8AFF82880000000 (.sar g .transient (.latch .by1) (.reg 34)) ∧
    reads .s 0x9ABF03080000000 (.rot g (.reg 63) (.reg 1) (.latch .by2)) ∧
    reads .s 0xAA8518FC0000000 (.min g (.reg 5) (.reg 12) (.reg 63)) ∧
    reads .s 0xBAFF82880000000 (.max g .transient (.latch .by1) (.reg 34)) ∧
    reads .s 0xCABF03080000000 (.minu g (.reg 63) (.reg 1) (.latch .by2)) ∧
    reads .s 0xDA8518FC0000000 (.maxu g (.reg 5) (.reg 12) (.reg 63)) ∧
    reads .s 0x20AFF82880000000 (.mul g .transient (.latch .by1) (.reg 34)) ∧
    reads .s 0x21ABF03080000000 (.mulh g (.reg 63) (.reg 1) (.latch .by2)) ∧
    reads .s 0x22A8518FC0000000 (.mulhu g (.reg 5) (.reg 12) (.reg 63)) ∧
    reads .s 0x24AFF82880000000 (.div g .transient (.latch .by1) (.reg 34)) ∧
    reads .s 0x25ABF03080000000 (.divu g (.reg 63) (.reg 1) (.latch .by2)) ∧
    reads .s 0x26A8518FC0000000 (.rem g (.reg 5) (.reg 12) (.reg 63)) ∧
    reads .s 0x27AFF82880000000 (.remu g .transient (.latch .by1) (.reg 34)) ∧
    reads .s 0x10A8780080000001 (.addi g (.reg 7) (.latch .by0) 0x80000001) ∧
    reads .s 0x13A8780080000001 (.andi g (.reg 7) (.latch .by0) 0x80000001) ∧
    reads .s 0x14A8780080000001 (.ori g (.reg 7) (.latch .by0) 0x80000001) ∧
    reads .s 0x15A8780080000001 (.xori g (.reg 7) (.latch .by0) 0x80000001) := by
  and_intros <;> decide

theorem test_words_scalar_2 :
    reads .s 0x16A8780080000001 (.shli g (.reg 7) (.latch .by0) 0x80000001) ∧
    reads .s 0x17A8780080000001 (.shri g (.reg 7) (.latch .by0) 0x80000001) ∧
    reads .s 0x18A8780080000001 (.sari g (.reg 7) (.latch .by0) 0x80000001) ∧
    reads .s 0x19A8780080000001 (.roti g (.reg 7) (.latch .by0) 0x80000001) ∧
    reads .s 0x28AFF42000000000 (.clz g .transient (.reg 33)) ∧
    reads .s 0x29AFF42000000000 (.ctz g .transient (.reg 33)) ∧
    reads .s 0x2AAFF42000000000 (.popc g .transient (.reg 33)) ∧
    reads .s 0x2BAFF42000000000 (.bswap g .transient (.reg 33)) ∧
    reads .s 0x30A8980000000001 (.li g (.reg 9) 0x80000000001) ∧
    reads .s 0x31A8910000080001 (.lih g (.reg 9) (.reg 8) 0x80001) ∧
    reads .s 0x32A891102C000000 (.sel g (.reg 9) (.reg 8) (.latch .by0) 11) ∧
    reads .s 0x38AC823040000000 (.ceq g 9 (.reg 17) (.latch .by1)) ∧
    reads .s 0x39AC823040000000 (.cne g 9 (.reg 17) (.latch .by1)) ∧
    reads .s 0x3AAC823040000000 (.clt g 9 (.reg 17) (.latch .by1)) ∧
    reads .s 0x3BAC823040000000 (.cltu g 9 (.reg 17) (.latch .by1)) ∧
    reads .s 0x3CAC823040000000 (.cle g 9 (.reg 17) (.latch .by1)) ∧
    reads .s 0x3DAC823040000000 (.cleu g 9 (.reg 17) (.latch .by1)) ∧
    reads .s 0x40ACB18000000000 (.pand g 9 6 3) ∧
    reads .s 0x41ACB18000000000 (.por g 9 6 3) ∧
    reads .s 0x42ACB18000000000 (.pxor g 9 6 3) ∧
    reads .s 0x43ACB00000000000 (.pnot g 9 6) ∧
    reads .s 0x48A8000000230001 (.b g 0x230001) ∧
    reads .s 0x49A80000003FFFFE (.bp g 0x3FFFFE) ∧
    reads .s 0x4AA9F00000230001 (.call g (.reg 31) 0x230001) := by
  and_intros <;> decide

theorem test_words_scalar_3 :
    reads .s 0x4BA8084000000000 (.ret g (.latch .by2)) ∧
    reads .s 0x4CA8050000000000 (.jr g (.reg 40)) ∧
    reads .s 0x4DA8300042600001 (.loop g (.reg 3) 0x109 0x200001) ∧
    reads .s 0x4EA8000000230001 (.lbrk g 0x230001) ∧
    reads .s 0x50AFF00084000000 (.sysr g .transient 0x042) ∧
    reads .s 0x51A8004082000000 (.sysw g (.reg 2) 0x041) ∧
    reads .s 0x52A8000000008001 (.trap g 0x8001) ∧
    reads .s 0x53A9200000000000 (.evpop g (.reg 18)) ∧
    reads .s 0x54A8000000000000 (.halt g) ∧
    reads .s 0x58A802A000000000 (.ipf g (.reg 21)) ∧
    reads .s 0x59A802A000000000 (.ipin g (.reg 21)) ∧
    reads .s 0x5AA802A000000000 (.iunpin g (.reg 21)) := by
  and_intros <;> decide

theorem test_words_va_chain :
    reads .va 0x2A10837FF7FF00801C90 (.vectorChain .va g { op1 := .fma, op2 := .fmax, op3 := .gelu, dst := .transient, a := .reg 1023, b := .latch .by2, c := .reg 3, k := 9, ty := .bf16x2, aux := 0 }) ∧
    reads .va 0x2A01E000F00801403059 (.vectorChain .va g { op1 := .pass, op2 := .icmp, op3 := .pass, dst := .reg 15, a := .reg 4, b := .reg 5, c := .reg 6, k := 0, ty := .i8x4, aux := 9 }) := by
  and_intros <;> decide

theorem test_words_vb_chain :
    reads .vb 0x2A50E8A0180000A00FB3 (.vectorChain .vb g { op1 := .clmulh, op2 := .iadds, op3 := .scanx, dst := .reg 513, a := .latch .by0, b := .reg 2, c := .latch .by1, k := 15, ty := .i32, aux := 3 }) := by
  decide

theorem test_words_matrix :
    reads .m 0x1AB7FFE000FC (.mpush g .log6 16383 1 31) ∧
    reads .m 0x2AC8005FFF44 (.mpusht g .bf16log6 2 16382 17) ∧
    reads .m 0x9AA000400182 (.mburst g .e5m2 2 3 0 true) ∧
    reads .m 0x3A8000000000 (.mshift g) ∧
    reads .m 0x4A8000000000 (.mhold g) ∧
    reads .m 0x5AEFA00003E8 (.mdrain g true 95 (.vec .vb 1000) false) ∧
    reads .m 0x5A81FFFFC000 (.mdrain g false 3 (.sp .b 16383) true) ∧
    reads .m 0x6AC000000000 (.mclr g false true) ∧
    reads .m 0x7A8000000000 (.mswap g) ∧
    reads .m 0x8AF800080000 (.mmask g true (.sp .b 0x10001)) ∧
    reads .m 0x8A8000000000 (.mmask g false .ones) ∧
    reads .m 0xAA8000000000 (.mend g) := by
  and_intros <;> decide

theorem test_words_scale :
    reads .k 0x35870008 (.kld g 33 .b 0x2001) ∧
    reads .k 0x55870002 (.kldp g 33 .b 0x8001) ∧
    reads .k 0x7587E000 (.kmov g 33 62) ∧
    reads .k 0x95860400 (.kset g 33 0x81) := by
  and_intros <;> decide

theorem test_words_load :
    reads .l 0xD57FF1A00000400 (.ldv g .va 1023 17 .xs 0x800001) ∧
    reads .l 0x15600B17CC000400 (.ldvt g .vb 5 17 .cp 30 .b2 0x10001) ∧
    reads .l 0x1D67FD1200000400 (.ldvp g .vb 1022 17 .sp 0x800001) ∧
    reads .l 0x25500B1600C01000 (.ldvx g .va 5 17 .cp (.latch .by1) 0x401) ∧
    reads .l 0x2D600B1D5E401000 (.ldvg g .vb 5 17 (.reg 700) 0x401) ∧
    reads .l 0x35407B1F40000001 (.lds g 61 17 .gl .sw 0x40000001) ∧
    reads .l 0x3D500B1200200000 (.ldl g .va 5 17 0x1001) ∧
    reads .l 0x45600B1E00000400 (.ldgv g .vb 5 17 0x800001) ∧
    reads .l 0x4D407B15C0000001 (.ldacq g 61 17 .cp .d 0x40000001) ∧
    reads .l 0x5540011E00000400 (.pfg g 17 0x800001) ∧
    reads .l 0x5D48111A000C0400 (.ldmc g 0x81 17 .xs 0x4001 0x101) := by
  and_intros <;> decide

theorem test_words_store :
    reads .t 0xD4C028D0001 (.stv g .va (.latch .by2) 17 .xs 0x10001) ∧
    reads .t 0x1553FE8B0001 (.stvp g .vb 1022 17 .cp 0x10001) ∧
    reads .t 0x1D52BC88AF40 (.stvx g .vb (.reg 700) 17 .sp 701) ∧
    reads .t 0x254ABC8E8001 (.stvg g .va (.reg 700) 17 0x8001) ∧
    reads .t 0x254ABC8F57A0 (.stvgScatter g .va (.reg 700) 17 701) ∧
    reads .t 0x2D40408EA001 (.sts g (.latch .by0) 17 .gl .w 0x2001) ∧
    reads .t 0x355009890010 (.stl g .vb (.reg 9) 17 0x1001) ∧
    reads .t 0x3D48098DFE81 (.stsv g .va (.reg 9) 17 .xs 127 .b1 0x81) ∧
    reads .t 0x45403E8A6001 (.strel g (.reg 62) 17 .cp .h 0x2001) ∧
    reads .t 0x4D403E8B0010 (.ffill g (.reg 62) 17 0x1001) ∧
    reads .t 0x55403E8B0000 (.aadd g (.reg 62) 17 true false) ∧
    reads .t 0x5D403E8AC000 (.amin g (.reg 62) 17 false true true) ∧
    reads .t 0x65403E8B0000 (.amax g (.reg 62) 17 true false false) ∧
    reads .t 0x6D40418A8000 (.axchg g (.latch .by1) 17 false true) ∧
    reads .t 0x75403E8B9080 (.acas g (.reg 62) 33 17 true true) := by
  and_intros <;> decide

theorem test_words_engine :
    reads .x 0xD403E5007F8 (.xcp g (.s 62) (.vb (.latch .by1)) 127) ∧
    reads .x 0xD60092FA000 (.xcp g (.kb 9) (.va (.reg 1000)) 0) ∧
    reads .x 0xD781EA07400 (.xcp g (.xa 30) (.la 29) 0) ∧
    reads .x 0x157C10000000 (.cpy g 30 1) ∧
    reads .x 0x1D7C18100000 (.mc g 30 1 0x81) ∧
    reads .x 0x6D7C18000000 (.tinv g 30 1 .g1) ∧
    reads .x 0x257C18000000 (.stash g 30 1 .f8) ∧
    reads .x 0x2D7C16000000 (.spill g 30 1 .zb true) ∧
    reads .x 0x357C10000000 (.drop g 30 1) ∧
    reads .x 0x3D7C18000000 (.fetch g 30 1 true) ∧
    reads .x 0x457C10000000 (.wver g 30 1) ∧
    reads .x 0x4D7C18C20000 (.chsend g 30 1 17 33) ∧
    reads .x 0x557D08000000 (.chrecv g 30 33) ∧
    reads .x 0x5D6100000000 (.cheos g 33) ∧
    reads .x 0x657C18400000 (.redm g 30 1 33) ∧
    reads .x 0x757D00200000 (.engw g 30 0x801) ∧
    reads .x 0x7D6004000000 (.engr g 0x801) := by
  and_intros <;> decide

theorem test_words_sync :
    reads .y 0xD65C040 (.phreg g 9 .s true 0x101) ∧
    reads .y 0x15660000 (.phdrop g 9 true) ∧
    reads .y 0x1D640000 (.phsig g 9 false) ∧
    reads .y 0x25660000 (.phwait g 9 true) ∧
    reads .y 0x2D640000 (.phsw g 9 false) ∧
    reads .y 0x35740000 (.pbaseInit g 5) ∧
    reads .y 0x35400000 (.pbase g) ∧
    reads .y 0x3D608000 (.fwait g (.latch .by1)) ∧
    reads .y 0x45484000 (.dctrDec g 33) ∧
    reads .y 0x455841F8 (.dctrSet g 33 1 62) ∧
    reads .y 0x4D50817C (.spawn g 33 1 62) ∧
    reads .y 0x55400000 (.tend g) ∧
    reads .y 0x5D400000 (.tabort g) ∧
    reads .y 0x657F8000 (.frd g .transient) ∧
    reads .y 0x6544C000 (.frdOwn g (.reg 9)) ∧
    reads .y 0x6D400000 (.tokacq g) ∧
    reads .y 0x75400000 (.tokrel g) ∧
    reads .y 0x7D50C200 (.ntile g (.reg 33) (.latch .by2)) ∧
    reads .y 0x856A0000 (.fence g true false true false 8) ∧
    reads .y 0x8D604000 (.evwait g 0x81) := by
  and_intros <;> decide
/-! ### Witnesses: small states that meet the hypotheses of each statement, its clauses and their edges -/

/-- A program of team 1: main code with bundle starts, two overlays in two frames, pool and chip scratchpad allocations. -/
def prog : Program :=
  { codelen := 2, starts := [0, 2, 4, 0xFFFE], overlays := [(1, { frame := 0, lines := 2, next := 2 }), (2, { frame := 1, lines := 1 })],
    pool := 4096, xs := 4096, budgets := [(0, 500)] }

def theTask : Task :=
  { stage := 0, pasid := 1, kind := .f, tag := 7, key := { ts := 5, origin := 0, seq := 0 }, budget := 1000, full := 2000, state := .running }

def theStage : Stage := { valid := true, clusters := [0], team := 1, pasid := 1, starve := 100, prog := some prog, frontier := some 1 }

def theContext : Context := { phcount := 16, dccount := 16, xssize := 4096 }

/-- One core, number 0, that runs task 1 of stage 0 in context 1; the task is the frontier task unless the stage says otherwise. -/
def mach (k : Core) (t : Task := theTask) (st : Stage := theStage) (x : Context := theContext) : State :=
  { cores := [(0, { k with task := some 1 })], tasks := [(1, t)], stages := [(0, st)], contexts := [(1, x)], resetStep := 6, cycle := 5000 }

/-- The same machine while another task is the frontier task. -/
def spec (k : Core) (t : Task := theTask) : State := mach k t { theStage with frontier := some 9 }

/-- Scalar registers, one negative, one the least number. -/
def sregs : Core := { regs := { s := [(1, BitVec.ofInt 64 (-1)), (2, 70), (3, BitVec.intMin 64), (4, 2 ^ 32)], p := 0b100010 } }

def always : Guard := ⟨false, 0⟩

theorem witness_guards :
    (mach {}).cur.on always = true ∧ (mach {}).cur.on ⟨true, 5⟩ = true ∧ (mach sregs).cur.on ⟨true, 5⟩ = false ∧ (mach sregs).cur.on ⟨false, 5⟩ = true := by
  decide

/-- For ScalarResults, PredicateResults and ScalarProductsAndQuotients: amounts of 64 and more, a zero divisor, a divisor that is
none, and the quotient that does not fit. -/
theorem witness_scalar_operands :
    (mach sregs).cur.on always = true ∧ 64 ≤ ((mach sregs).cur.readS (.reg 2)).toNat ∧ ((mach sregs).cur.readS (.reg 3)).toInt < 0 ∧
    (mach sregs).cur.readS (.reg 0) = 0 ∧ (mach sregs).cur.readS (.reg 2) ≠ 0 ∧
    (mach sregs).cur.readS (.reg 3) = BitVec.intMin 64 ∧ (mach sregs).cur.readS (.reg 1) = BitVec.allOnes 64 := by decide

theorem witness_SelectsFollowTheirPredicate :
    (mach sregs).cur.on always = true ∧ (mach sregs).cur.readP 0 = true ∧ (mach sregs).cur.readP 1 = true ∧
    (mach sregs).cur.readP 15 = false ∧ (mach sregs).cur.on ⟨true, 0⟩ = false := by decide

theorem witness_GuardedOffDoesNothing :
    slotGuard (.halt ⟨true, 1⟩) = some ⟨true, 1⟩ ∧ (mach sregs).cur.on ⟨true, 1⟩ = false ∧
    slotGuard (.fence ⟨false, 2⟩ true true true true 8) = some ⟨false, 2⟩ ∧ (mach sregs).cur.on ⟨false, 2⟩ = false := by decide

/-- Results for `s0` and `s63` that are due, and one that is due in the next bundle. -/
theorem witness_ResultsLandInTheirBundle :
    let x : Result := { due := 4, slot := .s, dest := .s 0, val := 9, mask := 2 ^ 64 - 1 }
    let y : Result := { x with dest := .s 63 }
    let a := mach { seq := { flight := [x], stream := 4 } }
    let b := mach { seq := { flight := [y], stream := 9 } }
    let c := mach { seq := { flight := [y], stream := 3 } }
    (a.cur.seq.flight = [x] ∧ x.dest = .s 0 ∧ x.due ≤ a.cur.seq.stream ∧ x.flags = 0 ∧ x.bad = false ∧ a.cur.rcv.rerun = none) ∧
    (b.cur.seq.flight = [y] ∧ y.dest = .s 63 ∧ y.due ≤ b.cur.seq.stream ∧ y.flags = 0 ∧ b.cur.rcv.rerun = none) ∧
    ∀ z ∈ c.cur.seq.flight, c.cur.seq.stream < z.due := by
  refine ⟨⟨rfl, rfl, by decide, rfl, rfl, rfl⟩, ⟨rfl, rfl, by decide, rfl, rfl⟩, by decide⟩

/-- Targets at the first and the last word, a link with no loop and one with a loop open, and what is refused: an unmarked
target, a link of another depth, a target of 2^22, a loop break without a loop. -/
theorem witness_TransfersOfControl :
    let lp : Loop := { start := 0, last := 2, count := 3 }
    let a := mach { regs := { s := [(1, 2), (2, 2 ^ 24 + 0xFFFE), (3, 2 ^ 22)] }, seq := { pc := 4 } }
    let b := mach { regs := { s := [(2, 2 ^ 24 + 0xFFFE)] }, seq := { pc := 4, loops := [lp] } }
    (a.progOf a.turn).isStart 0 = true ∧ (a.progOf a.turn).isStart 0xFFFE = true ∧ a.cur.seq.pc + (0x3FFFFE : CodeAddr) = 2 ∧
    a.cur.seq.loops.length ≤ 7 ∧ (a.cur.readS (.reg 1)).toNat = a.cur.seq.loops.length * 2 ^ 24 + (2 : CodeAddr).toNat ∧
    (a.progOf a.turn).isStart 2 = true ∧ b.cur.seq.loops = [lp] ∧
    (b.cur.readS (.reg 2)).toNat = b.cur.seq.loops.length * 2 ^ 24 + (0xFFFE : CodeAddr).toNat ∧
    (a.progOf a.turn).isStart 3 = false ∧ (a.cur.readS (.reg 2)).toNat / 2 ^ 24 % 8 ≠ a.cur.seq.loops.length ∧
    2 ^ 22 ≤ (a.cur.readS (.reg 3)).toNat ∧ a.cur.seq.loops = [] := by decide

/-- A count of 2^32 - 1, a count of 0 whose two parts sum to 2^64, the three rules of the back edge, and a wait bundle. -/
theorem witness_LoopsAndWaits :
    let k : Core := { regs := { s := [(1, 2 ^ 32 - 1), (2, 2 ^ 64 - 1)] }, seq := { pc := 0, blen := 2 } }
    let a := mach k { theTask with } { theStage with prog := some { prog with code := [(4, 0)] } }
    let lp : Loop := { start := 0, last := 4, count := 2 }
    ((a.cur.readS (.reg 1)).toNat + (0 : CodeAddr).toNat) % 2 ^ 64 = 2 ^ 32 - 1 ∧
    ((a.cur.readS (.reg 2)).toNat + (1 : CodeAddr).toNat) % 2 ^ 64 = 0 ∧
    (BitVec.ofNat 22 (a.cur.seq.pc.toNat / 65536 * 65536 + (a.cur.seq.pc.toNat + a.cur.seq.blen) % 65536)).toNat = 2 ∧
    a.cur.seq.loops = [] ∧ (a.progOf a.turn).isStart 4 = true ∧ ((a.progOf a.turn).bundleAt 4).isSome = true ∧
    (let q : Seq := { pc := 4, loops := [lp] }; q.loops = [lp] ∧ lp.last = q.pc ∧ 1 < lp.count) ∧
    (let e : Loop := { lp with count := 1 }; let q : Seq := { pc := 4, loops := [e] }; e.last = q.pc ∧ e.count ≤ 1 ∧ q.loops = [e]) ∧
    lp.last ≠ (2 : CodeAddr) ∧ a.cur.seq.efault = none ∧ a.cur.seq.trapped = [] ∧ a.cur.seq.traceLeft = 0 ∧ a.cur.seq.next = none ∧
    (mach { seq := { next := some 2 } }).cur.seq.next = some 2 := by
  refine ⟨by decide, by decide, by decide, rfl, by decide, by decide, ⟨rfl, rfl, by decide⟩, ⟨rfl, by decide, rfl⟩, by decide, rfl, rfl, rfl, rfl, rfl⟩

/-- Writes at the edge of their reserved bits, a read-only and an unknown number, a trap of the frontier task and of a
speculative one, and pops of an empty queue, of a second word and of a record. -/
theorem witness_SystemRegistersTrapsAndHalts :
    let a := mach { regs := { s := [(1, 2 ^ 32 - 1), (2, 8 * 2 ^ 58), (3, 0x3F1F), (4, 3), (5, 2 ^ 32)] } }
    let r : EvRecord := { w0 := 2 ^ 63 + 2 ^ 59, w1 := 6, op := 1, seg := 0 }
    let e := mach { eng := { evq := [r] } }
    a.cur.on always = true ∧ a.cur.task = some 1 ∧ a.task? 1 = some theTask ∧ (a.cur.readS (.reg 1)).toNat < 2 ^ 32 ∧
    (a.cur.readS (.reg 2)).toNat / 2 ^ 58 % 16 ≤ 8 ∧ (a.cur.readS (.reg 3)).toNat < 2 ^ 14 ∧
    (a.cur.readS (.reg 3)).toNat / 32 % 8 = 0 ∧ a.cur.seq.raised = 0 ∧ (a.cur.readS (.reg 4)).toNat < 4 ∧ a.cur.seq.raisedStat = 0 ∧
    (0x042 : BitVec 12) ∈ ([0x000, 0x001, 0x002, 0x003, 0x004, 0x020, 0x041, 0x042] : List (BitVec 12)) ∧
    (0x005 : BitVec 12) ∉ ([0x000, 0x001, 0x002, 0x003, 0x004, 0x010, 0x011, 0x020, 0x030, 0x040, 0x041, 0x042] : List (BitVec 12)) ∧
    2 ^ 32 ≤ (a.cur.readS (.reg 5)).toNat ∧ (mach { seq := { inBundle := true } }).cur.seq.inBundle = true ∧
    a.cur.seq.inBundle = false ∧ a.speculative a.turn = false ∧ (spec {}).speculative 0 = true ∧ theTask.deferred = none ∧
    a.cur.eng.half = none ∧ a.cur.eng.evq = [] ∧ (mach { eng := { half := some 6 } }).cur.eng.half = some 6 ∧
    e.cur.eng.half = none ∧ e.cur.eng.evq = r :: [] ∧ recordFault r.w0 = none ∧ e.cur.eng.heldRecords = 0 := by
  and_intros <;> decide

/-- An overlay that is not there and one that is, a pin that leaves a frame and one that would leave none, and a copy that is
due with its frame free, and kept by a pin. -/
theorem witness_OverlaysComeAndStay :
    let a := mach { regs := { s := [(1, 2 ^ 16)] }, seq := { pc := 0x10000 } }
    let b := mach { regs := { s := [(1, 2 ^ 16)] }, resident := [1], pins := [2], copying := [(1, 4000)] }
    let o := (a.cur.readS (.reg 1)).toNat / 2 ^ 16 % 64
    a.cur.on always = true ∧ a.cur.task = some 1 ∧ o = 1 ∧ Table.get? (a.progOf a.turn).overlays o = some { frame := 0, lines := 2, next := 2 } ∧
    o ∉ a.cur.resident ∧ (∀ e ∈ a.cur.copying, e.1 ≠ o) ∧ o ∈ b.cur.resident ∧ a.coresOf 1 = [a.turn] ∧
    Table.get? (a.progOf a.turn).overlays 2 = some { frame := 1, lines := 1 } ∧ a.cur.seq.pc.toNat / 65536 = 1 ∧
    (∃ e ∈ (a.progOf a.turn).overlays, ¬ (e.2.frame = 0 ∨ ∃ e' ∈ (a.progOf a.turn).overlays, e'.1 ∈ a.cur.pins ∧ e'.2.frame = e.2.frame)) ∧
    (∀ e ∈ (b.progOf b.turn).overlays, e.2.frame = 0 ∨ ∃ e' ∈ (b.progOf b.turn).overlays, e'.1 ∈ b.cur.pins ∧ e'.2.frame = e.2.frame) ∧
    (∃ e ∈ (b.core 0).copying, e.1 = 1 ∧ e.2 ≤ b.cycle) ∧ (b.core 0).task = some 1 ∧ b.coresOf 1 = [0] ∧
    (∀ q ∈ (b.core 0).pins, ¬ (q ≠ 1 ∧ ∃ e ∈ (b.progOf 0).overlays, e.1 = q ∧ e.2.frame = 0)) ∧
    ¬ ((b.core 0).seq.pc.toNat / 65536 ≠ 1 ∧ ∃ e ∈ (b.progOf 0).overlays, e.1 = (b.core 0).seq.pc.toNat / 65536 ∧ e.2.frame = 0) ∧
    (let c := mach { copying := [(1, 4000)], pins := [3] } theTask { theStage with prog := some { prog with overlays := prog.overlays ++ [(3, { frame := 0, lines := 1 })] } }
     ∃ q ∈ (c.core 0).pins, q ≠ 1 ∧ ∃ e ∈ (c.progOf 0).overlays, e.1 = q ∧ e.2.frame = 0) := by
  and_intros <;> decide

def point : RewindPoint :=
  { cycle := 4000, seg := 0, stream := 0, pc := 0, loops := [], fpc := 0, fstat := 0, budget := 900, spawnSeq := 0, arr := {}, e := [],
    ys := {}, cyc := 0, lclock := 0 }

/-- A fresh entry, one that is not, with an older point; a marker at its threshold, in a rerun, and beyond its threshold with and
without the stop bit. -/
theorem witness_SegmentsAndMarkers :
    let a := mach { rcv := { fresh := false, rps := [point] }, seq := { cyc := 107 }, regs := { driftlim := 7 + 2 ^ 16 } }
    let b := mach { seq := { cyc := 108 }, regs := { driftlim := 7 + 2 ^ 16 } }
    let c := mach { seq := { cyc := 0 }, regs := { driftlim := 2 ^ 63 + 2 ^ 16 } }
    (mach {}).cur.rcv.rerun = none ∧ (mach {}).cur.rcv.fresh = true ∧ a.cur.rcv.rerun = none ∧ a.cur.rcv.fresh = false ∧
    a.cur.task = some 1 ∧ a.task? 1 = some theTask ∧ a.cur.rcv.rps.head? = some point ∧ a.turn < 192 ∧
    ((a.cur.seq.cyc : Int) - (100 : Word32).toNat).natAbs ≤ a.cur.regs.driftlim.toNat % 2 ^ 16 ∧
    2 * a.host.log.length + 2 ≤ 65536 ∧ a.host.dropped = 0 ∧
    (mach { rcv := { rerun := some { strike := 0 } } }).cur.rcv.rerun ≠ none ∧ b.cur.rcv.rerun = none ∧
    b.cur.regs.driftlim.toNat % 2 ^ 16 < ((b.cur.seq.cyc : Int) - (100 : Word32).toNat).natAbs ∧
    b.cur.regs.driftlim.toNat / 2 ^ 16 % 2 ^ 20 ≠ 0 ∧ b.cur.regs.driftlim.getLsbD 63 = false ∧
    c.cur.regs.driftlim.toNat % 2 ^ 16 < ((c.cur.seq.cyc : Int) - (1 : Word32).toNat).natAbs ∧
    c.cur.regs.driftlim.toNat / 2 ^ 16 % 2 ^ 20 ≠ 0 ∧ c.cur.regs.driftlim.getLsbD 63 = true := by
  and_intros <;> decide

theorem full_log_of (n : Nat) (h : 32768 ≤ n) :
    ∃ s : State, 65536 < 2 * s.host.log.length + 2 ∧ s.turn < 192 ∧ s.cur.rcv.rerun = none :=
  ⟨{ host := { log := List.replicate n { event := 0, stamp := 0, readableAt := none } } }, by simp only [List.length_replicate]; omega,
    Nat.zero_lt_succ _, rfl⟩

/-- A log without two free units: 32,768 pairs. -/
theorem witness_full_log : ∃ s : State, 65536 < 2 * s.host.log.length + 2 ∧ s.turn < 192 ∧ s.cur.rcv.rerun = none :=
  full_log_of 32768 (Nat.le_refl _)

def vec (o1 : Op1) (o2 : Op2) (o3 : Op3) (ty : VType) (aux : BitVec 4) (dst : VDst := .reg 7) : Chain :=
  { op1 := o1, op2 := o2, op3 := o3, dst := dst, a := .reg 1, b := .reg 2, c := .reg 3, k := 1, ty := ty, aux := aux }

/-- Chains for VectorChainIssues, VectorIntegerResults and VectorSelectAndPermute. -/
theorem witness_vector_chains :
    (mach {}).cur.on always = true ∧ (vec .pass .pass .xlg .i32 0).op3 = .xlg ∧ (vec .pass .pass .rsum .i32 1).aux.getLsbD 0 = true ∧
    (vec .pass .pass .rsum .i32 0).aux.getLsbD 0 = false ∧
    (vec .pass .icmp .pass .i32 7 (.reg 15)).dst = .reg 15 ∧ (15 : BitVec 10).toNat < 16 ∧ (7 : BitVec 4).toNat < 8 ∧
    (vec .imul .imaxu .pass .i32 0 .transient).op1 ∈ [Op1.pass, .and, .or, .xor, .imul] ∧
    (vec .imul .imaxu .pass .i32 0 .transient).op2 ∈ [Op2.pass, .iadd, .isub, .iminu, .imaxu] ∧
    (vec .pass .pass .sel .f32 0).op3 = .sel ∧ (vec .pass .pass .perm .f32 0).op3 = .perm ∧ (vec .pass .pass .sel .f32 0).op1 = .pass := by
  decide

/-- A LOG6 push inside a block, an FP32 push four bundles after another, the last index whose part fits, and the refused cases. -/
theorem witness_MatrixPushesAndBeats :
    let a := { mach { arr := { burst := true, lastF32 := some 6 }, seq := { stream := 10 } } with clusters := [(0, { hasToken := true })] }
    let b := mach { arr := { mblk := 5, lastF32 := some 7 }, seq := { stream := 10 } }
    let x : Slice := { beat := 3, plane := true, fmt := .f32, closing := false, tr := false, pair := 0, a := 0x3F800000, b := 0x3F800000 }
    let c := mach { arr := { wave := [x], beat := 3 } }
    a.cur.on always = true ∧ partFits (96 * (16380 : BitVec 14).toNat) (partSizes .f32).1 ∧ partFits (96 * (0 : BitVec 14).toNat) (partSizes .f32).2 ∧
    a.cur.arr.mblk = 0 ∧ a.cur.arr.lastF32 = some 6 ∧ 6 + 3 < a.cur.seq.stream ∧ (a.clu (a.turn / 8)).hasToken = true ∧
    a.cur.arr.burst = true ∧ a.cur.arr.wave = [] ∧ b.cur.arr.burst = false ∧ b.cur.arr.mblk ≠ 0 ∧
    (mach { arr := { lastF32 := some 7 }, seq := { stream := 10 } }).cur.seq.stream ≤ 7 + 3 ∧
    partFits (96 * (16382 : BitVec 14).toNat) (partSizes .bf16).1 ∧ ¬ partFits (96 * (16383 : BitVec 14).toNat) (partSizes .bf16).1 ∧
    c.cur.arr.wave = [x] ∧ x.beat = c.cur.arr.beat ∧ x.fmt = .f32 ∧ x.tr = false ∧ c.cur.arr.enabled 0 0 = true := by
  simp only [partFits]
  and_intros <;> decide

/-- Row 95 and row 96, the last drain region that fits and one that does not, the last mask and the edges of the scale loads. -/
theorem witness_MatrixDrainsMasksAndScales :
    (mach {}).cur.on always = true ∧ (∃ j, j < 96 ∧ (mach {}).cur.arr.enabled 95 j = true) ∧ (95 : BitVec 7).toNat < 96 ∧
    96 ≤ (96 : BitVec 7).toNat ∧ partFits (96 * (16380 : BitVec 14).toNat) 384 ∧ ¬ partFits (96 * (16383 : BitVec 14).toNat) 384 ∧
    16 * (98303 : BitVec 17).toNat + 12 ≤ 0x180000 ∧ (12287 : BitVec 14).toNat < 12288 ∧ 12288 ≤ (12288 : BitVec 14).toNat ∧
    32 * (49149 : BitVec 16).toNat + 96 ≤ 0x180000 ∧ 0x180000 < 32 * (49150 : BitVec 16).toNat + 96 := by
  simp only [partFits]
  refine ⟨by decide, ⟨0, by decide, by decide⟩, ?_⟩
  and_intros <;> decide
/-- Page tables for context 1: one readable and writable page of 1 GiB of kind RC at virtual address 0 (R336, R337). -/
def tables : Memory := [(0x200000, 0x01), (0x200002, 0x40), (0x400000, 0x1F), (0x400003, 0x40)]

def mapped (k : Core) : State := { mach k theTask theStage { theContext with ptroot := 0x200000 } with pmem := tables }

theorem page_of : ∀ a ∈ [0, 8, 128, 256, 384], translate (mapped {}) 1 a =
    some { pa := 0x40000000 + a, kind := 1, home := 0, r := true, w := true } := by decide

theorem no_translations (k : Core) : freshCaches (mach k) 1 :=
  fun _ e h => absurd (show (none : Option (Word64 × Nat)) = some e from h) nofun

theorem no_multicast : ∀ m : Ldmc, (none : Option Ldmc) = some m → m.wait = [] := nofun

theorem quiet_mach : quiet (mach {}) ∧ quiet (mapped {}) := by
  refine ⟨⟨no_translations {}, by decide, by decide, no_multicast, by decide, by decide, by decide, rfl, rfl, rfl, ?_, rfl, rfl⟩,
    ⟨fun va e h => absurd (show (none : Option (Word64 × Nat)) = some e from h) nofun, by decide, by decide, no_multicast, by decide, by decide,
      by decide, rfl, rfl, rfl, ?_, rfl, rfl⟩⟩ <;>
  · intro t h
    have e : some theTask = some t := h
    cases e
    rfl

/-- A vector load at the end of the scratchpad, one of the pool, one of the chip scratchpad and one of global memory. -/
theorem witness_LoadsReadTheirLevel_vectors :
    (∃ A B, let i : Instr := .ldv always .va 1023 0 .sp 24572
      slotGuard i = some always ∧ i.wf = true ∧ vectorLoad i (mach {}) = some (.va, 1023, .sp, 128, A) ∧ (mach {}).cur.on always = true ∧
      (∀ j, j * 128 < 512 → A (j * 128) % 128 = 0) ∧ readsNow (mach {}) .sp 512 128 A B) ∧
    (∃ A B, let i : Instr := .ldvt always .vb 0 0 .cp 1 .b2 7
      slotGuard i = some always ∧ i.wf = true ∧ vectorLoad i (mach {}) = some (.vb, 0, .cp, 2, A) ∧
      (∀ j, j * 2 < 512 → A (j * 2) % 2 = 0) ∧ readsNow (mach {}) .cp 512 2 A B) ∧
    (∃ A B, let i : Instr := .ldv always .va 5 0 .xs 28
      slotGuard i = some always ∧ i.wf = true ∧ vectorLoad i (mach {}) = some (.va, 5, .xs, 128, A) ∧
      (∀ j, j * 128 < 512 → A (j * 128) % 128 = 0) ∧ readsNow (mach {}) .xs 512 128 A B) ∧
    (∃ A B, let i : Instr := .ldgv always .va 5 0 0
      slotGuard i = some always ∧ i.wf = true ∧ vectorLoad i (mapped {}) = some (.va, 5, .gl, 128, A) ∧
      (∀ j, j * 128 < 512 → A (j * 128) % 128 = 0) ∧ readsNow (mapped {}) .gl 512 128 A B) := by
  refine ⟨⟨fun k => 3145216 + k, fun k => (mach {}).cur.sp.read (3145216 + k), rfl, rfl, rfl, rfl, fun j _ => ?_, fun k h => ⟨?_, rfl⟩⟩,
    ⟨fun k => ((mach {}).cur.readLA 0 + BitVec.ofInt 64 ((7 : BitVec 17).toInt * 2) + BitVec.ofNat 64 (k / 2) * (mach {}).cur.readLA 1).toNat + k % 2,
      fun k => ((mach {}).clu 0).pool.read _, rfl, rfl, rfl, fun j _ => ?_, rfl, fun k _ => ⟨?_, rfl⟩⟩,
    ⟨fun k => 3584 + k, fun k => (mach {}).xs.read (0 + (3584 + k)), rfl, rfl, rfl, fun j _ => ?_, quiet_mach.1, fun k h => ⟨?_, rfl⟩⟩,
    ⟨fun k => 0 + k, fun k => (mapped {}).pmem.read (0x40000000 + k), rfl, rfl, rfl, fun j _ => ?_, quiet_mach.2, fun k h w => ?_⟩⟩
  · show (3145216 + j * 128) % 128 = 0; omega
  · show 3145216 + k < 0x300000; omega
  · have z : (mach {}).cur.readLA 1 = 0 := rfl
    have z0 : (mach {}).cur.readLA 0 = 0 := rfl
    simp only [z, z0]
    show (14 + j * 2 % 2) % 2 = 0; omega
  · have z : (mach {}).cur.readLA 1 = 0 := rfl
    have z0 : (mach {}).cur.readLA 0 = 0 := rfl
    simp only [z, z0]
    show 14 + k % 2 < 4096; omega
  · show (3584 + j * 128) % 128 = 0; omega
  · show 3584 + k < 4096; omega
  · show (0 + j * 128) % 128 = 0; omega
  · have e : k = 0 ∨ k = 128 ∨ k = 256 ∨ k = 384 := by omega
    refine ⟨_, page_of (0 + k) (by rcases e with rfl | rfl | rfl | rfl <;> decide), rfl, rfl, by show (1 : Nat) ≠ 2; decide, ?_, fun j _ => ?_⟩
    · show 0x40000000 + (0 + k) + 128 ≤ 0x20000000000; omega
    · show _ = (mapped {}).pmem.read (0x40000000 + (0 + k) + j); rw [Nat.zero_add, Nat.add_assoc]

theorem lane_zero (l : Nat) : lane (0 : Vec) l = 0 := by
  unfold lane bits
  rw [show (0 : Vec).toNat = 0 from (BitVec.toNat_ofNat 0 4096).trans (Nat.zero_mod _)]
  simp

/-- A gather whose index register is a latch, and a pair load and scalar loads at the edges. -/
theorem witness_LoadsReadTheirLevel_others :
    (∃ A, vectorLoad (.ldvx always .va 5 0 .sp (.latch .by1) 1) (mach {}) = some (.va, 5, .sp, 4, A) ∧
      (∀ j, j < 128 → A (j * 4) % 4 = 0) ∧ A 511 < 0x300000) ∧
    readsNow (mach {}) .sp 1024 128 (fun k => 3144704 + k) (fun k => (mach {}).cur.sp.read (3144704 + k)) ∧
    readsNow (mapped {}) .gl 8 8 (fun k => 8 + k) (fun k => (mapped {}).pmem.read (0x40000008 + k)) ∧
    readsNow (mach {}) .cp 1 1 (fun k => 4095 + k) (fun k => ((mach {}).clu 0).pool.read (4095 + k)) := by
  refine ⟨⟨fun k => ((0 : Word64) + 4 + (lane (0 : Vec) (k / 4)).setWidth 64).toNat + k % 4, rfl, fun j _ => ?_, ?_⟩,
    fun k h => ⟨by show 3144704 + k < 0x300000; omega, rfl⟩, ⟨quiet_mach.2, fun k h w => ?_⟩, rfl, fun k h => ⟨?_, rfl⟩⟩
  · simp only [lane_zero]; show (4 + j * 4 % 4) % 4 = 0; omega
  · simp only [lane_zero]; decide
  · have e : k = 0 := by omega
    subst e
    exact ⟨_, page_of 8 (by decide), rfl, rfl, by decide, by decide, fun j _ => by show _ = (mapped {}).pmem.read (0x40000000 + 8 + j); rw [Nat.zero_add]⟩
  · show 4095 + k < 4096; omega

/-- Lane-slice offsets at the end, misaligned and beyond it; loads that are refused; prefetches. -/
theorem witness_LoadsReadTheirLevel_refused :
    let s := mach { regs := { la := [(1, 1), (2, 0x300000 - 384)] } }
    (s.cur.readLA 0 + BitVec.ofNat 64 (0x1FFC : BitVec 13).toNat).toNat % 4 = 0 ∧
    (s.cur.readLA 0 + BitVec.ofNat 64 (0x1FFC : BitVec 13).toNat).toNat + 4 ≤ 0x2000 ∧
    (s.cur.readLA 1 + BitVec.ofNat 64 (0 : BitVec 13).toNat).toNat % 4 ≠ 0 ∧
    (s.cur.readLA 1 + BitVec.ofNat 64 (0x1FFF : BitVec 13).toNat).toNat = 0x2000 ∧
    (∃ A, vectorLoad (.ldv always .va 5 1 .sp 0) s = some (.va, 5, .sp, 128, A) ∧ ∃ j, j * 128 < 512 ∧ A (j * 128) % 128 ≠ 0) ∧
    (∃ A, vectorLoad (.ldv always .va 5 2 .sp 0) s = some (.va, 5, .sp, 128, A) ∧ (∀ j, j < 4 → A (j * 128) % 128 = 0) ∧
      ∃ k, k < 512 ∧ s.levelBound s.turn .sp ≤ A k) ∧
    (s.cur.readLA 2 + BitVec.ofInt 64 ((0 : BitVec 24).toInt * 128)).toNat % 128 = 0 ∧
    (s.cur.readLA 1 + BitVec.ofInt 64 ((0 : BitVec 24).toInt * 128)).toNat % 128 ≠ 0 := by
  refine ⟨by decide, by decide, by decide, by decide, ⟨_, rfl, 0, by decide, by decide⟩, ⟨_, rfl, by decide, 511, by decide, by decide⟩, by decide, by decide⟩

theorem witness_MulticastLoads :
    let s := mach { regs := { la := [(1, 1)] } }
    s.cur.on always = true ∧ (s.cur.readLA 0).toNat % 128 = 0 ∧ (1 : Byte).toNat < 2 ^ (s.stage (s.stageOf s.turn)).team ∧
    s.cur.eng.ldmc = none ∧ readsNow s .sp (128 * 512) 128 (fun k => 0 + k) (fun k => s.cur.sp.read (0 + k)) ∧
    (s.cur.readLA 1).toNat % 128 ≠ 0 ∧ 2 ^ (s.stage (s.stageOf s.turn)).team ≤ (2 : Byte).toNat := by
  refine ⟨rfl, by decide, by decide, rfl, fun k h => ⟨by show 0 + k < 0x300000; omega, rfl⟩, by decide, by decide⟩

/-- An interlocked load whose time has come and one a cycle early; data that waits for another cluster, and data that does not. -/
theorem witness_LoadsLandLater :
    let x : GLoad := { id := 3, dest := .s 4, val := 9, mask := 2 ^ 64 - 1, reads := [], issued := 2, readyAt := 5000, seg := 0 }
    let a := mach { seq := { gloads := [x], flight := [{ due := 9, slot := .s, dest := .s 4, val := 0, mask := 0, issued := 2 }] } }
    let y : GLoad := { x with readyAt := 5001 }
    let r : Result := { due := 9, slot := .l, dest := .s 4, val := 0, mask := 0, wait := [(0, 256, 8)] }
    let w : Held := { w := { xs := true, addr := 256, bytes := [1, 2, 3, 4, 5, 6, 7, 8], core := 8, seg := 0 }, pasid := 1, stage := 0, key := {} }
    let b := { mach { seq := { flight := [r] } } with clusters := [(1, { held := [w] })] }
    let c := mach { seq := { flight := [r] } }
    ((a.core 0).seq.gloads.find? (fun z => z.id == 3) = some x ∧ x.readyAt ≤ a.cycle ∧ x.reads = [] ∧
      ∀ z ∈ (a.core 0).seq.flight, z.dest = x.dest → x.issued ≤ z.issued) ∧
    ((mach { seq := { gloads := [y] } }).core 0).seq.gloads.find? (fun z => z.id == 3) = some y ∧ (mach {}).cycle < y.readyAt ∧
    ((b.core 0).seq.flight = [r] ∧ r.wait = [(0, 256, 8)] ∧ r.signed = false ∧ (b.core 0).eng.ldmc = none ∧
      ∃ e ∈ b.clusters, e.1 ≠ 0 / 8 ∧ ∃ h ∈ e.2.held, h.stage = b.stageOf 0 ∧ h.pasid = b.pasidOf 0 ∧ h.since ≠ b.cycle ∧ h.w.xs = true ∧ h.w.addr = 256 ∧ h.w.bytes.length = 8) ∧
    ((c.core 0).seq.flight = [r] ∧ (∀ e ∈ c.clusters, e.2.held = []) ∧ (c.clu (0 / 8)).held = [] ∧ (c.core 0).eng.unWrites = [] ∧
      c.taskOf 0 = some theTask ∧ theTask.wlog = [] ∧ r.val = 0) := by
  and_intros <;> decide

/-- Stores at the end of the scratchpad and of the pool, of the slices and of a future with a waiting core, and refused fills. -/
theorem witness_StoresOnTheCluster :
    let s := { mach { regs := { ta := [(1, 0x300000 - 512), (2, 4080), (3, 4096), (4, 1)] } } with
      clusters := [(0, { waits := [{ cell := 4080, tid := 1, rank := 0 }] })] }
    (∃ A v, let i : Instr := .stv always .va (.reg 3) 1 .sp 0
      slotGuard i = some always ∧ s.cur.on always = true ∧ i.wf = true ∧ storedBytes i s = some (.sp, 512, 128, A, v) ∧ goesAtOnce i s ∧
      (∀ k, k < 512 → k % 128 = 0 → A k % 128 = 0) ∧ ∀ k, k < 512 → A k < 0x300000 ∧ notReadFirst s 0 (A k)) ∧
    (∃ A v, let i : Instr := .strel always (.reg 3) 2 .cp .d 8
      slotGuard i = some always ∧ i.wf = true ∧ storedBytes i s = some (.cp, 8, 8, A, v) ∧ goesAtOnce i s ∧
      (∀ k, k < 8 → k % 8 = 0 → A k % 8 = 0) ∧ ∀ k, k < 8 → A k < s.poolBound s.turn ∧ notReadFirst s 1 (A k)) ∧
    ((s.cur.readTA 0 + BitVec.ofNat 64 (0x1FFC : BitVec 13).toNat).toNat % 4 = 0 ∧
      (s.cur.readTA 0 + BitVec.ofNat 64 (0x1FFC : BitVec 13).toNat).toNat + 4 ≤ 0x2000 ∧ notReadFirst s 2 0x1FFC) ∧
    (let ea := (s.cur.readTA 2 + BitVec.ofInt 64 ((0 : BitVec 13).toInt * 16)).toNat
     ea % 16 = 0 ∧ ea + 16 ≤ s.poolBound s.turn ∧ notReadFirst s 1 ea ∧ (∃ e ∈ (s.clu 0).waits, e.cell = ea) ∧
     (∃ x ∈ s.cores, x.2.task = some 1 ∧ x.2.rank = 0) ∧ ∀ x ∈ s.cores, x.2.task = some 1 → x.2.rank = 0 → x.1 = 0) ∧
    (s.cur.readTA 4 + BitVec.ofInt 64 ((0 : BitVec 13).toInt * 16)).toNat % 16 ≠ 0 ∧
    s.poolBound s.turn < (s.cur.readTA 3 + BitVec.ofInt 64 ((0 : BitVec 13).toInt * 16)).toNat + 16 := by
  refine ⟨⟨_, _, rfl, rfl, rfl, rfl, trivial, fun k h w => ?_, fun k h => ⟨?_, rfl, fun _ => rfl⟩⟩,
    ⟨_, _, rfl, rfl, rfl, ⟨rfl, rfl⟩, fun k h w => ?_, fun k h => ⟨?_, rfl, fun _ => rfl⟩⟩, ⟨by decide, by decide, rfl, fun _ => rfl⟩,
    ⟨by decide, by decide, ⟨rfl, fun _ => rfl⟩, by decide, by decide, by decide⟩, by decide, by decide⟩
  · show (3145216 + k) % 128 = 0; omega
  · show 3145216 + k < 0x300000; omega
  · show (4088 + k) % 8 = 0; omega
  · show 4088 + k < 4096; omega

/-- A committed store of the chip scratchpad, one of global memory, a speculative one whose line is the core's own, and the stores
that are refused: misaligned, past the pool, and of a granule read first. -/
theorem witness_StoresBeyondTheCluster :
    let s := mapped {}
    let k : Task := { theTask with lines := [{ gran := 1, rd := false, wr := true, core := 0 }] }
    let z := spec {} k
    (∃ A v P, let i : Instr := .sts always (.reg 3) 0 .gl .d 8
      slotGuard i = some always ∧ s.cur.on always = true ∧ i.wf = true ∧ storedBytes i s = some (.gl, 8, 8, A, v) ∧
      (∀ j, j < 8 → j % 8 = 0 → A j % 8 = 0) ∧ storesTo s .gl 8 8 A P ∧ s.cur.task = some 1 ∧ s.task? 1 = some theTask ∧
      s.cur.eng.unWrites = [] ∧ freshCaches s (s.pasidOf s.turn) ∧ s.speculative s.turn = false ∧ (s.stage (s.stageOf s.turn)).burstEnd ≤ s.cycle ∧
      (s.clu (s.turn / 8)).held.length + 256 ≤ 16384 ∧ theTask.wlog = []) ∧
    (∃ A v P, let i : Instr := .sts always (.reg 3) 0 .xs .d 8
      storedBytes i z = some (.xs, 8, 8, A, v) ∧ storesTo z .xs 8 8 A P ∧ z.task? 1 = some k ∧ z.speculative z.turn = true ∧ freshCaches z (z.pasidOf z.turn) ∧
      z.cur.seq.fronted = false ∧
      ∀ j, j < 8 → ownsLine z k true (P j)) ∧
    (let t := mach { regs := { ta := [(1, 4089), (2, 4096)] }, rcv := { seen := [(3 * 4, true), (3 * 5 + 1, true)] }, seq := { inBundle := true } }
     (∃ A v, storedBytes (.sts always (.reg 3) 1 .cp .d 0) t = some (.cp, 8, 8, A, v) ∧ ∃ k, k < 8 ∧ k % 8 = 0 ∧ A k % 8 ≠ 0) ∧
     (∃ A v, storedBytes (.sts always (.reg 3) 2 .cp .d 0) t = some (.cp, 8, 8, A, v) ∧ (∀ k, k < 8 → k % 8 = 0 → A k % 8 = 0) ∧
       ∃ k, k < 8 ∧ t.levelBound t.turn .cp ≤ A k) ∧
     (∃ A v, storedBytes (.sts always (.reg 3) 0 .sp .d 512) t = some (.sp, 8, 8, A, v) ∧ (∀ k, k < 8 → A k < 0x300000) ∧
       ∃ k, k < 8 ∧ Table.get t.cur.rcv.seen false (3 * (A k / 128)) = true) ∧
     (∃ A v, storedBytes (.sts always (.reg 3) 0 .cp .d 640) t = some (.cp, 8, 8, A, v) ∧ (∀ k, k < 8 → A k < t.poolBound t.turn) ∧
       ∃ k, k < 8 ∧ Table.get t.cur.rcv.seen false (3 * (A k / 128) + 1) = true) ∧
     t.cur.seq.inBundle = true ∧ t.cur.seq.efault = none ∧
     (t.cur.readTA 1 + BitVec.ofNat 64 (0 : BitVec 13).toNat).toNat % 4 ≠ 0 ∧
     0x2000 < (t.cur.readTA 2 + BitVec.ofNat 64 (0x1000 : BitVec 13).toNat).toNat + 4) := by
  refine ⟨⟨fun k => 8 + k, 0, fun k => 0x40000008 + k, rfl, rfl, rfl, rfl, fun j h w => by show (8 + j) % 8 = 0; omega, fun k h w => ?_, rfl, rfl, rfl,
      fun _ e h => absurd (show (none : Option (Word64 × Nat)) = some e from h) nofun, rfl,
      by decide, by decide, rfl⟩,
    ⟨fun k => 8 + k, 0, fun k => 0 + (8 + k), rfl, fun j h => ⟨?_, rfl⟩, rfl, rfl,
      fun _ e h => absurd (show (none : Option (Word64 × Nat)) = some e from h) nofun, rfl, fun j h => ⟨_, List.mem_singleton.2 rfl, rfl, ?_⟩⟩,
    ⟨_, _, rfl, by decide⟩, ⟨_, _, rfl, by decide, by decide⟩, ⟨_, _, rfl, by decide, by decide⟩, ⟨_, _, rfl, by decide, by decide⟩, rfl, rfl, by decide, by decide⟩
  · have e : k = 0 := by omega
    subst e
    exact ⟨_, page_of 8 (by decide), rfl, rfl, rfl, by decide, fun j _ => by show 0x40000008 + (0 + j) = 0x40000000 + 8 + j; omega⟩
  · show 8 + j < 4096; omega
  · show 1 = 2 * ((0 + (8 + j)) / 128) + 1; omega

/-- A word at the end of the pool, a misaligned and a foreign one; an atomic that is strike-clear, with its record, and one that
is not. -/
theorem witness_PoolAtomics :
    let s := mach { regs := { ta := [(1, 4092), (2, 2), (3, 4096)] } }
    let x : Atomic := { core := 0, tid := 1, seg := 0, clearAt := some 5000, kind := .cas, bytes := 4, addr := 16, v := 7, cmp := 0, ret := true, bundle := 0 }
    let a := mach { eng := { atomics := [x] } }
    let b := mach { eng := { atomics := [{ x with clearAt := some 5001 }] } }
    atomicForm (.amin always (.reg 1) 1 false true true) s = some (.minU, 0, 1, false, true, 0) ∧
    (s.cur.readTA 1).toNat % 4 = 0 ∧ (s.cur.readTA 1).toNat + 4 ≤ s.poolBound s.turn ∧ (s.cur.readTA 2).toNat % 4 ≠ 0 ∧
    (s.cur.readTA 3).toNat % 4 = 0 ∧ s.poolBound s.turn < (s.cur.readTA 3).toNat + 4 ∧ (a.core 0).eng.atomics = x :: [] ∧
    x.atCommit = false ∧ x.bytes = 4 ∧ atomicResult x.kind x.bytes ((a.clu 0).pool.readLE x.addr x.bytes) x.v.toNat x.cmp.toNat = some 7 ∧
    (∀ y ∈ ([] : List Atomic), y.id ≠ x.id) ∧
    (∃ τ, x.clearAt = some τ ∧ τ ≤ a.cycle) ∧ x.ret = true ∧ (a.core 0).task = some x.tid ∧ a.task? x.tid = some theTask ∧
    theTask.run = x.run ∧ theTask.leaving = none ∧ (a.core 0).eng.evq.length < 128 ∧
    (b.core 0).eng.atomics = [{ x with clearAt := some 5001 }] ∧ b.cycle < 5001 := by
  refine ⟨rfl, by decide, by decide, by decide, by decide, by decide, rfl, rfl, rfl, by decide, by decide, ⟨5000, rfl, by decide⟩, rfl, rfl, rfl, rfl, rfl, by decide, rfl, by decide⟩

def heldWrite : Held := { w := { xs := true, addr := 256, bytes := [1, 0], core := 0, seg := 0, clearAt := some 5000 }, pasid := 1, stage := 0, key := {} }

/-- A held write that is strike-clear and one that is not; requests for a bank that no bundle holds, and
for one that it holds with slack left and with none left, behind one that is not refused. -/
theorem witness_HeldWritesAndBankRequests :
    let a := { mach {} with clusters := [(0, { held := [heldWrite] })] }
    let b := { mach {} with clusters := [(0, { held := [{ heldWrite with w := { heldWrite.w with clearAt := some 5001 } }] })] }
    let p : Program := { prog with slack := [(0, 2)] }
    let c := mach { eng := { requests := [{ bank := 3 }, { bank := 11, refusals := 1 }] } } theTask { theStage with prog := some p }
    let e := mach { eng := { requests := [{ bank := 3 }, { bank := 11, refusals := 2 }] } } theTask { theStage with prog := some p }
    let holds := fun (b : Nat) => b == 11
    (a.clu 0).held = [heldWrite] ∧ (∃ τ, heldWrite.w.clearAt = some τ ∧ τ ≤ a.cycle) ∧ a.viral = false ∧ heldWrite.w.xs = true ∧
    heldWrite.w.so = false ∧ heldWrite.w.rel = false ∧ (∀ e ∈ a.clusters, e.1 ≠ 0 → e.2.held = []) ∧ (∀ e ∈ a.clusters, e.1 = 0 → e.2.held = [heldWrite]) ∧
    (∀ e ∈ a.tasks, e.2.wlog = []) ∧ (let k := a.core heldWrite.w.core; k.eng.copyQ = [] ∧ k.eng.stashQ = [] ∧ k.eng.chanQ = [] ∧ k.eng.ldmc = none ∧ k.seq.flight = [] ∧ k.seq.gloads = []) ∧ (b.clu 0).held.map (·.w.clearAt) = [some 5001] ∧ b.cycle < 5001 ∧
    (∀ r ∈ ((mach { eng := { requests := [{ bank := 3 }] } }).core 0).eng.requests, holds r.bank = false) ∧
    (c.core 0).eng.requests = [{ bank := 3 }] ++ { bank := 11, refusals := 1 } :: [] ∧ holds 3 = false ∧ holds 11 = true ∧
    1 < (c.progOf 0).slackAt (c.core 0).seq.pc ∧ (e.core 0).eng.requests = [{ bank := 3 }] ++ { bank := 11, refusals := 2 } :: [] ∧
    (e.progOf 0).slackAt (e.core 0).seq.pc ≤ 2 := by
  refine ⟨by decide, ⟨5000, rfl, by decide⟩, ?_⟩
  and_intros <;> decide

/-- A scratchpad that holds the shape record of four INT32 elements at offset 1024 (R225), at offset 0. -/
def shapes : Memory := [(1, 4), (9, 7), (10, 1), (16, 4), (20, 1), (24, 1), (28, 1), (32, 1)]

/-- Register copies; a copy, a drop and a register read that are issued; a full queue, a refused record and a held fetch. -/
theorem witness_EngineCommandsIssue :
    let s := mach { sp := shapes, regs := { xa := [(1, 2 ^ 38 - 1), (2, 64)] } }
    let o : EngOp := { id := 1, cmd := .drop 4 0, core := 0, tid := 1, addr := 0, seg := 0 }
    let q := mach { eng := { stashQ := [o, { o with id := 2 }] }, regs := { xa := [(1, 2 ^ 38 - 1)] } }
    let h := mach { sp := shapes } theTask theStage { theContext with stash := [{ key := 0, state := .pending }] }
    Instr.wf (.xcp always (.s 3) (.va (.reg 4)) 127) = true ∧ Instr.wf (.xcp always (.kb 3) (.va (.latch .by0)) 0) = true ∧
    (commandOf (.cpy always 0 0) s).isSome = true ∧ Instr.wf (.cpy always 0 0) = true ∧ slotGuard (.cpy always 0 0) = some always ∧
    commandOf (.drop always 0 1) s = some (.drop (2 ^ 38 - 1) 0) ∧ s.cur.seq.verdict = .ok ∧ (s.cur.eng.queue 1).length < 2 ∧
    commandOf (.engr always 0x110) s = some (.engr 0x110) ∧ commandOf (.drop always 0 1) q = some (.drop (2 ^ 38 - 1) 0) ∧
    queueNo (.drop (2 ^ 38 - 1) 0) = 1 ∧ 2 ≤ (q.cur.eng.queue 1).length ∧ s.shapeAt 2 = none ∧ (h.shapeAt 0).isSome = true ∧
    (h.cur.readXA 3).toNat < 2 ^ 39 ∧ (h.ctx (h.pasidOf h.turn)).entry? (h.cur.readXA 3).toNat = some { key := 0, state := .pending } ∧
    (s.ctx (s.pasidOf s.turn)).entry? (2 ^ 38 - 1) = none ∧ (s.ctx (s.pasidOf s.turn)).stash.length < 8192 := by
  and_intros <;> decide

def fourInts : Shape := { base := 1024, lvl := 0, fmt := 7, sizes := [4, 1, 1, 1, 1], strides := [0, 0, 0, 0, 0] }

def copyOp (d : Shape) : EngOp := { id := 1, cmd := .copy d fourInts none, core := 0, tid := 1, addr := 0, seg := 0 }

/-- A copy that has not started, one that is due, one whose scale tiles broke the rules, and an invalidation. -/
theorem witness_CopiesAndInvalidationsComplete :
    let d : Shape := { fourInts with base := 2048 }
    let o : EngOp := { copyOp d with started := true, doneAt := 5000, elems := [(1, 0), (2, 0), (3, 0), (4, 0)] }
    let t : EngOp := { copyOp d with cmd := .tinv 0 1 .k4 }
    let s := mach { eng := { copyQ := [o] } }
    (copyOp d).started = false ∧ fourInts.lvl < 2 ∧ d.lvl < 2 ∧ (copyOp d).cmd = .copy d fourInts none ∧ (copyOp d).complete = false ∧
    (s.core 0).eng.copyQ = o :: [] ∧ o.started = true ∧ o.doneAt ≤ s.cycle ∧ (s.core 0).eng.evq.length < 128 ∧ o.status = 0 ∧
    ((copyBytes d fourInts o.elems).1).length = 16 ∧ ((copyBytes d fourInts o.elems).1.map (·.1)).Nodup ∧
    (∀ x ∈ (copyBytes d fourInts o.elems).1, 0 ≤ x.1 ∧ x.1 < 0x300000 ∧
      Table.get (s.core 0).rcv.seen false (3 * (x.1.toNat / 128)) = false ∧ Table.get (s.core 0).rcv.prevSeen false (3 * (x.1.toNat / 128)) = false) ∧
    ({ o with status := 0x45 } : EngOp).status = 0x45 ∧ t.cmd = .tinv 0 1 .k4 ∧
    (∀ e ∈ (mach { eng := { copyQ := [t] } }).cores, ∀ x ∈ e.2.eng.copyQ, t.id ≤ x.id ∨ x.complete = true) := by
  and_intros <;> decide

set_option maxRecDepth 10000 in
/-- A stash and a drop of the frontier task that are strike-clear; a spill and a return that end, and before their end; fetches
of an absent and of a dropped entry, and one of an entry with the format and extents of its record. -/
theorem witness_StashEntries :
    let e : StashEntry := { key := 5, state := .pending, op := 1 }
    let o : EngOp := { id := 1, cmd := .stash 5 fourInts .raw, core := 0, tid := 1, addr := 0, seg := 0, clearAt := some 5000, started := true,
                       doneAt := 4999,
                       elems := [(1, 0), (2, 0), (3, 0), (4, 0)] }
    let x : Context := { theContext with stash := [e], starena := 1 }
    let s := mach { eng := { stashQ := [o] } } theTask theStage x
    let k : StashEntry := { key := 6, state := .kept, moveAt := some 5000 }
    let r : StashEntry := { key := 7, state := .returning, moveAt := some 5001 }
    let m := mach {} theTask theStage { theContext with stash := [k, r, { key := 8, state := .dropped, handle := 3 }] }
    let f : EngOp := { o with cmd := .fetch 9 fourInts false }
    let w : StashEntry := { key := 9, state := .kept, mode := .raw, fmt := 7, sizes := fourInts.logical, stored := [1, 0, 0, 0, 2, 0, 0, 0, 3, 0, 0, 0, 4, 0, 0, 0] }
    let n := mach { eng := { stashQ := [f] } } theTask theStage { theContext with stash := [w] }
    (s.core 0).eng.stashQ = o :: [] ∧ o.complete = false ∧ o.sent = false ∧ o.doneAt ≠ 0 ∧ o.doneAt ≤ s.cycle ∧ o.clearAt = some 5000 ∧ s.isFrontier o.tid = true ∧
    (s.core 0).eng.evq.length < 128 ∧ fourInts.badScale = false ∧ (s.ctx (s.pasidOf 0)).entry? 5 = some e ∧
    (s.ctx (s.pasidOf 0)).arenaUsed + (s.ctx (s.pasidOf 0)).claimed o.id + ((padTo 128 (streamBytes fourInts.fmt (o.elems.map (·.1)))).length + 127) / 128 ≤ (s.ctx (s.pasidOf 0)).arenaUnits ∧
    (m.ctx 1).entry? 6 = some k ∧ k.moveAt = some 5000 ∧ 5000 ≤ m.cycle ∧ 6 ∉ m.fetchedKeys 1 ∧ (m.ctx 1).entry? 7 = some r ∧ r.state = .returning ∧ m.cycle < 5001 ∧
    f.cmd = .fetch 9 fourInts false ∧ f.doneAt ≤ m.cycle ∧ (m.ctx (m.pasidOf 0)).entry? 9 = none ∧
    (m.ctx (m.pasidOf 0)).entry? 8 = some { key := 8, state := .dropped, handle := 3 } ∧
    (n.core 0).eng.stashQ = f :: [] ∧ (n.ctx (n.pasidOf 0)).entry? 9 = some w ∧ w.state ≠ .dropped ∧ fourInts.fmt = w.fmt ∧
    fourInts.logical = w.sizes ∧ fourInts.lvl = 0 ∧ (fourInts.placeCodes w.decode.1).length = 16 ∧
    ((fourInts.placeCodes w.decode.1).map (·.1)).Nodup ∧
    (∀ x ∈ fourInts.placeCodes w.decode.1, 0 ≤ x.1 ∧ x.1 < 0x300000 ∧ Table.get (n.core 0).rcv.seen false (3 * (x.1.toNat / 128)) = false ∧
      Table.get (n.core 0).rcv.prevSeen false (3 * (x.1.toNat / 128)) = false) := by
  and_intros <;> decide

def frame (addr : Word64) : Frame := { seq := 0, pasid := 1, addr := addr, tag := 9 }

theorem served_frame (a : Word64) : isServed (mach {}) (frame a) := ⟨rfl, rfl, rfl, rfl⟩

/-- An unknown number, a refused value, a value that waits and one that is taken, from a program and from the host, and a register
read that is due. -/
theorem witness_EngineRegisters :
    let s := mach { regs := { xa := [(1, 2 ^ 57), (2, 4096)] } }
    let o : EngOp := { id := 1, cmd := .engr 0x110, core := 0, tid := 1, addr := 0, seg := 0, doneAt := 5000 }
    let r := mach { eng := { regQ := [o] } }
    engReg? (0x104 : BitVec 12).toNat = none ∧ engReg? (0x101 : BitVec 12).toNat = some .sthbm ∧
    s.engRefuse (s.pasidOf s.turn) .sthbm (s.cur.readXA 1) = some 0x0F ∧ s.engRefuse (s.pasidOf s.turn) .sthbm (s.cur.readXA 2) = none ∧
    s.speculative s.turn = false ∧ (spec {}).speculative 0 = true ∧ (spec {}).engRefuse 1 .sthbm 4096 = none ∧
    engReg? (0x2BF : BitVec 12).toNat = some (.outChan 63) ∧ s.engRefuse 1 (.outChan 63) (BitVec.ofNat 64 (2 ^ 63 + 2 ^ 15)) = none ∧
    (Table.get? s.contexts 1).isSome = true ∧ (r.core 0).eng.regQ.find? (fun x => !x.complete) = some o ∧ engReg? 0x110 = some .evq ∧
    (r.core 0).eng.evq.length < 128 ∧ o.doneAt ≤ r.cycle ∧ r.cycle < ({ o with doneAt := 5001 } : EngOp).doneAt := by
  and_intros <;> decide

theorem witness_EngineRegisters_window :
    (mapped {}).engRefuse 1 (.window 63 false) 128 = none ∧
    (mapped {}).engRefuse 1 (.window 63 true) (BitVec.ofNat 64 (2 ^ 63 + 3 * 2 ^ 57 + 2 * 2 ^ 16)) = none := by
  constructor <;> decide

/-- A send to another chip, one to this chip, a token, and a receive that is due. -/
theorem witness_ChannelsSendAndReceive :
    let o : EngOp := { id := 1, cmd := .chsend fourInts 3 6 2, core := 0, tid := 1, addr := 0, seg := 0, clearAt := some 5000, started := true, doneAt := 5000 }
    let x : Context := { theContext with outch := [(2, { valid := true, dchip := 4, dchan := 1, tilesz := 1, upto := 9 })] }
    let s := { mach { eng := { chanQ := [o] } } theTask theStage x with link := { ports := [(6, { trained := true, heldDown := false })] } }
    let d : EngOp := { o with cmd := .chrecv { fourInts with base := 0 } 2, data := List.replicate 128 1 }
    let bs := ({ fourInts with base := 0 } : Shape).placeCodes (streamCodes 7 4 d.data)
    (s.core 0).eng.chanQ = o :: [] ∧ o.complete = false ∧ o.status = 0 ∧ o.clearAt = some 5000 ∧ s.link.gangs = [] ∧ s.isFrontier o.tid = true ∧
    nothingBefore s 0 ∧ o.doneAt ≠ 0 ∧ o.doneAt ≤ s.cycle ∧ s.cycle < ({ o with doneAt := 5001 } : EngOp).doneAt ∧ s.upPorts ≠ [] ∧
    (s.core 0).eng.evq.length < 128 ∧ o.started = true ∧ ((s.ctx (s.pasidOf 0)).outChan 2).dchip ≠ s.chipNo ∧
    (((mach {}).ctx 1).outChan 2).dchip = (mach {}).chipNo ∧ d.doneAt ≤ s.cycle ∧ bs.length = 16 ∧ (bs.map (·.1)).Nodup ∧
    ∀ y ∈ bs, 0 ≤ y.1 ∧ y.1 < 0x300000 ∧ Table.get (s.core 0).rcv.seen false (3 * (y.1.toNat / 128)) = false ∧
      Table.get (s.core 0).rcv.prevSeen false (3 * (y.1.toNat / 128)) = false := by
  unfold nothingBefore
  and_intros <;> first | decide | exact no_multicast
set_option maxRecDepth 8000 in
/-- A tile of the right size and one of another, a channel that is not valid, and a round whose second contribution arrives. -/
theorem witness_LinkTrafficAndReductions :
    let v : InChan := { valid := true, tilesz := 1, nprod := 1 }
    let p : Program := { prog with chans := [{ chan := 63, kind := .f }] }
    let ctl : Word64 := BitVec.ofNat 64 (2 ^ 63 + 3 * 2 ^ 57 + 2 * 2 ^ 16)
    let one : Partial := { lo := 0, span := 1, leaves := [0], elems := [1], poison := false, home := 0, target := 0, ctl := ctl }
    let win : Window := { partials := [one] }
    let x : Context := { theContext with ptroot := 0x200000, inch := [(63, v)], windows := [(5, win), (6, { present := [0] })] }
    let o : EngOp := { id := 1, cmd := .redm 6 0 [1], core := 0, tid := 1, addr := 0, seg := 0, clearAt := some 5000 }
    let s := { mach { eng := { redQ := [o] } } theTask { theStage with prog := some p } x with pmem := tables }
    let t : Tile := { pasid := 1, chan := 63, prod := 1, seq := 0, tag := 3, ts := 9, data := List.replicate 128 1, stamp := 0 }
    let w := (s.ctx 1).window 5
    (Table.get? s.contexts 1 = some x ∧ x.phase = .active ∧ s.link.gangs = [] ∧ s.recovery = false ∧ t.pasid = 1 ∧ t.port = none ∧ s.channelStage 1 t.chan.toNat = some 0 ∧
      v.valid = true ∧ t.prod.toNat ≤ v.nprod ∧ t.data.length = 128 * v.tilesz ∧ (v.producer t.prod.toNat).watermark = none ∧
      t.seq = (v.producer t.prod.toNat).arrived ∧ (0 : Nat) < ({ arrived := 1 } : Producer).arrived ∧
      s.isLate 0 { ts := 9, origin := 256 + 63, seq := 0 } = false ∧ s.stageFull 0 = false ∧
      (∃ n, n < (v.win + 1) * (v.nprod + 1) ∧ ∀ y ∈ v.tiles, y.place ≠ n) ∧ s.channelStage 1 0 = none ∧ v.nprod < (2 : BitVec 4).toNat) ∧
    ({ t with data := [1] } : Tile).data.length ≠ 128 * v.tilesz ∧ (x.inChan 0).valid = false ∧
    (ctl.toNat / 2 ^ 16 % 2 ^ 24 = 2 ∧ ctl.toNat / 2 ^ 57 % 8 = 3 ∧ ctl.toNat / 2 ^ 60 % 4 = 0 ∧ ctl.getLsbD 62 = false ∧ w.waiting = [] ∧
      w.present = [] ∧ w.partials = [{ lo := 0, span := 1, leaves := [0], elems := [1], poison := false, home := s.chipNo, target := 0, ctl := ctl }]) ∧
    (s.core 0).eng.redQ = o :: [] ∧ o.cmd = .redm (6 : BitVec 6).toNat 0 [1] ∧ o.complete = false ∧ o.sent = false ∧ o.clearAt = some 5000 ∧
    s.isFrontier o.tid = true ∧ 0 ∈ ((s.ctx 1).window 6).present ∧ (s.core 0).eng.evq.length < 128 := by
  and_intros <;> decide

/-- The page of the target of that round, for its one element. -/
theorem witness_reduction_target :
    let s := mapped {}
    (∀ i, 128 * i < 4 * [(1 : Word32)].length → ∃ pg, translate s 1 (0 + 128 * i) = some pg ∧ pg.w = true ∧ pg.kind = 1 ∧
      pg.home = s.chipNo ∧ pg.pa + 128 ≤ 0x20000000000 ∧ ∀ j, j < 128 → (fun n => 0x40000000 + n) (128 * i + j) = pg.pa + j) ∧
    (∀ i j : Nat, (fun n => 0x40000000 + n) i = (fun n => 0x40000000 + n) j → i = j) := by
  refine ⟨fun i h => ?_, fun i j h => by simpa using h⟩
  have e : i = 0 := by simp at h; omega
  subst e
  exact ⟨_, page_of 0 (by decide), rfl, rfl, rfl, by decide, fun j _ => by show 0x40000000 + (128 * 0 + j) = 0x40000000 + 0 + j; omega⟩

theorem witness_FencesOrder :
    let l : GLoad := { id := 3, dest := .s 4, val := 9, mask := 1, reads := [], issued := 2, readyAt := 5000, seg := 0 }
    let s := mach { seq := { gloads := [l], stream := 3 } }
    s.cur.on always = true ∧ (true && decide ((7 : BitVec 4).toNat < 8)) = true ∧ (spec {}).speculative 0 = true ∧
    (true && decide ((8 : BitVec 4).toNat < 8)) = false ∧ s.speculative s.turn = false ∧ s.cur.eng.unWrites = [] ∧
    (∀ x ∈ s.cur.seq.gloads, x.issued < s.cur.seq.stream) := by
  and_intros <;> decide

/-- A spawn with a place, one with a bad kind field, one with an early timestamp, and one with no budget; an end with and without
records outstanding; an abort of the frontier task and of another. -/
theorem witness_TasksAreCreatedEndedAndAborted :
    let s := mach { regs := { s := [(1, 2 ^ 32 + 7), (2, 6), (3, 2 ^ 34), (4, 5)] } }
    let o : EngOp := { id := 1, cmd := .drop 4 0, core := 0, tid := 1, addr := 0, seg := 0 }
    s.cur.on always = true ∧ s.cur.task = some 1 ∧ s.task? 1 = some theTask ∧ s.cur.rcv.rerun = none ∧
    (s.cur.readSReg 1).toNat < 2 ^ 34 ∧ theTask.key.ts < (s.cur.readSReg 2).toNat ∧ 2 ^ 34 ≤ (s.cur.readSReg 3).toNat ∧
    (s.cur.readSReg 4).toNat ≤ theTask.key.ts ∧ 0 < Table.get (s.progOf s.turn).budgets 0 TaskKind.f.code ∧
    Table.get (s.progOf s.turn).budgets 0 TaskKind.b.code = 0 ∧ (s.inFlight 0).length < 256 ∧
    (mach { eng := { stashQ := [o] } }).recordsSettled 1 = false ∧ s.recordsSettled 1 = true ∧ (∀ c ∈ s.coresOf 1, (s.core c).eng.evq = []) ∧
    s.cur.eng.evq = [] ∧ s.isFrontier 1 = true ∧ (spec {}).isFrontier 1 = false ∧ theTask.state = .running ∧ theTask.abortDue = none ∧
    (∀ e ∈ s.tasks, e.2.parent = none) ∧ s.coresOf 1 = [s.turn] := by
  and_intros <;> decide

/-- A stage whose 256 places are taken. -/
def crowd : State := { mach {} with tasks := (List.range 256).map fun i => (i + 1, { theTask with key := { ts := 5 + i } }) }

set_option maxRecDepth 8000 in
theorem witness_full_stage : 256 ≤ (crowd.inFlight 0).length ∧ crowd.stageFull 0 = true := by decide

/-- A task with writes of 65 granules: a burst of two cycles. -/
def burstTask : Task :=
  { theTask with wlog := (List.range 65).map fun i => { xs := true, addr := 128 * i, bytes := [1], core := 0, seg := 0 } }

set_option maxRecDepth 8000 in
/-- A task that leaves, aborted or ended, at the edge of W; an earliest task; an ended frontier task. -/
theorem witness_TasksLeaveAndRetire :
    let a := mach {} { theTask with leaving := some true }
    let b := mach { rcv := { segStart := 3380 } } { theTask with ender := some 0 }
    let c := mach { rcv := { segStart := 3381 } } { theTask with ender := some 0 }
    let d := mach {} burstTask { theStage with frontier := none }
    let t := mach {} theTask { theStage with frontier := none }
    let e : State := { tasks := [(1, { theTask with state := .ended })], stages := [(0, theStage)], cycle := 5000 }
    let f : State := { tasks := [(1, theTask), (2, { theTask with key := { ts := 4 } })], stages := [(0, theStage)], cycle := 5000 }
    (a.coresOf 1 = [0] ∧ (a.core 0).task = some 1 ∧ (a.core 0).seq.flight = [] ∧ (a.core 0).seq.gloads = [] ∧ (a.core 0).eng.ldmc = none ∧
      (a.core 0).eng.unWrites = [] ∧ (a.clu 0).held.length ≤ 16384) ∧
    ((b.core 0).eng.ops = [] ∧ (b.core 0).eng.evq = [] ∧ (b.core 0).rcv.rerun = none ∧ (b.core 0).rcv.segStart + 1620 ≤ b.cycle ∧ theTask.swap = .none) ∧
    c.cycle < (c.core 0).rcv.segStart + 1620 ∧
    ((d.stage 0).frontier = none ∧ d.frontierCandidate 0 = some 1 ∧ (d.stage 0).lastRetire ≠ some d.cycle ∧ burstTask.wlog.length = 65 ∧
      (burstTask.wlog.map Write.gran).dedup.length = 65 ∧ (∀ w ∈ burstTask.wlog, w.un = false) ∧ burstTask.abortDue = none ∧
      burstTask.deferred = none ∧ burstTask.event = none ∧ d.task? 1 = some burstTask ∧ (d.clu 0).held.length + 65 ≤ 16384) ∧
    ((t.stage 0).frontier = none ∧ t.frontierCandidate 0 = some 1 ∧ theTask.wlog = [] ∧ ({ theTask with abortDue := some (true, false) } : Task).abortDue ≠ none) ∧
    ((f.stage 0).frontier = some 1 ∧ f.frontierCandidate 0 ≠ some 1) ∧
    ({ tasks := [], stages := [(0, { theStage with frontier := none })] } : State).frontierCandidate 0 = none ∧
    ((e.stage 0).frontier = some 1 ∧ (e.stage 0).burstEnd ≤ e.cycle + 1 ∧ (e.stage 0).lastRetire ≠ some e.cycle ∧ theTask.kind ≠ .b ∧
      theTask.tile = none ∧ ∀ x ∈ e.tasks, x.2.heldBack = false) := by
  and_intros <;> decide

/-- Every slot of a stage of one cluster with teams of eight is taken by task 2 while task 1 waits. -/
def waiting (since : Nat) (evict : Option Nat) : State :=
  { cores := [(0, { task := some 2 })],
    tasks := [(1, { theTask with state := .ready, waitSince := some since }), (2, { theTask with key := { ts := 6 } })],
    stages := [(0, { theStage with team := 8, frontier := none, evictAt := evict })], contexts := [(1, theContext)], cycle := 5000 }

theorem witness_WaitsPlacesAndBudgets :
    let w : State := { tasks := [(1, { theTask with state := .ready })], stages := [(0, { theStage with clusters := [] })], cycle := 5000 }
    let u : Successor := { kind := .f, tag := 1, ts := 9, budget := 5, stage := 0 }
    let h : State := { stages := [(0, { theStage with prog := none, waiting := [(u, 3)] })] }
    let b := mach {} { theTask with budget := 0 }
    (w.frontierCandidate 0 = some 1 ∧ w.freeSlots 0 = [] ∧ theTask.leaving = none ∧ theTask.waitSince = none ∧ ∀ e ∈ w.tasks, e.2.heldBack = false) ∧
    (h.stageFull 0 = false ∧ (h.stage 0).waiting = (u, 3) :: [] ∧ u.stage = 0 ∧ (h.stage 0).prog = none ∧ u.kind ≠ .b ∧
      h.isLate 0 { ts := 9, origin := 384, seq := 3 } = false) ∧
    (b.task? 1 = some { theTask with budget := 0 } ∧ b.coresOf 1 = [0] ∧ (b.core 0).rank = 0 ∧ 0 < 192 ∧ b.host.log = [] ∧ b.host.dropped = 0) ∧
    ((waiting 904 none).frontierCandidate 0 = some 1 ∧ (waiting 904 none).coresOf 1 = [] ∧
      (waiting 904 none).inFlight 0 = (waiting 904 none).tasks ∧ (waiting 904 none).coresOf 2 = [0] ∧ ((waiting 904 none).core 0).task = some 2 ∧
      (∀ e ∈ (waiting 904 none).tasks, e.2.parent = none) ∧ (waiting 904 none).freeSlots 0 = [] ∧ 904 + 4096 ≤ (waiting 904 none).cycle ∧
      (waiting 905 none).cycle < 905 + 4096 ∧ (waiting 0 (some 905)).cycle < 905 + 4096) := by
  and_intros <;> decide

def member (mode : PhMode) (q w : BitVec 32) : Member := { tid := 1, rank := 0, mode := mode, q := q, w := w }

/-- Phaser 63 of cluster 0, in phase 4, with the one member, and handle y3 of core 0 naming it. -/
def phased (mode : PhMode) (code : Nat) (q w : BitVec 32) (k : Core := {}) : State :=
  { mach { k with ys := { k.ys with y := [(3, BitVec.ofNat 16 (2 ^ 15 + code * 2 ^ 12 + 63))] } } with
    clusters := [(0, { phasers := [(63, { phase := 4, nsig := 1, members := [member mode q w] })] })] }

theorem witness_ClusterPhasers :
    let s := phased .sw 3 4 4
    let h := fun (s : State) (n : Nat) => (Table.get s.cur.ys.y 0 n).toNat
    (s.cur.on always = true ∧ s.cur.task = some 1 ∧ (Table.get s.cur.ys.y 0 3).getLsbD 15 = true ∧ h s 3 / 2 ^ 12 % 4 ≠ 0 ∧
      ((phaserHere s 63).member? 1 s.cur.rank).isSome = true ∧ 64 ≤ (64 : BitVec 9).toNat ∧ (s.ctx (s.pasidOf s.turn)).phcount ≤ 16 ∧
      (Table.get s.cur.ys.y 0 15).getLsbD 15 = false ∧ (62 : BitVec 9).toNat < 64 ∧ (phaserHere s 62).member? 1 s.cur.rank = none ∧
      s.memberCount false < 512 ∧ (Table.get s.chipPhasers {} ((s.ctx (s.pasidOf s.turn)).phbase + 15)).member? 1 s.cur.rank = none ∧
      s.cur.eng.phaserOps = [] ∧ s.memberCount true < 4096 ∧ 15 < (s.ctx (s.pasidOf s.turn)).phcount) ∧
    (s.cur.ys.rdepth ≤ 1 ∧ (3 : BitVec 4).toNat < 4 ∧ h s 4 < 2 ^ 15 ∧ h s 3 = 2 ^ 15 + 3 * 2 ^ 12 + 63 ∧
      (phaserHere s 63).member? 1 s.cur.rank = some (member .sw 4 4) ∧ (member .sw 4 4).q = (phaserHere s 63).phase) ∧
    (h (phased .s 1 5 4) 3 = 2 ^ 15 + 2 ^ 12 + 63 ∧ (member .s 5 4).q ≠ (phaserHere (phased .s 1 5 4) 63).phase) ∧
    h (phased .w 2 4 4) 3 = 2 ^ 15 + 2 * 2 ^ 12 + 63 ∧
    (s.cur.seq.hold = none ∧ s.cur.ys.phswDone = false ∧ s.cur.seq.signalledAt = none ∧ (member .sw 4 4).w = (phaserHere s 63).phase ∧
      (member .sw 4 3).w ≠ (phaserHere (phased .sw 3 4 3) 63).phase) ∧
    (let p : Phaser := { phase := 4, nsig := 2, arrived := 2, counted := 2 }; 0 < p.counted ∧ p.nsig ≤ p.arrived ∧ p.doneIn 5 = false) ∧
    (let p : Phaser := { phase := 4, nsig := 2, arrived := 1, counted := 1 }; p.arrived < p.nsig) := by
  and_intros <;> decide

set_option maxRecDepth 8000 in
/-- Chip-phaser operations that are strike-clear and not; future cells full, empty, misaligned and past the pool; polls. -/
theorem witness_ChipPhasersAndFutures :
    let o : PhaserOp := { core := 0, rank := 0, tid := 1, seg := 0, clearAt := some 5000, index := 7, act := .signal, stamp := 0 }
    let a := { mach { eng := { phaserOps := [o] } } with chipPhasers := [(7, { nsig := 1, members := [member .s 0 0] })] }
    let s := { mach { regs := { s := [(1, 4080), (2, 4096), (3, 8), (4, 2 ^ 25)] } } with clusters := [(0, { pool := [(4088, 1)] })] }
    let f := mach { seq := { waitAt := some 4900, waitFrom := 5000, waitCell := 4080, hold := some { cause := .ywait, slot := 8 } } }
    let e := { mach { seq := { waitAt := some 4999, waitCell := 4080, hold := some { cause := .ywait, slot := 8 } } } with clusters := [(0, { waits := [{ cell := 16, tid := 1, rank := 0 }] })] }
    ((a.core 0).eng.phaserOps = o :: [] ∧ o.clearAt = some 5000 ∧ 5000 ≤ a.cycle ∧ a.isFrontier o.tid = true ∧ nothingBefore a 0 ∧
      (Table.get a.chipPhasers {} o.index).member? o.tid o.rank = some (member .s 0 0) ∧ a.cycle < 5001) ∧
    (s.cur.on always = true ∧ s.cur.seq.hold = none ∧ s.cur.eng.atomics = [] ∧ (s.cur.readS (.reg 3)).toNat % 16 ≠ 0 ∧
      2 ^ 25 ≤ (s.cur.readS (.reg 4)).toNat ∧ (s.cur.readS (.reg 2)).toNat % 16 = 0 ∧ (s.cur.readS (.reg 2)).toNat < 2 ^ 25 ∧
      s.poolBound s.turn < (s.cur.readS (.reg 2)).toNat + 16 ∧ (s.cur.readS (.reg 1)).toNat + 16 ≤ s.poolBound s.turn ∧
      ((s.clu 0).pool.read ((s.cur.readS (.reg 1)).toNat + 8)).getLsbD 0 = true ∧ ((s.clu 0).pool.read ((s.cur.readS (.reg 0)).toNat + 8)).getLsbD 0 = false ∧
      (e.core 0).seq.waitAt ≠ none ∧ (e.core 0).seq.waitFrom = 0 ∧ (e.core 0).seq.releaseAt = none ∧ ({ cell := 4080, tid := 1, rank := 0 } : WaitEntry) ∉ (e.clu 0).waits ∧
      (e.core 0).seq.hold = some { cause := .ywait, slot := 8 } ∧ (e.clu 0).waits.length < 256 ∧ 256 ≤ (List.replicate 256 ({ cell := 16, tid := 1, rank := 0 } : WaitEntry)).length) ∧
    (f.fwaitCell 0 = some 4080 ∧ (f.core 0).seq.waitFrom ≠ 0 ∧ (f.core 0).seq.waitFrom ≤ f.cycle ∧ (f.core 0).eng.atomics = []) := by
  unfold nothingBefore
  and_intros <;> first | decide | exact no_multicast

set_option maxRecDepth 8000 in
/-- Counts 0, 128 and 129; a token on its way, one at a cluster that needs it and one that moves on; tile requests at the edges. -/
theorem witness_BasesTokensAndTiles :
    let r : EvRecord := { w0 := 0, w1 := 0, op := 0, seg := 0 }
    let s := mach { regs := { s := [(1, 4080), (2, 3 * 2 ^ 16 + 2), (3, 2 ^ 16 + 1), (4, 4096), (5, 2 ^ 32)] }, eng := { evq := List.replicate 128 r } }
    let d := { mach { ys := { tokreq := true } } with dies := [(0, { tokens := [⟨0, 5000⟩] })] }
    let m := { mach {} with dies := [(0, { tokens := [⟨5, 5001⟩] })] }
    (s.cur.on always = true ∧ 128 < (129 : Byte).toNat ∧ (128 : Byte).toNat ≤ s.cur.eng.evq.length ∧ (mach {}).cur.eng.evq.length < (1 : Byte).toNat) ∧
    ((d.die 0).tokens = [⟨0, 5000⟩] ∧ (d.die 0).surplus = 0 ∧ (∀ i, i < 6 → (d.clu (6 * 0 + i)).hasToken = false) ∧ 5000 ≤ d.cycle ∧
      d.needsToken (6 * 0 + 0) = true ∧ (mach {}).needsToken 0 = false ∧ (m.die 0).tokens = [⟨5, 5001⟩] ∧ m.cycle < 5001) ∧
    ((s.cur.readS (.reg 1)).toNat % 16 = 0 ∧ (s.cur.readS (.reg 2)).toNat < 2 ^ 32 ∧
      (s.cur.readS (.reg 2)).toNat % 2 ^ 16 < (s.cur.readS (.reg 2)).toNat / 2 ^ 16 ∧ (s.cur.readS (.reg 1)).toNat + 16 ≤ s.poolBound s.turn ∧
      (s.cur.readS (.reg 3)).toNat / 2 ^ 16 ≤ (s.cur.readS (.reg 3)).toNat % 2 ^ 16 ∧ 2 ^ 32 ≤ (s.cur.readS (.reg 5)).toNat ∧
      s.poolBound s.turn < (s.cur.readS (.reg 4)).toNat + 16 ∧ s.cur.eng.atomics = []) := by
  and_intros <;> decide

/-- Counter operands at the edges; a set, decrements from 2, 1 and 0 that are strike-clear, and one that is not. -/
theorem witness_DependenceCounters :
    let s := mach { regs := { s := [(1, 2 ^ 16 + 15), (2, 2 ^ 16), (3, 16), (4, 15), (5, 2 ^ 40), (6, 2 ^ 34), (7, 2 ^ 16 + 16)] } }
    let u : Successor := { kind := .f, tag := 1, ts := 9, budget := 5, stage := 1 }
    let o : CounterOp := { number := 0, core := 0, seg := 0, clearAt := some 5000, counter := 3, set := none, tid := 8, addr := 0, stamp := 0 }
    let q := { mach {} theTask { theStage with ctrOps := [o] } with counters := [(3, { count := 1, armed := true, succ := some u })] }
    (s.cur.on always = true ∧ 2 ^ 16 ≤ (s.cur.readSReg 2).toNat ∧ (s.cur.readSReg 3).toNat < 2 ^ 16 ∧
      (s.ctx (s.pasidOf s.turn)).dccount ≤ (s.cur.readSReg 3).toNat ∧ (s.cur.readSReg 4).toNat < (s.ctx (s.pasidOf s.turn)).dccount ∧
      (spec {}).speculative 0 = true ∧ s.speculative s.turn = false ∧ s.cur.rcv.reuse = []) ∧
    ((s.cur.readSReg 0).toNat / 2 ^ 16 % 2 ^ 24 = 0 ∧ 2 ^ 40 ≤ (s.cur.readSReg 5).toNat ∧ 2 ^ 34 ≤ (s.cur.readSReg 6).toNat ∧
      (s.cur.readSReg 1).toNat / 2 ^ 16 ≠ 0 ∧ (s.cur.readSReg 1).toNat < 2 ^ 40 ∧ (s.cur.readSReg 0).toNat < 2 ^ 34 ∧
      Table.get (s.progOf s.turn).budgets 0 (TaskKind.ofCode 0).code ≠ 0 ∧ (s.ctx (s.pasidOf s.turn)).dccount ≤ (s.cur.readSReg 7).toNat % 2 ^ 16 ∧
      (s.cur.readSReg 1).toNat % 2 ^ 16 < (s.ctx (s.pasidOf s.turn)).dccount) ∧
    ((q.stage 0).ctrOps = [o] ∧ o.number = (q.stage 0).ctrDone ∧ o.clearAt = some 5000 ∧ 5000 ≤ q.cycle ∧ q.cycle < 5001 ∧ o.set = none ∧
      (Table.get q.counters {} o.counter).count = 1 ∧ (Table.get q.counters {} o.counter).armed = true ∧
      (Table.get q.counters {} o.counter).succ = some u ∧ u.kind ≠ .b ∧ q.isLate 0 { ts := 9, origin := 384, seq := 0 } = false ∧ q.stageFull 0 = false ∧ q.isLate 1 { ts := 9, origin := 384, seq := 0 } = false ∧
      q.stageFull 1 = false ∧ ({ o with set := some (2, u) } : CounterOp).set = some (2, u) ∧ 1 < ({ count := 2 } : Counter).count.toNat ∧
      (Table.get (mach {}).counters {} 3).count = 0 ∧ q.task? o.tid = none) := by
  and_intros <;> decide

/-- A queued task and one free slot, starving and not; a dispatch in its cycle; a class publication that changes nothing and one
that does. -/
theorem witness_TasksAreChosenAndDispatched :
    let k : Task := { theTask with state := .ready, queuedAt := 4900 }
    let s : State := { tasks := [(1, k)], stages := [(0, { theStage with team := 8, evalAt := [5000] })], contexts := [(1, theContext)], cycle := 5000, dies := [(3, { hottest := some 102 })] }
    let entry : Word64 := BitVec.ofNat 64 (2 ^ 63 + TaskKind.f.code * 2 ^ 61 + 7 * 2 ^ 56 + 0xFF * 2 ^ 48)
    let n : State := { s with stages := [(0, { theStage with team := 8, evalAt := [5000], starve := 101, tide := [(0, entry)] })] }
    let d : State := { tasks := [(1, { k with state := .running, dispatchAt := some 5000 })], stages := [(0, theStage)], contexts := [(1, theContext)], clusters := [(0, { inService := true })], cycle := 5000 }
    (k.stage = 0 ∧ s.task? 1 = some k ∧ k.state = .ready ∧ k.free = true ∧ s.queuedTasks 0 = [(1, k)] ∧ s.stageLive 0 = true ∧
      s.freeSlots 0 = [(0, 0)] ∧ k.queuedAt < s.cycle ∧ (∃ a ∈ (s.stage 0).evalAt, a ≤ s.cycle) ∧ k.agedAt.getD k.queuedAt + (s.stage 0).starve ≤ s.cycle ∧
      ¬ k.agedAt.getD k.queuedAt + (n.stage 0).starve ≤ n.cycle ∧ k.kind ≠ .b ∧ n.freeSlots 0 = [(0, 0)] ∧ (∀ a ∈ ([5001] : List Nat), s.cycle < a)) ∧
    ((d.task? 1).map (·.dispatchAt) = some (some d.cycle) ∧ k.dispatchAt ≠ some s.cycle ∧ (d.ctx k.pasid).phase = .active ∧
      (d.clu k.cluster).inService = true ∧ 8 * k.cluster + k.slot ∉ (d.stage k.stage).lost) ∧
    ((s.die 3).surplus ≤ (s.die 3).tokens.length + ((List.range 6).filter fun i => (s.clu (6 * 3 + i)).hasToken).length ∧
      (s.die 3).hottest = some 102 ∧ (s.die 3).headroom = 0 ∧ (s.die 3).temp = 3 ∧ (s.stage 0).valid = true ∧ ∃ c ∈ (s.stage 0).clusters, c / 6 = 0) := by
  and_intros <;> decide

theorem witness_every_die_is_classed : ∀ d, (({} : State).die d).temp < 4 ∧ ∀ x, (({} : State).die d).before = some x → x.2.2 < 4 :=
  fun _ => ⟨by show 3 < 4; decide, fun x h => absurd (show (none : Option (Nat × Nat × Nat)) = some x from h) nofun⟩

def asked (out : Bool) : HandlerEvent := { code := 8, core := 0, slot := 15, addr := 0, budgetOut := out }

theorem witness_TheHandlerAnswers :
    let a := mach {} { theTask with event := some (asked true) }
    let b := mach {} { theTask with event := some (asked false) } { theStage with frontier := none }
    ((mach {}).task? 1 = some theTask ∧ theTask.event = none ∧ theTask.abortDue = none ∧ ((mach {}).ctx theTask.pasid).phase = .active ∧ theTask.state = .running ∧ (mach {}).coresOf 1 = [0] ∧ ((mach {}).core 0).task = some 1 ∧
      ∀ e ∈ (mach {}).tasks, e.2.parent = none) ∧
    (a.task? 1 = some { theTask with event := some (asked true) } ∧ (asked true).budgetOut = true ∧ (asked false).budgetOut = false ∧
      (a.core 0).rank = 0 ∧ a.host.log = [] ∧ a.host.dropped = 0 ∧ a.isFrontier 1 = true ∧ b.isFrontier 1 = false ∧ b.coresOf 1 = [0]) := by
  and_intros <;> decide

/-- A team held by a wait at a shadow-free bundle and at its limit, one below it, one that has halted and one at another bundle, with a
task to replace it; a speculative one with sets; a save and a restore that end. -/
theorem witness_TeamsAreSwapped :
    let k : Task := { theTask with waitRun := 10, state := .waiting }
    let w : Task := { theTask with state := .ready, queuedAt := 0, key := { ts := 9 } }
    let q : Core := { task := some 1, seq := { hold := some { cause := .ywait, slot := 8 } }, regs := { waitlim := 10 } }
    let safe : Stage := { theStage with prog := some { prog with code := [(0, 0x00000200)] } }
    let s : State := { cores := [(0, q)], tasks := [(1, k), (2, w)], stages := [(0, safe)], contexts := [(1, theContext)], cycle := 5000 }
    let v : State := { s with tasks := [(1, { k with lines := [{ gran := 0, rd := true, wr := false, core := 0 }] }), (2, w)],
                              stages := [(0, { safe with frontier := none })] }
    let e : State := { s with tasks := [(1, { k with state := .swapped, swap := .saving 5000 })] }
    let r : State := { saved := [(1, [(0, q)])], tasks := [(1, { k with state := .running, swap := .restoring 5000 })], stages := [(0, theStage)], cycle := 5000 }
    (s.task? 1 = some k ∧ s.coresOf 1 = [0] ∧ (s.core 0).task = some 1 ∧ k.event = none ∧ k.leaving = none ∧ k.swap = .none ∧
      k.ender = none ∧ heldByWait (s.core 0) ∧ ({ q with seq := { halted := true } } : Core).seq.halted = true ∧
      (((s.progOf 0).bundleAt (s.core 0).seq.pc).map fun b => b.safe || b.seg) = some true ∧
      (((mach {} theTask { theStage with prog := some { prog with code := [(0, 0x00000100)] } }).progOf 0).bundleAt 0).map (fun b => b.safe || b.seg) = some false ∧
      (s.core 0).eng.unWrites = [] ∧ (s.clu 0).held.length ≤ 16384 ∧ (s.core 0).regs.waitlim.toNat % 2 ^ 32 ≠ 0 ∧ (s.core 0).regs.waitlim.toNat % 2 ^ 32 ≤ k.waitRun ∧
      (s.choose k.stage k.cluster).1 ≠ none ∧ s.isFrontier 1 = true ∧ ({ k with waitRun := 9 } : Task).waitRun < 10) ∧
    (v.isFrontier 1 = false ∧ ((v.task? 1).map (·.lines)) ≠ some [] ∧ k.state = .waiting ∧ k.abortDue = none ∧ (∀ e ∈ v.tasks, e.2.parent = none) ∧
      (v.choose 0 0).1 ≠ none) ∧
    ((e.task? 1).map (·.swap) = some (.saving 5000) ∧ 5000 ≤ e.cycle ∧ (e.core 0).seq.flight = [] ∧ (e.core 0).seq.gloads = [] ∧
      (e.core 0).eng.ldmc = none ∧ (e.core 0).eng.ops = [] ∧ (e.core 0).eng.shadows = [] ∧ (e.core 0).eng.unWrites = []) ∧
    ((r.task? 1).map (·.swap) = some (.restoring 5000) ∧ 5000 ≤ r.cycle ∧ Table.get? r.saved 1 = some [(0, q)] ∧ q.rank = 0 ∧ k.rewindAt = none ∧ r.cycle < 5001 ∧
      (r.clu k.cluster).inService = true ∧ (({ clusters := [(0, { inService := false })] } : State).clu k.cluster).inService = false) := by
  unfold heldByWait
  refine ⟨⟨rfl, by decide, rfl, rfl, rfl, rfl, rfl, ⟨rfl, _, rfl, .inl rfl⟩, by and_intros <;> decide⟩, by and_intros <;> decide, by and_intros <;> decide, rfl, by decide, rfl, rfl, rfl, by decide, rfl, rfl⟩
/-- A context that runs, one whose save may begin, one whose save may end, before and at their time, and one that is restored. -/
theorem witness_ContextsAreSavedAndRestored :
    let fr := frame 0
    let st : Stage := theStage
    let a : SaveArea := { layout := 1, stages := [(0, st)] }
    let run := mach {}
    let sv : State := { mach {} theTask st { theContext with phase := .saved, area := some a } with cores := [], tasks := [] }
    let hold := fun (k : Core) (ph : ContextPhase) => mach k theTask st { theContext with phase := ph }
    let s := hold { seq := { stopped := true }, rcv := { segStart := 3380 } } .stopping
    let e := hold { seq := { stopped := true } } (.saving 5000)
    let q : Core := { task := some 1 }
    let b : SaveArea := { cores := [(0, q)], tasks := [(1, theTask)], stages := [(0, st)] }
    let r : State := { contexts := [(1, { theContext with phase := .restoring 5000, area := some b })], stages := [(0, { st with clusters := [0, 1] })], cycle := 5000 }
    (isServed run fr ∧ Table.get? run.contexts 1 ≠ none ∧ (run.ctx 1).phase = .active ∧ run.inGang 1 = false ∧ run.resident < 8) ∧
    ((sv.ctx 1).phase = .saved ∧ (sv.ctx 1).area = some a ∧ a.layout ∈ sv.host.imageA.reads ∧
      ({ a with layout := 9 } : SaveArea).layout ∉ sv.host.imageA.reads ∧ sv.inGang 1 = false ∧ sv.running < 8) ∧
    (theTask.event = none ∧ theTask.leaving = none ∧ theTask.swap = .none ∧ theTask.ender = none ∧ s.ctxTasks 1 = [(1, theTask)] ∧ s.coresOf 1 = [0] ∧ (s.core 0).task = some 1 ∧ s.isFrontier 1 = true ∧ s.ctxStages 1 = [(0, st)] ∧
      s.stage 0 = st ∧ st.valid = true ∧ 0 / 8 ∈ st.clusters ∧ quietCore (s.core 0) ∧ (s.core 0).rcv.rerun = none ∧
      (s.ctx 1).phase = .stopping ∧ (s.core 0).seq.stopped = true ∧ (s.core 0).rcv.segStart + 1620 ≤ s.cycle ∧
      (hold {} .stopping).cur.seq.stopped = false ∧ (hold {} .stopping).cur.seq.halted = false ∧ s.viral = false ∧ s.areas < 8 ∧
      (∀ cl ∈ st.clusters, (s.clu cl).savingAt = none ∧ (s.clu cl).held.length ≤ 16384) ∧ s.cycle < (3381 : Nat) + 1620) ∧
    ((e.ctx 1).phase = .saving 5000 ∧ 5000 ≤ e.cycle ∧ e.link.gangs = [] ∧ (∀ x ∈ e.clusters, ∀ h ∈ x.2.held, h.pasid ≠ 1) ∧
      e.cores.map (·.1) = [0] ∧ e.tasks.map (·.1) = [1]) ∧
    ((r.ctx 1).phase = .restoring 5000 ∧ 5000 ≤ r.cycle ∧ (r.ctx 1).area = some b ∧
      q.task = some 1 ∧ theTask.rewindAt = none ∧ theTask.atOnce = false ∧ (∀ x ∈ r.tasks, x.2.atOnce = false) ∧ (r.stage 0).valid = true ∧
      (r.stage 0).pasid = 1 ∧ (r.stage 0).team = st.team ∧ 0 ∈ (r.stage 0).clusters ∧ (r.clu 0).inService = true ∧ 0 ∉ (r.stage 0).lost ∧
      r.viral = false ∧ ∀ x ∈ r.link.buffered, x.1 ≠ 1) := by
  refine ⟨⟨served_frame 0, by decide, by decide, by decide, by decide⟩, ⟨by decide, rfl, by decide, by decide, by decide, by decide⟩, ?_, ?_,
    ⟨rfl, by decide, rfl, rfl, rfl, rfl, by decide, rfl, rfl, rfl, by decide, rfl, by decide, rfl, by decide⟩⟩
  · unfold quietCore; and_intros <;> decide
  · and_intros <;> decide

theorem witness_no_other_core : ∀ d, d ≠ 0 → Table.get? (mach {}).cores d = none :=
  fun _ h => if_neg (Ne.symm h)

/-- A time at the moment and one passed, a switch that is due and one that is not, a quiesce flit with and without a switch. -/
theorem witness_GangSwitchesRun :
    let s := { mach {} with link := { timeBase := 100, timeAt := 5000 } }
    let g : Gang := { time := 100, outgoing := 1, incoming := 0, tag := 3 }
    let w := { mach {} with link := { timeBase := 100, timeAt := 5000, gangs := [g], ports := [(7, { trained := true, heldDown := false })] } }
    (isServed s (frame 0) ∧ (99 : Word64).toNat < s.timeNow ∧ s.timeNow ≤ (100 : Word64).toNat ∧ s.link.gangs = [] ∧
      (Table.get? s.contexts 1).isSome = true ∧ (s.ctx 1).phase = .active) ∧
    (w.link.gangs = [g] ∧ g.begun = false ∧ g.time ≤ w.timeNow ∧ g.outgoing ≠ 0 ∧ (w.ctx g.outgoing).phase = .active ∧ w.viral = false ∧
      w.timeNow < ({ g with time := 101 } : Gang).time ∧ g.outgoing = 1 ∧ 7 ∉ g.quiet ∧ w.recovery = false ∧
      (Table.get w.link.ports {} 7).heldDown = false) ∧
    (let v : State := { contexts := [(2, { theContext with phase := .saved, area := some { layout := 1 } })] }; v.restorable 2 = true ∧ v.running < 8) := by
  refine ⟨⟨⟨rfl, rfl, rfl, rfl⟩, by decide, by decide, rfl, by decide, by decide⟩, ?_, by decide⟩
  and_intros <;> decide

/-- Units at both ends of their ranges, in a plan that holds stage 7, and tide values that are sound, an idle one too, and not. -/
theorem witness_ManagementUnits :
    let q : Queue := { pasid := 1, q := 0, stage := 0, lg := 4, ring := 0 }
    let s := { mach {} with stages := [(7, theStage)], queues := [(4095, .live q)] }
    let good : Word64 := BitVec.ofNat 64 (2 ^ 63 + 2 ^ 61 + 2 ^ 60 + 2 ^ 16)
    let idle : Word64 := BitVec.ofNat 64 (2 ^ 63 + 2 ^ 59 + 0xFF * 2 ^ 48)
    isServed s (frame 0x27FF8) ∧ (frame 0x10030).addr.toNat = 0x10000 + 8 * 6 ∧ (frame 0x10038).addr.toNat = 0x10038 ∧
    (frame 0x270F8).addr.toNat = 0x20000 + 0x1000 * 7 + 8 * 31 ∧ (s.stage 7).valid = true ∧ (s.stage 0).valid = false ∧
    (frame 0x27100).addr.toNat = 0x20100 + 0x1000 * 7 ∧ (frame 0x300B8).addr.toNat = 0x30000 + 8 * 23 ∧ s.queue? 4095 = some q ∧
    (frame 0x7FFC0).addr.toNat = 0x40000 + 64 * 4095 ∧ Table.get? s.queues 0 = none ∧ Table.get? s.contexts 1 ≠ none ∧
    (frame 0x90800).addr.toNat = 0x90000 + 8 * 0x100 ∧ (frame 0x300C0).addr.toNat = 0x30000 + 8 * 24 ∧ (frame 4).addr.toNat % 8 ≠ 0 ∧
    (frame 0x27800).addr.toNat = 0x20800 + 0x1000 * 7 + 8 * 0 ∧ (frame 0x279F8).addr.toNat = 0x20800 + 0x1000 * 7 + 8 * 63 ∧
    (good.toNat % 2 ^ 16 = 0 ∧ good.toNat / 2 ^ 61 % 4 = 1 ∧ good.getLsbD 59 = false) ∧
    (idle.toNat % 2 ^ 16 = 0 ∧ idle.toNat / 2 ^ 61 % 4 = 0 ∧ idle.getLsbD 60 = false ∧ idle.toNat / 2 ^ 16 % 2 ^ 8 = 0 ∧
      idle.getLsbD 59 = true ∧ idle.toNat / 2 ^ 56 % 8 = 0 ∧ idle.toNat / 2 ^ 24 % 2 ^ 24 = 0) ∧
    (1 : Word64).toNat % 2 ^ 16 ≠ 0 ∧ 2 ^ 32 ≤ (0x100000000 : Word64).toNat ∧ (0xFFFFFFFF : Word64).toNat < 2 ^ 32 := by
  refine ⟨⟨rfl, rfl, rfl, rfl⟩, ?_⟩
  and_intros <;> decide

set_option maxRecDepth 8000 in
/-- Frames in and out of sequence, in recovery, and log heads of every sort. -/
theorem witness_FramesAndTheLog :
    let l : LogPair := { event := 2 ^ 60, stamp := 2 ^ 63, readableAt := some 5000 }
    let s := { mach {} with host := { log := [l] } }
    (frame 0x80000).seq.toNat = s.host.seqIn ∧ ({ frame 0 with seq := 1 } : Frame).seq.toNat ≠ s.host.seqIn ∧
    s.stuck = false ∧ ({ mach {} with stuck := true } : State).stuck = true ∧ ({ mach {} with recovery := true } : State).recovery = true ∧ ({ mach {} with viral := true } : State).viral = true ∧
    (List.replicate 32 (0 : Byte)).length = 32 ∧ ([] : List Byte).length ≠ 32 ∧ (mach {}).host.log = [] ∧ (frame 0x80000).addr = 0x80000 ∧
    s.host.log = l :: [] ∧ l.half = false ∧ l.readableAt = some 5000 ∧ 5000 ≤ s.cycle ∧ ({ l with half := true } : LogPair).half = true ∧
    (∀ x ∈ ([] : List LogPair), x.half = false) ∧ s.cycle < 5001 := by
  and_intros <;> decide

/-- A descriptor at the edges of its fields, for context 2: page tables at 2 MiB, a save area at 1 GiB, all phasers and counters. -/
def descriptor : List Byte :=
  leBytes 8 2 ++ leBytes 8 (2 ^ 21) ++ leBytes 8 (2 ^ 30) ++ leBytes 2 0 ++ leBytes 2 512 ++ leBytes 4 0 ++ leBytes 4 65536 ++ leBytes 4 0 ++
    leBytes 8 0 ++ leBytes 8 (2 ^ 28) ++ leBytes 8 0

set_option maxRecDepth 4000 in
theorem witness_ContextsAndTranslations :
    let n := fun (o k : Nat) => leNat ((descriptor.drop o).take k)
    let s : State := { contexts := [(1, { theContext with phase := .destroying })] }
    let z : State := { contexts := [(1, theContext)] }
    descriptor.length = 64 ∧ ({} : State).contexts = [] ∧ n 0 4 = 2 ∧ n 6 2 = 0 ∧ n 36 4 = 0 ∧ n 56 8 = 0 ∧ n 8 8 % 2 ^ 21 = 0 ∧ n 8 8 + 2 ^ 21 ≤ hbmEnd ∧
    n 16 8 % 2 ^ 30 = 0 ∧ n 16 8 < hbmEnd ∧ n 40 8 % 128 = 0 ∧ n 24 2 + n 26 2 ≤ 512 ∧ n 28 4 + n 32 4 ≤ 65536 ∧ n 40 8 + n 48 8 ≤ Config.xsBytes ∧
    (Table.get? z.contexts 1).isSome = true ∧ Table.get? z.contexts 2 = none ∧ (z.ctx 1).phase = .active ∧ z.inGang 1 = false ∧ s.viral = false ∧ z.ctxTasks 1 = [] ∧
    (s.ctx 1).phase = .destroying ∧ (∀ e ∈ s.clusters, ∀ h ∈ e.2.held, h.pasid ≠ 1) ∧ (∀ e ∈ s.tasks, e.2.pasid ≠ 1) ∧
    (let m : Marker := { id := 2, va := 0x1000, count := 1, size := .k4, tag := 9 }
     let y := mach { eng := { copyQ := [copyOp fourInts] } } theTask theStage { theContext with markers := [m], tlb := [(1, (7, 3)), (2, (7, 3))] }
     let c := { y with cores := [] }
     (y.contexts.map (·.1)).Nodup ∧ (y.ctx 1).markers = [m] ∧ (∀ e ∈ y.contexts, e.1 ≠ 1 → e.2.markers = []) ∧
     (∃ e ∈ y.cores, ∃ x ∈ e.2.eng.copyQ, x.id < m.id ∧ x.complete = false) ∧ (∀ e ∈ c.cores, ∀ x ∈ e.2.eng.copyQ, m.id ≤ x.id ∨ x.complete = true) ∧
     (c.passMarkers.ctx 1).tlb = [(2, (7, 3))]) ∧
    (0x1000 : Word64).toNat % 2 ^ 12 = 0 ∧ (512 : Word64).toNat ≤ 512 ∧ 512 < (513 : Word64).toNat ∧ (0x1001 : Word64).toNat % 2 ^ 12 ≠ 0 := by
  and_intros <;> decide

/-- A queue at its first and at its second probe, behind that of another context and behind a tombstone, and eight probed slots that
are taken; a ring of 2^16 slots with its three fields at their edges; an idle queue, one in Error with a full ring, and one a slot beyond. -/
theorem witness_QueuesAreControlled :
    let b : List Byte := leBytes 2 0 ++ leBytes 1 16 ++ leBytes 8 (2 ^ 57 - 4096) ++ leBytes 13 0
    let n := fun (o k : Nat) => leNat ((b.drop o).take k)
    let x : Queue := { pasid := 1, q := 255, stage := 0, lg := 4, ring := 0 }
    let i := (1 * 40503 + 255 * 1021) % 4096
    let s := { mach {} with queues := [(i, .live x)] }
    let e : Queue := { x with qstate := .error, wptr := 16 }
    let y : Queue := { x with pasid := 2 }
    let p := { mach {} with queues := [(i, .live y), (i + 1, .live x)] }
    let d := { mach {} with queues := [(i, .live y), (i + 1, .tombstone)] }
    let full := { mach {} with queues := (List.range 8).map fun j => (i + j, .live y) }
    b.length = 24 ∧ (255 : Nat) < 256 ∧ n 2 1 = 16 ∧ n 3 8 % 4096 = 0 ∧ n 3 8 < 2 ^ 57 ∧ n 0 1 < 8 ∧ n 19 5 = 0 ∧ isServed s (frame 255) ∧
    Table.get? (mach {}).queues i = none ∧ s.queue? i = some x ∧ y.pasid ≠ 1 ∧ p.queue? (i + 1) = some x ∧ p.queue? i = some y ∧
    Table.get? d.queues (i + 1) = some .tombstone ∧ (∀ j, j < 8 → (full.queue? (i + j)).isSome = true) ∧ i + 7 < 4096 ∧ (Table.get? s.contexts 1).isSome = true ∧
    (s.ctx 1).phase ≠ .destroying ∧ s.queue? i = some x ∧ x.pasid = 1 ∧ x.q = (frame 255).addr.toNat ∧ x.rptr = x.wptr ∧ (∀ τ ∈ x.tasks, s.taskAny τ = none) ∧ e.acting = none ∧
    ({ e with acting := some (0, [3]) } : Queue).acting = some (0, [3]) ∧ leNat (([3] : List Byte).take 1) = 3 ∧ leNat (([2] : List Byte).take 1) ≠ 3 ∧
    x.qstate = .running ∧ e.qstate = .error ∧ (e.wptr + 2 ^ 32 - e.rptr) % 2 ^ 32 ≤ 2 ^ e.lg ∧ e.rptr ≠ e.wptr ∧
    2 ^ e.lg < (({ e with wptr := 17 } : Queue).wptr + 2 ^ 32 - e.rptr) % 2 ^ 32 ∧ 256 ≤ (frame 256).addr.toNat ∧
    (17 + 2 ^ 32 - (1 : Word32).toNat) % 2 ^ 32 ≤ 2 ^ e.lg ∧ (some 2 : Option Nat) ≠ some x.pasid := by
  refine ⟨by decide, by decide, by decide, by decide, by decide, by decide, by decide, ⟨rfl, rfl, rfl, rfl⟩, ?_⟩
  and_intros <;> decide

/-- A plan of one stage, number 7, of clusters 0 and 23, with teams of eight, for context 1, and a tide table of zeros. -/
def plan : List Byte :=
  leBytes 8 1 ++ leBytes 4 (2 ^ 23 + 1) ++ leBytes 1 7 ++ leBytes 1 8 ++ leBytes 2 0 ++ leBytes 4 1 ++ leBytes 4 0 ++ leBytes 8 (2 ^ 32) ++
    List.replicate 296 0

set_option maxRecDepth 8000 in
theorem witness_plans :
    let n := fun (o k : Nat) => leNat ((plan.drop o).take k)
    let s : State := { contexts := [(1, theContext)] }
    let r : State := { stages := [(0, { theStage with prog := none, clusters := [23] })], tasks := [(1, theTask)] }
    plan.length = 328 ∧ n 0 1 = 1 ∧ n 1 7 = 0 ∧ 0 < n 8 4 ∧ n 8 4 < 2 ^ 24 ∧ n 12 1 = 7 ∧ n 13 1 = 8 ∧ (Table.get? s.contexts (n 16 4)).isSome = true ∧
    2 ^ 32 ≤ n 24 8 ∧ n 14 2 = 0 ∧ n 20 4 = 0 ∧ n 32 8 = 0 ∧ n 40 8 = 0 ∧ n 48 8 = 0 ∧ n 56 8 = 0 ∧ n 64 8 = 0 ∧
    (∀ e, e < 32 → n (72 + 8 * e) 8 % 2 ^ 24 = 0 ∧ (n (72 + 8 * e) 8).testBit 59 = false ∧ (n (72 + 8 * e) 8).testBit 60 = false) ∧ s.stages = [] ∧ (∀ e ∈ s.contexts, e.2.area = none) ∧
    (r.stage 0).valid = true ∧ r.stages.map (·.1) = [0] ∧ (r.stage 0).prog = none ∧ 2 ^ 24 - 1 < 2 ^ 24 ∧ (∀ e ∈ r.tasks, e.2.state ≠ .swapped) ∧
    (2 ^ 23 - 1 : Nat).testBit 23 = false ∧ (∀ i, i < 8 → (r.core (8 * 23 + i)).task = none) ∧ (2 ^ 23 - 1 : Nat).testBit 0 = true ∧ 0 ∉ (r.stage 0).clusters := by
  and_intros <;> decide

/-- An image in slot B with the magic number, kind 1, layout 3 and security version 2, and the states of an update. -/
theorem witness_firmware :
    let i : Image := { bytes := [(0, 0x56), (1, 0x58), (2, 0x4E), (3, 0x46), (4, 2), (12, 3), (14, 1), (16, 3)] }
    let s : State := { host := { imageB := i } }
    let b := fun (o n : Nat) => i.bytes.readLE o n
    let t : State := { host := { imageB := { i with verified := true, secver := 2 }, update := .ready }, contexts := [(1, { theContext with phase := .saved })] }
    let v : State := { contexts := [(1, { theContext with phase := .saved, area := some { layout := 1 } })] }
    s.stuck = false ∧ ({ s with stuck := true } : State).stuck = true ∧ 64 + b 32 8 + 7856 ≤ 2 ^ 24 ∧ t.host.imageB.unchecked = false ∧
    ¬ 64 + 2 ^ 24 + 7856 ≤ 2 ^ 24 ∧ (List.replicate 8 (0 : Byte)).length % 8 = 0 ∧ (List.replicate 7 (0 : Byte)).length % 8 ≠ 0 ∧
    s.host.runningB = false ∧ s.recovery = false ∧ b 0 4 = 0x464E5856 ∧ b 14 1 = 1 ∧ b 15 1 = 0 ∧ b 16 2 = b 12 2 ∧ b 18 14 = 0 ∧ b 40 24 = 0 ∧
    s.host.minSecver ≤ b 4 4 ∧ b 4 4 < ({ minSecver := 3 } : HostSide).minSecver ∧ (∀ e ∈ s.contexts, e.2.area = none) ∧
    (∃ e ∈ v.contexts, ∃ a, e.2.area = some a ∧ a.layout ≠ b 16 2) ∧ isServed t (frame 0) ∧ t.host.update = .ready ∧
    (∀ e ∈ t.contexts, e.2.phase = .saved) ∧ t.host.imageB.verified = true ∧ t.record.minSecver ≤ t.host.imageB.secver ∧
    s.host.update = .none ∧ 2 ^ 24 < (frame 0xFFFFF9).addr.toNat + (List.replicate 8 (0 : Byte)).length ∧ (frame 0xFFFFF8).addr.toNat + (List.replicate 8 (0 : Byte)).length ≤ 2 ^ 24 := by
  refine ⟨rfl, rfl, by decide, rfl, by decide, by decide, by decide, rfl, rfl, by decide, by decide, by decide, by decide, by decide, by decide, by decide, by decide, by decide,
    ⟨_, List.mem_singleton.2 rfl, _, rfl, by decide⟩, ⟨rfl, rfl, rfl, rfl⟩, rfl, by decide, rfl, by decide, rfl, by decide, by decide⟩

def packet (h : Nat) (w1 w2 w3 : Nat) : List Byte := leBytes 8 h ++ leBytes 8 w1 ++ leBytes 8 w2 ++ leBytes 8 w3 ++ List.replicate 32 0

def queued (st : QState) (w : Bool) (bs : List Byte) : Queue :=
  { pasid := 1, q := 0, stage := 0, lg := 4, ring := 0x2000, wptr := 1, qstate := st, acting := if w then some (0, bs) else none, copies := [(0, bs)] }

/-- A header to be read, with a page and without one, a ring that has been overrun; TASK packets with a place, a full stage, a late
key, a foreign stage and a budget of 0. -/
theorem witness_PacketsAndTasks :
    let x : Queue := { queued .running false [] with copies := [] }
    let s := { mapped {} with queues := [(0, .live x)], pmem := tables ++ [(0x40002000, 5), (0x40002001, 1)] }
    let bs := packet 0x101 9 (7 + 2 ^ 40) 0
    let n := fun (o k : Nat) => leNat ((bs.drop o).take k)
    let late := mach {} theTask { theStage with commitPoint := { ts := 10 } }
    (s.queue? 0 = some x ∧ x.qstate = .running ∧ x.rptr ≠ x.wptr ∧ Table.get? x.copies x.rptr = none ∧ x.rereadAt = none ∧ x.acting = none ∧ s.recovery = false ∧ s.stuck = false ∧
      (x.wptr + 2 ^ 32 - x.rptr) % 2 ^ 32 ≤ 2 ^ x.lg ∧ 2 ^ x.lg < (17 + 2 ^ 32 - x.rptr) % 2 ^ 32 ∧
      (s.virtRead x.pasid (x.ring + 64 * (x.rptr % 2 ^ x.lg)) 64).isSome = true ∧ (mach {}).virtRead 1 0x2000 64 = none ∧
      ((s.virtRead 1 0x2000 64).map fun b => (leNat (b.take 8)).testBit 8) = some (x.rptr / 2 ^ x.lg % 2 == 0)) ∧
    (bs.length = 64 ∧ Table.get? (queued .running false bs).copies 0 = some bs ∧ (queued .running false bs).acting = none ∧ n 0 1 = 1 ∧ n 0 8 / 2 ^ 9 = 0 ∧ n 20 1 ≤ 3 ∧ n 21 1 ≤ 1 ∧
      n 22 2 = 0 ∧ n 32 32 = 0 ∧ (mach {}).stage 0 = theStage ∧ theStage.valid = true ∧ theStage.pasid = 1 ∧ n 24 8 < 2 ^ 48 ∧
      Table.get prog.budgets 0 (TaskKind.ofCode (n 20 1)).code ≠ 0 ∧ n 21 1 = 1 ∧
      Key.lt { ts := n 8 8, origin := 448, seq := 0 } (late.stage 0).commitPoint = true ∧
      Key.lt { ts := n 8 8, origin := 448, seq := 0 } theStage.commitPoint = false ∧ ((mach {}).inFlight 0).length < 256 ∧
      ((mach {}).ctx 1).phase = .active ∧ ((mach {}).stage 1).valid = false ∧ 3 < leNat (((packet 0x101 9 (2 ^ 34) 0).drop 20).take 1)) := by
  and_intros <;> decide

/-- SIGNAL, FENCE, NOP and LAUNCH packets that are read, misformed, waiting, and free to act. -/
theorem witness_PacketsActInOrder :
    let sig := packet 0x102 8 77 0
    let n := fun (bs : List Byte) (o k : Nat) => leNat ((bs.drop o).take k)
    let done : Task := { theTask with state := .committed }
    let s := { mapped {} with tasks := [(2, done)], queues := [(0, .live { queued .running true sig with tasks := [2] })] }
    let lau := packet 0x104 4096 0 0
    let p := { mapped {} with cores := [], tasks := [],
                              pmem := tables ++ [(0x40001000, 0x56), (0x40001001, 0x4B), (0x40001002, 0x37), (0x40001003, 0x4F), (0x40001004, 1), (0x40001006, 1)] }
    (sig.length = 64 ∧ n sig 0 1 = 2 ∧ n sig 0 8 / 2 ^ 9 = 0 ∧ n sig 8 8 % 8 = 0 ∧ n sig 24 40 = 0 ∧ n (packet 0x102 4 0 0) 8 8 % 8 ≠ 0 ∧
      (∀ τ ∈ [2], s.taskAny τ = some done) ∧ (queued .running true sig).acting = some ((queued .running true sig).rptr, sig) ∧ done.state = .committed ∧ done.wlog = [] ∧ s.coresOf 2 = [] ∧
      (∀ e ∈ s.clusters, ∀ h ∈ e.2.held, h.stage ≠ done.stage) ∧ done.inFlight = false ∧ theTask.inFlight = true ∧ theTask.state ≠ .committed ∧
      (translate s 1 (n sig 8 8)).map (fun g => (g.w, g.kind, g.home == s.chipNo, decide (g.pa + 8 ≤ doorBase))) = some (true, 1, true, true) ∧
      translate (mach {}) 1 8 = none) ∧
    (n (packet 0x103 0 0 0) 0 1 = 3 ∧ n (packet 0x103 0 0 0) 8 56 = 0 ∧ n (packet 0x103 1 0 0) 8 56 ≠ 0 ∧ n (packet 0x105 0 0 0) 0 1 = 5 ∧ n (packet 0x105 1 0 0) 8 56 ≠ 0 ∧
      (queued .fenceWait true (packet 0x103 0 0 0)).acting = some (0, packet 0x103 0 0 0)) ∧
    (n lau 0 1 = 4 ∧ n lau 8 8 % 4096 = 0 ∧ n lau 16 48 = 0 ∧ n (packet 0x104 8 0 0) 8 8 % 4096 ≠ 0 ∧ theStage.valid = true ∧ theStage.pasid = 1 ∧
      (mach {}).inFlight 0 ≠ [] ∧ (∀ e ∈ p.tasks, e.2.stage ≠ 0) ∧ (∀ e ∈ p.cores, e.2.task = none) ∧ (∀ e ∈ p.contexts, e.2.area = none) ∧ (p.ctx 1).phase = .active ∧
      ((readObject fun o k => p.virtRead 1 (4096 + o) k).map fun x => (x.1.team, x.1.xs, x.1.sects.length)) = some (1, 0, 0) ∧
      ((readObject fun o k => (mapped {}).virtRead 1 (4096 + o) k).isNone) = true) := by
  and_intros <;> decide

/-- Ports 5, 6 and 7, held down and not, and a chip that is neither viral nor in recovery. -/
theorem witness_LinksAndTheViralState :
    let s := { mach {} with link := { ports := [(6, { trained := true, heldDown := false })] } }
    let w := { mach {} with link := { blocked := [.resend 0 0] } }
    (s.port 5).heldDown = true ∧ (s.port 6).heldDown = false ∧ 6 ≤ 6 ∧ 5 < 6 ∧ s.recovery = false ∧ s.viral = false ∧ s.tripped = false ∧
    s.stuck = false ∧ s.link.outbound = [] ∧ s.link.blocked = [] ∧ w.link.blocked = [.resend 0 0] ∧ w.upPorts = [] ∧ ({ s with viral := true } : State).viral = true := by
  and_intros <;> decide

/-- A core at its one rewind point, for a strike at the point and one before it with a write held; a data error found again in a
rerun at a shadow-free point; a cluster that runs, an idle one, and the limits of self-test and voltage. -/
theorem witness_RecoveryAndAgeing :
    let s := { mach { rcv := { rps := [point] } } with clusters := [(0, { held := [heldWrite] })] }
    let safe : Program := { prog with code := [(0, 0x00000200)], starts := [0] }
    let r : Rerun := { strike := 4000 }
    let e := { mach { rcv := { rerun := some r, rps := [point] } } theTask { theStage with prog := some safe } with
      clusters := [(0, { errors := [(0, .register, 7)] })] }
    (s.viral = false ∧ s.tripped = false ∧ (s.core 0).task = some 1 ∧ s.task? 1 = some theTask ∧ theTask.leaving = none ∧ theTask.swap = .none ∧
      (s.ctx theTask.pasid).phase = .active ∧ (s.core 0).rcv.rps = [point] ∧ point.seg = (s.core 0).rcv.seg ∧
      (∀ x ∈ s.tasks, x.2.parent = none) ∧ (s.core 0).rcv.undo = [] ∧
      (∀ d, d < 8 → (s.core d).rcv.rerun = none) ∧
      (∀ d, d < 8 → d ≠ 0 → (s.core d).task = none ∧ (s.core d).rcv.last = none ∧ (s.core d).rcv.rps = []) ∧
      point.cycle ≤ 4000 ∧ 3999 < point.cycle ∧ (∃ h ∈ (s.clu 0).held, h.w.core = 0) ∧ point.cycle ≤ s.cycle ∧ theTask.retiring = false ∧ (s.clu 0).savingAt = none ∧ (∀ x ∈ s.tasks, x.2.swap = .none)) ∧
    ((e.core 0).rcv.rerun = some r ∧ (0, .register, 7) ∈ (e.clu 0).errors ∧ e.shadowFree 0 = true ∧ (e.core 0).task = some 1 ∧ e.task? 1 = some theTask) ∧
    (40 ≤ 40 ∧ 39 < 40 ∧ 800 ≤ 800 ∧ 800 < 801 ∧ (∃ d, d / 8 = 0 ∧ (s.core d).task ≠ none) ∧ (∀ x ∈ s.link.gangs, x.begun = false) ∧
      (∀ x ∈ s.contexts, x.2.phase = .active) ∧ (∀ d, d < 8 → (({} : State).core (8 * 23 + d)).task = none ∧ (({} : State).core (8 * 23 + d)).retired = false)) := by
  refine ⟨?_, ?_, by decide, by decide, by decide, by decide, ⟨0, by decide, by decide⟩, by decide, by decide, by decide⟩
  · and_intros <;> decide
  · and_intros <;> decide

/-- A viral chip, and one that has tripped. -/
theorem witness_strikes_ignored : ({ viral := true } : State).viral = true ∧ ({ tripped := true } : State).tripped = true := ⟨rfl, rfl⟩

/-- TripsAndResets and TheBootRomPicksASlot: temperatures 114 and 115, and slots that qualify in every way. -/
theorem witness_resets :
    let r : ConfigRecord := { shippedRecord with minSecver := 1 }
    let b : HostSide := { imageB := { verified := true, secver := 1 } }
    let fits := fun (r : ConfigRecord) (i : Image) => i.checked.verified && decide (r.minSecver ≤ i.checked.secver)
    114 < 115 ∧ 115 ≤ 115 ∧ State.reset.host.preferredB = false ∧ fits shippedRecord State.reset.host.imageA = true ∧
    fits r b.imageA = false ∧ fits r b.imageB = true ∧ b.imageB.unchecked = false ∧ ({ b.imageB with unchecked := true } : Image).unchecked = true ∧ ({ b with preferredB := true } : HostSide).preferredB = true ∧
    fits r State.reset.host.imageB = false ∧ fits { r with minSecver := 2 } b.imageB = false ∧ 1 ≤ 1 ∧ 6 < 7 := by
  decide

/-- Faults of a speculative task that waits and that does not, and of the frontier task at a shadow-free point, past one, and in
execution. -/
theorem witness_FaultsAreTaken :
    let f : FaultInfo := { code := 0x0A, core := 0, slot := 5, addr := 0, atExec := true, safe := true }
    let s := mach { seq := { bsafe := true, efault := some f } }
    let p := mach { rcv := { rps := [point] } }
    (spec {}).cur.task = some 1 ∧ (spec {}).task? 1 = some theTask ∧ (spec {}).turn < 192 ∧ (spec {}).speculative 0 = true ∧ (0x0A : Nat) ≤ 0x0C ∧
    ¬ ((0x08 : Nat) ≤ 7 ∨ (9 ≤ 0x08 ∧ 0x08 ≤ 0x0C) ∨ 0x08 = 0x0F) ∧ theTask.deferred = none ∧ s.speculative 0 = false ∧ s.cur.seq.bsafe = true ∧
    s.cur.seq.efault = some f ∧ f.core = s.turn ∧ f.slot = Slot.l.num ∧ f.addr = s.cur.seq.pc ∧ s.host.log = [] ∧ s.host.dropped = 0 ∧
    p.cur.seq.bsafe = false ∧ p.cur.rcv.rps = [point] ∧ p.cur.rcv.undo = [] ∧ (∀ e ∈ p.tasks, e.2.parent = none) := by
  and_intros <;> decide

theorem witness_no_dependences : ∀ d, d ≠ 0 → ((mach {}).core d).rcv.deps = [] := by
  intro d h
  have e : Table.get? (mach {}).cores d = none := witness_no_other_core d h
  unfold State.core Table.get
  rw [e]
  rfl

/-- A core whose next bundle is the spec's `s.add s5, s12, s34` alone, with these words (R32, R142), and with one operation that faults
(a branch to an unmarked word) and one that is held (a wait for one record). -/
def running (ws : List Word32) : State := mach {} theTask { theStage with prog := some { prog with code := ws.zipIdx.map fun x => (x.2, x.1), starts := [0, 4] } }

def endsWith (v : Verdict) (o : Host.Outcome State Fault Refusal) : Bool := match o with | .next t => t.cur.seq.verdict == v | _ => false

set_option maxRecDepth 4000 in
theorem witness_AStepRunsTheDecodedInstruction :
    let a := running [0x00000001, 0x51888000, 0x00000100]
    let f := running [0x00030001, 0x00000000, 0x00004800]
    let h := running [0x40000100, 0x00008800]
    let ready := fun (s : State) (sl : Slot) (v : Verdict) =>
      match decodeBundle ((s.progOf 0).window (s.core 0).seq.pc 16) with
      | some b => b.ovl == false && b.mark == false && b.seg == false && (match b.slots with
        | [(which, some i)] => which == sl && endsWith v (exec i (({ s with turn := 0 } : State).prelude b)) &&
            (List.range b.len).all fun n => n == 0 || !(s.progOf 0).starts.contains (advance (s.core 0).seq.pc n).toNat
        | _ => false)
      | none => false
    (a.pending = [] ∧ a.stuck = false ∧ a.tripped = false ∧ a.closing = false ∧ a.late = false ∧ a.nextCore = some 0 ∧ (a.ctx (a.pasidOf 0)).phase = .active ∧
      (a.core 0).rcv.rerun = none ∧ (a.core 0).seq.frozen ≤ a.cycle ∧ (a.core 0).eng.draining = false ∧ (a.core 0).seq.flight = [] ∧
      (a.core 0).eng.ldmc = none ∧ (a.core 0).seq.gloads = [] ∧ (a.core 0).eng.requests = [] ∧ (a.core 0).regs.donemask = 0 ∧
      (a.core 0).regs.driftlim.getLsbD 62 = false ∧ (a.core 0).seq.pc.toNat < 65536 ∧ (a.core 0).seq.pc.toNat ∈ (a.progOf 0).starts) ∧
    ready a .s .ok = true ∧ ready f .s .faulted = true ∧ ready h .y .held = true ∧ f.nextCore = some 0 ∧ h.nextCore = some 0 ∧
    ({ a with stuck := true } : State).inputs = [] ∧ ({ cycle := 3 } : State).nextCore = none := by
  and_intros <;> decide

/-- The least instruction of the family of EncodedInstructionsDecode, and a state whose reserved bits read zero and that steps. -/
theorem witness_EncodedInstructionsDecode :
    encodeField (.add always (.reg 5) (.reg 12) (.reg 34)) = some (.s, 0x0100518880000000) ∧ Instr.wf (.add always (.reg 5) (.reg 12) (.reg 34)) = true := by
  decide

theorem witness_ReservedBitsStayZero :
    (running [0x00000001, 0x51888000, 0x00000100]).hwcfgReserved = true ∧ State.reset.hwcfgReserved = true ∧
    (match step (running [0x00000001, 0x51888000, 0x00000100]) with | .next t => t.hwcfgReserved | _ => false) = true := by
  decide

/-- A line of stripe 36, chunk 4, in stack 1; its parity is in stack 4 (the worked case of R380). The edges: fourteen rebuilds and
fifteen in the last second, one channel lost, and two. -/
theorem witness_TheStorageMeetsErrors :
    let r := fun (n : Nat) => ({ mach {} with rebuilds := List.replicate n (32 * 1 + 4, 4999) } : State)
    let l := fun (cs : List Nat) => ({ mach {} with channelsLost := cs } : State)
    stripeOf 65536 = 36 ∧ stackOf 65536 = 1 ∧ chunkAt 1 36 = some 65536 ∧ chunkAt 4 36 = none ∧
    (((r 14).rebuilds.filter fun x => x.1 == 36 && decide (5000 < x.2 + 2700000000)).length = 14) ∧
    ((r 15).meetError (.stripe 36 [1])).channelsLost = [36] ∧ ((r 14).meetError (.stripe 36 [1])).channelsLost = [] ∧
    (l [36]).linePoisoned (granOf false 65536) = false ∧ (l [36, 32 * 4 + 4]).linePoisoned (granOf false 65536) = true ∧
    ((l []).meetError (.stripe 36 [1, 4])).linePoisoned (granOf false 65535) = false ∧
    ((l []).meetError (.stripe 36 [1, 4])).linePoisoned (granOf false 65791) = true ∧ (mach {}).host.log = [] ∧ (mach {}).host.dropped = 0 := by
  and_intros <;> decide

/-! ### Results of every file, collisions and refusals (R39-R50, R280, R281, R42) -/

/-- A due result for a register. -/
def due (d : Dest) (sl : Slot) (issued : Nat) : Result := { due := 0, slot := sl, dest := d, val := 5, mask := 7, issued := issued }

def landing (xs : List Result) : State := mach { seq := { flight := xs } }

/-- One lone result for each file, the registers that take nothing and poisoned data among them; two results for one register from the
slot that owns it and another, from two others, and from one slot. -/
theorem witness_ResultsLandInTheirBundle_files :
    (∀ d ∈ [Dest.p 15, .p 0, .v .va 3, .v .vb 127, .k .va 5, .k .vb 6, .k .va 0, .e 2, .la 31, .ta 4, .xa 5, .zm],
      let x := due d .va 0
      let s := landing [x]
      s.cur.seq.flight = [x] ∧ x.due ≤ s.cur.seq.stream ∧ x.flags = 0 ∧ s.cur.rcv.rerun = none ∧ x.bad = false ∧
      { x with bad := true }.bad = true) ∧
    (∀ e ∈ [(due (.s 5) .s 3, due (.s 5) .m 2), (due (.s 5) .m 2, due (.s 5) .x 3), (due (.s 5) .s 4, due (.s 5) .s 3)],
      let s := landing [e.2, e.1]
      s.cur.seq.flight = [e.2, e.1] ∧ e.1.dest = e.2.dest ∧ collides e.1.dest = true ∧ e.1.due ≤ s.cur.seq.stream ∧
      e.2.due ≤ s.cur.seq.stream ∧ e.1.flags = 0 ∧ e.2.flags = 0 ∧ e.1.bad = false ∧ e.2.bad = false ∧ s.cur.rcv.rerun = none) ∧
    (due (.s 5) .s 3).slot = owner (.s 5) ∧ (due (.s 5) .m 2).slot ≠ owner (.s 5) ∧ (due (.s 5) .x 3).slot ≠ owner (.s 5) ∧
    (due (.s 5) .s 3).issued < (due (.s 5) .s 4).issued := by
  and_intros <;> decide

/-- Links with the depth and a target that is marked and one that is not, of another depth and with a reserved bit; targets past the
code; loops that are refused for each reason; and values with a reserved bit for each register. -/
theorem witness_TransfersAndWritesRefused :
    let t : Loop := { start := 2, last := 4, count := 3 }
    let a := mach { seq := { loops := [t] }, regs := { s := [(1, 2 ^ 24 + 3), (2, 3), (3, 2 ^ 27 + 2 ^ 24 + 2), (4, 2 ^ 24 + 2 ^ 22), (5, 2 ^ 22), (6, 2 ^ 32)] } }
    let v := fun (n : BitVec 6) => (a.cur.readS (.reg n)).toNat
    (a.cur.on always = true ∧ (a.progOf a.turn).isStart 3 = false ∧ a.cur.seq.loops.length = 1 ∧ v 1 = 1 * 2 ^ 24 + (3 : CodeAddr).toNat ∧
      v 2 = (3 : CodeAddr).toNat ∧ a.cur.seq.pc + (3 : CodeAddr) = 3 ∧ v 2 / 2 ^ 24 % 8 ≠ 1 ∧ 2 ^ 27 ≤ v 3 ∧ v 3 / 2 ^ 24 % 8 = 1 ∧
      v 4 / 2 ^ 22 % 4 ≠ 0 ∧ 2 ^ 22 ≤ v 5 ∧ (mach {}).cur.seq.loops = []) ∧
    (2 ^ 32 ≤ (v 6 + (0 : CodeAddr).toNat) % 2 ^ 64 ∧ (0 : CodeAddr).toNat < ((a.cur.seq.pc.toNat + 2) % 65536) ∧
      (65536 + 2 : CodeAddr).toNat / 65536 ≠ 0 ∧ (List.replicate 6 t).length = 6 ∧ (4 : CodeAddr) = t.last ∧
      (v 0 + (1 : CodeAddr).toNat) % 2 ^ 64 < 2 ^ 32 ∧ (a.progOf a.turn).isStart 5 = false) ∧
    (2 ^ 14 ≤ v 6 ∧ (32 : Word64).toNat / 32 % 8 ≠ 0 ∧ 4 ≤ v 6 ∧ 8 < (BitVec.ofNat 64 (9 * 2 ^ 58)).toNat / 2 ^ 58 % 16) := by
  and_intros <;> decide

/-! ### Vector lanes (R94-R112) -/

def chainWord (o1 : Op1) (o2 : Op2) (o3 : Op3) (ty : VType) (aux : BitVec 4) : Chain :=
  { op1 := o1, op2 := o2, op3 := o3, dst := .reg 7, a := .reg 1, b := .reg 2, c := .reg 3, k := 0, ty := ty, aux := aux }

set_option maxRecDepth 8000 in
/-- 1.0 in lane 0 and zeros in the others: numbers that are neither infinite nor NaN, and a zero for the elementary functions; minus
infinity and a mask bit that is set. -/
theorem witness_VectorLanes :
    let s := mach { regs := { va := [(1, 0x3F800000), (2, 0xFF800000)] } }
    let md := modeOf s.cur.modeFpc
    (s.cur.on always = true ∧ Op3.pass ∉ [Op3.perm, .bcast, .rsum, .rmax, .scanx, .xlg] ∧
      (chainWord .fma .pass .gelu .f32 0).op1 ≠ .cvt) ∧
    (∃ m e, decodeF FP32 md.ftz (lane (s.cur.readV .va (.reg 1)) 0).toNat = .fin false m e) ∧
    (∃ m e, decodeF FP32 md.ftz (lane (s.cur.readV .va (.reg 3)) 0).toNat = .fin false m e) ∧
    decodeF FP32 md.ftz (lane (s.cur.readV .va (.reg 2)) 0).toNat = .inf true ∧
    (lane (s.cur.readV .va (.reg 3)) 127).toNat = 0 ∧ (lane (s.cur.readV .va (.reg 2)) 0).toNat = 0xFF800000 ∧
    s.cur.readK .va 0 = BitVec.allOnes 128 ∧ (BitVec.allOnes 128).getLsbD 127 = true ∧ (chainWord .cvt .pass .pass .i32 0).op1 = .cvt ∧ (chainWord .pass .pass .xlg .i32 15).aux.getLsbD 3 = true := by
  refine ⟨by decide, ⟨_, _, rfl⟩, ⟨_, _, rfl⟩, rfl, ?_⟩
  and_intros <;> decide

/-- A burst whose cluster has no token. -/
theorem witness_MatrixPushesRefused :
    let s := mach {}
    s.cur.on always = true ∧ (s.clu (s.turn / 8)).hasToken = false ∧ partFits (96 * (0 : BitVec 14).toNat) (partSizes .f32).1 ∧
    s.cur.arr.mblk = 0 ∧ s.cur.arr.lastF32 = none ∧ ¬ partFits (96 * (0x3FFF : BitVec 14).toNat) (partSizes .f32).1 := by
  refine ⟨rfl, rfl, ⟨by decide, by decide⟩, rfl, rfl, fun h => absurd h.1 (by decide)⟩

/-! ### Multicast loads, global accesses, held writes (R178-R180, R190, R191, R200, R201, R217) -/

set_option maxRecDepth 8000 in
/-- A multicast load outstanding, not yet due, due, poisoned, and due on a granule that its own segment has read first. -/
theorem witness_MulticastDataLands :
    let m : Ldmc := { due := 9, ranks := 1, tgt := 128, data := List.replicate 128 1 }
    let a := mach { seq := { stream := 8 }, eng := { ldmc := some m } }
    let b := mach { seq := { stream := 9 }, eng := { ldmc := some m } }
    let c := mach { seq := { stream := 9 }, eng := { ldmc := some m }, rcv := { seen := [(3, true)] } }
    ((a.core 0).eng.ldmc = some m ∧ (a.core 0).seq.stream < m.due ∧ a.cur.seq.stream < m.due ∧ a.cur.on always = true) ∧
    ((b.core 0).eng.ldmc = some m ∧ m.due ≤ (b.core 0).seq.stream ∧ m.bad = false ∧ { m with bad := true }.bad = true ∧
      (b.core 0).breaches (granRange granSp m.tgt m.data.length) b.cycle = false ∧ (b.core 0).task = some 1 ∧ 0 ∈ b.coresOf 1 ∧
      m.ranks.testBit (b.core 0).rank = true) ∧
    ((c.core 0).eng.ldmc = some m ∧ m.ranks.testBit (c.core 0).rank = true ∧
      (c.core 0).breaches (granRange granSp m.tgt m.data.length) c.cycle = true) := by
  and_intros <;> decide

/-- The page of kind RC with its right to write taken away, of kind SO, and of kind UN (R336). -/
def paged (leaf : Byte) (k : Core) : State :=
  { mapped k with pmem := [(0x200000, 0x01), (0x200002, 0x40), (0x400000, leaf), (0x400003, 0x40)] }

theorem fresh_paged (leaf : Byte) : freshCaches (paged leaf {}) ((paged leaf {}).pasidOf 0) :=
  fun _ e h => absurd (show (none : Option (Word64 × Nat)) = some e from h) nofun

/-- An access with no translation, one without the right to write, an acquire of a UN page; the first of several elements. -/
theorem witness_GlobalAccessesFault :
    (globalFault (mach {}) false false 0 = some 0x09 ∧ globalFault (paged 0x17 {}) true false 8 = some 0x0A ∧
      globalFault (paged 0x17 {}) false false 8 = none ∧ globalFault (paged 0x2F {}) false true 8 = some 0x0A ∧
      globalFault (paged 0x2F {}) true false 8 = none) ∧
    firstFault (mach {}) false false 512 128 (fun k => k) 0x09 ∧ freshCaches (mach {}) 1 := by
  refine ⟨?_, ⟨0, by decide, rfl, rfl, fun j h => absurd h (Nat.not_lt_zero j)⟩, no_translations {}⟩
  and_intros <;> decide

/-- Pages of kind SO and UN that may be written, for the frontier task and for a speculative one. -/
theorem witness_StoresToOtherPageKinds :
    (let s := paged 0x0F {}
     s.cur.on always = true ∧ (translate s (s.pasidOf s.turn) 0).map (fun pg => (pg.kind, pg.w, pg.home, pg.pa)) = some (0, true, s.chipNo, 0x40000000) ∧
      s.cur.task = some 1 ∧ s.task? 1 = some theTask ∧ s.speculative s.turn = false ∧ (s.clu 0).held.length + 256 ≤ 16384) ∧
    (let s := paged 0x2F {}
     (translate s (s.pasidOf s.turn) 0).map (fun pg => (pg.kind, pg.w, pg.home, pg.pa)) = some (2, true, s.chipNo, 0x40000000) ∧
      (s.stage (s.stageOf s.turn)).burstEnd ≤ s.cycle) ∧
    (let s := { paged 0x0F {} with stages := [(0, { theStage with frontier := some 9 })] }
     s.speculative s.turn = true ∧ (translate s (s.pasidOf s.turn) 0).map (·.kind) = some 0) := by
  and_intros <;> decide

/-- A held write of global memory; two held writes of one core, by a `strel` and by their kind. -/
theorem witness_HeldWritesReachTheirHome_pairs :
    let g : Held := { heldWrite with w := { heldWrite.w with xs := false } }
    let late : Held := { heldWrite with w := { heldWrite.w with clearAt := some 5001 } }
    let so := fun (n : Nat) (h : Held) => { h with w := { h.w with so := true }, ord := n }
    let next : Held := { heldWrite with w := { heldWrite.w with epoch := 1 } }
    let s := fun (l : List Held) => { mach {} with clusters := [(0, { held := l })] }
    (((s [g]).clu 0).held = [g] ∧ g.w.addr + g.w.bytes.length ≤ 0x20000000000 ∧ 0 < g.w.bytes.length ∧ g.w.xs = false ∧ g.w.rel = false) ∧
    (((s [late, next]).clu 0).held = [late, next] ∧ late.w.clearAt = some 5001 ∧ (s []).cycle < 5001 ∧ late.w.core = next.w.core ∧
      late.pasid = next.pasid ∧ late.w.epoch < next.w.epoch) ∧
    ((so 0 late).w.so = true ∧ (so 1 heldWrite).w.so = true ∧ (so 0 late).ord < (so 1 heldWrite).ord) := by
  and_intros <;> decide

/-! ### Engines (R226, R231, R235, R236, R241) -/

/-- A fetch of a spilled entry and a refused record. -/
theorem witness_EngineCommandsHeldOrRefused_spilled :
    let h := mach { sp := shapes } theTask theStage { theContext with stash := [{ key := 0, state := .spilled }] }
    (h.shapeAt 0).isSome = true ∧ (h.cur.readXA 3).toNat < 2 ^ 39 ∧
    (h.ctx (h.pasidOf h.turn)).entry? (h.cur.readXA 3).toNat = some { key := 0, state := .spilled } := by
  and_intros <;> decide

/-- A multicast that is due, and copies that leave the cluster: not started and far, speculative, with their bytes due at levels 2, 3
and 4, and behind an earlier write. -/
theorem witness_CopiesReachOtherLevels :
    let o : EngOp := { copyOp { fourInts with base := 2048 } with started := true, doneAt := 5000, elems := [(1, 0), (2, 0), (3, 0), (4, 0)] }
    let mc : EngOp := { o with cmd := .copy { fourInts with base := 2048 } fourInts (some 1) }
    let s := mapped { eng := { copyQ := [mc] } }
    let d2 : Shape := { fourInts with base := 2048, lvl := 2 }
    let d3 : Shape := { fourInts with base := 2048, lvl := 3 }
    let d4 : Shape := { fourInts with base := 2048, lvl := 4, chip := 6 }
    let bs := fun (d : Shape) => (copyBytes d fourInts o.elems).1
    let early : Held := { heldWrite with w := { heldWrite.w with addr := 2048, bytes := [1], id := 0 } }
    let clear : EngOp := { o with clearAt := some 5000 }
    ((s.core 0).eng.copyQ = mc :: [] ∧ mc.complete = false ∧ mc.started = true ∧ mc.doneAt ≤ s.cycle ∧ (s.core 0).eng.evq.length < 128 ∧
      mc.status = 0 ∧ (s.core 0).task = some 1 ∧ 0 ∈ s.coresOf 1 ∧ (1 : Nat).testBit (s.core 0).rank = true ∧ ¬(1 : Nat).testBit 1 = true) ∧
    (2 ≤ d2.lvl ∧ (copyOp d2).started = false ∧ s.isFrontier o.tid = true ∧ (spec {}).isFrontier o.tid = false ∧
      s.tensorHeld 0 o.id d2 true = false ∧ s.tensorUnclear 0 (copyOp d2) d2 true = false) ∧
    (bs d2 ≠ [] ∧ (∀ x ∈ bs d2, outAddr s 0 2 x.1 = some x.1.toNat) ∧ ((bs d2).map (fun x => x.1.toNat)).Nodup ∧
      (∀ x ∈ bs d3, outAddr s 0 3 x.1 = some (0x40000000 + x.1.toNat)) ∧ ((bs d3).map (fun x => 0x40000000 + x.1.toNat)).Nodup ∧
      bs d4 ≠ [] ∧ (∀ x ∈ bs d4, 0 ≤ x.1 ∧ x.1 < 2 ^ 57) ∧ s.link.gangs = [] ∧ early.w.id < o.id ∧ early.w.xs = true ∧
      (∃ x ∈ bs d2, early.w.addr ≤ x.1.toNat ∧ x.1.toNat < early.w.addr + early.w.bytes.length) ∧ clear.clearAt = some 5000 ∧ 5000 ≤ s.cycle ∧
      o.clearAt = none) := by
  and_intros <;> decide

/-- A register write of the frontier task that its rules refuse, of a speculative one, and one that a rerun repeats. -/
theorem witness_EngineRegisters_reruns :
    let v : Word64 := BitVec.ofNat 64 (2 ^ 63 + 2 ^ 15)
    let s := mach { regs := { xa := [(1, v)] }, rcv := { engwsAgain := [(0x2BF, v)] } } theTask theStage
      { theContext with outch := [(63, { valid := true })] }
    engReg? (0x2BF : BitVec 12).toNat = some (.outChan 63) ∧ s.engRefuse (s.pasidOf s.turn) (.outChan 63) (s.cur.readXA 1) = some 0x0A ∧
    ((0x2BF : BitVec 12).toNat, s.cur.readXA 1) ∈ s.cur.rcv.engwsAgain ∧ s.speculative s.turn = false ∧ (mach {}).cur.rcv.engwsAgain = [] := by
  and_intros <;> decide

/-! ### Chip phasers, retirements, commits, memory (R294-R298, R264, R18) -/

/-- Handle y3 of core 0 names chip phaser 5 of its context, in phase 4; its member, if any. -/
def chipPhased (code : Nat) (m : Option Member) (k : Core := {}) : State :=
  { mach { k with ys := { k.ys with y := [(3, BitVec.ofNat 16 (2 ^ 15 + 2 ^ 14 + code * 2 ^ 12 + 5))] } } with
    chipPhasers := [(5, { phase := 4, nsig := 1, members := m.toList })] }

theorem witness_ChipPhaserSignalsAndWaits :
    let a := chipPhased 3 (some (member .sw 4 3))
    let b := chipPhased 3 (some (member .sw 5 4))
    let o : PhaserOp := { core := 0, rank := 0, tid := 1, seg := 0, clearAt := none, index := 5, act := .signal, stamp := 0 }
    let q := chipPhased 3 (some (member .sw 4 4)) { eng := { phaserOps := [o] } }
    let p := fun (s : State) => Table.get s.chipPhasers {} ((s.ctx (s.pasidOf s.turn)).phbase + 5)
    (a.cur.on always = true ∧ a.cur.task = some 1 ∧ a.cur.seq.hold = none ∧ a.cur.ys.phswDone = false ∧ a.cur.seq.signalledAt = none ∧
      Table.get a.cur.ys.y 0 (3 : BitVec 4).toNat = BitVec.ofNat 16 (2 ^ 15 + 2 ^ 14 + 3 * 2 ^ 12 + 5)) ∧
    ((p a).member? 1 a.cur.rank = some (member .sw 4 3) ∧ (member .sw 4 3).q = (p a).phase ∧ (member .sw 4 3).w ≠ (p a).phase ∧
      a.cur.eng.phaserOps = []) ∧
    ((p b).member? 1 b.cur.rank = some (member .sw 5 4) ∧ (member .sw 5 4).q ≠ (p b).phase ∧ (member .sw 5 4).w = (p b).phase) ∧
    (q.cur.eng.phaserOps = [o] ∧ o.index = (q.ctx (q.pasidOf q.turn)).phbase + 5 ∧ o.tid = 1 ∧ o.act = .signal ∧
      (p q).member? 1 q.cur.rank = some (member .sw 4 4)) ∧
    (p (chipPhased 1 none)).member? 1 0 = none ∧
    (let j : PhaserOp := { o with act := .join .s }; j.index = 5 ∧ j.act = .join .s ∧ j.act ≠ .signal ∧ (chipPhased 1 none { eng := { phaserOps := [j] } }).cur.eng.phaserOps = [j]) ∧
    Table.get (chipPhased 1 none).cur.ys.y 0 3 = BitVec.ofNat 16 (2 ^ 15 + 2 ^ 14 + 1 * 2 ^ 12 + 5) ∧
    Table.get (chipPhased 2 none).cur.ys.y 0 3 = BitVec.ofNat 16 (2 ^ 15 + 2 ^ 14 + 2 * 2 ^ 12 + 5) := by
  and_intros <;> decide

/-- An ended B task with a W budget and with none, and a tile's task with its slot; a candidate with writes to commit and one that has
been told to abort. -/
theorem witness_RetirementsGoOn :
    let k : Task := { theTask with kind := .b, state := .ended }
    let p : Program := { prog with budgets := [(TaskKind.w.code, 40)], woffset := 9 }
    let s := { mach {} k { theStage with prog := some p } with nextId := 2 }
    let z := { mach {} k with nextId := 2 }
    let e : Task := { theTask with state := .ended, tile := some (3, 0, 0) }
    let t := { mach {} e theStage { theContext with inch := [(3, { valid := true, tilesz := 1, tiles := [{ tid := some 1, prod := 2, number := 0, place := 0, seq := 0, tag := 7, ts := 5, stamp := 0 }] })] } with nextId := 2 }
    let w : Write := { xs := true, addr := 256, bytes := [1], core := 0, seg := 0 }
    let f := mach {} { theTask with wlog := [w] } { theStage with frontier := none }
    (s.task? 1 = some k ∧ (s.stage 0).frontier = some 1 ∧ k.wlog = [] ∧ k.event = none ∧ (s.stage 0).burstEnd ≤ s.cycle + 1 ∧
      (s.stage 0).lastRetire ≠ some s.cycle ∧ (∀ e ∈ s.tasks, e.2.heldBack = false) ∧ 1 ≠ s.nextId ∧ k.tile = none ∧
      Table.get ((s.stage 0).prog.getD {}).budgets 0 TaskKind.w.code ≠ 0) ∧
    Table.get ((z.stage 0).prog.getD {}).budgets 0 TaskKind.w.code = 0 ∧
    (t.task? 1 = some e ∧ e.kind ≠ .b ∧ t.tileOf e.pasid 3 1 = some { tid := some 1, prod := 2, number := 0, place := 0, seq := 0, tag := 7, ts := 5, stamp := 0 }) ∧
    ((f.stage 0).frontier = none ∧ f.frontierCandidate 0 = some 1 ∧ (f.stage 0).lastRetire ≠ some f.cycle ∧ theTask.abortDue = none ∧
      theTask.deferred = none ∧ w.un = false ∧ (∀ e ∈ f.clusters, e.2.held.length + 1 ≤ 16384) ∧
      (mach {} { theTask with abortDue := some (true, false) } { theStage with frontier := none }).frontierCandidate 0 = some 1) := by
  and_intros <;> decide

/-- A running machine whose memories have the form. -/
theorem witness_MemoryStaysCanonical :
    (mapped {}).memoryWf = true ∧ (mapped {}).hwcfgReserved = true ∧ (∃ t, step (mapped {}) = .next t) := by
  refine ⟨by decide, by decide, ?_⟩
  have h : (match step (mapped {}) with | .next _ => true | _ => false) = true := by decide
  revert h
  cases step (mapped {}) with
  | next t => exact fun _ => ⟨t, rfl⟩
  | fault f => exact fun h => absurd h Bool.false_ne_true
  | refused r => exact fun h => absurd h Bool.false_ne_true

/-! ### Single steps and shared operations; every expected value stands in a worked case or a table of the spec -/

/-- The value that an operation has put in flight. -/
def sends (o : Host.Outcome State Fault Refusal) (v : Nat) : Bool :=
  match o with
  | .next t => t.cur.seq.flight.map (fun x => x.val) == [v]
  | _ => false

def two (a b : Word64) : State := mach { regs := { s := [(1, a), (2, b)] } }

set_option maxRecDepth 16000 in
/-- Sums wrap; amounts of 64 and more (R91, R144, R145). -/
theorem test_sums_and_shifts :
    sends (exec (.add always (.reg 3) (.reg 1) (.reg 2)) (two (2 ^ 64 - 1) 2)) 1 ∧
    sends (exec (.sar always (.reg 3) (.reg 1) (.reg 2)) (two (2 ^ 63) 64)) (2 ^ 64 - 1) ∧
    sends (exec (.shl always (.reg 3) (.reg 1) (.reg 2)) (two 1 64)) 0 ∧
    sends (exec (.rot always (.reg 3) (.reg 1) (.reg 2)) (two (2 ^ 63) 65)) 1 ∧
    sends (exec (.addi always (.reg 3) (.reg 1) 0xFFFFFFFD) (two 2 0)) (2 ^ 64 - 1) := by
  and_intros <;> decide

set_option maxRecDepth 16000 in
/-- The worked case of R147 (spec/07): -7 by 2, and by zero. -/
theorem test_quotients :
    sends (exec (.div always (.reg 3) (.reg 1) (.reg 2)) (two (2 ^ 64 - 7) 2)) (2 ^ 64 - 3) ∧
    sends (exec (.rem always (.reg 4) (.reg 1) (.reg 2)) (two (2 ^ 64 - 7) 2)) (2 ^ 64 - 1) ∧
    sends (exec (.divu always (.reg 5) (.reg 1) (.reg 0)) (two (2 ^ 64 - 7) 2)) (2 ^ 64 - 1) ∧
    sends (exec (.div always (.reg 3) (.reg 1) (.reg 2)) (two (2 ^ 63) (2 ^ 64 - 1))) (2 ^ 63) ∧
    sends (exec (.rem always (.reg 3) (.reg 1) (.reg 2)) (two (2 ^ 63) (2 ^ 64 - 1))) 0 := by
  and_intros <;> decide

/-- The worked case of R154: a 64-bit constant in two operations. -/
theorem test_constants :
    sends (exec (.li always (.reg 7) 0x456789ABC00) (two 0 0)) 0x00000456789ABC00 ∧
    sends (exec (.lih always (.reg 7) (.reg 1) 0x00F23) (two 0x00000456789ABC00 0)) 0x00F23456789ABC00 := by
  and_intros <;> decide

/-- The worked case of R78: 300.0 and 500.0 in the 8-bit formats; `of` is bit 10 of `fpc`, `nx` bit 8. -/
theorem test_eight_bit_conversions :
    convF FP32 E4M3 { fixedMode with sat8 := false } 0x43960000 = (0x79, 2 ^ 8) ∧
    convF FP32 E4M3 { fixedMode with sat8 := false } 0x43FA0000 = (0x7F, 2 ^ 10 + 2 ^ 8) ∧
    convF FP32 E4M3 fixedMode 0x43FA0000 = (0x7E, 2 ^ 10 + 2 ^ 8) ∧ convF FP32 E5M2 fixedMode 0x43FA0000 = (0x60, 2 ^ 8) := by
  and_intros <;> decide

/-- The worked case of R88: a block sum of two products and the accumulator that it closes into. -/
theorem test_log6_block :
    blockStep 0 false 0x05 0x02 = (28215808, false) ∧ blockStep 28215808 false 0x3D 0x1C = (25721856, false) ∧
    closeBlock 0 { sum := 25721856 } 129 126 = 0x40C43E00 ∧ closeBlock 0 { sum := 25721856 } 129 0xFF = 0x7FC00000 := by
  and_intros <;> decide

/-- The worked case of R106 (spec/05): saturating sums of bytes, then shifts by 1, 3, 8 and 0. -/
theorem test_byte_chain :
    (unit2 .iadds .i8x4 0 fixedMode 0x7F10F005 0x0101F0FE).1 = 0x7F11E003 ∧
    (unit3Lane .shl .i8x4 fixedMode true 0x7F11E003 0x00080301).1 = 0x7F000006 := by
  constructor <;> decide

/-- The worked case of R101; its high half stands against the rule's own formula (assumption log 79), which gives 0x1E. -/
theorem test_carry_less_product :
    (unit1 .clmul .i32 0 fixedMode 0x22 0xFFFFFFFF 0).1 = 0x1E ∧ (unit1 .clmulh .i32 0 fixedMode 0x22 0xFFFFFFFF 0).1 = 0x1E := by
  constructor <;> decide

/-- The worked case of `rsum` (spec/05): the tree absorbs both small terms. -/
theorem test_lane_tree :
    (reduceSpan false .f32 0 fixedMode ((0x3F800000, 0) :: (0x33800000, 0) :: (0x33800000, 0) :: List.replicate 13 (0, 0))).head? =
      some (0x3F800000, 2 ^ 8) := by
  decide

/-- The worked case of R157 (spec/08): the fixed tree, and two trees of arrival mode. -/
theorem test_reduction_trees :
    let j := combineOne 0 0
    j (j 0x3F800000 0x33800000) (j 0x33800000 0xBF800000) = 0x33800000 ∧
    j (j (j 0x33800000 0x33800000) 0x3F800000) 0xBF800000 = 0x34000000 ∧
    j (j (j 0x3F800000 0x33800000) 0x33800000) 0xBF800000 = 0 := by
  and_intros <;> decide

/-- The worked case of R313: tiles 1, 4, 7 and 10 of a descriptor of ten in rows of four. -/
theorem test_tiles :
    [1, 4, 7, 10].map (tileValue 10 4 2 0 0) = [1, 0x10000, 0x10003, 2 ^ 64 - 1] := by
  decide

/-- The worked case of R340: the probes of queue 3 of PASID 81. -/
theorem test_queue_probes : probes 81 3 = [2910, 2911, 2912, 2913, 2914, 2915, 2916, 2917] := by decide

/-- The worked case of R244 (spec/11): the codes of a block of 3.0, about 0.1 and -0.0. -/
theorem test_stash_codes :
    f8Block [decodeF FP32 false 0x40400000, decodeF FP32 false 0x3DCCCCCD, decodeF FP32 false 0x80000000, decodeF FP32 false 0] =
      (120, [0x7C, 0x55, 0x80, 0]) := by
  decide

/-- The records of the worked case of spec/19: drift 60 of core 13 at 0x340, and a stamp of count 300 in PASID 81. -/
theorem test_log_words :
    logWord 2 13 0xF 0x340 60 = 0x20DF000D0000003C ∧ stampWord 81 300 = 0xF00051000000012C := by
  constructor <;> decide

/-- R322: a die at 93.01 % of its share that stood in class 0 stays there, and one at 105 degrees is in class 3. -/
theorem test_classes :
    aboveThresholds 3 9301 300 [7000, 8500, 9500] = 3 ∧ aboveThresholds 2 9301 300 [7000, 8500, 9500] = 2 ∧
    aboveThresholds 0 105 3 [85, 95, 105] = 3 ∧ aboveThresholds 3 102 3 [85, 95, 105] = 2 := by
  and_intros <;> decide

set_option maxRecDepth 16000 in
/-- R362: a reset whose step 4 fails leaves the chip there; the record of step 3 has been read by then (R5). -/
theorem test_reset_failure :
    (match exec (.powerOnReset shippedRecord (some 4)) State.reset with
      | .next t => t.resetStep == 4 && t.stuck && decide (t.hwcfg.toNat / 2 ^ 24 = 192) && t.host.sent.isEmpty
      | _ => false) = true := by
  decide

end Sys2Proof.Tests
end

section
/-!
PROOFS. The compares, the predicate operations and the select of the S slot (R150-R152): what each one sends to its
destination, and the word of its layout.
-/
namespace Sys2Proof.Machine

/-! ### A slot operation whose guard holds, and one whose guard does not (R39, R46) -/

/-- An S operation whose guard holds has one result in flight. -/
theorem sOp_on {s : State} {g : Guard} (hg : s.cur.on g = true) (d : SDst) (n : Nat) (v : Word64) :
    sOp s g d n v = s.gains .s n (destS d) v.toNat (2 ^ 64 - 1) 0 := by
  rw [sOp, if_pos hg, State.pushS_eq]

theorem sOp_off {s : State} {g : Guard} (hg : s.cur.on g = false) (d : SDst) (n : Nat) (v : Word64) :
    sOp s g d n v = s := by
  simp [sOp, hg]

theorem pushP_eq_gains (s : State) (pd : BitVec 4) (v : Bool) :
    s.pushP pd v = s.gains .s 1 (.p pd.toNat) (if v then 1 else 0) 1 0 := by
  cases v <;> rfl

/-- A predicate operation whose guard holds has one bit in flight, for the next bundle. -/
theorem pOp_on {s : State} {g : Guard} (hg : s.cur.on g = true) (pd : BitVec 4) (v : Bool) :
    pOp s g pd v = s.gains .s 1 (.p pd.toNat) (if v then 1 else 0) 1 0 := by
  rw [pOp, if_pos hg, pushP_eq_gains]

/-! ### The bits that the operations compute (R151, R152)

The orders of `BitVec` are the comparisons of R151 by definition; equality goes through the value of the word. -/

theorem beq_eq_decide_toNat {w : Nat} (x y : BitVec w) : (x == y) = decide (x.toNat = y.toNat) := by
  rw [Bool.eq_iff_iff, beq_iff_eq, decide_eq_true_iff, BitVec.toNat_inj]

theorem bne_eq_decide_toNat {w : Nat} (x y : BitVec w) : (x != y) = decide (x.toNat ≠ y.toNat) := by
  rw [bne, beq_eq_decide_toNat, decide_not]

theorem exec_ceq (g : Guard) (pd : BitVec 4) (a b : SSrc) (s : State) : exec (.ceq g pd a b) s =
    .next (pOp s g pd (decide ((s.cur.readS a).toNat = (s.cur.readS b).toNat))) := by
  rw [← beq_eq_decide_toNat]; rfl

theorem exec_cne (g : Guard) (pd : BitVec 4) (a b : SSrc) (s : State) : exec (.cne g pd a b) s =
    .next (pOp s g pd (decide ((s.cur.readS a).toNat ≠ (s.cur.readS b).toNat))) := by
  rw [← bne_eq_decide_toNat]; rfl

theorem exec_clt (g : Guard) (pd : BitVec 4) (a b : SSrc) (s : State) : exec (.clt g pd a b) s =
    .next (pOp s g pd (decide ((s.cur.readS a).toInt < (s.cur.readS b).toInt))) := rfl

theorem exec_cltu (g : Guard) (pd : BitVec 4) (a b : SSrc) (s : State) : exec (.cltu g pd a b) s =
    .next (pOp s g pd (decide ((s.cur.readS a).toNat < (s.cur.readS b).toNat))) := rfl

theorem exec_cle (g : Guard) (pd : BitVec 4) (a b : SSrc) (s : State) : exec (.cle g pd a b) s =
    .next (pOp s g pd (decide ((s.cur.readS a).toInt ≤ (s.cur.readS b).toInt))) := rfl

theorem exec_cleu (g : Guard) (pd : BitVec 4) (a b : SSrc) (s : State) : exec (.cleu g pd a b) s =
    .next (pOp s g pd (decide ((s.cur.readS a).toNat ≤ (s.cur.readS b).toNat))) := rfl

theorem exec_pand (g : Guard) (pd pa pb : BitVec 4) (s : State) : exec (.pand g pd pa pb) s =
    .next (pOp s g pd (s.cur.readP pa.toNat && s.cur.readP pb.toNat)) := rfl

theorem exec_por (g : Guard) (pd pa pb : BitVec 4) (s : State) : exec (.por g pd pa pb) s =
    .next (pOp s g pd (s.cur.readP pa.toNat || s.cur.readP pb.toNat)) := rfl

theorem exec_pxor (g : Guard) (pd pa pb : BitVec 4) (s : State) : exec (.pxor g pd pa pb) s =
    .next (pOp s g pd (s.cur.readP pa.toNat != s.cur.readP pb.toNat)) := rfl

theorem exec_pnot (g : Guard) (pd pa : BitVec 4) (s : State) : exec (.pnot g pd pa) s =
    .next (pOp s g pd (!s.cur.readP pa.toNat)) := rfl

theorem exec_sel (g : Guard) (d : SDst) (a b : SSrc) (pp : BitVec 4) (s : State) : exec (.sel g d a b pp) s =
    .next (sOp s g d 1 (if s.cur.readP pp.toNat then s.cur.readS a else s.cur.readS b)) := rfl

/-! ### The words of the layouts (R142)

The model's encoder groups a word as opcode, guard and the rest; the layouts list the fields side by side. -/

theorem encCmp_eq (op : Nat) (g : Guard) (pd : BitVec 4) (a b : SSrc) : encCmp op g pd a b =
    op * 2 ^ 56 + (encGuard g * 2 ^ 51 + pd.toNat * 2 ^ 47 + encSSrc a * 2 ^ 37 + encSSrc b * 2 ^ 30) := by
  simp only [encCmp, encS, Nat.add_assoc]

theorem encPL_eq (op : Nat) (g : Guard) (pd pa pb : BitVec 4) : encPL op g pd pa pb =
    op * 2 ^ 56 + (encGuard g * 2 ^ 51 + pd.toNat * 2 ^ 47 + pa.toNat * 2 ^ 43 + pb.toNat * 2 ^ 39) := by
  simp only [encPL, encS, Nat.add_assoc]

/-- The word of `pnot` is that of a two-source operation with the field pb left out (R143). -/
theorem encPL_zero_eq (op : Nat) (g : Guard) (pd pa pb : BitVec 4) : encPL op g pd pa 0 =
    op * 2 ^ 56 + (encGuard g * 2 ^ 51 + pd.toNat * 2 ^ 47 + pa.toNat * 2 ^ 43 + pb.toNat * 2 ^ 39 - pb.toNat * 2 ^ 39) := by
  rw [encPL_eq, zero_toNat, Nat.zero_mul, Nat.add_zero, Nat.add_sub_cancel]

theorem encRR_sel_eq (op : Nat) (g : Guard) (d : SDst) (a b : SSrc) (pp : BitVec 4) : encRR op g d a b + pp.toNat * 2 ^ 26 =
    op * 2 ^ 56 + encGuard g * 2 ^ 51 + encSDst d * 2 ^ 44 + encSSrc a * 2 ^ 37 + encSSrc b * 2 ^ 30 + pp.toNat * 2 ^ 26 := by
  simp only [encRR, encS, Nat.add_assoc]

/-- The field of a well-formed operation, written as any number equal to the encoder's, is written and read back (R51). -/
theorem encodes_and_decodes {i : Instr} {sl : Slot} {w w' : Nat} (hrt : Laws.RoundTrip.Statement i) (hwf : i.wf = true)
    (he : encodeField i = some (sl, w)) (hw : w = w') :
    encodeField i = some (sl, w') ∧ decodeField sl w' = some i := by
  subst hw
  have h := hrt hwf
  rw [he] at h
  exact ⟨he, h.2⟩

/-! ### The obligations -/

/-- Settles O2: each operation is `pOp` of the bit that R151 or R152 names, and its word is the encoder's, field by field. -/
theorem predicateResults : Obligations.PredicateResults := by
  intro g pd pa pb a b
  refine ⟨fun s hg => ?_, ?_⟩
  · simp only [exec_ceq, exec_cne, exec_clt, exec_cltu, exec_cle, exec_cleu, exec_pand, exec_por, exec_pxor, exec_pnot,
      pOp_on hg, and_self]
  · have cmp := fun op => encCmp_eq op g pd a b
    have pl := fun op => encPL_eq op g pd pa pb
    exact ⟨encodes_and_decodes (Laws.RoundTrip.ceq g pd a b) rfl rfl (cmp _),
      encodes_and_decodes (Laws.RoundTrip.cne g pd a b) rfl rfl (cmp _),
      encodes_and_decodes (Laws.RoundTrip.clt g pd a b) rfl rfl (cmp _),
      encodes_and_decodes (Laws.RoundTrip.cltu g pd a b) rfl rfl (cmp _),
      encodes_and_decodes (Laws.RoundTrip.cle g pd a b) rfl rfl (cmp _),
      encodes_and_decodes (Laws.RoundTrip.cleu g pd a b) rfl rfl (cmp _),
      encodes_and_decodes (Laws.RoundTrip.pand g pd pa pb) rfl rfl (pl _),
      encodes_and_decodes (Laws.RoundTrip.por g pd pa pb) rfl rfl (pl _),
      encodes_and_decodes (Laws.RoundTrip.pxor g pd pa pb) rfl rfl (pl _),
      encodes_and_decodes (Laws.RoundTrip.pnot g pd pa) rfl rfl (encPL_zero_eq _ g pd pa pb)⟩

/-- Settles O4, by the value of the guard and of the predicate; the word is that of the layout RR with pp in [29:26]. -/
theorem selectsFollowTheirPredicate : Obligations.SelectsFollowTheirPredicate := by
  intro g d a b pp s
  refine ⟨fun hg hp => ?_, fun hg hp => ?_, fun hg => ?_, ?_⟩
  · rw [exec_sel, sOp_on hg, if_pos hp]
  · rw [exec_sel, sOp_on hg, hp, if_neg Bool.false_ne_true]
  · rw [exec_sel, sOp_off hg]
  · exact encodes_and_decodes (Laws.RoundTrip.sel g d a b pp) rfl rfl (encRR_sel_eq _ g d a b pp)

end Sys2Proof.Machine
end

section
/-!
PROOFS. The reset's choice of a firmware slot (R350): when a slot qualifies, what the boot ROM does in step 2 of the reset, and
that the later steps keep its choice.
-/
namespace Sys2Proof.Machine

/-! ### When a slot qualifies (R349, R350, R352) -/

theorem Memory.drop_readBytes (m : Memory) (a n k : Nat) : (m.readBytes a n).drop k = m.readBytes (a + k) (n - k) := by
  refine List.ext_getElem (by simp) fun i h₁ h₂ => ?_
  rw [List.getElem_drop, Memory.readBytes_get, Memory.readBytes_get, Nat.add_assoc]

theorem Memory.take_readBytes (m : Memory) (a n k : Nat) : (m.readBytes a n).take k = m.readBytes a (min k n) := by
  refine List.ext_getElem (by simp) fun i h₁ h₂ => ?_
  rw [List.getElem_take, Memory.readBytes_get, Memory.readBytes_get]

/-- A field that lies within the bytes read is the number at its place in the memory. -/
theorem field_readBytes (m : Memory) {o n l : Nat} (h : o + n ≤ l) : field (m.readBytes 0 l) o n = m.readLE o n := by
  rw [field, Memory.drop_readBytes, Memory.take_readBytes, Nat.min_eq_left (by omega), Nat.zero_add, Memory.readLE]

theorem Image.parse_secver (i : Image) : i.parse.secver = i.bytes.readLE 4 4 :=
  field_readBytes i.bytes (by decide)

theorem Image.signed_of_parse_verified {i : Image} (h : i.parse.verified = true) : Config.signed i.bytes = true := by
  simp only [Image.parse, Bool.and_eq_true] at h
  obtain ⟨⟨hs, -⟩, -⟩ := h
  exact hs

theorem Image.checked_of_unchecked {i : Image} (h : i.unchecked = true) : i.checked = i.parse := if_pos h

theorem Image.checked_of_not_unchecked {i : Image} (h : i.unchecked = false) : i.checked = i :=
  if_neg (Bool.eq_false_iff.mp h)

/-- What the statements call bootable is what the boot ROM asks of an image that it has checked. -/
theorem qualifies_eq_decide_bootable (r : ConfigRecord) (i : Image) [Decidable (bootable r i)] :
    i.checked.qualifies r.minSecver = decide (bootable r i) := by
  rw [Bool.eq_iff_iff, decide_eq_true_iff, Image.qualifies, Bool.and_eq_true, decide_eq_true_iff, bootable]

theorem bootable_unchecked {r : ConfigRecord} {i : Image} (hu : i.unchecked = true) (h : bootable r i) :
    Config.signed i.bytes = true ∧ r.minSecver ≤ i.bytes.readLE 4 4 := by
  obtain ⟨hv, hm⟩ := h
  rw [Image.checked_of_unchecked hu] at hv hm
  rw [Image.parse_secver] at hm
  exact ⟨Image.signed_of_parse_verified hv, hm⟩

theorem bootable_checked {r : ConfigRecord} {i : Image} (hu : i.unchecked = false) :
    bootable r i ↔ i.verified = true ∧ r.minSecver ≤ i.secver := by
  rw [bootable, Image.checked_of_not_unchecked hu]

/-! ### Step 2 of the reset: the boot ROM's choice (R350) -/

/-- What step 2 of the reset decides: recovery, the slot that runs, and what stands in the fault log. -/
def State.bootChoice (s : State) : Bool × Bool × List LogPair := (s.recovery, s.host.runningB, s.host.log)

theorem State.bootChoice_eq_iff {s : State} {recovery b : Bool} {log : List LogPair} :
    s.bootChoice = (recovery, b, log) ↔ s.recovery = recovery ∧ s.host.runningB = b ∧ s.host.log = log := by
  simp only [State.bootChoice, Prod.mk.injEq]

/-- The image in slot B or in slot A. -/
def HostSide.slot (h : HostSide) (b : Bool) : Image := if b then h.imageB else h.imageA

/-- The record of a fallback, made in this cycle (R386, R387). -/
def fallbackRecord (cycle : Nat) : LogPair :=
  { event := logWord 5 0xFF 0xF 0 1, stamp := stampWord 0 0, readableAt := some (cycle + Config.W), by' := none }

theorem fallbackRecord_event (n : Nat) :
    (fallbackRecord n).event.toNat / 2 ^ 60 = 5 ∧ (fallbackRecord n).event.toNat % 2 ^ 26 = 1 := by
  simp only [fallbackRecord]
  decide

/-- The state once the boot ROM has checked the images and has started from one of the slots. -/
def State.startFrom (s : State) (b : Bool) (minSecver : Nat) : State :=
  s.modHost fun h => { h with imageA := h.imageA.checked, imageB := h.imageB.checked, runningB := b, minSecver := minSecver }

open Classical in
/-- The choice of step 2 in the words of R350: the preferred slot, the other with a record, or recovery. -/
theorem State.bootSlot_eq (s : State) (r : ConfigRecord) : s.bootSlot r.minSecver =
    if bootable r (s.host.slot s.host.preferredB) then s.startFrom s.host.preferredB r.minSecver
    else if bootable r (s.host.slot !s.host.preferredB) then (s.startFrom (!s.host.preferredB) r.minSecver).logPlatform 5 0x01
    else { s.modHost fun h => { h with imageA := h.imageA.checked, imageB := h.imageB.checked } with recovery := true } := by
  unfold State.bootSlot
  simp only [State.modHost, State.startFrom, HostSide.slot, qualifies_eq_decide_bootable]
  cases s.host.preferredB
  case false =>
    by_cases hA : bootable r s.host.imageA
    · simp [hA]
    · by_cases hB : bootable r s.host.imageB <;> simp [hA, hB]
  case true =>
    by_cases hB : bootable r s.host.imageB
    · simp [hB]
    · by_cases hA : bootable r s.host.imageA <;> simp [hA, hB]

theorem State.bootSlot_preferred {s : State} {r : ConfigRecord} (hp : bootable r (s.host.slot s.host.preferredB)) :
    (s.bootSlot r.minSecver).bootChoice = (s.recovery, s.host.preferredB, s.host.log) := by
  rw [State.bootSlot_eq, if_pos hp]
  rfl

theorem State.logPlatform_runningB (s : State) (k d : Nat) : (s.logPlatform k d).host.runningB = s.host.runningB := by
  unfold State.logPlatform State.logPair
  dsimp only
  split_ifs <;> rfl

theorem State.logPlatform_recovery (s : State) (k d : Nat) : (s.logPlatform k d).recovery = s.recovery := by
  rw [State.logPlatform, State.logPair_eq]

/-- A record changes nothing of the choice but the log. -/
theorem State.logPlatform_bootChoice {s : State} (hl : s.host.log = []) (hd : s.host.dropped = 0) :
    (s.logPlatform 5 0x01).bootChoice = (s.recovery, s.host.runningB, [fallbackRecord s.cycle]) := by
  rw [State.bootChoice, State.logPlatform_recovery, State.logPlatform_runningB, State.logPlatform, State.logPair_first s _ _ _ hl hd]
  rfl

theorem State.bootSlot_fallback {s : State} {r : ConfigRecord} (hp : ¬ bootable r (s.host.slot s.host.preferredB))
    (ho : bootable r (s.host.slot !s.host.preferredB)) (hl : s.host.log = []) (hd : s.host.dropped = 0) :
    (s.bootSlot r.minSecver).bootChoice = (s.recovery, !s.host.preferredB, [fallbackRecord s.cycle]) := by
  rw [State.bootSlot_eq, if_neg hp, if_pos ho]
  exact State.logPlatform_bootChoice hl hd

theorem State.bootSlot_recovery {s : State} {r : ConfigRecord} (hp : ¬ bootable r (s.host.slot s.host.preferredB))
    (ho : ¬ bootable r (s.host.slot !s.host.preferredB)) : (s.bootSlot r.minSecver).recovery = true := by
  rw [State.bootSlot_eq, if_neg hp, if_neg ho]

/-! ### The other steps keep the choice (R5, R358, R322, R362) -/

theorem State.modCore_bootChoice (s : State) (c : Nat) (f : Core → Core) : (s.modCore c f).bootChoice = s.bootChoice := rfl
theorem State.modClu_bootChoice (s : State) (n : Nat) (f : Cluster → Cluster) : (s.modClu n f).bootChoice = s.bootChoice := rfl
theorem State.modDie_bootChoice (s : State) (d : Nat) (f : Die → Die) : (s.modDie d f).bootChoice = s.bootChoice := rfl
theorem State.askEvaluation_bootChoice (s : State) (st n : Nat) : (s.askEvaluation st n).bootChoice = s.bootChoice := rfl

theorem ite_bootChoice {c : Prop} [Decidable c] {s t u : State} (ht : c → t.bootChoice = s.bootChoice)
    (hu : ¬ c → u.bootChoice = s.bootChoice) : (if c then t else u).bootChoice = s.bootChoice := by
  split
  · exact ht ‹_›
  · exact hu ‹_›

/-- A walk over a list keeps the choice if each of its steps does. -/
theorem foldl_bootChoice {α : Type} {f : State → α → State} (hf : ∀ s a, (f s a).bootChoice = s.bootChoice) (l : List α)
    (s : State) : (l.foldl f s).bootChoice = s.bootChoice := by
  rw [← List.foldl_hom State.bootChoice (g₂ := fun b _ => b) fun s a => (hf s a).symm, List.foldl_fixed]

theorem State.bootRecord_bootChoice (s : State) (r : ConfigRecord) : (s.bootRecord r).bootChoice = s.bootChoice := by
  have registers : ∀ (t : State) (w : Word64), ({ t with record := r, hwcfg := w } : State).bootChoice = t.bootChoice :=
    fun _ _ => rfl
  exact (registers _ _).trans (foldl_bootChoice (fun t c => ite_bootChoice (fun _ => t.modCore_bootChoice c _) fun _ => rfl) _ s)

theorem State.bootPorts_bootChoice (s : State) : s.bootPorts.bootChoice = s.bootChoice := rfl

theorem State.addToken_bootChoice (s : State) (d : Nat) : (s.addToken d).bootChoice = s.bootChoice := by
  unfold State.addToken
  split
  · exact s.modClu_bootChoice _ _
  · exact s.modDie_bootChoice d _

theorem repeatN_bootChoice {f : State → State} (hf : ∀ s, (f s).bootChoice = s.bootChoice) (n : Nat) (s : State) :
    (repeatN f n s).bootChoice = s.bootChoice := by
  induction n generalizing s with
  | zero => rfl
  | succ n ih => rw [repeatN, ih, hf]

theorem execHeadroomPublication_bootChoice (d p : Nat) (s : State) :
    ∃ t, execHeadroomPublication d p s = .next t ∧ t.bootChoice = s.bootChoice := by
  have tokens := repeatN_bootChoice fun t => t.addToken_bootChoice d
  refine ⟨_, rfl, ite_bootChoice (fun _ => ?_) fun _ => tokens _ _⟩
  rw [foldl_bootChoice fun t st => ite_bootChoice (fun _ => t.askEvaluation_bootChoice st _) fun _ => rfl]
  exact tokens _ _

theorem State.eventFrame_bootChoice (s : State) (p c : Nat) (tag : Word64) (b : List Byte) :
    (s.eventFrame p c tag b).bootChoice = s.bootChoice := by
  unfold State.eventFrame
  split <;> rfl

theorem State.bootReady_bootChoice (s : State) : s.bootReady.bootChoice = s.bootChoice := by
  rw [State.bootReady, State.eventFrame_bootChoice]
  refine foldl_bootChoice (fun t d => ?_) _ s
  obtain ⟨u, hu, keeps⟩ := execHeadroomPublication_bootChoice d (Config.freeWord (t.free + 1) % 10001)
    { t.modDie d fun x => { x with hottest := some (Config.freeWord t.free % 115) } with free := t.free + 2 }
  dsimp only
  rw [hu]
  exact keeps

/-- Every step of the reset after the second keeps what that one decided (R362). -/
theorem State.bootUpTo_succ_bootChoice (s : State) (r : ConfigRecord) {n : Nat} (hn : 2 ≤ n) :
    (s.bootUpTo r (n + 1)).bootChoice = (s.bootUpTo r n).bootChoice := by
  rw [State.bootUpTo]
  dsimp only
  split
  · rfl
  · have stepDone : ∀ (t : State) (k : Nat), ({ t with resetStep := k } : State).bootChoice = t.bootChoice := fun _ _ => rfl
    refine (stepDone _ _).trans ?_
    split
    · omega
    · exact State.bootRecord_bootChoice _ r
    · exact State.bootPorts_bootChoice _
    · exact State.bootReady_bootChoice _
    · rfl

/-- What step 2 of a reset finds: the cold state, with step 1 done. -/
def State.poweredUp (s : State) : State := { s.cold false with resetStep := 1 }

/-- The reset as a whole decides what step 2 does. -/
theorem State.boot_bootChoice (s : State) (r : ConfigRecord) :
    (s.boot r none false).bootChoice = (s.poweredUp.bootSlot r.minSecver).bootChoice := by
  have later : ∀ n, 2 ≤ n → ((s.cold false).bootUpTo r n).bootChoice = ((s.cold false).bootUpTo r 2).bootChoice := by
    intro n hn
    induction n, hn using Nat.le_induction with
    | base => rfl
    | succ n hn ih => rw [State.bootUpTo_succ_bootChoice _ r hn, ih]
  exact later 6 (by decide)

theorem exec_powerOnReset (r : ConfigRecord) (f : BootFailure) (s : State) :
    exec (.powerOnReset r f) s = .next (s.boot r f false) := rfl

/-! ### The obligation -/

/-- Settles O53: a reset decides what its step 2 does, which starts the preferred slot if it qualifies, the other with a record if
that one does, and enters recovery otherwise. -/
theorem theBootRomPicksASlot : Obligations.TheBootRomPicksASlot := by
  intro r s preferred other
  have hpreferred : s.host.slot s.host.preferredB = preferred := rfl
  have hother : s.host.slot (!s.host.preferredB) = other := by
    cases hb : s.host.preferredB <;> simp [other, HostSide.slot, hb]
  rw [← hpreferred, ← hother]
  have hc := s.boot_bootChoice r
  refine ⟨fun i hu h => bootable_unchecked hu h, fun i hu => bootable_checked hu, fun hp => ?_, fun hp ho => ?_, fun hp ho => ?_⟩
  · obtain ⟨hr, hs, hl⟩ := State.bootChoice_eq_iff.mp (hc.trans (State.bootSlot_preferred (s := s.poweredUp) hp))
    exact ⟨_, exec_powerOnReset r none s, hs, hr, hl⟩
  · obtain ⟨hr, hs, hl⟩ := State.bootChoice_eq_iff.mp (hc.trans (State.bootSlot_fallback (s := s.poweredUp) hp ho rfl rfl))
    exact ⟨_, _, exec_powerOnReset r none s, hs, hr, hl, fallbackRecord_event _⟩
  · have hr := congrArg Prod.fst hc
    exact ⟨_, exec_powerOnReset r none s, hr.trans (State.bootSlot_recovery (s := s.poweredUp) hp ho)⟩

end Sys2Proof.Machine
end

section
/-!
PROOFS. The encoder and the decoder agree (R32, R51): a field by its round trip, a bundle of one slot by its header and that field.
-/
namespace Sys2Proof

/-! ### Bytes of a number (R9) -/

theorem leNat_leBytes (n w : Nat) : leNat (leBytes n w) = w % 256 ^ n := by
  induction n generalizing w with
  | zero => simp [leBytes, leNat, Nat.mod_one]
  | succ n ih =>
    rw [leBytes, leNat, ih, BitVec.toNat_ofNat, show (2 ^ 8 : Nat) = 256 from rfl, Nat.pow_succ', Nat.mod_mul]

/-! ### A bundle of one slot: its header below, its field above (R32) -/

theorem bits_header {h f : Nat} (hh : h < 2 ^ 16) : bits (h + f * 2 ^ 16) 0 16 = h := by
  simp only [bits]
  omega

theorem bits_afterHeader {h f lo n : Nat} (hh : h < 2 ^ 16) : bits (h + f * 2 ^ 16) (16 + lo) n = bits f lo n := by
  simp only [bits, Nat.pow_add, ← Nat.div_div_eq_div_mul]
  rw [Nat.add_mul_div_right _ _ (by norm_num), Nat.div_eq_of_lt hh, Nat.zero_add]

theorem bits_below {f lo : Nat} (n : Nat) (hf : f < 2 ^ lo) : bits f lo n = 0 := by
  rw [bits, Nat.div_eq_of_lt hf, Nat.zero_mod]

theorem bits_whole {f n : Nat} (hf : f < 2 ^ n) : bits f 0 n = f := by
  rw [bits, pow_zero, Nat.div_one, Nat.mod_eq_of_lt hf]

/-- The header of a bundle that holds one slot, with the marks `seg` and `safe` or without them. -/
def oneSlotHeader (sl : Slot) (drains : Bool) : Nat := 2 ^ sl.num + (if drains then 2 ^ 10 + 2 ^ 9 else 0)

theorem oneSlotHeader_lt (sl : Slot) (d : Bool) : oneSlotHeader sl d < 2 ^ 16 := by
  cases sl <;> cases d <;> decide

/-- What the header says: no mark but `seg` and `safe`, and a mask of one slot. -/
theorem oneSlotHeader_fields (sl : Slot) (d : Bool) :
    bits (oneSlotHeader sl d) 0 9 = 2 ^ sl.num ∧ bits (oneSlotHeader sl d) 13 3 = 0 ∧ bitAt (oneSlotHeader sl d) 12 = false ∧
    bitAt (oneSlotHeader sl d) 11 = false ∧ bitAt (oneSlotHeader sl d) 10 = d ∧ bitAt (oneSlotHeader sl d) 9 = d := by
  cases sl <;> cases d <;> decide

theorem decodeSlots_one (w : Nat) (sl : Slot) (pos : Nat) :
    decodeSlots w (2 ^ sl.num) Slot.all pos = ([(sl, decodeField sl (bits w pos sl.width))], pos + sl.width) := by
  cases sl <;> rfl

theorem decodeBundle_oneSlot {sl : Slot} {f : Nat} (d : Bool) (hf : f < 2 ^ sl.width) :
    decodeBundle (oneSlotHeader sl d + f * 2 ^ 16) = some
      { ovl := false, mark := false, seg := d, safe := d,
        slots := [(sl, if drainRefused d (decodeField sl f) then none else decodeField sl f)],
        expected := 0, len := (16 + sl.width + 31) / 32 } := by
  have hh := oneSlotHeader_lt sl d
  obtain ⟨mask, reserved, ovl, mark, seg, safe⟩ := oneSlotHeader_fields sl d
  have field := bits_afterHeader (f := f) (lo := 0) (n := sl.width) hh
  have padding := fun n => (bits_afterHeader (f := f) (lo := sl.width) (n := n) hh).trans (bits_below n hf)
  have header := bits_header (f := f) hh
  rw [bits_whole hf] at field
  generalize oneSlotHeader sl d + f * 2 ^ 16 = w at *
  simp [decodeBundle, header, mask, reserved, ovl, mark, seg, safe, decodeSlots_one, padding, field]

theorem drainRefused_of_marked (i : Instr) : drainRefused (drainRefused false (some i)) (some i) = false := by
  have refused : ∀ seg, drainRefused seg (some i) = (drainRefused false (some i) && !seg) := by
    intro seg
    unfold drainRefused
    split <;> simp
  rw [refused (drainRefused false (some i)), Bool.and_not_self]

theorem soloBundle_fits {sl : Slot} {f : Nat} (d : Bool) (hf : f < 2 ^ sl.width) :
    oneSlotHeader sl d + f * 2 ^ 16 < 256 ^ ((16 + sl.width + 31) / 32 * 4) := by
  have hh := oneSlotHeader_lt sl d
  have hw : 2 ^ sl.width * 2 ^ 16 ≤ 256 ^ ((16 + sl.width + 31) / 32 * 4) := by cases sl <;> decide
  have : (f + 1) * 2 ^ 16 ≤ 2 ^ sl.width * 2 ^ 16 := Nat.mul_le_mul_right _ hf
  omega

/-! ### The obligation -/

open Laws in
/-- Every constructor has its round trip (R51). -/
theorem roundTrip : ∀ i : Instr, RoundTrip.Statement i
  | .waitBundle .. => by apply RoundTrip.waitBundle
  | .segBundle .. => by apply RoundTrip.segBundle
  | .ovlBundle .. => by apply RoundTrip.ovlBundle
  | .markerBundle .. => by apply RoundTrip.markerBundle
  | .loopBackEdge .. => by apply RoundTrip.loopBackEdge
  | .resultLanding .. => by apply RoundTrip.resultLanding
  | .globalLoadLanding .. => by apply RoundTrip.globalLoadLanding
  | .add .. => by apply RoundTrip.add
  | .sub .. => by apply RoundTrip.sub
  | .and .. => by apply RoundTrip.and
  | .or .. => by apply RoundTrip.or
  | .xor .. => by apply RoundTrip.xor
  | .shl .. => by apply RoundTrip.shl
  | .shr .. => by apply RoundTrip.shr
  | .sar .. => by apply RoundTrip.sar
  | .rot .. => by apply RoundTrip.rot
  | .min .. => by apply RoundTrip.min
  | .max .. => by apply RoundTrip.max
  | .minu .. => by apply RoundTrip.minu
  | .maxu .. => by apply RoundTrip.maxu
  | .addi .. => by apply RoundTrip.addi
  | .andi .. => by apply RoundTrip.andi
  | .ori .. => by apply RoundTrip.ori
  | .xori .. => by apply RoundTrip.xori
  | .shli .. => by apply RoundTrip.shli
  | .shri .. => by apply RoundTrip.shri
  | .sari .. => by apply RoundTrip.sari
  | .roti .. => by apply RoundTrip.roti
  | .mul .. => by apply RoundTrip.mul
  | .mulh .. => by apply RoundTrip.mulh
  | .mulhu .. => by apply RoundTrip.mulhu
  | .div .. => by apply RoundTrip.div
  | .divu .. => by apply RoundTrip.divu
  | .rem .. => by apply RoundTrip.rem
  | .remu .. => by apply RoundTrip.remu
  | .clz .. => by apply RoundTrip.clz
  | .ctz .. => by apply RoundTrip.ctz
  | .popc .. => by apply RoundTrip.popc
  | .bswap .. => by apply RoundTrip.bswap
  | .li .. => by apply RoundTrip.li
  | .lih .. => by apply RoundTrip.lih
  | .sel .. => by apply RoundTrip.sel
  | .ceq .. => by apply RoundTrip.ceq
  | .cne .. => by apply RoundTrip.cne
  | .clt .. => by apply RoundTrip.clt
  | .cltu .. => by apply RoundTrip.cltu
  | .cle .. => by apply RoundTrip.cle
  | .cleu .. => by apply RoundTrip.cleu
  | .pand .. => by apply RoundTrip.pand
  | .por .. => by apply RoundTrip.por
  | .pxor .. => by apply RoundTrip.pxor
  | .pnot .. => by apply RoundTrip.pnot
  | .b .. => by apply RoundTrip.b
  | .bp .. => by apply RoundTrip.bp
  | .call .. => by apply RoundTrip.call
  | .ret .. => by apply RoundTrip.ret
  | .jr .. => by apply RoundTrip.jr
  | .loop .. => by apply RoundTrip.loop
  | .lbrk .. => by apply RoundTrip.lbrk
  | .sysr .. => by apply RoundTrip.sysr
  | .sysw .. => by apply RoundTrip.sysw
  | .trap .. => by apply RoundTrip.trap
  | .evpop .. => by apply RoundTrip.evpop
  | .halt .. => by apply RoundTrip.halt
  | .ipf .. => by apply RoundTrip.ipf
  | .ipin .. => by apply RoundTrip.ipin
  | .iunpin .. => by apply RoundTrip.iunpin
  | .vectorChain .. => by apply RoundTrip.vectorChain
  | .mpush .. => by apply RoundTrip.mpush
  | .mpusht .. => by apply RoundTrip.mpusht
  | .mburst .. => by apply RoundTrip.mburst
  | .mshift .. => by apply RoundTrip.mshift
  | .mhold .. => by apply RoundTrip.mhold
  | .mdrain .. => by apply RoundTrip.mdrain
  | .mclr .. => by apply RoundTrip.mclr
  | .mswap .. => by apply RoundTrip.mswap
  | .mmask .. => by apply RoundTrip.mmask
  | .mend .. => by apply RoundTrip.mend
  | .kld .. => by apply RoundTrip.kld
  | .kldp .. => by apply RoundTrip.kldp
  | .kmov .. => by apply RoundTrip.kmov
  | .kset .. => by apply RoundTrip.kset
  | .ldv .. => by apply RoundTrip.ldv
  | .ldvt .. => by apply RoundTrip.ldvt
  | .ldvp .. => by apply RoundTrip.ldvp
  | .ldvx .. => by apply RoundTrip.ldvx
  | .ldvg .. => by apply RoundTrip.ldvg
  | .lds .. => by apply RoundTrip.lds
  | .ldl .. => by apply RoundTrip.ldl
  | .ldgv .. => by apply RoundTrip.ldgv
  | .ldacq .. => by apply RoundTrip.ldacq
  | .pfg .. => by apply RoundTrip.pfg
  | .ldmc .. => by apply RoundTrip.ldmc
  | .stv .. => by apply RoundTrip.stv
  | .stvp .. => by apply RoundTrip.stvp
  | .stvx .. => by apply RoundTrip.stvx
  | .stvg .. => by apply RoundTrip.stvg
  | .stvgScatter .. => by apply RoundTrip.stvgScatter
  | .sts .. => by apply RoundTrip.sts
  | .stl .. => by apply RoundTrip.stl
  | .stsv .. => by apply RoundTrip.stsv
  | .strel .. => by apply RoundTrip.strel
  | .ffill .. => by apply RoundTrip.ffill
  | .aadd .. => by apply RoundTrip.aadd
  | .amin .. => by apply RoundTrip.amin
  | .amax .. => by apply RoundTrip.amax
  | .axchg .. => by apply RoundTrip.axchg
  | .acas .. => by apply RoundTrip.acas
  | .atomicPerform .. => by apply RoundTrip.atomicPerform
  | .engineBankRequest .. => by apply RoundTrip.engineBankRequest
  | .xcp .. => by apply RoundTrip.xcp
  | .cpy .. => by apply RoundTrip.cpy
  | .mc .. => by apply RoundTrip.mc
  | .copyStart .. => by apply RoundTrip.copyStart
  | .copyComplete .. => by apply RoundTrip.copyComplete
  | .tinv .. => by apply RoundTrip.tinv
  | .tinvComplete .. => by apply RoundTrip.tinvComplete
  | .stash .. => by apply RoundTrip.stash
  | .spill .. => by apply RoundTrip.spill
  | .drop .. => by apply RoundTrip.drop
  | .fetch .. => by apply RoundTrip.fetch
  | .wver .. => by apply RoundTrip.wver
  | .stashRelease .. => by apply RoundTrip.stashRelease
  | .pressureSpillComplete .. => by apply RoundTrip.pressureSpillComplete
  | .stashReturnComplete .. => by apply RoundTrip.stashReturnComplete
  | .fetchComplete .. => by apply RoundTrip.fetchComplete
  | .engw .. => by apply RoundTrip.engw
  | .engr .. => by apply RoundTrip.engr
  | .engrComplete .. => by apply RoundTrip.engrComplete
  | .reductionWindowWrite .. => by apply RoundTrip.reductionWindowWrite
  | .starenaWrite .. => by apply RoundTrip.starenaWrite
  | .spillRegionWrite .. => by apply RoundTrip.spillRegionWrite
  | .inChannelWrite .. => by apply RoundTrip.inChannelWrite
  | .outChannelWrite .. => by apply RoundTrip.outChannelWrite
  | .chsend .. => by apply RoundTrip.chsend
  | .chrecv .. => by apply RoundTrip.chrecv
  | .cheos .. => by apply RoundTrip.cheos
  | .chsendRelease .. => by apply RoundTrip.chsendRelease
  | .chrecvComplete .. => by apply RoundTrip.chrecvComplete
  | .tileArrival .. => by apply RoundTrip.tileArrival
  | .eosTokenArrival .. => by apply RoundTrip.eosTokenArrival
  | .windowAdvertisement .. => by apply RoundTrip.windowAdvertisement
  | .redm .. => by apply RoundTrip.redm
  | .partialArrival .. => by apply RoundTrip.partialArrival
  | .breakwaterRelease .. => by apply RoundTrip.breakwaterRelease
  | .fence .. => by apply RoundTrip.fence
  | .spawn .. => by apply RoundTrip.spawn
  | .tend .. => by apply RoundTrip.tend
  | .tabort .. => by apply RoundTrip.tabort
  | .frd .. => by apply RoundTrip.frd
  | .frdOwn .. => by apply RoundTrip.frdOwn
  | .taskLeavesCores .. => by apply RoundTrip.taskLeavesCores
  | .frontierAdvance .. => by apply RoundTrip.frontierAdvance
  | .taskRetire .. => by apply RoundTrip.taskRetire
  | .frontierEviction .. => by apply RoundTrip.frontierEviction
  | .heldCreatingEvent .. => by apply RoundTrip.heldCreatingEvent
  | .budgetExhausted .. => by apply RoundTrip.budgetExhausted
  | .overlayCopyComplete .. => by apply RoundTrip.overlayCopyComplete
  | .phreg .. => by apply RoundTrip.phreg
  | .phdrop .. => by apply RoundTrip.phdrop
  | .phsig .. => by apply RoundTrip.phsig
  | .phwait .. => by apply RoundTrip.phwait
  | .phsw .. => by apply RoundTrip.phsw
  | .chipPhaserPerform .. => by apply RoundTrip.chipPhaserPerform
  | .pbaseInit .. => by apply RoundTrip.pbaseInit
  | .pbase .. => by apply RoundTrip.pbase
  | .fwait .. => by apply RoundTrip.fwait
  | .futurePoll .. => by apply RoundTrip.futurePoll
  | .dctrDec .. => by apply RoundTrip.dctrDec
  | .dctrSet .. => by apply RoundTrip.dctrSet
  | .dctrPerform .. => by apply RoundTrip.dctrPerform
  | .tokacq .. => by apply RoundTrip.tokacq
  | .tokrel .. => by apply RoundTrip.tokrel
  | .tokenHop .. => by apply RoundTrip.tokenHop
  | .ntile .. => by apply RoundTrip.ntile
  | .evwait .. => by apply RoundTrip.evwait
  | .stageEvaluation .. => by apply RoundTrip.stageEvaluation
  | .taskDispatch .. => by apply RoundTrip.taskDispatch
  | .headroomPublication .. => by apply RoundTrip.headroomPublication
  | .handlerResume .. => by apply RoundTrip.handlerResume
  | .handlerExtend .. => by apply RoundTrip.handlerExtend
  | .handlerAbort .. => by apply RoundTrip.handlerAbort
  | .handlerContextFault .. => by apply RoundTrip.handlerContextFault
  | .teamSwap .. => by apply RoundTrip.teamSwap
  | .swapComplete .. => by apply RoundTrip.swapComplete
  | .swapRestore .. => by apply RoundTrip.swapRestore
  | .managementRead .. => by apply RoundTrip.managementRead
  | .managementWrite .. => by apply RoundTrip.managementWrite
  | .malformedFrame .. => by apply RoundTrip.malformedFrame
  | .bulkUpload .. => by apply RoundTrip.bulkUpload
  | .firmwareStaged .. => by apply RoundTrip.firmwareStaged
  | .tideTableWrite .. => by apply RoundTrip.tideTableWrite
  | .stagectlWrite .. => by apply RoundTrip.stagectlWrite
  | .faultLogRead .. => by apply RoundTrip.faultLogRead
  | .qstateDisable .. => by apply RoundTrip.qstateDisable
  | .qstateRun .. => by apply RoundTrip.qstateRun
  | .rptrWrite .. => by apply RoundTrip.rptrWrite
  | .createContext .. => by apply RoundTrip.createContext
  | .destroyContext .. => by apply RoundTrip.destroyContext
  | .contextFreed .. => by apply RoundTrip.contextFreed
  | .createQueue .. => by apply RoundTrip.createQueue
  | .destroyQueue .. => by apply RoundTrip.destroyQueue
  | .restartQueue .. => by apply RoundTrip.restartQueue
  | .invalidateTranslations .. => by apply RoundTrip.invalidateTranslations
  | .gangSwitch .. => by apply RoundTrip.gangSwitch
  | .gangSwitchTime .. => by apply RoundTrip.gangSwitchTime
  | .quiesceFlit .. => by apply RoundTrip.quiesceFlit
  | .saveContext .. => by apply RoundTrip.saveContext
  | .contextSaveComplete .. => by apply RoundTrip.contextSaveComplete
  | .restoreContext .. => by apply RoundTrip.restoreContext
  | .publishStagePlan .. => by apply RoundTrip.publishStagePlan
  | .replanPublication .. => by apply RoundTrip.replanPublication
  | .activateFirmware .. => by apply RoundTrip.activateFirmware
  | .readIdentity .. => by apply RoundTrip.readIdentity
  | .attest .. => by apply RoundTrip.attest
  | .resetChip .. => by apply RoundTrip.resetChip
  | .doorbellWrite .. => by apply RoundTrip.doorbellWrite
  | .packetHeaderReread .. => by apply RoundTrip.packetHeaderReread
  | .taskPacket .. => by apply RoundTrip.taskPacket
  | .signalPacket .. => by apply RoundTrip.signalPacket
  | .signalStore .. => by apply RoundTrip.signalStore
  | .fencePacket .. => by apply RoundTrip.fencePacket
  | .queueFenceRelease .. => by apply RoundTrip.queueFenceRelease
  | .launchPacket .. => by apply RoundTrip.launchPacket
  | .launchInstall .. => by apply RoundTrip.launchInstall
  | .nopPacket .. => by apply RoundTrip.nopPacket
  | .flitResendRequest .. => by apply RoundTrip.flitResendRequest
  | .timeBaseFlit .. => by apply RoundTrip.timeBaseFlit
  | .viralNeighbour .. => by apply RoundTrip.viralNeighbour
  | .powerOnReset .. => by apply RoundTrip.powerOnReset
  | .temperatureReport .. => by apply RoundTrip.temperatureReport
  | .thermalTrip .. => by apply RoundTrip.thermalTrip
  | .sounderReport .. => by apply RoundTrip.sounderReport
  | .dataError .. => by apply RoundTrip.dataError
  | .rewindPointExpiry .. => by apply RoundTrip.rewindPointExpiry
  | .sounderSelfTest .. => by apply RoundTrip.sounderSelfTest
  | .ageingMonitorRead .. => by apply RoundTrip.ageingMonitorRead
  | .marginReplan .. => by apply RoundTrip.marginReplan
  | .contextRestoreComplete .. => by apply RoundTrip.contextRestoreComplete
  | .levelDataArrival .. => by apply RoundTrip.levelDataArrival
  | .discardedFlit .. => by apply RoundTrip.discardedFlit
  | .linkControlTrainingFlit .. => by apply RoundTrip.linkControlTrainingFlit
  | .firmwareImageDiscard .. => by apply RoundTrip.firmwareImageDiscard
  | .platformUncorrectableError .. => by apply RoundTrip.platformUncorrectableError

/-- Settles O57: each constructor's field has its round trip, and a bundle of one slot is its header with that field above it. -/
theorem encodedInstructionsDecode : Obligations.EncodedInstructionsDecode := by
  refine ⟨roundTrip, fun i sl f he hwf => ?_⟩
  have hrt := roundTrip i hwf
  rw [he] at hrt
  obtain ⟨hf, hd⟩ := hrt
  have hw : encode i = leBytes ((16 + sl.width + 31) / 32 * 4) (oneSlotHeader sl (drainRefused false (some i)) + f * 2 ^ 16) := by
    rw [encode, he]
    rfl
  rw [hw, decodeBytes, leNat_leBytes, Nat.mod_eq_of_lt (soloBundle_fits _ hf), decodeBundle_oneSlot _ hf, hd,
    drainRefused_of_marked]
  rfl

end Sys2Proof
end

section
/-!
PROOFS. What the operations do to the two memories of the chip (R166) and to `hwcfg` (R5): nearly every one leaves the three
as they are, which is said here once per operation, in the order of the model's files. (Where the proof is `(rfl)`, the parentheses keep the
lemma a rewriting rule and no definitional unfolding, so that `simp` can use it below a binder.)
-/
namespace Sys2Proof.Machine

/-! ### The part of the state in question -/

/-- The memory of the package, the chip scratchpad and `hwcfg`. -/
def State.shared (s : State) : Memory × Memory × Word64 := (s.pmem, s.xs, s.hwcfg)

/-- The same of the state that an instruction answers with. -/
def outShared (o : Host.Outcome State Fault Refusal) : Option (Memory × Memory × Word64) :=
  match o with
  | .next t => some t.shared
  | _ => none

@[simp] theorem outShared_next (t : State) : outShared (.next t) = some t.shared := rfl

theorem shared_of_next {o : Host.Outcome State Fault Refusal} {s t : State} (h : o = .next t) (ho : outShared o = some s.shared) :
    t.shared = s.shared := by
  rw [h] at ho
  exact Option.some.inj ho

@[simp] theorem shared_eta (s : State) : (s.pmem, s.xs, s.hwcfg) = s.shared := rfl
@[simp] theorem mk_shared (a0 a1 a2 a3 a4 a5 a6 a7 a8 a9 a10 a11 a12 a13 a14 a15 a16 a17 a18 a19 a20 a21 a22 a23 a24 a25
    a26 a27 a28 a29 a30 a31 a32 a33 a34 a35 a36) : (State.mk a0 a1 a2 a3 a4 a5 a6 a7 a8 a9 a10 a11 a12 a13 a14 a15 a16
    a17 a18 a19 a20 a21 a22 a23 a24 a25 a26 a27 a28 a29 a30 a31 a32 a33 a34 a35 a36).shared = (a7, a8, a16) := rfl

@[simp] theorem State.takeFree_eq (s : State) : s.takeFree = (s.free, { s with free := s.free + 1 }) := rfl
@[simp] theorem State.takeId_eq (s : State) : s.takeId = (s.nextId, { s with nextId := s.nextId + 1 }) := rfl

/-! ### Choices and walks over lists -/

@[simp] theorem ite_shared {c : Prop} [Decidable c] (s t : State) : (if c then s else t).shared = if c then s.shared else t.shared :=
  apply_ite State.shared c s t

@[simp] theorem ite_outShared {c : Prop} [Decidable c] (o p : Host.Outcome State Fault Refusal) :
    outShared (if c then o else p) = if c then outShared o else outShared p := apply_ite outShared c o p

/-- A walk over a list leaves the memories as they are if each of its steps does. -/
@[simp] theorem foldl_shared {α : Type} {f : State → α → State} (hf : ∀ s a, (f s a).shared = s.shared) (l : List α) (s : State) :
    (l.foldl f s).shared = s.shared := by
  rw [← List.foldl_hom State.shared (g₂ := fun b _ => b) fun s a => (hf s a).symm, List.foldl_fixed]


/-! ### Machine/Ops: The named operations over tables, memory, registers, results in flight, the log, tasks and -/

@[simp] theorem State.setCore_shared (s : State) (c : Nat) (k : Core) : (s.setCore c k).shared = s.shared := (rfl)
@[simp] theorem State.modCore_shared (s : State) (c : Nat) (f : Core → Core) : (s.modCore c f).shared = s.shared := (rfl)
@[simp] theorem State.modCur_shared (s : State) (f : Core → Core) : (s.modCur f).shared = s.shared := (rfl)
@[simp] theorem State.modClu_shared (s : State) (n : Nat) (f : Cluster → Cluster) : (s.modClu n f).shared = s.shared := (rfl)
@[simp] theorem State.modDie_shared (s : State) (n : Nat) (f : Die → Die) : (s.modDie n f).shared = s.shared := (rfl)
@[simp] theorem State.modStage_shared (s : State) (n : Nat) (f : Stage → Stage) : (s.modStage n f).shared = s.shared := (rfl)
@[simp] theorem State.setTask_shared (s : State) (t : Nat) (k : Task) : (s.setTask t k).shared = s.shared := (rfl)
@[simp] theorem State.modTask_shared (s : State) (t : Nat) (f : Task → Task) : (s.modTask t f).shared = s.shared := by
  unfold State.modTask
  split <;> rfl
@[simp] theorem State.modCtx_shared (s : State) (p : Nat) (f : Context → Context) : (s.modCtx p f).shared = s.shared := (rfl)
@[simp] theorem State.modQueue_shared (s : State) (slot : Nat) (f : Queue → Queue) : (s.modQueue slot f).shared = s.shared := by
  unfold State.modQueue
  split <;> rfl
@[simp] theorem State.modHost_shared (s : State) (f : HostSide → HostSide) : (s.modHost f).shared = s.shared := (rfl)
@[simp] theorem State.modLink_shared (s : State) (f : LinkSide → LinkSide) : (s.modLink f).shared = s.shared := (rfl)
@[simp] theorem State.sendPort_shared (s : State) (p : Nat) (f : Flit) : (s.sendPort p f).shared = s.shared := (rfl)
@[simp] theorem State.countFlits_shared (s : State) (p : Nat) (n : Nat) : (s.countFlits p n).shared = s.shared := (rfl)
@[simp] theorem State.countFlit_shared (s : State) (p : Nat) : (s.countFlit p).shared = s.shared := (rfl)
@[simp] theorem State.countFrom_shared (s : State) (port : Option Nat) (n : Nat) : (s.countFrom port n).shared = s.shared := by
  unfold State.countFrom
  split <;> rfl
@[simp] theorem State.askEvaluation_shared (s : State) (st : Nat) (at_ : Nat) :
    (s.askEvaluation st at_).shared = s.shared := (rfl)
@[simp] theorem State.takeFree_shared (s : State) : (s.takeFree).2.shared = s.shared := (rfl)
@[simp] theorem State.takeId_shared (s : State) : (s.takeId).2.shared = s.shared := (rfl)
@[simp] theorem State.poolWrite_shared (s : State) (c : Nat) (a : Nat) (bs : List Byte) :
    (s.poolWrite c a bs).shared = s.shared := (rfl)
@[simp] theorem State.sendStamp_shared (s : State) (c : Nat) : (s.sendStamp c).shared = s.shared := (rfl)
@[simp] theorem State.recvStamp_shared (s : State) (c : Nat) (stamp : Nat) : (s.recvStamp c stamp).shared = s.shared := (rfl)
@[simp] theorem State.logPair_shared (s : State) (event : Word64) (stamp : Word64) (by' : Option (Nat × Nat)) :
    (s.logPair event stamp by').shared = s.shared := by simp [State.logPair]
@[simp] theorem State.logCore_shared (s : State) (kind : Nat) (c : Nat) (slot : Nat) (addr : CodeAddr) (data : Nat) (discardable : Bool) :
    (s.logCore kind c slot addr data discardable).shared = s.shared := by
  simp [State.logCore]
@[simp] theorem State.logPlatform_shared (s : State) (kind : Nat) (data : Nat) :
    (s.logPlatform kind data).shared = s.shared := by simp [State.logPlatform]
@[simp] theorem State.sendFrame_shared (s : State) (type : Nat) (code : Nat) (pasid : Nat) (addr : Word64) (tag : Word64) (payload : List Byte) :
    (s.sendFrame type code pasid addr tag payload).shared = s.shared := (rfl)
@[simp] theorem State.eventFrame_shared (s : State) (pasid : Nat) (code : Nat) (tag : Word64) (payload : List Byte) :
    (s.eventFrame pasid code tag payload).shared = s.shared := by simp [State.eventFrame]
@[simp] theorem State.pushS_shared (s : State) (slot : Slot) (n : Nat) (d : SDst) (v : Word64) :
    (s.pushS slot n d v).shared = s.shared := (rfl)
@[simp] theorem State.pushP_shared (s : State) (pd : BitVec 4) (v : Bool) : (s.pushP pd v).shared = s.shared := (rfl)
@[simp] theorem State.sigEffect_shared (s : State) (slot : Slot) (kind : Nat) (addr : Nat) (bytes : List Byte) :
    (s.sigEffect slot kind addr bytes).shared = s.shared := (rfl)
@[simp] theorem State.holdFor_shared (s : State) (slot : Slot) (cause : HoldCause) :
    (s.holdFor slot cause).shared = s.shared := (rfl)
@[simp] theorem State.refreshFrontier_shared (s : State) : s.refreshFrontier.shared = s.shared := (rfl)
@[simp] theorem State.setPhaser_shared (s : State) (cl : Nat) (idx : Nat) (p : Phaser) :
    (s.setPhaser cl idx p).shared = s.shared := (rfl)
@[simp] theorem undoPhaser_shared (s : State) (core : Nat) (u : PhaserUndo) : (undoPhaser s core u).shared = s.shared := by
  unfold undoPhaser
  split <;> rfl
@[simp] theorem State.noteUndoOn_shared (s : State) (c : Nat) (u : PhaserUndo) : (s.noteUndoOn c u).shared = s.shared := (rfl)
@[simp] theorem State.raiseEvent_shared (s : State) (t : Nat) (e : HandlerEvent) : (s.raiseEvent t e).shared = s.shared := by
  unfold State.raiseEvent
  split <;> rfl
@[simp] theorem State.raiseLate_shared (s : State) (st : Nat) (key : Key) (kind : TaskKind) (tag : Nat) :
    (s.raiseLate st key kind tag).shared = s.shared := (rfl)
@[simp] theorem State.stopContext_shared (s : State) (p : Nat) (tag : Word64) (command : Nat) :
    (s.stopContext p tag command).shared = s.shared := (rfl)
@[simp] theorem State.contextFault_shared (s : State) (p : Nat) (r : HandlerRecord) :
    (s.contextFault p r).shared = s.shared := by simp [State.contextFault]
@[simp] theorem State.endMembership_shared (s : State) (c : Nat) (i : Nat) (m : Member) (away : Option Core) (ended : Bool) :
    (s.endMembership c i m away ended).shared = s.shared := by simp [State.endMembership]
@[simp] theorem State.dropMemberships_shared (s : State) (c t rank : Nat) (away : Option Core) (ended : Bool) :
    (s.dropMemberships c t rank away ended).shared = s.shared := by
  have left : ∀ e : Nat × Phaser, ∀ u : State, (match e.2.member? t rank with
      | some m => u.endMembership c e.1 m away ended
      | none => u).shared = u.shared := fun e u => by split <;> simp
  unfold State.dropMemberships
  dsimp only
  split_ifs
  · exact foldl_shared (fun u e => left e u) _ s
  · refine (foldl_shared (fun u i => ?_) _ _).trans (foldl_shared (fun u e => left e u) _ s)
    dsimp only [State.takeId_eq]
    rw [State.modCore_shared]
    split_ifs <;> simp
@[simp] theorem State.releaseCore_shared (s : State) (c : Nat) : (s.releaseCore c).shared = s.shared := (rfl)
@[simp] theorem State.abortOne_shared (s : State) (t : Nat) (again : Bool) (hold : Bool) :
    (s.abortOne t again hold).shared = s.shared := by
  unfold State.abortOne
  split <;> simp
@[simp] theorem State.abortTask_shared (s : State) (t : Nat) (again : Bool) (hold : Bool) :
    (s.abortTask t again hold).shared = s.shared := by simp [State.abortTask]
@[simp] theorem State.abortLater_shared (s : State) (t : Nat) (again : Bool) (hold : Bool) :
    (s.abortLater t again hold).shared = s.shared := by simp [State.abortLater]
@[simp] theorem State.rewindTo_shared (s : State) (c : Nat) (rp : RewindPoint) (left : Bool) :
    (s.rewindTo c rp left).shared = s.shared := by
  unfold State.rewindTo
  dsimp only
  split <;> simp
@[simp] theorem State.rewindCurrent_shared (s : State) (n : Nat) (cs : List Nat) (done : List (Nat × Nat)) : (s.rewindCurrent n cs done).shared = s.shared := by
  induction n generalizing s cs done with
  | zero => rfl
  | succ n ih =>
    have back : ∀ t : State, (cs.foldl (fun s c => match (s.core c).rcv.rps.head? with
        | some rp => s.rewindTo c rp false
        | none => s) t).shared = t.shared := foldl_shared (fun t c => by split <;> simp) cs
    unfold State.rewindCurrent
    dsimp only
    split_ifs
    · exact back s
    · exact (ih _ _ _).trans (back s)
@[simp] theorem State.deliverFault_shared (s : State) (t : Nat) (f : FaultInfo) :
    (s.deliverFault t f).shared = s.shared := by simp [State.deliverFault]
@[simp] theorem State.takeFault_shared (s : State) (f : FaultInfo) : (s.takeFault f).shared = s.shared := by
  unfold State.takeFault
  split <;> simp
@[simp] theorem State.verdict_shared (s : State) (v : Verdict) : (s.verdict v).shared = s.shared := (rfl)
@[simp] theorem State.issueFault_shared (s : State) (slot : Slot) (code : Nat) :
    (s.issueFault slot code).shared = s.shared := by simp [State.issueFault]
@[simp] theorem State.execFault_shared (s : State) (slot : Slot) (code : Nat) :
    (s.execFault slot code).shared = s.shared := by simp [State.execFault]
@[simp] theorem State.resumeTask_shared (s : State) (t : Nat) : (s.resumeTask t).shared = s.shared := by simp [State.resumeTask]

/-! ### Machine/Landing: RESULT_LANDING (R46): the results due in the bundle about to issue land, with their collis -/

@[simp] theorem execResultLanding_shared (s : State) : outShared (execResultLanding s) = some s.shared := (rfl)

/-! ### Machine/Sequence: The sequencer around the slots: segments and rewind points (R67, R365, R366), the header's -/

@[simp] theorem State.startCopy_shared (s : State) (c : Nat) (ovl : Nat) : (s.startCopy c ovl).shared = s.shared := by
  unfold State.startCopy
  dsimp only
  split <;> simp
@[simp] theorem execOverlayCopyComplete_shared (core : Nat) (ovl : Nat) (s : State) :
    outShared (execOverlayCopyComplete core ovl s) = some s.shared := by
  unfold execOverlayCopyComplete
  dsimp only
  split <;> simp
@[simp] theorem State.closeSegment_shared (s : State) (c : Nat) : (s.closeSegment c).shared = s.shared := by
  unfold State.closeSegment
  split <;> simp
@[simp] theorem State.takePoint_shared (s : State) (c : Nat) : (s.takePoint c).shared = s.shared := by simp [State.takePoint]
@[simp] theorem execRewindPointExpiry_shared (core : Nat) (s : State) :
    outShared (execRewindPointExpiry core s) = some s.shared := (rfl)
@[simp] theorem State.loseWrites_shared (s : State) (team : List Nat) (pasid : Nat) (r : HandlerRecord) :
    (s.loseWrites team pasid r).shared = s.shared := by simp [State.loseWrites]
@[simp] theorem execOvlBundle_shared (s : State) : outShared (execOvlBundle s) = some s.shared := by simp [execOvlBundle]
@[simp] theorem execMarkerBundle_shared (expected : Word32) (s : State) :
    outShared (execMarkerBundle expected s) = some s.shared := by simp [execMarkerBundle]
@[simp] theorem execLoopBackEdge_shared (s : State) : outShared (execLoopBackEdge s) = some s.shared := (rfl)
@[simp] theorem State.traceDelay_shared (s : State) : s.traceDelay.shared = s.shared := by
  unfold State.traceDelay
  dsimp only
  split <;> simp
@[simp] theorem State.nextBundle_shared (s : State) : s.nextBundle.shared = s.shared := by
  unfold State.nextBundle
  simp only [State.modCur_shared]
  split
  · simp
  · split
    · exact shared_of_next ‹_› (execLoopBackEdge_shared s)
    · rfl
@[simp] theorem State.finishBundle_shared (s : State) : s.finishBundle.shared = s.shared := by
  unfold State.finishBundle
  dsimp only
  (repeat' split) <;> simp
@[simp] theorem execWaitBundle_shared (s : State) : outShared (execWaitBundle s) = some s.shared := by simp [execWaitBundle]

/-! ### Machine/Matrix: The matrix array: advancing beats, slices, cell arithmetic in every format, drains, masks  -/

@[simp] theorem State.push_shared (s : State) (g : Guard) (fmt : MFmt) (aidx : BitVec 14) (bidx : BitVec 14) (pair : BitVec 5) (tr : Bool) (burst : Bool) :
    (s.push g fmt aidx bidx pair tr burst).shared = s.shared := by
  unfold State.push
  dsimp only
  (repeat' split) <;> simp
@[simp] theorem execMpush_shared (g : Guard) (fmt : MFmt) (aidx : BitVec 14) (bidx : BitVec 14) (pair : BitVec 5) (s : State) :
    outShared (execMpush g fmt aidx bidx pair s) = some s.shared := by simp [execMpush]
@[simp] theorem execMpusht_shared (g : Guard) (fmt : MFmt) (aidx : BitVec 14) (bidx : BitVec 14) (pair : BitVec 5) (s : State) :
    outShared (execMpusht g fmt aidx bidx pair s) = some s.shared := by simp [execMpusht]
@[simp] theorem execMburst_shared (g : Guard) (fmt : MFmt) (aidx : BitVec 14) (bidx : BitVec 14) (pair : BitVec 5) (tr : Bool) (s : State) :
    outShared (execMburst g fmt aidx bidx pair tr s) = some s.shared := by
  simp [execMburst]
@[simp] theorem execMshift_shared (g : Guard) (s : State) : outShared (execMshift g s) = some s.shared := by simp [execMshift]
@[simp] theorem execMhold_shared (_g : Guard) (s : State) : outShared (execMhold _g s) = some s.shared := (rfl)
@[simp] theorem execMend_shared (g : Guard) (s : State) : outShared (execMend g s) = some s.shared := by simp [execMend]
@[simp] theorem execMdrain_shared (g : Guard) (plane : Bool) (row : BitVec 7) (target : DrainTarget) (clr : Bool) (s : State) :
    outShared (execMdrain g plane row target clr s) = some s.shared := by simp [execMdrain]
@[simp] theorem execMclr_shared (g : Guard) (p0 : Bool) (p1 : Bool) (s : State) :
    outShared (execMclr g p0 p1 s) = some s.shared := by simp [execMclr]
@[simp] theorem execMswap_shared (g : Guard) (s : State) : outShared (execMswap g s) = some s.shared := by simp [execMswap]
@[simp] theorem execMmask_shared (g : Guard) (block : Bool) (src : MaskSrc) (s : State) :
    outShared (execMmask g block src s) = some s.shared := by
  unfold execMmask
  (repeat' split) <;> simp
@[simp] theorem execKld_shared (g : Guard) (e : BitVec 6) (grp : Sys2Proof.Group) (idx : BitVec 14) (s : State) :
    outShared (execKld g e grp idx s) = some s.shared := by simp [execKld]
@[simp] theorem execKldp_shared (g : Guard) (e : BitVec 6) (grp : Sys2Proof.Group) (idx : BitVec 16) (s : State) :
    outShared (execKldp g e grp idx s) = some s.shared := by simp [execKldp]
@[simp] theorem execKmov_shared (g : Guard) (d : BitVec 6) (r : BitVec 6) (s : State) :
    outShared (execKmov g d r s) = some s.shared := by simp [execKmov]
@[simp] theorem execKset_shared (g : Guard) (e : BitVec 6) (c : Byte) (s : State) :
    outShared (execKset g e c s) = some s.shared := by simp [execKset]

/-! ### Machine/Records: The four engine queues of a core, completion records and the event queue (R221, R227, R228 -/

@[simp] theorem State.complete_shared (s : State) (c : Nat) (o : EngOp) (status : Nat) (w1 : Word64) :
    (s.complete c o status w1).shared = s.shared := (rfl)

/-! ### Machine/Scalar: The S-slot arithmetic, compares and predicate operations -/

@[simp] theorem sOp_shared (s : State) (g : Guard) (d : SDst) (n : Nat) (v : Word64) :
    (sOp s g d n v).shared = s.shared := by simp [sOp]
@[simp] theorem pOp_shared (s : State) (g : Guard) (pd : BitVec 4) (v : Bool) : (pOp s g pd v).shared = s.shared := by simp [pOp]
@[simp] theorem execAdd_shared (g : Guard) (d : SDst) (a : SSrc) (b : SSrc) (s : State) :
    outShared (execAdd g d a b s) = some s.shared := by simp [execAdd]
@[simp] theorem execSub_shared (g : Guard) (d : SDst) (a : SSrc) (b : SSrc) (s : State) :
    outShared (execSub g d a b s) = some s.shared := by simp [execSub]
@[simp] theorem execAnd_shared (g : Guard) (d : SDst) (a : SSrc) (b : SSrc) (s : State) :
    outShared (execAnd g d a b s) = some s.shared := by simp [execAnd]
@[simp] theorem execOr_shared (g : Guard) (d : SDst) (a : SSrc) (b : SSrc) (s : State) :
    outShared (execOr g d a b s) = some s.shared := by simp [execOr]
@[simp] theorem execXor_shared (g : Guard) (d : SDst) (a : SSrc) (b : SSrc) (s : State) :
    outShared (execXor g d a b s) = some s.shared := by simp [execXor]
@[simp] theorem execShl_shared (g : Guard) (d : SDst) (a : SSrc) (b : SSrc) (s : State) :
    outShared (execShl g d a b s) = some s.shared := by simp [execShl]
@[simp] theorem execShr_shared (g : Guard) (d : SDst) (a : SSrc) (b : SSrc) (s : State) :
    outShared (execShr g d a b s) = some s.shared := by simp [execShr]
@[simp] theorem execSar_shared (g : Guard) (d : SDst) (a : SSrc) (b : SSrc) (s : State) :
    outShared (execSar g d a b s) = some s.shared := by simp [execSar]
@[simp] theorem execRot_shared (g : Guard) (d : SDst) (a : SSrc) (b : SSrc) (s : State) :
    outShared (execRot g d a b s) = some s.shared := by simp [execRot]
@[simp] theorem execMin_shared (g : Guard) (d : SDst) (a : SSrc) (b : SSrc) (s : State) :
    outShared (execMin g d a b s) = some s.shared := by simp [execMin]
@[simp] theorem execMax_shared (g : Guard) (d : SDst) (a : SSrc) (b : SSrc) (s : State) :
    outShared (execMax g d a b s) = some s.shared := by simp [execMax]
@[simp] theorem execMinu_shared (g : Guard) (d : SDst) (a : SSrc) (b : SSrc) (s : State) :
    outShared (execMinu g d a b s) = some s.shared := by simp [execMinu]
@[simp] theorem execMaxu_shared (g : Guard) (d : SDst) (a : SSrc) (b : SSrc) (s : State) :
    outShared (execMaxu g d a b s) = some s.shared := by simp [execMaxu]
@[simp] theorem execAddi_shared (g : Guard) (d : SDst) (a : SSrc) (imm : Word32) (s : State) :
    outShared (execAddi g d a imm s) = some s.shared := by simp [execAddi]
@[simp] theorem execAndi_shared (g : Guard) (d : SDst) (a : SSrc) (imm : Word32) (s : State) :
    outShared (execAndi g d a imm s) = some s.shared := by simp [execAndi]
@[simp] theorem execOri_shared (g : Guard) (d : SDst) (a : SSrc) (imm : Word32) (s : State) :
    outShared (execOri g d a imm s) = some s.shared := by simp [execOri]
@[simp] theorem execXori_shared (g : Guard) (d : SDst) (a : SSrc) (imm : Word32) (s : State) :
    outShared (execXori g d a imm s) = some s.shared := by simp [execXori]
@[simp] theorem execShli_shared (g : Guard) (d : SDst) (a : SSrc) (imm : Word32) (s : State) :
    outShared (execShli g d a imm s) = some s.shared := by simp [execShli]
@[simp] theorem execShri_shared (g : Guard) (d : SDst) (a : SSrc) (imm : Word32) (s : State) :
    outShared (execShri g d a imm s) = some s.shared := by simp [execShri]
@[simp] theorem execSari_shared (g : Guard) (d : SDst) (a : SSrc) (imm : Word32) (s : State) :
    outShared (execSari g d a imm s) = some s.shared := by simp [execSari]
@[simp] theorem execRoti_shared (g : Guard) (d : SDst) (a : SSrc) (imm : Word32) (s : State) :
    outShared (execRoti g d a imm s) = some s.shared := by simp [execRoti]
@[simp] theorem execMul_shared (g : Guard) (d : SDst) (a : SSrc) (b : SSrc) (s : State) :
    outShared (execMul g d a b s) = some s.shared := by simp [execMul]
@[simp] theorem execMulh_shared (g : Guard) (d : SDst) (a : SSrc) (b : SSrc) (s : State) :
    outShared (execMulh g d a b s) = some s.shared := by simp [execMulh]
@[simp] theorem execMulhu_shared (g : Guard) (d : SDst) (a : SSrc) (b : SSrc) (s : State) :
    outShared (execMulhu g d a b s) = some s.shared := by simp [execMulhu]
@[simp] theorem execDiv_shared (g : Guard) (d : SDst) (a : SSrc) (b : SSrc) (s : State) :
    outShared (execDiv g d a b s) = some s.shared := by simp [execDiv]
@[simp] theorem execDivu_shared (g : Guard) (d : SDst) (a : SSrc) (b : SSrc) (s : State) :
    outShared (execDivu g d a b s) = some s.shared := by simp [execDivu]
@[simp] theorem execRem_shared (g : Guard) (d : SDst) (a : SSrc) (b : SSrc) (s : State) :
    outShared (execRem g d a b s) = some s.shared := by simp [execRem]
@[simp] theorem execRemu_shared (g : Guard) (d : SDst) (a : SSrc) (b : SSrc) (s : State) :
    outShared (execRemu g d a b s) = some s.shared := by simp [execRemu]
@[simp] theorem execClz_shared (g : Guard) (d : SDst) (a : SSrc) (s : State) :
    outShared (execClz g d a s) = some s.shared := by simp [execClz]
@[simp] theorem execCtz_shared (g : Guard) (d : SDst) (a : SSrc) (s : State) :
    outShared (execCtz g d a s) = some s.shared := by simp [execCtz]
@[simp] theorem execPopc_shared (g : Guard) (d : SDst) (a : SSrc) (s : State) :
    outShared (execPopc g d a s) = some s.shared := by simp [execPopc]
@[simp] theorem execBswap_shared (g : Guard) (d : SDst) (a : SSrc) (s : State) :
    outShared (execBswap g d a s) = some s.shared := by simp [execBswap]
@[simp] theorem execLi_shared (g : Guard) (d : SDst) (imm : BitVec 44) (s : State) :
    outShared (execLi g d imm s) = some s.shared := by simp [execLi]
@[simp] theorem execLih_shared (g : Guard) (d : SDst) (a : SSrc) (imm : BitVec 20) (s : State) :
    outShared (execLih g d a imm s) = some s.shared := by simp [execLih]
@[simp] theorem execSel_shared (g : Guard) (d : SDst) (a : SSrc) (b : SSrc) (pp : BitVec 4) (s : State) :
    outShared (execSel g d a b pp s) = some s.shared := by simp [execSel]
@[simp] theorem execCeq_shared (g : Guard) (pd : BitVec 4) (a : SSrc) (b : SSrc) (s : State) :
    outShared (execCeq g pd a b s) = some s.shared := by simp [execCeq]
@[simp] theorem execCne_shared (g : Guard) (pd : BitVec 4) (a : SSrc) (b : SSrc) (s : State) :
    outShared (execCne g pd a b s) = some s.shared := by simp [execCne]
@[simp] theorem execClt_shared (g : Guard) (pd : BitVec 4) (a : SSrc) (b : SSrc) (s : State) :
    outShared (execClt g pd a b s) = some s.shared := by simp [execClt]
@[simp] theorem execCltu_shared (g : Guard) (pd : BitVec 4) (a : SSrc) (b : SSrc) (s : State) :
    outShared (execCltu g pd a b s) = some s.shared := by simp [execCltu]
@[simp] theorem execCle_shared (g : Guard) (pd : BitVec 4) (a : SSrc) (b : SSrc) (s : State) :
    outShared (execCle g pd a b s) = some s.shared := by simp [execCle]
@[simp] theorem execCleu_shared (g : Guard) (pd : BitVec 4) (a : SSrc) (b : SSrc) (s : State) :
    outShared (execCleu g pd a b s) = some s.shared := by simp [execCleu]
@[simp] theorem execPand_shared (g : Guard) (pd : BitVec 4) (pa : BitVec 4) (pb : BitVec 4) (s : State) :
    outShared (execPand g pd pa pb s) = some s.shared := by simp [execPand]
@[simp] theorem execPor_shared (g : Guard) (pd : BitVec 4) (pa : BitVec 4) (pb : BitVec 4) (s : State) :
    outShared (execPor g pd pa pb s) = some s.shared := by simp [execPor]
@[simp] theorem execPxor_shared (g : Guard) (pd : BitVec 4) (pa : BitVec 4) (pb : BitVec 4) (s : State) :
    outShared (execPxor g pd pa pb s) = some s.shared := by simp [execPxor]
@[simp] theorem execPnot_shared (g : Guard) (pd : BitVec 4) (pa : BitVec 4) (s : State) :
    outShared (execPnot g pd pa s) = some s.shared := by simp [execPnot]

/-! ### Machine/Control: The control-transfer, system, event, trap, halt and overlay operations of the S slot -/

@[simp] theorem State.transfer_shared {eff : State → State} (h : ∀ t, (eff t).shared = t.shared) (s : State) (tgt : CodeAddr) :
    (s.transfer tgt eff).shared = s.shared := by
  unfold State.transfer
  split
  · exact (h _).trans (by simp)
  · simp
@[simp] theorem execB_shared (g : Guard) (target : CodeAddr) (s : State) :
    outShared (execB g target s) = some s.shared := by simp [execB]
@[simp] theorem execBp_shared (g : Guard) (offset : CodeAddr) (s : State) :
    outShared (execBp g offset s) = some s.shared := by simp [execBp]
@[simp] theorem execCall_shared (g : Guard) (d : SDst) (target : CodeAddr) (s : State) :
    outShared (execCall g d target s) = some s.shared := by simp [execCall]
@[simp] theorem execRet_shared (g : Guard) (a : SSrc) (s : State) : outShared (execRet g a s) = some s.shared := by simp [execRet]
@[simp] theorem execJr_shared (g : Guard) (a : SSrc) (s : State) : outShared (execJr g a s) = some s.shared := by simp [execJr]
@[simp] theorem execLbrk_shared (g : Guard) (target : CodeAddr) (s : State) :
    outShared (execLbrk g target s) = some s.shared := by simp [execLbrk]
@[simp] theorem execLoop_shared (g : Guard) (c : SSrc) (last : CodeAddr) (imm : CodeAddr) (s : State) :
    outShared (execLoop g c last imm s) = some s.shared := by simp [execLoop]
@[simp] theorem execSysr_shared (g : Guard) (d : SDst) (num : BitVec 12) (s : State) :
    outShared (execSysr g d num s) = some s.shared := by
  unfold execSysr
  (repeat' split) <;> simp
@[simp] theorem execSysw_shared (g : Guard) (a : SSrc) (num : BitVec 12) (s : State) :
    outShared (execSysw g a num s) = some s.shared := by
  unfold execSysw
  dsimp only
  (repeat' split) <;> simp
@[simp] theorem execTrap_shared (g : Guard) (code : Word16) (s : State) :
    outShared (execTrap g code s) = some s.shared := by simp [execTrap]
@[simp] theorem State.completedFault_shared (s : State) (slot : Slot) (code : Nat) :
    (s.completedFault slot code).shared = s.shared := by simp [State.completedFault]
@[simp] theorem execEvpop_shared (g : Guard) (d : SDst) (s : State) : outShared (execEvpop g d s) = some s.shared := by
  unfold execEvpop
  (repeat' split) <;> simp
@[simp] theorem execHalt_shared (g : Guard) (s : State) : outShared (execHalt g s) = some s.shared := by simp [execHalt]
@[simp] theorem execIpf_shared (g : Guard) (a : SSrc) (s : State) : outShared (execIpf g a s) = some s.shared := by simp [execIpf]
@[simp] theorem execIpin_shared (g : Guard) (a : SSrc) (s : State) :
    outShared (execIpin g a s) = some s.shared := by simp [execIpin]
@[simp] theorem execIunpin_shared (g : Guard) (a : SSrc) (s : State) :
    outShared (execIunpin g a s) = some s.shared := by simp [execIunpin]

/-! ### Machine/Sync: The Y-slot phaser, rotating-base, future, counter, token and next-tile operations and the  -/

@[simp] theorem State.setPhaserAt_shared (s : State) (chip : Bool) (index : Nat) (p : Phaser) :
    (s.setPhaserAt chip index p).shared = s.shared := by simp [State.setPhaserAt]
@[simp] theorem State.noteUndo_shared (s : State) (u : PhaserUndo) : (s.noteUndo u).shared = s.shared := (rfl)
@[simp] theorem State.queuePhaserOp_shared (s : State) (index : Nat) (act : PhaserAct) :
    (s.queuePhaserOp index act).shared = s.shared := (rfl)
@[simp] theorem State.settleAll_shared (s : State) : s.settleAll.shared = s.shared := (rfl)
@[simp] theorem execPhreg_shared (g : Guard) (h : BitVec 4) (mode : PhMode) (chip : Bool) (index : BitVec 9) (s : State) :
    outShared (execPhreg g h mode chip index s) = some s.shared := by simp [execPhreg]
@[simp] theorem State.withHandle_shared {s : State} {eff : Nat → Bool → Nat → PhMode → State} (he : ∀ n c i m, (eff n c i m).shared = s.shared)
    (h : BitVec 4) (r : Bool) : (s.withHandle h r eff).shared = s.shared := by
  unfold State.withHandle
  split
  · simp
  · split
    · simp
    · exact he _ _ _ _
@[simp] theorem execPhdrop_shared (g : Guard) (h : BitVec 4) (r : Bool) (s : State) : outShared (execPhdrop g h r s) = some s.shared := by
  unfold execPhdrop
  rw [outShared_next]
  split
  · rfl
  · refine congrArg some (State.withHandle_shared (fun n chip i m => ?_) h r)
    simp only [State.modCur_shared, State.sigEffect_shared]
    split
    · simp
    · split <;> simp
@[simp] theorem State.signalStep_shared (s : State) (chip : Bool) (i : Nat) : (s.signalStep chip i).shared = s.shared := by
  unfold State.signalStep
  dsimp only
  (repeat' split) <;> simp
@[simp] theorem State.waitStep_shared (s : State) (chip : Bool) (i : Nat) : (s.waitStep chip i).shared = s.shared := by
  unfold State.waitStep
  dsimp only
  (repeat' split) <;> simp
@[simp] theorem execPhsig_shared (g : Guard) (h : BitVec 4) (r : Bool) (s : State) :
    outShared (execPhsig g h r s) = some s.shared := by simp [execPhsig]
@[simp] theorem execPhwait_shared (g : Guard) (h : BitVec 4) (r : Bool) (s : State) :
    outShared (execPhwait g h r s) = some s.shared := by simp [execPhwait]
@[simp] theorem execPhsw_shared (g : Guard) (h : BitVec 4) (r : Bool) (s : State) :
    outShared (execPhsw g h r s) = some s.shared := by simp [execPhsw]
@[simp] theorem execPbaseInit_shared (g : Guard) (d : BitVec 3) (s : State) :
    outShared (execPbaseInit g d s) = some s.shared := by simp [execPbaseInit]
@[simp] theorem execPbase_shared (g : Guard) (s : State) : outShared (execPbase g s) = some s.shared := by simp [execPbase]
@[simp] theorem execTokacq_shared (g : Guard) (s : State) : outShared (execTokacq g s) = some s.shared := by simp [execTokacq]
@[simp] theorem execTokrel_shared (g : Guard) (s : State) : outShared (execTokrel g s) = some s.shared := by simp [execTokrel]
@[simp] theorem State.dependOnPool_shared (s : State) (c : Nat) (a : Nat) (n : Nat) :
    (s.dependOnPool c a n).shared = s.shared := by simp [State.dependOnPool]
@[simp] theorem State.holdFwait_shared (s : State) (cell : Nat) : (s.holdFwait cell).shared = s.shared := (rfl)
@[simp] theorem State.enterWait_shared (s : State) (c : Nat) : (s.enterWait c).shared = s.shared := by simp [State.enterWait]
@[simp] theorem execFwait_shared (g : Guard) (a : SSrc) (s : State) : outShared (execFwait g a s) = some s.shared := by
  unfold execFwait
  (repeat' split) <;> simp
@[simp] theorem State.wakeCell_shared (s : State) (cl : Nat) (cell : Nat) : (s.wakeCell cl cell).shared = s.shared := by
  unfold State.wakeCell
  dsimp only
  refine foldl_shared (fun t x => ?_) _ _
  (repeat' split) <;> simp
@[simp] theorem execFuturePoll_shared (core : Nat) (s : State) : outShared (execFuturePoll core s) = some s.shared := by
  unfold execFuturePoll
  split <;> simp
@[simp] theorem State.queueCounterOp_shared (s : State) (counter : Nat) (set : Option (Nat × Successor)) :
    (s.queueCounterOp counter set).shared = s.shared := by
  unfold State.queueCounterOp
  dsimp only
  split <;> simp
@[simp] theorem execDctrDec_shared (g : Guard) (n : BitVec 6) (s : State) :
    outShared (execDctrDec g n s) = some s.shared := by simp [execDctrDec]
@[simp] theorem execDctrSet_shared (g : Guard) (n : BitVec 6) (k : BitVec 6) (t : BitVec 6) (s : State) :
    outShared (execDctrSet g n k t s) = some s.shared := by simp [execDctrSet]
@[simp] theorem execNtile_shared (g : Guard) (a : SSrc) (b : SSrc) (s : State) :
    outShared (execNtile g a b s) = some s.shared := by simp [execNtile]
@[simp] theorem execEvwait_shared (g : Guard) (count : Byte) (s : State) :
    outShared (execEvwait g count s) = some s.shared := by simp [execEvwait]
@[simp] theorem execTokenHop_shared (die : Nat) (s : State) :
    outShared (execTokenHop die s) = some s.shared := by simp [execTokenHop]

/-! ### Machine/Memory: Memory beyond the core: page walks (R336-R338), the resolution of an access into pieces wi -/

@[simp] theorem State.tlbFill_shared (s : State) (pasid : Nat) (vas : List Nat) : (s.tlbFill pasid vas).shared = s.shared := (rfl)
@[simp] theorem State.track_shared (s : State) (c : Nat) (t : Nat) (gs : List Nat) (wr : Bool) :
    (s.track c t gs wr).shared = s.shared := by simp [State.track]
@[simp] theorem State.observeHeld_shared (s : State) (c : Nat) (hs : List Held) :
    (s.observeHeld c hs).shared = s.shared := by simp [State.observeHeld]
@[simp] theorem State.observeAt_shared (s : State) (c : Nat) (place : Nat) (hs : List Held) :
    (s.observeAt c place hs).shared = s.shared := by simp [State.observeAt]
@[simp] theorem State.dependOnHeld_shared (s : State) (c : Nat) (xs : Bool) (ps : List Piece) :
    (s.dependOnHeld c xs ps).shared = s.shared := by simp [State.dependOnHeld]
@[simp] theorem State.cacheUn_shared (s : State) (c : Nat) (ps : List Piece) : (s.cacheUn c ps).shared = s.shared := by
  unfold State.cacheUn
  dsimp only [State.takeFree_eq]
  split_ifs
  · rfl
  · simp
  · exact foldl_shared (fun t l => by split <;> simp) _ _
@[simp] theorem State.hold1_shared (s : State) (cl : Nat) (st : Nat) (pasid : Nat) (key : Key) (w : Write) :
    (s.hold1 cl st pasid key w).shared = s.shared := (rfl)
@[simp] theorem State.commitGranules_shared (s : State) (st : Nat) (gs : List Nat) :
    (s.commitGranules st gs).shared = s.shared := (rfl)
@[simp] theorem State.allocUn_shared (s : State) (w : Write) : (s.allocUn w).shared = s.shared := by simp [State.allocUn]
@[simp] theorem State.storePiece_shared (s : State) (xs : Bool) (rel : Bool) (v : Nat) (p : Piece) :
    (s.storePiece xs rel v p).shared = s.shared := by
  unfold State.storePiece
  dsimp only
  split <;> simp
@[simp] theorem State.storeOut_shared (s : State) (xs : Bool) (rel : Bool) (v : Nat) (ps : List Piece) :
    (s.storeOut xs rel v ps).shared = s.shared := by
  unfold State.storeOut
  split <;> simp
@[simp] theorem State.flushUn_shared (s : State) (c : Nat) : (s.flushUn c).shared = s.shared := by simp [State.flushUn]
@[simp] theorem State.evictUn_shared (s : State) (c : Nat) : (s.evictUn c).shared = s.shared := by
  unfold State.evictUn
  dsimp only
  split <;> simp
@[simp] theorem execChipPhaserPerform_shared (core : Nat) (s : State) :
    outShared (execChipPhaserPerform core s) = some s.shared := by
  unfold execChipPhaserPerform
  split <;> simp
@[simp] theorem State.doorbell_shared (s : State) (pasid : Nat) (w : Write) : (s.doorbell pasid w).shared = s.shared := by
  unfold State.doorbell
  split
  · split_ifs
    · simp
    · rfl
  · rfl
@[simp] theorem execLevelDataArrival_shared (core : Nat) (s : State) :
    outShared (execLevelDataArrival core s) = some s.shared := by simp [execLevelDataArrival]
@[simp] theorem execGlobalLoadLanding_shared (core : Nat) (load : Nat) (s : State) :
    outShared (execGlobalLoadLanding core load s) = some s.shared := by
  unfold execGlobalLoadLanding
  dsimp only
  split <;> simp

/-! ### Machine/Load: The L slot (R169-R180, R187-R192, R203, R204): one shared operation reads the pieces of an -/

@[simp] theorem State.freezeFor_shared (s : State) (scattered : Bool) (ps : List Piece) :
    (s.freezeFor scattered ps).shared = s.shared := by simp [State.freezeFor]
@[simp] theorem State.pushLoad_shared (s : State) (lvl : Sys2Proof.Level) (v : Nat) (waits : List Piece) (outs : List LoadOut) (acquire : optParam Bool false) :
    (s.pushLoad lvl v waits outs acquire).shared = s.shared := by
  simp [State.pushLoad]
@[simp] theorem State.pushGlobal_shared (s : State) (v : Nat) (waits : List Piece) (acquire : Bool) (so : Bool) (outs : List LoadOut) :
    (s.pushGlobal v waits acquire so outs).shared = s.shared := by
  simp [State.pushGlobal]
@[simp] theorem State.load_shared (s : State) (lvl : Sys2Proof.Level) (acquire : Bool) (scattered : Bool) (ps : List Piece) (outs : List LoadOut) :
    (s.load lvl acquire scattered ps outs).shared = s.shared := by
  unfold State.load
  dsimp only
  (repeat' split) <;> simp
@[simp] theorem State.loadVec_shared (s : State) (g : Guard) (f : VSlot) (dst : BitVec 10) (base : BitVec 5) (lvl : Sys2Proof.Level) (disp : BitVec 24) (n : Nat) :
    (s.loadVec g f dst base lvl disp n).shared = s.shared := by
  simp [State.loadVec]
@[simp] theorem execLdv_shared (g : Guard) (f : VSlot) (dst : BitVec 10) (base : BitVec 5) (lvl : Sys2Proof.Level) (disp : BitVec 24) (s : State) :
    outShared (execLdv g f dst base lvl disp s) = some s.shared := by
  simp [execLdv]
@[simp] theorem execLdvp_shared (g : Guard) (f : VSlot) (dst : BitVec 10) (base : BitVec 5) (lvl : Sys2Proof.Level) (disp : BitVec 24) (s : State) :
    outShared (execLdvp g f dst base lvl disp s) = some s.shared := by
  simp [execLdvp]
@[simp] theorem execLdgv_shared (g : Guard) (f : VSlot) (dst : BitVec 10) (base : BitVec 5) (disp : BitVec 24) (s : State) :
    outShared (execLdgv g f dst base disp s) = some s.shared := by simp [execLdgv]
@[simp] theorem execLdvt_shared (g : Guard) (f : VSlot) (dst : BitVec 10) (base : BitVec 5) (lvl : Sys2Proof.Level) (stride : BitVec 5) (es : EltSize) (disp : BitVec 17) (s : State) :
    outShared (execLdvt g f dst base lvl stride es disp s) = some s.shared := by
  simp [execLdvt]
@[simp] theorem State.loadGather_shared (s : State) (g : Guard) (f : VSlot) (dst : BitVec 10) (base : BitVec 5) (lvl : Sys2Proof.Level) (idx : VSrc) (disp : BitVec 11) :
    (s.loadGather g f dst base lvl idx disp).shared = s.shared := by
  simp [State.loadGather]
@[simp] theorem execLdvx_shared (g : Guard) (f : VSlot) (dst : BitVec 10) (base : BitVec 5) (lvl : Sys2Proof.Level) (idx : VSrc) (disp : BitVec 11) (s : State) :
    outShared (execLdvx g f dst base lvl idx disp s) = some s.shared := by
  simp [execLdvx]
@[simp] theorem execLdvg_shared (g : Guard) (f : VSlot) (dst : BitVec 10) (base : BitVec 5) (idx : VSrc) (disp : BitVec 11) (s : State) :
    outShared (execLdvg g f dst base idx disp s) = some s.shared := by
  simp [execLdvg]
@[simp] theorem State.loadScalar_shared (s : State) (g : Guard) (dst : BitVec 6) (base : BitVec 5) (lvl : Sys2Proof.Level) (sz : LSize) (disp : BitVec 31) (acquire : Bool) :
    (s.loadScalar g dst base lvl sz disp acquire).shared = s.shared := by
  simp [State.loadScalar]
@[simp] theorem execLds_shared (g : Guard) (dst : BitVec 6) (base : BitVec 5) (lvl : Sys2Proof.Level) (sz : LSize) (disp : BitVec 31) (s : State) :
    outShared (execLds g dst base lvl sz disp s) = some s.shared := by
  simp [execLds]
@[simp] theorem execLdacq_shared (g : Guard) (dst : BitVec 6) (base : BitVec 5) (lvl : Sys2Proof.Level) (sz : LSize) (disp : BitVec 31) (s : State) :
    outShared (execLdacq g dst base lvl sz disp s) = some s.shared := by
  simp [execLdacq]
@[simp] theorem State.sliceFault_shared {s eff : State} (h : eff.shared = s.shared) (slot : Slot) (o : Nat) :
    (s.sliceFault slot o eff).shared = s.shared := by
  unfold State.sliceFault
  split_ifs
  · simp
  · simp
  · exact h
@[simp] theorem execLdl_shared (g : Guard) (f : VSlot) (dst : BitVec 10) (base : BitVec 5) (disp : BitVec 13) (s : State) :
    outShared (execLdl g f dst base disp s) = some s.shared := by simp [execLdl]
@[simp] theorem execPfg_shared (g : Guard) (base : BitVec 5) (disp : BitVec 24) (s : State) :
    outShared (execPfg g base disp s) = some s.shared := by
  unfold execPfg
  dsimp only
  rw [outShared_next]
  split_ifs
  · rfl
  · simp
  · refine congrArg some (foldl_shared (fun t p => ?_) _ s)
    split
    · split <;> simp
    · rfl
@[simp] theorem execLdmc_shared (g : Guard) (ranks : Byte) (base : BitVec 5) (lvl : Sys2Proof.Level) (tgt : BitVec 15) (nw : BitVec 9) (s : State) :
    outShared (execLdmc g ranks base lvl tgt nw s) = some s.shared := by
  unfold execLdmc
  dsimp only
  (repeat' split) <;> simp
@[simp] theorem State.askBanks_shared (s : State) (c : Nat) (addrs : List Nat) : (s.askBanks c addrs).shared = s.shared := by
  unfold State.askBanks
  dsimp only
  refine foldl_shared (fun t x => ?_) _ _
  (repeat' split) <;> simp
@[simp] theorem State.landLdmc_shared (s : State) (c : Nat) : (s.landLdmc c).shared = s.shared := by
  unfold State.landLdmc
  dsimp only
  (repeat' split) <;> simp

/-! ### Machine/Store: The T slot (R181-R186, R190, R205): one shared operation writes the pieces of an access at -/

@[simp] theorem State.newEpoch_shared (s : State) : s.newEpoch.shared = s.shared := (rfl)
@[simp] theorem State.storeNear_shared (s : State) (lvl : Sys2Proof.Level) (scattered : Bool) (v : Nat) (ps : List Piece) :
    (s.storeNear lvl scattered v ps).shared = s.shared := by simp [State.storeNear]
@[simp] theorem State.store_shared (s : State) (lvl : Sys2Proof.Level) (rel : Bool) (scattered : Bool) (v : Nat) (ps : List Piece) :
    (s.store lvl rel scattered v ps).shared = s.shared := by
  unfold State.store
  dsimp only
  (repeat' split) <;> simp
@[simp] theorem State.storeVec_shared (s : State) (g : Guard) (base : BitVec 5) (lvl : Sys2Proof.Level) (disp : ℤ) (n : Nat) (v : Nat) :
    (s.storeVec g base lvl disp n v).shared = s.shared := by
  simp [State.storeVec]
@[simp] theorem execStv_shared (g : Guard) (f : VSlot) (src : VSrc) (base : BitVec 5) (lvl : Sys2Proof.Level) (disp : BitVec 17) (s : State) :
    outShared (execStv g f src base lvl disp s) = some s.shared := by
  simp [execStv]
@[simp] theorem execStvp_shared (g : Guard) (f : VSlot) (src : BitVec 10) (base : BitVec 5) (lvl : Sys2Proof.Level) (disp : BitVec 17) (s : State) :
    outShared (execStvp g f src base lvl disp s) = some s.shared := by
  simp [execStvp]
@[simp] theorem execStvg_shared (g : Guard) (f : VSlot) (src : VSrc) (base : BitVec 5) (disp : BitVec 16) (s : State) :
    outShared (execStvg g f src base disp s) = some s.shared := by simp [execStvg]
@[simp] theorem State.storeScatter_shared (s : State) (g : Guard) (f : VSlot) (src : VSrc) (base : BitVec 5) (lvl : Sys2Proof.Level) (idx : BitVec 10) :
    (s.storeScatter g f src base lvl idx).shared = s.shared := by
  simp [State.storeScatter]
@[simp] theorem execStvx_shared (g : Guard) (f : VSlot) (src : VSrc) (base : BitVec 5) (lvl : Sys2Proof.Level) (idx : BitVec 10) (s : State) :
    outShared (execStvx g f src base lvl idx s) = some s.shared := by
  simp [execStvx]
@[simp] theorem execStvgScatter_shared (g : Guard) (f : VSlot) (src : VSrc) (base : BitVec 5) (idx : BitVec 10) (s : State) :
    outShared (execStvgScatter g f src base idx s) = some s.shared := by simp [execStvgScatter]
@[simp] theorem execSts_shared (g : Guard) (src : SSrc) (base : BitVec 5) (lvl : Sys2Proof.Level) (sz : TSize) (disp : BitVec 14) (s : State) :
    outShared (execSts g src base lvl sz disp s) = some s.shared := by
  simp [execSts]
@[simp] theorem execStsv_shared (g : Guard) (f : VSlot) (src : VSrc) (base : BitVec 5) (lvl : Sys2Proof.Level) (ln : BitVec 7) (sz : EltSize) (disp : BitVec 8) (s : State) :
    outShared (execStsv g f src base lvl ln sz disp s) = some s.shared := by
  simp [execStsv]
@[simp] theorem execStl_shared (g : Guard) (f : VSlot) (src : VSrc) (base : BitVec 5) (disp : BitVec 13) (s : State) :
    outShared (execStl g f src base disp s) = some s.shared := by simp [execStl]
@[simp] theorem execFfill_shared (g : Guard) (src : SSrc) (base : BitVec 5) (disp : BitVec 13) (s : State) :
    outShared (execFfill g src base disp s) = some s.shared := by simp [execFfill]
@[simp] theorem State.queueAtomic_shared (s : State) (kind : AtomicKind) (n : Nat) (addr : Nat) (v : Word64) (cmp : Word64) (ret : Bool) (atCommit : Bool) :
    (s.queueAtomic kind n addr v cmp ret atCommit).shared = s.shared := (rfl)
@[simp] theorem State.atomicOp_shared (s : State) (g : Guard) (kind : AtomicKind) (src : SSrc) (base : BitVec 5) (wide : Bool) (ret : Bool) (cmp : Word64) :
    (s.atomicOp g kind src base wide ret cmp).shared = s.shared := by
  simp [State.atomicOp]
@[simp] theorem execAadd_shared (g : Guard) (src : SSrc) (base : BitVec 5) (wide : Bool) (ret : Bool) (s : State) :
    outShared (execAadd g src base wide ret s) = some s.shared := by simp [execAadd]
@[simp] theorem execAmin_shared (g : Guard) (src : SSrc) (base : BitVec 5) (wide : Bool) (ret : Bool) (uns : Bool) (s : State) :
    outShared (execAmin g src base wide ret uns s) = some s.shared := by simp [execAmin]
@[simp] theorem execAmax_shared (g : Guard) (src : SSrc) (base : BitVec 5) (wide : Bool) (ret : Bool) (uns : Bool) (s : State) :
    outShared (execAmax g src base wide ret uns s) = some s.shared := by simp [execAmax]
@[simp] theorem execAxchg_shared (g : Guard) (src : SSrc) (base : BitVec 5) (wide : Bool) (ret : Bool) (s : State) :
    outShared (execAxchg g src base wide ret s) = some s.shared := by simp [execAxchg]
@[simp] theorem execAcas_shared (g : Guard) (src : SSrc) (cmp : BitVec 6) (base : BitVec 5) (wide : Bool) (ret : Bool) (s : State) :
    outShared (execAcas g src cmp base wide ret s) = some s.shared := by
  simp [execAcas]
@[simp] theorem execAtomicPerform_shared (core : Nat) (s : State) : outShared (execAtomicPerform core s) = some s.shared := by
  unfold execAtomicPerform
  dsimp only
  split <;> simp
@[simp] theorem execStrel_shared (g : Guard) (src : SSrc) (base : BitVec 5) (lvl : Sys2Proof.Level) (sz : TSize) (disp : BitVec 14) (s : State) :
    outShared (execStrel g src base lvl sz disp s) = some s.shared := by
  simp [execStrel]
@[simp] theorem execEngineBankRequest_shared (core : Nat) (grp : Sys2Proof.Group) (bank : Nat) (s : State) :
    outShared (execEngineBankRequest core grp bank s) = some s.shared := (rfl)
@[simp] theorem State.refuseBanks_shared (s : State) (c : Nat) (holds : Nat → Bool) :
    (s.refuseBanks c holds).2.shared = s.shared := by
  unfold State.refuseBanks
  dsimp only
  (repeat' split) <;> simp
@[simp] theorem State.slackFreeze_shared (s : State) : s.slackFreeze.shared = s.shared := (rfl)
@[simp] theorem State.serveBanks_shared (s : State) (c : Nat) : (s.serveBanks c).shared = s.shared := (rfl)

/-! ### Machine/Tensor: Shape records (R224-R226), the elements of a tensor and where they lie (R85, R89, R225), t -/

@[simp] theorem State.prefill_shared (s : State) (pasid : Nat) (vas : List Nat) :
    (s.prefill pasid vas).shared = s.shared := by simp [State.prefill]
@[simp] theorem State.tensorDepends_shared (s : State) (c : Nat) (before : Nat) (z : Shape) (scales : Bool) :
    (s.tensorDepends c before z scales).shared = s.shared := by simp [State.tensorDepends]
@[simp] theorem State.askTensor_shared (s : State) (c : Nat) (z : Shape) (scales : Bool) :
    (s.askTensor c z scales).shared = s.shared := by simp [State.askTensor]
@[simp] theorem State.send_shared (s : State) (f : Flit) : (s.send f).shared = s.shared := by
  unfold State.send
  split <;> rfl
@[simp] theorem State.emit_shared (s : State) (pasid : Nat) (f : Flit) :
    (s.emit pasid f).shared = s.shared := by simp [State.emit]
@[simp] theorem State.spendRemote_shared (s : State) (zs : List Shape) :
    (s.spendRemote zs).shared = s.shared := by simp [State.spendRemote]
@[simp] theorem State.countRemote_shared (s : State) (z : Shape) : (s.countRemote z).shared = s.shared := by
  unfold State.countRemote
  split <;> simp

/-! ### Machine/EngReg: The engine registers of a context: their values and what a write to each does or is refuse -/

@[simp] theorem State.advertise_shared (s : State) (pasid : Nat) (chan : Nat) (p : Nat) (upto : Nat) :
    (s.advertise pasid chan p upto).shared = s.shared := by simp [State.advertise]
@[simp] theorem State.engWrite_shared (s : State) (pasid : Nat) (r : EngReg) (v : Word64) :
    (s.engWrite pasid r v).shared = s.shared := by
  unfold State.engWrite
  split <;> rfl
@[simp] theorem State.engWriteNow_shared (s : State) (pasid : Nat) (r : EngReg) (v : Word64) :
    (s.engWriteNow pasid r v).shared = s.shared := by simp [State.engWriteNow]
@[simp] theorem State.engWriteLater_shared (s : State) (pasid : Nat) (r : EngReg) (v : Word64) :
    (s.engWriteLater pasid r v).shared = s.shared := by simp [State.engWriteLater]
@[simp] theorem State.sendNotes_shared (s : State) (c : Nat) : (s.sendNotes c).shared = s.shared := by simp [State.sendNotes]

/-! ### Machine/Engine: The X slot's register copies, the issue of an engine command (R221-R226), the copy engine  -/

@[simp] theorem execFence_shared (g : Guard) (rr : Bool) (rw : Bool) (wr : Bool) (ww : Bool) (sc : BitVec 4) (s : State) :
    outShared (execFence g rr rw wr ww sc s) = some s.shared := by simp [execFence]
@[simp] theorem execXcp_shared (g : Guard) (dst : XDst) (src : XSrc) (ln : BitVec 7) (s : State) :
    outShared (execXcp g dst src ln s) = some s.shared := by simp [execXcp]
@[simp] theorem State.fork_shared (s : State) (cmd : EngCmd) (f : EngOp → EngOp) : (s.fork cmd f).shared = s.shared := by
  unfold State.fork
  dsimp only
  split <;> simp
@[simp] theorem State.command_shared (s : State) (g : Guard) (fault : Option Nat) (hold : Option HoldCause) (cmd : EngCmd) (f : EngOp → EngOp) (ops : List Byte) :
    (s.command g fault hold cmd f ops).shared = s.shared := by
  unfold State.command
  (repeat' split) <;> simp
@[simp] theorem State.copyIssue_shared (s : State) (g : Guard) (xs : BitVec 5) (xd : BitVec 5) (ranks : Option Nat) :
    (s.copyIssue g xs xd ranks).shared = s.shared := by
  unfold State.copyIssue
  split <;> simp
@[simp] theorem execCpy_shared (g : Guard) (xs : BitVec 5) (xd : BitVec 5) (s : State) :
    outShared (execCpy g xs xd s) = some s.shared := by simp [execCpy]
@[simp] theorem execMc_shared (g : Guard) (xs : BitVec 5) (xd : BitVec 5) (ranks : Byte) (s : State) :
    outShared (execMc g xs xd ranks s) = some s.shared := by simp [execMc]
@[simp] theorem execCopyStart_shared (core : Nat) (s : State) : outShared (execCopyStart core s) = some s.shared := by
  unfold execCopyStart
  dsimp only
  (repeat' split) <;> simp
@[simp] theorem State.dropTranslations_shared (s : State) (pasid : Nat) (va : Nat) (count : Nat) (size : TinvSize) :
    (s.dropTranslations pasid va count size).shared = s.shared := (rfl)
@[simp] theorem execTinv_shared (g : Guard) (xv : BitVec 5) (xn : BitVec 5) (size : TinvSize) (s : State) :
    outShared (execTinv g xv xn size s) = some s.shared := by simp [execTinv]
@[simp] theorem State.passMarkers_shared (s : State) : s.passMarkers.shared = s.shared := by simp [State.passMarkers]
@[simp] theorem execTinvComplete_shared (core : Nat) (s : State) : outShared (execTinvComplete core s) = some s.shared := by
  unfold execTinvComplete
  (repeat' split) <;> simp
@[simp] theorem execEngw_shared (g : Guard) (xv : BitVec 5) (num : BitVec 12) (s : State) :
    outShared (execEngw g xv num s) = some s.shared := by
  unfold execEngw
  dsimp only
  (repeat' split) <;> simp
@[simp] theorem execEngr_shared (g : Guard) (num : BitVec 12) (s : State) :
    outShared (execEngr g num s) = some s.shared := by simp [execEngr]
@[simp] theorem execEngrComplete_shared (core : Nat) (s : State) : outShared (execEngrComplete core s) = some s.shared := by
  unfold execEngrComplete
  (repeat' split) <;> simp

/-! ### Machine/Stash: The stash engine (R238-R245): stored forms, the entries of a context, their placement in t -/

@[simp] theorem State.pumpReturns_shared (s : State) (pasid n : Nat) : (s.pumpReturns pasid n).shared = s.shared := by
  induction n generalizing s with
  | zero => rfl
  | succ n ih =>
    unfold State.pumpReturns
    dsimp only
    split
    · rfl
    · split
      · rfl
      · split
        · simp
        · exact (ih _).trans (by simp)
@[simp] theorem State.pump_shared (s : State) (pasid : Nat) : (s.pump pasid).shared = s.shared := by simp [State.pump]
@[simp] theorem State.pumpFreed_shared (s : State) (pasid : Nat) :
    (s.pumpFreed pasid).shared = s.shared := by simp [State.pumpFreed]
@[simp] theorem State.want_shared (s : State) (pasid : Nat) (key : Nat) : (s.want pasid key).shared = s.shared := by
  unfold State.want
  split <;> simp
@[simp] theorem State.wantTags_shared (s : State) (pasid : Nat) (tags : List Nat) :
    (s.wantTags pasid tags).shared = s.shared := by simp [State.wantTags]
@[simp] theorem State.stashIssue_shared (s : State) (g : Guard) (xk : BitVec 5) (shape : Option (Option Shape)) (bad : Nat → Option Shape → Bool) (cmd : Nat → Shape → EngCmd) (handle : Word64) :
    (s.stashIssue g xk shape bad cmd handle).shared = s.shared := by
  simp [State.stashIssue]
@[simp] theorem execStash_shared (g : Guard) (xs : BitVec 5) (xk : BitVec 5) (mode : StashMode) (s : State) :
    outShared (execStash g xs xk mode s) = some s.shared := by simp [execStash]
@[simp] theorem execSpill_shared (g : Guard) (xs : BitVec 5) (xk : BitVec 5) (mode : StashMode) (lp : Bool) (s : State) :
    outShared (execSpill g xs xk mode lp s) = some s.shared := by simp [execSpill]
@[simp] theorem execDrop_shared (g : Guard) (xh : BitVec 5) (xk : BitVec 5) (s : State) :
    outShared (execDrop g xh xk s) = some s.shared := by simp [execDrop]
@[simp] theorem execWver_shared (g : Guard) (xs : BitVec 5) (xk : BitVec 5) (s : State) :
    outShared (execWver g xs xk s) = some s.shared := by simp [execWver]
@[simp] theorem execFetch_shared (g : Guard) (xd : BitVec 5) (xk : BitVec 5) (free : Bool) (s : State) :
    outShared (execFetch g xd xk free s) = some s.shared := by
  unfold execFetch
  dsimp only
  (repeat' split) <;> simp
@[simp] theorem State.arenaRoom_shared (s : State) (pasid : Nat) (op : Nat) (need : Nat) (pressure : Bool) :
    (s.arenaRoom pasid op need pressure).2.shared = s.shared := by
  unfold State.arenaRoom
  dsimp only
  (repeat' split) <;> simp
@[simp] theorem State.stashFail_shared (s : State) (core : Nat) (pasid : Nat) (o : EngOp) (key : Nat) (status : Nat) :
    (s.stashFail core pasid o key status).shared = s.shared := (rfl)

/-! ### Machine/Create: The creation of tasks (R17-R19, R23, R242, R254, R259), the horizon and the frontier condi -/

@[simp] theorem State.takeSeq_shared (s : State) (st : Nat) (origin : Nat) : (s.takeSeq st origin).2.shared = s.shared := (rfl)
@[simp] theorem State.create_shared (s : State) (st : Nat) (kind : TaskKind) (tag : Nat) (key : Key) (budget : Nat) (parent : Option (Nat × Nat)) (tile : Option (Nat × Nat × Nat)) (stamp : Nat) :
    (s.create st kind tag key budget parent tile stamp).2.shared = s.shared := by
  simp [State.create]

/-! ### Machine/Channel: Tensor channels (R246-R251): sends, receives, end-of-stream tokens, and what arrives over  -/

@[simp] theorem execChsend_shared (g : Guard) (xs : BitVec 5) (xg : BitVec 5) (xt : BitVec 5) (chan : BitVec 6) (s : State) :
    outShared (execChsend g xs xg xt chan s) = some s.shared := by
  unfold execChsend
  split <;> simp
@[simp] theorem execCheos_shared (g : Guard) (chan : BitVec 6) (s : State) :
    outShared (execCheos g chan s) = some s.shared := by simp [execCheos]
@[simp] theorem State.buffer_shared (s : State) (pasid : Nat) (i : Instr) : (s.buffer pasid i).shared = s.shared := (rfl)
@[simp] theorem State.arriveHere_shared (s : State) (i : Instr) : (s.arriveHere i).shared = s.shared := (rfl)
@[simp] theorem execChsendRelease_shared (core : Nat) (s : State) : outShared (execChsendRelease core s) = some s.shared := by
  unfold execChsendRelease
  dsimp only
  (repeat' split) <;> simp
@[simp] theorem execChrecv_shared (g : Guard) (xd : BitVec 5) (chan : BitVec 6) (s : State) :
    outShared (execChrecv g xd chan s) = some s.shared := by
  unfold execChrecv
  dsimp only
  (repeat' split) <;> simp
@[simp] theorem State.linkRecv_shared (s : State) (stamp : Nat) : (s.linkRecv stamp).shared = s.shared := (rfl)
@[simp] theorem State.openWindow_shared (s : State) (pasid : Nat) (chan : Nat) (p : Nat) :
    (s.openWindow pasid chan p).shared = s.shared := by simp [State.openWindow]
@[simp] theorem State.tileCommitted_shared (s : State) (pasid : Nat) (tid : Nat) (tile : Nat × Nat × Nat) :
    (s.tileCommitted pasid tid tile).shared = s.shared := by
  unfold State.tileCommitted
  split <;> simp
@[simp] theorem State.discardFlit_shared (s : State) : s.discardFlit.shared = s.shared := by simp [State.discardFlit]
@[simp] theorem State.createFromTile_shared (s : State) (st : Nat) (pasid : Nat) (chan : Nat) (t : TileSlot) :
    (s.createFromTile st pasid chan t).shared = s.shared := by simp [State.createFromTile]
@[simp] theorem execEosTokenArrival_shared (via : Via) (chan : BitVec 6) (prod : BitVec 4) (s : State) :
    outShared (execEosTokenArrival via chan prod s) = some s.shared := by simp [execEosTokenArrival]
@[simp] theorem execWindowAdvertisement_shared (via : Via) (out : BitVec 6) (upto : Nat) (s : State) :
    outShared (execWindowAdvertisement via out upto s) = some s.shared := by simp [execWindowAdvertisement]

/-! ### Machine/Reduce: Fabric reductions (R157-R165): contributions, the joining of partials in the fixed tree an -/

@[simp] theorem execRedm_shared (g : Guard) (xs : BitVec 5) (xi : BitVec 5) (win : BitVec 6) (s : State) :
    outShared (execRedm g xs xi win s) = some s.shared := by simp [execRedm]
@[simp] theorem State.postRound_shared (s : State) (pasid win status : Nat) (f : Nat × Nat × Nat → Bool) :
    (s.postRound pasid win status f).shared = s.shared := by
  unfold State.postRound
  dsimp only
  rw [State.modCtx_shared]
  exact foldl_shared (fun t x => foldl_shared (fun u e => by split <;> simp) _ t) _ s
@[simp] theorem State.flushPartials_shared (s : State) (pasid : Nat) (win : Nat) :
    (s.flushPartials pasid win).shared = s.shared := by simp [State.flushPartials]

/-! ### Machine/Tasks: The life of a task: the task instructions of the Y slot (R271-R275), leaving the cores (R2 -/

@[simp] theorem execSpawn_shared (g : Guard) (sk : BitVec 6) (st : BitVec 6) (sb : BitVec 6) (s : State) :
    outShared (execSpawn g sk st sb s) = some s.shared := by
  unfold execSpawn
  split <;> simp
@[simp] theorem execFrd_shared (g : Guard) (d : SDst) (s : State) : outShared (execFrd g d s) = some s.shared := by simp [execFrd]
@[simp] theorem execFrdOwn_shared (g : Guard) (d : SDst) (s : State) :
    outShared (execFrdOwn g d s) = some s.shared := by simp [execFrdOwn]
@[simp] theorem State.dropRecord_shared (s : State) (c : Nat) (op : Nat) : (s.dropRecord c op).shared = s.shared := (rfl)
@[simp] theorem execTend_shared (g : Guard) (s : State) : outShared (execTend g s) = some s.shared := by
  unfold execTend
  dsimp only
  (repeat' split) <;> simp
@[simp] theorem execTabort_shared (g : Guard) (s : State) : outShared (execTabort g s) = some s.shared := by simp [execTabort]
@[simp] theorem State.releaseTeam_shared (s : State) (t : Nat) (keep : Bool) :
    (s.releaseTeam t keep).shared = s.shared := by simp [State.releaseTeam]
@[simp] theorem State.burst_shared (s : State) (tid : Nat) : (s.burst tid).shared = s.shared := by
  unfold State.burst
  split <;> simp
@[simp] theorem State.deliverDeferred_shared (s : State) (tid : Nat) : (s.deliverDeferred tid).shared = s.shared := by
  unfold State.deliverDeferred
  split
  · split
    · split_ifs <;> simp
    · rfl
  · rfl
@[simp] theorem State.unhold_shared (s : State) (st : Nat) (f : Nat → Bool) :
    (s.unhold st f).shared = s.shared := by simp [State.unhold]
@[simp] theorem execFrontierAdvance_shared (stage : Nat) (s : State) :
    outShared (execFrontierAdvance stage s) = some s.shared := by
  unfold execFrontierAdvance
  dsimp only
  (repeat' split) <;> simp
@[simp] theorem State.commitStamp_shared (s : State) (c : Nat) : (s.commitStamp c).shared = s.shared := (rfl)
@[simp] theorem execTaskRetire_shared (stage : Nat) (s : State) : outShared (execTaskRetire stage s) = some s.shared := by
  unfold execTaskRetire
  dsimp only
  (repeat' split) <;> simp
@[simp] theorem State.conflictAborts_shared (s : State) : s.conflictAborts.shared = s.shared := by
  unfold State.conflictAborts
  refine foldl_shared (fun t e => ?_) _ s
  dsimp only
  split
  · rfl
  · rw [foldl_shared fun u x => by split <;> simp]
    simp
@[simp] theorem execFrontierEviction_shared (stage : Nat) (s : State) :
    outShared (execFrontierEviction stage s) = some s.shared := by
  unfold execFrontierEviction
  dsimp only
  (repeat' split) <;> simp
@[simp] theorem State.enqueueSuccessor_shared (s : State) (su : Successor) (seq : Nat) :
    (s.enqueueSuccessor su seq).shared = s.shared := by simp [State.enqueueSuccessor]
@[simp] theorem execHeldCreatingEvent_shared (stage : Nat) (s : State) :
    outShared (execHeldCreatingEvent stage s) = some s.shared := by
  unfold execHeldCreatingEvent
  dsimp only
  (repeat' split) <;> simp
@[simp] theorem execBudgetExhausted_shared (tid : Nat) (s : State) : outShared (execBudgetExhausted tid s) = some s.shared := by
  unfold execBudgetExhausted
  (repeat' split) <;> simp
@[simp] theorem State.counterUnderflow_shared (s : State) (o : CounterOp) : (s.counterUnderflow o).shared = s.shared := by
  unfold State.counterUnderflow
  (repeat' split) <;> simp
@[simp] theorem State.performCounter_shared (s : State) (o : CounterOp) : (s.performCounter o).shared = s.shared := by
  unfold State.performCounter
  dsimp only
  (repeat' split) <;> simp
@[simp] theorem State.performCounters_shared (s : State) (st decs n : Nat) : (s.performCounters st decs n).shared = s.shared := by
  induction n generalizing s decs with
  | zero => rfl
  | succ n ih =>
    unfold State.performCounters
    dsimp only
    split
    · rfl
    · split_ifs
      · rfl
      · exact (ih _ _).trans (by simp)
      · exact (ih _ _).trans (by simp)
@[simp] theorem execDctrPerform_shared (stage : Nat) (s : State) :
    outShared (execDctrPerform stage s) = some s.shared := by simp [execDctrPerform]

/-! ### Machine/Sched: The stage scheduler (R316-R322): ready queues, the tide table, evaluation and dispatch; th -/

@[simp] theorem State.place_shared (s : State) (tid : Nat) (t : Task) (x : Nat × Nat) :
    (s.place tid t x).shared = s.shared := by simp [State.place]
@[simp] theorem execStageEvaluation_shared (stage : Nat) (s : State) :
    outShared (execStageEvaluation stage s) = some s.shared := by
  unfold execStageEvaluation
  dsimp only
  (repeat' split) <;> simp
@[simp] theorem execTaskDispatch_shared (tid : Nat) (s : State) : outShared (execTaskDispatch tid s) = some s.shared := by
  unfold execTaskDispatch
  split <;> simp
@[simp] theorem State.addToken_shared (s : State) (die : Nat) : (s.addToken die).shared = s.shared := by
  unfold State.addToken
  split <;> rfl
@[simp] theorem repeatN_shared {f : State → State} (h : ∀ s, (f s).shared = s.shared) (n : Nat) (s : State) : (repeatN f n s).shared = s.shared := by
  induction n generalizing s with
  | zero => rfl
  | succ n ih => exact (ih _).trans (h s)
@[simp] theorem execHeadroomPublication_shared (die power : Nat) (s : State) :
    outShared (execHeadroomPublication die power s) = some s.shared := by
  unfold execHeadroomPublication
  simp only [outShared_next, ite_shared]
  rw [foldl_shared fun t st => by split <;> simp]
  simp
@[simp] theorem execHandlerResume_shared (tid : Nat) (s : State) : outShared (execHandlerResume tid s) = some s.shared := by
  unfold execHandlerResume
  split <;> simp
@[simp] theorem execHandlerExtend_shared (tid : Nat) (c : Nat) (s : State) :
    outShared (execHandlerExtend tid c s) = some s.shared := by
  unfold execHandlerExtend
  split <;> simp
@[simp] theorem execHandlerAbort_shared (tid : Nat) (recreate : Bool) (s : State) :
    outShared (execHandlerAbort tid recreate s) = some s.shared := by
  unfold execHandlerAbort
  split <;> simp

/-! ### Machine/Switch: Team swaps (R302, R325-R327), context switches (R328, R329, R287-R289), gang switches (R33 -/

@[simp] theorem State.asIf_shared (s : State) (tid : Nat) (t : Task) : (s.asIf tid t).shared = s.shared := by simp [State.asIf]
@[simp] theorem State.markResumable_shared (s : State) : s.markResumable.shared = s.shared := by simp [State.markResumable]
@[simp] theorem State.beginRerun_shared (s : State) (c : Nat) (strike : Nat) (left : Bool) :
    (s.beginRerun c strike left).shared = s.shared := (rfl)
@[simp] theorem State.startSaving_shared (s : State) (tid : Nat) :
    (s.startSaving tid).shared = s.shared := by simp [State.startSaving]
@[simp] theorem State.resumeCore_shared (s : State) (c : Nat) (owed : Option Nat) : (s.resumeCore c owed).shared = s.shared := by
  unfold State.resumeCore
  split <;> simp
@[simp] theorem execTeamSwap_shared (tid : Nat) (s : State) : outShared (execTeamSwap tid s) = some s.shared := by
  unfold execTeamSwap
  split <;> simp
@[simp] theorem execSwapComplete_shared (tid : Nat) (s : State) : outShared (execSwapComplete tid s) = some s.shared := by
  unfold execSwapComplete
  (repeat' split) <;> simp
@[simp] theorem execSwapRestore_shared (tid : Nat) (s : State) : outShared (execSwapRestore tid s) = some s.shared := by
  unfold execSwapRestore
  (repeat' split) <;> simp
@[simp] theorem State.keepSpawns_shared (s : State) (p : Nat) (cs : List Nat) : (s.keepSpawns p cs).shared = s.shared := (rfl)
@[simp] theorem State.loadSpawns_shared (s : State) (p : Nat) (cs : List Nat) :
    (s.loadSpawns p cs).shared = s.shared := by simp [State.loadSpawns]
@[simp] theorem State.handCluster_shared (s : State) (cl : Nat) (src : Option Nat) (dst : Nat) (anew : Bool) :
    (s.handCluster cl src dst anew).shared = s.shared := by
  unfold State.handCluster
  split <;> simp
@[simp] theorem State.startRestore_shared (s : State) (p : Nat) (tag : Word64) (command : Nat) :
    (s.startRestore p tag command).shared = s.shared := (rfl)
@[simp] theorem State.commandDone_shared (s : State) (p : Nat) :
    (s.commandDone p).shared = s.shared := by simp [State.commandDone]
@[simp] theorem State.layoutCheck_shared (s : State) : s.layoutCheck.shared = s.shared := (rfl)
@[simp] theorem State.fillScope_shared (s : State) : s.fillScope.shared = s.shared := (rfl)
@[simp] theorem State.leaveScope_shared (s : State) : s.leaveScope.shared = s.shared := (rfl)
@[simp] theorem State.saveCluster_shared (s : State) (p cl : Nat) : (s.saveCluster p cl).shared = s.shared := by
  unfold State.saveCluster
  dsimp only
  rw [State.modClu_shared]
  refine (foldl_shared (fun t (e : Nat × Task) => t.startSaving_shared e.1) _ _).trans (foldl_shared (fun t e => ?_) _ s)
  rw [State.modTask_shared]
  exact foldl_shared (fun u c => by split <;> simp) _ t
@[simp] theorem State.endGang_shared (s : State) (g : Gang) : (s.endGang g).shared = s.shared := by simp [State.endGang]
@[simp] theorem State.replace_shared (s : State) (st : Nat) (fresh : List Nat) (gone : Nat → Bool) (old : Nat → Cluster) :
    (s.replace st fresh gone old).shared = s.shared := by
  unfold State.replace
  dsimp only
  refine foldl_shared (fun t x => ?_) _ _
  (repeat' split) <;> simp
@[simp] theorem State.restoreAside_shared (s : State) (a : SaveArea) (tid : Nat) :
    (s.restoreAside a tid).shared = s.shared := by simp [State.restoreAside]
@[simp] theorem State.restoreCore_shared (s : State) (aside : List Nat) (e : Nat × Core) :
    (s.restoreCore aside e).shared = s.shared := by
  unfold State.restoreCore
  split <;> simp
@[simp] theorem State.beginGang_shared (s : State) (g : Gang) : (s.beginGang g).shared = s.shared := by
  unfold State.beginGang
  dsimp only
  (repeat' split) <;> simp
@[simp] theorem execGangSwitchTime_shared (s : State) :
    outShared (execGangSwitchTime s) = some s.shared := by simp [execGangSwitchTime]
@[simp] theorem State.noteQuiet_shared (s : State) (port : Nat) (pasid : Nat) : (s.noteQuiet port pasid).shared = s.shared := by
  unfold State.noteQuiet
  split <;> rfl
@[simp] theorem execQuiesceFlit_shared (port : Nat) (pasid : Nat) (s : State) :
    outShared (execQuiesceFlit port pasid s) = some s.shared := by simp [execQuiesceFlit]
@[simp] theorem execHandlerContextFault_shared (tid : Nat) (s : State) :
    outShared (execHandlerContextFault tid s) = some s.shared := by
  unfold execHandlerContextFault
  (repeat' split) <;> simp

/-! ### Machine/Recovery: Recovery (R363-R384): sounder reports and data errors, the clusters that leave service, re -/

@[simp] theorem State.enterViral_shared (s : State) : s.enterViral.shared = s.shared := by simp [State.enterViral]
@[simp] theorem execPlatformUncorrectableError_shared (_part : PlatformPart) (s : State) :
    outShared (execPlatformUncorrectableError _part s) = some s.shared := by simp [execPlatformUncorrectableError]
@[simp] theorem execViralNeighbour_shared (port : Nat) (chip : Nat) (s : State) :
    outShared (execViralNeighbour port chip s) = some s.shared := by simp [execViralNeighbour]
@[simp] theorem State.rebuild_shared (s : State) (channel : Nat) :
    (s.rebuild channel).shared = s.shared := by simp [State.rebuild]
@[simp] theorem State.meetError_shared (s : State) (e : StorageError) : (s.meetError e).shared = s.shared := by
  unfold State.meetError
  dsimp only
  (repeat' split) <;> simp
@[simp] theorem State.recoverCore_shared (s : State) (c : Nat) (strike : Nat) : (s.recoverCore c strike).shared = s.shared := by
  unfold State.recoverCore
  dsimp only
  (repeat' split) <;> simp
@[simp] theorem State.withdraw_shared (s : State) (cl : Nat) : (s.withdraw cl).shared = s.shared := by
  unfold State.withdraw
  dsimp only
  rw [foldl_shared]
  · simp
  · intro t tid
    split
    · rfl
    · split_ifs
      · simp
      · simp
      · rfl
      · rw [State.modTask_shared, State.startSaving_shared]
        exact foldl_shared (fun u c => by split <;> simp) _ t
@[simp] theorem State.report_shared (s : State) (cl : Nat) (strike : Nat) :
    (s.report cl strike).shared = s.shared := by simp [State.report]
@[simp] theorem execSounderReport_shared (first : Nat) (second : Option Nat) (strike : Nat) (s : State) :
    outShared (execSounderReport first second strike s) = some s.shared := by
  unfold execSounderReport
  (repeat' split) <;> simp
@[simp] theorem execDataError_shared (cluster : Nat) (core : Nat) (site : ErrorSite) (addr : Nat) (s : State) :
    outShared (execDataError cluster core site addr s) = some s.shared := by
  unfold execDataError
  dsimp only
  (repeat' split) <;> simp
@[simp] theorem execSounderSelfTest_shared (cluster : Nat) (passing : Nat) (s : State) :
    outShared (execSounderSelfTest cluster passing s) = some s.shared := by simp [execSounderSelfTest]
@[simp] theorem execAgeingMonitorRead_shared (cluster : Nat) (slack : List Nat) (s : State) :
    outShared (execAgeingMonitorRead cluster slack s) = some s.shared := by simp [execAgeingMonitorRead]
@[simp] theorem State.placeSection_shared (s : State) (g : Stage) (cl : Nat) (d : Section) :
    (s.placeSection g cl d).shared = s.shared := by
  unfold State.placeSection
  split <;> simp
@[simp] theorem State.keepAllSpawns_shared (s : State) : s.keepAllSpawns.shared = s.shared := by simp [State.keepAllSpawns]
@[simp] theorem execReplanPublication_shared (stage : Nat) (clusters : Nat) (s : State) :
    outShared (execReplanPublication stage clusters s) = some s.shared := by simp [execReplanPublication]
@[simp] theorem State.trip_shared (s : State) : s.trip.shared = s.shared := (rfl)
@[simp] theorem execThermalTrip_shared (s : State) : outShared (execThermalTrip s) = some s.shared := (rfl)
@[simp] theorem execTemperatureReport_shared (die : Nat) (celsius : Nat) (s : State) :
    outShared (execTemperatureReport die celsius s) = some s.shared := by simp [execTemperatureReport]
@[simp] theorem State.bootSlot_shared (s : State) (minSecver : Nat) :
    (s.bootSlot minSecver).shared = s.shared := by simp [State.bootSlot]
@[simp] theorem State.bootPorts_shared (s : State) : s.bootPorts.shared = s.shared := (rfl)
@[simp] theorem State.bootReady_shared (s : State) : s.bootReady.shared = s.shared := by
  unfold State.bootReady
  rw [State.eventFrame_shared]
  refine foldl_shared (fun t d => ?_) _ s
  dsimp only
  split
  · exact (shared_of_next ‹_› (execHeadroomPublication_shared _ _ _)).trans (by simp)
  · rfl

/-! ### Machine/Host: The Tideport (R352-R355): frames and their answers, the management units, the fault log, a -/

@[simp] theorem State.badFrame_shared (s : State) (fr : Frame) : (s.badFrame fr).shared = s.shared := (rfl)
@[simp] theorem State.frame_shared {act : State → Nat × List Byte × State} (h : ∀ t, (act t).2.2.shared = t.shared) (s : State)
    (fr : Frame) (always : Bool) : (s.frame fr always act).shared = s.shared := by
  unfold State.frame
  split_ifs
  · rfl
  · simp
  all_goals dsimp only; rw [State.sendFrame_shared]
  · simp
  · exact (h _).trans (by simp)
@[simp] theorem State.command1_shared {act : State → Nat × State} (h : ∀ t, (act t).2.shared = t.shared) (s : State) (fr : Frame) :
    (s.command1 fr act).shared = s.shared := State.frame_shared (fun t => h t) s fr false
@[simp] theorem State.acceptIf_shared {s : State} {act : State → State} (h : (act s).shared = s.shared) (ok : Bool) :
    (s.acceptIf ok act).2.shared = s.shared := by
  unfold State.acceptIf
  split
  · exact h
  · rfl
@[simp] theorem execMalformedFrame_shared (fr : Frame) (s : State) :
    outShared (execMalformedFrame fr s) = some s.shared := by simp [execMalformedFrame]
@[simp] theorem State.logRead_shared (s : State) : (s.logRead).2.shared = s.shared := by
  unfold State.logRead
  dsimp only
  (repeat' split) <;> simp
@[simp] theorem execFaultLogRead_shared (fr : Frame) (s : State) :
    outShared (execFaultLogRead fr s) = some s.shared := by simp [execFaultLogRead]
@[simp] theorem execManagementRead_shared (fr : Frame) (s : State) :
    outShared (execManagementRead fr s) = some s.shared := by simp [execManagementRead]
@[simp] theorem State.tideWrite_shared (s : State) (st : Nat) (e : Nat) (v : Word64) :
    (s.tideWrite st e v).2.shared = s.shared := by simp [State.tideWrite]
@[simp] theorem State.stagectl_shared (s : State) (st : Nat) (v : Word64) :
    (s.stagectl st v).2.shared = s.shared := by simp [State.stagectl]
@[simp] theorem State.queueDisable_shared (s : State) (slot : Nat) :
    (s.queueDisable slot).2.shared = s.shared := by simp [State.queueDisable]
@[simp] theorem State.queueRun_shared (s : State) (slot : Nat) : (s.queueRun slot).2.shared = s.shared := by
  unfold State.queueRun
  split <;> simp
@[simp] theorem State.queueRptr_shared (s : State) (slot : Nat) (v : Nat) : (s.queueRptr slot v).2.shared = s.shared := by
  unfold State.queueRptr
  split <;> simp
@[simp] theorem State.engineUnit_shared (s : State) (pasid : Nat) (num : Nat) (v : Word64) :
    (s.engineUnit pasid num v).2.shared = s.shared := by
  unfold State.engineUnit
  split <;> simp
@[simp] theorem State.unitWrite_shared (s : State) (pasid a : Nat) (v : Word64) : (s.unitWrite pasid a v).2.shared = s.shared := by
  unfold State.unitWrite
  dsimp only
  split_ifs
  · rfl
  · rfl
  · simp
  · simp
  · rfl
  · rfl
  · split
    · split <;> simp
    · simp
    · rfl
  · rfl
  · simp
  · rfl
@[simp] theorem execManagementWrite_shared (fr : Frame) (v : Word64) (s : State) :
    outShared (execManagementWrite fr v s) = some s.shared := by simp [execManagementWrite]
@[simp] theorem execTideTableWrite_shared (fr : Frame) (stage : Nat) (entry : Nat) (v : Word64) (s : State) :
    outShared (execTideTableWrite fr stage entry v s) = some s.shared := by simp [execTideTableWrite]
@[simp] theorem execStagectlWrite_shared (fr : Frame) (stage : Nat) (v : Word64) (s : State) :
    outShared (execStagectlWrite fr stage v s) = some s.shared := by simp [execStagectlWrite]
@[simp] theorem execQstateDisable_shared (fr : Frame) (slot : Nat) (s : State) :
    outShared (execQstateDisable fr slot s) = some s.shared := by simp [execQstateDisable]
@[simp] theorem execQstateRun_shared (fr : Frame) (slot : Nat) (s : State) :
    outShared (execQstateRun fr slot s) = some s.shared := by simp [execQstateRun]
@[simp] theorem execRptrWrite_shared (fr : Frame) (slot : Nat) (v : Word32) (s : State) :
    outShared (execRptrWrite fr slot v s) = some s.shared := by simp [execRptrWrite]
@[simp] theorem execReductionWindowWrite_shared (fr : Frame) (num : BitVec 12) (v : Word64) (s : State) :
    outShared (execReductionWindowWrite fr num v s) = some s.shared := by simp [execReductionWindowWrite]
@[simp] theorem execStarenaWrite_shared (fr : Frame) (v : Word64) (s : State) :
    outShared (execStarenaWrite fr v s) = some s.shared := by simp [execStarenaWrite]
@[simp] theorem execSpillRegionWrite_shared (fr : Frame) (num : BitVec 12) (v : Word64) (s : State) :
    outShared (execSpillRegionWrite fr num v s) = some s.shared := by simp [execSpillRegionWrite]
@[simp] theorem execInChannelWrite_shared (fr : Frame) (num : BitVec 12) (v : Word64) (s : State) :
    outShared (execInChannelWrite fr num v s) = some s.shared := by simp [execInChannelWrite]
@[simp] theorem execOutChannelWrite_shared (fr : Frame) (num : BitVec 12) (v : Word64) (s : State) :
    outShared (execOutChannelWrite fr num v s) = some s.shared := by simp [execOutChannelWrite]
@[simp] theorem execDestroyContext_shared (fr : Frame) (s : State) : outShared (execDestroyContext fr s) = some s.shared := by
  refine congrArg some (State.command1_shared (fun t => State.acceptIf_shared ?_ _) s fr)
  rw [State.modCtx_shared]
  exact foldl_shared (fun u (e : Nat × Task) => u.abortLater_shared e.1 false false) _ t
@[simp] theorem execSaveContext_shared (fr : Frame) (s : State) :
    outShared (execSaveContext fr s) = some s.shared := by simp [execSaveContext]
@[simp] theorem execRestoreContext_shared (fr : Frame) (s : State) :
    outShared (execRestoreContext fr s) = some s.shared := by simp [execRestoreContext]
@[simp] theorem execInvalidateTranslations_shared (fr : Frame) (va : Word64) (count : Word64) (size : TinvSize) (s : State) :
    outShared (execInvalidateTranslations fr va count size s) = some s.shared := by simp [execInvalidateTranslations]
@[simp] theorem execGangSwitch_shared (fr : Frame) (time : Word64) (outgoing incoming : Nat) (s : State) :
    outShared (execGangSwitch fr time outgoing incoming s) = some s.shared :=
  congrArg some (State.frame_shared (fun t => by split <;> rfl) s fr false)
/-- The dies of a new plan take their shares. -/
theorem giveShares_shared (l : List (Nat × Nat)) (s : State) :
    (l.foldl (fun (v : State) d => v.modDie d.2 fun x => { x with share := d.1 }) { s with free := s.free + 3 }).shared = s.shared :=
  (foldl_shared (fun v (d : Nat × Nat) => v.modDie_shared d.2 _) l _).trans rfl

@[simp] theorem execPublishStagePlan_shared (fr : Frame) (body : List Byte) (s : State) :
    outShared (execPublishStagePlan fr body s) = some s.shared := by
  unfold execPublishStagePlan
  rw [outShared_next]
  refine congrArg some (State.command1_shared (fun t => State.acceptIf_shared ?_ _) s fr)
  dsimp only
  refine (giveShares_shared _ _).trans ?_
  rw [State.takeFree_eq]
  dsimp only
  rw [mk_shared, shared_eta, State.fillScope_shared, mk_shared, shared_eta]
  refine (foldl_shared (fun v r => ?_) _ _).trans (State.keepAllSpawns_shared _)
  split
  · rfl
  · exact foldl_shared (fun w cl => w.handCluster_shared _ _ _ _) _ v
@[simp] theorem State.setImage_shared (s : State) (slotB : Bool) (f : Image → Image) :
    (s.setImage slotB f).shared = s.shared := (rfl)
@[simp] theorem execBulkUpload_shared (fr : Frame) (data : List Byte) (s : State) : outShared (execBulkUpload fr data s) = some s.shared := by
  unfold execBulkUpload
  split
  · simp
  · refine congrArg some (State.frame_shared (fun t => ?_) s fr true)
    dsimp only
    split_ifs <;> simp
@[simp] theorem execFirmwareStaged_shared (slotB : Bool) (verified : Bool) (s : State) :
    outShared (execFirmwareStaged slotB verified s) = some s.shared := by simp [execFirmwareStaged]
@[simp] theorem execFirmwareImageDiscard_shared (fr : Frame) (s : State) :
    outShared (execFirmwareImageDiscard fr s) = some s.shared := by simp [execFirmwareImageDiscard]
@[simp] theorem execReadIdentity_shared (fr : Frame) (s : State) : outShared (execReadIdentity fr s) = some s.shared :=
  congrArg some (State.frame_shared (fun _ => rfl) s fr true)
@[simp] theorem execAttest_shared (fr : Frame) (nonce : List Byte) (s : State) : outShared (execAttest fr nonce s) = some s.shared :=
  congrArg some (State.frame_shared (fun t => by split <;> rfl) s fr true)
@[simp] theorem execResetChip_shared (fr : Frame) (s : State) : outShared (execResetChip fr s) = some s.shared :=
  congrArg some (State.frame_shared (fun _ => rfl) s fr true)

/-! ### Machine/Queue: Queues (R339-R343, R347): their creation and destruction, doorbells, the reading of packet -/

@[simp] theorem State.queueCommand_shared {act : State → Nat → Nat → Nat × State} (h : ∀ t p a, (act t p a).2.shared = t.shared) (s : State)
    (fr : Frame) : (s.queueCommand fr act).shared = s.shared := by
  refine State.command1_shared (fun t => ?_) s fr
  split_ifs
  · rfl
  · exact h _ _ _
@[simp] theorem execCreateQueue_shared (fr : Frame) (body : List Byte) (s : State) : outShared (execCreateQueue fr body s) = some s.shared := by
  refine congrArg some (State.queueCommand_shared (fun t p q => ?_) s fr)
  dsimp only
  split
  · exact State.acceptIf_shared rfl _
  · rfl
@[simp] theorem execDestroyQueue_shared (fr : Frame) (s : State) : outShared (execDestroyQueue fr s) = some s.shared := by
  refine congrArg some (State.queueCommand_shared (fun t p q => ?_) s fr)
  split
  · rfl
  · split
    · rfl
    · exact State.acceptIf_shared rfl _
@[simp] theorem execRestartQueue_shared (fr : Frame) (rptr : Word32) (s : State) : outShared (execRestartQueue fr rptr s) = some s.shared := by
  refine congrArg some (State.queueCommand_shared (fun t p q => ?_) s fr)
  split
  · rfl
  · dsimp only
    split_ifs <;> simp
@[simp] theorem State.queueError_shared (s : State) (slot : Nat) (cause : Nat) : (s.queueError slot cause).shared = s.shared := by
  unfold State.queueError
  split <;> simp
@[simp] theorem State.readAhead_shared (s : State) (slot i n : Nat) : (s.readAhead slot i n).shared = s.shared := by
  induction n generalizing s i with
  | zero => rfl
  | succ n ih =>
    unfold State.readAhead
    split
    · rfl
    · dsimp only [State.takeFree]
      split_ifs
      · rfl
      · split
        · split_ifs
          · exact (ih _ _).trans (by simp)
          · simp
        · simp
@[simp] theorem execPacketHeaderReread_shared (slot : Nat) (s : State) :
    outShared (execPacketHeaderReread slot s) = some s.shared := by
  unfold execPacketHeaderReread
  (repeat' split) <;> simp
@[simp] theorem execDoorbellWrite_shared (pasid : Option Nat) (slot : Nat) (v : Word64) (s : State) :
    outShared (execDoorbellWrite pasid slot v s) = some s.shared := by
  unfold execDoorbellWrite
  (repeat' split) <;> simp
@[simp] theorem State.actOn_shared (s : State) (slot : Nat) (bs : List Byte) :
    (s.actOn slot bs).shared = s.shared := by simp [State.actOn]
@[simp] theorem State.consume_shared (s : State) (slot : Nat) : (s.consume slot).shared = s.shared := by simp [State.consume]
@[simp] theorem execTaskPacket_shared (slot : Nat) (s : State) : outShared (execTaskPacket slot s) = some s.shared := by
  unfold execTaskPacket
  split <;> simp
@[simp] theorem execSignalPacket_shared (slot : Nat) (s : State) : outShared (execSignalPacket slot s) = some s.shared := by
  unfold execSignalPacket
  split <;> simp
@[simp] theorem execFencePacket_shared (slot : Nat) (s : State) : outShared (execFencePacket slot s) = some s.shared := by
  unfold execFencePacket
  split <;> simp
@[simp] theorem execQueueFenceRelease_shared (slot : Nat) (s : State) :
    outShared (execQueueFenceRelease slot s) = some s.shared := by
  unfold execQueueFenceRelease
  split <;> simp
@[simp] theorem execLaunchPacket_shared (slot : Nat) (s : State) : outShared (execLaunchPacket slot s) = some s.shared := by
  unfold execLaunchPacket
  split <;> simp
@[simp] theorem execNopPacket_shared (slot : Nat) (s : State) : outShared (execNopPacket slot s) = some s.shared := by
  unfold execNopPacket
  split <;> simp

/-! ### Machine/Link: Link events that carry no tile, token, window, partial or quiesce -/

@[simp] theorem State.modPort_shared (s : State) (p : Nat) (f : Port → Port) : (s.modPort p f).shared = s.shared := (rfl)
@[simp] theorem execFlitResendRequest_shared (port : Nat) (s : State) :
    outShared (execFlitResendRequest port s) = some s.shared := by simp [execFlitResendRequest]
@[simp] theorem execTimeBaseFlit_shared (port : Nat) (ns : Word64) (s : State) :
    outShared (execTimeBaseFlit port ns s) = some s.shared := by simp [execTimeBaseFlit]
@[simp] theorem execDiscardedFlit_shared (port : Nat) (s : State) :
    outShared (execDiscardedFlit port s) = some s.shared := by simp [execDiscardedFlit]
@[simp] theorem execLinkControlTrainingFlit_shared (port : Nat) (sign : PortSign) (s : State) :
    outShared (execLinkControlTrainingFlit port sign s) = some s.shared := by
  unfold execLinkControlTrainingFlit
  (repeat' split) <;> simp

/-! ### Machine/Vector: The vector chain: units one, two and three over 128 lanes -/

@[simp] theorem execVectorChain_shared (f : VSlot) (g : Guard) (ch : Chain) (s : State) :
    outShared (execVectorChain f g ch s) = some s.shared := by simp [execVectorChain]

/-! ### Machine/Issue: The issue of a bundle: which cores may issue, what holds a bundle (R47, R67, R189, R204, R -/

@[simp] theorem State.watchStop_shared (s : State) (sl : Slot) (done : Nat) :
    (s.watchStop sl done).shared = s.shared := by simp [State.watchStop]
@[simp] theorem State.stopHeld_shared (s : State) (b : Bundle) : (s.stopHeld b).shared = s.shared := by simp [State.stopHeld]
@[simp] theorem State.standStill_shared (s : State) : s.standStill.shared = s.shared := (rfl)
@[simp] theorem State.prelude_shared (s : State) (b : Bundle) : (s.prelude b).shared = s.shared := (rfl)

/-! ### Machine/Cycle: The end of a chip cycle: completions of phasers (R296), conflict aborts (R265), budgets an -/

@[simp] theorem State.countTask_shared (s : State) (e : Nat × Task) :
    (s.countTask e).shared = s.shared := by simp [State.countTask]
@[simp] theorem State.lateBreach_shared (s : State) (c : Nat) : (s.lateBreach c).shared = s.shared := by
  unfold State.lateBreach
  (repeat' split) <;> simp
@[simp] theorem State.drainCore_shared (s : State) (c : Nat) : (s.drainCore c).shared = s.shared := by simp [State.drainCore]
@[simp] theorem State.secondPass_shared (s : State) : s.secondPass.shared = s.shared := (rfl)
@[simp] theorem State.dueAborts_shared (s : State) : s.dueAborts.shared = s.shared := by
  unfold State.dueAborts
  refine foldl_shared (fun t x => ?_) _ _
  (repeat' split) <;> simp
@[simp] theorem State.closeCycle_shared (s : State) : s.closeCycle.shared = s.shared := by simp [State.closeCycle]
@[simp] theorem State.lastOfCore_shared (s : State) (c : Nat) : (s.lastOfCore c).shared = s.shared := by simp [State.lastOfCore]
@[simp] theorem State.finishCycle_shared (s : State) : s.finishCycle.shared = s.shared := by simp [State.finishCycle]

end Sys2Proof.Machine
end

section
/-!
PROOFS. Every step keeps the two memories of the chip in canonical form, and the reserved bits of `hwcfg` at zero (R5): what the
operations that write one of the three do to them, and then the step.
-/
namespace Sys2Proof.Machine

/-! ### Following: what holds of the memories and of `hwcfg` before holds after -/

/-- The reserved bits of a value of `hwcfg` read zero (R5). -/
def reservedZero (w : Word64) : Prop := (bits w.toNat 32 32 == 0 && bits w.toNat 16 3 == 0 && bits w.toNat 5 3 == 0) = true

/-- The three parts stay well formed, `hwcfg` and the memories each for themselves. -/
def Follows (a b : Memory × Memory × Word64) : Prop :=
  (reservedZero a.2.2 → reservedZero b.2.2) ∧ (Memory.wf a.1 = true ∧ Memory.wf a.2.1 = true → Memory.wf b.1 = true ∧ Memory.wf b.2.1 = true)

/-- The same of the state that an instruction answers with. -/
def OutFollows (s : State) (o : Host.Outcome State Fault Refusal) : Prop :=
  match o with
  | .next t => Follows s.shared t.shared
  | _ => True

@[simp] theorem Follows.refl (a : Memory × Memory × Word64) : Follows a a := ⟨id, id⟩

theorem Follows.trans {a b c : Memory × Memory × Word64} (h : Follows a b) (k : Follows b c) : Follows a c :=
  ⟨k.1 ∘ h.1, k.2 ∘ h.2⟩

theorem Follows.of_eq {a b : Memory × Memory × Word64} (h : b = a) : Follows a b := h ▸ Follows.refl _

/-- What leaves the three as they are may stand before or behind. -/
theorem Follows.after {s t : State} {b : Memory × Memory × Word64} (h : t.shared = s.shared) (k : Follows t.shared b) : Follows s.shared b :=
  h ▸ k

theorem OutFollows.next {s t : State} (h : Follows s.shared t.shared) : OutFollows s (.next t) := h

theorem OutFollows.of_shared {s : State} {o : Host.Outcome State Fault Refusal} (h : outShared o = some s.shared) : OutFollows s o := by
  cases o with
  | next t => exact .of_eq (Option.some.inj h)
  | fault r => trivial
  | refused r => trivial

theorem OutFollows.of_next {s t : State} {o : Host.Outcome State Fault Refusal} (h : OutFollows s o) (e : o = .next t) :
    Follows s.shared t.shared := by
  rw [e] at h
  exact h

theorem OutFollows.after {s t : State} {o : Host.Outcome State Fault Refusal} (h : t.shared = s.shared) (k : OutFollows t o) :
    OutFollows s o := by
  cases o with
  | next u => exact Follows.after h k
  | fault r => trivial
  | refused r => trivial

theorem OutFollows.ite {s : State} {c : Prop} [Decidable c] {o p : Host.Outcome State Fault Refusal} (ho : OutFollows s o)
    (hp : OutFollows s p) : OutFollows s (if c then o else p) := by
  split
  · exact ho
  · exact hp

/-- A walk over a list follows if each of its steps does. -/
theorem foldl_follows {α : Type} {f : State → α → State} (hf : ∀ s a, Follows s.shared (f s a).shared) (l : List α) (s : State) :
    Follows s.shared (l.foldl f s).shared := by
  induction l generalizing s with
  | nil => exact .refl _
  | cons a l ih => exact (hf s a).trans (ih _)

/-! ### The writes themselves -/

theorem follows_of_pmem {s : State} {m : Memory} (h : Memory.wf s.pmem = true → Memory.wf m = true) : Follows s.shared (m, s.xs, s.hwcfg) :=
  ⟨id, fun ⟨hp, hx⟩ => ⟨h hp, hx⟩⟩

theorem follows_of_xs {s : State} {m : Memory} (h : Memory.wf s.xs = true → Memory.wf m = true) : Follows s.shared (s.pmem, m, s.hwcfg) :=
  ⟨id, fun ⟨hp, hx⟩ => ⟨hp, h hx⟩⟩

theorem follows_of_hwcfg {s : State} {w : Word64} (h : reservedZero s.hwcfg → reservedZero w) : Follows s.shared (s.pmem, s.xs, w) :=
  ⟨h, id⟩

theorem Memory.wf_filter (m : Memory) (p : Host.Cell → Bool) (w : Memory.wf m = true) : Memory.wf (m.filter p) = true :=
  Memory.wfFrom_filter m p w

theorem Memory.wf_foldl {α : Type} {f : Memory → α → Memory} (hf : ∀ m a, Memory.wf m = true → Memory.wf (f m a) = true) (l : List α)
    (m : Memory) (w : Memory.wf m = true) : Memory.wf (l.foldl f m) = true := by
  induction l generalizing m with
  | nil => exact w
  | cons a l ih => exact ih _ (hf m a w)

theorem State.homeWrite_follows (s : State) (pasid : Nat) (w : Write) : Follows s.shared (s.homeWrite pasid w).shared := by
  have written : Follows s.shared (if w.xs then { s with xs := s.xs.writeBytes w.addr w.bytes }
      else { s with pmem := s.pmem.writeBytes w.addr w.bytes } : State).shared := by
    split
    · exact follows_of_xs (Memory.wf_writeBytes _ _ _)
    · exact follows_of_pmem (Memory.wf_writeBytes _ _ _)
  unfold State.homeWrite
  dsimp only
  split
  · exact .of_eq (by simp)
  · split
    · exact written
    · exact written

theorem State.fillSlot_follows (s : State) (a : Nat) (t : Tile) : Follows s.shared (s.fillSlot a t).shared := by
  unfold State.fillSlot
  dsimp only
  split
  · exact follows_of_xs (Memory.wf_writeBytes _ _ _)
  · exact follows_of_xs (Memory.wf_foldl (fun m n w => Memory.wf_writeBytes m _ _ w) _ _)

theorem State.clearRanges_follows (s : State) (x : Context) : Follows s.shared (s.clearRanges x).shared :=
  follows_of_xs (Memory.wf_filter _ _)

theorem State.packContext_follows (s : State) (p : Nat) : Follows s.shared (s.packContext p).shared := by
  unfold State.packContext
  dsimp only
  rw [State.modCtx_shared, mk_shared]
  exact Follows.after (s.keepSpawns_shared p _) (follows_of_xs (Memory.wf_filter _ _))

/-! ### `hwcfg` (R5, R375) -/

theorem reservedZero_iff (w : Word64) : reservedZero w ↔ w.toNat < 2 ^ 32 ∧ w.toNat / 2 ^ 16 % 8 = 0 ∧ w.toNat / 2 ^ 5 % 8 = 0 := by
  have := w.isLt
  simp only [reservedZero, bits, Bool.and_eq_true, beq_iff_eq]
  omega

theorem filter_range_length_le (n : Nat) (p : Nat → Bool) : ((List.range n).filter p).length ≤ n :=
  (List.length_filter_le p _).trans_eq List.length_range

/-- The counts of cores and clusters do not reach the reserved bits. -/
theorem reservedZero_recounted {w : Word64} (h : reservedZero w) {clusters cores : Nat} (hc : clusters ≤ 24) (hn : cores ≤ 192) :
    reservedZero (BitVec.ofNat 64 (w.toNat % 2 ^ 19 + clusters * 2 ^ 19 + cores * 2 ^ 24)) := by
  rw [reservedZero_iff] at h ⊢
  obtain ⟨-, h16, h5⟩ := h
  rw [BitVec.toNat_ofNat]
  omega

theorem State.recount_follows (s : State) : Follows s.shared s.recount.shared := by
  have clusters := filter_range_length_le 24 fun n => (List.range 8).any fun j => !(s.core (8 * n + j)).retired
  have retired := filter_range_length_le 192 fun c => (s.core c).retired
  unfold State.recount
  dsimp only
  rw [mk_shared]
  generalize (List.range 192).filter (fun c => (s.core c).retired) = off at *
  generalize (List.range 24).filter _ = alive at *
  exact follows_of_hwcfg fun h => reservedZero_recounted h clusters (Nat.sub_le _ _)

/-- The clusters of some of the 192 cores are at most 24. -/
theorem clusters_length_le (p : Nat → Bool) : ((((List.range 192).filter p).map clusterOf).dedup).length ≤ 24 := by
  have sub : (((List.range 192).filter p).map clusterOf).dedup ⊆ List.range 24 := by
    intro n hn
    simp only [List.mem_dedup, List.mem_map, List.mem_filter, List.mem_range, clusterOf] at hn ⊢
    obtain ⟨c, ⟨hc, -⟩, rfl⟩ := hn
    omega
  exact (List.subperm_of_subset (List.nodup_dedup _) sub).length_le.trans_eq List.length_range

theorem recordWord_reservedZero (r : ConfigRecord) : reservedZero (recordWord r) := by
  have cores := filter_range_length_le 192 fun c => !r.disabled.contains c
  have clusters := clusters_length_le fun c => !r.disabled.contains c
  have form : r.form.code < 16 := by cases r.form <;> decide
  have lpddr : bit r.lpddr < 2 := bit_lt _
  have stepping : r.stepping % 2 ^ 8 < 2 ^ 8 := Nat.mod_lt _ (by decide)
  rw [reservedZero_iff, recordWord, BitVec.toNat_ofNat]
  generalize ((((List.range 192).filter fun c => !r.disabled.contains c).map clusterOf).dedup).length = n at *
  generalize ((List.range 192).filter fun c => !r.disabled.contains c).length = m at *
  omega

end Sys2Proof.Machine
end

section
/-!
PROOFS. The operations that write a memory or `hwcfg`, each following from the writes that it makes; the step; and the two invariants.
-/
namespace Sys2Proof.Machine

/-! ### Writes of the breakwater, of engines and of other chips (R89, R190, R235) -/

theorem State.releaseOne_follows (s : State) (cl : Nat) (h : Held) : Follows s.shared (s.releaseOne cl h).shared := by
  have written : Follows s.shared ((s.modClu cl fun k => { k with held := k.held.filter fun x => x.ord != h.ord }).homeWrite
      h.pasid h.w).shared := Follows.after (s.modClu_shared cl _) (State.homeWrite_follows _ _ _)
  unfold State.releaseOne
  dsimp only
  split
  · exact written
  · exact written

theorem State.releaseEntry_follows (s : State) (cl : Nat) (h : Held) : Follows s.shared (s.releaseEntry cl h).shared := by
  refine foldl_follows (fun t x => ?_) _ s
  split
  · exact t.releaseOne_follows cl x
  · exact .refl _

theorem State.releaseSome_follows (s : State) (cl n : Nat) : Follows s.shared (s.releaseSome cl n).shared := by
  induction n generalizing s with
  | zero => exact .refl _
  | succ n ih =>
    unfold State.releaseSome
    dsimp only
    split
    · exact .refl _
    · exact (Follows.after rfl (State.releaseEntry_follows s.takeFree.2 cl _)).trans (ih _)

theorem State.outByte_follows (s : State) (c : Nat) (own : Bool) (ranks : List Nat) (l : Loc) (b : Byte) :
    Follows s.shared (s.outByte c own ranks l b).shared := by
  have home : ∀ w st gs, Follows s.shared ((s.homeWrite (s.pasidOf c) w).commitGranules st gs).shared := by
    intro w st gs
    rw [State.commitGranules_shared]
    exact s.homeWrite_follows _ w
  cases l with
  | sp a => exact .of_eq (foldl_shared (fun t d => t.modCore_shared d _) ranks s)
  | cp a => exact .of_eq (by simp [State.outByte])
  | xs a => exact home _ _ _
  | gl a k => exact home _ _ _
  | remote a => exact .refl _

theorem State.writeOut_follows (s : State) (c chip : Nat) (own : Bool) (ranks : List Nat) (status : Nat) (bs : List (Loc × Byte)) :
    Follows s.shared (s.writeOut c chip own ranks status bs).shared := by
  unfold State.writeOut
  extract_lets out s0 s1 s2 rows s3
  have h0 : Follows s.shared s0.shared := by
    simp only [s0]
    split
    · exact .refl _
    · exact .refl _
  have h1 : Follows s.shared s1.shared := by
    refine (h0.trans (foldl_follows (fun t x => t.outByte_follows c own ranks x.1 x.2) out s0)).trans ?_
    exact .of_eq (foldl_shared (fun t x => t.emit_shared _ _) _ _)
  have h2 : s2.shared = s1.shared := foldl_shared (fun t x => t.doorbell_shared _ _) _ _
  have h3 : s3.shared = s2.shared := by
    simp only [s3]
    split
    · rfl
    · exact foldl_shared (fun t d => t.askBanks_shared d rows) ranks s2
  exact h1.trans (.of_eq (h3.trans h2))

theorem State.writeForm_follows (s : State) (pasid : Nat) (spill : Option Bool) (e : StashEntry) :
    Follows s.shared (s.writeForm pasid spill e).shared := by
  refine foldl_follows (fun t u => ?_) _ s
  dsimp only
  split
  · exact t.homeWrite_follows _ _
  · split
    · split
      · exact t.homeWrite_follows _ _
      · exact .refl _
    · exact .refl _

theorem State.peerStore_follows (s : State) (w : PeerWrite) : Follows s.shared (s.peerStore w).shared := by
  unfold State.peerStore
  split
  · exact .refl _
  · refine foldl_follows (fun t p => ?_) _ s
    split
    · split
      · exact t.homeWrite_follows _ _
      · exact .refl _
    · exact .refl _

theorem State.peerWrite_follows (s : State) (w : PeerWrite) : Follows s.shared (s.peerWrite w).shared := by
  unfold State.peerWrite
  dsimp only
  split_ifs
  · exact .refl _
  · exact .of_eq (by simp)
  · exact Follows.after (by simp) (State.peerStore_follows _ w)

/-! ### Rounds and tiles (R160, R246, R249) -/

theorem State.closeRound_follows (s : State) (pasid win : Nat) (r : Partial) : Follows s.shared (s.closeRound pasid win r).shared := by
  unfold State.closeRound
  extract_lets w n bytes ps status s1 s2
  rw [State.postRound_shared, State.modCtx_shared]
  have h1 : Follows s.shared s1.shared := by
    simp only [s1]
    split
    · refine foldl_follows (fun t q => ?_) ps s
      split
      · exact t.homeWrite_follows _ _
      · exact .refl _
    · exact .refl _
  have h2 : s2.shared = s1.shared := by
    simp only [s2]
    split <;> simp
  exact h1.trans (.of_eq h2)

theorem State.enterRound_follows (s : State) (pasid win : Nat) (p : Partial) : Follows s.shared (s.enterRound pasid win p).shared := by
  unfold State.enterRound
  extract_lets w w1 N put ps mine
  have stored : ∀ (t : State) (l : List Partial), (put t l).shared = t.shared := fun t l => t.modCtx_shared pasid _
  clear_value put
  split
  · dsimp only [State.takeFree_eq]
    exact .of_eq (stored _ _)
  · split
    · split
      · dsimp only [State.takeFree_eq]
        split
        · exact Follows.after ((stored _ _).trans (by simp)) (State.closeRound_follows _ _ _ _)
        · exact .of_eq (by simp)
      · exact .of_eq (stored _ _)
    · split
      · exact Follows.after (stored _ _) (State.closeRound_follows _ _ _ _)
      · exact .of_eq (stored _ _)

theorem State.inject_follows (s : State) (p : Nat) (f : Flit) : Follows s.shared (s.inject p f).shared := by
  unfold State.inject
  split
  · split
    · exact s.enterRound_follows _ _ _
    · exact .of_eq (by simp)
  · exact .of_eq (by simp)

theorem execPartialArrival_follows (via : Via) (win : BitVec 6) (p : Partial) (s : State) : OutFollows s (execPartialArrival via win p s) := by
  unfold execPartialArrival
  split
  · exact .next (.refl _)
  · refine OutFollows.after (s.countFrom_shared via.port (flitsOf (4 * p.elems.length))) ?_
    generalize s.countFrom via.port (flitsOf (4 * p.elems.length)) = s
    extract_lets pasid t w s1 s2
    split
    · split
      · exact .next (.refl _)
      · split
        · split
          · exact .next (.refl _)
          · split
            · exact .next (.of_eq (by simp [t]))
            · extract_lets q s1 s2
              have h2 : s2.shared = s.shared := by
                simp only [s2, s1]
                split <;> simp [t]
              clear_value s2
              split
              · exact .next (.of_eq (by simp [h2]))
              · exact .next (Follows.after h2 (State.enterRound_follows _ _ _ _))
        · exact .next (.refl _)
    · split
      · exact .next (.of_eq (t.buffer_shared _ _))
      · split
        · exact .next (.of_eq (t.flushPartials_shared _ _))
        · split
          · exact .next (.of_eq (by simp [s1, t]))
          · exact .next (.of_eq (by simp [s1, t]))
        · have h1 : s2.shared = s.shared := t.linkRecv_shared _
          split
          · exact .next (.of_eq ((foldl_shared (fun t i => t.emit_shared _ _) _ _).trans h1))
          · exact .next (Follows.after h1 (State.enterRound_follows _ _ _ _))

theorem execTileArrival_follows (t : Tile) (s : State) : OutFollows s (execTileArrival t s) := by
  unfold execTileArrival
  split
  · exact .next (.refl _)
  · extract_lets u v c p w q ts s' q1 q2 note q3 kind
    have hu : u.shared = s.shared := s.countFrom_shared _ _
    have hv : v.shared = s.shared := (u.linkRecv_shared _).trans hu
    clear_value v
    split
    · exact .next (.of_eq ((u.buffer_shared _ _).trans hu))
    · split
      · exact .next (.of_eq (by simp [hv]))
      · split
        · exact .next (.of_eq (by simp [hv]))
        · have hs' : s'.shared = s.shared := by
            simp only [s']
            split <;> simp [hv]
          have noted : ∀ (x : State) (y : InChan), (note x y).shared = x.shared := fun x y => x.modCtx_shared _ _
          clear_value note s'
          split
          · exact .next (.of_eq hs')
          · split
            · exact .next (.of_eq (by simp [hs']))
            · split
              · exact .next (.of_eq (by simp [noted, hs']))
              · refine OutFollows.ite (.next (.of_eq (by simp [noted, hs']))) (.next ?_)
                rw [State.createFromTile_shared]
                refine Follows.after ?_ (State.fillSlot_follows _ _ _)
                exact (noted _ _).trans (.trans (by simp) hs')

theorem State.reinject_follows (s : State) (a : Arrival) : Follows s.shared (s.reinject a).shared := by
  unfold State.reinject
  extract_lets run
  have ran : ∀ o, OutFollows s o → Follows s.shared (run o).shared := by
    intro o ho
    cases o with
    | next t => exact ho
    | fault r => exact .refl _
    | refused r => exact .refl _
  clear_value run
  split
  · exact Follows.after (s.linkRecv_shared 0) (State.peerStore_follows _ _)
  · exact ran _ (execTileArrival_follows _ _)
  · exact ran _ (.of_shared (by simp))
  · exact ran _ (.of_shared (by simp))
  · exact ran _ (execPartialArrival_follows _ _ _ _)
  · exact .refl _

/-! ### Engine operations (R235, R238 to R245, R250) -/

theorem execChrecvComplete_follows (core : Nat) (s : State) : OutFollows s (execChrecvComplete core s) := by
  unfold execChrecvComplete
  split
  · exact .next (.refl _)
  · split
    · refine .ite (.next (.refl _)) (.ite (.next (.of_eq (by simp))) (.ite (.next (.refl _)) (.next ?_)))
      rw [State.complete_shared, State.spendRemote_shared]
      exact s.writeOut_follows _ _ _ _ _ _
    · exact .next (.refl _)

theorem execFetchComplete_follows (core : Nat) (s : State) : OutFollows s (execFetchComplete core s) := by
  unfold execFetchComplete
  extract_lets p
  split
  · exact .next (.refl _)
  · split
    · extract_lets gone
      have kept : ∀ t : State, (gone t).shared = t.shared := by
        intro t
        simp only [gone]
        split
        · exact (State.pumpFreed_shared _ _).trans (t.modCtx_shared _ _)
        · rfl
      clear_value gone
      refine .ite (.next (.refl _)) ?_
      split
      · exact .next (.of_eq (by simp))
      · refine .ite (.next (.of_eq (by simp [kept]))) (.ite (.next (.of_eq (by simp))) (.ite (.next (.of_eq (by simp)))
          (.ite (.next (.refl _)) (.next ?_))))
        rw [State.complete_shared, ite_shared, kept, ite_self, State.spendRemote_shared]
        exact s.writeOut_follows _ _ _ _ _ _
    · exact .next (.refl _)

theorem execStashReturnComplete_follows (pasid key : Nat) (s : State) : OutFollows s (execStashReturnComplete pasid key s) := by
  unfold execStashReturnComplete
  split
  · split
    · exact .ite (.next (.refl _)) (.next (Follows.after (s.modCtx_shared _ _) (State.writeForm_follows _ _ _ _)))
    · exact .next (.refl _)
  · exact .next (.refl _)

theorem execPressureSpillComplete_follows (pasid key : Nat) (s : State) : OutFollows s (execPressureSpillComplete pasid key s) := by
  unfold execPressureSpillComplete
  split
  · split
    · exact .ite (.next (.refl _)) (.next (Follows.after (by simp) (State.writeForm_follows _ _ _ _)))
    · exact .next (.refl _)
  · exact .next (.refl _)

theorem execCopyComplete_follows (core : Nat) (s : State) : OutFollows s (execCopyComplete core s) := by
  unfold execCopyComplete
  split
  · exact .next (.refl _)
  · split
    · refine .ite (.next (.refl _)) (.ite (.next (.of_eq (by simp))) (.ite (.next (.refl _)) (.next ?_)))
      rw [State.complete_shared, State.spendRemote_shared]
      exact s.writeOut_follows _ _ _ _ _ _
    · exact .next (.refl _)

/-! ### Queues, programs and contexts (R330, R331, R339, R342 to R347) -/

theorem execSignalStore_follows (slot : Nat) (s : State) : OutFollows s (execSignalStore slot s) := by
  unfold execSignalStore
  split
  · exact .next (.refl _)
  · refine .ite (.next (.refl _)) ?_
    split
    · exact .next (.of_eq (by simp))
    · refine .ite (.next (.of_eq (by simp))) (.next ?_)
      rw [State.consume_shared]
      exact s.homeWrite_follows _ _

theorem State.placeShared_follows (s : State) (pasid : Nat) (d : Section) : Follows s.shared (s.placeShared pasid d).shared := by
  unfold State.placeShared
  split
  · exact follows_of_xs (Memory.wf_writeBytes _ _ _)
  · exact foldl_follows (fun t p => t.homeWrite_follows _ _) _ s
  · exact .refl _

theorem State.install_follows (s : State) (st : Nat) (p : Program) (chans : List (ChanDecl × Nat)) :
    Follows s.shared (s.install st p chans).shared := by
  unfold State.install
  extract_lets stage g s1 s2 s3
  have h2 : s2.shared = s.shared := by
    refine (foldl_shared (fun t cl => ?_) g.clusters s1).trans (s.modStage_shared _ _)
    exact (foldl_shared (fun u d => u.placeSection_shared _ _ _) _ _).trans (foldl_shared (fun u c => u.modCore_shared _ _) _ t)
  have h3 : Follows s.shared s3.shared := Follows.after h2 (foldl_follows (fun t d => t.placeShared_follows _ _) p.sects s2)
  exact h3.trans (.of_eq (foldl_shared (fun t d => t.modCtx_shared _ _) chans s3))

theorem State.launch_follows {s t : State} {st va : Nat} (h : s.launch st va = some t) : Follows s.shared t.shared := by
  unfold State.launch at h
  dsimp only at h
  split at h
  · exact absurd h (by simp)
  · split at h
    · exact absurd h (by simp)
    · obtain rfl := Option.some.inj h
      exact s.install_follows _ _ _

theorem execLaunchInstall_follows (slot : Nat) (s : State) : OutFollows s (execLaunchInstall slot s) := by
  unfold execLaunchInstall
  split
  · exact .next (.refl _)
  · refine .ite (.next (.refl _)) (.ite (.next (.of_eq (by simp))) (.next ?_))
    split
    next t ht =>
      rw [State.consume_shared]
      exact State.launch_follows ht
    · exact .of_eq (by simp)

/-- A command that a frame carries follows if what it does follows. -/
theorem State.frame_follows {act : State → Nat × List Byte × State} (h : ∀ t, Follows t.shared (act t).2.2.shared) (s : State)
    (fr : Frame) (always : Bool) : Follows s.shared (s.frame fr always act).shared := by
  unfold State.frame
  split_ifs
  · exact .refl _
  · exact .of_eq (by simp)
  all_goals dsimp only; rw [State.sendFrame_shared]
  · exact .of_eq (by simp)
  · exact Follows.after (s.modHost_shared _) (h _)

theorem execCreateContext_follows (fr : Frame) (body : List Byte) (s : State) : OutFollows s (execCreateContext fr body s) := by
  refine .next (State.frame_follows (fun t => ?_) s fr false)
  dsimp only
  unfold State.acceptIf
  split
  · exact t.clearRanges_follows _
  · exact .refl _

theorem execContextFreed_follows (pasid : Nat) (s : State) : OutFollows s (execContextFreed pasid s) := by
  unfold execContextFreed
  refine .ite (.next (.refl _)) (.next ?_)
  rw [State.layoutCheck_shared]
  have freed : ∀ (c : Prop) [Decidable c] (t : State) k g, (if c then t else t.eventFrame pasid k g []).shared = t.shared := by
    intro c _ t k g
    split <;> simp
  rw [freed]
  exact s.clearRanges_follows _

theorem execContextSaveComplete_follows (p : Nat) (s : State) : OutFollows s (execContextSaveComplete p s) := by
  unfold execContextSaveComplete
  extract_lets held mine onCores drop spec begun rest cls s1 away s2
  have dropped : ∀ l, (drop l).shared = s.shared := fun l => foldl_shared (fun t e => t.abortLater_shared _ _ _) l s
  clear_value drop
  split
  · have h1 : s1.shared = s.shared := foldl_shared (fun t cl => t.saveCluster_shared p cl) _ s
    clear_value s1
    refine .ite (.next (.of_eq (dropped _))) (.ite (.next (.of_eq (dropped _))) (.next (.of_eq ?_)))
    split
    · exact (s1.modCtx_shared _ _).trans h1
    · exact h1
  · have h2 : Follows s.shared s2.shared := by
      simp only [s2]
      rw [State.layoutCheck_shared]
      exact s.packContext_follows p
    clear_value s2
    refine .ite (.next (.refl _)) (.ite (.next (.of_eq ?_)) (.ite (.next (.refl _)) (.next (h2.trans (.of_eq ?_)))))
    · split
      · exact dropped _
      · rfl
    · split
      · split
        · split <;> simp
        · simp
      · simp
  · exact .next (.refl _)

/-- The chip scratchpad's cells of a save area are written back. -/
theorem restored_follows {s t : State} {l : List Host.Cell} (h : t.shared = (s.pmem, l.foldl (fun m (e : Host.Cell) => m.write e.1 e.2) s.xs, s.hwcfg)) :
    Follows s.shared t.shared :=
  h ▸ follows_of_xs (Memory.wf_foldl (fun m e w => Memory.wf_write m e.1 e.2 w) l s.xs)

theorem execContextRestoreComplete_follows (p : Nat) (s : State) : OutFollows s (execContextRestoreComplete p s) := by
  unfold execContextRestoreComplete
  extract_lets x
  split
  next at_ a _ _ =>
    extract_lets s0 cls s1 here aside s2 s3 moved s4 back s5
    have h0 : Follows s.shared s0.shared := restored_follows (l := a.xs) rfl
    have h1 : s1.shared = s0.shared :=
      (State.loadSpawns_shared _ _ _).trans (foldl_shared (fun t e => t.modClu_shared _ _) _ s0)
    have h2 : s2.shared = s1.shared :=
      (foldl_shared (fun t e => t.restoreCore_shared aside e) _ _).trans (foldl_shared (fun t tid => t.restoreAside_shared a tid) aside s1)
    have h3 : s3.shared = s2.shared := by
      refine foldl_shared (fun t e => ?_) a.cores s2
      split
      · split <;> simp
      · rfl
    have hm : moved.shared = s3.shared := foldl_shared (fun t e => t.replace_shared _ _ _ _) _ s3
    have h4 : s4.shared = moved.shared := (State.modCtx_shared _ _ _).trans (foldl_shared (fun t e => t.askEvaluation_shared _ _) a.stages moved)
    have h5 : s5.shared = s0.shared := (s4.modLink_shared _).trans (h4.trans (hm.trans (h3.trans (h2.trans h1))))
    clear_value s5
    refine .ite (.next (.refl _)) (.next ?_)
    rw [State.commandDone_shared]
    refine (h0.trans (.of_eq h5)).trans ((foldl_follows (fun t b => t.reinject_follows b) back s5).trans ?_)
    exact foldl_follows (fun t f => t.inject_follows p f) a.outbound _
  · exact .next (.refl _)

/-! ### The boot and the retirement of cores (R5, R362, R375) -/

theorem State.cold_follows (s : State) (warm : Bool) : Follows s.shared (s.cold warm).shared :=
  ⟨fun _ => (rfl : reservedZero 0), fun ⟨hp, _⟩ => ⟨hp, rfl⟩⟩

theorem State.bootRecord_follows (s : State) (r : ConfigRecord) : Follows s.shared (s.bootRecord r).shared := by
  have cores : (r.disabled.foldl (fun (s : State) c => if c < 192 then s.modCore c fun k => { k with retired := true } else s) s).shared =
      s.shared := foldl_shared (fun t c => by split <;> simp) _ s
  unfold State.bootRecord
  rw [mk_shared]
  have word := recordWord_reservedZero r
  generalize recordWord r = w at *
  exact Follows.after cores (follows_of_hwcfg fun _ => word)

theorem State.bootUpTo_follows (s : State) (r : ConfigRecord) (n : Nat) : Follows s.shared (s.bootUpTo r n).shared := by
  induction n with
  | zero => exact .refl _
  | succ n ih =>
    unfold State.bootUpTo
    extract_lets t u
    split
    · exact ih
    · refine ih.trans (?_ : Follows t.shared u.shared)
      simp only [u]
      split
      · exact .of_eq (by simp)
      · exact t.bootRecord_follows r
      · exact .of_eq (by simp)
      · exact .of_eq (by simp)
      · exact .refl _

theorem State.boot_follows (s : State) (r : ConfigRecord) (failure : BootFailure) (warm : Bool) :
    Follows s.shared (s.boot r failure warm).shared := by
  have upTo : ∀ n, Follows s.shared ((s.cold warm).bootUpTo r n).shared :=
    fun n => (s.cold_follows warm).trans (State.bootUpTo_follows _ r n)
  unfold State.boot
  split
  · exact upTo 6
  · extract_lets t
    split
    · exact upTo _
    · rw [State.logPlatform_shared]
      exact upTo _

theorem execActivateFirmware_follows (fr : Frame) (slotB : Bool) (s : State) : OutFollows s (execActivateFirmware fr slotB s) := by
  unfold execActivateFirmware
  extract_lets idle ok s1
  have h1 : s1.shared = s.shared := State.command1_shared (fun t => State.acceptIf_shared (t.modHost_shared _) _) s fr
  refine .next ?_
  split
  · exact Follows.after h1 (s1.boot_follows _ _ _)
  · exact .of_eq h1

theorem State.retireAll_follows (s : State) (cs : List Nat) : Follows s.shared (s.retireAll cs).shared :=
  Follows.after (foldl_shared (fun t c => t.modCore_shared c _) cs s) (State.recount_follows _)

theorem execMarginReplan_follows (cluster millivolt guardBand : Nat) (s : State) :
    OutFollows s (execMarginReplan cluster millivolt guardBand s) := by
  unfold execMarginReplan
  exact .ite (.next (.refl _)) (.ite (.next (Follows.after (s.withdraw_shared _) (State.retireAll_follows _ _)))
    (.next (.of_eq (s.modClu_shared _ _))))

theorem State.retireCore_follows (s : State) (c : Nat) : Follows s.shared (s.retireCore c).shared := by
  unfold State.retireCore
  extract_lets k s1 s2 left
  have h2 : Follows s.shared s2.shared := Follows.after ((State.modCore_shared _ _ _).trans (s.logCore_shared _ _ _ _ _ _)) (State.recount_follows _)
  clear_value s2
  split
  · exact h2
  · split
    · exact h2
    · extract_lets s3 team s4 report s5
      have h4 : s4.shared = s2.shared := by
        refine (foldl_shared (fun t d => ?_) team s3).trans (s2.modStage_shared _ _)
        split <;> simp
      have h5 : s5.shared = s2.shared := (s4.modHost_shared _).trans h4
      clear_value s5
      refine h2.trans (.of_eq ?_)
      split
      · exact (s5.loseWrites_shared _ _ _).trans h5
      · exact (s5.modTask_shared _ _).trans h5

theorem State.endRun_follows (s : State) (c : Nat) : Follows s.shared (s.endRun c).2.shared := by
  unfold State.endRun
  extract_lets k rest sig
  split
  · split
    · exact .of_eq (by simp)
    · split
      · exact s.retireCore_follows c
      · exact .of_eq (by simp)
  · exact .refl _

/-! ### Segments, tasks and the stash (R238 to R245, R271, R365) -/

theorem execSegBundle_follows (s : State) : OutFollows s (execSegBundle s) := by
  unfold execSegBundle
  extract_lets k
  refine .ite (.next (.refl _)) ?_
  split
  · have ended := s.endRun_follows s.turn
    generalize s.endRun s.turn = r at ended ⊢
    obtain ⟨agreed, s1⟩ := r
    refine .next ?_
    split
    · exact ended.trans (.of_eq (by simp))
    · exact ended.trans (.of_eq (by simp))
  · exact .next (.of_eq (by simp))

theorem execTaskLeavesCores_follows (tid : Nat) (s : State) : OutFollows s (execTaskLeavesCores tid s) := by
  unfold execTaskLeavesCores
  extract_lets cs
  split
  · exact .next (.refl _)
  · refine .ite (.next (.refl _)) ?_
    split
    · exact .next (.of_eq (by simp))
    · extract_lets halts last
      refine .ite (.next (.refl _)) (.ite (.next (.refl _)) ?_)
      split
      · exact .next (.of_eq (by simp))
      · refine .ite (.next (foldl_follows (fun t c => ?_) cs s))
          (.ite (.next (.of_eq (by simp))) (.ite (.next (.refl _)) (.next (.of_eq (by simp)))))
        split
        · exact t.endRun_follows c
        · exact .refl _

theorem execStashRelease_follows (core : Nat) (s : State) : OutFollows s (execStashRelease core s) := by
  unfold execStashRelease
  extract_lets p place
  have placed : ∀ o key z mode lp pressure, Follows s.shared (place o key z mode lp pressure).shared := by
    intro o key z mode lp pressure
    simp only [place]
    split
    · split
      · exact .refl _
      · exact .of_eq (by simp)
    · split
      · exact .of_eq (by simp)
      · split
        · exact .of_eq (by simp)
        · split
          · exact .of_eq (by simp)
          · split
            · exact .refl _
            · have written : ∀ (u : State) lp e st w, u.shared = s.shared →
                  Follows s.shared ((u.writeForm p lp e).complete core o st w).shared := by
                intro u lp e st w hu
                rw [State.complete_shared]
                exact Follows.after hu (u.writeForm_follows p lp e)
              cases lp with
              | none =>
                have room := s.takeFree.2.arenaRoom_shared p o.id
                  (((storeForm mode z (o.elems.map (·.1))).1.length + 127) / 128) pressure
                dsimp only at room ⊢
                generalize s.takeFree.2.arenaRoom p o.id _ pressure = r at room ⊢
                split
                · exact .of_eq room
                · exact .of_eq (by simp [room])
                · exact .of_eq (by simp [room])
                · exact written _ _ _ _ _ (by simp [room])
              | some l =>
                dsimp only
                generalize hr : (if (s.ctx p).spillUnits l < (s.ctx p).spillUsed l + _ then _ else _ : Placed × State) = r
                have room : r.2.shared = s.shared := by
                  rw [← hr]
                  split
                  · simp
                  · split <;> simp
                clear hr
                split
                · exact .of_eq room
                · exact .of_eq (by simp [room])
                · exact .of_eq (by simp [room])
                · exact written _ _ _ _ _ (by simp [room])
  clear_value place
  split
  · exact .next (.refl _)
  · refine .ite (.next (.refl _)) (.ite (.next (.of_eq (by simp))) (.ite (.next (.refl _)) ?_))
    split
    · exact .next (placed _ _ _ _ _ _)
    · exact .next (placed _ _ _ _ _ _)
    · exact .next (placed _ _ _ _ _ _)
    · exact .next (.of_eq (by simp))
    · exact .next (.refl _)

/-! ### Every instruction -/

/-- The instructions that may write are named; every other leaves the memories and `hwcfg` as they are. -/
theorem exec_follows (i : Instr) (s : State) : OutFollows s (exec i s) := by
  cases i
  case segBundle => exact execSegBundle_follows s
  case copyComplete core => exact execCopyComplete_follows core s
  case stashRelease core => exact execStashRelease_follows core s
  case pressureSpillComplete pasid key => exact execPressureSpillComplete_follows pasid key s
  case stashReturnComplete pasid key => exact execStashReturnComplete_follows pasid key s
  case fetchComplete core => exact execFetchComplete_follows core s
  case chrecvComplete core => exact execChrecvComplete_follows core s
  case tileArrival t => exact execTileArrival_follows t s
  case partialArrival via win p => exact execPartialArrival_follows via win p s
  case breakwaterRelease cluster => exact s.releaseSome_follows cluster 8
  case taskLeavesCores tid => exact execTaskLeavesCores_follows tid s
  case createContext fr body => exact execCreateContext_follows fr body s
  case contextFreed pasid => exact execContextFreed_follows pasid s
  case contextSaveComplete pasid => exact execContextSaveComplete_follows pasid s
  case contextRestoreComplete pasid => exact execContextRestoreComplete_follows pasid s
  case activateFirmware fr slotB => exact execActivateFirmware_follows fr slotB s
  case signalStore slot => exact execSignalStore_follows slot s
  case launchInstall slot => exact execLaunchInstall_follows slot s
  case powerOnReset record failure => exact s.boot_follows record failure false
  case marginReplan cluster millivolt guardBand => exact execMarginReplan_follows cluster millivolt guardBand s
  all_goals exact .of_shared (by simp [exec])

theorem State.perform_follows (s : State) (i : Instr) : Follows s.shared (s.perform i).shared := by
  have h := exec_follows i s
  unfold State.perform
  split
  next t ht => exact h.of_next ht
  · exact .refl _

/-! ### The issue of a bundle (R57, R365) -/

theorem State.runSlot_follows (s : State) (x : Slot × Option Instr) : Follows s.shared (s.runSlot x).shared := by
  unfold State.runSlot
  split
  · exact .refl _
  · extract_lets o s1
    have h1 : s1.shared = s.shared := by
      simp only [s1]
      split <;> simp
    exact Follows.after h1 (s1.perform_follows _)

theorem State.runSlots_follows (s : State) (l : List (Slot × Option Instr)) : Follows s.shared (s.runSlots l).shared :=
  foldl_follows State.runSlot_follows (execOrder l) s

theorem State.runBundle_follows (s : State) (b : Bundle) (l : List (Slot × Option Instr)) : Follows s.shared (s.runBundle b l).shared := by
  unfold State.runBundle
  split
  · exact (s.runSlots_follows _).trans (.of_eq (State.watchStop_shared _ _ _))
  · split
    · exact s.perform_follows _
    · exact (s.runSlots_follows l).trans (.of_eq (State.finishBundle_shared _))

theorem State.header_follows (s : State) (b : Bundle) : Follows s.shared (s.header b).shared := by
  unfold State.header
  extract_lets s1 s2
  have h1 : Follows s.shared s1.shared := by
    simp only [s1]
    split
    · exact s.perform_follows _
    · exact .refl _
  have h2 : Follows s1.shared s2.shared := by
    simp only [s2]
    split
    · exact s1.perform_follows _
    · exact .refl _
  refine h1.trans ?_
  split
  · exact .refl _
  · refine h2.trans ?_
    split
    · exact Follows.after (by simp) (State.perform_follows _ _)
    · exact .refl _

theorem State.goBundle_follows (s s1 : State) (b : Bundle) (l : List (Slot × Option Instr)) (h : s1.shared = s.shared) :
    Follows s.shared (s.goBundle s1 b l).shared := by
  unfold State.goBundle
  split
  · exact Follows.after ((s1.traceDelay_shared).trans h) (State.perform_follows _ _)
  · extract_lets s2 s3 s4
    have h2 : s2.shared = s.shared := (s1.landLdmc_shared _).trans h
    have h3 : Follows s2.shared s3.shared := by
      simp only [s3]
      split
      · exact .refl _
      · exact s2.header_follows b
    have h3 := Follows.after h2 h3
    split
    · exact h3
    · split
      · exact .of_eq (by simp)
      · exact h3.trans (s3.runBundle_follows b l)

theorem State.trySlot_follows (s : State) (x : Slot × Option Instr) : Follows s.shared (s.trySlot x).shared := by
  unfold State.trySlot
  split
  · exact .of_eq (by simp)
  · exact s.perform_follows _

theorem State.probe_follows {s t : State} {l : List (Slot × Option Instr)} (h : s.probe l = some t) : Follows s.shared t.shared := by
  have tried : t ∈ l.map s.trySlot := by
    unfold State.probe at h
    dsimp only at h
    split at h
    next u hu =>
      obtain rfl := Option.some.inj h
      exact List.mem_of_find?_eq_some hu
    · exact List.mem_of_find?_eq_some h
  obtain ⟨x, -, rfl⟩ := List.mem_map.mp tried
  exact s.trySlot_follows x

theorem State.segHeld_follows (s : State) (h : Option Hold) : Follows s.shared (s.segHeld h).shared :=
  (s.perform_follows .segBundle).trans (.of_eq (State.modCur_shared _ _))

theorem State.issueBundle_follows (s : State) (b : Bundle) : Follows s.shared (s.issueBundle b).shared := by
  unfold State.issueBundle
  extract_lets begun stops stopsAt s1 l
  have h1 : s1.shared = s.shared := s.prelude_shared b
  clear_value s1
  split
  · split
    · exact .of_eq (by simp)
    · exact .of_eq (by simp)
  · split
    · exact .of_eq (by simp)
    · split
      next t ht =>
        have tried := Follows.after h1 (State.probe_follows ht)
        split
        · split
          · exact .of_eq (by simp)
          · split
            · exact Follows.after h1 (s1.segHeld_follows _)
            · exact tried.trans (.of_eq (by simp))
        · split
          · exact .of_eq (by simp)
          · exact tried
      · split
        · exact .of_eq (by simp)
        · have banks := s1.refuseBanks_shared s.turn fun n => holdsBank s.cur s1.cur l n
          generalize s1.refuseBanks s.turn _ = r at banks
          dsimp only
          split
          · exact .of_eq (by simp)
          · exact s.goBundle_follows _ b l (banks.trans h1)

theorem State.issueNext_follows (s : State) : Follows s.shared s.issueNext.shared := by
  unfold State.issueNext
  split
  · rw [State.modCur_shared]
    split
    · exact .of_eq (by simp)
    · exact .refl _
  · extract_lets s0
    have h0 : s0.shared = s.shared := by
      simp only [s0]
      split <;> simp
    clear_value s0
    split
    · exact .of_eq (by simp [h0])
    · exact Follows.after h0 (s0.issueBundle_follows _)

theorem State.issue_follows (s : State) : Follows s.shared s.issue.shared := by
  unfold State.issue
  split
  · split
    · exact s.issueNext_follows
    · exact .of_eq (by simp)
  · exact s.issueNext_follows

theorem State.takeTurn_follows (s : State) (c : Nat) : Follows s.shared (s.takeTurn c).shared := by
  unfold State.takeTurn
  extract_lets s0 s1 s2 again issued
  have h1 : s1.shared = s.shared := by
    simp only [s1]
    split
    · exact State.modCur_shared _ _
    · rfl
  have h2 := Follows.after h1 s1.issue_follows
  have h3 : Follows s.shared issued.shared := by
    simp only [issued]
    split
    · exact h2.trans s2.issue_follows
    · exact h2
  exact h3

/-! ### The end of a cycle and the step (R235, R369) -/

theorem State.endCycle_follows (s : State) : Follows s.shared s.endCycle.shared := by
  unfold State.endCycle
  extract_lets s0 s1 s2 due met come s3 s4
  have h2 : s2.shared = s.shared :=
    (foldl_shared (fun t c => t.drainCore_shared c) _ s1).trans ((State.refreshFrontier_shared _).trans s.finishCycle_shared)
  have h4 : Follows s3.shared s4.shared := by
    simp only [s4]
    split
    · exact .refl _
    · exact Follows.after (foldl_shared (fun t e => t.meetError_shared e) met s3) (foldl_follows (fun t w => t.peerWrite_follows w) come _)
  exact Follows.after h2 h4

theorem step_follows {s t : State} (h : step s = .next t) : Follows s.shared t.shared := by
  unfold step at h
  split at h
  next i rest hi =>
    exact OutFollows.of_next (OutFollows.after (t := { s with pending := rest }) rfl (exec_follows i _)) h
  · split at h
    · exact absurd h (by simp)
    · split at h
      · exact absurd h (by simp)
      · split at h
        · obtain rfl := Host.Outcome.next.inj h
          exact s.endCycle_follows
        · split at h
          · obtain rfl := Host.Outcome.next.inj h
            exact s.takeTurn_follows _
          · obtain rfl := Host.Outcome.next.inj h
            split
            · exact .of_eq (by simp)
            · exact .of_eq (by simp)

/-! ### The obligations -/

/-- Settles O58: what writes `hwcfg` is the boot's word of the record and the recount of cores, and both leave its reserved bits zero. -/
theorem reservedBitsStayZero : Obligations.ReservedBitsStayZero := by
  intro s t hs h
  obtain ⟨bitsKept, -⟩ := step_follows h
  exact bitsKept hs

/-- Settles O59: every write of a memory is a list of byte writes or a filter, and each keeps the canonical form. -/
theorem memoryStaysCanonical : Obligations.MemoryStaysCanonical := by
  intro s t hs h
  obtain ⟨-, formKept⟩ := step_follows h
  simp only [State.memoryWf, Bool.and_eq_true] at hs ⊢
  exact formKept hs

end Sys2Proof.Machine
end

section
/-!
PROOFS. A slot operation whose guard is false (R39): every shared operation asks for the guard first, and every slot operation is
one of them or asks for it itself.
-/
namespace Sys2Proof.Machine

/-! ### The shared operations of the slots -/

section
variable {s : State} {g : Guard} (hg : s.cur.on g = false)
include hg

theorem pOp_off (pd : BitVec 4) (v : Bool) : pOp s g pd v = s := by
  simp [pOp, hg]

theorem State.push_off (fmt : MFmt) (aidx bidx : BitVec 14) (pair : BitVec 5) (tr burst : Bool) :
    s.push g fmt aidx bidx pair tr burst = s := by
  simp [State.push, hg]

theorem State.loadVec_off (f : VSlot) (dst : BitVec 10) (base : BitVec 5) (lvl : Level) (disp : BitVec 24) (n : Nat) :
    s.loadVec g f dst base lvl disp n = s := by
  simp [State.loadVec, hg]

theorem State.loadGather_off (f : VSlot) (dst : BitVec 10) (base : BitVec 5) (lvl : Level) (idx : VSrc) (disp : BitVec 11) :
    s.loadGather g f dst base lvl idx disp = s := by
  simp [State.loadGather, hg]

theorem State.loadScalar_off (dst : BitVec 6) (base : BitVec 5) (lvl : Level) (sz : LSize) (disp : BitVec 31) (acquire : Bool) :
    s.loadScalar g dst base lvl sz disp acquire = s := by
  simp [State.loadScalar, hg]

theorem State.storeVec_off (base : BitVec 5) (lvl : Level) (disp : Int) (n v : Nat) : s.storeVec g base lvl disp n v = s := by
  simp [State.storeVec, hg]

theorem State.storeScatter_off (f : VSlot) (src : VSrc) (base : BitVec 5) (lvl : Level) (idx : BitVec 10) :
    s.storeScatter g f src base lvl idx = s := by
  simp [State.storeScatter, hg]

theorem State.atomicOp_off (kind : AtomicKind) (src : SSrc) (base : BitVec 5) (wide ret : Bool) (cmp : Word64) :
    s.atomicOp g kind src base wide ret cmp = s := by
  simp [State.atomicOp, hg]

theorem State.command_off (fault : Option Nat) (hold : Option HoldCause) (cmd : EngCmd) (f : EngOp → EngOp) (ops : List Byte) :
    s.command g fault hold cmd f ops = s := by
  simp [State.command, hg]

theorem State.copyIssue_off (xs xd : BitVec 5) (ranks : Option Nat) : s.copyIssue g xs xd ranks = s := by
  unfold State.copyIssue
  dsimp only
  split
  · exact State.command_off hg _ _ _ _ _
  · exact State.command_off hg _ _ _ _ _

theorem State.stashIssue_off (xk : BitVec 5) (shape : Option (Option Shape)) (bad : Nat → Option Shape → Bool)
    (cmd : Nat → Shape → EngCmd) (handle : Word64) : s.stashIssue g xk shape bad cmd handle = s := by
  simp only [State.stashIssue, State.command_off hg, hg, Bool.not_false, Bool.true_or, if_true]

end

/-! ### The slot operations, slot by slot -/

/-- R39 for every slot operation that has a guard. -/
theorem exec_off (i : Instr) (g : Guard) (s : State) (hi : slotGuard i = some g) (hg : s.cur.on g = false) :
    exec i s = .next s := by
  cases i
  case add | sub | and | or | xor | shl | shr | sar | rot | min | max | minu | maxu | addi | andi | ori | xori | shli
    | shri | sari | roti | mul | mulh | mulhu | div | divu | rem | remu | clz | ctz | popc | bswap | li | lih | sel |
    ceq | cne | clt | cltu | cle | cleu | pand | por | pxor | pnot =>
    obtain rfl := Option.some.inj hi
    simp [exec, execAdd, execSub, execAnd, execOr, execXor, execShl, execShr, execSar, execRot, execMin, execMax,
      execMinu, execMaxu, execAddi, execAndi, execOri, execXori, execShli, execShri, execSari, execRoti, execMul,
      execMulh, execMulhu, execDiv, execDivu, execRem, execRemu, execClz, execCtz, execPopc, execBswap, execLi,
      execLih, execSel, execCeq, execCne, execClt, execCltu, execCle, execCleu, execPand, execPor, execPxor, execPnot,
      sOp_off hg, pOp_off hg]
  case mpush | mpusht | mburst =>
    obtain rfl := Option.some.inj hi
    simp [exec, execMpush, execMpusht, execMburst, State.push_off hg]
  case ldv | ldvp | ldvx | ldvg | lds | ldgv | ldacq | stv | stvp | stvx | stvg | stvgScatter | aadd | amin | amax |
    axchg | acas =>
    obtain rfl := Option.some.inj hi
    simp [exec, execLdv, execLdvp, execLdvx, execLdvg, execLds, execLdgv, execLdacq, execStv, execStvp, execStvx,
      execStvg, execStvgScatter, execAadd, execAmin, execAmax, execAxchg, execAcas, State.loadVec_off hg,
      State.loadGather_off hg, State.loadScalar_off hg, State.storeVec_off hg, State.storeScatter_off hg,
      State.atomicOp_off hg]
  case cpy | mc | tinv | stash | spill | drop | fetch | wver | chrecv | cheos | redm =>
    obtain rfl := Option.some.inj hi
    simp [exec, execCpy, execMc, execTinv, execStash, execSpill, execDrop, execFetch, execWver, execChrecv, execCheos,
      execRedm, hg, State.command_off hg, State.copyIssue_off hg, State.stashIssue_off hg]
  case b | bp | call | ret | jr | loop | lbrk | sysr | sysw | trap | evpop | halt | ipf | ipin | iunpin | vectorChain
    | mshift | mhold | mdrain | mclr | mswap | mmask | mend | kld | kldp | kmov | kset | ldvt | ldl | pfg | ldmc | sts
    | stl | stsv | strel | ffill | xcp | engw | engr | fence | tend | tabort | frd | frdOwn | phreg | phdrop | phsig |
    phwait | phsw | pbaseInit | pbase | fwait | dctrDec | dctrSet | tokacq | tokrel | ntile | evwait =>
    obtain rfl := Option.some.inj hi
    simp [exec, execB, execBp, execCall, execRet, execJr, execLoop, execLbrk, execSysr, execSysw, execTrap, execEvpop,
      execHalt, execIpf, execIpin, execIunpin, execVectorChain, execMshift, execMhold, execMdrain, execMclr,
      execMswap, execMmask, execMend, execKld, execKldp, execKmov, execKset, execLdvt, execLdl, execPfg, execLdmc,
      execSts, execStl, execStsv, execStrel, execFfill, execXcp, execEngw, execEngr, execFence, execTend, execTabort,
      execFrd, execFrdOwn, execPhreg, execPhdrop, execPhsig, execPhwait, execPhsw, execPbaseInit, execPbase,
      execFwait, execDctrDec, execDctrSet, execTokacq, execTokrel, execNtile, execEvwait, hg]
  case spawn =>
    obtain rfl := Option.some.inj hi
    simp only [exec, execSpawn, hg, Bool.not_false, if_true]
    cases s.taskOf s.turn with
    | none => rfl
    | some t => rfl
  case chsend =>
    obtain rfl := Option.some.inj hi
    simp only [exec, execChsend, State.command_off hg, hg, Bool.not_false, Bool.true_or, if_true]
    cases s.shapeAt _ with
    | none => rfl
    | some z => rfl
  all_goals exact absurd hi (by simp [slotGuard])

/-- Settles O5: R39 for the guard of any slot operation. -/
theorem guardedOffDoesNothing : Obligations.GuardedOffDoesNothing := by
  unfold Obligations.GuardedOffDoesNothing
  exact exec_off

end Sys2Proof.Machine
end

section
/-!
PROOFS. The scalar results of R144, R145, R148, R149 and R154: the value of each operation's word, proved of the words, and the
result that the operation has in flight.
-/
namespace Sys2Proof.Machine

/-! ### Shifts and rotates over the whole amount (R145) -/

theorem shlW_eq {w : Nat} (x : BitVec w) (n : Nat) :
    shlW x n = if w ≤ n then 0 else BitVec.ofNat w (x.toNat * 2 ^ n) := by
  rw [shlW]
  split
  · rfl
  · exact BitVec.eq_of_toNat_eq (by simp [BitVec.toNat_shiftLeft, Nat.shiftLeft_eq])

theorem shrW_eq {w : Nat} (x : BitVec w) (n : Nat) :
    shrW x n = if w ≤ n then 0 else BitVec.ofNat w (x.toNat / 2 ^ n) := by
  rw [shrW]
  split
  · rfl
  · refine BitVec.eq_of_toNat_eq ?_
    rw [BitVec.toNat_ushiftRight, Nat.shiftRight_eq_div_pow, BitVec.toNat_ofNat,
      Nat.mod_eq_of_lt (Nat.lt_of_le_of_lt (Nat.div_le_self _ _) x.isLt)]

theorem sarW_eq {w : Nat} (x : BitVec w) (n : Nat) :
    sarW x n = if w ≤ n then (if x.toInt < 0 then BitVec.allOnes w else 0) else BitVec.ofInt w (x.toInt / 2 ^ n) := by
  rw [sarW]
  split
  next h =>
    have hmsb : x.msb = decide (x.toInt < 0) := BitVec.msb_eq_toInt
    refine BitVec.eq_of_getElem_eq fun i hi => ?_
    rw [BitVec.getElem_sshiftRight, dif_neg (by omega), hmsb]
    split
    next hx => simp [hx]
    next hx => simp [hx]
  next =>
    rw [BitVec.sshiftRight, Int.shiftRight_eq_div_pow]
    norm_cast

theorem rotW_eq {w : Nat} (hw : 0 < w) (x : BitVec w) (n : Nat) :
    rotW x n = BitVec.ofNat w (x.toNat * 2 ^ (n % w) % 2 ^ w + x.toNat * 2 ^ (n % w) / 2 ^ w) := by
  have hk : n % w < w := Nat.mod_lt _ hw
  rw [rotW]
  generalize n % w = k at hk
  have hpow : 2 ^ w = 2 ^ (w - k) * 2 ^ k := by rw [← Nat.pow_add, Nat.sub_add_cancel hk.le]
  have hlow : x.toNat * 2 ^ k % 2 ^ w = (x.toNat % 2 ^ (w - k)) <<< k := by
    rw [hpow, Nat.mul_mod_mul_right, Nat.shiftLeft_eq]
  have hhigh : x.toNat * 2 ^ k / 2 ^ w = x.toNat / 2 ^ (w - k) := by
    rw [hpow, Nat.mul_div_mul_right _ _ (Nat.two_pow_pos k)]
  have hlt : x.toNat / 2 ^ (w - k) < 2 ^ k := by
    rw [Nat.div_lt_iff_lt_mul (Nat.two_pow_pos _), Nat.mul_comm, ← hpow]
    exact x.isLt
  have h : (x.rotateLeft k).toNat = x.toNat * 2 ^ k % 2 ^ w + x.toNat * 2 ^ k / 2 ^ w := by
    rw [BitVec.toNat_rotateLeft, Nat.mod_eq_of_lt hk, Nat.shiftLeft_eq, Nat.shiftRight_eq_div_pow, hlow, hhigh,
      Nat.shiftLeft_add_eq_or_of_lt hlt]
  rw [← h, BitVec.ofNat_toNat, BitVec.setWidth_eq]

/-! ### Lesser and greater (R144) -/

theorem minS_eq {w : Nat} (x y : BitVec w) : minS x y = BitVec.ofInt w (min x.toInt y.toInt) := by
  rw [minS]
  split
  · rw [min_eq_left (by omega), BitVec.ofInt_toInt]
  · rw [min_eq_right (by omega), BitVec.ofInt_toInt]

theorem maxS_eq {w : Nat} (x y : BitVec w) : maxS x y = BitVec.ofInt w (max x.toInt y.toInt) := by
  rw [maxS]
  split
  · rw [max_eq_right (by omega), BitVec.ofInt_toInt]
  · rw [max_eq_left (by omega), BitVec.ofInt_toInt]

theorem minU_eq {w : Nat} (x y : BitVec w) : minU x y = BitVec.ofNat w (min x.toNat y.toNat) := by
  rw [minU]
  split
  · rw [min_eq_left (by omega), BitVec.ofNat_toNat, BitVec.setWidth_eq]
  · rw [min_eq_right (by omega), BitVec.ofNat_toNat, BitVec.setWidth_eq]

theorem maxU_eq {w : Nat} (x y : BitVec w) : maxU x y = BitVec.ofNat w (max x.toNat y.toNat) := by
  rw [maxU]
  split
  · rw [max_eq_right (by omega), BitVec.ofNat_toNat, BitVec.setWidth_eq]
  · rw [max_eq_left (by omega), BitVec.ofNat_toNat, BitVec.setWidth_eq]

/-! ### The counts (R148) -/

theorem bitAt_eq_testBit (x i : Nat) : bitAt x i = x.testBit i := by
  rw [bitAt, Nat.testBit_eq_decide_div_mod_eq]; rfl

theorem clzN_zero (n : Nat) : clzN 0 n = n := by
  induction n with
  | zero => rfl
  | succ n ih => simp [clzN, bitAt, ih]

theorem clzN_bounds (n x : Nat) (hx : x < 2 ^ n) (h0 : x ≠ 0) :
    clzN x n < n ∧ 2 ^ (n - 1 - clzN x n) ≤ x ∧ x < 2 ^ (n - clzN x n) := by
  induction n with
  | zero => omega
  | succ n ih =>
    rw [clzN, bitAt_eq_testBit]
    split
    next hb => exact ⟨by omega, Nat.ge_two_pow_of_testBit hb, hx⟩
    next hb =>
      have hlt : x < 2 ^ n := by
        refine Nat.lt_pow_two_of_testBit x fun i hi => ?_
        rcases Nat.eq_or_lt_of_le hi with rfl | hi
        · simpa using hb
        · exact Nat.testBit_lt_two_pow (Nat.lt_of_lt_of_le hx (Nat.pow_le_pow_right (by omega) hi))
      obtain ⟨h1, h2, h3⟩ := ih hlt
      refine ⟨by omega, ?_, ?_⟩
      · rwa [show n + 1 - 1 - (clzN x n + 1) = n - 1 - clzN x n by omega]
      · rwa [show n + 1 - (clzN x n + 1) = n - clzN x n by omega]

theorem ctzN_zero (n : Nat) : ctzN 0 n = n := by
  induction n with
  | zero => rfl
  | succ n ih => simp [ctzN, ih]

theorem ctzN_bounds (n x : Nat) (hx : x < 2 ^ n) (h0 : x ≠ 0) :
    ctzN x n < n ∧ x % 2 ^ ctzN x n = 0 ∧ x / 2 ^ ctzN x n % 2 = 1 := by
  induction n generalizing x with
  | zero => omega
  | succ n ih =>
    rw [ctzN]
    split
    next hb => exact ⟨by omega, by simp [Nat.mod_one], by simpa using hb⟩
    next hb =>
      obtain ⟨h1, h2, h3⟩ := ih (x / 2) (by omega) (by omega)
      refine ⟨by omega, ?_, ?_⟩
      · rw [Nat.pow_succ', Nat.mod_mul, h2]; omega
      · rwa [Nat.pow_succ', ← Nat.div_div_eq_div_mul]

theorem popcN_eq (n x : Nat) : popcN x n = ((List.range n).filter fun i => x.testBit i).length := by
  induction n generalizing x with
  | zero => rfl
  | succ n ih =>
    rw [popcN, ih, List.range_succ_eq_map, List.filter_cons, List.filter_map, Nat.testBit_zero]
    have h : (fun i => x.testBit i) ∘ Nat.succ = fun i => (x / 2).testBit i := by
      funext i
      exact Nat.testBit_succ x i
    rw [h]
    rcases Nat.mod_two_eq_zero_or_one x with h | h
    · simp [h]
    · simp [h, Nat.add_comm]

/-! ### The byte swap: byte k of a number, and byte k of its string (R9) -/

theorem leNat_div_mod (l : List Byte) (k : Nat) (hk : k < l.length) : leNat l / 2 ^ (8 * k) % 256 = l[k].toNat := by
  induction l generalizing k with
  | nil => simp at hk
  | cons b l ih =>
    have hb := b.isLt
    cases k with
    | zero => rw [leNat]; simp; omega
    | succ k =>
      rw [leNat, show 8 * (k + 1) = 8 + 8 * k by omega, Nat.pow_add, ← Nat.div_div_eq_div_mul,
        show (b.toNat + 256 * leNat l) / 2 ^ 8 = leNat l by omega]
      exact ih k (by simpa using hk)

theorem leNat_lt (l : List Byte) : leNat l < 256 ^ l.length := by
  induction l with
  | nil => simp [leNat]
  | cons b l ih =>
    have hb := b.isLt
    rw [leNat, List.length_cons, Nat.pow_succ]
    omega

theorem length_leBytes (n w : Nat) : (leBytes n w).length = n := by
  induction n generalizing w with
  | zero => rfl
  | succ n ih => rw [leBytes, List.length_cons, ih]

theorem getElem_leBytes (n w k : Nat) (hk : k < (leBytes n w).length) : (leBytes n w)[k].toNat = w / 2 ^ (8 * k) % 256 := by
  induction n generalizing w k with
  | zero => simp [leBytes] at hk
  | succ n ih =>
    cases k with
    | zero => simp [leBytes]
    | succ k =>
      simp only [leBytes, List.getElem_cons_succ]
      rw [ih, Nat.div_div_eq_div_mul, show 8 * (k + 1) = 8 + 8 * k by omega, Nat.pow_add]

theorem bswap64_byte (a : Word64) (k : Nat) (hk : k < 8) :
    (bswap64 a).toNat / 2 ^ (8 * k) % 256 = a.toNat / 2 ^ (8 * (7 - k)) % 256 := by
  have hlen : (leBytes 8 a.toNat).reverse.length = 8 := by rw [List.length_reverse, length_leBytes]
  have hlt := leNat_lt (leBytes 8 a.toNat).reverse
  rw [hlen] at hlt
  rw [bswap64, BitVec.toNat_ofNat, show (2 : Nat) ^ 64 = 256 ^ 8 by norm_num, Nat.mod_eq_of_lt hlt,
    leNat_div_mod _ _ (by omega), List.getElem_reverse, getElem_leBytes]
  simp only [length_leBytes]

/-! ### Constants and sums -/

theorem signExtend_eq_ofInt {v w : Nat} (x : BitVec v) : x.signExtend w = BitVec.ofInt w x.toInt := rfl

theorem subW_toNat (x y : Word64) : (x - y).toNat = (x.toNat + (2 ^ 64 - y.toNat)) % 2 ^ 64 := by
  rw [BitVec.toNat_sub, Nat.add_comm]

theorem addImm_toNat (x : Word64) (imm : Word32) : (x + imm.signExtend 64).toNat = ((x.toInt + imm.toInt) % 2 ^ 64).toNat := by
  have h : x + imm.signExtend 64 = BitVec.ofInt 64 (x.toInt + imm.toInt) := by
    rw [BitVec.ofInt_add, BitVec.ofInt_toInt, signExtend_eq_ofInt]
  rw [h, BitVec.toNat_ofInt]
  rfl

theorem lihW_eq (x : Word64) (high : BitVec 20) :
    high ++ x.extractLsb' 0 44 = BitVec.ofNat 64 (high.toNat * 2 ^ 44 + x.toNat % 2 ^ 44) := by
  refine BitVec.eq_of_toNat_eq ?_
  have hh := high.isLt
  rw [BitVec.toNat_append, BitVec.extractLsb'_toNat, Nat.shiftRight_zero, BitVec.toNat_ofNat,
    ← Nat.shiftLeft_add_eq_or_of_lt (Nat.mod_lt _ (by norm_num)), Nat.shiftLeft_eq]
  exact (Nat.mod_eq_of_lt (by omega)).symm

/-! ### The results -/

/-- Settles O1: each operation has in flight the word that the lemmas above give. -/
theorem scalarResults : Obligations.ScalarResults := by
  unfold Obligations.ScalarResults
  refine ⟨fun g d a b imm s hg => ?_, fun g d a b imm s hg => ?_, fun g d a b imm high s hg => ?_, fun g d a s hg => ?_⟩
  · dsimp only
    simp only [exec, execAdd, execSub, execAnd, execOr, execXor, execAddi, execAndi, execOri, execXori, sOp_on hg, addImm_toNat,
      ← signExtend_eq_ofInt, ← BitVec.toNat_and, ← BitVec.toNat_or, ← BitVec.toNat_xor, ← BitVec.toNat_add, ← subW_toNat,
      and_self]
  · dsimp only
    simp only [exec, execShl, execShr, execSar, execRot, execShli, execShri, execSari, execRoti, sOp_on hg, shlW_eq, shrW_eq,
      sarW_eq, rotW_eq (show 0 < 64 by norm_num), and_self]
  · dsimp only
    simp only [exec, execMin, execMax, execMinu, execMaxu, execLi, execLih, sOp_on hg, minS_eq, maxS_eq, minU_eq, maxU_eq, lihW_eq,
      true_and, and_true]
    rfl
  · have hx := (s.cur.readS a).isLt
    have toNat_ne : s.cur.readS a ≠ 0 → (s.cur.readS a).toNat ≠ 0 := fun h h0 => h (BitVec.eq_of_toNat_eq h0)
    dsimp only
    simp only [exec, execClz, execCtz, execPopc, execBswap, sOp_on hg]
    refine ⟨⟨_, rfl, fun h => ?_, fun h => ?_⟩, ⟨_, rfl, fun h => ?_, fun h => ?_⟩, ?_, _, rfl, bswap64_byte _⟩
    · rw [h]; exact clzN_zero 64
    · exact clzN_bounds 64 _ hx (toNat_ne h)
    · rw [h]; exact ctzN_zero 64
    · exact ctzN_bounds 64 _ hx (toNat_ne h)
    · rw [popcN_eq]; rfl

end Sys2Proof.Machine
end

section
/-!
PROOFS. A reset as a whole (R5, R25, R350, R362): what each of its steps leaves of the machine, of the host's side and of the boot ROM's
choice; and the temperature's trip (R361).
-/
namespace Sys2Proof

/-! ### The configuration register that step 3 writes (R5) -/

/-- The cores that a record leaves enabled, and the clusters that have one. -/
def ConfigRecord.enabled (r : ConfigRecord) : List Nat := (List.range 192).filter fun c => decide (c ∉ r.disabled)
def ConfigRecord.alive (r : ConfigRecord) : List Nat :=
  (List.range 24).filter fun n => (List.range 8).any fun j => decide (8 * n + j ∉ r.disabled)

theorem clusters_of_enabled (r : ConfigRecord) : (r.enabled.map Machine.clusterOf).dedup.length = r.alive.length := by
  refine List.Perm.length_eq ((List.perm_ext_iff_of_nodup (List.nodup_dedup _) (List.nodup_range.filter _)).mpr fun n => ?_)
  simp only [List.mem_dedup, List.mem_map, ConfigRecord.enabled, List.mem_filter, List.mem_range, Machine.clusterOf, decide_eq_true_eq,
    List.any_eq_true]
  constructor
  · rintro ⟨c, ⟨hc, hd⟩, rfl⟩
    exact ⟨by omega, c % 8, by omega, by rwa [Nat.div_add_mod]⟩
  · rintro ⟨hn, j, hj, hd⟩
    exact ⟨8 * n + j, ⟨by omega, hd⟩, by omega⟩

theorem PackageForm.code_lt (f : PackageForm) : f.code < 16 := by cases f <;> decide

/-- The fields of `hwcfg` as step 3 writes them (R5). -/
theorem recordWord_fields (r : ConfigRecord) :
    (Machine.recordWord r).toNat / 2 ^ 24 = r.enabled.length ∧ (Machine.recordWord r).toNat / 2 ^ 19 % 2 ^ 5 = r.alive.length ∧
    (Machine.recordWord r).toNat / 2 ^ 16 % 2 ^ 3 = 0 ∧ (Machine.recordWord r).toNat / 2 ^ 8 % 2 ^ 8 = r.stepping % 2 ^ 8 ∧
    (Machine.recordWord r).toNat / 2 ^ 5 % 2 ^ 3 = 0 ∧ (Machine.recordWord r).getLsbD 4 = r.lpddr ∧ (Machine.recordWord r).toNat % 2 ^ 4 = r.form.code := by
  have hon : ((List.range 192).filter fun c => !r.disabled.contains c) = r.enabled :=
    List.filter_congr fun c _ => by simp
  have cores : r.enabled.length ≤ 192 := (List.length_filter_le _ _).trans_eq (by simp)
  have clusters : r.alive.length ≤ 24 := (List.length_filter_le _ _).trans_eq (by simp)
  have form := r.form.code_lt
  have lp : bit r.lpddr ≤ 1 := by cases r.lpddr <;> decide
  have word : (Machine.recordWord r).toNat = r.enabled.length * 2 ^ 24 + r.alive.length * 2 ^ 19 + r.stepping % 2 ^ 8 * 2 ^ 8 +
      bit r.lpddr * 2 ^ 4 + r.form.code := by
    simp only [Machine.recordWord, hon, clusters_of_enabled, BitVec.toNat_ofNat]
    exact Nat.mod_eq_of_lt (by omega)
  have lpddr : (Machine.recordWord r).getLsbD 4 = r.lpddr := by
    rw [BitVec.getLsbD, Nat.testBit_eq_decide_div_mod_eq, word]
    cases h : r.lpddr
    · simp [bit]; omega
    · simp [bit]; omega
  rw [word]
  generalize r.enabled.length = a at *
  generalize r.alive.length = b at *
  exact ⟨by omega, by omega, by omega, by omega, by omega, lpddr, by omega⟩
end Sys2Proof

namespace Sys2Proof.Machine

/-! ### The machine behind a reset: everything but the dies, the ports and the counters of the model -/

/-- The parts of the machine that the steps of a reset behind the cold state do not touch, but for the retired cores. -/
def State.idleParts (s : State) :=
  (s.clusters, s.tasks, s.stages, s.contexts, s.queues, s.counters, s.chipPhasers, s.xs, s.saved, s.viral, s.tripped, s.pmem,
    s.pending)

/-- What step 3 of a reset takes from the configuration record. -/
def State.recordParts (s : State) := (s.cores, s.hwcfg, s.record)

/-- The cores of a reset: nothing in any of them, and some retired. -/
def State.coresIdle (s : State) : Prop := ∀ c, ∃ b, s.core c = { retired := b }

theorem State.coresIdle_of_recordParts {s t : State} (h : t.recordParts = s.recordParts) (hs : s.coresIdle) : t.coresIdle := by
  intro c
  have hc : t.cores = s.cores := congrArg Prod.fst h
  rw [State.core, hc]
  exact hs c

theorem State.needsToken_of_coresIdle {s : State} (h : s.coresIdle) (n : Nat) : s.needsToken n = false := by
  unfold State.needsToken
  rw [List.any_eq_false]
  intro j _
  obtain ⟨b, hb⟩ := h (8 * n + j)
  simp [hb]

/-! ### The steps one by one -/

theorem State.logPlatform_idleParts (s : State) (k d : Nat) : (s.logPlatform k d).idleParts = s.idleParts := by
  rw [State.logPlatform, State.logPair_eq]
  rfl

theorem State.logPlatform_recordParts (s : State) (k d : Nat) : (s.logPlatform k d).recordParts = s.recordParts := by
  rw [State.logPlatform, State.logPair_eq]
  rfl

/-- Step 2 touches the host's side and the mark of recovery alone. -/
theorem State.bootSlot_frame (s : State) (r : ConfigRecord) : s.bootSlot r.minSecver =
    { s with host := (s.bootSlot r.minSecver).host, recovery := (s.bootSlot r.minSecver).recovery } := by
  rw [State.bootSlot_eq]
  split
  · rfl
  · split
    · rw [State.logPlatform, State.logPair_eq]
      rfl
    · rfl

theorem State.bootSlot_idleParts (s : State) (r : ConfigRecord) : (s.bootSlot r.minSecver).idleParts = s.idleParts := by
  rw [State.bootSlot_frame]
  rfl

theorem State.bootSlot_stuck (s : State) (r : ConfigRecord) : (s.bootSlot r.minSecver).stuck = s.stuck := by
  rw [State.bootSlot_frame]

theorem State.bootSlot_recordParts (s : State) (r : ConfigRecord) : (s.bootSlot r.minSecver).recordParts = s.recordParts := by
  rw [State.bootSlot_frame]
  rfl

theorem State.logPlatform_sent (s : State) (k d : Nat) : (s.logPlatform k d).host.sent = s.host.sent := by
  unfold State.logPlatform State.logPair
  dsimp only
  split_ifs <;> rfl

theorem State.logPlatform_minSecver (s : State) (k d : Nat) : (s.logPlatform k d).host.minSecver = s.host.minSecver := by
  unfold State.logPlatform State.logPair
  dsimp only
  split_ifs <;> rfl

theorem State.bootSlot_sent (s : State) (r : ConfigRecord) : (s.bootSlot r.minSecver).host.sent = s.host.sent := by
  rw [State.bootSlot_eq]
  split
  · rfl
  · split
    · rw [State.logPlatform_sent]
      rfl
    · rfl

theorem State.bootSlot_minSecver {s : State} {r : ConfigRecord}
    (h : bootable r (s.host.slot s.host.preferredB) ∨ bootable r (s.host.slot !s.host.preferredB)) :
    (s.bootSlot r.minSecver).host.minSecver = r.minSecver := by
  rw [State.bootSlot_eq]
  by_cases hp : bootable r (s.host.slot s.host.preferredB)
  · rw [if_pos hp]
    rfl
  · rw [if_neg hp, if_pos (h.resolve_left hp), State.logPlatform_minSecver]
    rfl

/-- The cores that a record disables retire, and nothing else happens. -/
def State.retire (s : State) (l : List Nat) : State :=
  l.foldl (fun (s : State) c => if c < 192 then s.modCore c fun k => { k with retired := true } else s) s

theorem State.retire_cons (s : State) (c : Nat) (l : List Nat) : s.retire (c :: l) =
    (if c < 192 then s.modCore c fun k => { k with retired := true } else s).retire l := rfl

theorem State.retire_eq (s : State) (l : List Nat) : s.retire l = { s with cores := (s.retire l).cores } := by
  induction l generalizing s with
  | nil => rfl
  | cons c l ih =>
    rw [State.retire_cons]
    by_cases hc : c < 192
    · rw [if_pos hc]
      exact ih _
    · rw [if_neg hc]
      exact ih _

theorem State.bootRecord_eq (s : State) (r : ConfigRecord) :
    s.bootRecord r = { s with cores := (s.retire r.disabled).cores, record := r, hwcfg := recordWord r } := by
  change { s.retire r.disabled with record := r, hwcfg := recordWord r } = _
  rw [State.retire_eq]

theorem State.retire_core (s : State) (l : List Nat) (c : Nat) :
    (s.retire l).core c = if c < 192 ∧ c ∈ l then { s.core c with retired := true } else s.core c := by
  induction l generalizing s with
  | nil => simp [State.retire]
  | cons d l ih =>
    rw [State.retire_cons, ih]
    by_cases hd : d < 192
    · rw [if_pos hd]
      by_cases hcd : c = d
      · subst hcd
        simp [hd]
      · rw [State.core_modCore_other _ _ hcd]
        simp [hcd]
    · rw [if_neg hd]
      by_cases hcd : c = d
      · subst hcd
        simp [hd]
      · simp [hcd]

theorem State.bootRecord_core (s : State) (r : ConfigRecord) (c : Nat) :
    (s.bootRecord r).core c = if c < 192 ∧ c ∈ r.disabled then { s.core c with retired := true } else s.core c := by
  rw [State.bootRecord_eq]
  exact s.retire_core r.disabled c

theorem State.bootRecord_idleParts (s : State) (r : ConfigRecord) : (s.bootRecord r).idleParts = s.idleParts := by
  rw [State.bootRecord_eq]
  rfl

theorem State.bootRecord_stuck (s : State) (r : ConfigRecord) : (s.bootRecord r).stuck = s.stuck := by
  rw [State.bootRecord_eq]

theorem State.bootRecord_host (s : State) (r : ConfigRecord) : (s.bootRecord r).host = s.host := by
  rw [State.bootRecord_eq]

theorem State.bootRecord_coresIdle {s : State} (r : ConfigRecord) (h : s.coresIdle) : (s.bootRecord r).coresIdle := by
  intro c
  obtain ⟨b, hb⟩ := h c
  rw [State.bootRecord_core, hb]
  split
  · exact ⟨true, rfl⟩
  · exact ⟨b, rfl⟩

theorem State.bootPorts_idleParts {s : State} (h : s.contexts = []) : s.bootPorts.idleParts = s.idleParts := by
  simp only [State.bootPorts, State.fillScope, State.idleParts, State.takeFree_eq, State.modLink, h, List.map_nil]

theorem State.bootPorts_recordParts (s : State) : s.bootPorts.recordParts = s.recordParts := rfl

theorem State.bootPorts_host (s : State) : s.bootPorts.host = s.host := rfl

/-! ### The publications and the Ready frame of step 6 (R322, R362) -/

/-- Step 6 changes nothing but the dies, the counter of free values and, by its frame, what has been sent. -/
def State.sameButDies (s t : State) : Prop := ∃ ds f, t = { s with dies := ds, free := f }

theorem State.sameButDies.refl (s : State) : s.sameButDies s := ⟨s.dies, s.free, rfl⟩

theorem State.sameButDies.trans {s t u : State} (h : s.sameButDies t) (h' : t.sameButDies u) : s.sameButDies u := by
  obtain ⟨ds, f, rfl⟩ := h
  obtain ⟨ds', f', rfl⟩ := h'
  exact ⟨ds', f', rfl⟩

theorem State.sameButDies.ite {c : Prop} [Decidable c] {s t u : State} (ht : s.sameButDies t) (hu : s.sameButDies u) :
    s.sameButDies (if c then t else u) := by
  split
  · exact ht
  · exact hu

theorem State.sameButDies.coresIdle {s t : State} (h : s.sameButDies t) (hs : s.coresIdle) : t.coresIdle := by
  obtain ⟨ds, f, rfl⟩ := h
  exact hs

theorem State.sameButDies.stages {s t : State} (h : s.sameButDies t) : t.stages = s.stages := by
  obtain ⟨ds, f, rfl⟩ := h
  rfl

theorem State.modDie_sameButDies (s : State) (d : Nat) (f : Die → Die) : s.sameButDies (s.modDie d f) := ⟨_, s.free, rfl⟩

theorem State.addToken_sameButDies {s : State} (h : s.coresIdle) (d : Nat) : s.sameButDies (s.addToken d) := by
  have none_ : ((List.range 6).find? fun i => s.needsToken (6 * d + i) && !(s.clu (6 * d + i)).hasToken) = none := by
    simp [State.needsToken_of_coresIdle h]
  rw [State.addToken, none_]
  exact s.modDie_sameButDies d _

theorem repeatN_sameButDies {f : State → State} (hf : ∀ s : State, s.coresIdle → s.sameButDies (f s)) (n : Nat) (s : State)
    (h : s.coresIdle) : s.sameButDies (repeatN f n s) := by
  induction n generalizing s with
  | zero => exact .refl s
  | succ n ih => exact (hf s h).trans (ih (f s) ((hf s h).coresIdle h))

/-- With no task on any core and no stage a publication finds no cluster that needs a token and no stage to evaluate. -/
theorem execHeadroomPublication_sameButDies {s : State} (h : s.coresIdle) (hs : s.stages = []) (d p : Nat) :
    ∃ t, execHeadroomPublication d p s = .next t ∧ s.sameButDies t := by
  have tokens : ∀ n u, s.sameButDies u → s.sameButDies (repeatN (fun s => s.addToken d) n u) := fun n u hu =>
    hu.trans (repeatN_sameButDies (fun t ht => State.addToken_sameButDies ht d) n u (hu.coresIdle h))
  have asks : ∀ (l : List Nat) u, s.sameButDies u → s.sameButDies (l.foldl (fun (s : State) st =>
      if (s.stage st).valid && ((s.stage st).clusters.any fun c => c / 6 == d) then s.askEvaluation st (s.cycle + 1) else s) u) := by
    intro l u hu
    induction l with
    | nil => exact hu
    | cons st l ih =>
      have hv : (u.stage st).valid = false := by
        rw [State.stage, hu.stages, hs]
        rfl
      rw [List.foldl_cons, hv]
      exact ih
  refine ⟨_, rfl, State.sameButDies.ite (asks _ _ ?_) ?_⟩
  · exact tokens _ _ ((s.modDie_sameButDies d _).trans (State.modDie_sameButDies _ d _))
  · exact tokens _ _ ((s.modDie_sameButDies d _).trans (State.modDie_sameButDies _ d _))

/-- Step 6: the dies and the Ready event frame (R362). -/
theorem State.bootReady_eq {s : State} (h : s.coresIdle) (hs : s.stages = []) (hv : s.viral = false) :
    ∃ t, s.sameButDies t ∧ s.bootReady = t.sendFrame 5 0 0 0 0 [] := by
  have publications : ∀ (l : List Nat) u, s.sameButDies u → s.sameButDies (l.foldl (fun (s : State) d =>
      match execHeadroomPublication d (Config.freeWord (s.free + 1) % 10001)
        { s.modDie d fun x => { x with hottest := some (Config.freeWord s.free % 115) } with free := s.free + 2 } with
      | .next t => t | _ => s) u) := by
    intro l u hu
    induction l generalizing u with
    | nil => exact hu
    | cons d l ih =>
      have hw : s.sameButDies { u.modDie d fun x => { x with hottest := some (Config.freeWord u.free % 115) } with free := u.free + 2 } :=
        hu.trans ⟨_, _, rfl⟩
      obtain ⟨t, ht, same⟩ := execHeadroomPublication_sameButDies (hw.coresIdle h) (hw.stages.trans hs) d
        (Config.freeWord (u.free + 1) % 10001)
      rw [List.foldl_cons, ht]
      exact ih t (hw.trans same)
  obtain ⟨ds, f, hd⟩ := publications (List.range 4) s (.refl s)
  refine ⟨_, ⟨ds, f, rfl⟩, ?_⟩
  have ready : s.bootReady = State.eventFrame { s with dies := ds, free := f } 0 0 0 [] := congrArg (fun t => State.eventFrame t 0 0 0 []) hd
  rw [ready, State.eventFrame, hv]
  rfl

/-! ### What the steps have done up to one of them -/

/-- What step 2 makes of the cold state. -/
def State.slotted (s : State) (r : ConfigRecord) : State := s.poweredUp.bootSlot r.minSecver

/-- A reset that has done n of its steps, the second or a later one but the last, and has found a slot that qualifies. -/
structure BootedTo (s : State) (r : ConfigRecord) (n : Nat) (t : State) : Prop where
  resetStep : t.resetStep = n
  recovery : t.recovery = false
  stuck : t.stuck = false
  host : t.host = (s.slotted r).host
  idle : t.idleParts = (s.cold false).idleParts
  cold : n < 3 → t.recordParts = (s.cold false).recordParts
  recorded : 3 ≤ n → t.recordParts = ((s.cold false).bootRecord r).recordParts

theorem bootUpTo_two (s : State) (r : ConfigRecord) : (s.cold false).bootUpTo r 2 = { s.slotted r with resetStep := 2 } := rfl

theorem State.bootUpTo_succ_recovery {s : State} {r : ConfigRecord} {n : Nat} (h : (s.bootUpTo r n).recovery = true) :
    s.bootUpTo r (n + 1) = s.bootUpTo r n := by
  rw [State.bootUpTo]
  exact if_pos h

theorem State.bootUpTo_three {s : State} {r : ConfigRecord} (h : (s.bootUpTo r 2).recovery = false) :
    s.bootUpTo r 3 = { (s.bootUpTo r 2).bootRecord r with resetStep := 3 } := by
  rw [State.bootUpTo]
  exact if_neg (by rw [h]; decide)

theorem State.bootUpTo_four {s : State} {r : ConfigRecord} (h : (s.bootUpTo r 3).recovery = false) :
    s.bootUpTo r 4 = { s.bootUpTo r 3 with resetStep := 4 } := by
  rw [State.bootUpTo]
  exact if_neg (by rw [h]; decide)

theorem State.bootUpTo_five {s : State} {r : ConfigRecord} (h : (s.bootUpTo r 4).recovery = false) :
    s.bootUpTo r 5 = { (s.bootUpTo r 4).bootPorts with resetStep := 5 } := by
  rw [State.bootUpTo]
  exact if_neg (by rw [h]; decide)

theorem State.bootUpTo_six {s : State} {r : ConfigRecord} (h : (s.bootUpTo r 5).recovery = false) :
    s.bootUpTo r 6 = { (s.bootUpTo r 5).bootReady with resetStep := 6 } := by
  rw [State.bootUpTo]
  exact if_neg (by rw [h]; decide)

/-- What step 3 writes depends on the cores alone. -/
theorem State.bootRecord_recordParts {s t : State} (r : ConfigRecord) (h : t.recordParts = s.recordParts) :
    (t.bootRecord r).recordParts = (s.bootRecord r).recordParts := by
  have hc : t.cores = s.cores := congrArg Prod.fst h
  have retired : ∀ (l : List Nat) (s t : State), t.cores = s.cores → (t.retire l).cores = (s.retire l).cores := by
    intro l
    induction l with
    | nil => exact fun _ _ h => h
    | cons c l ih =>
      intro s t h
      rw [State.retire_cons, State.retire_cons]
      refine ih _ _ ?_
      split
      · simp only [State.modCore, State.setCore, State.core, h]
      · exact h
  rw [State.bootRecord_eq, State.bootRecord_eq]
  simp only [State.recordParts, retired r.disabled s t hc]

theorem BootedTo.of_step {s u : State} {r : ConfigRecord} {n : Nat} (recovery : u.recovery = false) (stuck : u.stuck = false)
    (host : u.host = (s.slotted r).host) (idle : u.idleParts = (s.cold false).idleParts) (cold : n < 3 → u.recordParts = (s.cold false).recordParts)
    (recorded : 3 ≤ n → u.recordParts = ((s.cold false).bootRecord r).recordParts) : BootedTo s r n { u with resetStep := n } :=
  ⟨rfl, recovery, stuck, host, idle, cold, recorded⟩

theorem BootedTo.two {s : State} {r : ConfigRecord} (h : (s.slotted r).recovery = false) :
    BootedTo s r 2 ((s.cold false).bootUpTo r 2) := by
  rw [bootUpTo_two]
  exact .of_step h (State.bootSlot_stuck s.poweredUp r) rfl (State.bootSlot_idleParts s.poweredUp r) (fun _ => State.bootSlot_recordParts s.poweredUp r)
    fun h => absurd h (by decide)

theorem BootedTo.three {s : State} {r : ConfigRecord} (h : BootedTo s r 2 ((s.cold false).bootUpTo r 2)) :
    BootedTo s r 3 ((s.cold false).bootUpTo r 3) := by
  rw [State.bootUpTo_three h.recovery]
  generalize (s.cold false).bootUpTo r 2 = t at h ⊢
  exact .of_step ((congrArg Prod.fst (t.bootRecord_bootChoice r)).trans h.recovery) ((t.bootRecord_stuck r).trans h.stuck)
    ((t.bootRecord_host r).trans h.host)
    ((t.bootRecord_idleParts r).trans h.idle) (fun h => absurd h (by decide))
    fun _ => State.bootRecord_recordParts r (h.cold (by decide))

theorem BootedTo.four {s : State} {r : ConfigRecord} (h : BootedTo s r 3 ((s.cold false).bootUpTo r 3)) :
    BootedTo s r 4 ((s.cold false).bootUpTo r 4) := by
  rw [State.bootUpTo_four h.recovery]
  generalize (s.cold false).bootUpTo r 3 = t at h ⊢
  exact .of_step h.recovery h.stuck h.host h.idle (fun h => absurd h (by decide)) fun _ => h.recorded (by decide)

theorem BootedTo.noContexts {s t : State} {r : ConfigRecord} {n : Nat} (h : BootedTo s r n t) : t.contexts = [] :=
  congrArg (fun x => x.2.2.2.1) h.idle

theorem BootedTo.five {s : State} {r : ConfigRecord} (h : BootedTo s r 4 ((s.cold false).bootUpTo r 4)) :
    BootedTo s r 5 ((s.cold false).bootUpTo r 5) := by
  rw [State.bootUpTo_five h.recovery]
  generalize (s.cold false).bootUpTo r 4 = t at h ⊢
  exact .of_step h.recovery h.stuck h.host ((State.bootPorts_idleParts h.noContexts).trans h.idle) (fun h => absurd h (by decide))
    fun _ => h.recorded (by decide)

/-- The steps from the second to the fifth. -/
theorem bootedTo {s : State} {r : ConfigRecord} (h : (s.slotted r).recovery = false) {n : Nat} (h2 : 2 ≤ n) (h5 : n ≤ 5) :
    BootedTo s r n ((s.cold false).bootUpTo r n) := by
  have two := BootedTo.two h
  interval_cases n
  · exact two
  · exact two.three
  · exact two.three.four
  · exact two.three.four.five

theorem State.cold_coresIdle (s : State) (w : Bool) : (s.cold w).coresIdle := fun _ => ⟨false, rfl⟩

theorem BootedTo.coresIdle {s t : State} {r : ConfigRecord} {n : Nat} (h : BootedTo s r n t) : t.coresIdle := by
  by_cases hn : n < 3
  · exact State.coresIdle_of_recordParts (h.cold hn) (s.cold_coresIdle false)
  · exact State.coresIdle_of_recordParts (h.recorded (by omega)) (State.bootRecord_coresIdle r (s.cold_coresIdle false))

/-! ### What stands behind a reset -/

/-- The machine without tasks, stages, contexts and queues, and with the memory that it had. -/
def State.blankFrom (s t : State) : Prop :=
  (∀ c, (t.core c).task = none ∧ (t.core c).regs = {} ∧ (t.core c).sp = [] ∧ (t.core c).ls = []) ∧
  t.clusters = [] ∧ t.tasks = [] ∧ t.stages = [] ∧ t.contexts = [] ∧ t.queues = [] ∧ t.counters = [] ∧ t.chipPhasers = [] ∧
  t.xs = [] ∧ t.saved = [] ∧ t.viral = false ∧ t.tripped = false ∧ t.pmem = s.pmem

theorem State.blank_of_idleParts {s t : State} (hi : t.idleParts = (s.cold false).idleParts) (hc : t.coresIdle) :
    s.blankFrom t := by
  have hf : t.idleParts = ([], [], [], [], [], [], [], [], [], false, false, s.pmem, s.pending) := hi
  simp only [State.idleParts, Prod.mk.injEq] at hf
  obtain ⟨clusters, tasks, stages, contexts, queues, counters, phasers, xs, saved, viral, tripped, pmem, -⟩ := hf
  refine ⟨fun c => ?_, clusters, tasks, stages, contexts, queues, counters, phasers, xs, saved, viral, tripped, pmem⟩
  obtain ⟨b, hb⟩ := hc c
  rw [hb]
  exact ⟨rfl, rfl, rfl, rfl⟩

theorem State.followsRecord_of_recordParts {s t : State} {r : ConfigRecord}
    (h : t.recordParts = ((s.cold false).bootRecord r).recordParts) : followsRecord r t := by
  have hcores : ∀ c, t.core c = ((s.cold false).bootRecord r).core c := by
    intro c
    have hc : t.cores = ((s.cold false).bootRecord r).cores := congrArg Prod.fst h
    rw [State.core, hc, State.core]
  have hw : t.hwcfg = recordWord r := congrArg (fun x => x.2.1) h
  have hr : t.record = r := congrArg (fun x => x.2.2) h
  obtain ⟨cores, clusters, zero16, stepping, zero5, lpddr, form⟩ := recordWord_fields r
  rw [followsRecord, hw]
  refine ⟨cores, clusters, zero16, stepping, zero5, lpddr, form, hr, fun c => ?_⟩
  have cold : (s.cold false).core c = {} := rfl
  rw [hcores, State.bootRecord_core, cold]
  split
  next h => simp [h]
  next h => simp [h]

/-- With a slot that qualifies the boot ROM starts from one of them, with a record when it is not the preferred one (R350). -/
theorem State.slotted_starts {s : State} {r : ConfigRecord} (h : ∃ b, bootable r (s.host.slot b)) :
    (s.slotted r).recovery = false ∧ bootable r (s.host.slot (s.slotted r).host.runningB) ∧
    (s.slotted r).host.minSecver = r.minSecver ∧
    ((s.slotted r).host.runningB = s.host.preferredB → (s.slotted r).host.log = []) ∧
    ((s.slotted r).host.runningB ≠ s.host.preferredB →
      ∃ l, (s.slotted r).host.log = [l] ∧ l.event.toNat / 2 ^ 60 = 5 ∧ l.event.toNat % 2 ^ 26 = 1) ∧
    (bootable r (s.host.slot s.host.preferredB) → (s.slotted r).host.runningB = s.host.preferredB) := by
  by_cases hp : bootable r (s.host.slot s.host.preferredB)
  · obtain ⟨hr, hb, hl⟩ := State.bootChoice_eq_iff.mp (State.bootSlot_preferred (s := s.poweredUp) hp)
    have hm : (s.slotted r).host.minSecver = r.minSecver := State.bootSlot_minSecver (s := s.poweredUp) (.inl hp)
    change (s.slotted r).host.runningB = s.host.preferredB at hb
    refine ⟨hr, ?_, hm, fun _ => hl, fun hne => absurd hb hne, fun _ => hb⟩
    rwa [hb]
  · have ho : bootable r (s.host.slot !s.host.preferredB) := by
      obtain ⟨b, hb⟩ := h
      rcases Bool.eq_or_eq_not b s.host.preferredB with rfl | rfl
      · exact absurd hb hp
      · exact hb
    obtain ⟨hr, hb, hl⟩ := State.bootChoice_eq_iff.mp (State.bootSlot_fallback (s := s.poweredUp) hp ho rfl rfl)
    have hm : (s.slotted r).host.minSecver = r.minSecver := State.bootSlot_minSecver (s := s.poweredUp) (.inr ho)
    change (s.slotted r).host.runningB = !s.host.preferredB at hb
    refine ⟨hr, ?_, hm, fun he => ?_, fun _ => ⟨_, hl, fallbackRecord_event _⟩, fun h => absurd h hp⟩
    · rwa [hb]
    · rw [hb] at he
      exact absurd he (by simp)

theorem State.slotted_sent (s : State) (r : ConfigRecord) : (s.slotted r).host.sent = s.host.sent :=
  State.bootSlot_sent s.poweredUp r

/-- A reset that fails at no step and finds a slot that qualifies (R362). -/
theorem State.boot_runs {s : State} {r : ConfigRecord} (h : (s.slotted r).recovery = false) :
    ∃ t f, s.boot r none false = t ∧ t.idleParts = (s.cold false).idleParts ∧ t.coresIdle ∧
      t.recordParts = ((s.cold false).bootRecord r).recordParts ∧ t.resetStep = 6 ∧ t.recovery = false ∧ t.stuck = false ∧
      t.host.runningB = (s.slotted r).host.runningB ∧ t.host.minSecver = (s.slotted r).host.minSecver ∧
      t.host.sent = s.host.sent ++ [f] ∧ f.type = 5 ∧ t.host.log = (s.slotted r).host.log := by
  have five := bootedTo h (n := 5) (by decide) (by decide)
  have six : s.boot r none false = { ((s.cold false).bootUpTo r 5).bootReady with resetStep := 6 } :=
    State.bootUpTo_six five.recovery
  have idle := five.coresIdle
  generalize (s.cold false).bootUpTo r 5 = t at five six idle
  have hs : t.stages = [] := congrArg (fun x => x.2.2.1) five.idle
  have hv : t.viral = false := congrArg (fun x => x.2.2.2.2.2.2.2.2.2.1) five.idle
  obtain ⟨u, ⟨ds, f, hu⟩, ready⟩ := State.bootReady_eq idle hs hv
  subst hu
  rw [six, ready]
  have slot : t.host.runningB = (s.slotted r).host.runningB := congrArg HostSide.runningB five.host
  have secver : t.host.minSecver = (s.slotted r).host.minSecver := congrArg HostSide.minSecver five.host
  have log : t.host.log = (s.slotted r).host.log := congrArg HostSide.log five.host
  have sent : t.host.sent = s.host.sent := (congrArg HostSide.sent five.host).trans (s.slotted_sent r)
  exact ⟨_, _, rfl, five.idle, idle, five.recorded (by decide), rfl, five.recovery, five.stuck, slot, secver, congrArg (· ++ _) sent, rfl, log⟩

/-- A reset that finds no slot that qualifies stays at step 2, whatever step behind it would fail (R350, R352). -/
theorem State.boot_recovery {s : State} {r : ConfigRecord} (h : (s.slotted r).recovery = true) {n : Option Nat}
    (hn : ∀ k, n = some k → 3 ≤ k) : s.boot r n false = { s.slotted r with resetStep := 2 } := by
  have stays : ∀ k, 2 ≤ k → (s.cold false).bootUpTo r k = { s.slotted r with resetStep := 2 } := by
    intro k hk
    induction k, hk using Nat.le_induction with
    | base => rfl
    | succ k hk ih => rw [State.bootUpTo_succ_recovery (by rw [ih]; exact h), ih]
  cases n with
  | none => exact stays 6 (by decide)
  | some k =>
    have hk := hn k rfl
    rw [State.boot]
    dsimp only
    rw [stays (Nat.min k 6 - 1) (by simp only [Nat.min_def]; split <;> omega)]
    exact if_pos h

/-- What a step that fails leaves: the state of the steps before it, the mark of its number, and a record in the log (R362). -/
def State.failedAt (t : State) (n : Nat) : State := ({ t with resetStep := n, stuck := true }).logPlatform 5 (0x02 + 256 * n)

theorem State.boot_fails {s : State} {r : ConfigRecord} {n : Nat} (hn : n < 7)
    (h : ((s.cold false).bootUpTo r (n - 1)).recovery = false) :
    s.boot r (some n) false = ((s.cold false).bootUpTo r (n - 1)).failedAt n := by
  have hmin : Nat.min n 6 = n := Nat.min_eq_left (by omega)
  rw [State.boot, hmin]
  exact if_neg (by rw [h]; decide)

theorem State.logPlatform_last {s : State} (k d : Nat) (hl : s.host.log.length ≤ 1) (hd : s.host.dropped = 0) :
    (s.logPlatform k d).host.log.getLast? =
      some { event := logWord k 0xFF 0xF 0 d, stamp := stampWord 0 0, readableAt := some (s.cycle + Config.W), by' := none } := by
  have room : ¬ Config.logUnits - 2 * s.host.log.length < 2 := by simp only [Config.logUnits]; omega
  unfold State.logPlatform State.logPair
  dsimp only
  rw [if_neg room, if_pos hd]
  simp

/-- The record of a step that fails (R362, R386). -/
theorem failureRecord_event {n : Nat} (hn : n < 7) :
    (logWord 5 0xFF 0xF 0 (0x02 + 256 * n)).toNat / 2 ^ 60 = 5 ∧
    (logWord 5 0xFF 0xF 0 (0x02 + 256 * n)).toNat % 2 ^ 26 = 2 + 256 * n := by
  interval_cases n <;> decide

theorem State.failedAt_idleParts (t : State) (n : Nat) : (t.failedAt n).idleParts = t.idleParts := by
  rw [State.failedAt, State.logPlatform_idleParts]
  rfl

theorem State.failedAt_recordParts (t : State) (n : Nat) : (t.failedAt n).recordParts = t.recordParts := by
  rw [State.failedAt, State.logPlatform_recordParts]
  rfl

theorem State.failedAt_marks (t : State) (n : Nat) :
    (t.failedAt n).resetStep = n ∧ (t.failedAt n).stuck = true ∧ (t.failedAt n).recovery = t.recovery := by
  rw [State.failedAt, State.logPlatform, State.logPair_eq]
  exact ⟨rfl, rfl, rfl⟩

theorem State.failedAt_sent (t : State) (n : Nat) : (t.failedAt n).host.sent = t.host.sent := State.logPlatform_sent _ _ _

theorem State.failedAt_runningB (t : State) (n : Nat) : (t.failedAt n).host.runningB = t.host.runningB :=
  State.logPlatform_runningB _ _ _

theorem State.logPlatform_dropped {s : State} (k d : Nat) (hl : s.host.log = []) (hd : s.host.dropped = 0) :
    (s.logPlatform k d).host.dropped = 0 ∧ (s.logPlatform k d).host.log.length = 1 := by
  unfold State.logPlatform State.logPair
  simp [hl, hd, Config.logUnits]

/-- Step 2 leaves one record in the log at most, and drops none. -/
theorem State.slotted_log (s : State) (r : ConfigRecord) : (s.slotted r).host.log.length ≤ 1 ∧ (s.slotted r).host.dropped = 0 := by
  rw [State.slotted, State.bootSlot_eq]
  split
  · exact ⟨Nat.zero_le _, rfl⟩
  · split
    · obtain ⟨hd, hl⟩ := State.logPlatform_dropped (s := s.poweredUp.startFrom (!s.poweredUp.host.preferredB) r.minSecver) 5 1 rfl rfl
      exact ⟨hl.le, hd⟩
    · exact ⟨Nat.zero_le _, rfl⟩

/-- A reset that fails at a step has done those before it (R362). -/
structure FailedAt (s : State) (r : ConfigRecord) (n : Nat) (t : State) : Prop where
  idle : t.idleParts = (s.cold false).idleParts
  cold : n < 4 → t.recordParts = (s.cold false).recordParts
  recorded : 4 ≤ n → t.recordParts = ((s.cold false).bootRecord r).recordParts
  resetStep : t.resetStep = n
  stuck : t.stuck = true
  recovery : t.recovery = false
  log : ∃ l, t.host.log.getLast? = some l ∧ l.event.toNat / 2 ^ 60 = 5 ∧ l.event.toNat % 2 ^ 26 = 2 + 256 * n
  sent : t.host.sent = s.host.sent
  slot : 3 ≤ n → t.host.runningB = (s.slotted r).host.runningB

theorem State.failedAt_failedAt {s t : State} {r : ConfigRecord} {n : Nat} (hn : n < 7)
    (idle : t.idleParts = (s.cold false).idleParts) (cold : n < 4 → t.recordParts = (s.cold false).recordParts)
    (recorded : 4 ≤ n → t.recordParts = ((s.cold false).bootRecord r).recordParts) (recovery : t.recovery = false)
    (hl : t.host.log.length ≤ 1) (hd : t.host.dropped = 0) (sent : t.host.sent = s.host.sent)
    (slot : 3 ≤ n → t.host.runningB = (s.slotted r).host.runningB) : FailedAt s r n (t.failedAt n) where
  idle := (t.failedAt_idleParts n).trans idle
  cold h := (t.failedAt_recordParts n).trans (cold h)
  recorded h := (t.failedAt_recordParts n).trans (recorded h)
  resetStep := (t.failedAt_marks n).1
  stuck := (t.failedAt_marks n).2.1
  recovery := (t.failedAt_marks n).2.2.trans recovery
  log := ⟨_, State.logPlatform_last 5 _ hl hd, failureRecord_event hn⟩
  sent := (t.failedAt_sent n).trans sent
  slot h := (t.failedAt_runningB n).trans (slot h)

theorem State.boot_failedAt {s : State} {r : ConfigRecord} {n : Nat} (h1 : 1 ≤ n) (h7 : n < 7)
    (h : n < 3 ∨ (s.slotted r).recovery = false) : FailedAt s r n (s.boot r (some n) false) := by
  by_cases h3 : n < 3
  · have early : FailedAt s r n (((s.cold false).bootUpTo r (n - 1)).failedAt n) ∧
        ((s.cold false).bootUpTo r (n - 1)).recovery = false := by
      obtain rfl | rfl : n = 1 ∨ n = 2 := by omega
      · exact ⟨State.failedAt_failedAt h7 rfl (fun _ => rfl) (by omega) rfl (Nat.zero_le _) rfl rfl (by omega), rfl⟩
      · exact ⟨State.failedAt_failedAt h7 rfl (fun _ => rfl) (by omega) rfl (Nat.zero_le _) rfl rfl (by omega), rfl⟩
    rw [State.boot_fails h7 early.2]
    exact early.1
  · have before := bootedTo (h.resolve_left h3) (n := n - 1) (by omega) (by omega)
    obtain ⟨hl, hd⟩ := s.slotted_log r
    rw [State.boot_fails h7 before.recovery]
    generalize (s.cold false).bootUpTo r (n - 1) = t at before ⊢
    exact State.failedAt_failedAt h7 before.idle (fun h => before.cold (by omega)) (fun h => before.recorded (by omega))
      before.recovery (by rw [before.host]; exact hl) (by rw [before.host]; exact hd)
      (by rw [before.host]; exact s.slotted_sent r) fun _ => by rw [before.host]

theorem FailedAt.coresIdle {s t : State} {r : ConfigRecord} {n : Nat} (h : FailedAt s r n t) : t.coresIdle := by
  by_cases hn : n < 4
  · exact State.coresIdle_of_recordParts (h.cold hn) (s.cold_coresIdle false)
  · exact State.coresIdle_of_recordParts (h.recorded (by omega)) (State.bootRecord_coresIdle r (s.cold_coresIdle false))

/-! ### The outcomes of a reset -/

theorem State.not_bootable_slot (s : State) {r : ConfigRecord} (hA : ¬ bootable r s.host.imageA) (hB : ¬ bootable r s.host.imageB)
    (b : Bool) : ¬ bootable r (s.host.slot b) := by
  cases b
  · exact hA
  · exact hB

/-- The slot that runs: one that qualifies, the preferred one if that does. -/
theorem State.slotted_eq {s : State} {r : ConfigRecord} {b : Bool} (hb : bootable r (s.host.slot b))
    (other : b ≠ s.host.preferredB → ¬ bootable r (s.host.slot !b)) : (s.slotted r).host.runningB = b := by
  obtain ⟨-, fits, -, -, -, preferred⟩ := State.slotted_starts ⟨b, hb⟩
  by_contra hne
  have ho : (s.slotted r).host.runningB = !b := Bool.eq_not_of_ne hne
  rw [ho] at fits preferred
  by_cases hp : b = s.host.preferredB
  · rw [← hp] at preferred
    exact absurd (preferred hb) (by simp)
  · exact other hp fits

theorem State.reset_runs {s : State} {r : ConfigRecord} {b : Bool} (h : ∃ b, bootable r (s.host.slot b))
    (hb : (s.slotted r).host.runningB = b) :
    ∃ t f, exec (.powerOnReset r none) s = .next t ∧ s.blankFrom t ∧ followsRecord r t ∧ t.resetStep = 6 ∧ t.stuck = false ∧
      t.recovery = false ∧ t.host.runningB = b ∧ t.host.minSecver = r.minSecver ∧ t.host.sent = s.host.sent ++ [f] ∧ f.type = 5 ∧
      (b = s.host.preferredB → t.host.log = []) ∧
      (b ≠ s.host.preferredB → ∃ l, t.host.log = [l] ∧ l.event.toNat / 2 ^ 60 = 5 ∧ l.event.toNat % 2 ^ 26 = 1) := by
  subst hb
  obtain ⟨recovery, -, secver, noLog, log, -⟩ := State.slotted_starts h
  obtain ⟨t, f, ht, idle, cores, recorded, step, rec, stuck, slot, sec, sent, type, tlog⟩ := State.boot_runs recovery
  rw [← tlog] at noLog log
  exact ⟨t, f, (exec_powerOnReset r none s).trans (congrArg _ ht), State.blank_of_idleParts idle cores,
    State.followsRecord_of_recordParts recorded, step, stuck, rec, slot, sec.trans secver, sent, type, noLog, log⟩

/-! ### The temperature's trip (R361) -/

theorem Table.get_map_true {α : Type} (t : Table α) (d : α) (f : α → α) (p : α → Bool) (hf : ∀ a, p (f a) = true) (hd : p d = true)
    (k : Nat) : p (Table.get (t.map fun (e : Nat × α) => (e.1, f e.2)) d k) = true := by
  induction t with
  | nil => exact hd
  | cons e t ih =>
    obtain ⟨j, a⟩ := e
    simp only [Table.get, List.map_cons, Table.get?] at ih ⊢
    split
    · exact hf a
    · exact ih

/-- A trip stops the compute and holds every port down, and leaves the rest of the machine. -/
theorem State.trip_holds (s : State) : s.trip.tripped = true ∧ (∀ p, (s.trip.port p).heldDown = true) ∧
    s.trip.contexts = s.contexts ∧ leavesMachine s s.trip :=
  ⟨rfl, fun p => Table.get_map_true s.link.ports {} (fun q => { q with heldDown := true }) Port.heldDown (fun _ => rfl) rfl p,
    rfl, rfl, rfl, rfl, rfl, rfl, rfl⟩

/-! ### The obligations -/

/-- Settles O52: the steps of a reset one by one, and a trip. -/
theorem tripsAndResets : Obligations.TripsAndResets := by
  unfold Obligations.TripsAndResets
  refine ⟨fun d x s => ⟨fun h => ?_, fun h => ?_, ?_⟩, fun r s => ?_⟩
  · change Host.Outcome.next (if 115 ≤ x then _ else _) = _
    rw [if_neg (by omega)]
  · refine ⟨(s.modDie d fun q => { q with junction := x, hottest := some (Nat.max (q.hottest.getD 0) x) }).trip, ?_, ?_, ?_⟩
    · change Host.Outcome.next (if 115 ≤ x then _ else _) = _
      rw [if_pos h]
    · exact congrArg Die.junction (Table.get_put_same s.dies _ _ _)
    · exact State.trip_holds _
  · exact ⟨s.trip, rfl, rfl, s.trip_holds⟩
  · dsimp only
    have slotA : s.host.slot false = s.host.imageA := rfl
    have slotB : s.host.slot true = s.host.imageB := rfl
    have none_ : ¬ bootable r s.host.imageA → ¬ bootable r s.host.imageB → (s.slotted r).recovery = true := fun hA hB =>
      State.bootSlot_recovery (s := s.poweredUp) (s.not_bootable_slot hA hB _) (s.not_bootable_slot hA hB _)
    refine ⟨fun hp hA => ?_, fun hp hB => ?_, fun hp hA hB => ?_, fun hp hA hB => ?_, fun n hn h3 => ?_, fun n h1 h7 h => ?_⟩
    · exact State.reset_runs ⟨false, hA⟩ (State.slotted_eq hA fun h => absurd h (by simp [hp]))
    · exact State.reset_runs ⟨true, hB⟩ (State.slotted_eq hB fun h => absurd h (by simp [hp]))
    · exact State.reset_runs ⟨true, hB⟩ (State.slotted_eq hB fun _ => hA)
    · exact State.reset_runs ⟨false, hA⟩ (State.slotted_eq hA fun _ => hB)
    · have recovery := none_ hn.1 hn.2
      refine ⟨{ s.slotted r with resetStep := 2 }, congrArg Host.Outcome.next (State.boot_recovery recovery h3),
        State.blank_of_idleParts ?_ ?_, recovery, ?_, rfl, s.slotted_sent r⟩
      · exact State.bootSlot_idleParts s.poweredUp r
      · exact State.coresIdle_of_recordParts (State.bootSlot_recordParts s.poweredUp r) (s.cold_coresIdle false)
      · exact State.bootSlot_stuck s.poweredUp r
    · have starts : n < 3 ∨ ∃ b, bootable r (s.host.slot b) := h.imp_right fun hne => by
        by_contra hno
        exact hne ⟨fun hA => hno ⟨false, hA⟩, fun hB => hno ⟨true, hB⟩⟩
      have fails := State.boot_failedAt h1 h7 (starts.imp_right fun hb => (State.slotted_starts hb).1)
      obtain ⟨l, last, kind, data⟩ := fails.log
      refine ⟨_, l, rfl, State.blank_of_idleParts fails.idle fails.coresIdle, fails.resetStep, fails.stuck, fails.recovery, last, kind,
        data, fails.sent, fun h3 => ?_, fun h4 => ?_, fun h4 => State.followsRecord_of_recordParts (fails.recorded h4)⟩
      · obtain hlt | hb := starts
        · omega
        · rw [fails.slot h3]
          exact (State.slotted_starts hb).2.1
      · exact ⟨congrArg (fun x => x.2.1) (fails.cold h4), congrArg Prod.fst (fails.cold h4)⟩

theorem reset_bootable : bootable shippedRecord (State.reset.host.slot false) := by
  rw [bootable, State.reset]
  decide

theorem shippedRecord_enabled : shippedRecord.enabled.length = 192 := by
  simp [ConfigRecord.enabled, shippedRecord]

/-- Settles O60: the first step is a power-on reset with the shipped record, which finds its slot and fails at no step. -/
theorem resetMeetsTheInvariant : Obligations.ResetMeetsTheInvariant := by
  unfold Obligations.ResetMeetsTheInvariant
  have first : step State.reset = exec (.powerOnReset shippedRecord none) { State.reset with pending := [] } := rfl
  have reserved : State.reset.hwcfgReserved = true := by decide
  obtain ⟨recovery, -⟩ := State.slotted_starts (s := { State.reset with pending := [] }) ⟨false, reset_bootable⟩
  obtain ⟨t, f, ht, idle, cores, recorded, resetStep, -⟩ := State.boot_runs recovery
  have next : step State.reset = .next t := first.trans (congrArg Host.Outcome.next ht)
  have pending : t.pending = [] := congrArg (fun x => x.2.2.2.2.2.2.2.2.2.2.2.2) idle
  obtain ⟨count, -⟩ := State.followsRecord_of_recordParts recorded
  exact ⟨reserved, by decide, rfl, t, next, resetStep, pending, reservedBitsStayZero _ _ reserved next,
    count.trans shippedRecord_enabled⟩

/-- Settles O56, by evaluating the decoder on each word. -/
theorem wordsDecode : Obligations.WordsDecode := by
  unfold Obligations.WordsDecode
  dsimp only
  refine ⟨?_, ?_, ?_, ?_, ?_, ?_, ?_, ?_, ?_, ?_, ?_, ?_, ?_, ?_, ?_, ?_, ?_, ?_⟩ <;> decide

end Sys2Proof.Machine
end

section
/-!
PROOFS. Transfers of control, loops and wait bundles (R276 to R281): what a transfer does to a marked target and to another, when `loop`
is refused, and where the next bundle is.
-/
namespace Sys2Proof.Machine

theorem State.modCur_setCore (s : State) (k : Core) (f : Core → Core) :
    (s.setCore s.turn k).modCur f = s.setCore s.turn (f k) := by
  change (s.setCore s.turn k).setCore s.turn (f ((s.setCore s.turn k).core s.turn)) = _
  rw [State.core_setCore_same, State.setCore_setCore]

theorem State.modCur_eq (s : State) (f : Core → Core) : s.modCur f = s.setCore s.turn (f s.cur) := rfl

theorem State.modCur_modCur (s : State) (f f' : Core → Core) : (s.modCur f).modCur f' = s.modCur fun k => f' (f k) :=
  s.modCur_setCore _ _

/-! ### Transfers (R278, R280) -/

theorem State.transfer_marked {s : State} {tgt : CodeAddr} (h : (s.progOf s.turn).isStart tgt = true) (eff : State → State) :
    s.transfer tgt eff = eff (s.setCore s.turn { s.cur with seq := { s.cur.seq with next := some tgt } }) := by
  rw [State.transfer, State.marked, if_pos h]
  rfl

theorem State.transfer_unmarked {s : State} {tgt : CodeAddr} (h : (s.progOf s.turn).isStart tgt = false) (eff : State → State) :
    s.transfer tgt eff = s.issueFault .s 0x03 := by
  rw [State.transfer, State.marked, h]
  rfl

theorem exec_b {s : State} {g : Guard} (hg : s.cur.on g = true) (tgt : CodeAddr) :
    exec (.b g tgt) s = .next (s.transfer tgt id) := by
  change Host.Outcome.next (if _ then _ else _) = _
  rw [if_pos hg]

theorem exec_bp {s : State} {g : Guard} (hg : s.cur.on g = true) (off : CodeAddr) :
    exec (.bp g off) s = .next (s.transfer (s.cur.seq.pc + off) id) := by
  change Host.Outcome.next (if _ then _ else _) = _
  rw [if_pos hg]

theorem exec_call {s : State} {g : Guard} (hg : s.cur.on g = true) (d : SDst) (tgt : CodeAddr) :
    exec (.call g d tgt) s = .next (s.transfer tgt fun t => t.pushS .s 1 d s.callLink) := by
  change Host.Outcome.next (if _ then _ else _) = _
  rw [if_pos hg]

theorem exec_lbrk {s : State} {g : Guard} (hg : s.cur.on g = true) (tgt : CodeAddr) : exec (.lbrk g tgt) s =
    .next (if s.cur.seq.loops.length = 0 then s.issueFault .s 0x0F
      else s.transfer tgt fun t => t.modCur fun k => k.modSeq fun q => { q with loops := q.loops.tail }) := by
  simp only [exec, execLbrk, hg, Bool.not_true, Bool.false_eq_true, if_false]
  rfl

/-- A link is refused by its reserved bits or its depth (R280). -/
theorem exec_ret {s : State} {g : Guard} (hg : s.cur.on g = true) (a : SSrc) : exec (.ret g a) s =
    .next (if 2 ^ 27 ≤ (s.cur.readS a).toNat ∨ (s.cur.readS a).toNat / 2 ^ 22 % 4 ≠ 0 ∨
        (s.cur.readS a).toNat / 2 ^ 24 % 8 ≠ s.cur.seq.loops.length then s.issueFault .s 0x0F
      else s.transfer (BitVec.ofNat 22 (s.cur.readS a).toNat) id) := by
  simp only [exec, execRet, hg, Bool.not_true, Bool.false_eq_true, if_false, fld, bits, pow_zero, Nat.div_one]
  refine congrArg _ (if_congr ?_ rfl rfl)
  have wide : (s.cur.readS a).toNat / 2 ^ 27 ≠ 0 ↔ 2 ^ 27 ≤ (s.cur.readS a).toNat := by omega
  rw [← wide]
  simp [State.loopDepth, or_assoc]

theorem exec_jr {s : State} {g : Guard} (hg : s.cur.on g = true) (a : SSrc) : exec (.jr g a) s =
    .next (if 2 ^ 22 ≤ (s.cur.readS a).toNat then s.issueFault .s 0x0F
      else s.transfer (BitVec.ofNat 22 (s.cur.readS a).toNat) id) := by
  simp only [exec, execJr, hg, Bool.not_true, Bool.false_eq_true, if_false, fld, pow_zero, Nat.div_one]
  refine congrArg _ (if_congr ?_ rfl rfl)
  have wide : (s.cur.readS a).toNat / 2 ^ 22 ≠ 0 ↔ 2 ^ 22 ≤ (s.cur.readS a).toNat := by omega
  rw [← wide]
  simp

/-- A link of the present depth names its target. -/
theorem exec_ret_link {s : State} {g : Guard} (hg : s.cur.on g = true) {a : SSrc} {tgt : CodeAddr} (hd : s.cur.seq.loops.length ≤ 7)
    (hv : (s.cur.readS a).toNat = s.cur.seq.loops.length * 2 ^ 24 + tgt.toNat) :
    exec (.ret g a) s = .next (s.transfer tgt id) := by
  have ht := tgt.isLt
  rw [exec_ret hg, hv, if_neg (by omega)]
  have target : BitVec.ofNat 22 (s.cur.seq.loops.length * 2 ^ 24 + tgt.toNat) = tgt :=
    BitVec.eq_of_toNat_eq (by rw [BitVec.toNat_ofNat]; omega)
  rw [target]

theorem exec_jr_target {s : State} {g : Guard} (hg : s.cur.on g = true) {a : SSrc} {tgt : CodeAddr}
    (hv : (s.cur.readS a).toNat = tgt.toNat) : exec (.jr g a) s = .next (s.transfer tgt id) := by
  have ht := tgt.isLt
  rw [exec_jr hg, hv, if_neg (by omega), BitVec.ofNat_toNat, BitVec.setWidth_eq]

/-- Settles O7: each transfer is one of `State.transfer`, behind the checks of its operand. -/
theorem transfersOfControl : Obligations.TransfersOfControl := by
  unfold Obligations.TransfersOfControl
  refine ⟨fun g d a tgt s hg hm => ?_, fun g d a tgt s hg => ⟨fun hm => ?_, fun h => ?_, fun h => ?_, fun h => ?_, fun h => ?_⟩⟩
  · have there := State.transfer_marked hm
    refine ⟨?_, fun off ho => ?_, ?_, fun hd hv => ?_, fun hv => ?_, fun top rest hl => ?_⟩
    · rw [exec_b hg, there]; rfl
    · rw [exec_bp hg, ho, there]; rfl
    · rw [exec_call hg, there, State.pushS_eq]; rfl
    · rw [exec_ret_link hg hd hv, there]; rfl
    · rw [exec_jr_target hg hv, there]; rfl
    · rw [exec_lbrk hg, there, if_neg (by rw [hl]; exact Nat.succ_ne_zero _)]
      refine congrArg Host.Outcome.next ((s.modCur_setCore _ _).trans ?_)
      rw [Core.modSeq, hl]
      rfl
  · have fault := State.transfer_unmarked hm
    refine ⟨?_, ?_, fun off ho => ?_, fun hd hv => ?_, fun hv => ?_, fun hl => ?_⟩
    · rw [exec_b hg, fault]
    · rw [exec_call hg, fault]
    · rw [exec_bp hg, ho, fault]
    · rw [exec_ret_link hg hd hv, fault]
    · rw [exec_jr_target hg hv, fault]
    · rw [exec_lbrk hg, fault, if_neg (by rwa [List.length_eq_zero_iff])]
  · rw [exec_ret hg, if_pos (.inr (.inr h))]
  · rw [exec_ret hg, if_pos (h.imp_right .inl)]
  · rw [exec_jr hg, if_pos h]
  · rw [exec_lbrk hg, if_pos (by rw [h]; rfl)]

/-! ### Loops (R276, R278, R281) -/

theorem exec_loop {s : State} {g : Guard} (hg : s.cur.on g = true) (c : SSrc) (last imm : CodeAddr) : exec (.loop g c last imm) s =
    .next (if loopRefused s (s.cur.readS c + imm.setWidth 64) last then s.issueFault .s 0x0F
      else if !s.marked last then s.issueFault .s 0x03
      else if s.cur.readS c + imm.setWidth 64 = 0 then
        s.modCur fun k => k.modSeq fun q => { q with next := some (advance last (s.bundleWords last)) }
      else s.modCur fun k => k.modSeq fun q =>
        { q with loops := { start := advance s.cur.seq.pc s.cur.seq.blen, last := last,
                            count := (s.cur.readS c + imm.setWidth 64).toNat } :: q.loops }) := by
  simp only [exec, execLoop, hg, Bool.not_true, Bool.false_eq_true, if_false]

/-- What `loop` refuses (R281). -/
theorem loopRefused_iff (s : State) (cnt : Word64) (last : CodeAddr) : loopRefused s cnt last = true ↔
    2 ^ 32 ≤ cnt.toNat ∨ last.toNat < (advance s.cur.seq.pc s.cur.seq.blen).toNat ∨
    last.toNat / 65536 ≠ (advance s.cur.seq.pc s.cur.seq.blen).toNat / 65536 ∨ s.cur.seq.loops.length = 6 ∨
    ∃ top rest, s.cur.seq.loops = top :: rest ∧ (last = top.last ∨ s.cur.seq.pc = top.last) := by
  have wide : 2 ^ 32 ≤ cnt.toNat ↔ 0xFFFFFFFF < cnt.toNat := by omega
  rw [wide]
  unfold loopRefused
  cases h : s.cur.seq.loops with
  | nil => simp [State.loopDepth, overlayOf, h, or_assoc]
  | cons top rest => simp [State.loopDepth, overlayOf, h, or_assoc]

theorem loopCount_toNat (x : Word64) (imm : CodeAddr) : (x + imm.setWidth 64).toNat = (x.toNat + imm.toNat) % 2 ^ 64 := by
  have h := imm.isLt
  rw [BitVec.toNat_add, BitVec.toNat_setWidth, Nat.mod_eq_of_lt (a := imm.toNat) (by omega)]

theorem State.bundleWords_eq (s : State) (a : CodeAddr) :
    s.bundleWords a = (16 + ((Slot.all.filter fun sl => (Table.get (s.progOf s.turn).code 0 a.toNat).toNat.testBit sl.num).map
      Slot.width).sum + (if (Table.get (s.progOf s.turn).code 0 a.toNat).toNat.testBit 11 then 32 else 0) + 31) / 32 := by
  rw [State.bundleWords, headerWords, Program.window, Program.window, Nat.mul_zero]
  simp only [bitAt_eq_testBit, Nat.add_zero]

/-- The place and the loops that the loop stack gives behind a bundle (R278, rules 3 and 4). -/
def Seq.back (q : Seq) : CodeAddr × List Loop :=
  match q.loops with
  | l :: rest =>
    if l.last = q.pc then
      if 1 < l.count then (l.start, { l with count := l.count - 1 } :: rest) else (advance q.pc q.blen, rest)
    else (advance q.pc q.blen, l :: rest)
  | [] => (advance q.pc q.blen, [])

theorem Seq.back_again {q : Seq} {top : Loop} {rest : List Loop} (hl : q.loops = top :: rest) (h : top.last = q.pc)
    (hc : 1 < top.count) : q.back = (top.start, { top with count := top.count - 1 } :: rest) := by
  simp only [Seq.back, hl, if_pos h, if_pos hc]

theorem Seq.back_pop {q : Seq} {top : Loop} {rest : List Loop} (hl : q.loops = top :: rest) (h : top.last = q.pc)
    (hc : top.count ≤ 1) : q.back = (advance q.pc q.blen, rest) := by
  simp only [Seq.back, hl, if_pos h, if_neg (Nat.not_lt.mpr hc)]

theorem Seq.back_along {q : Seq} (h : ∀ top rest, q.loops = top :: rest → top.last ≠ q.pc) :
    q.back = (advance q.pc q.blen, q.loops) := by
  unfold Seq.back
  cases hl : q.loops with
  | nil => rfl
  | cons top rest => simp only [if_neg (h top rest hl)]

theorem execLoopBackEdge_eq (s : State) : execLoopBackEdge s = .next (s.setCore s.turn { s.cur with
    seq := { s.cur.seq with pc := s.cur.seq.back.1, loops := s.cur.seq.back.2 } }) := by
  rw [execLoopBackEdge, State.modCur_eq, Core.modSeq]
  congr 4
  generalize s.cur.seq = q
  cases hl : q.loops with
  | nil => simp [Seq.back, hl]
  | cons top rest =>
    by_cases h : top.last = q.pc
    · by_cases hc : 1 < top.count
      · simp [Seq.back_again hl h hc, h, hc]
      · simp [Seq.back_pop hl h (Nat.not_lt.mp hc), h, hc]
    · simp [Seq.back, hl, h]

/-! ### The next bundle (R46, R278) -/

/-- Without a hold there is nothing to trace. -/
theorem State.traceDelay_eq {s : State} (h : s.cur.seq.traceLeft = 0) : s.traceDelay = s := by
  unfold State.traceDelay
  dsimp only
  split
  · rw [h]
    simp
  · rfl

/-- The place and the loops behind a bundle: its own target, or what the loop stack gives (R278). -/
def Seq.moved (q : Seq) : CodeAddr × List Loop :=
  match q.next with
  | some a => (a, q.loops)
  | none => q.back

/-- What the end of a bundle makes of its core. -/
def Core.nextBundle (k : Core) : Core :=
  { k with
    seq := { k.seq with pc := k.seq.moved.1, loops := k.seq.moved.2, next := none, stream := k.seq.stream + 1, hold := none, held := 0,
                        inBundle := false, signalledAt := none,
                        traceLeft := if k.seq.armed then k.seq.traceLeft else k.seq.traceLeft - 1, armed := false, releaseAt := none,
                        waitFrom := 0, waitAt := none, reissue := false, halted := k.seq.halted || k.seq.halting, halting := false,
                        fronted := false, bundleFpc := none },
    regs := { k.regs with donemask := 0 },
    rcv := { k.rcv with fresh := false, rerun := k.rcv.rerun.map fun r => { r with count := r.count + 1 } } }

/-- The end of a bundle touches its core alone. -/
theorem State.nextBundle_eq (s : State) : s.nextBundle = s.setCore s.turn s.cur.nextBundle := by
  unfold State.nextBundle
  dsimp only
  split
  next a ha =>
    rw [State.modCur_modCur]
    refine congrArg (s.setCore s.turn) ?_
    simp only [Core.nextBundle, Seq.moved, ha, Core.modSeq]
    rfl
  next hn =>
    simp only [execLoopBackEdge_eq]
    rw [State.modCur_setCore]
    simp only [Core.nextBundle, Seq.moved, hn]

/-- A bundle without a fault and without a request for a stop gives way to the next one. -/
theorem State.finishBundle_passes {s : State} (hf : s.cur.seq.efault = none) (ht : s.cur.seq.trapped = []) :
    s.finishBundle = s.traceDelay.nextBundle := by
  simp only [State.finishBundle, hf, ht]

/-- Settles O8: what `loop` pushes, skips and refuses, where the loop stack leads, and the bundle that does nothing else. -/
theorem loopsAndWaits : Obligations.LoopsAndWaits := by
  unfold Obligations.LoopsAndWaits
  refine ⟨fun g c last imm s hg => ?_, fun g c last imm s hg => ?_, fun s => ?_, fun s hf ht hl => ?_⟩
  · intro cnt A start hc hlow hover hsix hopen hm
    have taken : loopRefused s (s.cur.readS c + imm.setWidth 64) last = false := by
      rw [Bool.eq_false_iff, Ne, loopRefused_iff, loopCount_toNat]
      rintro (h | h | h | h | ⟨top, rest, h, h' | h'⟩)
      · omega
      · exact absurd hlow (Nat.not_le.mpr h)
      · exact h hover
      · omega
      · exact (hopen top rest h).1 h'
      · exact (hopen top rest h).2 h'
    have marked : s.marked last = true := hm
    rw [exec_loop hg, taken, marked]
    have zero : s.cur.readS c + imm.setWidth 64 = 0 ↔ cnt = 0 := by
      rw [← BitVec.toNat_inj, loopCount_toNat]
      rfl
    refine ⟨fun hp => ?_, fun hz => ?_⟩
    · simp only [Bool.false_eq_true, if_false, Bool.not_true]
      rw [if_neg (by rw [zero]; omega), loopCount_toNat]
      rfl
    · simp only [Bool.false_eq_true, if_false, Bool.not_true]
      rw [if_pos (zero.mpr hz), State.bundleWords_eq]
      rfl
  · intro cnt A start refused
    have same : loopRefused s (s.cur.readS c + imm.setWidth 64) last = true ↔ refused := by
      rw [loopRefused_iff, loopCount_toNat]
      rfl
    refine ⟨fun h => ?_, fun h hm => ?_⟩
    · rw [exec_loop hg, same.mpr h]
      rfl
    · have marked : s.marked last = false := hm
      rw [exec_loop hg, Bool.eq_false_iff.mpr (mt same.mp h), marked]
      rfl
  · intro q along to_
    have edge : exec .loopBackEdge s = to_ q.back.1 q.back.2 := execLoopBackEdge_eq s
    rw [edge]
    refine ⟨fun top rest hl h hc => ?_, fun top rest hl h hc => ?_, fun h => ?_⟩
    · rw [Seq.back_again hl h hc]
    · rw [Seq.back_pop hl h hc]
      rfl
    · rw [Seq.back_along h]
      rfl
  · have passes : exec .waitBundle s = .next s.nextBundle := by
      change Host.Outcome.next s.finishBundle = _
      rw [State.finishBundle_passes hf ht, State.traceDelay_eq hl]
    have cur : s.nextBundle.cur = s.cur.nextBundle := by rw [State.nextBundle_eq, State.cur_setCore]
    refine ⟨_, passes, ?_⟩
    rw [cur]
    refine ⟨rfl, fun a ha => ?_, fun hn h => ?_, rfl, rfl, rfl, rfl, rfl, rfl, rfl, ?_⟩
    · simp [Core.nextBundle, Seq.moved, ha]
    · simp [Core.nextBundle, Seq.moved, Seq.back, hn, h, advance]
    · rw [State.nextBundle_eq]
      exact ⟨fun c hc => State.core_setCore_other s _ hc, rfl, rfl, rfl, rfl⟩

end Sys2Proof.Machine
end

section
/-!
PROOFS. System registers, traps, halts and the pop of a record (R42, R81, R228, R283, R284).
-/
namespace Sys2Proof.Machine

/-! ### Numbers and values of system registers (R5, R42, R81) -/

theorem sysReg?_eq_none {num : BitVec 12}
    (h : num ∉ [0x000, 0x001, 0x002, 0x003, 0x004, 0x010, 0x011, 0x020, 0x030, 0x040, 0x041, 0x042]) : sysReg? num.toNat = none := by
  have other : ∀ k : BitVec 12, k ∈ [0x000, 0x001, 0x002, 0x003, 0x004, 0x010, 0x011, 0x020, 0x030, 0x040, 0x041, 0x042] →
      num.toNat ≠ k.toNat := fun k hk he => h (BitVec.eq_of_toNat_eq he ▸ hk)
  unfold sysReg?
  split
  next he => exact absurd he (other 0x000 (by decide))
  next he => exact absurd he (other 0x001 (by decide))
  next he => exact absurd he (other 0x002 (by decide))
  next he => exact absurd he (other 0x003 (by decide))
  next he => exact absurd he (other 0x004 (by decide))
  next he => exact absurd he (other 0x010 (by decide))
  next he => exact absurd he (other 0x011 (by decide))
  next he => exact absurd he (other 0x020 (by decide))
  next he => exact absurd he (other 0x030 (by decide))
  next he => exact absurd he (other 0x040 (by decide))
  next he => exact absurd he (other 0x041 (by decide))
  next he => exact absurd he (other 0x042 (by decide))
  next => rfl

theorem fpFlags_testBit_low : ∀ i < 5, fpFlags.testBit i = false := by decide
theorem fpFlags_testBit_flag : ∀ i, 8 ≤ i → i < 14 → fpFlags.testBit i = true := by
  intro i h8 hi
  interval_cases i <;> decide

/-- The mode bits of `fpc` take the written bits (R81). -/
theorem writeFpc_mode (old v : Word64) {i : Nat} (hi : i < 5) : (writeFpc old v 0).getLsbD i = v.getLsbD i := by
  have five : ∀ i < 5, Nat.testBit 0x1F i = true := by decide
  rw [writeFpc, BitVec.getLsbD_ofNat, BitVec.getLsbD]
  simp [Nat.testBit_or, Nat.testBit_xor, Nat.testBit_and, fpFlags_testBit_low i hi, five i hi]
  omega

/-- The sticky bits of `fpc` are cleared by ones (R81). -/
theorem writeFpc_sticky (old v : Word64) {i : Nat} (h8 : 8 ≤ i) (hi : i < 14) :
    (writeFpc old v 0).getLsbD i = (old.getLsbD i && !v.getLsbD i) := by
  have five : Nat.testBit 0x1F i = false := Nat.testBit_lt_two_pow (by calc 0x1F < 2 ^ 8 := by decide
    _ ≤ 2 ^ i := Nat.pow_le_pow_right (by decide) h8)
  rw [writeFpc, BitVec.getLsbD_ofNat, BitVec.getLsbD, BitVec.getLsbD]
  simp [Nat.testBit_or, Nat.testBit_xor, Nat.testBit_and, fpFlags_testBit_flag i h8 hi, five]
  cases old.toNat.testBit i <;> cases v.toNat.testBit i <;> simp; omega

theorem writeFstat_sticky (old v : Word64) {i : Nat} (hi : i < 2) :
    (writeFstat old v 0).getLsbD i = (old.getLsbD i && !v.getLsbD i) := by
  have two : ∀ i < 2, Nat.testBit 3 i = true := by decide
  rw [writeFstat, BitVec.getLsbD_ofNat, BitVec.getLsbD, BitVec.getLsbD]
  simp [Nat.testBit_xor, Nat.testBit_and, two i hi]
  cases old.toNat.testBit i <;> cases v.toNat.testBit i <;> simp; omega

/-! ### Reads and writes (R42) -/

theorem exec_sysr {s : State} {g : Guard} (hg : s.cur.on g = true) (d : SDst) {num : BitVec 12} {r : SysReg}
    (hr : sysReg? num.toNat = some r) :
    exec (.sysr g d num) s = .next (s.gains .s 2 (destS d) (s.sysRead r).toNat (2 ^ 64 - 1) 0) := by
  simp only [exec, execSysr, hg, hr, Bool.not_true, Bool.false_eq_true, if_false, State.pushS_eq]

theorem exec_sysw {s : State} {g : Guard} (hg : s.cur.on g = true) (a : SSrc) {num : BitVec 12} {r : SysReg}
    (hr : sysReg? num.toNat = some r) (hw : sysWriteFault r (s.cur.readS a) = none) :
    exec (.sysw g a num) s = .next (s.modCur fun k => k.sysWrite r (s.cur.readS a)) := by
  simp only [exec, execSysw, hg, hr, hw, Bool.not_true, Bool.false_eq_true, if_false]

theorem exec_sysw_refused {s : State} {g : Guard} (hg : s.cur.on g = true) (a : SSrc) {num : BitVec 12} {r : SysReg} {code : Nat}
    (hr : sysReg? num.toNat = some r) (hw : sysWriteFault r (s.cur.readS a) = some code) :
    exec (.sysw g a num) s = .next (s.issueFault .s code) := by
  simp only [exec, execSysw, hg, hr, hw, Bool.not_true, Bool.false_eq_true, if_false]

theorem exec_sysr_unknown {s : State} {g : Guard} (hg : s.cur.on g = true) (d : SDst) {num : BitVec 12}
    (hr : sysReg? num.toNat = none) : exec (.sysr g d num) s = .next (s.issueFault .s 0x0F) := by
  simp only [exec, execSysr, hg, hr, Bool.not_true, Bool.false_eq_true, if_false]

theorem exec_sysw_unknown {s : State} {g : Guard} (hg : s.cur.on g = true) (a : SSrc) {num : BitVec 12}
    (hr : sysReg? num.toNat = none) : exec (.sysw g a num) s = .next (s.issueFault .s 0x0F) := by
  simp only [exec, execSysw, hg, hr, Bool.not_true, Bool.false_eq_true, if_false]

theorem sysWriteFault_fpc (v : Word64) :
    sysWriteFault .fpc v = if 2 ^ 14 ≤ v.toNat ∨ v.toNat / 32 % 8 ≠ 0 then some 0x0F else none := by
  refine if_congr ?_ rfl rfl
  rw [Bool.or_eq_true, bne_iff_ne, bne_iff_ne, bits]
  exact or_congr_left (by omega)

theorem sysWriteFault_fstat (v : Word64) : sysWriteFault .fstat v = if 4 ≤ v.toNat then some 0x0F else none := by
  refine if_congr ?_ rfl rfl
  rw [bne_iff_ne]
  omega

theorem sysWriteFault_waitlim (v : Word64) : sysWriteFault .waitlim v = if 2 ^ 32 ≤ v.toNat then some 0x0F else none := by
  refine if_congr ?_ rfl rfl
  rw [bne_iff_ne]
  omega

theorem sysWriteFault_driftlim (v : Word64) :
    sysWriteFault .driftlim v = if 8 < v.toNat / 2 ^ 58 % 16 then some 0x0F else none := rfl

theorem State.taskOf_eq {s : State} {c t : Nat} {k : Task} (hc : (s.core c).task = some t) (ht : s.task? t = some k) :
    s.taskOf c = some k := by
  simp [State.taskOf, hc, ht]

theorem State.stageOf_eq {s : State} {c : Nat} {k : Task} (h : s.taskOf c = some k) : s.stageOf c = k.stage := by
  simp [State.stageOf, h]

/-! ### Traps and records -/

/-- A hold's trace stands in the log alone. -/
theorem State.traceDelay_frame (s : State) : s.traceDelay = { s with host := s.traceDelay.host } := by
  unfold State.traceDelay
  dsimp only
  split
  · split
    · rw [State.logCore, State.logPair_eq]
    · rfl
  · rfl

theorem State.traceDelay_cur (s : State) : s.traceDelay.cur = s.cur := by
  rw [State.traceDelay_frame]
  rfl

theorem State.finishBundle_cur {s : State} (hf : s.cur.seq.efault = none) (ht : s.cur.seq.trapped = []) :
    s.finishBundle.cur = s.cur.nextBundle := by
  rw [State.finishBundle_passes hf ht, State.nextBundle_eq, State.cur_setCore, State.traceDelay_cur]

theorem State.raiseEvent_event {s : State} {t : Nat} {k : Task} (ht : s.task? t = some k) (e : HandlerEvent) :
    (s.raiseEvent t e).task? t = some { k with event := some { e with cycle := s.cycle } } := by
  simp only [State.raiseEvent, ht]
  exact Table.get?_put_same s.tasks t _

/-- A request for a stop has no code of a fault: it is delivered where it is made (R283). -/
theorem State.deliverFault_trap (s : State) (t : Nat) (f : FaultInfo) (h : f.code = 0) :
    s.deliverFault t f = s.raiseEvent t { code := f.code, trap := f.trap, core := f.core, slot := f.slot, addr := f.addr } := by
  simp only [State.deliverFault, if_pos h]

/-- The oldest record leaves the queue, its stamp enters the core's count, and its first word is in flight (R228). -/
theorem State.popRecord_eq (s : State) (r : EvRecord) (rest : List EvRecord) (d : SDst) :
    ((s.modCur fun k => k.modEng fun e => { e with evq := rest, half := some r.w1 }.takeHeld).recvStamp s.turn r.stamp).pushS .s 1 d
      r.w0 = s.modCur fun k => ((k.modEng fun e => { e with evq := rest, half := some r.w1 }.takeHeld).modRegs fun q =>
        { q with lclock := BitVec.ofNat 40 (stampRecv q.lclock.toNat r.stamp) }).push .s 1 (destS d) r.w0.toNat (ones 64) 0 :=
  (congrArg (fun t : State => t.modCur _) (s.modCur_modCur _ _)).trans (s.modCur_modCur _ _)

theorem Engines.takeHeld_none {e : Engines} (h : e.heldRecords = 0) : e.takeHeld = e := by
  have none_ : e.ops.filter (·.complete) = [] := List.length_eq_zero_iff.mp h
  simp only [Engines.takeHeld, none_, List.foldl_nil]

/-- What a trap asks for (R283). -/
def State.trapFault (s : State) (code : Word16) : FaultInfo :=
  { code := 0, core := s.turn, slot := 0, addr := s.cur.seq.pc, safe := s.cur.seq.bsafe, trap := code.toNat }

theorem exec_trap {s : State} {g : Guard} (hg : s.cur.on g = true) (code : Word16) : exec (.trap g code) s =
    .next (if s.cur.seq.inBundle then s.setCore s.turn { s.cur with seq := { s.cur.seq with
        trapped := s.trapFault code :: s.cur.seq.trapped } }
      else s.takeFault (s.trapFault code)) := by
  simp only [exec, execTrap, hg, Bool.not_true, Bool.false_eq_true, if_false]
  rfl

/-- Settles O9: the registers one by one, then traps and halts, then the pops. -/
theorem systemRegistersTrapsAndHalts : Obligations.SystemRegistersTrapsAndHalts := by
  unfold Obligations.SystemRegistersTrapsAndHalts
  refine ⟨fun g d a s hg => ?_, fun g code s hg => ?_, fun g d s hg => ?_⟩
  · intro v out regs
    refine ⟨exec_sysr hg d (r := .hwcfg) rfl, exec_sysr hg d (r := .fpc) rfl, exec_sysr hg d (r := .fstat) rfl,
      exec_sysr hg d (r := .frontier) rfl, exec_sysr hg d (r := .waitlim) rfl, exec_sysr hg d (r := .driftlim) rfl,
      exec_sysr hg d (r := .donemask) rfl, exec_sysr hg d (r := .lclock) rfl, fun t k hc ht => ?_, fun h => ?_, fun h => ?_, fun h1 h2 hr => ?_, fun h hr => ?_,
      fun num hn => ?_, fun num hn => ?_, fun h => ?_, fun h => ?_, fun h => ?_, fun h => ?_⟩
    · have task := State.taskOf_eq (c := s.turn) hc ht
      have stage := State.stageOf_eq task
      refine ⟨(exec_sysr hg d (r := .teamid) rfl).trans ?_, (exec_sysr hg d (r := .mbt) rfl).trans ?_,
        (exec_sysr hg d (r := .tsk) rfl).trans ?_, (exec_sysr hg d (r := .budget) rfl).trans ?_⟩
      · simp only [State.sysRead, State.teamid, stage, clusterOf, out]
      · simp only [State.sysRead, task, out]
      · simp only [State.sysRead, task, out]
      · simp only [State.sysRead, task, out]
    · exact exec_sysw hg a (r := .waitlim) rfl (by rw [sysWriteFault_waitlim]; exact if_neg (Nat.not_le.mpr h))
    · exact exec_sysw hg a (r := .driftlim) rfl (by rw [sysWriteFault_driftlim]; exact if_neg (Nat.not_lt.mpr h))
    · refine ⟨writeFpc s.cur.regs.fpc v 0, ?_, fun i hi => writeFpc_mode _ v hi, fun i h8 hi => writeFpc_sticky _ v h8 hi⟩
      rw [exec_sysw hg a (r := .fpc) rfl (by rw [sysWriteFault_fpc]; exact if_neg (not_or.mpr ⟨Nat.not_le.mpr h1, not_not.mpr h2⟩)), State.modCur_eq]
      simp only [Core.sysWrite, hr]
      rfl
    · refine ⟨writeFstat s.cur.regs.fstat v 0, ?_, fun i hi => writeFstat_sticky _ v hi⟩
      rw [exec_sysw hg a (r := .fstat) rfl (by rw [sysWriteFault_fstat]; exact if_neg (Nat.not_le.mpr h)), State.modCur_eq]
      simp only [Core.sysWrite, hr]
      rfl
    · simp only [List.mem_cons, List.not_mem_nil, or_false] at hn
      obtain rfl | rfl | rfl | rfl | rfl | rfl | rfl | rfl := hn <;> exact exec_sysw_refused hg a rfl rfl
    · exact ⟨exec_sysr_unknown hg d (sysReg?_eq_none hn), exec_sysw_unknown hg a (sysReg?_eq_none hn)⟩
    · exact exec_sysw_refused hg a (r := .waitlim) rfl (by rw [sysWriteFault_waitlim]; exact if_pos h)
    · exact exec_sysw_refused hg a (r := .fpc) rfl (by rw [sysWriteFault_fpc]; exact if_pos h)
    · exact exec_sysw_refused hg a (r := .fstat) rfl (by rw [sysWriteFault_fstat]; exact if_pos h)
    · exact exec_sysw_refused hg a (r := .driftlim) rfl (by rw [sysWriteFault_driftlim]; exact if_pos h)
  · refine ⟨fun hb => ?_, fun t k hb hc ht => ?_, ?_, fun hh hf ht => ?_⟩
    · rw [exec_trap hg, if_pos hb]
      rfl
    · have here : (s.core (s.trapFault code).core).task = some t := hc
      rw [exec_trap hg, if_neg (by rw [hb]; decide)]
      cases hs : s.speculative s.turn with
      | false =>
        rw [State.takeFault_delivered here (.inl hs), State.deliverFault_trap _ _ _ rfl]
        exact ⟨_, _, rfl, State.raiseEvent_event ht _, fun _ => rfl, fun h => absurd h (by decide)⟩
      | true =>
        rw [State.takeFault_deferred here hs rfl, State.modTask_some ht]
        refine ⟨_, _, rfl, State.task?_setTask_same _ _ _, fun h => absurd h (by decide), fun _ hd => ?_⟩
        rw [hd]
        exact ⟨rfl, rfl⟩
    · simp only [exec, execHalt, hg, if_true]
      rfl
    · rw [State.finishBundle_cur hf ht]
      simp [Core.nextBundle, hh]
  · refine ⟨fun hh he => ?_, fun w hh => ?_, fun r rest hh he hr hz => ?_⟩
    · simp only [exec, execEvpop, hg, hh, he, Bool.not_true, Bool.false_eq_true, if_false]
      rfl
    · simp only [exec, execEvpop, hg, hh, Bool.not_true, Bool.false_eq_true, if_false]
      rfl
    · simp only [exec, execEvpop, hg, hh, he, hr, Bool.not_true, Bool.false_eq_true, if_false]
      refine ⟨_, congrArg Host.Outcome.next (s.popRecord_eq r rest d), ?_⟩
      rw [State.cur_modCur]
      have held : ({ s.cur.eng with evq := rest, half := some r.w1 } : Engines).takeHeld = _ := Engines.takeHeld_none hz
      simp only [Core.push_eng, Core.push_regs, Core.push_flight, Core.push_sp, Core.modEng, Core.modRegs, held]
      simp only [true_and, State.cur_gains]
      exact ⟨rfl, rfl, fun c hc => State.core_modCur_other s _ hc⟩

end Sys2Proof.Machine
end

section
/-!
PROOFS. The pin of an overlay (R286) in a program whose table names one overlay twice.
-/
namespace Sys2Proof.Machine

/-- A program whose table holds overlay 1 twice, in frame 0 and in frame 1. The model counts both frames as the overlay's; the
statement counts the first entry's alone. -/
def doubleOverlay : Program := { overlays := [(1, { frame := 0, lines := 1 }), (1, { frame := 1, lines := 1 })] }

/-- A machine in which core 0 runs that program, with overlay 1 in its register s1 and no pin. -/
def doubleOverlayState : State :=
  { cores := [(0, { task := some 0, regs := { s := [(1, 0x10000)] } })]
    tasks := [(0, { stage := 0, pasid := 0, kind := .f, tag := 0, key := {}, budget := 1, full := 1 })]
    stages := [(0, { valid := true, prog := some doubleOverlay })] }

theorem doubleOverlayState_refuses :
    exec (.ipin .always (.reg 1)) doubleOverlayState = .next (doubleOverlayState.issueFault .s 0x0F) := rfl

/-- Refutes O10: with an overlay that the program's table names twice, in two frames, the pin of that overlay would leave no frame
without a pin, and is refused; the statement takes the frame of the first entry alone for pinned, and calls for the pin. -/
theorem not_overlaysComeAndStay : ¬ Obligations.OverlaysComeAndStay := by
  intro h
  obtain ⟨-, pins, -⟩ := h
  obtain ⟨pinned, -⟩ := pins .always (.reg 1) 0 { frame := 0, lines := 1 } doubleOverlayState rfl rfl rfl (by decide) rfl
  obtain ⟨t, ht, mem, -⟩ := pinned ⟨(1, { frame := 1, lines := 1 }), by decide, by decide⟩
  rw [doubleOverlayState_refuses] at ht
  obtain rfl := Host.Outcome.next.inj ht
  exact absurd mem (by decide)

end Sys2Proof.Machine
end

section
/-!
PROOFS. Rewind points and markers (R277, R365, R386 to R392).
-/
namespace Sys2Proof.Machine

/-! ### Segment entries (R277, R365) -/

/-- The end of a segment marks what is on its way, and leaves the cores' state of execution and the memories. -/
structure ClosedSegment (s : State) (c : Nat) (t : State) : Prop where
  seq : (t.core c).seq = (s.core c).seq
  regs : (t.core c).regs = (s.core c).regs
  arr : (t.core c).arr = (s.core c).arr
  ys : (t.core c).ys = (s.core c).ys
  sp : (t.core c).sp = (s.core c).sp
  task : (t.core c).task = (s.core c).task
  rps : (t.core c).rcv.rps = (s.core c).rcv.rps
  seen : (t.core c).rcv.seen = (s.core c).rcv.seen
  spawnSeq : (t.core c).eng.spawnSeq = (s.core c).eng.spawnSeq
  others : ∀ d, d ≠ c → t.core d = s.core d
  budget : (t.taskOf c).map (·.budget) = (s.taskOf c).map (·.budget)
  turn : t.turn = s.turn
  cycle : t.cycle = s.cycle
  pmem : t.pmem = s.pmem
  xs : t.xs = s.xs

theorem State.closeSegment_closed (s : State) (c : Nat) : ClosedSegment s c (s.closeSegment c) := by
  unfold State.closeSegment
  extract_lets seg at_ end_ mark s1 s2 s3 s4 s5
  have cores3 : s3.cores = s.cores := by
    dsimp only [s3]
    split
    · exact State.modTask_cores _ _ _
    · rfl
  have rest3 : s3.turn = s.turn ∧ s3.cycle = s.cycle ∧ s3.pmem = s.pmem ∧ s3.xs = s.xs := by
    dsimp only [s3]
    split
    · exact ⟨State.modTask_turn _ _ _, State.modTask_cycle _ _ _, State.modTask_pmem _ _ _, State.modTask_xs _ _ _⟩
    · exact ⟨rfl, rfl, rfl, rfl⟩
  have budget3 : ((s.core c).task.bind s3.task?).map (·.budget) = (s.taskOf c).map (·.budget) := by
    rw [State.taskOf]
    dsimp only [s3]
    cases ht : (s.core c).task with
    | none => rfl
    | some t =>
      change ((s2.modTask t fun x => { x with wlog := x.wlog.map end_ }).task? t).map (·.budget) = (s.task? t).map (·.budget)
      cases hk : s.task? t with
      | none => rw [State.modTask_none (s := s2) hk, show s2.task? t = none from hk]
      | some k => rw [State.modTask_some (s := s2) hk, State.task?_setTask_same]; rfl
  have core3 : ∀ d, s3.core d = s.core d := fun d => by rw [State.core, cores3, State.core]
  have core4 : s4.core c = (s3.core c).modRcv _ := State.core_modCore_same s3 c _
  have core5 : ∀ d, s5.core d = s4.core d := fun _ => rfl
  have final : ∀ f : Engines → Engines, (s5.modCore c fun k => k.modEng f).core c = (s4.core c).modEng f := fun f =>
    (State.core_modCore_same s5 c _).trans (congrArg (fun k : Core => k.modEng f) (core5 c))
  constructor
  case others =>
    intro d hd
    rw [State.core_modCore_other _ _ hd, core5]
    exact (State.core_modCore_other s3 _ hd).trans (core3 d)
  case turn => exact rest3.1
  case cycle => exact rest3.2.1
  case pmem => exact rest3.2.2.1
  case xs => exact rest3.2.2.2
  case budget =>
    rw [State.taskOf, final, core4, core3]
    exact budget3
  all_goals rw [final, core4, core3]; rfl

/-- R365: the rewind point holds what stands at its taking. -/
theorem State.takePoint_core (s : State) (c : Nat) : (s.takePoint c).core c = ((s.closeSegment c).core c).modRcv fun r =>
    { r with
      rps := (s.closeSegment c).checkpoint c ((s.core c).rcv.seg + 1) ::
        (r.rps.take 1).map fun p => { p with freedAt := some (s.cycle + 1404) },
      seg := (s.core c).rcv.seg + 1, segStart := s.cycle, fresh := true, seen := [], prevSeen := r.seen,
      prevClear := s.cycle + 1404, deps := [],
      undo := r.undo.filter fun u => decide ((s.core c).rcv.seg + 1 ≤ u.1 + 1),
      engws := r.engws.filter fun u => decide ((s.core c).rcv.seg + 1 ≤ u.1 + 1) } :=
  State.core_modCore_same _ _ _

theorem exec_segBundle_taken {s : State} (hr : s.cur.rcv.rerun = none) (hf : s.cur.rcv.fresh = false) :
    exec .segBundle s = .next (s.takePoint s.turn) := by
  simp only [exec, execSegBundle, hr, hf, Bool.false_eq_true, if_false]

/-! ### The log's pairs (R386, R387) -/

theorem State.logPair_cores (s : State) (e st : Word64) (o : Option (Nat × Nat)) : (s.logPair e st o).cores = s.cores := by
  rw [State.logPair_eq]

theorem State.logPair_room {s : State} (e st : Word64) (o : Option (Nat × Nat)) (h : 2 * s.host.log.length + 2 ≤ 65536)
    (hd : s.host.dropped = 0) : ∃ at_, (s.logPair e st o).host.log = s.host.log ++
      [{ event := e, stamp := st, readableAt := at_, by' := o }] := by
  unfold State.logPair
  dsimp only
  rw [if_neg (by simp only [Config.logUnits]; omega), if_pos hd]
  exact ⟨_, rfl⟩

theorem State.logPair_full {s : State} (e st : Word64) (o : Option (Nat × Nat)) (h : 65536 < 2 * s.host.log.length + 2) :
    (s.logPair e st o).host.log = s.host.log ∧ (s.logPair e st o).host.dropped = s.host.dropped + 1 := by
  unfold State.logPair
  dsimp only
  rw [if_pos (by simp only [Config.logUnits]; omega)]
  exact ⟨rfl, rfl⟩

theorem State.logCore_frame (s : State) (kind c slot : Nat) (a : CodeAddr) (d : Nat) (x : Bool) :
    s.logCore kind c slot a d x = { s with host := (s.logCore kind c slot a d x).host } := by
  rw [State.logCore, State.logPair_eq]

theorem State.logCore_cur (s : State) (kind c slot : Nat) (a : CodeAddr) (d : Nat) (x : Bool) :
    (s.logCore kind c slot a d x).cur = s.cur := by
  rw [State.logCore_frame]
  rfl

/-- The fields of a core's record, one above the other (R386). -/
theorem logWord_toNat {kind core slot addr data : Nat} (hk : kind < 16) (hc : core < 256) (hs : slot < 16) (ha : addr < 2 ^ 22)
    (hd : data < 2 ^ 26) : (logWord kind core slot addr data).toNat =
      kind * 2 ^ 60 + core * 2 ^ 52 + slot * 2 ^ 48 + addr * 2 ^ 26 + data := by
  rw [logWord, BitVec.toNat_ofNat, Nat.mod_eq_of_lt hd, Nat.mod_eq_of_lt (by omega)]

/-! ### Markers (R389, R390, R392) -/

theorem saturate_eq (x m : Int) (hm : 0 ≤ m) : saturate x m = max (-m) (min m x) := by
  unfold saturate
  split
  · omega
  · split <;> omega

/-- The drift in its record. -/
theorem driftField_eq (d : Int) : (saturate d (2 ^ 25 - 1) % 2 ^ 26).toNat = driftField d := by
  rw [saturate_eq _ _ (by norm_num)]
  rfl

theorem driftField_lt (d : Int) : driftField d < 2 ^ 26 := by
  unfold driftField
  omega

/-- The state once a marker has logged its drift. -/
def State.driftLogged (s : State) (e : Word32) : State :=
  s.logCore 2 s.turn 15 s.cur.seq.pc (driftField ((s.cur.seq.cyc : Int) - e.toNat)) true

/-- A marker's threshold and its trace length. -/
theorem exec_markerBundle {s : State} (hr : s.cur.rcv.rerun = none) (e : Word32) : exec (.markerBundle e) s = .next
    (if s.cur.regs.driftlim.toNat % 2 ^ 16 < ((s.cur.seq.cyc : Int) - e.toNat).natAbs ∧
        s.cur.regs.driftlim.toNat / 2 ^ 16 % 2 ^ 20 ≠ 0 then
      if s.cur.regs.driftlim.toNat.testBit 63 then
        (((s.driftLogged e).modCur fun q => q.modSeq fun v =>
          { v with traceLeft := s.cur.regs.driftlim.toNat / 2 ^ 16 % 2 ^ 20, armed := true }).logCore 4 s.turn 15 s.cur.seq.pc 0 true).modCur
            fun q => q.modSeq fun v => { v with trapped := [{ code := 0, core := s.turn, slot := 15, addr := v.pc, trap := 0xFFF0 }] }
      else (s.driftLogged e).modCur fun q => q.modSeq fun v =>
          { v with traceLeft := s.cur.regs.driftlim.toNat / 2 ^ 16 % 2 ^ 20, armed := true }
    else s.driftLogged e) := by
  have long : (decide (s.cur.regs.driftlim.toNat % 2 ^ 16 < ((s.cur.seq.cyc : Int) - e.toNat).natAbs) &&
      s.cur.regs.driftlim.toNat / 2 ^ 16 % 2 ^ 20 != 0) = true ↔
      s.cur.regs.driftlim.toNat % 2 ^ 16 < ((s.cur.seq.cyc : Int) - e.toNat).natAbs ∧
        s.cur.regs.driftlim.toNat / 2 ^ 16 % 2 ^ 20 ≠ 0 := by simp
  simp only [exec, execMarkerBundle, hr, Option.isSome_none, Bool.false_eq_true, if_false, driftField_eq, bits, pow_zero, Nat.div_one,
    bitAt_eq_testBit, long]
  split
  · split <;> rfl
  · rfl

/-- Settles O11. -/
theorem segmentsAndMarkers : Obligations.SegmentsAndMarkers := by
  unfold Obligations.SegmentsAndMarkers
  refine ⟨fun s hr => ⟨fun hf => ?_, fun hf => ?_⟩, fun c s => ?_, fun e s hturn => ⟨fun hr => ?_, fun hr => ?_⟩, fun e s hr => ?_⟩
  · simp only [exec, execSegBundle, hf, if_true]
  · have closed := s.closeSegment_closed s.turn
    have turn : (s.takePoint s.turn).turn = s.turn := closed.turn
    have cur : (s.takePoint s.turn).cur = (s.takePoint s.turn).core s.turn := by rw [State.cur, turn]
    refine ⟨_, (s.closeSegment s.turn).checkpoint s.turn (s.cur.rcv.seg + 1), exec_segBundle_taken hr hf, ?_⟩
    rw [cur, State.takePoint_core]
    refine ⟨rfl, congrArg Seq.pc closed.seq, congrArg Seq.loops closed.seq, congrArg Seq.stream closed.seq,
      congrArg Regs.fpc closed.regs, congrArg Regs.fstat closed.regs, congrArg Regs.e closed.regs, closed.arr, closed.ys,
      congrArg Seq.cyc closed.seq, closed.spawnSeq, closed.cycle, fun t k hc ht => ?_, fun old ho => ?_, rfl, rfl, rfl, rfl, closed.seen,
      closed.regs, closed.seq, closed.sp, fun d hd => ?_, closed.pmem, closed.xs⟩
    · change (((s.closeSegment s.turn).taskOf s.turn).map (·.budget)).getD 0 = k.budget
      rw [closed.budget, State.taskOf_eq hc ht]
      rfl
    · have one : ((s.closeSegment s.turn).core s.turn).rcv.rps.take 1 = [old] := by
        rw [closed.rps]
        cases h : (s.core s.turn).rcv.rps with
        | nil => exact absurd (ho.symm.trans (congrArg List.head? h)) (by simp)
        | cons p rest => rw [show p = old from Option.some.inj ((congrArg List.head? h).symm.trans ho)]; rfl
      exact congrArg (fun l : List RewindPoint => (s.closeSegment s.turn).checkpoint s.turn (s.cur.rcv.seg + 1) ::
        l.map fun p => { p with freedAt := some (s.cycle + 1404) }) one
    · exact (State.core_modCore_other _ _ hd).trans (closed.others d hd)
  · refine ⟨_, rfl, fun p => ?_, ?_, ?_, fun d hd => State.core_modCore_other s _ hd, rfl, rfl⟩
    · rw [State.core_modCore_same]
      simp only [Core.modRcv, List.mem_filter]
      cases p.freedAt with
      | none => simp
      | some f => simp
    · rw [State.core_modCore_same]; rfl
    · rw [State.core_modCore_same]; rfl
  · cases h : s.cur.rcv.rerun with
    | none => exact absurd h hr
    | some r => simp only [exec, execMarkerBundle, h, Option.isSome_some, if_true]
  · intro d lim hlim
    rw [exec_markerBundle hr, if_neg (by rintro ⟨h1, h2⟩; exact hlim.elim (Nat.not_le.mpr h1) h2)]
    refine ⟨_, rfl, ?_, ?_, ?_, fun hroom hd => ?_, fun hfull => ?_⟩
    · rw [State.driftLogged, State.logCore_frame]
    · rw [State.driftLogged, State.logCore_frame]
    · rw [State.driftLogged, State.logCore_frame]
    · obtain ⟨at_, hlog⟩ := State.logPair_room _ _ _ hroom hd
      refine ⟨_, hlog, ?_⟩
      exact logWord_toNat (by decide) (by omega) (by decide) (BitVec.isLt _) (driftField_lt _)
    · exact State.logPair_full _ _ _ hfull
  · intro d lim hd hlen
    rw [exec_markerBundle hr, if_pos ⟨hd, hlen⟩]
    have logged : (s.driftLogged e).cur = s.cur ∧ (s.driftLogged e).turn = s.turn := by
      rw [State.driftLogged, State.logCore_frame]
      exact ⟨rfl, rfl⟩
    have cur2 : ((s.driftLogged e).modCur fun q => q.modSeq fun v => { v with traceLeft := lim / 2 ^ 16 % 2 ^ 20, armed := true }).cur =
        s.cur.modSeq fun v => { v with traceLeft := lim / 2 ^ 16 % 2 ^ 20, armed := true } := by
      rw [State.cur_modCur, logged.1]
    cases hb : s.cur.regs.driftlim.toNat.testBit 63 with
    | false =>
      refine ⟨_, rfl, ?_⟩
      rw [if_neg (by decide), cur2]
      exact ⟨rfl, rfl, fun _ => rfl, fun h => absurd (hb.symm.trans h) (by decide)⟩
    | true =>
      refine ⟨_, rfl, ?_⟩
      rw [if_pos rfl, State.cur_modCur, State.logCore_cur, cur2]
      exact ⟨rfl, rfl, fun h => absurd (hb.symm.trans h) (by decide), fun _ => rfl⟩

end Sys2Proof.Machine
end

section
/-!
PROOFS. Results that land (R41, R44, R46, R48 to R50, R371): a lone result by its destination, and two for one register by what
prevails.
-/
namespace Sys2Proof.Machine

/-! ### Masked bits -/

theorem mergeBits_testBit (old v mask i : Nat) :
    (mergeBits old v mask).testBit i = if mask.testBit i then v.testBit i else old.testBit i := by
  simp only [mergeBits, Nat.testBit_or, Nat.testBit_xor, Nat.testBit_and]
  cases old.testBit i <;> cases v.testBit i <;> cases mask.testBit i <;> rfl

theorem mergeBits_getLsbD {w i : Nat} (hi : i < w) (old v mask : Nat) :
    (BitVec.ofNat w (mergeBits old v mask)).getLsbD i = if mask.testBit i then v.testBit i else old.testBit i := by
  rw [BitVec.getLsbD_ofNat, mergeBits_testBit, decide_eq_true hi, Bool.true_and]

/-- One predicate's bit replaced. -/
theorem setPredicate_getLsbD (p : Word16) (b : Nat) {n : Nat} (hn : n < 16) (hb : b < 2) (m : Nat) :
    (BitVec.ofNat 16 (mergeBits p.toNat (b * 2 ^ n) (2 ^ n))).getLsbD m = if m = n then decide (b = 1) else p.getLsbD m := by
  by_cases hm : m < 16
  · rw [mergeBits_getLsbD hm, Nat.testBit_two_pow]
    by_cases h : m = n
    · subst h
      have bit : (b * 2 ^ m).testBit m = decide (b = 1) := by
        rw [Nat.mul_comm, Nat.testBit_two_pow_mul]
        simp [Nat.testBit_zero]
        omega
      simp [bit]
    · simp [h, Ne.symm h, BitVec.getLsbD]
  · rw [BitVec.getLsbD_of_ge _ _ (by omega), BitVec.getLsbD_of_ge p _ (by omega)]
    rw [if_neg (by omega)]

/-! ### What lands (R46) -/

/-- What a core is once its due results have left its flight, and before they land. -/
def Core.leaveFlight (k : Core) : Core :=
  k.modSeq fun q => { q with flight := q.flight.filter fun r => !decide (r.due ≤ k.seq.stream),
                             raised := if q.reissue then q.raised else 0, raisedStat := if q.reissue then q.raisedStat else 0 }

theorem Core.landDue_eq (k : Core) (cycle cid : Nat) : k.landDue cycle cid =
    (number 0 (issueOrder (k.seq.flight.filter fun r => decide (r.due ≤ k.seq.stream)))).foldl
      (fun q x => landOne cycle cid q x.2
        (fateOf (number 0 (issueOrder (k.seq.flight.filter fun r => decide (r.due ≤ k.seq.stream)))) x.1 x.2)) k.leaveFlight := rfl

theorem exec_resultLanding (s : State) :
    exec .resultLanding s = .next (s.setCore s.turn (s.cur.landDue s.cycle s.turn)) := rfl

theorem fateOf_lone (x : Result) : fateOf [(0, x)] 0 x = .file := by
  simp [fateOf]

/-- A lone due result lands in its file. -/
theorem Core.landDue_lone {k : Core} {x : Result} (hf : k.seq.flight = [x]) (hd : x.due ≤ k.seq.stream) (cycle cid : Nat) :
    k.landDue cycle cid = landOne cycle cid k.leaveFlight x .file := by
  rw [Core.landDue_eq, hf]
  simp only [List.filter_cons, hd, decide_true, if_true, List.filter_nil, issueOrder, List.foldl_cons, List.foldl_nil, insertIssue,
    number, fateOf_lone]

theorem Core.leaveFlight_lone {k : Core} {x : Result} (hf : k.seq.flight = [x]) (hd : x.due ≤ k.seq.stream) :
    k.leaveFlight.seq.flight = [] := by
  simp [Core.leaveFlight, Core.modSeq, hf, hd]

theorem raiseFpc_zero (v : Word64) : raiseFpc v 0 = v := by simp [raiseFpc]

theorem Core.sigLand_idle {k : Core} (h : k.rcv.rerun = none) (x : Result) (b : Bool) : k.sigLand x b = k := by
  unfold Core.sigLand
  split
  · simp only [Core.sigNote, h]
  · rfl

theorem Regs.land_fpc (r : Regs) (x : Result) (b : Bool) : (r.land x b).fpc = r.fpc := by
  unfold Regs.land
  split <;> rfl

theorem Regs.land_fstat (r : Regs) (x : Result) (b : Bool) : (r.land x b).fstat = r.fstat := by
  unfold Regs.land
  split <;> rfl

/-- A destination in the register files or their latches. -/
def Dest.inRegs : Dest → Bool
  | .zm | .sp _ => false
  | _ => true

/-- A clean result without flags that lands in a core outside a rerun changes the registers, by `Regs.land`. -/
theorem landOne_clean {k : Core} {x : Result} {fate : Fate} (hx : x.dest.inRegs = true) (hb : x.bad = false) (hf : x.flags = 0)
    (hr : k.rcv.rerun = none) (hd : fate ≠ .discarded) (cycle cid : Nat) :
    landOne cycle cid k x fate = { k with regs := k.regs.land x (fate == .file) } := by
  have quiet : (k.modSeq fun q => { q with raised := q.raised ||| x.flags }) = k := by
    rw [hf]
    simp [Core.modSeq]
  have regs : ∀ r : Regs, { r.land x (fate == .file) with fpc := raiseFpc r.fpc x.flags } = r.land x (fate == .file) := by
    intro r
    rw [hf, raiseFpc_zero, ← Regs.land_fpc r x (fate == .file)]
  unfold landOne
  dsimp only
  rw [quiet, hb]
  simp only [Bool.false_eq_true, if_false]
  split
  next => exact absurd rfl hd
  next h => rw [h] at hx; exact absurd hx (by decide)
  next h => rw [h] at hx; exact absurd hx (by simp [Dest.inRegs])
  next =>
    rw [Core.sigLand_idle hr, Core.modRegs, regs]

theorem landOne_discarded {k : Core} {x : Result} (hb : x.bad = false) (cycle cid : Nat) :
    landOne cycle cid k x .discarded =
      (k.modRegs fun r => { r with fstat := setColl r.fstat }).modSeq fun q => { q with raisedStat := q.raisedStat ||| 1 } := by
  unfold landOne
  simp only [hb, Bool.false_eq_true, if_false]

theorem landOne_bad {k : Core} {x : Result} (hb : x.bad = true) (fate : Fate) (cycle cid : Nat) :
    landOne cycle cid k x fate = k.modSeq fun q => { q with
      efault := some { code := 0x0C, core := cid, slot := x.slot.num, addr := q.pc, atExec := true, safe := q.inBundle && q.bsafe } } := by
  unfold landOne
  simp only [hb, if_true]

theorem landOne_zm {k : Core} {x : Result} (hx : x.dest = .zm) (hb : x.bad = false) (hf : x.flags = 0) (cycle cid : Nat) :
    landOne cycle cid k x .file = k.modArr fun a => { a with zm := BitVec.ofNat 96 x.val, blockMode := bitAt x.val 96 } := by
  unfold landOne
  simp only [hb, hx, hf, Bool.false_eq_true, if_false, Nat.or_zero]
  rfl

/-! ### The lone result by its destination -/

theorem Core.readSReg_put (k : Core) (r : Regs) (n : Nat) (v : Word64) (hs : r.s = if n != 0 then Table.put k.regs.s n v else k.regs.s)
    (q : Nat) : ({ k with regs := r } : Core).readSReg q = if q = 0 then 0 else if q = n then v else k.readSReg q := by
  unfold Core.readSReg
  dsimp only
  rw [hs]
  by_cases hq : q = 0
  · simp [hq]
  · rw [if_neg hq, if_neg hq, if_neg hq]
    by_cases hn : n = 0
    · subst hn
      rw [if_neg hq]
      rfl
    · rw [if_pos (by simpa using hn)]
      by_cases h : q = n
      · subst h
        rw [if_pos rfl, Table.get_put_same]
      · rw [if_neg h, Table.get_put_other _ _ _ h]

/-- A lone due result that is clean and has no flags: the registers take it, and the flight is empty. -/
theorem exec_resultLanding_lone {s : State} {x : Result} (hf : s.cur.seq.flight = [x]) (hd : x.due ≤ s.cur.seq.stream)
    (hfl : x.flags = 0) (hb : x.bad = false) (hr : s.cur.rcv.rerun = none) (hx : x.dest.inRegs = true) :
    exec .resultLanding s =
      .next (s.setCore s.turn { s.cur.leaveFlight with regs := s.cur.regs.land x true }) := by
  have clean := landOne_clean (k := s.cur.leaveFlight) (fate := .file) hx hb hfl hr (by decide) s.cycle s.turn
  rw [exec_resultLanding, Core.landDue_lone hf hd, clean]
  rfl

/-- The lane masks and vectors take the bits of their mask (R46). -/
theorem Table.put_merged {w : Nat} (t : Table (BitVec w)) (n v mask i : Nat) (hi : i < w) :
    (Table.get (Table.put t n (BitVec.ofNat w (mergeBits (Table.get t 0 n).toNat v mask))) 0 n).getLsbD i =
      if mask.testBit i then v.testBit i else (Table.get t 0 n).toNat.testBit i := by
  rw [Table.get_put_same, mergeBits_getLsbD hi]

/-! ### Two results for one register (R48 to R50) -/

theorem issueOrder_pair (a b : Result) : issueOrder [a, b] = [a, b] ∨ issueOrder [a, b] = [b, a] := by
  simp only [issueOrder, List.foldl_cons, List.foldl_nil, insertIssue]
  split
  · exact .inr rfl
  · exact .inl rfl

/-- The later of two results lands behind the earlier one. -/
theorem issueOrder_later {a b : Result} (h : a.issued < b.issued) : issueOrder [a, b] = [a, b] ∧ issueOrder [b, a] = [a, b] := by
  have not_ : ¬ (b.issued < a.issued ∨ (b.issued = a.issued ∧ b.slot.num < a.slot.num)) := by omega
  simp [issueOrder, insertIssue, h]
  omega

/-- What prevails over a result from another slot sends that one away and lands in the file itself. -/
theorem fateOf_pair {w l : Result} (hd : w.dest = l.dest) (hc : collides w.dest = true) (hs : w.slot ≠ l.slot)
    (hp : ∀ b, prevails w l b = true) (hq : ∀ b, prevails l w b = false) :
    fateOf [(0, w), (1, l)] 0 w = .file ∧ fateOf [(0, w), (1, l)] 1 l = .discarded ∧
    fateOf [(0, l), (1, w)] 0 l = .discarded ∧ fateOf [(0, l), (1, w)] 1 w = .file := by
  have hc' : collides l.dest = true := hd ▸ hc
  simp [fateOf, hd, hc', hp, hq, hs, hs.symm]

/-- Of two results of one slot the later takes the file, and the earlier passes through the latch. -/
theorem fateOf_sameSlot {w l : Result} (hd : w.dest = l.dest) (hc : collides w.dest = true) (hs : w.slot = l.slot) :
    fateOf [(0, l), (1, w)] 0 l = .bypass ∧ fateOf [(0, l), (1, w)] 1 w = .file := by
  have hc' : collides l.dest = true := hd ▸ hc
  simp [fateOf, hd, hc', hs]

theorem prevails_of_order {w l : Result} (hd : w.dest = l.dest)
    (h : (w.slot = owner w.dest ∧ l.slot ≠ owner w.dest) ∨
      (w.slot ≠ owner w.dest ∧ l.slot ≠ owner w.dest ∧ slotRank w.slot < slotRank l.slot)) :
    w.slot ≠ l.slot ∧ (∀ b, prevails w l b = true) ∧ ∀ b, prevails l w b = false := by
  obtain ⟨hw, hl⟩ | ⟨hw, hl, hlt⟩ := h
  · have ne : w.slot ≠ l.slot := fun he => hl (he ▸ hw)
    refine ⟨ne, fun b => ?_, fun b => ?_⟩
    · simp [prevails, hw, hl]
    · simp [prevails, ← hd, hw, hl]
  · have ne : w.slot ≠ l.slot := fun he => absurd hlt (by rw [he]; exact Nat.lt_irrefl _)
    refine ⟨ne, fun b => ?_, fun b => ?_⟩
    · simp [prevails, hw, hl, ne, hlt]
    · simp [prevails, ← hd, hw, hl, ne.symm, hlt.le]

theorem Dest.inRegs_of_collides : ∀ {d : Dest}, collides d = true → d.inRegs = true
  | .s _, _ | .p _, _ | .k _ _, _ | .v _ _, _ | .e _, _ | .la _, _ | .ta _, _ | .xa _, _ | .byS, _ | .byV _, _ => rfl
  | .zm, h | .sp _, h => h

theorem Core.sigLand_seq (k : Core) (x : Result) (b : Bool) : (k.sigLand x b).seq = k.seq := by
  unfold Core.sigLand
  split
  · unfold Core.sigNote
    split <;> rfl
  · rfl

theorem landOne_flight (cycle cid : Nat) (k : Core) (x : Result) (fate : Fate) :
    (landOne cycle cid k x fate).seq.flight = k.seq.flight := by
  unfold landOne
  dsimp only
  split
  · rfl
  · split
    · rfl
    · rfl
    · split <;> rfl
    · rw [Core.modRegs_seq, Core.sigLand_seq]
      rfl

/-- Landing takes what is due out of the flight, and nothing else. -/
theorem Core.landDue_flight (k : Core) (cycle cid : Nat) : (k.landDue cycle cid).seq.flight = k.leaveFlight.seq.flight := by
  rw [Core.landDue_eq]
  generalize number 0 _ = l
  generalize k.leaveFlight = q
  have walk : ∀ (m : List (Nat × Result)) (q : Core),
      (m.foldl (fun q x => landOne cycle cid q x.2 (fateOf l x.1 x.2)) q).seq.flight = q.seq.flight := by
    intro m
    induction m with
    | nil => exact fun _ => rfl
    | cons x m ih => exact fun q => (ih _).trans (landOne_flight _ _ _ _ _)
  exact walk l q

theorem Regs.land_withFstat (r : Regs) (f : Word64) (x : Result) (b : Bool) :
    ({ r with fstat := f }).land x b = { r.land x b with fstat := f } := by
  unfold Regs.land
  split <;> rfl

/-- The registers and the flight of a core in which one of two due results prevails. -/
theorem Core.landDue_collision {k : Core} {w l : Result} (hf : k.seq.flight = [w, l] ∨ k.seq.flight = [l, w]) (hd : w.dest = l.dest)
    (hc : collides w.dest = true) (hw : w.due ≤ k.seq.stream) (hl : l.due ≤ k.seq.stream) (hwf : w.flags = 0)
    (hwb : w.bad = false) (hlb : l.bad = false) (hr : k.rcv.rerun = none) (hs : w.slot ≠ l.slot)
    (hp : ∀ b, prevails w l b = true) (hq : ∀ b, prevails l w b = false) (cycle cid : Nat) :
    (k.landDue cycle cid).regs = { k.regs.land w true with fstat := k.regs.fstat ||| 1 } := by
  obtain ⟨wFile, lLost, lLost', wFile'⟩ := fateOf_pair hd hc hs hp hq
  have inRegs := Dest.inRegs_of_collides hc
  have due : k.seq.flight.filter (fun r => decide (r.due ≤ k.seq.stream)) = k.seq.flight := by
    rcases hf with h | h <;> simp [h, hw, hl]
  have landW : ∀ q : Core, q.rcv = k.rcv → landOne cycle cid q w .file = { q with regs := q.regs.land w true } := fun q h =>
    landOne_clean inRegs hwb hwf (by rw [h]; exact hr) (by decide) cycle cid
  have order : issueOrder k.seq.flight = [w, l] ∨ issueOrder k.seq.flight = [l, w] := by
    rcases hf with h | h
    · rw [h]; exact issueOrder_pair w l
    · rw [h]; exact (issueOrder_pair l w).symm
  rw [Core.landDue_eq, due]
  rcases order with h | h
  · rw [h]
    simp only [number, List.foldl_cons, List.foldl_nil, wFile, lLost, landOne_discarded hlb]
    rw [landW k.leaveFlight rfl]
    change { k.regs.land w true with fstat := setColl (k.regs.land w true).fstat } = _
    rw [Regs.land_fstat]
    rfl
  · rw [h]
    simp only [number, List.foldl_cons, List.foldl_nil, wFile', lLost', landOne_discarded hlb]
    rw [landW]
    · exact Regs.land_withFstat _ _ _ _
    · rfl

/-- Both of two results of one slot enter the latch, the earlier first. -/
theorem Core.landDue_sameSlot {k : Core} {w l : Result} (hf : k.seq.flight = [w, l] ∨ k.seq.flight = [l, w]) (hd : w.dest = l.dest)
    (hc : collides w.dest = true) (hw : w.due ≤ k.seq.stream) (hl : l.due ≤ k.seq.stream) (hwf : w.flags = 0) (hlf : l.flags = 0)
    (hwb : w.bad = false) (hlb : l.bad = false) (hr : k.rcv.rerun = none) (hs : w.slot = l.slot) (hi : l.issued < w.issued)
    (cycle cid : Nat) : (k.landDue cycle cid).regs = (k.regs.land l false).land w true := by
  obtain ⟨lBypass, wFile⟩ := fateOf_sameSlot hd hc hs
  have inRegs := Dest.inRegs_of_collides hc
  have due : k.seq.flight.filter (fun r => decide (r.due ≤ k.seq.stream)) = k.seq.flight := by
    rcases hf with h | h <;> simp [h, hw, hl]
  have order : issueOrder k.seq.flight = [l, w] := by
    rcases hf with h | h
    · rw [h]; exact (issueOrder_later hi).2
    · rw [h]; exact (issueOrder_later hi).1
  rw [Core.landDue_eq, due, order]
  simp only [number, List.foldl_cons, List.foldl_nil, lBypass, wFile]
  have landL := landOne_clean (k := k.leaveFlight) (fate := .bypass) (hd ▸ inRegs) hlb hlf hr (by decide) cycle cid
  have landW : ∀ q : Core, q.rcv = k.rcv → landOne cycle cid q w .file = { q with regs := q.regs.land w true } := fun q h =>
    landOne_clean inRegs hwb hwf (by rw [h]; exact hr) (by decide) cycle cid
  rw [landL, landW]
  · rfl
  · rfl

/-- With nothing due the core keeps all but the flags raised in the bundle before. -/
theorem Core.landDue_none {k : Core} (h : ∀ x ∈ k.seq.flight, k.seq.stream < x.due) (cycle cid : Nat) :
    k.landDue cycle cid = k.leaveFlight ∧ k.leaveFlight.seq.flight = k.seq.flight := by
  have due : k.seq.flight.filter (fun r => decide (r.due ≤ k.seq.stream)) = [] :=
    List.filter_eq_nil_iff.mpr fun x hx => by simpa using h x hx
  refine ⟨?_, List.filter_eq_self.mpr fun x hx => by simpa using h x hx⟩
  rw [Core.landDue_eq, due]
  rfl

theorem Core.landDue_lone_regs {k : Core} {x : Result} (hf : k.seq.flight = [x]) (hd : x.due ≤ k.seq.stream) (hfl : x.flags = 0)
    (hb : x.bad = false) (hr : k.rcv.rerun = none) (hx : x.dest.inRegs = true) (cycle cid : Nat) :
    (k.landDue cycle cid).regs = k.regs.land x true := by
  rw [Core.landDue_lone hf hd, landOne_clean (k := k.leaveFlight) hx hb hfl hr (by decide)]
  rfl

/-- Settles O6: a result alone by its destination, and a pair by what prevails. -/
theorem resultsLandInTheirBundle : Obligations.ResultsLandInTheirBundle := by
  unfold Obligations.ResultsLandInTheirBundle
  refine ⟨fun s x r hf hx hd hfl hb hr => ?_, fun s x hf hd hfl hr => ?_, fun s w l hf hdest hc hwd hld hwf hlf hwb hlb hr => ?_,
    fun s h => ?_⟩
  · have regs : s.cur.regs.land x true = { s.cur.regs with
        byS := s.cur.regs.byS.enter (BitVec.ofNat 64 x.val),
        s := if true && r != 0 then Table.put s.cur.regs.s r (BitVec.ofNat 64 x.val) else s.cur.regs.s } := by
      simp only [Regs.land, hx]
    refine ⟨_, exec_resultLanding_lone hf hd hfl hb hr (by rw [hx]; rfl), ?_⟩
    have read := fun q => Core.readSReg_put s.cur.leaveFlight (s.cur.regs.land x true) r (BitVec.ofNat 64 x.val) (by rw [regs]; rfl) q
    rw [State.cur_setCore]
    refine ⟨Core.leaveFlight_lone hf hd, by rw [regs]; rfl, rfl, fun h0 => ?_, fun q hq => ?_, by rw [regs], by rw [regs],
      by rw [regs], by rw [regs], by rw [regs], rfl, rfl, fun c hc => State.core_setCore_other s _ hc, rfl, rfl, rfl⟩
    · rw [read, if_neg h0, if_pos rfl]
    · rw [read, if_neg hq]
      by_cases h0 : q = 0
      · rw [if_pos h0, h0]; rfl
      · rw [if_neg h0]; rfl
  · intro old merged
    refine ⟨_, exec_resultLanding s, ?_⟩
    rw [State.cur_setCore, Core.landDue_lone hf hd]
    refine ⟨(landOne_flight _ _ _ _ _).trans (Core.leaveFlight_lone hf hd), fun c hc => State.core_setCore_other s _ hc, fun hb => ?_,
      fun hb => ?_⟩
    · rw [landOne_bad hb]
      exact ⟨rfl, rfl⟩
    · have regs : x.dest.inRegs = true → (landOne s.cycle s.turn s.cur.leaveFlight x .file).regs = old.land x true := fun hx => by
        rw [landOne_clean (k := s.cur.leaveFlight) hx hb hfl hr (by decide)]
        rfl
      refine ⟨fun n hx hn => ?_, fun n hx => ?_, fun n hx => ?_, fun n hx hn => ?_, fun n hx hn => ?_, fun hx => ?_, fun n hx => ?_,
        fun n hx => ?_, fun n hx => ?_, fun n hx => ?_, fun hx => ?_⟩
      · have land : old.land x true = { old with
            byS := old.byS.enter (BitVec.ofNat 64 (x.val % 2)),
            p := if n != 0 then BitVec.ofNat 16 (mergeBits old.p.toNat (x.val % 2 * 2 ^ n) (2 ^ n)) else old.p } := by
          simp only [Regs.land, hx, Bool.true_and]
        have regsP := regs (by rw [hx]; rfl)
        rw [land] at regsP
        simp only [Core.readP, regsP]
        refine ⟨rfl, fun h0 => ?_, fun m hm => ?_, rfl, trivial⟩
        · rw [if_pos (bne_iff_ne.mpr h0), setPredicate_getLsbD _ _ hn (Nat.mod_lt _ (by decide)), if_pos rfl]
          simp [h0]
        · congr 1
          split
          · rw [setPredicate_getLsbD _ _ hn (Nat.mod_lt _ (by decide)), if_neg hm]
          · rfl
      · rw [regs (by rw [hx]; rfl), Regs.land, hx]
        dsimp only
        exact ⟨fun i hi => Table.put_merged _ _ _ _ _ hi, fun m hm => Table.get_put_other _ _ _ hm,
          by rw [if_pos rfl, Table.get_put_same]; rfl, rfl⟩
      · rw [regs (by rw [hx]; rfl), Regs.land, hx]
        dsimp only
        exact ⟨fun i hi => Table.put_merged _ _ _ _ _ hi, fun m hm => Table.get_put_other _ _ _ hm,
          by rw [if_pos rfl, Table.get_put_same]; rfl, rfl⟩
      · rw [regs (by rw [hx]; rfl), Regs.land, hx]
        simp only [if_neg hn, bne_iff_ne.mpr hn, Bool.and_self, if_true]
        exact ⟨fun i hi => Table.put_merged _ _ _ _ _ hi, fun m hm => Table.get_put_other _ _ _ hm, trivial⟩
      · rw [regs (by rw [hx]; rfl), Regs.land, hx]
        simp only [if_neg hn, bne_iff_ne.mpr hn, Bool.and_self, if_true]
        exact ⟨fun i hi => Table.put_merged _ _ _ _ _ hi, fun m hm => Table.get_put_other _ _ _ hm, trivial⟩
      · have hx' : x.dest.inRegs = true := by rcases hx with hx | hx <;> rw [hx] <;> rfl
        rw [regs hx', Regs.land]
        rcases hx with hx | hx <;> rw [hx] <;> exact ⟨rfl, rfl⟩
      · rw [regs (by rw [hx]; rfl), Regs.land, hx]
        dsimp only
        exact ⟨Table.get_put_same _ _ _ _, fun m hm => Table.get_put_other _ _ _ hm, rfl⟩
      · rw [regs (by rw [hx]; rfl), Regs.land, hx]
        dsimp only
        exact ⟨Table.get_put_same _ _ _ _, fun m hm => Table.get_put_other _ _ _ hm, rfl⟩
      · rw [regs (by rw [hx]; rfl), Regs.land, hx]
        dsimp only
        exact ⟨Table.get_put_same _ _ _ _, fun m hm => Table.get_put_other _ _ _ hm, rfl⟩
      · rw [regs (by rw [hx]; rfl), Regs.land, hx]
        dsimp only
        exact ⟨Table.get_put_same _ _ _ _, fun m hm => Table.get_put_other _ _ _ hm, rfl⟩
      · rw [landOne_zm hx hb hfl]
        exact ⟨rfl, rfl⟩
  · intro file order alone
    have both : s.cur.leaveFlight.seq.flight = [] := by
      rcases hf with h | h <;> simp [Core.leaveFlight, Core.modSeq, h, hwd, hld]
    refine ⟨_, _, exec_resultLanding s, exec_resultLanding alone, ?_⟩
    have single : alone.cur = { s.cur with seq := { s.cur.seq with flight := [w] } } := State.cur_setCore _ _
    rw [State.cur_setCore, State.cur_setCore, single]
    refine ⟨(Core.landDue_flight _ _ _).trans both, fun h => ?_, fun n hx hs hi => ?_⟩
    · obtain ⟨ne, hp, hq⟩ := prevails_of_order hdest h
      have one : (Core.landDue { s.cur with seq := { s.cur.seq with flight := [w] } } alone.cycle alone.turn).regs =
          s.cur.regs.land w true :=
        Core.landDue_lone_regs (k := { s.cur with seq := { s.cur.seq with flight := [w] } }) rfl hwd hwf hwb hr
          (Dest.inRegs_of_collides hc) _ _
      rw [Core.landDue_collision hf hdest hc hwd hld hwf hwb hlb hr ne hp hq, one]
    · have hl : l.dest = .s n := hdest ▸ hx
      have pair : (s.cur.landDue s.cycle s.turn).regs = { s.cur.regs with
          byS := (s.cur.regs.byS.enter (BitVec.ofNat 64 l.val)).enter (BitVec.ofNat 64 w.val),
          s := if n != 0 then Table.put s.cur.regs.s n (BitVec.ofNat 64 w.val) else s.cur.regs.s } := by
        rw [Core.landDue_sameSlot hf hdest hc hwd hld hwf hlf hwb hlb hr hs hi]
        simp [Regs.land, hx, hl]
      have read := Core.readSReg_put s.cur (s.cur.landDue s.cycle s.turn).regs n (BitVec.ofNat 64 w.val) (by rw [pair]) n
      have hn : n ≠ 0 := by
        rw [hx] at hc
        simpa [collides] using hc
      rw [if_neg hn, if_pos rfl] at read
      exact ⟨read, by rw [pair], by rw [pair]; rfl⟩
  · obtain ⟨landed, flight⟩ := Core.landDue_none h s.cycle s.turn
    refine ⟨_, exec_resultLanding s, ?_⟩
    rw [State.cur_setCore, landed]
    exact ⟨rfl, flight, rfl, rfl, fun c hc => State.core_setCore_other s _ hc⟩

end Sys2Proof.Machine
end

section
/-!
PROOFS. The vector chain (R94, R97, R98): its result lane by lane, its mask and its flags, for every chain; the obligations cite these
lemmas for their operations.
-/
namespace Sys2Proof.Machine

/-! ### Lanes packed into one number -/

theorem laneN_eq (v : Vec) (l : Nat) : laneN v l = (lane v l).toNat := by
  have h : bits v.toNat (32 * l) 32 < 2 ^ 32 := Nat.mod_lt _ (by decide)
  rw [lane, BitVec.toNat_ofNat, Nat.mod_eq_of_lt h, laneN]

theorem laneN_lt (v : Vec) (l : Nat) : laneN v l < 2 ^ 32 := Nat.mod_lt _ (by decide)

theorem packLanes_lane (l : List (Nat × Nat)) (hl : ∀ x ∈ l, x.1 < 2 ^ 32) (i : Nat) (hi : i < l.length) :
    packLanes l / 2 ^ (32 * i) % 2 ^ 32 = l[i].1 := by
  induction l generalizing i with
  | nil => simp at hi
  | cons x l ih =>
    have hx := hl x (by simp)
    have cons : packLanes (x :: l) = x.1 + 2 ^ 32 * packLanes l := rfl
    rw [cons]
    cases i with
    | zero => simp only [Nat.mul_zero, pow_zero, Nat.div_one, List.getElem_cons_zero]; omega
    | succ i =>
      rw [show 32 * (i + 1) = 32 + 32 * i by omega, Nat.pow_add, ← Nat.div_div_eq_div_mul,
        show (x.1 + 2 ^ 32 * packLanes l) / 2 ^ 32 = packLanes l by omega]
      exact ih (fun y hy => hl y (List.mem_cons_of_mem _ hy)) i (by simpa using hi)

theorem packMask_testBit (l : List (Nat × Nat)) (i : Nat) (hi : i < l.length) :
    (packMask l).testBit i = decide (l[i].1 % 2 = 1) := by
  induction l generalizing i with
  | nil => simp at hi
  | cons x l ih =>
    have cons : packMask (x :: l) = x.1 % 2 + 2 * packMask l := rfl
    rw [cons]
    cases i with
    | zero => simp [Nat.testBit_zero]
    | succ i =>
      rw [Nat.testBit_succ, show (x.1 % 2 + 2 * packMask l) / 2 = packMask l by omega]
      exact ih i (by simpa using hi)

/-- The mask of whole lanes, bit by bit. -/
theorem laneBits_testBit (k : LaneMask) {l b : Nat} (hl : l < 128) (hb : b < 32) : (laneBits k).testBit (32 * l + b) = k.getLsbD l := by
  have walk : ∀ (m : List Nat) (i : Nat) (hi : i < m.length),
      (m.foldr (fun l acc => (if k.getLsbD l then 2 ^ 32 - 1 else 0) + 2 ^ 32 * acc) 0).testBit (32 * i + b) = k.getLsbD m[i] := by
    intro m
    induction m with
    | nil => exact fun i hi => absurd hi (by simp)
    | cons x m ih =>
      intro i hi
      have small : (if k.getLsbD x then 2 ^ 32 - 1 else 0) < 2 ^ 32 := by split <;> decide
      rw [List.foldr_cons, Nat.add_comm, Nat.testBit_two_pow_mul_add _ small]
      cases i with
      | zero =>
        rw [if_pos (by omega), List.getElem_cons_zero, Nat.mul_zero, Nat.zero_add]
        split
        next h => rw [h, Nat.testBit_two_pow_sub_one, decide_eq_true hb]
        next h => rw [Nat.zero_testBit, Bool.eq_false_iff.mpr h]
      | succ i =>
        rw [if_neg (by omega), show 32 * (i + 1) + b - 32 = 32 * i + b by omega, List.getElem_cons_succ]
        exact ih i (by simpa using hi)
  have := walk (List.range 128) l (by simpa using hl)
  rwa [List.getElem_range] at this

/-- The flags that count (R97). -/
theorem activeFlags_testBit (l : List (Nat × Nat)) (k : LaneMask) (i : Nat) : (activeFlags l k).testBit i = true ↔
    ∃ j, ∃ h : j < l.length, k.getLsbD j = true ∧ (l[j].2).testBit i = true := by
  have walk : ∀ (l : List (Nat × Nat)) (n acc : Nat),
      ((l.zipIdx n).foldl (fun acc x => if k.getLsbD x.2 then acc ||| x.1.2 else acc) acc).testBit i = true ↔
        acc.testBit i = true ∨ ∃ j, ∃ h : j < l.length, k.getLsbD (n + j) = true ∧ (l[j].2).testBit i = true := by
    intro l
    induction l with
    | nil => simp
    | cons x l ih =>
      intro n acc
      rw [List.zipIdx_cons, List.foldl_cons, ih]
      have split_ : (∃ j, ∃ h : j < (x :: l).length, k.getLsbD (n + j) = true ∧ ((x :: l)[j].2).testBit i = true) ↔
          (k.getLsbD n = true ∧ x.2.testBit i = true) ∨
            ∃ j, ∃ h : j < l.length, k.getLsbD (n + 1 + j) = true ∧ (l[j].2).testBit i = true := by
        constructor
        · rintro ⟨j, hj, hk, hb⟩
          cases j with
          | zero => exact .inl ⟨hk, hb⟩
          | succ j => exact .inr ⟨j, by simpa using hj, by rwa [Nat.add_assoc, Nat.add_comm 1 j], hb⟩
        · rintro (⟨hk, hb⟩ | ⟨j, hj, hk, hb⟩)
          · exact ⟨0, by simp, hk, hb⟩
          · exact ⟨j + 1, by simpa using hj, by rwa [Nat.add_assoc, Nat.add_comm 1 j] at hk, hb⟩
      rw [split_, ← or_assoc]
      refine or_congr_left ?_
      cases k.getLsbD n <;> simp [Nat.testBit_or]
  have start := walk l 0 0
  simp only [Nat.zero_testBit, Bool.false_eq_true, false_or, Nat.zero_add] at start
  exact start

theorem activeFlags_eq_zero {l : List (Nat × Nat)} (h : ∀ x ∈ l, x.2 = 0) (k : LaneMask) : activeFlags l k = 0 := by
  refine Nat.eq_of_testBit_eq fun i => ?_
  rw [Nat.zero_testBit, Bool.eq_false_iff, Ne, activeFlags_testBit]
  rintro ⟨j, hj, -, hb⟩
  rw [h _ (List.getElem_mem hj)] at hb
  simp at hb

/-! ### The chain as a whole (R94) -/

theorem slotOfV_eq (f : VSlot) : slotOfV f = if f = .va then Slot.va else Slot.vb := by cases f <;> rfl

theorem exec_vectorChain {s : State} {g : Guard} (hg : s.cur.on g = true) (f : VSlot) (ch : Chain) {r : Dest × Nat × Nat × Nat}
    (hr : chainResult f ch (modeOf s.cur.modeFpc) (s.cur.readK f ch.k.toNat) (s.cur.readV f ch.a) (s.cur.readV f ch.b)
      (s.cur.readV f ch.c) = r) :
    exec (.vectorChain f g ch) s =
      .next (s.gains (if f = .va then .va else .vb) (chainLatency ch) r.1 r.2.1 r.2.2.1 r.2.2.2) := by
  simp only [exec, execVectorChain, hg, Bool.not_true, Bool.false_eq_true, if_false, hr, ← slotOfV_eq]
  rfl

/-- A chain that is no compare sends its lanes to its register, under its mask. -/
theorem chainResult_lanes (f : VSlot) {ch : Chain} (hc : ch.op2.claims = false) (md : FpMode) (k : LaneMask) (a b c : Vec) :
    chainResult f ch md k a b c =
      (destV f ch.dst, packLanes (chainLanes ch md k a b c), laneBits (if ch.op3 == .sel then BitVec.allOnes 128 else k),
        activeFlags (chainLanes ch md k a b c) (if ch.op3 == .sel then BitVec.allOnes 128 else k)) := by
  simp only [chainResult, hc, Bool.false_eq_true, if_false]

theorem chainLanes_unit3 {ch : Chain} (hc : ch.op2.claims = false) (md : FpMode) (k : LaneMask) (a b c : Vec) :
    chainLanes ch md k a b c = unit3 ch.op3 ch.ty ch.aux.toNat md k (chainFront ch md a b c) (laneN b) := by
  simp only [chainLanes, hc, Bool.false_eq_true, if_false]

/-- What the three units make of one lane when unit three moves none. -/
def chainLane (ch : Chain) (md : FpMode) (k : LaneMask) (a b c : Vec) (l : Nat) : Nat × Nat :=
  let x := unit1 ch.op1 ch.ty ch.aux.toNat md (laneN a l) (laneN b l) (laneN c l)
  let y := unit2 ch.op2 ch.ty ch.aux.toNat md x.1 (laneN c l)
  let z := unit3Lane ch.op3 ch.ty md (k.getLsbD l) y.1 (laneN b l)
  (z.1, x.2 ||| y.2 ||| z.2)

/-- The operations of unit three that look at other lanes. -/
def movesLanes (o : Op3) : Bool := o == .perm || o == .bcast || o == .rsum || o == .rmax || o == .scanx || o == .xlg

theorem unit3_local {o : Op3} (ho : movesLanes o = false) (ty : VType) (aux : Nat) (md : FpMode) (k : LaneMask) (t : List (Nat × Nat))
    (b : Nat → Nat) : unit3 o ty aux md k t b = t.zipIdx.map fun x =>
      ((unit3Lane o ty md (k.getLsbD x.2) x.1.1 (b x.2)).1, x.1.2 ||| (unit3Lane o ty md (k.getLsbD x.2) x.1.1 (b x.2)).2) := by
  unfold unit3
  dsimp only
  split
  next => exact absurd ho (by decide)
  next => exact absurd ho (by decide)
  next => exact absurd ho (by decide)
  next => exact absurd ho (by decide)
  next => exact absurd ho (by decide)
  next => exact absurd ho (by decide)
  next => rfl

theorem chainLanes_local {ch : Chain} (hc : ch.op2.claims = false) (ho : movesLanes ch.op3 = false) (md : FpMode) (k : LaneMask)
    (a b c : Vec) : chainLanes ch md k a b c = (List.range 128).map (chainLane ch md k a b c) := by
  rw [chainLanes_unit3 hc, unit3_local ho]
  refine List.ext_getElem (by simp [chainFront]) fun i h1 h2 => ?_
  simp [chainFront, chainLane]

theorem chainLatency_local {ch : Chain} (ho : movesLanes ch.op3 = false) : chainLatency ch = 5 := by
  unfold chainLatency
  split
  next h => rw [h] at ho; exact absurd ho (by decide)
  next h => rw [h] at ho; exact absurd ho (by decide)
  next h => rw [h] at ho; exact absurd ho (by decide)
  next h => rw [h] at ho; exact absurd ho (by decide)
  next => rfl

/-! ### Lanes stay below 2^32 -/

theorem perElem_lt (ty : VType) (f : Nat → Nat × Nat) : (perElem ty f).1 < 2 ^ 32 := by
  cases ty <;> simp [perElem, vshape, List.range_succ] <;> omega

theorem perElem_one {ty : VType} (h : vshape ty = (32, 1)) (f : Nat → Nat × Nat) : perElem ty f = ((f 0).1 % 2 ^ 32, (f 0).2) := by
  simp [perElem, h]

theorem clmulN_lt {a b : Nat} (ha : a < 2 ^ 32) (n : Nat) : clmulN a b n < 2 ^ (32 + n) := by
  induction n with
  | zero => exact Nat.two_pow_pos _
  | succ n ih =>
    have wide : clmulN a b n < 2 ^ (32 + (n + 1)) := ih.trans (Nat.pow_lt_pow_right (by decide) (by omega))
    have part : a * 2 ^ n < 2 ^ (32 + (n + 1)) := by
      calc a * 2 ^ n < 2 ^ 32 * 2 ^ n := Nat.mul_lt_mul_of_pos_right ha (Nat.two_pow_pos n)
        _ = 2 ^ (32 + n) := (Nat.pow_add _ _ _).symm
        _ < 2 ^ (32 + (n + 1)) := Nat.pow_lt_pow_right (by decide) (by omega)
    rw [clmulN]
    split
    · exact Nat.xor_lt_two_pow wide part
    · exact wide

theorem unit1_lt {o : Op1} (ho : o ≠ .cvt) (ty : VType) (aux : Nat) (md : FpMode) {a b : Nat} (c : Nat) (ha : a < 2 ^ 32)
    (hb : b < 2 ^ 32) : (unit1 o ty aux md a b c).1 < 2 ^ 32 := by
  have high : clmulN a b 32 / 2 ^ 32 < 2 ^ 32 := by
    have := clmulN_lt (b := b) ha 32
    omega
  cases o with
  | pass => exact ha
  | fmul => exact perElem_lt _ _
  | fma => exact perElem_lt _ _
  | imul => exact perElem_lt _ _
  | imulh => exact perElem_lt _ _
  | and => exact Nat.and_lt_two_pow _ hb
  | or => exact Nat.or_lt_two_pow ha hb
  | xor => exact Nat.xor_lt_two_pow ha hb
  | andn => exact Nat.xor_lt_two_pow ha (Nat.and_lt_two_pow _ hb)
  | clmul => exact Nat.mod_lt _ (by decide)
  | clmulh => exact high
  | cvt => exact absurd rfl ho

theorem unit2_lt {o : Op2} (ho : o.claims = false) (ty : VType) (aux : Nat) (md : FpMode) {t : Nat} (c : Nat) (ht : t < 2 ^ 32) :
    (unit2 o ty aux md t c).1 < 2 ^ 32 := by
  cases o with
  | pass => exact ht
  | fcmp | icmp => exact absurd ho (by decide)
  | fadd | fsub | fmin | fmax | iadd | isub | iadds | isubs | imin | imax | iminu | imaxu | absd => exact perElem_lt _ _

theorem wrapI_lt (w : Nat) (v : Int) : wrapI w v < 2 ^ w := by
  have h : (v % 2 ^ w) < 2 ^ w := Int.emod_lt_of_pos v (by positivity)
  have h0 : 0 ≤ v % 2 ^ w := Int.emod_nonneg v (by positivity)
  unfold wrapI
  zify
  rw [Int.toNat_of_nonneg h0]
  exact h

theorem unit3Lane_lt (o : Op3) (ty : VType) (md : FpMode) (on : Bool) {t b : Nat} (ht : t < 2 ^ 32) (hb : b < 2 ^ 32) :
    (unit3Lane o ty md on t b).1 < 2 ^ 32 := by
  cases o with
  | pass | perm | bcast | scanx | rsum | rmax | xlg => exact ht
  | shl | shr | sar | rot | popc | relu | gelu | exp2 | log2 | rcp | rsqrt => exact perElem_lt _ _
  | sel =>
    rw [unit3Lane]
    dsimp only
    split
    · exact ht
    · exact hb
  | pack =>
    have sat16 : ∀ v, (satI 16 v).1 < 2 ^ 16 := fun v => wrapI_lt 16 _
    have sat8 : ∀ v, (satI 8 v).1 < 2 ^ 8 := fun v => wrapI_lt 8 _
    rw [unit3Lane]
    dsimp only
    split
    · have := sat16 (signedOf t 32)
      have := sat16 (signedOf b 32)
      dsimp only
      omega
    · have := sat8 (signedOf (sub 16 t 0) 16)
      have := sat8 (signedOf (sub 16 t 1) 16)
      have := sat8 (signedOf (sub 16 b 0) 16)
      have := sat8 (signedOf (sub 16 b 1) 16)
      simp only [List.foldr_cons, List.foldr_nil]
      omega
  | unpack =>
    rw [unit3Lane]
    split
    · exact wrapI_lt 32 _
    · have := wrapI_lt 16 (signedOf (sub 8 t (2 * (b % 2))) 8)
      have := wrapI_lt 16 (signedOf (sub 8 t (2 * (b % 2) + 1)) 8)
      dsimp only
      omega

theorem chainLane_lt {ch : Chain} (h1 : ch.op1 ≠ .cvt) (h2 : ch.op2.claims = false) (md : FpMode) (k : LaneMask) (a b c : Vec)
    (l : Nat) : (chainLane ch md k a b c l).1 < 2 ^ 32 :=
  unit3Lane_lt _ _ _ _ (unit2_lt h2 _ _ _ _ (unit1_lt h1 _ _ _ _ (laneN_lt a l) (laneN_lt b l))) (laneN_lt b l)

/-- Every chain whose unit three moves no lanes, and that is no compare: what it sends (R94, R97). -/
theorem exec_chain_local {s : State} {g : Guard} (hg : s.cur.on g = true) (f : VSlot) {ch : Chain} (hc : ch.op2.claims = false)
    (ho : movesLanes ch.op3 = false) {md : FpMode} {k : LaneMask} {a b c : Vec} (hmd : modeOf s.cur.modeFpc = md)
    (hk : s.cur.readK f ch.k.toNat = k) (ha : s.cur.readV f ch.a = a) (hb : s.cur.readV f ch.b = b) (hcc : s.cur.readV f ch.c = c) :
    exec (.vectorChain f g ch) s = .next (s.gains (if f = .va then .va else .vb) 5 (destV f ch.dst)
      (packLanes ((List.range 128).map (chainLane ch md k a b c))) (laneBits (if ch.op3 == .sel then BitVec.allOnes 128 else k))
      (activeFlags ((List.range 128).map (chainLane ch md k a b c)) (if ch.op3 == .sel then BitVec.allOnes 128 else k))) := by
  subst hmd hk ha hb hcc
  rw [exec_vectorChain hg f ch rfl, chainResult_lanes f hc, chainLatency_local ho, chainLanes_local hc ho]

/-- The lanes of a value that is packed from a function of the lane. -/
theorem packLanes_map {v : Nat → Nat × Nat} (hv : ∀ l, l < 128 → (v l).1 < 2 ^ 32) {l : Nat} (hl : l < 128) :
    packLanes ((List.range 128).map v) / 2 ^ (32 * l) % 2 ^ 32 = (v l).1 := by
  rw [packLanes_lane _ _ l (by simpa using hl)]
  · simp
  · intro x hx
    obtain ⟨j, hj, rfl⟩ := List.mem_map.mp hx
    exact hv j (List.mem_range.mp hj)

end Sys2Proof.Machine
end

section
/-!
PROOFS. Chains on floating-point lanes (R75, R77, R79, R100, R102, R103, R107): sums and products rounded once, the elementary
functions at their special inputs, and the conversions.
-/
namespace Sys2Proof.Machine

/-! ### Rounding stays within the format -/

theorem bit_le (b : Bool) : bit b ≤ 1 := by cases b <;> decide

theorem FP32_signBit : FP32.signBit = 2 ^ 31 := by decide
theorem FP32_infCode : FP32.infCode = 0x7F800000 := by decide
theorem FP32_maxCode : FP32.maxCode = 0x7F7FFFFF := by decide

theorem roundF_FP32_lt (md : FpMode) (neg : Bool) (m : Nat) (e : Int) : (roundF FP32 md neg m e).1 < 2 ^ 32 := by
  have hb := bit_le neg
  unfold roundF
  extract_lets sgn E emin q
  have hs : sgn ≤ 2 ^ 31 := by
    simp only [sgn, FP32_signBit]
    omega
  split
  · dsimp only; omega
  · generalize roundAt md.rm neg m e q = r
    generalize roundAt md.rm neg m e (E - FP32.fb) = r'
    obtain ⟨n, inexact⟩ := r
    obtain ⟨nu, x⟩ := r'
    dsimp only
    generalize (if n < 2 ^ FP32.fb then n else ((q - FP32.qmin).toNat + 1) * 2 ^ FP32.fb + (n - 2 ^ FP32.fb)) = mag
    rw [FP32_maxCode, FP32_infCode]
    split
    · split
      · split
        · dsimp only; omega
        · have hf : FP32.finiteOnly = false := rfl
          rw [hf]
          simp only [Bool.false_eq_true, if_false]
          omega
      · dsimp only; omega
    · split
      · dsimp only; omega
      · dsimp only; omega

/-! ### Units on FP32 numbers (R100, R103) -/

theorem lane_sub (v : Vec) (l : Nat) : sub 32 (laneN v l) 0 = (lane v l).toNat := by
  rw [sub, bits, Nat.mul_zero, pow_zero, Nat.div_one, Nat.mod_eq_of_lt (laneN_lt v l), laneN_eq]

theorem mulV_fin (f : Fmt) (md : FpMode) (na nb : Bool) (ma mb : Nat) (ea eb : Int) :
    mulV f md (.fin na ma ea) (.fin nb mb eb) = ((⟨na, ma, ea⟩ : Exact).mul ⟨nb, mb, eb⟩).round f md := rfl

theorem fmaV_fin (f : Fmt) (md : FpMode) (na nb nc : Bool) (ma mb mc : Nat) (ea eb ec : Int) :
    fmaV f md (.fin na ma ea) (.fin nb mb eb) (.fin nc mc ec) =
      (((⟨na, ma, ea⟩ : Exact).mul ⟨nb, mb, eb⟩).add md.rm ⟨nc, mc, ec⟩).round f md := by
  simp [fmaV, FVal.isInf, nanRule, FVal.isNaN, FVal.exact]

theorem addV_fin (f : Fmt) (md : FpMode) (na nb : Bool) (ma mb : Nat) (ea eb : Int) :
    addV f md (.fin na ma ea) (.fin nb mb eb) = ((⟨na, ma, ea⟩ : Exact).add md.rm ⟨nb, mb, eb⟩).round f md := rfl

theorem Exact.round_lt (x : Exact) (md : FpMode) : (x.round FP32 md).1 < 2 ^ 32 := roundF_FP32_lt _ _ _ _

/-! ### Conversions to and from integers (R79, R102) -/

theorem signedOf_toNat {w : Nat} (t : BitVec w) : signedOf t.toNat w = t.toInt := by
  have small : (t.toNat : Int) % 2 ^ w = t.toNat := by
    have h : (t.toNat : Int) < 2 ^ w := by exact_mod_cast t.isLt
    exact Int.emod_eq_of_lt (Int.natCast_nonneg _) h
  rw [signedOf, BitVec.toInt_eq_toNat_cond, Nat.mod_eq_of_lt t.isLt, small]
  norm_cast

theorem signedOf_lane (v : Vec) (l : Nat) : signedOf (laneN v l) 32 = (lane v l).toInt := by
  rw [laneN_eq, signedOf_toNat]

theorem toIntV_lt (rm : Nat) (x : FVal) : (toIntV rm 32 x).1 < 2 ^ 32 := by
  have word : ∀ v : Int, (v % 2 ^ 32).toNat < 2 ^ 32 := fun v => wrapI_lt 32 v
  cases x with
  | nan n fr s => exact Nat.two_pow_pos 32
  | inf n => exact word _
  | fin n m e =>
    unfold toIntV
    dsimp only
    generalize (if n then -((roundAt rm n m e 0).1 : Int) else (roundAt rm n m e 0).1) = v
    split
    · exact word (2 ^ (32 - 1) - 1)
    · split
      · exact word (-2 ^ (32 - 1))
      · exact word v

theorem ofNat_wrap (v : Int) : BitVec.ofNat 32 (v % 2 ^ 32).toNat = BitVec.ofInt 32 v := by
  refine BitVec.eq_of_toNat_eq ?_
  have small : (v % 2 ^ 32).toNat < 2 ^ 32 := wrapI_lt 32 v
  rw [BitVec.toNat_ofNat, BitVec.toNat_ofInt, Nat.mod_eq_of_lt small]
  rfl

/-- An integer in range comes back from its word. -/
theorem toInt_ofInt_word {v : Int} (hl : -(2 ^ 31) ≤ v) (hh : v ≤ 2 ^ 31 - 1) : (BitVec.ofInt 32 v).toInt = v :=
  BitVec.toInt_ofInt_eq_self (by decide) hl (by omega)

theorem toIntV_nan (rm : Nat) (n : Bool) (fr : Nat) (s : Bool) : (toIntV rm 32 (.nan n fr s)).1 = 0 := rfl

theorem toIntV_inf (rm : Nat) (n : Bool) :
    BitVec.ofNat 32 (toIntV rm 32 (.inf n)).1 = if n then BitVec.intMin 32 else BitVec.intMax 32 := by
  unfold toIntV
  dsimp only
  rw [ofNat_wrap]
  cases n <;> decide

/-- A finite number becomes the integer that it rounds to, or the nearest end of the range (R79). -/
theorem toIntV_fin (rm : Nat) (n : Bool) (m : Nat) (e : Int) :
    (BitVec.ofNat 32 (toIntV rm 32 (.fin n m e)).1).toInt = max (-(2 ^ 31)) (min (2 ^ 31 - 1)
      (if n then -((roundAt rm n m e 0).1 : Int) else (roundAt rm n m e 0).1)) := by
  unfold toIntV
  dsimp only
  generalize roundAt rm n m e 0 = r
  generalize (if n then -(r.1 : Int) else r.1) = v
  have h31 : (2 : Int) ^ (32 - 1) = 2 ^ 31 := by norm_num
  rw [h31]
  split
  · rw [ofNat_wrap, toInt_ofInt_word (by norm_num) (by norm_num)]
    omega
  · split
    · rw [ofNat_wrap, toInt_ofInt_word (by norm_num) (by norm_num)]
      omega
    · rw [ofNat_wrap, toInt_ofInt_word (by omega) (by omega)]
      omega

/-! ### The elementary functions at zeros and infinities (R107) -/

/-- Value and flags at +0, at -0, at the infinities. -/
def elemZero : ElemFn → Nat × Nat
  | .gelu => (0, 0) | .exp2 => (0x3F800000, 0) | .log2 => (0xFF800000, fDz) | .rcp | .rsqrt => (0x7F800000, fDz)
def elemNegZero : ElemFn → Nat × Nat
  | .gelu => (0x80000000, 0) | .exp2 => (0x3F800000, 0) | .log2 | .rcp | .rsqrt => (0xFF800000, fDz)
def elemInf : ElemFn → Nat × Nat
  | .gelu | .exp2 | .log2 => (0x7F800000, 0) | .rcp | .rsqrt => (0, 0)
def elemNegInf : ElemFn → Nat × Nat
  | .gelu | .rcp => (0x80000000, 0) | .exp2 => (0, 0) | .log2 | .rsqrt => (0x7FC00000, fNv)

theorem elemF_zero (fn : ElemFn) (md : FpMode) : elemF fn FP32 md 0 = elemZero fn := by
  obtain ⟨rm, ftz, dn, sat8⟩ := md
  cases ftz <;> cases fn <;> rfl

theorem elemF_negZero (fn : ElemFn) (md : FpMode) : elemF fn FP32 md 0x80000000 = elemNegZero fn := by
  obtain ⟨rm, ftz, dn, sat8⟩ := md
  cases ftz <;> cases fn <;> rfl

theorem elemF_inf (fn : ElemFn) (md : FpMode) : elemF fn FP32 md 0x7F800000 = elemInf fn := by
  obtain ⟨rm, ftz, dn, sat8⟩ := md
  cases ftz <;> cases fn <;> rfl

theorem elemF_negInf (fn : ElemFn) (md : FpMode) : elemF fn FP32 md 0xFF800000 = elemNegInf fn := by
  obtain ⟨rm, ftz, dn, sat8⟩ := md
  cases ftz <;> cases fn <;> rfl

/-- The operation of unit three for a function. -/
def op3Of : ElemFn → Op3
  | .gelu => .gelu | .exp2 => .exp2 | .log2 => .log2 | .rcp => .rcp | .rsqrt => .rsqrt

theorem exists_op3Of {o : Op3} (h : o ∈ [Op3.gelu, .exp2, .log2, .rcp, .rsqrt]) : ∃ fn, o = op3Of fn := by
  simp only [List.mem_cons, List.not_mem_nil, or_false] at h
  obtain rfl | rfl | rfl | rfl | rfl := h
  · exact ⟨.gelu, rfl⟩
  · exact ⟨.exp2, rfl⟩
  · exact ⟨.log2, rfl⟩
  · exact ⟨.rcp, rfl⟩
  · exact ⟨.rsqrt, rfl⟩

theorem unit3Lane_elem (fn : ElemFn) (md : FpMode) (on : Bool) (t b : Nat) :
    unit3Lane (op3Of fn) .f32 md on t b = ((elemF fn FP32 md (sub 32 t 0)).1 % 2 ^ 32, (elemF fn FP32 md (sub 32 t 0)).2) := by
  have one : unit3Lane (op3Of fn) .f32 md on t b = perElem .f32 fun j => elemF fn FP32 md (sub 32 t j) := by cases fn <;> rfl
  rw [one, perElem_one rfl]

/-! ### The five parts of the obligation -/

theorem chainLatency_far {ch : Chain}
    (h : ch.op3 = .xlg ∨ ((ch.op3 = .scanx ∨ ch.op3 = .rsum ∨ ch.op3 = .rmax) ∧ ch.aux.getLsbD 0 = true)) : chainLatency ch = 9 := by
  obtain h | ⟨h | h | h, hb⟩ := h
  · simp [chainLatency, h]
  · simp [chainLatency, h, hb]
  · simp [chainLatency, h, hb]
  · simp [chainLatency, h, hb]

theorem chainLatency_near {ch : Chain}
    (h : ¬(ch.op3 = .xlg ∨ ((ch.op3 = .scanx ∨ ch.op3 = .rsum ∨ ch.op3 = .rmax) ∧ ch.aux.getLsbD 0 = true))) : chainLatency ch = 5 := by
  obtain ⟨hx, hs⟩ := not_or.mp h
  unfold chainLatency
  split
  next ho => exact absurd ho hx
  next ho => exact if_neg fun hb => hs ⟨.inl ho, hb⟩
  next ho => exact if_neg fun hb => hs ⟨.inr (.inl ho), hb⟩
  next ho => exact if_neg fun hb => hs ⟨.inr (.inr ho), hb⟩
  next => rfl

theorem Op2.not_claims {o : Op2} (hf : o ≠ .fcmp) (hi : o ≠ .icmp) : o.claims = false := by
  simp [Op2.claims, hf, hi]

theorem Op2.claims_of {o : Op2} (h : o = .fcmp ∨ o = .icmp) : o.claims = true := by
  obtain rfl | rfl := h
  · rfl
  · rfl

/-- A compare sends its mask to the lane mask that dst names, in the lanes of its own mask (R94, R105). -/
theorem chainResult_compare (f : VSlot) {ch : Chain} (hc : ch.op2.claims = true) (hs : ch.op3 ≠ .sel) {r : BitVec 10}
    (hd : ch.dst = .reg r) (hr : r.toNat < 16) (md : FpMode) (k : LaneMask) (a b c : Vec) :
    chainResult f ch md k a b c = (.k f r.toNat, packMask (chainFront ch md a b c), k.toNat,
      activeFlags (chainFront ch md a b c) k) := by
  have hsel : (ch.op3 == .sel) = false := by simpa using hs
  simp only [chainResult, chainLanes, hc, hsel, hd, if_true, Bool.false_eq_true, if_false, Nat.mod_eq_of_lt hr]

theorem sel_mask (o : Op3) (k : LaneMask) {l : Nat} (hl : l < 128) :
    (if o == .sel then BitVec.allOnes 128 else k).getLsbD l = (k.getLsbD l || decide (o = .sel)) := by
  by_cases h : o = .sel
  · rw [h, beq_self_eq_true, if_pos rfl, BitVec.getLsbD_allOnes, decide_eq_true hl, decide_eq_true rfl, Bool.or_true]
  · simp [h]

theorem destV_eq (f : VSlot) (d : VDst) : destV f d = match d with | .reg r => Dest.v f r.toNat | .transient => Dest.byV f := by
  cases d <;> rfl

theorem vectorChain_sends (f : VSlot) (g : Guard) (ch : Chain) (s : State) (hg : s.cur.on g = true) :
    let far := ch.op3 = .xlg ∨ ((ch.op3 = .scanx ∨ ch.op3 = .rsum ∨ ch.op3 = .rmax) ∧ ch.aux.getLsbD 0 = true)
    let k := s.cur.readK f ch.k.toNat
    ∃ n dest val mask flags,
      exec (.vectorChain f g ch) s = .next (s.gains (if f = .va then .va else .vb) n dest val mask flags) ∧
      (far → n = 9) ∧ (¬ far → n = 5) ∧
      (ch.op2 ≠ .fcmp → ch.op2 ≠ .icmp →
        dest = (match ch.dst with | .reg r => Dest.v f r.toNat | .transient => Dest.byV f) ∧
        (∀ l b, l < 128 → b < 32 → mask.testBit (32 * l + b) = (k.getLsbD l || decide (ch.op3 = .sel)))) ∧
      (∀ r, ch.op2 = .fcmp ∨ ch.op2 = .icmp → ch.op3 ≠ .sel → ch.dst = .reg r → r.toNat < 16 →
        dest = .k f r.toNat ∧ mask = k.toNat) := by
  intro far k
  refine ⟨_, _, _, _, _, exec_vectorChain hg f ch rfl, chainLatency_far, chainLatency_near, fun hf hi => ?_, fun r hc hs hd hr => ?_⟩
  · rw [chainResult_lanes f (Op2.not_claims hf hi)]
    exact ⟨destV_eq f ch.dst, fun l b hl hb => (laneBits_testBit _ hl hb).trans (sel_mask ch.op3 _ hl)⟩
  · rw [chainResult_compare f (Op2.claims_of hc) hs hd hr]
    exact ⟨rfl, rfl⟩

theorem movesLanes_eq_false {o : Op3} (h : o ∉ [Op3.perm, .bcast, .rsum, .rmax, .scanx, .xlg]) : movesLanes o = false := by
  simp only [List.mem_cons, List.not_mem_nil, or_false, not_or] at h
  simpa [movesLanes, and_assoc] using h

theorem flags_map {v : Nat → Nat × Nat} (k : LaneMask) (i : Nat) : (activeFlags ((List.range 128).map v) k).testBit i = true ↔
    ∃ l, l < 128 ∧ k.getLsbD l = true ∧ (v l).2.testBit i = true := by
  rw [activeFlags_testBit]
  simp [and_left_comm]

theorem vectorChain_lanes (f : VSlot) (g : Guard) (ch : Chain) (s : State) (hg : s.cur.on g = true) (h1 : ch.op1 ≠ .cvt)
    (hf : ch.op2 ≠ .fcmp) (hi : ch.op2 ≠ .icmp) (h3 : ch.op3 ∉ [Op3.perm, .bcast, .rsum, .rmax, .scanx, .xlg]) :
    let md := modeOf s.cur.modeFpc
    let a := fun (l : Nat) => (lane (s.cur.readV f ch.a) l).toNat
    let b := fun (l : Nat) => (lane (s.cur.readV f ch.b) l).toNat
    let c := fun (l : Nat) => (lane (s.cur.readV f ch.c) l).toNat
    let k := s.cur.readK f ch.k.toNat
    let u1 := fun (l : Nat) => unit1 ch.op1 ch.ty ch.aux.toNat md (a l) (b l) (c l)
    let u2 := fun (l : Nat) => unit2 ch.op2 ch.ty ch.aux.toNat md (u1 l).1 (c l)
    let u3 := fun (l : Nat) => unit3Lane ch.op3 ch.ty md (k.getLsbD l) (u2 l).1 (b l)
    ∃ dest val mask flags, exec (.vectorChain f g ch) s =
        .next (s.gains (if f = .va then .va else .vb) 5 dest val mask flags) ∧
      (∀ l, l < 128 → val / 2 ^ (32 * l) % 2 ^ 32 = (u3 l).1) ∧
      (∀ i, flags.testBit i = true ↔ ∃ l, l < 128 ∧ (k.getLsbD l = true ∨ ch.op3 = .sel) ∧
        ((u1 l).2.testBit i = true ∨ (u2 l).2.testBit i = true ∨ (u3 l).2.testBit i = true)) := by
  intro md a b c k u1 u2 u3
  have hc := Op2.not_claims hf hi
  have lanes : ∀ l, chainLane ch md k (s.cur.readV f ch.a) (s.cur.readV f ch.b) (s.cur.readV f ch.c) l =
      ((u3 l).1, (u1 l).2 ||| (u2 l).2 ||| (u3 l).2) := fun l => by
    simp only [chainLane, laneN_eq]
    rfl
  refine ⟨_, _, _, _, exec_chain_local hg f hc (movesLanes_eq_false h3) rfl rfl rfl rfl rfl, fun l hl => ?_, fun i => ?_⟩
  · rw [packLanes_map (fun l _ => chainLane_lt h1 hc _ _ _ _ _ l) hl, lanes l]
  · rw [flags_map]
    refine exists_congr fun l => and_congr_right fun hl => and_congr ?_ ?_
    · rw [sel_mask ch.op3 _ hl, Bool.or_eq_true, decide_eq_true_eq]
    · rw [lanes l, Nat.testBit_or, Nat.testBit_or, Bool.or_eq_true, Bool.or_eq_true, or_assoc]

/-- The value of a chain on `f32` without unit three, lane by lane. -/
theorem chainLane_pass {ch : Chain} (h3 : ch.op3 = .pass) (md : FpMode) (k : LaneMask) (a b c : Vec) (l : Nat) :
    (chainLane ch md k a b c l).1 = (unit2 ch.op2 ch.ty ch.aux.toNat md
      (unit1 ch.op1 ch.ty ch.aux.toNat md (laneN a l) (laneN b l) (laneN c l)).1 (laneN c l)).1 := by
  simp only [chainLane, h3, unit3Lane]

theorem FVal.negate_fin (n : Bool) (m : Nat) (e : Int) : (FVal.fin n m e).negate = .fin (!n) m e := rfl

/-- Sums and products of FP32 numbers, rounded once (R100, R103). -/
theorem vectorChain_fp32 (f : VSlot) (g : Guard) (ch : Chain) (s : State) (hg : s.cur.on g = true) (hty : ch.ty = .f32)
    (h3 : ch.op3 = .pass) :
    let md := modeOf s.cur.modeFpc
    let x := fun (r : VSrc) (l : Nat) => decodeF FP32 md.ftz (lane (s.cur.readV f r) l).toNat
    ∃ dest val mask flags, exec (.vectorChain f g ch) s =
        .next (s.gains (if f = .va then .va else .vb) 5 dest val mask flags) ∧
      ∀ l, l < 128 → ∀ (na nb nc : Bool) (ma mb mc : Nat) (ea eb ec : Int),
        x ch.a l = .fin na ma ea → x ch.b l = .fin nb mb eb → x ch.c l = .fin nc mc ec →
        let got := val / 2 ^ (32 * l) % 2 ^ 32
        let product := (⟨na, ma, ea⟩ : Exact).mul ⟨nb, mb, eb⟩
        (ch.op1 = .fmul → ch.op2 = .pass → got = (product.round FP32 md).1) ∧
        (ch.op1 = .fma → ch.op2 = .pass → got = ((product.add md.rm ⟨nc, mc, ec⟩).round FP32 md).1) ∧
        (ch.op1 = .pass → ch.op2 = .fadd → got = (((⟨na, ma, ea⟩ : Exact).add md.rm ⟨nc, mc, ec⟩).round FP32 md).1) ∧
        (ch.op1 = .pass → ch.op2 = .fsub → got = (((⟨na, ma, ea⟩ : Exact).add md.rm ⟨!nc, mc, ec⟩).round FP32 md).1) := by
  intro md x
  have ho : movesLanes ch.op3 = false := by rw [h3]; rfl
  refine ⟨_, _, _, _, (exec_vectorChain hg f ch rfl).trans (by rw [chainLatency_local ho]), ?_⟩
  intro l hl na nb nc ma mb mc ea eb ec ha hb hc
  have value : ∀ {o1 : Op1} {o2 : Op2}, ch.op1 = o1 → ch.op2 = o2 → o1 ≠ .cvt → o2.claims = false →
      (chainResult f ch md (s.cur.readK f ch.k.toNat) (s.cur.readV f ch.a) (s.cur.readV f ch.b) (s.cur.readV f ch.c)).2.1
          / 2 ^ (32 * l) % 2 ^ 32 =
        (unit2 o2 .f32 ch.aux.toNat md (unit1 o1 .f32 ch.aux.toNat md (laneN (s.cur.readV f ch.a) l) (laneN (s.cur.readV f ch.b) l)
          (laneN (s.cur.readV f ch.c) l)).1 (laneN (s.cur.readV f ch.c) l)).1 := by
    rintro _ _ rfl rfl h1 h2
    rw [chainResult_lanes f h2, chainLanes_local h2 ho]
    exact (packLanes_map (fun l _ => chainLane_lt h1 h2 _ _ _ _ _ l) hl).trans (by rw [chainLane_pass h3, hty])
  have w : vshape .f32 = (32, 1) := rfl
  simp only [x] at ha hb hc
  refine ⟨fun h1 h2 => ?_, fun h1 h2 => ?_, fun h1 h2 => ?_, fun h1 h2 => ?_⟩
  · rw [value h1 h2 (by decide) rfl]
    simp only [unit1, unit2, perElem_one w, w, vfmt, lane_sub, ha, hb, mulV_fin, Nat.mod_eq_of_lt (Exact.round_lt _ _)]
  · rw [value h1 h2 (by decide) rfl]
    simp only [unit1, unit2, perElem_one w, w, vfmt, lane_sub, ha, hb, hc, fmaV_fin, Nat.mod_eq_of_lt (Exact.round_lt _ _)]
  · rw [value h1 h2 (by decide) rfl]
    simp only [unit1, unit2, perElem_one w, w, vfmt, lane_sub, ha, hc, addV_fin, Nat.mod_eq_of_lt (Exact.round_lt _ _)]
  · rw [value h1 h2 (by decide) rfl]
    simp only [unit1, unit2, perElem_one w, w, vfmt, lane_sub, ha, hc, FVal.negate_fin, addV_fin,
      Nat.mod_eq_of_lt (Exact.round_lt _ _)]

theorem chainLane_elem {ch : Chain} (hty : ch.ty = .f32) (h1 : ch.op1 = .pass) (h2 : ch.op2 = .pass) {fn : ElemFn}
    (h3 : ch.op3 = op3Of fn) (md : FpMode) (k : LaneMask) (a b c : Vec) (l : Nat) {v : Nat × Nat}
    (hv : elemF fn FP32 md (lane a l).toNat = v) (hlt : v.1 < 2 ^ 32) : chainLane ch md k a b c l = v := by
  subst hv
  simp only [chainLane, hty, h1, h2, h3, unit1, unit2, unit3Lane_elem, lane_sub, Nat.zero_or, Nat.mod_eq_of_lt hlt]

theorem vectorChain_elem (f : VSlot) (g : Guard) (ch : Chain) (s : State) (hg : s.cur.on g = true) (hty : ch.ty = .f32)
    (h1 : ch.op1 = .pass) (h2 : ch.op2 = .pass) (h3 : ch.op3 ∈ [Op3.gelu, .exp2, .log2, .rcp, .rsqrt]) :
    let pick := fun (gelu exp2 log2 rcp rsqrt : Nat) => match ch.op3 with
      | .gelu => gelu | .exp2 => exp2 | .log2 => log2 | .rcp => rcp | _ => rsqrt
    let k := s.cur.readK f ch.k.toNat
    ∃ dest val mask flags, exec (.vectorChain f g ch) s =
        .next (s.gains (if f = .va then .va else .vb) 5 dest val mask flags) ∧
      ∀ l, l < 128 →
        let a := (lane (s.cur.readV f ch.a) l).toNat
        let got := val / 2 ^ (32 * l) % 2 ^ 32
        (a = 0 → got = pick 0 0x3F800000 0xFF800000 0x7F800000 0x7F800000) ∧
        (a = 0x80000000 → got = pick 0x80000000 0x3F800000 0xFF800000 0xFF800000 0xFF800000) ∧
        (a = 0x7F800000 → got = pick 0x7F800000 0x7F800000 0x7F800000 0 0) ∧
        (a = 0xFF800000 → got = pick 0x80000000 0 0x7FC00000 0x80000000 0x7FC00000) ∧
        (k.getLsbD l = true → a = 0 → ch.op3 ∈ [Op3.log2, .rcp, .rsqrt] → flags.testBit 11 = true) ∧
        (k.getLsbD l = true → a = 0xFF800000 → ch.op3 ∈ [Op3.log2, .rsqrt] → flags.testBit 12 = true) := by
  intro pick k
  obtain ⟨fn, hfn⟩ := exists_op3Of h3
  have hc : ch.op2.claims = false := by rw [h2]; rfl
  have ho : movesLanes ch.op3 = false := by rw [hfn]; cases fn <;> rfl
  have hsel : (ch.op3 == .sel) = false := by rw [hfn]; cases fn <;> rfl
  have n1 : ch.op1 ≠ .cvt := by rw [h1]; decide
  refine ⟨_, _, _, _, exec_chain_local hg f hc ho rfl rfl rfl rfl rfl, fun l hl => ?_⟩
  rw [hsel, if_neg Bool.false_ne_true]
  have lane_ : ∀ {x : Nat} {v : Nat × Nat}, (lane (s.cur.readV f ch.a) l).toNat = x →
      elemF fn FP32 (modeOf s.cur.modeFpc) x = v → v.1 < 2 ^ 32 →
      chainLane ch (modeOf s.cur.modeFpc) k (s.cur.readV f ch.a) (s.cur.readV f ch.b) (s.cur.readV f ch.c) l = v := by
    rintro _ v rfl hv hlt
    exact chainLane_elem hty h1 h2 hfn _ _ _ _ _ l hv hlt
  dsimp only
  rw [packLanes_map (fun l _ => chainLane_lt n1 hc _ _ _ _ _ l) hl]
  refine ⟨fun h => ?_, fun h => ?_, fun h => ?_, fun h => ?_, fun hk h hm => (flags_map k 11).mpr ⟨l, hl, hk, ?_⟩,
    fun hk h hm => (flags_map k 12).mpr ⟨l, hl, hk, ?_⟩⟩
  · rw [lane_ h (elemF_zero fn _) (by cases fn <;> decide)]
    simp only [pick, hfn]
    cases fn <;> rfl
  · rw [lane_ h (elemF_negZero fn _) (by cases fn <;> decide)]
    simp only [pick, hfn]
    cases fn <;> rfl
  · rw [lane_ h (elemF_inf fn _) (by cases fn <;> decide)]
    simp only [pick, hfn]
    cases fn <;> rfl
  · rw [lane_ h (elemF_negInf fn _) (by cases fn <;> decide)]
    simp only [pick, hfn]
    cases fn <;> rfl
  · rw [lane_ h (elemF_zero fn _) (by cases fn <;> decide)]
    rw [hfn] at hm
    revert hm
    cases fn <;> decide
  · rw [lane_ h (elemF_negInf fn _) (by cases fn <;> decide)]
    rw [hfn] at hm
    revert hm
    cases fn <;> decide

theorem chainLane_cvt {ch : Chain} (h1 : ch.op1 = .cvt) (h2 : ch.op2 = .pass) (h3 : ch.op3 = .pass) (md : FpMode) (k : LaneMask)
    (a b c : Vec) (l : Nat) : (chainLane ch md k a b c l).1 = (cvtLane md ch.aux.toNat (laneN a l) (laneN b l)).1 := by
  rw [chainLane_pass h3, h1, h2]
  rfl

theorem vectorChain_cvt (f : VSlot) (g : Guard) (ch : Chain) (s : State) (hg : s.cur.on g = true) (h1 : ch.op1 = .cvt)
    (h2 : ch.op2 = .pass) (h3 : ch.op3 = .pass) :
    let md := modeOf s.cur.modeFpc
    ∃ dest val mask flags, exec (.vectorChain f g ch) s =
        .next (s.gains (if f = .va then .va else .vb) 5 dest val mask flags) ∧
      (ch.ty = .f32 → ch.aux = 1 → ∀ l, l < 128 →
        let v := (lane (s.cur.readV f ch.a) l).toInt
        val / 2 ^ (32 * l) % 2 ^ 32 = (roundF FP32 md (decide (v < 0)) v.natAbs 0).1) ∧
      (ch.ty = .i32 → ch.aux = 0 → ∀ l, l < 128 →
        let got : Word32 := BitVec.ofNat 32 (val / 2 ^ (32 * l))
        match decodeF FP32 md.ftz (lane (s.cur.readV f ch.a) l).toNat with
        | .nan _ _ _ => got = 0
        | .inf n => got = if n then BitVec.intMin 32 else BitVec.intMax 32
        | .fin n m e =>
          let whole := (roundAt md.rm n m e 0).1
          got.toInt = max (-(2 ^ 31)) (min (2 ^ 31 - 1) (if n then -(whole : Int) else whole))) := by
  intro md
  have hc : ch.op2.claims = false := by rw [h2]; rfl
  have ho : movesLanes ch.op3 = false := by rw [h3]; rfl
  refine ⟨_, _, _, _, exec_chain_local hg f hc ho rfl rfl rfl rfl rfl, fun _ haux l hl => ?_, fun _ haux l hl => ?_⟩
  · have value : ∀ l, (chainLane ch md (s.cur.readK f ch.k.toNat) (s.cur.readV f ch.a) (s.cur.readV f ch.b) (s.cur.readV f ch.c) l).1 =
        (roundF FP32 md (decide ((lane (s.cur.readV f ch.a) l).toInt < 0)) (lane (s.cur.readV f ch.a) l).toInt.natAbs 0).1 := fun l => by
      rw [chainLane_cvt h1 h2 h3, haux, ← signedOf_lane]
      rfl
    rw [packLanes_map (fun l _ => by rw [value]; exact roundF_FP32_lt _ _ _ _) hl, value]
  · have value : ∀ l, (chainLane ch md (s.cur.readK f ch.k.toNat) (s.cur.readV f ch.a) (s.cur.readV f ch.b) (s.cur.readV f ch.c) l).1 =
        (toIntV md.rm 32 (decodeF FP32 md.ftz (lane (s.cur.readV f ch.a) l).toNat)).1 := fun l => by
      rw [chainLane_cvt h1 h2 h3, haux, ← laneN_eq]
      rfl
    have got : BitVec.ofNat 32 (packLanes ((List.range 128).map (chainLane ch md (s.cur.readK f ch.k.toNat) (s.cur.readV f ch.a)
        (s.cur.readV f ch.b) (s.cur.readV f ch.c))) / 2 ^ (32 * l)) =
        BitVec.ofNat 32 (toIntV md.rm 32 (decodeF FP32 md.ftz (lane (s.cur.readV f ch.a) l).toNat)).1 := by
      rw [← value l, ← packLanes_map (fun l _ => by rw [value]; exact toIntV_lt _ _) hl]
      exact BitVec.eq_of_toNat_eq (by simp only [BitVec.toNat_ofNat, Nat.mod_mod])
    dsimp only
    rw [got]
    cases decodeF FP32 md.ftz (lane (s.cur.readV f ch.a) l).toNat with
    | nan n fr q => exact congrArg (BitVec.ofNat 32) (toIntV_nan _ _ _ _)
    | inf n => exact toIntV_inf _ n
    | fin n m e => exact toIntV_fin _ n m e

/-- Settles O12: the chain composed lane by lane, with its FP32 arithmetic, its special inputs and its conversions. -/
theorem vectorChainIssues : Obligations.VectorChainIssues :=
  ⟨vectorChain_sends, vectorChain_lanes, vectorChain_fp32, vectorChain_elem, vectorChain_cvt⟩

end Sys2Proof.Machine
end

section
/-!
PROOFS. Chains on integer lanes (R91, R94, R101, R104, R105, R106).
-/
namespace Sys2Proof.Machine

theorem vshape_i32 : vshape .i32 = (32, 1) := rfl

theorem sub_word {n : Nat} (h : n < 2 ^ 32) : sub 32 n 0 = n := by
  rw [sub, bits, Nat.mul_zero, pow_zero, Nat.div_one, Nat.mod_eq_of_lt h]

/-- A chain without flags whose lanes are known (R97). -/
theorem exec_chain_quiet {s : State} {g : Guard} (hg : s.cur.on g = true) (f : VSlot) {ch : Chain} (hc : ch.op2.claims = false)
    (ho : movesLanes ch.op3 = false) {v : Nat → Nat} (hlt : ∀ l, v l < 2 ^ 32)
    (hv : ∀ l, chainLane ch (modeOf s.cur.modeFpc) (s.cur.readK f ch.k.toNat) (s.cur.readV f ch.a) (s.cur.readV f ch.b)
      (s.cur.readV f ch.c) l = (v l, 0)) :
    ∃ dest val mask, exec (.vectorChain f g ch) s = .next (s.gains (if f = .va then .va else .vb) 5 dest val mask 0) ∧
      ∀ l, l < 128 → val / 2 ^ (32 * l) % 2 ^ 32 = v l := by
  have quiet : ∀ k, activeFlags ((List.range 128).map (chainLane ch (modeOf s.cur.modeFpc) (s.cur.readK f ch.k.toNat)
      (s.cur.readV f ch.a) (s.cur.readV f ch.b) (s.cur.readV f ch.c))) k = 0 := fun k => by
    refine activeFlags_eq_zero (fun x hx => ?_) k
    obtain ⟨l, -, rfl⟩ := List.mem_map.mp hx
    rw [hv]
  refine ⟨_, _, _, (exec_chain_local hg f hc ho rfl rfl rfl rfl rfl).trans (by rw [quiet]), fun l hl => ?_⟩
  rw [packLanes_map (fun l _ => by rw [hv]; exact hlt l) hl, hv]

/-! ### Unit one and unit two without clamping (R101, R104) -/

theorem laneOne_lt (o : Op1) {a b : Nat} (ha : a < 2 ^ 32) (hb : b < 2 ^ 32) : laneOne o a b < 2 ^ 32 := by
  cases o with
  | and => exact Nat.and_lt_two_pow _ hb
  | or => exact Nat.or_lt_two_pow ha hb
  | xor => exact Nat.xor_lt_two_pow ha hb
  | imul => exact Nat.mod_lt _ (by decide)
  | pass | fmul | fma | imulh | andn | clmul | clmulh | cvt => exact ha

theorem laneTwo_lt (o : Op2) {t c : Nat} (ht : t < 2 ^ 32) (hc : c < 2 ^ 32) : laneTwo o t c < 2 ^ 32 := by
  cases o with
  | iadd | isub => exact Nat.mod_lt _ (by decide)
  | iminu => exact lt_of_le_of_lt (min_le_left _ _) ht
  | imaxu => exact max_lt ht hc
  | pass | fadd | fsub | fmin | fmax | iadds | isubs | imin | imax | absd | fcmp | icmp => exact ht

theorem unit1_i32 {o : Op1} (h : o ∈ [Op1.pass, .and, .or, .xor, .imul]) (aux : Nat) (md : FpMode) {a b : Nat} (c : Nat)
    (ha : a < 2 ^ 32) (hb : b < 2 ^ 32) : unit1 o .i32 aux md a b c = (laneOne o a b, 0) := by
  simp only [List.mem_cons, List.not_mem_nil, or_false] at h
  obtain rfl | rfl | rfl | rfl | rfl := h
  · rfl
  · rfl
  · rfl
  · rfl
  · simp only [unit1, perElem_one vshape_i32, vshape_i32, sub_word ha, sub_word hb, laneOne]

theorem unit2_i32 {o : Op2} (h : o ∈ [Op2.pass, .iadd, .isub, .iminu, .imaxu]) (aux : Nat) (md : FpMode) {t c : Nat}
    (ht : t < 2 ^ 32) (hc : c < 2 ^ 32) : unit2 o .i32 aux md t c = (laneTwo o t c, 0) := by
  have least : Nat.min t c < 2 ^ 32 := lt_of_le_of_lt (min_le_left _ _) ht
  have most : Nat.max t c < 2 ^ 32 := max_lt ht hc
  simp only [List.mem_cons, List.not_mem_nil, or_false] at h
  obtain rfl | rfl | rfl | rfl | rfl := h
  · rfl
  · simp only [unit2, perElem_one vshape_i32, vshape_i32, sub_word ht, sub_word hc, laneTwo]
  · simp only [unit2, perElem_one vshape_i32, vshape_i32, sub_word ht, sub_word hc, laneTwo]
  · simp only [unit2, perElem_one vshape_i32, vshape_i32, sub_word ht, sub_word hc, laneTwo, Nat.mod_eq_of_lt least]
  · simp only [unit2, perElem_one vshape_i32, vshape_i32, sub_word ht, sub_word hc, laneTwo, Nat.mod_eq_of_lt most]

/-! ### Unit three (R91, R106) -/

/-- A rotated word has its two parts in different bits. -/
theorem rot_lt {t k : Nat} (ht : t < 2 ^ 32) (hk : k < 32) : t * 2 ^ k % 2 ^ 32 + t * 2 ^ k / 2 ^ 32 < 2 ^ 32 := by
  have split_ : 2 ^ 32 = 2 ^ (32 - k) * 2 ^ k := by rw [← Nat.pow_add, Nat.sub_add_cancel hk.le]
  have low : t * 2 ^ k % 2 ^ 32 = t % 2 ^ (32 - k) * 2 ^ k := by rw [split_, Nat.mul_mod_mul_right]
  have high : t * 2 ^ k / 2 ^ 32 < 2 ^ k := by
    rw [Nat.div_lt_iff_lt_mul (by positivity), Nat.mul_comm]
    exact Nat.mul_lt_mul_of_pos_left ht (by positivity)
  have rest : t % 2 ^ (32 - k) + 1 ≤ 2 ^ (32 - k) := Nat.mod_lt _ (by positivity)
  calc t * 2 ^ k % 2 ^ 32 + t * 2 ^ k / 2 ^ 32 < t % 2 ^ (32 - k) * 2 ^ k + 2 ^ k := by rw [low]; omega
    _ = (t % 2 ^ (32 - k) + 1) * 2 ^ k := by ring
    _ ≤ 2 ^ (32 - k) * 2 ^ k := Nat.mul_le_mul_right _ rest
    _ = 2 ^ 32 := split_.symm

theorem ofNat_toNat_word (t : Word32) : BitVec.ofNat 32 t.toNat = t := BitVec.eq_of_toNat_eq (by simp)

theorem shl_lane (t : Word32) (n : Nat) : (shlW t n).toNat = laneThree .shl t n := by
  rw [shlW_eq, laneThree]
  split
  · rfl
  · exact BitVec.toNat_ofNat _ _

theorem shr_lane (t : Word32) (n : Nat) : (shrW t n).toNat = laneThree .shr t n := by
  rw [shrW_eq, laneThree]
  split
  · rfl
  · rw [BitVec.toNat_ofNat, Nat.mod_eq_of_lt (lt_of_le_of_lt (Nat.div_le_self _ _) t.isLt)]

theorem sar_lane (t : Word32) (n : Nat) : (sarW t n).toNat = laneThree .sar t n := by
  rw [sarW_eq, laneThree]
  split
  next h =>
    have hmin : min n 32 = 32 := min_eq_right h
    have hle := t.toInt_lt
    have hge := t.le_toInt
    rw [hmin]
    split
    · rw [show t.toInt / 2 ^ 32 = -1 by omega]
      rfl
    · rw [show t.toInt / 2 ^ 32 = 0 by omega]
      rfl
  next h => rw [min_eq_left (by omega)]

theorem rot_lane (t : Word32) (n : Nat) : (rotW t n).toNat = laneThree .rot t n := by
  rw [rotW_eq (by decide), laneThree, BitVec.toNat_ofNat, Nat.mod_eq_of_lt (rot_lt t.isLt (Nat.mod_lt _ (by decide)))]

theorem popc_lane (t : Word32) (n : Nat) : popcN t.toNat 32 = laneThree .popc t n := by
  rw [popcN_eq, laneThree]
  rfl

theorem relu_lane (t : Word32) (n : Nat) (md : FpMode) : reluE .i32 md t.toNat = (laneThree .relu t n, 0) := by
  simp only [reluE, VType.isFloat, vshape_i32, signedOf_toNat, laneThree]
  rfl

theorem laneThree_lt (o : Op3) (t : Word32) (n : Nat) : laneThree o t n < 2 ^ 32 := by
  cases o with
  | shl => rw [← shl_lane]; exact BitVec.isLt _
  | shr => rw [← shr_lane]; exact BitVec.isLt _
  | sar => exact BitVec.isLt _
  | rot => rw [← rot_lane]; exact BitVec.isLt _
  | popc =>
    refine lt_of_le_of_lt (List.length_filter_le _ _) ?_
    rw [List.length_range]
    decide
  | relu =>
    rw [laneThree]
    split
    · decide
    · exact t.isLt
  | pass | sel | pack | unpack | gelu | exp2 | log2 | rcp | rsqrt | perm | bcast | scanx | rsum | rmax | xlg => exact t.isLt

theorem unit3Lane_i32 {o : Op3} (h : o ∈ [Op3.shl, .shr, .sar, .rot, .popc, .relu]) (md : FpMode) (on : Bool) (t : Word32) {n : Nat}
    (hn : n < 2 ^ 32) : unit3Lane o .i32 md on t.toNat n = (laneThree o t n, 0) := by
  have word := laneThree_lt o t n
  simp only [List.mem_cons, List.not_mem_nil, or_false] at h
  obtain rfl | rfl | rfl | rfl | rfl | rfl := h
  · simp only [unit3Lane, perElem_one vshape_i32, vshape_i32, sub_word t.isLt, sub_word hn, ofNat_toNat_word, shl_lane, Nat.mod_eq_of_lt word]
  · simp only [unit3Lane, perElem_one vshape_i32, vshape_i32, sub_word t.isLt, sub_word hn, ofNat_toNat_word, shr_lane, Nat.mod_eq_of_lt word]
  · simp only [unit3Lane, perElem_one vshape_i32, vshape_i32, sub_word t.isLt, sub_word hn, ofNat_toNat_word, sar_lane, Nat.mod_eq_of_lt word]
  · simp only [unit3Lane, perElem_one vshape_i32, vshape_i32, sub_word t.isLt, sub_word hn, ofNat_toNat_word, rot_lane, Nat.mod_eq_of_lt word]
  · simp only [unit3Lane, perElem_one vshape_i32, vshape_i32, sub_word t.isLt, popc_lane t n, Nat.mod_eq_of_lt word]
  · simp only [unit3Lane, perElem_one vshape_i32, vshape_i32, sub_word t.isLt, relu_lane t n, Nat.mod_eq_of_lt word]

/-! ### Signed choices and clamping (R104) -/

theorem clampI_eq (v : Int) : clampI 32 v = max (-(2 ^ 31)) (min (2 ^ 31 - 1) v) := by
  rw [clampI, show (2 : Int) ^ (32 - 1) = 2 ^ 31 by norm_num]
  split
  · omega
  · split
    · omega
    · omega

theorem toInt_of_wrap {v : Int} (hl : -(2 ^ 31) ≤ v) (hh : v ≤ 2 ^ 31 - 1) : (BitVec.ofNat 32 (wrapI 32 v)).toInt = v := by
  rw [wrapI, ofNat_wrap, toInt_ofInt_word hl hh]

theorem ofNat_mod_word (n : Nat) : BitVec.ofNat 32 (n % 2 ^ 32) = BitVec.ofNat 32 n :=
  BitVec.eq_of_toNat_eq (by simp only [BitVec.toNat_ofNat, Nat.mod_mod])

/-- The signed value of a lane. -/
theorem signedOf_sub (v : Vec) (l : Nat) : signedOf (sub 32 (laneN v l) 0) 32 = (lane v l).toInt := by
  rw [lane_sub, signedOf_toNat]

/-- The clamped sum or difference of unit two. -/
def fullOf (o : Op2) (x y : Int) : Int := if o = .iadds then x + y else x - y

theorem unit2_clamped {o : Op2} (h : o = .iadds ∨ o = .isubs) (aux : Nat) (md : FpMode) (a c : Vec) (l : Nat) :
    unit2 o .i32 aux md (laneN a l) (laneN c l) = satI 32 (fullOf o (lane a l).toInt (lane c l).toInt) := by
  have word : ∀ v, (satI 32 v).1 % 2 ^ 32 = (satI 32 v).1 := fun v => Nat.mod_eq_of_lt (wrapI_lt 32 _)
  obtain rfl | rfl := h
  · simp only [unit2, perElem_one vshape_i32, vshape_i32, signedOf_sub, fullOf, if_true, word]
  · simp only [unit2, perElem_one vshape_i32, vshape_i32, signedOf_sub, fullOf, reduceCtorEq, if_false, word]

theorem unit2_imin (aux : Nat) (md : FpMode) (a c : Vec) (l : Nat) : unit2 .imin .i32 aux md (laneN a l) (laneN c l) =
    ((if (lane a l).toInt < (lane c l).toInt then lane a l else lane c l).toNat, 0) := by
  simp only [unit2, perElem_one vshape_i32, vshape_i32, lane_sub, signedOf_toNat, ← apply_ite BitVec.toNat]
  rw [Nat.mod_eq_of_lt (BitVec.isLt _)]

theorem unit2_imax (aux : Nat) (md : FpMode) (a c : Vec) (l : Nat) : unit2 .imax .i32 aux md (laneN a l) (laneN c l) =
    ((if (lane a l).toInt < (lane c l).toInt then lane c l else lane a l).toNat, 0) := by
  simp only [unit2, perElem_one vshape_i32, vshape_i32, lane_sub, signedOf_toNat, ← apply_ite BitVec.toNat]
  rw [Nat.mod_eq_of_lt (BitVec.isLt _)]

theorem natAbs_sub_lt (x y : Word32) : (x.toInt - y.toInt).natAbs < 2 ^ 32 := by
  have := x.toInt_lt
  have := x.le_toInt
  have := y.toInt_lt
  have := y.le_toInt
  omega

theorem unit2_absd (aux : Nat) (md : FpMode) (a c : Vec) (l : Nat) : unit2 .absd .i32 aux md (laneN a l) (laneN c l) =
    (((lane a l).toInt - (lane c l).toInt).natAbs, 0) := by
  simp only [unit2, perElem_one vshape_i32, vshape_i32, signedOf_sub, Nat.mod_eq_of_lt (natAbs_sub_lt _ _)]

/-! ### Compares (R105) -/

theorem combine_one (aux : Nat) (b : Bool) : combine aux [b] = bit b := by
  simp [combine]

theorem unit2_icmp {aux : Nat} (h : aux < 8) (md : FpMode) (a c : Vec) (l : Nat) :
    unit2 .icmp .i32 aux md (laneN a l) (laneN c l) = (bit (cmpI aux 32 (lane a l).toNat (lane c l).toNat), 0) := by
  simp only [unit2, vshape_i32, List.range_one, List.map_cons, List.map_nil, lane_sub, combine_one, Nat.mod_eq_of_lt h]

/-! ### The four parts of the obligation -/

theorem integerChain_plain (f : VSlot) (g : Guard) (ch : Chain) (s : State) (hg : s.cur.on g = true) (hty : ch.ty = .i32)
    (h3 : ch.op3 = .pass) (h1 : ch.op1 ∈ [Op1.pass, .and, .or, .xor, .imul]) (h2 : ch.op2 ∈ [Op2.pass, .iadd, .isub, .iminu, .imaxu]) :
    ∃ dest val mask, exec (.vectorChain f g ch) s =
        .next (s.gains (if f = .va then .va else .vb) 5 dest val mask 0) ∧
      ∀ l, l < 128 → val / 2 ^ (32 * l) % 2 ^ 32 =
        laneTwo ch.op2 (laneOne ch.op1 (lane (s.cur.readV f ch.a) l).toNat (lane (s.cur.readV f ch.b) l).toNat)
          (lane (s.cur.readV f ch.c) l).toNat := by
  have hc : ch.op2.claims = false := Op2.not_claims (by rintro h; simp [h] at h2) (by rintro h; simp [h] at h2)
  have ho : movesLanes ch.op3 = false := by rw [h3]; rfl
  refine exec_chain_quiet hg f hc ho
    (fun l => laneTwo_lt _ (laneOne_lt _ (lane _ l).isLt (lane _ l).isLt) (lane _ l).isLt) fun l => ?_
  simp only [chainLane, hty, h3, laneN_eq, unit1_i32 h1 _ _ _ (lane _ l).isLt (lane _ l).isLt,
    unit2_i32 h2 _ _ (laneOne_lt _ (lane _ l).isLt (lane _ l).isLt) (lane _ l).isLt, unit3Lane, Nat.or_self]

theorem integerChain_shifts (f : VSlot) (g : Guard) (ch : Chain) (s : State) (hg : s.cur.on g = true) (hty : ch.ty = .i32)
    (h1 : ch.op1 = .pass) (h2 : ch.op2 = .pass) (h3 : ch.op3 ∈ [Op3.shl, .shr, .sar, .rot, .popc, .relu]) :
    ∃ dest val mask, exec (.vectorChain f g ch) s =
        .next (s.gains (if f = .va then .va else .vb) 5 dest val mask 0) ∧
      ∀ l, l < 128 → val / 2 ^ (32 * l) % 2 ^ 32 =
        laneThree ch.op3 (lane (s.cur.readV f ch.a) l) (lane (s.cur.readV f ch.b) l).toNat := by
  have hc : ch.op2.claims = false := by rw [h2]; rfl
  have ho : movesLanes ch.op3 = false := movesLanes_eq_false fun h => by
    revert h3 h
    cases ch.op3 <;> decide
  refine exec_chain_quiet hg f hc ho (fun l => laneThree_lt _ _ _) fun l => ?_
  simp only [chainLane, hty, h1, h2, unit1, unit2, laneN_eq, unit3Lane_i32 h3 _ _ _ (lane _ l).isLt, Nat.or_self]

theorem satI_flags (v : Int) : (satI 32 v).2 ≠ 0 ↔ max (-(2 ^ 31)) (min (2 ^ 31 - 1) v) ≠ v := by
  rw [satI, clampI_eq]
  dsimp only
  split
  next h => exact iff_of_false (by decide) (not_not.mpr h)
  next h => exact iff_of_true (by decide) h

theorem activeFlags_ne_zero {v : Nat → Nat × Nat} (k : LaneMask) : activeFlags ((List.range 128).map v) k ≠ 0 ↔
    ∃ l, l < 128 ∧ k.getLsbD l = true ∧ (v l).2 ≠ 0 := by
  have some_bit : ∀ n : Nat, n ≠ 0 ↔ ∃ i, n.testBit i = true := fun n =>
    ⟨Nat.exists_testBit_of_ne_zero, fun ⟨i, hi⟩ h => by simp [h] at hi⟩
  rw [some_bit]
  simp only [flags_map, some_bit]
  constructor
  · rintro ⟨i, l, hl, hk, hb⟩
    exact ⟨l, hl, hk, i, hb⟩
  · rintro ⟨l, hl, hk, i, hb⟩
    exact ⟨i, l, hl, hk, hb⟩

/-- A lane of an `i32` chain that only unit two changes. -/
theorem chainLane_unit2 {ch : Chain} (hty : ch.ty = .i32) (h1 : ch.op1 = .pass) (h3 : ch.op3 = .pass) (md : FpMode) (k : LaneMask)
    (a b c : Vec) (l : Nat) : chainLane ch md k a b c l = unit2 ch.op2 .i32 ch.aux.toNat md (laneN a l) (laneN c l) := by
  simp only [chainLane, hty, h1, h3, unit1, unit3Lane, Nat.zero_or, Nat.or_zero]

theorem integerChain_signed (f : VSlot) (g : Guard) (ch : Chain) (s : State) (hg : s.cur.on g = true) (hty : ch.ty = .i32)
    (h1 : ch.op1 = .pass) (h3 : ch.op3 = .pass) (h2 : ch.op2 ∈ [Op2.imin, .imax, .absd, .iadds, .isubs]) :
    let x := fun (l : Nat) => (lane (s.cur.readV f ch.a) l).toInt
    let y := fun (l : Nat) => (lane (s.cur.readV f ch.c) l).toInt
    let full := fun (l : Nat) => if ch.op2 = .iadds then x l + y l else x l - y l
    let clamped := fun (l : Nat) => max (-(2 ^ 31)) (min (2 ^ 31 - 1) (full l))
    ∃ dest val mask flags, exec (.vectorChain f g ch) s =
        .next (s.gains (if f = .va then .va else .vb) 5 dest val mask flags) ∧
      (∀ l, l < 128 →
        let got : Word32 := BitVec.ofNat 32 (val / 2 ^ (32 * l))
        (ch.op2 = .imin → got.toInt = min (x l) (y l)) ∧ (ch.op2 = .imax → got.toInt = max (x l) (y l)) ∧
        (ch.op2 = .absd → got.toNat = (x l - y l).natAbs) ∧
        (ch.op2 = .iadds ∨ ch.op2 = .isubs → got.toInt = clamped l)) ∧
      (flags ≠ 0 ↔ (ch.op2 = .iadds ∨ ch.op2 = .isubs) ∧
        ∃ l, l < 128 ∧ (s.cur.readK f ch.k.toNat).getLsbD l = true ∧ clamped l ≠ full l) := by
  intro x y full clamped
  have hc : ch.op2.claims = false := Op2.not_claims (by rintro h; simp [h] at h2) (by rintro h; simp [h] at h2)
  have ho : movesLanes ch.op3 = false := by rw [h3]; rfl
  have hsel : (ch.op3 == .sel) = false := by rw [h3]; rfl
  have n1 : ch.op1 ≠ .cvt := by rw [h1]; decide
  refine ⟨_, _, _, _, exec_chain_local hg f hc ho rfl rfl rfl rfl rfl, fun l hl => ?_, ?_⟩
  · have got : BitVec.ofNat 32 (packLanes ((List.range 128).map (chainLane ch (modeOf s.cur.modeFpc) (s.cur.readK f ch.k.toNat)
        (s.cur.readV f ch.a) (s.cur.readV f ch.b) (s.cur.readV f ch.c))) / 2 ^ (32 * l)) =
        BitVec.ofNat 32 (unit2 ch.op2 .i32 ch.aux.toNat (modeOf s.cur.modeFpc) (laneN (s.cur.readV f ch.a) l)
          (laneN (s.cur.readV f ch.c) l)).1 := by
      rw [← ofNat_mod_word, packLanes_map (fun l _ => chainLane_lt n1 hc _ _ _ _ _ l) hl, chainLane_unit2 hty h1 h3]
    dsimp only
    rw [got]
    refine ⟨fun h => ?_, fun h => ?_, fun h => ?_, fun h => ?_⟩
    · rw [h, unit2_imin, ofNat_toNat_word, apply_ite BitVec.toInt, min_def_lt]
    · rw [h, unit2_imax, ofNat_toNat_word, apply_ite BitVec.toInt, max_def_lt]
    · rw [h, unit2_absd, BitVec.toNat_ofNat, Nat.mod_eq_of_lt (natAbs_sub_lt _ _)]
    · rw [unit2_clamped h, satI, clampI_eq]
      exact toInt_of_wrap (le_max_left _ _) (max_le (by decide) (min_le_left _ _))
  · rw [hsel, if_neg Bool.false_ne_true, activeFlags_ne_zero]
    simp only [chainLane_unit2 hty h1 h3]
    by_cases h : ch.op2 = .iadds ∨ ch.op2 = .isubs
    · simp only [unit2_clamped h, satI_flags]
      exact ⟨fun e => ⟨h, e⟩, And.right⟩
    · refine iff_of_false ?_ fun e => h e.1
      rintro ⟨l, -, -, hne⟩
      simp only [List.mem_cons, List.not_mem_nil, or_false] at h2
      obtain e | e | e | e | e := h2
      · rw [e, unit2_imin] at hne; exact hne rfl
      · rw [e, unit2_imax] at hne; exact hne rfl
      · rw [e, unit2_absd] at hne; exact hne rfl
      · exact h (.inl e)
      · exact h (.inr e)

theorem integerChain_compare (f : VSlot) (g : Guard) (ch : Chain) (r : BitVec 10) (s : State) (hg : s.cur.on g = true)
    (hty : ch.ty = .i32) (h1 : ch.op1 = .pass) (h2 : ch.op2 = .icmp) (h3 : ch.op3 = .pass) (hd : ch.dst = .reg r)
    (hr : r.toNat < 16) (haux : ch.aux.toNat < 8) :
    ∃ val, exec (.vectorChain f g ch) s = .next (s.gains (if f = .va then .va else .vb) 5 (.k f r.toNat) val
        (s.cur.readK f ch.k.toNat).toNat 0) ∧
      ∀ l, l < 128 →
        let x := lane (s.cur.readV f ch.a) l
        let y := lane (s.cur.readV f ch.c) l
        val.testBit l = (match ch.aux.toNat with
          | 0 => decide (x.toNat = y.toNat) | 1 => decide (x.toNat ≠ y.toNat) | 2 => decide (x.toInt < y.toInt)
          | 3 => decide (x.toInt ≤ y.toInt) | 4 => decide (x.toNat < y.toNat) | 5 => decide (x.toNat ≤ y.toNat)
          | 6 => decide (y.toInt < x.toInt) | _ => decide (y.toNat < x.toNat)) := by
  have ho : movesLanes ch.op3 = false := by rw [h3]; rfl
  have front : ∀ md a b c, chainFront ch md a b c = (List.range 128).map fun l =>
      (bit (cmpI ch.aux.toNat 32 (lane a l).toNat (lane c l).toNat), 0) := fun md a b c => by
    simp only [chainFront, h1, h2, hty, unit1, unit2_icmp haux, Nat.or_self]
  refine ⟨packMask (chainFront ch (modeOf s.cur.modeFpc) (s.cur.readV f ch.a) (s.cur.readV f ch.b) (s.cur.readV f ch.c)),
    (exec_vectorChain hg f ch (chainResult_compare f (Op2.claims_of (.inr h2)) (by rw [h3]; decide) hd hr _ _ _ _ _)).trans ?_,
    fun l hl => ?_⟩
  · rw [chainLatency_local ho, front, activeFlags_eq_zero]
    intro x hx
    obtain ⟨l, -, rfl⟩ := List.mem_map.mp hx
    rfl
  · have odd : ∀ b : Bool, decide (bit b % 2 = 1) = b := by decide
    rw [front, packMask_testBit _ l (by simpa using hl)]
    simp only [List.getElem_map, List.getElem_range, odd, cmpI, signedOf_toNat]
    generalize ch.aux.toNat = n at haux ⊢
    interval_cases n
    · exact beq_eq_decide (lane (s.cur.readV f ch.a) l).toNat _
    · exact (congrArg not (beq_eq_decide (lane (s.cur.readV f ch.a) l).toNat _)).trans (decide_not ..).symm
    all_goals rfl

/-- Settles O13: the integer units lane by lane. -/
theorem vectorIntegerResults : Obligations.VectorIntegerResults :=
  ⟨integerChain_plain, integerChain_shifts, integerChain_signed, integerChain_compare⟩

end Sys2Proof.Machine
end

section
/-!
PROOFS. Selects, permutes, lane moves, reductions and packs of the vector chain (R108-R113).
-/
namespace Sys2Proof.Machine

/-! ### Spans of lanes -/

theorem range_map_mul_succ {α : Type} (n k : Nat) (v : Nat → α) : (List.range (n * (k + 1))).map v =
    (List.range n).map v ++ (List.range (n * k)).map fun j => v (n + j) := by
  rw [Nat.mul_succ, Nat.add_comm, List.range_add, List.map_append, List.map_map]
  rfl

theorem chunks_map (n k : Nat) (v : Nat → Nat × Nat) : chunks n k ((List.range (n * k)).map v) =
    (List.range k).map fun i => (List.range n).map fun j => v (n * i + j) := by
  induction k generalizing v with
  | zero => rfl
  | succ k ih =>
    have hlen : ((List.range n).map v).length = n := by simp
    rw [range_map_mul_succ, chunks, List.take_left' hlen, List.drop_left' hlen, ih, List.range_succ_eq_map, List.map_cons, List.map_map]
    refine congrArg₂ List.cons (List.map_congr_left fun j _ => ?_) (List.map_congr_left fun i _ => List.map_congr_left fun j _ => ?_)
    · rw [Nat.mul_zero, Nat.zero_add]
    · rw [Nat.mul_succ, Nat.add_comm (n * i) n, Nat.add_assoc]

theorem flatten_spans (n k : Nat) (w : Nat → Nat → Nat × Nat) : ((List.range k).map fun i => (List.range n).map (w i)).flatten =
    (List.range (n * k)).map fun l => w (l / n) (l % n) := by
  induction k generalizing w with
  | zero => simp
  | succ k ih =>
    rw [range_map_mul_succ, List.range_succ_eq_map, List.map_cons, List.map_map, List.flatten_cons]
    refine congrArg₂ (· ++ ·) (List.map_congr_left fun j hj => ?_) ((ih fun i => w (i + 1)).trans (List.map_congr_left fun j hj => ?_))
    · have hj := List.mem_range.mp hj
      rw [Nat.div_eq_of_lt hj, Nat.mod_eq_of_lt hj]
    · have hn : 0 < n := Nat.pos_of_ne_zero (by rintro rfl; simp at hj)
      rw [Nat.add_div_left _ hn, Nat.add_mod_left]

/-- Lanes of a span. -/
def spanOf (aux : Nat) : Nat := 2 ^ spanLog aux

theorem spanOf_eq (aux : BitVec 4) : spanOf aux.toNat = if aux.getLsbD 0 then 128 else 16 := by
  rw [spanOf, spanLog, bitAt_eq_testBit, BitVec.testBit_toNat]
  cases aux.getLsbD 0 <;> rfl

theorem spans_cover (aux : Nat) : spanOf aux * 2 ^ (7 - spanLog aux) = 128 := by
  rw [spanOf, spanLog]
  cases bitAt aux 0 <;> rfl

theorem spanOf_pos (aux : Nat) : 0 < spanOf aux := Nat.two_pow_pos _

/-- Any fold over spans whose result in each span is given lane by lane. -/
theorem spans_flatten {aux : Nat} {v : Nat → Nat × Nat} {fold : List (Nat × Nat) × Nat → List (Nat × Nat)}
    {w : Nat → Nat → Nat × Nat}
    (hw : ∀ i, fold ((List.range (spanOf aux)).map (fun j => v (spanOf aux * i + j)), i) = (List.range (spanOf aux)).map (w i)) :
    ((chunks (2 ^ spanLog aux) (2 ^ (7 - spanLog aux)) ((List.range 128).map v)).zipIdx.map fold).flatten =
      (List.range 128).map fun l => w (l / spanOf aux) (l % spanOf aux) := by
  have cover := spans_cover aux
  rw [← cover, ← flatten_spans]
  refine congrArg List.flatten ?_
  rw [← spanOf, chunks_map]
  refine List.ext_getElem (by simp) fun i h1 h2 => ?_
  simp [hw]

/-- The same for a fold that does not ask which span it has. -/
theorem spans_flatten_map {aux : Nat} {v : Nat → Nat × Nat} {fold : List (Nat × Nat) → List (Nat × Nat)} {w : Nat → Nat → Nat × Nat}
    (hw : ∀ i, fold ((List.range (spanOf aux)).map fun j => v (spanOf aux * i + j)) = (List.range (spanOf aux)).map (w i)) :
    ((chunks (2 ^ spanLog aux) (2 ^ (7 - spanLog aux)) ((List.range 128).map v)).map fold).flatten =
      (List.range 128).map fun l => w (l / spanOf aux) (l % spanOf aux) := by
  have cover := spans_cover aux
  rw [← cover, ← flatten_spans, ← spanOf, chunks_map, List.map_map]
  exact congrArg List.flatten (List.map_congr_left fun i _ => hw i)

/-! ### The XOR scan (R111) -/

theorem scanSpan_map (ex : Bool) (n : Nat) (v : Nat → Nat) (b : Nat) :
    scanSpan ex ((List.range n).map fun j => (v j, 0)) (b, 0) = (List.range n).map fun j =>
      ((List.range (j + if ex then 0 else 1)).foldl (fun acc i => acc ^^^ v i) b, 0) := by
  induction n generalizing v b with
  | zero => rfl
  | succ n ih =>
    rw [List.range_succ_eq_map, List.map_cons, List.map_map, scanSpan]
    dsimp only
    rw [Nat.or_self]
    refine congrArg₂ List.cons ?_ ((ih (fun j => v (j + 1)) (b ^^^ v 0)).trans ?_)
    · cases ex <;> rfl
    · rw [List.map_map]
      refine List.map_congr_left fun j _ => ?_
      simp only [Function.comp_apply]
      rw [Nat.succ_add, List.range_succ_eq_map, List.foldl_cons, List.foldl_map]

/-! ### Reductions (R110) -/

theorem reduceNode_sum (aux : Nat) (md : FpMode) (x y : Nat) :
    reduceNode false .i32 aux md (x, 0) (y, 0) = ((x + y) % 2 ^ 32, 0) := by
  simp [reduceNode, vshape_i32, VType.isFloat]

theorem treeOf_sum (aux : Nat) (md : FpMode) (k : Nat) (l : List Nat) (hk : l.length = 2 ^ k) (hl : ∀ x ∈ l, x < 2 ^ 32) :
    treeOf (reduceNode false .i32 aux md) k (l.map fun x => (x, 0)) = (l.sum % 2 ^ 32, 0) := by
  induction k generalizing l with
  | zero =>
    obtain ⟨x, rfl⟩ := List.length_eq_one_iff.mp hk
    rw [List.sum_singleton, Nat.mod_eq_of_lt (hl x (by simp))]
    rfl
  | succ k ih =>
    have half : 2 ^ (k + 1) = 2 ^ k + 2 ^ k := by rw [pow_succ]; omega
    rw [treeOf, ← List.map_take, ← List.map_drop, ih _ (by simp; omega) fun x hx => hl x (List.mem_of_mem_take hx),
      ih _ (by simp; omega) fun x hx => hl x (List.mem_of_mem_drop hx), reduceNode_sum, ← Nat.add_mod, ← List.sum_append,
      List.take_append_drop]

/-- The order of `rmax`: unsigned with aux[1], signed without. -/
def rmaxLe (aux x y : Nat) : Prop := if bitAt aux 1 then x ≤ y else signedOf x 32 ≤ signedOf y 32

theorem rmaxLe_trans {aux x y z : Nat} (h : rmaxLe aux x y) (h' : rmaxLe aux y z) : rmaxLe aux x z := by
  unfold rmaxLe at *
  split
  next hb =>
    rw [if_pos hb] at h h'
    exact h.trans h'
  next hb =>
    rw [if_neg hb] at h h'
    exact h.trans h'

theorem rmaxLe_refl (aux x : Nat) : rmaxLe aux x x := by
  unfold rmaxLe
  split
  · exact le_rfl
  · exact le_rfl

/-- A node of `rmax` gives one of its two values, and none is greater. -/
theorem reduceNode_max (aux : Nat) (md : FpMode) (x y : Nat) : ∃ r, reduceNode true .i32 aux md (x, 0) (y, 0) = (r, 0) ∧
    (r = x ∨ r = y) ∧ rmaxLe aux x r ∧ rmaxLe aux y r := by
  have node : reduceNode true .i32 aux md (x, 0) (y, 0) =
      (if bitAt aux 1 then Nat.max x y else if signedOf x 32 < signedOf y 32 then y else x, 0) := by
    simp only [reduceNode, vshape_i32, VType.isFloat, Bool.false_eq_true, if_false, Bool.not_true, Nat.or_zero]
    split
    · rfl
    · rfl
  rw [node]
  unfold rmaxLe
  split
  · exact ⟨_, rfl, max_choice x y, le_max_left x y, le_max_right x y⟩
  · split
    next h => exact ⟨y, rfl, .inr rfl, h.le, le_rfl⟩
    next h => exact ⟨x, rfl, .inl rfl, le_rfl, not_lt.mp h⟩

theorem treeOf_max (aux : Nat) (md : FpMode) (k : Nat) (l : List Nat) (hk : l.length = 2 ^ k) :
    ∃ r ∈ l, treeOf (reduceNode true .i32 aux md) k (l.map fun x => (x, 0)) = (r, 0) ∧ ∀ x ∈ l, rmaxLe aux x r := by
  induction k generalizing l with
  | zero =>
    obtain ⟨x, rfl⟩ := List.length_eq_one_iff.mp hk
    exact ⟨x, by simp, rfl, by simpa using rmaxLe_refl aux x⟩
  | succ k ih =>
    have half : 2 ^ (k + 1) = 2 ^ k + 2 ^ k := by rw [pow_succ]; omega
    obtain ⟨x, hx, ex, mx⟩ := ih (l.take (2 ^ k)) (by simp; omega)
    obtain ⟨y, hy, ey, my⟩ := ih (l.drop (2 ^ k)) (by simp; omega)
    obtain ⟨r, er, cr, lx, ly⟩ := reduceNode_max aux md x y
    refine ⟨r, ?_, ?_, fun z hz => ?_⟩
    · obtain rfl | rfl := cr
      · exact List.mem_of_mem_take hx
      · exact List.mem_of_mem_drop hy
    · rw [treeOf, ← List.map_take, ← List.map_drop, ex, ey, er]
    · rw [← List.take_append_drop (2 ^ k) l, List.mem_append] at hz
      obtain hz | hz := hz
      · exact rmaxLe_trans (mx z hz) lx
      · exact rmaxLe_trans (my z hz) ly

theorem foldl_or_zero {l : List (Nat × Nat)} (h : ∀ x ∈ l, x.2 = 0) : l.foldl (fun acc x => acc ||| x.2) 0 = 0 := by
  induction l with
  | nil => rfl
  | cons x l ih =>
    rw [List.foldl_cons, h x (by simp)]
    exact ih fun y hy => h y (List.mem_cons_of_mem _ hy)

/-- A reduced span on `i32` holds in every lane what the tree gives. -/
theorem reduceSpan_i32 (m : Bool) (aux : Nat) (md : FpMode) {n : Nat} {v : Nat → Nat} (hv : ∀ j, v j < 2 ^ 32) {r : Nat}
    (hr : treeOf (reduceNode m .i32 aux md) (spanLog aux) (((List.range n).map v).map fun x => (x, 0)) = (r, 0)) (hr' : r < 2 ^ 32) :
    reduceSpan m .i32 aux md ((List.range n).map fun j => (v j, 0)) = (List.range n).map fun _ => (r, 0) := by
  have values : (((List.range n).map fun j => (v j, 0)).map fun x : Nat × Nat => (sub 32 x.1 0, 0)) =
      ((List.range n).map v).map fun x => (x, 0) := by
    rw [List.map_map, List.map_map]
    exact List.map_congr_left fun j _ => by simp only [Function.comp_apply, sub_word (hv j)]
  have quiet : ((List.range n).map fun j => (v j, 0)).foldl (fun acc (x : Nat × Nat) => acc ||| x.2) 0 = 0 :=
    foldl_or_zero fun x hx => by
      obtain ⟨j, -, rfl⟩ := List.mem_map.mp hx
      rfl
  unfold reduceSpan
  dsimp only [vshape_i32]
  rw [quiet, perElem_one vshape_i32, values, hr, List.map_map]
  simp only [Nat.mod_eq_of_lt hr', Nat.or_self]
  rfl

/-! ### What a chain sends whose unit three moves lanes -/

theorem laneBits_allOnes : laneBits (BitVec.allOnes 128) = 2 ^ 4096 - 1 := by
  have walk : ∀ m : List Nat, (∀ l ∈ m, l < 128) →
      m.foldr (fun l acc => (if (BitVec.allOnes 128).getLsbD l then 2 ^ 32 - 1 else 0) + 2 ^ 32 * acc) 0 = 2 ^ (32 * m.length) - 1 := by
    intro m
    induction m with
    | nil => exact fun _ => rfl
    | cons l m ih =>
      intro h
      have one : 1 ≤ 2 ^ (32 * m.length) := Nat.one_le_two_pow
      rw [List.foldr_cons, ih fun x hx => h x (List.mem_cons_of_mem _ hx), BitVec.getLsbD_allOnes, decide_eq_true (h l (by simp)),
        if_pos rfl, List.length_cons, Nat.mul_succ, Nat.pow_add]
      omega
  refine (walk (List.range 128) fun l hl => List.mem_range.mp hl).trans ?_
  rw [List.length_range]

theorem chainFront_pass {ch : Chain} (h1 : ch.op1 = .pass) (h2 : ch.op2 = .pass) (md : FpMode) (a b c : Vec) :
    chainFront ch md a b c = (List.range 128).map fun l => (laneN a l, 0) := by
  simp only [chainFront, h1, h2, unit1, unit2, Nat.or_self]

theorem pickLanes (a : Vec) {src : Nat → Nat} (hs : ∀ l, l < 128 → src l < 128) :
    ((List.range 128).map fun l => ((List.range 128).map fun l => (laneN a l, 0)).getD (src l) (0, 0)) =
      (List.range 128).map fun l => (laneN a (src l), 0) := by
  refine List.map_congr_left fun l hl => ?_
  rw [List.getD_eq_getElem _ _ (by simpa using hs l (List.mem_range.mp hl)), List.getElem_map, List.getElem_range]

/-- A chain of unit three alone that gives each lane a word and no flag. -/
theorem chainResult_moved (f : VSlot) {ch : Chain} (h1 : ch.op1 = .pass) (h2 : ch.op2 = .pass) (hsel : ch.op3 ≠ .sel) {v : Nat → Nat}
    {md : FpMode} {k : LaneMask} {a b : Vec} (c : Vec) (hv : unit3 ch.op3 ch.ty ch.aux.toNat md k
      ((List.range 128).map fun l => (laneN a l, 0)) (laneN b) = (List.range 128).map fun l => (v l, 0)) :
    chainResult f ch md k a b c = (destV f ch.dst, packLanes ((List.range 128).map fun l => (v l, 0)), laneBits k, 0) := by
  have hc : ch.op2.claims = false := by rw [h2]; rfl
  have hs : (ch.op3 == .sel) = false := by simpa using hsel
  rw [chainResult_lanes f hc, chainLanes_unit3 hc, chainFront_pass h1 h2, hv, hs, if_neg Bool.false_ne_true, activeFlags_eq_zero]
  intro x hx
  obtain ⟨l, -, rfl⟩ := List.mem_map.mp hx
  rfl

theorem exec_chain_moved {s : State} {g : Guard} (hg : s.cur.on g = true) (f : VSlot) {ch : Chain} (h1 : ch.op1 = .pass)
    (h2 : ch.op2 = .pass) (hsel : ch.op3 ≠ .sel) {v : Nat → Nat} (hlt : ∀ l, v l < 2 ^ 32)
    (hv : unit3 ch.op3 ch.ty ch.aux.toNat (modeOf s.cur.modeFpc) (s.cur.readK f ch.k.toNat)
      ((List.range 128).map fun l => (laneN (s.cur.readV f ch.a) l, 0)) (laneN (s.cur.readV f ch.b)) =
      (List.range 128).map fun l => (v l, 0)) :
    ∃ dest val mask, exec (.vectorChain f g ch) s =
        .next (s.gains (if f = .va then .va else .vb) (chainLatency ch) dest val mask 0) ∧
      ∀ l, l < 128 → val / 2 ^ (32 * l) % 2 ^ 32 = v l :=
  ⟨destV f ch.dst, packLanes ((List.range 128).map fun l => (v l, 0)), laneBits (s.cur.readK f ch.k.toNat),
    exec_vectorChain hg f ch (chainResult_moved f h1 h2 hsel _ hv), fun _ hl => packLanes_map (fun l _ => hlt l) hl⟩

/-! ### The three parts of the obligation -/

theorem chainLatency_span {ch : Chain} (h : ch.op3 = .scanx ∨ ch.op3 = .rsum ∨ ch.op3 = .rmax) :
    chainLatency ch = if ch.aux.getLsbD 0 then 9 else 5 := by
  obtain h | h | h := h
  · simp [chainLatency, h]
  · simp [chainLatency, h]
  · simp [chainLatency, h]

theorem chain_selects (f : VSlot) (g : Guard) (ch : Chain) (s : State) (hg : s.cur.on g = true) (h1 : ch.op1 = .pass)
    (h2 : ch.op2 = .pass) :
    let a := fun (l : Nat) => (lane (s.cur.readV f ch.a) l).toNat
    let b := fun (l : Nat) => (lane (s.cur.readV f ch.b) l).toNat
    let k := s.cur.readK f ch.k.toNat
    (ch.op3 = .sel → ∃ dest val, exec (.vectorChain f g ch) s =
        .next (s.gains (if f = .va then .va else .vb) 5 dest val (2 ^ 4096 - 1) 0) ∧
      ∀ l, l < 128 → val / 2 ^ (32 * l) % 2 ^ 32 = if k.getLsbD l then a l else b l) ∧
    (ch.op3 = .perm → ∃ dest val mask, exec (.vectorChain f g ch) s =
        .next (s.gains (if f = .va then .va else .vb) 5 dest val mask 0) ∧
      ∀ l, l < 128 → val / 2 ^ (32 * l) % 2 ^ 32 = a (l / 16 * 16 + b l % 16)) := by
  intro a b k
  have hc : ch.op2.claims = false := by rw [h2]; rfl
  refine ⟨fun h3 => ?_, fun h3 => ?_⟩
  · have ho : movesLanes ch.op3 = false := by rw [h3]; rfl
    have value : ∀ l, chainLane ch (modeOf s.cur.modeFpc) k (s.cur.readV f ch.a) (s.cur.readV f ch.b) (s.cur.readV f ch.c) l =
        (if k.getLsbD l then a l else b l, 0) := fun l => by
      simp only [chainLane, h1, h2, h3, unit1, unit2, unit3Lane, laneN_eq, Nat.or_self]
      rfl
    have word : ∀ l, (if k.getLsbD l then a l else b l) < 2 ^ 32 := fun l => by
      split
      · exact (lane _ l).isLt
      · exact (lane _ l).isLt
    refine ⟨destV f ch.dst, packLanes ((List.range 128).map (chainLane ch (modeOf s.cur.modeFpc) k (s.cur.readV f ch.a)
      (s.cur.readV f ch.b) (s.cur.readV f ch.c))), (exec_chain_local hg f hc ho rfl rfl rfl rfl rfl).trans ?_, fun l hl => ?_⟩
    · rw [h3, beq_self_eq_true, if_pos rfl, laneBits_allOnes, activeFlags_eq_zero]
      intro x hx
      obtain ⟨l, -, rfl⟩ := List.mem_map.mp hx
      rw [value]
    · rw [packLanes_map (fun l _ => by rw [value]; exact word l) hl, value]
  · have lat : chainLatency ch = 5 := chainLatency_near (by simp [h3])
    rw [← lat]
    refine exec_chain_moved hg f h1 h2 (by rw [h3]; decide) (fun l => (lane _ _).isLt) ?_
    rw [h3]
    refine (pickLanes (s.cur.readV f ch.a) (src := fun l => l / 16 * 16 + laneN (s.cur.readV f ch.b) l % 16) ?_).trans ?_
    · intro l hl; omega
    · simp only [laneN_eq]
      rfl

theorem spanOf_idx {aux : Nat} {l : Nat} : spanOf aux * (l / spanOf aux) + l % spanOf aux = l := Nat.div_add_mod l _

/-- XOR over words is a word. -/
theorem foldl_xor_lt {v : Nat → Nat} (hv : ∀ i, v i < 2 ^ 32) (l : List Nat) {b : Nat} (hb : b < 2 ^ 32) :
    l.foldl (fun acc i => acc ^^^ v i) b < 2 ^ 32 := by
  induction l generalizing b with
  | nil => exact hb
  | cons i l ih => exact ih (Nat.xor_lt_two_pow hb (hv i))

theorem unit3_scanx (ty : VType) (aux : Nat) (md : FpMode) (k : LaneMask) (a b : Vec) :
    unit3 .scanx ty aux md k ((List.range 128).map fun l => (laneN a l, 0)) (laneN b) = (List.range 128).map fun l =>
      ((List.range (l % spanOf aux + if bitAt aux 1 then 0 else 1)).foldl
        (fun acc j => acc ^^^ laneN a (spanOf aux * (l / spanOf aux) + j)) (laneN b (l / spanOf aux * spanOf aux)), 0) :=
  spans_flatten (fold := fun x => scanSpan (bitAt aux 1) x.1 (laneN b (x.2 * 2 ^ spanLog aux), 0))
    (w := fun i j => ((List.range (j + if bitAt aux 1 then 0 else 1)).foldl
      (fun acc j => acc ^^^ laneN a (spanOf aux * i + j)) (laneN b (i * spanOf aux)), 0))
    fun i => scanSpan_map (bitAt aux 1) (spanOf aux) (fun j => laneN a (spanOf aux * i + j)) _

theorem chain_moves (f : VSlot) (g : Guard) (ch : Chain) (s : State) (hg : s.cur.on g = true) (h1 : ch.op1 = .pass)
    (h2 : ch.op2 = .pass) :
    let a := fun (l : Nat) => (lane (s.cur.readV f ch.a) l).toNat
    let b := fun (l : Nat) => (lane (s.cur.readV f ch.b) l).toNat
    let sends := fun (n : Nat) (v : Nat → Nat) => ∃ dest val mask, exec (.vectorChain f g ch) s =
        .next (s.gains (if f = .va then .va else .vb) n dest val mask 0) ∧
      ∀ l, l < 128 → val / 2 ^ (32 * l) % 2 ^ 32 = v l
    let N := if ch.aux.getLsbD 0 then 128 else 16
    let n := if ch.aux.getLsbD 0 then 9 else 5
    (ch.op3 = .bcast → sends 5 fun l => a (l / 16 * 16 + b (l / 16 * 16) % 16)) ∧
    (ch.op3 = .xlg → sends 9 fun l =>
      a ((if ch.aux.getLsbD 3 then (l / 16) ^^^ (ch.aux.toNat % 8) else (l / 16 + ch.aux.toNat % 8) % 8) * 16 + l % 16)) ∧
    (ch.op3 = .scanx → sends n fun l =>
      (List.range (l % N + (if ch.aux.getLsbD 1 then 0 else 1))).foldl (fun acc j => acc ^^^ a (l / N * N + j)) (b (l / N * N))) := by
  intro a b sends N n
  refine ⟨fun h3 => ?_, fun h3 => ?_, fun h3 => ?_⟩
  · have lat : chainLatency ch = 5 := chainLatency_near (by simp [h3])
    simp only [sends]
    rw [← lat]
    refine exec_chain_moved hg f h1 h2 (by rw [h3]; decide) (fun l => (lane _ _).isLt) ?_
    rw [h3]
    refine (pickLanes (s.cur.readV f ch.a) (src := fun l => l / 16 * 16 + laneN (s.cur.readV f ch.b) (l / 16 * 16) % 16) ?_).trans ?_
    · intro l hl; omega
    · simp only [laneN_eq]
      rfl
  · have lat : chainLatency ch = 9 := chainLatency_far (.inl h3)
    simp only [sends]
    rw [← lat]
    refine exec_chain_moved hg f h1 h2 (by rw [h3]; decide) (fun l => (lane _ _).isLt) ?_
    rw [h3]
    refine (pickLanes (s.cur.readV f ch.a) (src := fun l => (if bitAt ch.aux.toNat 3 then (l / 16) ^^^ (ch.aux.toNat % 8)
      else (l / 16 + ch.aux.toNat % 8) % 8) * 16 + l % 16) ?_).trans ?_
    · intro l hl
      have group : (if bitAt ch.aux.toNat 3 then (l / 16) ^^^ (ch.aux.toNat % 8) else (l / 16 + ch.aux.toNat % 8) % 8) < 8 := by
        split
        · exact Nat.xor_lt_two_pow (n := 3) (by omega) (by omega)
        · exact Nat.mod_lt _ (by decide)
      omega
    · simp only [laneN_eq, bitAt_eq_testBit, BitVec.testBit_toNat]
      rfl
  · have lat : chainLatency ch = n := chainLatency_span (.inl h3)
    simp only [sends]
    rw [← lat]
    refine exec_chain_moved hg f h1 h2 (by rw [h3]; decide)
      (fun l => foldl_xor_lt (v := fun j => a (l / N * N + j)) (fun j => (lane _ _).isLt) _ (lane _ _).isLt) ?_
    have hN : N = spanOf ch.aux.toNat := (spanOf_eq ch.aux).symm
    rw [h3, unit3_scanx, hN]
    simp only [laneN_eq, bitAt_eq_testBit, BitVec.testBit_toNat, Nat.mul_comm (spanOf _)]
    rfl

theorem unit3_rsum (aux : Nat) (md : FpMode) (k : LaneMask) (a b : Vec) :
    unit3 .rsum .i32 aux md k ((List.range 128).map fun l => (laneN a l, 0)) (laneN b) = (List.range 128).map fun l =>
      (((List.range (spanOf aux)).map fun j => laneN a (spanOf aux * (l / spanOf aux) + j)).sum % 2 ^ 32, 0) := by
  have each : ∀ i, reduceSpan false .i32 aux md ((List.range (spanOf aux)).map fun j => (laneN a (spanOf aux * i + j), 0)) =
      (List.range (spanOf aux)).map fun _ => (((List.range (spanOf aux)).map fun j => laneN a (spanOf aux * i + j)).sum % 2 ^ 32, 0) :=
    fun i => reduceSpan_i32 false aux md (fun j => laneN_lt a _)
      (treeOf_sum aux md _ _ (by simp [spanOf]) fun x hx => by
        obtain ⟨j, -, rfl⟩ := List.mem_map.mp hx
        exact laneN_lt a _) (Nat.mod_lt _ (by decide))
  exact spans_flatten_map (v := fun l => (laneN a l, 0)) (fold := reduceSpan false .i32 aux md)
    (w := fun i _ => (((List.range (spanOf aux)).map fun j => laneN a (spanOf aux * i + j)).sum % 2 ^ 32, 0)) each

/-- Whatever `rmax` gives a lane is one of its span's words, and none is greater. -/
theorem unit3_rmax (aux : Nat) (md : FpMode) (k : LaneMask) (a b : Vec) : ∃ r : Nat → Nat,
    unit3 .rmax .i32 aux md k ((List.range 128).map fun l => (laneN a l, 0)) (laneN b) =
      ((List.range 128).map fun l => (r (l / spanOf aux), 0)) ∧
    ∀ i, (∃ j, j < spanOf aux ∧ r i = laneN a (spanOf aux * i + j)) ∧ ∀ j, j < spanOf aux → rmaxLe aux (laneN a (spanOf aux * i + j)) (r i) := by
  have each : ∀ i, ∃ r ∈ (List.range (spanOf aux)).map fun j => laneN a (spanOf aux * i + j), _ := fun i =>
    treeOf_max aux md (spanLog aux) ((List.range (spanOf aux)).map fun j => laneN a (spanOf aux * i + j)) (by simp [spanOf])
  choose r hmem htree hmax using each
  refine ⟨r, spans_flatten_map (v := fun l => (laneN a l, 0)) (fold := reduceSpan true .i32 aux md)
    (w := fun i _ => (r i, 0)) fun i => reduceSpan_i32 true aux md (fun j => laneN_lt a _) (htree i) ?_, fun i => ⟨?_, fun j hj => ?_⟩⟩
  · obtain ⟨j, -, hj⟩ := List.mem_map.mp (hmem i)
    exact hj ▸ laneN_lt a _
  · obtain ⟨j, hj, e⟩ := List.mem_map.mp (hmem i)
    exact ⟨j, List.mem_range.mp hj, e.symm⟩
  · exact hmax i _ (List.mem_map.mpr ⟨j, List.mem_range.mpr hj, rfl⟩)

theorem sat16_word (t : Word32) : (satI 16 t.toInt).1 = (max (-(2 ^ 15)) (min (2 ^ 15 - 1) t.toInt) % 2 ^ 16).toNat := by
  have clamp : clampI 16 t.toInt = max (-(2 ^ 15)) (min (2 ^ 15 - 1) t.toInt) := by
    rw [clampI, show (2 : Int) ^ (16 - 1) = 2 ^ 15 by norm_num]
    split
    · omega
    · split
      · omega
      · omega
  rw [satI, clamp]
  rfl

theorem half_word (t : Word32) (h : Nat) : sub 16 t.toNat h = (t.extractLsb' (16 * h) 16).toNat := by
  rw [sub, bits, BitVec.extractLsb'_toNat, Nat.shiftRight_eq_div_pow]

theorem toInt_wrap_half (x : BitVec 16) : (BitVec.ofNat 32 (wrapI 32 x.toInt)).toInt = x.toInt := by
  have hl := x.le_toInt
  have hh := x.toInt_lt
  exact toInt_of_wrap (by omega) (by omega)

/-- A lane of a chain of unit three alone that moves no lanes. -/
theorem chainLane_unit3 {ch : Chain} (h1 : ch.op1 = .pass) (h2 : ch.op2 = .pass) (md : FpMode) (k : LaneMask) (a b c : Vec) (l : Nat) :
    chainLane ch md k a b c l = unit3Lane ch.op3 ch.ty md (k.getLsbD l) (lane a l).toNat (lane b l).toNat := by
  simp only [chainLane, h1, h2, unit1, unit2, Nat.zero_or, laneN_eq]

theorem chain_reduces (f : VSlot) (g : Guard) (ch : Chain) (s : State) (hg : s.cur.on g = true) (h1 : ch.op1 = .pass)
    (h2 : ch.op2 = .pass) :
    let x := fun (l : Nat) => lane (s.cur.readV f ch.a) l
    let y := fun (l : Nat) => lane (s.cur.readV f ch.b) l
    let N := if ch.aux.getLsbD 0 then 128 else 16
    let n := if ch.aux.getLsbD 0 then 9 else 5
    let sat := fun (v : Word32) => (max (-(2 ^ 15)) (min (2 ^ 15 - 1) v.toInt) % 2 ^ 16).toNat
    ∃ m dest val mask flags, exec (.vectorChain f g ch) s =
        .next (s.gains (if f = .va then .va else .vb) m dest val mask flags) ∧
      (ch.ty = .i32 → ch.op3 = .rsum → m = n ∧ flags = 0 ∧ ∀ l, l < 128 →
        val / 2 ^ (32 * l) % 2 ^ 32 = ((List.range N).map fun j => (x (l / N * N + j)).toNat).sum % 2 ^ 32) ∧
      (ch.ty = .i32 → ch.op3 = .rmax → m = n ∧ flags = 0 ∧ ∀ l, l < 128 →
        let got : Word32 := BitVec.ofNat 32 (val / 2 ^ (32 * l))
        (∃ j, j < N ∧ got = x (l / N * N + j)) ∧
        ∀ j, j < N → if ch.aux.getLsbD 1 then (x (l / N * N + j)).toNat ≤ got.toNat else (x (l / N * N + j)).toInt ≤ got.toInt) ∧
      (ch.ty = .i32 → ch.op3 = .pack → m = 5 ∧ ∀ l, l < 128 →
        val / 2 ^ (32 * l) % 2 ^ 32 = sat (x l) + sat (y l) * 2 ^ 16) ∧
      (ch.ty = .i16x2 → ch.op3 = .unpack → m = 5 ∧ flags = 0 ∧ ∀ l, l < 128 →
        (BitVec.ofNat 32 (val / 2 ^ (32 * l)) : Word32).toInt = ((x l).extractLsb' (16 * ((y l).toNat % 2)) 16).toInt) := by
  intro x y N n sat
  have hc : ch.op2.claims = false := by rw [h2]; rfl
  have hN : N = spanOf ch.aux.toNat := (spanOf_eq ch.aux).symm
  have n1 : ch.op1 ≠ .cvt := by rw [h1]; decide
  refine ⟨_, _, _, _, _, exec_vectorChain hg f ch rfl, fun hty h3 => ?_, fun hty h3 => ?_, fun hty h3 => ?_, fun hty h3 => ?_⟩
  · rw [chainResult_moved f h1 h2 (by rw [h3]; decide) _ (by rw [h3, hty]; exact unit3_rsum _ _ _ _ _)]
    refine ⟨chainLatency_span (.inr (.inl h3)), rfl, fun l hl => ?_⟩
    rw [packLanes_map (fun l _ => Nat.mod_lt _ (by decide)) hl, hN]
    simp only [laneN_eq, Nat.mul_comm (spanOf _)]
    rfl
  · obtain ⟨r, hr, hmax⟩ := unit3_rmax ch.aux.toNat (modeOf s.cur.modeFpc) (s.cur.readK f ch.k.toNat) (s.cur.readV f ch.a)
      (s.cur.readV f ch.b)
    have word : ∀ i, r i < 2 ^ 32 := fun i => by
      obtain ⟨⟨j, -, e⟩, -⟩ := hmax i
      exact e ▸ laneN_lt _ _
    rw [chainResult_moved f h1 h2 (by rw [h3]; decide) _ (by rw [h3, hty]; exact hr)]
    refine ⟨chainLatency_span (.inr (.inr h3)), rfl, fun l hl => ?_⟩
    obtain ⟨⟨j, hj, e⟩, most⟩ := hmax (l / spanOf ch.aux.toNat)
    have got : BitVec.ofNat 32 (packLanes ((List.range 128).map fun l => (r (l / spanOf ch.aux.toNat), 0)) / 2 ^ (32 * l)) =
        lane (s.cur.readV f ch.a) (spanOf ch.aux.toNat * (l / spanOf ch.aux.toNat) + j) := by
      rw [← ofNat_mod_word, packLanes_map (fun l _ => word _) hl, e, laneN_eq, ofNat_toNat_word]
    dsimp only
    rw [got, hN]
    simp only [Nat.mul_comm (spanOf _)] at e most ⊢
    refine ⟨⟨j, hj, rfl⟩, fun i hi => ?_⟩
    have le := most i hi
    simpa only [rmaxLe, e, laneN_eq, signedOf_toNat, bitAt_eq_testBit, BitVec.testBit_toNat] using le
  · have ho : movesLanes ch.op3 = false := by rw [h3]; rfl
    refine ⟨chainLatency_local ho, fun l hl => ?_⟩
    rw [chainResult_lanes f hc, chainLanes_local hc ho, packLanes_map (fun l _ => chainLane_lt n1 hc _ _ _ _ _ l) hl,
      chainLane_unit3 h1 h2, h3, hty]
    simp only [unit3Lane, beq_self_eq_true, if_true, signedOf_toNat, sat16_word]
    rfl
  · have ho : movesLanes ch.op3 = false := by rw [h3]; rfl
    have value : ∀ l, chainLane ch (modeOf s.cur.modeFpc) (s.cur.readK f ch.k.toNat) (s.cur.readV f ch.a) (s.cur.readV f ch.b)
        (s.cur.readV f ch.c) l = (wrapI 32 ((x l).extractLsb' (16 * ((y l).toNat % 2)) 16).toInt, 0) := fun l => by
      rw [chainLane_unit3 h1 h2, h3, hty]
      simp only [unit3Lane, beq_self_eq_true, if_true, half_word, signedOf_toNat]
      rfl
    rw [chainResult_lanes f hc, chainLanes_local hc ho]
    refine ⟨chainLatency_local ho, activeFlags_eq_zero (fun z hz => ?_) _, fun l hl => ?_⟩
    · obtain ⟨l, -, rfl⟩ := List.mem_map.mp hz
      rw [value]
    · rw [← ofNat_mod_word, packLanes_map (fun l _ => chainLane_lt n1 hc _ _ _ _ _ l) hl, value, toInt_wrap_half]

/-- Settles O14: the lanes that selects, permutes, moves, reductions and packs name. -/
theorem vectorSelectAndPermute : Obligations.VectorSelectAndPermute := ⟨chain_selects, chain_moves, chain_reduces⟩

end Sys2Proof.Machine
end

section
/-!
PROOFS. Drains, row masks and scale loads (R89, R132, R134-R136).
-/
namespace Sys2Proof.Machine

/-! ### Tables without a key -/

theorem Table.get_del {α : Type} (t : Table α) (d : α) (k q : Nat) :
    Table.get (Table.del t k) d q = if q = k then d else Table.get t d q := by
  have walk : Table.get? (Table.del t k) q = if q = k then none else Table.get? t q := by
    induction t with
    | nil => simp [Table.del, Table.get?]
    | cons e t ih =>
      obtain ⟨j, v⟩ := e
      by_cases hj : j = k
      · subst hj
        have : Table.del ((j, v) :: t) j = Table.del t j := by simp [Table.del]
        rw [this, ih]
        split
        · rfl
        next h => rw [Table.get?, if_neg (Ne.symm h)]
      · have : Table.del ((j, v) :: t) k = (j, v) :: Table.del t k := by simp [Table.del, hj]
        rw [this, Table.get?, Table.get?, ih]
        by_cases hq : j = q
        · rw [if_pos hq, if_pos hq, if_neg (hq ▸ hj)]
        · rw [if_neg hq, if_neg hq]
  rw [Table.get, Table.get, walk]
  split
  · rfl
  · rfl

theorem Table.get_foldl_del {α : Type} (l : List Nat) (key : Nat → Nat) (t : Table α) (d : α) (q : Nat) :
    Table.get (l.foldl (fun z j => Table.del z (key j)) t) d q = if q ∈ l.map key then d else Table.get t d q := by
  induction l generalizing t with
  | nil => simp
  | cons j l ih =>
    rw [List.foldl_cons, ih, Table.get_del, List.map_cons]
    by_cases hq : q = key j
    · simp [hq]
    · simp [hq]

/-! ### A row on its way (R132) -/

/-- The chosen lanes of W bits below n, side by side. -/
def rowSum (W : Nat) (p : Nat → Bool) (c : Nat → Nat) (n : Nat) : Nat :=
  ((List.range n).filter p).foldl (fun acc j => acc + c j * 2 ^ (W * j)) 0

theorem rowSum_succ (W : Nat) (p : Nat → Bool) (c : Nat → Nat) (n : Nat) :
    rowSum W p c (n + 1) = rowSum W p c n + (if p n then c n else 0) * 2 ^ (W * n) := by
  rw [rowSum, List.range_succ, List.filter_append, List.foldl_append]
  cases hp : p n with
  | true => simp [hp, rowSum]
  | false => simp [hp, rowSum]

theorem rowSum_lt {W : Nat} {p : Nat → Bool} {c : Nat → Nat} (hc : ∀ j, c j < 2 ^ W) (n : Nat) : rowSum W p c n < 2 ^ (W * n) := by
  induction n with
  | zero => exact Nat.one_pos
  | succ n ih =>
    have word : (if p n then c n else 0) + 1 ≤ 2 ^ W := by
      split
      · exact hc n
      · exact Nat.one_le_two_pow
    rw [rowSum_succ]
    calc rowSum W p c n + (if p n then c n else 0) * 2 ^ (W * n) < 2 ^ (W * n) + (if p n then c n else 0) * 2 ^ (W * n) :=
          Nat.add_lt_add_right ih _
      _ = ((if p n then c n else 0) + 1) * 2 ^ (W * n) := by ring
      _ ≤ 2 ^ W * 2 ^ (W * n) := Nat.mul_le_mul_right _ word
      _ = 2 ^ (W * (n + 1)) := by rw [← Nat.pow_add, Nat.mul_succ, Nat.add_comm]

theorem rowSum_lane {W : Nat} {p : Nat → Bool} {c : Nat → Nat} (hc : ∀ j, c j < 2 ^ W) (n j : Nat) :
    rowSum W p c n / 2 ^ (W * j) % 2 ^ W = if j < n ∧ p j = true then c j else 0 := by
  induction n with
  | zero => simp [rowSum]
  | succ n ih =>
    rcases Nat.lt_trichotomy j n with h | rfl | h
    · obtain ⟨d, rfl⟩ := Nat.exists_eq_add_of_lt h
      have lane : ∀ x, (rowSum W p c (j + d + 1) + x * 2 ^ (W * (j + d + 1))) / 2 ^ (W * j) % 2 ^ W =
          rowSum W p c (j + d + 1) / 2 ^ (W * j) % 2 ^ W := fun x => by
        rw [show x * 2 ^ (W * (j + d + 1)) = 2 ^ (W * j) * (2 ^ W * (x * 2 ^ (W * d))) by ring, Nat.add_mul_div_left _ _ (Nat.two_pow_pos _),
          Nat.add_mul_mod_self_left]
      rw [rowSum_succ, lane, ih]
      exact if_congr (and_congr_left fun _ => by omega) rfl rfl
    · rw [rowSum_succ, Nat.add_mul_div_right _ _ (Nat.two_pow_pos _), Nat.div_eq_of_lt (rowSum_lt hc j), Nat.zero_add]
      cases p j with
      | true => rw [if_pos rfl, if_pos ⟨Nat.lt_succ_self j, rfl⟩, Nat.mod_eq_of_lt (hc j)]
      | false => simp
    · have small : rowSum W p c (n + 1) < 2 ^ (W * j) :=
        (rowSum_lt hc (n + 1)).trans_le (Nat.pow_le_pow_right (by decide) (Nat.mul_le_mul_left W h))
      rw [Nat.div_eq_of_lt small, if_neg (by omega), Nat.zero_mod]

theorem foldl_pair (l : List Nat) (f g : Nat → Nat) (x y : Nat) :
    l.foldl (fun (acc : Nat × Nat) j => (acc.1 + f j, acc.2 + g j)) (x, y) =
      (l.foldl (fun acc j => acc + f j) x, l.foldl (fun acc j => acc + g j) y) := by
  induction l generalizing x y with
  | nil => rfl
  | cons j l ih => exact ih _ _

theorem drainRow_eq (a : ArrayState) (plane : Bool) (row : Nat) : drainRow a plane row =
    (rowSum 32 (a.enabled row) (fun j => (a.cell plane row j).toNat) 96, rowSum 32 (a.enabled row) (fun _ => 2 ^ 32 - 1) 96) :=
  foldl_pair _ _ _ _ _

theorem cellKey_inj {p q : Bool} {i j u v : Nat} (hi : i < 96) (hj : j < 96) (hu : u < 96) (hv : v < 96)
    (h : cellKey p i j = cellKey q u v) : p = q ∧ i = u ∧ j = v := by
  unfold cellKey at h
  have hp := bit_le p
  have hq := bit_le q
  have hpq : bit p = bit q := by omega
  refine ⟨?_, by omega, by omega⟩
  revert hpq
  cases p <;> cases q <;> decide

theorem bankRefused_iff {off n : Nat} (hn : 0 < n) : bankRefused off n = false ↔ partFits off n := by
  unfold bankRefused partFits
  rw [Bool.or_eq_false_iff, decide_eq_false_iff_not, decide_eq_false_iff_not]
  have : Config.groupBytes = 0x180000 := rfl
  have : off / 256 ≤ (off + n - 1) / 256 := Nat.div_le_div_right (by omega)
  omega

/-! ### What a drain does (R132) -/

/-- The core after a drain of a row with an enabled cell. -/
def Core.drained (k : Core) (plane : Bool) (r : Nat) (dest : Dest) (clr : Bool) : Core :=
  let k1 := k.push .m 4 dest (drainRow k.arr plane r).1 (drainRow k.arr plane r).2 0
  if clr then k1.modArr fun x => { x with z := (k.arr.enabledCols r).foldl (fun z j => Table.del z (cellKey plane r j)) x.z } else k1

theorem Core.drained_seq (k : Core) (plane : Bool) (r : Nat) (dest : Dest) (clr : Bool) : (k.drained plane r dest clr).seq =
    (k.push .m 4 dest (drainRow k.arr plane r).1 (drainRow k.arr plane r).2 0).seq := by cases clr <;> rfl

theorem Core.drained_regs (k : Core) (plane : Bool) (r : Nat) (dest : Dest) (clr : Bool) : (k.drained plane r dest clr).regs = k.regs := by
  cases clr <;> rfl

theorem Core.drained_sp (k : Core) (plane : Bool) (r : Nat) (dest : Dest) (clr : Bool) : (k.drained plane r dest clr).sp = k.sp := by
  cases clr <;> rfl

theorem Core.drained_cell (k : Core) (plane : Bool) {r : Nat} (hr : r < 96) (dest : Dest) (clr p : Bool) {i j : Nat} (hi : i < 96)
    (hj : j < 96) : (k.drained plane r dest clr).arr.cell p i j =
      if clr ∧ p = plane ∧ i = r ∧ k.arr.enabled i j = true then 0 else k.arr.cell p i j := by
  cases clr with
  | false => simp [Core.drained]
  | true =>
    refine (Table.get_foldl_del (k.arr.enabledCols r) (cellKey plane r) k.arr.z 0 (cellKey p i j)).trans (if_congr ?_ rfl rfl)
    simp only [List.mem_map, ArrayState.enabledCols, List.mem_filter, List.mem_range, true_and]
    constructor
    · rintro ⟨v, ⟨hv, he⟩, hk⟩
      obtain ⟨rfl, rfl, rfl⟩ := cellKey_inj hr hv hi hj hk
      exact ⟨rfl, rfl, he⟩
    · rintro ⟨rfl, rfl, he⟩
      exact ⟨j, ⟨hj, he⟩, rfl⟩

/-- A drain that is not refused (R132). -/
theorem exec_mdrain {s : State} {g : Guard} (hg : s.cur.on g = true) (plane : Bool) {row : BitVec 7} (hr : row.toNat < 96)
    (hne : ∃ j, j < 96 ∧ s.cur.arr.enabled row.toNat j = true) (clr : Bool) :
    (∀ f r, exec (.mdrain g plane row (.vec f r) clr) s = .next (s.modCur fun k => k.drained plane row.toNat (.v f r.toNat) clr)) ∧
    (∀ grp (ix : BitVec 14), partFits (96 * ix.toNat) 384 → exec (.mdrain g plane row (.sp grp ix) clr) s =
      .next (s.modCur fun k => k.drained plane row.toNat (.sp (groupBase grp + 96 * ix.toNat)) clr)) := by
  have cols : (s.cur.arr.enabledCols row.toNat).isEmpty = false := by
    obtain ⟨j, hj, he⟩ := hne
    exact List.isEmpty_eq_false_iff_exists_mem.mpr ⟨j, List.mem_filter.mpr ⟨List.mem_range.mpr hj, he⟩⟩
  refine ⟨fun f r => ?_, fun grp ix hfit => ?_⟩
  · simp only [exec, execMdrain, hg, Bool.not_true, Bool.false_eq_true, if_false, if_neg (Nat.not_le.mpr hr), cols]
    rfl
  · simp only [exec, execMdrain, hg, Bool.not_true, Bool.false_eq_true, if_false, if_neg (Nat.not_le.mpr hr), cols,
      (bankRefused_iff (by decide)).mpr hfit]
    rfl

/-- What R132 says of a drain. -/
theorem drained_sends (s : State) (plane : Bool) {r : Nat} (hr : r < 96) (dest : Dest) (clr : Bool)
    {o : Host.Outcome State Fault Refusal} (ho : o = .next (s.modCur fun k => k.drained plane r dest clr)) :
    ∃ t v m, o = .next t ∧
      t.cur.seq = (s.gains .m 4 dest v m 0).cur.seq ∧
      (∀ j, j < 96 → s.cur.arr.enabled r j = true →
        v / 2 ^ (32 * j) % 2 ^ 32 = (s.cur.arr.cell plane r j).toNat ∧ m / 2 ^ (32 * j) % 2 ^ 32 = 2 ^ 32 - 1) ∧
      (∀ j, s.cur.arr.enabled r j = false ∨ 96 ≤ j → m / 2 ^ (32 * j) % 2 ^ 32 = 0) ∧
      (∀ p i j, i < 96 → j < 96 → t.cur.arr.cell p i j =
        if clr ∧ p = plane ∧ i = r ∧ s.cur.arr.enabled i j = true then 0 else s.cur.arr.cell p i j) ∧
      t.cur.regs = s.cur.regs ∧ t.cur.sp = s.cur.sp ∧ (∀ c, c ≠ s.turn → t.core c = s.core c) := by
  refine ⟨_, (drainRow s.cur.arr plane r).1, (drainRow s.cur.arr plane r).2, ho, ?_, fun j hj he => ?_, fun j h => ?_,
    fun p i j hi hj => ?_, ?_, ?_, fun c hc => State.core_modCur_other s _ hc⟩
  · rw [State.cur_modCur, Core.drained_seq, State.cur_gains]
    rfl
  · rw [drainRow_eq]
    exact ⟨(rowSum_lane (fun j => BitVec.isLt _) 96 j).trans (if_pos ⟨hj, he⟩),
      (rowSum_lane (fun j => by decide) 96 j).trans (if_pos ⟨hj, he⟩)⟩
  · rw [drainRow_eq]
    refine (rowSum_lane (fun j => by decide) 96 j).trans (if_neg ?_)
    rintro ⟨hj, he⟩
    obtain h | h := h
    · rw [h] at he; exact absurd he (by decide)
    · omega
  · rw [State.cur_modCur]
    exact Core.drained_cell s.cur plane hr dest clr p hi hj
  · rw [State.cur_modCur, Core.drained_regs]
  · rw [State.cur_modCur, Core.drained_sp]

theorem drains_and_masks (g : Guard) (plane : Bool) (row : BitVec 7) (f : VSlot) (r : BitVec 10) (grp : Group) (ix : BitVec 14)
    (mx : BitVec 17) (clr block : Bool) (s : State) (hg : s.cur.on g = true) :
    let base := match grp with | .a => 0 | .b => 0x180000
    let drained := fun (o : Host.Outcome State Fault Refusal) (dest : Dest) =>
      (∃ j, j < 96 ∧ s.cur.arr.enabled row.toNat j = true) →
      ∃ t v m, o = .next t ∧ t.cur.seq = (s.gains .m 4 dest v m 0).cur.seq ∧
        (∀ j, j < 96 → s.cur.arr.enabled row.toNat j = true →
          v / 2 ^ (32 * j) % 2 ^ 32 = (s.cur.arr.cell plane row.toNat j).toNat ∧ m / 2 ^ (32 * j) % 2 ^ 32 = 2 ^ 32 - 1) ∧
        (∀ j, s.cur.arr.enabled row.toNat j = false ∨ 96 ≤ j → m / 2 ^ (32 * j) % 2 ^ 32 = 0) ∧
        (∀ p i j, i < 96 → j < 96 → t.cur.arr.cell p i j =
          if clr ∧ p = plane ∧ i = row.toNat ∧ s.cur.arr.enabled i j = true then 0 else s.cur.arr.cell p i j) ∧
        t.cur.regs = s.cur.regs ∧ t.cur.sp = s.cur.sp ∧ (∀ c, c ≠ s.turn → t.core c = s.core c)
    (row.toNat < 96 → drained (exec (.mdrain g plane row (.vec f r) clr) s) (.v f r.toNat)) ∧
    (row.toNat < 96 → partFits (96 * ix.toNat) 384 →
      drained (exec (.mdrain g plane row (.sp grp ix) clr) s) (.sp (base + 96 * ix.toNat))) ∧
    (96 ≤ row.toNat → exec (.mdrain g plane row (.vec f r) clr) s = .next (s.issueFault .m 0x0F)) ∧
    (row.toNat < 96 → ¬ partFits (96 * ix.toNat) 384 →
      exec (.mdrain g plane row (.sp grp ix) clr) s = .next (s.issueFault .m 0x04)) ∧
    exec (.mmask g block .ones) s =
      .next (s.gains .m 6 .zm (2 ^ 96 - 1 + (if block then 2 ^ 96 else 0)) (2 ^ 97 - 1) 0) ∧
    (16 * mx.toNat + 12 ≤ 0x180000 → ∃ t, exec (.mmask g block (.sp grp mx)) s = .next t ∧
      t.cur.seq = (s.gains .m 6 .zm (s.cur.sp.readLE (base + 16 * mx.toNat) 12 + (if block then 2 ^ 96 else 0)) (2 ^ 97 - 1) 0).cur.seq ∧
      t.cur.arr = s.cur.arr ∧ t.cur.regs = s.cur.regs) := by
  have hbase : (match grp with | .a => 0 | .b => 0x180000) = groupBase grp := by cases grp <;> rfl
  dsimp only
  rw [hbase]
  refine ⟨fun hr hne => ?_, fun hr hfit hne => ?_, fun hr => ?_, fun hr hfit => ?_, ?_, fun hfit => ?_⟩
  · exact drained_sends s plane hr _ clr ((exec_mdrain hg plane hr hne clr).1 f r)
  · exact drained_sends s plane hr _ clr ((exec_mdrain hg plane hr hne clr).2 grp ix hfit)
  · simp only [exec, execMdrain, hg, Bool.not_true, Bool.false_eq_true, if_false, if_pos hr]
  · have href : bankRefused (96 * ix.toNat) 384 = true := by
      rw [← Bool.not_eq_false, bankRefused_iff (by decide)]
      exact hfit
    simp only [exec, execMdrain, hg, Bool.not_true, Bool.false_eq_true, if_false, if_neg (Nat.not_le.mpr hr), href, if_true]
  · simp only [exec, execMmask, hg, Bool.not_true, Bool.false_eq_true, if_false]
    cases block <;> rfl
  · have hfits : bankRefused (16 * mx.toNat) 12 = false := (bankRefused_iff (by decide)).mpr ⟨hfit, by omega⟩
    have word : s.cur.sp.readLE (groupBase grp + 16 * mx.toNat) 12 < 2 ^ 96 := by
      have := leNat_lt (s.cur.sp.readBytes (groupBase grp + 16 * mx.toNat) 12)
      rw [Memory.readBytes_length] at this
      exact this
    have blk : bit block * 2 ^ 96 = if block then 2 ^ 96 else 0 := by cases block <;> rfl
    simp only [exec, execMmask, hg, Bool.not_true, Bool.false_eq_true, if_false, hfits]
    refine ⟨_, rfl, ?_, ?_, ?_⟩
    · rw [State.cur_modCur, State.cur_gains, Nat.mod_eq_of_lt word, blk]
      rfl
    · rw [State.cur_modCur]
      rfl
    · rw [State.cur_modCur]
      rfl

/-! ### Scale registers (R89, R135, R136) -/

/-- The codes that a list of bytes packs into. -/
theorem leNat_codes {l : List Byte} (hl : l.length = 96) {q : Nat} (hq : q < 96) :
    leNat l / 2 ^ (8 * q) % 2 ^ 8 = (l[q]'(hl ▸ hq)).toNat := leNat_div_mod l q (hl ▸ hq)

/-- A scale register's new codes on their way: nothing else that the obligation names changes. -/
theorem scale_sent (s : State) (e : BitVec 6) (note : Core → Core) (v : Nat) (code : Nat → Nat)
    (hseq : (note s.cur).seq = s.cur.seq) (hregs : (note s.cur).regs = s.cur.regs) (hsp : (note s.cur).sp = s.cur.sp)
    (harr : (note s.cur).arr = s.cur.arr) (hv : ∀ q, q < 96 → v / 2 ^ (8 * q) % 2 ^ 8 = code q)
    {o : Host.Outcome State Fault Refusal}
    (ho : o = .next (s.modCur fun k => (note k).push .k 8 (.e e.toNat) v (2 ^ 768 - 1) 0)) :
    ∃ t v, o = .next t ∧
      t.cur.seq = (s.gains .k 8 (.e e.toNat) v (2 ^ 768 - 1) 0).cur.seq ∧
      (∀ q, q < 96 → v / 2 ^ (8 * q) % 2 ^ 8 = code q) ∧ t.cur.regs = s.cur.regs ∧ t.cur.sp = s.cur.sp ∧
      t.cur.arr = s.cur.arr ∧ (∀ n, n ≠ s.turn → t.core n = s.core n) := by
  refine ⟨_, v, ho, ?_, hv, ?_, ?_, ?_, fun n hn => State.core_modCur_other s _ hn⟩
  · rw [State.cur_modCur, State.cur_gains, ← hseq]
    rfl
  · rw [State.cur_modCur]
    exact hregs
  · rw [State.cur_modCur]
    exact hsp
  · rw [State.cur_modCur]
    exact harr

theorem scale_loads (g : Guard) (e d r : BitVec 6) (grp : Group) (ix : BitVec 14) (px : BitVec 16) (c : Byte) (s : State)
    (hg : s.cur.on g = true) :
    let base := match grp with | .a => 0 | .b => 0x180000
    let sent := fun (o : Host.Outcome State Fault Refusal) (dst : BitVec 6) (code : Nat → Nat) =>
      ∃ t v, o = .next t ∧ t.cur.seq = (s.gains .k 8 (.e dst.toNat) v (2 ^ 768 - 1) 0).cur.seq ∧
        (∀ q, q < 96 → v / 2 ^ (8 * q) % 2 ^ 8 = code q) ∧ t.cur.regs = s.cur.regs ∧ t.cur.sp = s.cur.sp ∧
        t.cur.arr = s.cur.arr ∧ (∀ n, n ≠ s.turn → t.core n = s.core n)
    (ix.toNat < 12288 → sent (exec (.kld g e grp ix) s) e fun q =>
      (s.cur.sp.read (base + 128 * ix.toNat + (q ^^^ (8 * (ix.toNat % 4))))).toNat) ∧
    (32 * px.toNat + 96 ≤ 0x180000 → sent (exec (.kldp g e grp px) s) e fun q =>
      (s.cur.sp.read (base + 32 * px.toNat + q)).toNat) ∧
    sent (exec (.kmov g d r) s) d (fun q => (s.cur.readE r.toNat).toNat / 2 ^ (8 * q) % 2 ^ 8) ∧
    sent (exec (.kset g e c) s) e (fun _ => c.toNat) ∧
    (12288 ≤ ix.toNat → exec (.kld g e grp ix) s = .next (s.execFault .k 0x05)) ∧
    (0x180000 < 32 * px.toNat + 96 → exec (.kldp g e grp px) s = .next (s.execFault .k 0x05)) := by
  have hbase : (match grp with | .a => 0 | .b => 0x180000) = groupBase grp := by cases grp <;> rfl
  dsimp only
  rw [hbase]
  refine ⟨fun h => ?_, fun h => ?_, ?_, ?_, fun h => ?_, fun h => ?_⟩
  · refine scale_sent s e (fun k => k.noteAccess (granRange granSp (groupBase grp + 128 * ix.toNat) 128) true)
      (leNat (unswizzle s.cur.sp (groupBase grp + 128 * ix.toNat) (ix.toNat % 4))) _ rfl rfl rfl rfl (fun q hq => ?_) ?_
    · rw [leNat_codes (by simp [unswizzle]) hq]
      simp [unswizzle]
    · simp only [exec, execKld, hg, Bool.not_true, Bool.false_eq_true, if_false, if_neg (Nat.not_le.mpr h),
        State.modCur_eq, pushE, ones]
  · refine scale_sent s e (fun k => k.noteAccess (granRange granSp (groupBase grp + 32 * px.toNat) 96) true)
      (leNat (s.cur.sp.readBytes (groupBase grp + 32 * px.toNat) 96)) _ rfl rfl rfl rfl (fun q hq => ?_) ?_
    · rw [leNat_codes (Memory.readBytes_length _ _ _) hq, Memory.readBytes_get]
    · simp only [exec, execKldp, hg, Bool.not_true, Bool.false_eq_true, if_false,
        if_neg (show ¬Config.groupBytes < _ from Nat.not_lt.mpr h), State.modCur_eq, pushE, ones]
  · refine scale_sent s d id _ _ rfl rfl rfl rfl (fun q _ => rfl) ?_
    simp only [exec, execKmov, hg, if_true]
    rfl
  · refine scale_sent s e id (leNat (List.replicate 96 c)) _ rfl rfl rfl rfl (fun q hq => ?_) ?_
    · rw [leNat_codes (List.length_replicate) hq, List.getElem_replicate]
    · simp only [exec, execKset, hg, if_true]
      rfl
  · simp only [exec, execKld, hg, Bool.not_true, Bool.false_eq_true, if_false, if_pos h]
  · simp only [exec, execKldp, hg, Bool.not_true, Bool.false_eq_true, if_false, if_pos (show Config.groupBytes < _ from h)]

/-- Settles O16: drains and masks, and the loads of the scale registers. -/
theorem matrixDrainsMasksAndScales : Obligations.MatrixDrainsMasksAndScales := ⟨drains_and_masks, scale_loads⟩

end Sys2Proof.Machine
end

section
/-!
PROOFS. What a load reads and what it leaves alone (R166, R167, R171-R176, R187, R191): pieces side by side make one value, an access
that nothing stands before resolves to its bytes, and the load puts its results in flight.
-/
namespace Sys2Proof.Machine

/-! ### Pieces side by side -/

/-- The pieces of w bytes of an access of m elements, element j at address a j. -/
def tiles (w m : Nat) (a : Nat → Nat) : List Piece := (List.range m).map fun j => { pos := w * j, addr := a j, len := w }

/-- A byte of a value is the byte of its part. -/
theorem byte_of_part (v : Nat) {w j r : Nat} (hr : r < w) :
    v / 2 ^ (8 * (w * j + r)) % 2 ^ 8 = v / 2 ^ (8 * w * j) % 2 ^ (8 * w) / 2 ^ (8 * r) % 2 ^ 8 := by
  have top : 8 * w = 8 * r + (8 + 8 * (w - r - 1)) := by omega
  rw [show 8 * (w * j + r) = 8 * w * j + 8 * r by ring, Nat.pow_add, ← Nat.div_div_eq_div_mul]
  generalize v / 2 ^ (8 * w * j) = x
  rw [top, Nat.pow_add, Nat.mod_mul_right_div_self, Nat.pow_add, Nat.mod_mul_right_mod]

theorem rowSum_all {W : Nat} {c : Nat → Nat} (hc : ∀ j, c j < 2 ^ W) {n j : Nat} (hj : j < n) :
    rowSum W (fun _ => true) c n / 2 ^ (W * j) % 2 ^ W = c j := (rowSum_lane hc n j).trans (if_pos ⟨hj, rfl⟩)

/-- The value of pieces side by side: byte r of piece j is in its place. -/
theorem gather_tiles (f : Piece → List Byte) (w : Nat) (ps : Nat → Piece) (m : Nat) (hpos : ∀ j, (ps j).pos = w * j)
    (hlen : ∀ j, j < m → (f (ps j)).length = w) :
    gather f ((List.range m).map ps) < 2 ^ (8 * (w * m)) ∧ ∀ j r, (hj : j < m) → (hr : r < w) →
      gather f ((List.range m).map ps) / 2 ^ (8 * (w * j + r)) % 2 ^ 8 = ((f (ps j))[r]'(by rw [hlen j hj]; exact hr)).toNat := by
  have word : ∀ j, (if j < m then leNat (f (ps j)) else 0) < 2 ^ (8 * w) := fun j => by
    split
    next hj =>
      have := leNat_lt (f (ps j))
      rwa [hlen j hj, show (256 : Nat) = 2 ^ 8 by norm_num, ← Nat.pow_mul] at this
    next => exact Nat.two_pow_pos _
  have sum : gather f ((List.range m).map ps) = rowSum (8 * w) (fun _ => true) (fun j => if j < m then leNat (f (ps j)) else 0) m := by
    rw [gather, List.foldl_map, rowSum, List.filter_true]
    refine List.foldl_ext _ _ _ fun acc j hj => ?_
    rw [if_pos (List.mem_range.mp hj), hpos, Nat.mul_assoc]
  rw [sum]
  refine ⟨Nat.mul_assoc 8 w m ▸ rowSum_lt word m, fun j r hj hr => ?_⟩
  rw [byte_of_part _ hr, rowSum_all word hj, if_pos hj]
  exact leNat_div_mod _ r (by rw [hlen j hj]; exact hr)

/-! ### Translation with caches that are up to date (R214, R338) -/

theorem walkFrom_present {s : State} {va n table : Nat} {e l : Nat} (h : walkFrom s va n table = some (e, l)) : bitAt e 0 = true := by
  induction n generalizing table with
  | zero => exact absurd h (by simp [walkFrom])
  | succ n ih =>
    rw [walkFrom] at h
    split at h
    next => exact absurd h (by simp)
    next hbad =>
      split at h
      next =>
        obtain ⟨rfl, -⟩ := Prod.mk.inj (Option.some.inj h)
        by_contra hb
        exact hbad (by simp [pteBad, hb])
      next => exact ih h

theorem leafFor_present {s : State} {p va : Nat} {e l : Nat} (h : leafFor s p va = some (e, l)) : bitAt e 0 = true := by
  unfold leafFor at h
  split at h
  next => exact absurd h (by simp)
  next => exact walkFrom_present h

theorem leafFor_fresh {s : State} {p : Nat} (h : freshCaches s p) (va : Nat) (old : Bool) : leafFor s p va old = leafFor s p va := by
  cases old with
  | false => rfl
  | true =>
    cases ht : Table.get? (s.ctx p).tlb (va / 4096) with
    | none =>
      unfold leafFor
      dsimp only
      rw [ht]
    | some e =>
      have leaf := h va e ht
      have held : leafFor s p va true = if bitAt e.1.toNat 0 then some (e.1.toNat, e.2) else none := by
        unfold leafFor
        dsimp only
        rw [ht]
      rw [held, leafFor_present leaf, if_pos rfl, leaf]

theorem translate_fresh {s : State} {p : Nat} (h : freshCaches s p) (va : Nat) (old : Bool) : translate s p va old = translate s p va := by
  rw [translate, translate, leafFor_fresh h va old]

/-! ### Resolving (R167, R191) -/

/-- An on-chip access whose pieces lie within the bound of its level. -/
theorem resolve_onchip {s : State} {c : Nat} {lvl : Level} (hl : lvl ≠ .gl) (wr sync : Bool) {w m : Nat} {a : Nat → Nat}
    (h : ∀ j, j < m → a j + w ≤ s.levelBound c lvl) : resolve s c lvl wr sync (tiles w m a) = .ok ((List.range m).map fun j =>
      { pos := w * j, addr := (if lvl = .xs then (s.ctx (s.pasidOf c)).xsbase else 0) + a j, len := w }) := by
  have fits : ((tiles w m a).any fun p => decide (s.levelBound c lvl < p.addr + p.len)) = false := by
    rw [List.any_eq_false]
    intro p hp
    obtain ⟨j, hj, rfl⟩ := List.mem_map.mp hp
    exact fun hd => Nat.not_le.mpr (of_decide_eq_true hd) (h j (List.mem_range.mp hj))
  unfold resolve
  split
  next => exact absurd rfl hl
  next =>
    dsimp only
    rw [fits, if_neg Bool.false_ne_true, tiles, List.map_map]
    rfl

/-- An on-chip access one piece of which passes the bound. -/
theorem resolve_beyond {s : State} {c : Nat} {lvl : Level} (hl : lvl ≠ .gl) (wr sync : Bool) {ps : List Piece}
    (h : ∃ p ∈ ps, s.levelBound c lvl < p.addr + p.len) : resolve s c lvl wr sync ps = .fault 0x0A := by
  have beyond : (ps.any fun p => decide (s.levelBound c lvl < p.addr + p.len)) = true := by
    obtain ⟨p, hp, hb⟩ := h
    exact List.any_eq_true.mpr ⟨p, hp, decide_eq_true hb⟩
  unfold resolve
  split
  next => exact absurd rfl hl
  next =>
    dsimp only
    rw [beyond, if_pos rfl]

theorem resolveGlobal_ok {s : State} {c : Nat} {sync : Bool} {p : Piece} (hf : freshCaches s (s.pasidOf c)) {g : Page}
    (hg : translate s (s.pasidOf c) p.addr = some g) (hr : g.r = true) (hh : g.home = s.chipNo) (hk : g.kind ≠ 2) (old : Bool) :
    resolveGlobal s c false sync p old = .ok [{ p with addr := g.pa, kind := g.kind }] := by
  simp [resolveGlobal, translate_fresh hf, hg, hr, hh, hk]

/-- A global access all of whose pieces resolve. -/
theorem resolve_global {s : State} {c : Nat} {wr sync : Bool} {ps : List Piece} {q : Piece → Piece}
    (h : ∀ p ∈ ps, ∀ old, resolveGlobal s c wr sync p old = .ok [q p]) : resolve s c .gl wr sync ps = .ok (ps.map q) := by
  unfold resolve
  dsimp only
  generalize s.oldMapping (s.pasidOf c) (ps.map (·.addr)) = old
  have walk : ∀ (l : List Piece) (acc : List Piece), (∀ p ∈ l, resolveGlobal s c wr sync p old = .ok [q p]) →
      l.foldl (fun acc p => match acc with
        | .fault f => .fault f
        | .ok l => match resolveGlobal s c wr sync p old with
          | .fault f => .fault f
          | .ok l1 => .ok (l ++ l1)) (.ok acc) = Resolved.ok (acc ++ l.map q) := by
    intro l
    induction l with
    | nil => intro acc _; simp
    | cons p l ih =>
      intro acc hl
      rw [List.foldl_cons, hl p (by simp)]
      refine (ih (acc ++ [q p]) fun p hp => hl p (List.mem_cons_of_mem _ hp)).trans ?_
      rw [List.append_assoc]
      rfl
  exact walk ps [] fun p hp => h p hp old

/-! ### What a quiet core observes (R187, R191, R266) -/

section
variable {s : State} (hq : quiet s)
include hq

theorem quiet_speculative : s.speculative s.turn = false := by
  obtain ⟨-, -, -, -, hspec, -⟩ := hq
  exact hspec

theorem quiet_accessHold (xs : Bool) (ps : List Piece) : s.accessHold s.turn xs false ps = none := by
  obtain ⟨-, -, -, -, hspec, hburst, -⟩ := hq
  unfold State.accessHold
  cases (s.core s.turn).task with
  | none => rfl
  | some t =>
    have : decide (s.cycle < (s.stage (s.stageOf s.turn)).burstEnd) = false := decide_eq_false (Nat.not_lt.mpr hburst)
    simp [hspec, this]

theorem quiet_heldSeen : s.heldSeen s.turn = [] := by
  obtain ⟨-, -, -, -, -, -, -, hheld, -⟩ := hq
  simp [State.heldSeen, clusterOf, hheld]

theorem quiet_visible (xs : Bool) : s.visible s.turn xs = [] := by
  have seen := quiet_heldSeen hq
  obtain ⟨-, -, -, -, -, -, -, -, hun, -, hlog, -⟩ := hq
  have log : (((s.taskOf s.turn).map fun (t : Task) => t.wlog).getD []) = [] := by
    cases ht : s.taskOf s.turn with
    | none => rfl
    | some t => exact hlog t ht
  have own : (s.core s.turn).eng.unWrites = [] := hun
  simp only [State.visible, seen, own, log]
  rfl

theorem quiet_observe {xs : Bool} {p : Piece} (hk : p.kind ≠ 2) (hd : xs = true ∨ p.addr < doorBase) :
    s.observe s.turn xs p = s.homeRead xs p.addr p.len := by
  have door : (!xs && decide (doorBase ≤ p.addr)) = false := by
    rcases hd with rfl | hd
    · rfl
    · rw [decide_eq_false (Nat.not_le.mpr hd), Bool.and_false]
  simp only [State.observe, door, Bool.false_eq_true, if_false, if_neg hk, quiet_visible hq, List.foldl_nil]

theorem quiet_pieceHeld (xs : Bool) (p : Piece) : s.pieceHeld s.turn xs p = false := by
  obtain ⟨-, -, -, -, -, -, hheld, -⟩ := hq
  have none_held : ∀ g, s.heldElsewhere s.turn g = false := fun g => by
    unfold State.heldElsewhere
    rw [List.any_eq_false]
    intro e he
    rw [hheld e he]
    simp
  simp [State.pieceHeld, none_held]

theorem quiet_readsWait (xs : Bool) (p : Piece) : s.readsWait s.turn xs p = false := by
  obtain ⟨-, hfl, hgl, hmc, -⟩ := hq
  unfold State.readsWait
  dsimp only
  cases xs with
  | true =>
    rw [if_pos rfl, Bool.or_eq_false_iff]
    constructor
    · rw [List.any_eq_false]
      intro r hr
      rw [hfl r hr]
      simp
    · cases hm : (s.core s.turn).eng.ldmc with
      | none => rfl
      | some m =>
        dsimp only
        rw [hmc m hm]
        rfl
  | false =>
    rw [if_neg Bool.false_ne_true, List.any_eq_false]
    intro g hg
    rw [hgl g hg]
    simp

theorem quiet_lateOf (xs : Bool) (ps : List Piece) : s.lateOf s.turn xs ps = [] := by
  rw [State.lateOf, List.filter_eq_nil_iff]
  intro p _
  rw [quiet_pieceHeld hq, quiet_readsWait hq]
  exact Bool.false_ne_true

theorem quiet_heldRead (xs : Bool) (ps : List Piece) : s.heldRead s.turn xs ps = [] := by
  obtain ⟨-, -, -, -, -, -, -, hheld, -⟩ := hq
  simp [State.heldRead, clusterOf, hheld]

theorem quiet_poisoned (xs : Bool) (ps : List Piece) : s.poisoned s.turn xs ps = false := by
  obtain ⟨-, -, -, -, -, -, -, hheld, -, -, -, hp, hc⟩ := hq
  simp [State.poisoned, State.linePoisoned, State.lineLost, hp, hc, State.heldPoison, clusterOf, hheld]

end

/-! ### What a load leaves alone -/

/-- `loadFrame`, with the turn as it was. -/
def Loads (s t : State) : Prop := loadFrame s t ∧ t.turn = s.turn

theorem Loads.refl (s : State) : Loads s s := ⟨⟨rfl, rfl, rfl, rfl, rfl, fun _ _ => rfl, rfl, rfl, rfl⟩, rfl⟩

theorem Loads.trans {s t u : State} (h : Loads s t) (h' : Loads t u) : Loads s u := by
  obtain ⟨⟨r, p, l, a, y, c, cl, m, x⟩, w⟩ := h
  obtain ⟨⟨r', p', l', a', y', c', cl', m', x'⟩, w'⟩ := h'
  exact ⟨⟨r'.trans r, p'.trans p, l'.trans l, a'.trans a, y'.trans y, fun d hd => (c' d (w ▸ hd)).trans (c d hd), cl'.trans cl,
    m'.trans m, x'.trans x⟩, w'.trans w⟩

/-- A change of the core in turn that keeps its registers and its storage. -/
theorem Loads.modCur (s : State) {f : Core → Core} (hr : (f s.cur).regs = s.cur.regs) (hp : (f s.cur).sp = s.cur.sp)
    (hl : (f s.cur).ls = s.cur.ls) (ha : (f s.cur).arr = s.cur.arr) (hy : (f s.cur).ys = s.cur.ys) : Loads s (s.modCur f) := by
  refine ⟨⟨?_, ?_, ?_, ?_, ?_, fun c hc => State.core_modCur_other s f hc, rfl, rfl, rfl⟩, rfl⟩
  · rw [State.cur_modCur, hr]
  · rw [State.cur_modCur, hp]
  · rw [State.cur_modCur, hl]
  · rw [State.cur_modCur, ha]
  · rw [State.cur_modCur, hy]

/-! ### Results of a load -/

/-- The result that a load sends for one of its destinations. -/
def loadResult (stream mark : Nat) (lvl : Level) (v : Nat) (acquire : Bool) (o : LoadOut) : Result :=
  { due := stream + latency lvl, slot := .l, dest := o.dest, val := outValue v o, mask := o.mask, issued := stream,
    signed := o.signed, mark := mark, acquire := acquire }

theorem pushLoad_sends (lvl : Level) (v : Nat) (acquire : Bool) (outs : List LoadOut) (s : State) :
    let t := s.pushLoad lvl v [] outs acquire
    Loads s t ∧ t.cur.seq.stream = s.cur.seq.stream ∧ t.nextId = s.nextId ∧ t.cycle = s.cycle ∧ t.cur.eng = s.cur.eng ∧
      t.cur.seq.flight = s.cur.seq.flight ++ outs.map (loadResult s.cur.seq.stream s.nextId lvl v acquire) := by
  induction outs generalizing s with
  | nil => exact ⟨Loads.refl s, rfl, rfl, rfl, rfl, (List.append_nil _).symm⟩
  | cons o outs ih =>
    let f : Core → Core := fun k => k.modSeq fun q => { q with flight := q.flight ++ [loadResult q.stream s.nextId lvl v acquire o] }
    obtain ⟨hl, hs, hi, hc, he, hf⟩ := ih (s.modCur f)
    refine ⟨(Loads.modCur s rfl rfl rfl rfl rfl).trans hl, hs.trans ?_, hi, hc, he.trans ?_, hf.trans ?_⟩
    · rw [State.cur_modCur]
      rfl
    · rw [State.cur_modCur]
      rfl
    · rw [State.cur_modCur, List.map_cons]
      exact List.append_assoc _ _ _

theorem pushGlobal_sends (v : Nat) (acquire so : Bool) (o : LoadOut) (s : State) :
    let t := s.pushGlobal v [] acquire so [o]
    Loads s t ∧ t.cur.seq.flight = s.cur.seq.flight ∧ ∃ g, t.cur.seq.gloads = s.cur.seq.gloads ++ [g] ∧ g.dest = o.dest ∧
      g.val = outValue v o ∧ g.issued = s.cur.seq.stream ∧ s.cycle < g.readyAt ∧ g.reads = [] := by
  refine ⟨⟨⟨?_, ?_, ?_, ?_, ?_, fun c hc => ?_, rfl, rfl, rfl⟩, rfl⟩, ?_, ?_⟩
  all_goals simp only [State.pushGlobal, List.foldl_cons, List.foldl_nil, State.takeId_fst, State.takeId_snd, State.takeFree_fst,
    State.takeFree_snd, State.cur_modCur]
  · rfl
  · rfl
  · rfl
  · rfl
  · rfl
  · exact State.core_modCur_other _ _ hc
  · rfl
  · exact ⟨_, rfl, rfl, rfl, rfl, by dsimp only; omega, rfl⟩

theorem freezeFor_loads (s : State) (scattered : Bool) (ps : List Piece) :
    Loads s (s.freezeFor scattered ps) ∧ (s.freezeFor scattered ps).cur.seq.flight = s.cur.seq.flight ∧
      (s.freezeFor scattered ps).cur.eng = s.cur.eng := by
  unfold State.freezeFor
  split
  · refine ⟨Loads.modCur s rfl rfl rfl rfl rfl, ?_, ?_⟩
    · rw [State.cur_modCur]
      rfl
    · rw [State.cur_modCur]
      rfl
  · exact ⟨Loads.refl s, rfl, rfl⟩

/-- A change of the core in turn to what recovery keeps: its reads, its dependences. -/
theorem modRcv_loads (s : State) (f : Recovery → Recovery) :
    Loads s (s.modCur fun k => k.modRcv f) ∧ (s.modCur fun k => k.modRcv f).cur.seq = s.cur.seq ∧
      (s.modCur fun k => k.modRcv f).cur.eng = s.cur.eng := by
  refine ⟨Loads.modCur s rfl rfl rfl rfl rfl, ?_, ?_⟩
  · rw [State.cur_modCur]
    rfl
  · rw [State.cur_modCur]
    rfl

theorem dependOnPool_loads (c : Nat) (ps : List Piece) (s : State) (hc : s.turn = c) :
    let t := ps.foldl (fun s p => s.dependOnPool c p.addr p.len) s
    Loads s t ∧ t.cur.seq = s.cur.seq ∧ t.cur.eng = s.cur.eng ∧ t.nextId = s.nextId := by
  induction ps generalizing s with
  | nil => exact ⟨Loads.refl s, rfl, rfl, rfl⟩
  | cons p ps ih =>
    have one : Loads s (s.dependOnPool c p.addr p.len) ∧ (s.dependOnPool c p.addr p.len).cur.seq = s.cur.seq ∧
        (s.dependOnPool c p.addr p.len).cur.eng = s.cur.eng ∧ (s.dependOnPool c p.addr p.len).nextId = s.nextId := by
      subst hc
      unfold State.dependOnPool
      dsimp only
      split
      · exact ⟨Loads.refl s, rfl, rfl, rfl⟩
      · obtain ⟨hl, hs, he⟩ := modRcv_loads s _
        exact ⟨hl, hs, he, rfl⟩
    obtain ⟨hl, hs, he, hi⟩ := one
    obtain ⟨hl', hs', he', hi'⟩ := ih (s.dependOnPool c p.addr p.len) (hl.2.trans hc)
    exact ⟨hl.trans hl', hs'.trans hs, he'.trans he, hi'.trans hi⟩

theorem noteAccess_loads (s : State) (gs : List Nat) (r : Bool) :
    Loads s (s.modCur fun k => k.noteAccess gs r) ∧ (s.modCur fun k => k.noteAccess gs r).cur.seq = s.cur.seq ∧
      (s.modCur fun k => k.noteAccess gs r).cur.eng = s.cur.eng := modRcv_loads s _

/-! ### The value of an access (R166, R187) -/

/-- The address of a byte is that of its element, and its place in it. -/
def ByElement (w : Nat) (A : Nat → Nat) : Prop := ∀ j r, r < w → A (w * j + r) = A (w * j) + r

theorem holdsBytes_of_tiles {v w m : Nat} {B : Nat → Byte}
    (h : ∀ j r, j < m → r < w → v / 2 ^ (8 * (w * j + r)) % 2 ^ 8 = (B (w * j + r)).toNat) : holdsBytes (w * m) B v := by
  intro k hk
  have hw : 0 < w := Nat.pos_of_ne_zero (by rintro rfl; simp at hk)
  have := h (k / w) (k % w) (Nat.div_lt_of_lt_mul hk) (Nat.mod_lt _ hw)
  rwa [Nat.div_add_mod] at this

/-- A read of pieces from one memory. -/
theorem gather_memory {f : Piece → List Byte} {w m : Nat} {ps : Nat → Piece} {B : Nat → Byte} (mem : Memory)
    (hpos : ∀ j, (ps j).pos = w * j) (hf : ∀ j, j < m → f (ps j) = mem.readBytes (ps j).addr w)
    (hB : ∀ j r, j < m → r < w → B (w * j + r) = mem.read ((ps j).addr + r)) :
    gather f ((List.range m).map ps) < 2 ^ (8 * (w * m)) ∧ holdsBytes (w * m) B (gather f ((List.range m).map ps)) := by
  obtain ⟨hlt, hb⟩ := gather_tiles f w ps m hpos fun j hj => by rw [hf j hj, Memory.readBytes_length]
  refine ⟨hlt, holdsBytes_of_tiles fun j r hj hr => ?_⟩
  rw [hb j r hj hr, hB j r hj hr]
  simp only [hf j hj, Memory.readBytes_get]

/-- What a load does behind its notes: results in flight, then perhaps a freeze. -/
theorem pushed_loads {s s1 : State} (h1 : Loads s s1) (hseq : s1.cur.seq = s.cur.seq) (lvl : Level) (v : Nat) (acq : Bool)
    (outs : List LoadOut) (frz : Bool) (ps : List Piece) :
    let t := (s1.pushLoad lvl v [] outs acq).freezeFor frz ps
    Loads s t ∧ t.cur.seq.flight = s.cur.seq.flight ++ outs.map (loadResult s.cur.seq.stream s1.nextId lvl v acq) := by
  obtain ⟨hl, -, -, -, -, hf⟩ := pushLoad_sends lvl v acq outs s1
  obtain ⟨hl', hf', -⟩ := freezeFor_loads (s1.pushLoad lvl v [] outs acq) frz ps
  refine ⟨(h1.trans hl).trans hl', ?_⟩
  rw [hf', hf, hseq]

/-- The bytes of a piece at an on-chip level, as the core in turn observes them. -/
def levelBytes (s : State) (lvl : Level) (p : Piece) : List Byte :=
  match lvl with
  | .sp => s.cur.sp.readBytes p.addr p.len
  | .cp => s.poolRead s.turn p.addr p.len
  | _ => s.observe s.turn true p

theorem poolRead_idle {s : State} (h : s.cur.eng.atomics = []) (a n : Nat) :
    s.poolRead s.turn a n = (s.clu (s.turn / 8)).pool.readBytes a n := by
  have h' : (s.core s.turn).eng.atomics = [] := h
  refine List.ext_getElem (by simp [State.poolRead]) fun i h1 h2 => ?_
  rw [Memory.readBytes_get]
  simp [State.poolRead, h', clusterOf]

/-- An on-chip access that may read resolves, and its pieces make its value (R166, R187). -/
theorem readsNow_onchip {s : State} {lvl : Level} (hl : lvl ≠ .gl) {w m : Nat} (hw : 0 < w) {A : Nat → Nat} {B : Nat → Byte}
    (hA : ByElement w A) (h : readsNow s lvl (w * m) w A B) (sync : Bool) :
    ∃ qs, resolve s s.turn lvl false sync (tiles w m fun j => A (w * j)) = .ok qs ∧ gather (levelBytes s lvl) qs < 2 ^ (8 * (w * m)) ∧
      holdsBytes (w * m) B (gather (levelBytes s lvl) qs) := by
  have inside : ∀ j r, j < m → r < w → w * j + r < w * m := fun j r hj hr =>
    calc w * j + r < w * j + w := Nat.add_lt_add_left hr _
      _ = w * (j + 1) := (Nat.mul_succ w j).symm
      _ ≤ w * m := Nat.mul_le_mul_left w hj
  have last : ∀ j, A (w * j) + w = A (w * j + (w - 1)) + 1 := fun j => by rw [hA j (w - 1) (by omega)]; omega
  cases lvl with
  | gl => exact absurd rfl hl
  | sp =>
    exact ⟨_, resolve_onchip hl false sync fun j hj => last j ▸ (h _ (inside j (w - 1) hj (by omega))).1,
      gather_memory s.cur.sp (fun j => rfl) (fun j hj => rfl) fun j r hj hr => by
        rw [(h _ (inside j r hj hr)).2, hA j r hr, if_neg (by decide), Nat.zero_add]⟩
  | cp =>
    obtain ⟨hat, h⟩ := h
    exact ⟨_, resolve_onchip hl false sync fun j hj => last j ▸ (h _ (inside j (w - 1) hj (by omega))).1,
      gather_memory (s.clu (s.turn / 8)).pool (fun j => rfl) (fun j hj => poolRead_idle hat _ _) fun j r hj hr => by
        rw [(h _ (inside j r hj hr)).2, hA j r hr, if_neg (by decide), Nat.zero_add]⟩
  | xs =>
    obtain ⟨hq, h⟩ := h
    exact ⟨_, resolve_onchip hl false sync fun j hj => last j ▸ (h _ (inside j (w - 1) hj (by omega))).1,
      gather_memory s.xs (fun j => rfl) (fun j hj => quiet_observe hq (show (1 : Nat) ≠ 2 by decide) (.inl rfl)) fun j r hj hr => by
        rw [(h _ (inside j r hj hr)).2, hA j r hr, if_pos rfl, Nat.add_assoc]⟩

/-- What a load at an on-chip level sends when it may read (R171-R176). -/
theorem load_onchip {s : State} {lvl : Level} (hl : lvl ≠ .gl) {w m : Nat} (hw : 0 < w) {A : Nat → Nat} {B : Nat → Byte}
    (hA : ByElement w A) (h : readsNow s lvl (w * m) w A B) (acquire scattered : Bool) (outs : List LoadOut) :
    ∃ v mark acq, v < 2 ^ (8 * (w * m)) ∧ holdsBytes (w * m) B v ∧
      let t := s.load lvl acquire scattered (tiles w m fun j => A (w * j)) outs
      Loads s t ∧ t.cur.seq.flight = s.cur.seq.flight ++ outs.map (loadResult s.cur.seq.stream mark lvl v acq) := by
  obtain ⟨qs, hres, hlt, hB⟩ := readsNow_onchip hl hw hA h acquire
  cases lvl with
  | gl => exact absurd rfl hl
  | sp =>
    refine ⟨_, s.nextId, false, hlt, hB, ?_⟩
    simp only [State.load, hres]
    exact pushed_loads (modRcv_loads s _).1 (modRcv_loads s _).2.1 .sp _ false outs scattered _
  | cp =>
    refine ⟨_, s.nextId, false, hlt, hB, ?_⟩
    simp only [State.load, hres, Core.noteAccess]
    generalize hn : (s.modCur fun k => k.modRcv _) = s1
    have h1 : Loads s s1 ∧ s1.cur.seq = s.cur.seq ∧ s1.nextId = s.nextId := by
      subst hn
      exact ⟨(modRcv_loads s _).1, (modRcv_loads s _).2.1, rfl⟩
    obtain ⟨hl1, hs1, hi1⟩ := h1
    obtain ⟨hl2, hs2, -, hi2⟩ := dependOnPool_loads s.turn qs s1 hl1.2
    have done := pushed_loads (hl1.trans hl2) (hs2.trans hs1) .cp (gather (levelBytes s .cp) qs) false outs false []
    rw [hi2, hi1] at done
    exact done
  | xs =>
    obtain ⟨hq, -⟩ := h
    refine ⟨_, s.nextId, acquire, hlt, hB, ?_⟩
    simp only [State.load, hres, beq_self_eq_true, if_true, quiet_accessHold hq, quiet_poisoned hq, quiet_lateOf hq, quiet_speculative hq,
      Bool.false_eq_true, if_false, State.dependOnHeld, quiet_heldRead hq, State.observeHeld, List.isEmpty_nil]
    exact pushed_loads (Loads.refl s) rfl .xs _ acquire outs false []

theorem tlbFill_loads (s : State) (p : Nat) (vas : List Nat) :
    Loads s (s.tlbFill p vas) ∧ (s.tlbFill p vas).cur = s.cur ∧ (s.tlbFill p vas).cycle = s.cycle :=
  ⟨⟨⟨rfl, rfl, rfl, rfl, rfl, fun _ _ => rfl, rfl, rfl, rfl⟩, rfl⟩, rfl, rfl⟩

theorem cacheUn_of_none {s : State} {c : Nat} {ps : List Piece} (h : ∀ p ∈ ps, p.kind ≠ 2) : s.cacheUn c ps = s := by
  have none_un : (ps.filter fun p => p.kind == 2) = [] := by
    rw [List.filter_eq_nil_iff]
    intro p hp
    simpa using h p hp
  simp [State.cacheUn, none_un]

/-- What a load of global memory sends when it may read (R188). -/
theorem load_global {s : State} {w m : Nat} (hw : 0 < w) {A : Nat → Nat} {B : Nat → Byte} (h : readsNow s .gl (w * m) w A B)
    (acquire scattered : Bool) (o : LoadOut) :
    ∃ v, v < 2 ^ (8 * (w * m)) ∧ holdsBytes (w * m) B v ∧
      let t := s.load .gl acquire scattered (tiles w m fun j => A (w * j)) [o]
      Loads s t ∧ t.cur.seq.flight = s.cur.seq.flight ∧ ∃ g, t.cur.seq.gloads = s.cur.seq.gloads ++ [g] ∧ g.dest = o.dest ∧
        g.val = outValue v o ∧ g.issued = s.cur.seq.stream ∧ s.cycle < g.readyAt ∧ g.reads = [] := by
  obtain ⟨hq, h⟩ := h
  have page : ∀ j, j < m → ∃ pg, translate s (s.pasidOf s.turn) (A (w * j)) = some pg ∧ pg.r = true ∧ pg.home = s.chipNo ∧
      pg.kind ≠ 2 ∧ pg.pa + w ≤ 0x20000000000 ∧ ∀ r, r < w → B (w * j + r) = s.pmem.read (pg.pa + r) := fun j hj =>
    h (w * j) (Nat.mul_lt_mul_of_pos_left hj hw) (Nat.mul_mod_right w j)
  have fresh : freshCaches s (s.pasidOf s.turn) := by
    obtain ⟨hf, -⟩ := hq
    exact hf
  let pageAt : Nat → Page := fun a => (translate s (s.pasidOf s.turn) a).getD ⟨0, 0, 0, false, false⟩
  have hres : resolve s s.turn .gl false acquire (tiles w m fun j => A (w * j)) = .ok ((List.range m).map fun j =>
      { pos := w * j, addr := (pageAt (A (w * j))).pa, len := w, kind := (pageAt (A (w * j))).kind }) := by
    rw [resolve_global (q := fun p => { p with addr := (pageAt p.addr).pa, kind := (pageAt p.addr).kind }), tiles, List.map_map]
    · rfl
    · intro p hp old
      obtain ⟨j, hj, rfl⟩ := List.mem_map.mp hp
      obtain ⟨pg, ht, hr, hh, hk, -⟩ := page j (List.mem_range.mp hj)
      rw [resolveGlobal_ok fresh ht hr hh hk]
      simp only [pageAt, ht, Option.getD_some]
  have kinds : ∀ j, j < m → (pageAt (A (w * j))).kind ≠ 2 ∧ (pageAt (A (w * j))).pa < doorBase ∧
      ∀ r, r < w → B (w * j + r) = s.pmem.read ((pageAt (A (w * j))).pa + r) := fun j hj => by
    obtain ⟨pg, ht, -, -, hk, hpa, hB⟩ := page j hj
    have door : doorBase = 0x20000000000 := rfl
    simp only [pageAt, ht, Option.getD_some]
    exact ⟨hk, by omega, hB⟩
  generalize pageAt = pa at hres kinds
  obtain ⟨hlt, hB⟩ := gather_memory (f := s.observe s.turn false) (B := B) s.pmem
    (ps := fun j => { pos := w * j, addr := (pa (A (w * j))).pa, len := w, kind := (pa (A (w * j))).kind }) (fun j => rfl)
    (fun j hj => quiet_observe hq (kinds j hj).1 (.inr (kinds j hj).2.1)) fun j r hj hr => (kinds j hj).2.2 r hr
  refine ⟨_, hlt, hB, ?_⟩
  have un : ∀ p ∈ (List.range m).map fun j => ({ pos := w * j, addr := (pa (A (w * j))).pa, len := w, kind := (pa (A (w * j))).kind } : Piece),
      p.kind ≠ 2 ∧ ¬doorBase ≤ p.addr := fun p hp => by
    obtain ⟨j, hj, rfl⟩ := List.mem_map.mp hp
    exact ⟨(kinds j (List.mem_range.mp hj)).1, Nat.not_le.mpr (kinds j (List.mem_range.mp hj)).2.1⟩
  generalize hps : ((List.range m).map fun j => ({ pos := w * j, addr := (pa (A (w * j))).pa, len := w, kind := (pa (A (w * j))).kind } : Piece)) = ps
    at hres un
  have door : (ps.any fun p => decide (doorBase ≤ p.addr)) = false := by
    rw [List.any_eq_false]
    intro p hp
    simpa using (un p hp).2
  have level : (Level.gl == Level.xs) = false := rfl
  simp only [State.load, hres, level, Bool.false_eq_true, if_false, quiet_accessHold hq, quiet_poisoned hq, quiet_lateOf hq,
    quiet_speculative hq, State.dependOnHeld, quiet_heldRead hq, State.observeHeld, List.isEmpty_nil, if_true,
    cacheUn_of_none fun p hp => (un p hp).1, door]
  obtain ⟨hl, hc, hy⟩ := tlbFill_loads s (s.pasidOf s.turn) (List.map (fun x => x.addr) (tiles w m fun j => A (w * j)))
  have sent := pushGlobal_sends (gather (s.observe s.turn false) ps) acquire (ps.any fun p => p.kind == 0) o
    (s.tlbFill (s.pasidOf s.turn) (List.map (fun x => x.addr) (tiles w m fun j => A (w * j))))
  dsimp only at sent
  rw [hc, hy] at sent
  exact ⟨hl.trans sent.1, sent.2⟩

end Sys2Proof.Machine
end

section
/-!
PROOFS. Loads of registers, pairs, scalars and lane slices, and prefetches (R167, R168, R171-R177).
-/
namespace Sys2Proof.Machine

/-! ### The forms of access -/

theorem words128_eq (ea n : Nat) : words128 ea n = tiles 128 n fun j => ea + 128 * j := rfl

/-- An element of a register load, and the way it is issued: the address of byte k for the pieces of the register. -/
structure RegisterLoad (i : Instr) (f : VSlot) (d : Nat) (lvl : Level) (w : Nat) (A : Nat → Nat) (s : State) : Prop where
  pos : 0 < w
  whole : w * (512 / w) = 512
  byElement : ByElement w A
  aligned : (∀ j, j * w < 512 → A (j * w) % w = 0) → ∃ scat, exec i s =
    .next (s.load lvl false scat (tiles w (512 / w) fun j => A (w * j)) [vecOut f d 0])
  misaligned : (∃ j, j * w < 512 ∧ A (j * w) % w ≠ 0) → exec i s = .next (s.issueFault .l 0x0F)

theorem byElement_words (ea : Nat) : ByElement 128 fun k => ea + k := fun _ r _ => (Nat.add_assoc ea _ r).symm

theorem words_aligned {ea : Nat} : (∀ j, j * 128 < 512 → (ea + j * 128) % 128 = 0) ↔ ea % 128 = 0 :=
  ⟨fun h => by simpa using h 0 (by decide), fun h _ _ => by omega⟩

theorem loadVec_one {s : State} {g : Guard} (hg : s.cur.on g = true) (f : VSlot) (d : BitVec 10) (b : BitVec 5) (lvl : Level)
    (x : BitVec 24) {i : Instr} (hi : exec i s = .next (s.loadVec g f d b lvl x 1)) :
    RegisterLoad i f d.toNat lvl 128 (fun k => (s.cur.readLA b + BitVec.ofInt 64 (x.toInt * 128)).toNat + k) s where
  pos := by decide
  whole := by decide
  byElement := byElement_words _
  aligned h := by
    refine ⟨false, hi.trans ?_⟩
    have ha : effAddr (s.cur.readLA b) x.toInt 128 % 128 = 0 := words_aligned.mp h
    simp only [State.loadVec, hg, Bool.not_true, Bool.false_eq_true, if_false, ha, bne_self_eq_false]
    rfl
  misaligned h := by
    rw [hi]
    have ha : effAddr (s.cur.readLA b) x.toInt 128 % 128 ≠ 0 := fun e => by
      obtain ⟨j, hj, hne⟩ := h
      exact hne (words_aligned.mpr e j hj)
    have hb : (effAddr (s.cur.readLA b) x.toInt 128 % 128 != 0) = true := by simpa using ha
    simp only [State.loadVec, hg, Bool.not_true, Bool.false_eq_true, if_false, hb, if_true]

/-- An address modulo a power of two that divides 2^64. -/
theorem stride_mod (x y : Word64) (j : Nat) {w : Nat} (hw : w ∣ 2 ^ 64) :
    (x + BitVec.ofNat 64 j * y).toNat % w = (x.toNat + j * y.toNat) % w := by
  rw [BitVec.toNat_add, BitVec.toNat_mul, BitVec.toNat_ofNat, Nat.mod_mod_of_dvd _ hw, Nat.add_mod, Nat.mod_mod_of_dvd _ hw,
    Nat.mul_mod, Nat.mod_mod_of_dvd _ hw, ← Nat.mul_mod, ← Nat.add_mod]

theorem stride_aligned (x y : Word64) {w : Nat} (hw : w ∣ 2 ^ 64) (hw1 : 1 * w < 512) :
    (∀ j, j * w < 512 → (x + BitVec.ofNat 64 j * y).toNat % w = 0) ↔ x.toNat % w = 0 ∧ y.toNat % w = 0 := by
  simp only [stride_mod x y _ hw]
  constructor
  · intro h
    have h0 : x.toNat % w = 0 := by simpa using h 0 (by omega)
    have h1 := h 1 hw1
    rw [Nat.one_mul, Nat.add_mod, h0, Nat.zero_add, Nat.mod_mod] at h1
    exact ⟨h0, h1⟩
  · rintro ⟨h0, h1⟩ j _
    rw [Nat.add_mod, h0, Nat.mul_mod, h1, Nat.mul_zero, Nat.zero_mod, Nat.zero_mod]

theorem elementSize_facts (es : EltSize) : 0 < es.bytes ∧ es.bytes * (512 / es.bytes) = 512 ∧ es.bytes ∣ 2 ^ 64 ∧ 1 * es.bytes < 512 := by
  cases es with
  | b4 => exact ⟨by decide, by decide, ⟨2 ^ 62, by norm_num [EltSize.bytes]⟩, by decide⟩
  | b2 => exact ⟨by decide, by decide, ⟨2 ^ 63, by norm_num [EltSize.bytes]⟩, by decide⟩
  | b1 => exact ⟨by decide, by decide, ⟨2 ^ 64, by norm_num [EltSize.bytes]⟩, by decide⟩

theorem byElement_of {w : Nat} (a : Nat → Nat) : ByElement w fun k => a (k / w) + k % w := fun j r hr => by
  have hw : 0 < w := by omega
  dsimp only
  rw [Nat.mul_add_div hw, Nat.div_eq_of_lt hr, Nat.add_zero, Nat.mul_add_mod, Nat.mod_eq_of_lt hr, Nat.mul_div_cancel_left j hw,
    Nat.mul_mod_right, Nat.add_zero]

theorem ofNat_toNat64 (x : Word64) : BitVec.ofNat 64 x.toNat = x := BitVec.eq_of_toNat_eq (by simp)

theorem loadStride {s : State} {g : Guard} (hg : s.cur.on g = true) (f : VSlot) (d : BitVec 10) (b : BitVec 5) (lvl : Level)
    (st : BitVec 5) (es : EltSize) (x : BitVec 17) :
    RegisterLoad (.ldvt g f d b lvl st es x) f d.toNat lvl es.bytes (fun k =>
      (s.cur.readLA b + BitVec.ofInt 64 (x.toInt * es.bytes) + BitVec.ofNat 64 (k / es.bytes) * s.cur.readLA st).toNat +
        k % es.bytes) s := by
  obtain ⟨hpos, hwhole, hdvd, hone⟩ := elementSize_facts es
  have element : ∀ (a : Nat → Nat) j, a (es.bytes * j / es.bytes) + es.bytes * j % es.bytes = a j := fun a j => by
    rw [Nat.mul_div_cancel_left j hpos, Nat.mul_mod_right, Nat.add_zero]
  have cond := stride_aligned (s.cur.readLA b + BitVec.ofInt 64 (x.toInt * es.bytes)) (s.cur.readLA st) hdvd hone
  refine ⟨hpos, hwhole, byElement_of fun q =>
    (s.cur.readLA b + BitVec.ofInt 64 (x.toInt * es.bytes) + BitVec.ofNat 64 q * s.cur.readLA st).toNat, fun h => ⟨true, ?_⟩, fun h => ?_⟩
  · obtain ⟨ha, hb⟩ := cond.mp fun j hj => by
      have := h j hj
      rwa [Nat.mul_comm, element fun q => (s.cur.readLA b + BitVec.ofInt 64 (x.toInt * es.bytes) + BitVec.ofNat 64 q * s.cur.readLA st).toNat] at this
    simp only [exec, execLdvt, hg, Bool.not_true, Bool.false_eq_true, if_false, ha, hb, bne_self_eq_false, Bool.or_self, effAddr,
      ofNat_toNat64, stridePieces, tiles]
    simp only [element fun q => (s.cur.readLA b + BitVec.ofInt 64 (x.toInt * es.bytes) + BitVec.ofNat 64 q * s.cur.readLA st).toNat]
  · have hne : ¬(effAddr (s.cur.readLA b) x.toInt es.bytes % es.bytes = 0 ∧ (s.cur.readLA st).toNat % es.bytes = 0) := fun e => by
      obtain ⟨j, hj, hne⟩ := h
      refine hne ?_
      rw [Nat.mul_comm, element fun q => (s.cur.readLA b + BitVec.ofInt 64 (x.toInt * es.bytes) + BitVec.ofNat 64 q * s.cur.readLA st).toNat]
      exact cond.mpr e j hj
    have hb : (effAddr (s.cur.readLA b) x.toInt es.bytes % es.bytes != 0 || (s.cur.readLA st).toNat % es.bytes != 0) = true := by
      rw [Bool.or_eq_true, bne_iff_ne, bne_iff_ne, ← not_and_or]
      exact hne
    simp only [exec, execLdvt, hg, Bool.not_true, Bool.false_eq_true, if_false, hb, if_true]

/-- Lane addresses as a gather or a scatter has them: 128 words of four bytes. -/
theorem lanePieces_eq (ea : Word64) (ix : Vec) (signExt : Bool) : lanePieces ea ix signExt = tiles 4 128 fun l =>
    (ea + (if signExt then (lane ix l).signExtend 64 else (lane ix l).setWidth 64)).toNat := rfl

theorem loadLanes {s : State} {g : Guard} (hg : s.cur.on g = true) (f : VSlot) (d : BitVec 10) (b : BitVec 5) (lvl : Level)
    (ix : VSrc) (x : BitVec 11) {i : Instr} (hi : exec i s = .next (s.loadGather g f d b lvl ix x)) {o : Nat → Word64}
    (ho : ∀ l, o l = if lvl == .gl then (lane (s.cur.readV f ix) l).signExtend 64 else (lane (s.cur.readV f ix) l).setWidth 64) :
    RegisterLoad i f d.toNat lvl 4 (fun k => (s.cur.readLA b + BitVec.ofInt 64 (x.toInt * 4) + o (k / 4)).toNat + k % 4) s := by
  have element : ∀ (a : Nat → Nat) j, a (4 * j / 4) + 4 * j % 4 = a j := fun a j => by
    rw [Nat.mul_div_cancel_left j (by decide), Nat.mul_mod_right, Nat.add_zero]
  have hps : lanePieces (BitVec.ofNat 64 (effAddr (s.cur.readLA b) x.toInt 4)) (s.cur.readV f ix) (lvl == .gl) =
      tiles 4 128 fun l => (s.cur.readLA b + BitVec.ofInt 64 (x.toInt * 4) + o l).toNat := by
    simp only [lanePieces_eq, effAddr, ofNat_toNat64, ← ho]
    rfl
  have any_iff : ((tiles 4 128 fun l => (s.cur.readLA b + BitVec.ofInt 64 (x.toInt * 4) + o l).toNat).any fun p => p.addr % 4 != 0) = true ↔
      ∃ j, j * 4 < 512 ∧ (s.cur.readLA b + BitVec.ofInt 64 (x.toInt * 4) + o j).toNat % 4 ≠ 0 := by
    simp only [tiles, List.any_map, List.any_eq_true, List.mem_range, Function.comp_apply, bne_iff_ne]
    exact exists_congr fun j => and_congr_left fun _ => by omega
  refine ⟨by decide, by decide, byElement_of fun q => (s.cur.readLA b + BitVec.ofInt 64 (x.toInt * 4) + o q).toNat,
    fun h => ⟨true, hi.trans ?_⟩, fun h => hi.trans ?_⟩
  · have hany : ((tiles 4 128 fun l => (s.cur.readLA b + BitVec.ofInt 64 (x.toInt * 4) + o l).toNat).any fun p => p.addr % 4 != 0) = false := by
      rw [← Bool.not_eq_true, any_iff]
      rintro ⟨j, hj, hne⟩
      have := h j hj
      rw [Nat.mul_comm, element fun q => (s.cur.readLA b + BitVec.ofInt 64 (x.toInt * 4) + o q).toNat] at this
      exact hne this
    simp only [State.loadGather, hg, Bool.not_true, Bool.false_eq_true, if_false, hps, hany]
    simp only [element fun q => (s.cur.readLA b + BitVec.ofInt 64 (x.toInt * 4) + o q).toNat]
  · have hany := any_iff.mpr (by
      obtain ⟨j, hj, hne⟩ := h
      refine ⟨j, hj, fun e => hne ?_⟩
      rw [Nat.mul_comm, element fun q => (s.cur.readLA b + BitVec.ofInt 64 (x.toInt * 4) + o q).toNat]
      exact e)
    simp only [State.loadGather, hg, Bool.not_true, Bool.false_eq_true, if_false, hps, hany, if_true]

/-- Every load of one vector register is issued as R172 to R174 say. -/
theorem vectorLoad_issue {i : Instr} {g : Guard} {f : VSlot} {d : Nat} {lvl : Level} {w : Nat} {A : Nat → Nat} {s : State}
    (hi : slotGuard i = some g) (hg : s.cur.on g = true) (hwf : i.wf = true) (hv : vectorLoad i s = some (f, d, lvl, w, A)) :
    RegisterLoad i f d lvl w A s := by
  unfold vectorLoad at hv
  split at hv
  next g' f' d' b l x =>
    cases hi
    cases hv
    exact loadVec_one hg _ _ _ _ _ rfl
  next g' f' d' b x =>
    cases hi
    cases hv
    exact loadVec_one hg _ _ _ _ _ rfl
  next g' f' d' b l st es x =>
    cases hi
    cases hv
    exact loadStride hg _ _ _ _ _ _ _
  next g' f' d' b l ix x =>
    cases hi
    cases hv
    have onchip : (lvl == .gl) = false := by
      have : (lvl != .gl) = true := hwf
      simpa [bne] using this
    exact loadLanes hg _ _ _ _ _ _ rfl (o := fun l => (lane (s.cur.readV f ix) l).setWidth 64) fun l => by
      rw [onchip, if_neg Bool.false_ne_true]
  next g' f' d' b ix x =>
    cases hi
    cases hv
    exact loadLanes hg _ _ _ _ _ _ rfl (o := fun l => (lane (s.cur.readV f ix) l).signExtend 64) fun l => rfl
  next => exact absurd hv (by simp)

/-! ### Values of a load -/

theorem holdsBytes_part {v n pos len : Nat} {B : Nat → Byte} (h : holdsBytes n B v) (hl : pos + len ≤ n) :
    holdsBytes len (fun k => B (pos + k)) (bits v (8 * pos) (8 * len)) := by
  intro k hk
  have := h (pos + k) (by omega)
  rw [← this, bits, show 8 * (pos + k) = 8 * pos + 8 * k by ring, Nat.pow_add, ← Nat.div_div_eq_div_mul]
  generalize v / 2 ^ (8 * pos) = x
  rw [show 8 * len = 8 * k + (8 + 8 * (len - k - 1)) by omega, Nat.pow_add, Nat.mod_mul_right_div_self, Nat.pow_add,
    Nat.mod_mul_right_mod]

/-- A part of an unsigned value in its place. -/
theorem outValue_part {v n pos len : Nat} {B : Nat → Byte} (h : holdsBytes n B v) (hl : pos + len ≤ n) (dest : Dest) (mask : Nat) :
    holdsBytes len (fun k => B (pos + k)) (outValue v { dest := dest, pos := pos, len := len, mask := mask }) := holdsBytes_part h hl

theorem vecOut_first {v n : Nat} {B : Nat → Byte} (h : holdsBytes (512 + n) B v) (f : VSlot) (d : Nat) :
    holdsBytes 512 B (outValue v (vecOut f d 0)) := by
  have part := outValue_part (pos := 0) (len := 512) h (by omega) (.v f d) allLanes
  simp only [Nat.zero_add] at part
  exact part

/-- A scalar of n bytes as a register holds it: extended by its sign, or by zeros (R175). -/
def scalarGood (sz : LSize) (B : Nat → Byte) (v : Nat) : Prop :=
  holdsBytes sz.bytes B v ∧ v < 2 ^ 64 ∧ ∀ k, sz.bytes ≤ k → k < 8 →
    v / 2 ^ (8 * k) % 2 ^ 8 = if (sz = .sb ∨ sz = .sh ∨ sz = .sw) ∧ (B (sz.bytes - 1)).msb = true then 255 else 0

theorem scalarGood_unsigned {sz : LSize} (hs : ¬(sz = .sb ∨ sz = .sh ∨ sz = .sw)) {B : Nat → Byte} {v : Nat}
    (hv : v < 2 ^ (8 * sz.bytes)) (h : holdsBytes sz.bytes B v) : scalarGood sz B v := by
  have hle : sz.bytes ≤ 8 := by cases sz <;> decide
  refine ⟨h, hv.trans_le (Nat.pow_le_pow_right (by decide) (by omega)), fun k hk _ => ?_⟩
  rw [if_neg fun e => hs e.1, Nat.div_eq_of_lt (hv.trans_le (Nat.pow_le_pow_right (by decide) (by omega))), Nat.zero_mod]

theorem extendTo_signed {n v : Nat} (hn : n ≤ 8) (hv : v < 2 ^ (8 * n)) :
    extendTo true n v = if 2 * v < 2 ^ (8 * n) then v else 2 ^ 64 - 2 ^ (8 * n) + v := by
  have wide : (2 : Nat) ^ (8 * n) ≤ 2 ^ 64 := Nat.pow_le_pow_right (by decide) (by omega)
  have small : ((v : Int) % 2 ^ (8 * n)) = v := Int.emod_eq_of_lt (Int.natCast_nonneg _) (by exact_mod_cast hv)
  have cast : ((2 ^ (8 * n) : Nat) : Int) = 2 ^ (8 * n) := by push_cast; rfl
  rw [extendTo, if_pos rfl, signedOf, Nat.mod_eq_of_lt hv, small, ← cast]
  generalize 2 ^ (8 * n) = p at hv wide
  split
  · omega
  · omega

theorem byte_msb (b : Byte) : b.msb = decide (128 ≤ b.toNat) := BitVec.msb_eq_decide b

theorem scalarGood_signed {sz : LSize} (hs : sz = .sb ∨ sz = .sh ∨ sz = .sw) {B : Nat → Byte} {v : Nat}
    (hv : v < 2 ^ (8 * sz.bytes)) (h : holdsBytes sz.bytes B v) : scalarGood sz B (extendTo true sz.bytes v) := by
  have hle : sz.bytes ≤ 8 := by cases sz <;> decide
  have top := h (sz.bytes - 1) (by cases sz <;> decide)
  rw [extendTo_signed hle hv]
  by_cases hneg : 2 * v < 2 ^ (8 * sz.bytes)
  · rw [if_pos hneg]
    have low : ¬(B (sz.bytes - 1)).msb = true := by
      rw [byte_msb, ← top, decide_eq_true_eq]
      obtain rfl | rfl | rfl := hs
      all_goals
        simp only [LSize.bytes, Nat.reduceMul, Nat.reduceSub, Nat.reducePow] at hv hneg ⊢
        omega
    refine ⟨h, hv.trans_le (Nat.pow_le_pow_right (by decide) (by omega)), fun k hk _ => ?_⟩
    rw [if_neg fun e => low e.2, Nat.div_eq_of_lt (hv.trans_le (Nat.pow_le_pow_right (by decide) (by omega))), Nat.zero_mod]
  · rw [if_neg hneg]
    have high : (B (sz.bytes - 1)).msb = true := by
      rw [byte_msb, ← top, decide_eq_true_eq]
      obtain rfl | rfl | rfl := hs
      all_goals
        simp only [LSize.bytes, Nat.reduceMul, Nat.reduceSub, Nat.reducePow] at hv hneg ⊢
        omega
    have ext : ∀ k, sz.bytes ≤ k → k < 8 → (2 ^ 64 - 2 ^ (8 * sz.bytes) + v) / 2 ^ (8 * k) % 2 ^ 8 = 255 := by
      obtain rfl | rfl | rfl := hs
      all_goals
        simp only [LSize.bytes, Nat.reduceMul, Nat.reduceSub, Nat.reducePow] at hv ⊢
        intro k hk hk'
        interval_cases k <;> omega
    have own : holdsBytes sz.bytes B (2 ^ 64 - 2 ^ (8 * sz.bytes) + v) := by
      obtain rfl | rfl | rfl := hs
      all_goals
        simp only [LSize.bytes, Nat.reduceMul, Nat.reduceSub, Nat.reducePow] at h ⊢
        intro k hk
        rw [← h k hk]
        interval_cases k <;> omega
    have wide : (2 : Nat) ^ (8 * sz.bytes) ≤ 2 ^ 64 := Nat.pow_le_pow_right (by decide) (by omega)
    exact ⟨own, by omega, fun k hk hk' => by rw [if_pos ⟨hs, high⟩, ext k hk hk']⟩

/-! ### Results on their way -/

theorem latency_eq {lvl : Level} (h : lvl ≠ .gl) : latency lvl = loadLatency lvl := by
  cases lvl with
  | gl => exact absurd rfl h
  | sp | cp | xs => rfl

theorem hasSent_onchip {s t : State} {lvl : Level} (hl : lvl ≠ .gl) {outs : List LoadOut} {mark v : Nat} {acq : Bool}
    (hf : t.cur.seq.flight = s.cur.seq.flight ++ outs.map (loadResult s.cur.seq.stream mark lvl v acq)) {o : LoadOut} (ho : o ∈ outs)
    {good : Nat → Prop} (hg : good (outValue v o)) : hasSent s t lvl o.dest good := by
  rw [hasSent, if_neg hl, hf]
  exact ⟨_, List.mem_append_right _ (List.mem_map.mpr ⟨o, ho, rfl⟩), congrArg _ (latency_eq hl), rfl, rfl, hg, rfl, rfl, rfl,
    fun x hx => List.mem_append_left _ hx⟩

/-- A load of one destination, at any level (R171, R172, R175, R187). -/
theorem load_one {s : State} {lvl : Level} {w m : Nat} (hw : 0 < w) {A : Nat → Nat} {B : Nat → Byte} (hA : ByElement w A)
    (h : readsNow s lvl (w * m) w A B) (acquire scattered : Bool) (o : LoadOut) {good : Nat → Prop}
    (hgood : ∀ v, v < 2 ^ (8 * (w * m)) → holdsBytes (w * m) B v → good (outValue v o)) :
    let t := s.load lvl acquire scattered (tiles w m fun j => A (w * j)) [o]
    hasSent s t lvl o.dest good ∧ loadFrame s t := by
  by_cases hl : lvl = .gl
  · subst hl
    obtain ⟨v, hv, hB, ⟨hframe, -⟩, hflight, g, hg, hd, hval, hiss, hready, hreads⟩ := load_global hw h acquire scattered o
    refine ⟨?_, hframe⟩
    rw [hasSent, if_pos rfl]
    exact ⟨hflight, g, hg, hd, hval ▸ hgood v hv hB, hiss, hready, hreads⟩
  · obtain ⟨v, mark, acq, hv, hB, ⟨hframe, -⟩, hflight⟩ := load_onchip hl hw hA h acquire scattered [o]
    exact ⟨hasSent_onchip hl hflight (List.mem_singleton.mpr rfl) (hgood v hv hB), hframe⟩

/-! ### The parts of the obligation -/

theorem registerLoad_sends (i : Instr) (g : Guard) (f : VSlot) (d : Nat) (lvl : Level) (w : Nat) (A : Nat → Nat) (B : Nat → Byte)
    (s : State) (hi : slotGuard i = some g) (hg : s.cur.on g = true) (hwf : i.wf = true)
    (hv : vectorLoad i s = some (f, d, lvl, w, A)) (ha : ∀ j, j * w < 512 → A (j * w) % w = 0) (hr : readsNow s lvl 512 w A B) :
    ∃ t, exec i s = .next t ∧ hasSent s t lvl (.v f d) (holdsBytes 512 B) ∧ loadFrame s t := by
  have h := vectorLoad_issue hi hg hwf hv
  obtain ⟨scat, hex⟩ := h.aligned ha
  obtain ⟨hsent, hframe⟩ := load_one (lvl := lvl) (m := 512 / w) h.pos h.byElement (by rwa [h.whole]) false scat (vecOut f d 0)
    (good := holdsBytes 512 B) fun v _ hB => by
      rw [h.whole] at hB
      exact vecOut_first (n := 0) hB f d
  exact ⟨_, hex, hsent, hframe⟩

theorem registerLoad_refused (i : Instr) (g : Guard) (f : VSlot) (d : Nat) (lvl : Level) (w : Nat) (A : Nat → Nat)
    (s : State) (hi : slotGuard i = some g) (hg : s.cur.on g = true) (hwf : i.wf = true)
    (hv : vectorLoad i s = some (f, d, lvl, w, A)) :
    ((∃ j, j * w < 512 ∧ A (j * w) % w ≠ 0) → exec i s = .next (s.issueFault .l 0x0F)) ∧
    ((∀ j, j * w < 512 → A (j * w) % w = 0) → lvl ≠ .gl → (∃ k, k < 512 ∧ s.levelBound s.turn lvl ≤ A k) →
      exec i s = .next (s.execFault .l 0x0A)) := by
  have h := vectorLoad_issue hi hg hwf hv
  refine ⟨h.misaligned, fun ha hl hb => ?_⟩
  obtain ⟨scat, hex⟩ := h.aligned ha
  obtain ⟨k, hk, hle⟩ := hb
  have hpos := h.pos
  have hmod := Nat.mod_lt k hpos
  have hbyte := h.byElement (k / w) (k % w) hmod
  rw [Nat.div_add_mod] at hbyte
  have hfault := resolve_beyond (s := s) (c := s.turn) hl false false (ps := tiles w (512 / w) fun j => A (w * j)) ⟨_,
    List.mem_map.mpr ⟨k / w, List.mem_range.mpr (Nat.div_lt_of_lt_mul (h.whole.symm ▸ hk)), rfl⟩, by dsimp only; omega⟩
  rw [hex]
  simp only [State.load, hfault]

theorem pairsAndScalars_send (g : Guard) (f : VSlot) (d : BitVec 10) (sd : BitVec 6) (b : BitVec 5) (lvl : Level) (sz : LSize)
    (x : BitVec 24) (y : BitVec 31) (B : Nat → Byte) (s : State) (hg : s.cur.on g = true) :
    let ea := (s.cur.readLA b + BitVec.ofInt 64 (x.toInt * 128)).toNat
    let es := (s.cur.readLA b + BitVec.ofInt 64 y.toInt).toNat
    let n := sz.bytes
    let signed := sz = .sb ∨ sz = .sh ∨ sz = .sw
    let good := fun (v : Nat) => holdsBytes n B v ∧ v < 2 ^ 64 ∧
      (∀ k, n ≤ k → k < 8 → v / 2 ^ (8 * k) % 2 ^ 8 = if signed ∧ (B (n - 1)).msb = true then 255 else 0)
    (ea % 128 = 0 → lvl ≠ .gl → readsNow s lvl 1024 128 (fun k => ea + k) B →
      ∃ t, exec (.ldvp g f d b lvl x) s = .next t ∧ hasSent s t lvl (.v f d.toNat) (holdsBytes 512 B) ∧
        hasSent s t lvl (.v f (d.toNat + 1)) (holdsBytes 512 fun k => B (512 + k)) ∧ loadFrame s t) ∧
    (es % n = 0 → readsNow s lvl n n (fun k => es + k) B →
      (∃ t, exec (.lds g sd b lvl sz y) s = .next t ∧ hasSent s t lvl (.s sd.toNat) good ∧ loadFrame s t) ∧
      (∃ t, exec (.ldacq g sd b lvl sz y) s = .next t ∧ hasSent s t lvl (.s sd.toNat) good ∧ loadFrame s t)) := by
  intro ea es n signed good
  refine ⟨fun ha hl hr => ?_, fun ha hr => ?_⟩
  · have he : effAddr (s.cur.readLA b) x.toInt 128 % 128 = 0 := ha
    have hex : exec (.ldvp g f d b lvl x) s = .next (s.load lvl false false (tiles 128 8 fun j => ea + 128 * j)
        [vecOut f d.toNat 0, vecOut f (d.toNat + 1) 512]) := by
      simp only [exec, execLdvp, State.loadVec, hg, Bool.not_true, Bool.false_eq_true, if_false, he, bne_self_eq_false]
      rfl
    obtain ⟨v, mark, acq, -, hB, ⟨hframe, -⟩, hflight⟩ := load_onchip (m := 8) hl (by decide) (byElement_words ea) hr false false
      [vecOut f d.toNat 0, vecOut f (d.toNat + 1) 512]
    refine ⟨_, hex, hasSent_onchip hl hflight (o := vecOut f d.toNat 0) (by simp) ?_,
      hasSent_onchip hl hflight (o := vecOut f (d.toNat + 1) 512) (by simp) ?_, hframe⟩
    · exact vecOut_first (n := 512) hB f d.toNat
    · exact outValue_part (pos := 512) (len := 512) hB (by decide) (.v f (d.toNat + 1)) allLanes
  · have hpos : 0 < sz.bytes := by cases sz <;> decide
    have he : es % sz.bytes = 0 := ha
    have hes : effAddr (s.cur.readLA b) y.toInt 1 = es := by rw [effAddr, Nat.cast_one, mul_one]
    have hval : ∀ v, v < 2 ^ (8 * (sz.bytes * 1)) → holdsBytes (sz.bytes * 1) B v →
        good (outValue v { dest := .s sd.toNat, pos := 0, len := sz.bytes, mask := ones 64, signed := loadSigned sz }) := fun v hv hB => by
      rw [Nat.mul_one] at hv hB
      have hbits : bits v (8 * 0) (8 * sz.bytes) = v := by
        rw [bits, Nat.mul_zero, pow_zero, Nat.div_one, Nat.mod_eq_of_lt hv]
      by_cases hs : sz = .sb ∨ sz = .sh ∨ sz = .sw
      · have hsig : loadSigned sz = true := by obtain rfl | rfl | rfl := hs <;> rfl
        rw [outValue, hsig, hbits]
        exact scalarGood_signed hs hv hB
      · have hsig : loadSigned sz = false := by
          revert hs
          cases sz <;> decide
        rw [outValue, hsig, hbits]
        exact scalarGood_unsigned hs hv hB
    have sends : ∀ acq, hasSent s (s.load lvl acq false (tiles sz.bytes 1 fun j => es + sz.bytes * j)
        [{ dest := .s sd.toNat, pos := 0, len := sz.bytes, mask := ones 64, signed := loadSigned sz }]) lvl (.s sd.toNat) good ∧
        loadFrame s (s.load lvl acq false (tiles sz.bytes 1 fun j => es + sz.bytes * j)
          [{ dest := .s sd.toNat, pos := 0, len := sz.bytes, mask := ones 64, signed := loadSigned sz }]) := fun acq =>
      load_one hpos (A := fun k => es + k) (fun j r _ => (Nat.add_assoc es _ r).symm) (by rwa [Nat.mul_one]) acq false _ hval
    have piece : tiles sz.bytes 1 (fun j => es + sz.bytes * j) = [{ pos := 0, addr := es, len := sz.bytes }] := rfl
    have hload : ∀ acq, s.loadScalar g sd b lvl sz y acq = s.load lvl acq false (tiles sz.bytes 1 fun j => es + sz.bytes * j)
        [{ dest := .s sd.toNat, pos := 0, len := sz.bytes, mask := ones 64, signed := loadSigned sz }] := fun acq => by
      simp only [State.loadScalar, hg, Bool.not_true, Bool.false_eq_true, if_false, he, bne_self_eq_false, hes, piece]
    exact ⟨⟨_, congrArg Host.Outcome.next (hload false), sends false⟩, ⟨_, congrArg Host.Outcome.next (hload true), sends true⟩⟩

theorem packLanes_lt (l : List (Nat × Nat)) (hl : ∀ x ∈ l, x.1 < 2 ^ 32) : packLanes l < 2 ^ (32 * l.length) := by
  induction l with
  | nil => exact Nat.one_pos
  | cons x l ih =>
    have hx := hl x (by simp)
    have hrest := ih fun y hy => hl y (List.mem_cons_of_mem _ hy)
    have cons : packLanes (x :: l) = x.1 + 2 ^ 32 * packLanes l := rfl
    rw [cons, List.length_cons, Nat.mul_succ, Nat.pow_add]
    omega

theorem ofLanes_lane (l : List Word32) (hl : l.length = 128) {i : Nat} (hi : i < 128) :
    (ofLanes l).toNat / 2 ^ (32 * i) % 2 ^ 32 = (l[i]'(hl ▸ hi)).toNat := by
  have fold : l.foldr (fun x acc => x.toNat + 2 ^ 32 * acc) 0 = packLanes (l.map fun x => (x.toNat, 0)) := by
    rw [packLanes, List.foldr_map]
  have word : ∀ x ∈ l.map fun x : Word32 => (x.toNat, 0), x.1 < 2 ^ 32 := fun x hx => by
    obtain ⟨y, -, rfl⟩ := List.mem_map.mp hx
    exact y.isLt
  have small := packLanes_lt _ word
  rw [List.length_map, hl] at small
  rw [ofLanes, BitVec.toNat_ofNat, fold, Nat.mod_eq_of_lt small, packLanes_lane _ word i (by rw [List.length_map, hl]; exact hi),
    List.getElem_map]

theorem sliceLoad (g : Guard) (f : VSlot) (d : BitVec 10) (b : BitVec 5) (x : BitVec 13) (s : State) (hg : s.cur.on g = true) :
    let o := (s.cur.readLA b + BitVec.ofNat 64 x.toNat).toNat
    (o % 4 = 0 → o + 4 ≤ 0x2000 → ∃ t v, exec (.ldl g f d b x) s = .next t ∧
      t.cur.seq = (s.gains .l 3 (.v f d.toNat) v (2 ^ 4096 - 1) 0).cur.seq ∧
      (∀ l k, l < 128 → k < 4 → v / 2 ^ (32 * l + 8 * k) % 2 ^ 8 = (s.cur.ls.read (0x2000 * l + o + k)).toNat) ∧
      loadFrame s t) ∧
    (o % 4 ≠ 0 → exec (.ldl g f d b x) s = .next (s.issueFault .l 0x0F)) ∧
    (o % 4 = 0 → 0x2000 < o + 4 → exec (.ldl g f d b x) s = .next (s.execFault .l 0x0A)) := by
  intro o
  have ho : effAddr (s.cur.readLA b) x.toNat 1 = o := by
    rw [effAddr, Nat.cast_one, mul_one]
    exact congrArg (fun y => BitVec.toNat (s.cur.readLA b + y)) (BitVec.ofInt_natCast 64 x.toNat)
  have hbound : Config.lsBytes = 0x2000 := rfl
  refine ⟨fun ha hle => ⟨s.modCur fun k =>
      (k.noteAccess (granRange granLs o 4) true).push .l 3 (.v f d.toNat) (sliceRead k.ls o).toNat allLanes 0,
    (sliceRead s.cur.ls o).toNat, ?_, ?_, fun l k hl hk => ?_, ?_⟩, fun ha => ?_, fun ha hlt => ?_⟩
  · simp only [exec, execLdl, hg, Bool.not_true, Bool.false_eq_true, if_false, ho, State.sliceFault, ha, bne_self_eq_false, hbound,
      if_neg (Nat.not_lt.mpr hle)]
  · rw [State.cur_modCur, State.cur_gains]
    rfl
  · have hbyte := byte_of_part (sliceRead s.cur.ls o).toNat (w := 4) (j := l) (r := k) hk
    rw [show 8 * (4 * l + k) = 32 * l + 8 * k by ring, show 8 * 4 * l = 32 * l by ring, show 8 * 4 = 32 from rfl] at hbyte
    rw [hbyte, sliceRead, ofLanes_lane _ (by simp) hl, List.getElem_map, List.getElem_range, BitVec.toNat_ofNat, hbound]
    have hlen : (s.cur.ls.readBytes (0x2000 * l + o) 4).length = 4 := Memory.readBytes_length _ _ _
    have hlt := leNat_lt (s.cur.ls.readBytes (0x2000 * l + o) 4)
    rw [hlen, show (256 : Nat) ^ 4 = 2 ^ 32 by norm_num] at hlt
    rw [Memory.readLE, Nat.mod_eq_of_lt hlt]
    refine (leNat_div_mod _ k (by rw [hlen]; exact hk)).trans ?_
    rw [Memory.readBytes_get]
  · exact (Loads.modCur s rfl rfl rfl rfl rfl).1
  · have hb : (o % 4 != 0) = true := by simpa using ha
    simp only [exec, execLdl, hg, Bool.not_true, Bool.false_eq_true, if_false, ho, State.sliceFault, hb, if_true]
  · simp only [exec, execLdl, hg, Bool.not_true, Bool.false_eq_true, if_false, ho, State.sliceFault, ha, bne_self_eq_false, hbound,
      if_pos hlt]

/-! ### Prefetch (R168, R177) -/

/-- What a prefetch may change: nothing that a load leaves alone, nor the sequencer, nor the tasks. -/
def Prefetches (s t : State) : Prop := Loads s t ∧ t.cur.seq = s.cur.seq ∧ t.tasks = s.tasks

theorem Prefetches.trans {s t u : State} (h : Prefetches s t) (h' : Prefetches t u) : Prefetches s u :=
  ⟨h.1.trans h'.1, h'.2.1.trans h.2.1, h'.2.2.trans h.2.2⟩

theorem prefetch_line (s : State) (p : Nat) (vas : List Nat) (l : Nat) (bs : List Byte) : Prefetches s
    ((s.tlbFill p vas).modCur fun k => k.modEng fun e => { e with unLines := Table.put e.unLines l bs }) := by
  obtain ⟨hl, hc, -⟩ := tlbFill_loads s p vas
  refine ⟨hl.trans (Loads.modCur _ rfl rfl rfl rfl rfl), ?_, rfl⟩
  rw [State.cur_modCur, Core.modEng_seq, hc]

theorem prefetch (g : Guard) (b : BitVec 5) (x : BitVec 24) (s : State) (hg : s.cur.on g = true) :
    let ea := (s.cur.readLA b + BitVec.ofInt 64 (x.toInt * 128)).toNat
    (ea % 128 = 0 → ∃ t, exec (.pfg g b x) s = .next t ∧ loadFrame s t ∧ t.cur.seq = s.cur.seq ∧ t.tasks = s.tasks) ∧
    (ea % 128 ≠ 0 → exec (.pfg g b x) s = .next (s.issueFault .l 0x0F)) := by
  intro ea
  have he : effAddr (s.cur.readLA b) x.toInt 128 = ea := rfl
  refine ⟨fun ha => ?_, fun ha => ?_⟩
  · simp only [exec, execPfg, hg, Bool.not_true, Bool.false_eq_true, if_false, he, ha, bne_self_eq_false]
    refine ⟨_, rfl, ?_⟩
    suffices h : ∀ (f : State → Piece → State), (∀ t p, Prefetches t (f t p)) → ∀ (ps : List Piece) (t : State),
        Prefetches t (ps.foldl f t) by
      refine (fun p : Prefetches s _ => ⟨p.1.1, p.2⟩) (h _ (fun t p => ?_) (words128 ea 4) s)
      · split
        next q _ =>
          split
          · exact prefetch_line t _ _ _ _
          · exact ⟨(tlbFill_loads t _ _).1, rfl, rfl⟩
        next => exact ⟨Loads.refl t, rfl, rfl⟩
    intro f hf ps
    induction ps with
    | nil => exact fun t => ⟨Loads.refl t, rfl, rfl⟩
    | cons p ps ih => exact fun t => (hf t p).trans (ih (f t p))
  · have hb : (ea % 128 != 0) = true := by simpa using ha
    simp only [exec, execPfg, hg, Bool.not_true, Bool.false_eq_true, if_false, he, hb, if_true]

/-- Settles O17: loads of registers, pairs, scalars and slices read their level, and a prefetch changes nothing. -/
theorem loadsReadTheirLevel : Obligations.LoadsReadTheirLevel :=
  ⟨registerLoad_sends, pairsAndScalars_send, sliceLoad, registerLoad_refused, prefetch⟩

end Sys2Proof.Machine
end

section
/-!
PROOFS. Loads whose data lands later (R47, R178-R180, R188, R189, R266).
-/
namespace Sys2Proof.Machine

/-! ### Multicast loads at their issue (R178-R180) -/

theorem bitAt_ranks (n r : Nat) : bitAt n r = true ↔ n.testBit r = true := by rw [bitAt_eq_testBit]

theorem leBytes_getD {n k v : Nat} {b : Byte} (hk : k < n) (h : v / 2 ^ (8 * k) % 2 ^ 8 = b.toNat) : (leBytes n v).getD k 0 = b := by
  rw [List.getD_eq_getElem _ _ (by rw [length_leBytes]; exact hk)]
  exact (BitVec.eq_of_toNat_eq (by rw [getElem_leBytes]; exact h))

theorem speculative_modCur (s : State) {f : Core → Core} (hf : (f s.cur).task = s.cur.task) (c : Nat) :
    (s.modCur f).speculative c = s.speculative c := by
  have task : ((s.modCur f).core c).task = (s.core c).task := by
    by_cases h : c = s.turn
    · subst h
      exact (congrArg Core.task (State.cur_modCur s f)).trans hf
    · rw [State.core_modCur_other s f h]
  unfold State.speculative
  rw [task]
  rfl

/-- The state in which a multicast load has been issued: its data waits to land. -/
theorem issueLdmc_loads {s s1 : State} (h : Loads s s1) (hseq : s1.cur.seq = s.cur.seq) (m : Ldmc) :
    let t := s1.modCur fun k => k.modEng fun e => { e with ldmc := some m }
    t.cur.eng.ldmc = some m ∧ t.cur.seq = s.cur.seq ∧ loadFrame s t := by
  refine ⟨?_, ?_, (h.trans (Loads.modCur s1 rfl rfl rfl rfl rfl)).1⟩
  · rw [State.cur_modCur]
    rfl
  · rw [State.cur_modCur, Core.modEng_seq, hseq]

/-- The snapshot of a multicast load at its issue. -/
def snapshot (s : State) (lvl : Level) (words : Nat) (ranks : Byte) (tgt : BitVec 15) (qs : List Piece) : Ldmc :=
  { due := s.cur.seq.stream + latency lvl + (words + 3) / 4, ranks := ranks.toNat, tgt := tgt.toNat * 128,
    data := leBytes (128 * words) (gather (levelBytes s lvl) qs), mark := s.nextId, issued := s.cur.seq.stream }

/-- A multicast load that is not refused takes its snapshot, and changes nothing that a load leaves alone. -/
theorem exec_ldmc {s : State} {g : Guard} (hg : s.cur.on g = true) {ranks : Byte} {b : BitVec 5} {lvl : Level} (hl : lvl ≠ .gl)
    {tgt : BitVec 15} {nw : BitVec 9} (hsrc : (s.cur.readLA b).toNat % 128 = 0)
    (hranks : ranks.toNat < 2 ^ (s.stage (s.stageOf s.turn)).team) (hidle : s.cur.eng.ldmc = none) {qs : List Piece}
    (hres : resolve s s.turn lvl false false (words128 (s.cur.readLA b).toNat (nw.toNat + 1)) = .ok qs) (hq : lvl = .xs → quiet s) :
    ∃ s1, Loads s s1 ∧ s1.cur.seq = s.cur.seq ∧ exec (.ldmc g ranks b lvl tgt nw) s =
      .next (s1.modCur fun k => k.modEng fun e => { e with ldmc := some (snapshot s lvl (nw.toNat + 1) ranks tgt qs) }) := by
  have team : ranks.toNat / 2 ^ (s.stage (s.stageOf s.turn)).team = 0 := Nat.div_eq_of_lt hranks
  have start : exec (.ldmc g ranks b lvl tgt nw) s = execLdmc g ranks b lvl tgt nw s := rfl
  rw [start]
  cases lvl with
  | gl => exact absurd rfl hl
  | sp =>
    simp only [execLdmc, hg, Bool.not_true, Bool.false_eq_true, if_false, hsrc, bne_self_eq_false, team, hidle, Bool.or_self, hres]
    exact ⟨_, (modRcv_loads s _).1, (modRcv_loads s _).2.1, rfl⟩
  | cp =>
    simp only [execLdmc, hg, Bool.not_true, Bool.false_eq_true, if_false, hsrc, bne_self_eq_false, team, hidle, Bool.or_self, hres]
    have h1 := noteAccess_loads s (granRange granPool (s.cur.readLA b).toNat (128 * (nw.toNat + 1))) true
    obtain ⟨hl2, hs2, -⟩ := dependOnPool_loads s.turn [{ pos := 0, addr := (s.cur.readLA b).toNat, len := 128 * (nw.toNat + 1) }] _ h1.1.2
    simp only [List.foldl_cons, List.foldl_nil] at hl2 hs2
    refine ⟨_, h1.1.trans hl2, hs2.trans h1.2.1, ?_⟩
    simp only [snapshot, latency]
    rfl
  | xs =>
    have hq := hq rfl
    have held : ∀ (f : Recovery → Recovery) (xs : Bool) (ps : List Piece), (s.modCur fun k => k.modRcv f).heldRead s.turn xs ps = [] :=
      fun f xs ps => by
        obtain ⟨-, -, -, -, -, -, -, hheld, -⟩ := hq
        have : ((s.modCur fun k => k.modRcv f).clu (s.turn / 8)).held = [] := hheld
        simp [State.heldRead, clusterOf, this]
    have spec : ∀ f : Recovery → Recovery, (s.modCur fun k => k.modRcv f).speculative s.turn = false := fun f =>
      (speculative_modCur s (f := fun k => k.modRcv f) rfl s.turn).trans (quiet_speculative hq)
    simp only [execLdmc, hg, Bool.not_true, Bool.false_eq_true, if_false, hsrc, bne_self_eq_false, team, hidle, Bool.or_self, hres,
      beq_self_eq_true, if_true, quiet_accessHold hq, quiet_poisoned hq, quiet_lateOf hq, Core.noteAccess, spec, State.dependOnHeld,
      held, State.observeHeld, List.isEmpty_nil, Bool.and_false, waitOf, List.map_nil]
    exact ⟨_, (modRcv_loads s _).1, (modRcv_loads s _).2.1, rfl⟩

theorem ldmc_issues (g : Guard) (ranks : Byte) (b : BitVec 5) (lvl : Level) (tgt : BitVec 15) (nw : BitVec 9) (B : Nat → Byte)
    (s : State) (hg : s.cur.on g = true) (hl : lvl ≠ .gl) :
    let src := (s.cur.readLA b).toNat
    let words := nw.toNat + 1
    let team := (s.stage (s.stageOf s.turn)).team
    (src % 128 = 0 → ranks.toNat < 2 ^ team → s.cur.eng.ldmc = none →
      readsNow s lvl (128 * words) 128 (fun k => src + k) B →
      ∃ t m, exec (.ldmc g ranks b lvl tgt nw) s = .next t ∧ t.cur.eng.ldmc = some m ∧
        m.due = s.cur.seq.stream + loadLatency lvl + (words + 3) / 4 ∧ m.ranks = ranks.toNat ∧ m.tgt = 128 * tgt.toNat ∧
        m.data.length = 128 * words ∧ (∀ k, k < 128 * words → m.data.getD k 0 = B k) ∧ m.wait = [] ∧
        t.cur.seq = s.cur.seq ∧ loadFrame s t) ∧
    (src % 128 ≠ 0 ∨ 2 ^ team ≤ ranks.toNat ∨ (∃ m, s.cur.eng.ldmc = some m ∧ s.cur.seq.stream < m.due) →
      exec (.ldmc g ranks b lvl tgt nw) s = .next (s.issueFault .l 0x0F)) := by
  intro src words team
  refine ⟨fun hsrc hranks hidle hr => ?_, fun hbad => ?_⟩
  · obtain ⟨qs, hres, -, hB⟩ := readsNow_onchip hl (by decide) (byElement_words src) hr false
    obtain ⟨s1, h1, hs1, hex⟩ := exec_ldmc (tgt := tgt) hg hl hsrc hranks hidle hres fun hx => by
      subst hx
      obtain ⟨hq, -⟩ := hr
      exact hq
    obtain ⟨hm, hseq, hframe⟩ := issueLdmc_loads h1 hs1 (snapshot s lvl words ranks tgt qs)
    refine ⟨_, _, hex, hm, ?_, rfl, Nat.mul_comm _ _, length_leBytes _ _, fun k hk => leBytes_getD hk (hB k hk), rfl, hseq, hframe⟩
    rw [← latency_eq hl]
    rfl
  · have refused : ((src % 128 != 0 || ranks.toNat / 2 ^ team != 0) || (match s.cur.eng.ldmc with
        | some m => decide (s.cur.seq.stream < m.due) | none => false)) = true := by
      rw [Bool.or_eq_true, Bool.or_eq_true, bne_iff_ne, bne_iff_ne]
      obtain h | h | ⟨m, hm, hd⟩ := hbad
      · exact .inl (.inl h)
      · exact .inl (.inr (Nat.div_pos h (Nat.two_pow_pos _)).ne')
      · right
        rw [hm]
        exact decide_eq_true hd
    have start : exec (.ldmc g ranks b lvl tgt nw) s = execLdmc g ranks b lvl tgt nw s := rfl
    rw [start]
    simp only [execLdmc, hg, Bool.not_true, Bool.false_eq_true, if_false]
    exact congrArg Host.Outcome.next (if_pos refused)

/-! ### Multicast data lands (R178, R180) -/

theorem askBanks_eq (s : State) (c : Nat) (l : List Nat) : ∃ i n, s.askBanks c l = { s with inputs := i, free := n } := by
  unfold State.askBanks
  generalize (l.map fun a => a / 256).dedup = rows
  induction rows generalizing s with
  | nil => exact ⟨s.inputs, s.free, rfl⟩
  | cons row rows ih => exact ih _

/-- A core d that receives the data; the issuing core c notes that it has written. -/
def receives (m : Ldmc) (c d : Nat) (q : Core) : Core :=
  { (if d = c then q.noteAccess (granRange granSp m.tgt m.data.length) false else q) with sp := q.sp.writeBytes m.tgt m.data }

theorem receives_keeps (m : Ldmc) (c d : Nat) (q : Core) : (receives m c d q).regs = q.regs ∧ (receives m c d q).seq = q.seq ∧
    (receives m c d q).eng = q.eng ∧ (receives m c d q).rank = q.rank := by
  unfold receives
  split
  · exact ⟨rfl, rfl, rfl, rfl⟩
  · exact ⟨rfl, rfl, rfl, rfl⟩

/-- The data of a multicast load reaches one core of the team. -/
def landOn (m : Ldmc) (c : Nat) (s : State) (d : Nat) : State :=
  if bitAt m.ranks (s.core d).rank then
    if d = c then s.modCore d (receives m c d)
    else (s.modCore d (receives m c d)).askBanks d ((List.range m.data.length).map fun i => m.tgt + i)
  else s

/-- The scratchpads of the named cores hold the data, and nothing that the obligation names is different otherwise. -/
structure Landed (m : Ldmc) (L : List Nat) (s t : State) : Prop where
  pmem : t.pmem = s.pmem
  xs : t.xs = s.xs
  clusters : t.clusters = s.clusters
  tasks : t.tasks = s.tasks
  cores : ∀ d, (t.core d).regs = (s.core d).regs ∧ (t.core d).seq = (s.core d).seq ∧ (t.core d).eng = (s.core d).eng ∧
    (t.core d).rank = (s.core d).rank
  holds : ∀ d, d ∈ L → bitAt m.ranks (s.core d).rank = true → ∀ a, (t.core d).sp.read a =
    if m.tgt ≤ a ∧ a < m.tgt + m.data.length then m.data.getD (a - m.tgt) 0 else (s.core d).sp.read a
  keeps : ∀ d, ¬(d ∈ L ∧ bitAt m.ranks (s.core d).rank = true) → (t.core d).sp = (s.core d).sp

theorem read_writeBytes (mem : Memory) (a : Nat) (bs : List Byte) (q : Nat) : (mem.writeBytes a bs).read q =
    if a ≤ q ∧ q < a + bs.length then bs.getD (q - a) 0 else mem.read q := by
  split
  next h =>
    obtain ⟨i, rfl⟩ := Nat.exists_eq_add_of_le h.1
    have hi : i < bs.length := by omega
    rw [Memory.read_writeBytes_inside mem a bs hi, Nat.add_sub_cancel_left, List.getD_eq_getElem _ _ hi]
  next h => exact Memory.read_writeBytes_outside mem a bs (by omega)

theorem landOn_landed (m : Ldmc) (c : Nat) (s : State) (d : Nat) : Landed m [d] s (landOn m c s d) := by
  unfold landOn
  split
  next hb =>
    have written : ∀ t : State, t.pmem = s.pmem → t.xs = s.xs → t.clusters = s.clusters → t.tasks = s.tasks →
        (∀ e, t.core e = (s.modCore d (receives m c d)).core e) → Landed m [d] s t := fun t hp hx hc ht hcore => by
      refine ⟨hp, hx, hc, ht, fun e => ?_, fun e he _ a => ?_, fun e he => ?_⟩
      · rw [hcore]
        by_cases h : e = d
        · subst h
          rw [State.core_modCore_same]
          exact receives_keeps m c e _
        · rw [State.core_modCore_other _ _ h]
          exact ⟨rfl, rfl, rfl, rfl⟩
      · obtain rfl := List.mem_singleton.mp he
        rw [hcore, State.core_modCore_same]
        exact read_writeBytes _ _ _ _
      · rw [hcore]
        by_cases h : e = d
        · subst h
          exact absurd ⟨List.mem_singleton.mpr rfl, hb⟩ he
        · rw [State.core_modCore_other _ _ h]
    split
    next => exact written _ rfl rfl rfl rfl fun e => rfl
    next =>
      obtain ⟨i, n, h⟩ := askBanks_eq (s.modCore d (receives m c d)) d ((List.range m.data.length).map fun i => m.tgt + i)
      rw [h]
      exact written _ rfl rfl rfl rfl fun e => rfl
  next hb =>
    refine ⟨rfl, rfl, rfl, rfl, fun e => ⟨rfl, rfl, rfl, rfl⟩, fun e he hr => ?_, fun e _ => rfl⟩
    obtain rfl := List.mem_singleton.mp he
    exact absurd hr hb

theorem landAll_landed (m : Ldmc) (c : Nat) (L : List Nat) (s : State) : Landed m L s (L.foldl (landOn m c) s) := by
  induction L generalizing s with
  | nil => exact ⟨rfl, rfl, rfl, rfl, fun e => ⟨rfl, rfl, rfl, rfl⟩, fun e he => absurd he (by simp), fun e _ => rfl⟩
  | cons d L ih =>
    obtain ⟨hp, hx, hc, ht, hcores, hholds, hkeeps⟩ := landOn_landed m c s d
    obtain ⟨hp', hx', hc', ht', hcores', hholds', hkeeps'⟩ := ih (landOn m c s d)
    have rank : ∀ e, ((landOn m c s d).core e).rank = (s.core e).rank := fun e => (hcores e).2.2.2
    refine ⟨hp'.trans hp, hx'.trans hx, hc'.trans hc, ht'.trans ht, fun e => ?_, fun e he hr a => ?_, fun e he => ?_⟩
    · obtain ⟨r, q, g, k⟩ := hcores e
      obtain ⟨r', q', g', k'⟩ := hcores' e
      exact ⟨r'.trans r, q'.trans q, g'.trans g, k'.trans k⟩
    · have first : ∀ a, ((landOn m c s d).core e).sp.read a = (s.core e).sp.read a ∨
          ((landOn m c s d).core e).sp.read a =
            if m.tgt ≤ a ∧ a < m.tgt + m.data.length then m.data.getD (a - m.tgt) 0 else (s.core e).sp.read a := fun a => by
        by_cases h : e = d
        · exact .inr (hholds e (List.mem_singleton.mpr h) hr a)
        · exact .inl (by rw [hkeeps e fun x => h (List.mem_singleton.mp x.1)])
      by_cases hL : e ∈ L
      · have later := hholds' e hL (by rw [rank]; exact hr) a
        rw [List.foldl_cons, later]
        split
        next => rfl
        next h =>
          obtain h' | h' := first a
          · exact h'
          · exact h'.trans (if_neg h)
      · rw [List.foldl_cons, hkeeps' e fun x => hL x.1]
        have hd : e = d := (List.mem_cons.mp he).resolve_right hL
        exact hholds e (List.mem_singleton.mpr hd) hr a
    · rw [List.foldl_cons, hkeeps' e fun x => he ⟨List.mem_cons_of_mem _ x.1, by rw [← rank]; exact x.2⟩,
        hkeeps e fun x => he ⟨List.mem_cons.mpr (.inl (List.mem_singleton.mp x.1)), x.2⟩]

theorem landLdmc_early {s : State} {c : Nat} {m : Ldmc} (hm : (s.core c).eng.ldmc = some m) (h : (s.core c).seq.stream < m.due) :
    s.landLdmc c = s := by
  simp only [State.landLdmc, hm, if_pos h]

theorem ldmc_lands (c : Nat) (m : Ldmc) (s : State) (hm : (s.core c).eng.ldmc = some m) :
    let k := s.core c
    let named := fun (d : Nat) => (∃ τ, k.task = some τ ∧ d ∈ s.coresOf τ) ∧ m.ranks.testBit (s.core d).rank = true
    let breach := m.ranks.testBit k.rank = true ∧ k.breaches (granRange granSp m.tgt m.data.length) s.cycle = true
    let t := s.landLdmc c
    (k.seq.stream < m.due → t = s) ∧
    (m.due ≤ k.seq.stream →
      (t.core c).eng.ldmc = none ∧ t.pmem = s.pmem ∧ t.xs = s.xs ∧ t.clusters = s.clusters ∧ t.tasks = s.tasks ∧
      (∀ d, (t.core d).regs = (s.core d).regs) ∧
      (m.bad = false → ¬breach → (t.core c).seq = k.seq ∧
        ∀ d, (named d → ∀ a, (t.core d).sp.read a =
            if m.tgt ≤ a ∧ a < m.tgt + m.data.length then m.data.getD (a - m.tgt) 0 else (s.core d).sp.read a) ∧
          (¬named d → (t.core d).sp = (s.core d).sp)) ∧
      (m.bad = true ∨ breach → (∀ d, (t.core d).sp = (s.core d).sp) ∧
        ((t.core c).seq.efault.map fun f => (f.code, f.slot, f.core)) = some (if m.bad then 0x0C else 0x06, 5, c))) := by
  intro k named breach t
  have hbreach : breach ↔ (bitAt m.ranks k.rank && k.breaches (granRange granSp m.tgt m.data.length) s.cycle) = true := by
    rw [Bool.and_eq_true, bitAt_eq_testBit]
  refine ⟨fun h => landLdmc_early hm h, fun hdue => ?_⟩
  have late : ¬(s.core c).seq.stream < m.due := Nat.not_lt.mpr hdue
  by_cases hbad : m.bad = true ∨ breach
  · have code : (if m.bad then some 0x0C else if bitAt m.ranks k.rank && k.breaches (granRange granSp m.tgt m.data.length) s.cycle
        then some 0x06 else none) = some (if m.bad then 0x0C else 0x06) := by
      split
      next h => rfl
      next h =>
        rw [if_pos (hbreach.mp (hbad.resolve_left h))]
    have fault : t = (s.modCore c fun q => q.modEng fun e => { e with ldmc := none }).modCore c fun q => q.modSeq fun v =>
        { v with efault := some { code := if m.bad then 0x0C else 0x06, core := c, slot := Slot.l.num, addr := v.pc, atExec := true,
                                  safe := v.inBundle && v.bsafe } } := by
      simp only [t, State.landLdmc, hm, if_neg late]
      rw [code]
    have other : ∀ d, (t.core d).regs = (s.core d).regs ∧ (t.core d).sp = (s.core d).sp := fun d => by
      rw [fault]
      by_cases h : d = c
      · subst h
        rw [State.core_modCore_same, State.core_modCore_same]
        exact ⟨rfl, rfl⟩
      · rw [State.core_modCore_other _ _ h, State.core_modCore_other _ _ h]
        exact ⟨rfl, rfl⟩
    refine ⟨?_, ?_, ?_, ?_, ?_, fun d => (other d).1, fun h1 h2 => absurd hbad ?_, fun _ => ⟨fun d => (other d).2, ?_⟩⟩
    · rw [fault, State.core_modCore_same, State.core_modCore_same]
      rfl
    · rw [fault]
      rfl
    · rw [fault]
      rfl
    · rw [fault]
      rfl
    · rw [fault]
      rfl
    · rintro (h | h)
      · rw [h1] at h
        exact absurd h (by decide)
      · exact h2 h
    · rw [fault, State.core_modCore_same]
      rfl
  · obtain ⟨hnb, hnbr⟩ := not_or.mp hbad
    have team : t = (match k.task with | some τ => s.coresOf τ | none => []).foldl (landOn m c)
        (s.modCore c fun q => q.modEng fun e => { e with ldmc := none }) := by
      simp only [t, State.landLdmc, hm, if_neg late, if_neg hnb]
      rw [if_neg fun h => hnbr (hbreach.mpr h)]
      rfl
    have land := landAll_landed m c (match k.task with | some τ => s.coresOf τ | none => [])
      (s.modCore c fun q => q.modEng fun e => { e with ldmc := none })
    rw [← team] at land
    obtain ⟨hp, hx, hc, ht, hcores, hholds, hkeeps⟩ := land
    have start : ∀ d, ((s.modCore c fun q => q.modEng fun e => { e with ldmc := none }).core d).regs = (s.core d).regs ∧
        ((s.modCore c fun q => q.modEng fun e => { e with ldmc := none }).core d).seq = (s.core d).seq ∧
        ((s.modCore c fun q => q.modEng fun e => { e with ldmc := none }).core d).sp = (s.core d).sp ∧
        ((s.modCore c fun q => q.modEng fun e => { e with ldmc := none }).core d).rank = (s.core d).rank := fun d => by
      by_cases h : d = c
      · subst h
        rw [State.core_modCore_same]
        exact ⟨rfl, rfl, rfl, rfl⟩
      · rw [State.core_modCore_other _ _ h]
        exact ⟨rfl, rfl, rfl, rfl⟩
    have member : ∀ d, (d ∈ match k.task with | some τ => s.coresOf τ | none => []) ↔ ∃ τ, k.task = some τ ∧ d ∈ s.coresOf τ := fun d => by
      cases hk : k.task with
      | none => simp
      | some τ => simp
    have isNamed : ∀ d, named d ↔ (d ∈ match k.task with | some τ => s.coresOf τ | none => []) ∧
        bitAt m.ranks ((s.modCore c fun q => q.modEng fun e => { e with ldmc := none }).core d).rank = true := fun d => by
      rw [member, (start d).2.2.2, bitAt_eq_testBit]
    refine ⟨?_, hp, hx, hc, ht, fun d => (hcores d).1.trans (start d).1, fun _ _ => ⟨(hcores c).2.1.trans (start c).2.1, fun d => ⟨?_, ?_⟩⟩,
      fun h => absurd h hbad⟩
    · rw [(hcores c).2.2.1, State.core_modCore_same]
      rfl
    · intro hn a
      rw [hholds d ((isNamed d).mp hn).1 ((isNamed d).mp hn).2 a, (start d).2.2.1]
    · intro hn
      rw [hkeeps d fun h => hn ((isNamed d).mpr h), (start d).2.2.1]

/-! ### Interlocked loads (R47, R188) -/

theorem heldRead_nil (s : State) (c : Nat) (xs : Bool) : s.heldRead c xs [] = [] := by
  simp [State.heldRead]

theorem observeAt_nil (s : State) (c n : Nat) : s.observeAt c n [] = s := rfl

theorem blocked_of_order {k : Core} {x : GLoad} (h : ∀ r ∈ k.seq.flight, r.dest = x.dest → x.issued ≤ r.issued) :
    k.blocked x = false := by
  rw [Core.blocked, List.any_eq_false]
  intro r hr e
  obtain ⟨hd, hi⟩ := Bool.and_eq_true_iff.mp e
  exact Nat.not_lt.mpr (h r hr (eq_of_beq hd)) (of_decide_eq_true hi)

theorem loadBehind_of_read {k : Core} {x : GLoad} (h : x.reads = []) : k.loadBehind x = false := by
  rw [Core.loadBehind, List.any_eq_false]
  intro e _
  simp [h, waitsMeet]

theorem globalLoad_lands (c id : Nat) (x : GLoad) (s : State) (hx : (s.core c).seq.gloads.find? (fun y => y.id == id) = some x) :
    (x.readyAt ≤ s.cycle → x.reads = [] → (∀ r ∈ (s.core c).seq.flight, r.dest = x.dest → x.issued ≤ r.issued) →
      ∃ t, exec (.globalLoadLanding c id) s = .next t ∧
        (∃ r, (t.core c).seq.flight = (s.core c).seq.flight ++ [r] ∧ r.due = (s.core c).seq.stream ∧ r.dest = x.dest ∧
          r.val = x.val ∧ r.mask = x.mask ∧ r.issued = x.issued) ∧
        (∀ y, y ∈ (t.core c).seq.gloads ↔ y ∈ (s.core c).seq.gloads ∧ y.id ≠ id) ∧
        (t.core c).regs = (s.core c).regs ∧ (∀ d, d ≠ c → t.core d = s.core d) ∧ t.pmem = s.pmem) ∧
    (s.cycle < x.readyAt → exec (.globalLoadLanding c id) s = .next s) := by
  have start : exec (.globalLoadLanding c id) s = execGlobalLoadLanding c id s := rfl
  rw [start]
  refine ⟨fun hready hreads hfirst => ?_, fun hearly => ?_⟩
  · simp only [execGlobalLoadLanding, hx, decide_eq_false (Nat.not_lt.mpr hready), blocked_of_order hfirst, loadBehind_of_read hreads,
      hreads, List.any_nil, Bool.or_self, Bool.false_eq_true, if_false, List.isEmpty_nil, Bool.not_true, Bool.and_false, piecesOf,
      List.map_nil, heldRead_nil, observeAt_nil, fillWait, List.foldl_nil]
    refine ⟨_, rfl, ?_, fun y => ?_, ?_, fun d hd => State.core_modCore_other s _ hd, rfl⟩
    · rw [State.core_modCore_same]
      exact ⟨_, rfl, rfl, rfl, rfl, rfl, rfl⟩
    · rw [State.core_modCore_same]
      simp
    · rw [State.core_modCore_same]
      rfl
  · simp only [execGlobalLoadLanding, hx, decide_eq_true hearly, Bool.true_or, if_true]

/-! ### Late chip-scratchpad data (R189, R266) -/

theorem observeHeld_other (s : State) (c : Nat) (hs : List Held) : (s.observeHeld c hs).xs = s.xs ∧
    ((s.observeHeld c hs).core c).regs = (s.core c).regs ∧ ((s.observeHeld c hs).core c).seq = (s.core c).seq ∧
    ((s.observeHeld c hs).core c).eng.ldmc = (s.core c).eng.ldmc ∧
    ∀ d, d ≠ c → (s.observeHeld c hs).core d = s.core d := by
  unfold State.observeHeld
  split
  · exact ⟨rfl, rfl, rfl, rfl, fun _ _ => rfl⟩
  · refine ⟨rfl, ?_, ?_, ?_, fun d hd => State.core_modCore_other s _ hd⟩
    all_goals
      rw [State.core_modCore_same]
      rfl

theorem observeAt_other (s : State) (c n : Nat) (hs : List Held) : (s.observeAt c n hs).xs = s.xs ∧
    ((s.observeAt c n hs).core c).regs = (s.core c).regs ∧ ((s.observeAt c n hs).core c).seq = (s.core c).seq ∧
    ((s.observeAt c n hs).core c).eng.ldmc = (s.core c).eng.ldmc ∧
    ∀ d, d ≠ c → (s.observeAt c n hs).core d = s.core d := by
  obtain ⟨hx, hr, hq, hm, hd⟩ := observeHeld_other s c hs
  unfold State.observeAt
  split
  · exact ⟨rfl, rfl, rfl, rfl, fun _ _ => rfl⟩
  · refine ⟨hx, ?_, ?_, ?_, fun d h => (State.core_modCore_other _ _ h).trans (hd d h)⟩
    · rw [State.core_modCore_same]
      exact hr
    · rw [State.core_modCore_same]
      exact hq
    · rw [State.core_modCore_same]
      exact hm

/-- The one waiting result of a core. -/
theorem xsWaits_one {k : Core} {r : Result} (hf : k.seq.flight = [r]) (hw : r.wait ≠ []) (hm : k.eng.ldmc = none) :
    k.xsWaits = [(r.mark, r.wait)] := by
  have hw' : r.wait.isEmpty = false := by simpa using hw
  simp [Core.xsWaits, hf, hm, hw']

theorem stuckWaits_one (free : Nat × Nat × Nat → Bool) (n : Nat) (w : Nat × Nat × Nat) :
    stuckWaits free [(n, [w])] = if free w then [] else [n] := by
  cases h : free w with
  | true => simp [stuckWaits, waitsMeet, h]
  | false => simp [stuckWaits, waitsMeet, h]

theorem visible_nil {s : State} {c : Nat} (hheld : (s.clu (c / 8)).held = []) (hun : (s.core c).eng.unWrites = [])
    (hlog : ∀ k, s.taskOf c = some k → k.wlog = []) (xs : Bool) : s.visible c xs = [] := by
  have log : (((s.taskOf c).map fun (t : Task) => t.wlog).getD []) = [] := by
    cases ht : s.taskOf c with
    | none => rfl
    | some t => exact hlog t ht
  have seen : s.heldSeen c = [] := by simp [State.heldSeen, clusterOf, hheld]
  simp only [State.visible, seen, hun, log]
  rfl

theorem pieceHeld_nil {s : State} (hheld : ∀ e ∈ s.clusters, e.2.held = []) (c : Nat) (xs : Bool) (p : Piece) :
    s.pieceHeld c xs p = false := by
  have none_held : ∀ g, s.heldElsewhere c g = false := fun g => by
    unfold State.heldElsewhere
    rw [List.any_eq_false]
    intro e he
    rw [hheld e he]
    simp
  simp [State.pieceHeld, none_held]

theorem granules_first (xs : Bool) (a : Nat) {n : Nat} (hn : 0 < n) :
    granOf xs (a / 128 * 128) ∈ granules xs [{ pos := 0, addr := a, len := n }] := by
  have some_line : 0 < (a % 128 + n + 127) / 128 := by omega
  simp only [granules, List.map_cons, List.map_nil, List.flatten_cons, List.flatten_nil, List.append_nil, List.mem_dedup, List.mem_map,
    List.mem_range]
  exact ⟨0, some_line, by rw [Nat.add_zero]⟩

theorem pieceHeld_of_held {s : State} {c a n : Nat} (h : ∃ e ∈ s.clusters, e.1 ≠ c / 8 ∧ ∃ h ∈ e.2.held, h.stage = s.stageOf c ∧
    h.pasid = s.pasidOf c ∧ h.since ≠ s.cycle ∧ h.w.xs = true ∧ h.w.addr = a ∧ h.w.bytes.length = n ∧ 0 < n) :
    s.pieceHeld c true { pos := 0, addr := a, len := n } = true := by
  obtain ⟨e, he, hne, h, hh, hst, hp, hs, hx, ha, hl, hn⟩ := h
  refine List.any_eq_true.mpr ⟨_, granules_first true a hn, List.any_eq_true.mpr ⟨e, he, ?_⟩⟩
  rw [Bool.and_eq_true]
  refine ⟨by simpa [clusterOf] using hne, List.any_eq_true.mpr ⟨h, hh, ?_⟩⟩
  simp [hst, hp, hs, hx, ha, hl, granules_first true a hn]

theorem fillWait_whole (f : Piece → List Byte) (a n : Nat) :
    fillWait f 0 [(0, a, n)] = leNat (f { pos := 0, addr := a, len := n }) := by
  simp [fillWait]

theorem levelData_arrives (c a n : Nat) (r : Result) (s : State) (hf : (s.core c).seq.flight = [r]) (hw : r.wait = [(0, a, n)])
    (hsig : r.signed = false) (hm : (s.core c).eng.ldmc = none) :
    ∃ t, exec (.levelDataArrival c) s = .next t ∧ (t.core c).regs = (s.core c).regs ∧
      (∀ d, d ≠ c → t.core d = s.core d) ∧ t.xs = s.xs ∧
      ((∃ e ∈ s.clusters, e.1 ≠ c / 8 ∧ ∃ h ∈ e.2.held, h.stage = s.stageOf c ∧
          h.pasid = s.pasidOf c ∧ h.since ≠ s.cycle ∧ h.w.xs = true ∧ h.w.addr = a ∧
          h.w.bytes.length = n ∧ 0 < n) → (t.core c).seq.flight = [r]) ∧
      ((∀ e ∈ s.clusters, e.2.held = []) → (s.clu (c / 8)).held = [] → (s.core c).eng.unWrites = [] →
        (∀ k, s.taskOf c = some k → k.wlog = []) → r.val = 0 →
        ∃ q, (t.core c).seq.flight = [q] ∧ q.wait = [] ∧ q.due = r.due ∧ q.dest = r.dest ∧
          q.val = leNat (s.xs.readBytes a n)) := by
  have start : exec (.levelDataArrival c) s = execLevelDataArrival c s := rfl
  have waits : (s.core c).xsWaits = [(r.mark, [(0, a, n)])] := by
    rw [xsWaits_one hf (by rw [hw]; exact List.cons_ne_nil _ _) hm, hw]
  rw [start]
  simp only [execLevelDataArrival, waits, stuckWaits_one]
  cases held : s.pieceHeld c true { pos := 0, addr := a, len := n } with
  | true =>
    simp only [Bool.not_true, Bool.false_eq_true, if_false, List.filter_cons, List.filter_nil, List.contains_cons, beq_self_eq_true,
      Bool.true_or, List.foldl_nil]
    refine ⟨_, rfl, ?_, fun d hd => State.core_modCore_other s _ hd, rfl, fun _ => ?_, fun hall => ?_⟩
    · rw [State.core_modCore_same]
      rfl
    · rw [State.core_modCore_same]
      simp [Core.modSeq, Core.modEng, hf]
    · rw [pieceHeld_nil hall] at held
      exact absurd held (by decide)
  | false =>
    simp only [Bool.not_false, if_true, List.filter_cons, List.filter_nil, List.contains_nil, List.foldl_cons, List.foldl_nil]
    obtain ⟨hx, hr, hq, hl, hd⟩ := observeAt_other s c r.mark (s.heldRead c true (piecesOf [(0, a, n)]))
    refine ⟨_, rfl, ?_, fun d h => (State.core_modCore_other _ _ h).trans (hd d h), hx, fun hex => ?_, fun _ hown hun hlog hval => ?_⟩
    · rw [State.core_modCore_same]
      exact hr
    · rw [pieceHeld_of_held hex] at held
      exact absurd held (by decide)
    · rw [State.core_modCore_same]
      have home : s.observeLate c r.mark true { pos := 0, addr := a, len := n } = s.xs.readBytes a n := by
        simp [State.observeLate, visible_nil hown hun hlog, State.homeRead]
      simp only [Core.modSeq, Core.modEng, hq, hf, List.map_cons, List.map_nil, hw, hval, fillWait_whole, home, hsig, extendTo,
        List.isEmpty_cons, Bool.not_false, Bool.and_self, if_true, Bool.false_eq_true, if_false]
      exact ⟨_, rfl, rfl, rfl, rfl, rfl⟩

/-- Settles O18: multicast data, interlocked loads and late chip-scratchpad data land as stated. -/
theorem loadsLandLater : Obligations.LoadsLandLater := ⟨ldmc_issues, ldmc_lands, globalLoad_lands, levelData_arrives⟩

end Sys2Proof.Machine
end

section
/-!
PROOFS. The release of held writes and the bank requests of the engines (R190, R193, R217).
-/
namespace Sys2Proof.Machine

/-! ### The release of held writes (R217) -/

def waiting (s : State) (h : Held) : Prop := ∀ τ, h.w.clearAt = some τ → s.cycle < τ

theorem releasable_early {s : State} {cl : Nat} {h : Held} (early : waiting s h) : s.releasable cl h = false := by
  simp only [State.releasable]
  cases hc : h.w.clearAt with
  | none => rfl
  | some τ =>
    have late : s.cycle < τ := early τ hc
    simp [Nat.not_le.mpr late]

/-- A write behind another of its core stays where that one stays (R190, R217). -/
theorem releasable_behind {s : State} {cl : Nat} {x h : Held} (mem : x ∈ (s.clu cl).held) (hc : x.w.core = h.w.core)
    (hp : x.pasid = h.pasid) (behind : x.w.epoch < h.w.epoch ∨ (x.w.so = true ∧ h.w.so = true ∧ x.ord < h.ord)) :
    s.releasable cl h = false := by
  have found : ((s.clu cl).held.any fun x => x.w.core == h.w.core && x.pasid == h.pasid &&
      (decide (x.w.epoch < h.w.epoch) || (x.w.so && h.w.so && decide (x.ord < h.ord)))) = true := by
    refine List.any_eq_true.mpr ⟨x, mem, ?_⟩
    rcases behind with lt | ⟨hx, hh, lt⟩
    · simp [hc, hp, lt]
    · simp [hc, hp, hx, hh, lt]
  simp only [State.releasable, found, Bool.not_true, Bool.and_false, Bool.false_and]

theorem releaseSome_none {s : State} {cl : Nat} (h : ∀ x ∈ (s.clu cl).held, s.releasable cl x = false) (n : Nat) :
    s.releaseSome cl n = s := by
  cases n with
  | zero => rfl
  | succ n =>
    have none : ((s.clu cl).held.filter fun h => s.releasable cl h) = [] :=
      List.filter_eq_nil_iff.mpr fun x hx => by simp [h x hx]
    simp only [State.releaseSome, none]

/-- No operation of a core reads what one of its writes would change, or stands before it. -/
def nothingBefore (k : Core) : Prop :=
  k.eng.copyQ = [] ∧ k.eng.stashQ = [] ∧ k.eng.chanQ = [] ∧ k.eng.ldmc = none ∧ k.seq.flight = [] ∧ k.seq.gloads = []

theorem releasable_alone {s : State} {cl : Nat} {h : Held} (here : (s.clu cl).held = [h])
    (clear : ∃ τ, h.w.clearAt = some τ ∧ τ ≤ s.cycle) (viral : s.viral = false) (rel : h.w.rel = false)
    (there : ∀ e ∈ s.clusters, e.1 ≠ cl → e.2.held = []) (same : ∀ e ∈ s.clusters, e.1 = cl → e.2.held = [h])
    (tasks : ∀ e ∈ s.tasks, e.2.wlog = []) (before : nothingBefore (s.core h.w.core)) : s.releasable cl h = true := by
  obtain ⟨τ, hτ, due⟩ := clear
  obtain ⟨hcopy, hstash, hchan, hldmc, hflight, hgl⟩ := before
  have noOther : (((s.clusters.map fun (e : Nat × Cluster) => e.2.held).flatten).any fun x =>
      decide (x.ord < h.ord) && overlap x.w h.w) = false := by
    refine List.any_eq_false.mpr fun x hx => ?_
    obtain ⟨l, hl, hxl⟩ := List.mem_flatten.mp hx
    obtain ⟨e, he, rfl⟩ := List.mem_map.mp hl
    by_cases hc : e.1 = cl
    · rw [same e he hc, List.mem_singleton] at hxl
      simp [hxl]
    · rw [there e he hc] at hxl
      exact absurd hxl (List.not_mem_nil)
  have noTask : (s.tasks.any fun (e : Nat × Task) =>
      e.2.wlog.any fun w => w.core == h.w.core && decide (w.epoch < h.w.epoch) && s.isFrontier e.1) = false :=
    List.any_eq_false.mpr fun e he => by simp [tasks e he]
  simp only [State.releasable, here, hτ, viral, rel, noOther, noTask, hcopy, hstash, hchan, hldmc, hflight, hgl]
  simp [due]

/-- Nothing stands before a write once any free choice is made: the choice changes only what is drawn next. -/
theorem homeWrite_reaches {s : State} {w : Write} (p : Nat)
    (hb : w.xs = false → w.addr + w.bytes.length ≤ 0x20000000000 ∧ 0 < w.bytes.length) :
    (if w.xs then (s.homeWrite p w).xs = s.xs.writeBytes w.addr w.bytes ∧ (s.homeWrite p w).pmem = s.pmem
      else (s.homeWrite p w).pmem = s.pmem.writeBytes w.addr w.bytes ∧ (s.homeWrite p w).xs = s.xs) ∧
    (s.homeWrite p w).clusters = s.clusters ∧ (s.homeWrite p w).cores = s.cores ∧ (s.homeWrite p w).tasks = s.tasks := by
  have notDoor : (!w.xs && decide (doorBase ≤ w.addr)) = false := by
    cases hx : w.xs with
    | true => rfl
    | false =>
      obtain ⟨le, pos⟩ := hb hx
      have : ¬ doorBase ≤ w.addr := by unfold doorBase; omega
      simp [this]
  simp only [State.homeWrite, notDoor, Bool.false_eq_true, if_false]
  by_cases whole : (decide (w.addr % 128 = 0) && decide (w.bytes.length = 128)) = true
  · simp only [whole, if_true]
    cases w.xs <;> exact ⟨⟨rfl, rfl⟩, rfl, rfl, rfl⟩
  · simp only [whole]
    cases w.xs <;> exact ⟨⟨rfl, rfl⟩, rfl, rfl, rfl⟩

theorem releaseOne_reaches {s : State} {cl : Nat} {h : Held} (here : (s.clu cl).held = [h])
    (hb : h.w.xs = false → h.w.addr + h.w.bytes.length ≤ 0x20000000000 ∧ 0 < h.w.bytes.length) :
    let t := s.releaseOne cl h
    (if h.w.xs then t.xs = s.xs.writeBytes h.w.addr h.w.bytes ∧ t.pmem = s.pmem
      else t.pmem = s.pmem.writeBytes h.w.addr h.w.bytes ∧ t.xs = s.xs) ∧
    (t.clu cl).held = [] ∧ t.cores = s.cores ∧ t.tasks = s.tasks := by
  intro t
  let s0 := s.modClu cl fun k => { k with held := k.held.filter fun x => x.ord != h.ord }
  obtain ⟨bytes, hclu, hcores, htasks⟩ := homeWrite_reaches (s := s0) h.pasid hb
  have left : ((s0.homeWrite h.pasid h.w).clu cl).held = [] := by
    rw [State.clu, hclu]
    exact (congrArg Cluster.held (State.clu_modClu_same s cl _)).trans (by simp [here])
  have cases' : t = if h.poison then { s0.homeWrite h.pasid h.w with poison := (s0.homeWrite h.pasid h.w).poison ++ [granOf h.w.xs h.w.addr] }
      else s0.homeWrite h.pasid h.w := rfl
  rw [cases']
  cases h.poison
  · exact ⟨bytes, left, hcores, htasks⟩
  · exact ⟨bytes, left, hcores, htasks⟩

theorem releaseEntry_alone {s : State} {cl : Nat} {h : Held} (here : (s.clu cl).held = [h]) (ok : s.releasable cl h = true) :
    s.releaseEntry cl h = s.releaseOne cl h := by
  simp only [State.releaseEntry, here, List.filter_cons, List.filter_nil, beq_self_eq_true, Bool.and_true, if_true, List.foldl_cons,
    List.foldl_nil, ok]

theorem releaseSome_alone {s : State} {cl : Nat} {h : Held} (here : (s.clu cl).held = [h]) (ok : s.releasable cl h = true)
    (hb : h.w.xs = false → h.w.addr + h.w.bytes.length ≤ 0x20000000000 ∧ 0 < h.w.bytes.length) (n : Nat) :
    s.releaseSome cl (n + 1) = ({ s with free := s.free + 1 } : State).releaseOne cl h := by
  have only : ((s.clu cl).held.filter fun x => s.releasable cl x) = [h] := by simp [here, ok]
  have picked : ([h] : List Held).getD (Config.freeWord s.free % [h].length) h = h := by simp [Nat.mod_one]
  have left : ((({ s with free := s.free + 1 } : State).releaseOne cl h).clu cl).held = [] :=
    (releaseOne_reaches (s := { s with free := s.free + 1 }) here hb).2.1
  have entry : ({ s with free := s.free + 1 } : State).releaseEntry cl h = ({ s with free := s.free + 1 } : State).releaseOne cl h :=
    releaseEntry_alone here ok
  simp only [State.releaseSome, only, State.takeFree_eq, picked, entry]
  exact releaseSome_none (by simp [left]) n

theorem held_alone (cl : Nat) (h : Held) (s : State) (here : (s.clu cl).held = [h]) :
    (waiting s h → exec (.breakwaterRelease cl) s = .next s) ∧
    ((∃ τ, h.w.clearAt = some τ ∧ τ ≤ s.cycle) → s.viral = false → h.w.rel = false →
      (h.w.xs = false → h.w.addr + h.w.bytes.length ≤ 0x20000000000 ∧ 0 < h.w.bytes.length) →
      (∀ e ∈ s.clusters, e.1 ≠ cl → e.2.held = []) → (∀ e ∈ s.clusters, e.1 = cl → e.2.held = [h]) →
      (∀ e ∈ s.tasks, e.2.wlog = []) → nothingBefore (s.core h.w.core) →
      ∃ t, exec (.breakwaterRelease cl) s = .next t ∧ (t.clu cl).held = [] ∧
        (let before := if h.w.xs then s.xs else s.pmem
         let after := if h.w.xs then t.xs else t.pmem
         (∀ k, k < h.w.bytes.length → after.read (h.w.addr + k) = h.w.bytes.getD k 0) ∧
         (∀ a, a < h.w.addr ∨ h.w.addr + h.w.bytes.length ≤ a → after.read a = before.read a)) ∧
        (if h.w.xs then t.pmem = s.pmem else t.xs = s.xs) ∧ t.cores = s.cores ∧ t.tasks = s.tasks) := by
  constructor
  · intro early
    exact congrArg Host.Outcome.next (releaseSome_none (by simp [here, releasable_early early]) 8)
  · intro clear viral rel hb there same tasks before
    have ok := releasable_alone here clear viral rel there same tasks before
    obtain ⟨bytes, left, hcores, htasks⟩ := releaseOne_reaches (s := { s with free := s.free + 1 }) here hb
    refine ⟨_, congrArg Host.Outcome.next (releaseSome_alone here ok hb 7), left, ?_, ?_, hcores, htasks⟩
    · cases hx : h.w.xs
      · rw [hx] at bytes
        rw [if_neg (by decide), if_neg (by decide), bytes.1]
        exact ⟨fun k hk => by rw [Memory.read_writeBytes_inside _ _ _ hk, List.getD_eq_getElem _ _ hk],
          fun a ha => Memory.read_writeBytes_outside _ _ _ ha⟩
      · rw [hx] at bytes
        rw [if_pos rfl, if_pos rfl, bytes.1]
        exact ⟨fun k hk => by rw [Memory.read_writeBytes_inside _ _ _ hk, List.getD_eq_getElem _ _ hk],
          fun a ha => Memory.read_writeBytes_outside _ _ _ ha⟩
    · cases hx : h.w.xs
      · rw [hx] at bytes
        exact bytes.2
      · rw [hx] at bytes
        exact bytes.2

theorem held_behind (cl : Nat) (h₁ h₂ : Held) (s : State) (here : (s.clu cl).held = [h₁, h₂]) (early : waiting s h₁)
    (hc : h₁.w.core = h₂.w.core) (hp : h₁.pasid = h₂.pasid)
    (behind : h₁.w.epoch < h₂.w.epoch ∨ (h₁.w.so = true ∧ h₂.w.so = true ∧ h₁.ord < h₂.ord)) :
    exec (.breakwaterRelease cl) s = .next s := by
  have second : s.releasable cl h₂ = false := releasable_behind (x := h₁) (by simp [here]) hc hp behind
  exact congrArg Host.Outcome.next (releaseSome_none (by simp [here, releasable_early early, second]) 8)

/-! ### Engine bank requests (R193) -/

theorem bankRequest_joins (c b : Nat) (grp : Group) (s : State) (hb : b < 12) :
    ∃ t, exec (.engineBankRequest c grp b) s = .next t ∧
      (t.core c).eng.requests = (s.core c).eng.requests ++ [{ bank := b + (match grp with | .a => 0 | .b => 12) }] ∧
      (t.core c).regs = (s.core c).regs ∧ (t.core c).sp = (s.core c).sp ∧ (t.core c).seq = (s.core c).seq ∧
      (∀ d, d ≠ c → t.core d = s.core d) ∧ t.clusters = s.clusters ∧ t.tasks = s.tasks ∧ t.pmem = s.pmem ∧ t.xs = s.xs := by
  have bank : (if grp = .a then 0 else 12) + b % 12 = b + (match grp with | .a => 0 | .b => 12) := by
    cases grp
    · simp [Nat.mod_eq_of_lt hb]
    · simp [Nat.mod_eq_of_lt hb, Nat.add_comm]
  have at_c := State.core_modCore_same s c fun q => q.modEng fun e =>
    { e with requests := e.requests ++ [{ bank := (if grp = .a then 0 else 12) + b % 12 }] }
  refine ⟨_, rfl, ?_, (congrArg Core.regs at_c).trans rfl, (congrArg Core.sp at_c).trans rfl, (congrArg Core.seq at_c).trans rfl,
    fun d hd => State.core_modCore_other s _ hd, rfl, rfl, rfl, rfl⟩
  rw [at_c, bank]
  rfl

/-- The refused requests of a cycle, with one refusal more for the oldest. -/
def counted (now : Nat) (r : BankRequest) (rest : List BankRequest) : List BankRequest :=
  { r with refusals := r.refusals + 1, last := some now } :: rest.map fun x => { x with last := some now }

theorem refuseBanks_of_refused {s : State} {c : Nat} {holds : Nat → Bool} {r : BankRequest} {rest : List BankRequest}
    (h : ((s.core c).eng.requests.filter fun r => holds r.bank) = r :: rest) :
    s.refuseBanks c holds = if r.refusals < (s.progOf c).slackAt (s.core c).seq.pc then
      (false, s.modCore c fun q => q.modEng fun e => { e with requests := counted s.cycle r rest }) else (true, s) := by
  simp only [State.refuseBanks, h, List.map_cons]
  rfl

theorem refuseBanks_cases (c : Nat) (holds : Nat → Bool) (s : State) :
    let rs := (s.core c).eng.requests
    let slack := (s.progOf c).slackAt (s.core c).seq.pc
    ((∀ r ∈ rs, holds r.bank = false) → s.refuseBanks c holds = (false, s)) ∧
    (∀ (pre post : List BankRequest) (r : BankRequest), rs = pre ++ r :: post → (∀ x ∈ pre, holds x.bank = false) →
      holds r.bank = true →
      (slack ≤ r.refusals → s.refuseBanks c holds = (true, s)) ∧
      (r.refusals < slack →
        ∃ t, s.refuseBanks c holds = (false, t) ∧
          (t.core c).eng.requests.map (fun x => (x.bank, x.refusals)) =
            (r.bank, r.refusals + 1) :: (post.filter fun x => holds x.bank).map (fun x => (x.bank, x.refusals)) ∧
          (t.core c).regs = (s.core c).regs ∧ (t.core c).seq = (s.core c).seq ∧ (∀ d, d ≠ c → t.core d = s.core d))) := by
  intro rs slack
  constructor
  · intro free
    have none : ((s.core c).eng.requests.filter fun r => holds r.bank) = [] :=
      List.filter_eq_nil_iff.mpr fun x hx => by simp [free x hx]
    simp only [State.refuseBanks, none, List.map_nil]
  · intro pre post r split free held
    have refused : ((s.core c).eng.requests.filter fun r => holds r.bank) = r :: post.filter fun x => holds x.bank := by
      have none : (pre.filter fun r => holds r.bank) = [] := List.filter_eq_nil_iff.mpr fun x hx => by simp [free x hx]
      rw [show (s.core c).eng.requests = pre ++ r :: post from split, List.filter_append, none,
        List.filter_cons_of_pos (p := fun r : BankRequest => holds r.bank) held, List.nil_append]
    have outcome := refuseBanks_of_refused refused
    constructor
    · intro past
      exact outcome.trans (if_neg (Nat.not_lt.mpr past))
    · intro within
      have at_c := State.core_modCore_same s c fun q => q.modEng fun e =>
        { e with requests := counted s.cycle r (post.filter fun x => holds x.bank) }
      refine ⟨_, outcome.trans (if_pos within), ?_, (congrArg Core.regs at_c).trans rfl, (congrArg Core.seq at_c).trans rfl,
        fun d hd => State.core_modCore_other s _ hd⟩
      rw [at_c]
      exact congrArg (List.cons _) (by simp [Function.comp_def])

theorem setFrz_bits (x : Word64) : (setFrz x).getLsbD 1 = true ∧ (setFrz x).getLsbD 0 = x.getLsbD 0 := by
  constructor <;> simp [setFrz]

theorem slackFreeze_eq (s : State) :
    s.slackFreeze.cur.eng = { s.cur.eng with requests := [] } ∧ s.slackFreeze.cur.regs.fstat.getLsbD 1 = true ∧
      s.slackFreeze.cur.regs.fstat.getLsbD 0 = s.cur.regs.fstat.getLsbD 0 ∧ s.slackFreeze.cur.regs.s = s.cur.regs.s ∧
      s.slackFreeze.cur.seq.pc = s.cur.seq.pc ∧ (s.slackFreeze.cur.seq.hold.map fun h => h.cause) = some .slack ∧
      (∀ d, d ≠ s.turn → s.slackFreeze.core d = s.core d) := by
  have at_c : s.slackFreeze.cur = ((s.cur.modEng fun e => { e with requests := [] }).modRegs fun r =>
      { r with fstat := setFrz r.fstat }).modSeq fun v => { v with hold := some ⟨.slack, 15⟩ } := State.cur_modCur s _
  rw [at_c]
  exact ⟨rfl, (setFrz_bits _).1, (setFrz_bits _).2, rfl, rfl, rfl, fun d hd => State.core_modCur_other s _ hd⟩

/-- Settles O22: what may leave a breakwater that holds one or two writes, and the refusals of the requests for banks one by one. -/
theorem heldWritesAndBankRequests : Obligations.HeldWritesAndBankRequests :=
  ⟨⟨held_alone, held_behind⟩, bankRequest_joins, refuseBanks_cases, slackFreeze_eq⟩
end Sys2Proof.Machine
end

section
/-!
PROOFS. Pool atomics at their issue and at the bank (R186, R227).
-/
namespace Sys2Proof.Machine

theorem readBytes_writeBytes (m : Memory) (a : Nat) (bs : List Byte) : (m.writeBytes a bs).readBytes a bs.length = bs :=
  List.ext_getElem (Memory.readBytes_length _ _ _) fun i h h' => by
    rw [Memory.readBytes_get _ _ h, Memory.read_writeBytes_inside _ _ _ h']

theorem readLE_writeBytes (m : Memory) (a n v : Nat) : (m.writeBytes a (leBytes n v)).readLE a n = v % 256 ^ n := by
  have same := readBytes_writeBytes m a (leBytes n v)
  rw [length_leBytes] at same
  rw [Memory.readLE, same, leNat_leBytes]

theorem readLE_lt (m : Memory) (a n : Nat) : m.readLE a n < 256 ^ n := by
  have lt := leNat_lt (m.readBytes a n)
  rwa [Memory.readBytes_length] at lt

/-! ### What a rerun's notes leave -/

/-- An effect is noted in the recovery registers of its core alone. -/
theorem sigEffect_eq (s : State) (sl : Slot) (kind addr : Nat) (bs : List Byte) :
    ∃ f : Recovery → Recovery, s.sigEffect sl kind addr bs = s.modCur fun k => k.modRcv f := by
  let f : Recovery → Recovery := fun v => match v.rerun with
    | none => v
    | some r => { v with rerun := some { r with sigs := r.sigs ++
        [{ issued := s.cur.seq.stream, slot := sl, bytes := leBytes 1 kind ++ leBytes 8 addr ++ bs }] } }
  refine ⟨f, congrArg (s.setCore s.turn) ?_⟩
  show s.cur.sigNote s.cur.seq.stream sl _ = s.cur.modRcv f
  unfold Core.sigNote
  cases h : s.cur.rcv.rerun with
  | none => simp [Core.modRcv, f, h]
  | some r => simp [Core.modRcv, f, h]

/-! ### Issue -/

def atomicSize (wide : Bool) : Nat := if wide then 8 else 4

theorem atomicOp_queued {s : State} {g : Guard} (on : s.cur.on g = true) (kind : AtomicKind) (src : SSrc) (b : BitVec 5)
    (wide ret : Bool) (cmp : Word64) (ha : (s.cur.readTA b).toNat % atomicSize wide = 0)
    (hb : (s.cur.readTA b).toNat + atomicSize wide ≤ s.poolBound s.turn) :
    ∃ t x, s.atomicOp g kind src b wide ret cmp = t ∧ t.cur.eng.atomics = s.cur.eng.atomics ++ [x] ∧ x.kind = kind ∧
      x.addr = (s.cur.readTA b).toNat ∧ x.bytes = atomicSize wide ∧
      x.v = s.cur.readS src ∧ x.cmp = cmp ∧ x.ret = ret ∧ x.clearAt = none ∧ x.atCommit = false ∧ x.seg = s.cur.rcv.seg ∧
      t.cur.regs = s.cur.regs ∧ t.cur.seq = s.cur.seq ∧ t.cur.sp = s.cur.sp ∧ (∀ c, c ≠ s.turn → t.core c = s.core c) ∧
      t.clusters = s.clusters ∧ t.pmem = s.pmem ∧ t.xs = s.xs := by
  let q := s.queueAtomic kind (atomicSize wide) (s.cur.readTA b).toNat (s.cur.readS src) cmp ret false
  obtain ⟨f, noted⟩ := sigEffect_eq q .t 1 (s.cur.readTA b).toNat (leBytes (atomicSize wide) (s.cur.readS src).toNat)
  have issued : s.atomicOp g kind src b wide ret cmp = q.modCur fun k => k.modRcv f := by
    rw [← noted]
    simp only [State.atomicOp, on, Bool.not_true, Bool.false_eq_true, if_false]
    exact (if_neg (by simpa [atomicSize] using ha)).trans (if_neg (Nat.not_lt.mpr hb))
  have cur : (q.modCur fun k => k.modRcv f).cur = q.cur.modRcv f := State.cur_modCur q _
  have queued := State.cur_modCur ({ s with nextId := s.nextId + 1 } : State) fun k => k.modEng fun e => { e with atomics := e.atomics ++
    [{ core := s.turn, tid := k.task.getD 0, seg := k.rcv.seg, kind := kind, bytes := atomicSize wide, addr := (s.cur.readTA b).toNat,
       v := s.cur.readS src, cmp := cmp, ret := ret, bundle := k.seq.pc, atCommit := false, stamp := k.regs.lclock.toNat, id := s.nextId,
       run := ((s.taskOf s.turn).map (·.run)).getD 0 }] }
  refine ⟨_, _, issued, (congrArg (·.eng.atomics) (cur.trans (congrArg (Core.modRcv · f) queued))).trans rfl,
    rfl, rfl, rfl, rfl, rfl, rfl, rfl, rfl, rfl, ?_, ?_, ?_, ?_, rfl, rfl, rfl⟩
  · exact (congrArg Core.regs (cur.trans (congrArg (Core.modRcv · f) queued))).trans rfl
  · exact (congrArg Core.seq (cur.trans (congrArg (Core.modRcv · f) queued))).trans rfl
  · exact (congrArg Core.sp (cur.trans (congrArg (Core.modRcv · f) queued))).trans rfl
  · intro c hc
    exact (State.core_modCur_other q _ hc).trans (State.core_modCur_other ({ s with nextId := s.nextId + 1 } : State) _ hc)

theorem atomicOp_misaligned {s : State} {g : Guard} (on : s.cur.on g = true) (kind : AtomicKind) (src : SSrc) (b : BitVec 5)
    (wide ret : Bool) (cmp : Word64) (ha : (s.cur.readTA b).toNat % atomicSize wide ≠ 0) :
    s.atomicOp g kind src b wide ret cmp = s.issueFault .t 0x0F := by
  simp only [State.atomicOp, on, Bool.not_true, Bool.false_eq_true, if_false]
  exact if_pos (by simpa [atomicSize] using ha)

theorem atomicOp_beyond {s : State} {g : Guard} (on : s.cur.on g = true) (kind : AtomicKind) (src : SSrc) (b : BitVec 5)
    (wide ret : Bool) (cmp : Word64) (ha : (s.cur.readTA b).toNat % atomicSize wide = 0)
    (hb : s.poolBound s.turn < (s.cur.readTA b).toNat + atomicSize wide) :
    s.atomicOp g kind src b wide ret cmp = s.execFault .t 0x0A := by
  simp only [State.atomicOp, on, Bool.not_true, Bool.false_eq_true, if_false]
  exact (if_neg (by simpa [atomicSize] using ha)).trans (if_pos hb)

/-- A pool atomic is the shared operation on the operands of its form. -/
theorem exec_atomic {i : Instr} {g : Guard} {kind : AtomicKind} {v cmp : Word64} {b : BitVec 5} {wide ret : Bool} {s : State}
    (hg : slotGuard i = some g) (hf : atomicForm i s = some (kind, v, b, wide, ret, cmp)) :
    ∃ src, v = s.cur.readS src ∧ exec i s = .next (s.atomicOp g kind src b wide ret cmp) := by
  cases i <;> simp only [atomicForm, reduceCtorEq, Option.some.injEq, Prod.mk.injEq] at hf <;>
    (obtain ⟨rfl, rfl, rfl, rfl, rfl, rfl⟩ := hf; cases hg; exact ⟨_, rfl, rfl⟩)

theorem atomic_issues (i : Instr) (g : Guard) (kind : AtomicKind) (v cmp : Word64) (b : BitVec 5) (wide ret : Bool) (s : State)
    (hg : slotGuard i = some g) (on : s.cur.on g = true) (hf : atomicForm i s = some (kind, v, b, wide, ret, cmp)) :
    let a := (s.cur.readTA b).toNat
    let n := if wide then 8 else 4
    (a % n = 0 → a + n ≤ s.poolBound s.turn →
      ∃ t x, exec i s = .next t ∧ t.cur.eng.atomics = s.cur.eng.atomics ++ [x] ∧ x.kind = kind ∧ x.addr = a ∧ x.bytes = n ∧
        x.v = v ∧ x.cmp = cmp ∧ x.ret = ret ∧ x.clearAt = none ∧ x.atCommit = false ∧ x.seg = s.cur.rcv.seg ∧
        t.cur.regs = s.cur.regs ∧ t.cur.seq = s.cur.seq ∧ t.cur.sp = s.cur.sp ∧ (∀ c, c ≠ s.turn → t.core c = s.core c) ∧
        t.clusters = s.clusters ∧ t.pmem = s.pmem ∧ t.xs = s.xs) ∧
    (a % n ≠ 0 → exec i s = .next (s.issueFault .t 0x0F)) ∧
    (a % n = 0 → s.poolBound s.turn < a + n → exec i s = .next (s.execFault .t 0x0A)) := by
  obtain ⟨src, rfl, run⟩ := exec_atomic hg hf
  intro a n
  refine ⟨fun ha hb => ?_, fun ha => ?_, fun ha hb => ?_⟩
  · obtain ⟨t, x, issued, rest⟩ := atomicOp_queued on kind src b wide ret cmp ha hb
    exact ⟨t, x, run.trans (congrArg Host.Outcome.next issued), rest⟩
  · rw [run, atomicOp_misaligned on kind src b wide ret cmp ha]
  · rw [run, atomicOp_beyond on kind src b wide ret cmp ha hb]

/-! ### At the bank -/

theorem signed_eq (w : Nat) (hw : 0 < w) {x : Nat} (hx : x < 2 ^ w) :
    signedOf x w = if x < 2 ^ w / 2 then (x : Int) else (x : Int) - (2 ^ w : Nat) := by
  have even : 2 ^ w = 2 * 2 ^ (w - 1) := by rw [← Nat.pow_succ']; congr 1; omega
  have whole : (x : Int) % 2 ^ w = x := by exact_mod_cast congrArg (Nat.cast (R := Int)) (Nat.mod_eq_of_lt hx)
  simp only [signedOf, Nat.mod_eq_of_lt hx, whole]
  by_cases h : 2 * x < 2 ^ w
  · rw [if_pos h, if_pos (by omega)]
  · rw [if_neg h, if_neg (by omega)]
    simp

theorem ite_lt {p : Prop} [Decidable p] {a b m : Nat} (ha : a < m) (hb : b < m) : (if p then a else b) < m := by
  split
  · exact ha
  · exact hb

theorem atomicResult_lt {kind : AtomicKind} {n old v cmp new : Nat} (hold : old < 2 ^ (8 * n))
    (h : atomicResult kind n old v cmp = some new) : new < 2 ^ (8 * n) := by
  have pos : 0 < 2 ^ (8 * n) := Nat.two_pow_pos _
  have hv : v % 2 ^ (8 * n) < 2 ^ (8 * n) := Nat.mod_lt _ pos
  cases kind <;> simp only [atomicResult, Option.some.injEq, reduceCtorEq] at h <;> subst h
  case add => exact Nat.mod_lt _ pos
  case minU => exact Nat.lt_of_le_of_lt (Nat.min_le_left _ _) hold
  case maxU => exact Nat.max_lt.mpr ⟨hold, hv⟩
  case xchg => exact hv
  case minS => exact ite_lt hv hold
  case maxS => exact ite_lt hv hold
  case cas => exact ite_lt hv hold

/-- The model's new value is the one that R186 defines. -/
theorem atomicNew_eq {kind : AtomicKind} {n old v cmp new : Nat} (hn : 0 < n) (hold : old < 2 ^ (8 * n))
    (h : atomicResult kind n old v cmp = some new) : (kind == .store) = false ∧ atomicNew kind n old v cmp = new := by
  have hv : v % 2 ^ (8 * n) < 2 ^ (8 * n) := Nat.mod_lt _ (Nat.two_pow_pos _)
  have sv := signed_eq (8 * n) (by omega) hv
  have so := signed_eq (8 * n) (by omega) hold
  cases kind <;> simp only [atomicResult, Option.some.injEq, reduceCtorEq] at h <;> refine ⟨rfl, h ▸ ?_⟩
  case minS => simp only [atomicNew, sv, so]
  case maxS => simp only [atomicNew, sv, so]
  case add => simp only [atomicNew, Nat.add_mod_mod]
  all_goals rfl

/-- A core's oldest pool atomic is performed before anything else that waits for the pool. -/
theorem nextAtomic_first {s : State} {x : Atomic} {rest : List Atomic} (hx : x.atCommit = false) :
    s.nextAtomic [] (x :: rest) = some x := by
  simp [State.nextAtomic, State.uncommitted, hx]

theorem atomic_early {c : Nat} {x : Atomic} {rest : List Atomic} {s : State} (ha : (s.core c).eng.atomics = x :: rest)
    (hx : x.atCommit = false) (early : ∀ τ, x.clearAt = some τ → s.cycle < τ) : exec (.atomicPerform c) s = .next s := by
  show execAtomicPerform c s = _
  cases hc : x.clearAt with
  | none => simp [execAtomicPerform, ha, nextAtomic_first hx, hc]
  | some τ => simp [execAtomicPerform, ha, nextAtomic_first hx, hc, Nat.not_le.mpr (early τ hc)]

/-- The state in which an atomic has written its location and left its core. -/
def performed (s : State) (c new : Nat) (x : Atomic) : State :=
  (s.modClu (clusterOf c) fun k => { k with pool := k.pool.writeBytes x.addr (leBytes x.bytes new) }).modCore c fun q =>
    q.modEng fun e => { e with atomics := e.atomics.filter fun y => y.id != x.id }

/-- Does the run of its task that issued an atomic still hold its core? -/
def holdsCore (s : State) (c : Nat) (x : Atomic) : Bool :=
  (s.core c).task == some x.tid && ((s.task? x.tid).map fun (t : Task) => t.run == x.run && t.leaving.isNone).getD false

/-- The engine operation that stands for the record of an atomic. -/
def atomicOpOf (c id old : Nat) (x : Atomic) : EngOp :=
  { id := id, cmd := .atomic, core := c, tid := x.tid, addr := x.bundle, seg := x.seg, stamp := x.stamp, word1 := BitVec.ofNat 64 old }

theorem atomic_due {c new : Nat} {x : Atomic} {rest : List Atomic} {s : State} (ha : (s.core c).eng.atomics = x :: rest)
    (hx : x.atCommit = false) (hb : x.bytes = 4 ∨ x.bytes = 8) (due : ∃ τ, x.clearAt = some τ ∧ τ ≤ s.cycle)
    (hr : atomicResult x.kind x.bytes ((s.clu (c / 8)).pool.readLE x.addr x.bytes) x.v.toNat x.cmp.toNat = some new) :
    exec (.atomicPerform c) s = .next (
      if x.ret && holdsCore s c x then
        let s2 := (performed s c new x).dependOnPool c x.addr x.bytes
        let o := atomicOpOf c s2.nextId ((s.clu (c / 8)).pool.readLE x.addr x.bytes) x
        ({ s2 with nextId := s2.nextId + 1 } : State).modCore c fun q => q.modEng fun e => { e with regQ := e.regQ ++ [o] }.post o
      else performed s c new x) := by
  obtain ⟨τ, hτ, hd⟩ := due
  have lt := readLE_lt (s.clu (c / 8)).pool x.addr x.bytes
  rw [show (256 : Nat) = 2 ^ 8 from rfl, ← Nat.pow_mul] at lt
  obtain ⟨notStore, isNew⟩ := atomicNew_eq (by omega) lt hr
  show execAtomicPerform c s = _
  simp only [execAtomicPerform, ha, nextAtomic_first hx, hτ, decide_eq_true hd, notStore, Bool.false_eq_true, if_false,
    Bool.not_true, Bool.and_assoc]
  rw [show atomicNew x.kind x.bytes ((s.clu (clusterOf c)).pool.readLE x.addr x.bytes) x.v.toNat x.cmp.toNat = new from isNew]
  by_cases back : (x.ret && holdsCore s c x) = true
  · rw [if_pos back]
    exact if_pos back
  · rw [if_neg back]
    exact if_neg back

theorem dependOnPool_keeps (s : State) (c a n : Nat) :
    let t := s.dependOnPool c a n
    (t.core c).eng = (s.core c).eng ∧ (t.core c).regs = (s.core c).regs ∧ (t.core c).sp = (s.core c).sp ∧
      (∀ d, d ≠ c → t.core d = s.core d) ∧ t.clusters = s.clusters ∧ t.pmem = s.pmem ∧ t.xs = s.xs := by
  intro t
  have branches : t = s ∨ ∃ f : Recovery → Recovery, t = s.modCore c fun k => k.modRcv f := by
    dsimp only [t, State.dependOnPool]
    split
    · exact .inl rfl
    · exact .inr ⟨_, rfl⟩
  rcases branches with h | ⟨f, h⟩
  · rw [h]
    exact ⟨rfl, rfl, rfl, fun _ _ => rfl, rfl, rfl, rfl⟩
  · have at_c := State.core_modCore_same s c fun k => k.modRcv f
    rw [h]
    exact ⟨(congrArg Core.eng at_c).trans rfl, (congrArg Core.regs at_c).trans rfl, (congrArg Core.sp at_c).trans rfl,
      fun d hd => State.core_modCore_other s _ hd, rfl, rfl, rfl⟩

theorem setQueue_keeps (e : Engines) (q : Nat) (l : EngQueue) :
    (e.setQueue q l).atomics = e.atomics ∧ (e.setQueue q l).evq = e.evq := by
  unfold Engines.setQueue
  split <;> exact ⟨rfl, rfl⟩

/-- A record that finds room stands behind the others. -/
theorem post_room {e : Engines} (o : EngOp) (room : e.evq.length < 128) :
    (e.post o).atomics = e.atomics ∧ ∃ r, (e.post o).evq = e.evq ++ [r] ∧ r.w1 = o.word1 := by
  have posts : e.post o = _ := if_pos room
  rw [posts]
  exact ⟨(setQueue_keeps e _ _).1, _, rfl, rfl⟩

theorem post_atomics (e : Engines) (o : EngOp) : (e.post o).atomics = e.atomics := by
  unfold Engines.post
  split
  · exact (setQueue_keeps e _ _).1
  · exact (setQueue_keeps e _ _).1

theorem performed_core (s : State) (c new : Nat) (x : Atomic) : (performed s c new x).core c =
    (s.core c).modEng fun e => { e with atomics := e.atomics.filter fun y => y.id != x.id } :=
  (State.core_modCore_same _ c _).trans rfl

theorem performed_pool (s : State) (c new : Nat) (x : Atomic) :
    ((performed s c new x).clu (c / 8)).pool = (s.clu (c / 8)).pool.writeBytes x.addr (leBytes x.bytes new) :=
  congrArg Cluster.pool (State.clu_modClu_same s (c / 8) fun k => { k with pool := k.pool.writeBytes x.addr (leBytes x.bytes new) })

/-- What an atomic that has been performed leaves, with its record or without. -/
def performFrame (c : Nat) (s t : State) : Prop :=
  (t.core c).regs = (s.core c).regs ∧ (t.core c).sp = (s.core c).sp ∧ (∀ d, d ≠ c → t.core d = s.core d) ∧
    (∀ d, d ≠ c / 8 → t.clu d = s.clu d) ∧ t.pmem = s.pmem ∧ t.xs = s.xs

theorem performed_frame (s : State) (c new : Nat) (x : Atomic) : performFrame c s (performed s c new x) :=
  ⟨(congrArg Core.regs (performed_core s c new x)).trans rfl, (congrArg Core.sp (performed_core s c new x)).trans rfl,
    fun _ hd => State.core_modCore_other _ _ hd, fun _ hd => State.clu_modClu_other s
      (fun k => { k with pool := k.pool.writeBytes x.addr (leBytes x.bytes new) }) hd, rfl, rfl⟩

/-- The record of an atomic joins its core, and nothing else changes. -/
theorem recorded_keeps (s : State) (c a n : Nat) (o : Nat → EngOp) :
    let s2 := s.dependOnPool c a n
    let t := ({ s2 with nextId := s2.nextId + 1 } : State).modCore c fun q =>
      q.modEng fun e => { e with regQ := e.regQ ++ [o s2.nextId] }.post (o s2.nextId)
    (t.core c).eng.atomics = (s.core c).eng.atomics ∧ performFrame c s t ∧ t.clusters = s.clusters ∧
      ((s.core c).eng.evq.length < 128 → ∃ r, (t.core c).eng.evq = (s.core c).eng.evq ++ [r] ∧ r.w1 = (o s2.nextId).word1) := by
  intro s2 t
  obtain ⟨heng, hregs, hsp, hcores, hclu, hpm, hxs⟩ := dependOnPool_keeps s c a n
  have at_c : t.core c = (s2.core c).modEng fun e => { e with regQ := e.regQ ++ [o s2.nextId] }.post (o s2.nextId) :=
    State.core_modCore_same _ c _
  rw [at_c]
  refine ⟨(post_atomics _ _).trans (congrArg (fun e => e.atomics) heng :), ⟨?_, ?_, ?_, ?_, hpm, hxs⟩, hclu, fun room => ?_⟩
  · rw [at_c]; exact hregs
  · rw [at_c]; exact hsp
  · exact fun d hd => (State.core_modCore_other _ _ hd).trans (hcores d hd)
  · exact fun d _ => congrArg (fun l : Table Cluster => Table.get l {} d) hclu
  · rw [← heng] at room ⊢
    exact (post_room (e := { (s2.core c).eng with regQ := (s2.core c).eng.regQ ++ [o s2.nextId] }) (o s2.nextId) room).2

theorem performFrame.trans {c : Nat} {s t u : State} (h : performFrame c s t) (h' : performFrame c t u) : performFrame c s u := by
  obtain ⟨r, p, o, k, m, x⟩ := h
  obtain ⟨r', p', o', k', m', x'⟩ := h'
  exact ⟨r'.trans r, p'.trans p, fun d hd => (o' d hd).trans (o d hd), fun d hd => (k' d hd).trans (k d hd), m'.trans m, x'.trans x⟩

theorem atomic_performs (c new : Nat) (x : Atomic) (rest : List Atomic) (s : State) (ha : (s.core c).eng.atomics = x :: rest)
    (hx : x.atCommit = false) (hb : x.bytes = 4 ∨ x.bytes = 8) (ids : ∀ y ∈ rest, y.id ≠ x.id) :
    let cl := c / 8
    let old := (s.clu cl).pool.readLE x.addr x.bytes
    atomicResult x.kind x.bytes old x.v.toNat x.cmp.toNat = some new →
    ((∃ τ, x.clearAt = some τ ∧ τ ≤ s.cycle) →
      ∃ t, exec (.atomicPerform c) s = .next t ∧ (t.core c).eng.atomics = rest ∧
        (t.clu cl).pool.readLE x.addr x.bytes = new ∧
        (∀ a, a < x.addr ∨ x.addr + x.bytes ≤ a → (t.clu cl).pool.read a = (s.clu cl).pool.read a) ∧
        (x.ret = false → (t.core c).eng.evq = (s.core c).eng.evq) ∧
        (x.ret = true → (s.core c).task = some x.tid → (∃ k, s.task? x.tid = some k ∧ k.run = x.run ∧ k.leaving = none) →
          (s.core c).eng.evq.length < 128 →
          ∃ r, (t.core c).eng.evq = (s.core c).eng.evq ++ [r] ∧ r.w1.toNat = old) ∧
        (t.core c).regs = (s.core c).regs ∧ (t.core c).sp = (s.core c).sp ∧ (∀ d, d ≠ c → t.core d = s.core d) ∧
        (∀ d, d ≠ cl → t.clu d = s.clu d) ∧ t.pmem = s.pmem ∧ t.xs = s.xs) ∧
    ((∀ τ, x.clearAt = some τ → s.cycle < τ) → exec (.atomicPerform c) s = .next s) := by
  intro cl old hr
  refine ⟨fun due => ?_, atomic_early ha hx⟩
  have run := atomic_due ha hx hb due hr
  have oldLt := readLE_lt (s.clu cl).pool x.addr x.bytes
  rw [show (256 : Nat) = 2 ^ 8 from rfl, ← Nat.pow_mul] at oldLt
  have newLt := atomicResult_lt oldLt hr
  have left : ((performed s c new x).core c).eng.atomics = rest := by
    rw [performed_core]
    show (s.core c).eng.atomics.filter _ = rest
    rw [ha, List.filter_cons_of_neg (by simp)]
    exact List.filter_eq_self.mpr fun y hy => by simpa using ids y hy
  have evq : ((performed s c new x).core c).eng.evq = (s.core c).eng.evq := by rw [performed_core]; rfl
  have reads : ∀ t : State, t.clusters = (performed s c new x).clusters → (t.clu cl).pool.readLE x.addr x.bytes = new ∧
      (∀ a, a < x.addr ∨ x.addr + x.bytes ≤ a → (t.clu cl).pool.read a = (s.clu cl).pool.read a) := by
    intro t ht
    have pool : (t.clu cl).pool = (s.clu cl).pool.writeBytes x.addr (leBytes x.bytes new) := by
      rw [State.clu, ht]
      exact performed_pool s c new x
    rw [pool]
    refine ⟨?_, fun a out => Memory.read_writeBytes_outside _ _ _ (by rwa [length_leBytes])⟩
    rw [readLE_writeBytes, Nat.mod_eq_of_lt]
    rwa [show (256 : Nat) = 2 ^ 8 from rfl, ← Nat.pow_mul]
  by_cases back : (x.ret && holdsCore s c x) = true
  · rw [if_pos back] at run
    obtain ⟨atomics, frame, clusters, posts⟩ := recorded_keeps (performed s c new x) c x.addr x.bytes fun id => atomicOpOf c id old x
    obtain ⟨read, others⟩ := reads _ clusters
    refine ⟨_, run, atomics.trans left, read, others, fun no => ?_, fun _ _ _ room => ?_, (performed_frame s c new x).trans frame⟩
    · rw [no] at back
      exact absurd back (by simp)
    · rw [evq] at posts
      obtain ⟨r, hr, hw⟩ := posts room
      refine ⟨r, hr, ?_⟩
      rw [hw]
      show (BitVec.ofNat 64 old).toNat = old
      rw [BitVec.toNat_ofNat, Nat.mod_eq_of_lt]
      exact Nat.lt_of_lt_of_le oldLt (Nat.pow_le_pow_right (by decide) (by omega))
  · rw [if_neg back] at run
    obtain ⟨read, others⟩ := reads _ rfl
    refine ⟨_, run, left, read, others, fun _ => evq, fun yes task ⟨k, hk, hrun, hleave⟩ => ?_, performed_frame s c new x⟩
    exact absurd (by simp [yes, holdsCore, task, hk, hrun, hleave]) back

/-- Settles O21: the shared operation at issue, and at the bank the oldest atomic of the core with or without its record. -/
theorem poolAtomics : Obligations.PoolAtomics := ⟨atomic_issues, atomic_performs⟩
end Sys2Proof.Machine
end

section
/-!
PROOFS. A release of a speculative task while the breakwater of its cluster is full (R205, R217, R378).
-/
namespace Sys2Proof.Machine

/-- More held writes than a breakwater has entries, each in a line of its own. -/
@[irreducible] def crowd : List Held := (List.range 16385).map fun i =>
  { w := { xs := true, addr := 128 * i, bytes := [0], core := 1, seg := 0 }, pasid := 0, stage := 0, key := {} }

/-- Core 0 runs a task that is not the frontier task, which has written the first line of the chip scratchpad; its cluster's
breakwater holds `crowd`. -/
def crowdedState : State :=
  { cores := [(0, { task := some 0 })]
    tasks := [(0, { stage := 0, pasid := 0, kind := .f, tag := 0, key := {}, budget := 1, full := 1,
                    lines := [{ gran := 1, rd := false, wr := true, core := 0 }] })]
    stages := [(0, { valid := true, prog := some { xs := 128 } })]
    clusters := [(0, { held := crowd })] }

theorem entryKeys_crowd : (entryKeys (crowd.map (·.w))).length = 16385 := by
  have keys : (crowd.map (·.w)).map (fun w => (w.core, w.seg, granOf w.xs w.addr)) =
      (List.range 16385).map fun i => (1, 0, 2 * i + 1) := by
    unfold crowd
    rw [List.map_map, List.map_map]
    refine List.map_congr_left fun i _ => ?_
    simp [granOf, bit]
  have distinct : ((List.range 16385).map fun i => ((1, 0, 2 * i + 1) : Nat × Nat × Nat)).Nodup :=
    (List.nodup_map_iff_inj_on List.nodup_range).mpr fun x _ y _ h => by simpa using h
  rw [entryKeys, keys, List.Nodup.dedup distinct, List.length_map, List.length_range]

theorem crowdedState_unStuck : crowdedState.unStuck 0 = true := by
  have room : Config.breakwaterEntries = 16384 := rfl
  have held : (crowdedState.clu (clusterOf 0)).held = crowd := rfl
  have writes : (crowdedState.core 0).eng.unWrites = [] := rfl
  have many : crowd.length = 16385 := by unfold crowd; rw [List.length_map, List.length_range]
  simp only [State.unStuck, State.noRoom, held, writes, entryKeys_crowd, many, room]
  simp [entryKeys]

/-- The byte that the release stores. -/
def releasePiece : Piece := { pos := 0, addr := 0, len := 1 }

/-- A release beyond the pool is a store. -/
theorem exec_strel_beyond {s : State} {g : Guard} (on : s.cur.on g = true) (a : SSrc) (b : BitVec 5) {lvl : Level} (hl : lvl ≠ .cp)
    (sz : TSize) (x : BitVec 14) (aligned : effAddr (s.cur.readTA b) x.toInt 1 % sz.bytes = 0) :
    exec (.strel g a b lvl sz x) s = .next (s.store lvl true false (s.cur.readS a).toNat
      [{ pos := 0, addr := effAddr (s.cur.readTA b) x.toInt 1, len := sz.bytes }]) := by
  show execStrel g a b lvl sz x s = _
  have beyond : (lvl != .cp) = true := by simpa using hl
  simp only [execStrel, on, aligned, beyond, Bool.not_true, Bool.false_eq_true, if_false, bne_self_eq_false, Bool.true_or, if_true]

theorem crowdedState_holds :
    exec (.strel .always (.reg 0) 0 .xs .b 0) crowdedState = .next (crowdedState.holdFor .t .breakwater) := by
  have stores := exec_strel_beyond (s := crowdedState) (g := .always) rfl (.reg 0) 0 (lvl := .xs) (by decide) .b 0 rfl
  have ea : effAddr (crowdedState.cur.readTA 0) (0 : BitVec 14).toInt 1 = 0 := rfl
  have found : resolve crowdedState 0 .xs true true [releasePiece] = .ok [releasePiece] := rfl
  have free : crowdedState.accessHold 0 true true [releasePiece] = none := rfl
  have turn : crowdedState.turn = 0 := rfl
  rw [stores, ea, show ({ pos := 0, addr := 0, len := TSize.b.bytes } : Piece) = releasePiece from rfl]
  simp only [State.store, turn, found, show (Level.xs == Level.xs) = true from rfl, free, crowdedState_unStuck, Bool.true_and, if_true]

/-- Refutes O20: the clause on a speculative task supposes no room in the breakwater. A release sends the core's writes to UN pages
out first, and while the breakwater holds more entries than it has it waits, even with no such write: the task keeps nothing. -/
theorem not_storesBeyondTheCluster : ¬ Obligations.StoresBeyondTheCluster := by
  intro h
  obtain ⟨beyond, -⟩ := h
  have fresh : freshCaches crowdedState (crowdedState.pasidOf crowdedState.turn) := fun va e he => by cases he
  obtain ⟨-, keeps⟩ := beyond (.strel .always (.reg 0) 0 .xs .b 0) .always .xs 1 1 0 0 (fun k => 0 + k) (fun k => 0 + (0 + k))
    { stage := 0, pasid := 0, kind := .f, tag := 0, key := {}, budget := 1, full := 1,
      lines := [{ gran := 1, rd := false, wr := true, core := 0 }] } crowdedState rfl rfl rfl rfl
    (fun j hj _ => by omega) (fun k hk => ⟨show 0 + k < 128 by omega, rfl⟩) rfl rfl rfl fresh
  obtain ⟨t, k', new, run, -, -, task, log, new_ne, -⟩ := keeps rfl rfl
    fun j hj => ⟨{ gran := 1, rd := false, wr := true, core := 0 }, by simp, rfl, by interval_cases j; rfl⟩
  rw [crowdedState_holds] at run
  obtain rfl := Host.Outcome.next.inj run
  have same : (crowdedState.holdFor .t .breakwater).task? 0 = crowdedState.task? 0 := rfl
  rw [same] at task
  obtain rfl := Option.some.inj task
  exact new_ne (List.nil_append new ▸ log).symm
end Sys2Proof.Machine
end

section
/-!
PROOFS. Stores of the scratchpad, the pool and the lane slices, and fills (R181-R185).
-/
namespace Sys2Proof.Machine

/-! ### The bytes of a store (R182) -/

/-- Pieces of a value in order, the later prevailing. -/
def writePieces (mem : Memory) (v : Nat) (ps : List Piece) : Memory :=
  ps.foldl (fun mem p => mem.writeBytes p.addr (pieceBytes v p)) mem

/-- A memory holds a value at the addresses of its bytes, the last of one address prevailing, and otherwise what it held. -/
def Stored (before after : Memory) (n : Nat) (A : Nat → Nat) (v : Nat) : Prop :=
  (∀ k, k < n → (∀ j, k < j → j < n → A j ≠ A k) → (after.read (A k)).toNat = v / 2 ^ (8 * k) % 2 ^ 8) ∧
  (∀ a, (∀ k, k < n → A k ≠ a) → after.read a = before.read a)

theorem writeTile_reads (mem : Memory) (v p a w : Nat) :
    let after := mem.writeBytes a (pieceBytes v { pos := p, addr := a, len := w })
    (∀ r, r < w → (after.read (a + r)).toNat = v / 2 ^ (8 * p) / 2 ^ (8 * r) % 2 ^ 8) ∧
    (∀ q, (∀ r, r < w → a + r ≠ q) → after.read q = mem.read q) := by
  intro after
  constructor
  · intro r hr
    have hlen : r < (leBytes w (v / 2 ^ (8 * p))).length := by rwa [length_leBytes]
    have inside := Memory.read_writeBytes_inside mem a _ hlen
    exact (congrArg BitVec.toNat inside).trans (getElem_leBytes _ _ _ hlen)
  · intro q out
    refine Memory.read_writeBytes_outside mem a _ ?_
    show q < a ∨ a + (leBytes w (v / 2 ^ (8 * p))).length ≤ q
    rw [length_leBytes]
    by_contra h
    exact out (q - a) (by omega) (by omega)

theorem writePieces_tiles {w : Nat} {A : Nat → Nat} (hA : ByElement w A) (mem : Memory) (v m : Nat) :
    Stored mem (writePieces mem v (tiles w m fun j => A (w * j))) (w * m) A v := by
  induction m with
  | zero => exact ⟨fun k hk => absurd hk (by simp), fun a _ => rfl⟩
  | succ m ih =>
    obtain ⟨ihIn, ihOut⟩ := ih
    have last : writePieces mem v (tiles w (m + 1) fun j => A (w * j)) =
        (writePieces mem v (tiles w m fun j => A (w * j))).writeBytes (A (w * m))
          (pieceBytes v { pos := w * m, addr := A (w * m), len := w }) := by
      simp only [writePieces, tiles, List.range_succ, List.map_append, List.foldl_append, List.map_cons, List.map_nil, List.foldl_cons,
        List.foldl_nil]
    obtain ⟨tileIn, tileOut⟩ := writeTile_reads (writePieces mem v (tiles w m fun j => A (w * j))) v (w * m) (A (w * m)) w
    have size : w * (m + 1) = w * m + w := Nat.mul_succ w m
    rw [last]
    constructor
    · intro k hk later
      by_cases hm : k < w * m
      · rw [tileOut]
        · exact ihIn k hm fun j hj hjm => later j hj (by omega)
        · intro r hr
          rw [← hA m r hr]
          exact later (w * m + r) (by omega) (by omega)
      · obtain ⟨r, rfl⟩ := Nat.exists_eq_add_of_le (Nat.le_of_not_lt hm)
        have hr : r < w := by omega
        rw [hA m r hr, tileIn r hr, Nat.div_div_eq_div_mul, ← Nat.pow_add, ← Nat.mul_add]
    · intro a out
      rw [tileOut, ihOut]
      · exact fun k hk => out k (by omega)
      · intro r hr
        rw [← hA m r hr]
        exact out (w * m + r) (by omega)

/-! ### What a store on the cluster leaves (R181) -/

/-- The one core on which a rank of a task runs. -/
def RunsOn (cores : Table Core) (tid rank c : Nat) : Prop :=
  (∃ x ∈ cores, x.2.task = some tid ∧ x.2.rank = rank) ∧ ∀ x ∈ cores, x.2.task = some tid → x.2.rank = rank → x.1 = c

theorem mem_of_mem_put {α : Type} {t : Table α} {k : Nat} {v : α} {x : Nat × α} (h : x ∈ Table.put t k v) : x = (k, v) ∨ x ∈ t := by
  induction t with
  | nil => exact .inl (List.mem_singleton.mp h)
  | cons e t ih =>
    obtain ⟨j, w⟩ := e
    simp only [Table.put] at h
    split at h
    · exact (List.mem_cons.mp h)
    · split at h
      · exact (List.mem_cons.mp h).imp id (List.mem_cons_of_mem _)
      · rcases List.mem_cons.mp h with rfl | h
        · exact .inr List.mem_cons_self
        · exact (ih h).imp id (List.mem_cons_of_mem _)

theorem put_mem {α : Type} (t : Table α) (k : Nat) (v : α) : (k, v) ∈ Table.put t k v := by
  induction t with
  | nil => exact List.mem_singleton.mpr rfl
  | cons e t ih =>
    obtain ⟨j, w⟩ := e
    simp only [Table.put]
    split
    · exact List.mem_cons_self
    · split
      · exact List.mem_cons_self
      · exact List.mem_cons_of_mem _ ih

theorem mem_put_of_mem {α : Type} {t : Table α} {k : Nat} (v : α) {x : Nat × α} (h : x ∈ t) :
    x ∈ Table.put t k v ∨ (x.1 = k ∧ Table.get? t k = some x.2) := by
  induction t with
  | nil => exact absurd h (List.not_mem_nil)
  | cons e t ih =>
    obtain ⟨j, w⟩ := e
    simp only [Table.put, Table.get?]
    by_cases lt : k < j
    · rw [if_pos lt]
      exact .inl (List.mem_cons_of_mem _ h)
    · rw [if_neg lt]
      by_cases eq : j = k
      · rw [if_pos eq, if_pos eq]
        rcases List.mem_cons.mp h with rfl | h
        · exact .inr ⟨eq, rfl⟩
        · exact .inl (List.mem_cons_of_mem _ h)
      · rw [if_neg eq, if_neg eq]
        rcases List.mem_cons.mp h with rfl | h
        · exact .inl List.mem_cons_self
        · exact (ih h).imp (List.mem_cons_of_mem _) id

theorem mem_of_get? {α : Type} {t : Table α} {k : Nat} {v : α} (h : Table.get? t k = some v) : (k, v) ∈ t := by
  induction t with
  | nil => cases h
  | cons e t ih =>
    obtain ⟨j, w⟩ := e
    simp only [Table.get?] at h
    split at h
    next eq => rw [← eq, ← Option.some.inj h]; exact List.mem_cons_self
    next => exact List.mem_cons_of_mem _ (ih h)

/-- A core that keeps its task and its rank still runs them. -/
theorem RunsOn.put {cores : Table Core} {tid rank c d : Nat} (h : RunsOn cores tid rank c) {k : Core}
    (ht : k.task = (Table.get cores {} d).task) (hr : k.rank = (Table.get cores {} d).rank) :
    RunsOn (Table.put cores d k) tid rank c := by
  obtain ⟨⟨x, mem, task, ranked⟩, only⟩ := h
  constructor
  · rcases mem_put_of_mem (k := d) k mem with kept | ⟨-, replaced⟩
    · exact ⟨x, kept, task, ranked⟩
    · have get : Table.get cores {} d = x.2 := by rw [Table.get, replaced, Option.getD_some]
      exact ⟨(d, k), put_mem cores d k, by rw [ht, get, task], by rw [hr, get, ranked]⟩
  · intro y hy hyt hyr
    rcases mem_of_mem_put hy with rfl | old
    · rw [ht] at hyt
      rw [hr] at hyr
      cases hg : Table.get? cores d with
      | none => rw [Table.get, hg] at hyt; cases hyt
      | some q =>
        rw [Table.get, hg, Option.getD_some] at hyt hyr
        exact only (d, q) (mem_of_get? hg) hyt hyr
    · exact only y old hyt hyr

/-- Cycle and turn, and which core runs a task. -/
def SameTurn (s t : State) : Prop :=
  t.turn = s.turn ∧ t.cycle = s.cycle ∧ ∀ tid rank c, RunsOn s.cores tid rank c → RunsOn t.cores tid rank c

/-- The state but for the core in turn's scratchpad, the clusters, and what the sequencing, the engines and the recovery note. -/
def Near (s t : State) : Prop :=
  SameTurn s t ∧ t.cur.regs = s.cur.regs ∧ t.cur.ls = s.cur.ls ∧ t.cur.arr = s.cur.arr ∧ t.cur.ys = s.cur.ys ∧
  t.cur.seq.flight = s.cur.seq.flight ∧ t.cur.seq.gloads = s.cur.seq.gloads ∧ t.cur.seq.verdict = s.cur.seq.verdict ∧
  (∀ c, c ≠ s.turn → t.core c = s.core c) ∧ t.tasks = s.tasks ∧ t.pmem = s.pmem ∧ t.xs = s.xs

theorem Near.trans {s t u : State} (h : Near s t) (h' : Near t u) : Near s u := by
  obtain ⟨⟨w, cy, on⟩, r, l, a, y, f, g, v, c, k, m, x⟩ := h
  obtain ⟨⟨w', cy', on'⟩, r', l', a', y', f', g', v', c', k', m', x'⟩ := h'
  exact ⟨⟨w'.trans w, cy'.trans cy, fun i j d h => on' i j d (on i j d h)⟩, r'.trans r, l'.trans l, a'.trans a, y'.trans y, f'.trans f,
    g'.trans g, v'.trans v, fun d hd => (c' d (w ▸ hd)).trans (c d hd), k'.trans k, m'.trans m, x'.trans x⟩

theorem Near.refl (s : State) : Near s s :=
  ⟨⟨rfl, rfl, fun _ _ _ h => h⟩, rfl, rfl, rfl, rfl, rfl, rfl, rfl, fun _ _ => rfl, rfl, rfl, rfl⟩

/-- What a change of a core on a store's way keeps of it. -/
def KeepsCore (k k' : Core) : Prop :=
  (k'.task = k.task ∧ k'.rank = k.rank) ∧ k'.regs = k.regs ∧ k'.ls = k.ls ∧ k'.arr = k.arr ∧ k'.ys = k.ys ∧
  k'.seq.flight = k.seq.flight ∧ k'.seq.gloads = k.seq.gloads ∧ k'.seq.verdict = k.seq.verdict

theorem Near.of_cur {s t : State} {k : Core} (ht : t.turn = s.turn) (hy : t.cycle = s.cycle) (hc : t.cores = Table.put s.cores s.turn k)
    (keeps : KeepsCore s.cur k) (hk : t.tasks = s.tasks) (hm : t.pmem = s.pmem) (hx : t.xs = s.xs) : Near s t := by
  obtain ⟨⟨task, rank⟩, r, l, a, y, f, g, v⟩ := keeps
  have cur : t.cur = k := by rw [State.cur, State.core, hc, ht]; exact Table.get_put_same ..
  subst cur
  refine ⟨⟨ht, hy, fun tid n c h => ?_⟩, r, l, a, y, f, g, v, fun c h => ?_, hk, hm, hx⟩
  · rw [hc]
    exact h.put task rank
  · rw [State.core, hc]
    exact Table.get_put_other _ _ _ h

theorem Near.modCur (s : State) {f : Core → Core} (keeps : KeepsCore s.cur (f s.cur)) : Near s (s.modCur f) :=
  Near.of_cur rfl rfl rfl keeps rfl rfl rfl

/-- A change of the core in turn that keeps its scratchpad too. -/
def Notes (s t : State) : Prop := Near s t ∧ t.cur.sp = s.cur.sp ∧ t.clusters = s.clusters

theorem Notes.trans {s t u : State} (h : Notes s t) (h' : Notes t u) : Notes s u := by
  obtain ⟨n, p, c⟩ := h
  obtain ⟨n', p', c'⟩ := h'
  exact ⟨n.trans n', p'.trans p, c'.trans c⟩

theorem Notes.modCur (s : State) {f : Core → Core} (keeps : KeepsCore s.cur (f s.cur)) (hp : (f s.cur).sp = s.cur.sp) :
    Notes s (s.modCur f) := ⟨Near.modCur s keeps, (congrArg Core.sp (State.cur_modCur s f)).trans hp, rfl⟩

theorem notes_sigEffect (s : State) (sl : Slot) (kind addr : Nat) (bs : List Byte) : Notes s (s.sigEffect sl kind addr bs) := by
  obtain ⟨f, h⟩ := sigEffect_eq s sl kind addr bs
  rw [h]
  exact Notes.modCur s ⟨⟨rfl, rfl⟩, rfl, rfl, rfl, rfl, rfl, rfl, rfl⟩ rfl

theorem notes_foldl {α : Type} {f : State → α → State} (h : ∀ s x, Notes s (f s x)) (l : List α) (s : State) : Notes s (l.foldl f s) := by
  induction l generalizing s with
  | nil => exact ⟨Near.refl s, rfl, rfl⟩
  | cons x l ih => exact (h s x).trans (ih _)

theorem notes_freezeFor (s : State) (scattered : Bool) (ps : List Piece) : Notes s (s.freezeFor scattered ps) := by
  unfold State.freezeFor
  split
  · exact Notes.modCur s ⟨⟨rfl, rfl⟩, rfl, rfl, rfl, rfl, rfl, rfl, rfl⟩ rfl
  · exact ⟨Near.refl s, rfl, rfl⟩

theorem notes_newEpoch (s : State) : Notes s s.newEpoch := Notes.modCur s ⟨⟨rfl, rfl⟩, rfl, rfl, rfl, rfl, rfl, rfl, rfl⟩ rfl

theorem newEpoch_rcv (s : State) : s.newEpoch.cur.rcv = s.cur.rcv := by
  rw [State.newEpoch, State.cur_modCur]
  rfl

/-! ### The scratchpad -/

/-- The bytes of a store are in the scratchpad of the core in turn. -/
def InScratchpad (s t : State) (v : Nat) (ps : List Piece) : Prop :=
  Near s t ∧ t.cur.sp = writePieces s.cur.sp v ps ∧ t.clusters = s.clusters

theorem spWrites (s : State) (v : Nat) (ps : List Piece) :
    InScratchpad s (ps.foldl (fun s p => s.modCur fun k => { k with sp := k.sp.writeBytes p.addr (pieceBytes v p) }) s) v ps := by
  induction ps generalizing s with
  | nil => exact ⟨Near.refl s, rfl, rfl⟩
  | cons p ps ih =>
    have step := Near.modCur s (f := fun k => { k with sp := k.sp.writeBytes p.addr (pieceBytes v p) })
      ⟨⟨rfl, rfl⟩, rfl, rfl, rfl, rfl, rfl, rfl, rfl⟩
    obtain ⟨near, sp, clusters⟩ := ih (s.modCur fun k => { k with sp := k.sp.writeBytes p.addr (pieceBytes v p) })
    refine ⟨step.trans near, ?_, clusters⟩
    rw [List.foldl_cons, sp, State.cur_modCur]
    rfl

/-! ### The pool -/

/-- A cluster with other bytes in its pool. -/
def KeepsCluster (k k' : Cluster) : Prop := k'.phasers = k.phasers ∧ k'.waits = k.waits ∧ k'.syncClock = k.syncClock

/-- The bytes of a store are in the pool of the core in turn's cluster. -/
def InPool (s t : State) (v : Nat) (ps : List Piece) : Prop :=
  Near s t ∧ t.cur.sp = s.cur.sp ∧ (t.clu (s.turn / 8)).pool = writePieces (s.clu (s.turn / 8)).pool v ps ∧
  (∀ c, c ≠ s.turn / 8 → t.clu c = s.clu c) ∧ KeepsCluster (s.clu (s.turn / 8)) (t.clu (s.turn / 8))

/-- The cluster behind a write of one piece to its pool. -/
def poolStep (s : State) (v : Nat) (p : Piece) (k : Cluster) : Cluster :=
  { k with
    pool := k.pool.writeBytes p.addr (pieceBytes v p)
    poolBy := (List.range (pieceBytes v p).length).foldl (fun t i => Table.put t (p.addr + i) (s.turn, (s.core s.turn).rcv.seg, s.cycle))
      k.poolBy }

theorem poolWrite_inPool (s : State) (v : Nat) (p : Piece) : InPool s (s.poolWrite s.turn p.addr (pieceBytes v p)) v [p] := by
  have clu : (s.poolWrite s.turn p.addr (pieceBytes v p)).clu (s.turn / 8) = poolStep s v p (s.clu (s.turn / 8)) :=
    State.clu_modClu_same s (s.turn / 8) (poolStep s v p)
  refine ⟨Near.of_cur rfl rfl rfl ⟨⟨rfl, rfl⟩, rfl, rfl, rfl, rfl, rfl, rfl, rfl⟩ rfl rfl rfl, ?_, ?_, fun c hc => State.clu_modClu_other s (poolStep s v p) hc, ?_⟩
  · exact (congrArg Core.sp (State.core_modCore_same _ s.turn _)).trans rfl
  · rw [clu]; rfl
  · rw [clu]; exact ⟨rfl, rfl, rfl⟩

theorem InPool.trans {s t u : State} {v : Nat} {ps qs : List Piece} (h : InPool s t v ps) (h' : InPool t u v qs) : InPool s u v (ps ++ qs) := by
  obtain ⟨near, sp, pool, others, ph, wt, sc⟩ := h
  obtain ⟨near', sp', pool', others', ph', wt', sc'⟩ := h'
  have turn := near.1.1
  rw [turn] at pool' others' ph' wt' sc'
  refine ⟨near.trans near', sp'.trans sp, ?_, fun c hc => (others' c hc).trans (others c hc), ph'.trans ph, wt'.trans wt, sc'.trans sc⟩
  rw [pool', pool, writePieces, writePieces, writePieces, List.foldl_append]

theorem InPool.refl (s : State) (v : Nat) : InPool s s v [] := ⟨Near.refl s, rfl, rfl, fun _ _ => rfl, rfl, rfl, rfl⟩

theorem poolWrites (v c : Nat) (ps : List Piece) (s : State) (hc : s.turn = c) :
    InPool s (ps.foldl (fun s p => s.poolWrite c p.addr (pieceBytes v p)) s) v ps := by
  induction ps generalizing s with
  | nil => exact InPool.refl s v
  | cons p ps ih =>
    have step := poolWrite_inPool s v p
    rw [hc] at step
    exact step.trans (ih _ (step.1.1.1.trans hc))

/-! ### The tracker (R366) -/

/-- The granules of pieces no byte of which their segment has read first. -/
theorem breaches_false {s : State} {space : Nat} {gran : Nat → Nat} (hg : ∀ a, gran a = 3 * (a / 128) + space) {ps : List Piece}
    (pos : ∀ p ∈ ps, 0 < p.len) (h : ∀ p ∈ ps, ∀ r, r < p.len → notReadFirst s space (p.addr + r)) :
    s.cur.breaches (ps.map fun p => granRange gran p.addr p.len).flatten s.cycle = false := by
  refine List.any_eq_false.mpr fun g hmem => ?_
  obtain ⟨l, hl, hgl⟩ := List.mem_flatten.mp hmem
  obtain ⟨p, hp, rfl⟩ := List.mem_map.mp hl
  obtain ⟨i, hi, rfl⟩ := List.mem_map.mp hgl
  rw [List.mem_range] at hi
  obtain ⟨r, hr, line⟩ : ∃ r, r < p.len ∧ (p.addr + r) / 128 = p.addr / 128 + i := by
    have := pos p hp
    refine ⟨(p.addr / 128 + i) * 128 - p.addr, ?_, ?_⟩ <;> omega
  obtain ⟨seen, prev⟩ := h p hp r hr
  have name : gran ((p.addr / 128 + i) * 128) = 3 * ((p.addr + r) / 128) + space := by
    rw [hg, line, Nat.mul_div_cancel _ (by decide)]
  rw [name, seen]
  by_cases late : s.cycle < s.cur.rcv.prevClear
  · simp [prev late]
  · simp [late]

/-! ### The shared store (R181-R184) -/

/-- The bytes of a store are in the scratchpad or the pool, by its level. -/
def InNear (lvl : Level) (s t : State) (v : Nat) (ps : List Piece) : Prop :=
  if lvl = .sp then InScratchpad s t v ps else InPool s t v ps

theorem InNear.before {lvl : Level} {s s' t : State} {v : Nat} {ps : List Piece} (h : Notes s s') (h' : InNear lvl s' t v ps) :
    InNear lvl s t v ps := by
  obtain ⟨near, sp, clusters⟩ := h
  unfold InNear at h' ⊢
  have clu : ∀ c, s'.clu c = s.clu c := fun c => congrArg (fun l : Table Cluster => Table.get l {} c) clusters
  split at h'
  · next hl =>
    rw [if_pos hl]
    obtain ⟨near', sp', clusters'⟩ := h'
    exact ⟨near.trans near', by rw [sp', sp], clusters'.trans clusters⟩
  · next hl =>
    rw [if_neg hl]
    obtain ⟨near', sp', rest⟩ := h'
    simp only [near.1.1, clu] at rest
    exact ⟨near.trans near', sp'.trans sp, rest⟩

theorem InNear.after {lvl : Level} {s t t' : State} {v : Nat} {ps : List Piece} (h : InNear lvl s t v ps) (h' : Notes t t') :
    InNear lvl s t' v ps := by
  obtain ⟨near', sp', clusters'⟩ := h'
  have clu : ∀ c, t'.clu c = t.clu c := fun c => congrArg (fun l : Table Cluster => Table.get l {} c) clusters'
  unfold InNear at h ⊢
  split at h
  · next hl =>
    rw [if_pos hl]
    obtain ⟨near, sp, clusters⟩ := h
    exact ⟨near.trans near', sp'.trans sp, clusters'.trans clusters⟩
  · next hl =>
    rw [if_neg hl]
    obtain ⟨near, sp, rest⟩ := h
    refine ⟨near.trans near', sp'.trans sp, ?_⟩
    simp only [clu]
    exact rest

theorem storeNear_writes {s : State} {lvl : Level} (hl : lvl = .sp ∨ lvl = .cp) (scattered : Bool) (v : Nat) {ps : List Piece}
    (free : s.cur.breaches (ps.map fun p => granRange (if lvl = .sp then granSp else granPool) p.addr p.len).flatten s.cycle = false) :
    InNear lvl s (s.storeNear lvl scattered v ps) v ps := by
  let gs := (ps.map fun p => granRange (if lvl = .sp then granSp else granPool) p.addr p.len).flatten
  have noted : Notes s (s.modCur fun k => k.noteAccess gs false) := Notes.modCur s ⟨⟨rfl, rfl⟩, rfl, rfl, rfl, rfl, rfl, rfl, rfl⟩ rfl
  refine InNear.before noted ?_
  have passes : s.storeNear lvl scattered v ps = _ := if_neg (by rw [free]; decide)
  rw [passes]
  rcases hl with rfl | rfl
  · exact InNear.after (lvl := .sp) (spWrites _ v ps) (notes_freezeFor _ scattered ps)
  · exact poolWrites v s.turn ps _ rfl

/-- A store on the cluster whose pieces lie within its level, in granules that its segment has not read first. -/
theorem store_writes {s : State} {lvl : Level} (hl : lvl = .sp ∨ lvl = .cp) (rel scattered : Bool) (v : Nat) {w m : Nat} {a : Nat → Nat}
    (hw : 0 < w) (fits : ∀ j, j < m → a j + w ≤ s.levelBound s.turn lvl)
    (unread : ∀ j, j < m → ∀ r, r < w → notReadFirst s (if lvl = .sp then 0 else 1) (a j + r)) :
    InNear lvl s (s.store lvl rel scattered v (tiles w m a)) v (tiles w m a) := by
  have global : lvl ≠ .gl := by rcases hl with rfl | rfl <;> decide
  have onchip : lvl ≠ .xs := by rcases hl with rfl | rfl <;> decide
  have found : resolve s s.turn lvl true rel (tiles w m a) = .ok (tiles w m a) := by
    rw [resolve_onchip global true rel fits]
    simp only [if_neg onchip, Nat.zero_add]
    rfl
  let s0 := if rel then s.newEpoch else s
  have epoch : Notes s s0 := by
    dsimp only [s0]
    cases rel
    · exact ⟨Near.refl s, rfl, rfl⟩
    · exact notes_newEpoch s
  have rcv : s0.cur.rcv = s.cur.rcv ∧ s0.cycle = s.cycle := by
    dsimp only [s0]
    cases rel
    · exact ⟨rfl, rfl⟩
    · exact ⟨newEpoch_rcv s, rfl⟩
  have free : s0.cur.breaches ((tiles w m a).map fun p => granRange (if lvl = .sp then granSp else granPool) p.addr p.len).flatten
      s0.cycle = false := by
    refine breaches_false (space := if lvl = .sp then 0 else 1) ?_ ?_ ?_
    · intro q
      rcases hl with rfl | rfl <;> rfl
    · intro p hp
      obtain ⟨j, -, rfl⟩ := List.mem_map.mp hp
      exact hw
    · intro p hp r hr
      obtain ⟨j, hj, rfl⟩ := List.mem_map.mp hp
      simpa only [notReadFirst, rcv.1, rcv.2] using unread j (List.mem_range.mp hj) r hr
  have written := InNear.before epoch (storeNear_writes hl scattered v free)
  have stores : s.store lvl rel scattered v (tiles w m a) =
      if scattered then (tiles w m a).foldl (fun t p => t.sigEffect .t (levelCode lvl) p.addr (pieceBytes v p))
        (s0.storeNear lvl scattered v (tiles w m a))
      else (s0.storeNear lvl scattered v (tiles w m a)).sigEffect .t (levelCode lvl)
        (((tiles w m a).headD { pos := 0, addr := 0, len := 0 }).addr) (((tiles w m a).map (pieceBytes v)).flatten) := by
    rcases hl with rfl | rfl <;> simp only [State.store, found] <;> rfl
  rw [stores]
  cases scattered
  · exact InNear.after written (notes_sigEffect _ _ _ _ _)
  · exact InNear.after written (notes_foldl (fun t p => notes_sigEffect t _ _ _ _) _ _)

/-! ### The forms of a store (R181-R184, R205) -/

/-- The pieces of a store and the way it is issued. -/
structure StoreForm (i : Instr) (lvl : Level) (n w v : Nat) (A : Nat → Nat) (s : State) : Prop where
  pos : 0 < w
  whole : w * (n / w) = n
  byElement : ByElement w A
  /-- Bytes of a word that is not aligned at its first byte: the aligned store is issued. -/
  aligned : goesAtOnce i s → (∀ k, k < n → k % w = 0 → A k % w = 0) → ∃ rel scat, exec i s =
    .next (s.store lvl rel scat v (tiles w (n / w) fun j => A (w * j)))
  misaligned : (∃ k, k < n ∧ k % w = 0 ∧ A k % w ≠ 0) → exec i s = .next (s.issueFault .t 0x0F)

theorem store_words {i : Instr} {s : State} {g : Guard} (on : s.cur.on g = true) {b : BitVec 5} {lvl : Level} {d : Int} {n : Nat} (hn : 0 < n) {v : Nat}
    (hi : exec i s = .next (s.storeVec g b lvl d n v)) :
    StoreForm i lvl (512 * n) 128 v (fun k => (s.cur.readTA b + BitVec.ofInt 64 (d * 128)).toNat + k) s where
  pos := by decide
  whole := by omega
  byElement := byElement_words _
  aligned := fun _ h => by
    have first : effAddr (s.cur.readTA b) d 128 % 128 = 0 := h 0 (by omega) (by decide)
    refine ⟨false, false, hi.trans (congrArg Host.Outcome.next ?_)⟩
    simp only [State.storeVec, on, first, bne_self_eq_false, Bool.not_true, Bool.false_eq_true, if_false, words128_eq]
    rw [show 512 * n / 128 = 4 * n by omega]
    rfl
  misaligned := fun ⟨k, hk, hw, h⟩ => by
    have first : (effAddr (s.cur.readTA b) d 128 % 128 != 0) = true := by
      simp only [bne_iff_ne]
      intro h0
      have : effAddr (s.cur.readTA b) d 128 = (s.cur.readTA b + BitVec.ofInt 64 (d * 128)).toNat := rfl
      omega
    refine hi.trans (congrArg Host.Outcome.next ?_)
    simp only [State.storeVec, on, Bool.not_true, Bool.false_eq_true, if_false, first, if_true]

theorem lanePieces_any {a : Nat → Nat} : ((tiles 4 128 a).any fun p => p.addr % 4 != 0) = true ↔ ∃ l, l < 128 ∧ a l % 4 ≠ 0 := by
  simp [tiles]

theorem store_lanes {i : Instr} {s : State} {g : Guard} (on : s.cur.on g = true) {f : VSlot} {src : VSrc} {b : BitVec 5} {lvl : Level}
    {ix : BitVec 10} (hi : exec i s = .next (s.storeScatter g f src b lvl ix)) {o : Nat → Word64}
    (ho : ∀ l, o l = if lvl == .gl then (lane (s.cur.readVReg f ix.toNat) l).signExtend 64 else (lane (s.cur.readVReg f ix.toNat) l).setWidth 64) :
    StoreForm i lvl 512 4 (s.cur.readV f src).toNat (fun k => (s.cur.readTA b + o (k / 4)).toNat + k % 4) s := by
  have pieces : lanePieces (s.cur.readTA b) (s.cur.readVReg f ix.toNat) (lvl == .gl) = tiles 4 128 fun l => (s.cur.readTA b + o l).toNat := by
    rw [lanePieces_eq]
    simp only [ho]
  have element : ∀ j, (s.cur.readTA b + o (4 * j / 4)).toNat + 4 * j % 4 = (s.cur.readTA b + o j).toNat := fun j => by
    rw [Nat.mul_div_cancel_left j (by decide), Nat.mul_mod_right, Nat.add_zero]
  refine ⟨by decide, by decide, byElement_of (fun j => (s.cur.readTA b + o j).toNat), fun _ h => ⟨false, true, ?_⟩, fun ⟨k, hk, hw, h⟩ => ?_⟩
  · refine hi.trans (congrArg Host.Outcome.next ?_)
    have aligned : ¬ ((tiles 4 128 fun l => (s.cur.readTA b + o l).toNat).any fun p => p.addr % 4 != 0) = true := by
      rw [lanePieces_any]
      rintro ⟨l, hl, bad⟩
      refine bad ?_
      have := h (4 * l) (by omega) (by omega)
      rwa [element] at this
    simp only [State.storeScatter, on, Bool.not_true, Bool.false_eq_true, if_false, pieces, element]
    exact if_neg aligned
  · refine hi.trans (congrArg Host.Outcome.next ?_)
    have bad : ((tiles 4 128 fun l => (s.cur.readTA b + o l).toNat).any fun p => p.addr % 4 != 0) = true := by
      rw [lanePieces_any]
      refine ⟨k / 4, by omega, ?_⟩
      rw [hw, Nat.add_zero] at h
      exact h
    simp only [State.storeScatter, on, Bool.not_true, Bool.false_eq_true, if_false, pieces]
    exact if_pos bad

theorem store_scalar {i : Instr} {s : State} {lvl : Level} {n v ea : Nat} (hn : 0 < n)
    (aligned : goesAtOnce i s → ea % n = 0 → ∃ rel, exec i s = .next (s.store lvl rel false v [{ pos := 0, addr := ea, len := n }]))
    (misaligned : ea % n ≠ 0 → exec i s = .next (s.issueFault .t 0x0F)) : StoreForm i lvl n n v (fun k => ea + k) s where
  pos := hn
  whole := by rw [Nat.div_self hn, Nat.mul_one]
  byElement := fun _ r _ => (Nat.add_assoc ea _ r).symm
  aligned := fun once h => by
    obtain ⟨rel, run⟩ := aligned once (h 0 hn (Nat.zero_mod n))
    refine ⟨rel, false, run.trans ?_⟩
    rw [Nat.div_self hn]
    rfl
  misaligned := fun ⟨k, hk, hw, h⟩ => misaligned fun h0 => by
    have first : k = 0 := by rwa [Nat.mod_eq_of_lt hk] at hw
    subst first
    exact h h0

theorem tsize_pos (z : TSize) : 0 < z.bytes := by cases z <;> decide
theorem eltSize_pos (z : EltSize) : 0 < z.bytes := by cases z <;> decide

theorem effAddr_one (a : Word64) (d : Int) : effAddr a d 1 = (a + BitVec.ofInt 64 d).toNat := by simp [effAddr]

theorem form_stvx {g : Guard} {s : State} (on : s.cur.on g = true) (f : VSlot) (r : VSrc) (b : BitVec 5) {lvl : Level} (hl : lvl ≠ .gl)
    (ix : BitVec 10) : StoreForm (.stvx g f r b lvl ix) lvl 512 4 (s.cur.readV f r).toNat
      (fun k => (s.cur.readTA b + (lane (s.cur.readVReg f ix.toNat) (k / 4)).setWidth 64).toNat + k % 4) s :=
  store_lanes (f := f) (src := r) (b := b) (ix := ix) on rfl (o := fun l => (lane (s.cur.readVReg f ix.toNat) l).setWidth 64)
    fun _ => (if_neg (by simpa using hl)).symm

theorem form_scatter {g : Guard} {s : State} (on : s.cur.on g = true) (f : VSlot) (r : VSrc) (b : BitVec 5) (ix : BitVec 10) :
    StoreForm (.stvgScatter g f r b ix) .gl 512 4 (s.cur.readV f r).toNat
      (fun k => (s.cur.readTA b + (lane (s.cur.readVReg f ix.toNat) (k / 4)).signExtend 64).toNat + k % 4) s :=
  store_lanes (f := f) (src := r) (b := b) (ix := ix) on rfl (o := fun l => (lane (s.cur.readVReg f ix.toNat) l).signExtend 64)
    fun _ => (if_pos rfl).symm

theorem form_sts {g : Guard} {s : State} (on : s.cur.on g = true) (a : SSrc) (b : BitVec 5) (lvl : Level) (z : TSize) (x : BitVec 14) :
    StoreForm (.sts g a b lvl z x) lvl z.bytes z.bytes (s.cur.readS a).toNat
      (fun k => (s.cur.readTA b + BitVec.ofInt 64 x.toInt).toNat + k) s := by
  refine store_scalar (tsize_pos z) (fun _ h => ⟨false, ?_⟩) fun h => ?_
  · show execSts g a b lvl z x s = _
    simp only [execSts, on, effAddr_one, h, bne_self_eq_false, Bool.not_true, Bool.false_eq_true, if_false]
  · show execSts g a b lvl z x s = _
    simp only [execSts, on, effAddr_one, bne_iff_ne.mpr h, Bool.not_true, Bool.false_eq_true, if_false, if_true]

theorem form_stsv {g : Guard} {s : State} (on : s.cur.on g = true) (f : VSlot) (r : VSrc) (b : BitVec 5) (lvl : Level) (n : BitVec 7)
    (z : EltSize) (x : BitVec 8) : StoreForm (.stsv g f r b lvl n z x) lvl z.bytes z.bytes (lane (s.cur.readV f r) n.toNat).toNat
      (fun k => (s.cur.readTA b + BitVec.ofInt 64 x.toInt).toNat + k) s := by
  refine store_scalar (eltSize_pos z) (fun _ h => ⟨false, ?_⟩) fun h => ?_
  · show execStsv g f r b lvl n z x s = _
    simp only [execStsv, on, effAddr_one, h, bne_self_eq_false, Bool.not_true, Bool.false_eq_true, if_false]
  · show execStsv g f r b lvl n z x s = _
    simp only [execStsv, on, effAddr_one, bne_iff_ne.mpr h, Bool.not_true, Bool.false_eq_true, if_false, if_true]

theorem form_strel {g : Guard} {s : State} (on : s.cur.on g = true) (a : SSrc) (b : BitVec 5) (lvl : Level) (z : TSize) (x : BitVec 14) :
    StoreForm (.strel g a b lvl z x) lvl z.bytes z.bytes (s.cur.readS a).toNat
      (fun k => (s.cur.readTA b + BitVec.ofInt 64 x.toInt).toNat + k) s := by
  refine store_scalar (tsize_pos z) (fun once h => ⟨true, ?_⟩) fun h => ?_
  · have stores : (lvl != .cp || (s.cur.eng.atomics.isEmpty && !s.speculative s.turn)) = true := by
      by_cases hl : lvl = .cp
      · subst hl
        obtain ⟨idle, spec⟩ := once
        simp [idle, spec]
      · simp [hl]
    show execStrel g a b lvl z x s = _
    simp only [execStrel, on, effAddr_one, h, stores, bne_self_eq_false, Bool.not_true, Bool.false_eq_true, if_false, if_true]
  · show execStrel g a b lvl z x s = _
    simp only [execStrel, on, effAddr_one, bne_iff_ne.mpr h, Bool.not_true, Bool.false_eq_true, if_false, if_true]

/-- Every store has the form that its bytes are those of its pieces. -/
theorem store_hasForm {i : Instr} {g : Guard} {lvl : Level} {n w v : Nat} {A : Nat → Nat} {s : State} (hg : slotGuard i = some g)
    (on : s.cur.on g = true) (hs : storedBytes i s = some (lvl, n, w, A, v)) : StoreForm i lvl n w v A s := by
  cases i <;> simp only [storedBytes, reduceCtorEq, Option.some.injEq, Prod.mk.injEq] at hs
  case stvx g' f r b l ix =>
    by_cases hl : l = .gl
    · simp [hl] at hs
    · rw [if_neg hl, Option.some.injEq, Prod.mk.injEq, Prod.mk.injEq, Prod.mk.injEq, Prod.mk.injEq] at hs
      obtain ⟨rfl, rfl, rfl, rfl, rfl⟩ := hs
      cases hg
      exact form_stvx on f r b hl ix
  all_goals obtain ⟨rfl, rfl, rfl, rfl, rfl⟩ := hs; cases hg
  case stv => exact store_words on (n := 1) (by decide) rfl
  case stvp => exact store_words on (n := 2) (by decide) rfl
  case stvg => exact store_words on (n := 1) (by decide) rfl
  case stvgScatter f r b ix => exact form_scatter on f r b ix
  case sts a b l z x => exact form_sts on a b l z x
  case stsv f r b l n z x => exact form_stsv on f r b l n z x
  case strel a b l z x => exact form_strel on a b l z x

theorem tiles_inside {w m : Nat} {A : Nat → Nat} (hw : 0 < w) (hA : ByElement w A) {bound : Nat} (h : ∀ k, k < w * m → A k < bound)
    {j : Nat} (hj : j < m) : A (w * j) + w ≤ bound := by
  have last := h (w * j + (w - 1)) (by have := Nat.mul_le_mul_left w hj; rw [Nat.mul_succ] at this; omega)
  rw [hA j (w - 1) (by omega)] at last
  omega

theorem nearStore (i : Instr) (g : Guard) (lvl : Level) (n w v : Nat) (A : Nat → Nat) (s : State) (hg : slotGuard i = some g)
    (on : s.cur.on g = true) (_ : i.wf = true) (hs : storedBytes i s = some (lvl, n, w, A, v)) (once : goesAtOnce i s)
    (aligned : ∀ k, k < n → k % w = 0 → A k % w = 0)
    (inside : (lvl = .sp ∧ ∀ k, k < n → A k < 0x300000 ∧ notReadFirst s 0 (A k)) ∨
      (lvl = .cp ∧ ∀ k, k < n → A k < s.poolBound s.turn ∧ notReadFirst s 1 (A k))) :
    ∃ t, exec i s = .next t ∧
      (let before := if lvl = .sp then s.cur.sp else (s.clu (s.turn / 8)).pool
       let after := if lvl = .sp then t.cur.sp else (t.clu (s.turn / 8)).pool
       (∀ k, k < n → (∀ j, k < j → j < n → A j ≠ A k) → (after.read (A k)).toNat = v / 2 ^ (8 * k) % 2 ^ 8) ∧
       (∀ a, (∀ k, k < n → A k ≠ a) → after.read a = before.read a)) ∧
      (if lvl = .sp then t.clusters = s.clusters else
        t.cur.sp = s.cur.sp ∧ (∀ c, c ≠ s.turn / 8 → t.clu c = s.clu c) ∧
        (t.clu (s.turn / 8)).phasers = (s.clu (s.turn / 8)).phasers ∧ (t.clu (s.turn / 8)).waits = (s.clu (s.turn / 8)).waits) ∧
      t.cur.regs = s.cur.regs ∧ t.cur.ls = s.cur.ls ∧ t.cur.arr = s.cur.arr ∧ t.cur.ys = s.cur.ys ∧
      t.cur.seq.flight = s.cur.seq.flight ∧ t.cur.seq.gloads = s.cur.seq.gloads ∧ t.cur.seq.verdict = s.cur.seq.verdict ∧
      (∀ c, c ≠ s.turn → t.core c = s.core c) ∧ t.tasks = s.tasks ∧ t.pmem = s.pmem ∧ t.xs = s.xs := by
  obtain ⟨hw, whole, byElement, run, -⟩ := store_hasForm hg on hs
  obtain ⟨rel, scat, run⟩ := run once aligned
  have near : lvl = .sp ∨ lvl = .cp := inside.imp (·.1) (·.1)
  have within : ∀ k, k < n → A k < s.levelBound s.turn lvl ∧ notReadFirst s (if lvl = .sp then 0 else 1) (A k) := by
    rcases inside with ⟨rfl, h⟩ | ⟨rfl, h⟩
    · exact h
    · exact h
  have place : ∀ j, j < n / w → ∀ r, r < w → w * j + r < n := fun j hj r hr => by
    have := Nat.mul_le_mul_left w hj
    rw [Nat.mul_succ] at this
    omega
  have written := store_writes near rel scat v hw (a := fun j => A (w * j))
    (fun j hj => tiles_inside hw byElement (fun k hk => (within k (by rwa [whole] at hk)).1) hj)
    (fun j hj r hr => byElement j r hr ▸ (within _ (place j hj r hr)).2)
  have bytes := fun mem => writePieces_tiles byElement mem v (n / w)
  rw [whole] at bytes
  refine ⟨_, run, ?_⟩
  unfold InNear at written
  by_cases hl : lvl = .sp
  · rw [if_pos hl] at written
    obtain ⟨⟨-, frame⟩, sp, clusters⟩ := written
    simp only [if_pos hl, sp]
    exact ⟨bytes _, clusters, frame⟩
  · rw [if_neg hl] at written
    obtain ⟨⟨-, frame⟩, sp, pool, others, phasers, waits, -⟩ := written
    simp only [if_neg hl, pool]
    exact ⟨bytes _, ⟨sp, others, phasers, waits⟩, frame⟩

/-! ### The lane slices (R184) -/

theorem sliceWrites_read (mem : Memory) (o : Nat) (c : Nat → Nat) (m : Nat) :
    let after := (List.range m).foldl (fun mem l => mem.writeBytes (0x2000 * l + o) (leBytes 4 (c l))) mem
    (∀ l k, l < m → k < 4 → (after.read (0x2000 * l + o + k)).toNat = c l / 2 ^ (8 * k) % 256) ∧
    (∀ a, (∀ l k, l < m → k < 4 → a ≠ 0x2000 * l + o + k) → after.read a = mem.read a) := by
  induction m with
  | zero => exact ⟨fun l k hl => absurd hl (by simp), fun _ _ => rfl⟩
  | succ m ih =>
    obtain ⟨ihIn, ihOut⟩ := ih
    simp only [List.range_succ, List.foldl_append, List.foldl_cons, List.foldl_nil]
    generalize (List.range m).foldl (fun mem l => mem.writeBytes (0x2000 * l + o) (leBytes 4 (c l))) mem = now at ihIn ihOut
    constructor
    · intro l k hl hk
      by_cases hm : l = m
      · subst hm
        have hlen : k < (leBytes 4 (c l)).length := by rwa [length_leBytes]
        rw [Memory.read_writeBytes_inside now _ _ hlen, getElem_leBytes]
      · rw [Memory.read_writeBytes_outside now _ _ (by rw [length_leBytes]; omega)]
        exact ihIn l k (by omega) hk
    · intro a out
      have off : a < 0x2000 * m + o ∨ 0x2000 * m + o + (leBytes 4 (c m)).length ≤ a := by
        rw [length_leBytes]
        by_contra h
        exact out m (a - (0x2000 * m + o)) (by omega) (by omega) (by omega)
      rw [Memory.read_writeBytes_outside now _ _ off]
      exact ihOut a fun l k hl hk => out l k (by omega) hk

theorem sliceWrite_read (mem : Memory) (o : Nat) (v : Vec) :
    (∀ l k, l < 128 → k < 4 → (sliceWrite mem o v).read (0x2000 * l + o + k) = BitVec.ofNat 8 ((lane v l).toNat / 2 ^ (8 * k))) ∧
    (∀ a, (∀ l k, l < 128 → k < 4 → a ≠ 0x2000 * l + o + k) → (sliceWrite mem o v).read a = mem.read a) := by
  obtain ⟨inside, outside⟩ := sliceWrites_read mem o (fun l => (lane v l).toNat) 128
  have lanes : sliceWrite mem o v =
      (List.range 128).foldl (fun mem l => mem.writeBytes (0x2000 * l + o) (leBytes 4 (lane v l).toNat)) mem := by
    simp only [sliceWrite, Config.lsBytes]
  rw [lanes]
  refine ⟨fun l k hl hk => BitVec.eq_of_toNat_eq ?_, outside⟩
  rw [inside l k hl hk, BitVec.toNat_ofNat]

theorem slice_store (g : Guard) (f : VSlot) (r : VSrc) (b : BitVec 5) (x : BitVec 13) (s : State) (on : s.cur.on g = true) :
    let o := (s.cur.readTA b + BitVec.ofNat 64 x.toNat).toNat
    o % 4 = 0 → o + 4 ≤ 0x2000 → notReadFirst s 2 o →
    ∃ t, exec (.stl g f r b x) s = .next t ∧
      (∀ l k, l < 128 → k < 4 → t.cur.ls.read (0x2000 * l + o + k) =
        BitVec.ofNat 8 ((lane (s.cur.readV f r) l).toNat / 2 ^ (8 * k))) ∧
      (∀ a, (∀ l k, l < 128 → k < 4 → a ≠ 0x2000 * l + o + k) → t.cur.ls.read a = s.cur.ls.read a) ∧
      t.cur.regs = s.cur.regs ∧ t.cur.seq = s.cur.seq ∧ t.cur.sp = s.cur.sp ∧ t.cur.arr = s.cur.arr ∧
      (∀ c, c ≠ s.turn → t.core c = s.core c) ∧ t.clusters = s.clusters ∧ t.pmem = s.pmem ∧ t.xs = s.xs := by
  intro o aligned fits unread
  have place : effAddr (s.cur.readTA b) x.toNat 1 = o := by rw [effAddr_one]; rfl
  have free : s.cur.breaches (granRange granLs o 4) s.cycle = false := by
    have h := breaches_false (s := s) (space := 2) (gran := granLs) (fun _ => rfl) (ps := [{ pos := 0, addr := o, len := 4 }])
      (by simp) (fun p hp q hq => ?_)
    · simpa using h
    · obtain rfl := List.mem_singleton.mp hp
      have line : (o + q) / 128 = o / 128 := by
        have : q < 4 := hq
        omega
      show notReadFirst s 2 (o + q)
      rw [notReadFirst, line]
      exact unread
  let change := fun k : Core => ({ k.noteAccess (granRange granLs o 4) false with ls := sliceWrite k.ls o (s.cur.readV f r) } : Core)
  obtain ⟨note, noted⟩ := sigEffect_eq (s.modCur change) .t 4 o (leBytes 512 (s.cur.readV f r).toNat)
  have run : exec (.stl g f r b x) s = .next ((s.modCur change).modCur fun k => k.modRcv note) := by
    show execStl g f r b x s = _
    rw [← noted]
    have fits' : ¬ Config.lsBytes < o + 4 := Nat.not_lt.mpr fits
    simp only [execStl, on, place, State.sliceFault, aligned, free, fits', bne_self_eq_false, Bool.not_true, Bool.false_eq_true,
      if_false]
    rfl
  have cur : ((s.modCur change).modCur fun k => k.modRcv note).cur = (change s.cur).modRcv note := by
    rw [State.cur_modCur, State.cur_modCur]
  have slices : ((s.modCur change).modCur fun k => k.modRcv note).cur.ls = sliceWrite s.cur.ls o (s.cur.readV f r) := by
    rw [cur]
    rfl
  obtain ⟨inside, outside⟩ := sliceWrite_read s.cur.ls o (s.cur.readV f r)
  refine ⟨_, run, ?_, ?_, ?_, ?_, ?_, ?_, fun c hc => ?_, rfl, rfl, rfl⟩
  · rw [slices]
    exact inside
  · rw [slices]
    exact outside
  · rw [cur]; rfl
  · rw [cur]; rfl
  · rw [cur]; rfl
  · rw [cur]; rfl
  · exact (State.core_modCur_other (s.modCur change) _ hc).trans (State.core_modCur_other s _ hc)

/-! ### Fills (R185) -/

/-- The core of a wait-table entry is told to issue two cycles later. -/
def releaseWaiter (s : State) (w : WaitEntry) : State :=
  match (s.cores.filter fun (e : Nat × Core) => e.2.task == some w.tid && e.2.rank == w.rank).head? with
  | some e => s.modCore e.1 fun k => k.modSeq fun q => { q with releaseAt := some (s.cycle + 2) }
  | none => s

/-- What the release of waiting cores leaves. -/
def Released (s t : State) : Prop :=
  SameTurn s t ∧ t.clusters = s.clusters ∧ t.pmem = s.pmem ∧
  (∀ c, (t.core c).regs = (s.core c).regs ∧ (t.core c).sp = (s.core c).sp) ∧
  ∀ c, (s.core c).seq.releaseAt = some (s.cycle + 2) → (t.core c).seq.releaseAt = some (s.cycle + 2)

theorem Released.refl (s : State) : Released s s := ⟨⟨rfl, rfl, fun _ _ _ h => h⟩, rfl, rfl, fun _ => ⟨rfl, rfl⟩, fun _ h => h⟩

theorem Released.trans {s t u : State} (h : Released s t) (h' : Released t u) : Released s u := by
  obtain ⟨⟨w, cy, on⟩, cl, m, k, r⟩ := h
  obtain ⟨⟨w', cy', on'⟩, cl', m', k', r'⟩ := h'
  rw [cy] at r'
  exact ⟨⟨w'.trans w, cy'.trans cy, fun i j d h => on' i j d (on i j d h)⟩, cl'.trans cl, m'.trans m,
    fun c => ⟨(k' c).1.trans (k c).1, (k' c).2.trans (k c).2⟩, fun c h => r' c (r c h)⟩

theorem releaseCore_released (s : State) (d : Nat) :
    Released s (s.modCore d fun k => k.modSeq fun q => { q with releaseAt := some (s.cycle + 2) }) := by
  have at_d := State.core_modCore_same s d fun k => k.modSeq fun q => { q with releaseAt := some (s.cycle + 2) }
  refine ⟨⟨rfl, rfl, fun tid n c h => h.put rfl rfl⟩, rfl, rfl, fun c => ?_, fun c h => ?_⟩
  · by_cases hc : c = d
    · subst hc
      rw [at_d]
      exact ⟨rfl, rfl⟩
    · rw [State.core_modCore_other s _ hc]
      exact ⟨rfl, rfl⟩
  · by_cases hc : c = d
    · subst hc
      rw [at_d]
      rfl
    · rwa [State.core_modCore_other s _ hc]

theorem releaseWaiter_released (s : State) (w : WaitEntry) : Released s (releaseWaiter s w) := by
  unfold releaseWaiter
  split
  · exact releaseCore_released s _
  · exact Released.refl s

theorem releaseWaiter_releases {s : State} {w : WaitEntry} {c : Nat} (h : RunsOn s.cores w.tid w.rank c) :
    ((releaseWaiter s w).core c).seq.releaseAt = some (s.cycle + 2) := by
  obtain ⟨⟨x, mem, task, rank⟩, only⟩ := h
  have found : ∃ e, (s.cores.filter fun (e : Nat × Core) => e.2.task == some w.tid && e.2.rank == w.rank).head? = some e := by
    rw [← Option.isSome_iff_exists, List.isSome_head?]
    exact List.ne_nil_of_mem (List.mem_filter.mpr ⟨mem, by simp [task, rank]⟩)
  obtain ⟨e, he⟩ := found
  obtain ⟨inCores, runs⟩ := List.mem_filter.mp (List.mem_of_head? he)
  simp only [Bool.and_eq_true, beq_iff_eq] at runs
  have isC : e.1 = c := only e inCores runs.1 runs.2
  simp only [releaseWaiter, he, isC, State.core_modCore_same]
  rfl

theorem releaseWaiters (ws : List WaitEntry) (s : State) : Released s (ws.foldl releaseWaiter s) ∧
    ∀ w ∈ ws, ∀ c, RunsOn s.cores w.tid w.rank c → ((ws.foldl releaseWaiter s).core c).seq.releaseAt = some (s.cycle + 2) := by
  induction ws generalizing s with
  | nil => exact ⟨Released.refl s, fun w hw => absurd hw (List.not_mem_nil)⟩
  | cons w ws ih =>
    have step := releaseWaiter_released s w
    obtain ⟨rest, each⟩ := ih (releaseWaiter s w)
    obtain ⟨⟨-, cycle, on⟩, -⟩ := releaseWaiter_released s w
    rw [cycle] at each
    refine ⟨step.trans rest, fun v hv c hc => ?_⟩
    rcases List.mem_cons.mp hv with rfl | hv
    · obtain ⟨-, -, -, -, kept⟩ := rest
      rw [cycle] at kept
      exact kept c (releaseWaiter_releases hc)
    · exact each v hv c (on _ _ _ hc)

theorem wakeCell_eq (s : State) (cl cell : Nat) : s.wakeCell cl cell =
    (((s.clu cl).waits.filter fun w => w.cell == cell).foldl releaseWaiter s).modClu cl fun c =>
      { c with waits := c.waits.filter fun w => w.cell != cell } := rfl

theorem poolBound_modCur (s : State) {f : Core → Core} (hf : (f s.cur).task = s.cur.task) : (s.modCur f).poolBound s.turn = s.poolBound s.turn := by
  have task : ((s.modCur f).core s.turn).task = (s.core s.turn).task := (congrArg Core.task (State.cur_modCur s f)).trans hf
  simp only [State.poolBound, State.progOf, State.stageOf, State.taskOf, task]
  rfl

/-- The bytes of a full cell: its value, the full flag, and zeros. -/
theorem cell_byte {a : Nat} (ha : a < 2 ^ 64) {k : Nat} (hk : k < 16) :
    (a + 2 ^ 64) / 2 ^ (8 * k) % 2 ^ 8 = if k < 8 then a / 2 ^ (8 * k) % 2 ^ 8 else if k = 8 then 1 else 0 := by
  interval_cases k <;> simp <;> omega

theorem stampSend_lt (n : Nat) : stampSend n < 2 ^ 40 :=
  Nat.lt_of_le_of_lt (Nat.min_le_right _ _) (by norm_num [stampMax])

theorem fill_writes (g : Guard) (a : SSrc) (b : BitVec 5) (x : BitVec 13) (s : State) (on : s.cur.on g = true) :
    let ea := (s.cur.readTA b + BitVec.ofInt 64 (x.toInt * 16)).toNat
    let cl := s.turn / 8
    ea % 16 = 0 → ea + 16 ≤ s.poolBound s.turn → notReadFirst s 1 ea →
      ∃ t, exec (.ffill g a b x) s = .next t ∧
        (∀ k, k < 16 → ((t.clu cl).pool.read (ea + k)).toNat =
          if k < 8 then (s.cur.readS a).toNat / 2 ^ (8 * k) % 2 ^ 8 else if k = 8 then 1 else 0) ∧
        (∀ p, p < ea ∨ ea + 16 ≤ p → (t.clu cl).pool.read p = (s.clu cl).pool.read p) ∧
        (t.clu cl).waits = ((s.clu cl).waits.filter fun e => e.cell ≠ ea) ∧
        (∀ e ∈ (s.clu cl).waits, e.cell = ea →
          ∀ c, (∃ x ∈ s.cores, x.2.task = some e.tid ∧ x.2.rank = e.rank) →
            (∀ x ∈ s.cores, x.2.task = some e.tid → x.2.rank = e.rank → x.1 = c) →
            (t.core c).seq.releaseAt = some (s.cycle + 2)) ∧
        t.cur.regs.lclock.toNat = min (s.cur.regs.lclock.toNat + 1) (2 ^ 40 - 1) ∧
        t.cur.regs.s = s.cur.regs.s ∧ t.cur.sp = s.cur.sp ∧ (∀ c, c ≠ cl → t.clu c = s.clu c) ∧ t.pmem = s.pmem := by
  intro ea cl aligned fits unread
  let stamp := fun k : Core => k.modRegs fun r => { r with lclock := BitVec.ofNat 40 (stampSend r.lclock.toNat) }
  let s0 := s.modCur stamp
  let v := (s.cur.readS a).toNat + 2 ^ 64
  let s1 := s0.store .cp false false v (tiles 16 1 fun _ => ea)
  let s2 := s1.modClu cl fun k => { k with syncClock := Nat.max k.syncClock (s0.stampOf s.turn) }
  have cur0 : s0.cur = stamp s.cur := State.cur_modCur s stamp
  have unread0 : ∀ s' : State, s'.cur.rcv = s.cur.rcv → s'.cycle = s.cycle → ∀ r, r < 16 → notReadFirst s' 1 (ea + r) := by
    intro s' rcv cycle r hr
    have line : (ea + r) / 128 = ea / 128 := by omega
    simpa only [notReadFirst, rcv, cycle, line] using unread
  have free : s.cur.breaches (granRange granPool ea 16) s.cycle = false := by
    have h := breaches_false (s := s) (space := 1) (gran := granPool) (fun _ => rfl) (ps := [{ pos := 0, addr := ea, len := 16 }])
      (by simp) (fun p hp q hq => ?_)
    · simpa using h
    · obtain rfl := List.mem_singleton.mp hp
      exact unread0 s rfl rfl q hq
  have written : InPool s0 s1 v (tiles 16 1 fun _ => ea) := store_writes (lvl := .cp) (.inr rfl) false false v (by decide)
    (fun _ _ => Nat.le_trans fits (Nat.le_of_eq (poolBound_modCur s (f := stamp) rfl).symm)) fun j _ r hr => unread0 s0 (by rw [cur0]; rfl) rfl r hr
  have run : exec (.ffill g a b x) s = .next (s2.wakeCell cl ea) := by
    have place : effAddr (s.cur.readTA b) x.toInt 16 = ea := rfl
    show execFfill g a b x s = _
    simp only [execFfill, on, place, aligned, if_neg (Nat.not_lt.mpr fits), free, bne_self_eq_false, Bool.not_true, Bool.false_eq_true,
      if_false]
    rfl
  obtain ⟨⟨⟨turn, cycle, cores⟩, regs, -, -, -, -, -, -, others, -, pmem, -⟩, sp, pool, clus, phasers, waits, -⟩ := written
  have bytes := writePieces_tiles (w := 16) (A := fun k => ea + k) (fun _ r _ => (Nat.add_assoc ea _ r).symm) (s.clu cl).pool v 1
  let joined := fun k : Cluster => { k with syncClock := Nat.max k.syncClock (s0.stampOf s.turn) }
  have clu2 : s2.clu cl = joined (s1.clu cl) := State.clu_modClu_same s1 cl joined
  let woken := (((s2.clu cl).waits.filter fun w => w.cell == ea).foldl releaseWaiter s2)
  obtain ⟨⟨⟨turn', cycle', -⟩, clusters', pmem', kept, -⟩, each⟩ :=
    releaseWaiters ((s2.clu cl).waits.filter fun w => w.cell == ea) s2
  let emptied := fun c : Cluster => { c with waits := c.waits.filter fun w => w.cell != ea }
  have woken_clu : ∀ c, woken.clu c = s2.clu c := fun c => congrArg (fun l : Table Cluster => Table.get l {} c) clusters'
  have clu : (s2.wakeCell cl ea).clu cl = emptied (joined (s1.clu cl)) := by
    rw [← clu2, ← woken_clu]
    exact State.clu_modClu_same woken cl emptied
  have waits' : (s2.clu cl).waits = (s.clu cl).waits := by rw [clu2]; exact waits
  have cur' : (s2.wakeCell cl ea).cur.regs = (stamp s.cur).regs ∧ (s2.wakeCell cl ea).cur.sp = s.cur.sp := by
    have at_turn : (s2.wakeCell cl ea).cur = woken.core s2.turn := congrArg woken.core turn'
    have cur2 : s2.core s2.turn = s1.cur := rfl
    obtain ⟨keptRegs, keptSp⟩ := kept s2.turn
    rw [at_turn, keptRegs, keptSp, cur2, regs, sp, cur0]
    exact ⟨rfl, rfl⟩
  refine ⟨_, run, ?_, ?_, ?_, ?_, ?_, ?_, cur'.2, ?_, pmem'.trans pmem⟩
  · intro k hk
    rw [clu]
    have pool' : (s1.clu cl).pool = writePieces (s.clu cl).pool v (tiles 16 1 fun _ => ea) := pool
    show ((s1.clu cl).pool.read (ea + k)).toNat = _
    rw [pool']
    exact (bytes.1 k hk fun j hj _ => (by omega : ea + j ≠ ea + k)).trans (cell_byte (s.cur.readS a).isLt hk)
  · intro p out
    rw [clu]
    have pool' : (s1.clu cl).pool = writePieces (s.clu cl).pool v (tiles 16 1 fun _ => ea) := pool
    show (s1.clu cl).pool.read p = _
    rw [pool']
    exact bytes.2 p fun k hk => (by omega : ea + k ≠ p)
  · rw [clu]
    show (s1.clu cl).waits.filter _ = _
    rw [show (s1.clu cl).waits = (s.clu cl).waits from waits]
    refine List.filter_congr fun e _ => ?_
    by_cases h : e.cell = ea <;> simp [h]
  · intro e he cell c holder only
    have runs : RunsOn s2.cores e.tid e.rank c := cores _ _ _ (RunsOn.put ⟨holder, only⟩ rfl rfl)
    have released := each e (List.mem_filter.mpr ⟨waits' ▸ he, by simp [cell]⟩) c runs
    exact released.trans (congrArg (fun n => some (n + 2)) cycle)
  · rw [cur'.1]
    show (BitVec.ofNat 40 (stampSend s.cur.regs.lclock.toNat)).toNat = _
    rw [BitVec.toNat_ofNat, Nat.mod_eq_of_lt (stampSend_lt _)]
    simp only [stampSend, stampMax]
  · rw [cur'.1]
    rfl
  · intro c hc
    exact (State.clu_modClu_other woken emptied hc).trans ((woken_clu c).trans
      ((State.clu_modClu_other s1 joined hc).trans (clus c hc)))

theorem fill_cases (g : Guard) (a : SSrc) (b : BitVec 5) (x : BitVec 13) (s : State) (on : s.cur.on g = true) :
    let ea := (s.cur.readTA b + BitVec.ofInt 64 (x.toInt * 16)).toNat
    (ea % 16 ≠ 0 → exec (.ffill g a b x) s = .next (s.issueFault .t 0x0F)) ∧
    (ea % 16 = 0 → s.poolBound s.turn < ea + 16 → exec (.ffill g a b x) s = .next (s.execFault .t 0x0A)) := by
  intro ea
  have place : effAddr (s.cur.readTA b) x.toInt 16 = ea := rfl
  constructor
  · intro h
    show execFfill g a b x s = _
    simp only [execFfill, on, place, bne_iff_ne.mpr h, Bool.not_true, Bool.false_eq_true, if_false, if_true]
  · intro h beyond
    show execFfill g a b x s = _
    simp only [execFfill, on, place, h, beyond, bne_self_eq_false, Bool.not_true, Bool.false_eq_true, if_false, if_true]

/-- Settles O19: every store is the shared store on its pieces, whose bytes one lemma follows through the memory that they reach; a
fill is such a store and the release of its waiters one by one. -/
theorem storesOnTheCluster : Obligations.StoresOnTheCluster :=
  ⟨nearStore, slice_store, fun g a b x s on => ⟨fill_writes g a b x s on, fill_cases g a b x s on⟩⟩
end Sys2Proof.Machine
end

section
/-!
PROOFS. Register copies and the issue of engine commands (R221-R226, R233, R234).
-/
-- One proof after another: each waits for the same facts about the instructions, and a thread for each would cost memory.
set_option Elab.async false
namespace Sys2Proof.Machine

/-! ### Register copies (R233, R234) -/

/-- The bits of a mask given lane by lane. -/
theorem sum_bits (c : Nat → Bool) (n : Nat) : ((List.range n).map fun l => bit (c l) * 2 ^ l).sum < 2 ^ n ∧
    ∀ l, l < n → (((List.range n).map fun l => bit (c l) * 2 ^ l).sum).testBit l = c l := by
  induction n with
  | zero => exact ⟨by simp, fun l hl => absurd hl (by simp)⟩
  | succ n ih =>
    obtain ⟨small, bits⟩ := ih
    have next : ((List.range (n + 1)).map fun l => bit (c l) * 2 ^ l).sum =
        2 ^ n * bit (c n) + ((List.range n).map fun l => bit (c l) * 2 ^ l).sum := by
      simp [List.range_succ, Nat.mul_comm, Nat.add_comm]
    have one : bit (c n) ≤ 1 := by cases c n <;> decide
    rw [next]
    refine ⟨?_, fun l hl => ?_⟩
    · have := Nat.mul_le_mul_left (2 ^ n) one
      rw [Nat.pow_succ]
      omega
    · rw [Nat.testBit_two_pow_mul_add _ small]
      by_cases h : l < n
      · rw [if_pos h, bits l h]
      · have : l = n := by omega
        subst this
        rw [if_neg h, Nat.sub_self]
        cases c l <;> rfl

/-- The width of the file that a copy writes. -/
def copyWidth : XDst → Nat
  | .va _ | .vb _ => 4096
  | .ka _ | .kb _ => 128
  | _ => 64

theorem destMask_eq (dst : XDst) : destMask dst = 2 ^ copyWidth dst - 1 := by
  cases dst <;> simp only [destMask, copyWidth, allLanes, ones]

theorem xcp_runs {g : Guard} {s : State} (on : s.cur.on g = true) (dst : XDst) (src : XSrc) (ln : BitVec 7) :
    exec (.xcp g dst src ln) s = .next (s.gains .x 3 (xcpDest dst) (xcpValue s.cur dst src ln) (2 ^ copyWidth dst - 1) 0) := by
  rw [← destMask_eq]
  have h : exec (.xcp g dst src ln) s = .next (if s.cur.on g then
      s.modCur fun k => k.push .x 3 (xcpDest dst) (xcpValue k dst src ln) (destMask dst) 0
    else s) := rfl
  rw [h, if_pos on]
  rfl

/-- The three widths that a copy's file has are different. -/
theorem widths_differ : ((64 : Nat) ≠ 4096 ∧ (64 : Nat) ≠ 128) ∧ ((128 : Nat) ≠ 4096 ∧ (128 : Nat) ≠ 64) ∧
    ((4096 : Nat) ≠ 64 ∧ (4096 : Nat) ≠ 128) := by decide

/-- The source of a copy that is a vector, or a mask, of a slot's file. -/
def vecSource (f : VSlot) (r : VSrc) : XSrc := match f with | .va => .va r | .vb => .vb r
def maskSource (f : VSlot) (r : BitVec 4) : XSrc := match f with | .va => .ka r | .vb => .kb r

theorem xcp_vec (k : Core) (dst : XDst) (src : XSrc) (ln : BitVec 7) (r : VSrc) (f : VSlot)
    (hsrc : src = vecSource f r) (hwf : xcpOk dst src ln = true) :
    (copyWidth dst = 4096 → xcpValue k dst src ln = (k.readV f r).toNat) ∧
    (copyWidth dst = 64 → xcpValue k dst src ln = (lane (k.readV f r) ln.toNat).toNat) ∧
    (copyWidth dst = 128 → ∀ l, l < 128 → (xcpValue k dst src ln).testBit l = decide (lane (k.readV f r) l ≠ 0)) := by
  obtain ⟨⟨w1, w2⟩, ⟨m1, m2⟩, v1, v2⟩ := widths_differ
  have bits : ∀ l, l < 128 → (((List.range 128).map fun l => bit (lane (k.readV f r) l != 0) * 2 ^ l).sum).testBit l =
      decide (lane (k.readV f r) l ≠ 0) := fun l hl => ((sum_bits (fun l => lane (k.readV f r) l != 0) 128).2 l hl).trans
        (by simp only [bne, beq_eq_decide, decide_not, ne_eq])
  subst hsrc
  cases dst with
  | s d => cases f <;> exact ⟨fun h => absurd h w1, fun _ => rfl, fun h => absurd h w2⟩
  | va d => cases f <;> exact ⟨fun _ => rfl, fun h => absurd h v1, fun h => absurd h v2⟩
  | vb d => cases f <;> exact ⟨fun _ => rfl, fun h => absurd h v1, fun h => absurd h v2⟩
  | ka d => cases f <;> exact ⟨fun h => absurd h m1, fun h => absurd h m2, fun _ => bits⟩
  | kb d => cases f <;> exact ⟨fun h => absurd h m1, fun h => absurd h m2, fun _ => bits⟩
  | la d => cases f <;> exact absurd hwf Bool.false_ne_true
  | ta d => cases f <;> exact absurd hwf Bool.false_ne_true
  | xa d => cases f <;> exact absurd hwf Bool.false_ne_true

theorem xcp_mask (k : Core) (dst : XDst) (src : XSrc) (ln : BitVec 7) (r : BitVec 4) (f : VSlot)
    (hsrc : src = maskSource f r) (hwf : xcpOk dst src ln = true) :
    (copyWidth dst = 128 → xcpValue k dst src ln = (k.readK f r.toNat).toNat) ∧
    (copyWidth dst = 4096 → ∀ l b, l < 128 → b < 32 → (xcpValue k dst src ln).testBit (32 * l + b) = (k.readK f r.toNat).getLsbD l) := by
  obtain ⟨-, ⟨m1, -⟩, -, v2⟩ := widths_differ
  have bits : ∀ l b, l < 128 → b < 32 → (laneBits (k.readK f r.toNat)).testBit (32 * l + b) = (k.readK f r.toNat).getLsbD l :=
    fun l b hl hb => laneBits_testBit _ hl hb
  subst hsrc
  cases dst with
  | va d => cases f <;> exact ⟨fun h => absurd h v2, fun _ => bits⟩
  | vb d => cases f <;> exact ⟨fun h => absurd h v2, fun _ => bits⟩
  | ka d => cases f <;> exact ⟨fun _ => rfl, fun h => absurd h m1⟩
  | kb d => cases f <;> exact ⟨fun _ => rfl, fun h => absurd h m1⟩
  | s d => cases f <;> exact absurd hwf Bool.false_ne_true
  | la d => cases f <;> exact absurd hwf Bool.false_ne_true
  | ta d => cases f <;> exact absurd hwf Bool.false_ne_true
  | xa d => cases f <;> exact absurd hwf Bool.false_ne_true

/-- A word in every lane, or as it stands. -/
def spread (dst : XDst) (x : Word64) : Nat :=
  match dst with
  | .va _ | .vb _ => (ofLanes (List.replicate 128 (x.setWidth 32))).toNat
  | _ => x.toNat

theorem xcp_word (dst : XDst) (x : Word64) : (copyWidth dst = 64 → spread dst x = x.toNat) ∧
    (copyWidth dst = 4096 → ∀ l, l < 128 → spread dst x / 2 ^ (32 * l) % 2 ^ 32 = x.toNat % 2 ^ 32) := by
  obtain ⟨⟨w1, -⟩, ⟨m1, m2⟩, v1, -⟩ := widths_differ
  have lanes : ∀ l, l < 128 → (ofLanes (List.replicate 128 (x.setWidth 32))).toNat / 2 ^ (32 * l) % 2 ^ 32 = x.toNat % 2 ^ 32 := by
    intro l hl
    rw [ofLanes_lane _ (by simp) hl, List.getElem_replicate, BitVec.toNat_setWidth]
  cases dst with
  | va d => exact ⟨fun h => absurd h v1, fun _ => lanes⟩
  | vb d => exact ⟨fun h => absurd h v1, fun _ => lanes⟩
  | ka d => exact ⟨fun h => absurd h m2, fun h => absurd h m1⟩
  | kb d => exact ⟨fun h => absurd h m2, fun h => absurd h m1⟩
  | s d => exact ⟨fun _ => rfl, fun h => absurd h w1⟩
  | la d => exact ⟨fun _ => rfl, fun h => absurd h w1⟩
  | ta d => exact ⟨fun _ => rfl, fun h => absurd h w1⟩
  | xa d => exact ⟨fun _ => rfl, fun h => absurd h w1⟩

theorem xcp_sends (g : Guard) (dst : XDst) (src : XSrc) (ln : BitVec 7) (s : State) (on : s.cur.on g = true) :
    Instr.wf (.xcp g dst src ln) = true →
    let file := match dst with
      | .s r => Dest.s r.toNat | .va r => .v .va r.toNat | .vb r => .v .vb r.toNat | .ka r => .k .va r.toNat
      | .kb r => .k .vb r.toNat | .la r => .la r.toNat | .ta r => .ta r.toNat | .xa r => .xa r.toNat
    let width := match file with | .v _ _ => 4096 | .k _ _ => 128 | _ => 64
    let vec : Option Vec := match src with | .va r => some (s.cur.readV .va r) | .vb r => some (s.cur.readV .vb r) | _ => none
    let mask : Option LaneMask := match src with
      | .ka r => some (s.cur.readK .va r.toNat) | .kb r => some (s.cur.readK .vb r.toNat) | _ => none
    let word : Option Word64 := match src with
      | .s r => some (s.cur.readS r) | .la r => some (s.cur.readLA r) | .ta r => some (s.cur.readTA r)
      | .xa r => some (s.cur.readXA r) | _ => none
    ∃ v, exec (.xcp g dst src ln) s = .next (s.gains .x 3 file v (2 ^ width - 1) 0) ∧
      (∀ x, vec = some x → width = 4096 → v = x.toNat) ∧
      (∀ x, vec = some x → width = 64 → v = (lane x ln.toNat).toNat) ∧
      (∀ x, vec = some x → width = 128 → ∀ l, l < 128 → v.testBit l = decide (lane x l ≠ 0)) ∧
      (∀ x, mask = some x → width = 128 → v = x.toNat) ∧
      (∀ x, mask = some x → width = 4096 → ∀ l b, l < 128 → b < 32 → v.testBit (32 * l + b) = x.getLsbD l) ∧
      (∀ x, word = some x → width = 64 → v = x.toNat) ∧
      (∀ x, word = some x → width = 4096 → ∀ l, l < 128 → v / 2 ^ (32 * l) % 2 ^ 32 = x.toNat % 2 ^ 32) := by
  intro hwf file width vec mask word
  have dest : file = xcpDest dst := by cases dst <;> rfl
  have wide : width = copyWidth dst := by cases dst <;> rfl
  clear_value width
  clear_value file
  subst dest wide
  have ok : xcpOk dst src ln = true := hwf
  have ofVec : ∀ x, vec = some x → ∃ f r, src = vecSource f r ∧ x = s.cur.readV f r := by
    dsimp only [vec]
    intro x hx
    cases src <;> simp only [reduceCtorEq, Option.some.injEq] at hx
    case va r => exact ⟨.va, r, rfl, hx.symm⟩
    case vb r => exact ⟨.vb, r, rfl, hx.symm⟩
  have ofMask : ∀ x, mask = some x → ∃ f r, src = maskSource f r ∧ x = s.cur.readK f r.toNat := by
    dsimp only [mask]
    intro x hx
    cases src <;> simp only [reduceCtorEq, Option.some.injEq] at hx
    case ka r => exact ⟨.va, r, rfl, hx.symm⟩
    case kb r => exact ⟨.vb, r, rfl, hx.symm⟩
  have ofWord : ∀ x, word = some x → xcpValue s.cur dst src ln = spread dst x := by
    dsimp only [word]
    intro x hx
    cases src <;> simp only [reduceCtorEq, Option.some.injEq] at hx <;> rw [← hx] <;> rfl
  refine ⟨_, xcp_runs on dst src ln, fun x hx => ?_, fun x hx => ?_, fun x hx => ?_, fun x hx => ?_, fun x hx => ?_, fun x hx => ?_,
    fun x hx => ?_⟩
  · obtain ⟨f, r, hsrc, rfl⟩ := ofVec x hx
    exact (xcp_vec s.cur dst src ln r f hsrc ok).1
  · obtain ⟨f, r, hsrc, rfl⟩ := ofVec x hx
    exact (xcp_vec s.cur dst src ln r f hsrc ok).2.1
  · obtain ⟨f, r, hsrc, rfl⟩ := ofVec x hx
    exact (xcp_vec s.cur dst src ln r f hsrc ok).2.2
  · obtain ⟨f, r, hsrc, rfl⟩ := ofMask x hx
    exact (xcp_mask s.cur dst src ln r f hsrc ok).1
  · obtain ⟨f, r, hsrc, rfl⟩ := ofMask x hx
    exact (xcp_mask s.cur dst src ln r f hsrc ok).2
  · rw [ofWord x hx]
    exact (xcp_word dst x).1
  · rw [ofWord x hx]
    exact (xcp_word dst x).2

/-! ### The fork of a command (R221) -/

/-- What the reads and the notes of a command leave: its queues, its registers and all state elsewhere. -/
def Settled (s t : State) : Prop :=
  (t.turn = s.turn ∧ t.nextId = s.nextId ∧ t.contexts = s.contexts) ∧
  ((∀ r, t.cur.eng.queue r = s.cur.eng.queue r) ∧ t.cur.eng.evq = s.cur.eng.evq ∧ t.cur.regs = s.cur.regs ∧ t.cur.seq = s.cur.seq ∧
    t.cur.sp = s.cur.sp ∧ t.cur.ls = s.cur.ls ∧ t.cur.arr = s.cur.arr) ∧
  (∀ c, c ≠ s.turn → t.core c = s.core c) ∧ t.clusters = s.clusters ∧ t.tasks = s.tasks ∧ t.pmem = s.pmem ∧ t.xs = s.xs

theorem Settled.refl (s : State) : Settled s s :=
  ⟨⟨rfl, rfl, rfl⟩, ⟨fun _ => rfl, rfl, rfl, rfl, rfl, rfl, rfl⟩, fun _ _ => rfl, rfl, rfl, rfl, rfl⟩

theorem Settled.trans {s t u : State} (h : Settled s t) (h' : Settled t u) : Settled s u := by
  obtain ⟨⟨w, n, c⟩, ⟨q, e, r, sq, p, l, a⟩, o, cl, k, m, x⟩ := h
  obtain ⟨⟨w', n', c'⟩, ⟨q', e', r', sq', p', l', a'⟩, o', cl', k', m', x'⟩ := h'
  exact ⟨⟨w'.trans w, n'.trans n, c'.trans c⟩, ⟨fun i => (q' i).trans (q i), e'.trans e, r'.trans r, sq'.trans sq, p'.trans p, l'.trans l,
    a'.trans a⟩, fun d hd => (o' d (w ▸ hd)).trans (o d hd), cl'.trans cl, k'.trans k, m'.trans m, x'.trans x⟩

/-- A change of what the recovery and the engines note of their reads. -/
theorem Settled.modCur (s : State) {f : Core → Core}
    (h : (∀ r, (f s.cur).eng.queue r = s.cur.eng.queue r) ∧ (f s.cur).eng.evq = s.cur.eng.evq ∧ (f s.cur).regs = s.cur.regs ∧
      (f s.cur).seq = s.cur.seq ∧ (f s.cur).sp = s.cur.sp ∧ (f s.cur).ls = s.cur.ls ∧ (f s.cur).arr = s.cur.arr) :
    Settled s (s.modCur f) := by
  rw [← State.cur_modCur s f] at h
  exact ⟨⟨rfl, rfl, rfl⟩, h, fun c hc => State.core_modCur_other s f hc, rfl, rfl, rfl, rfl⟩

theorem queue_observed (e : Engines) (l : List Nat) (r : Nat) : ({ e with observed := l } : Engines).queue r = e.queue r := by
  unfold Engines.queue
  split <;> rfl

theorem settled_sigEffect (s : State) (sl : Slot) (kind addr : Nat) (bs : List Byte) : Settled s (s.sigEffect sl kind addr bs) := by
  obtain ⟨f, h⟩ := sigEffect_eq s sl kind addr bs
  rw [h]
  exact Settled.modCur s ⟨fun _ => rfl, rfl, rfl, rfl, rfl, rfl, rfl⟩

theorem settled_observeHeld (s : State) (hs : List Held) : Settled s (s.observeHeld s.turn hs) := by
  unfold State.observeHeld
  split
  · exact Settled.refl s
  · exact Settled.modCur s ⟨queue_observed _ _, rfl, rfl, rfl, rfl, rfl, rfl⟩

theorem settled_dependOnPool (s : State) (a n : Nat) : Settled s (s.dependOnPool s.turn a n) := by
  unfold State.dependOnPool
  dsimp only
  split
  · exact Settled.refl s
  · exact Settled.modCur s ⟨fun _ => rfl, rfl, rfl, rfl, rfl, rfl, rfl⟩

theorem settled_dependOnPools (c : Nat) (l : List Nat) (s : State) (hc : s.turn = c) :
    Settled s (l.foldl (fun (s : State) a => s.dependOnPool c a 1) s) := by
  induction l generalizing s with
  | nil => exact Settled.refl s
  | cons a l ih =>
    have step := settled_dependOnPool s a 1
    rw [hc] at step
    exact step.trans (ih _ (step.1.1.trans hc))

theorem settled_askBanks (s : State) (c : Nat) (l : List Nat) : Settled s (s.askBanks c l) := by
  obtain ⟨i, n, h⟩ := askBanks_eq s c l
  rw [h]
  exact Settled.refl s

theorem settled_tensor (s : State) (before : Nat) (z : Shape) (sc : Bool) :
    Settled s ((s.tensorDepends s.turn before z sc).askTensor s.turn z sc) := by
  have held := settled_observeHeld s (s.heldAt s.turn (s.tensorLocs s.turn before z sc))
  have reads : Settled s (s.tensorDepends s.turn before z sc) := held.trans (settled_dependOnPools s.turn _ _ held.1.1)
  refine reads.trans ?_
  unfold State.askTensor
  split
  · exact settled_askBanks _ _ _
  · exact Settled.refl _

/-- The registers of the core in turn behind a sending event. -/
def stamped (s : State) : Regs := { s.cur.regs with lclock := BitVec.ofNat 40 (min (s.cur.regs.lclock.toNat + 1) (2 ^ 40 - 1)) }

/-- The operation that a bundle forks, before its own command completes it. -/
def bundleOp (s : State) (cmd : EngCmd) (k : Core) : EngOp :=
  { id := s.nextId, cmd := cmd, core := s.turn, tid := k.task.getD 0, addr := k.seq.pc, seg := k.rcv.seg,
    stamp := k.regs.lclock.toNat, after := k.eng.observed }

def forkedOp (s : State) (cmd : EngCmd) : EngOp := bundleOp s cmd { s.cur with regs := stamped s }

/-- An operation joins its queue, its pages are translated, and what it reads at once is noted. -/
def forkAs (s s1 : State) (cmd : EngCmd) (o : EngOp) : State :=
  let s2 := s1.modCur fun k => k.modEng fun e => e.setQueue (queueNo cmd) (e.queue (queueNo cmd) ++ [o])
  let s3 := s2.prefill (s.pasidOf s.turn) cmd.pages
  match o.readsNow with
  | some (z, sc) => (s3.tensorDepends s.turn (s.nextId + 1) z sc).askTensor s.turn z sc
  | none => s3

theorem fork_eq (s : State) (cmd : EngCmd) (f : EngOp → EngOp) : s.fork cmd f =
    let s1 : State := { s.sendStamp s.turn with nextId := s.nextId + 1 }
    forkAs s s1 cmd (f (bundleOp s cmd s1.cur)) := rfl

/-- A command's operation stands in its queue; nothing else of the machine has changed but what its reads note. -/
def Joins (s t : State) (cmd : EngCmd) (o : EngOp) : Prop :=
  t.cur.eng.queue (queueNo cmd) = s.cur.eng.queue (queueNo cmd) ++ [o] ∧
  (∀ r, r ≠ queueNo cmd → r < 5 → t.cur.eng.queue r = s.cur.eng.queue r) ∧ t.cur.eng.evq = s.cur.eng.evq ∧
  t.cur.regs = stamped s ∧ t.cur.seq = s.cur.seq ∧ t.cur.sp = s.cur.sp ∧ t.cur.ls = s.cur.ls ∧ t.cur.arr = s.cur.arr ∧
  (∀ c, c ≠ s.turn → t.core c = s.core c) ∧ t.clusters = s.clusters ∧ t.tasks = s.tasks ∧ t.pmem = s.pmem ∧ t.xs = s.xs

theorem Joins.settled {s t u : State} {cmd : EngCmd} {o : EngOp} (h : Joins s t cmd o) (ht : t.turn = s.turn) (h' : Settled t u) :
    Joins s u cmd o := by
  obtain ⟨q, others, e, r, sq, p, l, a, cores, cl, k, m, x⟩ := h
  obtain ⟨-, ⟨q', e', r', sq', p', l', a'⟩, o', cl', k', m', x'⟩ := h'
  exact ⟨(q' _).trans q, fun i hi h5 => (q' i).trans (others i hi h5), e'.trans e, r'.trans r, sq'.trans sq, p'.trans p, l'.trans l,
    a'.trans a, fun d hd => (o' d (ht ▸ hd)).trans (cores d hd), cl'.trans cl, k'.trans k, m'.trans m, x'.trans x⟩

/-- A change of a context alone. -/
theorem Joins.modCtx {s t : State} {cmd : EngCmd} {o : EngOp} (h : Joins s t cmd o) (p : Nat) (f : Context → Context) :
    Joins s (t.modCtx p f) cmd o := h

theorem setQueue_same (e : Engines) {q : Nat} (hq : q < 5) (l : EngQueue) : (e.setQueue q l).queue q = l := by
  interval_cases q <;> rfl

theorem setQueue_other (e : Engines) {q r : Nat} (hq : q < 5) (hr : r < 5) (h : r ≠ q) (l : EngQueue) :
    (e.setQueue q l).queue r = e.queue r := by
  interval_cases q <;> interval_cases r <;> simp_all [Engines.setQueue, Engines.queue]

theorem queueNo_lt (cmd : EngCmd) : queueNo cmd < 5 := by cases cmd <;> simp [queueNo]

/-- Two contexts that differ in what their translation caches hold alone. -/
def SameButTlb (x z : Context) : Prop := { z with tlb := x.tlb } = x

theorem modCtx_ctx (s : State) (p : Nat) (f : Context → Context) : (s.modCtx p f).ctx p = f (s.ctx p) := Table.get_put_same ..

theorem prefill_contexts (s : State) (p : Nat) (vas : List Nat) :
    (∃ cs, s.prefill p vas = { s with contexts := cs }) ∧ SameButTlb (s.ctx p) ((s.prefill p vas).ctx p) := by
  unfold State.prefill
  dsimp only
  split
  · exact ⟨⟨_, rfl⟩, rfl⟩
  · refine ⟨⟨_, rfl⟩, ?_⟩
    rw [SameButTlb, modCtx_ctx]

theorem fork_joins (s : State) (cmd : EngCmd) (f : EngOp → EngOp) :
    let t := s.fork cmd f
    Joins s t cmd (f (forkedOp s cmd)) ∧ t.turn = s.turn ∧ t.nextId = s.nextId + 1 ∧
      SameButTlb (s.ctx (s.pasidOf s.turn)) (t.ctx (s.pasidOf s.turn)) := by
  intro t
  let stamp := fun k : Core => k.modRegs fun r => { r with lclock := BitVec.ofNat 40 (stampSend r.lclock.toNat) }
  let s1 : State := { s.modCur stamp with nextId := s.nextId + 1 }
  have cur1 : s1.cur = stamp s.cur := State.cur_modCur s stamp
  let o := f (forkedOp s cmd)
  let join := fun k : Core => k.modEng fun e => e.setQueue (queueNo cmd) (e.queue (queueNo cmd) ++ [o])
  let s2 := s1.modCur join
  have cur2 : s2.cur = join (stamp s.cur) := (State.cur_modCur s1 join).trans (congrArg join cur1)
  have stampedCore : stamp s.cur = { s.cur with regs := stamped s } := by
    simp only [stamp, Core.modRegs, stamped, stampSend, stampMax]
  have joins2 : Joins s s2 cmd o := by
    unfold Joins
    rw [cur2, stampedCore]
    refine ⟨setQueue_same _ (queueNo_lt cmd) _, fun r hr h5 => setQueue_other _ (queueNo_lt cmd) h5 hr _, (setQueue_keeps _ _ _).2, rfl, rfl,
      rfl, rfl, rfl, fun c hc => ?_, rfl, rfl, rfl, rfl⟩
    exact (State.core_modCur_other s1 join hc).trans (State.core_modCur_other s stamp hc)
  obtain ⟨⟨cs, only⟩, tlb⟩ := prefill_contexts s2 (s.pasidOf s.turn) cmd.pages
  let s3 := s2.prefill (s.pasidOf s.turn) cmd.pages
  have joins3 : Joins s s3 cmd o := by
    have same : s3 = { s2 with contexts := cs } := only
    rw [same]
    exact joins2
  have turn3 : s3.turn = s.turn := (congrArg State.turn only).trans rfl
  have next3 : s3.nextId = s.nextId + 1 := (congrArg State.nextId only).trans rfl
  have shape : t = forkAs s s1 cmd o := by
    dsimp only [o, forkedOp]
    rw [← stampedCore, ← cur1]
    exact fork_eq s cmd f
  rw [shape]
  have reads : forkAs s s1 cmd o = match o.readsNow with
      | some (z, sc) => (s3.tensorDepends s.turn (s.nextId + 1) z sc).askTensor s.turn z sc
      | none => s3 := rfl
  rw [reads]
  cases o.readsNow with
  | none => exact ⟨joins3, turn3, next3, tlb⟩
  | some x =>
    have reads := settled_tensor s3 (s.nextId + 1) x.1 x.2
    rw [turn3] at reads
    have ⟨⟨turn, next, ctx⟩, _⟩ := reads
    refine ⟨joins3.settled turn3 reads, turn.trans turn3, next.trans next3, ?_⟩
    have same : ∀ u : State, u.contexts = s3.contexts → SameButTlb (s.ctx (s.pasidOf s.turn)) (u.ctx (s.pasidOf s.turn)) := by
      intro u hu
      rw [State.ctx, State.ctx, hu]
      exact tlb
    exact same _ ctx

/-! ### Commands (R221, R226) -/

/-- An operation with the identity and the bundle of another, and no completion. -/
def SameOp (o x : EngOp) : Prop :=
  x.id = o.id ∧ x.cmd = o.cmd ∧ x.core = o.core ∧ x.tid = o.tid ∧ x.addr = o.addr ∧ x.seg = o.seg ∧ x.clearAt = none ∧ x.complete = false

/-- The command has been issued with the operation o, and its context holds nothing new yet. -/
def Commanded (s t : State) (cmd : EngCmd) (o : EngOp) : Prop :=
  Joins s t cmd o ∧ SameOp (forkedOp s cmd) o ∧ t.nextId = s.nextId + 1 ∧ SameButTlb (s.ctx (s.pasidOf s.turn)) (t.ctx (s.pasidOf s.turn))

theorem fork_noted (s : State) {cmd : EngCmd} {f : EngOp → EngOp} (kind addr : Nat) (ops : List Byte)
    (hf : ∀ o, o.clearAt = none → o.complete = false → SameOp o (f o)) :
    Commanded s ((s.fork cmd f).sigEffect .x kind addr ops) cmd (f (forkedOp s cmd)) := by
  obtain ⟨joins, turn, next, tlb⟩ := fork_joins s cmd f
  have noted := settled_sigEffect (s.fork cmd f) .x kind addr ops
  have ⟨⟨_, next', ctx⟩, _⟩ := noted
  refine ⟨joins.settled turn noted, hf _ rfl rfl, next'.trans next, ?_⟩
  rw [State.ctx, State.ctx, ctx]
  exact tlb

theorem command_forks {s : State} {g : Guard} (on : s.cur.on g = true) {cmd : EngCmd} {f : EngOp → EngOp} (ops : List Byte)
    (room : queueNo cmd < 4 → (s.cur.eng.queue (queueNo cmd)).length < 2)
    (hf : ∀ o, o.clearAt = none → o.complete = false → SameOp o (f o)) :
    Commanded s (s.command g none none cmd f ops) cmd (f (forkedOp s cmd)) := by
  have free : (decide (queueNo cmd < 4) && decide (2 ≤ (s.cur.eng.queue (queueNo cmd)).length)) = false := by
    by_cases h : queueNo cmd < 4
    · have := room h
      simp [Nat.not_le.mpr this]
    · simp [h]
  have forks : s.command g none none cmd f ops = (s.fork cmd f).sigEffect .x (recordKind cmd) 0 ops := by
    simp only [State.command, on, free, Bool.not_true, Bool.false_eq_true, if_false]
  rw [forks]
  exact fork_noted s _ 0 ops hf

theorem command_shadow {s : State} {g : Guard} (on : s.cur.on g = true) {cmd : EngCmd} (h : Option HoldCause) (f : EngOp → EngOp)
    (ops : List Byte) (hq : queueNo cmd < 4) (full : 2 ≤ (s.cur.eng.queue (queueNo cmd)).length) :
    s.command g none h cmd f ops = s.holdFor .x .shadow := by
  simp only [State.command, on, decide_eq_true hq, decide_eq_true full, Bool.and_self, Bool.not_true, Bool.false_eq_true, if_false, if_true]

theorem command_refused {s : State} {g : Guard} (on : s.cur.on g = true) (code : Nat) (h : Option HoldCause) (cmd : EngCmd)
    (f : EngOp → EngOp) (ops : List Byte) : s.command g (some code) h cmd f ops = s.issueFault .x code := by
  simp only [State.command, on, Bool.not_true, Bool.false_eq_true, if_false]

theorem SameOp.refl (o : EngOp) (h : o.clearAt = none) (h' : o.complete = false) : SameOp o o :=
  ⟨rfl, rfl, rfl, rfl, rfl, rfl, h, h'⟩

/-- A command that nothing refuses is issued as the shared command, and then changes its context where it takes a place there; one
that is held changes nothing. -/
def Runs (g : Guard) (i : Instr) (s : State) (cmd : EngCmd) : Prop :=
  ∃ (f : EngOp → EngOp) (ops : List Byte) (n : Nat) (finish : State → State),
    exec i s = .next (finish (({ s with free := n } : State).command g none none cmd f ops)) ∧
    (∀ o, o.clearAt = none → o.complete = false → SameOp o (f o)) ∧
    (∀ t o, s.cur.seq.verdict = .ok → Commanded s t cmd o →
      Joins s (finish t) cmd o ∧ takesPlace s cmd o.id (s.ctx (s.pasidOf s.turn)) ((finish t).ctx (s.pasidOf s.turn))) ∧
    (∀ t, t.cur.eng = s.cur.eng → t.cur.seq.verdict = .held → finish t = t)

/-- A command that takes no place in its context. -/
theorem Runs.plain {g : Guard} {i : Instr} {s : State} {cmd : EngCmd} {f : EngOp → EngOp} {ops : List Byte} (n : Nat)
    (hi : exec i s = .next (({ s with free := n } : State).command g none none cmd f ops))
    (same : ∀ o, o.clearAt = none → o.complete = false → SameOp o (f o))
    (plain : ∀ id z, SameButTlb (s.ctx (s.pasidOf s.turn)) z → takesPlace s cmd id (s.ctx (s.pasidOf s.turn)) z) : Runs g i s cmd :=
  ⟨f, ops, n, id, hi, same, fun _ _ _ ⟨joins, _, _, tlb⟩ => ⟨joins, plain _ _ tlb⟩, fun _ _ _ => rfl⟩

/-- A command's context once it has been issued, unless it has not been. -/
def finishIn (p : Nat) (without : State → Bool) (f : State → Context → Context) (t : State) : State :=
  if without t then t else t.modCtx p (f t)

/-- A command that changes its context once it has been issued. -/
theorem Runs.placed {g : Guard} {i : Instr} {s : State} {cmd : EngCmd} {f : EngOp → EngOp} {ops : List Byte} {without : State → Bool}
    {change : State → Context → Context}
    (hi : exec i s = .next (finishIn (s.pasidOf s.turn) without change (s.command g none none cmd f ops)))
    (same : ∀ o, o.clearAt = none → o.complete = false → SameOp o (f o))
    (left : ∀ t o, s.cur.seq.verdict = .ok → Commanded s t cmd o → without t = true →
      takesPlace s cmd o.id (s.ctx (s.pasidOf s.turn)) (t.ctx (s.pasidOf s.turn)))
    (changed : ∀ t o, Commanded s t cmd o → without t = false → t.nextId - 1 = o.id →
      takesPlace s cmd o.id (s.ctx (s.pasidOf s.turn)) (change t (t.ctx (s.pasidOf s.turn))))
    (still : ∀ t, t.cur.eng = s.cur.eng → t.cur.seq.verdict = .held → without t = true) : Runs g i s cmd := by
  refine ⟨f, ops, s.free, finishIn (s.pasidOf s.turn) without change, hi, same, fun t o ok h => ?_, fun t he hv => if_pos (still t he hv)⟩
  have ⟨joins, ⟨id, _⟩, next, _⟩ := h
  unfold finishIn
  by_cases none : without t = true
  · rw [if_pos none]
    exact ⟨joins, left t o ok h none⟩
  · rw [if_neg none]
    refine ⟨joins.modCtx _ _, ?_⟩
    rw [modCtx_ctx]
    exact changed t o h (Bool.eq_false_iff.mpr none) (by rw [next, id]; rfl)

section
variable {s : State} {g : Guard}

/-- The read of a tensor at the fork keeps what identifies the operation. -/
theorem sameOp_ite {p : Prop} [Decidable p] {o x y : EngOp} (hx : SameOp o x) (hy : SameOp o y) : SameOp o (if p then x else y) := by
  split
  · exact hx
  · exact hy

theorem copy_runs {i : Instr} {a d : BitVec 5} {r : Option Nat} {x y : Shape} (hi : exec i s = .next (s.copyIssue g a d r))
    (ha : s.shapeAt a = some x) (hd : s.shapeAt d = some y)
    (logical : x.logical = y.logical) (ranks : ∀ m, r = some m → y.lvl = 0 ∧ m < 2 ^ (s.stage (s.stageOf s.turn)).team) :
    Runs g i s (.copy y x r) := by
  refine Runs.plain s.free (f := fun o => if tracked x then o
      else
        let (es, st) := s.readTensor s.turn (s.nextId + 1) x true
        { o with elems := es, status := st }) (ops := shapeOps x ++ shapeOps y ++ leBytes 1 (r.getD 0))
    (hi.trans (congrArg Host.Outcome.next ?_))
    (fun o h1 h2 => sameOp_ite (SameOp.refl o h1 h2) ⟨rfl, rfl, rfl, rfl, rfl, rfl, h1, h2⟩) fun _ _ h => h
  cases r with
  | none =>
    simp only [State.copyIssue, ha, hd, logical, bne_self_eq_false, Bool.or_false, Bool.false_eq_true, if_false]
  | some m =>
    obtain ⟨level, few⟩ := ranks m rfl
    simp only [State.copyIssue, ha, hd, logical, level, Nat.div_eq_of_lt few, bne_self_eq_false, Bool.false_or, ne_eq, not_true,
      decide_false, Bool.false_eq_true, if_false]

theorem cpy_runs {a d : BitVec 5} {cmd : EngCmd} (h : commandOf (.cpy g a d) s = some cmd) : Runs g (.cpy g a d) s cmd := by
  simp only [commandOf] at h
  cases ha : s.shapeAt a with
  | none => simp [ha] at h
  | some x =>
    cases hd : s.shapeAt d with
    | none => simp [ha, hd] at h
    | some y =>
      simp only [ha, hd, Option.ite_none_right_eq_some, Option.some.injEq] at h
      obtain ⟨logical, rfl⟩ := h
      exact copy_runs rfl ha hd logical (fun m hm => by cases hm)

theorem mc_runs {a d : BitVec 5} {r : Byte} {cmd : EngCmd} (h : commandOf (.mc g a d r) s = some cmd) : Runs g (.mc g a d r) s cmd := by
  simp only [commandOf] at h
  cases ha : s.shapeAt a with
  | none => simp [ha] at h
  | some x =>
    cases hd : s.shapeAt d with
    | none => simp [ha, hd] at h
    | some y =>
      simp only [ha, hd, Option.ite_none_right_eq_some, Option.some.injEq] at h
      obtain ⟨⟨logical, level, ranks⟩, rfl⟩ := h
      exact copy_runs rfl ha hd logical (fun m hm => Option.some.inj hm ▸ ⟨level, ranks⟩)

theorem tinvRefused_false {va n : Nat} {z : TinvSize} (aligned : va % tinvBytes z = 0) (some : 0 < n) (few : n ≤ 512) :
    tinvRefused va n z = false := by
  simp [tinvRefused, aligned, Nat.pos_iff_ne_zero.mp some, few]

theorem tinv_runs {v n : BitVec 5} {z : TinvSize} {cmd : EngCmd} (h : commandOf (.tinv g v n z) s = some cmd) : Runs g (.tinv g v n z) s cmd := by
  have runs : ∀ va k, tinvRefused va k z = false → exec (.tinv g v n z) s = .next (s.command g (if tinvRefused va k z then some 0x0F else none)
      none (.tinv va k z) id (leBytes 8 va ++ leBytes 8 k)) → cmd = .tinv va k z → Runs g (.tinv g v n z) s cmd := by
    rintro va k fine hi rfl
    refine Runs.plain s.free (f := id) (ops := leBytes 8 va ++ leBytes 8 k) (hi.trans ?_) (fun o h1 h2 => SameOp.refl o h1 h2) fun _ _ h => h
    rw [fine]
    rfl
  simp only [commandOf] at h
  by_cases all : z = .all
  · subst all
    rw [if_pos rfl, Option.some.injEq] at h
    exact runs 0 0 rfl rfl h.symm
  · rw [if_neg all, Option.ite_none_right_eq_some, Option.some.injEq] at h
    obtain ⟨⟨aligned, some, few⟩, rfl⟩ := h
    refine runs _ _ ?_ ?_ rfl
    · refine tinvRefused_false ?_ some few
      cases z
      · exact aligned
      · exact aligned
      · exact aligned
      · exact absurd rfl all
    · show Host.Outcome.next _ = _
      simp only [if_neg all]

/-- A context whose stash has one entry more. -/
def withEntry (x : Context) (e : StashEntry) : Context := { x with stash := x.stash ++ [e] }

theorem SameButTlb.withEntry {x z : Context} (h : SameButTlb x z) (e : StashEntry) : SameButTlb (withEntry x e) (withEntry z e) :=
  congrArg (fun c => Machine.withEntry c e) h

/-- The status with which a command that makes an entry ends at once. -/
def entryStatus (x : Context) (key : Nat) : Nat := if (x.entry? key).isSome then 1 else if 8192 ≤ x.stash.length then 2 else 0

/-- What a command that makes an entry reads at its fork. -/
def entryOp (s : State) (status : Nat) (shape : Option (Option Shape)) (o : EngOp) : EngOp :=
  if status != 0 then { o with status := status, sent := true }
  else if shape.isNone || (tracked ((shape.getD none).getD {}) && s.tensorHeld s.turn o.id ((shape.getD none).getD {}) false) then o
  else
    let (es, st) := s.readTensor s.turn o.id ((shape.getD none).getD {}) false
    { o with elems := es, status := st, started := true }

theorem entryOp_same (s : State) (status : Nat) (shape : Option (Option Shape)) (o : EngOp) (h : o.clearAt = none) (h' : o.complete = false) :
    SameOp o (entryOp s status shape o) :=
  sameOp_ite ⟨rfl, rfl, rfl, rfl, rfl, rfl, h, h'⟩ (sameOp_ite (SameOp.refl o h h') ⟨rfl, rfl, rfl, rfl, rfl, rfl, h, h'⟩)

/-- A command that makes an entry, where nothing refuses it. -/
theorem stash_runs (on : s.cur.on g = true) {i : Instr} {k : BitVec 5} {shape : Option (Option Shape)}
    {bad : Nat → Option Shape → Bool} {cmd : Nat → Shape → EngCmd} {handle : Word64} (hi : exec i s = .next (s.stashIssue g k shape bad cmd handle))
    (fine : (badKey (s.cur.readXA k).toNat || shape == some none || bad (s.cur.readXA k).toNat (shape.getD none)) = false)
    (place : ∀ id z, ((s.ctx (s.pasidOf s.turn)).entry? (s.cur.readXA k).toNat = none → (s.ctx (s.pasidOf s.turn)).stash.length < 8192 →
        SameButTlb (withEntry (s.ctx (s.pasidOf s.turn)) { key := (s.cur.readXA k).toNat, state := .pending, handle := handle, op := id }) z) →
      takesPlace s (cmd (s.cur.readXA k).toNat ((shape.getD none).getD {})) id (s.ctx (s.pasidOf s.turn)) z) :
    Runs g i s (cmd (s.cur.readXA k).toNat ((shape.getD none).getD {})) := by
  let key := (s.cur.readXA k).toNat
  let z := (shape.getD none).getD {}
  let status := entryStatus (s.ctx (s.pasidOf s.turn)) key
  let s1 := s.command g none none (cmd key z) (entryOp s status shape) (leBytes 8 key ++ leBytes 8 handle.toNat)
  refine Runs.placed (f := entryOp s status shape) (ops := leBytes 8 key ++ leBytes 8 handle.toNat)
    (without := fun t => status != 0 || t.cur.seq.verdict == Verdict.held)
    (change := fun t x => withEntry x { key := key, state := .pending, handle := handle, op := t.nextId - 1 })
    (hi.trans (congrArg Host.Outcome.next ?_)) (entryOp_same s status shape) (fun t o ok h kept => ?_) (fun t o h _ id => ?_) ?_
  · simp only [State.stashIssue, on, fine, Bool.not_true, Bool.false_or, Bool.false_eq_true, if_false]
    rfl
  · refine place _ _ fun none few => ?_
    have new : status = 0 := by
      show entryStatus _ _ = 0
      rw [entryStatus, if_neg (by simp [key, none]), if_neg (Nat.not_le.mpr few)]
    obtain ⟨⟨-, -, -, -, seq, -⟩, -⟩ := h
    rw [new, seq, ok] at kept
    exact absurd kept (by decide)
  · obtain ⟨-, -, -, tlb⟩ := h
    refine place _ _ fun _ _ => ?_
    rw [id]
    exact tlb.withEntry _
  · intro t _ held
    rw [held]
    exact Bool.or_true _

theorem keyBits {k : Nat} : (k < 2 ^ 39 ↔ badKey k = false) ∧ (k < 2 ^ 38 → badKey k = false ∧ keyWv k = false) ∧
    (2 ^ 38 ≤ k → k < 2 ^ 39 → keyWv k = true) := by
  have small : k < 2 ^ 39 ↔ k / 2 ^ 39 = 0 := by omega
  refine ⟨by rw [badKey, small]; simp, fun h => ⟨?_, ?_⟩, fun h h' => ?_⟩
  · have : k / 2 ^ 39 = 0 := by omega
    rw [badKey, this]
    rfl
  · rw [keyWv, bitAt_eq_testBit, Nat.testBit_lt_two_pow h]
  · rw [keyWv, bitAt_eq_testBit, Nat.testBit_eq_decide_div_mod_eq]
    have : k / 2 ^ 38 = 1 := by omega
    rw [this]
    rfl

theorem stash_command_runs (on : s.cur.on g = true) {x k : BitVec 5} {m : StashMode} {cmd : EngCmd}
    (h : commandOf (.stash g x k m) s = some cmd) :
    Runs g (.stash g x k m) s cmd := by
  simp only [commandOf] at h
  cases hx : s.shapeAt x with
  | none => simp [hx] at h
  | some z =>
    simp only [hx, Option.ite_none_right_eq_some, Option.some.injEq] at h
    obtain ⟨⟨small, coded⟩, rfl⟩ := h
    obtain ⟨good, low⟩ := keyBits.2.1 small
    refine stash_runs on (shape := some (some z)) (cmd := fun k z => .stash k z m) (handle := 0) (k := k)
      (bad := fun k z => keyWv k || (m == .f8 && decide (2 < (z.map (·.fmt)).getD 0))) ?_ ?_ fun _ _ h => h
    · show Host.Outcome.next _ = _
      rw [hx]
    · by_cases f8 : m = .f8
      · simp [good, low, Nat.not_lt.mpr (coded f8)]
      · simp [good, low, f8]

theorem spill_command_runs (on : s.cur.on g = true) {x k : BitVec 5} {m : StashMode} {lp : Bool} {cmd : EngCmd}
    (h : commandOf (.spill g x k m lp) s = some cmd) :
    Runs g (.spill g x k m lp) s cmd := by
  simp only [commandOf] at h
  cases hx : s.shapeAt x with
  | none => simp [hx] at h
  | some z =>
    simp only [hx, Option.ite_none_right_eq_some, Option.some.injEq] at h
    obtain ⟨⟨small, coded, has⟩, rfl⟩ := h
    obtain ⟨good, low⟩ := keyBits.2.1 small
    have fitted : (lp && !hasLpddr s) = false := by
      cases lp
      · rfl
      · have := has rfl
        rw [hasLpddr, bitAt_eq_testBit, BitVec.testBit_toNat, this]
        rfl
    refine stash_runs on (shape := some (some z)) (cmd := fun k z => .spill k z m lp) (handle := 0) (k := k)
      (bad := fun k z => keyWv k || (lp && !hasLpddr s) || (m == .f8 && decide (2 < (z.map (·.fmt)).getD 0))) ?_ ?_
      fun _ _ h => h
    · show Host.Outcome.next _ = _
      rw [hx]
    · by_cases f8 : m = .f8
      · simp [good, low, fitted, Nat.not_lt.mpr (coded f8)]
      · simp [good, low, fitted, f8]

theorem drop_command_runs (on : s.cur.on g = true) {x k : BitVec 5} {cmd : EngCmd}
    (h : commandOf (.drop g x k) s = some cmd) :
    Runs g (.drop g x k) s cmd := by
  simp only [commandOf, Option.ite_none_right_eq_some, Option.some.injEq] at h
  obtain ⟨small, rfl⟩ := h
  obtain ⟨good, low⟩ := keyBits.2.1 small
  exact stash_runs on (shape := none) (cmd := fun k _ => .drop k (s.cur.readXA x)) (handle := s.cur.readXA x) (k := k)
    (bad := fun k _ => keyWv k) rfl (by simp [good, low]) fun _ _ h => h

theorem wver_command_runs (on : s.cur.on g = true) {x k : BitVec 5} {cmd : EngCmd}
    (h : commandOf (.wver g x k) s = some cmd) :
    Runs g (.wver g x k) s cmd := by
  simp only [commandOf] at h
  cases hx : s.shapeAt x with
  | none => simp [hx] at h
  | some z =>
    simp only [hx, Option.ite_none_right_eq_some, Option.some.injEq] at h
    obtain ⟨⟨high, small⟩, rfl⟩ := h
    have good := keyBits.1.mp small
    refine stash_runs on (shape := some (some z)) (cmd := fun k z => .wver k z) (handle := 0) (k := k)
      (bad := fun k _ => !keyWv k) ?_ (by simp [good, keyBits.2.2 high small]) fun _ _ h => h
    show Host.Outcome.next _ = _
    rw [hx]

/-- Does an entry of the stash hold a fetch (R241; assumption log 114)? -/
def entryAway (s : State) (e : StashEntry) : Bool :=
  e.state == .pending || e.state == .spilled || e.state == .returning ||
    (e.moveAt.isSome && s.cur.eng.stashQ.any fun o => !o.complete && !o.sent && (match o.cmd with | .stash _ _ _ => true | _ => false))

theorem entryAway_here {e : StashEntry} (h : ((e.state == .kept || e.state == .dropped) &&
    (e.moveAt.isNone || s.cur.eng.stashQ.all fun o => o.complete || o.sent || (match o.cmd with | .stash _ _ _ => false | _ => true))) = true) :
    entryAway s e = false := by
  simp only [Bool.and_eq_true, Bool.or_eq_true, beq_iff_eq] at h
  obtain ⟨state, still⟩ := h
  have kept : (e.state == .pending || e.state == .spilled || e.state == .returning) = false := by
    rcases state with h | h <;> rw [h] <;> rfl
  rw [entryAway, kept, Bool.false_or]
  rcases still with none | all
  · rw [Option.isNone_iff_eq_none.mp none]
    rfl
  · have free : (s.cur.eng.stashQ.any fun o => !o.complete && !o.sent && (match o.cmd with | .stash _ _ _ => true | _ => false)) = false := by
      refine List.any_eq_false.mpr fun o ho => ?_
      have this := List.all_eq_true.mp all o ho
      revert this
      cases o.complete <;> cases o.sent <;> cases o.cmd <;> simp
    rw [free, Bool.and_false]

theorem fetch_runs (on : s.cur.on g = true) {d k : BitVec 5} {free : Bool} {cmd : EngCmd} (h : commandOf (.fetch g d k free) s = some cmd) : Runs g (.fetch g d k free) s cmd := by
  simp only [commandOf] at h
  cases hd : s.shapeAt d with
  | none => simp [hd] at h
  | some z =>
    simp only [hd, Option.ite_none_right_eq_some, Option.some.injEq] at h
    obtain ⟨⟨small, here⟩, rfl⟩ := h
    have good := keyBits.1.mp small
    let f := fun o : EngOp => { o with started := true, doneAt := s.cycle + 1 + pathCycles 2 z.lvl (tensorBytes z) + Config.freeDelay s.free }
    refine Runs.plain (s.free + 1) (f := f) (ops := leBytes 8 (s.cur.readXA k).toNat ++ shapeOps z) ?_
      (fun o h1 h2 => ⟨rfl, rfl, rfl, rfl, rfl, rfl, h1, h2⟩) fun _ _ h => h
    show execFetch g d k free s = _
    cases he : (s.ctx (s.pasidOf s.turn)).entry? (s.cur.readXA k).toNat with
    | none =>
      simp only [execFetch, hd, he, good, on, Bool.not_true, Bool.false_eq_true, if_false]
      rfl
    | some e =>
      rw [he] at here
      have away := entryAway_here here
      simp only [execFetch, hd, he, good, on, Bool.not_true, Bool.false_eq_true, if_false]
      exact congrArg Host.Outcome.next (if_neg (Bool.eq_false_iff.mp away))

/-- A tile's operation at the fork of its send. -/
def sendOp (s : State) (z : Shape) (v : OutChan) (o : EngOp) : EngOp :=
  if v.eossent || tensorBytes z != 128 * v.tilesz then { o with status := 0x4B, took := true }
  else if tracked z && s.tensorHeld s.turn o.id z false then { o with took := true }
  else
    let (es, st) := s.readTensor s.turn o.id z false
    { o with elems := es, status := st, started := true, took := true }

theorem sendOp_same (s : State) (z : Shape) (v : OutChan) (o : EngOp) (h : o.clearAt = none) (h' : o.complete = false) :
    SameOp o (sendOp s z v o) :=
  sameOp_ite ⟨rfl, rfl, rfl, rfl, rfl, rfl, h, h'⟩ (sameOp_ite ⟨rfl, rfl, rfl, rfl, rfl, rfl, h, h'⟩ ⟨rfl, rfl, rfl, rfl, rfl, rfl, h, h'⟩)

/-- The operation of an end token at its fork. -/
def eosOp (v : OutChan) (o : EngOp) : EngOp := if v.eossent then { o with status := 0x4B } else { o with took := true }

theorem queue_grows {t : State} {cmd : EngCmd} {o : EngOp} (h : Joins s t cmd o) :
    (s.cur.eng.queue (queueNo cmd)).length < (t.cur.eng.queue (queueNo cmd)).length := by
  obtain ⟨queue, -⟩ := h
  rw [queue, List.length_append]
  exact Nat.lt_succ_self _

theorem chsend_runs (on : s.cur.on g = true) {x xg xt : BitVec 5} {c : BitVec 6} {cmd : EngCmd}
    (h : commandOf (.chsend g x xg xt c) s = some cmd) : Runs g (.chsend g x xg xt c) s cmd := by
  simp only [commandOf] at h
  cases hx : s.shapeAt x with
  | none => simp [hx] at h
  | some z =>
    simp only [hx, Option.ite_none_right_eq_some, Option.some.injEq] at h
    obtain ⟨⟨valid, tag, spec, window⟩, rfl⟩ := h
    let v := (s.ctx (s.pasidOf s.turn)).outChan c.toNat
    have tagged : (s.cur.readXA xg).toNat / 2 ^ 32 = 0 := Nat.div_eq_of_lt tag
    refine Runs.placed (f := sendOp s z v)
      (ops := shapeOps z ++ leBytes 4 (s.cur.readXA xg).toNat ++ leBytes 8 (s.cur.readXA xt).toNat ++ leBytes 1 c.toNat)
      (without := fun t => !s.cur.on g || decide (t.cur.eng.chanQ.length ≤ s.cur.eng.chanQ.length))
      (change := fun _ x => x.setOut c.toNat { v with taken := v.taken + 1 }) ?_ (sendOp_same s z v) (fun t o _ h kept => ?_)
      (fun t o h _ _ => ?_) fun t he _ => ?_
    · have same : ({ v with taken := v.taken + 1 } : OutChan) = { v with valid := true, taken := v.taken + 1 } := by
        simp only [v, valid]
      rw [same]
      show execChsend g x xg xt c s = _
      simp only [execChsend, hx, valid, tagged, spec, if_neg (Nat.not_le.mpr window), bne_self_eq_false, Bool.not_true, Bool.or_self,
        Bool.false_eq_true, if_false]
      rfl
    · rw [on, Bool.not_true, Bool.false_or] at kept
      exact absurd (of_decide_eq_true kept) (Nat.not_le.mpr (queue_grows h.1))
    · obtain ⟨-, -, -, tlb⟩ := h
      exact congrArg (fun y : Context => y.setOut c.toNat { v with taken := v.taken + 1 }) tlb
    · rw [he, decide_eq_true (Nat.le_refl _)]
      exact Bool.or_true _

theorem chrecv_runs (on : s.cur.on g = true) {d : BitVec 5} {c : BitVec 6} {cmd : EngCmd} (h : commandOf (.chrecv g d c) s = some cmd) : Runs g (.chrecv g d c) s cmd := by
  simp only [commandOf] at h
  cases hd : s.shapeAt d with
  | none => simp [hd] at h
  | some z =>
    cases ht : s.tileHere (s.pasidOf s.turn) c.toNat with
    | none => simp [hd, ht] at h
    | some t =>
      simp only [hd, ht, Option.ite_none_right_eq_some, Option.some.injEq] at h
      obtain ⟨⟨valid, size⟩, rfl⟩ := h
      let v := (s.ctx (s.pasidOf s.turn)).inChan c.toNat
      let f := fun o : EngOp =>
        { o with data := t.1, started := true,
                 status := if t.2 then 0x0C else 0, doneAt := s.cycle + 1 + pathCycles 2 z.lvl (128 * v.tilesz) + Config.freeDelay s.free }
      refine Runs.plain (s.free + 1) (f := f) (ops := shapeOps z ++ leBytes 1 c.toNat) ?_
        (fun o h1 h2 => ⟨rfl, rfl, rfl, rfl, rfl, rfl, h1, h2⟩) fun _ _ h => h
      show execChrecv g d c s = _
      simp only [execChrecv, hd, ht, valid, size, on, bne_self_eq_false, Bool.not_true, Bool.or_self, Bool.false_eq_true, if_false]
      rfl

theorem cheos_runs {c : BitVec 6} {cmd : EngCmd} (h : commandOf (.cheos g c) s = some cmd) : Runs g (.cheos g c) s cmd := by
  simp only [commandOf, Option.ite_none_right_eq_some, Option.some.injEq] at h
  obtain ⟨valid, rfl⟩ := h
  let v := (s.ctx (s.pasidOf s.turn)).outChan c.toNat
  refine Runs.placed (f := eosOp v) (ops := leBytes 1 c.toNat)
    (without := fun t => v.eossent || decide (t.cur.eng.chanQ.length ≤ s.cur.eng.chanQ.length))
    (change := fun _ x => x.setOut c.toNat { v with eossent := true }) ?_
    (fun o h1 h2 => sameOp_ite ⟨rfl, rfl, rfl, rfl, rfl, rfl, h1, h2⟩ ⟨rfl, rfl, rfl, rfl, rfl, rfl, h1, h2⟩) (fun t o _ h kept => ?_)
    (fun t o h sends _ => ?_) fun t he _ => ?_
  · have same : ({ v with eossent := true } : OutChan) = { v with valid := true, eossent := true } := by
      simp only [v, valid]
    rw [same]
    show execCheos g c s = _
    simp only [execCheos, valid, if_true]
    rfl
  · rcases (Bool.or_eq_true _ _).mp kept with sent | short
    · obtain ⟨-, -, -, tlb⟩ := h
      exact ⟨fun _ => tlb, fun unsent => absurd (sent.symm.trans unsent) (by decide)⟩
    · exact absurd (of_decide_eq_true short) (Nat.not_le.mpr (queue_grows h.1))
  · obtain ⟨-, -, -, tlb⟩ := h
    have unsent : v.eossent = false := (Bool.or_eq_false_iff.mp sends).1
    exact ⟨fun sent => absurd (sent.symm.trans unsent) (by decide),
      fun _ => congrArg (fun y : Context => y.setOut c.toNat { v with eossent := true }) tlb⟩
  · rw [he, decide_eq_true (Nat.le_refl _)]
    exact Bool.or_true _

/-- A window's word with the fields that R159 admits for a contribution. -/
theorem window_fields {w1 : Nat} (valid : w1 / 2 ^ 63 = 1) (op : w1 / 2 ^ 60 % 4 ≤ 1)
    (fmt : w1 / 2 ^ 57 % 8 = 0 ∨ w1 / 2 ^ 57 % 8 = 1 ∨ w1 / 2 ^ 57 % 8 = 3) :
    winValid w1 = true ∧ (winOp w1 == 0 || winOp w1 == 1) = true ∧ (winFmt w1 == 0 || winFmt w1 == 1 || winFmt w1 == 3) = true ∧
      winElems w1 = w1 % 2 ^ 14 + 1 ∧ winBytes w1 = if w1 / 2 ^ 57 % 8 = 1 then 2 else 4 := by
  refine ⟨?_, ?_, ?_, ?_, rfl⟩
  · rw [winValid, bitAt_eq_testBit, Nat.testBit_eq_decide_div_mod_eq, valid]
    rfl
  · have fits : winOp w1 = w1 / 2 ^ 60 % 4 := rfl
    rcases Nat.le_one_iff_eq_zero_or_eq_one.mp op with h | h <;> rw [fits, h] <;> rfl
  · have fits : winFmt w1 = w1 / 2 ^ 57 % 8 := rfl
    rcases fmt with h | h | h <;> rw [fits, h] <;> rfl
  · rw [winElems, bits, Nat.pow_zero, Nat.div_one]

/-- A contribution joins those of its window that wait. -/
def withWaiting (x : Context) (w i : Nat) (live : Nat × Nat × Nat → Bool) (e : Nat × Nat × Nat) : Context :=
  { x with windows := Table.modify x.windows {} w fun v => { v with waiting := (v.waiting.filter fun y => y.2.2 != i || live y) ++ [e] } }

theorem withWaiting_mem (x : Context) (w i : Nat) (live : Nat × Nat × Nat → Bool) (e : Nat × Nat × Nat) :
    e ∈ ((withWaiting x w i live e).window w).waiting := by
  have window : (withWaiting x w i live e).window w = { x.window w with
      waiting := ((x.window w).waiting.filter fun y => y.2.2 != i || live y) ++ [e] } := Table.get_put_same ..
  rw [window]
  exact List.mem_append_right _ (List.mem_singleton.mpr rfl)

theorem redm_runs {x i : BitVec 5} {w : BitVec 6} {cmd : EngCmd} (h : commandOf (.redm g x i w) s = some cmd) : Runs g (.redm g x i w) s cmd := by
  simp only [commandOf, Option.ite_none_right_eq_some, Option.some.injEq] at h
  obtain ⟨⟨valid, op, fmt, aligned, inside, below⟩, rfl⟩ := h
  obtain ⟨valid, op, fmt, elems, bytes⟩ := window_fields valid op fmt
  rw [← elems, ← bytes] at inside ⊢
  let w1 := ((s.ctx (s.pasidOf s.turn)).window w.toNat).w1.toNat
  let a := (s.cur.readXA x).toNat
  let n := (s.cur.readXA i).toNat
  have count : n < winCount w1 := below
  have small : n / 2 ^ 24 = 0 := Nat.div_eq_of_lt (Nat.lt_trans below (Nat.mod_lt _ (by decide)))
  refine Runs.placed (f := id) (ops := leBytes 1 w.toNat ++ leBytes 8 n ++ leBytes 8 a)
    (without := fun t => decide (t.cur.eng.redQ.length ≤ s.cur.eng.redQ.length))
    (change := fun t x => withWaiting x w.toNat n (fun y => (t.opsOf (s.pasidOf s.turn)).any fun o => o.id == y.2.1) (s.turn, t.nextId - 1, n))
    ?_ (fun o h1 h2 => SameOp.refl o h1 h2) (fun t o _ h kept => ?_) (fun t o _ _ id => ?_) fun t he _ => ?_
  · have fine : (!winValid w1 || !(winOp w1 == 0 || winOp w1 == 1) || !(winFmt w1 == 0 || winFmt w1 == 1 || winFmt w1 == 3) ||
        a % 128 != 0 || decide (Config.spBytes < a + winElems w1 * winBytes w1) || n / 2 ^ 24 != 0 || decide (winCount w1 ≤ n)) = false := by
      have sp : Config.spBytes = 0x300000 := rfl
      rw [valid, op, fmt, aligned, small, sp, decide_eq_false (Nat.not_lt.mpr inside), decide_eq_false (Nat.not_le.mpr count)]
      rfl
    have bad : ∀ b : Bool, b = false → (if b = true then some 0x0F else none) = (none : Option Nat) := fun b hb => by rw [hb]; rfl
    show Host.Outcome.next _ = _
    dsimp only
    rw [bad _ fine]
    refine congrArg Host.Outcome.next ?_
    simp only [finishIn, decide_eq_true_eq]
    rfl
  · exact absurd (of_decide_eq_true kept) (Nat.not_le.mpr (queue_grows h.1))
  · rw [id]
    exact withWaiting_mem _ _ _ _ _
  · rw [he]
    exact decide_eq_true (Nat.le_refl _)

/-- A command that nothing refuses has been issued. -/
def Issued (i : Instr) (s : State) (cmd : EngCmd) : Prop :=
  ∃ t o, exec i s = .next t ∧ Joins s t cmd o ∧ SameOp (forkedOp s cmd) o ∧
    takesPlace s cmd o.id (s.ctx (s.pasidOf s.turn)) (t.ctx (s.pasidOf s.turn))

theorem Runs.issued (on : s.cur.on g = true) {i : Instr} {cmd : EngCmd} (h : Runs g i s cmd) (ok : s.cur.seq.verdict = .ok)
    (room : queueNo cmd < 4 → (s.cur.eng.queue (queueNo cmd)).length < 2) : Issued i s cmd := by
  obtain ⟨f, ops, n, finish, hi, same, place, -⟩ := h
  have commanded : Commanded s _ cmd _ := command_forks (s := { s with free := n }) (g := g) on ops room same
  obtain ⟨joins, takes⟩ := place _ _ ok commanded
  exact ⟨_, _, hi, joins, commanded.2.1, takes⟩

theorem Runs.shadowed (on : s.cur.on g = true) {i : Instr} {cmd : EngCmd} (h : Runs g i s cmd) (hq : queueNo cmd < 4)
    (full : 2 ≤ (s.cur.eng.queue (queueNo cmd)).length) :
    ∃ t, exec i s = .next t ∧ t.cur.seq.verdict = .held ∧ (t.cur.seq.hold.map fun h => (h.cause, h.slot)) = some (.shadow, 7) ∧
      t.cur.eng = s.cur.eng ∧ t.cur.regs = s.cur.regs ∧ t.contexts = s.contexts := by
  obtain ⟨f, ops, n, finish, hi, -, -, still⟩ := h
  have held := command_shadow (s := { s with free := n }) (g := g) on (cmd := cmd) none f ops hq full
  rw [held] at hi
  have cur : (({ s with free := n } : State).holdFor .x .shadow).cur = s.cur.modSeq fun q => { q with hold := some ⟨.shadow, 7⟩, verdict := .held, fronted := q.fronted || false } :=
    State.cur_modCur _ _
  rw [still _ (by rw [cur]; rfl) (by rw [cur]; rfl)] at hi
  exact ⟨_, hi, by rw [cur]; rfl, by rw [cur]; rfl, by rw [cur]; rfl, by rw [cur]; rfl, rfl⟩

theorem engr_issued (on : s.cur.on g = true) {n : BitVec 12} {cmd : EngCmd} (h : commandOf (.engr g n) s = some cmd) :
    Issued (.engr g n) s cmd := by
  simp only [commandOf, Option.ite_none_right_eq_some, Option.some.injEq] at h
  obtain ⟨known, rfl⟩ := h
  have none : (engReg? n.toNat).isNone = false := by rw [← Option.not_isSome, known]; rfl
  have runs : Commanded s _ _ _ := fork_noted { s with free := s.free + 1 } (cmd := .engr n.toNat)
    (f := fun o => { o with doneAt := s.cycle + 1 + Config.freeDelay s.free }) 0x0F n.toNat []
    fun o h1 h2 => ⟨rfl, rfl, rfl, rfl, rfl, rfl, h1, h2⟩
  obtain ⟨joins, same, -, tlb⟩ := runs
  refine ⟨_, _, ?_, joins, same, tlb⟩
  show execEngr g n s = _
  simp only [execEngr, on, none, Bool.not_true, Bool.false_eq_true, if_false]
  rfl

/-- Every command of a queue is issued as the shared command. -/
theorem command_runs (on : s.cur.on g = true) {i : Instr} {cmd : EngCmd} (hg : slotGuard i = some g) (h : commandOf i s = some cmd)
    (hi : ∀ g' n, i ≠ .engr g' n) : Runs g i s cmd := by
  cases i with
  | cpy g' a d => cases hg; exact cpy_runs h
  | mc g' a d r => cases hg; exact mc_runs h
  | tinv g' v n z => cases hg; exact tinv_runs h
  | stash g' x k m => cases hg; exact stash_command_runs on h
  | spill g' x k m lp => cases hg; exact spill_command_runs on h
  | drop g' x k => cases hg; exact drop_command_runs on h
  | wver g' x k => cases hg; exact wver_command_runs on h
  | fetch g' d k free => cases hg; exact fetch_runs on h
  | chsend g' x xg xt c => cases hg; exact chsend_runs on h
  | chrecv g' d c => cases hg; exact chrecv_runs on h
  | cheos g' c => cases hg; exact cheos_runs h
  | redm g' x n w => cases hg; exact redm_runs h
  | engr g' n => exact absurd rfl (hi g' n)
  | _ => cases h
end

theorem command_issued (i : Instr) (g : Guard) (cmd : EngCmd) (s : State) (hg : slotGuard i = some g) (on : s.cur.on g = true)
    (ok : s.cur.seq.verdict = .ok) (h : commandOf i s = some cmd)
    (room : queueNo cmd < 4 → (s.cur.eng.queue (queueNo cmd)).length < 2) : Issued i s cmd := by
  by_cases hi : ∃ g' n, i = .engr g' n
  · obtain ⟨g', n, rfl⟩ := hi
    cases hg
    exact engr_issued on h
  · exact (command_runs on hg h fun g' n he => hi ⟨g', n, he⟩).issued on ok room

/-! ### Refusals and holds at issue (R221, R224, R226, R241) -/

theorem no_shape (g : Guard) (i : Instr) (s : State) (on : s.cur.on g = true) (x y : BitVec 5) (m : StashMode) (c : BitVec 6) (lp : Bool)
    (hi : i = .cpy g x y ∨ i = .stash g x y m ∨ i = .spill g x y m lp ∨ i = .wver g x y ∨ i = .chrecv g x c) (bare : s.shapeAt x = none) :
    exec i s = .next (s.issueFault .x 0x0F) := by
  have stash : ∀ bad cmd, s.stashIssue g y (some (s.shapeAt x)) bad cmd 0 = s.issueFault .x 0x0F := by
    intro bad cmd
    have refused : (badKey (s.cur.readXA y).toNat || (some (s.shapeAt x) : Option (Option Shape)) == some none ||
        bad (s.cur.readXA y).toNat ((some (s.shapeAt x)).getD none)) = true := by
      rw [bare]
      simp
    simp only [State.stashIssue, on, refused, command_refused on, Bool.not_true, Bool.false_or, Bool.true_or, if_true]
  rcases hi with rfl | rfl | rfl | rfl | rfl
  · show Host.Outcome.next (s.copyIssue g x y none) = _
    simp only [State.copyIssue, bare, command_refused on]
  · exact congrArg Host.Outcome.next (stash _ _)
  · exact congrArg Host.Outcome.next (stash _ _)
  · exact congrArg Host.Outcome.next (stash _ _)
  · show execChrecv g x c s = _
    simp only [execChrecv, bare, on, command_refused on, Bool.not_true, Bool.false_eq_true, if_false]

/-- A state that differs in its contexts, its free values and its identities alone. -/
def ContextsOnly (s t : State) : Prop := ∃ cs n m, t = { s with contexts := cs, free := n, nextId := m }

theorem ContextsOnly.refl (s : State) : ContextsOnly s s := ⟨_, _, _, rfl⟩

theorem ContextsOnly.trans {s t u : State} (h : ContextsOnly s t) (h' : ContextsOnly t u) : ContextsOnly s u := by
  obtain ⟨cs, n, m, rfl⟩ := h
  obtain ⟨cs', n', m', rfl⟩ := h'
  exact ⟨cs', n', m', rfl⟩

theorem pumpReturns_contexts (p n : Nat) (s : State) : ContextsOnly s (s.pumpReturns p n) := by
  induction n generalizing s with
  | zero => exact ContextsOnly.refl s
  | succ n ih =>
    unfold State.pumpReturns
    dsimp only
    split
    · exact ContextsOnly.refl s
    · split
      · exact ContextsOnly.refl s
      · split
        · exact ⟨_, _, _, rfl⟩
        · exact ContextsOnly.trans ⟨_, _, _, rfl⟩ (ih _)

theorem want_contexts (p key : Nat) (s : State) : ContextsOnly s (s.want p key) := by
  unfold State.want
  split
  · split
    · exact ⟨_, _, _, rfl⟩
    · exact ContextsOnly.refl s
  · exact ContextsOnly.refl s

/-- A fetch that is held asks for the return of its entry, and changes nothing of its core. -/
theorem fetch_held {g : Guard} {s : State} (on : s.cur.on g = true) {d k : BitVec 5} (free : Bool) (shape : (s.shapeAt d).isSome = true)
    (small : (s.cur.readXA k).toNat < 2 ^ 39) {e : StashEntry} (he : (s.ctx (s.pasidOf s.turn)).entry? (s.cur.readXA k).toNat = some e)
    (away : e.state = .pending ∨ e.state = .spilled ∨ e.state = .returning) :
    let u := (s.want (s.pasidOf s.turn) (s.cur.readXA k).toNat).pump (s.pasidOf s.turn)
    ∃ t, exec (.fetch g d k free) s = .next t ∧ t.cur.seq.verdict = .held ∧
      (t.cur.seq.hold.map fun h => (h.cause, h.slot)) = some (.absent, 7) ∧ t.cur.eng = s.cur.eng ∧ t.cur.regs = s.cur.regs ∧
      t.contexts = u.contexts := by
  intro u
  obtain ⟨z, hz⟩ := Option.isSome_iff_exists.mp shape
  obtain ⟨cs, n, m, only⟩ : ContextsOnly s u := (want_contexts _ _ s).trans (pumpReturns_contexts _ _ _)
  have cur : (u.holdFor .x .absent).cur = s.cur.modSeq fun q => { q with hold := some ⟨.absent, 7⟩, verdict := .held, fronted := q.fronted || false } := by
    rw [only]
    exact State.cur_modCur _ _
  have held : (e.state == .pending || e.state == .spilled || e.state == .returning) = true := by
    rcases away with h | h | h <;> rw [h] <;> rfl
  refine ⟨u.holdFor .x .absent, ?_, by rw [cur]; rfl, by rw [cur]; rfl, by rw [cur]; rfl, by rw [cur]; rfl, rfl⟩
  show execFetch g d k free s = _
  simp only [execFetch, hz, he, keyBits.1.mp small, on, held, Bool.true_or, Bool.not_true, Bool.false_eq_true, if_false, if_true]
  rfl

/-! ### Entries that come back (R242) -/

/-- An entry of the stash that has been asked for. -/
def Asked (e : StashEntry) : Prop := e.wanted ≠ none ∧ (e.state = .spilled ∨ e.state = .returning)

theorem entry?_setEntry (x : Context) (e : StashEntry) (key : Nat) :
    (x.setEntry e).entry? key = (x.entry? key).map fun y => if y.key == e.key then e else y := by
  have keys : ((fun y : StashEntry => y.key == key) ∘ fun y => if y.key == e.key then e else y) = fun y => y.key == key := by
    funext y
    dsimp only [Function.comp]
    split
    next h => rw [beq_iff_eq] at h; rw [h]
    next => rfl
  unfold Context.entry? Context.setEntry
  rw [List.find?_map, keys]

theorem asked_setEntry {x : Context} {e : StashEntry} (he : Asked e) {key : Nat} (h : ∃ f, x.entry? key = some f ∧ Asked f) :
    ∃ f, (x.setEntry e).entry? key = some f ∧ Asked f := by
  obtain ⟨f, hf, asked⟩ := h
  rw [entry?_setEntry, hf, Option.map_some]
  refine ⟨_, rfl, ?_⟩
  split
  · exact he
  · exact asked

/-- The entry that was asked for first. -/
def firstAsked (l : List StashEntry) (w : StashEntry) : StashEntry :=
  l.foldl (fun (b : StashEntry) y => if y.wanted.getD 0 < b.wanted.getD 0 then y else b) w

theorem firstAsked_mem (l : List StashEntry) (w : StashEntry) : firstAsked l w ∈ w :: l := by
  induction l generalizing w with
  | nil => exact List.mem_singleton.mpr rfl
  | cons y l ih =>
    have next := ih (if y.wanted.getD 0 < w.wanted.getD 0 then y else w)
    have step : firstAsked (y :: l) w = firstAsked l (if y.wanted.getD 0 < w.wanted.getD 0 then y else w) := rfl
    rw [step]
    rcases List.mem_cons.mp next with h | h
    · rw [h]
      split
      · exact List.mem_cons_of_mem _ List.mem_cons_self
      · exact List.mem_cons_self
    · exact List.mem_cons_of_mem _ (List.mem_cons_of_mem _ h)

theorem pumpReturns_asked (p key n : Nat) (s : State) (h : ∃ f, (s.ctx p).entry? key = some f ∧ Asked f) :
    ∃ f, ((s.pumpReturns p n).ctx p).entry? key = some f ∧ Asked f := by
  induction n generalizing s with
  | zero => exact h
  | succ n ih =>
    unfold State.pumpReturns
    dsimp only
    split
    · exact h
    next w0 ws hws =>
      have each : ∀ x ∈ w0 :: ws, x.state = .spilled ∧ x.wanted ≠ none := by
        rw [← hws]
        intro x hx
        obtain ⟨-, which⟩ := List.mem_filter.mp hx
        rw [Bool.and_eq_true, beq_iff_eq] at which
        exact ⟨which.1, fun none => by rw [none] at which; exact absurd which.2 (by decide)⟩
      have spilled : (firstAsked (w0 :: ws) w0).state = .spilled ∧ (firstAsked (w0 :: ws) w0).wanted ≠ none := by
        rcases List.mem_cons.mp (firstAsked_mem (w0 :: ws) w0) with h | h
        · rw [h]
          exact each w0 List.mem_cons_self
        · exact each _ h
      obtain ⟨state, wanted⟩ := spilled
      rw [hws]
      split
      · exact h
      · split
        · rw [modCtx_ctx]
          refine asked_setEntry ?_ h
          exact ⟨wanted, .inl state⟩
        · refine ih _ ?_
          rw [modCtx_ctx]
          refine asked_setEntry ?_ h
          exact ⟨wanted, .inr rfl⟩

theorem want_asked {s : State} {p key : Nat} {e : StashEntry} (he : (s.ctx p).entry? key = some e) (spilled : e.state = .spilled) :
    ∃ f, ((s.want p key).ctx p).entry? key = some f ∧ Asked f := by
  unfold State.want
  rw [he]
  dsimp only
  rw [spilled, beq_self_eq_true, Bool.true_and]
  by_cases first : e.wanted.isNone = true
  · rw [if_pos first, modCtx_ctx]
    have same : ((e.key : Nat) == e.key) = true := beq_self_eq_true _
    refine ⟨_, (entry?_setEntry _ _ key).trans (congrArg (Option.map _) he), ?_⟩
    dsimp only
    rw [same, if_pos rfl]
    exact ⟨by simp, .inl rfl⟩
  · rw [if_neg first]
    exact ⟨e, he, fun none => first (by rw [none]; rfl), .inl spilled⟩

/-- Settles O23: a copy by the file it writes; a command through the one fork that every command makes; and the holds and refusals
before it. -/
theorem engineCommandsIssue : Obligations.EngineCommandsIssue := by
  refine ⟨xcp_sends, ?_, fun i g s hg on => ⟨fun cmd h hq full => ?_, ?_, ?_, ?_⟩⟩
  · intro i g cmd s hg on _ ok h q room
    obtain ⟨t, o, hi, ⟨queue, others, evq, regs, seq, sp, ls, arr, cores, clusters, tasks, pmem, xs⟩,
      ⟨id, hcmd, core, tid, addr, seg, clear, complete⟩, place⟩ := command_issued i g cmd s hg on ok h room
    exact ⟨t, o, hi, queue, hcmd, core, tid, addr, seg, clear, complete, others, evq, place, regs, seq, sp, ls, arr, cores, clusters,
      tasks, pmem, xs⟩
  · refine (command_runs on hg h ?_).shadowed on hq full
    rintro g' n rfl
    simp only [commandOf, Option.ite_none_right_eq_some, Option.some.injEq] at h
    obtain ⟨-, rfl⟩ := h
    exact absurd hq (by simp [queueNo])
  · exact fun x y m c lp hi none => no_shape g i s on x y m c lp hi none
  · rintro d k free e rfl shape small he away
    obtain ⟨t, hi, held, hold, eng, regs, -⟩ := fetch_held on free shape small he (away.imp id .inr)
    exact ⟨t, hi, held, hold, eng, regs⟩
  · rintro d k free e rfl shape small he spilled
    obtain ⟨t, hi, held, hold, eng, regs, contexts⟩ := fetch_held on free shape small he (.inr (.inl spilled))
    obtain ⟨f, hf, wanted, state⟩ := pumpReturns_asked (s.pasidOf s.turn) (s.cur.readXA k).toNat
      ((s.want (s.pasidOf s.turn) (s.cur.readXA k).toNat).ctx (s.pasidOf s.turn)).stash.length _ (want_asked he spilled)
    refine ⟨t, f, hi, held, hold, eng, regs, ?_, wanted, state⟩
    rw [State.ctx, contexts]
    exact hf
end Sys2Proof.Machine
end

section
/-!
PROOFS. Fences, spawns, ends and aborts of tasks (R205-R208, R229, R258, R268, R272-R275).
-/
namespace Sys2Proof.Machine

/-! ### Fences (R205-R208) -/

theorem turnFrame_modCur (s : State) {f : Core → Core} (hr : (f s.cur).regs = s.cur.regs) (hp : (f s.cur).sp = s.cur.sp)
    (hl : (f s.cur).ls = s.cur.ls) (ha : (f s.cur).arr = s.cur.arr) : turnFrame s (s.modCur f) := by
  have cur : (s.modCur f).cur = f s.cur := State.cur_modCur s f
  rw [turnFrame, cur, hr, hp, hl, ha]
  exact ⟨rfl, rfl, rfl, rfl, rfl, rfl, rfl, rfl, rfl, fun c h => State.core_modCur_other s f h, rfl, rfl⟩

theorem modCur_congr (s : State) {f g : Core → Core} (h : f s.cur = g s.cur) : s.modCur f = s.modCur g := congrArg (s.setCore s.turn) h

theorem noRoom_small {s : State} {cl : Nat} (h : (s.clu cl).held.length ≤ 16384) : s.noRoom cl [] = false := by
  simp [State.noRoom, Config.breakwaterEntries, Nat.not_lt.mpr h]

theorem unStuck_none {s : State} {c : Nat} (un : (s.core c).eng.unWrites = []) (h : (s.clu (c / 8)).held.length ≤ 16384) :
    s.unStuck c = false := by
  have none : entryKeys (s.core c).eng.unWrites = [] := by rw [un]; rfl
  rw [State.unStuck, none]
  exact noRoom_small h

theorem flushUn_none {s : State} {c : Nat} (un : (s.core c).eng.unWrites = []) :
    s.flushUn c = s.modCore c fun k => k.modEng fun e => { e with unWrites := [] } := by
  simp only [State.flushUn, un]
  rfl

/-- What a fence leaves in the engines of its core. -/
def fenced (rr rw wr ww drains : Bool) (id : Nat) (e : Engines) : Engines :=
  { e with unLines := if rr || wr then [] else e.unLines, unWrites := if wr || ww then [] else e.unWrites,
           fenceR := if rr then id else e.fenceR, fenceW := if rw then id else e.fenceW,
           epoch := if ww then e.epoch + 1 else e.epoch, draining := e.draining || drains }

/-- What a fence does to its core before it notes its signature. -/
def State.fencing (s : State) (rr rw wr ww drains : Bool) : State :=
  let s1 := if rr || wr then s.modCur fun k => k.modEng fun e => { e with unLines := [] } else s
  let s2 := if wr || ww then s1.flushUn s.turn else s1
  s2.modCur fun k => k.modEng fun e =>
    { e with fenceR := if rr then s.nextId else e.fenceR, fenceW := if rw then s.nextId else e.fenceW,
             epoch := if ww then e.epoch + 1 else e.epoch, draining := e.draining || drains }

theorem fencing_eq {s : State} (un : s.cur.eng.unWrites = []) (rr rw wr ww drains : Bool) :
    s.fencing rr rw wr ww drains = s.modCur fun k => k.modEng (fenced rr rw wr ww drains s.nextId) := by
  have un1 : ((s.modCur fun k => k.modEng fun e => { e with unLines := [] }).core s.turn).eng.unWrites = [] :=
    (congrArg (fun k : Core => k.eng.unWrites) (State.cur_modCur s _)).trans un
  have flush1 := fun {a b : State} => congrArg (a₁ := a) (a₂ := b) (fun t : State => t.modCur fun k => k.modEng fun e =>
    { e with fenceR := if rr then s.nextId else e.fenceR, fenceW := if rw then s.nextId else e.fenceW,
             epoch := if ww then e.epoch + 1 else e.epoch, draining := e.draining || drains })
  simp only [State.fencing]
  cases h1 : rr || wr <;> cases h2 : wr || ww
  · simp only [Bool.false_eq_true, if_false]
    refine modCur_congr s ?_
    simp [fenced, Core.modEng, h1, h2]
  · simp only [Bool.false_eq_true, if_false, if_true]
    refine (flush1 (flushUn_none un)).trans ((State.modCur_modCur s _ _).trans (modCur_congr s ?_))
    simp [fenced, Core.modEng, h1, h2]
  · simp only [Bool.false_eq_true, if_false, if_true]
    refine (State.modCur_modCur s _ _).trans (modCur_congr s ?_)
    simp [fenced, Core.modEng, h1, h2]
  · simp only [if_true]
    refine (flush1 (flushUn_none un1)).trans ((flush1 (State.modCur_modCur s _ _)).trans ?_)
    refine (State.modCur_modCur s _ _).trans (modCur_congr s ?_)
    simp [fenced, Core.modEng, h1, h2]

/-- Settles O29. -/
theorem fencesOrder : Obligations.FencesOrder := by
  intro g rr rw wr ww sc s on drains
  refine ⟨fun drain spec => ?_, fun passes un room => ?_⟩
  · show execFence g rr rw wr ww sc s = _
    have : fenceDrains wr sc = true := drain
    simp only [execFence, on, this, spec, Bool.not_true, Bool.false_eq_true, Bool.and_true, if_false, if_true]
  · have free : (fenceDrains wr sc && s.speculative s.turn) = false := by
      rcases passes with h | h
      · exact (congrArg (· && s.speculative s.turn) (show fenceDrains wr sc = false from h)).trans rfl
      · rw [h, Bool.and_false]
    have notStuck : s.unStuck s.turn = false := unStuck_none un room
    obtain ⟨f, noted⟩ := sigEffect_eq (s.fencing rr rw wr ww drains) .y 16 sc.toNat []
    let after := fun k : Core => (k.modEng (fenced rr rw wr ww drains s.nextId)).modRcv f
    have issued : exec (.fence g rr rw wr ww sc) s = .next (s.modCur after) := by
      have whole : (s.fencing rr rw wr ww drains).sigEffect .y 16 sc.toNat [] = s.modCur after := by
        rw [noted, fencing_eq un, State.modCur_modCur]
      rw [← whole]
      show execFence g rr rw wr ww sc s = _
      simp only [execFence, on, free, notStuck, Bool.not_true, Bool.false_eq_true, Bool.and_false, if_false]
      rfl
    have cur : (s.modCur after).cur = after s.cur := State.cur_modCur s after
    refine ⟨_, issued, ?_⟩
    rw [cur]
    refine ⟨rfl, ?_, rfl, fun h => ?_, fun h => ?_, fun h => ?_, fun h => ?_, rfl, rfl, turnFrame_modCur s rfl rfl rfl rfl, rfl, rfl, rfl⟩
    · cases ww <;> rfl
    · simp only [after, fenced, Core.modRcv_eng, Core.modEng_eng, h, if_true]
    · simp only [after, fenced, Core.modRcv_eng, Core.modEng_eng, h, if_true]
    · simp only [after, fenced, Core.modRcv_eng, Core.modEng_eng, h, Bool.false_eq_true, if_false]
    · simp only [after, fenced, Core.modRcv_eng, Core.modEng_eng, h, Bool.false_eq_true, if_false]

end Sys2Proof.Machine
end

section
/-!
PROOFS. Tasks are created, ended and aborted (R229, R258, R268, R272-R275).
-/
namespace Sys2Proof.Machine

/-! ### Creation (R258) -/

/-- What each step of a fold keeps, the fold keeps. -/
theorem foldl_keeps {α : Type} {R : State → State → Prop} (refl : ∀ s, R s s) (trans : ∀ {s t u}, R s t → R t u → R s u)
    {f : State → α → State} (h : ∀ s x, R s (f s x)) (l : List α) (s : State) : R s (l.foldl f s) := by
  induction l generalizing s with
  | nil => exact refl s
  | cons x l ih => exact trans (h s x) (ih _)

theorem ContextsOnly.foldl {α : Type} {f : State → α → State} (h : ∀ s x, ContextsOnly s (f s x)) (l : List α) (s : State) :
    ContextsOnly s (l.foldl f s) := foldl_keeps ContextsOnly.refl ContextsOnly.trans h l s

theorem wantTags_contexts (p : Nat) (tags : List Nat) (s : State) : ContextsOnly s (s.wantTags p tags) :=
  (ContextsOnly.foldl (fun s _ => ContextsOnly.foldl (fun s key => want_contexts p key s) _ s) tags s).trans
    (pumpReturns_contexts p _ _)

/-- The task that `State.create` makes. -/
def createdTask (s : State) (st : Nat) (kind : TaskKind) (tag : Nat) (key : Key) (budget : Nat) (parent : Option (Nat × Nat))
    (tile : Option (Nat × Nat × Nat)) (stamp : Nat) : Task :=
  { stage := st, pasid := (s.stage st).pasid, kind := kind, tag := tag, key := key, budget := budget, full := budget,
    parent := parent.map (·.1), parentRun := (parent.map (·.2)).getD 0, tile := tile, queuedAt := s.cycle, stamp := stamp }

/-- A creation changes the tasks, the stages, the contexts and the counts of identities alone. -/
theorem create_eq (s : State) (st : Nat) (kind : TaskKind) (tag : Nat) (key : Key) (budget : Nat) (parent : Option (Nat × Nat))
    (tile : Option (Nat × Nat × Nat)) (stamp : Nat) : ∃ g cs n m, (s.create st kind tag key budget parent tile stamp).2 =
      { s with tasks := Table.put s.tasks s.nextId (createdTask s st kind tag key budget parent tile stamp),
               stages := g, contexts := cs, free := n, nextId := m } := by
  simp only [State.create]
  split
  · obtain ⟨cs, n, m, only⟩ := wantTags_contexts _ _ _
    rw [only]
    exact ⟨_, _, _, _, rfl⟩
  · exact ⟨_, _, _, _, rfl⟩

theorem taskOf_eq {s : State} {c τ : Nat} {k : Task} (hτ : (s.core c).task = some τ) (hk : s.task? τ = some k) : s.taskOf c = some k := by
  rw [State.taskOf, hτ]
  exact hk

theorem stageOf_eq {s : State} {c τ : Nat} {k : Task} (hτ : (s.core c).task = some τ) (hk : s.task? τ = some k) : s.stageOf c = k.stage := by
  rw [State.stageOf, taskOf_eq hτ hk]
  rfl

theorem tidHere_eq {s : State} {τ : Nat} (hτ : s.cur.task = some τ) : s.tidHere = τ := by
  rw [State.tidHere, hτ]
  rfl

/-- The bounds of the words that a spawn reads, as the model writes them. -/
theorem spawn_refusal (kv ts kts budget bv : Nat) (sb : BitVec 6) :
    (kv / 2 ^ 34 != 0 || decide (ts ≤ kts) || decide (budget = 0) || (sb.toNat != 0 && bv / 2 ^ 48 != 0)) = true ↔
      2 ^ 34 ≤ kv ∨ ts ≤ kts ∨ budget = 0 ∨ (sb ≠ 0 ∧ 2 ^ 48 ≤ bv) := by
  have hsb : sb.toNat ≠ 0 ↔ sb ≠ 0 := not_congr ⟨fun h => BitVec.eq_of_toNat_eq h, fun h => by rw [h]; rfl⟩
  simp [bne_iff_ne, hsb, Nat.div_eq_zero_iff, or_assoc]

theorem spawn_cases (g : Guard) (sk st sb : BitVec 6) (d : SDst) (τ : Nat) (k : Task) (s : State) (on : s.cur.on g = true)
    (hτ : s.cur.task = some τ) (hk : s.task? τ = some k) (calm : s.cur.rcv.rerun = none) :
    let kv := (s.cur.readSReg sk.toNat).toNat
    let ts := (s.cur.readSReg st.toNat).toNat
    let kind := TaskKind.ofCode (kv / 2 ^ 32 % 4)
    let budget := if sb = 0 then Table.get (s.progOf s.turn).budgets 0 kind.code else (s.cur.readSReg sb.toNat).toNat
    let places := (s.inFlight k.stage).length
    (2 ^ 34 ≤ kv ∨ ts ≤ k.key.ts ∨ budget = 0 ∨ (sb ≠ 0 ∧ 2 ^ 48 ≤ budget) → exec (.spawn g sk st sb) s = .next (s.issueFault .y 0x0F)) ∧
    (kv < 2 ^ 34 → k.key.ts < ts → 0 < budget → budget < 2 ^ 48 → 256 ≤ places →
      exec (.spawn g sk st sb) s = .next (s.holdFor .y .place)) ∧
    (kv < 2 ^ 34 → k.key.ts < ts → 0 < budget → budget < 2 ^ 48 → places < 256 →
      ∃ t n, exec (.spawn g sk st sb) s = .next t ∧ t.task? s.nextId = some n ∧
        n.key = { ts := ts, origin := s.turn, seq := s.cur.eng.spawnSeq } ∧ n.kind = kind ∧ n.tag = kv % 2 ^ 32 ∧
        n.budget = budget ∧ n.full = budget ∧ n.parent = some τ ∧ n.stage = k.stage ∧ n.state = .ready ∧
        (∀ q, q ≠ s.nextId → t.task? q = s.task? q) ∧ t.cur.eng.spawnSeq = s.cur.eng.spawnSeq + 1 ∧ t.cur.seq = s.cur.seq ∧
        turnFrame s t ∧ t.cur.ys = s.cur.ys ∧ t.clusters = s.clusters) ∧
    exec (.frd g d) s = .next (s.gains .y 2 (destS d) (s.frontierReg k.stage).toNat (2 ^ 64 - 1) 0) ∧
    exec (.frdOwn g d) s = .next (s.gains .y 2 (destS d) (if s.isFrontier τ then 1 else 0) (2 ^ 64 - 1) 0) := by
  intro kv ts kind budget places
  have task : s.taskOf s.turn = some k := taskOf_eq hτ hk
  have stage : s.stageOf s.turn = k.stage := stageOf_eq hτ hk
  have own : (if (sb.toNat != 0) = true then (s.cur.readSReg sb.toNat).toNat
      else Table.get (s.progOf s.turn).budgets 0 (TaskKind.ofCode (bits (s.cur.readSReg sk.toNat).toNat 32 2)).code) = budget := by
    by_cases h : sb = 0
    · simp only [budget, h]
      rfl
    · have : sb.toNat ≠ 0 := fun h0 => h (BitVec.eq_of_toNat_eq h0)
      simp only [budget, h, bne_iff_ne, ne_eq, this, not_false_eq_true, if_true, if_false]
  have refusal := spawn_refusal kv ts k.key.ts budget (s.cur.readSReg sb.toNat).toNat sb
  have word : sb ≠ 0 → (s.cur.readSReg sb.toNat).toNat = budget := fun h => by simp only [budget, h, if_false]
  have allowed : kv < 2 ^ 34 → k.key.ts < ts → 0 < budget → budget < 2 ^ 48 →
      ¬(2 ^ 34 ≤ kv ∨ ts ≤ k.key.ts ∨ budget = 0 ∨ (sb ≠ 0 ∧ 2 ^ 48 ≤ (s.cur.readSReg sb.toNat).toNat)) := by
    rintro fields later paid bounded (h | h | h | ⟨h, h'⟩)
    · omega
    · omega
    · omega
    · rw [word h] at h'
      omega
  refine ⟨fun bad => ?_, fun fields later paid bounded full => ?_, fun fields later paid bounded room => ?_, ?_, ?_⟩
  · have found := refusal.mpr (by
      rcases bad with h | h | h | ⟨h, h'⟩
      · exact .inl h
      · exact .inr (.inl h)
      · exact .inr (.inr (.inl h))
      · exact .inr (.inr (.inr ⟨h, (word h).symm ▸ h'⟩)))
    show execSpawn g sk st sb s = _
    simp only [execSpawn, task, on, own, Bool.not_true, Bool.false_eq_true, if_false]
    exact congrArg Host.Outcome.next (if_pos found)
  · have found := Bool.eq_false_iff.mpr (mt refusal.mp (allowed fields later paid bounded))
    have held : s.stageFull k.stage = true := decide_eq_true full
    show execSpawn g sk st sb s = _
    simp only [execSpawn, task, on, own, calm, stage, held, Bool.not_true, Bool.not_false, Bool.and_true, Bool.false_eq_true, if_true, if_false]
    exact congrArg Host.Outcome.next (if_neg (Bool.eq_false_iff.mp found))
  · have found := Bool.eq_false_iff.mpr (mt refusal.mp (allowed fields later paid bounded))
    have free : s.stageFull k.stage = false := decide_eq_false (Nat.not_le.mpr room)
    let counted := fun q : Core => (q.modRegs fun r => { r with lclock := BitVec.ofNat 40 (stampSend r.lclock.toNat) }).modEng
      fun e => { e with spawnSeq := e.spawnSeq + 1 }
    let q := (s.sendStamp s.turn).modCur fun q => q.modEng fun e => { e with spawnSeq := e.spawnSeq + 1 }
    have stamped : q = s.modCur counted := State.modCur_modCur s _ _
    let key : Key := { ts := ts, origin := s.turn, seq := s.cur.eng.spawnSeq }
    let u := (q.create k.stage kind (bits kv 0 32) key budget (some (τ, k.run)) none (q.stampOf s.turn)).2
    obtain ⟨gs, cs, n, m, made⟩ : ∃ g cs n m, u = _ := create_eq q k.stage kind (bits kv 0 32) key budget (some (τ, k.run)) none (q.stampOf s.turn)
    obtain ⟨f, noted⟩ := sigEffect_eq u .y 9 0 (leBytes 8 kv ++ leBytes 8 ts ++ leBytes 8 budget)
    have issued : exec (.spawn g sk st sb) s = .next (u.modCur fun c => c.modRcv f) := by
      rw [← noted]
      show execSpawn g sk st sb s = _
      simp only [execSpawn, task, on, own, calm, stage, free, hτ, Bool.not_true, Bool.not_false, Bool.and_false, Bool.false_eq_true, if_false]
      exact congrArg Host.Outcome.next (if_neg (Bool.eq_false_iff.mp found))
    have at_u : u.cur = counted s.cur := by
      rw [made]
      exact (congrArg State.cur stamped).trans (State.cur_modCur s counted)
    have turn : u.turn = s.turn := by rw [made]; rfl
    have cur : (u.modCur fun c => c.modRcv f).cur = (counted s.cur).modRcv f := (State.cur_modCur u _).trans (congrArg (Core.modRcv · f) at_u)
    have tasks : (u.modCur fun c => c.modRcv f).tasks =
        Table.put s.tasks s.nextId (createdTask q k.stage kind (bits kv 0 32) key budget (some (τ, k.run)) none (q.stampOf s.turn)) :=
      congrArg State.tasks made
    have others : ∀ c, c ≠ s.turn → (u.modCur fun c => c.modRcv f).core c = s.core c := fun c hc =>
      calc (u.modCur fun c => c.modRcv f).core c = u.core c := State.core_modCur_other u _ (turn ▸ hc)
        _ = q.core c := (congrArg (fun v : State => v.core c) made :)
        _ = (s.modCur counted).core c := congrArg (fun v : State => v.core c) stamped
        _ = s.core c := State.core_modCur_other s _ hc
    refine ⟨_, _, issued, (congrArg (fun l => Table.get? l s.nextId) tasks).trans (Table.get?_put_same _ _ _), rfl, rfl, ?_, rfl, rfl, rfl, rfl,
      rfl, fun i hi => (congrArg (fun l => Table.get? l i) tasks).trans (Table.get?_put_other _ _ hi), ?_, ?_, ?_, ?_, (congrArg State.clusters made :)⟩
    · exact congrArg (· % 2 ^ 32) (Nat.div_one kv)
    · rw [cur]; rfl
    · rw [cur]; rfl
    · rw [turnFrame, cur]
      exact ⟨rfl, rfl, rfl, rfl, rfl, rfl, rfl, rfl, rfl, others, (congrArg State.pmem made :), (congrArg State.xs made :)⟩
    · rw [cur]; rfl
  · show execFrd g d s = _
    simp only [execFrd, on, stage, if_true, State.pushS_eq]
  · show execFrdOwn g d s = _
    simp only [execFrdOwn, on, if_true, State.pushS_eq, tidHere_eq hτ]
    cases s.isFrontier τ <;> rfl

/-! ### Ends (R229, R273) -/

/-- A change of cores that may be made twice, over a list of cores. -/
theorem core_foldl_modCore {f : Core → Core} (twice : ∀ k, f (f k) = f k) (l : List Nat) (s : State) (c : Nat) :
    (l.foldl (fun s c => s.modCore c f) s).core c = if c ∈ l then f (s.core c) else s.core c := by
  induction l generalizing s with
  | nil => simp
  | cons d l ih =>
    rw [List.foldl_cons, ih]
    by_cases h : c = d
    · subst h
      rw [State.core_modCore_same, twice]
      simp
    · rw [State.core_modCore_other s f h]
      simp [h]

theorem foldl_modCore_cores {f : Core → Core} (l : List Nat) (s : State) :
    ∃ ks, l.foldl (fun s c => s.modCore c f) s = { s with cores := ks } := by
  induction l generalizing s with
  | nil => exact ⟨_, rfl⟩
  | cons d l ih =>
    obtain ⟨ks, h⟩ := ih (s.modCore d f)
    exact ⟨ks, h⟩

theorem mem_coresOf {s : State} {c τ : Nat} (h : (s.core c).task = some τ) : c ∈ s.coresOf τ := by
  refine List.mem_map.mpr ⟨(c, s.core c), List.mem_filter.mpr ⟨?_, by simp [h]⟩, rfl⟩
  cases hc : Table.get? s.cores c with
  | some k =>
    have : s.core c = k := by rw [State.core, Table.get, hc]; rfl
    rw [this]
    exact mem_of_get? hc
  | none =>
    have : s.core c = {} := by rw [State.core, Table.get, hc]; rfl
    rw [this] at h
    exact absurd h (by simp)

theorem faultRecord_none {s : State} {l : List Nat} (h : ∀ c ∈ l, (s.core c).eng.evq = []) : s.faultRecord l = none := by
  have : l.filterMap (fun c => ((s.core c).eng.evq.find? fun r => (recordFault r.w0).isSome).map
      fun r => (c, (recordFault r.w0).getD 0, r.op)) = [] :=
    List.filterMap_eq_nil_iff.mpr fun c hc => by rw [h c hc]; rfl
  rw [State.faultRecord, this]
  rfl

/-- The core has issued its end. -/
def ending (k : Core) : Core := k.modSeq fun q => { q with ended := true }

theorem tend_cases (g : Guard) (τ : Nat) (k : Task) (s : State) (on : s.cur.on g = true) (hτ : s.cur.task = some τ) (hk : s.task? τ = some k) :
    (s.recordsSettled τ = false → exec (.tend g) s = .next (s.holdFor .y .records)) ∧
    ((∀ c ∈ s.coresOf τ, (s.core c).eng.evq = []) → s.cur.eng.evq = [] → s.recordsSettled τ = true →
      ∃ t n, exec (.tend g) s = .next t ∧ t.task? τ = some n ∧ n.ender = some s.cur.rank ∧ n.state = k.state ∧ n.key = k.key ∧
        n.wlog = k.wlog ∧ (∀ c ∈ s.coresOf τ, (t.core c).seq.ended = true ∧ (t.core c).regs = (s.core c).regs) ∧
        (∀ c, c ∉ s.coresOf τ → c ≠ s.turn → t.core c = s.core c) ∧ (∀ q, q ≠ τ → t.task? q = s.task? q) ∧
        t.clusters = s.clusters ∧ t.pmem = s.pmem ∧ t.xs = s.xs) := by
  have here := tidHere_eq hτ
  refine ⟨fun open_ => ?_, fun quiet quiet' settled => ?_⟩
  · show execTend g s = _
    simp only [execTend, on, here, open_, Bool.not_true, Bool.not_false, Bool.false_eq_true, if_false, if_true]
  · have none : s.faultRecord (s.turn :: (s.coresOf τ).filter (· != s.turn)) = none := faultRecord_none fun c hc => by
      rcases List.mem_cons.mp hc with h | h
      · rw [h]; exact quiet'
      · exact quiet c (List.mem_filter.mp h).1
    let u := (s.coresOf τ).foldl (fun s c => s.modCore c ending) s
    obtain ⟨ks, only⟩ : ∃ ks, u = { s with cores := ks } := foldl_modCore_cores _ s
    have cores : ∀ c, u.core c = if c ∈ s.coresOf τ then ending (s.core c) else s.core c := core_foldl_modCore (f := ending) (fun _ => rfl) _ s
    let v := u.setTask τ { k with ender := some s.cur.rank }
    have noted_task : (u.modTask τ fun x => { x with ender := some s.cur.rank }) = v := State.modTask_some (by rw [only]; exact hk) _
    obtain ⟨f, noted⟩ := sigEffect_eq v .y 10 0 []
    have issued : exec (.tend g) s = .next (v.modCur fun c => c.modRcv f) := by
      rw [← noted, ← noted_task]
      show execTend g s = _
      simp only [execTend, on, here, settled, none, Bool.not_true, Bool.false_eq_true, if_false]
      rfl
    have turn : v.turn = s.turn := (congrArg State.turn only :)
    have tasks : v.tasks = Table.put s.tasks τ { k with ender := some s.cur.rank } := by
      show Table.put u.tasks τ _ = _
      rw [only]
    have other : ∀ c, c ≠ s.turn → (v.modCur fun c => c.modRcv f).core c = u.core c :=
      fun c hc => State.core_modCur_other v _ (turn ▸ hc)
    have kept : ∀ c, ((v.modCur fun c => c.modRcv f).core c).seq = (u.core c).seq ∧ ((v.modCur fun c => c.modRcv f).core c).regs = (u.core c).regs :=
      fun c => by
        by_cases hc : c = s.turn
        · have : (v.modCur fun c => c.modRcv f).core c = (u.core c).modRcv f := by
            rw [hc, ← turn]
            exact State.cur_modCur v _
          rw [this]
          exact ⟨rfl, rfl⟩
        · rw [other c hc]
          exact ⟨rfl, rfl⟩
    refine ⟨_, _, issued, (congrArg (fun l => Table.get? l τ) tasks).trans (Table.get?_put_same _ _ _), rfl, rfl, rfl, rfl, fun c hc => ?_,
      fun c hc ht => ?_, fun i hi => (congrArg (fun l => Table.get? l i) tasks).trans (Table.get?_put_other _ _ hi),
      (congrArg State.clusters only :), (congrArg State.pmem only :), (congrArg State.xs only :)⟩
    · rw [(kept c).1, (kept c).2, cores, if_pos hc]
      exact ⟨rfl, rfl⟩
    · rw [other c ht, cores, if_neg hc]

/-! ### Aborts (R268, R274, R275) -/

theorem Table.get_map {α : Type} (t : Table α) (d : α) {f : α → α} (hd : f d = d) (c : Nat) :
    Table.get (t.map fun (e : Nat × α) => (e.1, f e.2)) d c = f (Table.get t d c) := by
  induction t with
  | nil => exact hd.symm
  | cons e t ih =>
    obtain ⟨j, v⟩ := e
    by_cases h : j = c
    · simp only [List.map_cons, Table.get, Table.get?, h, if_true, Option.getD_some]
    · simp only [List.map_cons, Table.get, Table.get?, h, if_false]
      exact ih

theorem descendants_none {s : State} (h : ∀ e ∈ s.tasks, e.2.parent = none) (n : Nat) (ts : List (Nat × Nat)) : s.descendants n ts = [] := by
  have none : s.childrenOf ts = [] := by
    refine List.map_eq_nil_iff.mpr (List.filter_eq_nil_iff.mpr fun e he => ?_)
    simp [h e he]
  cases n with
  | zero => rfl
  | succ n => simp [State.descendants, none]

/-- A state that differs in its clusters and its chip phasers alone. -/
def ClustersOnly (s t : State) : Prop := ∃ cl ch, t = { s with clusters := cl, chipPhasers := ch }

theorem ClustersOnly.refl (s : State) : ClustersOnly s s := ⟨_, _, rfl⟩

theorem ClustersOnly.trans {s t u : State} (h : ClustersOnly s t) (h' : ClustersOnly t u) : ClustersOnly s u := by
  obtain ⟨cl, ch, rfl⟩ := h
  obtain ⟨cl', ch', rfl⟩ := h'
  exact ⟨cl', ch', rfl⟩

theorem endMembership_away (s : State) (c i : Nat) (m : Member) (k : Core) : ClustersOnly s (s.endMembership c i m (some k) false) := by
  simp only [State.endMembership, Option.isNone_some, Bool.and_false, Bool.false_eq_true, if_false]
  exact ⟨_, _, rfl⟩

/-- A team that has been swapped out gives its memberships up without a change of its cores. -/
theorem dropMemberships_away (c t rank : Nat) (k : Core) (s : State) : ClustersOnly s (s.dropMemberships c t rank (some k) false) := by
  simp only [State.dropMemberships, Bool.not_false, if_true]
  refine ClustersOnly.trans (foldl_keeps ClustersOnly.refl ClustersOnly.trans (fun s e => ?_) _ s) ⟨_, _, rfl⟩
  split
  · exact endMembership_away s c _ _ k
  · exact ClustersOnly.refl s

/-- What an abort leaves of a core of its task. -/
def aborting (τ : Nat) (k : Core) : Core :=
  { k with eng := k.eng.discardTask τ, seq := { k.seq with ended := true, efault := none, trapped := [] } }

/-- What an abort leaves of every core: the queued operations of the task are gone. -/
def withoutTask (τ : Nat) (k : Core) : Core :=
  { k with eng := { k.eng with phaserOps := k.eng.phaserOps.filter (·.tid != τ),
                               atomics := k.eng.atomics.filter fun (a : Atomic) => !(a.tid == τ && a.atCommit) } }

/-- The task that an abort puts back on the queue of its stage. -/
def putBack (k : Task) (cycle : Nat) (again hold onCore : Bool) : Task :=
  { k with state := if again then .ready else .aborted, budget := k.full, lines := [], wlog := [],
           deferred := none, event := none, heldBack := hold, queuedAt := cycle, agedAt := none,
           resumable := false, dispatchAt := none, atOnce := false, retiring := false,
           waitRun := 0, swap := .none, ender := none, run := k.run + 1, rewindAt := none, abortDue := none,
           leaving := if onCore then some again else none }

/-- The abort of a running task on one core changes that core, the operations that others hold for it, and the task. -/
theorem abortOne_running {s : State} {τ c : Nat} {k : Task} (hk : s.task? τ = some k) (live : k.inFlight = true) (alone : s.coresOf τ = [c])
    (again hold : Bool) : (s.abortOne τ again hold).tasks = Table.put s.tasks τ (putBack k s.cycle again hold true) ∧
      (∀ d, (s.abortOne τ again hold).core d = withoutTask τ ((s.modCore c (aborting τ)).core d)) ∧
      (s.abortOne τ again hold).turn = s.turn ∧ (s.abortOne τ again hold).pmem = s.pmem ∧ (s.abortOne τ again hold).xs = s.xs := by
  obtain ⟨cl, ch, only⟩ := foldl_keeps (f := fun (s : State) (e : Nat × Core) => s.dropMemberships (8 * k.cluster) τ e.1 (some e.2) false)
    ClustersOnly.refl ClustersOnly.trans (fun s e => dropMemberships_away _ _ _ _ s) (Table.get s.saved [] τ) s
  have cores : ∀ d, Table.get ((s.modCore c (aborting τ)).cores.map fun (e : Nat × Core) => (e.1, withoutTask τ e.2)) {} d =
      withoutTask τ ((s.modCore c (aborting τ)).core d) := fun d => Table.get_map _ _ rfl d
  have whole : ∃ sv cl' g cs, s.abortOne τ again hold =
      { s with tasks := Table.put s.tasks τ (putBack k s.cycle again hold true), saved := sv, clusters := cl', stages := g, contexts := cs,
               chipPhasers := ch, cores := (s.modCore c (aborting τ)).cores.map fun (e : Nat × Core) => (e.1, withoutTask τ e.2) } := by
    simp only [State.abortOne, hk, live, alone, Bool.not_true, Bool.false_eq_true, if_false]
    rw [only]
    cases again <;> exact ⟨_, _, _, _, rfl⟩
  obtain ⟨sv, cl', g, cs, whole⟩ := whole
  rw [whole]
  exact ⟨rfl, cores, rfl, rfl, rfl⟩

theorem tabort_cases (g : Guard) (τ : Nat) (k : Task) (s : State) (on : s.cur.on g = true) (hτ : s.cur.task = some τ) (hk : s.task? τ = some k) :
    (s.isFrontier τ = true → exec (.tabort g) s = .next (s.issueFault .y 0x0F)) ∧
    (s.isFrontier τ = false → k.state = .running →
      (k.abortDue = none →
        ∃ t, exec (.tabort g) s = .next t ∧ t.task? τ = some { k with abortDue := some (true, true) } ∧ t.cur.seq.ended = true ∧
          t.cur.sp = s.cur.sp ∧ t.cur.regs = s.cur.regs ∧ (∀ q, q ≠ τ → t.task? q = s.task? q) ∧
          (∀ c, c ≠ s.turn → t.core c = s.core c) ∧ t.clusters = s.clusters ∧ t.pmem = s.pmem ∧ t.xs = s.xs) ∧
      ((∀ e ∈ s.tasks, e.2.parent = none) → s.coresOf τ = [s.turn] →
        let t := s.abortTask τ true true
        ∃ n, t.task? τ = some n ∧ n.state = .ready ∧ n.key = k.key ∧ n.tag = k.tag ∧
          n.budget = k.full ∧ n.wlog = [] ∧ n.lines = [] ∧ n.heldBack = true ∧ n.leaving = some true ∧ n.abortDue = none ∧
          t.cur.seq.ended = true ∧ t.cur.sp = s.cur.sp ∧ t.cur.regs = s.cur.regs ∧ (∀ q, q ≠ τ → t.task? q = s.task? q) ∧
          (∀ c, c ≠ s.turn → (t.core c).regs = (s.core c).regs ∧ (t.core c).sp = (s.core c).sp ∧ (t.core c).seq = (s.core c).seq) ∧
          t.pmem = s.pmem ∧ t.xs = s.xs)) := by
  have here := tidHere_eq hτ
  refine ⟨fun front => ?_, fun behind running => ⟨fun first => ?_, fun roots alone => ?_⟩⟩
  · show execTabort g s = _
    simp only [execTabort, on, here, front, Bool.not_true, Bool.false_eq_true, if_false, if_true]
  · have live : k.inFlight = true := by rw [Task.inFlight, running]
    let u := s.setTask τ { k with abortDue := some (true, true) }
    have told : s.abortLater τ true true = u := by
      rw [State.abortLater, State.modTask_some hk]
      simp only [live, first, Bool.not_true, Bool.false_eq_true, if_false]
      rfl
    have issued : exec (.tabort g) s = .next (u.modCur ending) := by
      rw [← told]
      show execTabort g s = _
      simp only [execTabort, on, here, behind, Bool.not_true, Bool.false_eq_true, if_false]
      rfl
    have cur : (u.modCur ending).cur = ending u.cur := State.cur_modCur u _
    refine ⟨_, issued, State.task?_setTask_same s τ _, by rw [cur]; rfl, by rw [cur]; rfl, by rw [cur]; rfl,
      fun q hq => State.task?_setTask_other s _ hq, fun c hc => State.core_modCur_other u _ hc, rfl, rfl, rfl⟩
  · intro t
    have live : k.inFlight = true := by rw [Task.inFlight, running]
    have whole : t = s.abortOne τ true true := by
      show s.abortTask τ true true = _
      rw [State.abortTask, descendants_none roots]
      rfl
    obtain ⟨tasks, cores, turn, pmem, xs⟩ := abortOne_running hk live alone true true
    rw [← whole] at tasks cores turn pmem xs
    have cur : t.cur = withoutTask τ (aborting τ s.cur) :=
      calc t.cur = t.core s.turn := congrArg t.core turn
        _ = _ := (cores s.turn).trans (congrArg (withoutTask τ) (State.core_modCore_same s s.turn _))
    refine ⟨putBack k s.cycle true true true, (congrArg (fun l => Table.get? l τ) tasks).trans (Table.get?_put_same _ _ _), rfl, rfl, rfl, rfl,
      rfl, rfl, rfl, rfl, rfl, by rw [cur]; rfl, by rw [cur]; rfl, by rw [cur]; rfl,
      fun q hq => (congrArg (fun l => Table.get? l q) tasks).trans (Table.get?_put_other _ _ hq), fun c hc => ?_, pmem, xs⟩
    rw [cores c, State.core_modCore_other s _ hc]
    exact ⟨rfl, rfl, rfl⟩

/-- Settles O30. -/
theorem tasksAreCreatedEndedAndAborted : Obligations.TasksAreCreatedEndedAndAborted := by
  refine ⟨spawn_cases, fun g τ k s on hτ hk => ?_⟩
  obtain ⟨open_, settled⟩ := tend_cases g τ k s on hτ hk
  obtain ⟨front, behind⟩ := tabort_cases g τ k s on hτ hk
  exact ⟨open_, settled, front, behind⟩

end Sys2Proof.Machine
end

section
/-!
PROOFS. Phasers of a cluster: registration, drops, signals, waits and completions (R292-R299, R301).
-/
namespace Sys2Proof.Machine

/-! ### Handles (R293, R299) -/

theorem decHandle_free {w : Word16} (h : w.getLsbD 15 = false) : decHandle w.toNat = none := by
  have : bitAt w.toNat 15 = false := by rw [bitAt_eq_testBit]; exact h
  rw [decHandle, this]
  rfl

theorem decPhMode_isSome {v : Nat} (h : v % 4 ≠ 0) (hv : v < 4) : (decPhMode v).isSome = true := by
  have : v = 1 ∨ v = 2 ∨ v = 3 := by omega
  rcases this with h | h | h <;> rw [h] <;> rfl

theorem decHandle_taken {w : Word16} (h : w.getLsbD 15 = true) (hm : w.toNat / 2 ^ 12 % 4 ≠ 0) : (decHandle w.toNat).isSome = true := by
  have : bitAt w.toNat 15 = true := by rw [bitAt_eq_testBit]; exact h
  rw [decHandle, if_pos this, Option.isSome_map]
  exact decPhMode_isSome (by simpa [bits] using hm) (Nat.mod_lt _ (by decide))

theorem decHandle_cluster (mode : PhMode) {i : Nat} (hi : i < 512) :
    decHandle (2 ^ 15 + encPhMode mode * 2 ^ 12 + i) = some (false, i, mode) := by
  have top : bitAt (2 ^ 15 + encPhMode mode * 2 ^ 12 + i) 15 = true ∧ bitAt (2 ^ 15 + encPhMode mode * 2 ^ 12 + i) 14 = false ∧
      bits (2 ^ 15 + encPhMode mode * 2 ^ 12 + i) 0 9 = i ∧ bits (2 ^ 15 + encPhMode mode * 2 ^ 12 + i) 12 2 = encPhMode mode := by
    cases mode <;> simp only [encPhMode, bitAt, bits, beq_iff_eq, beq_eq_false_iff_ne] <;> omega
  obtain ⟨h15, h14, hidx, hmode⟩ := top
  rw [decHandle, if_pos h15, h14, hidx, hmode]
  cases mode <;> rfl

theorem decHandle_invalid {w : Nat} (h : w < 2 ^ 15) : decHandle w = none := by
  have : bitAt w 15 = false := by rw [bitAt, Nat.div_eq_of_lt h]; rfl
  rw [decHandle, this]
  rfl

/-! ### A change of one phaser of the cluster and of the core in issue -/

/-- What a change of one phaser of its cluster leaves as it is. -/
structure OnPhaser (s t : State) (i : Nat) (p : Phaser) : Prop where
  here : phaserHere t i = p
  others : ∀ j, j ≠ i → phaserHere t j = phaserHere s j
  frame : turnFrame s t
  pool : (t.clu (s.turn / 8)).pool = (s.clu (s.turn / 8)).pool

/-- A change of a core that leaves its storage as it is, and its registers but for the Lamport count. -/
def KeepsStorage (f : Core → Core) (k : Core) : Prop :=
  (∃ n, (f k).regs = { k.regs with lclock := n }) ∧ (f k).sp = k.sp ∧ (f k).ls = k.ls ∧ (f k).arr = k.arr

theorem turnFrame_stamped (s : State) {f : Core → Core} (h : KeepsStorage f s.cur) {t : State} (cores : t.cores = (s.modCur f).cores)
    (turn : t.turn = s.turn) (pmem : t.pmem = s.pmem) (xs : t.xs = s.xs) : turnFrame s t := by
  obtain ⟨⟨n, hr⟩, hsp, hls, harr⟩ := h
  have core : ∀ c, t.core c = (s.modCur f).core c := fun c => congrArg (fun l : Table Core => Table.get l {} c) cores
  have cur : t.cur = f s.cur := (congrArg t.core turn).trans ((core s.turn).trans (State.cur_modCur s f))
  rw [turnFrame, cur, hr, hsp, hls, harr]
  exact ⟨rfl, rfl, rfl, rfl, rfl, rfl, rfl, rfl, rfl, fun c hc => (core c).trans (State.core_modCur_other s f hc), pmem, xs⟩

theorem onPhaser (s : State) (i : Nat) (p : Phaser) {f : Core → Core} (h : KeepsStorage f s.cur) :
    OnPhaser s ((s.setPhaser (s.turn / 8) i p).modCur f) i p := by
  have clu : ((s.setPhaser (s.turn / 8) i p).modCur f).clu (s.turn / 8) =
      { s.clu (s.turn / 8) with phasers := Table.put (s.clu (s.turn / 8)).phasers i p } := Table.get_put_same ..
  refine ⟨?_, fun j hj => ?_, turnFrame_stamped s h rfl rfl rfl rfl, by rw [clu]⟩
  · show Table.get (((s.setPhaser (s.turn / 8) i p).modCur f).clu (s.turn / 8)).phasers {} i = p
    rw [clu]
    exact Table.get_put_same ..
  · show Table.get (((s.setPhaser (s.turn / 8) i p).modCur f).clu (s.turn / 8)).phasers {} j = _
    rw [clu]
    exact Table.get_put_other _ _ _ hj

theorem modClu_modClu (s : State) (n : Nat) (f g : Cluster → Cluster) : (s.modClu n f).modClu n g = s.modClu n fun c => g (f c) := by
  have clu : (s.modClu n f).clu n = f (s.clu n) := State.clu_modClu_same ..
  have twice : Table.put (s.modClu n f).clusters n (g ((s.modClu n f).clu n)) = Table.put s.clusters n (g (f (s.clu n))) := by
    rw [clu]
    exact Table.put_put ..
  exact congrArg (fun l => ({ s with clusters := l } : State)) twice

theorem setPhaser_setPhaser (s : State) (cl i : Nat) (p q : Phaser) : (s.setPhaser cl i p).setPhaser cl i q = s.setPhaser cl i q := by
  refine (modClu_modClu s cl _ _).trans (congrArg (fun l => ({ s with clusters := Table.put s.clusters cl l } : State)) ?_)
  exact congrArg (fun l => ({ s.clu cl with phasers := l } : Cluster)) (Table.put_put ..)

/-! ### Registration (R294) -/

theorem memberHere_eq {s : State} {τ : Nat} (hτ : s.cur.task = some τ) (i : Nat) :
    s.memberHere false i = (phaserHere s i).member? τ s.cur.rank := by
  rw [State.memberHere, tidHere_eq hτ]
  rfl

theorem memberHere_chip {s : State} {τ : Nat} (hτ : s.cur.task = some τ) (i : Nat) :
    s.memberHere true i = (Table.get s.chipPhasers {} ((s.ctx (s.pasidOf s.turn)).phbase + i)).member? τ s.cur.rank := by
  rw [State.memberHere, tidHere_eq hτ]
  rfl

/-- A handle operation's last step: its own handle takes a word. -/
def setHandle (n : Nat) (w : Core → Word16) (k : Core) : Core := k.modYs fun y => { y with y := Table.put y.y n (w k) }

theorem setHandle_get (n : Nat) (w : Core → Word16) (k : Core) : Table.get (setHandle n w k).ys.y 0 n = w k := Table.get_put_same ..

theorem setHandle_other (n : Nat) (w : Core → Word16) (k : Core) {m : Nat} (h : m ≠ n) : Table.get (setHandle n w k).ys.y 0 m = Table.get k.ys.y 0 m :=
  Table.get_put_other _ _ _ h

theorem phreg_refused {g : Guard} {s : State} (on : s.cur.on g = true) {τ : Nat} (hτ : s.cur.task = some τ) (h : BitVec 4) (mode : PhMode)
    (index : BitVec 9) (bad : (decHandle (s.cur.handle h.toNat)).isSome = true ∨ 64 ≤ index.toNat ∨
      ((phaserHere s index.toNat).member? τ s.cur.rank).isSome = true) :
    exec (.phreg g h mode false index) s = .next (s.issueFault .y 0x0F) := by
  show execPhreg g h mode false index s = _
  simp only [execPhreg, on, Bool.not_true, Bool.false_eq_true, if_false]
  refine congrArg Host.Outcome.next (if_pos ?_)
  rw [memberHere_eq hτ]
  rcases bad with h | h | h <;> simp [h]

theorem phreg_joins {g : Guard} {s : State} (on : s.cur.on g = true) {τ : Nat} (hτ : s.cur.task = some τ) (h : BitVec 4) (mode : PhMode)
    (index : BitVec 9) (free : decHandle (s.cur.handle h.toNat) = none) (small : index.toNat < 64)
    (none : (phaserHere s index.toNat).member? τ s.cur.rank = none) (room : s.memberCount false < 512) :
    ∃ f : Core → Core, exec (.phreg g h mode false index) s =
        .next ((s.setPhaser (s.turn / 8) index.toNat ((phaserHere s index.toNat).join τ s.cur.rank mode)).modCur f) ∧
      ∃ r, f = fun k => setHandle h.toNat (fun _ => encHandle false mode index.toNat) (k.modRcv r) := by
  let i := index.toNat
  let p := (phaserHere s i).join τ s.cur.rank mode
  let noted := fun r : Recovery => { r with undo := (r.seg, PhaserUndo.registered i
    { tid := τ, rank := s.cur.rank, mode := mode, q := p.phase, w := p.phase }) :: r.undo }
  let u := (s.setPhaser (s.turn / 8) i p).modCur fun k => k.modRcv noted
  obtain ⟨f, sig⟩ := sigEffect_eq u .y 1 i (leBytes 1 (encPhMode mode))
  refine ⟨fun k => setHandle h.toNat (fun _ => encHandle false mode i) (k.modRcv fun r => f (noted r)), ?_, _, rfl⟩
  have whole : (u.sigEffect .y 1 i (leBytes 1 (encPhMode mode))).modCur (setHandle h.toNat fun _ => encHandle false mode i) =
      (s.setPhaser (s.turn / 8) i p).modCur fun k => setHandle h.toNat (fun _ => encHandle false mode i) (k.modRcv fun r => f (noted r)) := by
    rw [sig, State.modCur_modCur, State.modCur_modCur]
    rfl
  rw [← whole]
  show execPhreg g h mode false index s = _
  have fits : decide (Config.clusterMembers ≤ s.memberCount false) = false := decide_eq_false (Nat.not_le.mpr room)
  have low : decide (64 ≤ index.toNat) = false := decide_eq_false (Nat.not_le.mpr small)
  simp only [execPhreg, on, free, memberHere_eq hτ, none, fits, low, tidHere_eq hτ, Bool.not_true, Bool.not_false, Bool.and_false, Bool.false_and, Option.isSome_none,
    Bool.or_false, Bool.false_eq_true, if_false]
  rfl

/-- The operation that the core in issue queues for a chip phaser. -/
def phaserOpHere (s : State) (i : Nat) (act : PhaserAct) (k : Core) : PhaserOp :=
  { core := s.turn, rank := k.rank, tid := k.task.getD 0, seg := k.rcv.seg, index := s.chipIndex i, act := act,
    stamp := k.regs.lclock.toNat, id := s.nextId, after := k.eng.observed }

/-- The core in issue with one more operation for a chip phaser. -/
def queued (s : State) (i : Nat) (act : PhaserAct) (k : Core) : Core :=
  k.modEng fun e => { e with phaserOps := e.phaserOps ++ [phaserOpHere s i act k] }

theorem queuePhaserOp_eq (s : State) (i : Nat) (act : PhaserAct) :
    s.queuePhaserOp i act = ({ s with nextId := s.nextId + 1 } : State).modCur (queued s i act) := rfl

theorem pendingJoin_none {k : Core} {i τ : Nat} (h : ∀ o ∈ k.eng.phaserOps, o.index ≠ i) : pendingJoin k i τ = false := by
  refine List.any_eq_false.mpr fun o ho => ?_
  simp [h o ho]

section
variable {g : Guard} {s : State} (on : s.cur.on g = true) {τ : Nat} (hτ : s.cur.task = some τ) (h : BitVec 4) (mode : PhMode)
  (index : BitVec 9) (free : decHandle (s.cur.handle h.toNat) = none)
  (none : (Table.get s.chipPhasers {} ((s.ctx (s.pasidOf s.turn)).phbase + index.toNat)).member? τ s.cur.rank = none)
  (fresh : ∀ o ∈ s.cur.eng.phaserOps, o.index ≠ (s.ctx (s.pasidOf s.turn)).phbase + index.toNat) (room : s.memberCount true < 4096)
include on hτ free none fresh room

theorem phreg_beyond (beyond : (s.ctx (s.pasidOf s.turn)).phcount ≤ index.toNat) :
    exec (.phreg g h mode true index) s = .next (s.issueFault .y 0x0A) := by
  show execPhreg g h mode true index s = _
  have fits : decide (Config.chipMembers ≤ s.memberCount true) = false := decide_eq_false (Nat.not_le.mpr room)
  have alone : pendingJoin s.cur (s.chipIndex index.toNat) τ = false := pendingJoin_none fresh
  have out : decide ((s.ctx (s.pasidOf s.turn)).phcount ≤ index.toNat) = true := decide_eq_true beyond
  simp only [execPhreg, on, free, memberHere_chip hτ, none, fits, alone, tidHere_eq hτ, out, Bool.not_true, Bool.and_true, Bool.false_and,
    Bool.and_false, Option.isSome_none, Bool.or_false, Bool.false_eq_true, if_false, if_true]

theorem phreg_queues (within : index.toNat < (s.ctx (s.pasidOf s.turn)).phcount) :
    ∃ r, exec (.phreg g h mode true index) s = .next (({ s with nextId := s.nextId + 1 } : State).modCur fun k =>
      setHandle h.toNat (fun _ => encHandle true mode index.toNat) ((queued s index.toNat (.join mode) k).modRcv r)) := by
  let i := index.toNat
  obtain ⟨f, sig⟩ := sigEffect_eq (s.queuePhaserOp i (.join mode)) .y 1 i (leBytes 1 (encPhMode mode))
  refine ⟨f, ?_⟩
  have whole : ((s.queuePhaserOp i (.join mode)).sigEffect .y 1 i (leBytes 1 (encPhMode mode))).modCur
      (setHandle h.toNat fun _ => encHandle true mode i) = ({ s with nextId := s.nextId + 1 } : State).modCur fun k =>
        setHandle h.toNat (fun _ => encHandle true mode i) ((queued s i (.join mode) k).modRcv f) := by
    rw [sig, queuePhaserOp_eq, State.modCur_modCur, State.modCur_modCur]
  rw [← whole]
  show execPhreg g h mode true index s = _
  have fits : decide (Config.chipMembers ≤ s.memberCount true) = false := decide_eq_false (Nat.not_le.mpr room)
  have alone : pendingJoin s.cur (s.chipIndex index.toNat) τ = false := pendingJoin_none fresh
  have inside : decide ((s.ctx (s.pasidOf s.turn)).phcount ≤ index.toNat) = false := decide_eq_false (Nat.not_le.mpr within)
  simp only [execPhreg, on, free, memberHere_chip hτ, none, fits, alone, tidHere_eq hτ, inside, Bool.not_true, Bool.and_false, Bool.false_and,
    Option.isSome_none, Bool.or_false, Bool.false_eq_true, if_false, if_true]
  rfl

end

/-! ### Drops (R297) -/

/-- The index of the handle that an operation names (R299). -/
theorem handleIndex_some {k : Core} {h : BitVec 4} {r : Bool} {n : Nat}
    (hn : (r = false ∧ n = h.toNat) ∨ (r = true ∧ h.toNat < k.ys.rdepth ∧ n = (h.toNat + k.ys.rbase) % k.ys.rdepth)) :
    k.handleIndex h r = some n := by
  rcases hn with ⟨rfl, rfl⟩ | ⟨rfl, below, rfl⟩
  · rfl
  · exact if_pos below

theorem withHandle_beyond {s : State} {h : BitVec 4} {r : Bool} (hr : r = true) (beyond : s.cur.ys.rdepth ≤ h.toNat)
    (eff : Nat → Bool → Nat → PhMode → State) : s.withHandle h r eff = s.issueFault .y 0x0F := by
  have : s.cur.handleIndex h r = none := by
    rw [hr]
    exact if_neg (Nat.not_lt.mpr beyond)
  rw [State.withHandle, this]

theorem withHandle_invalid {s : State} {h : BitVec 4} {r : Bool} {n : Nat} (hn : s.cur.handleIndex h r = some n)
    (invalid : s.cur.handle n < 2 ^ 15) (eff : Nat → Bool → Nat → PhMode → State) : s.withHandle h r eff = s.issueFault .y 0x0F := by
  rw [State.withHandle, hn]
  simp only [decHandle_invalid invalid]

theorem withHandle_valid {s : State} {h : BitVec 4} {r : Bool} {n i : Nat} {mode : PhMode} (hn : s.cur.handleIndex h r = some n)
    (hi : i < 512) (word : s.cur.handle n = 2 ^ 15 + encPhMode mode * 2 ^ 12 + i) (eff : Nat → Bool → Nat → PhMode → State) :
    s.withHandle h r eff = eff n false i mode := by
  rw [State.withHandle, hn]
  simp only [word, decHandle_cluster mode hi]

theorem withHandle_plain {s : State} {h : BitVec 4} {i : Nat} {mode : PhMode} (hi : i < 512)
    (word : s.cur.handle h.toNat = 2 ^ 15 + encPhMode mode * 2 ^ 12 + i) (eff : Nat → Bool → Nat → PhMode → State) :
    s.withHandle h false eff = eff h.toNat false i mode := withHandle_valid rfl hi word eff

theorem execPhdrop_faults {g : Guard} {s : State} (on : s.cur.on g = true) {h : BitVec 4} {r : Bool}
    (bad : ∀ eff, s.withHandle h r eff = s.issueFault .y 0x0F) : exec (.phdrop g h r) s = .next (s.issueFault .y 0x0F) := by
  show execPhdrop g h r s = _
  simp only [execPhdrop, on, bad, Bool.not_true, Bool.false_eq_true, if_false]

/-- The core in issue as it begins an operation that may send its stamp. -/
def sendsStamp (sends : Bool) (k : Core) : Core :=
  if sends then k.modRegs fun r => { r with lclock := BitVec.ofNat 40 (stampSend r.lclock.toNat) } else k

theorem sendsStamp_keeps (sends : Bool) (k : Core) : KeepsStorage (sendsStamp sends) k ∧ (sendsStamp sends k).seq = k.seq ∧
    (sendsStamp sends k).ys = k.ys ∧ (sendsStamp sends k).eng = k.eng := by
  cases sends <;> exact ⟨⟨⟨_, rfl⟩, rfl, rfl, rfl⟩, rfl, rfl, rfl⟩

/-- The phaser of a member takes another value, with a note for a rerun. -/
theorem setPhaserAt_noted (s : State) (i : Nat) (p : Phaser) (u : PhaserUndo) : ∃ v : Recovery → Recovery,
    (s.setPhaserAt false i p).noteUndo u = (s.setPhaser (s.turn / 8) i p).modCur fun k => k.modRcv v := ⟨_, rfl⟩

theorem memberHere_sendStamp (s : State) (i : Nat) : (s.sendStamp s.turn).memberHere false i = s.memberHere false i := by
  have cur : (s.sendStamp s.turn).cur = sendsStamp true s.cur := State.cur_modCur s _
  rw [State.memberHere, State.tidHere, cur]
  rfl

theorem phdrop_leaves {g : Guard} {s : State} (on : s.cur.on g = true) {τ : Nat} (hτ : s.cur.task = some τ) {h : BitVec 4} {r : Bool} {n i : Nat}
    {mode : PhMode} (hn : s.cur.handleIndex h r = some n) (hi : i < 512) (word : s.cur.handle n = 2 ^ 15 + encPhMode mode * 2 ^ 12 + i) {m : Member}
    (member : (phaserHere s i).member? τ s.cur.rank = some m) :
    ∃ who stamp sends v, exec (.phdrop g h r) s =
      .next ((s.setPhaser (s.turn / 8) i ((phaserHere s i).leave m who stamp s.cycle)).modCur fun k =>
        setHandle n (fun k => BitVec.ofNat 16 (k.handle n % 2 ^ 15)) ((sendsStamp sends k).modRcv v)) := by
  have here : s.memberHere false i = some m := (memberHere_eq hτ i).trans member
  have issued : ∀ s0 : State, s0 = (if (signals mode && !s.sigHeld false i) = true then s.sendStamp s.turn else s) → s0.memberHere false i = some m →
      exec (.phdrop g h r) s = .next (((((s0.setPhaserAt false i ((s0.phaserAt false i).leave m (s.turn, s.cur.rcv.seg) (s0.stampOf s.turn) s.cycle)).noteUndo
        (.dropped i m ((s0.phaserAt false i).countsIn s.cycle))).sigEffect .y 2 i []).modCur (setHandle n fun k => BitVec.ofNat 16 (k.handle n % 2 ^ 15)))) := by
    intro s0 h0 member0
    show execPhdrop g h r s = _
    simp only [execPhdrop, on, withHandle_valid hn hi word, Bool.not_true, Bool.false_eq_true, if_false]
    rw [← h0]
    simp only [member0]
    rfl
  have merged : ∀ (s0 : State) (sends : Bool) (p : Phaser) (u : PhaserUndo), s0 = (if sends = true then s.sendStamp s.turn else s) →
      ∃ v, (((s0.setPhaserAt false i p).noteUndo u).sigEffect .y 2 i []).modCur (setHandle n fun k => BitVec.ofNat 16 (k.handle n % 2 ^ 15)) =
        (s.setPhaser (s.turn / 8) i p).modCur fun k => setHandle n (fun k => BitVec.ofNat 16 (k.handle n % 2 ^ 15)) ((sendsStamp sends k).modRcv v) := by
    intro s0 sends p u h0
    obtain ⟨v, noted⟩ := setPhaserAt_noted s0 i p u
    obtain ⟨f, sig⟩ := sigEffect_eq ((s0.setPhaserAt false i p).noteUndo u) .y 2 i []
    refine ⟨fun r => f (v r), ?_⟩
    rw [sig, noted, State.modCur_modCur, State.modCur_modCur]
    cases sends
    · rw [h0]
      rfl
    · rw [h0]
      exact State.modCur_modCur (s.setPhaser (s.turn / 8) i p) (sendsStamp true) _
  let s0 := if (signals mode && !s.sigHeld false i) = true then s.sendStamp s.turn else s
  have began : s0 = s.sendStamp s.turn ∨ s0 = s := by
    by_cases h : (signals mode && !s.sigHeld false i) = true
    · exact .inl (if_pos h)
    · exact .inr (if_neg h)
  have member0 : s0.memberHere false i = some m := by
    rcases began with h | h
    · rw [h, memberHere_sendStamp, here]
    · rw [h, here]
  have same : s0.phaserAt false i = phaserHere s i := by
    rcases began with h | h <;> rw [h] <;> rfl
  obtain ⟨v, whole⟩ := merged s0 (signals mode && !s.sigHeld false i)
    ((phaserHere s i).leave m (s.turn, s.cur.rcv.seg) (s0.stampOf s.turn) s.cycle) (.dropped i m ((phaserHere s i).countsIn s.cycle)) rfl
  refine ⟨(s.turn, s.cur.rcv.seg), s0.stampOf s.turn, signals mode && !s.sigHeld false i, v, ?_⟩
  rw [issued s0 rfl member0, same]
  exact congrArg Host.Outcome.next whole

/-- What a drop leaves of its phaser, in a cycle in which no phase has completed (R297). -/
theorem leave_open (p : Phaser) (m : Member) (who : Nat × Nat) (stamp cycle τ rank : Nat) (member : p.member? τ rank = some m)
    (open_ : p.doneIn cycle = false) : (p.leave m who stamp cycle).member? τ rank = none ∧ (p.leave m who stamp cycle).phase = p.phase ∧
      (m.mode = .w → (p.leave m who stamp cycle).nsig = p.nsig ∧ (p.leave m who stamp cycle).arrived = p.arrived) ∧
      (m.mode ≠ .w → m.q = p.phase → (p.leave m who stamp cycle).nsig = p.nsig - 1 ∧ (p.leave m who stamp cycle).arrived = p.arrived + 1) ∧
      (m.mode ≠ .w → m.q = p.phase + 1 →
        (p.leave m who stamp cycle).nsig = p.nsig - 1 ∧ (p.leave m who stamp cycle).arrived = p.arrived - 1) := by
  have same : m.same τ rank = true := List.find?_some (p := fun x : Member => x.same τ rank) member
  obtain ⟨hτ, hrank⟩ : m.tid = τ ∧ m.rank = rank := by simpa [Member.same] using same
  have gone : ({ p with members := p.members.filter fun x => !x.same m.tid m.rank } : Phaser).member? τ rank = none := by
    refine List.find?_eq_none.mpr fun x hx => ?_
    rw [hτ, hrank] at hx
    simpa using (List.mem_filter.mp hx).2
  by_cases h : signals m.mode = true
  · have hw : m.mode ≠ .w := fun hw => by rw [hw] at h; exact absurd h (by decide)
    have whole : p.leave m who stamp cycle = (p.dropMember m.tid m.rank).reopen ((p.dropMember m.tid m.rank).openPhase.drop m who stamp) := by
      simp only [Phaser.leave, h, open_, Bool.not_true, Bool.false_eq_true, if_false]
    have next : p.phase + 1 ≠ p.phase := fun e => absurd (congrArg (· - p.phase) e) (by simp)
    rw [whole]
    refine ⟨gone, ?_, fun e => absurd e hw, fun _ hq => ?_, fun _ hq => ?_⟩
    · show (PhaseDone.drop _ _ _ _).phase = p.phase
      unfold PhaseDone.drop
      split
      · rfl
      · split <;> rfl
    · have : (p.dropMember m.tid m.rank).openPhase.phase = m.q := hq.symm
      simp only [Phaser.reopen, PhaseDone.drop, this, if_true]
      exact ⟨rfl, rfl⟩
    · have h1 : m.q ≠ (p.dropMember m.tid m.rank).openPhase.phase := fun e => next (hq.symm.trans e)
      have h2 : m.q = (p.dropMember m.tid m.rank).openPhase.phase + 1 := hq
      simp only [Phaser.reopen, PhaseDone.drop, if_neg h1, if_pos h2]
      exact ⟨rfl, rfl⟩
  · have hw : m.mode = .w := by
      cases hm : m.mode <;> rw [hm] at h
      · exact absurd rfl h
      · exact absurd rfl h
    have whole : p.leave m who stamp cycle = p.dropMember m.tid m.rank := by
      simp only [Phaser.leave, h, Bool.not_false, if_true]
    rw [whole]
    exact ⟨gone, rfl, fun _ => ⟨rfl, rfl⟩, fun e => absurd hw e, fun e => absurd hw e⟩

/-! ### Signals and waits (R295, R296) -/

/-- A member of a phaser after its record has been replaced by one of the same task and rank. -/
theorem member_setMember {p : Phaser} {m m' : Member} {τ rank : Nat} (member : p.member? τ rank = some m) (hτ : m'.tid = m.tid)
    (hr : m'.rank = m.rank) : (p.setMember m').member? τ rank = some m' := by
  have same : m.same τ rank = true := List.find?_some (p := fun x : Member => x.same τ rank) member
  obtain ⟨rfl, rfl⟩ : m.tid = τ ∧ m.rank = rank := by simpa [Member.same] using same
  have same' : m'.same m.tid m.rank = true := by simp [Member.same, hτ, hr]
  show List.find? (fun x : Member => x.same m.tid m.rank) (p.members.map fun x => if x.same m'.tid m'.rank then m' else x) = some m'
  have member : p.members.find? (fun x : Member => x.same m.tid m.rank) = some m := member
  rw [hτ, hr]
  generalize p.members = l at member ⊢
  induction l with
  | nil => exact absurd member (by simp)
  | cons x l ih =>
    by_cases h : x.same m.tid m.rank = true
    · simp [h, same']
    · simp only [List.find?_cons, h] at member
      simp only [List.map_cons, h, Bool.false_eq_true, if_false, List.find?_cons]
      exact ih member

theorem sigLate_fresh {s : State} (h : s.cur.seq.hold = none) (chip : Bool) (i : Nat) : s.sigLate chip i = false := by
  have : s.wasHeld = false := by rw [State.wasHeld, h]
  rw [State.sigLate, this, Bool.false_and]

theorem sigHeld_eq {s : State} {i : Nat} {m : Member} (here : s.memberHere false i = some m) :
    s.sigHeld false i = (m.q != (phaserHere s i).phase) := by
  rw [State.sigHeld, here]
  simp only [Bool.false_and, Bool.or_false]
  rfl

/-- A wait that was not held in the cycle before is held when its phase is the open one. -/
theorem waitHeld_eq {s : State} {i : Nat} {m : Member} (here : s.memberHere false i = some m) :
    s.waitHeld false i false = decide ((phaserHere s i).phase = m.w) := by
  rw [State.waitHeld, here]
  simp only [Bool.false_and]
  split
  · rename_i h
    exact (decide_eq_true h).symm
  · rename_i h
    exact (decide_eq_false h).symm

theorem signalStep_eq {s : State} {i : Nat} {m : Member} (here : s.memberHere false i = some m) :
    ∃ who stamp v, s.signalStep false i =
      (s.setPhaser (s.turn / 8) i ((phaserHere s i).signal m who stamp)).modCur fun k => (sendsStamp true k).modRcv v := by
  have here0 : (s.sendStamp s.turn).memberHere false i = some m := (memberHere_sendStamp s i).trans here
  refine ⟨(s.turn, s.cur.rcv.seg), (s.sendStamp s.turn).stampOf s.turn,
    fun r => { r with undo := (r.seg, .signalled i (phaserHere s i).phase m) :: r.undo }, ?_⟩
  simp only [State.signalStep, here0, Bool.false_eq_true, if_false]
  exact State.modCur_modCur (s.setPhaser (s.turn / 8) i _) (sendsStamp true) _

/-- What a wait leaves of the core in issue besides the phaser. -/
def WaitsOn (f : Core → Core) : Prop := ∀ k, KeepsStorage f k ∧ (f k).seq = k.seq ∧ (f k).ys = k.ys ∧ (f k).task = k.task ∧ (f k).rank = k.rank

theorem waitStep_eq {s : State} {i : Nat} {m : Member} (here : s.memberHere false i = some m) :
    ∃ f, WaitsOn f ∧ s.waitStep false i =
      (s.setPhaser (s.turn / 8) i ((phaserHere s i).setMember { m with w := m.w + 1 })).modCur f := by
  let u := s.setPhaser (s.turn / 8) i ((phaserHere s i).setMember { m with w := m.w + 1 })
  let noted := fun r : Recovery => { r with undo := (r.seg, PhaserUndo.waited false i m) :: r.undo }
  let received := fun (n : Nat) (k : Core) => (k.modRcv noted).modRegs fun r => { r with lclock := BitVec.ofNat 40 (stampRecv r.lclock.toNat n) }
  have stampedTo : ∀ n, ((u.modCur fun k => k.modRcv noted).recvStamp u.turn n) = u.modCur (received n) := fun n => State.modCur_modCur u _ _
  have keeps : ∀ n v, WaitsOn fun k => (received n k).modRcv v := fun n v k => ⟨⟨⟨_, rfl⟩, rfl, rfl, rfl⟩, rfl, rfl, rfl, rfl⟩
  simp only [State.waitStep, here, Bool.false_eq_true, if_false]
  split
  · exact ⟨received 0, keeps 0 id, stampedTo 0⟩
  · rename_i d _
    split
    · exact ⟨received d.stamp, keeps d.stamp id, stampedTo d.stamp⟩
    · exact ⟨_, keeps d.stamp _, (congrArg (fun t : State => t.modCur _) (stampedTo d.stamp)).trans (State.modCur_modCur u _ _)⟩

section
variable {g : Guard} {h : BitVec 4} {i τ : Nat} {m : Member} {mode : PhMode} {s : State} (on : s.cur.on g = true) (hτ : s.cur.task = some τ)
  (hi : i < 512) (fresh : s.cur.seq.hold = none) (word : s.cur.handle h.toNat = 2 ^ 15 + encPhMode mode * 2 ^ 12 + i)
  (member : (phaserHere s i).member? τ s.cur.rank = some m)

/-- How a signal or a wait changes its member's place and leaves the rest (R295). -/
def Moved (s t : State) (i τ : Nat) (m : Member) (q w : BitVec 32) : Prop :=
  (phaserHere t i).member? τ s.cur.rank = some { m with q := q, w := w } ∧ (phaserHere t i).phase = (phaserHere s i).phase ∧
  (phaserHere t i).nsig = (phaserHere s i).nsig ∧ (∀ j, j ≠ i → phaserHere t j = phaserHere s j) ∧ turnFrame s t ∧
  t.cur.seq.flight = s.cur.seq.flight ∧ t.cur.seq.verdict = s.cur.seq.verdict ∧
  (t.clu (s.turn / 8)).pool = (s.clu (s.turn / 8)).pool

theorem Moved.of {s t : State} {i τ : Nat} {m : Member} {q w : BitVec 32} {p : Phaser} {f : Core → Core}
    (ht : t = (s.setPhaser (s.turn / 8) i p).modCur f) (keeps : KeepsStorage f s.cur) (flight : (f s.cur).seq.flight = s.cur.seq.flight)
    (verdict : (f s.cur).seq.verdict = s.cur.seq.verdict) (member : p.member? τ s.cur.rank = some { m with q := q, w := w })
    (phase : p.phase = (phaserHere s i).phase) (nsig : p.nsig = (phaserHere s i).nsig) : Moved s t i τ m q w ∧ phaserHere t i = p := by
  subst ht
  obtain ⟨here, others, frame, pool⟩ := onPhaser s i p keeps
  have cur : ((s.setPhaser (s.turn / 8) i p).modCur f).cur = f s.cur := State.cur_modCur (s.setPhaser (s.turn / 8) i p) f
  refine ⟨⟨?_, ?_, ?_, others, frame, ?_, ?_, pool⟩, here⟩
  · rw [here, member]
  · rw [here, phase]
  · rw [here, nsig]
  · rw [cur, flight]
  · rw [cur, verdict]

include on hi word in
theorem phsig_refused (silent : mode = .w) : exec (.phsig g h false) s = .next (s.issueFault .y 0x0F) := by
  show execPhsig g h false s = _
  simp only [execPhsig, on, withHandle_plain hi word, silent, Bool.not_true, Bool.false_eq_true, if_false]
  rfl

include on hi word in
theorem phwait_refused (deaf : mode = .s) : exec (.phwait g h false) s = .next (s.issueFault .y 0x0F) := by
  show execPhwait g h false s = _
  simp only [execPhwait, on, withHandle_plain hi word, deaf, Bool.not_true, Bool.false_eq_true, if_false]
  rfl

include on hi word in
theorem phsw_refused (half : mode ≠ .sw) : exec (.phsw g h false) s = .next (s.issueFault .y 0x0F) := by
  have : (mode != .sw) = true := bne_iff_ne.mpr half
  show execPhsw g h false s = _
  simp only [execPhsw, on, withHandle_plain hi word, this, Bool.not_true, Bool.false_eq_true, if_false, if_true]

theorem signals_of {mode : PhMode} (h : mode ≠ .w) : signals mode = true := by
  cases mode
  · rfl
  · exact absurd rfl h
  · rfl

include on hτ hi word member in
theorem phsig_held (speaks : mode ≠ .w) (given : m.q ≠ (phaserHere s i).phase) : exec (.phsig g h false) s = .next (s.holdFor .y .ywait) := by
  have held : s.sigHeld false i = true := (sigHeld_eq ((memberHere_eq hτ i).trans member)).trans (bne_iff_ne.mpr given)
  show execPhsig g h false s = _
  simp only [execPhsig, on, withHandle_plain hi word, signals_of speaks, held, Bool.true_or, Bool.not_true, Bool.false_eq_true, if_false, if_true]

include on hτ hi word member fresh in
theorem phwait_held (listens : mode ≠ .s) (open_ : m.w = (phaserHere s i).phase) : exec (.phwait g h false) s = .next (s.holdFor .y .ywait) := by
  have calm : s.wasHeld = false := by rw [State.wasHeld, fresh]
  have held : s.waitHeld false i false = true := (waitHeld_eq ((memberHere_eq hτ i).trans member)).trans (decide_eq_true open_.symm)
  have hears : (mode == .s) = false := beq_eq_false_iff_ne.mpr listens
  show execPhwait g h false s = _
  simp only [execPhwait, on, withHandle_plain hi word, hears, calm, held, Bool.not_true, Bool.false_eq_true, if_false, if_true]

include on hτ hi word member fresh in
theorem phsig_counts (speaks : mode ≠ .w) (owed : m.q = (phaserHere s i).phase) :
    ∃ t, exec (.phsig g h false) s = .next t ∧ Moved s t i τ m (m.q + 1) m.w ∧ (phaserHere t i).arrived = (phaserHere s i).arrived + 1 ∧
      (phaserHere t i).counted = (phaserHere s i).counted + 1 := by
  have here := (memberHere_eq hτ i).trans member
  have free : s.sigHeld false i = false := (sigHeld_eq here).trans (by rw [owed]; exact bne_self_eq_false _)
  obtain ⟨who, stamp, v, step⟩ := signalStep_eq here
  obtain ⟨f, sig⟩ := sigEffect_eq (s.signalStep false i) .y 3 i []
  have whole : (s.signalStep false i).sigEffect .y 3 i [] =
      (s.setPhaser (s.turn / 8) i ((phaserHere s i).signal m who stamp)).modCur fun k => (sendsStamp true k).modRcv fun r => f (v r) := by
    rw [sig, step, State.modCur_modCur]
    rfl
  obtain ⟨moved, there⟩ := Moved.of (m := m) (τ := τ) (q := m.q + 1) (w := m.w) whole ⟨⟨_, rfl⟩, rfl, rfl, rfl⟩ rfl rfl
    (member_setMember member rfl rfl) rfl rfl
  refine ⟨_, ?_, moved, by rw [there]; rfl, by rw [there]; rfl⟩
  show execPhsig g h false s = _
  simp only [execPhsig, on, withHandle_plain hi word, signals_of speaks, free, sigLate_fresh fresh, Bool.or_false, Bool.not_true,
    Bool.false_eq_true, if_false]

include on hτ hi word member fresh in
theorem phwait_passes (listens : mode ≠ .s) (done : m.w ≠ (phaserHere s i).phase) :
    ∃ t, exec (.phwait g h false) s = .next t ∧ Moved s t i τ m m.q (m.w + 1) ∧ (phaserHere t i).arrived = (phaserHere s i).arrived := by
  have here := (memberHere_eq hτ i).trans member
  have calm : s.wasHeld = false := by rw [State.wasHeld, fresh]
  have free : s.waitHeld false i false = false := (waitHeld_eq here).trans (decide_eq_false (Ne.symm done))
  have hears : (mode == .s) = false := beq_eq_false_iff_ne.mpr listens
  obtain ⟨f, waits, step⟩ := waitStep_eq here
  obtain ⟨v, sig⟩ := sigEffect_eq (s.waitStep false i) .y 4 i []
  have whole : (s.waitStep false i).sigEffect .y 4 i [] =
      (s.setPhaser (s.turn / 8) i ((phaserHere s i).setMember { m with w := m.w + 1 })).modCur fun k => (f k).modRcv v := by
    rw [sig, step, State.modCur_modCur]
  obtain ⟨keeps, seq, _⟩ := waits s.cur
  obtain ⟨moved, there⟩ := Moved.of (m := m) (τ := τ) (q := m.q) (w := m.w + 1) whole keeps (congrArg Seq.flight seq :) (congrArg Seq.verdict seq :)
    (member_setMember member rfl rfl) rfl rfl
  refine ⟨_, ?_, moved, by rw [there]; rfl⟩
  show execPhwait g h false s = _
  simp only [execPhwait, on, withHandle_plain hi word, hears, calm, free, Bool.not_true, Bool.false_eq_true, if_false]

/-- The signal step of a `phsw` has been performed (R296). -/
def signalled (cycle : Nat) (k : Core) : Core :=
  (k.modYs fun y => { y with phswDone := true }).modSeq fun q => { q with signalledAt := some cycle }

include on hτ hi word member fresh in
/-- What stands before the wait of a `phsw` that signals: the signal, and the note of it. -/
theorem phsw_signals (both : mode = .sw) (owed : m.q = (phaserHere s i).phase) (first : s.cur.ys.phswDone = false) :
    ∃ s1 p1 F, s1 = (s.setPhaser (s.turn / 8) i p1).modCur F ∧ (∃ who stamp, p1 = (phaserHere s i).signal m who stamp) ∧
      (∃ v, F = fun k => signalled s.cycle ((sendsStamp true k).modRcv v)) ∧ s1.memberHere false i = some { m with q := m.q + 1 } ∧
      exec (.phsw g h false) s = .next (if s1.waitHeld false i false then s1.holdFor .y .ywait
        else ((s1.waitStep false i).sigEffect .y 5 i []).modCur fun k => k.modYs fun y => { y with phswDone := false }) := by
  have here := (memberHere_eq hτ i).trans member
  have free : s.sigHeld false i = false := (sigHeld_eq here).trans (by rw [owed]; exact bne_self_eq_false _)
  obtain ⟨who, stamp, v, step⟩ := signalStep_eq here
  let p1 := (phaserHere s i).signal m who stamp
  let F := fun k : Core => signalled s.cycle ((sendsStamp true k).modRcv v)
  let s1 := (s.signalStep false i).modCur (signalled s.cycle)
  have merged : s1 = (s.setPhaser (s.turn / 8) i p1).modCur F := by
    show (s.signalStep false i).modCur (signalled s.cycle) = _
    rw [step, State.modCur_modCur]
  have cur : s1.cur = F s.cur := by
    rw [merged]
    exact State.cur_modCur (s.setPhaser (s.turn / 8) i p1) F
  have turn : s1.turn = s.turn := by rw [merged]; rfl
  have at_phaser : phaserHere s1 i = p1 := by
    rw [merged]
    exact (onPhaser s i p1 ⟨⟨_, rfl⟩, rfl, rfl, rfl⟩).here
  have there : s1.memberHere false i = some { m with q := m.q + 1 } := by
    refine (memberHere_eq (τ := τ) (by rw [cur]; exact hτ) i).trans ?_
    rw [at_phaser, cur]
    exact member_setMember (m' := { m with q := m.q + 1 }) member rfl rfl
  refine ⟨s1, p1, F, merged, ⟨who, stamp, rfl⟩, ⟨v, rfl⟩, there, ?_⟩
  have same : (s1.cur.seq.signalledAt != some s.cycle) = false := by
    rw [cur]
    exact bne_self_eq_false _
  have goes : (mode != .sw) = false := by rw [both]; rfl
  show execPhsw g h false s = _
  simp only [execPhsw, on, withHandle_plain hi word, goes, first, free, sigLate_fresh fresh, Bool.or_false, Bool.not_true, Bool.not_false,
    Bool.true_and, Bool.false_eq_true, if_false]
  exact congrArg Host.Outcome.next (congrArg (fun b : Bool => if s1.waitHeld false i b = true then s1.holdFor .y .ywait
    else ((s1.waitStep false i).sigEffect .y 5 i []).modCur fun k => k.modYs fun y => { y with phswDone := false }) same)

include on hτ hi word member fresh in
theorem phsw_passes (both : mode = .sw) (owed : m.q = (phaserHere s i).phase) (first : s.cur.ys.phswDone = false)
    (done : m.w ≠ (phaserHere s i).phase) :
    ∃ t, exec (.phsw g h false) s = .next t ∧ Moved s t i τ m (m.q + 1) (m.w + 1) ∧ (phaserHere t i).arrived = (phaserHere s i).arrived + 1 ∧
      t.cur.ys.phswDone = false := by
  obtain ⟨s1, p1, F, merged, ⟨who, stamp, hp1⟩, ⟨v, hF⟩, there, issued⟩ := phsw_signals on hτ hi fresh word member both owed first
  have at_phaser : phaserHere s1 i = p1 := by
    rw [merged]
    exact (onPhaser s i p1 (by rw [hF]; exact ⟨⟨_, rfl⟩, rfl, rfl, rfl⟩)).here
  have phase : p1.phase = (phaserHere s i).phase := by rw [hp1]; rfl
  have free : s1.waitHeld false i false = false := (waitHeld_eq there).trans (decide_eq_false (by rw [at_phaser, phase]; exact Ne.symm done))
  obtain ⟨f, waits, step⟩ := waitStep_eq there
  let p2 := p1.setMember { m with q := m.q + 1, w := m.w + 1 }
  obtain ⟨x, sig⟩ := sigEffect_eq (s1.waitStep false i) .y 5 i []
  let G := fun k : Core => ((f (F k)).modRcv x).modYs fun y => { y with phswDone := false }
  have turned : s1.setPhaser (s1.turn / 8) i p2 = (s.setPhaser (s.turn / 8) i p2).modCur F := by
    rw [merged]
    exact congrArg (fun t : State => t.modCur F) (setPhaser_setPhaser s (s.turn / 8) i p1 p2)
  have whole : ((s1.waitStep false i).sigEffect .y 5 i []).modCur (fun k => k.modYs fun y => { y with phswDone := false }) =
      (s.setPhaser (s.turn / 8) i p2).modCur G := by
    rw [sig, step, at_phaser, turned, State.modCur_modCur, State.modCur_modCur, State.modCur_modCur]
  have storage : ∀ k, F k = signalled s.cycle ((sendsStamp true k).modRcv v) := fun k => by rw [hF]
  obtain ⟨⟨⟨n, regs⟩, sp, ls, arr⟩, seq, ys, _⟩ := waits (F s.cur)
  have keeps : KeepsStorage G s.cur := by
    refine ⟨⟨n, regs.trans ?_⟩, sp.trans ?_, ls.trans ?_, arr.trans ?_⟩ <;> rw [storage] <;> rfl
  have flow : (G s.cur).seq.flight = s.cur.seq.flight ∧ (G s.cur).seq.verdict = s.cur.seq.verdict := by
    refine ⟨(congrArg Seq.flight seq).trans ?_, (congrArg Seq.verdict seq).trans ?_⟩ <;> rw [storage] <;> rfl
  have member1 : p1.member? τ s.cur.rank = some { m with q := m.q + 1 } := by
    rw [hp1]
    exact member_setMember (m' := { m with q := m.q + 1 }) member rfl rfl
  obtain ⟨moved, here⟩ := Moved.of (m := m) (τ := τ) (q := m.q + 1) (w := m.w + 1) whole keeps flow.1 flow.2
    (member_setMember member1 rfl rfl) (by rw [← phase]; rfl) (show p1.nsig = _ by rw [hp1]; rfl)
  refine ⟨_, by rw [issued, free]; rfl, moved, ?_, ?_⟩
  · rw [here]
    show p1.arrived = _
    rw [hp1]
    rfl
  · rw [whole]
    exact (congrArg (fun k : Core => k.ys.phswDone) (State.cur_modCur (s.setPhaser (s.turn / 8) i p2) G)).trans rfl

include on hτ hi word member fresh in
theorem phsw_waits (both : mode = .sw) (owed : m.q = (phaserHere s i).phase) (first : s.cur.ys.phswDone = false)
    (open_ : m.w = (phaserHere s i).phase) :
    ∃ t, exec (.phsw g h false) s = .next t ∧ (phaserHere t i).member? τ s.cur.rank = some { m with q := m.q + 1 } ∧
      (phaserHere t i).arrived = (phaserHere s i).arrived + 1 ∧ t.cur.ys.phswDone = true ∧ t.cur.seq.verdict = .held := by
  obtain ⟨s1, p1, F, merged, ⟨who, stamp, hp1⟩, ⟨v, hF⟩, there, issued⟩ := phsw_signals on hτ hi fresh word member both owed first
  have at_phaser : phaserHere s1 i = p1 := by
    rw [merged]
    exact (onPhaser s i p1 (by rw [hF]; exact ⟨⟨_, rfl⟩, rfl, rfl, rfl⟩)).here
  have phase : p1.phase = (phaserHere s i).phase := by rw [hp1]; rfl
  have held : s1.waitHeld false i false = true := (waitHeld_eq there).trans (decide_eq_true (by rw [at_phaser, phase]; exact open_.symm))
  have cur1 : s1.cur = F s.cur := by
    rw [merged]
    exact State.cur_modCur (s.setPhaser (s.turn / 8) i p1) F
  have cur : ((s1.holdFor .y .ywait).cur).ys = s1.cur.ys ∧ ((s1.holdFor .y .ywait).cur).seq.verdict = .held := by
    have : (s1.holdFor .y .ywait).cur = _ := State.cur_modCur s1 _
    rw [this]
    exact ⟨rfl, rfl⟩
  refine ⟨s1.holdFor .y .ywait, by rw [issued, held]; rfl, ?_, ?_, ?_, cur.2⟩
  · show (phaserHere s1 i).member? τ s.cur.rank = _
    rw [at_phaser, hp1]
    exact member_setMember (m' := { m with q := m.q + 1 }) member rfl rfl
  · show (phaserHere s1 i).arrived = _
    rw [at_phaser, hp1]
    rfl
  · rw [cur.1, cur1, hF]
    rfl

end

theorem settle_cases (p : Phaser) (cycle : Nat) :
    (0 < p.counted → p.nsig ≤ p.arrived → p.doneIn cycle = false →
      (p.settle cycle).phase = p.phase + 1 ∧ (p.settle cycle).arrived = 0 ∧ (p.settle cycle).counted = 0 ∧
      (p.settle cycle).nsig = p.nsig ∧ (p.settle cycle).members = p.members) ∧
    (p.counted = 0 ∨ p.arrived < p.nsig ∨ p.doneIn cycle = true → p.settle cycle = p) := by
  refine ⟨fun some all first => ?_, fun waits => if_neg ?_⟩
  · simp [Phaser.settle, some, all, first]
  · rcases waits with h | h | h
    · simp [h]
    · simp [Nat.not_le.mpr h]
    · simp [h]

/-! ### The obligation -/

/-- The word of a valid handle of a cluster phaser, as its register holds it. -/
theorem handle_ofNat {k : Core} {n i : Nat} {mode : PhMode} (hi : i < 512)
    (word : Table.get k.ys.y 0 n = BitVec.ofNat 16 (2 ^ 15 + encPhMode mode * 2 ^ 12 + i)) : k.handle n = 2 ^ 15 + encPhMode mode * 2 ^ 12 + i := by
  have small : 2 ^ 15 + encPhMode mode * 2 ^ 12 + i < 2 ^ 16 := by
    cases mode <;> simp only [encPhMode] <;> omega
  rw [Core.handle, word, BitVec.toNat_ofNat, Nat.mod_eq_of_lt small]

theorem registrations (g : Guard) (h : BitVec 4) (mode : PhMode) (index : BitVec 9) (τ : Nat) (s : State) (on : s.cur.on g = true)
    (hτ : s.cur.task = some τ) :
    let i := index.toNat
    let p := phaserHere s i
    let taken := (Table.get s.cur.ys.y 0 h.toNat).getLsbD 15
    ((taken = true ∧ (Table.get s.cur.ys.y 0 h.toNat).toNat / 2 ^ 12 % 4 ≠ 0) ∨ 64 ≤ i ∨ (p.member? τ s.cur.rank).isSome = true →
      exec (.phreg g h mode false index) s = .next (s.issueFault .y 0x0F)) ∧
    (let x := s.ctx (s.pasidOf s.turn)
     taken = false → (Table.get s.chipPhasers {} (x.phbase + i)).member? τ s.cur.rank = none →
      (∀ o ∈ s.cur.eng.phaserOps, o.index ≠ x.phbase + i) → s.memberCount true < 4096 →
      (x.phcount ≤ i → exec (.phreg g h mode true index) s = .next (s.issueFault .y 0x0A)) ∧
      (i < x.phcount →
        ∃ t o, exec (.phreg g h mode true index) s = .next t ∧ t.cur.eng.phaserOps = s.cur.eng.phaserOps ++ [o] ∧ o.act = .join mode ∧
          o.index = x.phbase + i ∧ o.tid = τ ∧ o.rank = s.cur.rank ∧ o.clearAt = none ∧
          Table.get t.cur.ys.y 0 h.toNat = BitVec.ofNat 16 (2 ^ 15 + 2 ^ 14 + encPhMode mode * 2 ^ 12 + i) ∧
          t.chipPhasers = s.chipPhasers ∧ t.clusters = s.clusters ∧ turnFrame s t ∧ t.cur.seq = s.cur.seq)) ∧
    (taken = false → i < 64 → p.member? τ s.cur.rank = none → s.memberCount false < 512 →
      ∃ t, exec (.phreg g h mode false index) s = .next t ∧
        (phaserHere t i).phase = p.phase ∧ (phaserHere t i).arrived = p.arrived ∧
        (phaserHere t i).nsig = p.nsig + (if mode = .w then 0 else 1) ∧
        (phaserHere t i).members = p.members ++ [{ tid := τ, rank := s.cur.rank, mode := mode, q := p.phase, w := p.phase }] ∧
        (∀ j, j ≠ i → phaserHere t j = phaserHere s j) ∧
        Table.get t.cur.ys.y 0 h.toNat = BitVec.ofNat 16 (2 ^ 15 + encPhMode mode * 2 ^ 12 + i) ∧
        (∀ n, n ≠ h.toNat → Table.get t.cur.ys.y 0 n = Table.get s.cur.ys.y 0 n) ∧ turnFrame s t ∧ t.cur.regs = s.cur.regs ∧
        t.cur.seq = s.cur.seq ∧ (t.clu (s.turn / 8)).pool = (s.clu (s.turn / 8)).pool) := by
  intro i p taken
  refine ⟨fun bad => ?_, fun free none fresh room => ⟨fun beyond => ?_, fun within => ?_⟩, fun free small none room => ?_⟩
  · refine phreg_refused on hτ h mode index ?_
    rcases bad with ⟨bad, known⟩ | bad
    · exact .inl (decHandle_taken bad known)
    · exact .inr bad
  · exact phreg_beyond on hτ h mode index (decHandle_free free) none fresh room beyond
  · obtain ⟨v, issued⟩ := phreg_queues on hτ h mode index (decHandle_free free) none fresh room within
    let s1 : State := { s with nextId := s.nextId + 1 }
    let F := fun k : Core => setHandle h.toNat (fun _ => encHandle true mode i) ((queued s i (.join mode) k).modRcv v)
    have cur : (s1.modCur F).cur = F s.cur := State.cur_modCur s1 F
    refine ⟨_, phaserOpHere s i (.join mode) s.cur, issued, ?_, rfl, rfl, (by rw [phaserOpHere, hτ]; rfl), rfl, rfl, ?_, rfl, rfl, ?_, ?_⟩
    · exact (congrArg (fun k : Core => k.eng.phaserOps) cur).trans rfl
    · refine (congrArg (fun k : Core => Table.get k.ys.y 0 h.toNat) cur).trans ((setHandle_get _ _ _).trans ?_)
      rw [encHandle]
      rfl
    · exact turnFrame_stamped s (f := F) ⟨⟨_, rfl⟩, rfl, rfl, rfl⟩ rfl rfl rfl rfl
    · exact (congrArg (fun k : Core => k.seq) cur).trans rfl
  · obtain ⟨f, issued, v, rfl⟩ := phreg_joins on hτ h mode index (decHandle_free free) small none room
    let F := fun k : Core => setHandle h.toNat (fun _ => encHandle false mode i) (k.modRcv v)
    obtain ⟨there, others, frame, pool⟩ := onPhaser s i (p.join τ s.cur.rank mode) (f := F) ⟨⟨_, rfl⟩, rfl, rfl, rfl⟩
    have cur : ((s.setPhaser (s.turn / 8) i (p.join τ s.cur.rank mode)).modCur F).cur = F s.cur :=
      State.cur_modCur (s.setPhaser (s.turn / 8) i (p.join τ s.cur.rank mode)) F
    refine ⟨_, issued, by rw [there]; rfl, by rw [there]; rfl, ?_, by rw [there]; rfl, others, ?_, fun n hn => ?_, frame,
      (congrArg (fun k : Core => k.regs) cur).trans rfl, (congrArg (fun k : Core => k.seq) cur).trans rfl, pool⟩
    · rw [there]
      cases mode <;> rfl
    · exact (congrArg (fun k : Core => Table.get k.ys.y 0 h.toNat) cur).trans ((setHandle_get _ _ _).trans (by rw [encHandle]; rfl))
    · exact (congrArg (fun k : Core => Table.get k.ys.y 0 n) cur).trans (setHandle_other _ _ _ hn)

theorem drops (g : Guard) (h : BitVec 4) (r : Bool) (mode : PhMode) (index : BitVec 9) (τ : Nat) (s : State) (on : s.cur.on g = true)
    (hτ : s.cur.task = some τ) :
    let i := index.toNat
    let p := phaserHere s i
    (r = true → s.cur.ys.rdepth ≤ h.toNat → exec (.phdrop g h r) s = .next (s.issueFault .y 0x0F)) ∧
    (∀ n, (r = false ∧ n = h.toNat) ∨ (r = true ∧ h.toNat < s.cur.ys.rdepth ∧ n = (h.toNat + s.cur.ys.rbase) % s.cur.ys.rdepth) →
      let w := (Table.get s.cur.ys.y 0 n).toNat
      (w < 2 ^ 15 → exec (.phdrop g h r) s = .next (s.issueFault .y 0x0F)) ∧
      (∀ m, w = 2 ^ 15 + encPhMode mode * 2 ^ 12 + i → p.member? τ s.cur.rank = some m → m.mode = mode → p.doneIn s.cycle = false →
        ∃ t, exec (.phdrop g h r) s = .next t ∧ (phaserHere t i).member? τ s.cur.rank = none ∧ (phaserHere t i).phase = p.phase ∧
          (mode = .w → (phaserHere t i).nsig = p.nsig ∧ (phaserHere t i).arrived = p.arrived) ∧
          (mode ≠ .w → m.q = p.phase → (phaserHere t i).nsig = p.nsig - 1 ∧ (phaserHere t i).arrived = p.arrived + 1) ∧
          (mode ≠ .w → m.q = p.phase + 1 → (phaserHere t i).nsig = p.nsig - 1 ∧ (phaserHere t i).arrived = p.arrived - 1) ∧
          (∀ j, j ≠ i → phaserHere t j = phaserHere s j) ∧
          Table.get t.cur.ys.y 0 n = BitVec.ofNat 16 (encPhMode mode * 2 ^ 12 + i) ∧ turnFrame s t ∧ t.cur.seq = s.cur.seq)) := by
  intro i p
  refine ⟨fun hr beyond => execPhdrop_faults on (withHandle_beyond hr beyond), fun n hn => ⟨fun invalid => ?_, fun m word member hm open_ => ?_⟩⟩
  · exact execPhdrop_faults on (withHandle_invalid (handleIndex_some hn) invalid)
  · have small : i < 512 := index.isLt
    obtain ⟨who, stamp, sends, v, issued⟩ := phdrop_leaves on hτ (handleIndex_some hn) small word member
    let F := fun k : Core => setHandle n (fun k => BitVec.ofNat 16 (k.handle n % 2 ^ 15)) ((sendsStamp sends k).modRcv v)
    obtain ⟨⟨⟨lc, regs⟩, sp, ls, arr⟩, seq, ys, _⟩ := sendsStamp_keeps sends s.cur
    obtain ⟨there, others, frame, _⟩ := onPhaser s i (p.leave m who stamp s.cycle) (f := F) ⟨⟨lc, regs⟩, sp, ls, arr⟩
    have cur : ((s.setPhaser (s.turn / 8) i (p.leave m who stamp s.cycle)).modCur F).cur = F s.cur :=
      State.cur_modCur (s.setPhaser (s.turn / 8) i (p.leave m who stamp s.cycle)) F
    obtain ⟨gone, phase, silent, owed, given⟩ := leave_open p m who stamp s.cycle τ s.cur.rank member open_
    rw [hm] at silent owed given
    refine ⟨_, issued, by rw [there]; exact gone, by rw [there]; exact phase, by rw [there]; exact silent, by rw [there]; exact owed,
      by rw [there]; exact given, others, ?_, frame, (congrArg (fun k : Core => k.seq) cur).trans seq⟩
    refine (congrArg (fun k : Core => Table.get k.ys.y 0 n) cur).trans ((setHandle_get _ _ _).trans ?_)
    have same : ((sendsStamp sends s.cur).modRcv v).handle n = 2 ^ 15 + (encPhMode mode * 2 ^ 12 + i) := by
      show (Table.get (sendsStamp sends s.cur).ys.y 0 n).toNat = _
      rw [ys, ← Nat.add_assoc]
      exact word
    have low : encPhMode mode * 2 ^ 12 + i < 2 ^ 15 := by cases mode <;> simp only [encPhMode] <;> omega
    rw [same, Nat.add_mod_left, Nat.mod_eq_of_lt low]

/-- Settles O33. -/
theorem clusterPhasers : Obligations.ClusterPhasers := by
  refine ⟨fun g h r mode index τ s on hτ => ?_, fun g h i τ m mode s on hτ small fresh first _ => ?_, settle_cases⟩
  · obtain ⟨refused, chip, joins⟩ := registrations g h mode index τ s on hτ
    obtain ⟨beyond, leaves⟩ := drops g h r mode index τ s on hτ
    cases mode <;> exact ⟨refused, chip, joins, beyond, leaves⟩
  · have hi : i < 512 := by omega
    intro p code word member moved
    have code_eq : code = encPhMode mode := by cases mode <;> rfl
    have word := handle_ofNat hi (code_eq ▸ word)
    exact ⟨phsig_refused on hi word, phwait_refused on hi word, phsw_refused on hi word, phsig_held on hτ hi word member,
      phwait_held on hτ hi fresh word member, phsig_counts on hτ hi fresh word member, phwait_passes on hτ hi fresh word member,
      fun both owed done => phsw_passes on hτ hi fresh word member both owed first done,
      fun both owed open_ => phsw_waits on hτ hi fresh word member both owed first open_⟩

end Sys2Proof.Machine
end

section
/-!
PROOFS. Phasers of the chip, and futures (R294-R298, R303, R304).
-/
namespace Sys2Proof.Machine

/-! ### Operations that perform at a chip phaser (R298) -/

theorem not_overtaken {s : State} {c : Nat} (h : Sys2Proof.nothingBefore s c) (id : Nat) (stage : Nat) (key : Key) (pasid : Nat)
    (after : List Nat) : s.releaseClear c id after stage key pasid = true := by
  obtain ⟨held, atomics, un, wlogs, gloads, flight, ldmc⟩ := h
  have noHeld : (s.clusters.map fun (e : Nat × Cluster) => e.2.held).flatten = [] :=
    List.flatten_eq_nil_iff.mpr fun l hl => by
      obtain ⟨e, he, rfl⟩ := List.mem_map.mp hl
      exact held e he
  have noLoads : ((s.core c).seq.gloads.any fun g => decide (g.id < id) && !g.reads.isEmpty) = false :=
    List.any_eq_false.mpr fun g hg => by simp [gloads g hg]
  have noWaits : (s.core c).xsWaits = [] := by
    have landed : (s.core c).seq.flight.filter (fun r => !r.wait.isEmpty) = [] :=
      List.filter_eq_nil_iff.mpr fun r hr => by simp [flight r hr]
    have noMulticast : (match (s.core c).eng.ldmc with | some m => if m.wait.isEmpty then [] else [(m.mark, m.wait)] | none => []) = [] := by
      cases hm : (s.core c).eng.ldmc with
      | none => rfl
      | some m => simp [ldmc m hm]
    simp only [Core.xsWaits, landed, List.map_nil, List.filter_nil, List.nil_append, List.append_nil]
    exact noMulticast
  have noLogs : (s.tasks.any fun (e : Nat × Task) => s.isFrontier e.1 && e.2.wlog.any fun w => w.core == c && decide (w.id < id)) = false :=
    List.any_eq_false.mpr fun e he => by simp [wlogs e he]
  simp only [State.releaseClear, noHeld, noLoads, noWaits, noLogs, atomics, un, List.filter_nil, List.any_nil, Bool.not_false, Bool.and_true]

/-- What an operation that arrives makes of its phaser. -/
def actedOn (p : Phaser) (o : PhaserOp) (core cycle : Nat) : Phaser :=
  match o.act with
  | .join m => p.join o.tid o.rank m
  | .signal => match p.member? o.tid o.rank with
    | some m => p.signal m (core, o.seg) o.stamp
    | none => p
  | .leave => match p.member? o.tid o.rank with
    | some m => p.leave m (core, o.seg) o.stamp cycle
    | none => p

theorem member_leave (p : Phaser) {m : Member} (who : Nat × Nat) (stamp cycle : Nat) {τ rank : Nat} (member : p.member? τ rank = some m) :
    (p.leave m who stamp cycle).member? τ rank = none := by
  have same : m.same τ rank = true := List.find?_some (p := fun x : Member => x.same τ rank) member
  obtain ⟨hτ, hrank⟩ : m.tid = τ ∧ m.rank = rank := by simpa [Member.same] using same
  have gone : (p.members.filter fun x => !x.same m.tid m.rank).find? (fun x : Member => x.same τ rank) = none := by
    refine List.find?_eq_none.mpr fun x hx => ?_
    rw [hτ, hrank] at hx
    simpa using (List.mem_filter.mp hx).2
  have members : (p.leave m who stamp cycle).members = p.members.filter fun x => !x.same m.tid m.rank := by
    simp only [Phaser.leave]
    split
    · rfl
    · split <;> rfl
  rw [Phaser.member?, members]
  exact gone

theorem actedOn_leave {p : Phaser} {o : PhaserOp} (core cycle : Nat) (h : o.act = .leave) :
    (actedOn p o core cycle).member? o.tid o.rank = none := by
  cases hm : p.member? o.tid o.rank with
  | none =>
    simp only [actedOn, h, hm]
  | some m =>
    simp only [actedOn, h, hm]
    exact member_leave p _ _ _ hm

theorem chipPhaserPerform_acts {c : Nat} {o : PhaserOp} {rest : List PhaserOp} {s : State} (hq : (s.core c).eng.phaserOps = o :: rest)
    (clear : ∃ τ, o.clearAt = some τ ∧ τ ≤ s.cycle) (front : ∀ k, s.task? o.tid = some k → s.isFrontier o.tid = true ∨ k.state = .committed)
    (before : Sys2Proof.nothingBefore s c) : exec (.chipPhaserPerform c) s =
      .next (({ s with chipPhasers := Table.put s.chipPhasers o.index (actedOn (Table.get s.chipPhasers {} o.index) o c s.cycle),
                       bankClock := Nat.max s.bankClock o.stamp } : State).modCore c fun k => k.modEng fun e => { e with phaserOps := rest }) := by
  obtain ⟨τ, hτ, due⟩ := clear
  have ready : s.clearFor o.clearAt o.tid = true := by
    simp only [State.clearFor, hτ, due, decide_true, Bool.true_and]
    cases hk : s.task? o.tid with
    | none => rfl
    | some k =>
      rcases front k hk with h | h
      · simp [h]
      · simp [h]
  show execChipPhaserPerform c s = _
  simp only [execChipPhaserPerform, hq, ready, not_overtaken before, Bool.not_true, Bool.or_false, Bool.false_eq_true, if_false]
  rfl

theorem chip_performs (c : Nat) (o : PhaserOp) (rest : List PhaserOp) (s : State) (hq : (s.core c).eng.phaserOps = o :: rest) :
    let p := Table.get s.chipPhasers {} o.index
    ((∀ τ, o.clearAt = some τ → s.cycle < τ) → exec (.chipPhaserPerform c) s = .next s) ∧
    ((∃ τ, o.clearAt = some τ ∧ τ ≤ s.cycle) → (∀ k, s.task? o.tid = some k → s.isFrontier o.tid = true ∨ k.state = .committed) →
      Sys2Proof.nothingBefore s c →
      ∃ t, exec (.chipPhaserPerform c) s = .next t ∧ (t.core c).eng = { (s.core c).eng with phaserOps := rest } ∧
        (∀ md, o.act = .join md → (Table.get t.chipPhasers {} o.index).nsig = p.nsig + (if md = .w then 0 else 1) ∧
          (Table.get t.chipPhasers {} o.index).members = p.members ++
            [{ tid := o.tid, rank := o.rank, mode := md, q := p.phase, w := p.phase }]) ∧
        (∀ m, o.act = .signal → p.member? o.tid o.rank = some m →
          (Table.get t.chipPhasers {} o.index).arrived = p.arrived + 1 ∧
          (Table.get t.chipPhasers {} o.index).member? o.tid o.rank = some { m with q := m.q + 1 }) ∧
        (o.act = .leave → (Table.get t.chipPhasers {} o.index).member? o.tid o.rank = none) ∧
        (∀ j, j ≠ o.index → Table.get t.chipPhasers {} j = Table.get s.chipPhasers {} j) ∧
        (t.core c).regs = (s.core c).regs ∧ (∀ d, d ≠ c → t.core d = s.core d) ∧ t.clusters = s.clusters ∧ t.pmem = s.pmem) := by
  intro p
  refine ⟨fun early => ?_, fun clear front before => ?_⟩
  · have waits : s.clearFor o.clearAt o.tid = false := by
      cases h : o.clearAt with
      | none => rfl
      | some τ => simp [State.clearFor, Nat.not_le.mpr (early τ h)]
    show execChipPhaserPerform c s = _
    simp only [execChipPhaserPerform, hq, waits, Bool.not_false, Bool.true_or, if_true]
  · let u : State := { s with chipPhasers := Table.put s.chipPhasers o.index (actedOn p o c s.cycle), bankClock := Nat.max s.bankClock o.stamp }
    let without := fun k : Core => k.modEng fun e => { e with phaserOps := rest }
    have core : (u.modCore c without).core c = without (s.core c) := State.core_modCore_same u c without
    have there : Table.get (u.modCore c without).chipPhasers {} o.index = actedOn p o c s.cycle := Table.get_put_same ..
    refine ⟨u.modCore c without, chipPhaserPerform_acts hq clear front before, by rw [core]; rfl, fun md act => ?_, fun m act member => ?_,
      fun act => ?_, fun j hj => Table.get_put_other _ _ _ hj, by rw [core]; rfl, fun d hd => State.core_modCore_other u without hd, rfl, rfl⟩
    · rw [there]
      simp only [actedOn, act]
      cases md <;> exact ⟨rfl, rfl⟩
    · rw [there]
      simp only [actedOn, act, member]
      exact ⟨rfl, member_setMember (m' := { m with q := m.q + 1 }) member rfl rfl⟩
    · rw [there]
      exact actedOn_leave c s.cycle act

/-! ### Operations on a chip phaser at their issue (R294-R297) -/

theorem decHandle_chip (mode : PhMode) {i : Nat} (hi : i < 512) :
    decHandle (2 ^ 15 + 2 ^ 14 + encPhMode mode * 2 ^ 12 + i) = some (true, i, mode) := by
  have fields : bitAt (2 ^ 15 + 2 ^ 14 + encPhMode mode * 2 ^ 12 + i) 15 = true ∧ bitAt (2 ^ 15 + 2 ^ 14 + encPhMode mode * 2 ^ 12 + i) 14 = true ∧
      bits (2 ^ 15 + 2 ^ 14 + encPhMode mode * 2 ^ 12 + i) 0 9 = i ∧
      bits (2 ^ 15 + 2 ^ 14 + encPhMode mode * 2 ^ 12 + i) 12 2 = encPhMode mode := by
    cases mode <;> simp only [encPhMode, bitAt, bits, beq_iff_eq] <;> omega
  obtain ⟨h15, h14, hidx, hmode⟩ := fields
  rw [decHandle, if_pos h15, h14, hidx, hmode]
  cases mode <;> rfl

theorem withHandle_chip {s : State} {h : BitVec 4} {i : Nat} {mode : PhMode} (hi : i < 512)
    (word : s.cur.handle h.toNat = 2 ^ 15 + 2 ^ 14 + encPhMode mode * 2 ^ 12 + i) (eff : Nat → Bool → Nat → PhMode → State) :
    s.withHandle h false eff = eff h.toNat true i mode := by
  have index : s.cur.handleIndex h false = some h.toNat := rfl
  rw [State.withHandle, index]
  simp only [word, decHandle_chip mode hi]

/-- What an operation on a chip phaser leaves as it is. -/
def ChipFrame (s t : State) : Prop :=
  turnFrame s t ∧ t.cur.seq.flight = s.cur.seq.flight ∧ t.clusters = s.clusters ∧ t.tasks = s.tasks ∧ t.cur.eng.evq = s.cur.eng.evq

/-- A state with other chip phasers and another count of identities. -/
def withChip (s : State) (cp : Table Phaser) (id : Nat) : State := { s with chipPhasers := cp, nextId := id }

theorem ChipFrame.of {s : State} {f : Core → Core} (keeps : KeepsStorage f s.cur) (flight : (f s.cur).seq.flight = s.cur.seq.flight)
    (evq : (f s.cur).eng.evq = s.cur.eng.evq) (cp : Table Phaser) (id : Nat) : ChipFrame s ((withChip s cp id).modCur f) := by
  have cur : ((withChip s cp id).modCur f).cur = f s.cur := State.cur_modCur (withChip s cp id) f
  refine ⟨turnFrame_stamped s keeps rfl rfl rfl rfl, ?_, rfl, rfl, ?_⟩
  · rw [cur, flight]
  · rw [cur, evq]

theorem chipIndex_sendStamp (s : State) (i : Nat) : (s.sendStamp s.turn).chipIndex i = s.chipIndex i := by
  have cur : (s.sendStamp s.turn).core s.turn = sendsStamp true s.cur := State.cur_modCur s _
  have task : (s.sendStamp s.turn).taskOf s.turn = s.taskOf s.turn := by
    rw [State.taskOf, cur]
    rfl
  have pasid : (s.sendStamp s.turn).pasidOf s.turn = s.pasidOf s.turn := by rw [State.pasidOf, State.pasidOf, task]
  show ((s.sendStamp s.turn).ctx ((s.sendStamp s.turn).pasidOf s.turn)).phbase + i = (s.ctx (s.pasidOf s.turn)).phbase + i
  rw [pasid]
  rfl

theorem queued_sendStamp (s : State) (i : Nat) (act : PhaserAct) : queued (s.sendStamp s.turn) i act = queued s i act := by
  funext k
  simp only [queued, phaserOpHere, chipIndex_sendStamp]
  rfl

theorem queue_stamped (s : State) (i : Nat) (act : PhaserAct) : (s.sendStamp s.turn).queuePhaserOp i act =
    (withChip s s.chipPhasers (s.nextId + 1)).modCur fun k => queued s i act (sendsStamp true k) := by
  rw [queuePhaserOp_eq, queued_sendStamp]
  exact State.modCur_modCur (withChip s s.chipPhasers (s.nextId + 1)) (sendsStamp true) _

/-- An operation has been queued for a chip phaser. -/
def HasQueued (s t : State) (n τ : Nat) (act : PhaserAct) : Prop :=
  ∃ o, t.cur.eng.phaserOps = s.cur.eng.phaserOps ++ [o] ∧ o.act = act ∧ o.index = n ∧ o.tid = τ ∧ o.rank = s.cur.rank ∧ o.clearAt = none

section
variable {g : Guard} {h : BitVec 4} {i τ : Nat} {mode : PhMode} {s : State} (on : s.cur.on g = true) (hτ : s.cur.task = some τ)
  (hi : i < 512) (fresh : s.cur.seq.hold = none) (word : s.cur.handle h.toNat = 2 ^ 15 + 2 ^ 14 + encPhMode mode * 2 ^ 12 + i)

include on hi word in
theorem chipSig_refused (silent : mode = .w) : exec (.phsig g h false) s = .next (s.issueFault .y 0x0F) := by
  show execPhsig g h false s = _
  simp only [execPhsig, on, withHandle_chip hi word, silent, Bool.not_true, Bool.false_eq_true, if_false]
  rfl

include on hi word in
theorem chipWait_refused (deaf : mode = .s) : exec (.phwait g h false) s = .next (s.issueFault .y 0x0F) := by
  show execPhwait g h false s = _
  simp only [execPhwait, on, withHandle_chip hi word, deaf, Bool.not_true, Bool.false_eq_true, if_false]
  rfl

include on hi word in
theorem chipSw_refused (half : mode ≠ .sw) : exec (.phsw g h false) s = .next (s.issueFault .y 0x0F) := by
  have : (mode != .sw) = true := bne_iff_ne.mpr half
  show execPhsw g h false s = _
  simp only [execPhsw, on, withHandle_chip hi word, this, Bool.not_true, Bool.false_eq_true, if_false, if_true]

/-- The task has no signal of the phaser on its way. -/
def noSignal (k : Core) (n τ : Nat) : Prop := ∀ o ∈ k.eng.phaserOps, o.index = n → o.tid = τ → o.act ≠ .signal

theorem pendingSignals_zero {k : Core} {n τ : Nat} : decide (0 < pendingSignals k n τ) = false ↔ noSignal k n τ := by
  rw [decide_eq_false_iff_not, Nat.not_lt, Nat.le_zero, pendingSignals, List.length_eq_zero_iff, List.filter_eq_nil_iff]
  refine forall_congr' fun o => forall_congr' fun _ => ?_
  simp

theorem sigHeld_member {m : Member} (here : s.memberHere true i = some m) :
    s.sigHeld true i = (m.q != (Table.get s.chipPhasers {} (s.chipIndex i)).phase || decide (0 < pendingSignals s.cur (s.chipIndex i) s.tidHere)) := by
  rw [State.sigHeld, here]
  rfl

theorem sigHeld_stranger (here : s.memberHere true i = none) :
    s.sigHeld true i = (!pendingJoin s.cur (s.chipIndex i) s.tidHere || decide (0 < pendingSignals s.cur (s.chipIndex i) s.tidHere)) := by
  rw [State.sigHeld, here]
  rfl

include on hi word in
theorem chipSig_held (speaks : mode ≠ .w) (held : s.sigHeld true i = true) : exec (.phsig g h false) s = .next (s.holdFor .y .ywait) := by
  show execPhsig g h false s = _
  simp only [execPhsig, on, withHandle_chip hi word, signals_of speaks, held, Bool.true_or, Bool.not_true, Bool.false_eq_true, if_false, if_true]

include on hi word fresh in
theorem chipWait_held (listens : mode ≠ .s) (held : s.waitHeld true i false = true) : exec (.phwait g h false) s = .next (s.holdFor .y .ywait) := by
  have calm : s.wasHeld = false := by rw [State.wasHeld, fresh]
  have hears : (mode == .s) = false := beq_eq_false_iff_ne.mpr listens
  show execPhwait g h false s = _
  simp only [execPhwait, on, withHandle_chip hi word, hears, calm, held, Bool.not_true, Bool.false_eq_true, if_false, if_true]

/-- The core in issue behind a signal to a chip phaser. -/
def hasSignalled (s : State) (i : Nat) (k : Core) : Core := queued s i .signal (sendsStamp true k)

theorem signalStep_chip (s : State) (i : Nat) : s.signalStep true i =
    (withChip s s.chipPhasers (s.nextId + 1)).modCur (hasSignalled s i) := by
  simp only [State.signalStep, if_true]
  exact queue_stamped s i .signal

theorem hasQueued_of {t : State} {act : PhaserAct} (hτ : s.cur.task = some τ) (ops : t.cur.eng.phaserOps = s.cur.eng.phaserOps ++ [phaserOpHere s i act (sendsStamp true s.cur)] ∨
      t.cur.eng.phaserOps = s.cur.eng.phaserOps ++ [phaserOpHere s i act s.cur]) :
    HasQueued s t ((s.ctx (s.pasidOf s.turn)).phbase + i) τ act := by
  have tid : s.cur.task.getD 0 = τ := by rw [hτ]; rfl
  rcases ops with ops | ops
  · exact ⟨_, ops, rfl, rfl, tid, rfl, rfl⟩
  · exact ⟨_, ops, rfl, rfl, tid, rfl, rfl⟩

include on hτ hi word fresh in
theorem chipSig_queues (speaks : mode ≠ .w) (free : s.sigHeld true i = false) :
    ∃ t, exec (.phsig g h false) s = .next t ∧ HasQueued s t ((s.ctx (s.pasidOf s.turn)).phbase + i) τ .signal ∧
      t.chipPhasers = s.chipPhasers ∧ ChipFrame s t ∧ t.cur.seq.verdict = s.cur.seq.verdict := by
  obtain ⟨f, sig⟩ := sigEffect_eq (s.signalStep true i) .y 3 i []
  let F := fun k : Core => (hasSignalled s i k).modRcv f
  let t := (withChip s s.chipPhasers (s.nextId + 1)).modCur F
  have whole : (s.signalStep true i).sigEffect .y 3 i [] = t := by
    rw [sig, signalStep_chip, State.modCur_modCur]
  have cur : t.cur = F s.cur := State.cur_modCur (withChip s s.chipPhasers (s.nextId + 1)) F
  refine ⟨t, ?_, hasQueued_of hτ (.inl (by rw [cur]; rfl)), rfl, ChipFrame.of ⟨⟨_, rfl⟩, rfl, rfl, rfl⟩ rfl rfl _ _, by rw [cur]; rfl⟩
  rw [← whole]
  show execPhsig g h false s = _
  simp only [execPhsig, on, withHandle_chip hi word, signals_of speaks, free, sigLate_fresh fresh, Bool.or_false, Bool.not_true,
    Bool.false_eq_true, if_false]

/-- The chip phasers behind a wait of a member. -/
def waitedAt (s : State) (n : Nat) (m : Member) : Table Phaser :=
  Table.put s.chipPhasers n ((Table.get s.chipPhasers {} n).setMember { m with w := m.w + 1 })

theorem waitStep_chip {m : Member} (here : s.memberHere true i = some m) : ∃ f, (WaitsOn f ∧ ∀ k, (f k).eng = k.eng) ∧
    s.waitStep true i = (withChip s (waitedAt s (s.chipIndex i) m) s.nextId).modCur f := by
  let u := withChip s (waitedAt s (s.chipIndex i) m) s.nextId
  let noted := fun r : Recovery => { r with undo := (r.seg, PhaserUndo.waited true (s.chipIndex i) m) :: r.undo }
  let received := fun (n : Nat) (k : Core) => (k.modRcv noted).modRegs fun r => { r with lclock := BitVec.ofNat 40 (stampRecv r.lclock.toNat n) }
  have stampedTo : ∀ n, ((u.modCur fun k => k.modRcv noted).recvStamp u.turn n) = u.modCur (received n) := fun n => State.modCur_modCur u _ _
  have keeps : ∀ n, WaitsOn (received n) := fun n k => ⟨⟨⟨_, rfl⟩, rfl, rfl, rfl⟩, rfl, rfl, rfl, rfl⟩
  simp only [State.waitStep, here, if_true, Bool.true_or]
  split
  · exact ⟨received 0, ⟨keeps 0, fun _ => rfl⟩, stampedTo 0⟩
  · rename_i d _
    exact ⟨received d.stamp, ⟨keeps d.stamp, fun _ => rfl⟩, stampedTo d.stamp⟩

theorem waitHeld_member {m : Member} (here : s.memberHere true i = some m) :
    s.waitHeld true i false = decide ((Table.get s.chipPhasers {} (s.chipIndex i)).phase = m.w) := by
  rw [State.waitHeld, here]
  simp only [Bool.false_and]
  split
  · rename_i h
    exact (decide_eq_true h).symm
  · rename_i h
    exact (decide_eq_false h).symm

theorem waitHeld_stranger (here : s.memberHere true i = none) : s.waitHeld true i false = true := by rw [State.waitHeld, here]

/-- A member has waited at a chip phaser, whose other places are as they were. -/
def HasWaited (s t : State) (n τ : Nat) (m : Member) : Prop :=
  let p := Table.get s.chipPhasers {} n
  (Table.get t.chipPhasers {} n).member? τ s.cur.rank = some { m with w := m.w + 1 } ∧ (Table.get t.chipPhasers {} n).phase = p.phase ∧
  (Table.get t.chipPhasers {} n).arrived = p.arrived ∧ ∀ j, j ≠ n → Table.get t.chipPhasers {} j = Table.get s.chipPhasers {} j

theorem HasWaited.of {t : State} {n : Nat} {m : Member} (member : (Table.get s.chipPhasers {} n).member? τ s.cur.rank = some m)
    (h : t.chipPhasers = waitedAt s n m) : HasWaited s t n τ m := by
  have there : Table.get t.chipPhasers {} n = (Table.get s.chipPhasers {} n).setMember { m with w := m.w + 1 } := by
    rw [h]
    exact Table.get_put_same ..
  refine ⟨?_, by rw [there]; rfl, by rw [there]; rfl, fun j hj => ?_⟩
  · rw [there]
    exact member_setMember (m' := { m with w := m.w + 1 }) member rfl rfl
  · rw [h]
    exact Table.get_put_other _ _ _ hj

section
variable {m : Member} (member : (Table.get s.chipPhasers {} ((s.ctx (s.pasidOf s.turn)).phbase + i)).member? τ s.cur.rank = some m)

include on hτ hi word fresh member in
theorem chipWait_passes (listens : mode ≠ .s) (done : m.w ≠ (Table.get s.chipPhasers {} (s.chipIndex i)).phase) :
    ∃ t, exec (.phwait g h false) s = .next t ∧ HasWaited s t ((s.ctx (s.pasidOf s.turn)).phbase + i) τ m ∧
      t.cur.eng.phaserOps = s.cur.eng.phaserOps ∧ ChipFrame s t ∧ t.cur.seq.verdict = s.cur.seq.verdict := by
  have here := (memberHere_chip hτ i).trans member
  have calm : s.wasHeld = false := by rw [State.wasHeld, fresh]
  have free : s.waitHeld true i false = false := (waitHeld_member here).trans (decide_eq_false (Ne.symm done))
  have hears : (mode == .s) = false := beq_eq_false_iff_ne.mpr listens
  obtain ⟨f, ⟨waits, eng⟩, step⟩ := waitStep_chip here
  obtain ⟨v, sig⟩ := sigEffect_eq (s.waitStep true i) .y 4 i []
  let u := withChip s (waitedAt s (s.chipIndex i) m) s.nextId
  let F := fun k : Core => (f k).modRcv v
  have whole : (s.waitStep true i).sigEffect .y 4 i [] = u.modCur F := by rw [sig, step, State.modCur_modCur]
  have cur : (u.modCur F).cur = F s.cur := State.cur_modCur u F
  obtain ⟨keeps, seq, _⟩ := waits s.cur
  have seq' : (F s.cur).seq = s.cur.seq := seq
  have eng' : (F s.cur).eng = s.cur.eng := eng s.cur
  refine ⟨u.modCur F, ?_, HasWaited.of member rfl, by rw [cur, eng'], ChipFrame.of (f := F) keeps (congrArg Seq.flight seq') (congrArg Engines.evq eng') _ _,
    by rw [cur, seq']⟩
  rw [← whole]
  show execPhwait g h false s = _
  simp only [execPhwait, on, withHandle_chip hi word, hears, calm, free, Bool.not_true, Bool.false_eq_true, if_false]

/-- The core in issue behind the signal step of a `phsw`. -/
def beganSw (s : State) (i : Nat) (k : Core) : Core := signalled s.cycle (hasSignalled s i k)

include on hi word fresh in
theorem chipSw_issues (both : mode = .sw) (free : s.sigHeld true i = false) (first : s.cur.ys.phswDone = false) :
    let s1 := (withChip s s.chipPhasers (s.nextId + 1)).modCur (beganSw s i)
    exec (.phsw g h false) s = .next (if s1.waitHeld true i false then s1.holdFor .y .ywait
      else ((s1.waitStep true i).sigEffect .y 5 i []).modCur fun k => k.modYs fun y => { y with phswDone := false }) := by
  intro s1
  have merged : (s.signalStep true i).modCur (signalled s.cycle) = s1 := by
    rw [signalStep_chip, State.modCur_modCur]
    rfl
  have cur : s1.cur = beganSw s i s.cur := State.cur_modCur (withChip s s.chipPhasers (s.nextId + 1)) _
  have same : (s1.cur.seq.signalledAt != some s.cycle) = false := by
    rw [cur]
    exact bne_self_eq_false _
  have goes : (mode != .sw) = false := by rw [both]; rfl
  show execPhsw g h false s = _
  simp only [execPhsw, on, withHandle_chip hi word, goes, first, free, sigLate_fresh fresh, Bool.or_false, Bool.not_true, Bool.not_false,
    Bool.true_and, Bool.false_eq_true, if_false]
  have stepped : (s.signalStep true i).modCur (fun k => (k.modYs fun y => { y with phswDone := true }).modSeq fun q =>
      { q with signalledAt := some s.cycle }) = s1 := merged
  rw [stepped, same]

theorem chipIndex_beganSw (s : State) (i : Nat) :
    ((withChip s s.chipPhasers (s.nextId + 1)).modCur (beganSw s i)).chipIndex i = s.chipIndex i := by
  have cur : ((withChip s s.chipPhasers (s.nextId + 1)).modCur (beganSw s i)).core s.turn = beganSw s i s.cur :=
    State.cur_modCur (withChip s s.chipPhasers (s.nextId + 1)) _
  have task : ((withChip s s.chipPhasers (s.nextId + 1)).modCur (beganSw s i)).taskOf s.turn = s.taskOf s.turn := by
    rw [State.taskOf, cur]
    rfl
  have pasid : ((withChip s s.chipPhasers (s.nextId + 1)).modCur (beganSw s i)).pasidOf s.turn = s.pasidOf s.turn := by
    rw [State.pasidOf, State.pasidOf, task]
  exact congrArg (fun p => (s.ctx p).phbase + i) pasid

include hτ member in
theorem member_beganSw : ((withChip s s.chipPhasers (s.nextId + 1)).modCur (beganSw s i)).memberHere true i = some m := by
  have cur : ((withChip s s.chipPhasers (s.nextId + 1)).modCur (beganSw s i)).cur = beganSw s i s.cur :=
    State.cur_modCur (withChip s s.chipPhasers (s.nextId + 1)) _
  rw [State.memberHere, State.tidHere, cur]
  show (Table.get s.chipPhasers {} (((withChip s s.chipPhasers (s.nextId + 1)).modCur (beganSw s i)).chipIndex i)).member? (s.cur.task.getD 0) s.cur.rank = _
  rw [chipIndex_beganSw, hτ]
  exact member

include on hτ hi word fresh member in
theorem chipSw_passes (both : mode = .sw) (free : s.sigHeld true i = false) (first : s.cur.ys.phswDone = false)
    (done : m.w ≠ (Table.get s.chipPhasers {} (s.chipIndex i)).phase) :
    ∃ t, exec (.phsw g h false) s = .next t ∧ HasQueued s t ((s.ctx (s.pasidOf s.turn)).phbase + i) τ .signal ∧
      HasWaited s t ((s.ctx (s.pasidOf s.turn)).phbase + i) τ m ∧ ChipFrame s t ∧ t.cur.ys.phswDone = false ∧
      t.cur.seq.verdict = s.cur.seq.verdict := by
  let s1 := (withChip s s.chipPhasers (s.nextId + 1)).modCur (beganSw s i)
  have there : s1.memberHere true i = some m := member_beganSw hτ member
  have index : s1.chipIndex i = s.chipIndex i := chipIndex_beganSw s i
  have passes : s1.waitHeld true i false = false :=
    (waitHeld_member there).trans (decide_eq_false (by rw [index]; exact Ne.symm done))
  obtain ⟨f, ⟨waits, eng⟩, step⟩ := waitStep_chip there
  obtain ⟨v, sig⟩ := sigEffect_eq (s1.waitStep true i) .y 5 i []
  let u := withChip s (waitedAt s (s.chipIndex i) m) (s.nextId + 1)
  let F := fun k : Core => ((f (beganSw s i k)).modRcv v).modYs fun y => { y with phswDone := false }
  have whole : ((s1.waitStep true i).sigEffect .y 5 i []).modCur (fun k => k.modYs fun y => { y with phswDone := false }) = u.modCur F := by
    rw [sig, step, index, State.modCur_modCur, State.modCur_modCur]
    exact State.modCur_modCur u (beganSw s i) _
  have cur : (u.modCur F).cur = F s.cur := State.cur_modCur u F
  obtain ⟨⟨⟨n, regs⟩, sp, ls, arr⟩, seq, _⟩ := waits (beganSw s i s.cur)
  have keeps : KeepsStorage F s.cur := ⟨⟨n, regs.trans rfl⟩, sp, ls, arr⟩
  have seq' : (F s.cur).seq = (beganSw s i s.cur).seq := seq
  have eng' : (F s.cur).eng = (beganSw s i s.cur).eng := eng _
  refine ⟨u.modCur F, ?_, hasQueued_of hτ (.inl (by rw [cur, eng']; rfl)), HasWaited.of member rfl,
    ChipFrame.of (f := F) keeps (congrArg Seq.flight seq' :) (congrArg Engines.evq eng' :) _ _, by rw [cur]; rfl, by rw [cur, seq']; rfl⟩
  rw [chipSw_issues on hi fresh word both free first, ← whole]
  exact congrArg Host.Outcome.next (if_neg (Bool.eq_false_iff.mp passes))

include on hτ hi word fresh member in
theorem chipSw_waits (both : mode = .sw) (free : s.sigHeld true i = false) (first : s.cur.ys.phswDone = false)
    (open_ : m.w = (Table.get s.chipPhasers {} (s.chipIndex i)).phase) :
    ∃ t, exec (.phsw g h false) s = .next t ∧ HasQueued s t ((s.ctx (s.pasidOf s.turn)).phbase + i) τ .signal ∧
      t.chipPhasers = s.chipPhasers ∧ ChipFrame s t ∧ t.cur.ys.phswDone = true ∧ t.cur.seq.verdict = .held := by
  let u := withChip s s.chipPhasers (s.nextId + 1)
  let s1 := u.modCur (beganSw s i)
  have there : s1.memberHere true i = some m := member_beganSw hτ member
  have held : s1.waitHeld true i false = true :=
    (waitHeld_member there).trans (decide_eq_true (by rw [show s1.chipIndex i = s.chipIndex i from chipIndex_beganSw s i]; exact open_.symm))
  let F := fun k : Core => (beganSw s i k).modSeq fun q =>
    { q with hold := some ⟨.ywait, Slot.y.num⟩, verdict := .held, fronted := q.fronted || HoldCause.ywait == HoldCause.frontier }
  have whole : s1.holdFor .y .ywait = u.modCur F := State.modCur_modCur u (beganSw s i) _
  have cur : (u.modCur F).cur = F s.cur := State.cur_modCur u F
  obtain ⟨⟨⟨n, regs⟩, sp, ls, arr⟩, _, _, _⟩ := sendsStamp_keeps true s.cur
  refine ⟨u.modCur F, ?_, hasQueued_of hτ (.inl (by rw [cur]; rfl)), rfl, ChipFrame.of (f := F) ⟨⟨n, regs⟩, sp, ls, arr⟩ rfl rfl _ _,
    by rw [cur]; rfl, by rw [cur]; rfl⟩
  rw [chipSw_issues on hi fresh word both free first, ← whole]
  exact congrArg Host.Outcome.next (if_pos held)

end

include on hτ hi word in
theorem chipDrop_queues : ∃ t, exec (.phdrop g h false) s = .next t ∧ HasQueued s t ((s.ctx (s.pasidOf s.turn)).phbase + i) τ .leave ∧
    t.chipPhasers = s.chipPhasers ∧ ChipFrame s t ∧ Table.get t.cur.ys.y 0 h.toNat = BitVec.ofNat 16 (2 ^ 14 + encPhMode mode * 2 ^ 12 + i) ∧
    t.cur.seq.verdict = s.cur.seq.verdict := by
  let sends := signals mode && !s.sigHeld true i
  let s0 := if sends = true then s.sendStamp s.turn else s
  let u := withChip s s.chipPhasers (s.nextId + 1)
  let cleared := setHandle h.toNat fun k => BitVec.ofNat 16 (k.handle h.toNat % 2 ^ 15)
  obtain ⟨f, sig⟩ := sigEffect_eq (s0.queuePhaserOp i .leave) .y 2 i []
  let F := fun k : Core => cleared ((queued s i .leave (sendsStamp sends k)).modRcv f)
  have stepped : s0.queuePhaserOp i .leave = u.modCur fun k => queued s i .leave (sendsStamp sends k) := by
    cases hs : sends
    · simp only [s0, hs, Bool.false_eq_true, if_false]
      rfl
    · simp only [s0, hs, if_true]
      exact queue_stamped s i .leave
  have whole : ((s0.queuePhaserOp i .leave).sigEffect .y 2 i []).modCur cleared = u.modCur F := by
    rw [sig, stepped, State.modCur_modCur, State.modCur_modCur]
  have cur : (u.modCur F).cur = F s.cur := State.cur_modCur u F
  obtain ⟨⟨⟨n, regs⟩, sp, ls, arr⟩, seq, ys, eng⟩ := sendsStamp_keeps sends s.cur
  have same : ((queued s i .leave (sendsStamp sends s.cur)).modRcv f).handle h.toNat = 2 ^ 15 + (2 ^ 14 + encPhMode mode * 2 ^ 12 + i) := by
    show (Table.get (sendsStamp sends s.cur).ys.y 0 h.toNat).toNat = _
    rw [ys]
    exact word.trans (by omega)
  have low : 2 ^ 14 + encPhMode mode * 2 ^ 12 + i < 2 ^ 15 := by cases mode <;> simp only [encPhMode] <;> omega
  have ops : (u.modCur F).cur.eng.phaserOps = s.cur.eng.phaserOps ++ [phaserOpHere s i .leave (sendsStamp sends s.cur)] := by
    rw [cur]
    exact congrArg (fun e : Engines => e.phaserOps ++ [phaserOpHere s i .leave (sendsStamp sends s.cur)]) eng
  refine ⟨u.modCur F, ?_, hasQueued_of hτ ?_, rfl, ChipFrame.of (f := F) ⟨⟨n, regs⟩, sp, ls, arr⟩ (congrArg Seq.flight seq :) (congrArg Engines.evq eng :) _ _,
    ?_, (congrArg (fun k : Core => k.seq.verdict) cur).trans (congrArg Seq.verdict seq)⟩
  · rw [← whole]
    show execPhdrop g h false s = _
    simp only [execPhdrop, on, withHandle_chip hi word, Bool.not_true, Bool.false_eq_true, if_false, if_true]
    rfl
  · cases hs : sends
    · rw [hs] at ops
      exact .inr ops
    · rw [hs] at ops
      exact .inl ops
  · refine (congrArg (fun k : Core => Table.get k.ys.y 0 h.toNat) cur).trans ((setHandle_get _ _ _).trans ?_)
    rw [same, Nat.add_mod_left, Nat.mod_eq_of_lt low]

end

/-! ### Futures (R303, R304) -/

theorem poolRead_byte {s : State} {c : Nat} (idle : (s.core c).eng.atomics = []) (a : Nat) :
    s.poolRead c a 1 = [(s.clu (c / 8)).pool.read a] := by
  simp only [State.poolRead, idle, List.filter_nil, List.reverse_nil, List.find?_nil]
  rfl

theorem cellFull_eq {s : State} {c : Nat} (idle : (s.core c).eng.atomics = []) (cell : Nat) :
    s.cellFull c cell = ((s.clu (c / 8)).pool.read (cell + 8)).getLsbD 0 := by
  rw [State.cellFull, poolRead_byte idle, bitAt_eq_testBit]
  exact congrArg (Nat.testBit · 0) (Nat.add_zero _)

theorem dependOnPool_modCur (s : State) (f : Core → Core) (a n : Nat) :
    ∃ v : Recovery → Recovery, (s.modCur f).dependOnPool s.turn a n = s.modCur fun k => (f k).modRcv v := by
  unfold State.dependOnPool
  dsimp only
  split
  · exact ⟨id, rfl⟩
  · exact ⟨_, State.modCur_modCur s f _⟩

/-- The core in issue behind a wait for a future that was full. -/
def wokenBy (stamp : Nat) (v : Recovery → Recovery) (k : Core) : Core :=
  (((k.modRegs fun r => { r with lclock := BitVec.ofNat 40 (stampRecv r.lclock.toNat stamp) }).modRcv v).modSeq fun q => { q with waitFrom := 0 })

theorem fwait_cases (g : Guard) (a : SSrc) (s : State) (on : s.cur.on g = true) (fresh : s.cur.seq.hold = none) (idle : s.cur.eng.atomics = []) :
    let cell := (s.cur.readS a).toNat
    let cl := s.turn / 8
    let full := ((s.clu cl).pool.read (cell + 8)).getLsbD 0
    (cell % 16 ≠ 0 ∨ 2 ^ 25 ≤ cell → exec (.fwait g a) s = .next (s.issueFault .y 0x0F)) ∧
    (cell % 16 = 0 → cell < 2 ^ 25 → s.poolBound s.turn < cell + 16 → exec (.fwait g a) s = .next (s.execFault .y 0x0A)) ∧
    (cell % 16 = 0 → cell + 16 ≤ s.poolBound s.turn → full = true →
      ∃ t, exec (.fwait g a) s = .next t ∧ turnFrame s t ∧ t.cur.ys = s.cur.ys ∧ t.cur.seq.verdict = s.cur.seq.verdict ∧
        t.cur.seq.flight = s.cur.seq.flight ∧ (t.clu cl).pool = (s.clu cl).pool ∧ t.tasks = s.tasks) ∧
    (cell % 16 = 0 → cell + 16 ≤ s.poolBound s.turn → full = false →
      ∃ t, exec (.fwait g a) s = .next t ∧ t.cur.seq.verdict = .held ∧
        (t.cur.seq.hold.map fun x => (x.cause, x.slot)) = some (.ywait, 8) ∧ t.cur.seq.waitAt = some (s.cur.seq.waitAt.getD s.cycle) ∧
        t.cur.seq.waitCell = cell ∧ t.clusters = s.clusters ∧ turnFrame s t) := by
  intro cell cl full
  have calm : s.wasHeld = false := by rw [State.wasHeld, fresh]
  have isFull : s.cellFull s.turn cell = full := cellFull_eq idle cell
  have bound : ∀ n, n + 16 ≤ s.poolBound s.turn → n < 2 ^ 25 := fun n h => by
    have : s.poolBound s.turn ≤ Config.poolMax := Nat.min_le_right _ _
    have : Config.poolMax = 20 * 2 ^ 20 := rfl
    omega
  have fits : ∀ n : Nat, n % 16 = 0 → n < 2 ^ 25 → (n % 16 != 0 || n / 2 ^ 25 != 0) = false := fun n h h' => by
    have : n / 2 ^ 25 = 0 := Nat.div_eq_of_lt h'
    rw [h, this]
    rfl
  refine ⟨fun bad => ?_, fun aligned small beyond => ?_, fun aligned within isSet => ?_, fun aligned within clear => ?_⟩
  · have : (cell % 16 != 0 || cell / 2 ^ 25 != 0) = true := by
      rcases bad with h | h
      · simp [h]
      · have : (cell / 2 ^ 25 != 0) = true := bne_iff_ne.mpr (by omega)
        rw [this, Bool.or_true]
    show execFwait g a s = _
    simp only [execFwait, on, Bool.not_true, Bool.false_eq_true, if_false]
    exact congrArg Host.Outcome.next (if_pos this)
  · show execFwait g a s = _
    simp only [execFwait, on, Bool.not_true, Bool.false_eq_true, if_false]
    refine congrArg Host.Outcome.next ((if_neg ?_).trans (if_pos beyond))
    exact Bool.eq_false_iff.mp (fits cell aligned small)
  · let left := fun c : Cluster => { c with waits := c.waits.filter fun w => !(w.tid == s.tidHere && w.rank == s.cur.rank) }
    let received := fun k : Core => k.modRegs fun r => { r with lclock := BitVec.ofNat 40 (stampRecv r.lclock.toNat (s.clu cl).syncClock) }
    obtain ⟨v, depends⟩ := dependOnPool_modCur s received cell 16
    let u := s.modClu cl left
    let w := (((s.recvStamp s.turn (s.clu cl).syncClock).dependOnPool s.turn cell 16).modClu cl left).modCur
      fun k => k.modSeq fun q => { q with waitFrom := 0 }
    have woken : w = u.modCur (wokenBy (s.clu cl).syncClock v) := by
      have : w = ((s.modCur fun k => (received k).modRcv v).modClu cl left).modCur fun k => k.modSeq fun q => { q with waitFrom := 0 } := by
        rw [← depends]
        rfl
      rw [this]
      exact State.modCur_modCur u (fun k => (received k).modRcv v) _
    obtain ⟨f, sig⟩ := sigEffect_eq w .y 7 cell []
    let F := fun k : Core => (wokenBy (s.clu cl).syncClock v k).modRcv f
    have whole : w.sigEffect .y 7 cell [] = u.modCur F := by rw [sig, woken, State.modCur_modCur]
    have cur : (u.modCur F).cur = F s.cur := State.cur_modCur u F
    have pool : ((u.modCur F).clu cl).pool = (s.clu cl).pool := by
      have : (u.modCur F).clu cl = left (s.clu cl) := State.clu_modClu_same s cl left
      rw [this]
    refine ⟨u.modCur F, ?_, turnFrame_stamped s (f := F) ⟨⟨_, rfl⟩, rfl, rfl, rfl⟩ rfl rfl rfl rfl, by rw [cur]; rfl, by rw [cur]; rfl,
      by rw [cur]; rfl, pool, rfl⟩
    rw [← whole]
    show execFwait g a s = _
    simp only [execFwait, on, calm, Bool.not_true, Bool.not_false, Bool.false_eq_true, if_false, if_true]
    refine congrArg Host.Outcome.next ((if_neg (Bool.eq_false_iff.mp (fits cell aligned (bound cell within)))).trans
      ((if_neg (Nat.not_lt.mpr within)).trans (if_pos (isFull.trans isSet))))
  · let noted := fun q : Seq => { q with waitAt := some (q.waitAt.getD s.cycle), waitCell := cell }
    let holds := fun q : Seq => { q with hold := some ⟨.ywait, Slot.y.num⟩, verdict := .held, fronted := q.fronted || HoldCause.ywait == HoldCause.frontier }
    let F := fun k : Core => (k.modSeq noted).modSeq holds
    have whole : s.holdFwait cell = s.modCur F := State.modCur_modCur s (fun k => k.modSeq noted) fun k => k.modSeq holds
    have cur : (s.modCur F).cur = F s.cur := State.cur_modCur s F
    refine ⟨s.modCur F, ?_, by rw [cur]; rfl, by rw [cur]; rfl, by rw [cur]; rfl, by rw [cur]; rfl, rfl,
      turnFrame_stamped s (f := F) ⟨⟨_, rfl⟩, rfl, rfl, rfl⟩ rfl rfl rfl rfl⟩
    rw [← whole]
    show execFwait g a s = _
    simp only [execFwait, on, calm, Bool.not_true, Bool.not_false, Bool.false_eq_true, if_false, if_true]
    refine congrArg Host.Outcome.next ((if_neg (Bool.eq_false_iff.mp (fits cell aligned (bound cell within)))).trans
      ((if_neg (Nat.not_lt.mpr within)).trans (if_neg (Bool.eq_false_iff.mp (isFull.trans clear)))))

theorem enterWait_cases (c : Nat) (s : State) (h : Hold) (held : (s.core c).seq.hold = some h) (cause : h.cause = .ywait)
    (waits : (s.core c).seq.waitAt ≠ none) (first : (s.core c).seq.waitFrom = 0) (unreleased : (s.core c).seq.releaseAt = none) :
    let e : WaitEntry := { cell := (s.core c).seq.waitCell, tid := (s.core c).task.getD 0, rank := (s.core c).rank }
    let k := s.clu (c / 8)
    let put := fun (w : Cluster) => s.modClu (c / 8) fun _ => w
    (e ∈ k.waits → s.enterWait c = s) ∧
    (e ∉ k.waits → k.waits.length < 256 → s.enterWait c = put { k with waits := k.waits ++ [e] }) ∧
    (e ∉ k.waits → 256 ≤ k.waits.length →
      ((s.enterWait c).clu (c / 8)).fpoll.toNat = min (k.fpoll.toNat + 1) (2 ^ 32 - 1) ∧
      ((s.enterWait c).clu (c / 8)).waits = k.waits ∧
      ((s.enterWait c).core c).seq = { (s.core c).seq with waitFrom := s.cycle + 128 } ∧
      ∀ d, d ≠ c → (s.enterWait c).core d = s.core d) := by
  intro e k put
  have known : (s.core c).seq.waitAt.isNone = false := by
    cases hw : (s.core c).seq.waitAt with
    | none => exact absurd hw waits
    | some x => rfl
  have begins : ∀ b : Bool, k.waits.contains e = b → s.enterWait c = if b = true then s
      else if k.waits.length < Config.waitEntries then s.modClu (c / 8) fun x => { x with waits := x.waits ++ [e] }
      else (s.modClu (c / 8) fun x => { x with fpoll := if x.fpoll = BitVec.allOnes 32 then x.fpoll else x.fpoll + 1 }).modCore c
        fun k => k.modSeq fun q => { q with waitFrom := s.cycle + Config.pollCycles } := by
    intro b hb
    rw [← hb]
    simp only [State.enterWait, held, cause, known, first, unreleased, bne_self_eq_false, Option.isSome_none, Bool.or_false, Bool.false_or,
      beq_self_eq_true, Bool.not_true]
    rfl
  refine ⟨fun mem => begins true (List.elem_iff.mpr mem), fun out room => ?_, fun out full => ?_⟩
  · have absent : k.waits.contains e = false := Bool.eq_false_iff.mpr fun h => out (List.elem_iff.mp h)
    exact (begins false absent).trans (if_pos (show k.waits.length < Config.waitEntries from room))
  · have absent : k.waits.contains e = false := Bool.eq_false_iff.mpr fun h => out (List.elem_iff.mp h)
    have polls := (begins false absent).trans (if_neg (show ¬k.waits.length < Config.waitEntries from Nat.not_lt.mpr full))
    rw [polls]
    let counts := fun x : Cluster => { x with fpoll := if x.fpoll = BitVec.allOnes 32 then x.fpoll else x.fpoll + 1 }
    have clu : (s.modClu (c / 8) counts).clu (c / 8) = counts k := State.clu_modClu_same s (c / 8) counts
    refine ⟨?_, (congrArg Cluster.waits clu :), ?_, fun d hd => State.core_modCore_other (s.modClu (c / 8) counts) _ hd⟩
    · refine (congrArg (fun x : Cluster => x.fpoll.toNat) clu).trans ?_
      show (if k.fpoll = BitVec.allOnes 32 then k.fpoll else k.fpoll + 1).toNat = _
      have lt := k.fpoll.isLt
      by_cases h : k.fpoll = BitVec.allOnes 32
      · rw [if_pos h, h]
        rfl
      · have : k.fpoll.toNat ≠ 2 ^ 32 - 1 := fun e => h (BitVec.eq_of_toNat_eq e)
        rw [if_neg h, BitVec.toNat_add]
        simp
        omega
    · exact congrArg Core.seq (State.core_modCore_same (s.modClu (c / 8) counts) c _)

theorem futurePoll_cases (c a : Nat) (s : State) (cell : s.fwaitCell c = some a) (polls : (s.core c).seq.waitFrom ≠ 0)
    (due : (s.core c).seq.waitFrom ≤ s.cycle) (idle : (s.core c).eng.atomics = []) :
    let full := ((s.clu (c / 8)).pool.read (a + 8)).getLsbD 0
    let put := fun (q : Seq) => Host.Outcome.next (s.setCore c { s.core c with seq := q })
    (full = true → exec (.futurePoll c) s = put { (s.core c).seq with releaseAt := some (s.cycle + 1), waitFrom := 0 }) ∧
    (full = false → exec (.futurePoll c) s = put { (s.core c).seq with waitFrom := (s.core c).seq.waitFrom + 128 }) := by
  intro full put
  have isFull : s.cellFull c a = full := cellFull_eq idle a
  have now : (decide ((s.core c).seq.waitFrom = 0) || decide (s.cycle < (s.core c).seq.waitFrom)) = false := by
    simp [polls, Nat.not_lt.mpr due]
  refine ⟨fun isSet => ?_, fun clear => ?_⟩
  · show execFuturePoll c s = _
    simp only [execFuturePoll, cell, now, isFull, isSet, Bool.false_eq_true, if_false, if_true]
    rfl
  · show execFuturePoll c s = _
    simp only [execFuturePoll, cell, now, isFull, clear, Bool.false_eq_true, if_false]
    rfl

/-- Settles O34. -/
theorem chipPhasersAndFutures : Obligations.ChipPhasersAndFutures := by
  refine ⟨chip_performs, fun g h i τ mode s on hτ hi fresh first _ => ?_, fwait_cases, enterWait_cases, futurePoll_cases⟩
  intro n p code wordIs isQueued frame none_
  have code_eq : code = encPhMode mode := by cases mode <;> rfl
  have small : 2 ^ 15 + 2 ^ 14 + encPhMode mode * 2 ^ 12 + i < 2 ^ 16 := by cases mode <;> simp only [encPhMode] <;> omega
  have word : s.cur.handle h.toNat = 2 ^ 15 + 2 ^ 14 + encPhMode mode * 2 ^ 12 + i := by
    rw [Core.handle, wordIs, BitVec.toNat_ofNat, code_eq, Nat.mod_eq_of_lt small]
  have tid := tidHere_eq hτ
  have clear : none_ → decide (0 < pendingSignals s.cur n τ) = false := pendingSignals_zero.mpr
  have pending : ¬none_ → decide (0 < pendingSignals s.cur n τ) = true := fun h =>
    Bool.eq_true_of_not_eq_false fun e => h (pendingSignals_zero.mp e)
  refine ⟨chipSig_refused on hi word, chipWait_refused on hi word, chipSw_refused on hi word, fun stranger => ?_, fun m member => ?_, ?_⟩
  · have here := (memberHere_chip hτ i).trans stranger
    have held := sigHeld_stranger here
    rw [tid] at held
    intro joining
    refine ⟨fun speaks why => chipSig_held on hi word speaks (held.trans ?_), fun speaks joins quiet => chipSig_queues on hτ hi fresh word speaks (held.trans ?_),
      fun listens => chipWait_held on hi fresh word listens (waitHeld_stranger here)⟩
    · rcases why with none | some
      · rw [show pendingJoin s.cur (s.chipIndex i) τ = false from pendingJoin_none none]
        rfl
      · rw [show decide (0 < pendingSignals s.cur (s.chipIndex i) τ) = true from pending some, Bool.or_true]
    · obtain ⟨o, ho, index, task, act⟩ := joins
      have joined : pendingJoin s.cur (s.chipIndex i) τ = true :=
        List.any_eq_true.mpr ⟨o, ho, by rw [act]; simp [task]; exact index⟩
      rw [joined, show decide (0 < pendingSignals s.cur (s.chipIndex i) τ) = false from clear quiet]
      rfl
  · have here := (memberHere_chip hτ i).trans member
    have held := sigHeld_member here
    rw [tid] at held
    have free : m.q = p.phase → none_ → s.sigHeld true i = false := fun owed quiet => held.trans (by
      rw [show decide (0 < pendingSignals s.cur (s.chipIndex i) τ) = false from clear quiet, Bool.or_false, owed]
      exact bne_self_eq_false _)
    intro waited
    refine ⟨fun speaks why => chipSig_held on hi word speaks (held.trans ?_), fun speaks owed quiet => chipSig_queues on hτ hi fresh word speaks (free owed quiet),
      fun listens open_ => chipWait_held on hi fresh word listens ((waitHeld_member here).trans (decide_eq_true open_.symm)),
      fun listens done => chipWait_passes on hτ hi fresh word member listens done,
      fun both owed quiet done => chipSw_passes on hτ hi fresh word member both (free owed quiet) first done,
      fun both owed quiet open_ => chipSw_waits on hτ hi fresh word member both (free owed quiet) first open_⟩
    rcases why with given | some
    · rw [show (m.q != (Table.get s.chipPhasers {} (s.chipIndex i)).phase) = true from bne_iff_ne.mpr given, Bool.true_or]
    · rw [show decide (0 < pendingSignals s.cur (s.chipIndex i) τ) = true from pending some, Bool.or_true]
  · rw [code_eq]
    exact chipDrop_queues on hτ hi word

end Sys2Proof.Machine
end

section
/-!
PROOFS. Rotating bases, token requests and hops, waits for records, and next tiles (R299, R310-R315).
-/
namespace Sys2Proof.Machine

/-! ### Rotating base and token requests (R299, R311) -/

/-- Outside a rerun a signature leaves the record of the recovery as it is. -/
theorem sigEffect_calm {s : State} (sl : Slot) (kind addr : Nat) (bs : List Byte) : ∃ f : Recovery → Recovery,
    (s.sigEffect sl kind addr bs = s.modCur fun k => k.modRcv f) ∧ (s.cur.rcv.rerun = none → f s.cur.rcv = s.cur.rcv) := by
  cases calm : s.cur.rcv.rerun with
  | some r =>
    obtain ⟨f, sig⟩ := sigEffect_eq s sl kind addr bs
    exact ⟨f, sig, fun h => absurd h (by simp)⟩
  | none =>
    refine ⟨id, congrArg (s.setCore s.turn) ?_, fun _ => rfl⟩
    show s.cur.sigNote s.cur.seq.stream sl _ = s.cur.modRcv id
    unfold Core.sigNote
    rw [calm]
    rfl

/-- What an operation on the Y state of its core does. -/
def YsBecomes (s : State) (i : Instr) (y : YState) : Prop :=
  ∃ t, exec i s = .next t ∧ t.cur.ys = y ∧ t.cur.regs = s.cur.regs ∧ t.cur.seq = s.cur.seq ∧ t.cur.eng = s.cur.eng ∧ turnFrame s t ∧
    t.clusters = s.clusters ∧ t.tasks = s.tasks ∧ (s.cur.rcv.rerun = none → t.cur.rcv = s.cur.rcv)

theorem YsBecomes.of {s : State} {i : Instr} (f : YState → YState) {kind addr : Nat} {bs : List Byte}
    (h : exec i s = .next ((s.modCur fun k => k.modYs f).sigEffect .y kind addr bs)) : YsBecomes s i (f s.cur.ys) := by
  obtain ⟨v, sig, calm⟩ := sigEffect_calm (s := s.modCur fun k => k.modYs f) .y kind addr bs
  have cur1 : (s.modCur fun k => k.modYs f).cur = s.cur.modYs f := State.cur_modCur s _
  rw [cur1] at calm
  let F := fun k : Core => (k.modYs f).modRcv v
  have whole : (s.modCur fun k => k.modYs f).sigEffect .y kind addr bs = s.modCur F := by rw [sig, State.modCur_modCur]
  have cur : (s.modCur F).cur = F s.cur := State.cur_modCur s F
  refine ⟨s.modCur F, by rw [h, whole], by rw [cur]; rfl, by rw [cur]; rfl, by rw [cur]; rfl, by rw [cur]; rfl,
    turnFrame_modCur s rfl rfl rfl rfl, rfl, rfl, fun quiet => ?_⟩
  rw [cur]
  exact calm quiet

theorem bases_and_requests (g : Guard) (d : BitVec 3) (s : State) (on : s.cur.on g = true) :
    YsBecomes s (.pbaseInit g d) { s.cur.ys with rdepth := d.toNat + 1, rbase := 0 } ∧
    YsBecomes s (.pbase g) { s.cur.ys with rbase := (s.cur.ys.rbase + 1) % s.cur.ys.rdepth } ∧
    YsBecomes s (.tokacq g) { s.cur.ys with tokreq := true } ∧ YsBecomes s (.tokrel g) { s.cur.ys with tokreq := false } :=
  ⟨.of (fun y => { y with rdepth := d.toNat + 1, rbase := 0 }) (congrArg Host.Outcome.next (if_pos on)),
   .of (fun y => { y with rbase := (y.rbase + 1) % y.rdepth }) (congrArg Host.Outcome.next (if_pos on)),
   .of (fun y => { y with tokreq := true }) (congrArg Host.Outcome.next (if_pos on)),
   .of (fun y => { y with tokreq := false }) (congrArg Host.Outcome.next (if_pos on))⟩

/-! ### Waits for records (R315) -/

/-- The core of a turn has received a stamp for each of some records; nothing else of the state changes. -/
theorem recvStamps_eq (l : List EvRecord) (s : State) (c : Nat) (hc : c = s.turn) (hl : l ≠ []) :
    ∃ n, l.foldl (fun t r => t.recvStamp c r.stamp) s = s.modCur fun k => k.modRegs fun q => { q with lclock := n } := by
  subst hc
  induction l using List.reverseRecOn with
  | nil => exact absurd rfl hl
  | append_singleton l r ih =>
    rw [List.foldl_append]
    by_cases h : l = []
    · subst h
      exact ⟨_, rfl⟩
    · obtain ⟨n, hn⟩ := ih h
      rw [hn]
      exact ⟨BitVec.ofNat 40 (stampRecv n.toNat r.stamp), State.modCur_modCur s (fun k => k.modRegs fun q => { q with lclock := n })
        fun k => k.modRegs fun q => { q with lclock := BitVec.ofNat 40 (stampRecv q.lclock.toNat r.stamp) }⟩

theorem evwait_cases (g : Guard) (n : Byte) (s : State) (on : s.cur.on g = true) :
    (n = 0 ∨ 128 < n.toNat → exec (.evwait g n) s = .next (s.issueFault .y 0x0F)) ∧
    (0 < n.toNat → n.toNat ≤ 128 → s.cur.eng.evq.length < n.toNat → exec (.evwait g n) s = .next (s.holdFor .y .records)) ∧
    (0 < n.toNat → n.toNat ≤ 128 → n.toNat ≤ s.cur.eng.evq.length →
      ∃ t, exec (.evwait g n) s = .next t ∧ t.cur.eng = s.cur.eng ∧ t.cur.seq = s.cur.seq ∧ t.cur.ys = s.cur.ys ∧
        turnFrame s t ∧ t.clusters = s.clusters ∧ t.tasks = s.tasks) := by
  have counted : 0 < n.toNat → n.toNat ≤ 128 → (decide (n.toNat = 0) || decide (128 < n.toNat)) = false := fun h h' => by
    simp [Nat.pos_iff_ne_zero.mp h, Nat.not_lt.mpr h']
  refine ⟨fun bad => ?_, fun some few short => ?_, fun some few enough => ?_⟩
  · have : (decide (n.toNat = 0) || decide (128 < n.toNat)) = true := by
      rcases bad with h | h
      · rw [h]; rfl
      · simp [h]
    show execEvwait g n s = _
    simp only [execEvwait, on, this, Bool.not_true, Bool.false_eq_true, if_false, if_true]
  · show execEvwait g n s = _
    simp only [execEvwait, on, counted some few, short, Bool.not_true, Bool.false_eq_true, if_false, if_true]
  · have taken : s.cur.eng.evq.take n.toNat ≠ [] := fun h => by
      have := congrArg List.length h
      rw [List.length_take, List.length_nil] at this
      omega
    obtain ⟨m, received⟩ := recvStamps_eq (s.cur.eng.evq.take n.toNat) s s.turn rfl taken
    let f := fun k : Core => k.modRegs fun q => { q with lclock := m }
    obtain ⟨v, sig⟩ := sigEffect_eq (s.modCur f) .y 17 0 (leBytes 1 n.toNat)
    let F := fun k : Core => (f k).modRcv v
    have whole : (s.modCur f).sigEffect .y 17 0 (leBytes 1 n.toNat) = s.modCur F := by rw [sig, State.modCur_modCur]
    have cur : (s.modCur F).cur = F s.cur := State.cur_modCur s F
    refine ⟨s.modCur F, ?_, by rw [cur]; rfl, by rw [cur]; rfl, by rw [cur]; rfl, turnFrame_stamped s (f := F) ⟨⟨_, rfl⟩, rfl, rfl, rfl⟩ rfl rfl rfl rfl,
      rfl, rfl⟩
    rw [← whole]
    show execEvwait g n s = _
    simp only [execEvwait, on, counted some few, received, Nat.not_lt.mpr enough, Bool.not_true, Bool.false_eq_true, if_false]
    rfl

/-! ### Token hops (R310) -/

/-- One token of a die moves on, stays, or stays on its way. -/
def hop (die : Nat) (s : State) (t : Token) : State :=
  let cl := 6 * die + t.pos
  if s.cycle < t.hopAt then s.modDie die fun d => { d with tokens := d.tokens ++ [t] }
  else if s.needsToken cl && !(s.clu cl).hasToken then s.modClu cl fun c => { c with hasToken := true }
  else if 0 < (s.die die).surplus && !s.needsToken cl then s.modDie die fun d => { d with surplus := d.surplus - 1 }
  else s.modDie die fun d => { d with tokens := d.tokens ++ [{ pos := (t.pos + 1) % 6, hopAt := s.cycle + Config.hopCycles }] }

theorem die_modDie (s : State) (d : Nat) (f : Die → Die) : (s.modDie d f).die d = f (s.die d) := Table.get_put_same ..

/-- The hop of the one token of a die of which no cluster holds one. -/
theorem tokenHop_eq {d : Nat} {x : Token} {s : State} (tokens : (s.die d).tokens = [x])
    (none : ∀ i, i < 6 → (s.clu (6 * d + i)).hasToken = false) :
    exec (.tokenHop d) s = .next (hop d (s.modDie d fun y => { y with tokens := [] }) x) := by
  have freed : ((List.range 6).filter fun i => (s.clu (6 * d + i)).hasToken && !s.needsToken (6 * d + i)) = [] :=
    List.filter_eq_nil_iff.mpr fun i hi => by simp [none i (List.mem_range.mp hi)]
  have same : ((s.modDie d fun y => { y with tokens := y.tokens ++ [] }).die d).tokens = [x] := by
    rw [die_modDie]
    exact (List.append_nil _).trans tokens
  have emptied : (s.modDie d fun y => { y with tokens := y.tokens ++ [] }).modDie d (fun y => { y with tokens := [] }) =
      s.modDie d fun y => { y with tokens := [] } := by
    show ({ s with dies := Table.put (Table.put s.dies d _) d ({ (s.modDie d _).die d with tokens := [] }) } : State) = _
    rw [Table.put_put, die_modDie]
    rfl
  show execTokenHop d s = _
  simp only [execTokenHop, freed, List.foldl_nil, List.map_nil, same, emptied, List.foldl_cons]
  rfl

theorem tokens_hop (d pos at_ : Nat) (s : State) (inside : pos < 6) (tokens : (s.die d).tokens = [⟨pos, at_⟩]) (calm : (s.die d).surplus = 0)
    (none : ∀ i, i < 6 → (s.clu (6 * d + i)).hasToken = false) :
    ∃ t, exec (.tokenHop d) s = .next t ∧ t.cores = s.cores ∧ t.tasks = s.tasks ∧ t.pmem = s.pmem ∧
      (∀ c, (t.clu c).pool = (s.clu c).pool ∧ (t.clu c).held = (s.clu c).held) ∧
      (s.cycle < at_ → (t.die d).tokens = [⟨pos, at_⟩] ∧ ∀ c, (t.clu c).hasToken = (s.clu c).hasToken) ∧
      (at_ ≤ s.cycle → s.needsToken (6 * d + pos) = true → (t.die d).tokens = [] ∧ (t.clu (6 * d + pos)).hasToken = true) ∧
      (at_ ≤ s.cycle → s.needsToken (6 * d + pos) = false →
        (t.die d).tokens = [⟨(pos + 1) % 6, s.cycle + 4⟩] ∧ ∀ c, (t.clu c).hasToken = (s.clu c).hasToken) := by
  let u := s.modDie d fun y => { y with tokens := [] }
  have emptied : (u.die d).tokens = [] := by rw [die_modDie]
  have surplus : (u.die d).surplus = 0 := by rw [die_modDie]; exact calm
  have needs : u.needsToken (6 * d + pos) = s.needsToken (6 * d + pos) := rfl
  have free : (u.clu (6 * d + pos)).hasToken = false := none pos inside
  have issued := tokenHop_eq tokens none
  have keeps : ∀ f : Die → Die, ((u.modDie d f).die d) = f (u.die d) := fun f => die_modDie u d f
  by_cases early : s.cycle < at_
  · have whole : hop d u ⟨pos, at_⟩ = u.modDie d fun y => { y with tokens := y.tokens ++ [⟨pos, at_⟩] } := if_pos early
    refine ⟨_, issued, ?_⟩
    rw [show (s.modDie d fun y => { y with tokens := [] }) = u from rfl, whole]
    refine ⟨rfl, rfl, rfl, fun c => ⟨rfl, rfl⟩, fun _ => ⟨?_, fun c => rfl⟩, fun h => absurd early (Nat.not_lt.mpr h), fun h => absurd early (Nat.not_lt.mpr h)⟩
    rw [keeps]
    exact congrArg (· ++ [(⟨pos, at_⟩ : Token)]) emptied
  · cases need : s.needsToken (6 * d + pos) with
    | true =>
      have whole : hop d u ⟨pos, at_⟩ = u.modClu (6 * d + pos) fun c => { c with hasToken := true } := by
        refine (if_neg early).trans (if_pos ?_)
        rw [needs, need, free]
        rfl
      refine ⟨_, issued, ?_⟩
      rw [show (s.modDie d fun y => { y with tokens := [] }) = u from rfl, whole]
      refine ⟨rfl, rfl, rfl, fun c => ?_, fun h => absurd h early, fun _ _ => ⟨emptied, ?_⟩, fun _ h => absurd h (by simp)⟩
      · by_cases hc : c = 6 * d + pos
        · rw [hc, State.clu_modClu_same]
          exact ⟨rfl, rfl⟩
        · rw [State.clu_modClu_other u _ hc]
          exact ⟨rfl, rfl⟩
      · rw [State.clu_modClu_same]
    | false =>
      have whole : hop d u ⟨pos, at_⟩ = u.modDie d fun y => { y with tokens := y.tokens ++ [⟨(pos + 1) % 6, s.cycle + 4⟩] } := by
        refine (if_neg early).trans ((if_neg ?_).trans (if_neg ?_))
        · rw [needs, need]
          exact Bool.false_ne_true
        · rw [surplus]
          exact Bool.false_ne_true
      refine ⟨_, issued, ?_⟩
      rw [show (s.modDie d fun y => { y with tokens := [] }) = u from rfl, whole]
      refine ⟨rfl, rfl, rfl, fun c => ⟨rfl, rfl⟩, fun h => absurd h early, fun _ h => absurd h (by simp), fun _ _ => ⟨?_, fun c => rfl⟩⟩
      rw [keeps]
      exact congrArg (· ++ [(⟨(pos + 1) % 6, s.cycle + 4⟩ : Token)]) emptied

/-! ### Next tiles (R312, R313) -/

theorem dependOnPool_eq (s : State) (a n : Nat) :
    s.dependOnPool s.turn a n = s ∨ ∃ v : Recovery → Recovery, s.dependOnPool s.turn a n = s.modCur fun k => k.modRcv v := by
  unfold State.dependOnPool
  dsimp only
  split
  · exact .inl rfl
  · exact .inr ⟨_, rfl⟩

/-- The value of a next tile, as its rule gives it. -/
theorem tileValue_eq (T nx ny order rest i : Nat) : tileValue T nx ny order rest i =
    if T ≤ i ∨ nx = 0 ∨ ny = 0 ∨ 1 < order ∨ rest ≠ 0 then 2 ^ 64 - 1
    else i / (nx * ny) * 2 ^ 32 + (if order = 0 then i / nx % ny else i % ny) * 2 ^ 16 + (if order = 0 then i % nx else i / ny % nx) := by
  unfold tileValue
  by_cases h : T ≤ i ∨ nx = 0 ∨ ny = 0 ∨ 1 < order ∨ rest ≠ 0
  · rw [if_pos h, if_pos]
    simpa [or_assoc] using h
  · rw [if_neg h, if_neg]
    simpa [or_assoc] using h

/-- The core in issue behind a next-tile request. -/
def requested (n v : Nat) (k : Core) : Core :=
  (k.push .y 64 (.s (60 + n)) v (ones 64) 0 true).modYs fun q => { q with ntc := (q.ntc + 1) % 2 ^ 64, ntp := (q.ntp + 1) % 4 }

theorem ntile_cases (g : Guard) (a b : SSrc) (s : State) (on : s.cur.on g = true) (idle : s.cur.eng.atomics = []) :
    let d := (s.cur.readS a).toNat
    let w := (s.cur.readS b).toNat
    let r := w % 2 ^ 16
    let P := w / 2 ^ 16
    let m := fun (o n : Nat) => (s.clu (s.turn / 8)).pool.readLE (d + o) n
    let T := m 0 4
    let nx := m 4 2
    let ny := m 6 2
    let order := m 8 1
    let i := s.cur.ys.ntc * P + r
    let v := if T ≤ i ∨ nx = 0 ∨ ny = 0 ∨ 1 < order ∨ m 9 7 ≠ 0 then 2 ^ 64 - 1
      else i / (nx * ny) * 2 ^ 32 + (if order = 0 then i / nx % ny else i % ny) * 2 ^ 16 +
        (if order = 0 then i % nx else i / ny % nx)
    (d % 16 ≠ 0 ∨ 2 ^ 25 ≤ d ∨ 2 ^ 32 ≤ w ∨ P ≤ r → exec (.ntile g a b) s = .next (s.issueFault .y 0x0F)) ∧
    (d % 16 = 0 → d < 2 ^ 25 → w < 2 ^ 32 → r < P → s.poolBound s.turn < d + 16 →
      exec (.ntile g a b) s = .next (s.execFault .y 0x0A)) ∧
    (d % 16 = 0 → w < 2 ^ 32 → r < P → d + 16 ≤ s.poolBound s.turn →
      ∃ t, exec (.ntile g a b) s = .next t ∧
        t.cur.seq = { s.cur.seq with flight := s.cur.seq.flight ++
          [{ due := s.cur.seq.stream + 64, slot := .y, dest := .s (60 + s.cur.ys.ntp), val := v, mask := 2 ^ 64 - 1,
             issued := s.cur.seq.stream, kept := true }] } ∧
        t.cur.ys = { s.cur.ys with ntc := (s.cur.ys.ntc + 1) % 2 ^ 64, ntp := (s.cur.ys.ntp + 1) % 4 } ∧
        turnFrame s t ∧ t.clusters = s.clusters ∧ t.tasks = s.tasks) := by
  intro d w r P m T nx ny order i v
  have reads : ∀ o n, leNat (s.poolRead s.turn (d + o) n) = m o n := fun o n => congrArg leNat (poolRead_idle idle (d + o) n)
  have low : bits w 0 16 = r := congrArg (· % 2 ^ 16) (Nat.div_one w)
  have high : w < 2 ^ 32 → bits w 16 16 = P := fun h => Nat.mod_eq_of_lt (by omega)
  have issued : exec (.ntile g a b) s = .next (if (d % 16 != 0 || d / 2 ^ 25 != 0 || w / 2 ^ 32 != 0 || decide (bits w 16 16 ≤ bits w 0 16)) = true
      then s.issueFault .y 0x0F else if s.poolBound s.turn < d + 16 then s.execFault .y 0x0A
      else ((s.dependOnPool s.turn d 16).modCur (requested s.cur.ys.ntp (tileValue (m 0 4) (m 4 2) (m 6 2) (m 8 1) (m 9 7)
        (s.cur.ys.ntc * bits w 16 16 + bits w 0 16)))).sigEffect .y 15 d (leBytes 8 w)) := by
    rw [← reads 0 4, ← reads 4 2, ← reads 6 2, ← reads 8 1, ← reads 9 7]
    show execNtile g a b s = _
    simp only [execNtile, on, Bool.not_true, Bool.false_eq_true, if_false]
    rfl
  have allowed : d % 16 = 0 → d < 2 ^ 25 → w < 2 ^ 32 → r < P →
      ¬(d % 16 != 0 || d / 2 ^ 25 != 0 || w / 2 ^ 32 != 0 || decide (bits w 16 16 ≤ bits w 0 16)) = true := fun aligned small narrow inside => by
    rw [high narrow, low, aligned, Nat.div_eq_of_lt small, Nat.div_eq_of_lt narrow, decide_eq_false (Nat.not_le.mpr inside)]
    decide
  refine ⟨fun bad => ?_, fun aligned small narrow inside beyond => ?_, fun aligned narrow inside within => ?_⟩
  · refine issued.trans (congrArg Host.Outcome.next (if_pos ?_))
    by_cases wide : 2 ^ 32 ≤ w
    · have : (w / 2 ^ 32 != 0) = true := bne_iff_ne.mpr (by omega)
      rw [this, Bool.or_true, Bool.true_or]
    · rw [high (Nat.not_le.mp wide), low]
      rcases bad with h | h | h | h
      · simp [h]
      · have : (d / 2 ^ 25 != 0) = true := bne_iff_ne.mpr (by omega)
        rw [this, Bool.or_true, Bool.true_or, Bool.true_or]
      · exact absurd h wide
      · rw [decide_eq_true h, Bool.or_true]
  · exact issued.trans (congrArg Host.Outcome.next ((if_neg (allowed aligned small narrow inside)).trans (if_pos beyond)))
  · have small : d < 2 ^ 25 := by
      have : s.poolBound s.turn ≤ Config.poolMax := Nat.min_le_right _ _
      have : Config.poolMax = 20 * 2 ^ 20 := rfl
      omega
    have passes := issued.trans (congrArg Host.Outcome.next ((if_neg (allowed aligned small narrow inside)).trans (if_neg (Nat.not_lt.mpr within))))
    rw [high narrow, low, tileValue_eq] at passes
    obtain ⟨f, sig⟩ := sigEffect_eq ((s.dependOnPool s.turn d 16).modCur (requested s.cur.ys.ntp v)) .y 15 d (leBytes 8 w)
    obtain ⟨x, whole⟩ : ∃ x : Recovery → Recovery, ((s.dependOnPool s.turn d 16).modCur (requested s.cur.ys.ntp v)).sigEffect .y 15 d (leBytes 8 w) =
        s.modCur fun k => (requested s.cur.ys.ntp v (k.modRcv x)).modRcv f := by
      rcases dependOnPool_eq s d 16 with h | ⟨x, h⟩
      · exact ⟨id, by rw [sig, h, State.modCur_modCur]; rfl⟩
      · exact ⟨x, by rw [sig, h, State.modCur_modCur, State.modCur_modCur]⟩
    let F := fun k : Core => (requested s.cur.ys.ntp v (k.modRcv x)).modRcv f
    have cur : (s.modCur F).cur = F s.cur := State.cur_modCur s F
    refine ⟨s.modCur F, passes.trans (congrArg Host.Outcome.next whole), by rw [cur]; rfl, by rw [cur]; rfl, turnFrame_modCur s rfl rfl rfl rfl, rfl, rfl⟩

/-- Settles O35. -/
theorem basesTokensAndTiles : Obligations.BasesTokensAndTiles := by
  refine ⟨fun g d n s on => ?_, tokens_hop, ntile_cases⟩
  obtain ⟨init, base, acquires, releases⟩ := bases_and_requests g d s on
  exact ⟨init, base, acquires, releases, evwait_cases g n s on⟩

end Sys2Proof.Machine
end

section
/-!
PROOFS. Dependence counters (R262, R306-R309).
-/
namespace Sys2Proof.Machine

/-! ### Counter operations at their issue (R306) -/

theorem modStage_modStage (s : State) (n : Nat) (f g : Stage → Stage) : (s.modStage n f).modStage n g = s.modStage n fun x => g (f x) := by
  have stage : (s.modStage n f).stage n = f (s.stage n) := State.stage_modStage_same ..
  have twice : Table.put (s.modStage n f).stages n (g ((s.modStage n f).stage n)) = Table.put s.stages n (g (f (s.stage n))) := by
    rw [stage]
    exact Table.put_put ..
  exact congrArg (fun l => ({ s with stages := l } : State)) twice

/-- A counter operation has been queued: it has the next number of its stage and waits to be strike-clear. -/
def CounterQueued (s : State) (o : Host.Outcome State Fault Refusal) (counter : Nat) (what : Option (Nat × Successor)) : Prop :=
  let st := s.stageOf s.turn
  ∃ u y, o = .next u ∧ (u.stage st).ctrOps = (s.stage st).ctrOps ++ [y] ∧ y.number = (s.stage st).ctrNext ∧
    y.core = s.turn ∧ y.counter = counter ∧ y.set = what ∧ y.clearAt = none ∧ (u.stage st).ctrNext = (s.stage st).ctrNext + 1 ∧
    turnFrame s u ∧ u.cur.seq = s.cur.seq ∧ u.counters = s.counters ∧ u.clusters = s.clusters

/-- A stage with one more counter operation. -/
def withCounterOp (y : CounterOp) (g : Stage) : Stage := { g with ctrNext := g.ctrNext + 1, ctrOps := g.ctrOps ++ [y] }

/-- The newest rewind point notes the number that an operation has taken, for a rerun (R306). -/
def notesNumber (n : Nat) (r : Recovery) : Recovery :=
  { r with rps := match r.rps with
      | p :: ps => { p with numbers := if p.numbers.contains n then p.numbers else p.numbers ++ [n] } :: ps
      | [] => [] }

theorem queueCounterOp_eq {s : State} (fresh : s.cur.rcv.reuse = []) (counter : Nat) (what : Option (Nat × Successor)) :
    ∃ y v, (y.number = (s.stage (s.stageOf s.turn)).ctrNext ∧ y.core = s.turn ∧ y.counter = counter ∧ y.set = what ∧ y.clearAt = none) ∧
      s.queueCounterOp counter what =
        (s.modStage (s.stageOf s.turn) (withCounterOp y)).modCur fun k => sendsStamp true (k.modRcv v) := by
  let st := s.stageOf s.turn
  let num := (s.stage st).ctrNext
  let F := fun k : Core => sendsStamp true (k.modRcv (notesNumber num))
  let u := s.modStage st fun g => { g with ctrNext := g.ctrNext + 1 }
  let s3 := (u.modCur fun k => k.modRcv (notesNumber num)).sendStamp s.turn
  let y : CounterOp := { number := num, core := s.turn, seg := s.cur.rcv.seg, counter := counter, set := what, tid := s.tidHere,
                         addr := s.cur.seq.pc, stamp := s3.stampOf s.turn }
  refine ⟨y, notesNumber num, ⟨rfl, rfl, rfl, rfl, rfl⟩, ?_⟩
  have numbered : s.queueCounterOp counter what = s3.modStage st fun g => { g with ctrOps := g.ctrOps ++ [y] } := by
    simp only [State.queueCounterOp, fresh]
    rfl
  have stamped : s3 = u.modCur F := State.modCur_modCur u _ _
  rw [numbered, stamped]
  exact congrArg (fun t : State => t.modCur F) (modStage_modStage s st (fun g => { g with ctrNext := g.ctrNext + 1 })
    fun g => { g with ctrOps := g.ctrOps ++ [y] })

theorem CounterQueued.of {s : State} (fresh : s.cur.rcv.reuse = []) (counter : Nat) (what : Option (Nat × Successor)) (kind addr : Nat) (bs : List Byte) :
    CounterQueued s (.next ((s.queueCounterOp counter what).sigEffect .y kind addr bs)) counter what := by
  obtain ⟨y, v, ⟨number, core, index, set, clearAt⟩, queued⟩ := queueCounterOp_eq fresh counter what
  obtain ⟨f, sig⟩ := sigEffect_eq (s.queueCounterOp counter what) .y kind addr bs
  let st := s.stageOf s.turn
  let w := s.modStage st (withCounterOp y)
  let F := fun k : Core => (sendsStamp true (k.modRcv v)).modRcv f
  have whole : (s.queueCounterOp counter what).sigEffect .y kind addr bs = w.modCur F := by rw [sig, queued, State.modCur_modCur]
  have stage : (w.modCur F).stage st = withCounterOp y (s.stage st) := State.stage_modStage_same ..
  have cur : (w.modCur F).cur = F s.cur := State.cur_modCur w F
  refine ⟨w.modCur F, y, congrArg Host.Outcome.next whole, by rw [stage]; rfl, number, core, index, set, clearAt, by rw [stage]; rfl,
    turnFrame_stamped s (f := F) ⟨⟨_, rfl⟩, rfl, rfl, rfl⟩ rfl rfl rfl rfl, by rw [cur]; rfl, rfl, rfl⟩

section
variable {g : Guard} {s : State} (on : s.cur.on g = true)
include on

theorem dctrDec_cases (n : BitVec 6) :
    let v := (s.cur.readSReg n.toNat).toNat
    let x := s.ctx (s.pasidOf s.turn)
    (2 ^ 16 ≤ v → exec (.dctrDec g n) s = .next (s.issueFault .y 0x0F)) ∧
    (v < 2 ^ 16 → x.dccount ≤ v → exec (.dctrDec g n) s = .next (s.issueFault .y 0x0A)) ∧
    (v < 2 ^ 16 → v < x.dccount → s.speculative s.turn = true → exec (.dctrDec g n) s = .next (s.holdFor .y .frontier)) ∧
    (v < 2 ^ 16 → v < x.dccount → s.speculative s.turn = false → s.cur.rcv.reuse = [] →
      CounterQueued s (exec (.dctrDec g n) s) (x.dcbase + v) none) := by
  intro v x
  have issued : exec (.dctrDec g n) s = .next (if (v / 2 ^ 16 != 0) = true then s.issueFault .y 0x0F
      else if x.dccount ≤ v then s.issueFault .y 0x0A else if s.speculative s.turn = true then s.holdFor .y .frontier
      else (s.queueCounterOp (x.dcbase + v) none).sigEffect .y 8 v []) := by
    show execDctrDec g n s = _
    simp only [execDctrDec, on, Bool.not_true, Bool.false_eq_true, if_false]
    rfl
  have narrow : v < 2 ^ 16 → ¬(v / 2 ^ 16 != 0) = true := fun h => by rw [Nat.div_eq_of_lt h]; decide
  refine ⟨fun wide => ?_, fun small out => ?_, fun small inside spec => ?_, fun small inside calm fresh => ?_⟩
  · exact issued.trans (congrArg Host.Outcome.next (if_pos (bne_iff_ne.mpr (by omega))))
  · exact issued.trans (congrArg Host.Outcome.next ((if_neg (narrow small)).trans (if_pos out)))
  · exact issued.trans (congrArg Host.Outcome.next ((if_neg (narrow small)).trans ((if_neg (Nat.not_le.mpr inside)).trans (if_pos spec))))
  · rw [issued.trans (congrArg Host.Outcome.next ((if_neg (narrow small)).trans ((if_neg (Nat.not_le.mpr inside)).trans
      (if_neg (Bool.eq_false_iff.mp calm)))))]
    exact CounterQueued.of fresh _ _ _ _ _

theorem dctrSet_cases (n k t : BitVec 6) :
    let v := (s.cur.readSReg n.toNat).toNat
    let kv := (s.cur.readSReg k.toNat).toNat
    let x := s.ctx (s.pasidOf s.turn)
    let st := s.stageOf s.turn
    let kind := TaskKind.ofCode (kv / 2 ^ 32 % 4)
    let budget := Table.get (s.progOf s.turn).budgets 0 kind.code
    (v / 2 ^ 16 % 2 ^ 24 = 0 ∨ 2 ^ 40 ≤ v ∨ 2 ^ 34 ≤ kv ∨ budget = 0 → exec (.dctrSet g n k t) s = .next (s.issueFault .y 0x0F)) ∧
    (v / 2 ^ 16 ≠ 0 → v < 2 ^ 40 → kv < 2 ^ 34 → budget ≠ 0 → x.dccount ≤ v % 2 ^ 16 →
      exec (.dctrSet g n k t) s = .next (s.issueFault .y 0x0A)) ∧
    (v / 2 ^ 16 ≠ 0 → v < 2 ^ 40 → kv < 2 ^ 34 → budget ≠ 0 → v % 2 ^ 16 < x.dccount → s.speculative s.turn = true →
      exec (.dctrSet g n k t) s = .next (s.holdFor .y .frontier)) ∧
    (v / 2 ^ 16 ≠ 0 → v < 2 ^ 40 → kv < 2 ^ 34 → budget ≠ 0 → v % 2 ^ 16 < x.dccount → s.speculative s.turn = false →
      s.cur.rcv.reuse = [] → CounterQueued s (exec (.dctrSet g n k t) s) (x.dcbase + v % 2 ^ 16)
        (some (v / 2 ^ 16, { kind := kind, tag := kv % 2 ^ 32, ts := (s.cur.readSReg t.toNat).toNat, budget := budget, stage := st }))) := by
  intro v kv x st kind budget
  have low : bits v 0 16 = v % 2 ^ 16 := congrArg (· % 2 ^ 16) (Nat.div_one v)
  have tag : bits kv 0 32 = kv % 2 ^ 32 := congrArg (· % 2 ^ 32) (Nat.div_one kv)
  let su : Successor := { kind := kind, tag := kv % 2 ^ 32, ts := (s.cur.readSReg t.toNat).toNat, budget := budget, stage := st }
  let bs := leBytes 8 kv ++ leBytes 8 (s.cur.readSReg t.toNat).toNat
  have issued : exec (.dctrSet g n k t) s = .next (if (decide (bits v 16 24 = 0) || v / 2 ^ 40 != 0 || kv / 2 ^ 34 != 0 || decide (budget = 0)) = true
      then s.issueFault .y 0x0F else if x.dccount ≤ v % 2 ^ 16 then s.issueFault .y 0x0A
      else if s.speculative s.turn = true then s.holdFor .y .frontier
      else (s.queueCounterOp (x.dcbase + v % 2 ^ 16) (some (bits v 16 24, su))).sigEffect .y 9 (v % 2 ^ 16) bs) := by
    show execDctrSet g n k t s = _
    simp only [su, ← low, ← tag]
    simp only [execDctrSet, on, Bool.not_true, Bool.false_eq_true, if_false]
    rfl
  have allowed : v / 2 ^ 16 ≠ 0 → v < 2 ^ 40 → kv < 2 ^ 34 → budget ≠ 0 → bits v 16 24 = v / 2 ^ 16 ∧
      ¬(decide (bits v 16 24 = 0) || v / 2 ^ 40 != 0 || kv / 2 ^ 34 != 0 || decide (budget = 0)) = true := fun some narrow fields paid => by
    have whole : bits v 16 24 = v / 2 ^ 16 := Nat.mod_eq_of_lt (by omega)
    refine ⟨whole, ?_⟩
    rw [whole, Nat.div_eq_of_lt narrow, Nat.div_eq_of_lt fields, decide_eq_false some, decide_eq_false paid]
    decide
  refine ⟨fun bad => ?_, fun some narrow fields paid out => ?_, fun some narrow fields paid inside spec => ?_,
    fun some narrow fields paid inside calm fresh => ?_⟩
  · refine issued.trans (congrArg Host.Outcome.next (if_pos ?_))
    rcases bad with h | h | h | h
    · rw [decide_eq_true (show bits v 16 24 = 0 from h)]
      rfl
    · have : (v / 2 ^ 40 != 0) = true := bne_iff_ne.mpr (by omega)
      rw [this, Bool.or_true]
      rfl
    · have : (kv / 2 ^ 34 != 0) = true := bne_iff_ne.mpr (by omega)
      rw [this, Bool.or_true, Bool.true_or]
    · rw [decide_eq_true h, Bool.or_true]
  · exact issued.trans (congrArg Host.Outcome.next ((if_neg (allowed some narrow fields paid).2).trans (if_pos out)))
  · exact issued.trans (congrArg Host.Outcome.next ((if_neg (allowed some narrow fields paid).2).trans
      ((if_neg (Nat.not_le.mpr inside)).trans (if_pos spec))))
  · obtain ⟨whole, passes⟩ := allowed some narrow fields paid
    rw [issued.trans (congrArg Host.Outcome.next ((if_neg passes).trans ((if_neg (Nat.not_le.mpr inside)).trans
      (if_neg (Bool.eq_false_iff.mp calm))))), whole]
    exact CounterQueued.of fresh _ _ _ _ _

end

/-! ### The counter bank (R306, R308, R309) -/

/-- A stage whose oldest counter operation has been performed. -/
def counterDone (o : CounterOp) (g : Stage) : Stage :=
  { g with ctrDone := g.ctrDone + 1, ctrOps := g.ctrOps.filter fun x => x.number != o.number }

section
variable {st τ : Nat} {o : CounterOp} {s : State} (only : (s.stage st).ctrOps = [o]) (turn : o.number = (s.stage st).ctrDone)
  (clear : o.clearAt = some τ)
include only turn clear

theorem dctrPerform_early (early : s.cycle < τ) : exec (.dctrPerform st) s = .next s := by
  have found : (s.stage st).ctrOps.find? (fun x => x.number == (s.stage st).ctrDone) = some o := by
    rw [only]
    simp [turn]
  show execDctrPerform st s = _
  rw [execDctrPerform, only]
  simp [State.performCounters, found, clear, Nat.not_le.mpr early]

theorem dctrPerform_due (due : τ ≤ s.cycle) : exec (.dctrPerform st) s = .next ((s.modStage st (counterDone o)).performCounter o) := by
  have found : (s.stage st).ctrOps.find? (fun x => x.number == (s.stage st).ctrDone) = some o := by
    rw [only]
    simp [turn]
  show execDctrPerform st s = _
  rw [execDctrPerform, only]
  simp only [State.performCounters, List.length_singleton, found, clear, due, decide_true, Bool.not_true, Bool.false_or]
  cases o.set <;> rfl

omit turn clear in
theorem stage_counterDone : (s.modStage st (counterDone o)).stage st =
    { s.stage st with ctrDone := (s.stage st).ctrDone + 1, ctrOps := [] } := by
  have : (s.modStage st (counterDone o)).stage st = counterDone o (s.stage st) := State.stage_modStage_same ..
  rw [this, counterDone, only]
  simp

end

/-- The state in which an operation is performed at the bank. -/
def atBank (s : State) (st : Nat) (o : CounterOp) : State :=
  { s.modStage st (counterDone o) with bankClock := Nat.max s.bankClock o.stamp }

/-- A counter of the bank takes a value. -/
def setCounter (s : State) (n : Nat) (c : Counter) : State := { s with counters := Table.put s.counters n c }

theorem performCounter_set {s : State} {st : Nat} {o : CounterOp} {n : Nat} {su : Successor} (h : o.set = some (n, su)) :
    (s.modStage st (counterDone o)).performCounter o =
      setCounter (atBank s st o) o.counter { count := BitVec.ofNat 24 n, armed := true, succ := some su } := by
  simp only [State.performCounter, h]
  rfl

theorem performCounter_lowers {s : State} {st : Nat} {o : CounterOp} (h : o.set = none)
    (some : 1 < (Table.get s.counters {} o.counter).count.toNat) : (s.modStage st (counterDone o)).performCounter o =
      setCounter (atBank s st o) o.counter
        { Table.get s.counters {} o.counter with count := (Table.get s.counters {} o.counter).count - 1 } := by
  let c := Table.get s.counters {} o.counter
  have stored : Table.get (s.modStage st (counterDone o)).counters {} o.counter = c := rfl
  have some : 1 < c.count.toNat := some
  have here : c.count ≠ 0 := fun e => by
    have : c.count.toNat = 0 := by rw [e]; rfl
    omega
  have left : c.count - 1 ≠ 0 := fun e => by
    have := congrArg BitVec.toNat e
    rw [BitVec.toNat_sub] at this
    have lt := c.count.isLt
    simp at this
    omega
  have last : (decide (c.count - 1 = 0) && c.armed) = false := by rw [decide_eq_false left, Bool.false_and]
  simp only [State.performCounter, h, stored, here, last, if_false]
  rfl

/-- The bank behind the decrement that fires an armed counter: the counter is spent, and the successor has its number. -/
def fired (s : State) (st : Nat) (o : CounterOp) (su : Successor) : State :=
  (setCounter (atBank s st o) o.counter { count := 0, armed := false, succ := some su }).modStage su.stage
    fun g => { g with seqs := Table.put g.seqs 384 (Table.get ((s.modStage st (counterDone o)).stage su.stage).seqs 0 384 + 1) }

theorem performCounter_fires {s : State} {st : Nat} {o : CounterOp} (h : o.set = none) {su : Successor}
    (one : (Table.get s.counters {} o.counter).count = 1) (armed : (Table.get s.counters {} o.counter).armed = true)
    (succ : (Table.get s.counters {} o.counter).succ = some su) : (s.modStage st (counterDone o)).performCounter o =
      (fired s st o su).enqueueSuccessor { su with stamp := (fired s st o su).bankClock }
        (Table.get ((s.modStage st (counterDone o)).stage su.stage).seqs 0 384) := by
  let c := Table.get s.counters {} o.counter
  have stored : Table.get (s.modStage st (counterDone o)).counters {} o.counter = c := rfl
  have count : c.count = 1 := one
  have last : c.armed = true := armed
  have next : c.succ = some su := succ
  have spent : c.count - 1 = 0 := by rw [count]; rfl
  have here : c.count ≠ 0 := by rw [count]; decide
  simp only [State.performCounter, h, stored, here, spent, last, next, State.takeSeq, if_false, decide_true, Bool.and_self]
  rfl

/-- The stages behind the performance of an operation keep what a creation reads of them. -/
theorem fired_stage (s : State) (st : Nat) (o : CounterOp) (su : Successor) (n : Nat) :
    ((fired s st o su).stage n).commitPoint = (s.stage n).commitPoint ∧
      Table.get ((s.modStage st (counterDone o)).stage n).seqs 0 384 = Table.get (s.stage n).seqs 0 384 := by
  have done : ((s.modStage st (counterDone o)).stage n).commitPoint = (s.stage n).commitPoint ∧
      ((s.modStage st (counterDone o)).stage n).seqs = (s.stage n).seqs := by
    by_cases h : n = st
    · rw [h, State.stage_modStage_same]
      exact ⟨rfl, rfl⟩
    · rw [State.stage_modStage_other s _ h]
      exact ⟨rfl, rfl⟩
  refine ⟨Eq.trans ?_ done.1, by rw [done.2]⟩
  let u := setCounter (atBank s st o) o.counter { count := 0, armed := false, succ := some su }
  have same : u.stage n = (s.modStage st (counterDone o)).stage n := rfl
  rw [← same]
  by_cases h : n = su.stage
  · rw [fired, h, State.stage_modStage_same]
  · rw [fired, State.stage_modStage_other u _ h]

theorem counterUnderflow_unknown {s : State} {o : CounterOp} (unknown : s.task? o.tid = none) :
    s.counterUnderflow o = s.logPair (logWord 1 o.core 8 o.addr.toNat 0x07) (stampWord (s.pasidOf o.core) o.stamp) none := by
  simp only [State.counterUnderflow, unknown]

theorem performs (st τ : Nat) (o : CounterOp) (s : State) (only : (s.stage st).ctrOps = [o]) (turn : o.number = (s.stage st).ctrDone) :
    let c := Table.get s.counters {} o.counter
    (o.clearAt = some τ → s.cycle < τ → exec (.dctrPerform st) s = .next s) ∧
    (o.clearAt = some τ → τ ≤ s.cycle →
      (∀ n su, o.set = some (n, su) → ∃ t, exec (.dctrPerform st) s = .next t ∧
        Table.get t.counters {} o.counter = { count := BitVec.ofNat 24 n, armed := true, succ := some su } ∧
        (t.stage st).ctrOps = [] ∧ (t.stage st).ctrDone = (s.stage st).ctrDone + 1 ∧ t.tasks = s.tasks ∧ t.cores = s.cores) ∧
      (o.set = none → 1 < c.count.toNat → ∃ t, exec (.dctrPerform st) s = .next t ∧
        Table.get t.counters {} o.counter = { c with count := c.count - 1 } ∧ (t.stage st).ctrOps = [] ∧ t.tasks = s.tasks ∧
        t.cores = s.cores) ∧
      (∀ su, o.set = none → c.count = 1 → c.armed = true → c.succ = some su → su.kind ≠ .b →
        let key : Key := { ts := su.ts, origin := 384, seq := Table.get (s.stage su.stage).seqs 0 384 }
        s.isLate su.stage key = false → s.stageFull su.stage = false →
        ∃ t k, exec (.dctrPerform st) s = .next t ∧ Table.get t.counters {} o.counter = { c with count := 0, armed := false } ∧
          t.task? s.nextId = some k ∧ k.key = key ∧ k.kind = su.kind ∧ k.tag = su.tag ∧ k.budget = su.budget ∧ k.state = .ready ∧
          (∀ q, q ≠ s.nextId → t.task? q = s.task? q) ∧ t.cores = s.cores) ∧
      (o.set = none → c.count = 0 → s.task? o.tid = none → ∃ t, exec (.dctrPerform st) s = .next t ∧
        Table.get t.counters {} o.counter = c ∧ t.tasks = s.tasks ∧ t.cores = s.cores ∧
        (s.host.log = [] → s.host.dropped = 0 → t.host.log.length = 1))) := by
  intro c
  refine ⟨dctrPerform_early only turn, fun clear due => ?_⟩
  have due := dctrPerform_due only turn clear due
  have stage := stage_counterDone only
  refine ⟨fun n su set => ?_, fun dec some => ?_, fun su dec one armed succ kind => ?_, fun dec zero unknown => ?_⟩
  · rw [performCounter_set set] at due
    exact ⟨_, due, Table.get_put_same .., (congrArg Stage.ctrOps stage :), (congrArg Stage.ctrDone stage :), rfl, rfl⟩
  · rw [performCounter_lowers dec some] at due
    exact ⟨_, due, Table.get_put_same .., (congrArg Stage.ctrOps stage :), rfl, rfl⟩
  · intro key onTime room
    rw [performCounter_fires dec one armed succ, (fired_stage s st o su su.stage).2] at due
    let u := fired s st o su
    have late : u.isLate su.stage key = false := by
      rw [State.isLate, (fired_stage s st o su su.stage).1]
      exact onTime
    have full : u.stageFull su.stage = false := room
    obtain ⟨g, cs, n, m, made⟩ := create_eq u su.stage su.kind su.tag key su.budget none none u.bankClock
    have enqueued : u.enqueueSuccessor { su with stamp := u.bankClock } key.seq =
        (u.create su.stage su.kind su.tag key su.budget none none u.bankClock).2 := by
      simp only [State.enqueueSuccessor]
      exact (if_neg (Bool.eq_false_iff.mp late)).trans (if_neg (Bool.eq_false_iff.mp full))
    rw [show (fired s st o su).enqueueSuccessor _ _ = _ from enqueued, made] at due
    refine ⟨_, _, due, (Table.get_put_same ..).trans ?_, Table.get?_put_same .., rfl, rfl, rfl, rfl, rfl, fun q hq => Table.get?_put_other _ _ hq, rfl⟩
    show ({ count := 0, armed := false, succ := some su } : Counter) = { c with count := 0, armed := false }
    rw [← succ]
  · have zero' : Table.get (s.modStage st (counterDone o)).counters {} o.counter = c := rfl
    have logged : (s.modStage st (counterDone o)).performCounter o = (atBank s st o).counterUnderflow o := by
      simp only [State.performCounter, dec, zero', zero, if_true]
      rfl
    rw [logged, counterUnderflow_unknown (s := atBank s st o) unknown] at due
    have host := State.logPair_eq (atBank s st o) (logWord 1 o.core 8 o.addr.toNat 0x07) (stampWord ((atBank s st o).pasidOf o.core) o.stamp) none
    refine ⟨_, due, ?_, (congrArg State.tasks host :), (congrArg State.cores host :), fun empty none => ?_⟩
    · exact (congrArg (fun t : State => Table.get t.counters {} o.counter) host).trans rfl
    · rw [State.logPair_first (atBank s st o) _ _ _ empty none]
      rfl

/-- Settles O36. -/
theorem dependenceCounters : Obligations.DependenceCounters := by
  refine ⟨fun g n k t s on => ?_, performs⟩
  obtain ⟨wide, beyond, waits, queues⟩ := dctrDec_cases on n
  obtain ⟨bad, beyond', waits', queues'⟩ := dctrSet_cases on n k t
  exact ⟨wide, beyond, waits, queues, bad, beyond', waits', queues'⟩

end Sys2Proof.Machine
end

section
/-!
PROOFS. The answers of the stage handler (R21, R323, R324).
-/
namespace Sys2Proof.Machine

/-! ### A rewind leaves the contexts where they stand (R288, R365) -/

/-- The phases of the contexts, and whether the chip is viral, are the same. -/
def SamePhases (s t : State) : Prop := t.viral = s.viral ∧ ∀ p, (t.ctx p).phase = (s.ctx p).phase

theorem SamePhases.refl (s : State) : SamePhases s s := ⟨rfl, fun _ => rfl⟩

theorem SamePhases.trans {s t u : State} (h : SamePhases s t) (h' : SamePhases t u) : SamePhases s u :=
  ⟨h'.1.trans h.1, fun p => (h'.2 p).trans (h.2 p)⟩

theorem SamePhases.of {s t : State} (viral : t.viral = s.viral) (contexts : t.contexts = s.contexts) : SamePhases s t :=
  ⟨viral, fun p => congrArg (fun l : Table Context => (Table.get l {} p).phase) contexts⟩

/-- What each step of a fold leaves as it is, the fold leaves as it is. -/
theorem foldl_fixes {α β γ : Type} (g : β → γ) {f : β → α → β} (h : ∀ b a, g (f b a) = g b) (l : List α) (b : β) : g (l.foldl f b) = g b := by
  induction l generalizing b with
  | nil => rfl
  | cons a l ih => exact (ih (f b a)).trans (h b a)

theorem discardOps_phase (x : Context) (ops : List EngOp) : (x.discardOps ops).phase = x.phase := by
  refine (foldl_fixes Context.phase (fun y o => ?_) ops _).trans rfl
  split
  · split <;> rfl
  · split <;> rfl
  · rfl

theorem SamePhases.modCtx (s : State) (p : Nat) {f : Context → Context} (h : (f (s.ctx p)).phase = (s.ctx p).phase) : SamePhases s (s.modCtx p f) := by
  refine ⟨rfl, fun q => ?_⟩
  by_cases hq : q = p
  · rw [hq, State.ctx_modCtx_same, h]
  · rw [State.ctx_modCtx_other s f hq]

theorem SamePhases.modTask (s : State) (τ : Nat) (f : Task → Task) : SamePhases s (s.modTask τ f) := by
  unfold State.modTask
  split <;> exact SamePhases.of rfl rfl

theorem undoPhaser_phases (s : State) (c : Nat) (u : PhaserUndo) : SamePhases s (undoPhaser s c u) := by
  unfold undoPhaser
  dsimp only
  split <;> exact SamePhases.of rfl rfl

theorem SamePhases.modCore (s : State) (c : Nat) (f : Core → Core) : SamePhases s (s.modCore c f) := SamePhases.of rfl rfl

theorem rewindTo_phases (s : State) (c : Nat) (rp : RewindPoint) (left : Bool) : SamePhases s (s.rewindTo c rp left) := by
  have undone : ∀ (l : List (Nat × PhaserUndo)) (s : State), SamePhases s (l.foldl (fun s u => undoPhaser s c u.2) s) :=
    foldl_keeps SamePhases.refl SamePhases.trans fun s u => undoPhaser_phases s c u.2
  have told : ∀ (l : List Nat) (s : State), SamePhases s (l.foldl (fun (s : State) d => s.abortLater d false false) s) :=
    foldl_keeps SamePhases.refl SamePhases.trans fun s d => SamePhases.modTask s d _
  have swept : ∀ (s : State) (f : Cluster → Cluster) (g : Table Stage) (h : HostSide → HostSide),
      SamePhases s (({ s.modClu (clusterOf c) f with stages := g } : State).modHost h) := fun _ _ _ _ => SamePhases.of rfl rfl
  unfold State.rewindTo
  dsimp only
  refine SamePhases.trans ?_ (SamePhases.modCore _ _ _)
  have freed : SamePhases s (if (((s.core c).eng.opsWhere fun o => decide (rp.seg ≤ o.seg)).isEmpty && (s.ctx (s.pasidOf c)).freed.isEmpty) = true then s
      else s.modCtx (s.pasidOf c) fun x => (x.discardOps ((s.core c).eng.opsWhere fun o => decide (rp.seg ≤ o.seg))).unfree
        fun e => e.core == c && decide (rp.seg ≤ e.seg)) := by
    split
    · exact SamePhases.refl s
    · exact SamePhases.modCtx s _ (discardOps_phase _ _)
  split
  · exact (freed.trans (undone _ _)).trans (swept _ _ _ _)
  · exact (((freed.trans (undone _ _)).trans (swept _ _ _ _)).trans (told _ _)).trans (SamePhases.modTask _ _ _)

theorem rewindCurrent_phases (n : Nat) (cs : List Nat) (done : List (Nat × Nat)) (s : State) : SamePhases s (s.rewindCurrent n cs done) := by
  induction n generalizing s cs done with
  | zero => exact SamePhases.refl s
  | succ n ih =>
    have one : ∀ (l : List Nat) (s : State), SamePhases s (l.foldl (fun s c => match (s.core c).rcv.rps.head? with
        | some rp => s.rewindTo c rp false
        | none => s) s) := foldl_keeps SamePhases.refl SamePhases.trans fun s c => by
      split
      · exact rewindTo_phases s c _ false
      · exact SamePhases.refl s
    unfold State.rewindCurrent
    dsimp only
    split
    · exact one cs s
    · exact (one cs s).trans (ih _ _ _)

/-! ### Answers (R324) -/

theorem handler_resumes (τ : Nat) (k : Task) (s : State) (hk : s.task? τ = some k) :
    (k.event = none → (∀ n, exec (.handlerResume τ) s = .next s ∧ exec (.handlerExtend τ n) s = .next s ∧
      ∀ a, exec (.handlerAbort τ a) s = .next s) ∧ exec (.handlerContextFault τ) s = .next s) ∧
    (∀ e, k.event = some e →
      (e.budgetOut = false → exec (.handlerResume τ) s = .next (s.setTask τ { k with event := none })) ∧
      (e.budgetOut = true → exec (.handlerResume τ) s = .next s) ∧
      (∀ n, n = 0 ∨ 2 ^ 48 ≤ n → exec (.handlerExtend τ n) s = .next s)) := by
  have asked : ((s.task? τ).bind fun (t : Task) => t.event) = k.event := by rw [hk]; rfl
  refine ⟨fun silent => ⟨fun n => ⟨?_, ?_, fun a => ?_⟩, ?_⟩, fun e he => ⟨fun left => ?_, fun out => ?_, fun n bad => ?_⟩⟩
  · show execHandlerResume τ s = _
    simp only [execHandlerResume, asked, silent]
  · show execHandlerExtend τ n s = _
    simp only [execHandlerExtend, asked, silent]
  · show execHandlerAbort τ a s = _
    simp only [execHandlerAbort, hk, silent, Option.isNone_none, Bool.true_or, if_true]
  · show execHandlerContextFault τ s = _
    simp only [execHandlerContextFault, hk, silent]
  · show execHandlerResume τ s = _
    simp only [execHandlerResume, asked, he, left, Bool.false_eq_true, if_false, State.resumeTask, State.modTask_some hk]
  · show execHandlerResume τ s = _
    simp only [execHandlerResume, asked, he, out, if_true]
  · have : (decide (n = 0) || decide (2 ^ 48 ≤ n)) = true := by simpa using bad
    show execHandlerExtend τ n s = _
    simp only [execHandlerExtend, asked, he]
    exact if_pos this

theorem handler_extends {τ c : Nat} {k : Task} {s : State} (alone : heldAlone τ c k s) {e : HandlerEvent} (he : k.event = some e) {n : Nat}
    (some_ : 0 < n) (few : n < 2 ^ 48) (hc : c < 192) (lead : (s.core c).rank = 0) (empty : s.host.log = []) (none_ : s.host.dropped = 0) :
    ∃ t l, exec (.handlerExtend τ n) s = .next t ∧ t.task? τ = some { k with event := none, budget := n } ∧
      t.host.log = [l] ∧ l.event.toNat / 2 ^ 60 = 5 ∧ l.event.toNat % 2 ^ 26 = 4 ∧ (∀ q, q ≠ τ → t.task? q = s.task? q) ∧
      t.cores = s.cores ∧ t.pmem = s.pmem := by
  obtain ⟨hk, running, cores, task, roots⟩ := alone
  have asked : ((s.task? τ).bind fun (t : Task) => t.event) = some e := by rw [hk]; exact he
  have refused : ¬(decide (n = 0) || decide (2 ^ 48 ≤ n)) = true := by
    rw [decide_eq_false (by omega), decide_eq_false (by omega)]
    decide
  have head : ((s.coresOf τ).find? fun c => (s.core c).rank = 0).getD e.core = c := by
    rw [cores]
    simp [lead]
  let u := s.setTask τ { k with event := none, budget := n }
  have set_ : (s.modTask τ fun t => { t with budget := n }).resumeTask τ = u := by
    rw [State.modTask_some hk, State.resumeTask, State.modTask_some (State.task?_setTask_same ..)]
    exact congrArg (fun l => ({ s with tasks := l } : State)) (Table.put_put ..)
  let word := logWord 5 c 15 (s.core c).seq.pc.toNat 0x04
  have issued : exec (.handlerExtend τ n) s = .next (u.logPair word (stampWord 0 0) none) := by
    rw [← set_]
    show execHandlerExtend τ n s = _
    simp only [execHandlerExtend, asked, head]
    exact if_neg refused
  have host := State.logPair_eq u word (stampWord 0 0) none
  have value : word.toNat = 5 * 2 ^ 60 + c * 2 ^ 52 + 15 * 2 ^ 48 + (s.core c).seq.pc.toNat * 2 ^ 26 + 4 :=
    logWord_toNat (by decide) (by omega) (by decide) (BitVec.isLt _) (by decide)
  have tasks : ∀ q, (u.logPair word (stampWord 0 0) none).task? q = u.task? q := fun q => (congrArg (fun t : State => t.task? q) host :)
  have small := (s.core c).seq.pc.isLt
  refine ⟨_, _, issued, (tasks τ).trans (State.task?_setTask_same ..), State.logPair_first u word (stampWord 0 0) none empty none_, ?_, ?_,
    fun q hq => (tasks q).trans (State.task?_setTask_other s _ hq), (congrArg State.cores host :), (congrArg State.pmem host :)⟩
  · show word.toNat / 2 ^ 60 = 5
    omega
  · show word.toNat % 2 ^ 26 = 4
    omega

theorem handler_aborts {τ c : Nat} {k : Task} {s : State} (alone : heldAlone τ c k s) (first : k.abortDue = none) {e : HandlerEvent}
    (he : k.event = some e) (again : Bool) : (s.isFrontier τ = true → exec (.handlerAbort τ again) s = .next s) ∧
    (s.isFrontier τ = false → ∃ t, exec (.handlerAbort τ again) s = .next t ∧ toldToAbort τ k (again || k.tile.isSome) false s t) := by
  obtain ⟨hk, running, cores, task, roots⟩ := alone
  have live : k.inFlight = true := by rw [Task.inFlight, running]
  refine ⟨fun front => ?_, fun behind => ?_⟩
  · show execHandlerAbort τ again s = _
    simp only [execHandlerAbort, hk, front, Bool.or_true, if_true]
  · let u := s.setTask τ { k with abortDue := some (again || k.tile.isSome, false) }
    have told : s.abortLater τ (again || k.tile.isSome) false = u := by
      rw [State.abortLater, State.modTask_some hk]
      simp only [live, first, Bool.not_true, Bool.false_eq_true, if_false]
      rfl
    refine ⟨u, ?_, State.task?_setTask_same .., fun q hq => State.task?_setTask_other s _ hq, rfl, rfl, rfl, rfl, rfl⟩
    rw [← told]
    show execHandlerAbort τ again s = _
    simp only [execHandlerAbort, hk, he, behind, Option.isNone_some, Bool.or_false, Bool.false_eq_true, if_false]

theorem contextFault_stops {u : State} {p : Nat} (r : HandlerRecord) (active : (u.ctx p).phase = .active) (calm : u.viral = false) :
    ((u.contextFault p r).ctx p).phase = .stopping ∧
    (∃ f, (u.contextFault p r).host.sent.getLast? = some f ∧ f.type = 5 ∧ f.code = r.code ∧ f.pasid = p) ∧
    (u.contextFault p r).tasks = u.tasks ∧ (u.contextFault p r).cores = u.cores ∧ (u.contextFault p r).pmem = u.pmem ∧
    ∀ q, q ≠ p → (u.contextFault p r).ctx q = u.ctx q := by
  have stops : ((u.ctx p).phase == .active) = true := by rw [active]; rfl
  have whole : u.contextFault p r = (u.stopContext p 0 0).sendFrame 5 r.code p 0 0 r.bytes := by
    have silent : (u.stopContext p 0 0).viral = false := calm
    simp only [State.contextFault, stops, if_true, State.eventFrame, silent, Bool.false_eq_true, if_false]
  have phase : ((u.stopContext p 0 0).ctx p).phase = .stopping := congrArg Context.phase (State.ctx_modCtx_same u p _)
  rw [whole]
  exact ⟨phase, ⟨_, List.getLast?_concat .., rfl, rfl, rfl⟩, rfl, rfl, rfl, fun q hq => State.ctx_modCtx_other u (fun x => { x with phase := .stopping, tag := 0, command := 0 }) hq⟩

theorem handler_faults {τ c : Nat} {k : Task} {s : State} (alone : heldAlone τ c k s) (active : (s.ctx k.pasid).phase = .active)
    (calm : s.viral = false) {e : HandlerEvent} (he : k.event = some e) :
    ∃ t n f, exec (.handlerContextFault τ) s = .next t ∧ (t.ctx k.pasid).phase = .stopping ∧
      t.host.sent.getLast? = some f ∧ f.type = 5 ∧ f.code = e.code ∧ f.pasid = k.pasid ∧
      (e.budgetOut = false → t.task? τ = some n ∧ n = { k with event := none } ∧ t.cores = s.cores ∧
        (∀ p, p ≠ k.pasid → t.ctx p = s.ctx p) ∧ (∀ q, q ≠ τ → t.task? q = s.task? q) ∧ t.pmem = s.pmem) := by
  obtain ⟨hk, running, cores, task, roots⟩ := alone
  let r : HandlerRecord := { stage := k.stage, key := k.key, kind := k.kind, tag := k.tag, code := e.code, trap := e.trap, addr := e.addr,
                             slot := e.slot, budgetLeft := k.budget }
  let s1 := if e.budgetOut then s.rewindCurrent 8 (s.coresOf τ) [] else s
  let u := s1.modTask τ fun x => { x with event := none }
  have issued : exec (.handlerContextFault τ) s = .next (u.contextFault k.pasid r) := by
    show execHandlerContextFault τ s = _
    simp only [execHandlerContextFault, hk, he]
    rfl
  obtain ⟨viral, phases⟩ : SamePhases s u := by
    refine SamePhases.trans ?_ (SamePhases.modTask s1 τ _)
    by_cases out : e.budgetOut = true
    · simp only [s1, out, if_true]
      exact rewindCurrent_phases 8 _ [] s
    · simp only [s1, out]
      exact SamePhases.refl s
  obtain ⟨stopping, ⟨f, sent, type, code, pasid⟩, tasks, kept, pmem, others⟩ :=
    contextFault_stops r ((phases k.pasid).trans active) (viral.trans calm)
  refine ⟨_, { k with event := none }, f, issued, stopping, sent, type, code, pasid, fun left => ?_⟩
  have same : u = s.setTask τ { k with event := none } := by
    have : s1 = s := by simp only [s1, left, Bool.false_eq_true, if_false]
    show s1.modTask τ _ = _
    rw [this, State.modTask_some hk]
  have tasks' : (u.contextFault k.pasid r).tasks = Table.put s.tasks τ { k with event := none } := tasks.trans (congrArg State.tasks same)
  refine ⟨(congrArg (fun l => Table.get? l τ) tasks').trans (Table.get?_put_same _ _ _), rfl, kept.trans (congrArg State.cores same :),
    fun p hp => (others p hp).trans (congrArg (fun t : State => t.ctx p) same :),
    fun q hq => (congrArg (fun l => Table.get? l q) tasks').trans (Table.get?_put_other _ _ hq), pmem.trans (congrArg State.pmem same :)⟩

/-- Settles O38. -/
theorem theHandlerAnswers : Obligations.TheHandlerAnswers := by
  intro τ c k s alone first active calm
  obtain ⟨silent, asked⟩ := handler_resumes τ k s alone.1
  refine ⟨silent, fun e he => ?_⟩
  obtain ⟨resumes, exhausted, refused⟩ := asked e he
  exact ⟨resumes, exhausted, refused, fun n some_ few hc lead empty none_ => handler_extends alone he some_ few hc lead empty none_,
    fun again => (handler_aborts alone first he again).1, fun again => (handler_aborts alone first he again).2,
    handler_faults alone active calm he⟩

end Sys2Proof.Machine
end

section
/-!
PROOFS. Frames (R352, R353), the fault log as it is read (R386, R387), and the management units (R354).
-/
namespace Sys2Proof.Machine
open Sys2Proof

/-! ### Frames -/

/-- The state in which a frame in sequence acts: the next one is expected. -/
def State.received (s : State) : State := s.modHost fun h => { h with seqIn := (h.seqIn + 1) % 2 ^ 32 }

/-- A frame in sequence that is served acts and is answered. -/
theorem State.frame_served {s : State} {fr : Frame} {always : Bool} {act : State → Nat × List Byte × State}
    (stays : s.stuck = false) (next : fr.seq.toNat = s.host.seqIn) (serves : ((s.recovery || s.viral) && !always) = false) :
    s.frame fr always act =
      (act s.received).2.2.sendFrame 4 (act s.received).1 fr.pasid.toNat fr.addr fr.tag (act s.received).2.1 := by
  simp only [State.frame, stays, next, serves, bne_self_eq_false, Bool.false_eq_true, if_false]
  rfl

/-- A frame in sequence that is not served in recovery or in the viral state is answered with status 3. -/
theorem State.frame_unserved {s : State} {fr : Frame} {act : State → Nat × List Byte × State}
    (stays : s.stuck = false) (next : fr.seq.toNat = s.host.seqIn) (closed : (s.recovery || s.viral) = true) :
    s.frame fr false act = s.received.sendFrame 4 3 fr.pasid.toNat fr.addr fr.tag [] := by
  simp only [State.frame, stays, next, closed, bne_self_eq_false, Bool.false_eq_true, if_false, Bool.not_false, Bool.and_true,
    if_true]
  rfl

/-- A frame out of sequence is dropped. -/
theorem State.frame_bad {s : State} {fr : Frame} {always : Bool} {act : State → Nat × List Byte × State}
    (stays : s.stuck = false) (off : fr.seq.toNat ≠ s.host.seqIn) : s.frame fr always act = s.badFrame fr := by
  simp only [State.frame, stays, bne_iff_ne, ne_eq, off, not_false_eq_true, Bool.false_eq_true, if_false, if_true]

/-- A chip that has stayed at a reset step serves no frame. -/
theorem State.frame_stuck {s : State} {fr : Frame} {always : Bool} {act : State → Nat × List Byte × State}
    (stays : s.stuck = true) : s.frame fr always act = s := by
  simp only [State.frame, stays, if_true]

theorem State.command1_served {s : State} {fr : Frame} {act : State → Nat × State} (served : isServed s fr) :
    s.command1 fr act =
      (act s.received).2.sendFrame 4 (act s.received).1 fr.pasid.toNat fr.addr fr.tag [] := by
  obtain ⟨next, works, healthy, stays⟩ := served
  exact State.frame_served stays next (by rw [works, healthy]; rfl)

/-- What an action leaves of the host's counts is what an answer needs of it. -/
theorem hasAnswered_sendFrame {s u : State} {fr : Frame} (status : Nat) (payload : List Byte)
    (sent : u.host.sent = s.received.host.sent) (out : u.host.seqOut = s.received.host.seqOut)
    (read : u.host.seqIn = s.received.host.seqIn) :
    hasAnswered s (u.sendFrame 4 status fr.pasid.toNat fr.addr fr.tag payload) fr status payload := by
  refine ⟨?_, read⟩
  show u.host.sent ++ _ = _
  rw [sent, out]
  rfl

/-- An answer to a frame that did nothing. -/
theorem answered_unchanged (s : State) (fr : Frame) (status : Nat) (payload : List Byte) :
    hasAnswered s (s.received.sendFrame 4 status fr.pasid.toNat fr.addr fr.tag payload) fr status payload ∧
    leavesMachine s (s.received.sendFrame 4 status fr.pasid.toNat fr.addr fr.tag payload) ∧
    leavesTables s (s.received.sendFrame 4 status fr.pasid.toNat fr.addr fr.tag payload) :=
  ⟨hasAnswered_sendFrame status payload rfl rfl rfl, ⟨rfl, rfl, rfl, rfl, rfl, rfl⟩, ⟨rfl, rfl, rfl, rfl, rfl, rfl⟩⟩

/-! ### The log as it is read -/

theorem State.logRead_empty {s : State} (log : s.host.log = []) : s.logRead = (0, s) := by
  simp only [State.logRead, log, List.find?_nil, pickPair]

theorem State.logRead_half {s : State} {l : LogPair} {rest : List LogPair} (log : s.host.log = l :: rest)
    (half : l.half = true) : s.logRead = (l.stamp.toNat, s.modHost fun h => { h with log := rest }) := by
  simp only [State.logRead, log, List.find?_cons, half, List.erase_cons_head]

theorem pickPair_ready {cycle c : Nat} {l : LogPair} {rest : List LogPair} (readable : l.readableAt = some c)
    (come : c ≤ cycle) : pickPair cycle [] (l :: rest) = some l := by
  simp [pickPair, LogPair.ready, readable, come]

theorem pickPair_unready {cycle : Nat} {l : LogPair} (later : ∀ c, l.readableAt = some c → cycle < c) :
    pickPair cycle [] [l] = none := by
  have unready : l.ready cycle = false := by
    cases at' : l.readableAt with
    | none => simp [LogPair.ready, at']
    | some c => simpa [LogPair.ready, at'] using later c at'
  simp [pickPair, unready]

theorem State.logRead_event {s : State} {l : LogPair} {rest : List LogPair} {c : Nat} (log : s.host.log = l :: rest)
    (others : ∀ x ∈ rest, x.half = false) (whole : l.half = false) (readable : l.readableAt = some c) (come : c ≤ s.cycle) :
    s.logRead = (l.event.toNat, s.modHost fun h => { h with log := { l with half := true } :: rest }) := by
  have noHalf : (l :: rest).find? (·.half) = none := by
    simpa [List.find?_eq_none, whole] using others
  simp only [State.logRead, log, noHalf, pickPair_ready readable come, List.replace_cons_self]

theorem State.logRead_unready {s : State} {l : LogPair} (log : s.host.log = [l]) (whole : l.half = false)
    (later : ∀ c, l.readableAt = some c → s.cycle < c) : s.logRead = (0, s) := by
  have noHalf : [l].find? (·.half) = none := by simp [whole]
  simp only [State.logRead, log, noHalf, pickPair_unready later]

/-- The log head answers with what the log gives. -/
theorem faultLogRead_answers {fr : Frame} {s : State} {v : Nat} {log : List LogPair} (next : fr.seq.toNat = s.host.seqIn)
    (stays : s.stuck = false) (gives : s.received.logRead = (v, s.received.modHost fun h => { h with log := log })) :
    ∃ t, execFaultLogRead fr s = .next t ∧ hasAnswered s t fr 0 (leBytes 8 v) ∧ t.host.log = log ∧
      t.host.dropped = s.host.dropped ∧ leavesMachine s t ∧ t.contexts = s.contexts ∧ t.queues = s.queues ∧
      t.stages = s.stages := by
  refine ⟨_, congrArg Host.Outcome.next (State.frame_served stays next (by simp)), ?_⟩
  simp only [gives]
  exact ⟨hasAnswered_sendFrame 0 _ rfl rfl rfl, rfl, rfl, ⟨rfl, rfl, rfl, rfl, rfl, rfl⟩, rfl, rfl, rfl⟩

theorem managementRead_logHead {fr : Frame} (head : fr.addr = 0x80000) (s : State) :
    exec (.managementRead fr) s = execFaultLogRead fr s := by
  have place : fr.addr.toNat = 0x80000 := by rw [head]; rfl
  show execManagementRead fr s = _
  rw [execManagementRead, if_pos place]

theorem leBytes_length (n w : Nat) : (leBytes n w).length = n := by
  induction n generalizing w with
  | zero => rfl
  | succ n ih => simp only [leBytes, List.length_cons, ih]

/-- A frame of a command of one status that is out of sequence or comes to a stuck chip. -/
theorem State.command1_bad {s : State} {fr : Frame} {act : State → Nat × State} (stays : s.stuck = false)
    (off : fr.seq.toNat ≠ s.host.seqIn) : s.command1 fr act = s.badFrame fr := State.frame_bad stays off

theorem malformedFrame_bad {s : State} {fr : Frame} (stays : s.stuck = false) :
    execMalformedFrame fr s = .next (s.badFrame fr) := by
  simp only [execMalformedFrame, stays, Bool.false_eq_true, if_false]

theorem bulkUpload_bad {s : State} {fr : Frame} (stays : s.stuck = false) (off : fr.seq.toNat ≠ s.host.seqIn)
    (d : List Byte) : execBulkUpload fr d s = .next (s.badFrame fr) := by
  unfold execBulkUpload
  split
  · exact malformedFrame_bad stays
  · exact congrArg Host.Outcome.next (State.frame_bad stays off)

/-- An action that only draws a free choice answers and leaves everything else. -/
theorem answers_freely {s : State} {fr : Frame} (stays : s.stuck = false) (next : fr.seq.toNat = s.host.seqIn)
    (payload : Nat → List Byte) :
    let t := s.frame fr true fun t => let (i, u) := t.takeFree; (0, payload i, u)
    hasAnswered s t fr 0 (payload s.free) ∧ leavesMachine s t ∧ leavesTables s t := by
  intro t
  have whole : t = _ := State.frame_served stays next (by simp)
  rw [whole]
  exact ⟨hasAnswered_sendFrame 0 _ rfl rfl rfl, ⟨rfl, rfl, rfl, rfl, rfl, rfl⟩, ⟨rfl, rfl, rfl, rfl, rfl, rfl⟩⟩

/-- Settles O43: each kind of frame by the rule of the frame's state, and the log head by what the log gives. -/
theorem framesAndTheLog : Obligations.FramesAndTheLog := by
  unfold Obligations.FramesAndTheLog
  refine ⟨fun fr s => ⟨fun stuck => ?_, malformedFrame_bad, fun stays off => ?_, fun stays next => ?_⟩,
    fun fr l rest s next stays => ⟨fun log => ?_, fun log half => ?_, fun log others whole readable => ?_,
      fun log whole later => ?_⟩⟩
  · exact ⟨by show execMalformedFrame fr s = _; rw [execMalformedFrame, if_pos stuck],
      congrArg Host.Outcome.next (State.frame_stuck stuck), congrArg Host.Outcome.next (State.frame_stuck stuck),
      congrArg Host.Outcome.next (State.frame_stuck stuck)⟩
  · refine ⟨congrArg Host.Outcome.next (State.command1_bad stays off), congrArg Host.Outcome.next (State.frame_bad stays off),
      congrArg Host.Outcome.next (State.frame_bad stays off), congrArg Host.Outcome.next (State.frame_bad stays off),
      fun v => congrArg Host.Outcome.next (State.command1_bad stays off), bulkUpload_bad stays off⟩
  · refine ⟨fun closed => ?_, ?_, fun nonce long => ?_, fun nonce other => ?_, ?_⟩
    · exact ⟨_, congrArg Host.Outcome.next (State.frame_unserved stays next (by simpa using closed)),
        answered_unchanged s fr 3 []⟩
    · exact ⟨_, _, rfl, leBytes_length 32 _, answers_freely stays next fun i => leBytes 32 (Config.freeWord i)⟩
    · refine ⟨_, _, congrArg Host.Outcome.next ?_, answers_freely stays next fun i => leBytes 64 (Config.freeWord i)⟩
      simp only [long, bne_self_eq_false, Bool.false_eq_true, if_false]
    · refine ⟨_, congrArg Host.Outcome.next ((State.frame_served stays next (by simp)).trans ?_), answered_unchanged s fr 1 []⟩
      simp only [bne_iff_ne, ne_eq, other, not_false_eq_true, if_true]
    · exact ⟨_, congrArg Host.Outcome.next (State.frame_served stays next (by simp)),
        hasAnswered_sendFrame 0 _ rfl rfl rfl, rfl, ⟨rfl, rfl, rfl, rfl, rfl, rfl⟩, ⟨rfl, rfl, rfl, rfl, rfl, rfl⟩⟩
  · have reads := faultLogRead_answers (log := []) next stays ((State.logRead_empty (s := s.received) log).trans (by
      show (0, s.received) = (0, { s.received with host := { s.received.host with log := [] } })
      rw [← log]; rfl))
    exact ⟨reads, fun head => by rw [managementRead_logHead head]; exact reads⟩
  · exact faultLogRead_answers next stays (State.logRead_half (s := s.received) log half)
  · obtain ⟨c, readable, come⟩ := readable
    exact faultLogRead_answers next stays (State.logRead_event (s := s.received) log others whole readable come)
  · exact faultLogRead_answers next stays ((State.logRead_unready (s := s.received) log whole later).trans (by
      show (0, s.received) = (0, { s.received with host := { s.received.host with log := [l] } })
      rw [← log]; rfl))

end Sys2Proof.Machine
end

section
/-!
PROOFS. The management units (R317, R321, R346, R354): what each address reads as, and what a write of it does.
-/
namespace Sys2Proof.Machine
open Sys2Proof

/-! ### Reads -/

theorem unitRead_scope (s : State) (p n : Nat) (hn : n < 7) :
    s.unitRead p (0x10000 + 8 * n) = (0, (Table.get s.scopetab 0 n).toNat) := by
  have aligned : (0x10000 + 8 * n) % 8 = 0 := by omega
  have below : 0x10000 + 8 * n < 0x10038 := by omega
  simp [State.unitRead, aligned, below]

theorem unitRead_scopeSeven (s : State) (p : Nat) : s.unitRead p 0x10038 = (0, (s.ctx p).scope7.toNat) := by
  simp [State.unitRead]

theorem unitRead_noStage (s : State) (p : Nat) {st e : Nat} (hst : st < 8) (he : e < 32) (out : (s.stage st).valid = false) :
    s.unitRead p (0x20000 + 0x1000 * st + 8 * e) = (1, 0) := by
  have aligned : (0x20000 + 0x1000 * st + 8 * e) % 8 = 0 := by omega
  have stage : (0x20000 + 0x1000 * st + 8 * e - 0x20000) / 0x1000 = st := by omega
  have unit : (0x20000 + 0x1000 * st + 8 * e - 0x20000) % 0x1000 = 8 * e := by omega
  have above : ¬ 0x20000 + 0x1000 * st + 8 * e < 0x10038 := by omega
  have past : ¬ 0x20000 + 0x1000 * st + 8 * e = 0x10038 := by omega
  have within : 0x20000 ≤ 0x20000 + 0x1000 * st + 8 * e ∧ 0x20000 + 0x1000 * st + 8 * e < 0x28000 := by omega
  have first : 8 * e ≤ 0x100 := by omega
  simp only [State.unitRead, aligned, stage, unit, above, past, within, first, out]
  simp

theorem unitRead_tide (s : State) (p : Nat) {st e : Nat} (hst : st < 8) (he : e < 32) (valid : (s.stage st).valid = true) :
    s.unitRead p (0x20000 + 0x1000 * st + 8 * e) = (0, (Table.get (s.stage st).tide 0 e).toNat) := by
  have aligned : (0x20000 + 0x1000 * st + 8 * e) % 8 = 0 := by omega
  have stage : (0x20000 + 0x1000 * st + 8 * e - 0x20000) / 0x1000 = st := by omega
  have unit : (0x20000 + 0x1000 * st + 8 * e - 0x20000) % 0x1000 = 8 * e := by omega
  have above : ¬ 0x20000 + 0x1000 * st + 8 * e < 0x10038 := by omega
  have past : ¬ 0x20000 + 0x1000 * st + 8 * e = 0x10038 := by omega
  have within : 0x20000 ≤ 0x20000 + 0x1000 * st + 8 * e ∧ 0x20000 + 0x1000 * st + 8 * e < 0x28000 := by omega
  have first : 8 * e < 0x100 := by omega
  simp only [State.unitRead, aligned, stage, unit, above, past, within, first, first.le, valid]
  simp

theorem unitRead_stagectl (s : State) (p : Nat) {st : Nat} (hst : st < 8) (valid : (s.stage st).valid = true) :
    s.unitRead p (0x20100 + 0x1000 * st) = (0, (s.stage st).starve * 2 ^ 32 + (s.stage st).wdef) := by
  have aligned : (0x20100 + 0x1000 * st) % 8 = 0 := by omega
  have stage : (0x20100 + 0x1000 * st - 0x20000) / 0x1000 = st := by omega
  have unit : (0x20100 + 0x1000 * st - 0x20000) % 0x1000 = 0x100 := by omega
  have above : ¬ 0x20100 + 0x1000 * st < 0x10038 := by omega
  have past : ¬ 0x20100 + 0x1000 * st = 0x10038 := by omega
  have within : 0x20000 ≤ 0x20100 + 0x1000 * st ∧ 0x20100 + 0x1000 * st < 0x28000 := by omega
  simp only [State.unitRead, aligned, stage, unit, above, past, within, valid]
  simp

theorem unitRead_polls (s : State) (p : Nat) {c : Nat} (hc : c < 24) :
    s.unitRead p (0x30000 + 8 * c) = (0, (s.clu c).fpoll.toNat) := by
  have aligned : (0x30000 + 8 * c) % 8 = 0 := by omega
  have place : (0x30000 + 8 * c - 0x30000) / 8 = c := by omega
  have above : ¬ 0x30000 + 8 * c < 0x10038 := by omega
  have past : ¬ 0x30000 + 8 * c = 0x10038 := by omega
  have beyond : ¬ 0x30000 + 8 * c < 0x28000 := by omega
  have within : 0x30000 ≤ 0x30000 + 8 * c ∧ 0x30000 + 8 * c < 0x300C0 := by omega
  simp only [State.unitRead, aligned, place, above, past, beyond, within]
  simp

theorem unitRead_queue (s : State) (p : Nat) {i j : Nat} (hi : i < 4096) (hj : j < 8) :
    s.unitRead p (0x40000 + 64 * i + 8 * j) = (0, queueUnit (Table.get? s.queues i) j) := by
  have aligned : (0x40000 + 64 * i + 8 * j) % 8 = 0 := by omega
  have slot : (0x40000 + 64 * i + 8 * j - 0x40000) / 64 = i := by omega
  have unit : (0x40000 + 64 * i + 8 * j) / 8 % 8 = j := by omega
  have above : ¬ 0x40000 + 64 * i + 8 * j < 0x10038 := by omega
  have past : ¬ 0x40000 + 64 * i + 8 * j = 0x10038 := by omega
  have beyond : ¬ 0x40000 + 64 * i + 8 * j < 0x28000 := by omega
  have beyond' : ¬ 0x40000 + 64 * i + 8 * j < 0x300C0 := by omega
  have within : 0x40000 ≤ 0x40000 + 64 * i + 8 * j ∧ 0x40000 + 64 * i + 8 * j < 0x80000 := by omega
  simp only [State.unitRead, aligned, slot, unit, above, past, beyond, beyond', within]
  simp

theorem unitRead_starena (s : State) {p : Nat} (stands : Table.get? s.contexts p ≠ none) :
    s.unitRead p (0x90000 + 8 * 0x100) = (0, (s.ctx p).starena.toNat) := by
  simp [State.unitRead, engReg?, State.engRead, stands]

theorem unitRead_sthbm (s : State) {p : Nat} (stands : Table.get? s.contexts p ≠ none) :
    s.unitRead p (0x90000 + 8 * 0x101) = (0, (s.ctx p).sthbm.toNat) := by
  simp [State.unitRead, engReg?, State.engRead, stands]

theorem unitRead_unassigned (s : State) (p : Nat) {a : Nat}
    (no : a % 8 ≠ 0 ∨ a = 0 ∨ a = 0x30000 + 8 * 24 ∨ a = 0x90000 + 8 * 0x110) : s.unitRead p a = (2, 0) := by
  rcases no with odd | rfl | rfl | rfl
  · simp [State.unitRead, odd]
  · simp [State.unitRead]
  · simp [State.unitRead]
  · simp [State.unitRead, engReg?]

/-- Below every served read stands the read of one unit. -/
theorem managementRead_answers {fr : Frame} {s : State} {a status v : Nat} (served : isServed s fr) (at' : fr.addr.toNat = a)
    (unit : a ≠ 0x80000) (reads : s.received.unitRead fr.pasid.toNat a = (status, v)) :
    ∃ t, exec (.managementRead fr) s = .next t ∧ hasAnswered s t fr status (if status = 0 then leBytes 8 v else []) ∧
      leavesMachine s t ∧ leavesTables s t := by
  obtain ⟨next, works, healthy, stays⟩ := served
  refine ⟨_, ?_, answered_unchanged s fr status (if status = 0 then leBytes 8 v else [])⟩
  show execManagementRead fr s = _
  rw [execManagementRead, at', if_neg unit, State.frame_served stays next (by rw [works, healthy]; rfl), reads]

/-! ### Writes -/

/-- A stage with a word in an entry of its tide table. -/
def withTide (e : Nat) (v : Word64) (g : Stage) : Stage := { g with tide := Table.put g.tide e v }

/-- A stage with the values of a `stagectl` word. -/
def withControl (v : Word64) (g : Stage) : Stage := { g with starve := v.toNat / 2 ^ 32, wdef := v.toNat % 2 ^ 32 }

/-- A tide-table word that the spec allows: zero where it must be, the task conditions for B tasks alone, and an idle entry
with no other field. -/
def tideSound (v : Word64) : Prop :=
  v.toNat % 2 ^ 16 = 0 ∧ (v.toNat / 2 ^ 61 % 4 ≠ 1 → v.getLsbD 60 = false ∧ v.toNat / 2 ^ 16 % 2 ^ 8 = 0) ∧
  (v.getLsbD 59 = true → v.toNat / 2 ^ 61 % 4 = 0 ∧ v.toNat / 2 ^ 56 % 8 = 0 ∧ v.toNat / 2 ^ 24 % 2 ^ 24 = 0)

theorem ofCode_eq_b {n : Nat} : TaskKind.ofCode n = .b ↔ n % 4 = 1 := by
  have code : n % 4 < 4 := Nat.mod_lt _ (by decide)
  unfold TaskKind.ofCode
  interval_cases n % 4 <;> simp

theorem ofCode_eq_f {n : Nat} : TaskKind.ofCode n = .f ↔ n % 4 = 0 := by
  have code : n % 4 < 4 := Nat.mod_lt _ (by decide)
  unfold TaskKind.ofCode
  interval_cases n % 4 <;> simp

theorem bitAt_toNat (v : Word64) (n : Nat) : v.getLsbD n = bitAt v.toNat n := by
  rw [BitVec.getLsbD, Nat.testBit_eq_decide_div_mod_eq, bitAt, beq_eq_decide]

theorem tideOk_iff (v : Word64) : tideOk v.toNat = true ↔ tideSound v := by
  simp only [tideOk, decTide, tideSound, bitAt_toNat, bitAt, bits, Bool.and_eq_true, Bool.or_eq_true, Bool.not_eq_true',
    beq_iff_eq, beq_eq_false_iff_ne, ofCode_eq_b, ofCode_eq_f]
  omega

/-- A served write that an action refuses is answered with its status, and nothing changes. -/
theorem command1_refused {fr : Frame} {s : State} {status : Nat} {act : State → Nat × State} (served : isServed s fr)
    (refuses : act s.received = (status, s.received)) :
    ∃ t, (.next (s.command1 fr act) : Host.Outcome State Fault Refusal) = .next t ∧ hasAnswered s t fr status [] ∧
      leavesMachine s t ∧ leavesTables s t := by
  refine ⟨_, congrArg Host.Outcome.next (State.command1_served served), ?_⟩
  rw [refuses]
  exact answered_unchanged s fr status []

/-- A served write of a stage changes that stage alone. -/
theorem command1_modStage {fr : Frame} {s : State} (act : State → Nat × State) {st : Nat} {f : Stage → Stage}
    (served : isServed s fr) (acts : act s.received = (0, s.received.modStage st f)) :
    ∃ t, (.next (s.command1 fr act) : Host.Outcome State Fault Refusal) = .next t ∧ hasAnswered s t fr 0 [] ∧
      leavesMachine s t ∧ t.contexts = s.contexts ∧ t.queues = s.queues ∧ t.stage st = f (s.stage st) ∧
      ∀ i, i ≠ st → t.stage i = s.stage i := by
  refine ⟨_, congrArg Host.Outcome.next (State.command1_served served), ?_⟩
  rw [acts]
  exact ⟨hasAnswered_sendFrame 0 [] rfl rfl rfl, ⟨rfl, rfl, rfl, rfl, rfl, rfl⟩, rfl, rfl,
    State.stage_modStage_same s.received st f, fun i other => State.stage_modStage_other s.received f other⟩

theorem State.acceptIf_true (s : State) {ok : Bool} (h : ok = true) (act : State → State) : s.acceptIf ok act = (0, act s) := by
  rw [State.acceptIf, if_pos h]

theorem State.acceptIf_false (s : State) {ok : Bool} (h : ok = false) (act : State → State) : s.acceptIf ok act = (1, s) := by
  rw [State.acceptIf, h]
  rfl

theorem tideWrite_accepted {s : State} {st e : Nat} {v : Word64} (valid : (s.stage st).valid = true) (he : e < 32)
    (sound : tideSound v) :
    s.tideWrite st e v = (0, s.modStage st (withTide e v)) :=
  State.acceptIf_true s (by rw [valid, (tideOk_iff v).2 sound, decide_eq_true he]; rfl) _

theorem tideWrite_refused (s : State) (st e : Nat) {v : Word64} (sound : ¬ tideSound v) : s.tideWrite st e v = (1, s) :=
  State.acceptIf_false s (by rw [Bool.eq_false_iff.2 fun ok => sound ((tideOk_iff v).1 ok), Bool.and_false]) _

theorem stagectl_accepted {s : State} {st : Nat} {v : Word64} (valid : (s.stage st).valid = true) (bound : 2 ^ 32 ≤ v.toNat) :
    s.stagectl st v = (0, s.modStage st (withControl v)) := by
  have ok : stagectlOk v.toNat = true := by
    simp only [stagectlOk, bne_iff_ne]
    omega
  exact State.acceptIf_true s (by rw [valid, ok]; rfl) _

theorem stagectl_refused (s : State) (st : Nat) {v : Word64} (low : v.toNat < 2 ^ 32) : s.stagectl st v = (1, s) := by
  have bad : stagectlOk v.toNat = false := by
    rw [stagectlOk, Nat.div_eq_of_lt low]
    rfl
  exact State.acceptIf_false s (by rw [bad, Bool.and_false]) _

theorem unitWrite_tide (s : State) (p : Nat) {st e : Nat} (hst : st < 8) (he : e < 32) (v : Word64) :
    s.unitWrite p (0x20000 + 0x1000 * st + 8 * e) v = s.tideWrite st e v := by
  have aligned : (0x20000 + 0x1000 * st + 8 * e) % 8 = 0 := by omega
  have stage : (0x20000 + 0x1000 * st + 8 * e - 0x20000) / 0x1000 = st := by omega
  have unit : (0x20000 + 0x1000 * st + 8 * e - 0x20000) % 0x1000 = 8 * e := by omega
  have above : ¬ 0x20000 + 0x1000 * st + 8 * e < 0x10040 := by omega
  have within : 0x20000 ≤ 0x20000 + 0x1000 * st + 8 * e ∧ 0x20000 + 0x1000 * st + 8 * e < 0x28000 := by omega
  have first : 8 * e < 0x100 := by omega
  simp only [State.unitWrite, aligned, stage, unit, above, within, first]
  simp

theorem unitWrite_stagectl (s : State) (p : Nat) {st : Nat} (hst : st < 8) (v : Word64) :
    s.unitWrite p (0x20100 + 0x1000 * st) v = s.stagectl st v := by
  have aligned : (0x20100 + 0x1000 * st) % 8 = 0 := by omega
  have stage : (0x20100 + 0x1000 * st - 0x20000) / 0x1000 = st := by omega
  have unit : (0x20100 + 0x1000 * st - 0x20000) % 0x1000 = 0x100 := by omega
  have above : ¬ 0x20100 + 0x1000 * st < 0x10040 := by omega
  have within : 0x20000 ≤ 0x20100 + 0x1000 * st ∧ 0x20100 + 0x1000 * st < 0x28000 := by omega
  simp only [State.unitWrite, aligned, stage, unit, above, within]
  simp

theorem unitWrite_logHead (s : State) (p : Nat) (v : Word64) : s.unitWrite p 0x80000 v = (1, s) := by
  simp [State.unitWrite]

theorem unitWrite_scope (s : State) (p : Nat) {n : Nat} (hn : n < 8) (v : Word64) :
    s.unitWrite p (0x10000 + 8 * n) v = (1, s) := by
  have aligned : (0x10000 + 8 * n) % 8 = 0 := by omega
  have within : 0x10000 + 8 * n < 0x10040 := by omega
  simp [State.unitWrite, aligned, within]

theorem unitWrite_polls (s : State) (p : Nat) {c : Nat} (hc : c < 24) (v : Word64) :
    s.unitWrite p (0x30000 + 8 * c) v = (1, s) := by
  have aligned : (0x30000 + 8 * c) % 8 = 0 := by omega
  have above : ¬ 0x30000 + 8 * c < 0x10040 := by omega
  have beyond : ¬ 0x30000 + 8 * c < 0x28000 := by omega
  have within : 0x30000 ≤ 0x30000 + 8 * c ∧ 0x30000 + 8 * c < 0x300C0 := by omega
  simp only [State.unitWrite, aligned, above, beyond, within]
  simp

theorem unitWrite_segments (s : State) (p : Nat) {st k : Nat} (hst : st < 8) (hk : k < 64) (v : Word64) :
    s.unitWrite p (0x20800 + 0x1000 * st + 8 * k) v = (1, s) := by
  have aligned : (0x20800 + 0x1000 * st + 8 * k) % 8 = 0 := by omega
  have unit : (0x20800 + 0x1000 * st + 8 * k - 0x20000) % 0x1000 = 0x800 + 8 * k := by omega
  have above : ¬ 0x20800 + 0x1000 * st + 8 * k < 0x10040 := by omega
  have within : 0x20000 ≤ 0x20800 + 0x1000 * st + 8 * k ∧ 0x20800 + 0x1000 * st + 8 * k < 0x28000 := by omega
  have notTide : ¬ 0x800 + 8 * k < 0x100 := by omega
  have notCtl : ¬ 0x800 + 8 * k = 0x100 := by omega
  have segment : 0x800 ≤ 0x800 + 8 * k ∧ 0x800 + 8 * k < 0xA00 := by omega
  simp only [State.unitWrite, aligned, unit, above, within, notTide, notCtl, segment]
  simp

theorem unitWrite_unassigned (s : State) (p : Nat) {a : Nat} (no : a % 8 ≠ 0 ∨ a = 0) (v : Word64) :
    s.unitWrite p a v = (2, s) := by
  rcases no with odd | rfl
  · simp [State.unitWrite, odd]
  · simp [State.unitWrite]

/-- What a management write does is what the write at its place does. -/
theorem managementWrite_eq {fr : Frame} {a : Nat} (at' : fr.addr.toNat = a) (v : Word64) (s : State) :
    exec (.managementWrite fr v) s = .next (s.command1 fr fun t => t.unitWrite fr.pasid.toNat a v) := by
  subst at'
  rfl

theorem State.queue?_eq_some {s : State} {i : Nat} {q : Queue} (h : s.queue? i = some q) :
    Table.get? s.queues i = some (.live q) := by
  unfold State.queue? at h
  split at h
  · next here => rwa [Option.some.inj h] at here
  · cases h

/-- The first unit of a queue's slot. -/
theorem queueUnit_word0 {x : Option QueueSlot} {q : Queue} (h : x = some (.live q)) :
    queueUnit x 0 = q.pasid + q.q * 2 ^ 20 + 2 ^ 28 +
      (match q.qstate with | .disabled => 0 | .running => 1 | .fenceWait => 2 | .error => 3) * 2 ^ 32 + q.stage * 2 ^ 40 +
      q.ecode * 2 ^ 48 + q.lg * 2 ^ 56 := by
  have code : qstateCode q.qstate = match q.qstate with | .disabled => 0 | .running => 1 | .fenceWait => 2 | .error => 3 := by
    cases q.qstate <;> rfl
  rw [h, ← code]
  rfl

/-- After the write of a tide-table entry the entry holds the word, and no other entry of the stage changes. -/
theorem tideWritten {s : State} {st e : Nat} {v : Word64} {o : Host.Outcome State Fault Refusal} {fr : Frame}
    (h : ∃ t, o = .next t ∧ hasAnswered s t fr 0 [] ∧ leavesMachine s t ∧ t.contexts = s.contexts ∧ t.queues = s.queues ∧
      t.stage st = withTide e v (s.stage st) ∧ ∀ i, i ≠ st → t.stage i = s.stage i) :
    ∃ t, o = .next t ∧ hasAnswered s t fr 0 [] ∧ leavesMachine s t ∧ t.contexts = s.contexts ∧ t.queues = s.queues ∧
      Table.get (t.stage st).tide 0 e = v ∧
      (∀ i, i ≠ e → Table.get (t.stage st).tide 0 i = Table.get (s.stage st).tide 0 i) ∧
      ∀ i, i ≠ st → t.stage i = s.stage i := by
  obtain ⟨t, ends, answered, machine, contexts, queues, stage, others⟩ := h
  refine ⟨t, ends, answered, machine, contexts, queues, ?_, fun i other => ?_, others⟩
  · rw [stage]
    exact Table.get_put_same ..
  · rw [stage]
    exact Table.get_put_other _ _ _ other

/-- Settles O42: each unit's address reads and is written by the rule of its unit. -/
theorem managementUnits : Obligations.ManagementUnits := by
  unfold Obligations.ManagementUnits
  refine ⟨fun fr s served => ?_, fun fr v st e s served hst he valid => ?_⟩
  · refine ⟨fun n hn at' => ?_, fun at' => ?_, fun st e hst he at' => ⟨fun valid => ?_, fun out => ?_⟩, fun st hst at' valid => ?_,
      fun c hc at' => ?_, fun i q hi here => ⟨fun at' => ?_, fun at' => ?_, fun at' => ?_⟩, fun i hi empty at' => ?_,
      fun stands => ⟨fun at' => ?_, fun at' => ?_⟩, fun no => ?_⟩
    · exact managementRead_answers served at' (by omega) (unitRead_scope _ _ n hn)
    · exact managementRead_answers served at' (by omega) (unitRead_scopeSeven _ _)
    · exact managementRead_answers served at' (by omega) (unitRead_tide _ _ hst he valid)
    · exact managementRead_answers served at' (by omega) (unitRead_noStage _ _ hst he out)
    · exact managementRead_answers served at' (by omega) (unitRead_stagectl _ _ hst valid)
    · exact managementRead_answers served at' (by omega) (unitRead_polls _ _ hc)
    · refine managementRead_answers served (at'.trans (Nat.add_zero _).symm) (by omega)
        ((unitRead_queue (j := 0) _ _ hi (by omega)).trans ?_)
      exact congrArg (Prod.mk 0) (queueUnit_word0 (State.queue?_eq_some here))
    · refine managementRead_answers served at' (by omega) ((unitRead_queue (j := 1) _ _ hi (by omega)).trans ?_)
      exact congrArg (Prod.mk 0) (congrArg (queueUnit · 1) (State.queue?_eq_some here))
    · refine managementRead_answers served at' (by omega) ((unitRead_queue (j := 2) _ _ hi (by omega)).trans ?_)
      exact congrArg (Prod.mk 0) (congrArg (queueUnit · 2) (State.queue?_eq_some here))
    · refine managementRead_answers served (at'.trans (Nat.add_zero _).symm) (by omega)
        ((unitRead_queue (j := 0) _ _ hi (by omega)).trans ?_)
      exact congrArg (Prod.mk 0) (congrArg (queueUnit · 0) empty)
    · exact managementRead_answers served at' (by omega) (unitRead_starena _ stands)
    · exact managementRead_answers served at' (by omega) (unitRead_sthbm _ stands)
    · exact managementRead_answers served rfl (by omega) (unitRead_unassigned _ _ no)
  · refine ⟨fun sound => ⟨?_, fun at' => ?_⟩, fun sound => ?_, fun bound => ⟨?_, fun at' => ?_⟩, fun low => ?_, fun ro => ?_, fun no => ?_⟩
    · exact tideWritten (command1_modStage (fun t => t.tideWrite st e v) served (tideWrite_accepted (s := s.received) valid he sound))
    · rw [managementWrite_eq at']
      exact tideWritten (command1_modStage _ served ((unitWrite_tide _ _ hst he v).trans (tideWrite_accepted (s := s.received) valid he sound)))
    · exact command1_refused served (tideWrite_refused _ st e sound)
    · exact command1_modStage (fun t => t.stagectl st v) served (stagectl_accepted (s := s.received) valid bound)
    · rw [managementWrite_eq at']
      exact command1_modStage (fun t => t.unitWrite fr.pasid.toNat (0x20100 + 0x1000 * st) v) served ((unitWrite_stagectl _ _ hst v).trans (stagectl_accepted (s := s.received) valid bound))
    · exact command1_refused served (stagectl_refused _ st low)
    · rcases ro with at' | ⟨n, hn, at'⟩ | ⟨c, hc, at'⟩ | ⟨k, hk, at'⟩
      · rw [managementWrite_eq at']
        exact command1_refused served (unitWrite_logHead _ _ v)
      · rw [managementWrite_eq at']
        exact command1_refused served (unitWrite_scope _ _ hn v)
      · rw [managementWrite_eq at']
        exact command1_refused served (unitWrite_polls _ _ hc v)
      · rw [managementWrite_eq at']
        exact command1_refused served (unitWrite_segments _ _ hst hk v)
    · exact command1_refused served (unitWrite_unassigned _ _ no v)

end Sys2Proof.Machine
end

section
/-!
PROOFS. The slot table of the queues and the commands on them (R339, R340, R341, R347).
-/
namespace Sys2Proof.Machine
open Sys2Proof

/-! ### The slot table -/

/-- A slot that a lookup goes past: it holds something, but not the queue that is looked for. -/
def passesSlot (t : Table QueueSlot) (p q i : Nat) : Prop := ∃ e, Table.get? t i = some e ∧ e.hasKey p q = false

theorem QueueSlot.hasKey_iff (e : QueueSlot) (p q : Nat) :
    e.hasKey p q = true ↔ ∃ x : Queue, e = .live x ∧ x.pasid = p ∧ x.q = q := by
  cases e with
  | tombstone => simp [QueueSlot.hasKey]
  | live x => simp [QueueSlot.hasKey]

theorem lookupSlot_pass {t : Table QueueSlot} {p q n : Nat} (rest : List Nat) (pass : passesSlot t p q n) :
    lookupSlot t p q (n :: rest) = lookupSlot t p q rest := by
  obtain ⟨e, here, foreign⟩ := pass
  simp only [lookupSlot, here, foreign, Bool.false_eq_true, if_false]

/-- A lookup ends at the first slot that holds the queue. -/
theorem lookupSlot_found {t : Table QueueSlot} {p q : Nat} {x : Queue} (hp : x.pasid = p) (hq : x.q = q) :
    ∀ (l : List Nat) (j : Nat) (hj : j < l.length), (∀ n (hn : n < j), passesSlot t p q (l[n]'(hn.trans hj))) →
      Table.get? t l[j] = some (.live x) → lookupSlot t p q l = some l[j]
  | n :: rest, 0, _, _, here => by
    have mine : QueueSlot.hasKey (.live x) p q = true := (QueueSlot.hasKey_iff _ p q).2 ⟨x, rfl, hp, hq⟩
    have here : Table.get? t n = some (.live x) := here
    simp only [lookupSlot, here, mine, if_true, List.getElem_cons_zero]
  | n :: rest, j + 1, hj, passes, here => by
    rw [lookupSlot_pass (n := n) rest (passes 0 j.succ_pos)]
    exact lookupSlot_found hp hq rest j (Nat.lt_of_succ_lt_succ hj) (fun n hn => passes (n + 1) (Nat.succ_lt_succ hn)) here

theorem lookupSlot_passed {t : Table QueueSlot} {p q : Nat} :
    ∀ l : List Nat, (∀ n ∈ l, passesSlot t p q n) → lookupSlot t p q l = none
  | [], _ => rfl
  | n :: rest, passes => by
    rw [lookupSlot_pass rest (passes n List.mem_cons_self)]
    exact lookupSlot_passed rest fun m hm => passes m (List.mem_cons_of_mem n hm)

/-- A lookup ends at the first empty slot. -/
theorem lookupSlot_empty {t : Table QueueSlot} {p q : Nat} :
    ∀ (l : List Nat) (j : Nat) (hj : j < l.length), (∀ n (hn : n < j), passesSlot t p q (l[n]'(hn.trans hj))) →
      Table.get? t l[j] = none → lookupSlot t p q l = none
  | n :: rest, 0, _, _, here => by
    have here : Table.get? t n = none := here
    simp only [lookupSlot, here]
  | n :: rest, j + 1, hj, passes, here => by
    rw [lookupSlot_pass (n := n) rest (passes 0 j.succ_pos)]
    exact lookupSlot_empty rest j (Nat.lt_of_succ_lt_succ hj) (fun n hn => passes (n + 1) (Nat.succ_lt_succ hn)) here

/-- The j-th slot that is probed for a queue (R339). -/
def probe (p q j : Nat) : Nat := ((p * 40503 + q * 1021) % 4096 + j) % 4096

theorem probes_length (p q : Nat) : (probes p q).length = 8 := by simp [probes]

theorem probes_getElem (p q j : Nat) (hj : j < (probes p q).length) : (probes p q)[j] = probe p q j := by
  simp [probes, probe]

theorem mem_probes {p q n : Nat} : n ∈ probes p q ↔ ∃ j, j < 8 ∧ n = probe p q j := by
  simp only [probes, List.mem_map, List.mem_range, probe, eq_comm]

theorem findQueue_found {s : State} {p q j : Nat} {x : Queue} (hj : j < 8) (passes : ∀ n, n < j → passesSlot s.queues p q (probe p q n))
    (here : Table.get? s.queues (probe p q j) = some (.live x)) (hp : x.pasid = p) (hq : x.q = q) :
    s.findQueue p q = some (probe p q j) := by
  have within : j < (probes p q).length := by rwa [probes_length]
  rw [← probes_getElem p q j within] at here ⊢
  exact lookupSlot_found hp hq _ j within (fun n hn => by rw [probes_getElem]; exact passes n hn) here

theorem findQueue_absent {s : State} {p q : Nat}
    (absent : (∀ j, j < 8 → passesSlot s.queues p q (probe p q j)) ∨
      ∃ j, j < 8 ∧ Table.get? s.queues (probe p q j) = none ∧ ∀ n, n < j → passesSlot s.queues p q (probe p q n)) :
    s.findQueue p q = none := by
  rcases absent with passes | ⟨j, hj, empty, passes⟩
  · refine lookupSlot_passed _ fun n hn => ?_
    obtain ⟨j, hj, rfl⟩ := mem_probes.1 hn
    exact passes j hj
  · have within : j < (probes p q).length := by rwa [probes_length]
    rw [← probes_getElem p q j within] at empty
    exact lookupSlot_empty _ j within (fun n hn => by rw [probes_getElem]; exact passes n hn) empty

/-- The slot of a new queue: the first that is empty or a tombstone, where none holds the queue already. -/
theorem newSlot_taken {s : State} {p q j : Nat} (hj : j < 8)
    (foreign : ∀ n e, n < 8 → Table.get? s.queues (probe p q n) = some e → e.hasKey p q = false)
    (live : ∀ n, n < j → ∃ x : Queue, Table.get? s.queues (probe p q n) = some (.live x))
    (free : Table.get? s.queues (probe p q j) = none ∨ Table.get? s.queues (probe p q j) = some .tombstone) :
    s.newSlot p q = some (probe p q j) := by
  have within : j < (probes p q).length := by rwa [probes_length]
  unfold State.newSlot
  split
  · next some =>
    obtain ⟨n, hn, mine⟩ := List.any_eq_true.1 some
    obtain ⟨k, hk, rfl⟩ := mem_probes.1 hn
    split at mine
    · next e here => exact absurd mine (by rw [foreign k e hk here]; simp)
    · exact absurd mine (by simp)
  rw [List.find?_eq_some_iff_getElem]
  refine ⟨?_, j, within, probes_getElem p q j within, fun n hn => ?_⟩
  · rcases free with free | free <;> rw [free]
  · rw [probes_getElem]
    obtain ⟨x, here⟩ := live n hn
    rw [here]
    rfl

theorem newSlot_exists {s : State} {p q j : Nat} {e : QueueSlot} (hj : j < 8) (here : Table.get? s.queues (probe p q j) = some e)
    (mine : e.hasKey p q = true) : s.newSlot p q = none := by
  unfold State.newSlot
  rw [if_pos]
  rw [List.any_eq_true]
  exact ⟨_, mem_probes.2 ⟨j, hj, rfl⟩, by rw [here]; exact mine⟩

theorem newSlot_full {s : State} {p q : Nat} (live : ∀ j, j < 8 → ∃ x : Queue, Table.get? s.queues (probe p q j) = some (.live x)) :
    s.newSlot p q = none := by
  unfold State.newSlot
  split
  · rfl
  · rw [List.find?_eq_none]
    intro n hn
    obtain ⟨j, hj, rfl⟩ := mem_probes.1 hn
    obtain ⟨x, here⟩ := live j hj
    rw [here]
    simp

/-! ### Commands on a queue -/

theorem queueCommand_high {s : State} {fr : Frame} (act : State → Nat → Nat → Nat × State) (high : 256 ≤ fr.addr.toNat)
    (served : isServed s fr) :
    ∃ t, (.next (s.queueCommand fr act) : Host.Outcome State Fault Refusal) = .next t ∧ hasAnswered s t fr 4 [] ∧
      leavesMachine s t ∧ leavesTables s t := by
  have beyond : (fr.addr.toNat / 256 != 0) = true := by
    rw [bne_iff_ne]
    omega
  exact command1_refused served (if_pos beyond)

/-- A command on a queue with a number below 256 is the action on it. -/
theorem queueCommand_low {s : State} {fr : Frame} (act : State → Nat → Nat → Nat × State) (low : fr.addr.toNat < 256) :
    s.queueCommand fr act = s.command1 fr fun t => act t fr.pasid.toNat fr.addr.toNat := by
  have none' : (fr.addr.toNat / 256 != 0) = false := by
    rw [Nat.div_eq_of_lt low]
    rfl
  simp only [State.queueCommand, none', Bool.false_eq_true, if_false]

/-- A served command that puts a queue's slot changes that slot alone. -/
theorem command1_putQueue {fr : Frame} {s : State} (act : State → Nat × State) {i : Nat} {x : QueueSlot} (served : isServed s fr)
    (acts : act s.received = (0, { s.received with queues := Table.put s.queues i x })) :
    ∃ t, (.next (s.command1 fr act) : Host.Outcome State Fault Refusal) = .next t ∧ hasAnswered s t fr 0 [] ∧ leavesMachine s t ∧
      t.contexts = s.contexts ∧ t.stages = s.stages ∧ Table.get? t.queues i = some x ∧
      ∀ j, j ≠ i → Table.get? t.queues j = Table.get? s.queues j := by
  refine ⟨_, congrArg Host.Outcome.next (State.command1_served served), ?_⟩
  rw [acts]
  exact ⟨hasAnswered_sendFrame 0 [] rfl rfl rfl, ⟨rfl, rfl, rfl, rfl, rfl, rfl⟩, rfl, rfl, Table.get?_put_same ..,
    fun j other => Table.get?_put_other _ _ other⟩

theorem State.modQueue_of {s : State} {i : Nat} {x : Queue} (here : s.queue? i = some x) (f : Queue → Queue) :
    s.modQueue i f = { s with queues := Table.put s.queues i (.live (f x)) } := by
  simp only [State.modQueue, here]

theorem queueDisable_eq {s : State} {i : Nat} {x : Queue} (here : s.queue? i = some x) :
    s.queueDisable i = (0, { s with queues := Table.put s.queues i (.live { x with qstate := .disabled, copies := [] }) }) := by
  rw [State.queueDisable, State.acceptIf_true s (by rw [here]; rfl), State.modQueue_of here]

theorem queueRptr_stopped {s : State} {i : Nat} {x : Queue} (here : s.queue? i = some x) (stop : stopped x = true) (v : Nat) :
    s.queueRptr i v = (0, { s with queues := Table.put s.queues i (.live { x with rptr := v, copies := [], acting := none }) }) := by
  simp only [State.queueRptr, here]
  rw [State.acceptIf_true s stop, State.modQueue_of here]

theorem queueRptr_running {s : State} {i : Nat} {x : Queue} (here : s.queue? i = some x) (runs : stopped x = false) (v : Nat) :
    s.queueRptr i v = (1, s) := by
  simp only [State.queueRptr, here]
  exact State.acceptIf_false s runs _

/-- The state in which a queue runs again: a fence on which it acted is waited for again (R347). -/
def Queue.runsAs (x : Queue) : QState := if (x.acting.map fun a => field a.2 0 1) == some 3 then .fenceWait else .running

theorem queueRun_accepted {s : State} {i : Nat} {x : Queue} (here : s.queue? i = some x) (stop : stopped x = true)
    (room : ahead x ≤ ringSize x) :
    s.queueRun i =
      (0, { s with queues := Table.put s.queues i (.live { x with qstate := x.runsAs, copies := [], rereadAt := none }) }) := by
  simp only [State.queueRun, here]
  rw [State.acceptIf_true s (by rw [stop, decide_eq_true room]; rfl), State.modQueue_of here]
  rfl

theorem queueRun_refused {s : State} {i : Nat} {x : Queue} (here : s.queue? i = some x)
    (no : stopped x = false ∨ ringSize x < ahead x) : s.queueRun i = (1, s) := by
  simp only [State.queueRun, here]
  refine State.acceptIf_false s ?_ _
  rcases no with runs | past
  · rw [runs, Bool.false_and]
  · rw [decide_eq_false (by omega), Bool.and_false]

theorem stopped_iff (x : Queue) : stopped x = true ↔ x.qstate = .error ∨ x.qstate = .disabled := by
  simp [stopped]

theorem runs_of {x : Queue} (h : x.qstate = .running ∨ x.qstate = .fenceWait) : stopped x = false := by
  rcases h with h | h <;> rw [stopped, h] <;> rfl

theorem field_zero_one (b : List Byte) : field b 0 1 = leNat (b.take 1) := rfl

theorem runsAs_fence {x : Queue} {a : Nat} {b : List Byte} (acts : x.acting = some (a, b)) (fence : leNat (b.take 1) = 3) :
    x.runsAs = .fenceWait := by
  simp [Queue.runsAs, acts, field_zero_one, fence]

theorem runsAs_running {x : Queue} (other : ∀ a b, x.acting = some (a, b) → leNat (b.take 1) ≠ 3) : x.runsAs = .running := by
  cases acts : x.acting with
  | none => simp [Queue.runsAs, acts]
  | some ab => simpa [Queue.runsAs, acts, field_zero_one] using other ab.1 ab.2 acts

theorem State.queue?_put_same (s : State) (i : Nat) (x : Queue) :
    ({ s with queues := Table.put s.queues i (.live x) } : State).queue? i = some x := by
  simp only [State.queue?, Table.get?_put_same]

/-- A queue after its restart at an index. -/
def Queue.restarted (v : Nat) (x : Queue) : Queue :=
  { x with rptr := v, copies := [], acting := none, qstate := .running, rereadAt := none }

/-- R347: `rptr` and Running in one step. -/
theorem restart_accepted {s : State} {i : Nat} {x : Queue} (here : s.queue? i = some x) (stop : stopped x = true) {v : Nat}
    (room : (x.wptr + 2 ^ 32 - v) % 2 ^ 32 ≤ 2 ^ x.lg) :
    (s.queueRptr i v).1 = 0 ∧ (s.queueRptr i v).2.queueRun i =
      (0, { s with queues := Table.put s.queues i (.live (x.restarted v)) }) := by
  rw [queueRptr_stopped here stop]
  refine ⟨rfl, ?_⟩
  rw [queueRun_accepted (x := { x with rptr := v, copies := [], acting := none }) (State.queue?_put_same s i _) stop room,
    Table.put_put]
  rfl

theorem zeroAt_of_leNat {b : List Byte} {o n : Nat} (h : leNat ((b.drop o).take n) = 0) : zeroAt b o n = true := by
  unfold zeroAt
  generalize (b.drop o).take n = l at h
  induction l with
  | nil => rfl
  | cons x l ih =>
    have split' : x.toNat + 256 * leNat l = 0 := h
    have first : x = 0 := BitVec.eq_of_toNat_eq (by show x.toNat = 0; omega)
    rw [List.all_cons, ih (by omega), first]
    rfl

/-- What a creation does with the body of its command. -/
theorem createQueue_low {fr : Frame} {s : State} {b : List Byte} (low : fr.addr.toNat < 256) (served : isServed s fr)
    (refuses : s.newSlot fr.pasid.toNat fr.addr.toNat = none ∨ field b 2 1 < 4 ∨ 16 < field b 2 1 ∨ field b 3 8 % 4096 ≠ 0) :
    ∃ t, exec (.createQueue fr b) s = .next t ∧ hasAnswered s t fr 1 [] ∧ leavesMachine s t ∧ leavesTables s t := by
  show ∃ t, execCreateQueue fr b s = .next t ∧ _
  unfold execCreateQueue
  rw [queueCommand_low _ low]
  refine command1_refused served ?_
  have same : s.received.newSlot fr.pasid.toNat fr.addr.toNat = s.newSlot fr.pasid.toNat fr.addr.toNat := rfl
  cases slot : s.newSlot fr.pasid.toNat fr.addr.toNat with
  | none => simp only [same, slot]
  | some n =>
    rw [slot] at refuses
    simp only [same, slot]
    refine State.acceptIf_false _ ?_ _
    rcases refuses with h | h | h | h
    · cases h
    · simp [h]
    · simp [h]
    · simp [h]

theorem createQueue_accepted {fr : Frame} {s : State} {b : List Byte} {i : Nat} (low : fr.addr.toNat < 256) (served : isServed s fr)
    (slot : s.received.newSlot fr.pasid.toNat fr.addr.toNat = some i) (long : b.length = 24)
    (stands : (Table.get? s.contexts fr.pasid.toNat).isSome = true) (phase : (s.ctx fr.pasid.toNat).phase ≠ .destroying)
    (hstage : field b 0 1 < 8) (hlg : 4 ≤ field b 2 1) (hlg' : field b 2 1 ≤ 16) (hring : field b 3 8 % 4096 = 0)
    (hring' : field b 3 8 < 2 ^ 57) (hzero : field b 19 5 = 0) :
    ∃ t, exec (.createQueue fr b) s = .next t ∧ hasAnswered s t fr 0 [] ∧ leavesMachine s t ∧ t.contexts = s.contexts ∧
      t.stages = s.stages ∧
      Table.get? t.queues i = some (.live { pasid := fr.pasid.toNat, q := fr.addr.toNat, stage := field b 0 1, lg := field b 2 1,
                                            ring := field b 3 8 }) ∧
      ∀ j, j ≠ i → Table.get? t.queues j = Table.get? s.queues j := by
  show ∃ t, execCreateQueue fr b s = .next t ∧ _
  unfold execCreateQueue
  rw [queueCommand_low _ low]
  refine command1_putQueue _ served ?_
  have stands : (Table.get? s.received.contexts fr.pasid.toNat).isSome = true := stands
  have phase : (s.received.ctx fr.pasid.toNat).phase ≠ .destroying := phase
  simp only [slot]
  refine (State.acceptIf_true _ ?_ _).trans rfl
  rw [decide_eq_true hring']
  simp [long, zeroAt_of_leNat hzero, stands, phase, hstage, hlg, hlg', hring]

/-- A destruction or a restart of a queue that no probe finds is refused. -/
theorem destroyQueue_refused {fr : Frame} {s : State} (low : fr.addr.toNat < 256) (served : isServed s fr)
    (no : s.received.findQueue fr.pasid.toNat fr.addr.toNat = none ∨ ∃ i x,
      s.received.findQueue fr.pasid.toNat fr.addr.toNat = some i ∧ s.received.queue? i = some x ∧ x.rptr ≠ x.wptr) :
    ∃ t, exec (.destroyQueue fr) s = .next t ∧ hasAnswered s t fr 1 [] ∧ leavesMachine s t ∧ leavesTables s t := by
  show ∃ t, execDestroyQueue fr s = .next t ∧ _
  unfold execDestroyQueue
  rw [queueCommand_low _ low]
  refine command1_refused served ?_
  rcases no with absent | ⟨i, x, found, here, work⟩
  · simp only [absent]
  · simp only [found, here]
    exact State.acceptIf_false _ (by simp [work]) _

theorem destroyQueue_idle {fr : Frame} {s : State} {i : Nat} {x : Queue} (low : fr.addr.toNat < 256) (served : isServed s fr)
    (found : s.received.findQueue fr.pasid.toNat fr.addr.toNat = some i) (here : s.received.queue? i = some x)
    (idle : x.rptr = x.wptr) (calm : ∀ τ ∈ x.tasks, ∀ k, s.taskAny τ = some k → k.inFlight = false) :
    ∃ t, exec (.destroyQueue fr) s = .next t ∧ hasAnswered s t fr 0 [] ∧ leavesMachine s t ∧ t.contexts = s.contexts ∧
      t.stages = s.stages ∧ Table.get? t.queues i = some .tombstone ∧
      ∀ j, j ≠ i → Table.get? t.queues j = Table.get? s.queues j := by
  show ∃ t, execDestroyQueue fr s = .next t ∧ _
  unfold execDestroyQueue
  rw [queueCommand_low _ low]
  refine command1_putQueue _ served ?_
  have free : s.received.queueBusy x = false := by
    rw [State.queueBusy, List.any_eq_false]
    intro τ hτ
    have same : s.received.taskAny τ = s.taskAny τ := rfl
    cases task : s.taskAny τ with
    | none => simp [same, task]
    | some k => simp [same, task, calm τ hτ k task]
  simp only [found, here]
  exact State.acceptIf_true _ (by rw [idle, free]; simp) _

theorem restartQueue_refused {fr : Frame} {s : State} (low : fr.addr.toNat < 256) (served : isServed s fr)
    (absent : s.received.findQueue fr.pasid.toNat fr.addr.toNat = none) (v : Word32) :
    ∃ t, exec (.restartQueue fr v) s = .next t ∧ hasAnswered s t fr 1 [] ∧ leavesMachine s t ∧ leavesTables s t := by
  show ∃ t, execRestartQueue fr v s = .next t ∧ _
  unfold execRestartQueue
  rw [queueCommand_low _ low]
  exact command1_refused served (by simp only [absent])

theorem restartQueue_accepted {fr : Frame} {s : State} {i : Nat} {x : Queue} (low : fr.addr.toNat < 256) (served : isServed s fr)
    (found : s.received.findQueue fr.pasid.toNat fr.addr.toNat = some i) (here : s.received.queue? i = some x)
    (stop : stopped x = true) (v : Word32) (room : (x.wptr + 2 ^ 32 - v.toNat) % 2 ^ 32 ≤ 2 ^ x.lg) :
    ∃ t, exec (.restartQueue fr v) s = .next t ∧ hasAnswered s t fr 0 [] ∧ leavesMachine s t ∧ t.contexts = s.contexts ∧
      t.stages = s.stages ∧ Table.get? t.queues i = some (.live (x.restarted v.toNat)) ∧
      ∀ j, j ≠ i → Table.get? t.queues j = Table.get? s.queues j := by
  show ∃ t, execRestartQueue fr v s = .next t ∧ _
  unfold execRestartQueue
  rw [queueCommand_low _ low]
  refine command1_putQueue _ served ?_
  obtain ⟨first, second⟩ := restart_accepted here stop room
  simp only [found, first, second, bne_self_eq_false, Bool.false_eq_true, if_false, if_true]
  rfl

/-- R341: a store to a doorbell sets the write pointer of its queue, or writes nothing. -/
theorem doorbell_rings {i : Nat} {x : Queue} {s : State} (here : s.queue? i = some x) (awake : s.recovery = false)
    (stays : s.stuck = false) (by' : Option Nat) (v : Word64) :
    ((by' = none ∨ by' = some x.pasid) → execDoorbellWrite by' i v s =
      .next { s with queues := Table.put s.queues i (.live { x with wptr := v.toNat % 2 ^ 32, rereadAt := none }) }) ∧
    (∀ p, by' = some p → p ≠ x.pasid → execDoorbellWrite by' i v s = .next s) := by
  have open' : ¬ (s.recovery || s.stuck) = true := by rw [awake, stays]; simp
  unfold execDoorbellWrite
  rw [if_neg open', here, State.modQueue_of here]
  refine ⟨fun own => if_neg ?_, fun p by'' foreign => if_pos ?_⟩
  · rcases own with rfl | rfl <;> simp
  · subst by''
    simp [foreign]

/-- The slot that the probes of a queue reach holds it. -/
theorem found_of_reached {s : State} {p q i : Nat} {x : Queue} (here : s.queue? i = some x) (hp : x.pasid = p) (hq : x.q = q)
    (reached : ∃ j, j < 8 ∧ i = probe p q j ∧ ∀ n, n < j → ∃ e, Table.get? s.queues (probe p q n) = some e ∧
      ¬ ∃ y : Queue, e = .live y ∧ y.pasid = p ∧ y.q = q) : s.received.findQueue p q = some i := by
  obtain ⟨j, hj, rfl, passes⟩ := reached
  refine findQueue_found hj (fun n hn => ?_) (State.queue?_eq_some here) hp hq
  obtain ⟨e, at', foreign⟩ := passes n hn
  exact ⟨e, at', Bool.eq_false_iff.2 fun mine => foreign ((QueueSlot.hasKey_iff e p q).1 mine)⟩

/-- Settles O45: the probes by induction over the slots probed, the commands by the rule of each action on the slot's queue. -/
theorem queuesAreControlled : Obligations.QueuesAreControlled := by
  unfold Obligations.QueuesAreControlled
  refine ⟨fun fr s served => ⟨fun b long => ⟨fun high => ?_, fun low bad => ?_, fun low taken => ?_,
      fun j low hj live free foreign stands phase hstage hlg hlg' hring hring' hzero => ?_⟩,
    fun i x here => ⟨?_, fun stop => ⟨fun v => ?_, fun room => ⟨fun a b acts fence => ?_, fun other => ?_⟩, fun past => ?_,
      fun low reached hp hq v room => ?_⟩, fun runs => ⟨fun v => ?_, ?_⟩, fun low reached hp hq idle calm => ?_,
      fun low reached hp hq work => ?_⟩, fun low absent => ?_⟩,
    fun i x by' v s here awake stays => ⟨fun own => ?_, fun p by'' foreign => ?_⟩⟩
  · exact queueCommand_high _ high served
  · exact createQueue_low low served (.inr bad)
  · refine createQueue_low low served (.inl ?_)
    rcases taken with ⟨j, e, hj, here, mine⟩ | live
    · exact newSlot_exists hj here ((QueueSlot.hasKey_iff e _ _).2 mine)
    · exact newSlot_full live
  · have slot : s.received.newSlot fr.pasid.toNat fr.addr.toNat = some (probe fr.pasid.toNat fr.addr.toNat j) :=
      newSlot_taken hj (fun n e hn at' => Bool.eq_false_iff.2 fun mine => foreign n e hn at' ((QueueSlot.hasKey_iff e _ _).1 mine))
        live free
    exact createQueue_accepted low served slot long stands phase hstage hlg hlg' hring hring' hzero
  · exact command1_putQueue (fun t => t.queueDisable i) served (queueDisable_eq (s := s.received) here)
  · exact command1_putQueue (fun t => t.queueRptr i v.toNat) served
      (queueRptr_stopped (s := s.received) here ((stopped_iff x).2 stop) v.toNat)
  · have accepted := queueRun_accepted (s := s.received) here ((stopped_iff x).2 stop) room
    rw [runsAs_fence acts fence] at accepted
    exact command1_putQueue (fun t => t.queueRun i) served accepted
  · have accepted := queueRun_accepted (s := s.received) here ((stopped_iff x).2 stop) room
    rw [runsAs_running other] at accepted
    exact command1_putQueue (fun t => t.queueRun i) served accepted
  · exact command1_refused (act := fun t => t.queueRun i) served (queueRun_refused (s := s.received) here (.inr past))
  · exact restartQueue_accepted low served (found_of_reached here hp hq reached) here ((stopped_iff x).2 stop) v room
  · exact command1_refused (act := fun t => t.queueRptr i v.toNat) served (queueRptr_running (s := s.received) here (runs_of runs) v.toNat)
  · exact command1_refused (act := fun t => t.queueRun i) served (queueRun_refused (s := s.received) here (.inl (runs_of runs)))
  · exact destroyQueue_idle low served (found_of_reached here hp hq reached) here idle calm
  · exact destroyQueue_refused low served (.inr ⟨i, x, found_of_reached here hp hq reached, here, work⟩)
  · have passed : ∀ n, (∃ e, Table.get? s.queues (probe fr.pasid.toNat fr.addr.toNat n) = some e ∧
        ¬ ∃ y : Queue, e = .live y ∧ y.pasid = fr.pasid.toNat ∧ y.q = fr.addr.toNat) →
        passesSlot s.queues fr.pasid.toNat fr.addr.toNat (probe fr.pasid.toNat fr.addr.toNat n) :=
      fun n ⟨e, at', foreign⟩ => ⟨e, at', Bool.eq_false_iff.2 fun mine => foreign ((QueueSlot.hasKey_iff e _ _).1 mine)⟩
    have unfound : s.received.findQueue fr.pasid.toNat fr.addr.toNat = none := by
      refine findQueue_absent (s := s.received) ?_
      rcases absent with passes | ⟨j, hj, empty, passes⟩
      · exact .inl fun j hj => passed j (passes j hj)
      · exact .inr ⟨j, hj, empty, fun n hn => passed n (passes n hn)⟩
    exact ⟨destroyQueue_refused low served (.inl unfound), restartQueue_refused low served unfound⟩
  · exact ⟨_, (doorbell_rings here awake stays by' v).1 own, ⟨Table.get?_put_same .., fun j other => Table.get?_put_other _ _ other⟩,
      ⟨rfl, rfl, rfl, rfl, rfl, rfl⟩, rfl, rfl⟩
  · exact (doorbell_rings here awake stays by' v).2 p by'' foreign

end Sys2Proof.Machine
end

section
/-!
PROOFS. Contexts are created, destroyed and freed (R335, R348), and invalidations take effect (R214, R237, R338).
-/
namespace Sys2Proof.Machine
open Sys2Proof

/-! ### Tables and memories under maps and filters -/

theorem Table.get?_map_keys {α : Type} (t : Table α) {g : Nat × α → Nat × α} (keys : ∀ e, (g e).1 = e.1) (k : Nat) :
    Table.get? (t.map g) k = (Table.get? t k).map fun v => (g (k, v)).2 := by
  induction t with
  | nil => rfl
  | cons e t ih =>
    obtain ⟨j, v⟩ := e
    have key : (g (j, v)).1 = j := keys (j, v)
    by_cases h : j = k
    · subst h
      simp [Table.get?, key]
    · simp [Table.get?, key, h, ih]

theorem Table.get?_del_same {α : Type} (t : Table α) (k : Nat) : Table.get? (Table.del t k) k = none := by
  induction t with
  | nil => rfl
  | cons e t ih =>
    obtain ⟨j, v⟩ := e
    by_cases h : j = k
    · simpa [Table.del, h] using ih
    · simpa [Table.del, h, Table.get?] using ih

theorem Memory.read_filter (m : Memory) (keep : Nat → Bool) (a : Nat) :
    Memory.read (m.filter fun e => keep e.1) a = if keep a then Memory.read m a else 0 := by
  induction m with
  | nil => simp [Memory.read]
  | cons e m ih =>
    obtain ⟨j, b⟩ := e
    by_cases hk : keep j = true
    · by_cases h : j = a
      · subst h
        simp [Memory.read, hk]
      · simp only [List.filter_cons, hk, if_true, Memory.read, h, if_false, ih]
    · by_cases h : j = a
      · subst h
        simp only [List.filter_cons, hk, Bool.false_eq_true, if_false, ih]
      · simp only [List.filter_cons, hk, Bool.false_eq_true, if_false, Memory.read, h, ih]

/-- Contexts after one of them has been put. -/
theorem ctx_of_put {s t : State} {p : Nat} {x : Context} (h : t.contexts = Table.put s.contexts p x) :
    t.ctx p = x ∧ ∀ q, q ≠ p → t.ctx q = s.ctx q := by
  refine ⟨?_, fun q other => ?_⟩
  · rw [State.ctx, h]
    exact Table.get_put_same ..
  · rw [State.ctx, h]
    exact Table.get_put_other _ _ _ other

/-! ### Creation -/

theorem inRange_iff (lo n a : Nat) : inRange lo n a = true ↔ lo ≤ a ∧ a < lo + n := by simp [inRange]

/-- The context of a descriptor, with its entry of the scope table filled. -/
def State.created (s : State) (b : List Byte) : Context :=
  { descriptor b with scope7 := scopeSeven s.free s.upPorts.length (field b 0 4) }

theorem createContext_refused {fr : Frame} {b : List Byte} {s : State} (served : isServed s fr) (bad : s.descriptorOk b = false) :
    ∃ t, exec (.createContext fr b) s = .next t ∧ hasAnswered s t fr 1 [] ∧ leavesMachine s t ∧ leavesTables s t := by
  have bad : s.received.descriptorOk b = false := bad
  exact command1_refused served (State.acceptIf_false _ bad _)

/-- A descriptor with a foreign byte set is refused: its reserved bytes are zero together or not at all. -/
theorem leNat_of_zeroAt {b : List Byte} {o n : Nat} (h : zeroAt b o n = true) : leNat ((b.drop o).take n) = 0 := by
  unfold zeroAt at h
  generalize (b.drop o).take n = l at h
  induction l with
  | nil => rfl
  | cons x l ih =>
    rw [List.all_cons, Bool.and_eq_true, beq_iff_eq] at h
    rw [leNat, ih h.2, h.1]
    rfl

theorem descriptorOk_bad {b : List Byte} {s : State}
    (bad : field b 0 4 = 0 ∨ (Table.get? s.contexts (field b 0 4)).isSome = true ∨ field b 56 8 ≠ 0) : s.descriptorOk b = false := by
  rcases bad with h | h | h
  · simp [State.descriptorOk, h]
  · have there : (Table.get? s.contexts (field b 0 4)).isNone = false := by simpa using h
    simp [State.descriptorOk, there]
  · have set' : zeroAt b 56 8 = false := Bool.eq_false_iff.2 fun zero => h (leNat_of_zeroAt zero)
    simp [State.descriptorOk, set']

theorem descriptorOk_first {b : List Byte} {s : State} (first : s.contexts = []) (long : b.length = 64) (hp : 0 < field b 0 4)
    (hp' : field b 0 4 < 2 ^ 20) (z1 : field b 6 2 = 0) (z2 : field b 36 4 = 0) (z3 : field b 56 8 = 0)
    (root : field b 8 8 % 2 ^ 21 = 0) (root' : field b 8 8 + 2 ^ 21 ≤ hbmEnd) (save : field b 16 8 % 2 ^ 30 = 0)
    (save' : field b 16 8 < hbmEnd) (xs : field b 40 8 % 128 = 0) (ph : field b 24 2 + field b 26 2 ≤ 512)
    (dc : field b 28 4 + field b 32 4 ≤ 65536) (xs' : field b 40 8 + field b 48 8 ≤ Config.xsBytes) :
    s.descriptorOk b = true := by
  simp only [State.descriptorOk, Bool.and_eq_true, decide_eq_true_eq, beq_iff_eq, bne_iff_ne]
  and_intros
  exacts [long, hp.ne', hp', zeroAt_of_leNat z1, zeroAt_of_leNat z2, zeroAt_of_leNat z3, by rw [first]; rfl,
    by rw [State.running, first]; decide, root, root', save, save', xs, ph, dc, xs', by rw [first]; rfl]

theorem createContext_accepted {fr : Frame} {b : List Byte} {s : State} (served : isServed s fr) (ok : s.descriptorOk b = true) :
    ∃ t, exec (.createContext fr b) s = .next t ∧ hasAnswered s t fr 0 [] ∧
      t.contexts = Table.put s.contexts (field b 0 4) (s.created b) ∧ t.cores = s.cores ∧ t.clusters = s.clusters ∧
      t.pmem = s.pmem := by
  refine ⟨_, congrArg Host.Outcome.next ((State.command1_served served).trans
    (by rw [State.acceptIf_true s.received (show s.received.descriptorOk b = true from ok)])), ?_⟩
  exact ⟨hasAnswered_sendFrame 0 [] rfl rfl rfl, rfl, rfl, rfl, rfl⟩

/-! ### Destruction -/

theorem destroyContext_absent {fr : Frame} {s : State} (served : isServed s fr)
    (absent : Table.get? s.contexts fr.pasid.toNat = none) :
    ∃ t, exec (.destroyContext fr) s = .next t ∧ hasAnswered s t fr 1 [] ∧ leavesMachine s t ∧ leavesTables s t := by
  have absent : Table.get? s.received.contexts fr.pasid.toNat = none := absent
  exact command1_refused served (State.acceptIf_false _ (by rw [absent]; rfl) _)

/-- A slot of the queue table when a context is destroyed. -/
def buried (p : Nat) (e : Nat × QueueSlot) : Nat × QueueSlot :=
  match e.2 with
  | .live q => if q.pasid == p then (e.1, .tombstone) else e
  | .tombstone => e

theorem buried_key (p : Nat) (e : Nat × QueueSlot) : (buried p e).1 = e.1 := by
  obtain ⟨i, x⟩ := e
  cases x with
  | tombstone => rfl
  | live q =>
    unfold buried
    dsimp only
    split
    · rfl
    · rfl

theorem buried_live (p i : Nat) (q : Queue) :
    (q.pasid = p → (buried p (i, .live q)).2 = .tombstone) ∧ (q.pasid ≠ p → (buried p (i, .live q)).2 = .live q) := by
  refine ⟨fun own => ?_, fun foreign => ?_⟩
  · simp [buried, own]
  · simp [buried, foreign]

/-- A context from its destruction on. -/
def Context.dying (tag : Word64) (x : Context) : Context :=
  { x with phase := .destroying, tag := tag, command := 0x02, area := none, stash := [], windows := [], inch := [], outch := [] }

theorem destroyContext_accepted {fr : Frame} {s : State} (served : isServed s fr)
    (stands : Table.get? s.contexts fr.pasid.toNat ≠ none)
    (phase : (s.ctx fr.pasid.toNat).phase = .active ∨ (s.ctx fr.pasid.toNat).phase = .saved)
    (apart : s.inGang fr.pasid.toNat = false) (calm : s.ctxTasks fr.pasid.toNat = []) :
    ∃ t, exec (.destroyContext fr) s = .next t ∧ hasAnswered s t fr 0 [] ∧
      t.contexts = Table.put s.contexts fr.pasid.toNat ((s.ctx fr.pasid.toNat).dying fr.tag) ∧
      t.queues = s.queues.map (buried fr.pasid.toNat) ∧ leavesMachine s t := by
  have stands' : (Table.get? s.received.contexts fr.pasid.toNat).isSome = true := Option.isSome_iff_ne_none.2 stands
  have apart' : s.received.inGang fr.pasid.toNat = false := apart
  have open' : ((s.received.ctx fr.pasid.toNat).phase == .active || (s.received.ctx fr.pasid.toNat).phase == .saved) = true := by
    rcases phase with h | h <;> rw [show s.received.ctx fr.pasid.toNat = s.ctx fr.pasid.toNat from rfl, h] <;> rfl
  have calm' : s.received.ctxTasks fr.pasid.toNat = [] := calm
  refine ⟨_, congrArg Host.Outcome.next ((State.command1_served served).trans
    (by rw [State.acceptIf_true s.received (by rw [stands', open', apart']; rfl), calm'])), ?_⟩
  exact ⟨hasAnswered_sendFrame 0 [] rfl rfl rfl, rfl, rfl, rfl, rfl, rfl, rfl, rfl, rfl⟩

/-! ### The end of a context -/

/-- What an event frame leaves: everything but the frames sent. -/
theorem eventFrame_host (s : State) (p code : Nat) (tag : Word64) (bs : List Byte) :
    ∃ h, s.eventFrame p code tag bs = { s with host := h } := by
  unfold State.eventFrame
  split
  · exact ⟨s.host, rfl⟩
  · exact ⟨_, rfl⟩

theorem eventFrame_sent {s : State} (healthy : s.viral = false) (p code : Nat) (tag : Word64) (bs : List Byte) :
    ∃ f, (s.eventFrame p code tag bs).host.sent = s.host.sent ++ [f] ∧ f.type = 5 ∧ f.code = code ∧ f.tag = tag ∧ f.pasid = p := by
  unfold State.eventFrame
  rw [healthy]
  exact ⟨_, rfl, rfl, rfl, rfl, rfl⟩

/-- A chip without a context: its ranges, its stages, its clusters and their cores are clear. -/
def State.without (s : State) (p : Nat) : State :=
  let cls := s.ctxClusters p
  let s1 := s.clearRanges (s.ctx p)
  { s1 with
    contexts := Table.del s1.contexts p,
    stages := s1.stages.map fun (e : Nat × Stage) => if e.2.pasid == p then (e.1, {}) else e,
    clusters := s1.clusters.map fun (e : Nat × Cluster) => if cls.contains e.1 then
      (e.1, { e.2 with pool := [], poolBy := [], phasers := [], waits := [], savingAt := none }) else e,
    cores := s1.cores.map fun (e : Nat × Core) => if cls.contains (clusterOf e.1) then
      (e.1, { (e.2.handOver false) with eng := { (e.2.handOver false).eng with phaserOps := [], spawnSeq := 0 } }) else e,
    link := { s1.link with buffered := s1.link.buffered.filter fun (e : Nat × Arrival) => e.1 != p,
                           outbound := s1.link.outbound.filter fun (e : Nat × Flit) => e.1 != p } }

theorem contextFreed_stays {s : State} {p : Nat} (phase : (s.ctx p).phase ≠ .destroying) : execContextFreed p s = .next s := by
  have no : ((s.ctx p).phase != .destroying) = true := bne_iff_ne.2 phase
  simp only [execContextFreed, no, Bool.true_or, if_true]

theorem contextFreed_frees {s : State} {p : Nat} (phase : (s.ctx p).phase = .destroying)
    (held : ∀ e ∈ s.clusters, ∀ h ∈ e.2.held, h.pasid ≠ p)
    (calm : ∀ e ∈ s.tasks, e.2.pasid = p → e.2.inFlight = false ∧ s.coresOf e.1 = []) :
    execContextFreed p s = .next ((if (s.ctx p).command = 0 then s.without p else
      (s.without p).eventFrame p (s.ctx p).command (s.ctx p).tag []).layoutCheck) := by
  have noHeld : (s.clusters.any fun (e : Nat × Cluster) => e.2.held.any fun h => h.pasid == p) = false := by
    simp only [List.any_eq_false, beq_iff_eq, Bool.not_eq_true, List.any_eq_false]
    exact held
  have noBusy : (s.tasks.any fun (e : Nat × Task) => e.2.pasid == p && (e.2.inFlight || !(s.coresOf e.1).isEmpty)) = false := by
    rw [List.any_eq_false]
    intro e he
    by_cases own : e.2.pasid = p
    · simp [(calm e he own).1, (calm e he own).2]
    · simp [own]
  simp only [execContextFreed, phase, noHeld, noBusy, bne_self_eq_false, Bool.or_false, Bool.false_eq_true, if_false]
  rfl

theorem core_without {s : State} {p c : Nat} (other : c / 8 ∉ s.ctxClusters p) : (s.without p).core c = s.core c := by
  have keys : ∀ e : Nat × Core, (if (s.ctxClusters p).contains (clusterOf e.1) then
      (e.1, { (e.2.handOver false) with eng := { (e.2.handOver false).eng with phaserOps := [], spawnSeq := 0 } }) else e).1 = e.1 := by
    intro e
    split
    · rfl
    · rfl
  have away : (s.ctxClusters p).contains (clusterOf c) = false := by simpa [clusterOf] using other
  have kept : Table.get? (s.without p).cores c = Table.get? s.cores c := by
    refine (Table.get?_map_keys s.cores keys c).trans ?_
    simp only [away, Bool.false_eq_true, if_false, Option.map_id']
  show (Table.get? (s.without p).cores c).getD {} = (Table.get? s.cores c).getD {}
  rw [kept]

theorem clu_without {s : State} {p c : Nat} (own : c ∈ s.ctxClusters p) :
    ((s.without p).clu c).pool = [] ∧ ((s.without p).clu c).phasers = [] := by
  have keys : ∀ e : Nat × Cluster, (if (s.ctxClusters p).contains e.1 then
      (e.1, { e.2 with pool := [], poolBy := [], phasers := [], waits := [], savingAt := none }) else e).1 = e.1 := by
    intro e
    split
    · rfl
    · rfl
  have here : (s.ctxClusters p).contains c = true := by simpa using own
  have gets : Table.get? (s.without p).clusters c = (Table.get? s.clusters c).map fun v =>
      { v with pool := [], poolBy := [], phasers := [], waits := [], savingAt := none } := by
    refine (Table.get?_map_keys s.clusters keys c).trans ?_
    simp only [here, if_true]
  show ((Table.get? (s.without p).clusters c).getD {}).pool = [] ∧ ((Table.get? (s.without p).clusters c).getD {}).phasers = []
  rw [gets]
  cases Table.get? s.clusters c with
  | none => exact ⟨rfl, rfl⟩
  | some v => exact ⟨rfl, rfl⟩

theorem ctx_without {s : State} {p q : Nat} (other : q ≠ p) : (s.without p).ctx q = s.ctx q :=
  (Table.get_del s.contexts {} p q).trans (if_neg other)

theorem xs_without (s : State) (p a : Nat) :
    (s.without p).xs.read a = if inRange (s.ctx p).xsbase (s.ctx p).xssize a then 0 else s.xs.read a := by
  refine (Memory.read_filter s.xs (fun b => !inRange (s.ctx p).xsbase (s.ctx p).xssize b) a).trans ?_
  cases inRange (s.ctx p).xsbase (s.ctx p).xssize a <;> rfl

/-! ### Markers -/

/-- What passes of a context's markers at the end of a cycle. -/
def State.passContext (s : State) (e : Nat × Context) : State :=
  let done := e.2.markers.filter fun m => s.passed m.id
  if done.isEmpty then s
  else (done.foldl (fun (s : State) m => (s.dropTranslations e.1 m.va m.count m.size).eventFrame e.1 0x06 m.tag []) s).modCtx e.1
    fun x => { x with markers := x.markers.filter fun m => !done.contains m }

theorem passMarkers_eq (s : State) : s.passMarkers = s.contexts.foldl State.passContext s := rfl

theorem passContext_none {s : State} {e : Nat × Context} (free : e.2.markers.filter (fun m => s.passed m.id) = []) :
    s.passContext e = s := by
  simp only [State.passContext, free, List.isEmpty_nil, if_true]

/-- A context once a marker of it has taken effect. -/
def Context.passes (m : Marker) (x : Context) : Context := { x with markers := x.markers.filter fun n => !decide (n = m) }

theorem passContext_one {s : State} {p : Nat} {x : Context} {m : Marker} (marks : x.markers = [m]) (passed : s.passed m.id = true) :
    s.passContext (p, x) =
      ((s.dropTranslations p m.va m.count m.size).eventFrame p 0x06 m.tag []).modCtx p (Context.passes m) := by
  simp [State.passContext, marks, passed]
  rfl

theorem foldl_stays {α β : Type} {f : β → α → β} {l : List α} {b : β} (h : ∀ a ∈ l, f b a = b) : l.foldl f b = b := by
  induction l with
  | nil => rfl
  | cons a l ih => rw [List.foldl_cons, h a List.mem_cons_self, ih fun c hc => h c (List.mem_cons_of_mem a hc)]

/-- Where only one context has a marker, the end of a cycle is that context's. -/
theorem passMarkers_alone {s : State} {p : Nat} {x : Context} (keys : (s.contexts.map (·.1)).Nodup) (here : (p, x) ∈ s.contexts)
    (others : ∀ e ∈ s.contexts, e.1 ≠ p → e.2.markers = []) : s.passMarkers = s.passContext (p, x) := by
  obtain ⟨before, behind, split'⟩ := List.append_of_mem here
  have apart : ∀ e, e ∈ before ∨ e ∈ behind → e.2.markers = [] := by
    rw [split', List.map_append, List.map_cons, List.nodup_append] at keys
    obtain ⟨-, tailKeys, cross⟩ := keys
    rintro e (he | he)
    · exact others e (by rw [split']; simp [he]) fun eq => cross e.1 (List.mem_map_of_mem he) p List.mem_cons_self eq
    · exact others e (by rw [split']; simp [he]) fun eq => (List.nodup_cons.1 tailKeys).1 (eq ▸ List.mem_map_of_mem (f := (·.1)) he)
  have still : ∀ (u : State) e, e ∈ before ∨ e ∈ behind → u.passContext e = u := fun u e he =>
    passContext_none (by rw [apart e he]; rfl)
  rw [passMarkers_eq, split', List.foldl_append, foldl_stays fun e he => still s e (.inl he), List.foldl_cons,
    foldl_stays fun e he => still _ e (.inr he)]

/-- What a marker that takes effect leaves: its context has lost the translations of its range and the marker. -/
theorem passContext_takes {s : State} {p : Nat} {m : Marker} (marks : (s.ctx p).markers = [m]) (passed : s.passed m.id = true) :
    leavesMachine s (s.passContext (p, s.ctx p)) ∧ (∀ q, q ≠ p → (s.passContext (p, s.ctx p)).ctx q = s.ctx q) ∧
    (s.passContext (p, s.ctx p)).ctx p = { s.ctx p with
      tlb := (s.ctx p).tlb.filter fun e =>
        !(m.size == .all || (decide (m.va ≤ e.1 * 4096) && decide (e.1 * 4096 < m.va + m.count * tinvBytes m.size))),
      markers := [] } ∧
    (s.viral = false → ∃ f, (s.passContext (p, s.ctx p)).host.sent = s.host.sent ++ [f] ∧ f.type = 5 ∧ f.code = 6 ∧
      f.tag = m.tag ∧ f.pasid = p) := by
  rw [passContext_one marks passed]
  obtain ⟨h, framed⟩ := eventFrame_host (s.dropTranslations p m.va m.count m.size) p 0x06 m.tag []
  have sent := fun healthy => eventFrame_sent (s := s.dropTranslations p m.va m.count m.size) healthy p 0x06 m.tag []
  rw [framed] at sent ⊢
  have dropped : (s.dropTranslations p m.va m.count m.size).contexts = Table.put s.contexts p _ := rfl
  obtain ⟨here, others⟩ := ctx_of_put dropped
  have passes : (State.modCtx { s.dropTranslations p m.va m.count m.size with host := h } p (Context.passes m)).contexts =
      Table.put (s.dropTranslations p m.va m.count m.size).contexts p
        (Context.passes m ((s.dropTranslations p m.va m.count m.size).ctx p)) := rfl
  obtain ⟨here', others'⟩ := ctx_of_put passes
  refine ⟨⟨rfl, rfl, rfl, rfl, rfl, rfl⟩, fun q other => (others' q other).trans (others q other), ?_, sent⟩
  rw [here', here]
  simp [Context.passes, marks]

theorem notPassed {s : State} {m : Marker} (waits : ∃ e ∈ s.cores, ∃ x ∈ e.2.eng.copyQ, x.id < m.id ∧ x.complete = false) :
    s.passed m.id = false := by
  obtain ⟨e, he, x, hx, before, open'⟩ := waits
  refine Bool.eq_false_iff.2 fun passed => ?_
  have all := List.all_eq_true.1 (List.all_eq_true.1 passed e he) x hx
  rw [open', Bool.or_false, decide_eq_true_eq] at all
  omega

theorem hasPassed {s : State} {m : Marker} (calm : ∀ e ∈ s.cores, ∀ x ∈ e.2.eng.copyQ, m.id ≤ x.id ∨ x.complete = true) :
    s.passed m.id = true := by
  refine List.all_eq_true.2 fun e he => List.all_eq_true.2 fun x hx => ?_
  rw [Bool.or_eq_true, decide_eq_true_eq]
  exact calm e he x hx

theorem tinvBytes_eq (size : TinvSize) :
    tinvBytes size = match size with | .k4 => 2 ^ 12 | .m2 => 2 ^ 21 | .g1 => 2 ^ 30 | .all => 2 ^ 57 := by
  cases size <;> rfl

theorem tinvRefused_iff (va n : Nat) (size : TinvSize) :
    tinvRefused va n size = true ↔ size ≠ .all ∧ (va % tinvBytes size ≠ 0 ∨ n = 0 ∨ 512 < n) := by
  simp [tinvRefused, or_assoc]

theorem invalidate_refused {fr : Frame} {va n : Word64} {size : TinvSize} {s : State} (served : isServed s fr)
    (bad : tinvRefused va.toNat n.toNat size = true) :
    ∃ t, exec (.invalidateTranslations fr va n size) s = .next t ∧ hasAnswered s t fr 1 [] ∧ leavesMachine s t ∧
      leavesTables s t :=
  command1_refused served (State.acceptIf_false _ (by rw [bad]; simp) _)

theorem invalidate_accepted {fr : Frame} {va n : Word64} {size : TinvSize} {s : State} (served : isServed s fr)
    (stands : Table.get? s.contexts fr.pasid.toNat ≠ none) (good : tinvRefused va.toNat n.toNat size = false) :
    ∃ t, exec (.invalidateTranslations fr va n size) s = .next t ∧ hasAnswered s t fr 0 [] ∧ leavesMachine s t ∧
      (∀ q, q ≠ fr.pasid.toNat → t.ctx q = s.ctx q) ∧
      t.ctx fr.pasid.toNat = { s.ctx fr.pasid.toNat with markers := (s.ctx fr.pasid.toNat).markers ++
        [{ id := s.nextId, va := va.toNat, count := n.toNat, size := size, tag := fr.tag }] } := by
  have stands' : (Table.get? s.received.contexts fr.pasid.toNat).isSome = true := Option.isSome_iff_ne_none.2 stands
  refine ⟨_, congrArg Host.Outcome.next ((State.command1_served served).trans
    (by rw [State.acceptIf_true s.received (by rw [stands', good]; rfl)])), ?_⟩
  obtain ⟨here, others⟩ := ctx_of_put (s := s)
    (t := s.received.takeId.2.modCtx fr.pasid.toNat fun x => { x with markers := x.markers ++
      [{ id := s.nextId, va := va.toNat, count := n.toNat, size := size, tag := fr.tag }] }) rfl
  exact ⟨hasAnswered_sendFrame 0 [] rfl rfl rfl, ⟨rfl, rfl, rfl, rfl, rfl, rfl⟩, others, here⟩

/-- A freed context is gone, with its ranges, its clusters' pools and its cores' registers, and its command's event is posted. -/
theorem contextFreed_ends {s : State} {p : Nat} (healthy : s.viral = false) :
    ∃ h, ((if (s.ctx p).command = 0 then s.without p else
      (s.without p).eventFrame p (s.ctx p).command (s.ctx p).tag []).layoutCheck) = { s.without p with host := h } ∧
      ((s.ctx p).command = 0 → h.sent = s.host.sent) ∧
      ((s.ctx p).command ≠ 0 → ∃ f, h.sent = s.host.sent ++ [f] ∧ f.type = 5 ∧ f.code = (s.ctx p).command ∧
        f.tag = (s.ctx p).tag ∧ f.pasid = p) := by
  by_cases silent : (s.ctx p).command = 0
  · rw [if_pos silent]
    exact ⟨_, rfl, fun _ => rfl, fun asked => absurd silent asked⟩
  · rw [if_neg silent]
    obtain ⟨h, framed⟩ := eventFrame_host (s.without p) p (s.ctx p).command (s.ctx p).tag []
    have sent := eventFrame_sent (s := s.without p) healthy p (s.ctx p).command (s.ctx p).tag []
    rw [framed] at sent ⊢
    exact ⟨_, rfl, fun asked => absurd asked silent, fun _ => sent⟩

/-- Settles O44: creation and destruction by what the command puts into the tables, the end of a context by `State.without`, and
an invalidation by the one context whose marker passes. -/
theorem contextsAndTranslations : Obligations.ContextsAndTranslations := by
  unfold Obligations.ContextsAndTranslations
  refine ⟨⟨fun fr b s served long => ⟨fun bad => createContext_refused served (descriptorOk_bad bad),
      fun first hp hp' z1 z2 z3 root root' save save' xs ph dc xs' => ?_⟩,
    fun fr s served => ⟨destroyContext_absent served, fun stands phase apart calm => ?_⟩,
    fun p s => ⟨contextFreed_stays, fun phase healthy held calm => ?_⟩⟩,
    fun fr va n size s served => ⟨fun some bad => ?_, fun stands good => ?_⟩,
    fun p m s keys stands marks others => ⟨fun waits => ?_, fun calm => ?_⟩⟩
  · obtain ⟨t, ends, answered, contexts, cores, clusters, pmem⟩ := createContext_accepted served
      (descriptorOk_first first long hp hp' z1 z2 z3 root root' save save' xs ph dc xs')
    have made : t.ctx (leNat ((b.drop 0).take 4)) = s.created b := (ctx_of_put contexts).1
    refine ⟨t, ends, answered, ?_⟩
    simp only [made]
    refine ⟨rfl, rfl, rfl, rfl, rfl, rfl, rfl, rfl, rfl, rfl, rfl, rfl, rfl, fun q other => ?_, cores, clusters, pmem⟩
    rw [contexts, first]
    exact Table.get?_put_other _ _ other
  · obtain ⟨t, ends, answered, contexts, queues, machine⟩ := destroyContext_accepted served stands phase apart calm
    obtain ⟨made, others⟩ := ctx_of_put contexts
    refine ⟨t, ends, answered, by rw [made]; rfl, by rw [made]; rfl, by rw [made]; rfl, others, fun i q here => ?_, machine⟩
    have slot : Table.get? t.queues i = some (buried fr.pasid.toNat (i, .live q)).2 := by
      rw [queues, Table.get?_map_keys s.queues (buried_key _) i, State.queue?_eq_some here]
      rfl
    obtain ⟨own, foreign⟩ := buried_live fr.pasid.toNat i q
    refine ⟨fun h => by rw [slot, own h], fun h => ?_⟩
    rw [foreign h] at slot
    simp only [State.queue?, slot]
  · obtain ⟨h, ends, silent, asked⟩ := contextFreed_ends (p := p) healthy
    refine ⟨_, (contextFreed_frees phase held calm).trans (congrArg Host.Outcome.next ends), Table.get?_del_same s.contexts p,
      fun q other => ctx_without other, ⟨silent, asked⟩, rfl, rfl, fun a low high => ?_, fun a out => ?_,
      fun c other => core_without other, fun c own => clu_without own⟩
    · exact (xs_without s p a).trans (if_pos ((inRange_iff _ _ a).2 ⟨low, high⟩))
    · exact (xs_without s p a).trans (if_neg fun within => by have := (inRange_iff _ _ a).1 within; omega)
  · refine invalidate_refused served ((tinvRefused_iff _ _ size).2 ⟨some, ?_⟩)
    rw [tinvBytes_eq]
    exact bad.imp id (Or.imp (fun h => by rw [h]; rfl) id)
  · refine invalidate_accepted served stands (Bool.eq_false_iff.2 fun bad => ?_)
    obtain ⟨some, bad⟩ := (tinvRefused_iff _ _ size).1 bad
    rcases good with all | ⟨whole, pages, few⟩
    · exact some all
    · rw [tinvBytes_eq] at bad
      rcases bad with h | h | h
      · exact h whole
      · exact pages (BitVec.eq_of_toNat_eq h)
      · omega
  · obtain ⟨x, here⟩ := Option.isSome_iff_exists.1 stands
    have own : s.ctx p = x := by rw [State.ctx, Table.get, here]; rfl
    rw [passMarkers_alone keys (mem_of_get? here) others]
    refine passContext_none ?_
    rw [← own, marks, List.filter_cons, notPassed waits]
    rfl
  · obtain ⟨x, here⟩ := Option.isSome_iff_exists.1 stands
    have own : s.ctx p = x := by rw [State.ctx, Table.get, here]; rfl
    obtain ⟨machine, rest, context, frame⟩ := passContext_takes marks (hasPassed calm)
    rw [own] at machine rest context frame
    rw [passMarkers_alone keys (mem_of_get? here) others]
    refine ⟨machine, rest, fun e => ?_, ?_, by rw [context], frame⟩
    · rw [context, own, tinvBytes_eq]
      simp only [List.mem_filter, Bool.not_eq_true', Bool.or_eq_false_iff, Bool.and_eq_false_iff, decide_eq_false_iff_not,
        beq_eq_false_iff_ne, not_le, not_lt] <;> rfl
    · rw [context, own]
      rw [own] at marks
      rw [← marks]

end Sys2Proof.Machine
end

section
/-!
PROOFS. A re-plan (R407) that would take a cluster away from a task that waits in a save area (R327, R329).
-/
namespace Sys2Proof.Machine

/-- A stage on clusters 0 and 1. -/
def pairedStage : Stage := { valid := true, clusters := [0, 1], pasid := 1 }

/-- A task of that stage, swapped from cluster 1, as a save area holds it. -/
def parkedTask : Task :=
  { stage := 0, pasid := 1, kind := .f, tag := 0, key := {}, budget := 1, full := 1, state := .swapped, cluster := 1 }

/-- A machine whose one context is saved, with that task in its save area: no core holds a task, and no task on the chip is
swapped. -/
def parkedState : State :=
  { stages := [(0, pairedStage)], contexts := [(1, { phase := .saved, area := some { tasks := [(0, parkedTask)] } })] }

/-- The task of the save area can come back to cluster 1 alone, so the re-plan that drops this cluster is refused. -/
theorem parkedState_refuses : exec (.replanPublication 0 1) parkedState = .next parkedState := rfl

/-- Refutes O46: a re-plan that drops cluster 1 changes nothing while a swapped task in a context's save area waits for that
cluster; the statement looks for swapped tasks on the chip alone, and calls for an evaluation in the next cycle. -/
theorem not_plansAndFirmware : ¬ Obligations.PlansAndFirmware := by
  intro h
  obtain ⟨⟨-, replans⟩, -⟩ := h
  obtain ⟨-, changes⟩ := replans 0 1 parkedState rfl
  have noneSwapped : ∀ e ∈ parkedState.tasks, e.2.state ≠ .swapped := fun e he => absurd he List.not_mem_nil
  obtain ⟨t, ht, -, -, -, evaluates, -⟩ := changes (by decide) (by decide) rfl rfl noneSwapped fun _ _ _ _ _ => rfl
  rw [parkedState_refuses] at ht
  obtain rfl := Host.Outcome.next.inj ht
  exact absurd evaluates List.not_mem_nil

end Sys2Proof.Machine
end

section
/-!
PROOFS. A fault (R57) in a machine whose table of cores lists a core twice.
-/
namespace Sys2Proof.Machine

/-- A rewind point at an address. -/
def pointAt (pc : CodeAddr) : RewindPoint :=
  { cycle := 0, seg := 0, stream := 0, pc := pc, loops := [], fpc := 0, fstat := 0, budget := 1, spawnSeq := 0, arr := {}, e := [],
    ys := {}, cyc := 0, lclock := 0 }

/-- A machine in which core 0 runs task 0, and the table of cores lists core 1 twice: its first entry, the one that is read, has a
rewind point at address 64 and depends on nothing, and its second entry depends on core 0. -/
def twiceListedState : State :=
  { cores := [(0, { task := some 0, rcv := { rps := [pointAt 0] } }), (1, { rcv := { rps := [pointAt 64] } }),
      (1, { rcv := { deps := [{ core := 0, seg := 0 }] } })]
    tasks := [(0, { stage := 0, pasid := 0, kind := .f, tag := 0, key := {}, budget := 1, full := 1 })] }

/-- The model looks for dependent cores in the whole table, finds core 1 by its second entry, and takes it back to its point. -/
theorem twiceListedState_rewinds : ((twiceListedState.issueFault .s 8).core 1).seq.pc = 64 := rfl

/-- Refutes O54: with core 1 listed twice, a fault of core 0 in a bundle that is not shadow-free takes core 1 back to its rewind
point; the statement asks only the entry that is read whether core 1 depends on core 0, and calls for core 1 to stand. -/
theorem not_faultsAreTaken : ¬ Obligations.FaultsAreTaken := by
  intro h
  obtain ⟨-, delivered⟩ := h .s 8 0 { stage := 0, pasid := 0, kind := .f, tag := 0, key := {}, budget := 1, full := 1 } twiceListedState
    rfl rfl (by decide) (by decide) (by decide)
  obtain ⟨-, rewound, -⟩ := delivered (.inr (by decide))
  have orphans : ∀ e ∈ twiceListedState.tasks, e.2.parent = none := by
    intro e he
    rw [List.mem_singleton.1 he]
  have free : ∀ d, d ≠ twiceListedState.turn → (twiceListedState.core d).rcv.deps = [] := by
    intro d hd
    by_cases h1 : d = 1
    · subst h1
      rfl
    · have gone : twiceListedState.core d = {} := by
        show (Table.get? twiceListedState.cores d).getD {} = {}
        have h0 : (0 : Nat) ≠ d := Ne.symm hd
        simp [twiceListedState, Table.get?, h0, Ne.symm h1]
      rw [gone]
  obtain ⟨-, -, -, -, -, -, -, -, -, others, -⟩ := rewound (pointAt 0) rfl rfl rfl orphans free
  have stands : ((twiceListedState.issueFault .s 8).core 1).seq.pc = (twiceListedState.core 1).seq.pc :=
    congrArg (fun q : Core => q.seq.pc) (others 1 (by decide))
  rw [twiceListedState_rewinds] at stands
  exact absurd stands (by decide)

end Sys2Proof.Machine
end

section
/-!
PROOFS. A report of a strike (R372) to a core whose task has its place in another cluster.
-/
namespace Sys2Proof.Machine

/-- A task on core 0 that the task table places in cluster 1. -/
def straddlingTask : Task := { stage := 0, pasid := 0, kind := .f, tag := 0, key := {}, budget := 1, full := 1, cluster := 1 }

/-- A machine in which core 0, alone in cluster 0, runs that task from a rewind point, while the save of cluster 1 has begun. -/
def straddlingState : State :=
  { cores := [(0, { task := some 0, rcv := { rps := [pointAt 0] } })], tasks := [(0, straddlingTask)],
    clusters := [(1, { savingAt := some 0 })] }

/-- The save that the model looks at is that of the task's cluster, and the strike is not older than it: nothing reruns. -/
theorem straddlingState_keeps : exec (.sounderReport 0 none 0) straddlingState =
    .next (straddlingState.modClu 0 fun k => { k with restarts := 0 }) := rfl

theorem straddlingState_strikable : strikable 0 0 straddlingTask (pointAt 0) straddlingState := by
  have orphans : ∀ e ∈ straddlingState.tasks, e.2.parent = none := by
    intro e he
    rw [List.mem_singleton.1 he]
    rfl
  have absent : ∀ d, d ≠ 0 → straddlingState.core d = {} := by
    intro d hd
    show (Table.get? straddlingState.cores d).getD {} = {}
    simp [straddlingState, Table.get?, Ne.symm hd]
  have calm : ∀ d, (straddlingState.core d).rcv.rerun = none := by
    intro d
    by_cases h : d = 0
    · subst h
      rfl
    · rw [absent d h]
  refine ⟨rfl, rfl, rfl, rfl, rfl, rfl, rfl, rfl, orphans, rfl, fun d _ => calm d, fun d _ hd => ?_⟩
  rw [absent d hd]
  exact ⟨rfl, rfl, rfl⟩

/-- Refutes O50: the core of a task whose place is in another cluster, one that is being saved, does not rerun on a report of its own
cluster; the statement looks at the save of the core's cluster, and calls for a rerun. -/
theorem not_recoveryAndAgeing : ¬ Obligations.RecoveryAndAgeing := by
  intro h
  obtain ⟨reports, -⟩ := h
  obtain ⟨-, struck⟩ := reports 0 0 0 straddlingTask (pointAt 0) straddlingState
  obtain ⟨strikes, -⟩ := struck rfl rfl
  obtain ⟨reruns, -⟩ := strikes straddlingState_strikable
  obtain ⟨t, ht, rerunsFrom, -⟩ := reruns (Nat.le_refl 0)
  obtain ⟨-, -, -, -, -, -, -, -, -, -, -, -, ⟨r, hr, -⟩, -⟩ := rerunsFrom
  have ht : exec (.sounderReport 0 none 0) straddlingState = .next t := ht
  rw [straddlingState_keeps] at ht
  obtain rfl := Host.Outcome.next.inj ht
  cases (show none = some r from hr)

end Sys2Proof.Machine
end

section
/-!
PROOFS. A quiesce flit (R330) on a chip whose table of ports is out of order.
-/
namespace Sys2Proof.Machine

/-- A machine that runs context 1, with ports 5 and 3 in service, listed in this order. -/
def unorderedPorts : State :=
  { contexts := [(1, {})], link := { ports := [(5, { trained := true, heldDown := false }), (3, { trained := true, heldDown := false })] } }

/-- The count of the flit enters port 3 before port 5, where the table's order looks for it; it then stands in the table twice, and
three quiesce flits leave. -/
theorem unorderedPorts_sends : ∃ t, exec (.quiesceFlit 3 1) unorderedPorts = .next t ∧
    t.link.sent = [.quiesce 3 1, .quiesce 5 1, .quiesce 3 1] := ⟨_, rfl, rfl⟩

/-- Refutes O41: with the ports out of order a quiesce flit that acts as a switch sends a second flit on the port on which it came;
the statement calls for one on each port that is up. -/
theorem not_gangSwitchesRun : ¬ Obligations.GangSwitchesRun := by
  intro h
  obtain ⟨-, -, quiesces⟩ := h
  obtain ⟨-, acts⟩ := quiesces 3 1 { time := 0, outgoing := 0, incoming := 0, tag := 0 } unorderedPorts rfl rfl
  obtain ⟨t, g, ht, -, -, -, -, -, -, -, sent, -⟩ := acts rfl (by decide) rfl rfl rfl
  obtain ⟨u, hu, sends⟩ := unorderedPorts_sends
  obtain rfl := Host.Outcome.next.inj (ht.symm.trans hu)
  rw [sends] at sent
  exact absurd (congrArg List.length sent) (by decide)

end Sys2Proof.Machine
end

section
/-!
PROOFS. The ports of a chip, the flits of link control, a viral neighbour and the viral state (R330, R356-R358, R382, R383).
-/
namespace Sys2Proof.Machine
open Sys2Proof

/-! ### Ports -/

theorem State.port_modPort_same (s : State) (p : Nat) (f : Port → Port) : (s.modPort p f).port p = f (s.port p) :=
  Table.get_put_same ..

theorem State.port_modPort_other (s : State) {p r : Nat} (f : Port → Port) (other : r ≠ p) : (s.modPort p f).port r = s.port r :=
  Table.get_put_other _ _ _ other

/-- A port that has counted a flit that came. -/
def Port.counted (q : Port) : Port := { q with lseqIn := (q.lseqIn + 1) % 4096 }

/-- A port that has counted a flit that leaves. -/
def Port.sends (n : Nat) (q : Port) : Port := { q with lseqOut := (q.lseqOut + n) % 4096 }

/-- A port whose neighbour is viral. -/
def Port.leaves (q : Port) : Port := { q with trained := false, gone := true }

/-- A flit that is received counts on its port, and the chip's count follows. -/
theorem counted_linkRecv (s : State) (p stamp : Nat) : (s.countFlit p).linkRecv stamp =
    (s.modPort p Port.counted).modLink fun k => { k with clock := stampRecv k.clock stamp } := rfl

theorem State.sendPort_eq (s : State) (p : Nat) (f : Flit) :
    s.sendPort p f = (s.modLink fun l => { l with sent := l.sent ++ [f] }).modPort p (Port.sends f.count) := rfl

/-- What a flit that came on a port leaves of the ports. -/
theorem received_port (s : State) (p stamp : Nat) :
    ((s.countFlit p).linkRecv stamp).port p = (s.port p).counted ∧
    ∀ r, r ≠ p → ((s.countFlit p).linkRecv stamp).port r = s.port r :=
  ⟨State.port_modPort_same s p Port.counted, fun _ other => State.port_modPort_other s Port.counted other⟩

theorem leavesMachine_trans {s t u : State} (first : leavesMachine s t) (second : leavesMachine t u) : leavesMachine s u := by
  obtain ⟨a1, a2, a3, a4, a5, a6⟩ := first
  obtain ⟨b1, b2, b3, b4, b5, b6⟩ := second
  exact ⟨b1.trans a1, b2.trans a2, b3.trans a3, b4.trans a4, b5.trans a5, b6.trans a6⟩

/-- A chip's side of the links does not touch the machine. -/
theorem modLink_machine (s : State) (f : LinkSide → LinkSide) : leavesMachine s (s.modLink f) := ⟨rfl, rfl, rfl, rfl, rfl, rfl⟩

theorem modPort_machine (s : State) (p : Nat) (f : Port → Port) : leavesMachine s (s.modPort p f) := modLink_machine s _

theorem received_machine (s : State) (p stamp : Nat) : leavesMachine s ((s.countFlit p).linkRecv stamp) :=
  leavesMachine_trans (modPort_machine s p Port.counted) (modLink_machine _ _)

theorem sendPort_machine (s : State) (p : Nat) (f : Flit) : leavesMachine s (s.sendPort p f) := modLink_machine s _

/-! ### Lost, discarded and time-base flits -/

theorem resend_sends {p : Nat} {s : State} (open' : (s.port p).heldDown = false) :
    ∃ t, exec (.flitResendRequest p) s = .next t ∧ t.link.sent = s.link.sent ++ [.resend p (s.port p).lseqIn] ∧
      t.port p = { s.port p with lseqOut := ((s.port p).lseqOut + 1) % 4096 } ∧ (∀ r, r ≠ p → t.port r = s.port r) ∧
      leavesMachine s t := by
  refine ⟨(s.linkRecv 0).sendPort p (.resend p (s.port p).lseqIn),
    congrArg Host.Outcome.next (if_neg (by rw [open']; simp)), rfl, State.port_modPort_same (s.linkRecv 0) p (Port.sends 1),
    fun r other => State.port_modPort_other (s.linkRecv 0) (Port.sends 1) other,
    leavesMachine_trans (modLink_machine s _) (sendPort_machine (s.linkRecv 0) p _)⟩

/-- The fields of a log word (R386). -/
theorem logWord_fields {kind core slot addr data : Nat} (hkind : kind < 16) (hcore : core < 256) (hslot : slot < 16)
    (haddr : addr < 2 ^ 22) (hdata : data < 2 ^ 26) :
    (logWord kind core slot addr data).toNat / 2 ^ 60 = kind ∧ (logWord kind core slot addr data).toNat % 2 ^ 26 = data := by
  have whole : (logWord kind core slot addr data).toNat =
      kind * 2 ^ 60 + core * 2 ^ 52 + slot * 2 ^ 48 + addr * 2 ^ 26 + data := by
    rw [logWord, Nat.mod_eq_of_lt hdata, BitVec.toNat_ofNat]
    exact Nat.mod_eq_of_lt (by omega)
  rw [whole]
  omega

/-- A record of the chip or of a core stands alone in a log that was empty. -/
theorem logsAlone_logPair {s u : State} {kind core slot addr data : Nat} {stamp : Word64} {o : Option (Nat × Nat)}
    (same : u.host = s.host) (hkind : kind < 16) (hcore : core < 256) (hslot : slot < 16) (haddr : addr < 2 ^ 22)
    (hdata : data < 2 ^ 26) : logsAlone s (u.logPair (logWord kind core slot addr data) stamp o) kind data := by
  intro empty none'
  rw [← same] at empty none'
  exact ⟨_, State.logPair_first u _ stamp o empty none', logWord_fields hkind hcore hslot haddr hdata⟩

theorem discarded_logs {p : Nat} {s : State} (open' : (s.port p).heldDown = false) :
    ∃ t, exec (.discardedFlit p) s = .next t ∧ t.port p = (s.port p).counted ∧ logsAlone s t 5 3 ∧ t.contexts = s.contexts ∧
      leavesMachine s t := by
  refine ⟨((s.countFlit p).linkRecv 0).discardFlit, congrArg Host.Outcome.next (if_neg (by rw [open']; simp)), ?_⟩
  have logs : logsAlone s ((s.countFlit p).linkRecv 0).discardFlit 5 3 :=
    logsAlone_logPair (u := (s.countFlit p).linkRecv 0) rfl (by decide) (by decide) (by decide) (by decide) (by decide)
  have only : ((s.countFlit p).linkRecv 0).discardFlit = _ := State.logPair_eq ..
  rw [only] at logs ⊢
  exact ⟨(received_port s p 0).1, logs, rfl, ⟨rfl, rfl, rfl, rfl, rfl, rfl⟩⟩

theorem timeBase_sets {p : Nat} {s : State} (open' : (s.port p).heldDown = false) (ring : 6 ≤ p) (ns : Word64) :
    ∃ t, exec (.timeBaseFlit p ns) s = .next t ∧ t.timeNow = ns.toNat ∧ t.port p = (s.port p).counted ∧
      t.contexts = s.contexts ∧ leavesMachine s t := by
  have takes : ¬ ((s.port p).heldDown || decide (p < 6)) = true := by
    rw [open', decide_eq_false (by omega)]
    simp
  refine ⟨((s.countFlit p).linkRecv 0).modLink fun l => { l with timeBase := ns.toNat, timeAt := s.cycle },
    congrArg Host.Outcome.next (if_neg takes), ?_, (received_port s p 0).1, rfl,
    leavesMachine_trans (received_machine s p 0) (modLink_machine _ _)⟩
  show ns.toNat + (s.cycle - s.cycle) * 10 / 27 = ns.toNat
  rw [Nat.sub_self, Nat.zero_mul, Nat.zero_div, Nat.add_zero]

/-! ### Training -/

/-- A chip that takes training flits. -/
def trains (s : State) : Prop := s.recovery = false ∧ s.viral = false ∧ s.tripped = false ∧ s.stuck = false

theorem training_served {p : Nat} {s : State} (hp : p < 8) (awake : trains s) :
    ¬ (s.recovery || s.viral || s.tripped || s.stuck || decide (8 ≤ p)) = true := by
  obtain ⟨works, healthy, cool, stays⟩ := awake
  rw [works, healthy, cool, stays, decide_eq_false (by omega)]
  simp

/-- A port that firmware has trained. -/
def Port.trains (q : Port) : Port := { q with trained := true, heldDown := false, gone := false }

/-- A port is in service in a chip's list of ports once it has been trained. -/
theorem mem_put {α : Type} (t : Table α) (k : Nat) (v : α) : (k, v) ∈ Table.put t k v := mem_of_get? (Table.get?_put_same t k v)

theorem upPorts_trained (s : State) (p : Nat) : p ∈ (s.modPort p Port.trains).upPorts :=
  List.mem_map.2 ⟨(p, Port.trains (s.port p)), List.mem_filter.2 ⟨mem_put _ _ _, rfl⟩, rfl⟩

theorem sendPort_keeps (s : State) (r p : Nat) (f : Flit) :
    ((s.sendPort r f).port p).trained = (s.port p).trained ∧ ((s.sendPort r f).port p).heldDown = (s.port p).heldDown := by
  by_cases h : p = r
  · subst h
    have port : (s.sendPort p f).port p = _ := State.port_modPort_same (s.modLink fun l => { l with sent := l.sent ++ [f] }) p (Port.sends f.count)
    rw [port]
    exact ⟨rfl, rfl⟩
  · have port : (s.sendPort r f).port p = _ := State.port_modPort_other (s.modLink fun l => { l with sent := l.sent ++ [f] }) (Port.sends f.count) h
    rw [port]
    exact ⟨rfl, rfl⟩

theorem sendPort_link (s : State) (r : Nat) (f : Flit) :
    (s.sendPort r f).link.sent = s.link.sent ++ [f] ∧ (s.sendPort r f).link.blocked = s.link.blocked ∧
    leavesMachine s (s.sendPort r f) := ⟨rfl, rfl, sendPort_machine s r f⟩

/-- Where a port is in service a flit leaves, on some port. -/
theorem send_leaves {s : State} {p : Nat} (up : p ∈ s.upPorts) (f : Flit) :
    ((s.send f).link.sent = s.link.sent ++ [f] ∧ (s.send f).link.blocked = s.link.blocked ∧ leavesMachine s (s.send f)) ∧
    ∀ r, ((s.send f).port r).trained = (s.port r).trained ∧ ((s.send f).port r).heldDown = (s.port r).heldDown := by
  unfold State.send
  split
  · next none' => rw [none'] at up; exact absurd up List.not_mem_nil
  · exact ⟨sendPort_link s.takeFree.2 _ f, fun r => sendPort_keeps s.takeFree.2 _ r f⟩

/-- The state of a chip behind a training flit that puts a port into service, before what waited leaves. -/
def State.trained (s : State) (p : Nat) : State :=
  (((s.countFlit p).linkRecv 0).modPort p Port.trains).modLink fun l => { l with blocked := [] }

theorem trained_eq {p : Nat} {s : State} (hp : p < 8) (awake : trains s) :
    exec (.linkControlTrainingFlit p .trained) s = .next (s.link.blocked.foldl State.send (s.trained p)) :=
  congrArg Host.Outcome.next (if_neg (training_served hp awake))

theorem trained_port (s : State) (p : Nat) :
    (s.trained p).port p = (s.port p).counted.trains ∧ ∀ r, r ≠ p → (s.trained p).port r = s.port r := by
  obtain ⟨here, others⟩ := received_port s p 0
  have own : (s.trained p).port p = Port.trains (((s.countFlit p).linkRecv 0).port p) :=
    State.port_modPort_same ((s.countFlit p).linkRecv 0) p Port.trains
  refine ⟨by rw [own, here], fun r other => ?_⟩
  exact (State.port_modPort_other ((s.countFlit p).linkRecv 0) Port.trains other).trans (others r other)

theorem trained_keeps (s : State) (p : Nat) :
    p ∈ (s.trained p).upPorts ∧ (s.trained p).link.sent = s.link.sent ∧ (s.trained p).link.blocked = [] ∧
    leavesMachine s (s.trained p) :=
  ⟨upPorts_trained ((s.countFlit p).linkRecv 0) p, rfl, rfl, leavesMachine_trans (received_machine s p 0)
    (leavesMachine_trans (modPort_machine ((s.countFlit p).linkRecv 0) p Port.trains) (modLink_machine _ _))⟩

theorem training_frees {p : Nat} {s : State} (hp : p < 8) (awake : trains s) {f : Flit} (waits : s.link.blocked = [f]) :
    ∃ t, exec (.linkControlTrainingFlit p .trained) s = .next t ∧ t.link.sent = s.link.sent ++ [f] ∧ t.link.blocked = [] ∧
      (t.port p).trained = true ∧ (t.port p).heldDown = false ∧ leavesMachine s t := by
  obtain ⟨up, sent, blocked, machine⟩ := trained_keeps s p
  obtain ⟨⟨sends, waits', machine'⟩, ports⟩ := send_leaves up f
  obtain ⟨trained, down⟩ := ports p
  rw [(trained_port s p).1] at trained down
  refine ⟨(s.trained p).send f, ?_, by rw [sends, sent], by rw [waits', blocked], trained, down, leavesMachine_trans machine machine'⟩
  rw [trained_eq hp awake, waits]
  rfl

theorem training_quiet {p : Nat} {s : State} (hp : p < 8) (awake : trains s) (calm : s.link.blocked = []) :
    ∃ t, exec (.linkControlTrainingFlit p .trained) s = .next t ∧ t.port p = (s.port p).counted.trains ∧
      (∀ r, r ≠ p → t.port r = s.port r) ∧ t.link.sent = s.link.sent ∧ leavesMachine s t := by
  obtain ⟨here, others⟩ := trained_port s p
  obtain ⟨-, sent, -, machine⟩ := trained_keeps s p
  exact ⟨s.trained p, by rw [trained_eq hp awake, calm]; rfl, here, others, sent, machine⟩

/-- A port of which the peer shows itself held down. -/
def Port.out (q : Port) : Port := { q with trained := false }

/-- A chip behind a training flit of a peer that is held down, before its answer. -/
def State.shunned (s : State) (p : Nat) : State := ((s.countFlit p).linkRecv 0).modPort p Port.out

theorem shunned_port (s : State) (p : Nat) :
    (s.shunned p).port p = (s.port p).counted.out ∧ ∀ r, r ≠ p → (s.shunned p).port r = s.port r := by
  obtain ⟨here, others⟩ := received_port s p 0
  have own : (s.shunned p).port p = Port.out (((s.countFlit p).linkRecv 0).port p) :=
    State.port_modPort_same ((s.countFlit p).linkRecv 0) p Port.out
  exact ⟨by rw [own, here], fun r other => (State.port_modPort_other ((s.countFlit p).linkRecv 0) Port.out other).trans (others r other)⟩

/-- A flit that leaves on a port counts there. -/
theorem sendPort_port (s : State) (p : Nat) (f : Flit) :
    (s.sendPort p f).port p = (s.port p).sends f.count ∧ ∀ r, r ≠ p → (s.sendPort p f).port r = s.port r :=
  ⟨State.port_modPort_same (s.modLink fun l => { l with sent := l.sent ++ [f] }) p (Port.sends f.count),
    fun _ other => State.port_modPort_other (s.modLink fun l => { l with sent := l.sent ++ [f] }) (Port.sends f.count) other⟩

theorem training_down {p : Nat} {s : State} (hp : p < 8) (awake : trains s) :
    ∃ t, exec (.linkControlTrainingFlit p .heldDown) s = .next t ∧ (t.port p).trained = false ∧
      (t.port p).lseqIn = ((s.port p).lseqIn + 1) % 4096 ∧ (∀ r, r ≠ p → t.port r = s.port r) ∧
      t.link.sent = s.link.sent ++ [.training p] ∧ leavesMachine s t := by
  have whole : exec (.linkControlTrainingFlit p .heldDown) s = .next ((s.shunned p).sendPort p (.training p)) := by
    show execLinkControlTrainingFlit p .heldDown s = _
    unfold execLinkControlTrainingFlit
    rw [if_neg (training_served hp awake)]
    rfl
  obtain ⟨here, others⟩ := shunned_port s p
  obtain ⟨sends, elsewhere⟩ := sendPort_port (s.shunned p) p (.training p)
  rw [here] at sends
  exact ⟨_, whole, by rw [sends]; rfl, by rw [sends]; rfl, fun r other => (elsewhere r other).trans (others r other), rfl,
    leavesMachine_trans (leavesMachine_trans (received_machine s p 0) (modPort_machine ((s.countFlit p).linkRecv 0) p Port.out))
      (sendPort_machine (s.shunned p) p (.training p))⟩

theorem training_ignored {p : Nat} {s : State} (no : s.recovery = true ∨ s.viral = true ∨ s.tripped = true ∨ s.stuck = true)
    (g : PortSign) : exec (.linkControlTrainingFlit p g) s = .next s := by
  refine congrArg Host.Outcome.next (if_pos ?_)
  rcases no with h | h | h | h <;> simp [h]

/-! ### A viral neighbour -/

/-- A chip behind the notice of a viral neighbour, before the scope table follows. -/
def State.noticed (s : State) (p : Nat) : State := ((s.countFlit p).linkRecv 0).modPort p Port.leaves

theorem noticed_port (s : State) (p : Nat) :
    (s.noticed p).port p = (s.port p).counted.leaves ∧ ∀ r, r ≠ p → (s.noticed p).port r = s.port r := by
  obtain ⟨here, others⟩ := received_port s p 0
  have own : (s.noticed p).port p = Port.leaves (((s.countFlit p).linkRecv 0).port p) :=
    State.port_modPort_same ((s.countFlit p).linkRecv 0) p Port.leaves
  exact ⟨by rw [own, here], fun r other => (State.port_modPort_other ((s.countFlit p).linkRecv 0) Port.leaves other).trans (others r other)⟩

theorem viralNeighbour_ignored {p chip : Nat} {s : State} (no : s.recovery = true ∨ (s.port p).heldDown = true) :
    exec (.viralNeighbour p chip) s = .next s := by
  refine congrArg Host.Outcome.next (if_pos ?_)
  rcases no with h | h
  · rw [h]
    rfl
  · have down : s.delivers (some p) = false := by
      show (!(s.port p).heldDown) = false
      rw [h]
      rfl
    rw [down]
    simp

theorem viralNeighbour_noticed {p chip : Nat} {s : State} (works : s.recovery = false) (open' : (s.port p).heldDown = false) :
    exec (.viralNeighbour p chip) s = .next (
      if s.link.viralPeers.contains chip then (if (s.noticed p).upPorts.isEmpty then (s.noticed p).leaveScope else s.noticed p)
      else ((s.noticed p).modLink fun l => { l with viralPeers := l.viralPeers ++ [chip] }).leaveScope) := by
  have takes : ¬ (s.recovery || !s.delivers (some p)) = true := by
    have up : s.delivers (some p) = true := by
      show (!(s.port p).heldDown) = true
      rw [open']
      rfl
    rw [works, up]
    simp
  exact congrArg Host.Outcome.next (if_neg takes)

/-- A level of the scope table once a chip has left it. -/
def lessScope (alone : Bool) (w : Word64) : Word64 :=
  scopeEntry (if alone then 1 else Nat.max 1 (bits w.toNat 32 16 - 1)) (bits w.toNat 24 8)

theorem scopeEntry_fields {chips radius : Nat} (hc : chips < 2 ^ 16) (hr : radius < 2 ^ 8) :
    (scopeEntry chips radius).toNat / 2 ^ 32 % 2 ^ 16 = chips ∧ (scopeEntry chips radius).toNat / 2 ^ 24 % 2 ^ 8 = radius := by
  rw [scopeEntry, BitVec.toNat_ofNat, Nat.mod_eq_of_lt (by omega)]
  omega

theorem lessScope_alone (w : Word64) : (lessScope true w).toNat / 2 ^ 32 % 2 ^ 16 = 1 :=
  (scopeEntry_fields (show 1 < 2 ^ 16 by decide) (Nat.mod_lt _ (by decide))).1

theorem lessScope_fewer (w : Word64) :
    (lessScope false w).toNat / 2 ^ 32 % 2 ^ 16 = max 1 (w.toNat / 2 ^ 32 % 2 ^ 16 - 1) ∧
    (lessScope false w).toNat / 2 ^ 24 % 2 ^ 8 = w.toNat / 2 ^ 24 % 2 ^ 8 := by
  refine scopeEntry_fields ?_ (Nat.mod_lt _ (by decide))
  show max 1 (w.toNat / 2 ^ 32 % 2 ^ 16 - 1) < 2 ^ 16
  omega

/-- A context's own level once a chip has left it. -/
def lessOwn (alone : Bool) (w : Word64) : Word64 :=
  if (if alone then 1 else Nat.max 1 (bits w.toNat 32 16 - 1)) = 1 then scopeEntry 1 0 else lessScope alone w

/-- A context's own level may count one chip less. -/
def State.lessSeven (s : State) (e : Nat × Context) : Nat × Context :=
  if s.upPorts.isEmpty || Config.freeChoice (s.free + e.1) then
    (e.1, { e.2 with scope7 := lessOwn s.upPorts.isEmpty e.2.scope7 })
  else e

theorem lessSeven_keeps (s : State) (e : Nat × Context) :
    (s.lessSeven e).1 = e.1 ∧ { (s.lessSeven e).2 with scope7 := e.2.scope7 } = e.2 := by
  unfold State.lessSeven
  split
  · exact ⟨rfl, rfl⟩
  · exact ⟨rfl, rfl⟩

/-- A level of the table with its number, once a chip has left it. -/
def lessLevel (alone : Bool) (e : Nat × Word64) : Nat × Word64 := if e.1 = 0 then e else (e.1, lessScope alone e.2)

theorem lessLevel_key (alone : Bool) (e : Nat × Word64) : (lessLevel alone e).1 = e.1 := by
  unfold lessLevel
  split
  · rfl
  · rfl

/-- A chip that has left the scope table of another. -/
theorem leaveScope_eq (s : State) : s.leaveScope = { s with
    scopetab := s.scopetab.map (lessLevel s.upPorts.isEmpty), contexts := s.contexts.map s.lessSeven, free := s.free + 2 ^ 20 } := rfl

theorem leaveScope_ctx (s : State) (c : Nat) : { s.leaveScope.ctx c with scope7 := (s.ctx c).scope7 } = s.ctx c := by
  have gets : Table.get? s.leaveScope.contexts c = (Table.get? s.contexts c).map fun x => (s.lessSeven (c, x)).2 :=
    Table.get?_map_keys s.contexts (fun e => (lessSeven_keeps s e).1) c
  simp only [State.ctx, Table.get, gets]
  cases Table.get? s.contexts c with
  | none => rfl
  | some x => exact (lessSeven_keeps s (c, x)).2

theorem leaveScope_own (s : State) : Table.get? s.leaveScope.scopetab 0 = Table.get? s.scopetab 0 := by
  refine (Table.get?_map_keys s.scopetab (lessLevel_key _) 0).trans ?_
  cases Table.get? s.scopetab 0 with
  | none => rfl
  | some v => rfl

theorem leaveScope_level (s : State) {n : Nat} {v : Word64} (hn : n ≠ 0) (here : Table.get? s.scopetab n = some v) :
    Table.get? s.leaveScope.scopetab n = some (lessScope s.upPorts.isEmpty v) := by
  refine (Table.get?_map_keys s.scopetab (lessLevel_key _) n).trans ?_
  rw [here]
  exact congrArg some (congrArg Prod.snd (if_neg hn))

theorem noticed_machine (s : State) (p : Nat) : leavesMachine s (s.noticed p) :=
  leavesMachine_trans (received_machine s p 0) (modPort_machine ((s.countFlit p).linkRecv 0) p Port.leaves)

theorem portQuiet_gone {t : State} {p : Nat} (gone : (t.port p).gone = true) (g : Gang) : t.portQuiet g p = true := by
  show (_ || (t.port p).gone) = true
  rw [gone, Bool.or_true]

/-- What a notice of a viral neighbour does to a chip's levels: w is a level behind it, v before it. -/
def levelFollows (s t : State) (chip : Nat) (v w : Word64) : Prop :=
  (t.upPorts = [] → w.toNat / 2 ^ 32 % 2 ^ 16 = 1) ∧ (t.upPorts ≠ [] → chip ∈ s.link.viralPeers → w = v) ∧
  (t.upPorts ≠ [] → chip ∉ s.link.viralPeers → w.toNat / 2 ^ 32 % 2 ^ 16 = max 1 (v.toNat / 2 ^ 32 % 2 ^ 16 - 1) ∧
    w.toNat / 2 ^ 24 % 2 ^ 8 = v.toNat / 2 ^ 24 % 2 ^ 8)

theorem levelFollows_less {s t : State} {chip : Nat} (v : Word64) (first : chip ∈ s.link.viralPeers → t.upPorts = []) :
    levelFollows s t chip v (lessScope t.upPorts.isEmpty v) := by
  by_cases alone : t.upPorts = []
  · rw [alone]
    exact ⟨fun _ => lessScope_alone v, fun some => absurd alone some, fun some => absurd alone some⟩
  · have some : t.upPorts.isEmpty = false := by simpa using alone
    rw [some]
    exact ⟨fun none' => absurd none' alone, fun _ known => absurd (first known) alone, fun _ _ => lessScope_fewer v⟩

/-- The three ways of a notice: a chip known with peers left, one known with none, and a new one. -/
theorem viralNeighbour_cases {p chip : Nat} {s : State} (works : s.recovery = false) (open' : (s.port p).heldDown = false) :
    ∃ u, (u = s.noticed p ∨ u = (s.noticed p).modLink fun l => { l with viralPeers := l.viralPeers ++ [chip] }) ∧
      chip ∈ u.link.viralPeers ∧
      ((exec (.viralNeighbour p chip) s = .next u ∧ chip ∈ s.link.viralPeers ∧ u.upPorts ≠ []) ∨
        (exec (.viralNeighbour p chip) s = .next u.leaveScope ∧ (chip ∈ s.link.viralPeers → u.upPorts = []))) := by
  rw [viralNeighbour_noticed works open']
  by_cases known : chip ∈ s.link.viralPeers
  · refine ⟨s.noticed p, .inl rfl, known, ?_⟩
    rw [if_pos (List.contains_iff_mem.2 known)]
    by_cases alone : (s.noticed p).upPorts = []
    · exact .inr ⟨by rw [alone]; rfl, fun _ => alone⟩
    · exact .inl ⟨by rw [if_neg (by simpa using alone)], known, alone⟩
  · refine ⟨_, .inr rfl, List.mem_append_right _ (List.mem_singleton.2 rfl), .inr ⟨?_, fun h => absurd h known⟩⟩
    rw [if_neg (by simpa using known)]

theorem viralNeighbour_follows {p chip : Nat} {s : State} (works : s.recovery = false) (open' : (s.port p).heldDown = false) :
    ∃ t, exec (.viralNeighbour p chip) s = .next t ∧ chip ∈ t.link.viralPeers ∧ t.port p = (s.port p).counted.leaves ∧
      (∀ g, t.portQuiet g p = true) ∧ Table.get? t.scopetab 0 = Table.get? s.scopetab 0 ∧
      (∀ n v, n ≠ 0 → Table.get? s.scopetab n = some v → ∃ w, Table.get? t.scopetab n = some w ∧ levelFollows s t chip v w) ∧
      (∀ r, r ≠ p → t.port r = s.port r) ∧ (∀ c, { t.ctx c with scope7 := (s.ctx c).scope7 } = s.ctx c) ∧ leavesMachine s t := by
  obtain ⟨u, which, listed, ends⟩ := viralNeighbour_cases (chip := chip) works open'
  have same : u.contexts = s.contexts ∧ u.scopetab = s.scopetab ∧ leavesMachine s u ∧ u.port p = (s.port p).counted.leaves ∧
      ∀ r, r ≠ p → u.port r = s.port r := by
    obtain ⟨here, others⟩ := noticed_port s p
    rcases which with rfl | rfl
    · exact ⟨rfl, rfl, noticed_machine s p, here, others⟩
    · exact ⟨rfl, rfl, leavesMachine_trans (noticed_machine s p) (modLink_machine _ _), here, others⟩
  obtain ⟨contexts, scopetab, machine, here, others⟩ := same
  have gone : (u.port p).gone = true := by rw [here]; rfl
  have ctx : ∀ c, u.ctx c = s.ctx c := fun c => by rw [State.ctx, contexts, State.ctx]
  rcases ends with ⟨ends, known, some⟩ | ⟨ends, first⟩
  · refine ⟨u, ends, listed, here, portQuiet_gone gone, by rw [scopetab], fun n v hn level => ⟨v, by rw [scopetab]; exact level, ?_⟩,
      others, fun c => by rw [ctx], machine⟩
    exact ⟨fun none' => absurd none' some, fun _ _ => rfl, fun _ new => absurd known new⟩
  · refine ⟨u.leaveScope, ends, listed, here, portQuiet_gone (t := u.leaveScope) gone, ?_, fun n v hn level => ?_, others,
      fun c => ?_, machine⟩
    · rw [leaveScope_own, scopetab]
    · exact ⟨_, leaveScope_level u hn (by rw [scopetab]; exact level), levelFollows_less (s := s) (t := u) v first⟩
    · rw [← ctx c]
      exact leaveScope_ctx u c

/-! ### The viral state -/

/-- What the flits of a burst leave: one more on each port that they name, in order. -/
theorem foldl_sendPort (flit : Nat → Flit) (l : List Nat) (s : State) :
    (l.foldl (fun (s : State) q => s.sendPort q (flit q)) s).link.sent = s.link.sent ++ l.map flit ∧
    (l.foldl (fun (s : State) q => s.sendPort q (flit q)) s) =
      { s with link := (l.foldl (fun (s : State) q => s.sendPort q (flit q)) s).link } := by
  induction l generalizing s with
  | nil => exact ⟨(List.append_nil _).symm, rfl⟩
  | cons q l ih =>
    obtain ⟨sent, only⟩ := ih (s.sendPort q (flit q))
    refine ⟨sent.trans ?_, only⟩
    rw [(sendPort_link s q (flit q)).1, List.append_assoc]
    rfl

/-- R358, R382, R383: the entry into the viral state of a chip with nothing on its way. -/
theorem enterViral_cuts {s : State} (healthy : s.viral = false) (out : s.link.outbound = []) (waiting : s.link.blocked = []) :
    ∃ f, s.enterViral.viral = true ∧ s.enterViral.link.sent = s.link.sent ++ s.upPorts.map Flit.viral ∧
      (∀ p, (s.enterViral.port p).heldDown = true) ∧ s.enterViral.host.sent = s.host.sent ++ [f] ∧ f.type = 5 ∧
      s.enterViral.contexts = s.contexts ∧ leavesMachine s s.enterViral := by
  obtain ⟨sent, only⟩ := foldl_sendPort Flit.viral s.upPorts s
  have calm : (s.modLink fun l => { l with outbound := [], blocked := [] }) = s := by
    show ({ s with link := { s.link with outbound := [], blocked := [] } } : State) = s
    rw [← out, ← waiting]
  have nothing : (s.link.blocked ++ s.link.outbound.map fun (e : Nat × Flit) => e.2) = [] := by
    rw [out, waiting]
    rfl
  generalize hu : (s.upPorts.foldl (fun (s : State) q => s.sendPort q (.viral q)) s) = u at sent only
  have whole : s.enterViral = { (u.modLink fun l => { l with ports := l.ports.map fun (e : Nat × Port) =>
      (e.1, { e.2 with heldDown := true }) }).eventFrame 0 0 0 [] with viral := true } := by
    unfold State.enterViral
    rw [if_neg (by rw [healthy]; simp), nothing, calm]
    dsimp only
    rw [List.map_nil, List.foldl_nil, ite_self, hu]
  have healthy' : u.viral = false := by rw [only]; exact healthy
  obtain ⟨f, frame, type, -⟩ := eventFrame_sent (s := u.modLink fun l => { l with ports := l.ports.map fun (e : Nat × Port) =>
    (e.1, { e.2 with heldDown := true }) }) healthy' 0 0 0 []
  obtain ⟨h, host⟩ := eventFrame_host (u.modLink fun l => { l with ports := l.ports.map fun (e : Nat × Port) =>
    (e.1, { e.2 with heldDown := true }) }) 0 0 0 []
  rw [host] at whole frame
  have hostSent : u.host.sent = s.host.sent := by rw [only]
  have contexts : u.contexts = s.contexts := by rw [only]
  have machine : leavesMachine s u := by
    rw [only]
    exact ⟨rfl, rfl, rfl, rfl, rfl, rfl⟩
  refine ⟨f, by rw [whole], by rw [whole]; exact sent, fun p => ?_, by rw [whole]; exact frame.trans (by rw [← hostSent]; rfl), type,
    by rw [whole]; exact contexts, by rw [whole]; exact machine⟩
  rw [whole]
  exact Table.get_map_true u.link.ports {} (fun q => { q with heldDown := true }) Port.heldDown (fun _ => rfl) rfl p

/-- Settles O49: each flit by what it leaves of its port, a viral neighbour by the three ways of a notice, and the viral state by
its burst. -/
theorem linksAndTheViralState : Obligations.LinksAndTheViralState := by
  unfold Obligations.LinksAndTheViralState
  refine ⟨fun p s hp => ⟨fun down => ?_, fun low ns => ?_, fun open' => ⟨resend_sends open', discarded_logs open', fun ring ns => timeBase_sets open' ring ns⟩,
    fun works healthy cool stays => ?_, fun no g => training_ignored no g, fun chip no => viralNeighbour_ignored no,
    fun chip works open' => viralNeighbour_follows works open'⟩, fun part s => ⟨fun viral => ?_, fun healthy out waiting => ?_⟩⟩
  · exact ⟨congrArg Host.Outcome.next (if_pos down), congrArg Host.Outcome.next (if_pos down),
      fun ns => congrArg Host.Outcome.next (if_pos (Bool.or_eq_true_iff.2 (.inl down)))⟩
  · exact congrArg Host.Outcome.next (if_pos (Bool.or_eq_true_iff.2 (.inr (decide_eq_true low))))
  · have awake : trains s := ⟨works, healthy, cool, stays⟩
    exact ⟨fun f waits _ => training_frees hp awake waits, training_quiet hp awake, training_down hp awake⟩
  · exact congrArg Host.Outcome.next (if_pos viral)
  · obtain ⟨f, viral, sent, down, frame, type, contexts, machine⟩ := enterViral_cuts healthy out waiting
    exact ⟨_, f, rfl, viral, sent, fun p _ => down p, frame, type, contexts, machine⟩

end Sys2Proof.Machine
end

section
/-!
PROOFS. The errors that the storage meets (R369, R371, R380, R381).
-/
namespace Sys2Proof.Machine
open Sys2Proof

/-! ### Where a byte of HBM4E lies (R380) -/

/-- The stack of a byte's chunk, from its stripe. -/
theorem stackOf_eq (a : Nat) : stackOf a = (a / 1792 % 8 + 1 + a % 1792 / 256) % 8 := rfl

theorem stackOf_lt (a : Nat) : stackOf a < 8 := Nat.mod_lt _ (by decide)

/-- The first address of a line, in its stripe and in its stack. -/
theorem line_place (a : Nat) : stripeOf (128 * (a / 128)) = stripeOf a ∧ stackOf (128 * (a / 128)) = stackOf a := by
  have stripe : 128 * (a / 128) / 1792 = a / 1792 := by omega
  have chunk : 128 * (a / 128) % 1792 / 256 = a % 1792 / 256 := by omega
  exact ⟨stripe, by rw [stackOf_eq, stackOf_eq, stripe, chunk]⟩

/-- The chunk that holds a byte. -/
theorem chunkAt_stackOf (a : Nat) : chunkAt (stackOf a) (stripeOf a) = some (1792 * (a / 1792) + 256 * (a % 1792 / 256)) := by
  have place : (stackOf a + 7 - stripeOf a % 8) % 8 = a % 1792 / 256 := by
    show ((a / 1792 % 8 + 1 + a % 1792 / 256) % 8 + 7 - a / 1792 % 8) % 8 = a % 1792 / 256
    omega
  have data : a % 1792 / 256 < 7 := by omega
  simp only [chunkAt, place, data, if_true]
  rfl

/-- A byte's line is one of the two of its chunk. -/
theorem granOf_mem_chunkLines {a : Nat} {ks : List Nat} (ha : a < hbmEnd) (own : stackOf a ∈ ks) :
    granOf false a ∈ chunkLines (stripeOf a) ks := by
  have first : 1792 * (a / 1792) + 256 * (a % 1792 / 256) < hbmEnd := by omega
  refine List.mem_flatten.2 ⟨_, List.mem_map_of_mem (List.mem_filter.2 ⟨List.mem_filterMap.2 ⟨_, own, chunkAt_stackOf a⟩,
    decide_eq_true first⟩), ?_⟩
  have halves : a / 128 = (1792 * (a / 1792) + 256 * (a % 1792 / 256)) / 128 ∨
      a / 128 = (1792 * (a / 1792) + 256 * (a % 1792 / 256) + 128) / 128 := by omega
  rcases halves with h | h
  · exact List.mem_cons.2 (.inl (by rw [granOf, granOf, h]))
  · exact List.mem_cons_of_mem _ (List.mem_singleton.2 (by rw [granOf, granOf, h]))

/-- A channel of the stripe of a byte is lost. -/
def lostAt (s : State) (a j : Nat) : Prop := 32 * j + a / 1792 % 32 ∈ s.channelsLost

theorem lineLost_iff (s : State) {a : Nat} (ha : a < hbmEnd) :
    s.lineLost (128 * (a / 128)) = true ↔ lostAt s a (stackOf a) ∧ ∃ j, j < 8 ∧ j ≠ stackOf a ∧ lostAt s a j := by
  obtain ⟨stripe, stack⟩ := line_place a
  have below : 128 * (a / 128) < hbmEnd := by omega
  simp only [State.lineLost, stripe, stack, decide_eq_true below, Bool.true_and, Bool.and_eq_true, List.contains_iff_mem,
    List.any_eq_true, List.mem_range, bne_iff_ne]
  rfl

theorem linePoisoned_iff (s : State) {a : Nat} (ha : a < hbmEnd) : s.linePoisoned (granOf false a) = true ↔
    granOf false a ∈ s.poison ∨ (lostAt s a (stackOf a) ∧ ∃ j, j < 8 ∧ j ≠ stackOf a ∧ lostAt s a j) := by
  have even : granOf false a % 2 = 0 := by
    show (2 * (a / 128) + 0) % 2 = 0
    omega
  have half : granOf false a / 2 = a / 128 := by
    show (2 * (a / 128) + 0) / 2 = a / 128
    omega
  rw [State.linePoisoned, Bool.or_eq_true, Bool.and_eq_true, List.contains_iff_mem, beq_iff_eq, half, lineLost_iff s ha]
  exact or_congr Iff.rfl (and_iff_right even)

/-! ### What an error leaves -/

/-- An error of the storage leaves the cores, the tasks, the memories and the contexts. -/
def keepsAll (s t : State) : Prop :=
  t.cores = s.cores ∧ t.tasks = s.tasks ∧ t.pmem = s.pmem ∧ t.xs = s.xs ∧ t.contexts = s.contexts

theorem corrected_logs (s : State) (c : Option Nat) :
    keepsAll s (s.meetError (.corrected c)) ∧ (s.meetError (.corrected c)).clusters = s.clusters ∧
    (s.meetError (.corrected c)).poison = s.poison ∧ ((∀ n, c = some n → n < 192) → logsAlone s (s.meetError (.corrected c)) 6 1) := by
  have only : s.meetError (.corrected c) = _ := State.logPair_eq ..
  have logs : (∀ n, c = some n → n < 192) → logsAlone s (s.meetError (.corrected c)) 6 1 := by
    intro known
    refine logsAlone_logPair rfl (by decide) ?_ (by decide) ?_ (by decide)
    · cases c with
      | none => decide
      | some n => exact Nat.lt_trans (known n rfl) (by decide)
    · cases c with
      | none => exact Nat.two_pow_pos 22
      | some n => exact BitVec.isLt _
  rw [only] at logs ⊢
  exact ⟨⟨rfl, rfl, rfl, rfl, rfl⟩, rfl, rfl, logs⟩

theorem line_poisons (s : State) (g : Nat) :
    (s.meetError (.line g)).linePoisoned g = true ∧
    ∀ q, q ≠ g → (s.meetError (.line g)).linePoisoned q = s.linePoisoned q := by
  have stored : (s.meetError (.line g)).poison = (s.poison ++ [g]).dedup := rfl
  refine ⟨?_, fun q other => ?_⟩
  · have here : (s.meetError (.line g)).poison.contains g = true := by
      rw [stored, List.contains_iff_mem, List.mem_dedup]
      exact List.mem_append_right _ (List.mem_singleton.2 rfl)
    rw [State.linePoisoned, here, Bool.true_or]
  · have same : (s.meetError (.line g)).poison.contains q = s.poison.contains q := by
      rw [stored, Bool.eq_iff_iff, List.contains_iff_mem, List.contains_iff_mem, List.mem_dedup, List.mem_append, List.mem_singleton]
      exact or_iff_left other
    rw [State.linePoisoned, same]
    rfl

/-! ### Stripes (R381) -/

/-- The stacks whose chunk of a stripe cannot be read. -/
def State.unread (s : State) (n : Nat) (ks : List Nat) : List Nat :=
  (List.range 8).filter fun k => ks.contains k || s.channelsLost.contains (channelOf k n)

theorem mem_unread {s : State} {n : Nat} {ks : List Nat} {k : Nat} :
    k ∈ s.unread n ks ↔ k < 8 ∧ (k ∈ ks ∨ 32 * k + n % 32 ∈ s.channelsLost) := by
  simp only [State.unread, List.mem_filter, List.mem_range, Bool.or_eq_true, List.contains_iff_mem, channelOf]

theorem meetError_stripe_one {s : State} {n k : Nat} {ks : List Nat} (one : s.unread n ks = [k]) :
    s.meetError (.stripe n ks) = s.rebuild (channelOf k n) := by
  show (match s.unread n ks with
    | [] => s
    | [k] => s.rebuild (channelOf k n)
    | _ => { s with poison := (s.poison ++ chunkLines n (s.unread n ks)).dedup }) = _
  rw [one]

theorem meetError_stripe_two {s : State} {n k j : Nat} {ks : List Nat} (hk : k ∈ s.unread n ks) (hj : j ∈ s.unread n ks)
    (two : j ≠ k) : s.meetError (.stripe n ks) = { s with poison := (s.poison ++ chunkLines n (s.unread n ks)).dedup } := by
  show (match s.unread n ks with
    | [] => s
    | [k] => s.rebuild (channelOf k n)
    | _ => { s with poison := (s.poison ++ chunkLines n (s.unread n ks)).dedup }) = _
  split
  · next none' => rw [none'] at hk; exact absurd hk List.not_mem_nil
  · next i one =>
    rw [one] at hk hj
    exact absurd ((List.mem_singleton.1 hj).trans (List.mem_singleton.1 hk).symm) two
  · rfl

/-- Only one stack's chunk cannot be read. -/
theorem unread_one {s : State} {n k : Nat} (hk : k < 8) (sound : ∀ j, j < 8 → ¬ 32 * j + n % 32 ∈ s.channelsLost) :
    s.unread n [k] = [k] := by
  have same : s.unread n [k] = (List.range 8).filter fun j => decide (j = k) := by
    refine List.filter_congr fun j hj => ?_
    have whole : s.channelsLost.contains (channelOf j n) = false :=
      Bool.eq_false_iff.2 fun lost => sound j (List.mem_range.1 hj) (List.contains_iff_mem.1 lost)
    rw [whole, Bool.or_false, List.contains_cons, List.contains_nil, Bool.or_false, beq_eq_decide]
  rw [same]
  interval_cases k <;> rfl

/-- The poisoned lines of two chunks of a stripe hold each byte of both. -/
theorem stripe_poisons {s : State} {a j : Nat} {ks : List Nat} (ha : a < hbmEnd) (own : stackOf a ∈ ks)
    (other : j ∈ s.unread (stripeOf a) ks) (two : j ≠ stackOf a) :
    s.meetError (.stripe (stripeOf a) ks) = { s with poison := (s.poison ++ chunkLines (stripeOf a) (s.unread (stripeOf a) ks)).dedup } ∧
    (s.meetError (.stripe (stripeOf a) ks)).linePoisoned (granOf false a) = true := by
  have here : stackOf a ∈ s.unread (stripeOf a) ks := mem_unread.2 ⟨stackOf_lt a, .inl own⟩
  have whole := meetError_stripe_two here other two
  refine ⟨whole, ?_⟩
  rw [whole, linePoisoned_iff _ ha]
  exact .inl (List.mem_dedup.2 (List.mem_append_right _ (granOf_mem_chunkLines ha here)))

/-! ### A rebuild -/

/-- The rebuilds within one second, with one of a channel now. -/
def State.rebuildsWith (s : State) (channel : Nat) : List (Nat × Nat) :=
  (s.rebuilds.filter fun r => decide (s.cycle < r.2 + Config.second)) ++ [(channel, s.cycle)]

theorem rebuildsWith_count (s : State) (channel : Nat) : ((s.rebuildsWith channel).filter fun r => r.1 == channel).length =
    (s.rebuilds.filter fun r => r.1 == channel && decide (s.cycle < r.2 + 2700000000)).length + 1 := by
  rw [State.rebuildsWith, List.filter_append, List.filter_filter, List.length_append]
  have new : ([(channel, s.cycle)].filter fun r : Nat × Nat => r.1 == channel).length = 1 := by simp
  rw [new]
  rfl

theorem rebuild_eq {s : State} {channel : Nat} (sound : channel ∉ s.channelsLost) : s.rebuild channel =
    if ((s.rebuildsWith channel).filter fun r => r.1 == channel).length < 16 then
      { s.logPlatform 6 0x02 with rebuilds := s.rebuildsWith channel }
    else ({ s.logPlatform 6 0x02 with
      rebuilds := s.rebuildsWith channel, channelsLost := s.channelsLost ++ [channel] } : State).logPlatform 6 0x03 := by
  have only : s.logPlatform 6 0x02 = { s with host := (s.logPlatform 6 0x02).host } := State.logPair_eq ..
  have channels : (s.logPlatform 6 0x02).channelsLost = s.channelsLost := by rw [only]
  have rebuilds : (s.logPlatform 6 0x02).rebuilds = s.rebuilds := by rw [only]
  have kept : ¬ s.channelsLost.contains channel = true := by rwa [List.contains_iff_mem]
  unfold State.rebuild
  dsimp only
  rw [channels, rebuilds, if_neg kept]
  rfl

/-- R381: a rebuild is counted, and the 16th of a channel within one second marks it lost. -/
theorem rebuild_counts {s : State} {channel : Nat} (sound : channel ∉ s.channelsLost) :
    keepsAll s (s.rebuild channel) ∧ (s.rebuild channel).clusters = s.clusters ∧ (s.rebuild channel).poison = s.poison ∧
    ((s.rebuilds.filter fun r => r.1 == channel && decide (s.cycle < r.2 + 2700000000)).length < 15 →
      (s.rebuild channel).channelsLost = s.channelsLost ∧ logsAlone s (s.rebuild channel) 6 2) ∧
    (15 ≤ (s.rebuilds.filter fun r => r.1 == channel && decide (s.cycle < r.2 + 2700000000)).length →
      (s.rebuild channel).channelsLost = s.channelsLost ++ [channel]) := by
  have logs : logsAlone s (s.logPlatform 6 0x02) 6 2 :=
    logsAlone_logPair rfl (by decide) (by decide) (by decide) (by decide) (by decide)
  have only : s.logPlatform 6 0x02 = { s with host := (s.logPlatform 6 0x02).host } := State.logPair_eq ..
  rw [rebuild_eq sound, rebuildsWith_count]
  split
  · next few =>
    rw [only] at logs ⊢
    exact ⟨⟨rfl, rfl, rfl, rfl, rfl⟩, rfl, rfl, fun _ => ⟨rfl, logs⟩, fun many => absurd many (by omega)⟩
  · next many =>
    have second : ∀ u : State, u.logPlatform 6 0x03 = { u with host := (u.logPlatform 6 0x03).host } := fun u => State.logPair_eq ..
    rw [second, only]
    exact ⟨⟨rfl, rfl, rfl, rfl, rfl⟩, rfl, rfl, fun few => absurd few (by omega), fun _ => rfl⟩

theorem held_poisons (s : State) (cl n : Nat) :
    (s.meetError (.held cl n)).clu cl =
      { s.clu cl with held := (s.clu cl).held.map fun h => if h.ord == n then { h with poison := true } else h } ∧
    ∀ x, x ≠ cl → (s.meetError (.held cl n)).clu x = s.clu x :=
  ⟨State.clu_modClu_same .., fun _ other => State.clu_modClu_other _ _ other⟩

/-- Settles O51: each error by the rule of its place; a stripe by how many of its chunks cannot be read. -/
theorem theStorageMeetsErrors : Obligations.TheStorageMeetsErrors := by
  unfold Obligations.TheStorageMeetsErrors
  refine fun s => ⟨fun c => corrected_logs s c, fun g => ⟨⟨rfl, rfl, rfl, rfl, rfl⟩, rfl, line_poisons s g⟩, fun cl n => ?_,
    fun a k n ha hn hk => ?_⟩
  · obtain ⟨here, others⟩ := held_poisons s cl n
    refine ⟨⟨rfl, rfl, rfl, rfl, rfl⟩, rfl, others, by rw [here], ?_⟩
    rw [here]
    simp only [beq_iff_eq]
  · subst hn
    have stack : stackOf a = k := hk.symm
    subst stack
    have below : stackOf a < 8 := stackOf_lt a
    refine ⟨fun sound => ?_, fun j hj two => ?_, fun j hj two lost => ?_, fun own others => ?_, fun own other => ?_⟩
    · rw [meetError_stripe_one (unread_one below sound)]
      exact rebuild_counts (sound (stackOf a) below)
    · obtain ⟨whole, poisoned⟩ := stripe_poisons (s := s) (ks := [stackOf a, j]) ha List.mem_cons_self
        (mem_unread.2 ⟨hj, .inl (by simp)⟩) two
      refine ⟨?_, ?_, poisoned, ?_⟩
      · show keepsAll s (s.meetError (.stripe (stripeOf a) [stackOf a, j]))
        rw [whole]
        exact ⟨rfl, rfl, rfl, rfl, rfl⟩
      · exact (congrArg State.clusters whole :)
      · exact (congrArg State.host whole :)
    · exact (stripe_poisons ha List.mem_cons_self (mem_unread.2 ⟨hj, .inr lost⟩) two).2
    · rw [Bool.eq_iff_iff, linePoisoned_iff s ha, decide_eq_true_iff]
      exact or_iff_left fun ⟨_, j, hj, two, lost⟩ => others j hj two lost
    · exact (linePoisoned_iff s ha).2 (.inr ⟨own, other⟩)

end Sys2Proof.Machine
end

section
/-!
PROOFS. The packet on which a queue's command processor acts (R341, R342, R347): how it is found, consumed, and refused.
-/
namespace Sys2Proof.Machine
open Sys2Proof

/-! ### A queue's slot -/

/-- A change of a queue changes its slot alone. -/
theorem modQueue_becomes {s : State} {i : Nat} {x : Queue} (here : s.queue? i = some x) (f : Queue → Queue) :
    queueBecomes s (s.modQueue i f) i (f x) := by
  rw [State.modQueue_of here]
  exact ⟨Table.get?_put_same .., fun j other => Table.get?_put_other _ _ other⟩

theorem queue?_modQueue {s : State} {i : Nat} {x : Queue} (here : s.queue? i = some x) (f : Queue → Queue) :
    (s.modQueue i f).queue? i = some (f x) := by
  rw [State.modQueue_of here]
  exact State.queue?_put_same s i (f x)

/-- Two changes of a queue are one. -/
theorem modQueue_modQueue {s : State} {i : Nat} {x : Queue} (here : s.queue? i = some x) (f g : Queue → Queue) :
    (s.modQueue i f).modQueue i g = s.modQueue i fun q => g (f q) := by
  rw [State.modQueue_of (queue?_modQueue here f), State.modQueue_of here, State.modQueue_of here]
  exact congrArg (fun t => ({ s with queues := t } : State)) (Table.put_put ..)

/-- A change of a queue touches nothing else. -/
theorem modQueue_only {s : State} {i : Nat} (f : Queue → Queue) : ∃ q, s.modQueue i f = { s with queues := q } := by
  unfold State.modQueue
  split
  · exact ⟨_, rfl⟩
  · exact ⟨s.queues, rfl⟩

theorem modQueue_machine {s : State} {i : Nat} (f : Queue → Queue) :
    leavesMachine s (s.modQueue i f) ∧ (s.modQueue i f).host = s.host ∧ (s.modQueue i f).contexts = s.contexts ∧
    (s.modQueue i f).stages = s.stages := by
  obtain ⟨q, only⟩ := modQueue_only (s := s) (i := i) f
  rw [only]
  exact ⟨⟨rfl, rfl, rfl, rfl, rfl, rfl⟩, rfl, rfl, rfl⟩

/-! ### The packet at the head, and the one in work -/

/-- The queue runs, acts on nothing, and has a packet at its head. -/
def atHead (x : Queue) (bs : List Byte) : Prop := x.qstate = .running ∧ x.acting = none ∧ Table.get? x.copies x.rptr = some bs

theorem packetAt_head {s : State} {i type : Nat} {x : Queue} {bs : List Byte} (here : s.queue? i = some x) (head : atHead x bs)
    (kind : field bs 0 1 = type) : s.packetAt i type = some (x, bs) := by
  obtain ⟨runs, idle, copy⟩ := head
  simp [State.packetAt, here, runs, idle, copy, kind]

theorem actingOn_of {s : State} {i type n : Nat} {x : Queue} {bs : List Byte} (here : s.queue? i = some x)
    (acts : x.acting = some (n, bs)) (kind : field bs 0 1 = type) : s.actingOn i type = some (x, bs) := by
  simp [State.actingOn, here, acts, kind]

theorem badHeader_good {bs : List Byte} (good : leNat ((bs.drop 0).take 8) / 2 ^ 9 = 0) : badHeader bs = false := by
  have zero : field bs 0 8 / 2 ^ 9 = 0 := good
  rw [badHeader, zero]
  rfl

theorem zeroAt_iff (b : List Byte) (o n : Nat) : zeroAt b o n = true ↔ leNat ((b.drop o).take n) = 0 :=
  ⟨leNat_of_zeroAt, zeroAt_of_leNat⟩

/-- R347: a queue that fails is in Error at its packet, and the driver is told. -/
theorem queueError_fails {s : State} {i : Nat} {x : Queue} (here : s.queue? i = some x) (cause : Nat) :
    hasFailed s (s.queueError i cause) i x cause := by
  have whole : s.queueError i cause = (s.modQueue i fun q => { q with qstate := .error, ecode := cause, acting := none, copies := [] }).eventFrame
      x.pasid 0x0E 0 (leBytes 4 x.pasid ++ leBytes 4 x.q ++ leBytes 4 x.rptr ++ leBytes 4 cause) := by
    simp only [State.queueError, here]
  have becomes := modQueue_becomes here fun q => { q with qstate := .error, ecode := cause, acting := none, copies := [] }
  obtain ⟨machine, host, contexts, stages⟩ := modQueue_machine (s := s) (i := i)
    fun q => { q with qstate := .error, ecode := cause, acting := none, copies := [] }
  obtain ⟨q, only⟩ := modQueue_only (s := s) (i := i) fun q => { q with qstate := .error, ecode := cause, acting := none, copies := [] }
  generalize (s.modQueue i fun q => { q with qstate := .error, ecode := cause, acting := none, copies := [] }) = u at *
  rw [whole]
  refine ⟨?_, fun healthy => ?_, ?_, ?_, ?_⟩
  · obtain ⟨h, framed⟩ := eventFrame_host u x.pasid 0x0E 0 (leBytes 4 x.pasid ++ leBytes 4 x.q ++ leBytes 4 x.rptr ++ leBytes 4 cause)
    rw [framed]
    exact becomes
  · have healthy' : u.viral = false := by rw [only]; exact healthy
    rw [State.eventFrame, healthy', ← host]
    exact ⟨_, rfl, rfl, rfl, rfl⟩
  all_goals
    obtain ⟨h, framed⟩ := eventFrame_host u x.pasid 0x0E 0 (leBytes 4 x.pasid ++ leBytes 4 x.q ++ leBytes 4 x.rptr ++ leBytes 4 cause)
    rw [framed]
    assumption

/-- The packet at the head is the one in work. -/
theorem actOn_becomes {s : State} {i : Nat} {x : Queue} (here : s.queue? i = some x) (bs : List Byte) :
    queueBecomes s (s.actOn i bs) i { x with acting := some (x.rptr, bs) } ∧ leavesMachine s (s.actOn i bs) ∧
    (s.actOn i bs).host = s.host := by
  obtain ⟨machine, host, -⟩ := modQueue_machine (s := s) (i := i) fun q => { q with acting := some (q.rptr, bs) }
  exact ⟨modQueue_becomes here _, machine, host⟩

/-- The packet in work is consumed. -/
theorem consume_becomes {s : State} {i : Nat} {x : Queue} (here : s.queue? i = some x) :
    queueBecomes s (s.consume i) i (behind x) ∧ leavesMachine s (s.consume i) ∧ (s.consume i).host = s.host := by
  obtain ⟨machine, host, -⟩ := modQueue_machine (s := s) (i := i)
    fun q => { q with copies := Table.del q.copies q.rptr, rptr := (q.rptr + 1) % 2 ^ 32, acting := none }
  exact ⟨modQueue_becomes here _, machine, host⟩

end Sys2Proof.Machine
end

section
/-!
PROOFS. SIGNAL, FENCE, NOP and LAUNCH packets (R205, R217, R342-R344, R346, R347).
-/
namespace Sys2Proof.Machine
open Sys2Proof

/-! ### SIGNAL -/

/-- Are the tasks of a queue's earlier packets in some final state, and their writes released? -/
def State.packetsDone (s : State) (x : Queue) (final : Task → Bool) : Bool :=
  x.tasks.all fun t => ((s.taskAny t).map final).getD true && s.writesReleased x.pasid t

theorem taskAny_here {s : State} {τ : Nat} {k : Task} (h : s.task? τ = some k) : s.taskAny τ = some k := by
  simp only [State.taskAny, h]

/-- The tasks are done when each is, and none of its writes is on its way. -/
theorem packetsDone_true {s : State} {x : Queue} {final : Task → Bool}
    (h : ∀ τ ∈ x.tasks, ∀ k, s.taskAny τ = some k → final k = true ∧ k.wlog = [] ∧ s.coresOf τ = [] ∧
      ∀ e ∈ s.clusters, ∀ h ∈ e.2.held, h.stage = k.stage → h.key ≠ k.key) : s.packetsDone x final = true := by
  refine List.all_eq_true.2 fun τ hτ => Bool.and_eq_true_iff.2 ⟨?_, ?_⟩
  · cases any : s.taskAny τ with
    | none => rfl
    | some k => exact (h τ hτ k any).1
  · unfold State.writesReleased
    cases task : s.task? τ with
    | none => rfl
    | some k =>
      obtain ⟨-, log, cores, held⟩ := h τ hτ k (taskAny_here task)
      have released : (s.clusters.any fun (e : Nat × Cluster) => e.2.held.any fun h => h.pasid == x.pasid && h.stage == k.stage && h.key == k.key) = false := by
        simp only [List.any_eq_false, Bool.not_eq_true, Bool.and_eq_true, beq_iff_eq]
        exact fun e he y hy hit => held e he y hy hit.1.2 hit.2
      simp [log, cores, released]

theorem packetsDone_false {s : State} {x : Queue} {final : Task → Bool}
    (h : ∃ τ ∈ x.tasks, ∃ k, s.taskAny τ = some k ∧ final k = false) : s.packetsDone x final = false := by
  obtain ⟨τ, hτ, k, any, open'⟩ := h
  refine List.all_eq_false.2 ⟨τ, hτ, ?_⟩
  simp [any, open']

theorem signalStore_eq {s : State} {i : Nat} {x : Queue} {bs : List Byte} (act : s.actingOn i 2 = some (x, bs)) :
    execSignalStore i s = if !s.packetsDone x (fun k => k.state == .committed) then .next s
      else match translate s x.pasid (field bs 8 8) with
        | none => .next (s.queueError i 0x05)
        | some g =>
          if !g.w || g.kind == 2 || g.home != s.chipNo || s.foreignDoor x.pasid g.pa then .next (s.queueError i 0x05)
          else .next ((s.homeWrite x.pasid { xs := false, addr := g.pa, bytes := (bs.drop 16).take 8, core := 0, seg := 0 }).consume i) := by
  simp only [execSignalStore, act]
  rfl

theorem signalStore_waits {s : State} {i : Nat} {x : Queue} {bs : List Byte} (act : s.actingOn i 2 = some (x, bs))
    (open' : ∃ τ ∈ x.tasks, ∃ k, s.taskAny τ = some k ∧ k.state ≠ .committed) : execSignalStore i s = .next s := by
  obtain ⟨τ, hτ, k, any, state⟩ := open'
  rw [signalStore_eq act, packetsDone_false (final := fun k => k.state == .committed) ⟨τ, hτ, k, any, beq_false_of_ne state⟩]
  rfl

theorem signalStore_noPage {s : State} {i : Nat} {x : Queue} {bs : List Byte} (here : s.queue? i = some x)
    (act : s.actingOn i 2 = some (x, bs)) (done : s.packetsDone x (fun k => k.state == .committed) = true)
    (page : translate s x.pasid (field bs 8 8) = none) : ∃ t, execSignalStore i s = .next t ∧ hasFailed s t i x 0x05 := by
  refine ⟨_, ?_, queueError_fails here 0x05⟩
  rw [signalStore_eq act, done, page]
  rfl

theorem signalStore_refused {s : State} {i : Nat} {x : Queue} {bs : List Byte} {g : Page} (here : s.queue? i = some x)
    (act : s.actingOn i 2 = some (x, bs)) (done : s.packetsDone x (fun k => k.state == .committed) = true)
    (page : translate s x.pasid (field bs 8 8) = some g)
    (bad : g.w = false ∨ g.home ≠ s.chipNo ∨ s.foreignDoor x.pasid g.pa = true) :
    ∃ t, execSignalStore i s = .next t ∧ hasFailed s t i x 0x05 := by
  refine ⟨_, ?_, queueError_fails here 0x05⟩
  rw [signalStore_eq act, done, page]
  simp only [Bool.not_true, Bool.false_eq_true, if_false]
  refine if_pos ?_
  rcases bad with h | h | h
  · simp [h]
  · simp [h]
  · simp [h]

theorem foreignDoor_page {s : State} {p pa j : Nat} {y : Queue} (place : pa = doorBase + 4096 * j) (there : s.queue? j = some y)
    (foreign : y.pasid ≠ p) : s.foreignDoor p pa = true := by
  have slot : doorSlot pa = some j := by
    rw [doorSlot, place, if_pos (Nat.le_add_right _ _)]
    exact congrArg some (by omega)
  simp [State.foreignDoor, slot, there, foreign]

theorem foreignDoor_below {s : State} {p pa : Nat} (below : pa + 8 ≤ doorBase) : s.foreignDoor p pa = false := by
  have slot : doorSlot pa = none := if_neg (by omega)
  rw [State.foreignDoor, slot]
  rfl

/-- A write of eight bytes to global memory reaches it, and nothing else changes. -/
theorem homeWrite_eight {s : State} {p pa : Nat} {bs : List Byte} (below : pa + 8 ≤ doorBase) (long : bs.length = 8) :
    s.homeWrite p { xs := false, addr := pa, bytes := bs, core := 0, seg := 0 } = { s with pmem := s.pmem.writeBytes pa bs } := by
  have memory : decide (doorBase ≤ pa) = false := decide_eq_false (by omega)
  simp [State.homeWrite, memory, long]

theorem signalStore_stores {s : State} {i : Nat} {x : Queue} {bs : List Byte} {g : Page} (here : s.queue? i = some x)
    (long : bs.length = 64) (act : s.actingOn i 2 = some (x, bs))
    (done : s.packetsDone x (fun k => k.state == .committed) = true) (page : translate s x.pasid (field bs 8 8) = some g)
    (w : g.w = true) (kind : g.kind ≠ 2) (home : g.home = s.chipNo) (below : g.pa + 8 ≤ doorBase) :
    ∃ t, execSignalStore i s = .next t ∧ t.pmem.readLE g.pa 8 = field bs 16 8 ∧
      (∀ a, a < g.pa ∨ g.pa + 8 ≤ a → t.pmem.read a = s.pmem.read a) ∧ queueBecomes s t i (behind x) ∧
      t.cores = s.cores ∧ t.clusters = s.clusters ∧ t.tasks = s.tasks ∧ t.xs = s.xs := by
  have eight : ((bs.drop 16).take 8).length = 8 := by simp [long]
  have takes : ¬ (!g.w || g.kind == 2 || g.home != s.chipNo || s.foreignDoor x.pasid g.pa) = true := by
    simp [w, kind, home, foreignDoor_below below]
  have whole : execSignalStore i s =
      .next (({ s with pmem := s.pmem.writeBytes g.pa ((bs.drop 16).take 8) } : State).consume i) := by
    rw [signalStore_eq act, done, page, ← homeWrite_eight (p := x.pasid) below eight]
    simp only [Bool.not_true, Bool.false_eq_true, if_false]
    exact if_neg takes
  obtain ⟨becomes, machine, -⟩ :=
    consume_becomes (s := { s with pmem := s.pmem.writeBytes g.pa ((bs.drop 16).take 8) }) (i := i) (x := x) here
  obtain ⟨cores, clusters, tasks, pmem, xs, -⟩ := machine
  refine ⟨_, whole, ?_, fun a out => ?_, becomes, cores, clusters, tasks, xs⟩
  · rw [Memory.readLE, pmem]
    have stored := readBytes_writeBytes s.pmem g.pa ((bs.drop 16).take 8)
    rw [eight] at stored
    exact congrArg leNat stored
  · rw [pmem]
    exact Memory.read_writeBytes_outside _ _ _ (by rw [eight]; exact out)

/-- A SIGNAL packet is accepted or refused by its address and its zeros. -/
theorem signalPacket_eq {s : State} {i : Nat} {x : Queue} {bs : List Byte} (head : s.packetAt i 2 = some (x, bs))
    (good : badHeader bs = false) : execSignalPacket i s =
      .next (if field bs 8 8 % 8 ≠ 0 ∨ field bs 24 40 ≠ 0 then s.queueError i 0x02 else s.actOn i bs) := by
  have zeros : (!zeroAt bs 24 40) = decide (field bs 24 40 ≠ 0) := by
    rw [Bool.eq_iff_iff, Bool.not_eq_true', Bool.eq_false_iff, Ne, zeroAt_iff, decide_eq_true_iff]
    rfl
  simp only [execSignalPacket, head, good, zeros, Bool.false_or, Bool.or_eq_true, bne_iff_ne, decide_eq_true_iff]

/-! ### FENCE and NOP -/

theorem fencePacket_eq {s : State} {i : Nat} {x : Queue} {bs : List Byte} (head : s.packetAt i 3 = some (x, bs))
    (good : badHeader bs = false) : execFencePacket i s =
      .next (if field bs 8 56 ≠ 0 then s.queueError i 0x02
        else (s.actOn i bs).modQueue i fun x => { x with qstate := .fenceWait }) := by
  have zeros : (!zeroAt bs 8 56) = decide (field bs 8 56 ≠ 0) := by
    rw [Bool.eq_iff_iff, Bool.not_eq_true', Bool.eq_false_iff, Ne, zeroAt_iff, decide_eq_true_iff]
    rfl
  simp only [execFencePacket, head, good, zeros, Bool.false_or, decide_eq_true_iff]

theorem nopPacket_eq {s : State} {i : Nat} {x : Queue} {bs : List Byte} (head : s.packetAt i 5 = some (x, bs))
    (good : badHeader bs = false) : execNopPacket i s =
      .next (if field bs 8 56 ≠ 0 then s.queueError i 0x02 else s.consume i) := by
  have zeros : (!zeroAt bs 8 56) = decide (field bs 8 56 ≠ 0) := by
    rw [Bool.eq_iff_iff, Bool.not_eq_true', Bool.eq_false_iff, Ne, zeroAt_iff, decide_eq_true_iff]
    rfl
  simp only [execNopPacket, head, good, zeros, Bool.false_or, decide_eq_true_iff]

/-- A queue behind its fence: what it has read ahead is discarded, and it runs unless it has been disabled. -/
def Queue.released (x : Queue) : Queue :=
  { x with copies := [], qstate := if x.qstate == .fenceWait then .running else x.qstate }

theorem fenceRelease_eq {s : State} {i : Nat} {x : Queue} {bs : List Byte} (act : s.actingOn i 3 = some (x, bs)) :
    execQueueFenceRelease i s =
      if !s.packetsDone x (fun k => k.state == .committed || k.state == .aborted) then .next s
      else .next ((s.modQueue i Queue.released).consume i) := by
  simp only [execQueueFenceRelease, act]
  rfl

theorem inFlight_iff (k : Task) : k.inFlight = !(k.state == .committed || k.state == .aborted) := by
  unfold Task.inFlight
  cases k.state <;> rfl

theorem fenceRelease_waits {s : State} {i : Nat} {x : Queue} {bs : List Byte} (act : s.actingOn i 3 = some (x, bs))
    (open' : ∃ τ ∈ x.tasks, ∃ k, s.taskAny τ = some k ∧ k.inFlight = true) : execQueueFenceRelease i s = .next s := by
  obtain ⟨τ, hτ, k, any, flight⟩ := open'
  rw [inFlight_iff, Bool.not_eq_true'] at flight
  rw [fenceRelease_eq act, packetsDone_false ⟨τ, hτ, k, any, flight⟩]
  rfl

theorem fenceRelease_runs {s : State} {i : Nat} {x : Queue} {bs : List Byte} (here : s.queue? i = some x)
    (act : s.actingOn i 3 = some (x, bs))
    (done : ∀ τ ∈ x.tasks, ∀ k, s.taskAny τ = some k → k.inFlight = false ∧ k.wlog = [] ∧ s.coresOf τ = [] ∧
      ∀ e ∈ s.clusters, ∀ h ∈ e.2.held, h.stage = k.stage → h.key ≠ k.key) :
    ∃ t, execQueueFenceRelease i s = .next t ∧ queueBecomes s t i (behind x.released) ∧ leavesMachine s t ∧ t.host = s.host := by
  have final : s.packetsDone x (fun k => k.state == .committed || k.state == .aborted) = true := by
    refine packetsDone_true fun τ hτ k any => ?_
    obtain ⟨flight, rest⟩ := done τ hτ k any
    rw [inFlight_iff, Bool.not_eq_false'] at flight
    exact ⟨flight, rest⟩
  have one : (s.modQueue i Queue.released).consume i = s.modQueue i fun q => behind q.released := modQueue_modQueue here _ _
  obtain ⟨machine, host, -⟩ := modQueue_machine (s := s) (i := i) fun q => behind q.released
  refine ⟨_, ?_, modQueue_becomes here fun q => behind q.released, machine, host⟩
  rw [fenceRelease_eq act, final, ← one]
  rfl

/-! ### LAUNCH -/

/-- A core of a stage that has been launched: it holds no overlay and no pin. -/
def Core.unloaded (k : Core) : Core := { k with resident := [], copying := [], pins := [] }

/-- What a launch does in one cluster. -/
def State.loadCluster (g : Stage) (p : Program) (s : State) (cl : Nat) : State :=
  p.sects.foldl (fun (s : State) d => s.placeSection g cl d) ((clusterCores cl).foldl (fun (s : State) c => s.modCore c Core.unloaded) s)

theorem mem_clusterCores {cl c : Nat} : c ∈ clusterCores cl ↔ c / 8 = cl := by
  simp only [clusterCores, List.mem_map, List.mem_range]
  constructor
  · rintro ⟨i, hi, rfl⟩
    omega
  · rintro rfl
    exact ⟨c % 8, by omega, by omega⟩

theorem placeSection_pool {s : State} {g : Stage} {cl : Nat} {d : Section} (pool : d.level = 2) :
    s.placeSection g cl d = s.modClu cl fun k => { k with pool := k.pool.writeBytes d.offset d.data } := by
  unfold State.placeSection
  rw [pool]
  rfl

/-- Sections of the pool change the clusters alone. -/
theorem placeSections_clusters {g : Stage} {cl : Nat} : ∀ (l : List Section), (∀ d ∈ l, d.level = 2) → ∀ s : State,
    ∃ cs, l.foldl (fun (s : State) d => s.placeSection g cl d) s = { s with clusters := cs }
  | [], _, s => ⟨s.clusters, rfl⟩
  | d :: l, pool, s => by
    obtain ⟨cs, only⟩ := placeSections_clusters l (fun e he => pool e (List.mem_cons_of_mem d he)) (s.placeSection g cl d)
    refine ⟨cs, only.trans ?_⟩
    rw [placeSection_pool (pool d List.mem_cons_self)]
    rfl

/-- What a launch does in one cluster: its cores are unloaded, and nothing but the cores and the clusters changes. -/
theorem loadCluster_keeps {g : Stage} {p : Program} (pool : ∀ d ∈ p.sects, d.level = 2) (s : State) (cl : Nat) :
    (∃ ks cs, s.loadCluster g p cl = { s with cores := ks, clusters := cs }) ∧
    ∀ c, (s.loadCluster g p cl).core c = if c / 8 = cl then (s.core c).unloaded else s.core c := by
  have cores := core_foldl_modCore (f := Core.unloaded) (fun _ => rfl) (clusterCores cl) s
  obtain ⟨ks, unloads⟩ := foldl_modCore_cores (f := Core.unloaded) (clusterCores cl) s
  obtain ⟨cs, places⟩ := placeSections_clusters (g := g) (cl := cl) p.sects pool
    ((clusterCores cl).foldl (fun (s : State) c => s.modCore c Core.unloaded) s)
  have whole : s.loadCluster g p cl = _ := places
  refine ⟨⟨ks, cs, by rw [whole, unloads]⟩, fun c => ?_⟩
  rw [whole]
  refine (cores c).trans ?_
  simp only [mem_clusterCores]

/-- What a launch does in the clusters of its stage. -/
theorem loadClusters_keeps {g : Stage} {p : Program} (pool : ∀ d ∈ p.sects, d.level = 2) (l : List Nat) (s : State) :
    (∃ ks cs, l.foldl (State.loadCluster g p) s = { s with cores := ks, clusters := cs }) ∧
    ∀ c, (l.foldl (State.loadCluster g p) s).core c = if c / 8 ∈ l then (s.core c).unloaded else s.core c := by
  induction l generalizing s with
  | nil => exact ⟨⟨s.cores, s.clusters, rfl⟩, fun c => by simp⟩
  | cons cl l ih =>
    obtain ⟨⟨ks, cs, first⟩, cores⟩ := loadCluster_keeps (g := g) pool s cl
    obtain ⟨⟨ks', cs', rest⟩, cores'⟩ := ih (s.loadCluster g p cl)
    refine ⟨⟨ks', cs', by rw [List.foldl_cons, rest, first]⟩, fun c => ?_⟩
    rw [List.foldl_cons, cores', cores]
    by_cases h : c / 8 = cl
    · simp [h, Core.unloaded]
    · simp [h]

/-- A section stands in a cluster's pool. -/
def standsIn (s : State) (d : Section) (cl : Nat) : Prop := (s.clu cl).pool.readBytes d.offset d.data.length = d.data

theorem loadCluster_stands {g : Stage} {p : Program} {d : Section} (only : p.sects = [d]) (pool : d.level = 2) (s : State) (cl q : Nat)
    (h : q = cl ∨ standsIn s d q) : standsIn (s.loadCluster g p cl) d q := by
  obtain ⟨ks, unloads⟩ := foldl_modCore_cores (f := Core.unloaded) (clusterCores cl) s
  have whole : s.loadCluster g p cl =
      ({ s with cores := ks } : State).modClu cl fun k => { k with pool := k.pool.writeBytes d.offset d.data } := by
    rw [State.loadCluster, only, List.foldl_cons, List.foldl_nil, placeSection_pool pool, unloads]
  rw [standsIn, whole]
  by_cases own : q = cl
  · subst own
    rw [State.clu_modClu_same]
    exact readBytes_writeBytes _ _ _
  · rw [State.clu_modClu_other _ _ own]
    exact h.resolve_left own

theorem loadClusters_stands {g : Stage} {p : Program} {d : Section} (only : p.sects = [d]) (pool : d.level = 2) (q : Nat) (l : List Nat)
    (s : State) (h : q ∈ l ∨ standsIn s d q) : standsIn (l.foldl (State.loadCluster g p) s) d q := by
  induction l generalizing s with
  | nil => exact h.resolve_left List.not_mem_nil
  | cons cl l ih =>
    refine ih (s.loadCluster g p cl) ?_
    rcases h with h | h
    · rcases List.mem_cons.1 h with h | h
      · exact .inr (loadCluster_stands only pool s cl q (.inl h))
      · exact .inl h
    · exact .inr (loadCluster_stands only pool s cl q (.inr h))

/-- The channels of an object are declared, and change nothing but the context. -/
def State.declare (s : State) (p : Nat) (chans : List (ChanDecl × Nat)) : State :=
  chans.foldl (fun (s : State) d => s.modCtx p fun x => x.setIn d.1.chan { kind := d.1.kind == .b, win := d.2 - 1 }) s

theorem declare_contexts (p : Nat) (chans : List (ChanDecl × Nat)) (s : State) : ContextsOnly s (s.declare p chans) :=
  ContextsOnly.foldl (fun _ _ => ⟨_, _, _, rfl⟩) chans s

theorem install_eq {s : State} {st : Nat} {p : Program} (chans : List (ChanDecl × Nat)) (pool : ∀ d ∈ p.sects, d.level = 2) :
    s.install st p chans = (((s.stage st).clusters.foldl (State.loadCluster { s.stage st with prog := some p } p)
      (s.modStage st fun _ => { s.stage st with prog := some p })).declare (s.stage st).pasid chans) := by
  have shared : ∀ u : State, p.sects.foldl (fun (u : State) d => u.placeShared (s.stage st).pasid d) u = u := fun u =>
    foldl_stays fun d hd => by
      unfold State.placeShared
      rw [pool d hd]
      rfl
  exact congrArg (fun u : State => u.declare (s.stage st).pasid chans) (shared _)

/-- What an installed object leaves: its program is the stage's, its stage's cores are unloaded, its channel is declared and its
section stands in the pools (R344). -/
theorem install_loads {s : State} {st : Nat} {p : Program} (chans : List (ChanDecl × Nat)) (pool : ∀ d ∈ p.sects, d.level = 2) :
    ∃ u, s.install st p chans = u ∧ u.stage st = { s.stage st with prog := some p } ∧ (∀ j, j ≠ st → u.stage j = s.stage j) ∧
      u.queues = s.queues ∧ (∀ c, u.core c = if c / 8 ∈ (s.stage st).clusters then (s.core c).unloaded else s.core c) ∧
      (∀ d, chans = [d] → (u.ctx (s.stage st).pasid).inChan d.1.chan = { kind := d.1.kind == .b, win := d.2 - 1 }) ∧
      (∀ d, p.sects = [d] → ∀ cl ∈ (s.stage st).clusters, standsIn u d cl) ∧ u.tasks = s.tasks ∧ u.pmem = s.pmem ∧ u.xs = s.xs := by
  have withProg : ∃ v, v = s.modStage st fun _ => { s.stage st with prog := some p } := ⟨_, rfl⟩
  obtain ⟨v, hv⟩ := withProg
  have same : v.stage st = { s.stage st with prog := some p } := by rw [hv]; exact State.stage_modStage_same ..
  have others : ∀ j, j ≠ st → v.stage j = s.stage j := fun j hj => by rw [hv]; exact State.stage_modStage_other s _ hj
  have rest : v.queues = s.queues ∧ v.cores = s.cores ∧ v.tasks = s.tasks ∧ v.pmem = s.pmem ∧ v.xs = s.xs := by
    rw [hv]
    exact ⟨rfl, rfl, rfl, rfl, rfl⟩
  obtain ⟨queues, coresV, tasks, pmem, xs⟩ := rest
  have loads := install_eq (s := s) (st := st) chans pool
  rw [← hv] at loads
  obtain ⟨⟨ks, cs, only⟩, cores⟩ := loadClusters_keeps (g := { s.stage st with prog := some p }) pool (s.stage st).clusters v
  have stands := fun d only' cl hcl => loadClusters_stands (g := { s.stage st with prog := some p }) (d := d) only'
    (pool d (by rw [only']; exact List.mem_singleton.2 rfl)) cl (s.stage st).clusters v (.inl hcl)
  generalize (s.stage st).clusters.foldl (State.loadCluster { s.stage st with prog := some p } p) v = w at *
  obtain ⟨cx, n, m, declares⟩ := declare_contexts (s.stage st).pasid chans w
  have chan : ∀ d, chans = [d] → ((w.declare (s.stage st).pasid chans).ctx (s.stage st).pasid).inChan d.1.chan =
      { kind := d.1.kind == .b, win := d.2 - 1 } := by
    rintro d rfl
    have made : (w.declare (s.stage st).pasid [d]).ctx (s.stage st).pasid =
        (w.ctx (s.stage st).pasid).setIn d.1.chan { kind := d.1.kind == .b, win := d.2 - 1 } :=
      State.ctx_modCtx_same w (s.stage st).pasid fun x => x.setIn d.1.chan { kind := d.1.kind == .b, win := d.2 - 1 }
    rw [made]
    exact Table.get_put_same ..
  rw [declares] at loads chan
  have coreW : ∀ c, v.core c = s.core c := fun c => by rw [State.core, coresV, State.core]
  have stageW : ∀ j, w.stage j = v.stage j := fun j => by rw [only]; rfl
  have restW : w.queues = v.queues ∧ w.tasks = v.tasks ∧ w.pmem = v.pmem ∧ w.xs = v.xs := by
    rw [only]
    exact ⟨rfl, rfl, rfl, rfl⟩
  obtain ⟨queuesW, tasksW, pmemW, xsW⟩ := restW
  exact ⟨_, loads, (stageW st).trans same, fun j hj => (stageW j).trans (others j hj), queuesW.trans queues,
    fun c => (cores c).trans (by rw [coreW]), chan, stands, tasksW.trans tasks, pmemW.trans pmem, xsW.trans xs⟩

/-- The object at an address of a stage. -/
def State.objectAt (s : State) (st va : Nat) : Option (Program × List (ChanDecl × Nat)) :=
  readObject fun o n => s.virtRead (s.stage st).pasid (va + o) n

theorem launch_none {s : State} {st va : Nat} (h : s.objectAt st va = none) : s.launch st va = none := by
  unfold State.objectAt at h
  simp only [State.launch, h]

theorem launch_some {s : State} {st va : Nat} {p : Program} {chans : List (ChanDecl × Nat)}
    (h : s.objectAt st va = some (p, chans)) : s.launch st va =
      if p.team ≠ (s.stage st).team ∨ (s.ctx (s.stage st).pasid).xssize < p.xs ∨
        p.sects.any (fun d => d.level == 4 && (s.sectionPieces (s.stage st).pasid d).isNone) = true then none
      else some (s.install st p chans) := by
  unfold State.objectAt at h
  simp only [State.launch, h, Bool.or_eq_true, bne_iff_ne, decide_eq_true_iff, or_assoc]

theorem launchInstall_eq {s : State} {i : Nat} {x : Queue} {bs : List Byte} (act : s.actingOn i 4 = some (x, bs)) :
    execLaunchInstall i s =
      if !(!s.stageBusy x.stage && !(s.tasks.any fun (e : Nat × Task) => e.2.stage == x.stage && !(s.coresOf e.1).isEmpty)) ||
          (s.ctx x.pasid).phase != .active then .next s
      else if !s.holdsStage x then .next (s.queueError i 0x07)
      else .next (match s.launch x.stage (field bs 8 8) with
        | some t => t.consume i
        | none => s.queueError i 0x06) := by
  simp only [execLaunchInstall, act] <;> rfl

theorem launchInstall_waits {s : State} {i : Nat} {x : Queue} {bs : List Byte} (act : s.actingOn i 4 = some (x, bs))
    (busy : s.inFlight x.stage ≠ []) : execLaunchInstall i s = .next s := by
  have some : s.stageBusy x.stage = true := by
    have full : (s.inFlight x.stage).isEmpty = false := by simpa using busy
    simp [State.stageBusy, full]
  rw [launchInstall_eq act, some]
  rfl

/-- No task of a stage is anywhere. -/
def stageIdle (s : State) (st : Nat) : Prop :=
  (∀ e ∈ s.tasks, e.2.stage ≠ st) ∧ (∀ e ∈ s.cores, e.2.task ≠ none → s.stageOf e.1 ≠ st) ∧
  ∀ e ∈ s.contexts, ∀ a, e.2.area = some a → ∀ y ∈ a.tasks, y.2.stage ≠ st

theorem stageBusy_false {s : State} {st : Nat} (idle : stageIdle s st) : s.stageBusy st = false := by
  obtain ⟨tasks, cores, areas⟩ := idle
  have flight : (s.inFlight st).isEmpty = true := by
    rw [List.isEmpty_iff, State.inFlight, List.filter_eq_nil_iff]
    intro e he
    simp [tasks e he]
  have noCore : (s.cores.any fun (e : Nat × Core) => e.2.task.isSome && s.stageOf e.1 == st) = false := by
    rw [List.any_eq_false]
    intro e he
    cases task : e.2.task with
    | none => simp
    | some τ => simpa using cores e he (by rw [task]; simp)
  have noArea : (s.contexts.any fun (e : Nat × Context) => (e.2.area.map fun (a : SaveArea) =>
      a.tasks.any fun x => x.2.stage == st && x.2.inFlight).getD false) = false := by
    rw [List.any_eq_false]
    intro e he
    cases area : e.2.area with
    | none => simp
    | some a =>
      simp only [Option.map_some, Option.getD_some, Bool.not_eq_true, List.any_eq_false]
      intro y hy
      simp [areas e he a area y hy]
  rw [State.stageBusy, flight, noCore, noArea]
  rfl

theorem launchInstall_acts {s : State} {i : Nat} {x : Queue} {bs : List Byte} (act : s.actingOn i 4 = some (x, bs))
    (idle : stageIdle s x.stage) (phase : (s.ctx x.pasid).phase = .active) (valid : (s.stage x.stage).valid = true)
    (own : (s.stage x.stage).pasid = x.pasid) :
    execLaunchInstall i s = .next (match s.launch x.stage (field bs 8 8) with
      | some t => t.consume i
      | none => s.queueError i 0x06) := by
  have holds : s.holdsStage x = true := by simp [State.holdsStage, valid, own]
  have noTask : (s.tasks.any fun (e : Nat × Task) => e.2.stage == x.stage && !(s.coresOf e.1).isEmpty) = false := by
    rw [List.any_eq_false]
    intro e he
    simp [idle.1 e he]
  rw [launchInstall_eq act, stageBusy_false idle, noTask, phase, holds]
  rfl

/-- A LAUNCH packet is accepted or refused by its address, its zeros and its stage. -/
theorem launchPacket_eq {s : State} {i : Nat} {x : Queue} {bs : List Byte} (head : s.packetAt i 4 = some (x, bs))
    (good : badHeader bs = false) : execLaunchPacket i s =
      .next (if field bs 8 8 % 4096 ≠ 0 ∨ field bs 16 48 ≠ 0 then s.queueError i 0x02
        else if s.holdsStage x = false then s.queueError i 0x07 else s.actOn i bs) := by
  have zeros : (!zeroAt bs 16 48) = decide (field bs 16 48 ≠ 0) := by
    rw [Bool.eq_iff_iff, Bool.not_eq_true', Bool.eq_false_iff, Ne, zeroAt_iff, decide_eq_true_iff]
    rfl
  simp only [execLaunchPacket, head, good, zeros, Bool.false_or, Bool.or_eq_true, bne_iff_ne, decide_eq_true_iff, Bool.not_eq_true']

theorem holdsStage_false {s : State} {x : Queue} (no : (s.stage x.stage).valid = false ∨ (s.stage x.stage).pasid ≠ x.pasid) :
    s.holdsStage x = false := by
  rcases no with h | h
  · rw [State.holdsStage, h, Bool.false_and]
  · rw [State.holdsStage, beq_false_of_ne h, Bool.and_false]

/-- R344: an object that the loader accepts is installed, and its packet is consumed. -/
theorem launchInstall_loads {s : State} {i : Nat} {x : Queue} {bs : List Byte} {p : Program} {chans : List (ChanDecl × Nat)}
    (here : s.queue? i = some x) (act : s.actingOn i 4 = some (x, bs)) (idle : stageIdle s x.stage)
    (phase : (s.ctx x.pasid).phase = .active) (valid : (s.stage x.stage).valid = true) (own : (s.stage x.stage).pasid = x.pasid)
    (object : s.objectAt x.stage (field bs 8 8) = some (p, chans)) (team : p.team = (s.stage x.stage).team)
    (room : p.xs ≤ (s.ctx (s.stage x.stage).pasid).xssize) (pool : ∀ d ∈ p.sects, d.level = 2) :
    ∃ t, execLaunchInstall i s = .next t ∧ t.stage x.stage = { s.stage x.stage with prog := some p } ∧
      (∀ j, j ≠ x.stage → t.stage j = s.stage j) ∧ queueBecomes s t i (behind x) ∧
      (∀ c, c / 8 ∈ (s.stage x.stage).clusters → t.core c = (s.core c).unloaded) ∧
      (∀ c, c / 8 ∉ (s.stage x.stage).clusters → t.core c = s.core c) ∧
      (∀ d, chans = [d] → (t.ctx (s.stage x.stage).pasid).inChan d.1.chan = { kind := d.1.kind == .b, win := d.2 - 1 }) ∧
      (∀ d, p.sects = [d] → ∀ cl ∈ (s.stage x.stage).clusters, standsIn t d cl) ∧ t.tasks = s.tasks ∧ t.pmem = s.pmem ∧ t.xs = s.xs := by
  have noGlobal : p.sects.any (fun d => d.level == 4 && (s.sectionPieces (s.stage x.stage).pasid d).isNone) = false := by
    rw [List.any_eq_false]
    intro d hd
    simp [pool d hd]
  obtain ⟨u, installs, stage, others, queues, cores, chan, stands, tasks, pmem, xs⟩ := install_loads (st := x.stage) chans pool
  have whole : execLaunchInstall i s = .next (u.consume i) := by
    rw [launchInstall_acts act idle phase valid own, launch_some object, if_neg (by simp [team, room, noGlobal]), installs]
  have hereU : u.queue? i = some x := by
    rw [State.queue?, queues]
    exact here
  obtain ⟨⟨becomes, slots⟩, -, -⟩ := consume_becomes hereU
  obtain ⟨q, only⟩ := modQueue_only (s := u) (i := i)
    fun q => { q with copies := Table.del q.copies q.rptr, rptr := (q.rptr + 1) % 2 ^ 32, acting := none }
  have only : u.consume i = { u with queues := q } := only
  rw [only] at becomes slots whole
  exact ⟨_, whole, stage, others, ⟨becomes, fun j hj => by rw [slots j hj, queues]⟩,
    fun c hc => (cores c).trans (if_pos hc), fun c hc => (cores c).trans (if_neg hc), chan, stands, tasks, pmem, xs⟩

/-- Settles O48: each packet by the equation of its event; the loaded object by what an installation leaves. -/
theorem packetsActInOrder : Obligations.PacketsActInOrder := by
  unfold Obligations.PacketsActInOrder
  refine ⟨fun i x bs s here long kind good => ⟨fun head bad => ?_, fun head aligned zero => ?_, fun acts => ⟨fun open' => ?_, fun done => ?_⟩⟩,
    fun i x bs s here => ⟨fun copy long runs idle good => ?_, fun acts kind => ⟨fun open' => ?_, fun done => ?_⟩⟩,
    fun i x bs s here long kind good => ⟨fun head bad => ?_, fun head aligned zero foreign => ?_, fun head aligned zero valid own => ?_,
      fun acts => ⟨fun busy => ?_, fun tasks cores areas phase valid own => ?_⟩⟩⟩
  · exact ⟨_, (signalPacket_eq (packetAt_head here head kind) (badHeader_good good)).trans (congrArg Host.Outcome.next (if_pos bad)),
      queueError_fails here 0x02⟩
  · have takes : ¬ (field bs 8 8 % 8 ≠ 0 ∨ field bs 24 40 ≠ 0) := not_or.2 ⟨fun h => h aligned, fun h => h zero⟩
    exact ⟨_, (signalPacket_eq (packetAt_head here head kind) (badHeader_good good)).trans (congrArg Host.Outcome.next (if_neg takes)),
      actOn_becomes here bs⟩
  · exact signalStore_waits (actingOn_of here acts kind) open'
  · have act := actingOn_of here acts kind
    have final : s.packetsDone x (fun k => k.state == .committed) = true := packetsDone_true fun τ hτ k any => by
      obtain ⟨state, rest⟩ := done τ hτ k any
      exact ⟨beq_iff_eq.2 state, rest⟩
    refine ⟨signalStore_noPage here act final, fun g page => ⟨fun bad => signalStore_refused here act final page (bad.imp id .inl),
      fun j y place there foreign => signalStore_refused here act final page (.inr (.inr (foreignDoor_page place there foreign))),
      fun w kind home below => signalStore_stores here long act final page w kind home below⟩⟩
  · have head : atHead x bs := ⟨runs, idle, copy⟩
    refine ⟨fun kind zero => ?_, fun kind bad => ?_, fun kind bad => ?_, fun kind zero => ?_⟩
    · have takes : ¬ field bs 8 56 ≠ 0 := fun h => h zero
      have one : (s.actOn i bs).modQueue i (fun x => { x with qstate := .fenceWait }) =
          s.modQueue i fun q => { q with qstate := .fenceWait, acting := some (q.rptr, bs) } := modQueue_modQueue here _ _
      obtain ⟨machine, host, -⟩ := modQueue_machine (s := s) (i := i) fun q => { q with qstate := .fenceWait, acting := some (q.rptr, bs) }
      exact ⟨_, (fencePacket_eq (packetAt_head here head kind) (badHeader_good good)).trans
        (congrArg Host.Outcome.next ((if_neg takes).trans one)), modQueue_becomes here _, machine, host⟩
    · exact ⟨_, (fencePacket_eq (packetAt_head here head kind) (badHeader_good good)).trans (congrArg Host.Outcome.next (if_pos bad)),
        queueError_fails here 0x02⟩
    · exact ⟨_, (nopPacket_eq (packetAt_head here head kind) (badHeader_good good)).trans (congrArg Host.Outcome.next (if_pos bad)),
        queueError_fails here 0x02⟩
    · have takes : ¬ field bs 8 56 ≠ 0 := fun h => h zero
      exact ⟨_, (nopPacket_eq (packetAt_head here head kind) (badHeader_good good)).trans (congrArg Host.Outcome.next (if_neg takes)),
        consume_becomes here⟩
  · exact fenceRelease_waits (actingOn_of here acts kind) open'
  · have runs := fenceRelease_runs here (actingOn_of here acts kind) done
    simp only [Queue.released, beq_iff_eq] at runs
    exact runs
  · exact ⟨_, (launchPacket_eq (packetAt_head here head kind) (badHeader_good good)).trans (congrArg Host.Outcome.next (if_pos bad)),
      queueError_fails here 0x02⟩
  · have takes : ¬ (field bs 8 8 % 4096 ≠ 0 ∨ field bs 16 48 ≠ 0) := not_or.2 ⟨fun h => h aligned, fun h => h zero⟩
    exact ⟨_, (launchPacket_eq (packetAt_head here head kind) (badHeader_good good)).trans (congrArg Host.Outcome.next
      ((if_neg takes).trans (if_pos (holdsStage_false foreign)))), queueError_fails here 0x07⟩
  · have takes : ¬ (field bs 8 8 % 4096 ≠ 0 ∨ field bs 16 48 ≠ 0) := not_or.2 ⟨fun h => h aligned, fun h => h zero⟩
    have holds : ¬ s.holdsStage x = false := by simp [State.holdsStage, valid, own]
    exact ⟨_, (launchPacket_eq (packetAt_head here head kind) (badHeader_good good)).trans (congrArg Host.Outcome.next
      ((if_neg takes).trans (if_neg holds))), actOn_becomes here bs⟩
  · exact launchInstall_waits (actingOn_of here acts kind) busy
  · have act := actingOn_of here acts kind
    have idle : stageIdle s x.stage := ⟨tasks, cores, areas⟩
    have acts' := launchInstall_acts act idle phase valid own
    refine ⟨fun none' => ?_, fun p chans object team => ?_, fun p chans object team room pool => ?_⟩
    · exact ⟨_, acts'.trans (by rw [launch_none (va := field bs 8 8) none']), queueError_fails here 0x06⟩
    · exact ⟨_, acts'.trans (by rw [launch_some (va := field bs 8 8) object, if_pos (.inl team)]), queueError_fails here 0x06⟩
    · obtain ⟨t, ends, stage, others, becomes, inside, outside, chan, stands, rest⟩ :=
        launchInstall_loads here act idle phase valid own object team room pool
      exact ⟨t, ends, stage, others, becomes, inside, outside,
        fun d only => by rw [chan d only]; exact ⟨rfl, rfl, rfl⟩, stands, rest⟩

end Sys2Proof.Machine
end

section
/-!
PROOFS. The header at a queue's head (R341), and TASK packets (R17, R18, R254, R342).
-/
namespace Sys2Proof.Machine
open Sys2Proof

/-! ### Reading the header -/

/-- A queue that has read more: it holds every copy that it held, and nothing else of it changes. -/
def readMore (x y : Queue) : Prop :=
  y = { x with copies := y.copies } ∧ ∀ j v, Table.get? x.copies j = some v → Table.get? y.copies j = some v

theorem readMore.trans {x y z : Queue} (first : readMore x y) (second : readMore y z) : readMore x z := by
  obtain ⟨same, held⟩ := first
  obtain ⟨same', held'⟩ := second
  refine ⟨?_, fun j v h => held' j v (held j v h)⟩
  rw [same', same]

/-- A copy enters a queue where it holds none for its index. -/
def Queue.copied (idx : Nat) (bs : List Byte) (x : Queue) : Queue :=
  if (Table.get? x.copies idx).isSome then x else { x with copies := Table.put x.copies idx bs }

theorem readMore_copied (idx : Nat) (bs : List Byte) (x : Queue) : readMore x (x.copied idx bs) := by
  unfold Queue.copied
  split
  · exact ⟨rfl, fun _ _ h => h⟩
  · next free =>
    refine ⟨rfl, fun j v h => ?_⟩
    have other : j ≠ idx := fun eq => free (by rw [← eq, h]; rfl)
    exact (Table.get?_put_other _ _ other).trans h

/-- A machine in which one queue has read more. -/
def ReadsMore (s : State) (i : Nat) (x : Queue) (t : State) : Prop :=
  ∃ y q n, t = { s with queues := q, free := n } ∧ readMore x y ∧ t.queue? i = some y ∧
    ∀ j, j ≠ i → Table.get? t.queues j = Table.get? s.queues j

theorem ReadsMore.refl {s : State} {i : Nat} {x : Queue} (here : s.queue? i = some x) (n : Nat) :
    ReadsMore s i x { s with free := n } :=
  ⟨x, s.queues, n, rfl, ⟨rfl, fun _ _ h => h⟩, here, fun _ _ => rfl⟩

theorem ReadsMore.trans {s t u : State} {i : Nat} {x y : Queue} (first : ReadsMore s i x t) (here : t.queue? i = some y)
    (second : ReadsMore t i y u) : ReadsMore s i x u := by
  obtain ⟨y', q, n, only, more, here', slots⟩ := first
  obtain ⟨z, q', n', only', more', there, slots'⟩ := second
  obtain rfl : y' = y := Option.some.inj (here'.symm.trans here)
  exact ⟨z, q', n', by rw [only', only], more.trans more', there, fun j hj => (slots' j hj).trans (slots j hj)⟩

theorem modQueue_reads {s : State} {i : Nat} {x : Queue} (here : s.queue? i = some x) {f : Queue → Queue} (more : readMore x (f x)) :
    ReadsMore s i x (s.modQueue i f) := by
  obtain ⟨q, only⟩ := modQueue_only (s := s) (i := i) f
  exact ⟨f x, q, s.free, only, more, queue?_modQueue here f, (modQueue_becomes here f).2⟩

/-- What is read ahead is only added to the copies. -/
theorem readAhead_more {i : Nat} : ∀ (n k : Nat) (s : State) (x : Queue), s.queue? i = some x → ReadsMore s i x (s.readAhead i k n)
  | 0, _, s, _, here => ReadsMore.refl here s.free
  | n + 1, k, s, x, here => by
    unfold State.readAhead
    rw [here]
    dsimp only
    split
    · exact ReadsMore.refl here s.free
    · split
      · next bs read =>
        split
        · have drawn : (s.takeFree.2).queue? i = some x := here
          have first : ReadsMore s i x s.takeFree.2 := ReadsMore.refl here (s.free + 1)
          have copies : ReadsMore s.takeFree.2 i x (s.takeFree.2.modQueue i (Queue.copied ((x.rptr + k) % 2 ^ 32) bs)) :=
            modQueue_reads drawn (readMore_copied _ _ x)
          have there := queue?_modQueue drawn (Queue.copied ((x.rptr + k) % 2 ^ 32) bs)
          exact (first.trans drawn copies).trans there (readAhead_more n (k + 1) _ _ there)
        · exact ReadsMore.refl here (s.free + 1)
      · exact ReadsMore.refl here (s.free + 1)

theorem overrun_fails {s : State} {i : Nat} {x : Queue} (here : s.queue? i = some x) (serves : x.qstate = .running ∨ x.qstate = .fenceWait)
    (behind' : 2 ^ x.lg < (x.wptr + 2 ^ 32 - x.rptr) % 2 ^ 32) :
    ∃ t, exec (.packetHeaderReread i) s = .next t ∧ hasFailed s t i x 0x08 := by
  refine ⟨_, ?_, queueError_fails here 0x08⟩
  have past : x.overrun = true := by
    have ahead' : decide (ringSize x < ahead x) = true := decide_eq_true behind'
    rcases serves with h | h <;> rw [Queue.overrun, h, ahead'] <;> rfl
  show execPacketHeaderReread i s = _
  simp only [execPacketHeaderReread, here, past, if_true]

/-- A queue that runs, acts on nothing, and has read nothing at its head though something is there. -/
def unread (x : Queue) : Prop :=
  x.qstate = .running ∧ x.rptr ≠ x.wptr ∧ x.acting = none ∧ Table.get? x.copies x.rptr = none ∧ x.rereadAt = none ∧
  (x.wptr + 2 ^ 32 - x.rptr) % 2 ^ 32 ≤ 2 ^ x.lg

/-- The packet at the head is read by its phase, its type and its zeros. -/
theorem headerReread_eq {s : State} {i : Nat} {x : Queue} (here : s.queue? i = some x) (fresh : unread x) :
    execPacketHeaderReread i s = match s.packetBytes x x.rptr with
      | none => .next (s.queueError i 0x05)
      | some bs =>
        if bitAt (field bs 0 8) 8 != expectedPhase x x.rptr then
          .next (s.modQueue i fun x => { x with rereadAt := some (s.cycle + Config.microsecond) })
        else if field bs 0 8 % 256 = 0 || 5 < field bs 0 8 % 256 then .next (s.queueError i 0x01)
        else if field bs 0 8 / 2 ^ 9 != 0 then .next (s.queueError i 0x02)
        else .next ((s.modQueue i fun q => { q with copies := Table.put q.copies x.rptr bs, rereadAt := none }).readAhead i 1 7) := by
  obtain ⟨runs, some, idle, copy, reread, within⟩ := fresh
  have under : x.overrun = false := by
    have ahead' : decide (ringSize x < ahead x) = false := decide_eq_false (Nat.not_lt.2 within)
    rw [Queue.overrun, ahead', Bool.and_false]
  simp only [execPacketHeaderReread, here, under, runs, idle, copy, reread, some, Option.map_none, Option.isSome_none,
    bne_self_eq_false, Bool.or_false, decide_false, Bool.false_eq_true, if_false] <;> rfl

/-- R341: what a header at the head of a queue brings about. -/
theorem headerReread_acts {s : State} {i : Nat} {x : Queue} {bs : List Byte} (here : s.queue? i = some x) (fresh : unread x)
    (reads : s.packetBytes x x.rptr = some bs) :
    ((field bs 0 8).testBit 8 ≠ expectedPhase x x.rptr → ∃ t, execPacketHeaderReread i s = .next t ∧
      queueBecomes s t i { x with rereadAt := some (s.cycle + 2700) } ∧ leavesMachine s t ∧ t.host = s.host) ∧
    ((field bs 0 8).testBit 8 = expectedPhase x x.rptr →
      (field bs 0 8 % 256 = 0 ∨ 5 < field bs 0 8 % 256 → ∃ t, execPacketHeaderReread i s = .next t ∧ hasFailed s t i x 0x01) ∧
      (0 < field bs 0 8 % 256 → field bs 0 8 % 256 ≤ 5 →
        (field bs 0 8 / 2 ^ 9 ≠ 0 → ∃ t, execPacketHeaderReread i s = .next t ∧ hasFailed s t i x 0x02) ∧
        (field bs 0 8 / 2 ^ 9 = 0 → ∃ t y, execPacketHeaderReread i s = .next t ∧ queueBecomes s t i y ∧
          Table.get? y.copies x.rptr = some bs ∧ y.rptr = x.rptr ∧ y.wptr = x.wptr ∧ y.qstate = .running ∧ leavesMachine s t ∧
          t.host = s.host ∧ t.contexts = s.contexts))) := by
  have whole := headerReread_eq here fresh
  rw [reads] at whole
  simp only [bitAt_eq_testBit] at whole
  refine ⟨fun early => ?_, fun phase => ?_⟩
  · rw [if_pos (bne_iff_ne.2 early)] at whole
    obtain ⟨machine, host, -⟩ := modQueue_machine (s := s) (i := i) fun q => { q with rereadAt := some (s.cycle + Config.microsecond) }
    exact ⟨_, whole, modQueue_becomes here _, machine, host⟩
  · rw [phase, bne_self_eq_false, if_neg (by simp)] at whole
    refine ⟨fun type => ?_, fun low high => ⟨fun set' => ?_, fun zero => ?_⟩⟩
    · rw [if_pos (by simpa using type)] at whole
      exact ⟨_, whole, queueError_fails here 0x01⟩
    · rw [if_neg (by simp; omega), if_pos (bne_iff_ne.2 set')] at whole
      exact ⟨_, whole, queueError_fails here 0x02⟩
    · rw [if_neg (by simp; omega), if_neg (by rw [zero]; simp)] at whole
      have there := queue?_modQueue here fun q => { q with copies := Table.put q.copies x.rptr bs, rereadAt := none }
      have slots := (modQueue_becomes here fun q => { q with copies := Table.put q.copies x.rptr bs, rereadAt := none }).2
      obtain ⟨machine, host, contexts, -⟩ := modQueue_machine (s := s) (i := i)
        fun q => { q with copies := Table.put q.copies x.rptr bs, rereadAt := none }
      obtain ⟨y, q, n, only, ⟨same, held⟩, here', slots'⟩ := readAhead_more 7 1 _ _ there
      refine ⟨_, y, whole, ⟨State.queue?_eq_some here', fun j hj => (slots' j hj).trans (slots j hj)⟩,
        held _ _ (Table.get?_put_same ..), by rw [same], by rw [same], by rw [same]; exact fresh.1, ?_, ?_, ?_⟩
      · rw [only]
        exact machine
      · rw [only]
        exact host
      · rw [only]
        exact contexts

theorem headerReread_noRing {s : State} {i : Nat} {x : Queue} (here : s.queue? i = some x) (fresh : unread x)
    (reads : s.packetBytes x x.rptr = none) : ∃ t, execPacketHeaderReread i s = .next t ∧ hasFailed s t i x 0x05 := by
  have whole := headerReread_eq here fresh
  rw [reads] at whole
  exact ⟨_, whole, queueError_fails here 0x05⟩

/-! ### TASK packets -/

/-- The task that a packet asks for. -/
structure TaskAsk where
  kind : TaskKind
  tag : Nat
  key : Key
  budget : Nat

/-- What a TASK packet asks of its queue's stage. -/
def State.asks (s : State) (x : Queue) (bs : List Byte) : TaskAsk :=
  { kind := TaskKind.ofCode (field bs 20 1), tag := field bs 16 4,
    key := { ts := field bs 8 8, origin := 448, seq := Table.get (s.stage x.stage).seqs 0 448 },
    budget := if bitAt (field bs 21 1) 0 then Table.get ((s.stage x.stage).prog.getD {}).budgets 0 (TaskKind.ofCode (field bs 20 1)).code
      else field bs 24 8 }

/-- A packet whose fields are in their ranges. -/
def taskSound (bs : List Byte) : Prop := field bs 20 1 ≤ 3 ∧ field bs 21 1 ≤ 1 ∧ field bs 22 2 = 0 ∧ field bs 32 32 = 0

theorem taskPacket_eq {s : State} {i : Nat} {x : Queue} {bs : List Byte} (head : s.packetAt i 1 = some (x, bs)) :
    execTaskPacket i s = .next (
      if badHeader bs || 3 < field bs 20 1 || 1 < field bs 21 1 || !zeroAt bs 22 2 || !zeroAt bs 32 32 then s.queueError i 0x02
      else if !s.holdsStage x then s.queueError i 0x07
      else if (s.stage x.stage).prog.isNone then s.queueError i 0x09
      else if 2 ^ 48 ≤ field bs 24 8 || (s.asks x bs).budget = 0 then s.queueError i 0x03
      else if s.isLate x.stage (s.asks x bs).key then
        (s.raiseLate x.stage (s.asks x bs).key (s.asks x bs).kind (field bs 16 4)).queueError i 0x04
      else if s.stageFull x.stage || (s.ctx x.pasid).phase != .active then s
      else
        let (_, s1) := s.takeSeq x.stage 448
        let (tid, s2) := s1.create x.stage (s.asks x bs).kind (field bs 16 4) (s.asks x bs).key (s.asks x bs).budget none none 0
        (s2.modQueue i fun x => { x with tasks := x.tasks ++ [tid] }).consume i) := by
  simp only [execTaskPacket, head]
  rfl

theorem taskSound_iff {bs : List Byte} (good : badHeader bs = false) :
    (badHeader bs || decide (3 < field bs 20 1) || decide (1 < field bs 21 1) || !zeroAt bs 22 2 || !zeroAt bs 32 32) = true ↔
      ¬ taskSound bs := by
  have zeros : ∀ o n, zeroAt bs o n = false ↔ field bs o n ≠ 0 := fun o n => by
    rw [Bool.eq_false_iff, Ne, zeroAt_iff]
    rfl
  simp only [good, Bool.false_or, Bool.or_eq_true, decide_eq_true_iff, Bool.not_eq_true', zeros, taskSound]
  omega

theorem taskPacket_unsound {s : State} {i : Nat} {x : Queue} {bs : List Byte} (here : s.queue? i = some x)
    (head : s.packetAt i 1 = some (x, bs)) (good : badHeader bs = false) (bad : ¬ taskSound bs) :
    ∃ t, execTaskPacket i s = .next t ∧ hasFailed s t i x 0x02 :=
  ⟨_, (taskPacket_eq head).trans (congrArg Host.Outcome.next (if_pos ((taskSound_iff good).2 bad))), queueError_fails here 0x02⟩

theorem taskPacket_sound {s : State} {i : Nat} {x : Queue} {bs : List Byte} (head : s.packetAt i 1 = some (x, bs))
    (good : badHeader bs = false) (sound : taskSound bs) : execTaskPacket i s = .next (
      if !s.holdsStage x then s.queueError i 0x07
      else if (s.stage x.stage).prog.isNone then s.queueError i 0x09
      else if 2 ^ 48 ≤ field bs 24 8 || (s.asks x bs).budget = 0 then s.queueError i 0x03
      else if s.isLate x.stage (s.asks x bs).key then
        (s.raiseLate x.stage (s.asks x bs).key (s.asks x bs).kind (field bs 16 4)).queueError i 0x04
      else if s.stageFull x.stage || (s.ctx x.pasid).phase != .active then s
      else
        let (_, s1) := s.takeSeq x.stage 448
        let (tid, s2) := s1.create x.stage (s.asks x bs).kind (field bs 16 4) (s.asks x bs).key (s.asks x bs).budget none none 0
        (s2.modQueue i fun x => { x with tasks := x.tasks ++ [tid] }).consume i) :=
  (taskPacket_eq head).trans (congrArg Host.Outcome.next (if_neg fun bad => (taskSound_iff good).1 bad sound))

/-- A task whose key is before the stage's commit point puts the queue into Error, and the handler gets its record (R17). -/
theorem late_fails {s : State} {i : Nat} {x : Queue} (here : s.queue? i = some x) (st : Nat) (key : Key) (kind : TaskKind) (tag : Nat) :
    ∃ r, queueBecomes s ((s.raiseLate st key kind tag).queueError i 0x04) i { x with qstate := .error, ecode := 4, acting := none, copies := [] } ∧
      ((s.raiseLate st key kind tag).queueError i 0x04).host.handlerRecords = s.host.handlerRecords ++ [r] ∧ r.key = key ∧
      ((s.raiseLate st key kind tag).queueError i 0x04).tasks = s.tasks := by
  have here' : (s.raiseLate st key kind tag).queue? i = some x := here
  obtain ⟨⟨becomes, slots⟩, -, ⟨-, -, tasks, -⟩, -⟩ := queueError_fails here' 0x04
  have records : ∀ u : State, (u.queueError i 0x04).host.handlerRecords = u.host.handlerRecords := by
    intro u
    unfold State.queueError
    split
    · rfl
    · unfold State.eventFrame
      split
      · exact (congrArg HostSide.handlerRecords (modQueue_machine _).2.1 :)
      · exact (congrArg HostSide.handlerRecords (modQueue_machine _).2.1 :)
  exact ⟨{ stage := st, key := key, kind := kind, tag := tag, code := 0xFF, trap := 0, addr := 0, slot := 15, budgetLeft := 0 },
    ⟨becomes, slots⟩, records _, rfl, tasks⟩

/-- The task of a TASK packet is created, and the packet consumed. -/
theorem taskPacket_creates {s : State} {i : Nat} {x : Queue} (here : s.queue? i = some x) (ask : TaskAsk) {t : State}
    (own : (s.stage x.stage).pasid = x.pasid)
    (creates : t = (let (_, s1) := s.takeSeq x.stage 448
      let (tid, s2) := s1.create x.stage ask.kind ask.tag ask.key ask.budget none none 0
      (s2.modQueue i fun x => { x with tasks := x.tasks ++ [tid] }).consume i)) :
    ∃ k, t.task? s.nextId = some k ∧ k.key = ask.key ∧ k.kind = ask.kind ∧ k.tag = ask.tag ∧ k.budget = ask.budget ∧
      k.full = ask.budget ∧ k.stage = x.stage ∧ k.pasid = x.pasid ∧ k.state = .ready ∧ k.parent = none ∧
      (∀ q, q ≠ s.nextId → t.task? q = s.task? q) ∧ queueBecomes s t i (behind { x with tasks := x.tasks ++ [s.nextId] }) ∧
      t.cores = s.cores ∧ t.clusters = s.clusters ∧ t.pmem = s.pmem := by
  obtain ⟨g, cs, n, m, made⟩ := create_eq (s.takeSeq x.stage 448).2 x.stage ask.kind ask.tag ask.key ask.budget none none 0
  have whole : t = ((((s.takeSeq x.stage 448).2.create x.stage ask.kind ask.tag ask.key ask.budget none none 0).2.modQueue i
      fun x => { x with tasks := x.tasks ++ [s.nextId] }).consume i) := creates
  rw [made] at whole
  have pasid : ((s.takeSeq x.stage 448).2.stage x.stage).pasid = x.pasid := by
    have stage : (s.takeSeq x.stage 448).2.stage x.stage = { s.stage x.stage with
        seqs := Table.put (s.stage x.stage).seqs 448 (Table.get (s.stage x.stage).seqs 0 448 + 1) } := State.stage_modStage_same ..
    rw [stage]
    exact own
  generalize hv : ({ (s.takeSeq x.stage 448).2 with
    tasks := Table.put (s.takeSeq x.stage 448).2.tasks (s.takeSeq x.stage 448).2.nextId
      (createdTask (s.takeSeq x.stage 448).2 x.stage ask.kind ask.tag ask.key ask.budget none none 0),
    stages := g, contexts := cs, free := n, nextId := m } : State) = v at whole
  have tasks : v.tasks = Table.put s.tasks s.nextId
      (createdTask (s.takeSeq x.stage 448).2 x.stage ask.kind ask.tag ask.key ask.budget none none 0) := by
    rw [← hv]
    rfl
  have rest : v.queues = s.queues ∧ v.cores = s.cores ∧ v.clusters = s.clusters ∧ v.pmem = s.pmem := by
    rw [← hv]
    exact ⟨rfl, rfl, rfl, rfl⟩
  obtain ⟨queues, cores, clusters, pmem⟩ := rest
  have hereV : v.queue? i = some x := by
    rw [State.queue?, queues]
    exact here
  have one : t = v.modQueue i fun q => behind { q with tasks := q.tasks ++ [s.nextId] } :=
    whole.trans (modQueue_modQueue hereV _ _)
  obtain ⟨becomes, slots⟩ := modQueue_becomes hereV fun q => behind { q with tasks := q.tasks ++ [s.nextId] }
  obtain ⟨⟨coresT, clustersT, tasksT, pmemT, -⟩, -⟩ := modQueue_machine (s := v) (i := i)
    fun q => behind { q with tasks := q.tasks ++ [s.nextId] }
  rw [← one] at becomes slots coresT clustersT tasksT pmemT
  have gets : ∀ q, t.task? q = Table.get? (Table.put s.tasks s.nextId
      (createdTask (s.takeSeq x.stage 448).2 x.stage ask.kind ask.tag ask.key ask.budget none none 0)) q := fun q => by
    rw [State.task?, tasksT, tasks]
  exact ⟨_, (gets _).trans (Table.get?_put_same ..), rfl, rfl, rfl, rfl, rfl, rfl, pasid, rfl, rfl,
    fun q other => (gets q).trans (Table.get?_put_other _ _ other), ⟨becomes, fun j hj => by rw [slots j hj, queues]⟩,
    coresT.trans cores, clustersT.trans clusters, pmemT.trans pmem⟩

theorem asks_budget {s : State} {x : Queue} {bs : List Byte} {p : Program} (prog : (s.stage x.stage).prog = some p)
    (hdef : field bs 21 1 ≤ 1) : (s.asks x bs).budget =
      if field bs 21 1 = 1 then Table.get p.budgets 0 (TaskKind.ofCode (field bs 20 1)).code else field bs 24 8 := by
  have bit : bitAt (field bs 21 1) 0 = decide (field bs 21 1 = 1) := by
    rw [bitAt_eq_testBit, Nat.testBit_eq_decide_div_mod_eq, decide_eq_decide]
    omega
  simp only [State.asks, bit, prog, Option.getD_some, decide_eq_true_iff]

/-- Settles O47: the header by the order in which it is checked, and a TASK packet likewise. -/
theorem packetsAndTasks : Obligations.PacketsAndTasks := by
  unfold Obligations.PacketsAndTasks
  refine ⟨⟨fun i x s here serves behind' => overrun_fails here serves behind', fun i x s here runs some idle copy reread =>
      ⟨fun within none' => headerReread_noRing here ⟨runs, some, idle, copy, reread, within⟩ none',
       fun within bs reads => ?_⟩⟩,
    fun i x bs p s here runs idle long copy kind good => ⟨fun bad => ?_, fun hkind hdef h22 h32 => ⟨fun foreign => ?_, fun valid own bare => ?_,
      fun valid own prog => ?_⟩⟩⟩
  · obtain ⟨early, phase⟩ := headerReread_acts here ⟨runs, some, idle, copy, reread, within⟩ reads
    exact ⟨early, fun same type => (phase same).1 type, fun same low high set' => ((phase same).2 low high).1 set',
      fun same low high zero => ((phase same).2 low high).2 zero⟩
  · refine taskPacket_unsound here (packetAt_head here ⟨runs, idle, copy⟩ kind) (badHeader_good good) fun sound => ?_
    obtain ⟨h1, h2, h3, h4⟩ := sound
    rcases bad with h | h | h | h
    · exact absurd h (Nat.not_lt.2 h1)
    · exact absurd h (Nat.not_lt.2 h2)
    · exact h h3
    · exact h h4
  · have whole := taskPacket_sound (packetAt_head here ⟨runs, idle, copy⟩ kind) (badHeader_good good) ⟨hkind, hdef, h22, h32⟩
    rw [if_pos (by rw [holdsStage_false foreign]; rfl)] at whole
    exact ⟨_, whole, queueError_fails here 0x07⟩
  · have whole := taskPacket_sound (packetAt_head here ⟨runs, idle, copy⟩ kind) (badHeader_good good) ⟨hkind, hdef, h22, h32⟩
    have holds : s.holdsStage x = true := by simp [State.holdsStage, valid, own]
    rw [holds, bare] at whole
    exact ⟨_, whole, queueError_fails here 0x09⟩
  · have whole := taskPacket_sound (packetAt_head here ⟨runs, idle, copy⟩ kind) (badHeader_good good) ⟨hkind, hdef, h22, h32⟩
    have holds : s.holdsStage x = true := by simp [State.holdsStage, valid, own]
    have budget := asks_budget (bs := bs) prog hdef
    rw [holds, prog] at whole
    simp only [Bool.not_true, Option.isNone_some, Bool.false_eq_true, if_false] at whole
    refine ⟨fun bad => ?_, fun given some => ⟨fun late => ?_, fun early full => ?_, fun early room phase => ?_⟩⟩
    · rw [if_pos (by rw [Bool.or_eq_true, decide_eq_true_iff, decide_eq_true_iff, budget]; exact bad)] at whole
      exact ⟨_, whole, queueError_fails here 0x03⟩
    all_goals
      rw [if_neg (by rw [Bool.or_eq_true, decide_eq_true_iff, decide_eq_true_iff, budget, not_or, not_le]; exact ⟨given, some⟩)] at whole
    · obtain ⟨r, becomes, records, key, tasks⟩ := late_fails here x.stage (s.asks x bs).key (s.asks x bs).kind (field bs 16 4)
      rw [if_pos (show s.isLate x.stage (s.asks x bs).key = true from late)] at whole
      exact ⟨_, r, whole, becomes, records, key, tasks⟩
    · rw [if_neg (show ¬ s.isLate x.stage (s.asks x bs).key = true from Bool.eq_false_iff.1 early), if_pos (by
        rw [Bool.or_eq_true]; exact .inl (decide_eq_true full))] at whole
      exact whole
    · have notFull : s.stageFull x.stage = false := decide_eq_false (Nat.not_le.2 room)
      rw [if_neg (show ¬ s.isLate x.stage (s.asks x bs).key = true from Bool.eq_false_iff.1 early), if_neg (by rw [notFull, phase]; simp)] at whole
      obtain ⟨k, task, key, kind', tag, budget', full, stage, pasid, state, parent, rest⟩ := taskPacket_creates here (s.asks x bs) own rfl
      exact ⟨_, k, whole, task, key, kind', tag, budget'.trans budget, full.trans budget, stage, pasid, state, parent, rest⟩

end Sys2Proof.Machine
end

section
/-!
PROOFS. Swaps of wait-idle teams (R325 to R327).
-/
namespace Sys2Proof.Machine

/-! ### The segment of a core ends (R365) -/

/-- The end of a segment touches the core's account of its segments and what its engines hold; the engines' stores to UN pages are none
if they were none. -/
theorem State.closeSegment_core (s : State) (c : Nat) : ∃ r e, (s.closeSegment c).core c = { s.core c with rcv := r, eng := e } ∧
    ((s.core c).eng.unWrites = [] → e.unWrites = []) := by
  unfold State.closeSegment
  extract_lets seg at_ end_ mark s1 s2 s3 s4 s5
  have core3 : s3.core c = s.core c := by
    have : s3.cores = s.cores := by
      dsimp only [s3]
      split
      · exact State.modTask_cores _ _ _
      · rfl
    rw [State.core, this, State.core]
  obtain ⟨r, core5⟩ : ∃ r, s5.core c = { s.core c with rcv := r } := by
    have core4 : s4.core c = (s3.core c).modRcv _ := State.core_modCore_same s3 c _
    rw [core3] at core4
    exact ⟨_, core4⟩
  refine ⟨r, _, (State.core_modCore_same s5 c _).trans (by rw [core5]; rfl), fun none => ?_⟩
  exact congrArg (List.map end_) none

/-- The end of a segment touches the writes of the core's task alone. -/
theorem State.closeSegment_tasks {s : State} {c τ : Nat} {k : Task} (hc : (s.core c).task = some τ) (hk : s.task? τ = some k) :
    ∃ w, (s.closeSegment c).tasks = Table.put s.tasks τ { k with wlog := w } := by
  unfold State.closeSegment
  extract_lets seg at_ end_ mark s1 s2 s3 s4 s5
  refine ⟨k.wlog.map end_, ?_⟩
  change s3.tasks = _
  dsimp only [s3]
  rw [hc]
  change (s2.modTask τ fun x => { x with wlog := x.wlog.map end_ }).tasks = _
  rw [State.modTask_some (s := s2) hk]
  rfl

theorem State.closeSegment_saved (s : State) (c : Nat) : (s.closeSegment c).saved = s.saved := by
  unfold State.closeSegment
  extract_lets seg at_ end_ mark s1 s2 s3 s4 s5
  change s3.saved = s.saved
  dsimp only [s3]
  split
  · exact State.modTask_saved _ _ _
  · rfl

/-! ### The swap of a team of one core (R325, R326) -/

theorem State.waitLimit_one {s : State} {τ c : Nat} (cores : s.coresOf τ = [c]) : s.waitLimit τ =
    if (s.core c).regs.waitlim.toNat % 2 ^ 32 = 0 then none else some ((s.core c).regs.waitlim.toNat % 2 ^ 32) := by
  have low : bits (s.core c).regs.waitlim.toNat 0 32 = (s.core c).regs.waitlim.toNat % 2 ^ 32 := by
    simp only [bits, Nat.pow_zero, Nat.div_one]
  simp only [State.waitLimit, cores, List.map_cons, List.map_nil, List.foldl_cons, List.foldl_nil, low]

theorem teamSwap_halted {τ c : Nat} {k : Task} {s : State} (hk : s.task? τ = some k) (cores : s.coresOf τ = [c])
    (h : (s.core c).seq.halted = true) : exec (.teamSwap τ) s = .next s := by
  show execTeamSwap τ s = _
  simp [execTeamSwap, hk, cores, h]

/-- R325: a team below its limit, or without one, stays. -/
theorem teamSwap_early {τ c : Nat} {k : Task} {s : State} (hk : s.task? τ = some k) (cores : s.coresOf τ = [c])
    (h : (s.core c).regs.waitlim.toNat % 2 ^ 32 = 0 ∨ k.waitRun < (s.core c).regs.waitlim.toNat % 2 ^ 32) :
    exec (.teamSwap τ) s = .next s := by
  have limit := State.waitLimit_one cores
  show execTeamSwap τ s = _
  by_cases zero : (s.core c).regs.waitlim.toNat % 2 ^ 32 = 0
  · rw [if_pos zero] at limit
    simp only [execTeamSwap, hk, limit, Bool.not_false, Bool.true_or, if_true]
  · rw [if_neg zero] at limit
    have below : decide ((s.core c).regs.waitlim.toNat % 2 ^ 32 ≤ k.waitRun) = false := decide_eq_false (by omega)
    simp only [execTeamSwap, hk, limit, below, Bool.not_false, Bool.true_or, if_true]

/-- R326: a team that waits at no shadow-free point stays. -/
theorem teamSwap_unsafe {τ c : Nat} {k : Task} {s : State} (hk : s.task? τ = some k) (cores : s.coresOf τ = [c])
    (h : s.shadowFree c = false) : exec (.teamSwap τ) s = .next s := by
  by_cases halted : (s.core c).seq.halted = true
  · exact teamSwap_halted hk cores halted
  · show execTeamSwap τ s = _
    simp [execTeamSwap, hk, cores, h, halted]

/-- A team of one core that waits where it may be swapped, at its limit, with another task to take its slot. -/
structure Swappable (s : State) (τ c : Nat) (k : Task) : Prop where
  task : s.task? τ = some k
  cores : s.coresOf τ = [c]
  own : (s.core c).task = some τ
  calm : k.event = none
  stays : k.leaving = none
  fresh : k.swap = .none
  going : k.ender = none
  waits : heldByWait (s.core c)
  limited : (s.core c).regs.waitlim.toNat % 2 ^ 32 ≠ 0
  reached : (s.core c).regs.waitlim.toNat % 2 ^ 32 ≤ k.waitRun
  free : s.shadowFree c = true
  flushed : (s.core c).eng.unWrites = []
  room : (s.clu (c / 8)).held.length ≤ 16384
  replaced : (s.choose k.stage k.cluster).1 ≠ none

theorem Core.waits_of_held {q : Core} (h : heldByWait q) : q.waits = true := by
  obtain ⟨-, r, hold, cause⟩ := h
  have wait : isWait r.cause = true := by
    obtain c | c | c := cause <;> rw [c] <;> rfl
  simp only [Core.waits, Core.heldAtWait, hold, wait, Bool.or_true]

theorem Swappable.unstuck {s : State} {τ c : Nat} {k : Task} (w : Swappable s τ c k) : s.unStuck c = false := by
  have few : ¬ 16384 < (s.clu (clusterOf c)).held.length + 0 := by
    have := w.room
    rw [clusterOf]
    omega
  simp only [State.unStuck, w.flushed, State.noRoom]
  exact Bool.and_eq_false_iff.2 (.inl (decide_eq_false few))

/-- The task of a team whose save begins (R326). -/
def Task.saving (x : Task) (due : Nat) : Task := { x with state := .swapped, swap := .saving due, waitRun := 0, resumable := false }

theorem Swappable.swaps {s : State} {τ c : Nat} {k : Task} (w : Swappable s τ c k) : exec (.teamSwap τ) s =
    if (!s.isFrontier τ && !k.lines.isEmpty) = true then .next (s.abortLater τ true false)
    else .next ((s.startSaving τ).modTask τ fun x => x.saving (s.cycle + 2700 + (2700 + 10800 * (s.stage k.stage).team))) := by
  have limit : s.waitLimit τ = some ((s.core c).regs.waitlim.toNat % 2 ^ 32) := by rw [State.waitLimit_one w.cores, if_neg w.limited]
  have awake : (s.core c).seq.halted = false := w.waits.1
  have other : (s.choose k.stage k.cluster).1.isNone = false := by
    cases h : (s.choose k.stage k.cluster).1 with
    | none => exact absurd h w.replaced
    | some e => rfl
  show execTeamSwap τ s = _
  simp only [execTeamSwap, w.task, limit, decide_eq_true w.reached, w.cores, List.all_cons, List.all_nil, List.any_cons, List.any_nil, awake, w.free, w.going,
    State.waitIdle, Core.waits_of_held w.waits, w.fresh, w.calm, w.stays, other, w.unstuck]
  rfl

theorem State.task?_of_put {s t : State} {τ : Nat} {k : Task} (h : t.tasks = Table.put s.tasks τ k) :
    t.task? τ = some k ∧ ∀ q, q ≠ τ → t.task? q = s.task? q := by
  simp only [State.task?, h]
  exact ⟨Table.get?_put_same .., fun q hq => Table.get?_put_other _ _ hq⟩

theorem State.flushUn_none {s : State} {c : Nat} (h : (s.core c).eng.unWrites = []) :
    s.flushUn c = s.modCore c fun k => k.modEng fun e => { e with unWrites := [] } := by
  simp only [State.flushUn, h, List.foldl_nil]

/-- The register phase of a team of one core leaves its registers, its scratchpad and its sequencing, and of its task all but the
marks of its writes (R252, R365). -/
theorem State.startSaving_one {s : State} {τ c : Nat} {k : Task} (hk : s.task? τ = some k) (cores : s.coresOf τ = [c])
    (own : (s.core c).task = some τ) (flushed : (s.core c).eng.unWrites = []) :
    ((s.startSaving τ).core c).regs = (s.core c).regs ∧ ((s.startSaving τ).core c).sp = (s.core c).sp ∧
    ((s.startSaving τ).core c).seq = (s.core c).seq ∧ (∀ d, d ≠ c → (s.startSaving τ).core d = s.core d) ∧
    (∃ w, (s.startSaving τ).tasks = Table.put s.tasks τ { k with wlog := w }) ∧
    (s.startSaving τ).pmem = s.pmem ∧ (s.startSaving τ).xs = s.xs := by
  have closed := s.closeSegment_closed c
  obtain ⟨r, e, core, none⟩ := s.closeSegment_core c
  have tasks := State.closeSegment_tasks own hk
  have flushed' : ((s.closeSegment c).core c).eng.unWrites = [] := by rw [core]; exact none flushed
  simp only [State.startSaving, cores, List.foldl_cons, List.foldl_nil, State.flushUn_none flushed']
  generalize s.closeSegment c = u at *
  simp only [State.core_modCore_same]
  exact ⟨closed.regs, closed.sp, closed.seq, fun d hd => by
    rw [State.core_modCore_other _ _ hd, State.core_modCore_other _ _ hd, closed.others d hd], tasks, closed.pmem, closed.xs⟩

theorem teamSwap_saves {s : State} {τ c : Nat} {k : Task} (w : Swappable s τ c k) (h : s.isFrontier τ = true ∨ k.lines = []) :
    ∃ t n, exec (.teamSwap τ) s = .next t ∧ t.task? τ = some n ∧ n.state = .swapped ∧
      n.swap = .saving (s.cycle + 2700 + (2700 + 10800 * (s.stage k.stage).team)) ∧ n.waitRun = 0 ∧ n.key = k.key ∧
      (t.core c).regs = (s.core c).regs ∧ (t.core c).sp = (s.core c).sp ∧ (t.core c).seq = (s.core c).seq ∧
      (∀ q, q ≠ τ → t.task? q = s.task? q) ∧ (∀ d, d ≠ c → t.core d = s.core d) ∧ t.pmem = s.pmem ∧ t.xs = s.xs := by
  have kept : (!s.isFrontier τ && !k.lines.isEmpty) = false := by
    obtain h | h := h <;> simp [h]
  obtain ⟨regs, sp, seq, others, ⟨wl, tasks⟩, pmem, xs⟩ := State.startSaving_one w.task w.cores w.own w.flushed
  obtain ⟨here, there⟩ := State.task?_of_put tasks
  let due := s.cycle + 2700 + (2700 + 10800 * (s.stage k.stage).team)
  refine ⟨_, { k with wlog := wl }.saving due, w.swaps.trans (if_neg (by rw [kept]; exact Bool.false_ne_true)), ?_⟩
  rw [State.modTask_some here]
  exact ⟨State.task?_setTask_same .., rfl, rfl, rfl, rfl, regs, sp, seq, fun q hq => (State.task?_setTask_other _ _ hq).trans (there q hq),
    others, pmem, xs⟩

/-- R269: a speculative team that has read or written is told to abort instead. -/
theorem teamSwap_aborts {s : State} {τ c : Nat} {k : Task} (w : Swappable s τ c k) (behind : s.isFrontier τ = false) (used : k.lines ≠ [])
    (waiting : k.state = .waiting) (first : k.abortDue = none) : ∃ t, exec (.teamSwap τ) s = .next t ∧ toldToAbort τ k true false s t := by
  have live : k.inFlight = true := by rw [Task.inFlight, waiting]
  have lines : k.lines.isEmpty = false := by
    cases h : k.lines with
    | nil => exact absurd h used
    | cons l ls => rfl
  have told : s.abortLater τ true false = s.setTask τ { k with abortDue := some (true, false) } := by
    rw [State.abortLater, State.modTask_some w.task]
    simp only [live, first, Bool.not_true, Bool.false_eq_true, if_false]
  refine ⟨_, w.swaps.trans (if_pos (by rw [behind, lines]; rfl)), ?_⟩
  rw [told]
  exact ⟨State.task?_setTask_same .., fun q hq => State.task?_setTask_other s _ hq, rfl, rfl, rfl, rfl, rfl⟩

/-! ### The end of a save (R326) -/

theorem swapComplete_early {s : State} {τ due : Nat} {k : Task} (hk : s.task? τ = some k) (hs : k.swap = .saving due) (early : s.cycle < due) :
    exec (.swapComplete τ) s = .next s := by
  show execSwapComplete τ s = _
  simp only [execSwapComplete, hk, hs, early, decide_true, Bool.true_or, if_true]

theorem quietCore_savable {s : State} {τ c : Nat} (cores : s.coresOf τ = [c]) (quiet : quietCore (s.core c)) : s.savable τ false = true := by
  obtain ⟨flight, loads, ldmc, ops, -, -⟩ := quiet
  simp only [State.savable, cores, List.all_cons, List.all_nil, flight, loads, ldmc, ops, List.isEmpty_nil, Bool.and_true]

theorem resumesAs_savedCore (k : Core) : resumesAs (savedCore k) k :=
  ⟨rfl, rfl, rfl, rfl, rfl, rfl, rfl, rfl, rfl, rfl, rfl, rfl, rfl, rfl, rfl, rfl, rfl, rfl, rfl, rfl⟩

theorem swapComplete_saved {s : State} {τ c due : Nat} {k : Task} (hk : s.task? τ = some k) (cores : s.coresOf τ = [c])
    (hs : k.swap = .saving due) (late : due ≤ s.cycle) (quiet : quietCore (s.core c)) :
    ∃ t n q, exec (.swapComplete τ) s = .next t ∧ Table.get? t.saved τ = some [((s.core c).rank, q)] ∧ resumesAs q (s.core c) ∧
      (t.core c).task = none ∧ t.task? τ = some n ∧ n.state = .swapped ∧ n.swap = .none ∧ n.key = k.key ∧ n.wlog = k.wlog ∧
      (∀ u, u ≠ τ → t.task? u = s.task? u) ∧ (∀ d, d ≠ c → t.core d = s.core d) ∧ t.clusters = s.clusters ∧
      t.pmem = s.pmem ∧ t.xs = s.xs := by
  have ready : (decide (s.cycle < due) || !s.savable τ false) = false := by
    rw [quietCore_savable cores quiet, decide_eq_false (by omega)]
    rfl
  let team : SavedTeam := [((s.core c).rank, savedCore (s.core c))]
  let u := { s with saved := Table.put s.saved τ team }.modCore c Core.vacate
  have hu : u.task? τ = some k := hk
  refine ⟨(u.setTask τ { k with state := .swapped, swap := .none, retiring := false }).askEvaluation k.stage s.cycle, _, savedCore (s.core c),
    ?_, Table.get?_put_same .., resumesAs_savedCore _, ?_, State.task?_setTask_same .., rfl, rfl, rfl, rfl,
    fun q hq => State.task?_setTask_other u _ hq, fun d hd => State.core_modCore_other _ _ hd, rfl, rfl, rfl⟩
  · rw [← State.modTask_some hu fun x => { x with state := .swapped, swap := .none, retiring := false }]
    show execSwapComplete τ s = _
    simp only [execSwapComplete, hk, hs, ready, cores, List.foldl_cons, List.foldl_nil, Bool.false_eq_true, if_false]
    rfl
  · exact congrArg Core.task (State.core_modCore_same { s with saved := Table.put s.saved τ team } c Core.vacate)

/-! ### The end of a restore (R327) -/

theorem swapRestore_early {s : State} {τ due : Nat} {k : Task} (hk : s.task? τ = some k) (hs : k.swap = .restoring due)
    (h : s.cycle < due ∨ (s.clu k.cluster).inService = false) : exec (.swapRestore τ) s = .next s := by
  have waits : (decide (s.cycle < due) || !(s.clu k.cluster).inService) = true := by
    obtain h | h := h <;> simp [h]
  show execSwapRestore τ s = _
  simp only [execSwapRestore, hk, hs, waits, if_true]

theorem State.takePoint_tasks (s : State) (c : Nat) : (s.takePoint c).tasks = (s.closeSegment c).tasks := rfl

/-- What a taken rewind point leaves: the core's state but for its account of segments and its engines, and its task but for the marks
of its writes. -/
structure PointTaken (s : State) (c τ : Nat) (k : Task) (r : Recovery) (e : Engines) (rp : RewindPoint) (t : State) : Prop where
  core : t.core c = { s.core c with rcv := r, eng := e }
  head : r.rps.head? = some rp
  only : (s.core c).rcv.rps = [] → r.rps = [rp]
  pc : rp.pc = (s.core c).seq.pc
  taken : rp.cycle = s.cycle
  budget : rp.budget = k.budget
  start : r.segStart = s.cycle
  tasks : ∃ w, t.tasks = Table.put s.tasks τ { k with wlog := w }
  others : ∀ d, d ≠ c → t.core d = s.core d
  saved : t.saved = s.saved
  cycle : t.cycle = s.cycle
  pmem : t.pmem = s.pmem
  xs : t.xs = s.xs

theorem State.takePoint_taken {s : State} {τ c : Nat} {k : Task} (own : (s.core c).task = some τ) (hk : s.task? τ = some k) :
    ∃ r e rp, PointTaken s c τ k r e rp (s.takePoint c) := by
  have closed := s.closeSegment_closed c
  obtain ⟨r, e, core, -⟩ := s.closeSegment_core c
  have rps : r.rps = (s.core c).rcv.rps := (congrArg (fun q : Core => q.rcv.rps) core).symm.trans closed.rps
  have budget : ((s.closeSegment c).checkpoint c ((s.core c).rcv.seg + 1)).budget = k.budget := by
    change (((s.closeSegment c).taskOf c).map (·.budget)).getD 0 = _
    rw [closed.budget, State.taskOf_eq own hk]
    rfl
  refine ⟨_, e, (s.closeSegment c).checkpoint c ((s.core c).rcv.seg + 1), ⟨by rw [State.takePoint_core, core]; rfl, rfl, fun empty => ?_,
    (congrArg (fun q : Core => q.seq.pc) core).trans rfl, closed.cycle, budget, rfl, State.closeSegment_tasks own hk,
    fun d hd => (State.core_modCore_other _ _ hd).trans (closed.others d hd), s.closeSegment_saved c, closed.cycle, closed.pmem, closed.xs⟩⟩
  change _ :: (List.take 1 r.rps).map _ = _
  rw [rps, empty]
  rfl

/-- A core that resumes with no rerun owed keeps its state and takes its only rewind point where it stands (R365, R368). -/
theorem State.resumeCore_taken {s : State} {τ c : Nat} {k : Task} (own : (s.core c).task = some τ) (hk : s.task? τ = some k) :
    ∃ r e rp, PointTaken s c τ k r e rp (s.resumeCore c none) ∧ r.rps = [rp] := by
  let u := s.modCore c fun k => k.modRcv fun r => { r with rps := [] }
  have core : u.core c = (s.core c).modRcv fun r => { r with rps := [] } := State.core_modCore_same ..
  obtain ⟨r, e, rp, p⟩ := State.takePoint_taken (s := u) (by rw [core]; exact own) hk
  refine ⟨r, e, rp, ⟨p.core.trans (by rw [core]; rfl), p.head, fun _ => p.only (by rw [core]; rfl), p.pc.trans (by rw [core]; rfl),
    p.taken, p.budget, p.start, p.tasks, fun d hd => (p.others d hd).trans (State.core_modCore_other s _ hd), p.saved, p.cycle, p.pmem, p.xs⟩,
    p.only (by rw [core]; rfl)⟩

theorem swapRestore_restored {s : State} {τ due : Nat} {k : Task} {q : Core} (hk : s.task? τ = some k) (hs : k.swap = .restoring due)
    (late : due ≤ s.cycle) (serves : (s.clu k.cluster).inService = true) (held : Table.get? s.saved τ = some [(0, q)])
    (unowed : k.rewindAt = none) :
    let c := 8 * k.cluster + k.slot * (s.stage k.stage).team
    ∃ t n, exec (.swapRestore τ) s = .next t ∧ (t.core c).task = some τ ∧ resumesAs (t.core c) q ∧
      (t.core c).seq.issueAt = s.cycle ∧ (t.core c).rcv.segStart = s.cycle ∧ Table.get t.saved [] τ = [] ∧
      (∃ rp, (t.core c).rcv.rps = [rp] ∧ rp.pc = q.seq.pc ∧ rp.cycle = s.cycle) ∧
      t.task? τ = some n ∧ n.state = .running ∧ n.swap = .none ∧ n.waitRun = 0 ∧ n.key = k.key ∧
      (∀ u, u ≠ τ → t.task? u = s.task? u) ∧ (∀ d, d ≠ c → t.core d = s.core d) ∧ t.pmem = s.pmem ∧ t.xs = s.xs := by
  intro c
  let v := { s with saved := Table.del s.saved τ }
  let u := v.setCore c (refill (v.core c) q τ c s.cycle)
  let back := fun x : Task => { x with state := .running, swap := .none, waitRun := 0, atOnce := false, rewindAt := none }
  have core : u.core c = refill (v.core c) q τ c s.cycle := State.core_setCore_same ..
  have own : (u.core c).task = some τ := by rw [core]; rfl
  have hu : u.task? τ = some k := hk
  obtain ⟨r, e, rp, p, point⟩ := State.resumeCore_taken own hu
  obtain ⟨w, tasks⟩ := p.tasks
  obtain ⟨here, there⟩ := State.task?_of_put tasks
  have runs : exec (.swapRestore τ) s = .next ((u.resumeCore c none).modTask τ back) := by
    have kept : Table.get s.saved [] τ = [(0, q)] := by rw [Table.get, held]; rfl
    have ready : (decide (s.cycle < due) || !(s.clu k.cluster).inService) = false := by
      rw [serves, decide_eq_false (by omega)]
      rfl
    show execSwapRestore τ s = _
    simp only [execSwapRestore, hk, hs, ready, kept, unowed, List.foldl_cons, List.foldl_nil, Bool.false_eq_true, if_false]
    rfl
  refine ⟨_, back { k with wlog := w }, runs, ?_⟩
  rw [State.modTask_some here]
  generalize u.resumeCore c none = x at *
  have core' : (x.setTask τ (back { k with wlog := w })).core c = { refill (v.core c) q τ c s.cycle with rcv := r, eng := e } := by
    rw [← core]
    exact p.core
  simp only [core']
  refine ⟨rfl, ⟨rfl, rfl, rfl, rfl, rfl, rfl, rfl, rfl, rfl, rfl, rfl, rfl, rfl, rfl, rfl, rfl, rfl, rfl, rfl, rfl⟩, rfl, p.start, ?_,
    ⟨rp, point, p.pc.trans (by rw [core]; rfl), p.taken⟩, State.task?_setTask_same .., rfl, rfl, rfl, rfl,
    fun q hq => (State.task?_setTask_other _ _ hq).trans (there q hq), fun d hd => ?_, p.pmem, p.xs⟩
  · rw [State.setTask_saved, p.saved, Table.get]
    exact congrArg (Option.getD · []) (Table.get?_del_same ..)
  · exact (p.others d hd).trans (State.core_setCore_other v _ hd)

/-- Settles O39. -/
theorem teamsAreSwapped : Obligations.TeamsAreSwapped := by
  refine ⟨fun τ c k s hk cores own calm stays => ⟨teamSwap_halted hk cores, teamSwap_early hk cores, ?_, ?_, fun due hs => ?_⟩,
    fun τ due k q s hk hs => ?_⟩
  · rintro ⟨b, hb, safe, seg⟩
    refine teamSwap_unsafe hk cores ?_
    simp only [State.shadowFree, hb, safe, seg, Bool.or_false]
  · rintro fresh going waits limited reached ⟨b, hb, free⟩ flushed room replaced
    have shadowFree : s.shadowFree c = true := by
      simp only [State.shadowFree, hb]
      obtain free | free := free <;> simp [free]
    have w : Swappable s τ c k := ⟨hk, cores, own, calm, stays, fresh, going, waits, limited, reached, shadowFree, flushed, room, replaced⟩
    exact ⟨teamSwap_saves w, teamSwap_aborts w⟩
  · exact ⟨swapComplete_early hk hs, swapComplete_saved hk cores hs⟩
  · exact ⟨swapRestore_early hk hs, fun late serves held _ => swapRestore_restored hk hs late serves held⟩

end Sys2Proof.Machine
end

section
/-!
PROOFS. Headroom and the tokens of a die (R310, R322).
-/
namespace Sys2Proof.Machine

/-! ### Thresholds with a margin below (R322) -/

/-- Three rising thresholds that lie further apart than the margin: each one that holds brings those below it with it. -/
theorem aboveThresholds_three {now measure margin a b c : Nat} (hab : a + margin ≤ b) (hbc : b + margin ≤ c) :
    let n := aboveThresholds now measure margin [a, b, c]
    n < 4 ∧ (1 ≤ n ↔ a ≤ measure ∨ (0 < now ∧ a < measure + margin)) ∧
    (2 ≤ n ↔ b ≤ measure ∨ (1 < now ∧ b < measure + margin)) ∧ (3 ≤ n ↔ c ≤ measure ∨ (2 < now ∧ c < measure + margin)) := by
  have counted : aboveThresholds now measure margin [a, b, c] =
      (if a ≤ measure ∨ (0 < now ∧ a < measure + margin) then 1 else 0) + (if b ≤ measure ∨ (1 < now ∧ b < measure + margin) then 1 else 0) +
      (if c ≤ measure ∨ (2 < now ∧ c < measure + margin) then 1 else 0) := by
    simp only [aboveThresholds, List.zipIdx_cons, List.zipIdx_nil, List.filter_cons, List.filter_nil, Bool.or_eq_true, Bool.and_eq_true,
      decide_eq_true_eq, Nat.zero_add, Nat.reduceAdd]
    split_ifs <;> rfl
  intro n
  have hn : n = _ := counted
  clear_value n
  split_ifs at hn <;> omega

/-! ### Tokens of a die (R310) -/

/-- The tokens of a die, those to be withdrawn among them. -/
def State.tokensHeld (s : State) (d : Nat) : Nat :=
  (s.die d).tokens.length + ((List.range 6).filter fun i => (s.clu (6 * d + i)).hasToken).length

/-- What a token's arrival leaves: everything but the tokens and the marks of the clusters. -/
structure TokenFrame (d : Nat) (s t : State) : Prop where
  headroom : (t.die d).headroom = (s.die d).headroom
  temp : (t.die d).temp = (s.die d).temp
  dies : ∀ e, e ≠ d → t.die e = s.die e
  pool : ∀ c, (t.clu c).pool = (s.clu c).pool
  stages : t.stages = s.stages
  cores : t.cores = s.cores
  tasks : t.tasks = s.tasks
  pmem : t.pmem = s.pmem
  cycle : t.cycle = s.cycle

theorem TokenFrame.refl (d : Nat) (s : State) : TokenFrame d s s :=
  ⟨rfl, rfl, fun _ _ => rfl, fun _ => rfl, rfl, rfl, rfl, rfl, rfl⟩

theorem TokenFrame.trans {d : Nat} {s t u : State} (a : TokenFrame d s t) (b : TokenFrame d t u) : TokenFrame d s u :=
  ⟨b.headroom.trans a.headroom, b.temp.trans a.temp, fun e he => (b.dies e he).trans (a.dies e he),
    fun c => (b.pool c).trans (a.pool c), b.stages.trans a.stages, b.cores.trans a.cores, b.tasks.trans a.tasks, b.pmem.trans a.pmem,
    b.cycle.trans a.cycle⟩

theorem State.die_modDie_same (s : State) (n : Nat) (f : Die → Die) : (s.modDie n f).die n = f (s.die n) := Table.get_put_same _ _ _ _
theorem State.die_modDie_other (s : State) {n d : Nat} (f : Die → Die) (h : d ≠ n) : (s.modDie n f).die d = s.die d :=
  Table.get_put_other _ _ _ h

/-- One more element of a list without repetitions satisfies the predicate that is set there. -/
theorem filter_set_length {l : List Nat} (nodup : l.Nodup) {i : Nat} (mem : i ∈ l) {p q : Nat → Bool} (hp : p i = false) (hq : q i = true)
    (same : ∀ j, j ≠ i → q j = p j) : (l.filter q).length = (l.filter p).length + 1 := by
  induction l with
  | nil => cases mem
  | cons x xs ih =>
    obtain ⟨fresh, rest⟩ := List.nodup_cons.1 nodup
    by_cases h : x = i
    · subst h
      have tail : xs.filter q = xs.filter p := List.filter_congr fun y hy => same y fun e => fresh (e ▸ hy)
      rw [List.filter_cons_of_pos hq, List.filter_cons_of_neg (by rw [hp]; exact Bool.false_ne_true), tail, List.length_cons]
    · have step := ih rest ((List.mem_cons.1 mem).resolve_left (Ne.symm h))
      cases hx : p x with
      | true =>
        rw [List.filter_cons_of_pos hx, List.filter_cons_of_pos ((same x h).trans hx), List.length_cons, List.length_cons, step]
      | false =>
        rw [List.filter_cons_of_neg (by rw [same x h, hx]; exact Bool.false_ne_true),
          List.filter_cons_of_neg (by rw [hx]; exact Bool.false_ne_true), step]

theorem State.addToken_adds (s : State) (d : Nat) : TokenFrame d s (s.addToken d) ∧ ((s.addToken d).die d).surplus = (s.die d).surplus ∧
    (s.addToken d).tokensHeld d = s.tokensHeld d + 1 := by
  unfold State.addToken
  split
  · next i found =>
    have low : i < 6 := List.mem_range.1 (List.mem_of_find?_eq_some found)
    have free : (s.clu (6 * d + i)).hasToken = false := by
      have := List.find?_some found
      simpa using (Bool.and_eq_true_iff.1 this).2
    let u := s.modClu (6 * d + i) fun c => { c with hasToken := true }
    have here : (u.clu (6 * d + i)).hasToken = true := congrArg Cluster.hasToken (State.clu_modClu_same s _ _)
    refine ⟨⟨rfl, rfl, fun _ _ => rfl, fun c => ?_, rfl, rfl, rfl, rfl, rfl⟩, rfl, ?_⟩
    · by_cases hc : c = 6 * d + i
      · rw [hc]
        exact (congrArg Cluster.pool (State.clu_modClu_same s (6 * d + i) fun c => { c with hasToken := true }) :)
      · exact congrArg Cluster.pool (State.clu_modClu_other s _ hc)
    · have more := filter_set_length (List.nodup_range (n := 6)) (List.mem_range.2 low) (p := fun i => (s.clu (6 * d + i)).hasToken)
        (q := fun i => (u.clu (6 * d + i)).hasToken) free here
        fun j hj => congrArg Cluster.hasToken (State.clu_modClu_other s _ (by omega))
      exact (congrArg ((s.die d).tokens.length + ·) more).trans (Nat.add_assoc _ _ _).symm
  · have die := State.die_modDie_same s d fun x => { x with tokens := x.tokens ++ [{ pos := 0, hopAt := s.cycle }] }
    refine ⟨⟨(congrArg Die.headroom die :), (congrArg Die.temp die :), fun e he => State.die_modDie_other s _ he,
      fun _ => rfl, rfl, rfl, rfl, rfl, rfl⟩, (congrArg Die.surplus die :), ?_⟩
    have one := congrArg (fun x : Die => x.tokens.length) die
    simp only [List.length_append, List.length_singleton] at one
    exact (congrArg (· + _) one).trans (Nat.add_right_comm _ _ _)

theorem repeatN_addToken (d n : Nat) (s : State) : TokenFrame d s (repeatN (fun s => s.addToken d) n s) ∧
    ((repeatN (fun s => s.addToken d) n s).die d).surplus = (s.die d).surplus ∧ (repeatN (fun s => s.addToken d) n s).tokensHeld d = s.tokensHeld d + n := by
  induction n generalizing s with
  | zero => exact ⟨.refl d s, rfl, rfl⟩
  | succ n ih =>
    obtain ⟨frame, surplus, more⟩ := s.addToken_adds d
    obtain ⟨frames, rest, sum⟩ := ih (s.addToken d)
    exact ⟨frame.trans frames, rest.trans surplus, sum.trans (by omega)⟩

/-- The tokens of a die come to a number: first those to be withdrawn stay, then new ones enter; what is too many is to be withdrawn. -/
def State.settleTokens (s : State) (d want : Nat) : State :=
  let up := want - s.tokensOf d
  let back := Nat.min up (s.die d).surplus
  repeatN (fun s => s.addToken d) (up - back) (s.modDie d fun x => { x with surplus := x.surplus - back + (s.tokensOf d - want) })

theorem State.settleTokens_settles {s : State} {d : Nat} (want : Nat) (few : (s.die d).surplus ≤ s.tokensHeld d) :
    TokenFrame d s (s.settleTokens d want) ∧ (s.settleTokens d want).tokensOf d = want := by
  let up := want - s.tokensOf d
  let back := Nat.min up (s.die d).surplus
  let f := fun x : Die => { x with surplus := x.surplus - back + (s.tokensOf d - want) }
  have die : (s.modDie d f).die d = f (s.die d) := State.die_modDie_same ..
  have frame : TokenFrame d s (s.modDie d f) :=
    ⟨(congrArg Die.headroom die :), (congrArg Die.temp die :), fun e he => State.die_modDie_other s _ he, fun _ => rfl, rfl, rfl, rfl, rfl, rfl⟩
  have held : (s.modDie d f).tokensHeld d = s.tokensHeld d := (congrArg (fun x : Die => x.tokens.length + _) die :)
  obtain ⟨frames, surplus, sum⟩ := repeatN_addToken d (up - back) (s.modDie d f)
  refine ⟨frame.trans frames, ?_⟩
  change State.tokensHeld _ d - _ = want
  have owed : ((s.modDie d f).die d).surplus = (s.die d).surplus - back + (s.tokensOf d - want) := (congrArg Die.surplus die :)
  rw [show s.settleTokens d want = repeatN (fun s => s.addToken d) (up - back) (s.modDie d f) from rfl, sum, held, surplus, owed]
  have free : s.tokensOf d = s.tokensHeld d - (s.die d).surplus := rfl
  have least : back = min up (s.die d).surplus := rfl
  have lack : up = want - s.tokensOf d := rfl
  clear_value back up
  generalize s.tokensOf d = o, s.tokensHeld d = n, (s.die d).surplus = w at *
  omega

/-! ### The publication of a die's classes (R322) -/

/-- What the requests for an evaluation leave: everything but the stages, of which each keeps its place and its requests. -/
structure AskFrame (s t : State) : Prop where
  dies : t.dies = s.dies
  clusters : t.clusters = s.clusters
  cores : t.cores = s.cores
  tasks : t.tasks = s.tasks
  pmem : t.pmem = s.pmem
  cycle : t.cycle = s.cycle
  valid : ∀ st, (t.stage st).valid = (s.stage st).valid
  on : ∀ st, (t.stage st).clusters = (s.stage st).clusters
  asked : ∀ st a, a ∈ (s.stage st).evalAt → a ∈ (t.stage st).evalAt

theorem AskFrame.refl (s : State) : AskFrame s s := ⟨rfl, rfl, rfl, rfl, rfl, rfl, fun _ => rfl, fun _ => rfl, fun _ _ h => h⟩

theorem AskFrame.trans {s t u : State} (a : AskFrame s t) (b : AskFrame t u) : AskFrame s u :=
  ⟨b.dies.trans a.dies, b.clusters.trans a.clusters, b.cores.trans a.cores, b.tasks.trans a.tasks, b.pmem.trans a.pmem, b.cycle.trans a.cycle,
    fun st => (b.valid st).trans (a.valid st), fun st => (b.on st).trans (a.on st), fun st x h => b.asked st x (a.asked st x h)⟩

theorem State.askEvaluation_asks (s : State) (st at_ : Nat) :
    AskFrame s (s.askEvaluation st at_) ∧ at_ ∈ ((s.askEvaluation st at_).stage st).evalAt := by
  let ask := fun g : Stage => { g with evalAt := if g.evalAt.contains at_ then g.evalAt else g.evalAt ++ [at_] }
  have here : (s.askEvaluation st at_).stage st = ask (s.stage st) := State.stage_modStage_same ..
  have there : ∀ q, q ≠ st → (s.askEvaluation st at_).stage q = s.stage q := fun q hq => State.stage_modStage_other _ _ hq
  refine ⟨⟨rfl, rfl, rfl, rfl, rfl, rfl, fun q => ?_, fun q => ?_, fun q a h => ?_⟩, ?_⟩
  · by_cases hq : q = st
    · rw [hq, here]
    · rw [there q hq]
  · by_cases hq : q = st
    · rw [hq, here]
    · rw [there q hq]
  · by_cases hq : q = st
    · subst hq
      rw [here]
      change a ∈ if _ then _ else _
      split
      · exact h
      · exact List.mem_append_left _ h
    · rw [there q hq]
      exact h
  · rw [here]
    change at_ ∈ if _ then _ else _
    split
    · next h => exact List.contains_iff_mem.1 h
    · exact List.mem_append_right _ (List.mem_singleton_self _)

/-- The stages of a die are asked for an evaluation in the next cycle. -/
def askDie (d : Nat) (s : State) (st : Nat) : State :=
  if (s.stage st).valid && ((s.stage st).clusters.any fun c => c / 6 == d) then s.askEvaluation st (s.cycle + 1) else s

theorem askDie_asks (d : Nat) (s : State) (st : Nat) : AskFrame s (askDie d s st) ∧
    ((s.stage st).valid = true → (∃ c ∈ (s.stage st).clusters, c / 6 = d) → s.cycle + 1 ∈ ((askDie d s st).stage st).evalAt) := by
  unfold askDie
  split
  · exact ⟨(s.askEvaluation_asks st _).1, fun _ _ => (s.askEvaluation_asks st _).2⟩
  · next out =>
    refine ⟨.refl s, fun valid ⟨c, hc, die⟩ => absurd ?_ out⟩
    rw [valid, Bool.true_and, List.any_eq_true]
    exact ⟨c, hc, beq_iff_eq.2 die⟩

theorem foldl_askDie (d : Nat) (l : List Nat) (s : State) : AskFrame s (l.foldl (askDie d) s) ∧
    ∀ st ∈ l, (s.stage st).valid = true → (∃ c ∈ (s.stage st).clusters, c / 6 = d) →
      s.cycle + 1 ∈ ((l.foldl (askDie d) s).stage st).evalAt := by
  induction l generalizing s with
  | nil => exact ⟨.refl s, fun st h => absurd h List.not_mem_nil⟩
  | cons x xs ih =>
    obtain ⟨frame, asks⟩ := askDie_asks d s x
    obtain ⟨frames, rest⟩ := ih (askDie d s x)
    refine ⟨frame.trans frames, fun st mem valid on => ?_⟩
    obtain rfl | mem := List.mem_cons.1 mem
    · exact frames.asked _ _ (asks valid on)
    · have := rest st mem ((frame.valid st).trans valid) (by rw [frame.on st]; exact on)
      rw [frame.cycle] at this
      exact this

/-- The die as a publication leaves it, but for its tokens. -/
def Die.publish (x : Die) (h temp cycle : Nat) : Die :=
  { x with headroom := h, temp := temp, hottest := none,
           before := match x.before with
             | some y => if y.1 = cycle then some y else some (cycle, x.headroom, x.temp)
             | none => some (cycle, x.headroom, x.temp) }

/-- The publication of a headroom class `h` and a temperature class `x` for a die. -/
def State.publish (s : State) (d h x : Nat) : State :=
  let u := (s.modDie d fun y => y.publish h x s.cycle).settleTokens d (tokenCount h x)
  if (s.die d).headroom != h || (s.die d).temp != x then (List.range 8).foldl (askDie d) u else u

theorem tokenCount_eq (h x : Nat) :
    tokenCount h x = if x = 3 then 1 else if h = 3 then 6 else if h = 2 then 4 else if h = 1 then 2 else 1 := by
  unfold tokenCount
  split
  · rfl
  · split <;> simp_all

theorem exec_headroomPublication {d power hot : Nat} {s : State} (hh : (s.die d).hottest = some hot) :
    exec (.headroomPublication d power) s = .next (s.publish d
      (3 - aboveThresholds (3 - (s.die d).headroom) (s.dieLoad d power) 300 [7000, 8500, 9500])
      (aboveThresholds (s.die d).temp hot 3 [85, 95, 105])) := by
  show execHeadroomPublication d power s = _
  unfold execHeadroomPublication
  extract_lets x h t changed s1 want have_ up back s2 s3
  have ht : t = aboveThresholds (s.die d).temp hot 3 [85, 95, 105] := by
    change (match (s.die d).hottest with | some x => aboveThresholds (s.die d).temp x 3 [85, 95, 105] | none => (s.die d).temp) = _
    rw [hh]
  have class_ : h = 3 - aboveThresholds (3 - (s.die d).headroom) (s.dieLoad d power) 300 [7000, 8500, 9500] := rfl
  rw [← ht, ← class_]
  clear_value h t
  have published : s1 = s.modDie d fun y => y.publish h t s.cycle := rfl
  have settled : s3 = s1.settleTokens d want := rfl
  rw [settled, published]
  rfl

theorem State.publish_publishes {s : State} {d : Nat} (h x : Nat) (few : (s.die d).surplus ≤ s.tokensHeld d) :
    let t := s.publish d h x
    (t.die d).headroom = h ∧ (t.die d).temp = x ∧ t.tokensOf d = tokenCount h x ∧
    (∀ e, e ≠ d → t.die e = s.die e) ∧ t.cores = s.cores ∧ t.tasks = s.tasks ∧ t.pmem = s.pmem ∧
    (∀ c, (t.clu c).pool = (s.clu c).pool) ∧
    (h ≠ (s.die d).headroom ∨ x ≠ (s.die d).temp → ∀ st, st < 8 → (s.stage st).valid = true →
      (∃ c ∈ (s.stage st).clusters, c / 6 = d) → s.cycle + 1 ∈ (t.stage st).evalAt) ∧
    (h = (s.die d).headroom → x = (s.die d).temp → t.stages = s.stages) := by
  intro t
  let f := fun y : Die => y.publish h x s.cycle
  let u := (s.modDie d f).settleTokens d (tokenCount h x)
  have die : (s.modDie d f).die d = f (s.die d) := State.die_modDie_same ..
  have held : (s.modDie d f).tokensHeld d = s.tokensHeld d := (congrArg (fun x : Die => x.tokens.length + _) die :)
  obtain ⟨frame, settled⟩ := State.settleTokens_settles (s := s.modDie d f) (tokenCount h x)
    (by rw [held, congrArg Die.surplus die]; exact few)
  have headroom : (u.die d).headroom = h := frame.headroom.trans (congrArg Die.headroom die :)
  have temp : (u.die d).temp = x := frame.temp.trans (congrArg Die.temp die :)
  have dies : ∀ e, e ≠ d → u.die e = s.die e := fun e he => (frame.dies e he).trans (State.die_modDie_other s _ he)
  obtain ⟨asked, asks⟩ := foldl_askDie d (List.range 8) u
  have changed : ((s.die d).headroom != h || (s.die d).temp != x) = true ↔ h ≠ (s.die d).headroom ∨ x ≠ (s.die d).temp := by
    rw [Bool.or_eq_true, bne_iff_ne, bne_iff_ne, ne_comm, ne_comm (a := (s.die d).temp)]
  by_cases ch : ((s.die d).headroom != h || (s.die d).temp != x) = true
  · have ht : t = (List.range 8).foldl (askDie d) u := if_pos ch
    have same : ∀ e, t.die e = u.die e := fun e => by rw [ht, State.die, asked.dies, State.die]
    have clu : ∀ c, t.clu c = u.clu c := fun c => by rw [ht, State.clu, asked.clusters, State.clu]
    have tokens : t.tokensOf d = u.tokensOf d := by simp only [State.tokensOf, same, clu]
    refine ⟨by rw [same, headroom], by rw [same, temp], tokens.trans settled, fun e he => (same e).trans (dies e he),
      by rw [ht, asked.cores]; exact frame.cores, by rw [ht, asked.tasks]; exact frame.tasks, by rw [ht, asked.pmem]; exact frame.pmem,
      fun c => by rw [clu]; exact frame.pool c, fun _ st low valid on => ?_, fun hh hx => ?_⟩
    · have stage : u.stage st = s.stage st := by rw [State.stage, frame.stages]; rfl
      rw [ht]
      have := asks st (List.mem_range.2 low) (by rw [stage]; exact valid) (by rw [stage]; exact on)
      rw [frame.cycle] at this
      exact this
    · exact absurd (changed.1 ch) (by simp [hh, hx])
  · have ht : t = u := if_neg ch
    rw [ht]
    exact ⟨headroom, temp, settled, dies, frame.cores, frame.tasks, frame.pmem, frame.pool, fun h => absurd (changed.2 h) ch,
      fun _ _ => frame.stages⟩

/-- A headroom class of at most `j` means that the load stands above at least `3 - j` thresholds. -/
theorem headroom_le {m hd p j a c : Nat} (low : hd < 4) (hj : j < 3) (margin : c + 300 = a)
    (h : 3 - j ≤ m ↔ a ≤ p ∨ (2 - j < 3 - hd ∧ a < p + 300)) : 3 - m ≤ j ↔ a ≤ p ∨ (hd ≤ j ∧ c < p) := by
  have flip : 3 - m ≤ j ↔ 3 - j ≤ m := by omega
  rw [flip, h]
  have now : 2 - j < 3 - hd ↔ hd ≤ j := by omega
  have below : a < p + 300 ↔ c < p := by omega
  rw [now, below]

theorem temperature_le {x now hot n a c : Nat} (margin : c + 3 = a) (h : n + 1 ≤ x ↔ a ≤ hot ∨ (n < now ∧ a < hot + 3)) :
    n + 1 ≤ x ↔ a ≤ hot ∨ (n + 1 ≤ now ∧ c < hot) := by
  have below : a < hot + 3 ↔ c < hot := by omega
  rw [h, below, Nat.lt_iff_add_one_le]

/-- The classes follow from how many thresholds the two measures stand above. -/
theorem headroomPublication_publishes {d power hot : Nat} {s : State} (hh : (s.die d).hottest = some hot) (low : (s.die d).headroom < 4)
    (cool : (s.die d).temp < 4) (few : (s.die d).surplus ≤ s.tokensHeld d) :
    let p := s.dieLoad d power
    ∃ t h x, exec (.headroomPublication d power) s = .next t ∧ (t.die d).headroom = h ∧ (t.die d).temp = x ∧ h < 4 ∧ x < 4 ∧
      (h = 0 ↔ 9500 ≤ p ∨ ((s.die d).headroom = 0 ∧ 9200 < p)) ∧ (h ≤ 1 ↔ 8500 ≤ p ∨ ((s.die d).headroom ≤ 1 ∧ 8200 < p)) ∧
      (h ≤ 2 ↔ 7000 ≤ p ∨ ((s.die d).headroom ≤ 2 ∧ 6700 < p)) ∧
      (x = 3 ↔ 105 ≤ hot ∨ ((s.die d).temp = 3 ∧ 102 < hot)) ∧ (2 ≤ x ↔ 95 ≤ hot ∨ (2 ≤ (s.die d).temp ∧ 92 < hot)) ∧
      (1 ≤ x ↔ 85 ≤ hot ∨ (1 ≤ (s.die d).temp ∧ 82 < hot)) ∧
      t.tokensOf d = (if x = 3 then 1 else if h = 3 then 6 else if h = 2 then 4 else if h = 1 then 2 else 1) ∧
      (∀ e, e ≠ d → t.die e = s.die e) ∧ t.cores = s.cores ∧ t.tasks = s.tasks ∧ t.pmem = s.pmem ∧
      (∀ c, (t.clu c).pool = (s.clu c).pool) ∧
      (h ≠ (s.die d).headroom ∨ x ≠ (s.die d).temp → ∀ st, st < 8 → (s.stage st).valid = true →
        (∃ c ∈ (s.stage st).clusters, c / 6 = d) → s.cycle + 1 ∈ (t.stage st).evalAt) ∧
      (h = (s.die d).headroom → x = (s.die d).temp → t.stages = s.stages) := by
  obtain ⟨h4, h1, h2, h3⟩ := aboveThresholds_three (now := 3 - (s.die d).headroom) (measure := s.dieLoad d power) (margin := 300)
    (a := 7000) (b := 8500) (c := 9500) (by omega) (by omega)
  obtain ⟨x4, x1, x2, x3⟩ := aboveThresholds_three (now := (s.die d).temp) (measure := hot) (margin := 3) (a := 85) (b := 95)
    (c := 105) (by omega) (by omega)
  have done := exec_headroomPublication (power := power) hh
  generalize aboveThresholds (3 - (s.die d).headroom) (s.dieLoad d power) 300 [7000, 8500, 9500] = m at h4 h1 h2 h3 done
  generalize aboveThresholds (s.die d).temp hot 3 [85, 95, 105] = x at x4 x1 x2 x3 done
  have zero := headroom_le low (j := 0) (c := 9200) (by omega) (by omega) h3
  have hottest := temperature_le (n := 2) (c := 102) (by omega) x3
  rw [Nat.le_zero, Nat.le_zero] at zero
  have top : 2 + 1 ≤ x ↔ x = 3 := by omega
  have topBefore : 2 + 1 ≤ (s.die d).temp ↔ (s.die d).temp = 3 := by omega
  rw [top, topBefore] at hottest
  have range : 3 - m < 4 := by omega
  have second := headroom_le low (j := 1) (c := 8200) (by omega) (by omega) h2
  have third := headroom_le low (j := 2) (c := 6700) (by omega) (by omega) h1
  have warm := temperature_le (n := 1) (c := 92) (by omega) x2
  have mild := temperature_le (n := 0) (c := 82) (by omega) x1
  have published := State.publish_publishes (3 - m) x few
  dsimp only at published ⊢
  generalize s.publish d (3 - m) x = t at published done
  obtain ⟨headroom, temp, tokens, rest⟩ := published
  generalize s.dieLoad d power = p at *
  exact ⟨t, 3 - m, x, done, headroom, temp, range, x4, zero, second, third, hottest, warm, mild, tokens.trans (tokenCount_eq _ _), rest⟩

end Sys2Proof.Machine
end

section
/-!
PROOFS. The dispatch of a chosen task (R25, R319, R365).
-/
namespace Sys2Proof.Machine

/-- One core of a team starts at the entry bundle. -/
def State.startCore (τ wdef stamp : Nat) (s : State) (x : Nat × Nat) : State :=
  ((s.modCore x.1 fun k => clearForDispatch k τ x.2 wdef s.cycle).recvStamp x.1 stamp).takePoint x.1

/-- What a core holds once it has started with a rank: what dispatch clears is clear, and the rest stands. -/
def startedFrom (b a : Core) (τ j wdef cycle budget : Nat) : Prop :=
  a.task = some τ ∧ a.rank = j ∧ a.seq.pc = 0 ∧ a.seq.loops = [] ∧ a.regs.s = [] ∧ a.regs.p = 0 ∧ a.regs.e = [] ∧
  a.regs.la = [] ∧ a.regs.ta = [] ∧ a.regs.xa = [] ∧ a.regs.fstat = 0 ∧ a.ys.y = [] ∧ a.regs.donemask = 0 ∧
  a.regs.waitlim = BitVec.ofNat 64 wdef ∧ a.regs.va = b.regs.va ∧ a.regs.vb = b.regs.vb ∧
  a.regs.ka = b.regs.ka ∧ a.regs.kb = b.regs.kb ∧ a.arr.z = b.arr.z ∧ a.arr.zm = b.arr.zm ∧ a.sp = b.sp ∧ a.ls = b.ls ∧
  a.rcv.segStart = cycle ∧ ∃ rp, a.rcv.rps.head? = some rp ∧ rp.pc = 0 ∧ rp.cycle = cycle ∧ rp.budget = budget

theorem State.startCore_starts {s : State} {τ : Nat} {k : Task} (hk : s.task? τ = some k) (wdef stamp c j : Nat) :
    startedFrom (s.core c) ((s.startCore τ wdef stamp (c, j)).core c) τ j wdef s.cycle k.budget ∧
    (∃ w, (s.startCore τ wdef stamp (c, j)).tasks = Table.put s.tasks τ { k with wlog := w }) ∧
    (∀ d, d ≠ c → (s.startCore τ wdef stamp (c, j)).core d = s.core d) ∧ (s.startCore τ wdef stamp (c, j)).cycle = s.cycle ∧
    (s.startCore τ wdef stamp (c, j)).pmem = s.pmem ∧ (s.startCore τ wdef stamp (c, j)).xs = s.xs := by
  let u := s.modCore c fun k => clearForDispatch k τ j wdef s.cycle
  let v := u.recvStamp c stamp
  let received := fun q : Core => q.modRegs fun r => { r with lclock := BitVec.ofNat 40 (stampRecv r.lclock.toNat stamp) }
  have core : v.core c = received (clearForDispatch (s.core c) τ j wdef s.cycle) :=
    (State.core_modCore_same u c received).trans (congrArg received (State.core_modCore_same s c _))
  have others : ∀ d, d ≠ c → v.core d = s.core d := fun d hd =>
    (State.core_modCore_other u _ hd).trans (State.core_modCore_other s _ hd)
  obtain ⟨r, e, rp, p⟩ := State.takePoint_taken (s := v) (τ := τ) (by rw [core]; rfl) hk
  have pc : rp.pc = 0 := p.pc.trans (by rw [core]; rfl)
  have here := p.core
  rw [core] at here
  refine ⟨?_, p.tasks, fun d hd => (p.others d hd).trans (others d hd), p.cycle, p.pmem, p.xs⟩
  change startedFrom _ ((v.takePoint c).core c) _ _ _ _ _
  rw [here]
  exact ⟨rfl, rfl, rfl, rfl, rfl, rfl, rfl, rfl, rfl, rfl, rfl, rfl, rfl, rfl, rfl, rfl, rfl, rfl, rfl, rfl, rfl, rfl, p.start,
    rp, p.head, pc, p.taken, p.budget⟩

/-- After the first `n` cores of a team have started. -/
structure TeamStarted (s : State) (τ first wdef : Nat) (k : Task) (n : Nat) (t : State) : Prop where
  task : ∃ w, t.task? τ = some { k with wlog := w }
  tasks : ∀ q, q ≠ τ → t.task? q = s.task? q
  out : ∀ c, c < first ∨ first + n ≤ c → t.core c = s.core c
  cores : ∀ j, j < n → startedFrom (s.core (first + j)) (t.core (first + j)) τ j wdef s.cycle k.budget
  cycle : t.cycle = s.cycle
  pmem : t.pmem = s.pmem
  xs : t.xs = s.xs

theorem zipIdx_range_map (first n : Nat) : ((List.range n).map fun i => first + i).zipIdx = (List.range n).map fun i => (first + i, i) := by
  induction n with
  | zero => rfl
  | succ n ih => rw [List.range_succ, List.map_append, List.map_append, List.zipIdx_append, ih]; simp

theorem startTeam {s : State} {τ : Nat} {k : Task} (hk : s.task? τ = some k) (first wdef stamp n : Nat) :
    TeamStarted s τ first wdef k n ((((List.range n).map fun i => first + i).zipIdx).foldl (State.startCore τ wdef stamp) s) := by
  rw [zipIdx_range_map]
  induction n with
  | zero => exact ⟨⟨k.wlog, hk⟩, fun _ _ => rfl, fun _ _ => rfl, fun j hj => absurd hj (Nat.not_lt_zero j), rfl, rfl, rfl⟩
  | succ n ih =>
    rw [List.range_succ, List.map_append, List.foldl_append]
    generalize ((List.range n).map fun i => (first + i, i)).foldl (State.startCore τ wdef stamp) s = u at ih
    obtain ⟨w, hu⟩ := ih.task
    obtain ⟨started, ⟨w', tasks⟩, others, cycle, pmem, xs⟩ := State.startCore_starts hu wdef stamp (first + n) n
    obtain ⟨here, there⟩ := State.task?_of_put tasks
    rw [ih.out (first + n) (.inr (Nat.le_refl _)), ih.cycle] at started
    refine ⟨⟨w', here⟩, fun q hq => (there q hq).trans (ih.tasks q hq), fun c hc => ?_, fun j hj => ?_, cycle.trans ih.cycle, pmem.trans ih.pmem,
      xs.trans ih.xs⟩
    · exact (others c (by omega)).trans (ih.out c (by omega))
    · obtain before | rfl := Nat.lt_succ_iff_lt_or_eq.1 hj
      · exact (others (first + j) (by omega)).symm ▸ ih.cores j before
      · exact started

theorem taskDispatch_early {s : State} {τ : Nat} {k : Task} (hk : s.task? τ = some k) (h : k.dispatchAt ≠ some s.cycle) :
    exec (.taskDispatch τ) s = .next s := by
  have other : (k.dispatchAt != some s.cycle) = true := bne_iff_ne.2 h
  show execTaskDispatch τ s = _
  simp only [execTaskDispatch, hk, other, if_true]

theorem taskDispatch_starts {s : State} {τ : Nat} {k : Task} (hk : s.task? τ = some k) (due : k.dispatchAt = some s.cycle)
    (active : (s.ctx k.pasid).phase = .active) (serves : (s.clu k.cluster).inService = true)
    (kept : 8 * k.cluster + k.slot ∉ (s.stage k.stage).lost) :
    let team := (s.stage k.stage).team
    let first := 8 * k.cluster + k.slot * team
    ∃ t n, exec (.taskDispatch τ) s = .next t ∧ t.task? τ = some n ∧ n.budget = k.full ∧ n.dispatchAt = none ∧ n.key = k.key ∧
      n.state = k.state ∧ (∀ q, q ≠ τ → t.task? q = s.task? q) ∧
      (∀ c, c < first ∨ first + team ≤ c → t.core c = s.core c) ∧ t.pmem = s.pmem ∧ t.xs = s.xs ∧
      ∀ j, j < team → startedFrom (s.core (first + j)) (t.core (first + j)) τ j (s.stage k.stage).wdef s.cycle k.full := by
  intro team first
  let fresh : Task := { k with dispatchAt := none, budget := k.full, waitRun := 0 }
  let freed := fun x : Context =>
    { x with freed := x.freed.filter fun e => !(teamCores team k.cluster k.slot).contains e.core || ((s.task? e.tid).map Task.inFlight).getD false }
  let u := (s.setTask τ fresh).modCtx k.pasid freed
  have hu : u.task? τ = some fresh := State.task?_setTask_same ..
  have started := startTeam hu first (s.stage k.stage).wdef k.stamp team
  obtain ⟨w, task⟩ := started.task
  refine ⟨_, _, ?_, task, rfl, rfl, rfl, rfl, fun q hq => (started.tasks q hq).trans (State.task?_setTask_other s fresh hq), started.out,
    started.pmem, started.xs, started.cores⟩
  have now : (k.dispatchAt != some s.cycle) = false := bne_eq_false_iff_eq.2 due
  have stands : ((s.ctx k.pasid).phase != .active || (s.stage k.stage).lost.contains (8 * k.cluster + k.slot) ||
      !(s.clu k.cluster).inService) = false := by
    have out : (s.stage k.stage).lost.contains (8 * k.cluster + k.slot) = false := by
      rw [← Bool.not_eq_true, List.contains_iff_mem]
      exact kept
    rw [active, serves, out]
    rfl
  show execTaskDispatch τ s = _
  simp only [execTaskDispatch, hk, now, stands, Bool.false_eq_true, if_false, State.modTask_some hk]
  rfl

end Sys2Proof.Machine
end

section
/-!
PROOFS. The choice of a task for a free slot (R317 to R321).
-/
namespace Sys2Proof.Machine

/-! ### Entries of the tide table (R317) -/

/-- Entry 0 names a kind, with a priority and every class. -/
def kindWord (k : TaskKind) (prio : Nat) : Word64 := BitVec.ofNat 64 (2 ^ 63 + k.code * 2 ^ 61 + prio * 2 ^ 56 + 0xFF * 2 ^ 48)
/-- An idle entry for every class. -/
def idleWord : Word64 := BitVec.ofNat 64 (2 ^ 63 + 2 ^ 59 + 0xFF * 2 ^ 48)

theorem decTide_kindWord (k : TaskKind) {prio : Nat} (h : prio < 8) : decTide (kindWord k prio).toNat =
    { valid := true, kind := k, force := false, idle := false, prio := prio, hmask := 15, tmask := 15, qmin := 0, hmax := 0,
      okind := .f, othr := 0, sready := false, look := 0 } := by
  have all : ∀ p, p < 8 → decTide (kindWord k p).toNat =
      { valid := true, kind := k, force := false, idle := false, prio := p, hmask := 15, tmask := 15, qmin := 0, hmax := 0,
        okind := .f, othr := 0, sready := false, look := 0 } := by
    cases k <;> decide
  exact all prio h

theorem decTide_idleWord : decTide idleWord.toNat =
    { valid := true, kind := .f, force := false, idle := true, prio := 0, hmask := 15, tmask := 15, qmin := 0, hmax := 0,
      okind := .f, othr := 0, sready := false, look := 0 } := by decide

/-- The classes that an evaluation sees are below 4 when those of every die are. -/
theorem State.classes_lt {s : State} (st : Nat) (h : ∀ d, (s.die d).temp < 4 ∧ ∀ x, (s.die d).before = some x → x.2.2 < 4) :
    (s.classes st).1 < 4 ∧ (s.classes st).2 < 4 := by
  have least : ∀ (l : List (Nat × Nat)) n, n < 4 → l.foldl (fun m d => Nat.min m d.1) n < 4 := fun l => by
    induction l with
    | nil => exact fun n hn => hn
    | cons x xs ih => exact fun n hn => ih _ (Nat.lt_of_le_of_lt (Nat.min_le_left n x.1) hn)
  have most : ∀ (l : List (Nat × Nat)), (∀ x ∈ l, x.2 < 4) → ∀ n, n < 4 → l.foldl (fun m d => Nat.max m d.2) n < 4 := fun l => by
    induction l with
    | nil => exact fun _ n hn => hn
    | cons x xs ih =>
      exact fun hl n hn => ih (fun y hy => hl y (List.mem_cons_of_mem _ hy)) _ (Nat.max_lt.2 ⟨hn, hl x List.mem_cons_self⟩)
  have dies : ∀ x ∈ ((s.stage st).clusters.map fun c => c / 6).dedup.map fun c => s.classOf (s.die c), x.2 < 4 := by
    intro x hx
    obtain ⟨d, -, rfl⟩ := List.mem_map.1 hx
    unfold State.classOf
    split
    · next c hh t before =>
      split
      · exact (h d).2 _ before
      · exact (h d).1
    · exact (h d).1
  exact ⟨least _ 3 (by omega), most _ dies 0 (by omega)⟩

theorem bitAt_fifteen {n : Nat} (h : n < 4) : bitAt 15 n = true := by
  interval_cases n <;> rfl

/-- Entries that are not valid change nothing of a scan. -/
theorem scanTide_head (s : State) (st : Nat) (q able : List (Nat × Task)) (e : Tide) (l : List Tide) (blank : ∀ x ∈ l, x.valid = false) :
    scanTide s st q able (e :: l) = scanTide s st q able [e] := by
  have skipped : ∀ x ∈ l, x.applies s st q = false := fun x hx => by
    simp only [Tide.applies, blank x hx, Bool.false_and]
  simp only [scanTide, List.foldl_cons, List.foldl_nil]
  refine congrArg Prod.snd (foldl_stays fun x hx => ?_)
  rw [skipped x hx]
  simp only [Bool.not_false, if_true, ite_self]

theorem tide_entries (w : Word64) : ∃ l, (List.range 32).map (fun i => decTide (Table.get [(0, w)] 0 i).toNat) = decTide w.toNat :: l ∧
    ∀ x ∈ l, x.valid = false := by
  refine ⟨(List.range 31).map fun i => decTide (Table.get [(0, w)] 0 (i + 1)).toNat, ?_, fun x hx => ?_⟩
  · rw [show (32 : Nat) = 31 + 1 from rfl, List.range_succ_eq_map, List.map_cons, List.map_map]
    rfl
  · obtain ⟨i, -, rfl⟩ := List.mem_map.1 hx
    have blank : Table.get [(0, w)] 0 (i + 1) = 0 := by simp [Table.get, Table.get?]
    rw [blank]
    rfl

/-! ### The choice (R318, R319, R321) -/

/-- One task is queued in a stage, Ready and free, and one slot is free there; no class of a die is beyond the worst. -/
structure Choosable (s : State) (st τ : Nat) (k : Task) (x : Nat × Nat) : Prop where
  stage : k.stage = st
  task : s.task? τ = some k
  ready : k.state = .ready
  free : k.free = true
  queued : s.queuedTasks st = [(τ, k)]
  live : s.stageLive st = true
  slots : s.freeSlots st = [x]
  classes : ∀ d, (s.die d).temp < 4 ∧ ∀ x, (s.die d).before = some x → x.2.2 < 4
  before : k.queuedAt < s.cycle

section
variable {s : State} {st τ : Nat} {k : Task} {x : Nat × Nat}

theorem Choosable.standing (w : Choosable s st τ k x) : s.standing st = [(τ, k)] := by
  simp only [State.standing, w.queued, List.filter_singleton, decide_eq_true w.before, cond_true]

theorem Choosable.fits (w : Choosable s st τ k x) (cl : Nat) : fits (τ, k) cl = true := by
  rw [Machine.fits, w.ready]
  rfl

theorem Choosable.starving (w : Choosable s st τ k x) (h : k.agedAt.getD k.queuedAt + (s.stage st).starve ≤ s.cycle) :
    s.starving st [x.1] = some (τ, k) := by
  have yes : (k.free && [x.1].any (fun c => Machine.fits (τ, k) c) && decide (k.agedAt.getD k.queuedAt + (s.stage st).starve ≤ s.cycle)) = true := by
    rw [w.free, List.any_cons, w.fits, decide_eq_true h]
    rfl
  simp only [State.starving, w.standing, List.filter_singleton, yes, cond_true]
  rfl

theorem Choosable.not_starving (w : Choosable s st τ k x) (h : ¬ k.agedAt.getD k.queuedAt + (s.stage st).starve ≤ s.cycle) :
    s.starving st [x.1] = none := by
  have no : (k.free && [x.1].any (fun c => Machine.fits (τ, k) c) && decide (k.agedAt.getD k.queuedAt + (s.stage st).starve ≤ s.cycle)) = false := by
    rw [decide_eq_false h, Bool.and_false]
  simp only [State.starving, w.standing, List.filter_singleton, no, cond_false]
  rfl

theorem Choosable.able (w : Choosable s st τ k x) : [(τ, k)].filter (fun e => e.2.free && Machine.fits e x.1) = [(τ, k)] := by
  have yes : (k.free && Machine.fits (τ, k) x.1) = true := by rw [w.free, w.fits]; rfl
  simp only [List.filter_singleton, yes, cond_true]

/-- An entry that applies to the one queued task, by its kind alone, nominates it. -/
theorem scanTide_nominates {s : State} {st τ : Nat} {k : Task} {e : Tide} (applies : e.applies s st [(τ, k)] = true) (busy : e.idle = false)
    (plain : e.sready = false) (look : e.look = 0) (kind : e.kind = k.kind) (other : k.kind ≠ .b) :
    scanTide s st [(τ, k)] [(τ, k)] [e] = ([(e.prio, τ, k)], 0) := by
  have mine : ∀ r : Bool, (k.kind == e.kind && (e.kind != .b || e.force || r)) = true := fun r => by
    rw [kind, bne_iff_ne.2 other, beq_self_eq_true]
    rfl
  simp only [scanTide, List.foldl_cons, List.foldl_nil, applies, busy, plain, look, Bool.false_eq_true, if_false, Bool.not_true,
    Bool.false_and, List.filter_singleton, mine, cond_true]
  rfl

/-- R318: entry 0 that names the task's kind in every class nominates it. -/
theorem Choosable.chosen (w : Choosable s st τ k x) (h : ¬ k.agedAt.getD k.queuedAt + (s.stage st).starve ≤ s.cycle) (kind : k.kind ≠ .b)
    {prio : Nat} (hp : prio < 8) (tide : (s.stage st).tide = [(0, kindWord k.kind prio)]) : s.choose st x.1 = (some (τ, k), 0) := by
  obtain ⟨l, entries, blank⟩ := tide_entries (kindWord k.kind prio)
  obtain ⟨low, cool⟩ := s.classes_lt st w.classes
  have one : occupancy [(τ, k)] k.kind = 1 := by simp [occupancy]
  simp only [State.choose, w.not_starving h, w.standing, w.able, tide, entries, decTide_kindWord _ hp]
  rw [scanTide_head _ _ _ _ _ _ blank, scanTide_nominates (k := k) _ rfl rfl rfl rfl kind]
  · rfl
  · simp [Tide.applies, bitAt_fifteen low, bitAt_fifteen cool, one]

/-- R318: an idle entry 0 nominates none. -/
theorem Choosable.idle (w : Choosable s st τ k x) (h : ¬ k.agedAt.getD k.queuedAt + (s.stage st).starve ≤ s.cycle)
    (tide : (s.stage st).tide = [(0, idleWord)]) : s.choose st x.1 = (none, 0) := by
  obtain ⟨l, entries, blank⟩ := tide_entries idleWord
  obtain ⟨low, cool⟩ := s.classes_lt st w.classes
  simp only [State.choose, w.not_starving h, w.standing, w.able, tide, entries, decTide_idleWord]
  rw [scanTide_head _ _ _ _ _ _ blank]
  simp [scanTide, Tide.applies, bitAt_fifteen low, bitAt_fifteen cool, bestOf]

theorem Choosable.pick_starving (w : Choosable s st τ k x) (h : k.agedAt.getD k.queuedAt + (s.stage st).starve ≤ s.cycle) :
    s.pick st [x] = (some (x, τ, k), 0) := by
  simp only [State.pick, List.map_cons, List.map_nil, w.starving h, List.find?_cons, w.fits, Option.map_some]

theorem Choosable.pick_chosen (w : Choosable s st τ k x) (h : ¬ k.agedAt.getD k.queuedAt + (s.stage st).starve ≤ s.cycle)
    {o : Option (Nat × Task)} (choice : s.choose st x.1 = (o, 0)) : s.pick st [x] = (o.map fun e => (x, e), 0) := by
  simp only [State.pick, List.map_cons, List.map_nil, w.not_starving h, choice, List.foldl_cons, List.foldl_nil]
  cases o <;> rfl

end

/-! ### An evaluation (R319) -/

/-- The return of stash entries leaves everything but the contexts and the choices of the free values. -/
structure PumpFrame (s t : State) : Prop where
  stages : t.stages = s.stages
  tasks : t.tasks = s.tasks
  inputs : t.inputs = s.inputs
  cores : t.cores = s.cores
  clusters : t.clusters = s.clusters
  pmem : t.pmem = s.pmem
  cycle : t.cycle = s.cycle

theorem PumpFrame.of_contexts {s t : State} (h : ContextsOnly s t) : PumpFrame s t := by
  obtain ⟨cs, n, m, rfl⟩ := h
  exact ⟨rfl, rfl, rfl, rfl, rfl, rfl, rfl⟩

/-- The stage once an evaluation has taken the requests that were due. -/
def State.evaluated (s : State) (st : Nat) : State := s.modStage st fun g => { g with evalAt := g.evalAt.filter fun a => !decide (a ≤ s.cycle) }

section
variable {s : State} {st τ : Nat} {k : Task} {x : Nat × Nat}

theorem stageEvaluation_early (h : ∀ a ∈ (s.stage st).evalAt, s.cycle < a) : exec (.stageEvaluation st) s = .next s := by
  have none : ((s.stage st).evalAt.any fun a => decide (a ≤ s.cycle)) = false :=
    List.any_eq_false.2 fun a ha => by rw [decide_eq_true_eq]; exact Nat.not_le.2 (h a ha)
  show execStageEvaluation st s = _
  simp only [execStageEvaluation, none, Bool.not_false, if_true]

/-- What has been chosen, if anything, takes its slot. -/
def State.placeChosen (s : State) (o : Option ((Nat × Nat) × Nat × Task)) : State :=
  match o with
  | some (y, e) => s.place e.1 e.2 y
  | none => s

/-- A due evaluation with the one free slot takes what the table or starvation chooses; stash entries that wait for room may start back. -/
theorem Choosable.evaluates (w : Choosable s st τ k x) (due : ∃ a ∈ (s.stage st).evalAt, a ≤ s.cycle)
    {o : Option ((Nat × Nat) × Nat × Task)} (pick : s.pick st [x] = (o, 0)) : ∃ u, PumpFrame (s.evaluated st) u ∧
    exec (.stageEvaluation st) s = .next (u.placeChosen o) := by
  have some_ : ((s.stage st).evalAt.any fun a => decide (a ≤ s.cycle)) = true := by
    obtain ⟨a, ha, hle⟩ := due
    exact List.any_eq_true.2 ⟨a, ha, decide_eq_true hle⟩
  let u := match (s.stage st).lastB with
    | some b => (s.evaluated st).wantTags (s.stage st).pasid ((List.range 0).map fun i => (b + 1 + i) % 2 ^ 32)
    | none => s.evaluated st
  have frame : PumpFrame (s.evaluated st) u := by
    dsimp only [u]
    split
    · exact .of_contexts (wantTags_contexts _ _ _)
    · exact ⟨rfl, rfl, rfl, rfl, rfl, rfl, rfl⟩
  refine ⟨u, frame, ?_⟩
  show execStageEvaluation st s = _
  simp only [execStageEvaluation, some_, w.live, w.slots, pick, List.isEmpty_cons, Bool.not_true, Bool.or_false, Bool.false_eq_true, if_false,
    List.length_singleton, Nat.lt_irrefl]
  cases o <;> rfl

/-- The chosen task takes its slot and issues its entry bundle 8 cycles later; no other task, no core and no memory changes. -/
def chosenFor (s : State) (τ : Nat) (k : Task) (x : Nat × Nat) (t : State) : Prop :=
  t.task? τ = some { k with state := .running, cluster := x.1, slot := x.2, dispatchAt := some (s.cycle + 8) } ∧
  t.inputs = s.inputs ++ [(s.cycle + 8, .taskDispatch τ)] ∧ (∀ q, q ≠ τ → t.task? q = s.task? q) ∧ t.cores = s.cores ∧
  t.clusters = s.clusters ∧ t.pmem = s.pmem

theorem Choosable.placed (w : Choosable s st τ k x) (due : ∃ a ∈ (s.stage st).evalAt, a ≤ s.cycle)
    (pick : s.pick st [x] = (some (x, τ, k), 0)) : ∃ t, exec (.stageEvaluation st) s = .next t ∧ chosenFor s τ k x t := by
  obtain ⟨u, frame, runs⟩ := w.evaluates due pick
  have ready : (k.state == .ready) = true := beq_iff_eq.2 w.ready
  have task : ∀ q, u.task? q = s.task? q := fun q => by rw [State.task?, frame.tasks]; rfl
  let v : State := { u with inputs := u.inputs ++ [(u.cycle + 8, Instr.taskDispatch τ)] }
  let dispatched : Task := { k with state := .running, cluster := x.1, slot := x.2, dispatchAt := some (u.cycle + 8) }
  have placed : u.place τ k x = v.setTask τ dispatched := by
    simp only [State.place, ready, if_true]
    exact State.modTask_some (s := v) ((task τ).trans w.task) _
  have cycle : u.cycle = s.cycle := frame.cycle
  refine ⟨v.setTask τ dispatched, runs.trans (congrArg _ placed), ?_, ?_, fun q hq => ?_, frame.cores, frame.clusters, frame.pmem⟩
  · rw [State.task?_setTask_same]
    dsimp only [dispatched]
    rw [cycle]
  · change u.inputs ++ _ = _
    rw [frame.inputs, cycle]
    rfl
  · exact (State.task?_setTask_other v _ hq).trans (task q)

theorem Choosable.left (w : Choosable s st τ k x) (due : ∃ a ∈ (s.stage st).evalAt, a ≤ s.cycle) (pick : s.pick st [x] = (none, 0)) :
    ∃ t, exec (.stageEvaluation st) s = .next t ∧ t.tasks = s.tasks ∧ t.inputs = s.inputs ∧ t.cores = s.cores ∧
      (t.stage st).evalAt = (s.stage st).evalAt.filter (s.cycle < ·) := by
  obtain ⟨u, frame, runs⟩ := w.evaluates due pick
  refine ⟨u, runs, frame.tasks, frame.inputs, frame.cores, ?_⟩
  have stage : u.stage st = (s.evaluated st).stage st := by rw [State.stage, frame.stages, State.stage]
  rw [stage, State.evaluated, State.stage_modStage_same]
  refine List.filter_congr fun a _ => ?_
  rw [← decide_not]
  exact decide_eq_decide.2 Nat.not_le

end

/-- Settles O37. -/
theorem tasksAreChosenAndDispatched : Obligations.TasksAreChosenAndDispatched := by
  refine ⟨fun st τ prio k x s stage task ready free queued live slots prioLow classes before => ?_,
    fun τ k s hk => ⟨taskDispatch_early hk, taskDispatch_starts hk⟩,
    fun d power hot s hh low cool few => headroomPublication_publishes hh low cool few⟩
  have w : Choosable s st τ k x := ⟨stage, task, ready, free, queued, live, slots, classes, before⟩
  refine ⟨stageEvaluation_early, fun due => ⟨fun starving => w.placed due (w.pick_starving starving), fun fed kind tide => ?_, fun fed tide => ?_⟩⟩
  · exact w.placed due (w.pick_chosen fed (w.chosen fed kind prioLow tide))
  · exact w.left due (w.pick_chosen fed (w.idle fed tide))

end Sys2Proof.Machine
end

section
/-!
PROOFS. Tasks leave their cores (R17, R24, R267, R273).
-/
namespace Sys2Proof.Machine

/-! ### What a core that gives its task up keeps -/

/-- One core's counts and engines may have changed, and the clusters; its registers and its storage stand, as do every other core, the
tasks and the memories. -/
structure CoreTouched (c : Nat) (s t : State) : Prop where
  sp : (t.core c).sp = (s.core c).sp
  ls : (t.core c).ls = (s.core c).ls
  regs : (t.core c).regs.s = (s.core c).regs.s
  vectors : (t.core c).regs.va = (s.core c).regs.va
  others : ∀ d, d ≠ c → t.core d = s.core d
  tasks : t.tasks = s.tasks
  pmem : t.pmem = s.pmem
  xs : t.xs = s.xs

theorem CoreTouched.refl (c : Nat) (s : State) : CoreTouched c s s := ⟨rfl, rfl, rfl, rfl, fun _ _ => rfl, rfl, rfl, rfl⟩

theorem CoreTouched.trans {c : Nat} {s t u : State} (a : CoreTouched c s t) (b : CoreTouched c t u) : CoreTouched c s u :=
  ⟨b.sp.trans a.sp, b.ls.trans a.ls, b.regs.trans a.regs, b.vectors.trans a.vectors, fun d hd => (b.others d hd).trans (a.others d hd),
    b.tasks.trans a.tasks, b.pmem.trans a.pmem, b.xs.trans a.xs⟩

/-- An update of the core that keeps its registers and its storage. -/
theorem State.modCore_touched (s : State) (c : Nat) (f : Core → Core)
    (h : (f (s.core c)).sp = (s.core c).sp ∧ (f (s.core c)).ls = (s.core c).ls ∧ (f (s.core c)).regs.s = (s.core c).regs.s ∧
      (f (s.core c)).regs.va = (s.core c).regs.va) : CoreTouched c s (s.modCore c f) := by
  obtain ⟨sp, ls, regs, vectors⟩ := h
  have core := State.core_modCore_same s c f
  exact ⟨core ▸ sp, core ▸ ls, core ▸ regs, core ▸ vectors, fun d hd => State.core_modCore_other s f hd, rfl, rfl, rfl⟩

theorem State.modClu_touched (s : State) (c n : Nat) (f : Cluster → Cluster) : CoreTouched c s (s.modClu n f) :=
  ⟨rfl, rfl, rfl, rfl, fun _ _ => rfl, rfl, rfl, rfl⟩

theorem State.sendStamp_touched (s : State) (c : Nat) : CoreTouched c s (s.sendStamp c) :=
  s.modCore_touched c _ ⟨rfl, rfl, rfl, rfl⟩

theorem foldl_touched {α : Type} {c : Nat} {f : State → α → State} (l : List α) (h : ∀ s a, CoreTouched c s (f s a)) (s : State) :
    CoreTouched c s (l.foldl f s) := by
  induction l generalizing s with
  | nil => exact .refl c s
  | cons a as ih => exact (h s a).trans (ih (f s a))

theorem State.endMembership_touched (s : State) (c i : Nat) (m : Member) (ended : Bool) : CoreTouched c s (s.endMembership c i m none ended) := by
  unfold State.endMembership
  extract_lets p s0
  have sent : CoreTouched c s s0 := by
    dsimp only [s0]
    split
    · exact s.sendStamp_touched c
    · exact .refl c s
  dsimp only
  split
  · exact (sent.trans (State.modClu_touched _ c _ _)).trans (State.modCore_touched _ c _ ⟨rfl, rfl, rfl, rfl⟩)
  · exact sent.trans (State.modClu_touched _ c _ _)

theorem State.dropMemberships_touched (s : State) (c τ rank : Nat) (ended : Bool) :
    CoreTouched c s (s.dropMemberships c τ rank none ended) := by
  unfold State.dropMemberships
  extract_lets s1 stamp base
  have dropped : CoreTouched c s s1 := foldl_touched _ (fun u e => by
    split
    · exact u.endMembership_touched c _ _ ended
    · exact .refl c u) s
  split
  · exact dropped.trans ⟨rfl, rfl, rfl, rfl, fun _ _ => rfl, rfl, rfl, rfl⟩
  · refine dropped.trans (foldl_touched _ (fun u i => ?_) s1)
    dsimp only
    have numbered : CoreTouched c u u.takeId.2 := ⟨rfl, rfl, rfl, rfl, fun _ _ => rfl, rfl, rfl, rfl⟩
    have stamped : ∀ b : Bool, CoreTouched c u (if b then u.takeId.2.sendStamp c else u.takeId.2) := fun b => by
      cases b
      · exact numbered
      · exact numbered.trans (State.sendStamp_touched _ c)
    exact (stamped _).trans (State.modCore_touched _ c _ ⟨rfl, rfl, rfl, rfl⟩)

/-- What stands when the only core of a team has given its task up. -/
def leftBy (τ c : Nat) (s t : State) : Prop :=
  (t.core c).task = none ∧ (t.core c).sp = (s.core c).sp ∧ (t.core c).ls = (s.core c).ls ∧
  (t.core c).regs.s = (s.core c).regs.s ∧ (t.core c).regs.va = (s.core c).regs.va ∧ (t.core c).seq.loops = [] ∧
  (∀ d, d ≠ c → t.core d = s.core d) ∧ (∀ q, q ≠ τ → t.task? q = s.task? q) ∧ t.pmem = s.pmem ∧ t.xs = s.xs

theorem leftBy_of_same {τ c : Nat} {s t u : State} (h : leftBy τ c s t) (cores : u.cores = t.cores)
    (tasks : ∀ q, q ≠ τ → u.task? q = t.task? q) (pmem : u.pmem = t.pmem) (xs : u.xs = t.xs) : leftBy τ c s u := by
  have core : ∀ d, u.core d = t.core d := fun d => by rw [State.core, cores, State.core]
  obtain ⟨task, sp, ls, regs, vectors, loops, others, others', pmem', xs'⟩ := h
  rw [leftBy, core]
  exact ⟨task, sp, ls, regs, vectors, loops, fun d hd => (core d).trans (others d hd), fun q hq => (tasks q hq).trans (others' q hq),
    pmem.trans pmem', xs.trans xs'⟩

theorem State.releaseTeam_leaves {s : State} {τ c : Nat} {k : Task} (hk : s.task? τ = some k) (cores : s.coresOf τ = [c])
    (own : (s.core c).task = some τ) (flushed : (s.core c).eng.unWrites = []) (keep : Bool) :
    leftBy τ c s (s.releaseTeam τ keep) ∧ ∃ w, (s.releaseTeam τ keep).task? τ = some { k with wlog := w } := by
  obtain ⟨r, e, core, none⟩ := s.closeSegment_core c
  have closed := s.closeSegment_closed c
  obtain ⟨w, tasks⟩ := State.closeSegment_tasks own hk
  have flushed' : ((s.closeSegment c).core c).eng.unWrites = [] := by rw [core]; exact none flushed
  let u := (s.closeSegment c).modCore c fun k => k.modEng fun e => { e with unWrites := [] }
  let v := (u.dropMemberships c τ (s.core c).rank Option.none keep).modClu (clusterOf c) fun k =>
    { k with waits := k.waits.filter fun w => w.tid != τ }
  let last := fun k : Core => k.modRcv fun r =>
    { r with seg := r.seg + 1, rerun := Option.none, deps := [], last := some τ,
             keepUntil := if keep then s.cycle + Config.sounderBound else 0,
             rps := if keep then (r.rps.take 1).map fun p => { p with freedAt := some (s.cycle + Config.sounderBound) } else [] }
  have touched : CoreTouched c (s.closeSegment c) v :=
    ((State.modCore_touched _ c _ ⟨rfl, rfl, rfl, rfl⟩).trans (u.dropMemberships_touched c τ _ keep)).trans (State.modClu_touched _ c _ _)
  have free : ((v.releaseCore c).core c).task = Option.none ∧ ((v.releaseCore c).core c).seq.loops = [] := by
    rw [State.releaseCore, State.core_modCore_same]
    exact ⟨rfl, rfl⟩
  have freed : CoreTouched c v (v.releaseCore c) := State.modCore_touched v c _ ⟨rfl, rfl, rfl, rfl⟩
  have all := (touched.trans freed).trans (State.modCore_touched (v.releaseCore c) c last ⟨rfl, rfl, rfl, rfl⟩)
  have here : ((v.releaseCore c).modCore c last).core c = last ((v.releaseCore c).core c) := State.core_modCore_same _ _ _
  have release : s.releaseTeam τ keep = (v.releaseCore c).modCore c last := by
    simp only [State.releaseTeam, cores, List.foldl_cons, List.foldl_nil, State.flushUn_none flushed']
    rfl
  obtain ⟨mine, theirs⟩ := State.task?_of_put (all.tasks.trans tasks)
  rw [release]
  refine ⟨⟨?_, all.sp.trans closed.sp, all.ls.trans ?_, all.regs.trans (congrArg Regs.s closed.regs), all.vectors.trans (congrArg Regs.va closed.regs),
    ?_, fun d hd => (all.others d hd).trans (closed.others d hd), theirs, all.pmem.trans closed.pmem, all.xs.trans closed.xs⟩, w, mine⟩
  · rw [here]; exact free.1
  · rw [core]
  · rw [here]; exact free.2

/-! ### A task leaves (R24, R273) -/

/-- The only core of a task has landed its results, and what it owes its cluster has room. -/
structure Leavable (s : State) (τ c : Nat) (k : Task) : Prop where
  task : s.task? τ = some k
  cores : s.coresOf τ = [c]
  calm : k.event = none
  own : (s.core c).task = some τ
  flight : (s.core c).seq.flight = []
  loads : (s.core c).seq.gloads = []
  ldmc : (s.core c).eng.ldmc = none
  flushed : (s.core c).eng.unWrites = []
  room : (s.clu (c / 8)).held.length ≤ 16384

section
variable {s : State} {τ c : Nat} {k : Task}

theorem State.unStuck_flushed {s : State} {c : Nat} (flushed : (s.core c).eng.unWrites = []) (room : (s.clu (c / 8)).held.length ≤ 16384) :
    s.unStuck c = false := by
  have few : ¬ 16384 < (s.clu (clusterOf c)).held.length + 0 := by
    rw [clusterOf]
    omega
  simp only [State.unStuck, flushed, State.noRoom]
  exact Bool.and_eq_false_iff.2 (.inl (decide_eq_false few))

/-- Nothing stands in the way of a landed task's leaving but a swap under way. -/
theorem Leavable.ready (w : Leavable s τ c k) (free : k.leaving ≠ none ∨ k.swap = .none) :
    ((s.coresOf τ).isEmpty || k.event.isSome || (k.leaving.isNone && k.swap != .none) || !((s.coresOf τ).all fun c => (s.core c).landed) ||
      (s.coresOf τ).any s.unStuck) = false := by
  have landed : (s.core c).landed = true := by simp only [Core.landed, w.flight, w.loads, w.ldmc]; rfl
  have stays : (k.leaving.isNone && k.swap != .none) = false := by
    obtain h | h := free
    · cases hl : k.leaving with
      | none => exact absurd hl h
      | some l => rfl
    · rw [h]; exact Bool.and_false _
  simp only [w.cores, w.calm, stays, landed, State.unStuck_flushed w.flushed w.room, List.all_cons, List.all_nil, List.any_cons, List.any_nil]
  rfl

/-- R267: an aborted task leaves its core. -/
theorem Leavable.aborted (w : Leavable s τ c k) (away : k.leaving ≠ none) :
    ∃ t n, exec (.taskLeavesCores τ) s = .next t ∧ leftBy τ c s t ∧ t.task? τ = some n ∧ n.leaving = none ∧ n.state = k.state ∧ n.key = k.key := by
  obtain ⟨left, wl, task⟩ := State.releaseTeam_leaves w.task w.cores w.own w.flushed false
  obtain ⟨l, hl⟩ := Option.ne_none_iff_exists'.1 away
  refine ⟨((s.releaseTeam τ false).setTask τ { k with wlog := wl, leaving := none }).askEvaluation k.stage s.cycle, _, ?_, ?_,
    State.task?_setTask_same .., rfl, rfl, rfl⟩
  · rw [← State.modTask_some task fun x => { x with leaving := none }]
    have ready := w.ready (.inl away)
    rw [hl] at ready
    show execTaskLeavesCores τ s = _
    simp only [execTaskLeavesCores, w.task, ready, hl, Bool.false_eq_true, if_false]
  · exact leftBy_of_same left rfl (fun q hq => State.task?_setTask_other _ _ hq) rfl rfl

/-- R273, R284: an ended task leaves once W has passed since the entry of its last segment. -/
theorem Leavable.ended (w : Leavable s τ c k) (stays : k.leaving = none) (swap : k.swap = .none) (ended : k.ender ≠ none)
    (settled : (s.core c).eng.ops = []) (popped : (s.core c).eng.evq = []) (first : (s.core c).rcv.rerun = none)
    (clear : k.deferred = none) (running : k.state = .running) :
    ((s.core c).rcv.segStart + 1620 ≤ s.cycle → ∃ t n, exec (.taskLeavesCores τ) s = .next t ∧ leftBy τ c s t ∧ t.task? τ = some n ∧
      n.state = .ended ∧ n.key = k.key) ∧
    (s.cycle < (s.core c).rcv.segStart + 1620 → exec (.taskLeavesCores τ) s = .next s) := by
  obtain ⟨left, wl, task⟩ := State.releaseTeam_leaves w.task w.cores w.own w.flushed true
  obtain ⟨rank, hr⟩ := Option.ne_none_iff_exists'.1 ended
  let lead := ([c].find? fun d => (s.core d).rank == rank).getD c
  let out := fun x : Task => { x with state := .ended, ender := none, lead := lead }
  have done : exec (.taskLeavesCores τ) s =
      if (s.core c).rcv.segStart + 1620 ≤ s.cycle then .next (((s.releaseTeam τ true).modTask τ out).askEvaluation k.stage (s.cycle + Config.sounderBound)) else .next s := by
    have ready := w.ready (.inr swap)
    rw [stays, w.cores] at ready
    have records : s.recordsSettled τ = true := by simp only [State.recordsSettled, w.cores, List.all_cons, List.all_nil, settled]; rfl
    have last : [c].foldl (fun b d => if (s.core b).seq.haltAt ≤ (s.core d).seq.haltAt then d else b) ([c].headD 0) = c := ite_self c
    have none_ : s.faultRecord (c :: [c].filter (· != c)) = none := by
      have only : [c].filter (· != c) = [] := by simp
      simp only [only, State.faultRecord, List.filterMap_cons, List.filterMap_nil, popped, List.find?_nil, Option.map_none, List.head?_nil]
    have young : [c].any (fun d => (s.core d).rcv.rerun.isSome) = false := by simp [first]
    show execTaskLeavesCores τ s = _
    simp only [execTaskLeavesCores, w.task, stays, ready, hr, records, clear, w.cores, last, none_, young, running, Option.isNone_some,
      Option.isSome_none, Bool.false_and, Bool.and_false, Bool.not_true, Bool.or_false, Bool.false_eq_true, if_false]
    have busy : (TaskState.running == TaskState.ended || TaskState.running == TaskState.committed) = false := rfl
    rw [busy, if_neg Bool.false_ne_true, List.all_cons, List.all_nil, Bool.and_true]
    by_cases late : (s.core c).rcv.segStart + 1620 ≤ s.cycle
    · rw [if_pos late, decide_eq_true (show (s.core c).rcv.segStart + Config.W ≤ s.cycle from late)]
      exact if_neg Bool.false_ne_true
    · rw [if_neg late, decide_eq_false (show ¬ (s.core c).rcv.segStart + Config.W ≤ s.cycle from late)]
      exact if_pos rfl
  rw [State.modTask_some task] at done
  exact ⟨fun late => ⟨_, out { k with wlog := wl }, done.trans (if_pos late), leftBy_of_same left rfl (fun q hq => State.task?_setTask_other _ _ hq) rfl rfl,
    State.task?_setTask_same .., rfl, rfl⟩, fun early => done.trans (if_neg (by omega))⟩

end

end Sys2Proof.Machine
end

section
/-!
PROOFS. The frontier task and the burst of its writes (R257, R264).
-/
namespace Sys2Proof.Machine

/-! ### Writes enter the breakwaters (R264) -/

/-- A write of a committed task waits in a cluster's breakwater. -/
def heldAs (st pasid : Nat) (key : Key) (cycle : Nat) (h : Held) : Prop := h.since = cycle ∧ h.key = key ∧ h.stage = st ∧ h.pasid = pasid

/-- What waiting writes leave, and where they wait. -/
structure WritesHeld (st pasid : Nat) (key : Key) (l : List Write) (s t : State) : Prop where
  cores : t.cores = s.cores
  tasks : t.tasks = s.tasks
  stages : t.stages = s.stages
  pmem : t.pmem = s.pmem
  xs : t.xs = s.xs
  cycle : t.cycle = s.cycle
  none : l = [] → t.clusters = s.clusters
  held : ∀ cl, ∃ new, (t.clu cl).held = (s.clu cl).held ++ new ∧ new.map (·.w) = l.filter (fun w => decide (w.core / 8 = cl)) ∧
    ∀ h ∈ new, heldAs st pasid key s.cycle h

theorem State.hold1_held (s : State) (st pasid : Nat) (key : Key) (w : Write) :
    WritesHeld st pasid key [w] s (s.hold1 (clusterOf w.core) st pasid key w) := by
  refine ⟨rfl, rfl, rfl, rfl, rfl, rfl, fun h => absurd h (List.cons_ne_nil _ _), fun cl => ?_⟩
  let h : Held := { w := w, pasid := pasid, stage := st, key := key, ord := s.nextId, since := s.cycle }
  let f := fun k : Cluster => { k with held := k.held ++ [h] }
  have taken : s.hold1 (clusterOf w.core) st pasid key w = ({ s with nextId := s.nextId + 1 } : State).modClu (clusterOf w.core) f := rfl
  rw [taken]
  by_cases here : w.core / 8 = cl
  · refine ⟨[h], ?_, ?_, ?_⟩
    · rw [← here]
      exact (congrArg Cluster.held (State.clu_modClu_same ({ s with nextId := s.nextId + 1 } : State) (clusterOf w.core) f) :)
    · simp [here, h]
    · intro x hh
      rw [List.mem_singleton.1 hh]
      exact ⟨rfl, rfl, rfl, rfl⟩
  · refine ⟨[], ?_, by simp [here], fun h hh => absurd hh List.not_mem_nil⟩
    rw [State.clu_modClu_other _ _ (show cl ≠ clusterOf w.core from Ne.symm here), List.append_nil]
    rfl

theorem WritesHeld.cons {st pasid : Nat} {key : Key} {w : Write} {l : List Write} {s t u : State} (a : WritesHeld st pasid key [w] s t)
    (b : WritesHeld st pasid key l t u) : WritesHeld st pasid key (w :: l) s u := by
  refine ⟨b.cores.trans a.cores, b.tasks.trans a.tasks, b.stages.trans a.stages, b.pmem.trans a.pmem, b.xs.trans a.xs, b.cycle.trans a.cycle,
    fun h => absurd h (List.cons_ne_nil _ _), fun cl => ?_⟩
  obtain ⟨x, hx, wx, allx⟩ := a.held cl
  obtain ⟨y, hy, wy, ally⟩ := b.held cl
  refine ⟨x ++ y, by rw [hy, hx, List.append_assoc], ?_, fun h hh => ?_⟩
  · rw [List.map_append, wx, wy, ← List.filter_append, List.singleton_append]
  · obtain hh | hh := List.mem_append.1 hh
    · exact allx h hh
    · have := ally h hh
      rwa [a.cycle] at this

theorem foldl_hold1 (st pasid : Nat) (key : Key) (l : List Write) (plain : ∀ w ∈ l, w.un = false) (s : State) :
    WritesHeld st pasid key l s (l.foldl (fun (s : State) w =>
      (if w.un then s.modCore w.core fun k => k.modEng fun e => updateLine e w else s).hold1 (clusterOf w.core) st pasid key w) s) := by
  induction l generalizing s with
  | nil => exact ⟨rfl, rfl, rfl, rfl, rfl, rfl, fun _ => rfl, fun cl => ⟨[], (List.append_nil _).symm, rfl, fun h hh => absurd hh List.not_mem_nil⟩⟩
  | cons w ws ih =>
    rw [List.foldl_cons, plain w List.mem_cons_self, if_neg Bool.false_ne_true]
    exact (s.hold1_held st pasid key w).cons (ih (fun v hv => plain v (List.mem_cons_of_mem _ hv)) _)

/-! ### The burst (R264) -/

/-- The granules of a task's writes, once each. -/
def Task.granules (k : Task) : List Nat := (k.wlog.map Write.gran).dedup
/-- Is a write among those of the first 64 granules? -/
def Task.enters (k : Task) (w : Write) : Bool := decide (w.gran ∈ k.granules.take 64)

theorem State.noRoom_few {s : State} {cl : Nat} {l : List Write} {n : Nat} (len : l.length ≤ n) (room : (s.clu cl).held.length + n ≤ 16384) :
    s.noRoom cl (entryKeys l) = false := by
  have keys : (entryKeys l).length ≤ l.length := by
    rw [entryKeys]
    exact (List.dedup_sublist _).length_le.trans (Nat.le_of_eq (List.length_map _))
  have few : ¬ 16384 < (s.clu cl).held.length + (entryKeys l).length := by omega
  exact Bool.and_eq_false_iff.2 (.inl (decide_eq_false few))

/-- The first 64 granules of a task's writes enter the breakwaters when each has room. -/
theorem State.burst_enters {s : State} {τ : Nat} {k : Task} (hk : s.task? τ = some k) (plain : ∀ w ∈ k.wlog, w.un = false)
    (room : ∀ cl, (s.clu cl).held.length + k.wlog.length ≤ 16384) :
    WritesHeld k.stage k.pasid k.key (k.wlog.filter k.enters)
      ((s.commitGranules k.stage (k.granules.take 64)).setTask τ { k with wlog := k.wlog.filter fun w => !k.enters w }) (s.burst τ) := by
  have entering : k.enters = fun w : Write => (k.granules.take 64).contains w.gran := funext fun w => by
    rw [Task.enters, List.contains_eq_mem]
  have free : (((k.wlog.filter k.enters).map fun w => clusterOf w.core).dedup.any fun cl =>
      s.noRoom cl (entryKeys ((k.wlog.filter k.enters).filter fun w => clusterOf w.core == cl))) = false := by
    rw [List.any_eq_false]
    intro cl _
    rw [State.noRoom_few ((List.length_filter_le _ _).trans (List.length_filter_le _ _)) (room cl)]
    exact Bool.false_ne_true
  have burst : s.burst τ = (k.wlog.filter k.enters).foldl (fun (s : State) w =>
      (if w.un then s.modCore w.core fun k => k.modEng fun e => updateLine e w else s).hold1 (clusterOf w.core) k.stage k.pasid k.key w)
      ((s.commitGranules k.stage (k.granules.take 64)).setTask τ { k with wlog := k.wlog.filter fun w => !k.enters w }) := by
    have hk' : (s.commitGranules k.stage (k.granules.take 64)).task? τ = some k := hk
    rw [← State.modTask_some hk' fun x => { x with wlog := x.wlog.filter fun w => !k.enters w }]
    rw [entering] at free ⊢
    simp only [State.burst, hk]
    exact if_neg (ne_true_of_eq_false free)
  rw [burst]
  exact foldl_hold1 _ _ _ _ (fun w hw => plain w (List.mem_filter.1 hw).1) _

/-! ### The frontier (R257) -/

theorem State.deliverDeferred_none {s : State} {τ : Nat} {k : Task} (hk : s.task? τ = some k) (h : k.deferred = none) :
    s.deliverDeferred τ = s := by
  simp only [State.deliverDeferred, hk, h]

/-- A task as it becomes the frontier task: it keeps no sets and is held back no more. -/
def Task.led (k : Task) (cycle : Nat) : Task :=
  { k with lines := [], heldBack := false, agedAt := if k.heldBack then some cycle else k.agedAt }

section
variable {s : State} {st τ : Nat} {k : Task}

/-- R257, R264: the candidate becomes the frontier task and its burst begins. -/
theorem frontierAdvance_leads (hk : s.task? τ = some k) (stage : k.stage = st) (vacant : (s.stage st).frontier = none)
    (candidate : s.frontierCandidate st = some τ) (rested : (s.stage st).lastRetire ≠ some s.cycle) (kept : k.abortDue = none)
    (clear : k.deferred = none) (plain : ∀ w ∈ k.wlog, w.un = false) (room : ∀ cl, (s.clu cl).held.length + k.wlog.length ≤ 16384) :
    let grans := (k.wlog.map Write.gran).dedup
    let now := fun (w : Write) => decide (w.gran ∈ grans.take 64)
    ∃ t n, exec (.frontierAdvance st) s = .next t ∧ (t.stage st).frontier = some τ ∧ (t.stage st).commitPoint = k.key ∧
      (t.stage st).burstEnd = s.cycle + (grans.length + 63) / 64 ∧ t.task? τ = some n ∧
      n = { k with lines := [], heldBack := false, agedAt := n.agedAt, wlog := k.wlog.filter fun w => !now w } ∧
      (k.heldBack = false → n.agedAt = k.agedAt) ∧ t.isFrontier τ = true ∧
      (∀ cl, ∃ new, (t.clu cl).held = (s.clu cl).held ++ new ∧
        new.map (·.w) = (k.wlog.filter fun w => now w && decide (w.core / 8 = cl)) ∧
        ∀ h ∈ new, h.since = s.cycle ∧ h.key = k.key ∧ h.stage = st ∧ h.pasid = k.pasid) ∧
      (∀ q, q ≠ τ → t.task? q = s.task? q) ∧ t.cores = s.cores ∧ (k.wlog = [] → t.clusters = s.clusters) ∧ t.pmem = s.pmem ∧
      t.xs = s.xs := by
  intro grans now
  let b := (grans.length + 63) / 64
  let lead := fun g : Stage => { g with frontier := some τ, commitPoint := k.key, burstEnd := s.cycle + b }
  let v := s.modStage st lead
  let k1 := k.led s.cycle
  let k2 : Task := { k1 with wlog := k.wlog.filter fun w => !now w }
  let u := v.setTask τ k1
  let w := (u.commitGranules k.stage (grans.take 64)).setTask τ k2
  have burst : WritesHeld k.stage k.pasid k.key (k.wlog.filter now) w (u.burst τ) :=
    State.burst_enters (s := u) (k := k1) (State.task?_setTask_same ..) plain room
  have task : ∀ q, (u.burst τ).task? q = w.task? q := fun q => by rw [State.task?, burst.tasks, State.task?]
  have here : (u.burst τ).task? τ = some k2 := (task τ).trans (State.task?_setTask_same ..)
  have stageNow : ((u.burst τ).stage st).frontier = some τ ∧ ((u.burst τ).stage st).commitPoint = k.key ∧
      ((u.burst τ).stage st).burstEnd = s.cycle + b := by
    have led : v.stage st = lead (s.stage st) := State.stage_modStage_same ..
    let enter := fun g : Stage => { g with committed := (g.committed ++ grans.take 64).dedup }
    have granules : w.stage st = enter (v.stage st) := by
      rw [← stage]
      exact State.stage_modStage_same v k.stage enter
    rw [State.stage, burst.stages]
    change (w.stage st).frontier = _ ∧ (w.stage st).commitPoint = _ ∧ (w.stage st).burstEnd = _
    rw [granules, led]
    exact ⟨rfl, rfl, rfl⟩
  have runs : exec (.frontierAdvance st) s = .next (u.burst τ) := by
    have waits : ((s.stage st).lastRetire == some s.cycle || k.abortDue.isSome) = false := by
      rw [beq_eq_false_iff_ne.2 rested, kept]
      rfl
    have hv : v.task? τ = some k := hk
    rw [← State.deliverDeferred_none here (show k2.deferred = none from clear), ← show v.modTask τ (fun x => x.led s.cycle) = u from State.modTask_some hv _]
    show execFrontierAdvance st s = _
    simp only [execFrontierAdvance, vacant, candidate, hk, Option.bind_some, waits, Bool.false_eq_true, if_false]
    rfl
  obtain ⟨front, point, fin⟩ := stageNow
  refine ⟨u.burst τ, k2, runs, front, point, fin, here, rfl, fun h => ?_, ?_, fun cl => ?_,
    fun q hq => ?_, burst.cores, fun h => ?_, burst.pmem, burst.xs⟩
  · change (if k.heldBack then _ else _) = _
    rw [h]
    rfl
  · rw [State.isFrontier, here]
    change (((u.burst τ).stage k.stage).frontier == some τ) = true
    rw [stage, front, beq_self_eq_true]
  · obtain ⟨new, held, writes, all⟩ := burst.held cl
    refine ⟨new, held, writes.trans ?_, fun h hh => ?_⟩
    · rw [List.filter_filter]
      exact List.filter_congr fun w _ => Bool.and_comm _ _
    · obtain ⟨since, key, st', pasid⟩ := all h hh
      exact ⟨since, key, st'.trans stage, pasid⟩
  · exact ((task q).trans (State.task?_setTask_other _ k2 hq)).trans (State.task?_setTask_other v k1 hq)
  · exact burst.none (by rw [h]; rfl)

/-- A task that has been told to abort in this cycle does not become it (assumption log 20). -/
theorem frontierAdvance_told (hk : s.task? τ = some k) (vacant : (s.stage st).frontier = none) (candidate : s.frontierCandidate st = some τ)
    (told : k.abortDue ≠ none) : exec (.frontierAdvance st) s = .next s := by
  have waits : ((s.stage st).lastRetire == some s.cycle || k.abortDue.isSome) = true := by
    obtain ⟨a, ha⟩ := Option.ne_none_iff_exists'.1 told
    rw [ha]
    exact Bool.or_true _
  show execFrontierAdvance st s = _
  simp only [execFrontierAdvance, vacant, candidate, hk, Option.bind_some, waits, if_true]

theorem frontierAdvance_none (vacant : (s.stage st).frontier = none) (none_ : s.frontierCandidate st = none) :
    exec (.frontierAdvance st) s = .next s := by
  show execFrontierAdvance st s = _
  simp only [execFrontierAdvance, vacant, none_]

/-- One that no longer is the candidate is the frontier task no more. -/
theorem frontierAdvance_yields (lead : (s.stage st).frontier = some τ) (other : s.frontierCandidate st ≠ some τ) :
    ∃ t, exec (.frontierAdvance st) s = .next t ∧ (t.stage st).frontier = none ∧ t.tasks = s.tasks ∧ t.cores = s.cores ∧
      t.clusters = s.clusters ∧ t.pmem = s.pmem := by
  have not : (s.frontierCandidate st != some τ) = true := bne_iff_ne.2 other
  refine ⟨s.modStage st fun g => { g with frontier := none }, ?_, congrArg Stage.frontier (State.stage_modStage_same s st fun g => { g with frontier := none }),
    rfl, rfl, rfl, rfl⟩
  show execFrontierAdvance st s = _
  simp only [execFrontierAdvance, lead, not, if_true]

end

end Sys2Proof.Machine
end

section
/-!
PROOFS. The frontier task retires (R249, R267, R275).
-/
namespace Sys2Proof.Machine

/-! ### Nothing is held back -/

theorem State.unhold_none {s : State} {st : Nat} {f : Nat → Bool} (h : ∀ e ∈ s.tasks, e.2.heldBack = false) : s.unhold st f = s := by
  have empty : (s.inFlight st).filter (fun e => e.2.heldBack && f e.1) = [] :=
    List.filter_eq_nil_iff.2 fun e he => by
      rw [h e (List.mem_filter.1 he).1]
      exact Bool.false_ne_true
  simp only [State.unhold, empty, List.isEmpty_nil, if_true]

/-- A task that is not held back may be put in the place of another. -/
theorem notHeldBack_put {s t : State} {τ : Nat} {n : Task} (tasks : t.tasks = Table.put s.tasks τ n) (hn : n.heldBack = false)
    (h : ∀ e ∈ s.tasks, e.2.heldBack = false) : ∀ e ∈ t.tasks, e.2.heldBack = false := by
  intro e he
  rw [tasks] at he
  obtain rfl | he := mem_of_mem_put he
  · exact hn
  · exact h e he

/-! ### The retirement itself (R275) -/

/-- A frontier task that has ended, with its writes committed and its burst over, in a stage where nothing is held back. -/
structure Retirable (s : State) (st τ : Nat) (k : Task) : Prop where
  task : s.task? τ = some k
  stage : k.stage = st
  front : (s.stage st).frontier = some τ
  ended : k.state = .ended
  written : k.wlog = []
  calm : k.event = none
  burst : (s.stage st).burstEnd ≤ s.cycle + 1
  rested : (s.stage st).lastRetire ≠ some s.cycle
  free : ∀ e ∈ s.tasks, e.2.heldBack = false

/-- A committed task. -/
def Task.retire (k : Task) (cycle : Nat) : Task := { k with state := .committed, committedAt := cycle }
/-- The stage that has no frontier task after a retirement. -/
def Stage.vacate (g : Stage) (cycle : Nat) : Stage := { g with frontier := none, lastRetire := some cycle }

/-- The chip as a retirement leaves it, before what the tile and the kind of the task bring about. -/
def State.retired (s : State) (st τ lead : Nat) : State :=
  ((s.commitStamp lead).modTask τ fun x => x.retire s.cycle).modStage st fun g => g.vacate s.cycle

/-- What a retirement brings about whatever the task. -/
structure RetiredTo (s : State) (st τ : Nat) (k : Task) (t : State) : Prop where
  vacant : (t.stage st).frontier = none
  last : (t.stage st).lastRetire = some s.cycle
  task : ∃ n, t.task? τ = some n ∧ n.state = .committed ∧ n.committedAt = s.cycle
  cores : coresButCount k.lead s t
  clusters : t.clusters = s.clusters
  pmem : t.pmem = s.pmem

section
variable {s : State} {st τ : Nat} {k : Task}

theorem State.commitStamp_count (s : State) (c : Nat) : coresButCount c s (s.commitStamp c) := by
  have core : (s.commitStamp c).core c = _ := State.core_modCore_same (s.sendStamp c) c _
  have before : (s.sendStamp c).core c = _ := State.core_modCore_same s c _
  refine ⟨fun d hd => (State.core_modCore_other _ _ hd).trans (State.core_modCore_other s _ hd), ?_⟩
  rw [core, before]
  exact ⟨rfl, rfl, rfl, rfl, rfl, rfl, rfl⟩

theorem Retirable.retired_tasks (w : Retirable s st τ k) : (s.retired st τ k.lead).tasks = Table.put s.tasks τ (k.retire s.cycle) :=
  congrArg State.tasks (State.modTask_some (s := s.commitStamp k.lead) w.task _)

theorem Retirable.retired_stage (w : Retirable s st τ k) : (s.retired st τ k.lead).stage st = (s.stage st).vacate s.cycle := by
  refine (State.stage_modStage_same _ st _).trans (congrArg (fun g : Stage => g.vacate s.cycle) ?_)
  rw [State.modTask_some (s := s.commitStamp k.lead) w.task]
  rfl

theorem Retirable.retired_rest (w : Retirable s st τ k) : (s.retired st τ k.lead).cores = (s.commitStamp k.lead).cores ∧
    (s.retired st τ k.lead).clusters = s.clusters ∧ (s.retired st τ k.lead).pmem = s.pmem ∧
    (s.retired st τ k.lead).contexts = s.contexts ∧ (s.retired st τ k.lead).nextId = s.nextId := by
  rw [State.retired, State.modTask_some (s := s.commitStamp k.lead) w.task]
  exact ⟨rfl, rfl, rfl, rfl, rfl⟩

/-- A state with the tasks, the cores and the stage of the retirement. -/
theorem Retirable.retiredTo (w : Retirable s st τ k) {t : State} (stage : (t.stage st).frontier = none ∧ (t.stage st).lastRetire = some s.cycle)
    (task : ∃ n, t.task? τ = some n ∧ n.state = .committed ∧ n.committedAt = s.cycle) (cores : t.cores = (s.retired st τ k.lead).cores)
    (clusters : t.clusters = s.clusters) (pmem : t.pmem = s.pmem) : RetiredTo s st τ k t := by
  refine ⟨stage.1, stage.2, task, ?_, clusters, pmem⟩
  have core : ∀ d, t.core d = (s.commitStamp k.lead).core d := fun d => by rw [State.core, cores, w.retired_rest.1, State.core]
  have count := s.commitStamp_count k.lead
  unfold coresButCount at count ⊢
  simpa only [core] using count

theorem Retirable.plain (w : Retirable s st τ k) : RetiredTo s st τ k (s.retired st τ k.lead) := by
  obtain ⟨cores, clusters, pmem, -, -⟩ := w.retired_rest
  refine w.retiredTo ?_ ⟨_, (State.task?_of_put w.retired_tasks).1, rfl, rfl⟩ rfl clusters pmem
  rw [w.retired_stage]
  exact ⟨rfl, rfl⟩

/-- The W task of a retired B task, if its stage has a budget for it (R275). -/
def State.createNext (s : State) (st : Nat) (k : Task) (p : Program) : State :=
  let (seq, u) := s.takeSeq st 511
  let w := Table.get p.budgets 0 TaskKind.w.code
  if w = 0 then u
  else (u.create st .w k.tag { ts := Nat.min (k.key.ts + p.woffset) (2 ^ 64 - 1), origin := 511, seq := seq } w none none (u.stampOf k.lead)).2

/-- The tile that created a retired task gives its slot up. -/
def State.dropTile (s : State) (τ : Nat) (k : Task) : State :=
  match k.tile with
  | some q => s.tileCommitted k.pasid τ q
  | none => s

theorem Retirable.ready (w : Retirable s st τ k) : (k.state != .ended || !k.wlog.isEmpty || k.event.isSome ||
    decide (s.cycle + 1 < (s.stage st).burstEnd) || (s.stage st).lastRetire == some s.cycle) = false := by
  rw [w.ended, w.written, w.calm, beq_eq_false_iff_ne.2 w.rested, decide_eq_false (Nat.not_lt.2 w.burst)]
  rfl

theorem Retirable.runs (w : Retirable s st τ k) (kind : k.kind ≠ .b) :
    exec (.taskRetire st) s = .next (((s.retired st τ k.lead).dropTile τ k).unhold st fun _ => true) := by
  have ready := w.ready
  have other : (k.kind != .b) = true := bne_iff_ne.2 kind
  show execTaskRetire st s = _
  simp only [execTaskRetire, w.front, Option.bind_some, w.task, Option.map_some, ready, other, Bool.false_eq_true, if_false, if_true]
  rfl

theorem Retirable.runs_b (w : Retirable s st τ k) (kind : k.kind = .b) : exec (.taskRetire st) s = .next
    ((((s.retired st τ k.lead).dropTile τ k).unhold st fun _ => true).createNext st k ((s.stage st).prog.getD {})) := by
  have ready := w.ready
  have b : (k.kind != .b) = false := by rw [kind]; rfl
  show execTaskRetire st s = _
  simp only [execTaskRetire, w.front, Option.bind_some, w.task, Option.map_some, ready, b, Bool.false_eq_true, if_false]
  split
  · next zero => exact congrArg Host.Outcome.next (if_pos zero).symm
  · next more => exact congrArg Host.Outcome.next (if_neg more).symm

theorem Retirable.free_retired (w : Retirable s st τ k) : ∀ e ∈ (s.retired st τ k.lead).tasks, e.2.heldBack = false :=
  notHeldBack_put w.retired_tasks (w.free _ (mem_of_get? w.task)) w.free

/-- A task that no tile has created. -/
theorem Retirable.untiled (w : Retirable s st τ k) (tile : k.tile = none) :
    ((s.retired st τ k.lead).dropTile τ k).unhold st (fun _ => true) = s.retired st τ k.lead := by
  simp only [State.dropTile, tile]
  exact State.unhold_none w.free_retired

theorem taskRetire_plain (w : Retirable s st τ k) (kind : k.kind ≠ .b) (tile : k.tile = none) :
    ∃ t n, exec (.taskRetire st) s = .next t ∧ (t.stage st).frontier = none ∧ t.task? τ = some n ∧ n.state = .committed ∧
      n.committedAt = s.cycle ∧ (t.stage st).lastRetire = some s.cycle ∧ (∀ q, q ≠ τ → t.task? q = s.task? q) ∧
      coresButCount k.lead s t ∧ t.clusters = s.clusters ∧ t.pmem = s.pmem := by
  obtain ⟨vacant, last, ⟨n, task, state, at_⟩, cores, clusters, pmem⟩ := w.plain
  refine ⟨_, n, w.runs kind, ?_⟩
  rw [w.untiled tile]
  exact ⟨vacant, task, state, at_, last, (State.task?_of_put w.retired_tasks).2, cores, clusters, pmem⟩

/-! ### The W task of a retired B task (R275) -/

theorem taskRetire_unfollowed (w : Retirable s st τ k) (kind : k.kind = .b) (tile : k.tile = none)
    (none_ : Table.get ((s.stage st).prog.getD {}).budgets 0 TaskKind.w.code = 0) :
    ∃ t, exec (.taskRetire st) s = .next t ∧ RetiredTo s st τ k t ∧ ∀ q, q ≠ τ → t.task? q = s.task? q := by
  obtain ⟨-, clusters, pmem, -, -⟩ := w.retired_rest
  let u := ((s.retired st τ k.lead).takeSeq st 511).2
  have runs : exec (.taskRetire st) s = .next u := by
    rw [w.runs_b kind, w.untiled tile]
    exact congrArg Host.Outcome.next (if_pos none_)
  refine ⟨u, runs, w.retiredTo ?_ w.plain.task rfl clusters pmem, (State.task?_of_put w.retired_tasks).2⟩
  have stage := w.retired_stage
  rw [show u.stage st = _ from State.stage_modStage_same (s.retired st τ k.lead) st _, stage]
  exact ⟨rfl, rfl⟩

theorem taskRetire_followed (w : Retirable s st τ k) (kind : k.kind = .b) (tile : k.tile = none) (other : τ ≠ s.nextId)
    (some_ : Table.get ((s.stage st).prog.getD {}).budgets 0 TaskKind.w.code ≠ 0) :
    let prog := (s.stage st).prog.getD {}
    let budget := Table.get prog.budgets 0 TaskKind.w.code
    ∃ t n, exec (.taskRetire st) s = .next t ∧ RetiredTo s st τ k t ∧ t.task? s.nextId = some n ∧ n.kind = .w ∧ n.tag = k.tag ∧
      n.stage = st ∧ n.state = .ready ∧ n.budget = budget ∧ n.full = budget ∧
      n.key = { ts := min (k.key.ts + prog.woffset) (2 ^ 64 - 1), origin := 511, seq := Table.get (s.stage st).seqs 0 511 } ∧
      (∀ q, q ≠ τ → q ≠ s.nextId → t.task? q = s.task? q) := by
  intro prog budget
  obtain ⟨-, clusters, pmem, -, next⟩ := w.retired_rest
  have stage := w.retired_stage
  have plain := fun t : State => w.retiredTo (t := t)
  have runs := w.runs_b kind
  rw [w.untiled tile] at runs
  obtain ⟨mine, theirs⟩ := State.task?_of_put w.retired_tasks
  generalize s.retired st τ k.lead = r at *
  let u := (r.takeSeq st 511).2
  let key : Key := { ts := Nat.min (k.key.ts + prog.woffset) (2 ^ 64 - 1), origin := 511, seq := Table.get (r.stage st).seqs 0 511 }
  let n := createdTask u st .w k.tag key budget none none (u.stampOf k.lead)
  let t := (u.takeId.2.setTask r.nextId n).askEvaluation st (u.cycle + 1)
  have created : r.createNext st k prog = t := (if_neg some_).trans rfl
  have here : t.task? r.nextId = some n := State.task?_setTask_same ..
  have there : ∀ q, q ≠ r.nextId → t.task? q = r.task? q := fun q hq => State.task?_setTask_other _ _ hq
  have seq : Table.get (r.stage st).seqs 0 511 = Table.get (s.stage st).seqs 0 511 := by rw [stage]; rfl
  have numbered : u.stage st = { r.stage st with seqs := Table.put (r.stage st).seqs 511 (Table.get (r.stage st).seqs 0 511 + 1) } :=
    State.stage_modStage_same r st fun g => { g with seqs := Table.put g.seqs 511 (Table.get (r.stage st).seqs 0 511 + 1) }
  have vacant : (t.stage st).frontier = none ∧ (t.stage st).lastRetire = some s.cycle := by
    rw [show t.stage st = _ from State.stage_modStage_same (u.takeId.2.setTask r.nextId n) st _,
      show (u.takeId.2.setTask r.nextId n).stage st = u.stage st from rfl, numbered, stage]
    exact ⟨rfl, rfl⟩
  rw [next] at here there
  refine ⟨t, n, runs.trans (congrArg _ created), plain t vacant ⟨_, (there τ other).trans mine, rfl, rfl⟩ rfl clusters pmem, here, rfl, rfl, rfl,
    rfl, rfl, rfl, ?_, fun q hq hn => (there q hn).trans (theirs q hq)⟩
  change key = _
  dsimp only [key]
  rw [seq]

/-! ### The tile that created the task (R249) -/

/-- What an advertisement leaves: everything but the links and the out-channels. -/
structure AdvertFrame (s t : State) : Prop where
  stages : t.stages = s.stages
  tasks : t.tasks = s.tasks
  cores : t.cores = s.cores
  clusters : t.clusters = s.clusters
  pmem : t.pmem = s.pmem
  inch : ∀ p, (t.ctx p).inch = (s.ctx p).inch

theorem State.emit_frame (s : State) (p : Nat) (f : Flit) : AdvertFrame s (s.emit p f) := by
  unfold State.emit
  split
  · exact ⟨rfl, rfl, rfl, rfl, rfl, fun _ => rfl⟩
  · unfold State.send
    split <;> exact ⟨rfl, rfl, rfl, rfl, rfl, fun _ => rfl⟩

theorem State.advertise_frame (s : State) (p chan prod upto : Nat) : AdvertFrame s (s.advertise p chan prod upto) := by
  unfold State.advertise
  dsimp only
  split
  · refine ⟨rfl, rfl, rfl, rfl, rfl, fun q => ?_⟩
    by_cases hq : q = p
    · rw [hq, State.ctx_modCtx_same]
    · rw [State.ctx_modCtx_other _ _ hq]
  · exact s.emit_frame p _

/-- The channel that opens its producer's window by one. -/
def InChan.opened (v : InChan) (p : Nat) : InChan := { v with prods := Table.put v.prods p { v.producer p with freed := (v.producer p).freed + 1 } }

theorem State.openWindow_opens (s : State) (p chan prod : Nat) : ((s.openWindow p chan prod).ctx p).inChan chan = ((s.ctx p).inChan chan).opened prod ∧
    (s.openWindow p chan prod).stages = s.stages ∧ (s.openWindow p chan prod).tasks = s.tasks ∧ (s.openWindow p chan prod).cores = s.cores ∧
    (s.openWindow p chan prod).clusters = s.clusters ∧ (s.openWindow p chan prod).pmem = s.pmem := by
  let open_ := fun x : Context => x.setIn chan (((s.ctx p).inChan chan).opened prod)
  have frame : AdvertFrame (s.modCtx p open_) (s.openWindow p chan prod) := State.advertise_frame _ _ _ _ _
  obtain ⟨stages, tasks, cores, clusters, pmem, inch⟩ := frame
  refine ⟨?_, stages, tasks, cores, clusters, pmem⟩
  rw [Context.inChan, inch, State.ctx_modCtx_same]
  exact Table.get_put_same _ _ _ _

theorem Retirable.tiled (w : Retirable s st τ k) {c p m : Nat} {y : TileSlot} (tile : k.tile = some (c, p, m))
    (slot : s.tileOf k.pasid c τ = some y) :
    let v := (s.ctx k.pasid).inChan c
    let t := ((s.retired st τ k.lead).dropTile τ k).unhold st fun _ => true
    RetiredTo s st τ k t ∧ (∀ q, q ≠ τ → t.task? q = s.task? q) ∧
      ((t.ctx k.pasid).inChan c).tiles = (v.tiles.filter fun x => x.tid ≠ some τ) ∧
      (((t.ctx k.pasid).inChan c).producer y.prod).freed = (v.producer y.prod).freed + 1 := by
  intro v
  dsimp only
  obtain ⟨cores, clusters, pmem, contexts, -⟩ := w.retired_rest
  have stage := w.retired_stage
  have rtasks := w.retired_tasks
  obtain ⟨mine, theirs⟩ := State.task?_of_put rtasks
  have plain := fun t : State => w.retiredTo (t := t)
  generalize hr : s.retired st τ k.lead = r at *
  have ctx : r.ctx k.pasid = s.ctx k.pasid := by rw [State.ctx, contexts, State.ctx]
  have found : r.tileOf k.pasid c τ = some y := by rw [State.tileOf, ctx]; exact slot
  let kept := (r.xs.readBytes (r.bufferAt k.pasid v y.place) (128 * v.tilesz), r.tilePoisoned (r.bufferAt k.pasid v y.place) v.tilesz)
  let n : Task := { k.retire s.cycle with tileKept := some kept }
  let less : InChan := { v with tiles := v.tiles.filter fun y => y.tid != some τ }
  let u := (r.setTask τ n).modCtx k.pasid fun x => x.setIn c less
  have dropped : r.dropTile τ k = u.openWindow k.pasid c y.prod := by
    simp only [State.dropTile, tile, State.tileCommitted, found, ctx, State.modTask_some mine]
    rfl
  obtain ⟨opened, stages', tasks', cores', clusters', pmem'⟩ := State.openWindow_opens u k.pasid c y.prod
  have chan : (u.ctx k.pasid).inChan c = less := by
    rw [show u.ctx k.pasid = _ from State.ctx_modCtx_same (r.setTask τ n) k.pasid _]
    exact Table.get_put_same _ _ _ _
  have free : ∀ e ∈ (u.openWindow k.pasid c y.prod).tasks, e.2.heldBack = false :=
    notHeldBack_put (s := r) (n := n) tasks' (w.free _ (mem_of_get? w.task)) (notHeldBack_put rtasks (w.free _ (mem_of_get? w.task)) w.free)
  have ht : (r.dropTile τ k).unhold st (fun _ => true) = u.openWindow k.pasid c y.prod :=
    (congrArg (fun x : State => x.unhold st fun _ => true) dropped).trans (State.unhold_none free)
  rw [ht]
  generalize u.openWindow k.pasid c y.prod = t at *
  have task : ∀ q, t.task? q = (r.setTask τ n).task? q := fun q => by rw [State.task?, tasks']; rfl
  have stageNow : t.stage st = (s.stage st).vacate s.cycle := by
    rw [← stage, State.stage, stages']
    rfl
  rw [chan] at opened
  refine ⟨plain t (by rw [stageNow]; exact ⟨rfl, rfl⟩) ⟨n, (task τ).trans (State.task?_setTask_same ..), rfl, rfl⟩ cores' (clusters'.trans clusters)
    (pmem'.trans pmem), fun q hq => ((task q).trans (State.task?_setTask_other _ _ hq)).trans (theirs q hq), ?_, ?_⟩
  · rw [opened]
    exact List.filter_congr fun x _ => Bool.eq_iff_iff.2 (by rw [bne_iff_ne, decide_eq_true_eq])
  · rw [opened, InChan.producer, InChan.opened, Table.get_put_same]
    rfl

end

/-- Settles O31. -/
theorem tasksLeaveAndRetire : Obligations.TasksLeaveAndRetire := by
  refine ⟨fun τ c k s hk cores calm own flight loads ldmc flushed room => ?_, fun st τ k s hk stage => ⟨?_, ?_, ?_, ?_, ?_⟩,
    fun st τ k s hk stage front ended written calm burst rested free other => ?_⟩
  · have w : Leavable s τ c k := ⟨hk, cores, calm, own, flight, loads, ldmc, flushed, room⟩
    exact ⟨w.aborted, w.ended⟩
  · exact fun vacant candidate rested kept clear plain room => frontierAdvance_leads hk stage vacant candidate rested kept clear plain room
  · exact frontierAdvance_told hk
  · exact frontierAdvance_none
  · exact frontierAdvance_yields
  · exact fun front ended written calm burst rested kind tile free =>
      taskRetire_plain ⟨hk, stage, front, ended, written, calm, burst, rested, free⟩ kind tile
  · have w : Retirable s st τ k := ⟨hk, stage, front, ended, written, calm, burst, rested, free⟩
    refine ⟨fun kind tile some_ => ?_, fun kind tile none_ => ?_, fun c p m y kind tile slot => ?_⟩
    · obtain ⟨t, n, runs, r, rest⟩ := taskRetire_followed w kind tile other some_
      exact ⟨t, n, runs, ⟨r.vacant, r.task, r.cores, r.clusters, r.pmem⟩, rest⟩
    · obtain ⟨t, runs, r, rest⟩ := taskRetire_unfollowed w kind tile none_
      exact ⟨t, runs, ⟨r.vacant, r.task, r.cores, r.clusters, r.pmem⟩, rest⟩
    · obtain ⟨r, rest⟩ := w.tiled tile slot
      exact ⟨_, w.runs kind, ⟨r.vacant, r.task, r.cores, r.clusters, r.pmem⟩, rest⟩

end Sys2Proof.Machine
end

section
/-!
PROOFS. A step runs the event or the bundle that is next (R13, R29, R38, R46, R278, R405).
-/
namespace Sys2Proof.Machine

/-! ### A rewind and a fault leave the verdicts and the turn -/

/-- The turn and the verdict of every core are the same. -/
def SameVerdict (s t : State) : Prop := t.turn = s.turn ∧ ∀ d, (t.core d).seq.verdict = (s.core d).seq.verdict

theorem SameVerdict.refl (s : State) : SameVerdict s s := ⟨rfl, fun _ => rfl⟩

theorem SameVerdict.trans {s t u : State} (h : SameVerdict s t) (h' : SameVerdict t u) : SameVerdict s u :=
  ⟨h'.1.trans h.1, fun d => (h'.2 d).trans (h.2 d)⟩

theorem SameVerdict.of {s t : State} (turn : t.turn = s.turn) (cores : t.cores = s.cores) : SameVerdict s t :=
  ⟨turn, fun d => congrArg (fun l : Table Core => (Table.get l {} d).seq.verdict) cores⟩

theorem SameVerdict.cur {s t : State} (h : SameVerdict s t) : t.cur.seq.verdict = s.cur.seq.verdict := by
  rw [State.cur, h.1, h.2, State.cur]

theorem SameVerdict.modCore (s : State) (c : Nat) {f : Core → Core} (h : (f (s.core c)).seq.verdict = (s.core c).seq.verdict) :
    SameVerdict s (s.modCore c f) := by
  refine ⟨rfl, fun d => ?_⟩
  by_cases hd : d = c
  · rw [hd, State.core_modCore_same, h]
  · rw [State.core_modCore_other s f hd]

theorem SameVerdict.modTask (s : State) (τ : Nat) (f : Task → Task) : SameVerdict s (s.modTask τ f) :=
  SameVerdict.of (State.modTask_turn _ _ _) (State.modTask_cores _ _ _)

theorem SameVerdict.logCore (s : State) (kind c slot : Nat) (a : CodeAddr) (d : Nat) (x : Bool) : SameVerdict s (s.logCore kind c slot a d x) := by
  rw [State.logCore_frame]
  exact SameVerdict.of rfl rfl

theorem undoPhaser_verdict (s : State) (c : Nat) (u : PhaserUndo) : SameVerdict s (undoPhaser s c u) := by
  unfold undoPhaser
  dsimp only
  split <;> exact SameVerdict.of rfl rfl

theorem rewindTo_verdict (s : State) (c : Nat) (rp : RewindPoint) (left : Bool) : SameVerdict s (s.rewindTo c rp left) := by
  have undone : ∀ (l : List (Nat × PhaserUndo)) (s : State), SameVerdict s (l.foldl (fun s u => undoPhaser s c u.2) s) :=
    foldl_keeps SameVerdict.refl SameVerdict.trans fun s u => undoPhaser_verdict s c u.2
  have told : ∀ (l : List Nat) (s : State), SameVerdict s (l.foldl (fun (s : State) d => s.abortLater d false false) s) :=
    foldl_keeps SameVerdict.refl SameVerdict.trans fun s d => SameVerdict.modTask s d _
  have swept : ∀ (s : State) (f : Cluster → Cluster) (g : Table Stage) (h : HostSide → HostSide),
      SameVerdict s (({ s.modClu (clusterOf c) f with stages := g } : State).modHost h) := fun _ _ _ _ => SameVerdict.of rfl rfl
  unfold State.rewindTo
  dsimp only
  refine SameVerdict.trans ?_ (SameVerdict.modCore _ _ rfl)
  have freed : SameVerdict s (if (((s.core c).eng.opsWhere fun o => decide (rp.seg ≤ o.seg)).isEmpty && (s.ctx (s.pasidOf c)).freed.isEmpty) = true then s
      else s.modCtx (s.pasidOf c) fun x => (x.discardOps ((s.core c).eng.opsWhere fun o => decide (rp.seg ≤ o.seg))).unfree
        fun e => e.core == c && decide (rp.seg ≤ e.seg)) := by
    split
    · exact SameVerdict.refl s
    · exact SameVerdict.of rfl rfl
  split
  · exact (freed.trans (undone _ _)).trans (swept _ _ _ _)
  · exact (((freed.trans (undone _ _)).trans (swept _ _ _ _)).trans (told _ _)).trans (SameVerdict.modTask _ _ _)

theorem rewindCurrent_verdict (n : Nat) (cs : List Nat) (done : List (Nat × Nat)) (s : State) : SameVerdict s (s.rewindCurrent n cs done) := by
  induction n generalizing s cs done with
  | zero => exact SameVerdict.refl s
  | succ n ih =>
    have one : ∀ (l : List Nat) (s : State), SameVerdict s (l.foldl (fun s c => match (s.core c).rcv.rps.head? with
        | some rp => s.rewindTo c rp false
        | none => s) s) := foldl_keeps SameVerdict.refl SameVerdict.trans fun s c => by
      split
      · exact rewindTo_verdict s c _ false
      · exact SameVerdict.refl s
    unfold State.rewindCurrent
    dsimp only
    split
    · exact one cs s
    · exact (one cs s).trans (ih _ _ _)

theorem takeFault_verdict (s : State) (f : FaultInfo) : SameVerdict s (s.takeFault f) := by
  unfold State.takeFault
  split
  · exact SameVerdict.refl s
  · split
    · exact SameVerdict.modTask _ _ _
    · unfold State.deliverFault
      extract_lets s1 s2
      have first : SameVerdict s s1 := by
        dsimp only [s1]
        split
        · exact SameVerdict.refl s
        · split
          · exact SameVerdict.modCore _ _ rfl
          · exact rewindCurrent_verdict _ _ _ s
      have second : SameVerdict s1 s2 := by
        dsimp only [s2]
        split
        · exact SameVerdict.refl s1
        · exact SameVerdict.logCore _ _ _ _ _ _ _
      refine (first.trans second).trans ?_
      unfold State.raiseEvent
      split
      · exact SameVerdict.refl s2
      · exact SameVerdict.of rfl rfl

theorem traceDelay_verdict (s : State) : SameVerdict s s.traceDelay := by
  unfold State.traceDelay
  dsimp only
  split
  · split
    · exact SameVerdict.logCore _ _ _ _ _ _ _
    · exact SameVerdict.refl s
  · exact SameVerdict.refl s

theorem nextBundle_verdict (s : State) : SameVerdict s s.nextBundle := by
  rw [State.nextBundle_eq]
  exact SameVerdict.modCore s s.turn (f := Core.nextBundle) rfl

/-- The end of a bundle that has not been held leaves it so. -/
theorem finishBundle_verdict {s : State} (h : s.cur.seq.verdict = .ok) : s.finishBundle.cur.seq.verdict ≠ .held := by
  unfold State.finishBundle
  dsimp only
  split
  · rw [State.verdict, State.cur_modCur]
    exact fun e => nomatch e
  · have next := (traceDelay_verdict s).trans (nextBundle_verdict s.traceDelay)
    split
    · next f rest hf =>
      have taken := (SameVerdict.modCore s.traceDelay.nextBundle s.traceDelay.nextBundle.turn
        (f := fun k => k.modSeq fun v => { v with trapped := rest }) rfl).trans (takeFault_verdict _ f)
      exact fun e => nomatch ((next.trans taken).cur.trans h).symm.trans e
    · exact fun e => nomatch (next.cur.trans h).symm.trans e

/-! ### What lands before a bundle leaves its conditions (R46) -/

/-- What landing results leave of a core, where no rerun notes them. -/
structure LandingKeeps (k q : Core) : Prop where
  verdict : q.seq.verdict = k.seq.verdict
  loads : q.seq.gloads = k.seq.gloads
  eng : q.eng = k.eng
  drift : q.regs.driftlim = k.regs.driftlim
  rerun : k.rcv.rerun = none → q.rcv.rerun = none

theorem LandingKeeps.trans {k q r : Core} (a : LandingKeeps k q) (b : LandingKeeps q r) : LandingKeeps k r :=
  ⟨b.verdict.trans a.verdict, b.loads.trans a.loads, b.eng.trans a.eng, b.drift.trans a.drift, fun h => b.rerun (a.rerun h)⟩

theorem Regs.land_driftlim (r : Regs) (x : Result) (b : Bool) : (r.land x b).driftlim = r.driftlim := by
  unfold Regs.land
  split <;> rfl

theorem Core.sigLand_keeps (k : Core) (x : Result) (b : Bool) : LandingKeeps k (k.sigLand x b) := by
  unfold Core.sigLand
  split
  · unfold Core.sigNote
    split
    · exact ⟨rfl, rfl, rfl, rfl, id⟩
    · next r hr => exact ⟨rfl, rfl, rfl, rfl, fun h => absurd (hr.symm.trans h) (Option.some_ne_none r)⟩
  · exact ⟨rfl, rfl, rfl, rfl, id⟩

theorem landOne_keeps (cycle cid : Nat) (k : Core) (x : Result) (fate : Fate) : LandingKeeps k (landOne cycle cid k x fate) := by
  unfold landOne
  dsimp only
  split
  · exact ⟨rfl, rfl, rfl, rfl, id⟩
  · split
    · exact ⟨rfl, rfl, rfl, rfl, id⟩
    · exact ⟨rfl, rfl, rfl, rfl, id⟩
    · split <;> exact ⟨rfl, rfl, rfl, rfl, id⟩
    · have keeps := Core.sigLand_keeps (k.modSeq fun q => { q with raised := q.raised ||| x.flags }) x
      exact ⟨(keeps _).verdict, (keeps _).loads, (keeps _).eng, (Regs.land_driftlim _ _ _).trans (keeps _).drift, (keeps _).rerun⟩

theorem Core.landDue_keeps (k : Core) (cycle cid : Nat) : LandingKeeps k (k.landDue cycle cid) := by
  rw [Core.landDue_eq]
  have left : LandingKeeps k k.leaveFlight := ⟨rfl, rfl, rfl, rfl, id⟩
  refine left.trans ?_
  generalize number 0 _ = l
  have walk : ∀ (m : List (Nat × Result)) (q : Core), LandingKeeps q (m.foldl (fun q x => landOne cycle cid q x.2 (fateOf l x.1 x.2)) q) := by
    intro m
    induction m with
    | nil => exact fun _ => ⟨rfl, rfl, rfl, rfl, id⟩
    | cons x m ih => exact fun q => (landOne_keeps _ _ _ _ _).trans (ih _)
  exact walk l _

/-- A core with no load on its way, and none of whose results waits for its data. -/
def Core.settled (k : Core) : Prop := k.seq.gloads = [] ∧ k.eng.ldmc = none ∧ ∀ r ∈ k.seq.flight, r.wait = []

theorem Core.settled_xsWaits {k : Core} (h : k.settled) : k.xsWaits = [] := by
  obtain ⟨-, ldmc, waits⟩ := h
  have none_ : k.seq.flight.filter (fun r => !r.wait.isEmpty) = [] := List.filter_eq_nil_iff.2 fun r hr => by rw [waits r hr]; exact Bool.false_ne_true
  simp only [Core.xsWaits, none_, ldmc, List.map_nil, List.filter_nil, List.append_nil]

theorem Core.settled_loadsBefore {k : Core} (h : k.settled) (n : Nat) : k.loadsBefore n = false := by
  simp only [Core.loadsBefore, h.1, Core.settled_xsWaits h, List.any_nil, Bool.or_false]

theorem Core.settled_acquiring {k : Core} (h : k.settled) : k.acquiring = false := by
  have waits : k.seq.flight.any (fun r => r.acquire && !r.wait.isEmpty) = false := List.any_eq_false.2 fun r hr => by
    rw [h.2.2 r hr, List.isEmpty_nil, Bool.not_true, Bool.and_false]
    exact Bool.false_ne_true
  simp only [Core.acquiring, h.1, waits, List.any_nil, Bool.or_false]

theorem Core.settled_dataLate {k : Core} (h : k.settled) : k.dataLate = false := by
  have waits : k.seq.flight.any (fun r => decide (r.due ≤ k.seq.stream) && !r.wait.isEmpty) = false := List.any_eq_false.2 fun r hr => by
    rw [h.2.2 r hr, List.isEmpty_nil, Bool.not_true, Bool.and_false]
    exact Bool.false_ne_true
  simp only [Core.dataLate, waits, h.2.1, Bool.or_false]

/-! ### The turn of a core (R13, R29, R57) -/

/-- A core may issue a bundle of one operation, and nothing freezes, holds or marks it: what the statement asks of the state. -/
structure Issuable (s : State) (c : Nat) (b : Bundle) (sl : Slot) (i : Instr) : Prop where
  pending : s.pending = []
  stuck : s.stuck = false
  tripped : s.tripped = false
  closing : s.closing = false
  late : s.late = false
  next : s.nextCore = some c
  active : (s.ctx (s.pasidOf c)).phase = .active
  first : (s.core c).rcv.rerun = none
  frozen : (s.core c).seq.frozen ≤ s.cycle
  flowing : (s.core c).eng.draining = false
  settled : (s.core c).settled
  requests : (s.core c).eng.requests = []
  whole : (s.core c).regs.donemask = 0
  trapped : (s.core c).seq.trapped = []
  unwatched : (s.core c).regs.driftlim.getLsbD 62 = false
  resident : (s.core c).seq.pc.toNat < 65536
  start : (s.core c).seq.pc.toNat ∈ (s.progOf c).starts
  inside : ∀ n, 0 < n → n < b.len → (advance (s.core c).seq.pc n).toNat ∉ (s.progOf c).starts
  decodes : decodeBundle ((s.progOf c).window (s.core c).seq.pc 16) = some b
  ovl : b.ovl = false
  mark : b.mark = false
  seg : b.seg = false
  slots : b.slots = [(sl, some i)]
  stays : ∀ g, i ≠ .tabort g

section
variable {s : State} {c : Nat} {b : Bundle} {sl : Slot} {i : Instr}

/-- The state in the turn of a core. -/
def State.inTurn (s : State) (c : Nat) : State := { s with turn := c }

theorem Issuable.step_issues (w : Issuable s c b sl i) : step s = .next { (s.inTurn c).issueNext with turn := c + 1 } := by
  have issue : (s.inTurn c).issue = (s.inTurn c).issueNext := by
    have none_ : (s.inTurn c).cur.seq.trapped = [] := w.trapped
    rw [State.issue, none_]
  have turn : s.takeTurn c = { (s.inTurn c).issue with turn := c + 1 } := by
    unfold State.takeTurn
    extract_lets s0 s1 s2 again
    have here : s1 = s.inTurn c := if_neg (by rw [w.late, Bool.false_and]; exact Bool.false_ne_true)
    have first : (s1.core c).rcv.rerun = none := by rw [here]; exact w.first
    have once : again = false := by simp only [again, first]
    have kept : (if again = true then s2.issue else s2) = (s.inTurn c).issue := by
      rw [once, if_neg Bool.false_ne_true]
      exact congrArg State.issue here
    exact congrArg (fun v : State => ({ v with turn := c + 1 } : State)) kept
  simp only [step, w.pending, w.stuck, w.tripped, w.closing, w.next, Bool.false_and, Bool.false_eq_true, if_false]
  rw [turn, issue]

theorem Issuable.bundleAt (w : Issuable s c b sl i) : (s.progOf c).bundleAt (s.core c).seq.pc = some b := by
  have starts : (s.progOf c).isStart (s.core c).seq.pc = true := by
    have low : (s.core c).seq.pc.toNat / 65536 = 0 := Nat.div_eq_of_lt w.resident
    have marked : (s.progOf c).starts.contains (s.core c).seq.pc.toNat = true := List.contains_iff_mem.2 w.start
    rw [Program.isStart, marked, low]
    rfl
  have within : ((List.range b.len).any fun n => n != 0 && (s.progOf c).starts.contains (advance (s.core c).seq.pc n).toNat) = false := by
    rw [List.any_eq_false]
    intro n hn
    by_cases zero : n = 0
    · rw [zero]; exact Bool.false_ne_true
    · have out : (s.progOf c).starts.contains (advance (s.core c).seq.pc n).toNat = false := by
        rw [← Bool.not_eq_true, List.contains_iff_mem]
        exact w.inside n (Nat.pos_of_ne_zero zero) (List.mem_range.1 hn)
      rw [out, Bool.and_false]
      exact Bool.false_ne_true
  simp only [Program.bundleAt, starts, w.decodes, within, Bool.not_true, Bool.false_eq_true, if_false]

theorem Issuable.issueNext (w : Issuable s c b sl i) : (s.inTurn c).issueNext = (s.inTurn c).issueBundle b := by
  let v := s.inTurn c
  have free : v.freeze = none := by
    have here : overlayOf (s.core c).seq.pc = 0 := Nat.div_eq_of_lt w.resident
    have code : v.codeAway = false := by
      have has : (s.core c).hasCode (s.core c).seq.pc = true := by rw [Core.hasCode, here]; rfl
      rw [State.codeAway, show v.cur = s.core c from rfl, has]
      rfl
    have drained : v.drainWaits = false := by
      rw [State.drainWaits, show v.cur = s.core c from rfl, w.flowing]
      rfl
    have data : v.cur.dataLate = false := Core.settled_dataLate w.settled
    have thawed : ¬ v.cycle < v.cur.seq.frozen := Nat.not_lt.2 w.frozen
    simp only [State.freeze, code, drained, data, if_neg thawed, Bool.or_false, Bool.false_eq_true, if_false]
  have flowing : v.cur.eng.draining = false := w.flowing
  have bundle : (v.progOf v.turn).bundleAt v.cur.seq.pc = some b := w.bundleAt
  change v.issueNext = v.issueBundle b
  simp only [State.issueNext, free, flowing, bundle, Bool.false_eq_true, if_false]

/-- The core as its due results have landed for a bundle (R46). -/
def Core.landedFor (k : Core) (b : Bundle) (cycle c : Nat) : Core :=
  (k.modSeq fun q =>
    { q with efault := if q.reissue then q.efault else none, blen := b.len, bmask := maskOf b.slots, bsafe := b.safe || b.seg, inBundle := true,
             verdict := .ok, bundleFpc := some (q.bundleFpc.getD k.regs.fpc) }).landDue cycle c

/-- What stands when the results that were due have landed. -/
structure Prelude (s : State) (c : Nat) (p : State) : Prop where
  turn : p.turn = c
  verdict : p.cur.seq.verdict = .ok
  settled : p.cur.settled
  eng : p.cur.eng = (s.core c).eng
  drift : p.cur.regs.driftlim = (s.core c).regs.driftlim
  first : p.cur.rcv.rerun = none

theorem Issuable.prelude (w : Issuable s c b sl i) : Prelude s c ((s.inTurn c).prelude b) := by
  let v := s.inTurn c
  have cur : (v.prelude b).cur = (s.core c).landedFor b s.cycle c := State.cur_modCur v _
  obtain ⟨verdict, loads, eng, drift, rerun⟩ := Core.landDue_keeps ((s.core c).modSeq fun q =>
    { q with efault := if q.reissue then q.efault else none, blen := b.len, bmask := maskOf b.slots, bsafe := b.safe || b.seg, inBundle := true,
             verdict := .ok, bundleFpc := some (q.bundleFpc.getD (s.core c).regs.fpc) }) s.cycle c
  obtain ⟨noLoads, ldmc, waits⟩ := w.settled
  refine ⟨rfl, by rw [cur]; exact verdict, ?_, by rw [cur]; exact eng, by rw [cur]; exact drift, by rw [cur]; exact rerun w.first⟩
  rw [cur]
  refine ⟨loads.trans noLoads, (congrArg Engines.ldmc eng).trans ldmc, fun r hr => waits r ?_⟩
  rw [Core.landedFor, Core.landDue_flight] at hr
  exact (List.mem_filter.1 hr).1

/-- Nothing holds the bundle before its operation is tried (R204, R208, R309). -/
theorem Issuable.bundleHold (w : Issuable s c b sl i) (begun : Bool) : (s.inTurn c).bundleHold b begun = none := by
  let v := s.inTurn c
  have calm : (v.cur.acquiring) = false := Core.settled_acquiring w.settled
  have loads : ∀ n, v.cur.loadsBefore n = false := Core.settled_loadsBefore w.settled
  have none_ : v.cur.seq.gloads = [] := w.settled.1
  have unnamed : ∀ l : List Dest, (l.any fun _ => false) = false := fun l => by simp
  change v.bundleHold b begun = none
  simp only [State.bundleHold, w.seg, w.slots, calm, loads, none_, Bool.false_and, Bool.and_false, Bool.or_false, Bool.false_eq_true, if_false,
    List.find?_cons, List.any_nil, List.find?_nil, unnamed, Option.map_none]

theorem not_tend_of_fence {x : Slot × Option Instr} (h : isFence x = true) : isTend x = false := by
  obtain ⟨sl, o⟩ := x
  unfold isFence at h
  split at h
  · next e =>
    rw [isTend, show o = _ from e]
  · exact absurd h Bool.false_ne_true

theorem execOrder_one (x : Slot × Option Instr) : execOrder [x] = [x] := by
  have one : ∀ p : Slot × Option Instr → Bool, [x].filter p = if p x = true then [x] else [] := fun p => by
    cases h : p x <;> simp [h]
  have fence : isFence x = true → isTend x = false := not_tend_of_fence
  have all : Slot.all.filter (fun sl => x.1 == sl) = [x.1] := by cases x.1 <;> rfl
  simp only [execOrder, one]
  cases hf : isFence x with
  | true =>
    rw [fence hf]
    simp
  | false =>
    cases ht : isTend x with
    | true => simp
    | false => cases hs : x.1 <;> simp

/-- The one operation of the bundle acts, and the bundle ends (R11, R46). -/
theorem Issuable.goBundle (w : Issuable s c b sl i) {t : State} (runs : ((s.inTurn c).prelude b).perform i = t) (ok : t.cur.seq.verdict = .ok) :
    (s.inTurn c).goBundle ((s.inTurn c).prelude b) b b.slots = t.finishBundle := by
  have p := w.prelude
  generalize (s.inTurn c).prelude b = u at *
  have unwatched : u.watched b = none := by
    have low : bitAt u.cur.regs.driftlim.toNat 62 = false := by
      rw [p.drift, ← bitAt_toNat]
      exact w.unwatched
    simp only [State.watched, low, Bool.false_and, Bool.false_eq_true, if_false]
  have kept : u.cur.abortsIn b.slots = none := by
    rw [w.slots, Core.abortsIn]
    have other : ∀ g, i ≠ .tabort g := w.stays
    cases i
    case tabort g => exact absurd rfl (other g)
    all_goals rfl
  have landed : u.landLdmc (s.inTurn c).turn = u := by
    have none_ : (u.core c).eng.ldmc = none := by
      have : u.cur = u.core c := by rw [State.cur, p.turn]
      rw [← this]
      exact p.settled.2.1
    change u.landLdmc c = u
    simp only [State.landLdmc, none_]
  have header : u.header b = u := by
    have free : (u.cur.seq.verdict == .held) = false := by rw [p.verdict]; rfl
    simp only [State.header, w.seg, w.ovl, w.mark, free, Bool.false_eq_true, if_false]
  have slots : u.runSlots b.slots = t := by
    rw [State.runSlots, w.slots, execOrder_one, List.foldl_cons, List.foldl_nil, ← runs]
    simp only [State.runSlot, p.first, Option.isSome_none, Bool.false_and, Bool.false_eq_true, if_false]
  have run : u.runBundle b b.slots = t.finishBundle := by
    have some_ : b.slots.isEmpty = false := by rw [w.slots]; rfl
    simp only [State.runBundle, unwatched, some_, slots, Bool.false_eq_true, if_false]
  have free : (u.cur.seq.verdict == .held) = false := by rw [p.verdict]; rfl
  have ended : (t.finishBundle.cur.seq.verdict == .held) = false := beq_eq_false_iff_ne.2 (finishBundle_verdict ok)
  simp only [State.goBundle, unwatched, Option.all_none, kept, landed, header, ite_self, free, run, ended, Bool.false_eq_true, if_false]

theorem Issuable.issueBundle (w : Issuable s c b sl i) {t : State} (runs : exec i ((s.inTurn c).prelude b) = .next t) :
    (t.cur.seq.verdict = .ok → (s.inTurn c).issueBundle b = t.finishBundle) ∧
    (t.cur.seq.verdict = .faulted → (s.inTurn c).issueBundle b = t) ∧
    (t.cur.seq.verdict = .held → (s.inTurn c).issueBundle b = (t.modCur fun k => (s.core c).unland k).stopHeld b) := by
  have p := w.prelude
  have performs : ((s.inTurn c).prelude b).perform i = t := by rw [State.perform, runs]
  have goes : (s.inTurn c).stopAsked = false := by
    have active : ((s.ctx (s.pasidOf c)).phase == .stopping) = false := by rw [w.active]; rfl
    change (((s.ctx (s.pasidOf c)).phase == .stopping) && _) = false
    rw [active, Bool.false_and]
  have slots : b.slots.filter (fun x => !bitAt (s.inTurn c).cur.regs.donemask.toNat x.1.num) = b.slots := by
    have whole : (s.inTurn c).cur.regs.donemask = 0 := w.whole
    rw [whole]
    exact List.filter_eq_self.2 fun x _ => by simp [bitAt]
  have fence : ((s.inTurn c).prelude b).ownFence b = false := by
    rw [State.ownFence, Core.settled_loadsBefore p.settled, Bool.false_and]
  have tried : b.slots.map ((s.inTurn c).prelude b).trySlot = [t] := by
    rw [w.slots]
    exact congrArg (fun u => [u]) performs
  have banks : ∀ f, ((s.inTurn c).prelude b).refuseBanks c f = (false, (s.inTurn c).prelude b) := fun f => by
    have none_ : (((s.inTurn c).prelude b).core c).eng.requests = [] := by
      have here : ((s.inTurn c).prelude b).cur = ((s.inTurn c).prelude b).core c := by rw [State.cur, p.turn]
      rw [← here, p.eng]
      exact w.requests
    simp only [State.refuseBanks, none_, List.filter_nil, List.map_nil]
  refine ⟨fun ok => ?_, fun faulted => ?_, fun held => ?_⟩
  · have f : (t.cur.seq.verdict == .faulted) = false := by rw [ok]; rfl
    have h : (t.cur.seq.verdict == .held) = false := by rw [ok]; rfl
    rw [← w.goBundle performs ok]
    simp only [State.issueBundle, w.bundleHold, goes, slots, fence, State.probe, tried, List.find?_cons, List.find?_nil, f, h, Bool.false_and,
      Bool.false_eq_true, if_false]
    rw [show (s.inTurn c).turn = c from rfl, banks]
    exact if_neg Bool.false_ne_true
  · have f : (t.cur.seq.verdict == .faulted) = true := by rw [faulted]; rfl
    have h : (t.cur.seq.verdict == .held) = false := by rw [faulted]; rfl
    simp only [State.issueBundle, w.bundleHold, goes, slots, fence, State.probe, tried, List.find?_cons, f, h, Bool.false_and,
      Bool.false_eq_true, if_false]
  · have f : (t.cur.seq.verdict == .faulted) = false := by rw [held]; rfl
    have h : (t.cur.seq.verdict == .held) = true := by rw [held]; rfl
    simp only [State.issueBundle, w.bundleHold, goes, slots, fence, State.probe, tried, List.find?_cons, List.find?_nil, f, h, w.seg,
      State.heldForRecords, Bool.false_and, Bool.false_eq_true, if_false, if_true]
    rfl

end

/-- Settles O55. -/
theorem aStepRunsTheDecodedInstruction : Obligations.AStepRunsTheDecodedInstruction := by
  refine ⟨fun i rest s pending => ?_, fun s pending => ⟨fun stuck still => ?_, fun stuck tripped still => ?_, fun stuck tripped => ⟨?_, ?_, ?_⟩⟩, ?_⟩
  · simp only [step, pending]
  · simp only [step, pending, stuck, still, List.isEmpty_nil, Bool.and_self, if_true]
  · simp only [step, pending, stuck, tripped, still, List.isEmpty_nil, Bool.and_self, Bool.false_and, Bool.false_eq_true, if_false, if_true]
  · intro closing
    simp only [step, pending, stuck, tripped, closing, Bool.false_and, Bool.false_eq_true, if_false, if_true]
  · intro closing none_ late
    simp only [step, pending, stuck, tripped, closing, none_, late, Bool.false_and, Bool.false_eq_true, if_false, if_true]
  · intro closing none_ late
    simp only [step, pending, stuck, tripped, closing, none_, late, Bool.false_and, Bool.false_eq_true, if_false]
  · intro c b sl i s t pending stuck tripped closing late next q p here active first frozen flowing waits ldmc loads requests whole trapped
      unwatched resident start inside decodes ovl mark seg slots stays runs
    have w : Issuable s c b sl i := ⟨pending, stuck, tripped, closing, late, next, active, first, frozen, flowing, ⟨loads, ldmc, waits⟩, requests,
      whole, trapped, unwatched, resident, start, inside, decodes, ovl, mark, seg, slots, stays⟩
    rw [w.step_issues, w.issueNext]
    obtain ⟨ends, faults, holds⟩ := w.issueBundle runs
    exact ⟨fun h => by rw [ends h], fun h => by rw [faults h], fun h => by rw [holds h]⟩

end Sys2Proof.Machine
end

section
/-!
PROOFS. Engine registers: the values they take, and the records of their reads (R159, R227, R230-R232, R246).
-/
namespace Sys2Proof.Machine

/-! ### Records that engines post (R227, R228) -/

/-- A record of an operation that uses no pool atomic stands in the slot of the engines. -/
theorem recordOf_w0 {o : EngOp} (plain : o.cmd ≠ .atomic) (stamp : Nat) :
    (recordOf o stamp).w0 = BitVec.ofNat 64 (2 ^ 63 + recordKind o.cmd * 2 ^ 59 + 7 * 2 ^ 55 + o.status * 2 ^ 48 + o.addr.toNat) := by
  unfold recordOf
  cases h : o.cmd with
  | atomic => exact absurd h plain
  | copy _ _ _ | engr _ | stash _ _ _ | spill _ _ _ _ | drop _ _ | fetch _ _ _ | wver _ _ | chsend _ _ _ _ | chrecv _ _ | cheos _
    | redm _ _ _ | tinv _ _ _ => rfl

theorem Engines.post_room {e : Engines} (room : e.evq.length < 128) (o : EngOp) :
    ∃ stamp, (e.post o).evq = e.evq ++ [recordOf o stamp] := by
  unfold Engines.post
  rw [if_pos (show e.evq.length < Config.evqRecords from room)]
  exact ⟨_, rfl⟩

theorem complete_hasPosted {s : State} {c : Nat} {o : EngOp} (room : (s.core c).eng.evq.length < 128) (plain : o.cmd ≠ .atomic)
    (status : Nat) (w1 : Word64) : hasPosted s (s.complete c o status w1) c (recordKind o.cmd) 7 status o.addr w1 := by
  obtain ⟨stamp, posted⟩ := Engines.post_room room { o with status := status, word1 := w1 }
  refine ⟨_, ?_, rfl, recordOf_w0 (o := { o with status := status, word1 := w1 }) plain stamp⟩
  rw [← posted]
  exact congrArg (·.eng.evq) (State.core_modCore_same s c _)

/-- What a change of a core's engines leaves. -/
theorem engineFrame_modEng (s : State) (c : Nat) (f : Engines → Engines) : engineFrame s (s.modCore c fun k => k.modEng f) c :=
  have core := State.core_modCore_same s c fun k => k.modEng f
  ⟨⟨by rw [core]; rfl, by rw [core]; rfl, by rw [core]; rfl, by rw [core]; rfl, fun _ other => State.core_modCore_other s _ other,
    rfl, rfl, rfl⟩, rfl⟩

theorem sp_modEng (s : State) (c : Nat) (f : Engines → Engines) : ((s.modCore c fun k => k.modEng f).core c).sp = (s.core c).sp :=
  congrArg (·.sp) (State.core_modCore_same s c fun k => k.modEng f)

/-! ### Values that registers take -/

theorem engReg?_evq {n : Nat} : engReg? n = some .evq ↔ n = 0x110 := by
  unfold engReg?
  constructor
  · intro h
    repeat' (split at h; · simp at h <;> assumption)
    exact absurd h (by simp)
  · rintro rfl
    rfl

theorem bits_high (v : Word64) : bits v.toNat 48 16 = v.toNat / 2 ^ 48 := by
  have bound := v.isLt
  unfold bits
  omega

/-- A write that passes changes its context alone, which holds the value then. -/
theorem State.engWrite_takes (s : State) (p : Nat) {r : EngReg} (v : Word64) (writable : r ≠ .evq) :
    (∃ f : Context → Context, s.engWrite p r v = s.modCtx p f) ∧ registerTakes (s.ctx p) ((s.engWrite p r v).ctx p) r v := by
  unfold State.engWrite
  cases r with
  | evq => exact absurd rfl writable
  | starena | sthbm | stlp | stsize => exact ⟨⟨_, rfl⟩, State.ctx_modCtx_same s p _⟩
  | window w second =>
    refine ⟨⟨_, rfl⟩, ?_⟩
    simp only [State.ctx_modCtx_same, registerTakes, Context.window, Table.modify, Table.get_put_same]
    refine ⟨?_, fun q other => Table.get_put_other _ _ _ other⟩
    cases second <;> exact ⟨rfl, rfl⟩
  | inChan c second =>
    cases second with
    | true =>
      refine ⟨⟨_, rfl⟩, ?_⟩
      simp only [State.ctx_modCtx_same, registerTakes, Context.inChan, Context.setIn, Table.get_put_same, bits_high]
      simp [bits]
    | false =>
      refine ⟨⟨_, rfl⟩, ?_⟩
      simp only [State.ctx_modCtx_same, registerTakes, Context.inChan, Context.setIn, ← bitAt_toNat]
      cases v.getLsbD 63 <;> cases v.getLsbD 51 <;> simp [bits]
  | outChan c =>
    refine ⟨⟨_, rfl⟩, ?_⟩
    simp only [State.ctx_modCtx_same, registerTakes, ← bitAt_toNat]
    generalize v.getLsbD 63 = valid
    cases valid with
    | false => simp [Context.outChan, Context.setOut, bits]
    | true =>
      simp only [Bool.not_true, Bool.false_eq_true, if_false]
      split
      · simp [Context.outChan, Context.setOut, bits]
      · split <;> simp [Context.outChan, Context.setOut, OutChan.opened, bits]

/-! ### Advertisements (R246, R249) -/

/-- What an advertisement of a context's in-channel may touch: the links, and the out-channels of that context. -/
structure Announces (p : Nat) (s t : State) : Prop where
  machine : leavesMachine s t
  host : t.host = s.host
  others : ∀ q, q ≠ p → t.ctx q = s.ctx q
  inch : (t.ctx p).inch = (s.ctx p).inch

theorem Announces.refl (p : Nat) (s : State) : Announces p s s := ⟨⟨rfl, rfl, rfl, rfl, rfl, rfl⟩, rfl, fun _ _ => rfl, rfl⟩

theorem Announces.trans {p : Nat} {s t u : State} (first : Announces p s t) (second : Announces p t u) : Announces p s u where
  machine := leavesMachine_trans first.machine second.machine
  host := second.host.trans first.host
  others := fun q other => (second.others q other).trans (first.others q other)
  inch := second.inch.trans first.inch

theorem State.emit_announces (s : State) (p : Nat) (f : Flit) : Announces p s (s.emit p f) := by
  unfold State.emit
  split
  · exact ⟨modLink_machine s _, rfl, fun _ _ => rfl, rfl⟩
  · unfold State.send
    split
    · exact ⟨modLink_machine s _, rfl, fun _ _ => rfl, rfl⟩
    · exact ⟨sendPort_machine s.takeFree.2 _ _, rfl, fun _ _ => rfl, rfl⟩

theorem State.advertise_announces (s : State) (p chan prod upto : Nat) : Announces p s (s.advertise p chan prod upto) := by
  unfold State.advertise
  dsimp only
  split
  · exact ⟨⟨rfl, rfl, rfl, rfl, rfl, rfl⟩, rfl, fun q other => State.ctx_modCtx_other s _ other,
      congrArg (·.inch) (State.ctx_modCtx_same s p _)⟩
  · exact s.emit_announces p _

/-- A write of the host advertises at once what the register opens, and the register holds the value. -/
theorem State.engWriteNow_takes (s : State) (p : Nat) {r : EngReg} (v : Word64) (writable : r ≠ .evq) :
    leavesMachine s (s.engWriteNow p r v) ∧ (s.engWriteNow p r v).host = s.host ∧
      (∀ q, q ≠ p → (s.engWriteNow p r v).ctx q = s.ctx q) ∧ registerTakes (s.ctx p) ((s.engWriteNow p r v).ctx p) r v := by
  obtain ⟨⟨f, written⟩, takes⟩ := s.engWrite_takes p v writable
  have announced : Announces p (s.engWrite p r v) (s.engWriteNow p r v) :=
    foldl_keeps (R := Announces p) (Announces.refl p) Announces.trans (fun t w => t.advertise_announces p _ _ _) _ _
  have machine : leavesMachine s (s.engWrite p r v) := by rw [written]; exact ⟨rfl, rfl, rfl, rfl, rfl, rfl⟩
  refine ⟨leavesMachine_trans machine announced.machine, announced.host.trans (by rw [written]; rfl),
    fun q other => (announced.others q other).trans (by rw [written]; exact State.ctx_modCtx_other s f other), ?_⟩
  cases r with
  | evq => exact absurd rfl writable
  | window _ _ | starena | sthbm | stlp | stsize | outChan _ => exact takes
  | inChan c second =>
    cases second with
    | true => exact takes
    | false =>
      simp only [registerTakes, Context.inChan, announced.inch] at takes ⊢
      exact takes

/-! ### Writes of the host and of a program -/

theorem engRefuse_writable {s : State} {p : Nat} {r : EngReg} {v : Word64} (passes : s.engRefuse p r v = none) : r ≠ .evq := by
  rintro rfl
  exact absurd passes (by simp [State.engRefuse])

theorem engineUnit_takes {s : State} {p : Nat} {num : Nat} {v : Word64} {r : EngReg} (stands : (Table.get? s.contexts p).isSome = true)
    (reg : engReg? num = some r) (passes : s.engRefuse p r v = none) : s.engineUnit p num v = (0, s.engWriteNow p r v) := by
  have writable := engRefuse_writable passes
  unfold State.engineUnit
  rw [reg]
  cases r with
  | evq => exact absurd rfl writable
  | window _ _ | starena | sthbm | stlp | stsize | outChan _ | inChan _ _ =>
    exact if_pos (by rw [stands, passes]; rfl)

theorem engineUnit_served {fr : Frame} {s : State} {num : Nat} {v : Word64} {r : EngReg} (served : isServed s fr)
    (stands : (Table.get? s.contexts fr.pasid.toNat).isSome = true) (reg : engReg? num = some r)
    (passes : s.engRefuse fr.pasid.toNat r v = none) :
    ∃ t, (.next (s.command1 fr fun u => u.engineUnit fr.pasid.toNat num v) : Host.Outcome State Fault Refusal) = .next t ∧
      hasAnswered s t fr 0 [] ∧ registerTakes (s.ctx fr.pasid.toNat) (t.ctx fr.pasid.toNat) r v ∧
      (∀ q, q ≠ fr.pasid.toNat → t.ctx q = s.ctx q) ∧ leavesMachine s t := by
  have acts : s.received.engineUnit fr.pasid.toNat num v = (0, s.received.engWriteNow fr.pasid.toNat r v) :=
    engineUnit_takes stands reg passes
  obtain ⟨machine, host, others, takes⟩ := s.received.engWriteNow_takes fr.pasid.toNat v (engRefuse_writable passes)
  refine ⟨_, congrArg Host.Outcome.next (State.command1_served served), ?_⟩
  rw [acts]
  exact ⟨hasAnswered_sendFrame 0 [] (congrArg (·.sent) host) (congrArg (·.seqOut) host) (congrArg (·.seqIn) host), takes, others, machine⟩

/-- A write of the frontier task's program, and its notes. -/
theorem engWriteLater_takes (s : State) (p : Nat) {r : EngReg} (v : Word64) (writable : r ≠ .evq) (g : Recovery → Recovery) (sl : Slot)
    (kind addr : Nat) (bs : List Byte) :
    let t := (((s.engWriteLater p r v).modCur fun k => k.modRcv g).sigEffect sl kind addr bs)
    ∃ new, registerTakes (s.ctx p) (t.ctx p) r v ∧ (∀ q, q ≠ p → t.ctx q = s.ctx q) ∧
      t.cur.regs = s.cur.regs ∧ t.cur.seq = s.cur.seq ∧ t.cur.eng = { s.cur.eng with notes := s.cur.eng.notes ++ new } ∧
      (∀ w ∈ new, w.seg = s.cur.rcv.seg ∧ w.clearAt = none) ∧ t.link = s.link ∧ t.cur.sp = s.cur.sp ∧
      (∀ c, c ≠ s.turn → t.core c = s.core c) ∧ t.clusters = s.clusters ∧ t.tasks = s.tasks ∧ t.pmem = s.pmem ∧ t.xs = s.xs := by
  obtain ⟨⟨f, written⟩, takes⟩ := s.engWrite_takes p v writable
  obtain ⟨h, signed⟩ := sigEffect_eq ((s.engWriteLater p r v).modCur fun k => k.modRcv g) sl kind addr bs
  let note := fun (k : Core) (w : Nat × Nat × Nat) => ({ pasid := p, chan := w.1, prod := w.2.1, upto := w.2.2, seg := k.rcv.seg } : WindowNote)
  let F := fun k : Core => ((k.modEng fun e => { e with notes := e.notes ++ (firstWindows r v).map (note k) }).modRcv g).modRcv h
  have whole : ((s.engWriteLater p r v).modCur fun k => k.modRcv g).sigEffect sl kind addr bs = (s.modCtx p f).modCur F := by
    rw [signed, State.engWriteLater, written, State.modCur_modCur, State.modCur_modCur]
  have cur : ((s.modCtx p f).modCur F).cur = F s.cur := State.cur_modCur (s.modCtx p f) F
  rw [written] at takes
  dsimp only
  rw [whole, cur]
  refine ⟨(firstWindows r v).map (note s.cur), takes, fun q other => State.ctx_modCtx_other s f other, rfl, rfl, rfl, fun w hw => ?_, rfl, rfl,
    fun c other => State.core_modCur_other (s.modCtx p f) F other, rfl, rfl, rfl, rfl⟩
  obtain ⟨x, -, rfl⟩ := List.mem_map.mp hw
  exact ⟨rfl, rfl⟩

theorem anySpilled_iff (s : State) (p : Nat) : s.anySpilled p = true ↔ ∃ e ∈ (s.ctx p).stash, e.state = .spilled := by
  simp [State.anySpilled]

theorem engRefuse_sthbm (s : State) (p : Nat) (v : Word64) :
    (s.engRefuse p .sthbm v = some 0x0F ↔ 2 ^ 57 ≤ v.toNat ∨ v.toNat % 4096 ≠ 0) ∧
    (v.toNat < 2 ^ 57 → v.toNat % 4096 = 0 → (s.engRefuse p .sthbm v = some 0x0A ↔ ∃ e ∈ (s.ctx p).stash, e.state = .spilled)) := by
  have beyond : (v.toNat / 2 ^ 57 != 0 || v.toNat % 4096 != 0) = true ↔ 2 ^ 57 ≤ v.toNat ∨ v.toNat % 4096 ≠ 0 := by
    rw [Bool.or_eq_true, bne_iff_ne, bne_iff_ne]
    omega
  have judged : s.engRefuse p .sthbm v = if (v.toNat / 2 ^ 57 != 0 || v.toNat % 4096 != 0) = true then some 0x0F
      else if s.anySpilled p = true then some 0x0A else none := rfl
  rw [judged]
  by_cases bad : (v.toNat / 2 ^ 57 != 0 || v.toNat % 4096 != 0) = true
  · rw [if_pos bad]
    exact ⟨⟨fun _ => beyond.mp bad, fun _ => rfl⟩, fun low aligned => absurd (beyond.mp bad) (by omega)⟩
  · have fine : (2 ^ 57 ≤ v.toNat ∨ v.toNat % 4096 ≠ 0) ↔ False := iff_false_intro fun h => bad (beyond.mpr h)
    rw [if_neg bad, ← anySpilled_iff, fine]
    cases s.anySpilled p <;> simp

/-! ### The statement -/

theorem execEngw_program (g : Guard) (xv : BitVec 5) (num : BitVec 12) (s : State) (on : s.cur.on g = true) :
    let v := s.cur.readXA xv
    let p := s.pasidOf s.turn
    (engReg? num.toNat = none → exec (.engw g xv num) s = .next (s.issueFault .x 0x0F)) ∧
    (num = 0x110 → exec (.engw g xv num) s = .next (s.issueFault .x 0x0A)) ∧
    (∀ r code, engReg? num.toNat = some r → s.speculative s.turn = false → s.engRefuse p r v = some code →
      (num.toNat, v) ∉ s.cur.rcv.engwsAgain → exec (.engw g xv num) s = .next (s.issueFault .x code)) ∧
    (∀ r, engReg? num.toNat = some r → num ≠ 0x110 → s.speculative s.turn = true →
      exec (.engw g xv num) s = .next (s.holdFor .x .frontier)) ∧
    (∀ r, engReg? num.toNat = some r → num ≠ 0x110 → s.engRefuse p r v = none ∨ (num.toNat, v) ∈ s.cur.rcv.engwsAgain →
      s.speculative s.turn = false →
      ∃ t new, exec (.engw g xv num) s = .next t ∧ registerTakes (s.ctx p) (t.ctx p) r v ∧ (∀ q, q ≠ p → t.ctx q = s.ctx q) ∧
        t.cur.regs = s.cur.regs ∧ t.cur.seq = s.cur.seq ∧ t.cur.eng = { s.cur.eng with notes := s.cur.eng.notes ++ new } ∧
        (∀ w ∈ new, w.seg = s.cur.rcv.seg ∧ w.clearAt = none) ∧ t.link = s.link ∧ t.cur.sp = s.cur.sp ∧
        (∀ c, c ≠ s.turn → t.core c = s.core c) ∧ t.clusters = s.clusters ∧ t.tasks = s.tasks ∧ t.pmem = s.pmem ∧ t.xs = s.xs) := by
  intro v p
  have evq : engReg? num.toNat = some .evq ↔ num = 0x110 := by
    rw [engReg?_evq]
    exact ⟨fun h => BitVec.eq_of_toNat_eq h, fun h => congrArg BitVec.toNat h⟩
  have runs : exec (.engw g xv num) s = execEngw g xv num s := rfl
  unfold execEngw at runs
  simp only [on, Bool.not_true, Bool.false_eq_true, if_false] at runs
  refine ⟨fun reg => by rw [runs, reg], fun h => by rw [runs, evq.mpr h], fun r code reg front refuses fresh => ?_,
    fun r reg h waits => ?_, fun r reg h passes front => ?_⟩
  all_goals rw [runs, reg]
  · cases r with
    | evq => exact congrArg (fun c => Host.Outcome.next (s.issueFault .x c)) (Option.some.inj refuses)
    | window _ _ | starena | sthbm | stlp | stsize | outChan _ | inChan _ _ =>
      have again : s.cur.rcv.engwsAgain.contains (num.toNat, s.cur.readXA xv) = false := by simpa using fresh
      simp only [front, again, show s.engRefuse (s.pasidOf s.turn) _ (s.cur.readXA xv) = some code from refuses, Bool.false_eq_true, if_false]
  · cases r with
    | evq => exact absurd (evq.mp reg) h
    | window _ _ | starena | sthbm | stlp | stsize | outChan _ | inChan _ _ => exact congrArg Host.Outcome.next (if_pos waits)
  · have judged : (if s.cur.rcv.engwsAgain.contains (num.toNat, s.cur.readXA xv) = true then none
        else s.engRefuse (s.pasidOf s.turn) r (s.cur.readXA xv)) = none := by
      rcases passes with passes | again
      · exact (if_congr Iff.rfl rfl passes).trans (ite_self _)
      · exact if_pos (by simpa using again)
    have writable : r ≠ .evq := fun e => h (evq.mp (e ▸ reg))
    obtain ⟨new, takes⟩ := engWriteLater_takes s p v writable
      (fun q => { q with engws := q.engws ++ [(q.seg, num.toNat, v)], engwsAgain := q.engwsAgain.erase (num.toNat, v) })
      .x 0x0E num.toNat (leBytes 8 v.toNat)
    refine ⟨_, new, ?_, takes⟩
    cases r with
    | evq => exact absurd rfl writable
    | window _ _ | starena | sthbm | stlp | stsize | outChan _ | inChan _ _ =>
      simp only [front, judged, Bool.false_eq_true, if_false] <;> rfl

/-- The oldest register read posts the value of its moment when its time has come, and not before. -/
theorem engrComplete_posts (c n : Nat) (o : EngOp) (r : EngReg) (s : State)
    (oldest : (s.core c).eng.regQ.find? (fun x => !x.complete) = some o) (cmd : o.cmd = .engr n) (reg : engReg? n = some r)
    (room : (s.core c).eng.evq.length < 128) :
    (o.doneAt ≤ s.cycle → ∃ t, exec (.engrComplete c) s = .next t ∧
      hasPosted s t c 3 7 0 o.addr (s.engRead (s.pasidOf c) c r) ∧ engineFrame s t c ∧ (t.core c).sp = (s.core c).sp) ∧
    (s.cycle < o.doneAt → exec (.engrComplete c) s = .next s) := by
  have runs : exec (.engrComplete c) s = execEngrComplete c s := rfl
  unfold execEngrComplete at runs
  simp only [oldest, cmd, reg] at runs
  refine ⟨fun due => ⟨_, runs.trans (if_neg (Nat.not_lt.mpr due)), ?_, engineFrame_modEng s c _, sp_modEng s c _⟩,
    fun early => runs.trans (if_pos early)⟩
  have posted := complete_hasPosted room (o := o) (by rw [cmd]; exact EngCmd.noConfusion) 0 (s.engRead (s.pasidOf c) c r)
  rwa [cmd] at posted

/-- Settles O26. -/
theorem engineRegisters : Obligations.EngineRegisters := by
  unfold Obligations.EngineRegisters
  refine ⟨⟨fun g xv num s on => execEngw_program g xv num s on, fun fr num v r s served => ?_, fun p v s => engRefuse_sthbm s p v⟩,
    fun c n o r s oldest cmd reg room => ?_⟩
  · intro p stands reg passes taken
    have done : taken (.next (s.command1 fr fun u => u.engineUnit p num.toNat v)) := engineUnit_served served stands reg passes
    refine ⟨done, done, done, done, ?_⟩
    rintro rfl
    exact done
  · obtain ⟨posts, waits⟩ := engrComplete_posts c n o r s oldest cmd reg room
    refine ⟨fun due => ?_, waits⟩
    obtain ⟨t, next, posted, frame, sp⟩ := posts due
    refine ⟨t, _, next, posted, frame, sp, fun h => by rw [h]; rfl, fun h => by rw [h]; rfl, fun h => by rw [h]; rfl,
      fun h => by rw [h]; rfl, fun w h => by rw [h]; rfl, fun w h => by rw [h]; rfl, fun h => by rw [h]; rfl⟩

end Sys2Proof.Machine
end

section
/-!
PROOFS. What an engine writes into scratchpads (R181, R193, R235, R236).
-/
namespace Sys2Proof.Machine

/-! ### Bytes of a memory that are written one after the other -/

/-- A memory has taken bytes at their addresses, and nothing else. -/
structure TakesBytes (m m' : Memory) (l : List (Nat × Byte)) : Prop where
  written : (l.map (·.1)).Nodup → ∀ x ∈ l, m'.read x.1 = x.2
  kept : ∀ q, (∀ x ∈ l, x.1 ≠ q) → m'.read q = m.read q

theorem TakesBytes.nil (m : Memory) : TakesBytes m m [] := ⟨fun _ _ h => absurd h List.not_mem_nil, fun _ _ => rfl⟩

theorem TakesBytes.write (m : Memory) (a : Nat) (b : Byte) : TakesBytes m (m.write a b) [(a, b)] := by
  refine ⟨fun _ x hx => ?_, fun q apart => ?_⟩
  · rw [List.mem_singleton.mp hx]
    exact Memory.read_write_same m a b
  · exact Memory.read_write_other m b (Ne.symm (apart (a, b) List.mem_cons_self))

theorem TakesBytes.cons {m m1 m' : Memory} {x : Nat × Byte} {l : List (Nat × Byte)} (first : TakesBytes m m1 [x])
    (rest : TakesBytes m1 m' l) : TakesBytes m m' (x :: l) := by
  refine ⟨fun nodup y hy => ?_, fun q apart => ?_⟩
  · obtain ⟨fresh, nodup⟩ := List.nodup_cons.mp nodup
    rcases List.mem_cons.mp hy with rfl | hy
    · rw [rest.kept y.1 fun z hz same => fresh (List.mem_map.mpr ⟨z, hz, same⟩)]
      exact first.written (List.nodup_singleton _) y List.mem_cons_self
    · exact rest.written nodup y hy
  · rw [rest.kept q fun z hz => apart z (List.mem_cons_of_mem x hz), first.kept q]
    intro z hz
    rw [List.mem_singleton.mp hz]
    exact apart x List.mem_cons_self

/-- A byte that is written twice is written. -/
theorem TakesBytes.again {m m1 m' : Memory} {x : Nat × Byte} (first : TakesBytes m m1 [x]) (second : TakesBytes m1 m' [x]) :
    TakesBytes m m' [x] :=
  ⟨second.written, fun q apart => (second.kept q apart).trans (first.kept q apart)⟩

/-! ### Cores that take bytes -/

/-- What a delivery to a core's scratchpad leaves of the core. -/
structure ScratchOnly (k k' : Core) : Prop where
  regs : k'.regs = k.regs
  arr : k'.arr = k.arr
  ls : k'.ls = k.ls
  seq : k'.seq = k.seq
  eng : k'.eng = k.eng

theorem ScratchOnly.refl (k : Core) : ScratchOnly k k := ⟨rfl, rfl, rfl, rfl, rfl⟩

theorem ScratchOnly.trans {k k' k'' : Core} (first : ScratchOnly k k') (second : ScratchOnly k' k'') : ScratchOnly k k'' :=
  ⟨second.regs.trans first.regs, second.arr.trans first.arr, second.ls.trans first.ls, second.seq.trans first.seq,
    second.eng.trans first.eng⟩

/-- Bytes reach the scratchpads of the named cores, and nothing else of the machine changes. -/
structure Delivered (s t : State) (named : List Nat) (l : List (Nat × Byte)) : Prop where
  only : ∀ e, ScratchOnly (s.core e) (t.core e)
  takes : ∀ e ∈ named, TakesBytes (s.core e).sp (t.core e).sp l
  others : ∀ e, e ∉ named → t.core e = s.core e
  clusters : t.clusters = s.clusters
  tasks : t.tasks = s.tasks
  pmem : t.pmem = s.pmem
  xs : t.xs = s.xs
  contexts : t.contexts = s.contexts
  link : t.link = s.link
  cycle : t.cycle = s.cycle

theorem Delivered.nil (s : State) (named : List Nat) : Delivered s s named [] :=
  ⟨fun _ => ScratchOnly.refl _, fun _ _ => TakesBytes.nil _, fun _ _ => rfl, rfl, rfl, rfl, rfl, rfl, rfl, rfl⟩

theorem Delivered.cons {s t u : State} {named : List Nat} {x : Nat × Byte} {l : List (Nat × Byte)} (first : Delivered s t named [x])
    (rest : Delivered t u named l) : Delivered s u named (x :: l) where
  only := fun e => (first.only e).trans (rest.only e)
  takes := fun e he => (first.takes e he).cons (rest.takes e he)
  others := fun e he => (rest.others e he).trans (first.others e he)
  clusters := rest.clusters.trans first.clusters
  tasks := rest.tasks.trans first.tasks
  pmem := rest.pmem.trans first.pmem
  xs := rest.xs.trans first.xs
  contexts := rest.contexts.trans first.contexts
  link := rest.link.trans first.link
  cycle := rest.cycle.trans first.cycle

/-- A byte of an engine's write as one named core takes it. -/
def takesByte (c : Nat) (own : Bool) (a : Nat) (b : Byte) (d : Nat) (k : Core) : Core :=
  { (if (d = c && own) = true then k.noteAccess [granSp a] false else k) with sp := k.sp.write a b }

theorem takesByte_scratch (c : Nat) (own : Bool) (a : Nat) (b : Byte) (d : Nat) (k : Core) : ScratchOnly k (takesByte c own a b d k) := by
  unfold takesByte
  split <;> exact ⟨rfl, rfl, rfl, rfl, rfl⟩

theorem delivered_one (s : State) (c : Nat) (own : Bool) (a : Nat) (b : Byte) (named : List Nat) :
    Delivered s (named.foldl (fun t d => t.modCore d (takesByte c own a b d)) s) named [(a, b)] := by
  induction named generalizing s with
  | nil => exact ⟨fun _ => ScratchOnly.refl _, fun _ h => absurd h List.not_mem_nil, fun _ _ => rfl, rfl, rfl, rfl, rfl, rfl, rfl, rfl⟩
  | cons d named ih =>
    let s1 := s.modCore d (takesByte c own a b d)
    have later := ih s1
    have here : s1.core d = takesByte c own a b d (s.core d) := State.core_modCore_same s d _
    have apart : ∀ e, e ≠ d → s1.core e = s.core e := fun e h => State.core_modCore_other s _ h
    have step : TakesBytes (s.core d).sp (s1.core d).sp [(a, b)] := by
      rw [here]
      exact TakesBytes.write _ a b
    refine ⟨fun e => ?_, fun e he => ?_, fun e he => ?_, later.clusters, later.tasks, later.pmem, later.xs, later.contexts, later.link,
      later.cycle⟩
    · refine ScratchOnly.trans ?_ (later.only e)
      by_cases h : e = d
      · rw [h, here]
        exact takesByte_scratch c own a b d _
      · rw [apart e h]
        exact ScratchOnly.refl _
    · by_cases h : e = d
      · subst h
        by_cases more : e ∈ named
        · exact step.again (later.takes e more)
        · have kept : ((e :: named).foldl (fun t d => t.modCore d (takesByte c own a b d)) s).core e = s1.core e := later.others e more
          rw [kept]
          exact step
      · have taken := later.takes e ((List.mem_cons.mp he).resolve_left h)
        rwa [apart e h] at taken
    · rw [List.mem_cons, not_or] at he
      exact (later.others e he.2).trans (apart e he.1)

/-! ### The writes of an engine at level 0 -/

/-- Every byte lies within the scratchpad, in a granule that its core's segment has not read first (R193). -/
def FitsScratchpad (s : State) (c : Nat) (bs : List (Int × Byte)) : Prop :=
  ∀ x ∈ bs, 0 ≤ x.1 ∧ x.1 < 0x300000 ∧ Table.get (s.core c).rcv.seen false (3 * (x.1.toNat / 128)) = false ∧
    Table.get (s.core c).rcv.prevSeen false (3 * (x.1.toNat / 128)) = false

/-- The scratchpad's places of bytes that fit. -/
def spPlaces (bs : List (Int × Byte)) : List (Loc × Byte) := bs.map fun x => (.sp x.1.toNat, x.2)

theorem toNat_mod_two_pow {a : Int} {n : Nat} (low : 0 ≤ a) (high : a < 2 ^ n) : (a % 2 ^ n).toNat = a.toNat := by
  rw [Int.emod_eq_of_lt low high]

theorem locate_sp {s : State} {c before : Nat} {wr : Bool} {a : Int} (low : 0 ≤ a) (high : a < 0x300000) :
    s.locate c before 0 wr a = .inl (.sp a.toNat) := by
  have n : (a % 2 ^ 64).toNat = a.toNat := toNat_mod_two_pow low (by omega)
  have within : ¬ Config.spBytes ≤ (a % 2 ^ 64).toNat := by
    rw [n]
    show ¬ 0x300000 ≤ a.toNat
    omega
  unfold State.locate
  exact (if_neg within).trans (by rw [n])

/-- The granules of a place of which an engine's write asks whether they were read first. -/
def trackedGranules (own : Bool) (l : Loc) : List Nat :=
  match l with
  | .sp a => if own then [granSp a] else []
  | .cp a => [granPool a]
  | _ => []

/-- The step of the check that an engine's write makes for each byte. -/
def checkByte (s : State) (c before lvl : Nat) (own : Bool) (acc : List (Loc × Byte) × Nat) (x : Int × Byte) : List (Loc × Byte) × Nat :=
  if acc.2 != 0 then acc
  else match s.locate c before lvl true x.1 with
    | .inr f => (acc.1, f)
    | .inl l => if (s.core c).breaches (trackedGranules own l) s.cycle then (acc.1, 0x46) else (acc.1 ++ [(l, x.2)], 0)

theorem checkByte_place {s : State} {c before lvl : Nat} {own : Bool} {x : Int × Byte} {l : Loc}
    (located : s.locate c before lvl true x.1 = .inl l) (unread : (s.core c).breaches (trackedGranules own l) s.cycle = false)
    (acc : List (Loc × Byte)) : checkByte s c before lvl own (acc, 0) x = (acc ++ [(l, x.2)], 0) := by
  unfold checkByte
  rw [located]
  simp only [unread]
  rfl

/-- Where the check of every byte ends, an engine's write reaches all its places. -/
theorem checkOut_of_foldl {s : State} {c before lvl : Nat} {own : Bool} {bs : List (Int × Byte)} {ls : List (Loc × Byte)}
    (length : ls.length = bs.length) (folds : bs.foldl (checkByte s c before lvl own) ([], 0) = (ls, 0)) :
    s.checkOut c before lvl own bs = (ls, 0) := by
  unfold State.checkOut
  extract_lets r
  have ends : r = (ls, 0) := folds
  clear_value r
  subst ends
  have none_left : bs.drop (ls, 0).1.length = [] := List.drop_eq_nil_of_le length.ge
  rw [none_left]
  rfl

theorem checkOut_places {s : State} {c before lvl : Nat} {own : Bool} {bs : List (Int × Byte)} {place : Int × Byte → Loc}
    (located : ∀ x ∈ bs, s.locate c before lvl true x.1 = .inl (place x))
    (unread : ∀ x ∈ bs, (s.core c).breaches (trackedGranules own (place x)) s.cycle = false) :
    s.checkOut c before lvl own bs = (bs.map fun x => (place x, x.2), 0) := by
  refine checkOut_of_foldl (List.length_map _) ?_
  have step : ∀ (l : List (Int × Byte)) (acc : List (Loc × Byte)), (∀ x ∈ l, x ∈ bs) →
      l.foldl (checkByte s c before lvl own) (acc, 0) = (acc ++ l.map fun x => (place x, x.2), 0) := by
    intro l
    induction l with
    | nil => exact fun acc _ => by rw [List.map_nil, List.append_nil, List.foldl_nil]
    | cons x l ih =>
      intro acc within
      have hx := within x List.mem_cons_self
      rw [List.foldl_cons, checkByte_place (located x hx) (unread x hx), ih _ fun y hy => within y (List.mem_cons_of_mem x hy),
        List.append_assoc]
      rfl
  exact step bs [] fun _ h => h

theorem checkOut_sp {s : State} {c : Nat} {bs : List (Int × Byte)} (fits : FitsScratchpad s c bs) (before : Nat) (own : Bool) :
    s.checkOut c before 0 own bs = (spPlaces bs, 0) := by
  refine checkOut_places (place := fun x => .sp x.1.toNat) (fun x hx => ?_) fun x hx => ?_
  · obtain ⟨low, high, -, -⟩ := fits x hx
    exact locate_sp low high
  · obtain ⟨-, -, unread, past⟩ := fits x hx
    cases own with
    | false => rfl
    | true => simp [trackedGranules, Core.breaches, granSp, unread, past]

/-! ### The write -/

theorem remoteRuns_spPlaces (bs : List (Int × Byte)) : remoteRuns (spPlaces bs) = [] := by
  simp [remoteRuns, spPlaces]

theorem rung_spPlaces (bs : List (Int × Byte)) : rung (spPlaces bs) = [] := by
  simp [rung, spPlaces]

theorem wholeLines_spPlaces (bs : List (Int × Byte)) : wholeLines (spPlaces bs) = [] := by
  simp [wholeLines, spPlaces]

/-- What does not concern the bytes may change besides. -/
theorem Delivered.aside {s u : State} {named : List Nat} {l : List (Nat × Byte)} (h : Delivered s u named l) (inputs : List (Nat × Instr))
    (free : Nat) (poison : List Nat) : Delivered s { u with inputs := inputs, free := free, poison := poison } named l :=
  ⟨h.only, h.takes, h.others, h.clusters, h.tasks, h.pmem, h.xs, h.contexts, h.link, h.cycle⟩

theorem foldl_askBanks_eq (rows : List Nat) (named : List Nat) (s : State) :
    ∃ i n, named.foldl (fun (t : State) d => t.askBanks d rows) s = { s with inputs := i, free := n } := by
  induction named generalizing s with
  | nil => exact ⟨s.inputs, s.free, rfl⟩
  | cons d named ih =>
    obtain ⟨i, n, first⟩ := askBanks_eq s d rows
    rw [List.foldl_cons, first]
    exact ih _

theorem delivered_bytes (c : Nat) (own : Bool) (named : List Nat) (bs : List (Int × Byte)) (s : State) :
    Delivered s ((spPlaces bs).foldl (fun (t : State) x => t.outByte c own named x.1 x.2) s) named (bs.map fun x => (x.1.toNat, x.2)) := by
  induction bs generalizing s with
  | nil => exact Delivered.nil s named
  | cons x bs ih => exact (delivered_one s c own x.1.toNat x.2 named).cons (ih _)

/-- An engine's write into scratchpads delivers its bytes to the cores that it names. -/
theorem writeOut_sp (s : State) (c chip : Nat) (own : Bool) (named : List Nat) (bs : List (Int × Byte)) :
    Delivered s (s.writeOut c chip own named 0 (spPlaces bs)) named (bs.map fun x => (x.1.toNat, x.2)) := by
  have delivered := delivered_bytes c own named bs s
  unfold State.writeOut
  simp only [if_true, remoteRuns_spPlaces, rung_spPlaces, wholeLines_spPlaces, List.foldl_nil]
  generalize (spPlaces bs).foldl (fun (t : State) x => t.outByte c own named x.1 x.2) s = u at delivered ⊢
  split
  · exact delivered.aside u.inputs u.free _
  · obtain ⟨i, n, asked⟩ := foldl_askBanks_eq _ named u
    rw [asked]
    exact delivered.aside i n _

/-! ### The operation that completes with its write -/

theorem spendRemote_low {s : State} {zs : List Shape} (low : ∀ z ∈ zs, z.lvl < 3) : s.spendRemote zs = s := by
  unfold State.spendRemote
  refine if_neg ?_
  simpa using low

theorem nodup_toNat {bs : List (Int × Byte)} (low : ∀ x ∈ bs, 0 ≤ x.1) (nodup : (bs.map (·.1)).Nodup) :
    ((bs.map fun x => (x.1.toNat, x.2)).map (·.1)).Nodup := by
  rw [List.map_map]
  have two : (bs.map ((fun x : Nat × Byte => x.1) ∘ fun x : Int × Byte => (x.1.toNat, x.2))) = (bs.map (·.1)).map Int.toNat := by
    rw [List.map_map]
    rfl
  rw [two]
  refine nodup.map_on fun a ha b hb same => ?_
  obtain ⟨x, hx, rfl⟩ := List.mem_map.mp ha
  obtain ⟨y, hy, rfl⟩ := List.mem_map.mp hb
  have := low x hx
  have := low y hy
  omega

/-- Bytes that fit are in a scratchpad that has taken them. -/
theorem TakesBytes.of_fits {m m' : Memory} {bs : List (Int × Byte)} (low : ∀ x ∈ bs, 0 ≤ x.1)
    (takes : TakesBytes m m' (bs.map fun x => (x.1.toNat, x.2))) :
    ((bs.map (·.1)).Nodup → ∀ x ∈ bs, m'.read x.1.toNat = x.2) ∧ (∀ q, (∀ x ∈ bs, x.1.toNat ≠ q) → m'.read q = m.read q) := by
  refine ⟨fun nodup x hx => takes.written (nodup_toNat low nodup) (x.1.toNat, x.2) (List.mem_map_of_mem hx), fun q apart => takes.kept q ?_⟩
  intro y hy
  obtain ⟨x, hx, rfl⟩ := List.mem_map.mp hy
  exact apart x hx

/-- A frame of a core's engine that is composed of two. -/
theorem engineFrame_trans {s t u : State} {c : Nat} (first : engineFrame s t c) (second : engineFrame t u c) : engineFrame s u c := by
  obtain ⟨⟨regs, arr, ls, seq, others, clusters, tasks, pmem⟩, xs⟩ := first
  obtain ⟨⟨regs', arr', ls', seq', others', clusters', tasks', pmem'⟩, xs'⟩ := second
  exact ⟨⟨regs'.trans regs, arr'.trans arr, ls'.trans ls, seq'.trans seq, fun d h => (others' d h).trans (others d h),
    clusters'.trans clusters, tasks'.trans tasks, pmem'.trans pmem⟩, xs'.trans xs⟩

theorem Delivered.engine {s t : State} {c : Nat} {l : List (Nat × Byte)} (h : Delivered s t [c] l) : engineFrame s t c :=
  have only := h.only c
  ⟨⟨only.regs, only.arr, only.ls, only.seq, fun d other => h.others d (by simpa using other), h.clusters, h.tasks, h.pmem⟩, h.xs⟩

/-- A record that is posted behind a change that leaves the event queue. -/
theorem hasPosted_of_evq {s t u : State} {c kind slot status : Nat} {addr : CodeAddr} {w1 : Word64}
    (kept : (t.core c).eng.evq = (s.core c).eng.evq) (posted : hasPosted t u c kind slot status addr w1) :
    hasPosted s u c kind slot status addr w1 := by
  obtain ⟨r, evq, words⟩ := posted
  exact ⟨r, evq.trans (by rw [kept]), words⟩

/-- The bytes of an operation are in its core's scratchpad, and its record is posted. -/
theorem delivered_complete {s t : State} {c : Nat} {o : EngOp} {bs : List (Int × Byte)} (low : ∀ x ∈ bs, 0 ≤ x.1)
    (delivered : Delivered s t [c] (bs.map fun x => (x.1.toNat, x.2))) (room : (s.core c).eng.evq.length < 128)
    (plain : o.cmd ≠ .atomic) (status : Nat) (w1 : Word64) :
    hasPosted s (t.complete c o status w1) c (recordKind o.cmd) 7 status o.addr w1 ∧ engineFrame s (t.complete c o status w1) c ∧
      ((bs.map (·.1)).Nodup → ∀ x ∈ bs, ((t.complete c o status w1).core c).sp.read x.1.toNat = x.2) ∧
      (∀ q, (∀ x ∈ bs, x.1.toNat ≠ q) → ((t.complete c o status w1).core c).sp.read q = (s.core c).sp.read q) := by
  have kept : (t.core c).eng = (s.core c).eng := (delivered.only c).eng
  have sp : ((t.complete c o status w1).core c).sp = (t.core c).sp := sp_modEng t c _
  rw [sp]
  refine ⟨hasPosted_of_evq (congrArg Engines.evq kept) (complete_hasPosted (by rw [kept]; exact room) plain status w1),
    engineFrame_trans delivered.engine (engineFrame_modEng t c _), (delivered.takes c List.mem_cons_self).of_fits low⟩

end Sys2Proof.Machine
end

section
/-!
PROOFS. Sends, end tokens and receives of a core's channels (R206, R213, R227, R248-R250, R371, R406).
-/
namespace Sys2Proof.Machine

/-! ### What may leave (R205, R206, R213) -/

theorem clearFor_of_clear {s : State} {o : EngOp} (clear : opIsClear s o) : s.clearFor o.clearAt o.tid = true := by
  obtain ⟨⟨τ, at_, due⟩, committed⟩ := clear
  unfold State.clearFor
  rw [at_]
  cases task : s.task? o.tid with
  | none => simp [due]
  | some k => simpa [due] using committed k task

theorem sendClear_of_clear {s : State} {c : Nat} {o : EngOp} (clear : opIsClear s o) (before : Sys2Proof.nothingBefore s c) :
    s.sendClear c o = true := by
  unfold State.sendClear
  rw [clearFor_of_clear clear]
  exact not_overtaken before _ _ _ _ _

/-! ### Flits -/

theorem emit_sent {s : State} (gangs : s.link.gangs = []) (up : s.upPorts ≠ []) (p : Nat) (f : Flit) :
    (s.emit p f).link.sent = s.link.sent ++ [f] ∧ (s.emit p f).inputs = s.inputs := by
  have open_ : s.gated p = false := by simp [State.gated, gangs]
  unfold State.emit
  rw [open_]
  unfold State.send
  cases ports : s.upPorts with
  | nil => exact absurd ports up
  | cons q qs => exact ⟨rfl, rfl⟩

theorem emit_contexts (s : State) (p : Nat) (f : Flit) : (s.emit p f).contexts = s.contexts := by
  unfold State.emit
  split
  · rfl
  · unfold State.send
    split <;> rfl

/-- What reaches a channel of this chip comes in with the next cycle, and what reaches another leaves on a link. -/
structure SentTo (s t : State) (here : Bool) (i : Instr) (f : Flit) : Prop where
  machine : leavesMachine s t
  contexts : t.contexts = s.contexts
  near : here = true → t.inputs = s.inputs ++ [(s.cycle + 1, i)] ∧ t.link = s.link
  far : here = false → s.link.gangs = [] → s.upPorts ≠ [] → t.link.sent = s.link.sent ++ [f] ∧ t.inputs = s.inputs

theorem sentTo (s : State) (here : Bool) (p : Nat) (i : Instr) (f : Flit) :
    SentTo s (if here = true then s.arriveHere i else s.emit p f) here i f := by
  cases here with
  | true => exact ⟨⟨rfl, rfl, rfl, rfl, rfl, rfl⟩, rfl, fun _ => ⟨rfl, rfl⟩, fun h => Bool.noConfusion h⟩
  | false => exact ⟨(s.emit_announces p f).machine, emit_contexts s p f, fun h => Bool.noConfusion h, fun _ gangs up => emit_sent gangs up p f⟩

/-! ### Operations in their queue -/

theorem Engines.head_setOp {e : Engines} {o x : EngOp} {rest : EngQueue} (oldest : e.queue (queueNo x.cmd) = o :: rest)
    (same : x.id = o.id) : ((e.setOp x).queue (queueNo x.cmd)).head? = some x := by
  unfold Engines.setOp
  rw [setQueue_same _ (queueNo_lt x.cmd), oldest]
  simp [same]

/-- The oldest operation of a queue is replaced, and nothing but its core's engine changes. -/
theorem modEng_setOp {s : State} {c : Nat} {o x : EngOp} {rest : EngQueue} (oldest : (s.core c).eng.queue (queueNo x.cmd) = o :: rest)
    (same : x.id = o.id) :
    (((s.modCore c fun k => k.modEng fun e => e.setOp x).core c).eng.queue (queueNo x.cmd)).head? = some x := by
  rw [State.core_modCore_same]
  exact Engines.head_setOp oldest same

/-! ### Sends and end tokens (R248, R250, R406) -/

section
variable {s : State} {c ch : Nat} {o : EngOp} {rest : EngQueue}

/-- The record of an operation that has left its channel. -/
theorem sent_posts {t : State} {i : Instr} {f : Flit} {here : Bool} (sent : SentTo s t here i f) (room : (s.core c).eng.evq.length < 128)
    (plain : o.cmd ≠ .atomic) : hasPosted s (t.complete c { o with sent := true } 0 0) c (recordKind o.cmd) 7 0 o.addr 0 ∧
      engineFrame s (t.complete c { o with sent := true } 0 0) c := by
  obtain ⟨cores, clusters, tasks, pmem, xs, hwcfg⟩ := sent.machine
  have core : ∀ d, t.core d = s.core d := fun d => by rw [State.core, cores]; rfl
  have frame : engineFrame s t c :=
    ⟨⟨by rw [core], by rw [core], by rw [core], by rw [core], fun d _ => core d, clusters, tasks, pmem⟩, xs⟩
  exact ⟨hasPosted_of_evq (by rw [core]) (complete_hasPosted (o := { o with sent := true }) (by rw [core]; exact room) plain 0 0),
    engineFrame_trans frame (engineFrame_modEng t c _)⟩

theorem chsendRelease_runs {z : Shape} {tag ts : Nat} (oldest : (s.core c).eng.chanQ = o :: rest) (pending : o.complete = false)
    (good : o.status = 0) (clear : opIsClear s o) (before : Sys2Proof.nothingBefore s c) (cmd : o.cmd = .chsend z tag ts ch)
    (started : o.started = true) :
    let v := (s.ctx (s.pasidOf c)).outChan ch
    (o.doneAt = 0 → ∃ due, s.cycle < due ∧
      exec (.chsendRelease c) s = .next (s.takeFree.2.modCore c fun k => k.modEng fun e => e.setOp { o with doneAt := due })) ∧
    (o.doneAt ≠ 0 → s.cycle < o.doneAt → exec (.chsendRelease c) s = .next s) ∧
    (o.doneAt ≠ 0 → o.doneAt ≤ s.cycle →
      let tile : Tile := { pasid := s.pasidOf c, chan := BitVec.ofNat 6 v.dchan, prod := BitVec.ofNat 4 v.prod, seq := v.nextSeq,
                           tag := BitVec.ofNat 32 tag, ts := BitVec.ofNat 64 ts,
                           data := streamBytes z.fmt (o.elems.map (·.1)), stamp := o.stamp }
      let s1 := s.modCtx (s.pasidOf c) fun x => x.setOut ch { v with nextSeq := v.nextSeq + 1 }
      exec (.chsendRelease c) s = .next (((if decide (v.dchip = s.chipNo) = true then s1.arriveHere (.tileArrival tile)
        else s1.emit (s.pasidOf c) (.tile v.dchip tile)).complete c { o with sent := true } 0 0))) := by
  have ready := sendClear_of_clear clear before
  have runs : exec (.chsendRelease c) s = execChsendRelease c s := rfl
  unfold execChsendRelease at runs
  cases o
  dsimp only at pending good cmd started ready
  subst pending good cmd started
  simp only [oldest, ready, Bool.false_eq_true, Bool.not_true, if_false, bne_self_eq_false, (by decide : ¬ (0 : Nat) = 0x4B)] at runs
  refine ⟨fun fresh => ⟨_, ?_, runs.trans (if_pos fresh)⟩, fun moving waits => runs.trans ((if_neg moving).trans (if_pos waits)),
    fun moving due => runs.trans ((if_neg moving).trans ((if_neg (Nat.not_lt.mpr due)).trans ?_))⟩
  · omega
  · simp only [decide_eq_true_eq]

theorem cheosRelease_runs (oldest : (s.core c).eng.chanQ = o :: rest) (pending : o.complete = false)
    (good : o.status = 0) (clear : opIsClear s o) (before : Sys2Proof.nothingBefore s c) (cmd : o.cmd = .cheos ch) :
    let v := (s.ctx (s.pasidOf c)).outChan ch
    exec (.chsendRelease c) s = .next ((if decide (v.dchip = s.chipNo) = true then
        s.arriveHere (.eosTokenArrival { pasid := s.pasidOf c, stamp := o.stamp } (BitVec.ofNat 6 v.dchan) (BitVec.ofNat 4 v.prod))
      else s.emit (s.pasidOf c) (.token v.dchip (s.pasidOf c) v.dchan v.prod o.stamp)).complete c { o with sent := true } 0 0) := by
  have ready := sendClear_of_clear clear before
  have runs : exec (.chsendRelease c) s = execChsendRelease c s := rfl
  unfold execChsendRelease at runs
  cases o
  dsimp only at pending good cmd ready
  subst pending good cmd
  simp only [oldest, ready, Bool.false_eq_true, Bool.not_true, if_false, (by decide : ¬ (0 : Nat) = 0x4B)] at runs
  rw [runs]
  simp only [decide_eq_true_eq]

/-- What a receive does when its time has come. -/
theorem chrecvComplete_runs {d : Shape} (oldest : (s.core c).eng.chanQ = o :: rest) (cmd : o.cmd = .chrecv d ch)
    (pending : o.complete = false) :
    (s.cycle < o.doneAt → exec (.chrecvComplete c) s = .next s) ∧
    (o.doneAt ≤ s.cycle → o.status ≠ 0 → exec (.chrecvComplete c) s = .next (s.complete c o o.status 0)) ∧
    (o.doneAt ≤ s.cycle → o.status = 0 → d.lvl = 0 → FitsScratchpad s c (d.placeCodes (streamCodes d.fmt d.count o.data)) →
      exec (.chrecvComplete c) s = .next ((s.writeOut c d.chip true [c] 0
        (spPlaces (d.placeCodes (streamCodes d.fmt d.count o.data)))).complete c o 0 0)) := by
  have runs : exec (.chrecvComplete c) s = execChrecvComplete c s := rfl
  unfold execChrecvComplete at runs
  simp only [oldest, cmd, pending, Bool.false_or, decide_eq_true_eq] at runs
  refine ⟨fun early => runs.trans (if_pos early), fun due bad => runs.trans ((if_neg (Nat.not_lt.mpr due)).trans (if_pos (by simpa using bad))),
    fun due good low fits => runs.trans ((if_neg (Nat.not_lt.mpr due)).trans ((if_neg (by simp [good])).trans ?_))⟩
  have inside : ((spPlaces (d.placeCodes (streamCodes d.fmt d.count o.data))).any fun x => leaves x.1) = false := by
    simp [spPlaces, leaves]
  rw [low, checkOut_sp fits]
  dsimp only
  rw [inside, spendRemote_low (by simp [low])]
  rfl

end

/-! ### The statement -/

/-- A tile leaves with the next number of its channel, and its record is posted. -/
theorem chsend_leaves {s t : State} {c ch : Nat} {o : EngOp} {i : Instr} {f : Flit} {here : Bool} {v : OutChan}
    (sent : SentTo (s.modCtx (s.pasidOf c) fun x => x.setOut ch v) t here i f) (room : (s.core c).eng.evq.length < 128)
    (plain : o.cmd ≠ .atomic) :
    let u := t.complete c { o with sent := true } 0 0
    (u.ctx (s.pasidOf c)).outChan ch = v ∧ hasPosted s u c (recordKind o.cmd) 7 0 o.addr 0 ∧ engineFrame s u c ∧
      (here = true → u.inputs = s.inputs ++ [(s.cycle + 1, i)] ∧ u.link = s.link) ∧
      (here = false → s.link.gangs = [] → s.upPorts ≠ [] → u.link.sent = s.link.sent ++ [f] ∧ u.inputs = s.inputs) := by
  obtain ⟨posted, frame⟩ := sent_posts sent room plain
  refine ⟨?_, posted, frame, sent.near, sent.far⟩
  have ctx : (t.complete c { o with sent := true } 0 0).ctx (s.pasidOf c) = (s.ctx (s.pasidOf c)).setOut ch v := by
    refine Eq.trans ?_ (State.ctx_modCtx_same s (s.pasidOf c) fun x => x.setOut ch v)
    exact congrArg (fun l => Table.get l {} (s.pasidOf c)) sent.contexts
  rw [ctx]
  exact Table.get_put_same _ _ _ _

/-- Settles O27. -/
theorem channelsSendAndReceive : Obligations.ChannelsSendAndReceive := by
  unfold Obligations.ChannelsSendAndReceive
  refine ⟨fun c ch o rest s oldest pending good due gangs before front room => ?_, fun c ch o rest d s oldest cmd pending room => ?_⟩
  · intro p v
    have clear : opIsClear s o := ⟨due, front⟩
    refine ⟨fun z tag ts cmd started fresh => ?_, fun z tag ts cmd started moving early => ?_, fun z tag ts cmd started moving late => ?_,
      fun cmd => ?_⟩
    · obtain ⟨starts, -, -⟩ := chsendRelease_runs oldest pending good clear before cmd started
      obtain ⟨τ, later, runs⟩ := starts fresh
      have queue : queueNo ({ o with doneAt := τ } : EngOp).cmd = 2 := by rw [show ({ o with doneAt := τ } : EngOp).cmd = _ from cmd]; rfl
      have head := modEng_setOp (s := s.takeFree.2) (c := c) (o := o) (rest := rest) (x := { o with doneAt := τ }) (by rw [queue]; exact oldest) rfl
      rw [queue] at head
      exact ⟨_, { o with doneAt := τ }, runs, head, later, rfl, engineFrame_modEng s.takeFree.2 c _, rfl, rfl, rfl⟩
    · obtain ⟨-, waits, -⟩ := chsendRelease_runs oldest pending good clear before cmd started
      exact waits moving early
    · obtain ⟨-, -, leaves_⟩ := chsendRelease_runs oldest pending good clear before cmd started
      obtain ⟨next, posted, frame, near, far⟩ := chsend_leaves (sentTo _ _ _ _ _) room (o := o) (by rw [cmd]; exact EngCmd.noConfusion)
      rw [show recordKind o.cmd = 9 from congrArg recordKind cmd] at posted
      exact ⟨_, leaves_ moving late, next, posted, frame, fun same => near (decide_eq_true same),
        fun other up => far (decide_eq_false other) gangs up⟩
    · have sent := sentTo s (decide (v.dchip = s.chipNo)) p
        (.eosTokenArrival { pasid := p, stamp := o.stamp } (BitVec.ofNat 6 v.dchan) (BitVec.ofNat 4 v.prod))
        (.token v.dchip p v.dchan v.prod o.stamp)
      obtain ⟨posted, frame⟩ := sent_posts sent room (o := o) (by rw [cmd]; exact EngCmd.noConfusion)
      rw [show recordKind o.cmd = 11 from congrArg recordKind cmd] at posted
      exact ⟨_, cheosRelease_runs oldest pending good clear before cmd, posted, frame, sent.contexts,
        fun same => (sent.near (decide_eq_true same)).1, fun other up => (sent.far (decide_eq_false other) gangs up).1⟩
  · intro bs
    obtain ⟨waits, fails, takes⟩ := chrecvComplete_runs oldest cmd pending
    have plain : o.cmd ≠ .atomic := by rw [cmd]; exact EngCmd.noConfusion
    refine ⟨fun due good low fits => ?_, fun due bad => ?_, waits⟩
    · have done := delivered_complete (fun x hx => (fits x hx).1) (writeOut_sp s c d.chip true [c] bs) room plain 0 0
      rw [show recordKind o.cmd = 10 from congrArg recordKind cmd] at done
      exact ⟨_, takes due good low fits, done⟩
    · have posted := complete_hasPosted room plain o.status 0
      rw [show recordKind o.cmd = 10 from congrArg recordKind cmd, bad] at posted
      refine ⟨_, fails due (by rw [bad]; decide), ?_⟩
      rw [bad]
      exact ⟨posted, engineFrame_modEng s c _, sp_modEng s c _⟩

end Sys2Proof.Machine
end

section
/-!
PROOFS. Copies start, complete in the scratchpads of their team, and invalidations pass (R213, R214, R222, R235-R237).
-/
namespace Sys2Proof.Machine

/-! ### The start of a copy (R219, R236, R266) -/

theorem opCommitted_iff (s : State) (o : EngOp) :
    s.opCommitted o = true ↔ ∀ k, s.task? o.tid = some k → s.isFrontier o.tid = true ∨ k.state = .committed := by
  unfold State.opCommitted
  cases h : s.task? o.tid with
  | none => exact ⟨fun _ _ h => absurd h (by simp), fun _ => rfl⟩
  | some k => simp

theorem tracked_iff (z : Shape) : tracked z = true ↔ 2 ≤ z.lvl := decide_eq_true_iff

/-- What the reading of a tensor notes with its core changes no register, queue or record. -/
structure Noted (c : Nat) (s t : State) : Prop where
  frame : engineFrame s t c
  sp : (t.core c).sp = (s.core c).sp
  copyQ : (t.core c).eng.copyQ = (s.core c).eng.copyQ
  evq : (t.core c).eng.evq = (s.core c).eng.evq

theorem Noted.refl (c : Nat) (s : State) : Noted c s s := ⟨⟨⟨rfl, rfl, rfl, rfl, fun _ _ => rfl, rfl, rfl, rfl⟩, rfl⟩, rfl, rfl, rfl⟩

theorem Noted.of_cores {c : Nat} {s t : State} (cores : t.cores = s.cores) (clusters : t.clusters = s.clusters) (tasks : t.tasks = s.tasks)
    (pmem : t.pmem = s.pmem) (xs : t.xs = s.xs) : Noted c s t := by
  have core : ∀ d, t.core d = s.core d := fun d => by rw [State.core, cores]; rfl
  exact ⟨⟨⟨by rw [core], by rw [core], by rw [core], by rw [core], fun d _ => core d, clusters, tasks, pmem⟩, xs⟩, by rw [core],
    by rw [core], by rw [core]⟩

theorem Noted.trans {c : Nat} {s t u : State} (first : Noted c s t) (second : Noted c t u) : Noted c s u :=
  ⟨engineFrame_trans first.frame second.frame, second.sp.trans first.sp, second.copyQ.trans first.copyQ, second.evq.trans first.evq⟩

theorem Noted.of_core {c : Nat} {s : State} {f : Core → Core} (regs : (f (s.core c)).regs = (s.core c).regs)
    (arr : (f (s.core c)).arr = (s.core c).arr) (ls : (f (s.core c)).ls = (s.core c).ls) (seq : (f (s.core c)).seq = (s.core c).seq)
    (sp : (f (s.core c)).sp = (s.core c).sp) (copyQ : (f (s.core c)).eng.copyQ = (s.core c).eng.copyQ)
    (evq : (f (s.core c)).eng.evq = (s.core c).eng.evq) : Noted c s (s.modCore c f) := by
  have core := State.core_modCore_same s c f
  exact ⟨⟨⟨by rw [core, regs], by rw [core, arr], by rw [core, ls], by rw [core, seq], fun d other => State.core_modCore_other s f other,
    rfl, rfl, rfl⟩, rfl⟩, by rw [core, sp], by rw [core, copyQ], by rw [core, evq]⟩

theorem observeHeld_noted (s : State) (c : Nat) (hs : List Held) : Noted c s (s.observeHeld c hs) := by
  unfold State.observeHeld
  split
  · exact Noted.refl c s
  · exact Noted.of_core rfl rfl rfl rfl rfl rfl rfl

theorem dependOnPool_noted (s : State) (c a n : Nat) : Noted c s (s.dependOnPool c a n) := by
  unfold State.dependOnPool
  dsimp only
  split
  · exact Noted.refl c s
  · exact Noted.of_core rfl rfl rfl rfl rfl rfl rfl

theorem tensorDepends_noted (s : State) (c before : Nat) (z : Shape) (scales : Bool) : Noted c s (s.tensorDepends c before z scales) :=
  (observeHeld_noted s c _).trans (foldl_keeps (R := Noted c) (Noted.refl c) Noted.trans (fun t a => dependOnPool_noted t c a 1) _ _)

theorem spendRemote_noted (c : Nat) (s : State) (zs : List Shape) : Noted c s (s.spendRemote zs) := by
  unfold State.spendRemote
  split
  · exact Noted.of_cores rfl rfl rfl rfl rfl
  · exact Noted.refl c s

theorem countRemote_noted (c : Nat) (s : State) (z : Shape) : Noted c s (s.countRemote z) := by
  unfold State.countRemote
  split
  · exact Noted.refl c s
  · split
    · exact Noted.refl c s
    · exact Noted.of_cores rfl rfl rfl rfl rfl

section
variable {s : State} {c : Nat} {o : EngOp} {rest : EngQueue} {d a : Shape} {m : Option Nat}

/-- Does a copy that has not started wait? -/
def copyWaits (s : State) (c : Nat) (o : EngOp) (d a : Shape) : Prop :=
  (2 ≤ a.lvl ∨ 2 ≤ d.lvl) ∧ s.opCommitted o = false ∨
    2 ≤ a.lvl ∧ (s.tensorHeld c o.id a true = true ∨ s.tensorUnclear c o a true = true)

/-- The copy as it has read its source. -/
def copyRead (s : State) (c : Nat) (o : EngOp) (a : Shape) : EngOp :=
  if tracked a = true then { o with elems := (s.readTensor c o.id a true).1, status := (s.readTensor c o.id a true).2 } else o

theorem copyRead_fields (s : State) (c : Nat) (o : EngOp) (a : Shape) :
    (copyRead s c o a).id = o.id ∧ (copyRead s c o a).cmd = o.cmd ∧
    (2 ≤ a.lvl → (copyRead s c o a).elems = (s.readTensor c o.id a true).1) ∧ (a.lvl < 2 → (copyRead s c o a).elems = o.elems) ∧
    (copyRead s c o a).status = (if 2 ≤ a.lvl then (s.readTensor c o.id a true).2 else o.status) := by
  unfold copyRead
  by_cases h : 2 ≤ a.lvl
  · rw [if_pos ((tracked_iff a).mpr h), if_pos h]
    exact ⟨rfl, rfl, fun _ => rfl, fun low => absurd h (Nat.not_le.mpr low), rfl⟩
  · rw [if_neg fun t => h ((tracked_iff a).mp t), if_neg h]
    exact ⟨rfl, rfl, fun high => absurd high h, fun _ => rfl, rfl⟩

theorem copyStart_waits (oldest : (s.core c).eng.copyQ = o :: rest) (cmd : o.cmd = .copy d a m) (waits : copyWaits s c o d a) :
    exec (.copyStart c) s = .next s := by
  have runs : exec (.copyStart c) s = execCopyStart c s := rfl
  unfold execCopyStart at runs
  simp only [oldest, cmd] at runs
  refine runs.trans (if_pos ?_)
  rw [Bool.or_eq_true, Bool.or_eq_true]
  rcases waits with ⟨far, front⟩ | ⟨far, stays⟩
  · left; right
    rw [front, Bool.not_false, Bool.and_true, Bool.or_eq_true, tracked_iff, tracked_iff]
    exact far
  · right
    rw [Bool.and_eq_true, Bool.or_eq_true, tracked_iff]
    exact ⟨far, stays⟩

/-- The state in which a copy's source has been read. -/
def copySource (s : State) (c : Nat) (o : EngOp) (a : Shape) : State :=
  ((if tracked a = true then s.takeFree.2.tensorDepends c o.id a true else s.takeFree.2).spendRemote [a]).countRemote a

theorem copySource_noted (s : State) (c : Nat) (o : EngOp) (a : Shape) : Noted c s (copySource s c o a) := by
  refine Noted.trans ?_ ((spendRemote_noted c _ [a]).trans (countRemote_noted c _ a))
  have drawn : Noted c s s.takeFree.2 := Noted.of_cores rfl rfl rfl rfl rfl
  split
  · exact drawn.trans (tensorDepends_noted s.takeFree.2 c o.id a true)
  · exact drawn

/-- A copy at work. -/
def copyAtWork (s : State) (c : Nat) (o : EngOp) (d a : Shape) : EngOp :=
  { copyRead s c o a with
    started := true
    status := if (a.badScale || d.badScale) = true then 0x45 else (copyRead s c o a).status
    doneAt := s.cycle + 1 + pathCycles a.lvl d.lvl (tensorBytes d) + Config.freeDelay s.free }

theorem copyStart_runs (oldest : (s.core c).eng.copyQ = o :: rest) (cmd : o.cmd = .copy d a m) (pending : o.complete = false)
    (fresh : o.started = false) (goes : ¬ copyWaits s c o d a) :
    exec (.copyStart c) s = .next ((copySource s c o a).modCore c fun k => k.modEng fun e => e.setOp (copyAtWork s c o d a)) := by
  have free_ : ¬ (o.started || o.complete || ((tracked a || tracked d) && !s.opCommitted o) ||
      (tracked a && (s.tensorHeld c o.id a true || s.tensorUnclear c o a true))) = true := by
    rw [fresh, pending]
    simpa [copyWaits, tracked_iff, not_or, not_and] using goes
  have runs : exec (.copyStart c) s = execCopyStart c s := rfl
  unfold execCopyStart at runs
  unfold copySource copyAtWork copyRead
  cases o
  dsimp only at cmd free_
  subst cmd
  simp only [oldest] at runs
  refine runs.trans ((if_neg free_).trans ?_)
  cases tracked a <;> rfl

/-- A copy that does not wait starts, and reads its source as it stands. -/
theorem copyStart_starts (oldest : (s.core c).eng.copyQ = o :: rest) (cmd : o.cmd = .copy d a m) (pending : o.complete = false)
    (fresh : o.started = false) (goes : ¬ copyWaits s c o d a) :
    ∃ t x, exec (.copyStart c) s = .next t ∧ (t.core c).eng.copyQ.head? = some x ∧ x.started = true ∧ s.cycle < x.doneAt ∧
      x.cmd = o.cmd ∧ x.elems = (copyRead s c o a).elems ∧
      x.status = (if a.badScale = true ∨ d.badScale = true then 0x45 else (copyRead s c o a).status) ∧
      engineFrame s t c ∧ (t.core c).sp = (s.core c).sp := by
  obtain ⟨id, same, -, -, -⟩ := copyRead_fields s c o a
  have noted := copySource_noted s c o a
  have queue : queueNo (copyAtWork s c o d a).cmd = 0 := by rw [show (copyAtWork s c o d a).cmd = o.cmd from same, cmd]; rfl
  have head := modEng_setOp (s := copySource s c o a) (c := c) (o := o) (rest := rest) (x := copyAtWork s c o d a)
    (by rw [queue]; exact noted.copyQ.trans oldest) id
  rw [queue] at head
  refine ⟨_, _, copyStart_runs oldest cmd pending fresh goes, head, rfl, ?_, same, rfl, ?_,
    engineFrame_trans noted.frame (engineFrame_modEng _ c _), (sp_modEng _ c _).trans noted.sp⟩
  · show s.cycle < s.cycle + 1 + _ + _
    omega
  · show (if (a.badScale || d.badScale) = true then 0x45 else _) = _
    simp only [Bool.or_eq_true]

/-! ### The end of a copy (R213, R222, R235) -/

/-- A copy whose shapes break the tile rules posts their status, and writes nothing. -/
theorem copyComplete_refused (oldest : (s.core c).eng.copyQ = o :: rest) (cmd : o.cmd = .copy d a m) (pending : o.complete = false)
    (started : o.started = true) (due : o.doneAt ≤ s.cycle) (bad : o.status = 0x45) :
    exec (.copyComplete c) s = .next (s.complete c o 0x45 0) := by
  have runs : exec (.copyComplete c) s = execCopyComplete c s := rfl
  unfold execCopyComplete at runs
  simp only [oldest, cmd, pending, started] at runs
  exact runs.trans ((if_neg (by simpa using due)).trans (if_pos bad))

/-- The state in which a copy has written what its check has let through. -/
def copyWritten (s : State) (c : Nat) (m : Option Nat) (d : Shape) (ls : List (Loc × Byte)) (status : Nat) : State :=
  (s.writeOut c d.chip ((s.copyCores c m).contains c) (s.copyCores c m) status ls).spendRemote [d]

/-- Does a copy's write still wait: does it leave the cluster before its bundle is strike-clear, or ahead of an earlier write? -/
def copyStays (s : State) (o : EngOp) (ls : List (Loc × Byte)) : Prop :=
  (ls.any fun x => leaves x.1) = true ∧ (s.clearFor o.clearAt o.tid = false ∨ s.heldUnder o.id (ls.map (·.1)) = true)

theorem copyComplete_runs (oldest : (s.core c).eng.copyQ = o :: rest) (cmd : o.cmd = .copy d a m) (pending : o.complete = false)
    (started : o.started = true) (due : o.doneAt ≤ s.cycle) (good : o.status = 0) {ls : List (Loc × Byte)} {st : Nat}
    (check : s.checkOut c o.id d.lvl ((s.copyCores c m).contains c) (copyBytes d a o.elems).1 = (ls, st)) :
    (copyStays s o ls → exec (.copyComplete c) s = .next s) ∧
    (¬ copyStays s o ls → exec (.copyComplete c) s =
      .next ((copyWritten s c m d ls st).complete c o st (BitVec.ofNat 64 (copyBytes d a o.elems).2))) := by
  have runs : exec (.copyComplete c) s = execCopyComplete c s := rfl
  unfold execCopyComplete at runs
  simp only [oldest, cmd, pending, started, good] at runs
  have runs := runs.trans ((if_neg (by simpa using due)).trans (if_neg (by decide)))
  rw [check] at runs
  have stays : ((ls.any fun x => leaves x.1) && (!s.clearFor o.clearAt o.tid || s.heldUnder o.id (ls.map (·.1)))) = true ↔ copyStays s o ls := by
    simp [copyStays]
  exact ⟨fun h => runs.trans (if_pos (stays.mpr h)), fun h => runs.trans (if_neg fun e => h (stays.mp e))⟩

/-- A copy into scratchpads writes its bytes when its time has come. -/
theorem copyComplete_sp (oldest : (s.core c).eng.copyQ = o :: rest) (cmd : o.cmd = .copy d a m) (pending : o.complete = false)
    (started : o.started = true) (due : o.doneAt ≤ s.cycle) (good : o.status = 0) (low : d.lvl = 0)
    (fits : FitsScratchpad s c (copyBytes d a o.elems).1) :
    ∃ t, exec (.copyComplete c) s = .next (t.complete c o 0 (BitVec.ofNat 64 (copyBytes d a o.elems).2)) ∧
      Delivered s t (s.copyCores c m) ((copyBytes d a o.elems).1.map fun x => (x.1.toNat, x.2)) := by
  have inside : ¬ copyStays s o (spPlaces (copyBytes d a o.elems).1) := fun h => by simp [copyStays, spPlaces, leaves] at h
  have check : s.checkOut c o.id d.lvl ((s.copyCores c m).contains c) (copyBytes d a o.elems).1 = (spPlaces (copyBytes d a o.elems).1, 0) := by
    rw [low]
    exact checkOut_sp fits _ _
  obtain ⟨-, writes⟩ := copyComplete_runs oldest cmd pending started due good check
  refine ⟨_, writes inside, ?_⟩
  rw [copyWritten, spendRemote_low (by simp [low])]
  exact writeOut_sp s c d.chip _ _ _

end

/-! ### Copies within the cluster -/

theorem copyCores_alone (s : State) (c : Nat) : s.copyCores c none = [c] := rfl

theorem mem_copyCores {s : State} {c m τ : Nat} (task : (s.core c).task = some τ) (e : Nat) :
    e ∈ s.copyCores c (some m) ↔ e ∈ s.coresOf τ ∧ m.testBit (s.core e).rank = true := by
  unfold State.copyCores
  rw [task]
  simp only [List.mem_filter, Nat.testBit_eq_decide_div_mod_eq, bitAt, beq_eq_decide]

/-- A copy between the core's own storage starts at once, and its bytes are in the scratchpad when its time has come. -/
theorem copies_near (c : Nat) (o : EngOp) (rest : EngQueue) (d a : Shape) (s : State) (oldest : (s.core c).eng.copyQ = o :: rest)
    (cmd : o.cmd = .copy d a none) (pending : o.complete = false) :
    (o.started = false → a.lvl < 2 → d.lvl < 2 →
      ∃ t x, exec (.copyStart c) s = .next t ∧ (t.core c).eng.copyQ.head? = some x ∧ x.started = true ∧ s.cycle < x.doneAt ∧
        x.elems = o.elems ∧ x.cmd = o.cmd ∧ engineFrame s t c ∧ (t.core c).sp = (s.core c).sp) ∧
    (o.started = true → o.doneAt ≤ s.cycle → (s.core c).eng.evq.length < 128 →
      (o.status = 0x45 → ∃ t, exec (.copyComplete c) s = .next t ∧ hasPosted s t c 1 7 0x45 o.addr 0 ∧ engineFrame s t c ∧
        (t.core c).sp = (s.core c).sp) ∧
      (o.status = 0 → d.lvl = 0 → FitsScratchpad s c (copyBytes d a o.elems).1 →
        ∃ t, exec (.copyComplete c) s = .next t ∧ hasPosted s t c 1 7 0 o.addr (BitVec.ofNat 64 (copyBytes d a o.elems).2) ∧
          engineFrame s t c ∧
          (((copyBytes d a o.elems).1.map (·.1)).Nodup → ∀ x ∈ (copyBytes d a o.elems).1, (t.core c).sp.read x.1.toNat = x.2) ∧
          (∀ q, (∀ x ∈ (copyBytes d a o.elems).1, x.1.toNat ≠ q) → (t.core c).sp.read q = (s.core c).sp.read q))) := by
  have plain : o.cmd ≠ .atomic := by rw [cmd]; exact EngCmd.noConfusion
  have kind : recordKind o.cmd = 1 := congrArg recordKind cmd
  refine ⟨fun fresh near near' => ?_, fun started due room => ⟨fun bad => ?_, fun good low fits => ?_⟩⟩
  · have goes : ¬ copyWaits s c o d a := by unfold copyWaits; omega
    obtain ⟨t, x, runs, head, atWork, later, same, elems, -, frame, sp⟩ := copyStart_starts oldest cmd pending fresh goes
    obtain ⟨-, -, -, kept, -⟩ := copyRead_fields s c o a
    exact ⟨t, x, runs, head, atWork, later, elems.trans (kept near), same, frame, sp⟩
  · have posted := complete_hasPosted room plain 0x45 0
    rw [kind] at posted
    exact ⟨_, copyComplete_refused oldest cmd pending started due bad, posted, engineFrame_modEng s c _, sp_modEng s c _⟩
  · obtain ⟨t, runs, delivered⟩ := copyComplete_sp oldest cmd pending started due good low fits
    have done := delivered_complete (fun x hx => (fits x hx).1) delivered room plain 0 (BitVec.ofNat 64 (copyBytes d a o.elems).2)
    rw [kind] at done
    exact ⟨_, runs, done⟩

/-- A multicast writes its bytes in the scratchpads of the ranks that it names, and in no other. -/
theorem multicast_completes (c m τ : Nat) (o : EngOp) (rest : EngQueue) (d a : Shape) (s : State)
    (oldest : (s.core c).eng.copyQ = o :: rest) (cmd : o.cmd = .copy d a (some m)) (pending : o.complete = false)
    (started : o.started = true) (due : o.doneAt ≤ s.cycle) (room : (s.core c).eng.evq.length < 128) (good : o.status = 0)
    (low : d.lvl = 0) (task : (s.core c).task = some τ) (fits : FitsScratchpad s c (copyBytes d a o.elems).1) :
    let bs := (copyBytes d a o.elems).1
    let named := fun (e : Nat) => e ∈ s.coresOf τ ∧ m.testBit (s.core e).rank = true
    ∃ t, exec (.copyComplete c) s = .next t ∧ hasPosted s t c 1 7 0 o.addr (BitVec.ofNat 64 (copyBytes d a o.elems).2) ∧
      (∀ e, (t.core e).regs = (s.core e).regs ∧ (t.core e).arr = (s.core e).arr ∧ (t.core e).ls = (s.core e).ls ∧
        (t.core e).seq = (s.core e).seq) ∧
      t.clusters = s.clusters ∧ t.tasks = s.tasks ∧ t.pmem = s.pmem ∧ t.xs = s.xs ∧
      (∀ e, named e → ((bs.map (·.1)).Nodup → ∀ x ∈ bs, (t.core e).sp.read x.1.toNat = x.2) ∧
        ∀ q, (∀ x ∈ bs, x.1.toNat ≠ q) → (t.core e).sp.read q = (s.core e).sp.read q) ∧
      (∀ e, ¬named e → (t.core e).sp = (s.core e).sp) := by
  intro bs named
  obtain ⟨t, runs, delivered⟩ := copyComplete_sp oldest cmd pending started due good low fits
  let u := t.complete c o 0 (BitVec.ofNat 64 (copyBytes d a o.elems).2)
  have kept : (t.core c).eng = (s.core c).eng := (delivered.only c).eng
  have posted : hasPosted t u c (recordKind o.cmd) 7 0 o.addr _ :=
    complete_hasPosted (by rw [kept]; exact room) (by rw [cmd]; exact EngCmd.noConfusion) 0 _
  rw [show recordKind o.cmd = 1 from congrArg recordKind cmd] at posted
  have rest_ : ∀ e, (u.core e).regs = (t.core e).regs ∧ (u.core e).arr = (t.core e).arr ∧ (u.core e).ls = (t.core e).ls ∧
      (u.core e).seq = (t.core e).seq ∧ (u.core e).sp = (t.core e).sp := by
    intro e
    by_cases h : e = c
    · subst h
      rw [show u.core e = _ from State.core_modCore_same t e _]
      exact ⟨rfl, rfl, rfl, rfl, rfl⟩
    · rw [show u.core e = t.core e from State.core_modCore_other t _ h]
      exact ⟨rfl, rfl, rfl, rfl, rfl⟩
  refine ⟨u, runs, hasPosted_of_evq (congrArg Engines.evq kept) posted, fun e => ?_, delivered.clusters, delivered.tasks, delivered.pmem,
    delivered.xs, fun e he => ?_, fun e he => ?_⟩
  all_goals obtain ⟨regs, arr, ls, seq, sp⟩ := rest_ e
  · have only := delivered.only e
    exact ⟨regs.trans only.regs, arr.trans only.arr, ls.trans only.ls, seq.trans only.seq⟩
  · rw [sp]
    exact (delivered.takes e ((mem_copyCores task e).mpr he)).of_fits fun x hx => (fits x hx).1
  · rw [sp, delivered.others e fun h => he ((mem_copyCores task e).mp h)]

/-! ### Invalidations (R214, R237) -/

theorem tinv_completes (c va n : Nat) (size : TinvSize) (o : EngOp) (rest : EngQueue) (s : State)
    (oldest : (s.core c).eng.copyQ = o :: rest) (cmd : o.cmd = .tinv va n size) (pending : o.complete = false)
    (room : (s.core c).eng.evq.length < 128)
    (first : ∀ e ∈ s.cores, ∀ x ∈ e.2.eng.copyQ, o.id ≤ x.id ∨ x.complete = true) :
    let p := s.pasidOf c
    ∃ t, exec (.tinvComplete c) s = .next t ∧ hasPosted s t c 13 7 0 o.addr 0 ∧ engineFrame s t c ∧
      (t.core c).sp = (s.core c).sp ∧
      ∀ e, e ∈ (t.ctx p).tlb ↔ e ∈ (s.ctx p).tlb ∧ size ≠ .all ∧ ¬ (va ≤ e.1 * 4096 ∧ e.1 * 4096 < va + n * tinvBytes size) := by
  intro p
  have passed : s.passed o.id = true := by simpa [State.passed] using first
  have runs : exec (.tinvComplete c) s = execTinvComplete c s := rfl
  unfold execTinvComplete at runs
  simp only [oldest, cmd, pending, passed] at runs
  let u := s.dropTranslations p va n size
  have posted : hasPosted u (u.complete c o 0 0) c (recordKind o.cmd) 7 0 o.addr 0 :=
    complete_hasPosted (s := u) room (by rw [cmd]; exact EngCmd.noConfusion) 0 0
  rw [show recordKind o.cmd = 13 from congrArg recordKind cmd] at posted
  have frame : engineFrame u (u.complete c o 0 0) c := engineFrame_modEng u c _
  refine ⟨_, runs, posted, frame, sp_modEng u c _, fun e => ?_⟩
  have ctx : u.ctx p = _ := State.ctx_modCtx_same s p _
  rw [show (u.complete c o 0 0).ctx p = u.ctx p from rfl, ctx, List.mem_filter]
  simp only [Bool.not_eq_true', Bool.or_eq_false_iff, Bool.and_eq_false_iff, beq_eq_false_iff_ne, decide_eq_false_iff_not, not_and_or, ne_eq]

end Sys2Proof.Machine
end

section
/-!
PROOFS. Copies that reach beyond the cluster (R166, R167, R196, R213, R226, R236, R356).
-/
namespace Sys2Proof.Machine

/-! ### What an engine's write has to do besides its bytes -/

/-- The byte of another chip's memory that a place stands for. -/
def remoteByte (x : Loc × Byte) : Option (Nat × Byte) :=
  match x.1 with
  | .remote a => some (a, x.2)
  | _ => none

/-- A byte joins the run before it, or begins one (R356). -/
def joinRun (acc : List (Nat × List Byte)) (x : Nat × Byte) : List (Nat × List Byte) :=
  match acc with
  | (a, l) :: rest => if x.1 = a + l.length && decide (l.length < 64) then (a, l ++ [x.2]) :: rest else (x.1, [x.2]) :: acc
  | [] => [(x.1, [x.2])]

theorem remoteRuns_eq (ls : List (Loc × Byte)) : remoteRuns ls = ((ls.filterMap remoteByte).foldl joinRun []).reverse := by
  unfold remoteRuns
  rfl

theorem remoteRuns_near {ls : List (Loc × Byte)} (near : ∀ x ∈ ls, remoteByte x = none) : remoteRuns ls = [] := by
  rw [remoteRuns_eq, List.filterMap_eq_nil_iff.mpr near]
  rfl

/-- Bytes below the doorbells ring none. -/
theorem rung_below {ls : List (Loc × Byte)} (below : ∀ x ∈ ls, ∀ a k, x.1 = .gl a k → a < doorBase) : rung ls = [] := by
  refine List.filterMap_eq_nil_iff.mpr fun a ha => ?_
  obtain ⟨x, hx, door⟩ := List.mem_filterMap.mp (List.mem_dedup.mp ha)
  cases place : x.1 with
  | gl b k =>
    rw [place] at door
    have := below x hx b k place
    simp [Nat.not_le.mpr this] at door
  | sp _ | cp _ | xs _ | remote _ =>
    rw [place] at door
    exact absurd door (by simp)

/-! ### Runs of bytes (R356) -/

/-- The bytes of a run at their addresses. -/
def runBytes (r : Nat × List Byte) : List (Nat × Byte) := r.2.zipIdx.map fun b => (r.1 + b.2, b.1)

theorem runBytes_append (a : Nat) (l : List Byte) (b : Byte) : runBytes (a, l ++ [b]) = runBytes (a, l) ++ [(a + l.length, b)] := by
  simp [runBytes, List.zipIdx_append]

theorem joinRun_bytes (acc : List (Nat × List Byte)) (x : Nat × Byte) :
    ((joinRun acc x).reverse.map runBytes).flatten = (acc.reverse.map runBytes).flatten ++ [x] := by
  cases acc with
  | nil => simp [joinRun, runBytes]
  | cons r acc =>
    obtain ⟨a, l⟩ := r
    by_cases joins : (decide (x.1 = a + l.length) && decide (l.length < 64)) = true
    · have next : x.1 = a + l.length := by simp at joins; exact joins.1
      have joined : joinRun ((a, l) :: acc) x = (a, l ++ [x.2]) :: acc := if_pos joins
      rw [joined, List.reverse_cons, List.map_append, List.flatten_append, List.reverse_cons, List.map_append, List.flatten_append,
        List.map_singleton, List.map_singleton, List.flatten_singleton, List.flatten_singleton, runBytes_append, List.append_assoc, ← next]
    · have begun : joinRun ((a, l) :: acc) x = (x.1, [x.2]) :: (a, l) :: acc := if_neg joins
      rw [begun, List.reverse_cons, List.map_append, List.flatten_append]
      simp [runBytes]

theorem joinRun_sizes {acc : List (Nat × List Byte)} (sizes : ∀ r ∈ acc, 0 < r.2.length ∧ r.2.length ≤ 64) (x : Nat × Byte) :
    ∀ r ∈ joinRun acc x, 0 < r.2.length ∧ r.2.length ≤ 64 := by
  cases acc with
  | nil => simp [joinRun]
  | cons r acc =>
    obtain ⟨a, l⟩ := r
    by_cases joins : (decide (x.1 = a + l.length) && decide (l.length < 64)) = true
    · have short : l.length < 64 := by simp at joins; exact joins.2
      rw [show joinRun ((a, l) :: acc) x = (a, l ++ [x.2]) :: acc from if_pos joins]
      refine List.forall_mem_cons.mpr ⟨?_, fun r hr => sizes r (List.mem_cons_of_mem _ hr)⟩
      simp
      omega
    · rw [show joinRun ((a, l) :: acc) x = (x.1, [x.2]) :: (a, l) :: acc from if_neg joins]
      exact List.forall_mem_cons.mpr ⟨by simp, sizes⟩

theorem foldl_joinRun (far : List (Nat × Byte)) (acc : List (Nat × List Byte)) (sizes : ∀ r ∈ acc, 0 < r.2.length ∧ r.2.length ≤ 64) :
    ((far.foldl joinRun acc).reverse.map runBytes).flatten = (acc.reverse.map runBytes).flatten ++ far ∧
      ∀ r ∈ far.foldl joinRun acc, 0 < r.2.length ∧ r.2.length ≤ 64 := by
  induction far generalizing acc with
  | nil => exact ⟨(List.append_nil _).symm, sizes⟩
  | cons x far ih =>
    obtain ⟨bytes, small⟩ := ih (joinRun acc x) (joinRun_sizes sizes x)
    refine ⟨?_, small⟩
    rw [List.foldl_cons, bytes, joinRun_bytes, List.append_assoc]
    rfl

/-- The runs of some bytes are at most 64 bytes long, and give the bytes in their order. -/
theorem remoteRuns_spec (ls : List (Loc × Byte)) :
    ((remoteRuns ls).map runBytes).flatten = ls.filterMap remoteByte ∧ ∀ r ∈ remoteRuns ls, 0 < r.2.length ∧ r.2.length ≤ 64 := by
  obtain ⟨bytes, small⟩ := foldl_joinRun (ls.filterMap remoteByte) [] fun _ h => absurd h List.not_mem_nil
  rw [remoteRuns_eq]
  exact ⟨bytes, fun r hr => small r (List.mem_reverse.mp hr)⟩

/-! ### Flits that leave (R356, R358) -/

/-- A table whose entry is replaced by one with the same property keeps an entry with it. -/
theorem Table.any_put {α : Type} {t : Table α} {q : α → Bool} (k : Nat) {d v : α} (same : q v = q (Table.get t d k))
    (some_ : (t.any fun e => q e.2) = true) : ((Table.put t k v).any fun e => q e.2) = true := by
  induction t with
  | nil => exact absurd some_ (by simp)
  | cons e t ih =>
    obtain ⟨j, w⟩ := e
    rw [List.any_cons, Bool.or_eq_true] at some_
    unfold Table.put
    split
    · rw [List.any_cons, List.any_cons, Bool.or_eq_true, Bool.or_eq_true]
      exact .inr some_
    · split
      next hit =>
        have here : Table.get ((j, w) :: t) d k = w := by simp [Table.get, Table.get?, hit]
        rw [here] at same
        rw [List.any_cons, Bool.or_eq_true, same]
        exact some_
      next miss =>
        have later : Table.get ((j, w) :: t) d k = Table.get t d k := by simp [Table.get, Table.get?, miss]
        rw [later] at same
        rw [List.any_cons, Bool.or_eq_true]
        exact some_.imp_right (ih same)

def Port.up (p : Port) : Bool := p.trained && !p.heldDown

theorem upPorts_nonempty (s : State) : s.upPorts ≠ [] ↔ (s.link.ports.any fun e => e.2.up) = true := by
  unfold State.upPorts
  rw [ne_eq, List.map_eq_nil_iff, List.filter_eq_nil_iff, List.any_eq_true]
  simp [Port.up]

theorem sendPort_up {s : State} (up : s.upPorts ≠ []) (p : Nat) (f : Flit) : (s.sendPort p f).upPorts ≠ [] := by
  rw [upPorts_nonempty] at up ⊢
  exact Table.any_put (d := {}) p rfl up

/-- What flits of a chip leave behind: links and free values. -/
structure Emitted (s t : State) (flits : List Flit) : Prop where
  only : ∃ l n, t = { s with link := l, free := n }
  gangs : t.link.gangs = s.link.gangs
  up : t.upPorts ≠ [] ↔ s.upPorts ≠ []
  sent : s.upPorts ≠ [] → t.link.sent = s.link.sent ++ flits
  blocked : s.upPorts = [] → t.link.blocked = s.link.blocked ++ flits ∧ t.link.sent = s.link.sent

theorem emitted_one {s : State} (gangs : s.link.gangs = []) (p : Nat) (f : Flit) : Emitted s (s.emit p f) [f] := by
  have open_ : s.gated p = false := by simp [State.gated, gangs]
  have sends : s.emit p f = s.send f := if_neg (by rw [open_]; decide)
  rw [sends]
  cases ports : s.upPorts with
  | nil =>
    have waits : s.send f = s.modLink fun k => { k with blocked := k.blocked ++ [f] } := by
      unfold State.send
      rw [ports]
    rw [waits]
    exact ⟨⟨_, _, rfl⟩, rfl, Iff.rfl, fun up => absurd ports up, fun _ => ⟨rfl, rfl⟩⟩
  | cons q qs =>
    have leaves_ : s.send f = s.takeFree.2.sendPort ((q :: qs).getD (Config.freeWord s.free % (qs.length + 1)) q) f := by
      unfold State.send
      rw [ports]
      rfl
    have up : s.upPorts ≠ [] := by rw [ports]; exact List.cons_ne_nil _ _
    rw [leaves_]
    exact ⟨⟨_, _, rfl⟩, rfl, iff_of_true (sendPort_up (s := s.takeFree.2) up _ f) up, fun _ => rfl,
      fun none_ => absurd none_ up⟩

theorem Emitted.cons {s t u : State} {f : Flit} {fs : List Flit} (first : Emitted s t [f]) (rest : Emitted t u fs) : Emitted s u (f :: fs) := by
  obtain ⟨l, n, rfl⟩ := first.only
  obtain ⟨l', n', rfl⟩ := rest.only
  refine ⟨⟨l', n', rfl⟩, rest.gangs.trans first.gangs, rest.up.trans first.up, fun up => ?_, fun none_ => ?_⟩
  · rw [rest.sent (first.up.mpr up), first.sent up, List.append_assoc]
    rfl
  · obtain ⟨blocked, sent⟩ := first.blocked none_
    obtain ⟨blocked', sent'⟩ := rest.blocked (not_not.mp fun up => first.up.mp up none_)
    refine ⟨?_, sent'.trans sent⟩
    rw [blocked', blocked, List.append_assoc]
    rfl

/-- Bytes for another chip leave run by run. -/
theorem emitted_runs (c chip : Nat) (runs : List (Nat × List Byte)) (s : State) (gangs : s.link.gangs = []) :
    Emitted s (runs.foldl (fun (t : State) x => t.emit (t.pasidOf c) (.write chip (t.pasidOf c) x.1 x.2)) s)
      (runs.map fun r => Flit.write chip (s.pasidOf c) r.1 r.2) := by
  induction runs generalizing s with
  | nil => exact ⟨⟨_, _, rfl⟩, rfl, Iff.rfl, fun _ => (List.append_nil _).symm, fun _ => ⟨(List.append_nil _).symm, rfl⟩⟩
  | cons r runs ih =>
    have first := emitted_one gangs (s.pasidOf c) (.write chip (s.pasidOf c) r.1 r.2)
    have rest := ih _ (first.gangs.trans gangs)
    have pasid : (s.emit (s.pasidOf c) (.write chip (s.pasidOf c) r.1 r.2)).pasidOf c = s.pasidOf c := by
      obtain ⟨l, n, h⟩ := first.only
      rw [h]
      rfl
    rw [pasid] at rest
    exact first.cons rest

/-! ### Writes away from the scratchpads -/

/-- The bytes of a write that are written, and the state in which they are. -/
def writtenBytes (s : State) (status : Nat) (ls : List (Loc × Byte)) : List (Loc × Byte) := if status = 0 then ls else partWritten s.free ls

theorem writtenBytes_sub {s : State} {status : Nat} {ls : List (Loc × Byte)} : ∀ x ∈ writtenBytes s status ls, x ∈ ls := by
  unfold writtenBytes
  split
  · exact fun _ h => h
  · exact fun _ h => List.mem_of_mem_filter h

theorem writeOut_away (s : State) (c chip : Nat) (own : Bool) (ranks : List Nat) (status : Nat) {ls : List (Loc × Byte)}
    (away : ∀ x ∈ ls, ∀ a, x.1 ≠ .sp a) (below : ∀ x ∈ ls, ∀ a k, x.1 = .gl a k → a < doorBase) :
    ∃ n poison, s.writeOut c chip own ranks status ls =
      { (remoteRuns (writtenBytes s status ls)).foldl (fun (t : State) x => t.emit (t.pasidOf c) (.write chip (t.pasidOf c) x.1 x.2))
          ((writtenBytes s status ls).foldl (fun (t : State) x => t.outByte c own ranks x.1 x.2) { s with free := n }) with poison := poison } := by
  unfold State.writeOut
  extract_lets out s0 s1 s2 rows s3
  have drawn : ∃ n, s0 = { s with free := n } := by
    by_cases h : status = 0
    · exact ⟨s.free, if_pos h⟩
    · exact ⟨s.free + 2, if_neg h⟩
  have silent : s2 = s1 := by
    show (rung out).foldl _ s1 = s1
    rw [rung_below (ls := out) fun x hx => below x (writtenBytes_sub x hx)]
    rfl
  have noRow : rows = [] := by
    refine List.filterMap_eq_nil_iff.mpr fun x hx => ?_
    cases place : x.1 with
    | sp a => exact absurd place (away x (writtenBytes_sub x hx) a)
    | cp _ | xs _ | gl _ _ | remote _ => rfl
  have same : s3 = s1 := (if_pos (by rw [noRow]; rfl)).trans silent
  obtain ⟨n, h⟩ := drawn
  refine ⟨n, s1.poison.filter fun g => !(wholeLines out).contains g, ?_⟩
  rw [same, ← h]
  rfl

/-! ### Bytes that reach their home on this chip -/

/-- The place of a byte in the chip scratchpad, or in global memory of this chip. -/
def homePlace (xs : Bool) (a : Nat) (l : Loc) : Prop := if xs = true then l = .xs a else ∃ k, l = .gl a k

/-- One of the two memories has taken bytes; the cores, the clusters, the tasks and the other memory stand as they did. -/
structure HomeTook (s t : State) (xs : Bool) (l : List (Nat × Byte)) : Prop where
  cores : t.cores = s.cores
  clusters : t.clusters = s.clusters
  tasks : t.tasks = s.tasks
  bytes : TakesBytes (if xs = true then s.xs else s.pmem) (if xs = true then t.xs else t.pmem) l
  other : (if xs = true then t.pmem else t.xs) = (if xs = true then s.pmem else s.xs)

theorem HomeTook.nil (s : State) (xs : Bool) : HomeTook s s xs [] := ⟨rfl, rfl, rfl, TakesBytes.nil _, rfl⟩

theorem HomeTook.cons {s t u : State} {xs : Bool} {x : Nat × Byte} {l : List (Nat × Byte)} (first : HomeTook s t xs [x])
    (rest : HomeTook t u xs l) : HomeTook s u xs (x :: l) :=
  ⟨rest.cores.trans first.cores, rest.clusters.trans first.clusters, rest.tasks.trans first.tasks, first.bytes.cons rest.bytes,
    rest.other.trans first.other⟩

theorem homeTook_write (s : State) (c : Nat) (xs : Bool) (a : Nat) (b : Byte) (below : xs = false → a < doorBase) (st : Nat) (gs : List Nat) :
    HomeTook s ((s.homeWrite (s.pasidOf c) { xs := xs, addr := a, bytes := [b], core := c, seg := 0 }).commitGranules st gs) xs [(a, b)] := by
  obtain ⟨bytes, clusters, cores, tasks⟩ := homeWrite_reaches (s := s) (w := { xs := xs, addr := a, bytes := [b], core := c, seg := 0 })
    (s.pasidOf c) fun h => ⟨below h, Nat.one_pos⟩
  cases xs with
  | true =>
    obtain ⟨took, kept⟩ := bytes
    refine ⟨cores, clusters, tasks, ?_, kept⟩
    show TakesBytes s.xs (s.homeWrite _ _).xs _
    rw [took]
    exact TakesBytes.write _ a b
  | false =>
    obtain ⟨took, kept⟩ := bytes
    refine ⟨cores, clusters, tasks, ?_, kept⟩
    show TakesBytes s.pmem (s.homeWrite _ _).pmem _
    rw [took]
    exact TakesBytes.write _ a b

theorem outByte_home (s : State) (c : Nat) (own : Bool) (ranks : List Nat) {xs : Bool} {a : Nat} {l : Loc} (place : homePlace xs a l)
    (below : xs = false → a < doorBase) (b : Byte) : HomeTook s (s.outByte c own ranks l b) xs [(a, b)] := by
  cases xs with
  | true =>
    rw [show l = .xs a from place]
    exact homeTook_write s c true a b below _ _
  | false =>
    obtain ⟨k, rfl⟩ : ∃ k, l = .gl a k := place
    exact homeTook_write s c false a b below _ _

/-- Places of bytes in one of the two memories of the chip. -/
def HomePlaces (xs : Bool) (bs : List (Int × Byte)) (P : Int → Nat) (place : Int × Byte → Loc) : Prop :=
  ∀ x ∈ bs, homePlace xs (P x.1) (place x) ∧ (xs = false → P x.1 < doorBase)

theorem homeTook_bytes (c : Nat) (own : Bool) (ranks : List Nat) {xs : Bool} {P : Int → Nat} {place : Int × Byte → Loc}
    {bs : List (Int × Byte)} (places : HomePlaces xs bs P place) (s : State) :
    HomeTook s ((bs.map fun x => (place x, x.2)).foldl (fun (t : State) x => t.outByte c own ranks x.1 x.2) s) xs
      (bs.map fun x => (P x.1, x.2)) := by
  induction bs generalizing s with
  | nil => exact HomeTook.nil s xs
  | cons x bs ih =>
    obtain ⟨here, below⟩ := places x List.mem_cons_self
    exact (outByte_home s c own ranks here below x.2).cons (ih (fun y hy => places y (List.mem_cons_of_mem x hy)) _)

theorem homePlace_cases {xs : Bool} {a : Nat} {l : Loc} (place : homePlace xs a l) : l = .xs a ∧ xs = true ∨ (∃ k, l = .gl a k) ∧ xs = false := by
  cases xs with
  | true => exact .inl ⟨place, rfl⟩
  | false => exact .inr ⟨place, rfl⟩

section
variable {xs : Bool} {P : Int → Nat} {place : Int × Byte → Loc} {bs : List (Int × Byte)}

theorem HomePlaces.away (places : HomePlaces xs bs P place) : ∀ y ∈ bs.map (fun x => (place x, x.2)), ∀ a, y.1 ≠ .sp a := by
  intro y hy a
  obtain ⟨x, hx, rfl⟩ := List.mem_map.mp hy
  rcases homePlace_cases (places x hx).1 with ⟨h, -⟩ | ⟨⟨k, h⟩, -⟩ <;> simp [h]

theorem HomePlaces.below (places : HomePlaces xs bs P place) :
    ∀ y ∈ bs.map (fun x => (place x, x.2)), ∀ a k, y.1 = .gl a k → a < doorBase := by
  intro y hy a k hyk
  obtain ⟨x, hx, rfl⟩ := List.mem_map.mp hy
  obtain ⟨here, low⟩ := places x hx
  rcases homePlace_cases here with ⟨h, -⟩ | ⟨⟨j, h⟩, hxs⟩
  · exact absurd (h.symm.trans hyk) (by simp)
  · obtain ⟨rfl, -⟩ := Loc.gl.inj (h.symm.trans hyk)
    exact low hxs

theorem HomePlaces.near (places : HomePlaces xs bs P place) : ∀ y ∈ bs.map (fun x => (place x, x.2)), remoteByte y = none := by
  intro y hy
  obtain ⟨x, hx, rfl⟩ := List.mem_map.mp hy
  rcases homePlace_cases (places x hx).1 with ⟨h, -⟩ | ⟨⟨k, h⟩, -⟩ <;> simp [remoteByte, h]

theorem HomePlaces.leaves_ (places : HomePlaces xs bs P place) (some_ : bs ≠ []) :
    ((bs.map fun x => (place x, x.2)).any fun x => leaves x.1) = true := by
  obtain ⟨x, hx⟩ := List.exists_mem_of_ne_nil bs some_
  refine List.any_eq_true.mpr ⟨(place x, x.2), List.mem_map_of_mem hx, ?_⟩
  rcases homePlace_cases (places x hx).1 with ⟨h, -⟩ | ⟨⟨k, h⟩, -⟩ <;> simp [leaves, h]

/-- Does an earlier write wait under one of the bytes? -/
def heldBehind (s : State) (before : Nat) (xs : Bool) (bs : List (Int × Byte)) (P : Int → Nat) : Prop :=
  ∃ e ∈ s.clusters, ∃ h ∈ e.2.held, h.w.id < before ∧ h.w.xs = xs ∧ ∃ x ∈ bs, h.w.addr ≤ P x.1 ∧ P x.1 < h.w.addr + h.w.bytes.length

theorem HomePlaces.heldUnder_iff (places : HomePlaces xs bs P place) (s : State) (before : Nat) :
    s.heldUnder before ((bs.map fun x => (place x, x.2)).map (·.1)) = true ↔ heldBehind s before xs bs P := by
  have names : (bs.map fun x => (place x, x.2)).map (·.1) = bs.map place := by rw [List.map_map]; rfl
  unfold State.heldUnder heldBehind
  rw [names, List.any_eq_true]
  refine exists_congr fun e => and_congr_right fun _ => ?_
  rw [List.any_eq_true]
  refine exists_congr fun h => and_congr_right fun _ => ?_
  rw [Bool.and_eq_true, decide_eq_true_eq, List.any_map, List.any_eq_true]
  refine and_congr_right fun _ => ?_
  have one : ∀ x ∈ bs, (((fun l => match l with
      | .xs a => h.w.xs && decide (h.w.addr ≤ a) && decide (a < h.w.addr + h.w.bytes.length)
      | .gl a _ => !h.w.xs && decide (h.w.addr ≤ a) && decide (a < h.w.addr + h.w.bytes.length)
      | _ => false : Loc → Bool) ∘ place) x = true ↔ h.w.xs = xs ∧ h.w.addr ≤ P x.1 ∧ P x.1 < h.w.addr + h.w.bytes.length) := by
    intro x hx
    rcases homePlace_cases (places x hx).1 with ⟨hp, rfl⟩ | ⟨⟨k, hp⟩, rfl⟩ <;> simp [hp, and_assoc]
  constructor
  · rintro ⟨x, hx, under⟩
    obtain ⟨which, lo, hi⟩ := (one x hx).mp under
    exact ⟨which, x, hx, lo, hi⟩
  · rintro ⟨which, x, hx, lo, hi⟩
    exact ⟨x, hx, (one x hx).mpr ⟨which, lo, hi⟩⟩

end

/-! ### A copy to the chip scratchpad or to global memory -/

theorem foreignDoor_before {s : State} {p pa : Nat} (below : pa < doorBase) : s.foreignDoor p pa = false := by
  have slot : doorSlot pa = none := if_neg (Nat.not_le.mpr below)
  rw [State.foreignDoor, slot]
  rfl

theorem locate_xs {s : State} {c before : Nat} {a : Int} (within : (a % 2 ^ 64).toNat < (s.progOf c).xs) :
    s.locate c before 2 true a = .inl (.xs ((s.ctx (s.pasidOf c)).xsbase + (a % 2 ^ 64).toNat)) := by
  unfold State.locate
  exact if_neg (Nat.not_le.mpr within)

theorem locate_gl {s : State} {c before : Nat} {a : Int} {g : Page} (fresh : freshCaches s (s.pasidOf c))
    (page : translate s (s.pasidOf c) (a % 2 ^ 64).toNat = some g) (writes : g.w = true) (home : g.home = s.chipNo)
    (below : g.pa < doorBase) :
    s.locate c before 3 true a = .inl (.gl g.pa (if g.kind = 0 then some ((a % 2 ^ 64).toNat / 4096) else none)) := by
  unfold State.locate
  generalize (a % 2 ^ 64).toNat = n at page ⊢
  have resolved : resolveGlobal s c true false { pos := 0, addr := n, len := 1 } (s.engineOld c before) =
      .ok [{ pos := 0, addr := g.pa, len := 1, kind := g.kind }] := by
    simp [resolveGlobal, translate_fresh fresh, page, writes, home, foreignDoor_before below]
  dsimp only
  rw [resolved]
  rfl

/-- Where an engine's write to level 2 or 3 lies, it is found. -/
theorem locate_home {s : State} {c lvl p : Nat} {a : Int} (beyond : lvl = 2 ∨ lvl = 3) (fresh : freshCaches s (s.pasidOf c))
    (addr : outAddr s c lvl a = some p) (before : Nat) :
    ∃ l, s.locate c before lvl true a = .inl l ∧ homePlace (decide (lvl = 2)) p l ∧ (decide (lvl = 2) = false → p < doorBase) := by
  unfold outAddr at addr
  extract_lets n at addr
  rcases beyond with rfl | rfl
  · rw [if_pos rfl] at addr
    split at addr
    next within =>
      obtain rfl := Option.some.inj addr
      refine ⟨_, locate_xs within, ?_, fun h => absurd h (by decide)⟩
      rfl
    next => exact absurd addr (by simp)
  · rw [if_neg (by decide)] at addr
    split at addr
    next g page =>
      split at addr
      next granted =>
        obtain ⟨writes, home, below⟩ := granted
        obtain rfl := Option.some.inj addr
        exact ⟨_, locate_gl fresh page writes home below, ⟨_, rfl⟩, fun _ => below⟩
      next => exact absurd addr (by simp)
    next => exact absurd addr (by simp)

section
variable {s : State} {c : Nat} {o : EngOp} {rest : EngQueue} {d a : Shape}

theorem checkOut_home {lvl before : Nat} {own : Bool} {bs : List (Int × Byte)} {P : Int → Nat} (beyond : lvl = 2 ∨ lvl = 3)
    (fresh : freshCaches s (s.pasidOf c)) (addrs : ∀ x ∈ bs, outAddr s c lvl x.1 = some (P x.1)) :
    ∃ place, HomePlaces (decide (lvl = 2)) bs P place ∧ s.checkOut c before lvl own bs = (bs.map fun x => (place x, x.2), 0) := by
  let place : Int × Byte → Loc := fun x => ((s.locate c before lvl true x.1).getLeft?).getD (.sp 0)
  have found : ∀ x ∈ bs, s.locate c before lvl true x.1 = .inl (place x) ∧ homePlace (decide (lvl = 2)) (P x.1) (place x) ∧
      (decide (lvl = 2) = false → P x.1 < doorBase) := by
    intro x hx
    obtain ⟨l, located, home⟩ := locate_home beyond fresh (addrs x hx) before
    have same : place x = l := by
      show ((s.locate c before lvl true x.1).getLeft?).getD (.sp 0) = l
      rw [located]
      rfl
    rw [same]
    exact ⟨located, home⟩
  refine ⟨place, fun x hx => (found x hx).2, checkOut_places (fun x hx => (found x hx).1) fun x hx => ?_⟩
  have none_ : trackedGranules own (place x) = [] := by
    rcases homePlace_cases (found x hx).2.1 with ⟨h, -⟩ | ⟨⟨k, h⟩, -⟩ <;> rw [h] <;> rfl
  rw [none_]
  rfl

/-- What a copy beyond the cluster leaves. -/
structure FarFrame (s t : State) (c : Nat) : Prop where
  regs : (t.core c).regs = (s.core c).regs
  arr : (t.core c).arr = (s.core c).arr
  ls : (t.core c).ls = (s.core c).ls
  seq : (t.core c).seq = (s.core c).seq
  sp : (t.core c).sp = (s.core c).sp
  others : ∀ e, e ≠ c → t.core e = s.core e
  clusters : t.clusters = s.clusters
  tasks : t.tasks = s.tasks

/-- A copy that has left the cores as they are posts its record. -/
theorem farFrame_complete {t : State} (cores : t.cores = s.cores) (clusters : t.clusters = s.clusters) (tasks : t.tasks = s.tasks)
    (room : (s.core c).eng.evq.length < 128) (cmd : o.cmd = .copy d a none) (status : Nat) (w1 : Word64) :
    hasPosted s (t.complete c o status w1) c 1 7 status o.addr w1 ∧ FarFrame s (t.complete c o status w1) c := by
  have core : ∀ e, t.core e = s.core e := fun e => by rw [State.core, cores]; rfl
  have posted := complete_hasPosted (s := t) (c := c) (o := o) (by rw [core]; exact room) (by rw [cmd]; exact EngCmd.noConfusion) status w1
  rw [show recordKind o.cmd = 1 from congrArg recordKind cmd] at posted
  obtain ⟨⟨regs, arr, ls, seq, others, -, -, -⟩, -⟩ := engineFrame_modEng t c fun e => e.post { o with status := status, word1 := w1 }
  refine ⟨hasPosted_of_evq (by rw [core]) posted, regs.trans (by rw [core]), arr.trans (by rw [core]), ls.trans (by rw [core]),
    seq.trans (by rw [core]), (sp_modEng t c _).trans (by rw [core]), fun e h => (others e h).trans (core e), clusters, tasks⟩

theorem spendRemote_eq (s : State) (zs : List Shape) : ∃ n, s.spendRemote zs = { s with free := n } := by
  unfold State.spendRemote
  split
  · exact ⟨_, rfl⟩
  · exact ⟨s.free, rfl⟩

theorem clearFor_iff (s : State) (o : EngOp) : s.clearFor o.clearAt o.tid = true ↔ opIsClear s o := by
  refine ⟨fun h => ?_, clearFor_of_clear⟩
  unfold State.clearFor at h
  rw [Bool.and_eq_true] at h
  obtain ⟨due, front⟩ := h
  constructor
  · cases at_ : o.clearAt with
    | none => rw [at_] at due; exact absurd due (by simp)
    | some τ =>
      rw [at_] at due
      exact ⟨τ, rfl, of_decide_eq_true due⟩
  · intro k task
    rw [task] at front
    simpa using front

/-- A copy to the chip scratchpad or to global memory waits until it may leave, and then its bytes are at home. -/
theorem copy_home (oldest : (s.core c).eng.copyQ = o :: rest) (cmd : o.cmd = .copy d a none) (pending : o.complete = false)
    (started : o.started = true) (due : o.doneAt ≤ s.cycle) (good : o.status = 0) (room : (s.core c).eng.evq.length < 128)
    (some_ : (copyBytes d a o.elems).1 ≠ []) {P : Int → Nat} (beyond : d.lvl = 2 ∨ d.lvl = 3) (fresh : freshCaches s (s.pasidOf c))
    (addrs : ∀ x ∈ (copyBytes d a o.elems).1, outAddr s c d.lvl x.1 = some (P x.1)) :
    (¬ opIsClear s o ∨ heldBehind s o.id (decide (d.lvl = 2)) (copyBytes d a o.elems).1 P → exec (.copyComplete c) s = .next s) ∧
    (opIsClear s o → ¬ heldBehind s o.id (decide (d.lvl = 2)) (copyBytes d a o.elems).1 P →
      ∃ t, exec (.copyComplete c) s = .next t ∧ hasPosted s t c 1 7 0 o.addr (BitVec.ofNat 64 (copyBytes d a o.elems).2) ∧
        FarFrame s t c ∧
        TakesBytes (if d.lvl = 2 then s.xs else s.pmem) (if d.lvl = 2 then t.xs else t.pmem)
          ((copyBytes d a o.elems).1.map fun x => (P x.1, x.2)) ∧
        (if d.lvl = 2 then t.pmem = s.pmem else t.xs = s.xs)) := by
  obtain ⟨place, places, check⟩ := checkOut_home (before := o.id) (own := (s.copyCores c none).contains c) beyond fresh addrs
  obtain ⟨waits, writes⟩ := copyComplete_runs oldest cmd pending started due good check
  have stays : copyStays s o ((copyBytes d a o.elems).1.map fun x => (place x, x.2)) ↔
      ¬ opIsClear s o ∨ heldBehind s o.id (decide (d.lvl = 2)) (copyBytes d a o.elems).1 P := by
    unfold copyStays
    rw [places.heldUnder_iff, ← clearFor_iff, Bool.not_eq_true]
    exact and_iff_right (places.leaves_ some_)
  refine ⟨fun h => waits (stays.mpr h), fun clear alone => ?_⟩
  have goes : ¬ copyStays s o ((copyBytes d a o.elems).1.map fun x => (place x, x.2)) := fun h =>
    (stays.mp h).elim (fun n => n clear) alone
  obtain ⟨n, poison, written⟩ := writeOut_away s c d.chip ((s.copyCores c none).contains c) (s.copyCores c none) 0 places.away places.below
  rw [show writtenBytes s 0 ((copyBytes d a o.elems).1.map fun x => (place x, x.2)) = _ from if_pos rfl,
    remoteRuns_near places.near, List.foldl_nil] at written
  have took := homeTook_bytes c ((s.copyCores c none).contains c) (s.copyCores c none) places { s with free := n }
  obtain ⟨n', spent⟩ := spendRemote_eq (s.writeOut c d.chip ((s.copyCores c none).contains c) (s.copyCores c none) 0
    ((copyBytes d a o.elems).1.map fun x => (place x, x.2))) [d]
  refine ⟨_, writes goes, ?_⟩
  rw [copyWritten, spent, written]
  generalize ((copyBytes d a o.elems).1.map fun x => (place x, x.2)).foldl
    (fun (t : State) x => t.outByte c ((s.copyCores c none).contains c) (s.copyCores c none) x.1 x.2) { s with free := n } = u at took
  obtain ⟨cores, clusters, tasks, bytes, other⟩ := took
  obtain ⟨posted, frame⟩ := farFrame_complete (s := s) (t := { u with poison := poison, free := n' }) cores clusters tasks room cmd 0
    (BitVec.ofNat 64 (copyBytes d a o.elems).2)
  refine ⟨posted, frame, ?_, ?_⟩
  · simp only [decide_eq_true_eq] at bytes
    exact bytes
  · simp only [decide_eq_true_eq] at other
    rcases beyond with h | h
    · rw [if_pos h, if_pos h] at other
      rw [if_pos h]
      exact other
    · have far : ¬ d.lvl = 2 := by omega
      rw [if_neg far, if_neg far] at other
      rw [if_neg far]
      exact other

/-! ### A copy to another chip (R356, assumption log 72) -/

theorem remoteStatus_write (s : State) (page : Nat) :
    s.remoteStatus true page = 0 ∨ s.remoteStatus true page = 0x09 ∨ s.remoteStatus true page = 0x0A := by
  unfold State.remoteStatus
  split
  · exact .inr (.inl rfl)
  · exact .inr (.inr rfl)
  · exact .inl rfl
  · exact .inl rfl

theorem locate_remote {s : State} {c before : Nat} {x : Int} (low : 0 ≤ x) (high : x < 2 ^ 57) :
    s.locate c before 4 true x = if s.remoteStatus true (x.toNat / 4096) = 0 then .inl (.remote x.toNat)
      else .inr (s.remoteStatus true (x.toNat / 4096)) := by
  have n : (x % 2 ^ 64).toNat = x.toNat := toNat_mod_two_pow low (by omega)
  have within : ¬ 2 ^ 57 ≤ x.toNat := by omega
  unfold State.locate
  rw [n]
  refine (if_neg within).trans ?_
  split
  next h => exact (if_pos h).symm
  next h => exact (if_neg h).symm

/-- The bytes that a check lets through are among those that it has looked at, and its status is theirs. -/
theorem checkOut_sub (s : State) (c before lvl : Nat) (own : Bool) (bs : List (Int × Byte)) :
    (s.checkOut c before lvl own bs).2 = (bs.foldl (checkByte s c before lvl own) ([], 0)).2 ∧
    ∀ y ∈ (s.checkOut c before lvl own bs).1, y ∈ (bs.foldl (checkByte s c before lvl own) ([], 0)).1 := by
  unfold State.checkOut
  extract_lets r
  have looked : bs.foldl (checkByte s c before lvl own) ([], 0) = r := rfl
  rw [looked]
  split
  · exact ⟨rfl, fun _ h => h⟩
  · exact ⟨rfl, fun _ h => List.mem_of_mem_filter h⟩

/-- Places of another chip, and the statuses that its pages may give. -/
def RemoteChecked (acc : List (Loc × Byte) × Nat) : Prop :=
  (∀ y ∈ acc.1, ∃ n, y.1 = .remote n) ∧ (acc.2 = 0 ∨ acc.2 = 0x09 ∨ acc.2 = 0x0A)

theorem checkByte_remote {before : Nat} {own : Bool} {x : Int × Byte} (low : 0 ≤ x.1) (high : x.1 < 2 ^ 57)
    {acc : List (Loc × Byte) × Nat} (checked : RemoteChecked acc) : RemoteChecked (checkByte s c before 4 own acc x) := by
  obtain ⟨places, status⟩ := checked
  unfold checkByte
  split
  · exact ⟨places, status⟩
  · rw [locate_remote low high]
    by_cases ok : s.remoteStatus true (x.1.toNat / 4096) = 0
    · rw [if_pos ok]
      refine ⟨fun y hy => ?_, .inl rfl⟩
      rcases List.mem_append.mp hy with hy | hy
      · exact places y hy
      · exact ⟨_, congrArg Prod.fst (List.mem_singleton.mp hy)⟩
    · rw [if_neg ok]
      exact ⟨places, remoteStatus_write s _⟩

theorem foldl_checkByte_remote {before : Nat} {own : Bool} (bs : List (Int × Byte)) (within : ∀ x ∈ bs, 0 ≤ x.1 ∧ x.1 < 2 ^ 57)
    {acc : List (Loc × Byte) × Nat} (checked : RemoteChecked acc) : RemoteChecked (bs.foldl (checkByte s c before 4 own) acc) := by
  induction bs generalizing acc with
  | nil => exact checked
  | cons x bs ih =>
    obtain ⟨low, high⟩ := within x List.mem_cons_self
    exact ih (fun y hy => within y (List.mem_cons_of_mem x hy)) (checkByte_remote low high checked)

/-- What the check of bytes of another chip lets through, and its status. -/
theorem checkOut_remote {before : Nat} {own : Bool} {bs : List (Int × Byte)} (within : ∀ x ∈ bs, 0 ≤ x.1 ∧ x.1 < 2 ^ 57) :
    ∃ ls st, s.checkOut c before 4 own bs = (ls, st) ∧ (∀ y ∈ ls, ∃ n, y.1 = .remote n) ∧ (st = 0 ∨ st = 0x09 ∨ st = 0x0A) ∧
      ((∀ x ∈ bs, s.remoteStatus true (x.1.toNat / 4096) = 0) → ls = bs.map (fun x => (.remote x.1.toNat, x.2)) ∧ st = 0) := by
  by_cases taken : ∀ x ∈ bs, s.remoteStatus true (x.1.toNat / 4096) = 0
  · have whole : s.checkOut c before 4 own bs = (bs.map fun x => (.remote x.1.toNat, x.2), 0) :=
      checkOut_places (place := fun x => .remote x.1.toNat)
        (fun x hx => (locate_remote (within x hx).1 (within x hx).2).trans (if_pos (taken x hx))) fun _ _ => rfl
    refine ⟨_, _, whole, fun y hy => ?_, .inl rfl, fun _ => ⟨rfl, rfl⟩⟩
    obtain ⟨x, -, rfl⟩ := List.mem_map.mp hy
    exact ⟨_, rfl⟩
  · obtain ⟨status, sub⟩ := checkOut_sub s c before 4 own bs
    obtain ⟨places, codes⟩ := foldl_checkByte_remote (s := s) (c := c) (before := before) (own := own) bs within (acc := ([], 0))
      ⟨fun _ h => absurd h List.not_mem_nil, .inl rfl⟩
    rw [← status] at codes
    generalize s.checkOut c before 4 own bs = checked at sub codes ⊢
    exact ⟨checked.1, checked.2, rfl, fun y hy => places y (sub y hy), codes, fun h => absurd h taken⟩

/-- Bytes of another chip change nothing here. -/
theorem foldl_outByte_remote (c : Nat) (own : Bool) (ranks : List Nat) (ls : List (Loc × Byte)) (remote : ∀ y ∈ ls, ∃ n, y.1 = .remote n)
    (s : State) : ls.foldl (fun (t : State) x => t.outByte c own ranks x.1 x.2) s = s := by
  refine foldl_stays fun y hy => ?_
  obtain ⟨n, h⟩ := remote y hy
  rw [h]
  rfl

theorem heldUnder_remote (s : State) (before : Nat) {ls : List (Loc × Byte)} (remote : ∀ y ∈ ls, ∃ n, y.1 = .remote n) :
    s.heldUnder before (ls.map (·.1)) = false := by
  unfold State.heldUnder
  refine List.any_eq_false.mpr fun e _ => ?_
  rw [Bool.not_eq_true]
  refine List.any_eq_false.mpr fun h _ => ?_
  rw [Bool.and_eq_true, not_and]
  intro _
  rw [List.any_map, List.any_eq_true]
  rintro ⟨y, hy, under⟩
  obtain ⟨n, at_⟩ := remote y hy
  simp [at_] at under

/-- A copy to another chip waits for its bundle, and then its bytes leave in flits. -/
theorem copy_remote (oldest : (s.core c).eng.copyQ = o :: rest) (cmd : o.cmd = .copy d a none) (pending : o.complete = false)
    (started : o.started = true) (due : o.doneAt ≤ s.cycle) (good : o.status = 0) (room : (s.core c).eng.evq.length < 128)
    (some_ : (copyBytes d a o.elems).1 ≠ []) (far : d.lvl = 4) (within : ∀ x ∈ (copyBytes d a o.elems).1, 0 ≤ x.1 ∧ x.1 < 2 ^ 57)
    (gangs : s.link.gangs = []) :
    let bs := (copyBytes d a o.elems).1
    let taken := ∀ x ∈ bs, s.remoteStatus true (x.1.toNat / 4096) = 0
    (¬ opIsClear s o → taken → exec (.copyComplete c) s = .next s) ∧
    (opIsClear s o →
      ∃ (t : State) (st : Nat) (runs : List (Nat × List Byte)), exec (.copyComplete c) s = .next t ∧
        hasPosted s t c 1 7 st o.addr (BitVec.ofNat 64 (copyBytes d a o.elems).2) ∧
        FarFrame s t c ∧ t.pmem = s.pmem ∧ t.xs = s.xs ∧ (st = 0 ∨ st = 0x09 ∨ st = 0x0A) ∧ (taken → st = 0) ∧
        (∀ r ∈ runs, 0 < r.2.length ∧ r.2.length ≤ 64) ∧
        (taken → (runs.map runBytes).flatten = bs.map fun x => (x.1.toNat, x.2)) ∧
        (s.upPorts ≠ [] → t.link.sent = s.link.sent ++ runs.map fun r => Flit.write d.chip (s.pasidOf c) r.1 r.2) ∧
        (s.upPorts = [] → t.link.blocked = s.link.blocked ++ (runs.map fun r => Flit.write d.chip (s.pasidOf c) r.1 r.2) ∧
          t.link.sent = s.link.sent)) := by
  intro bs taken
  obtain ⟨ls, st, check, remote, codes, whole⟩ := checkOut_remote (s := s) (c := c) (before := o.id)
    (own := (s.copyCores c none).contains c) within
  rw [← far] at check
  obtain ⟨waits, writes⟩ := copyComplete_runs oldest cmd pending started due good check
  constructor
  · intro unclear all
    obtain ⟨rfl, -⟩ := whole all
    refine waits ⟨?_, .inl (by rwa [← Bool.not_eq_true, clearFor_iff])⟩
    obtain ⟨x, hx⟩ := List.exists_mem_of_ne_nil bs some_
    exact List.any_eq_true.mpr ⟨(.remote x.1.toNat, x.2), List.mem_map_of_mem hx, rfl⟩
  · intro clear
    have goes : ¬ copyStays s o ls := by
      rintro ⟨-, unclear | behind⟩
      · rw [(clearFor_iff s o).mpr clear] at unclear
        exact Bool.noConfusion unclear
      · rw [heldUnder_remote s o.id remote] at behind
        exact Bool.noConfusion behind
    have away : ∀ y ∈ ls, ∀ n, y.1 ≠ .sp n := fun y hy n h => by
      obtain ⟨m, hm⟩ := remote y hy
      rw [hm] at h
      exact Loc.noConfusion h
    have below : ∀ y ∈ ls, ∀ n k, y.1 = .gl n k → n < doorBase := fun y hy n k h => by
      obtain ⟨m, hm⟩ := remote y hy
      rw [hm] at h
      exact Loc.noConfusion h
    obtain ⟨n, poison, written⟩ := writeOut_away s c d.chip ((s.copyCores c none).contains c) (s.copyCores c none) st away below
    rw [foldl_outByte_remote c _ _ _ fun y hy => remote y (writtenBytes_sub y hy)] at written
    have emitted := emitted_runs c d.chip (remoteRuns (writtenBytes s st ls)) { s with free := n } gangs
    obtain ⟨n', spent⟩ := spendRemote_eq (s.writeOut c d.chip ((s.copyCores c none).contains c) (s.copyCores c none) st ls) [d]
    obtain ⟨bytes, sizes⟩ := remoteRuns_spec (writtenBytes s st ls)
    have runs := writes goes
    rw [copyWritten, spent, written] at runs
    generalize (remoteRuns (writtenBytes s st ls)).foldl
      (fun (t : State) x => t.emit (t.pasidOf c) (.write d.chip (t.pasidOf c) x.1 x.2)) { s with free := n } = u at emitted runs
    obtain ⟨⟨l, m, only⟩, -, -, sent, blocked⟩ := emitted
    obtain ⟨posted, frame⟩ := farFrame_complete (s := s) (t := { u with poison := poison, free := n' }) (by rw [only]) (by rw [only])
      (by rw [only]) room cmd st (BitVec.ofNat 64 (copyBytes d a o.elems).2)
    refine ⟨_, st, remoteRuns (writtenBytes s st ls), runs, posted, frame, ?_, ?_, codes, fun all => (whole all).2, sizes, fun all => ?_,
      fun up => sent up, fun down => blocked down⟩
    · have kept : u.pmem = s.pmem := by rw [only]
      exact kept
    · have kept : u.xs = s.xs := by rw [only]
      exact kept
    · obtain ⟨rfl, rfl⟩ := whole all
      rw [bytes, show writtenBytes s 0 _ = _ from if_pos rfl, List.filterMap_map]
      exact congrFun (List.filterMap_eq_map (f := fun x : Int × Byte => (x.1.toNat, x.2))) _

end

end Sys2Proof.Machine
end

section
/-!
PROOFS. Copies and invalidations, assembled (R213, R214, R222, R235-R237).
-/
namespace Sys2Proof.Machine

section
variable {s : State} {c : Nat} {o : EngOp} {rest : EngQueue} {d a : Shape}

/-- A copy that reaches beyond the cluster starts once its task is the frontier task and nothing holds what it reads. -/
theorem copies_far_start (oldest : (s.core c).eng.copyQ = o :: rest) (cmd : o.cmd = .copy d a none) (pending : o.complete = false)
    (fresh : o.started = false) (far : 2 ≤ a.lvl ∨ 2 ≤ d.lvl) :
    let committed := ∀ k, s.task? o.tid = some k → s.isFrontier o.tid = true ∨ k.state = .committed
    (¬committed → exec (.copyStart c) s = .next s) ∧
    (2 ≤ a.lvl → s.tensorHeld c o.id a true = true → exec (.copyStart c) s = .next s) ∧
    (committed → (2 ≤ a.lvl → s.tensorHeld c o.id a true = false ∧ s.tensorUnclear c o a true = false) →
      ∃ t x, exec (.copyStart c) s = .next t ∧ (t.core c).eng.copyQ.head? = some x ∧ x.started = true ∧ s.cycle < x.doneAt ∧
        x.cmd = o.cmd ∧ (2 ≤ a.lvl → x.elems = (s.readTensor c o.id a true).1) ∧ (a.lvl < 2 → x.elems = o.elems) ∧
        x.status = (if a.badScale = true ∨ d.badScale = true then 0x45 else
          if 2 ≤ a.lvl then (s.readTensor c o.id a true).2 else o.status) ∧
        engineFrame s t c ∧ (t.core c).sp = (s.core c).sp) := by
  intro committed
  have front : s.opCommitted o = true ↔ committed := opCommitted_iff s o
  refine ⟨fun early => ?_, fun high held => ?_, fun ready clear => ?_⟩
  · exact copyStart_waits oldest cmd (.inl ⟨far, by rwa [← Bool.not_eq_true, front]⟩)
  · exact copyStart_waits oldest cmd (.inr ⟨high, .inl held⟩)
  · have goes : ¬ copyWaits s c o d a := by
      rintro (⟨-, early⟩ | ⟨high, held | unclear⟩)
      · exact Bool.noConfusion (early.symm.trans (front.mpr ready))
      · exact Bool.noConfusion (held.symm.trans (clear high).1)
      · exact Bool.noConfusion (unclear.symm.trans (clear high).2)
    obtain ⟨t, x, runs, head, atWork, later, same, elems, status, frame, sp⟩ := copyStart_starts oldest cmd pending fresh goes
    obtain ⟨-, -, read, kept, code⟩ := copyRead_fields s c o a
    exact ⟨t, x, runs, head, atWork, later, same, fun high => elems.trans (read high), fun low => elems.trans (kept low),
      by rw [status, code], frame, sp⟩

/-- What a copy beyond the cluster leaves, as the statement says it. -/
theorem FarFrame.parts {t : State} (frame : FarFrame s t c) : (t.core c).regs = (s.core c).regs ∧ (t.core c).arr = (s.core c).arr ∧
    (t.core c).ls = (s.core c).ls ∧ (t.core c).seq = (s.core c).seq ∧ (t.core c).sp = (s.core c).sp ∧
    (∀ e, e ≠ c → t.core e = s.core e) ∧ t.clusters = s.clusters ∧ t.tasks = s.tasks :=
  ⟨frame.regs, frame.arr, frame.ls, frame.seq, frame.sp, frame.others, frame.clusters, frame.tasks⟩

/-- Bytes at home read as they were written, and every other byte as before. -/
theorem TakesBytes.at_home {m m' : Memory} {bs : List (Int × Byte)} {P : Int → Nat} (takes : TakesBytes m m' (bs.map fun x => (P x.1, x.2))) :
    ((bs.map fun x => P x.1).Nodup → ∀ x ∈ bs, m'.read (P x.1) = x.2) ∧ (∀ q, (∀ x ∈ bs, P x.1 ≠ q) → m'.read q = m.read q) := by
  have names : (bs.map fun x => (P x.1, x.2)).map (·.1) = bs.map fun x => P x.1 := by rw [List.map_map]; rfl
  refine ⟨fun nodup x hx => takes.written (by rwa [names]) (P x.1, x.2) (List.mem_map_of_mem hx), fun q apart => takes.kept q ?_⟩
  intro y hy
  obtain ⟨x, hx, rfl⟩ := List.mem_map.mp hy
  exact apart x hx

end

/-- Settles O24. -/
theorem copiesAndInvalidationsComplete : Obligations.CopiesAndInvalidationsComplete := by
  unfold Obligations.CopiesAndInvalidationsComplete
  refine ⟨copies_near, multicast_completes, ?_, ?_⟩
  · intro c o rest d a s oldest cmd pending committed far
    refine ⟨copies_far_start oldest cmd pending, fun started due good room => ?_⟩
    intro bs flags frame some_
    refine ⟨fun P beyond fresh addrs => ?_, fun remote within gangs => ?_⟩
    · intro before behind
      obtain ⟨waits, goes⟩ := copy_home oldest cmd pending started due good room some_ beyond fresh addrs
      refine ⟨waits, fun clear alone => ?_⟩
      obtain ⟨t, runs, posted, far_, takes, other⟩ := goes clear alone
      exact ⟨t, runs, posted, far_.parts, takes.at_home, other⟩
    · intro taken
      obtain ⟨waits, goes⟩ := copy_remote oldest cmd pending started due good room some_ remote within gangs
      refine ⟨waits, fun clear => ?_⟩
      obtain ⟨t, st, runs, next, posted, far_, pmem, xs, codes, fine, sizes, bytes, sent, blocked⟩ := goes clear
      exact ⟨t, st, runs, next, posted, far_.parts, pmem, xs, codes, fine, sizes, bytes, sent, blocked⟩
  · intro c va n size o rest s oldest cmd pending room p unit first
    obtain ⟨t, runs, posted, frame, sp, tlb⟩ := tinv_completes c va n size o rest s oldest cmd pending room first
    have units : tinvBytes size = unit := by cases size <;> rfl
    rw [units] at tlb
    exact ⟨t, runs, posted, frame, sp, tlb⟩

end Sys2Proof.Machine
end

section
/-!
PROOFS. Entries of the stash: their places, their stored bytes, and their moves (R238, R240, R242, R243, R406).
-/
namespace Sys2Proof.Machine

/-! ### Entries by their key (R238) -/

theorem entry?_key {x : Context} {key : Nat} {e : StashEntry} (h : x.entry? key = some e) : e.key = key :=
  beq_iff_eq.mp (List.find?_some (p := fun y : StashEntry => y.key == key) h)

theorem entry?_setEntry_same {x : Context} {key : Nat} {e f : StashEntry} (h : x.entry? key = some e) (same : f.key = key) :
    (x.setEntry f).entry? key = some f := by
  rw [entry?_setEntry, h, Option.map_some, if_pos (beq_iff_eq.mpr ((entry?_key h).trans same.symm))]

theorem entry?_setEntry_other {x : Context} {q : Nat} {f : StashEntry} (other : q ≠ f.key) : (x.setEntry f).entry? q = x.entry? q := by
  rw [entry?_setEntry]
  cases h : x.entry? q with
  | none => rfl
  | some e => rw [Option.map_some, if_neg fun same => other ((entry?_key h).symm.trans (beq_iff_eq.mp same))]

/-- A kept entry, as the stash holds it. -/
def StashEntry.kept (e : StashEntry) : StashEntry := { e with state := .kept, moveAt := none, wanted := none }

theorem entry?_keep_same (x : Context) (e : StashEntry) : (x.keep e).entry? e.key = some e.kept := by
  have gone : (x.stash.filter fun y => y.key != e.key).find? (fun y => y.key == e.key) = none :=
    List.find?_eq_none.mpr fun y hy => by simpa using (List.mem_filter.mp hy).2
  show ((x.stash.filter fun y => y.key != e.key) ++ [e.kept]).find? (fun y => y.key == e.key) = some e.kept
  rw [List.find?_append, gone]
  simp [StashEntry.kept]

theorem find?_filter_key (l : List StashEntry) {k q : Nat} (other : q ≠ k) :
    (l.filter fun y => y.key != k).find? (fun y => y.key == q) = l.find? fun y => y.key == q := by
  rw [List.find?_filter]
  refine congrArg (fun p => List.find? p l) (funext fun y => ?_)
  by_cases h : y.key = q
  · simp [h, other]
  · simp [h]

theorem entry?_keep_other {x : Context} {e : StashEntry} {q : Nat} (other : q ≠ e.key) : (x.keep e).entry? q = x.entry? q := by
  show ((x.stash.filter fun y => y.key != e.key) ++ [e.kept]).find? (fun y => y.key == q) = x.stash.find? fun y => y.key == q
  rw [List.find?_append, find?_filter_key _ other]
  have last : [e.kept].find? (fun y => y.key == q) = none := by simp [StashEntry.kept, Ne.symm other]
  rw [last, Option.or_none]

theorem entry?_dropEntry (x : Context) (key : Nat) : (x.dropEntry key).entry? key = none :=
  List.find?_eq_none.mpr fun y hy => by simpa using (List.mem_filter.mp hy).2

/-- Returns that start bring no entry of a key that has none. -/
theorem pumpReturns_lacks (p key n : Nat) (s : State) (h : (s.ctx p).entry? key = none) : ((s.pumpReturns p n).ctx p).entry? key = none := by
  induction n generalizing s with
  | zero => exact h
  | succ n ih =>
    unfold State.pumpReturns
    dsimp only
    split
    · exact h
    · split
      · exact h
      · split
        · rw [State.ctx_modCtx_same, entry?_setEntry, h, Option.map_none]
        · refine ih _ ?_
          rw [State.ctx_modCtx_same, entry?_setEntry]
          exact congrArg (Option.map _) h

theorem pumpFreed_lacks {s : State} {p key : Nat} (h : (s.ctx p).entry? key = none) : ((s.pumpFreed p).ctx p).entry? key = none := by
  refine pumpReturns_lacks p key _ _ ?_
  rw [State.ctx_modCtx_same]
  show (((s.ctx p).stash.map fun e => { e with full := false }).find? fun y => y.key == key) = none
  rw [List.find?_map]
  exact congrArg (Option.map _) h

/-! ### Units of a stored form (R238, R240) -/

theorem padTo_length (n : Nat) (hn : 0 < n) (bs : List Byte) : (padTo n bs).length % n = 0 := by
  have short := Nat.mod_lt bs.length hn
  rw [padTo, List.length_append, List.length_replicate]
  by_cases h : bs.length % n = 0
  · rw [h, Nat.sub_zero, Nat.mod_self, Nat.add_zero]
    exact h
  · rw [Nat.mod_eq_of_lt (show n - bs.length % n < n by omega)]
    have split := Nat.div_add_mod bs.length n
    rw [show bs.length + (n - bs.length % n) = n * (bs.length / n + 1) by rw [Nat.mul_add]; omega]
    exact Nat.mul_mod_right _ _

theorem padTo_padded {n : Nat} {bs : List Byte} (h : bs.length % n = 0) : padTo n bs = bs := by
  rw [padTo, h, Nat.sub_zero, Nat.mod_self]
  exact List.append_nil bs

/-- The units that are found lie within their region. -/
theorem freeUnits_lt {used : List Nat} {total : Nat} (some_ : 0 < total) (f n u : Nat) : ∀ v ∈ freeUnits used total f n u, v < total := by
  induction f generalizing n u with
  | zero => exact fun v hv => absurd hv List.not_mem_nil
  | succ f ih =>
    unfold freeUnits
    split
    · exact fun v hv => absurd hv List.not_mem_nil
    · split
      · exact ih _ _
      · exact List.forall_mem_cons.mpr ⟨Nat.mod_lt _ some_, ih _ _⟩

theorem freeUnits_none (used : List Nat) (total f u : Nat) : freeUnits used total f 0 u = [] := by
  cases f <;> rfl

theorem pickUnits_lt {x : Context} {n : Nat} (room : n ≤ x.arenaUnits) (i : Nat) : ∀ u ∈ x.pickUnits none n i, u < x.arenaUnits := by
  rcases Nat.eq_zero_or_pos n with rfl | pos
  · unfold Context.pickUnits
    rw [freeUnits_none]
    exact fun u hu => absurd hu List.not_mem_nil
  · exact freeUnits_lt (Nat.lt_of_lt_of_le pos room) _ _ _

/-- A memory in which the chunks of some bytes stand in units. -/
def writeUnits (unit : Nat → Nat) (bs : List Byte) (l : List (Nat × Nat)) (m : Memory) : Memory :=
  l.foldl (fun m u => m.writeBytes (unit u.1) ((bs.drop (128 * u.2)).take 128)) m

theorem chunk_length (bs : List Byte) (k : Nat) : ((bs.drop (128 * k)).take 128).length ≤ 128 := List.length_take_le _ _

theorem writeUnits_outside (unit : Nat → Nat) (bs : List Byte) (l : List (Nat × Nat)) (m : Memory) {a : Nat}
    (apart : ∀ u ∈ l, a < unit u.1 ∨ unit u.1 + 128 ≤ a) : (writeUnits unit bs l m).read a = m.read a := by
  induction l generalizing m with
  | nil => rfl
  | cons u l ih =>
    have long := chunk_length bs u.2
    refine (ih _ fun v hv => apart v (List.mem_cons_of_mem u hv)).trans (Memory.read_writeBytes_outside _ _ _ ?_)
    have here := apart u List.mem_cons_self
    omega

theorem writeUnits_inside (unit : Nat → Nat) (bs : List Byte) (l : List (Nat × Nat)) (m : Memory) (nodup : (l.map (·.1)).Nodup)
    (disjoint : ∀ u v, u ≠ v → unit u + 128 ≤ unit v ∨ unit v + 128 ≤ unit u) {u k j : Nat} (here : (u, k) ∈ l) (hj : j < 128)
    (within : 128 * k + j < bs.length) : (writeUnits unit bs l m).read (unit u + j) = bs.getD (128 * k + j) 0 := by
  induction l generalizing m with
  | nil => exact absurd here List.not_mem_nil
  | cons v l ih =>
    obtain ⟨fresh, nodup⟩ := List.nodup_cons.mp nodup
    rcases List.mem_cons.mp here with rfl | here
    · have long : j < ((bs.drop (128 * k)).take 128).length := by
        rw [List.length_take, List.length_drop]
        omega
      refine (writeUnits_outside unit bs l _ fun w hw => ?_).trans ?_
      · have other : w.1 ≠ u := fun same => fresh (List.mem_map.mpr ⟨w, hw, same⟩)
        have apart := disjoint w.1 u other
        omega
      · rw [Memory.read_writeBytes_inside _ _ _ long, List.getElem_take, List.getElem_drop, List.getD_eq_getElem _ _ within]
    · exact ih _ nodup here

/-- A write of the stash engine. -/
def stashWrite (xs : Bool) (a : Nat) (bytes : List Byte) : Write := { xs := xs, addr := a, bytes := bytes, core := 0, seg := 0 }

theorem homeWrite_arena (t : State) (p a : Nat) (bytes : List Byte) :
    ∃ poison, t.homeWrite p (stashWrite true a bytes) = { t with xs := t.xs.writeBytes a bytes, poison := poison } := by
  unfold State.homeWrite
  rw [if_neg (show ¬ (!(stashWrite true a bytes).xs && decide (doorBase ≤ (stashWrite true a bytes).addr)) = true from Bool.false_ne_true)]
  dsimp only
  split
  · exact ⟨_, rfl⟩
  · exact ⟨t.poison, rfl⟩

theorem foldl_homeWrite_arena (p : Nat) (unit : Nat → Nat) (bs : List Byte) (l : List (Nat × Nat)) (t : State) :
    ∃ poison, l.foldl (fun (t : State) u => t.homeWrite p (stashWrite true (unit u.1) ((bs.drop (128 * u.2)).take 128))) t =
      { t with xs := writeUnits unit bs l t.xs, poison := poison } := by
  induction l generalizing t with
  | nil => exact ⟨t.poison, rfl⟩
  | cons u l ih =>
    obtain ⟨first, one⟩ := homeWrite_arena t p (unit u.1) ((bs.drop (128 * u.2)).take 128)
    rw [List.foldl_cons, one]
    exact ih _

/-- The first byte of a unit of the arena. -/
def Context.arenaUnit (x : Context) (u : Nat) : Nat := x.xsbase + 128 * (bits x.starena.toNat 24 24 + u)

/-- The stored form of an entry reaches its units in the arena, and nothing else but poison changes. -/
theorem writeForm_arena (s : State) (p : Nat) (e : StashEntry) :
    ∃ poison, s.writeForm p none e =
      { s with xs := writeUnits (s.ctx p).arenaUnit (padTo 128 e.stored) e.place.zipIdx s.xs, poison := poison } :=
  foldl_homeWrite_arena p (s.ctx p).arenaUnit (padTo 128 e.stored) e.place.zipIdx s

/-- What a write to a spill region leaves. -/
structure SpillFrame (s t : State) : Prop where
  cores : t.cores = s.cores
  tasks : t.tasks = s.tasks
  xs : t.xs = s.xs
  contexts : t.contexts = s.contexts

theorem SpillFrame.trans {s t u : State} (first : SpillFrame s t) (second : SpillFrame t u) : SpillFrame s u :=
  ⟨second.cores.trans first.cores, second.tasks.trans first.tasks, second.xs.trans first.xs, second.contexts.trans first.contexts⟩

theorem doorbell_spill (t : State) (p : Nat) (w : Write) : SpillFrame t (t.doorbell p w) ∧ (t.doorbell p w).pmem = t.pmem := by
  unfold State.doorbell
  split
  · split
    · unfold State.modQueue
      split <;> exact ⟨⟨rfl, rfl, rfl, rfl⟩, rfl⟩
    · exact ⟨⟨rfl, rfl, rfl, rfl⟩, rfl⟩
  · exact ⟨⟨rfl, rfl, rfl, rfl⟩, rfl⟩

theorem homeWrite_spill (t : State) (p a : Nat) {bytes : List Byte} (short : bytes.length ≤ 128) :
    SpillFrame t (t.homeWrite p (stashWrite false a bytes)) ∧
    ∀ q, q < a ∨ a + 128 ≤ q → (t.homeWrite p (stashWrite false a bytes)).pmem.read q = t.pmem.read q := by
  unfold State.homeWrite
  split
  · obtain ⟨frame, pmem⟩ := doorbell_spill t p (stashWrite false a bytes)
    exact ⟨frame, fun q _ => by rw [pmem]⟩
  · have outside : ∀ q, q < a ∨ a + 128 ≤ q → (t.pmem.writeBytes a bytes).read q = t.pmem.read q := fun q h =>
      Memory.read_writeBytes_outside _ _ _ (by omega)
    dsimp only
    split <;> exact ⟨⟨rfl, rfl, rfl, rfl⟩, outside⟩

/-- A chunk of a stored form on its way to a unit of a spill region. -/
def spillUnit (s : State) (p : Nat) (lp : Bool) (bs : List Byte) (t : State) (u : Nat × Nat) : State :=
  match translate s p ((s.ctx p).spillAddr lp u.1) with
  | some g => if g.w && g.home == s.chipNo then t.homeWrite p (stashWrite false g.pa ((bs.drop (128 * u.2)).take 128)) else t
  | none => t

theorem spillUnit_frame (s : State) (p : Nat) (lp : Bool) (bs : List Byte) (t : State) (u : Nat × Nat) :
    SpillFrame t (spillUnit s p lp bs t u) ∧
    ∀ q, (∀ g, translate s p ((s.ctx p).spillAddr lp u.1) = some g → q < g.pa ∨ g.pa + 128 ≤ q) →
      (spillUnit s p lp bs t u).pmem.read q = t.pmem.read q := by
  unfold spillUnit
  split
  next g page =>
    split
    · obtain ⟨frame, outside⟩ := homeWrite_spill t p g.pa (chunk_length bs u.2)
      exact ⟨frame, fun q apart => outside q (apart g page)⟩
    · exact ⟨⟨rfl, rfl, rfl, rfl⟩, fun _ _ => rfl⟩
  next => exact ⟨⟨rfl, rfl, rfl, rfl⟩, fun _ _ => rfl⟩

/-- The stored form of an entry reaches a spill region, and no byte outside the pages of its units changes. -/
theorem writeForm_spill (s : State) (p : Nat) (lp : Bool) (e : StashEntry) :
    SpillFrame s (s.writeForm p (some lp) e) ∧
    ∀ q, (∀ u ∈ e.place, ∀ g, translate s p ((s.ctx p).spillAddr lp u) = some g → q < g.pa ∨ g.pa + 128 ≤ q) →
      (s.writeForm p (some lp) e).pmem.read q = s.pmem.read q := by
  have folds : ∀ (l : List (Nat × Nat)) (t : State), SpillFrame t (l.foldl (spillUnit s p lp (padTo 128 e.stored)) t) ∧
      ∀ q, (∀ u ∈ l, ∀ g, translate s p ((s.ctx p).spillAddr lp u.1) = some g → q < g.pa ∨ g.pa + 128 ≤ q) →
        (l.foldl (spillUnit s p lp (padTo 128 e.stored)) t).pmem.read q = t.pmem.read q := by
    intro l
    induction l with
    | nil => exact fun t => ⟨⟨rfl, rfl, rfl, rfl⟩, fun _ _ => rfl⟩
    | cons u l ih =>
      intro t
      obtain ⟨frame, outside⟩ := spillUnit_frame s p lp (padTo 128 e.stored) t u
      obtain ⟨rest, beyond⟩ := ih (spillUnit s p lp (padTo 128 e.stored) t u)
      exact ⟨frame.trans rest, fun q apart => (beyond q fun v hv => apart v (List.mem_cons_of_mem u hv)).trans
        (outside q (apart u List.mem_cons_self))⟩
  obtain ⟨frame, outside⟩ := folds e.place.zipIdx s
  refine ⟨frame, fun q apart => outside q fun u hu => apart u.1 ?_⟩
  exact List.fst_mem_of_mem_zipIdx hu

end Sys2Proof.Machine
end

section
/-!
PROOFS. Stash commands are released, moves and returns end, and fetches complete (R238, R240, R242, R243, R245).
-/
namespace Sys2Proof.Machine

/-! ### Stashes and drops (R213, R240) -/

theorem arenaRoom_done {s : State} {p op need : Nat} (room : (s.ctx p).arenaUsed + (s.ctx p).claimed op + need ≤ (s.ctx p).arenaUnits)
    (pressure : Bool) : s.arenaRoom p op need pressure = (.done, s) := by
  have enough : (s.ctx p).arenaUsed + need ≤ (s.ctx p).arenaUnits := by omega
  unfold State.arenaRoom
  dsimp only
  rw [if_pos room, if_pos enough]
  exact ite_self _

section
variable {s : State} {c key : Nat} {o : EngOp} {rest : EngQueue}

/-- The bytes of a tensor as the stash holds them in raw mode. -/
def rawForm (z : Shape) (o : EngOp) : List Byte := padTo 128 (streamBytes z.fmt (o.elems.map (·.1)))

def unitsOf (bs : List Byte) : Nat := (bs.length + 127) / 128

/-- The entry that a stash in raw mode leaves. -/
def rawEntry (s : State) (p key : Nat) (z : Shape) (o : EngOp) : StashEntry :=
  { key := key, state := .kept, mode := .raw, fmt := z.fmt, sizes := z.logical, stored := rawForm z o,
    place := (s.ctx p).pickUnits none (unitsOf (rawForm z o)) s.free, lp := false, op := o.id }

theorem stashRelease_raw {z : Shape} (oldest : (s.core c).eng.stashQ = o :: rest) (pending : o.complete = false) (unsent : o.sent = false)
    (clear : opIsClear s o) (cmd : o.cmd = .stash key z .raw) (started : o.started = true) (good : o.status = 0) (scale : z.badScale = false)
    (moving : o.doneAt ≠ 0) (due : o.doneAt ≤ s.cycle)
    (room : (s.ctx (s.pasidOf c)).arenaUsed + (s.ctx (s.pasidOf c)).claimed o.id + unitsOf (rawForm z o) ≤ (s.ctx (s.pasidOf c)).arenaUnits) :
    exec (.stashRelease c) s = .next (((s.takeFree.2.modCtx (s.pasidOf c) fun x => x.keep (rawEntry s (s.pasidOf c) key z o)).writeForm
      (s.pasidOf c) none (rawEntry s (s.pasidOf c) key z o)).complete c o 0 (BitVec.ofNat 64 (rawForm z o).length)) := by
  have ready := clearFor_of_clear clear
  have placed : s.takeFree.2.arenaRoom (s.pasidOf c) o.id (unitsOf (rawForm z o)) true = (.done, s.takeFree.2) :=
    arenaRoom_done (s := s.takeFree.2) room true
  have runs : exec (.stashRelease c) s = execStashRelease c s := rfl
  unfold execStashRelease at runs
  unfold rawForm unitsOf rawEntry at *
  cases o
  dsimp only at pending unsent cmd started good ready placed moving due
  subst pending unsent cmd started good
  simp only [oldest, ready, scale, storeForm, Bool.false_eq_true, Bool.not_true, Bool.false_or, if_false, bne_self_eq_false, moving,
    Nat.not_lt.mpr due] at runs
  rw [placed] at runs
  exact runs

theorem stashRelease_drop {h : Word64} (oldest : (s.core c).eng.stashQ = o :: rest) (pending : o.complete = false) (unsent : o.sent = false)
    (clear : opIsClear s o) (cmd : o.cmd = .drop key h) :
    exec (.stashRelease c) s = .next ((s.modCtx (s.pasidOf c) fun x =>
      x.setEntry { key := key, state := .dropped, handle := h, op := o.id }).complete c o 0 0) := by
  have ready := clearFor_of_clear clear
  have runs : exec (.stashRelease c) s = execStashRelease c s := rfl
  unfold execStashRelease at runs
  simp only [oldest, pending, unsent, ready, cmd, Bool.false_eq_true, Bool.not_true, if_false] at runs
  exact runs

/-- What a stash in raw mode leaves: its entry, its record, and its bytes in the arena. -/
theorem stash_raw_completes {z : Shape} (oldest : (s.core c).eng.stashQ = o :: rest) (pending : o.complete = false) (unsent : o.sent = false)
    (clear : opIsClear s o) (evRoom : (s.core c).eng.evq.length < 128) (cmd : o.cmd = .stash key z .raw) (started : o.started = true)
    (good : o.status = 0) (scale : z.badScale = false) (moving : o.doneAt ≠ 0) (due : o.doneAt ≤ s.cycle)
    (room : (s.ctx (s.pasidOf c)).arenaUsed + (s.ctx (s.pasidOf c)).claimed o.id + unitsOf (rawForm z o) ≤ (s.ctx (s.pasidOf c)).arenaUnits) :
    let p := s.pasidOf c
    let x := s.ctx p
    ∃ t f, exec (.stashRelease c) s = .next t ∧ (t.ctx p).entry? key = some f ∧ f.state = .kept ∧ f.stored = rawForm z o ∧
      f.fmt = z.fmt ∧ f.sizes = z.logical ∧ hasPosted s t c 4 7 0 o.addr (BitVec.ofNat 64 (rawForm z o).length) ∧ engineFrameOnCore s t c ∧
      (∀ q, q ≠ key → (t.ctx p).entry? q = x.entry? q) ∧
      (∀ u ∈ f.place, u < x.arenaUnits) ∧
      (∀ a, (∀ u ∈ f.place, a < x.arenaUnit u ∨ x.arenaUnit u + 128 ≤ a) → t.xs.read a = s.xs.read a) ∧
      (f.place.Nodup → ∀ k u j, f.place[k]? = some u → j < 128 → 128 * k + j < (rawForm z o).length →
        t.xs.read (x.arenaUnit u + j) = (rawForm z o).getD (128 * k + j) 0) := by
  intro p x
  let e := rawEntry s p key z o
  let s1 := s.takeFree.2.modCtx p fun x => x.keep e
  have ctx1 : s1.ctx p = x.keep e := State.ctx_modCtx_same s.takeFree.2 p _
  obtain ⟨poison, written⟩ := writeForm_arena s1 p e
  have runs := stashRelease_raw oldest pending unsent clear cmd started good scale moving due room
  have unit : (s1.ctx p).arenaUnit = x.arenaUnit := by rw [ctx1]; rfl
  have padded : padTo 128 e.stored = rawForm z o := padTo_padded (padTo_length 128 (by decide) _)
  rw [unit, padded] at written
  let u : State := { s1 with xs := writeUnits x.arenaUnit (rawForm z o) e.place.zipIdx s1.xs, poison := poison }
  have runs : exec (.stashRelease c) s = .next (u.complete c o 0 (BitVec.ofNat 64 (rawForm z o).length)) := by
    rw [runs]
    exact congrArg (fun v : State => Host.Outcome.next (v.complete c o 0 (BitVec.ofNat 64 (rawForm z o).length))) written
  have posted : hasPosted u (u.complete c o 0 _) c (recordKind o.cmd) 7 0 o.addr (BitVec.ofNat 64 (rawForm z o).length) :=
    complete_hasPosted (s := u) evRoom (by rw [cmd]; exact EngCmd.noConfusion) 0 _
  rw [show recordKind o.cmd = 4 from congrArg recordKind cmd] at posted
  obtain ⟨frame, -⟩ := engineFrame_modEng u c fun e => e.post { o with status := 0, word1 := BitVec.ofNat 64 (rawForm z o).length }
  have ctx : (u.complete c o 0 (BitVec.ofNat 64 (rawForm z o).length)).ctx p = x.keep e := ctx1
  refine ⟨_, e.kept, runs, ?_, rfl, rfl, rfl, rfl, posted, frame, fun q other => ?_, ?_, fun a apart => ?_, fun nodup k v j at_ hj within => ?_⟩
  · rw [ctx]
    exact entry?_keep_same x e
  · rw [ctx]
    exact entry?_keep_other other
  · exact pickUnits_lt (Nat.le_trans (Nat.le_add_left _ _) room) _
  · exact writeUnits_outside x.arenaUnit (rawForm z o) e.place.zipIdx s.xs fun v hv => apart v.1 (List.fst_mem_of_mem_zipIdx hv)
  · refine writeUnits_inside x.arenaUnit (rawForm z o) e.place.zipIdx s.xs ?_ (fun v w other => ?_) (List.mk_mem_zipIdx_iff_getElem?.mpr at_) hj within
    · rw [List.zipIdx_map_fst]
      exact nodup
    · show x.xsbase + 128 * (_ + v) + 128 ≤ x.xsbase + 128 * (_ + w) ∨ x.xsbase + 128 * (_ + w) + 128 ≤ x.xsbase + 128 * (_ + v)
      omega

theorem drop_completes {h : Word64} {e : StashEntry} (oldest : (s.core c).eng.stashQ = o :: rest) (pending : o.complete = false)
    (unsent : o.sent = false) (clear : opIsClear s o) (evRoom : (s.core c).eng.evq.length < 128) (cmd : o.cmd = .drop key h)
    (there : (s.ctx (s.pasidOf c)).entry? key = some e) :
    let p := s.pasidOf c
    ∃ t f, exec (.stashRelease c) s = .next t ∧ (t.ctx p).entry? key = some f ∧ f.state = .dropped ∧ f.handle = h ∧
      hasPosted s t c 6 7 0 o.addr 0 ∧ engineFrame s t c ∧ (∀ q, q ≠ key → (t.ctx p).entry? q = (s.ctx p).entry? q) := by
  intro p
  let f : StashEntry := { key := key, state := .dropped, handle := h, op := o.id }
  let u := s.modCtx p fun x => x.setEntry f
  have set : u.ctx p = (s.ctx p).setEntry f := State.ctx_modCtx_same s p _
  have ctx : (u.complete c o 0 0).ctx p = (s.ctx p).setEntry f := set
  have posted : hasPosted u (u.complete c o 0 0) c (recordKind o.cmd) 7 0 o.addr 0 :=
    complete_hasPosted (s := u) evRoom (by rw [cmd]; exact EngCmd.noConfusion) 0 0
  rw [show recordKind o.cmd = 6 from congrArg recordKind cmd] at posted
  have frame : engineFrame u (u.complete c o 0 0) c := engineFrame_modEng u c _
  refine ⟨_, f, stashRelease_drop oldest pending unsent clear cmd, ?_, rfl, rfl, posted, frame, fun q other => ?_⟩
  · rw [ctx]
    exact entry?_setEntry_same there rfl
  · rw [ctx]
    exact entry?_setEntry_other other

end

/-! ### Moves and returns (R240, R242) -/

theorem walkFrom_modCtx (s : State) (p : Nat) (f : Context → Context) (va n table : Nat) :
    walkFrom (s.modCtx p f) va n table = walkFrom s va n table := by
  induction n generalizing table with
  | zero => rfl
  | succ n ih =>
    unfold walkFrom
    dsimp only
    rw [ih]
    rfl

/-- A change of a context's stash leaves what its addresses translate to. -/
theorem translate_modCtx (s : State) (p : Nat) {f : Context → Context} (root : (f (s.ctx p)).ptroot = (s.ctx p).ptroot) (va : Nat) :
    translate (s.modCtx p f) p va = translate s p va := by
  unfold translate leafFor
  simp only [walkFrom_modCtx, State.ctx_modCtx_same, root]

section
variable {s : State} {p key at_ : Nat} {e : StashEntry}

theorem pressureSpill_ends (there : (s.ctx p).entry? key = some e) (moves : e.moveAt = some at_) (due : at_ ≤ s.cycle)
    (kept : e.state = .kept) (unnamed : key ∉ s.fetchedKeys p) :
    ∃ t f, exec (.pressureSpillComplete p key) s = .next t ∧
      (t.ctx p).entry? key = some f ∧ f = { e with state := .spilled, lp := false, moveAt := none, place := f.place } ∧
      (∀ q, q ≠ key → (t.ctx p).entry? q = (s.ctx p).entry? q) ∧ t.cores = s.cores ∧ t.tasks = s.tasks ∧ t.xs = s.xs ∧
      (∀ a, (∀ u ∈ f.place, ∀ pg, translate s p (((s.ctx p).sthbm).toNat + 128 * u) = some pg → a < pg.pa ∨ pg.pa + 128 ≤ a) →
        t.pmem.read a = s.pmem.read a) := by
  let f : StashEntry := { e with state := .spilled, lp := false, moveAt := none, place := (s.ctx p).pickUnits (some false) e.units s.free }
  let s1 := s.takeFree.2.modCtx p fun x => x.setEntry f
  have runs : exec (.pressureSpillComplete p key) s = .next (s1.writeForm p (some false) f) := by
    have runs : exec (.pressureSpillComplete p key) s = execPressureSpillComplete p key s := rfl
    unfold execPressureSpillComplete at runs
    rw [there] at runs
    simp only [kept, moves] at runs
    refine runs.trans ((if_neg ?_).trans rfl)
    simpa [Nat.not_lt.mpr due] using unnamed
  obtain ⟨frame, outside⟩ := writeForm_spill s1 p false f
  have ctx : (s1.writeForm p (some false) f).ctx p = (s.ctx p).setEntry f := by
    rw [State.ctx, frame.contexts]
    exact State.ctx_modCtx_same s.takeFree.2 p _
  have same : f.key = key := show e.key = key from entry?_key there
  refine ⟨_, f, runs, ?_, rfl, fun q other => ?_, frame.cores, frame.tasks, frame.xs, fun a apart => outside a fun u hu g page => ?_⟩
  · rw [ctx]
    exact entry?_setEntry_same there same
  · rw [ctx]
    exact entry?_setEntry_other (by rw [same]; exact other)
  · have addr : (s1.ctx p).spillAddr false u = ((s.ctx p).sthbm).toNat + 128 * u := by
      rw [show s1.ctx p = (s.ctx p).setEntry f from State.ctx_modCtx_same s.takeFree.2 p _]
      rfl
    rw [addr] at page
    exact apart u hu g ((translate_modCtx s.takeFree.2 p rfl _).symm.trans page)

theorem stashReturn_ends (there : (s.ctx p).entry? key = some e) (moves : e.moveAt = some at_) (due : at_ ≤ s.cycle)
    (returning : e.state = .returning) :
    ∃ t f, exec (.stashReturnComplete p key) s = .next t ∧ (t.ctx p).entry? key = some f ∧
      f = { e with state := .kept, moveAt := none, wanted := none } ∧ (∀ q, q ≠ key → (t.ctx p).entry? q = (s.ctx p).entry? q) ∧
      t.cores = s.cores ∧ t.tasks = s.tasks ∧ t.pmem = s.pmem := by
  let s1 := s.modCtx p fun x => x.keep e
  have runs : exec (.stashReturnComplete p key) s = .next (s1.writeForm p none e) := by
    have runs : exec (.stashReturnComplete p key) s = execStashReturnComplete p key s := rfl
    unfold execStashReturnComplete at runs
    rw [there] at runs
    simp only [returning, moves] at runs
    exact runs.trans (if_neg (Nat.not_lt.mpr due))
  obtain ⟨poison, written⟩ := writeForm_arena s1 p e
  rw [written] at runs
  have ctx : s1.ctx p = (s.ctx p).keep e := State.ctx_modCtx_same s p _
  have same : e.key = key := entry?_key there
  refine ⟨_, e.kept, runs, ?_, rfl, fun q other => ?_, rfl, rfl, rfl⟩
  · show (s1.ctx p).entry? key = some e.kept
    rw [ctx, ← same]
    exact entry?_keep_same _ e
  · show (s1.ctx p).entry? q = _
    rw [ctx]
    exact entry?_keep_other (by rw [same]; exact other)

/-- Before its time no move and no return ends. -/
theorem moves_wait (there : (s.ctx p).entry? key = some e) (moves : e.moveAt = some at_) (early : s.cycle < at_) :
    exec (.pressureSpillComplete p key) s = .next s ∧ exec (.stashReturnComplete p key) s = .next s := by
  have spill : exec (.pressureSpillComplete p key) s = execPressureSpillComplete p key s := rfl
  have returns : exec (.stashReturnComplete p key) s = execStashReturnComplete p key s := rfl
  unfold execPressureSpillComplete at spill
  unfold execStashReturnComplete at returns
  rw [there] at spill returns
  constructor
  · cases state : e.state with
    | kept =>
      simp only [state, moves] at spill
      exact spill.trans (if_pos (by simp [early]))
    | pending | spilled | returning | dropped =>
      simp only [state] at spill
      exact spill
  · cases state : e.state with
    | returning =>
      simp only [state, moves] at returns
      exact returns.trans (if_pos early)
    | pending | spilled | kept | dropped =>
      simp only [state] at returns
      exact returns

end

/-! ### Fetches (R240, R245) -/

section
variable {s : State} {c key : Nat} {d : Shape} {o : EngOp} {rest : EngQueue} {e : StashEntry} {free : Bool}

theorem fetch_finds_none (oldest : (s.core c).eng.stashQ = o :: rest) (cmd : o.cmd = .fetch key d free) (pending : o.complete = false)
    (due : o.doneAt ≤ s.cycle) (lacks : (s.ctx (s.pasidOf c)).entry? key = none) :
    exec (.fetchComplete c) s = .next (s.complete c o 0x03 0) := by
  have runs : exec (.fetchComplete c) s = execFetchComplete c s := rfl
  unfold execFetchComplete at runs
  simp only [oldest, cmd, pending, lacks] at runs
  exact runs.trans (if_neg (by simpa using due))

theorem fetch_finds_dropped (oldest : (s.core c).eng.stashQ = o :: rest) (cmd : o.cmd = .fetch key d false) (pending : o.complete = false)
    (due : o.doneAt ≤ s.cycle) (there : (s.ctx (s.pasidOf c)).entry? key = some e) (dropped : e.state = .dropped) :
    exec (.fetchComplete c) s = .next (s.complete c o 0x05 e.handle) := by
  have runs : exec (.fetchComplete c) s = execFetchComplete c s := rfl
  unfold execFetchComplete at runs
  simp only [oldest, cmd, pending, there, dropped] at runs
  exact runs.trans ((if_neg (by simpa using due)).trans (if_pos rfl))

/-- The context from which a fetch with free has taken its entry. -/
def Context.fetched (x : Context) (key c : Nat) (o : EngOp) : Context :=
  { x.dropEntry key with freed := x.freed ++ (x.entry? key).toList.map fun e => { entry := e, tid := o.tid, core := c, seg := o.seg } }

/-- The state in which a fetch has delivered its entry. -/
def State.afterFetch (s : State) (p c key : Nat) (o : EngOp) (free : Bool) : State :=
  if free = true then (s.modCtx p fun x => x.fetched key c o).pumpFreed p else s

theorem pumpFreed_contexts (s : State) (p : Nat) : ContextsOnly s (s.pumpFreed p) :=
  ContextsOnly.trans ⟨_, _, _, rfl⟩ (pumpReturns_contexts p _ _)

theorem afterFetch_contexts (s : State) (p c key : Nat) (o : EngOp) (free : Bool) : ContextsOnly s (s.afterFetch p c key o free) := by
  unfold State.afterFetch
  split
  · exact ContextsOnly.trans ⟨_, _, _, rfl⟩ (pumpFreed_contexts _ _)
  · exact ContextsOnly.refl s

theorem afterFetch_lacks (s : State) (p c key : Nat) (o : EngOp) : ((s.afterFetch p c key o true).ctx p).entry? key = none := by
  refine pumpFreed_lacks ?_
  rw [State.ctx_modCtx_same]
  exact entry?_dropEntry _ key

theorem fetch_finds (oldest : (s.core c).eng.stashQ = o :: rest) (cmd : o.cmd = .fetch key d free) (pending : o.complete = false)
    (due : o.doneAt ≤ s.cycle) (there : (s.ctx (s.pasidOf c)).entry? key = some e) (present : e.state ≠ .dropped) (fmt : d.fmt = e.fmt)
    (sizes : d.logical = e.sizes) (scale : d.badScale = false) (low : d.lvl = 0) (fits : FitsScratchpad s c (d.placeCodes e.decode.1)) :
    ∃ t, Delivered s t [c] ((d.placeCodes e.decode.1).map fun x => (x.1.toNat, x.2)) ∧
      exec (.fetchComplete c) s = .next ((t.afterFetch (s.pasidOf c) c key o free).complete c o 0 (BitVec.ofNat 64 e.decode.2)) := by
  have delivered := writeOut_sp s c d.chip true [c] (d.placeCodes e.decode.1)
  have inside : ((spPlaces (d.placeCodes e.decode.1)).any fun x => leaves x.1) = false := by simp [spPlaces, leaves]
  have check : s.checkOut c o.id d.lvl true (d.placeCodes e.decode.1) = (spPlaces (d.placeCodes e.decode.1), 0) := by
    rw [low]
    exact checkOut_sp fits _ _
  have runs : exec (.fetchComplete c) s = execFetchComplete c s := rfl
  unfold execFetchComplete at runs
  simp only [oldest, cmd, pending, there] at runs
  have runs := runs.trans ((if_neg (by simpa using due)).trans ((if_neg (by simpa using present)).trans
    ((if_neg (by simp [fmt, sizes])).trans (if_neg (by simp [scale])))))
  rw [check] at runs
  dsimp only at runs
  rw [inside, spendRemote_low (by simp [low])] at runs
  exact ⟨_, delivered, runs⟩

/-- The record of a fetch that has delivered its entry. -/
theorem fetch_posts {t : State} {l : List (Nat × Byte)} (delivered : Delivered s t [c] l) (room : (s.core c).eng.evq.length < 128)
    (cmd : o.cmd = .fetch key d free) (p : Nat) (w1 : Word64) :
    let u := (t.afterFetch p c key o free).complete c o 0 w1
    hasPosted s u c 7 7 0 o.addr w1 ∧ engineFrame s u c ∧ (u.core c).sp = (t.core c).sp ∧
      (free = false → u.contexts = s.contexts) ∧ (free = true → (u.ctx p).entry? key = none) := by
  have lacks : free = true → ((t.afterFetch p c key o free).ctx p).entry? key = none := fun h => by
    rw [h]
    exact afterFetch_lacks t p c key o
  have keeps : free = false → (t.afterFetch p c key o free).contexts = t.contexts := fun h => by
    rw [h]
    rfl
  obtain ⟨cs, n, m, only⟩ := afterFetch_contexts t p c key o free
  generalize t.afterFetch p c key o free = v at lacks keeps only
  have core : ∀ e, v.core e = t.core e := fun e => by rw [only]; rfl
  have kept : (v.core c).eng = (s.core c).eng := (congrArg Core.eng (core c)).trans (delivered.only c).eng
  have posted := complete_hasPosted (s := v) (c := c) (o := o) (by rw [kept]; exact room) (by rw [cmd]; exact EngCmd.noConfusion) 0 w1
  rw [show recordKind o.cmd = 7 from congrArg recordKind cmd] at posted
  have frame : engineFrame s v c := by
    obtain ⟨⟨regs, arr, ls, seq, others, clusters, tasks, pmem⟩, xs⟩ := delivered.engine
    rw [only]
    exact ⟨⟨regs, arr, ls, seq, others, clusters, tasks, pmem⟩, xs⟩
  exact ⟨hasPosted_of_evq (congrArg Engines.evq kept) posted, engineFrame_trans frame (engineFrame_modEng v c _),
    (sp_modEng v c _).trans (congrArg Core.sp (core c)), fun h => (keeps h).trans delivered.contexts, lacks⟩

end

/-! ### The statement -/

/-- Settles O25. -/
theorem stashEntries : Obligations.StashEntries := by
  unfold Obligations.StashEntries
  refine ⟨?_, ?_, ?_, ?_⟩
  · intro c key o rest s oldest pending unsent due front evRoom p x
    have clear : opIsClear s o := ⟨due, front⟩
    refine ⟨fun z e cmd started good scale there moving late => ?_, fun h e cmd there => ?_⟩
    · intro bs room
      obtain ⟨t, f, runs, entry, kept, stored, fmt, sizes, posted, frame, others, places, outside, inside⟩ :=
        stash_raw_completes oldest pending unsent clear evRoom cmd started good scale moving late room
      exact ⟨t, f, runs, entry, kept, stored, fmt, sizes, posted, frame, others, places, outside, inside⟩
    · exact drop_completes oldest pending unsent clear evRoom cmd there
  · intro p key at_ e s there moves
    exact ⟨fun due => ⟨fun kept unnamed => pressureSpill_ends there moves due kept unnamed, fun returning =>
      stashReturn_ends there moves due returning⟩, fun early => moves_wait there moves early⟩
  · intro c key d o rest s oldest cmd pending due room
    have plain : o.cmd ≠ .atomic := by rw [cmd]; exact EngCmd.noConfusion
    have kind : recordKind o.cmd = 7 := congrArg recordKind cmd
    refine ⟨fun lacks => ?_, fun e there dropped => ?_⟩
    · have posted := complete_hasPosted room plain 3 0
      rw [kind] at posted
      exact ⟨_, fetch_finds_none oldest cmd pending due lacks, posted, engineFrame_modEng s c _, rfl⟩
    · have posted := complete_hasPosted room plain 5 e.handle
      rw [kind] at posted
      exact ⟨_, fetch_finds_dropped oldest cmd pending due there dropped, posted, engineFrame_modEng s c _, rfl⟩
  · intro c key d free e o rest s oldest cmd pending due room p there present fmt sizes scale low bs fits
    obtain ⟨t, delivered, runs⟩ := fetch_finds oldest cmd pending due there present fmt sizes scale low fits
    obtain ⟨posted, frame, sp, keeps, lacks⟩ := fetch_posts delivered room cmd p (BitVec.ofNat 64 e.decode.2)
    obtain ⟨written, kept⟩ := (delivered.takes c List.mem_cons_self).of_fits fun x hx => (fits x hx).1
    refine ⟨_, runs, posted, frame, ?_, ?_, keeps, lacks⟩
    · rw [sp]
      exact written
    · rw [sp]
      exact kept

end Sys2Proof.Machine
end

section
/-!
PROOFS. What arrives over the links: tiles, end tokens and windows (R17, R246, R248-R250, R254, R357).
-/
namespace Sys2Proof.Machine

/-! ### What has come in order on its port -/

/-- An arrival that is counted changes the links, not the gang switches. -/
theorem countFrom_eq (s : State) (port : Option Nat) (n : Nat) : ∃ l : LinkSide, s.countFrom port n = { s with link := l } ∧ l.gangs = s.link.gangs := by
  cases port with
  | none => exact ⟨s.link, rfl, rfl⟩
  | some p => exact ⟨_, rfl, rfl⟩

/-- The chip takes what arrives for an active context on a port that is not held down. -/
structure Takes (s : State) (p : Nat) (port : Option Nat) : Prop where
  active : ∃ x, Table.get? s.contexts p = some x ∧ x.phase = .active
  gangs : s.link.gangs = []
  works : s.recovery = false
  up : ∀ n, port = some n → (Table.get s.link.ports {} n).heldDown = false

theorem Takes.opens {s : State} {p : Nat} {port : Option Nat} (h : Takes s p port) : ¬ (s.recovery || !s.delivers port) = true := by
  have open_ : s.delivers port = true := by
    cases port with
    | none => rfl
    | some n => exact congrArg (!·) (h.up n rfl)
  rw [h.works, open_]
  decide

theorem Takes.unbuffered {s : State} {p : Nat} {port : Option Nat} (h : Takes s p port) : ¬ s.buffers p = true := by
  obtain ⟨x, there, active⟩ := h.active
  have idle : s.gated p = false := by simp [State.gated, h.gangs]
  unfold State.buffers
  rw [idle, there]
  simp [active]

theorem Takes.counted {s : State} {p : Nat} {port : Option Nat} (h : Takes s p port) {l : LinkSide} (gangs : l.gangs = s.link.gangs) :
    Takes { s with link := l } p none :=
  ⟨h.active, gangs.trans h.gangs, h.works, fun _ none_ => absurd none_ (by simp)⟩

/-- A tile that has been counted acts as one of this chip. -/
theorem tileArrival_counted {s : State} {t : Tile} (takes : Takes s t.pasid t.port) :
    ∃ l : LinkSide, Takes { s with link := l } t.pasid none ∧
      exec (.tileArrival t) s = execTileArrival { t with port := none } { s with link := l } := by
  obtain ⟨l, counted, gangs⟩ := countFrom_eq s t.port (flitsOf t.data.length)
  have later := takes.counted gangs
  refine ⟨l, later, ?_⟩
  have runs : exec (.tileArrival t) s = execTileArrival t s := rfl
  rw [runs]
  unfold execTileArrival
  rw [if_neg takes.opens, if_neg later.opens, counted]
  dsimp only [State.countFrom]
  rw [if_neg later.unbuffered, if_neg later.unbuffered]
  rfl

theorem discardFlit_quiet (s : State) : s.discardFlit.contexts = s.contexts ∧ leavesMachine s s.discardFlit := by
  unfold State.discardFlit State.logPair
  dsimp only
  split
  · exact ⟨rfl, rfl, rfl, rfl, rfl, rfl, rfl⟩
  · split
    · exact ⟨rfl, rfl, rfl, rfl, rfl, rfl, rfl⟩
    · split <;> exact ⟨rfl, rfl, rfl, rfl, rfl, rfl, rfl⟩

/-- The tile of its producer that waits for this one comes in behind it, when there is one. -/
def State.nextEarly (s : State) (q : Producer) (t : Tile) : State :=
  match q.early.find? fun (e : Tile) => t.seq = q.arrived && e.seq == q.arrived + 1 with
  | some e => s.arriveHere (.tileArrival e)
  | none => s

theorem nextEarly_eq (s : State) (q : Producer) (t : Tile) : ∃ i, s.nextEarly q t = { s with inputs := i } := by
  unfold State.nextEarly
  split
  · exact ⟨_, rfl⟩
  · exact ⟨s.inputs, rfl⟩

/-! ### A tile, as its channel takes it (R246, R249, R357) -/

section
variable {s : State} {t : Tile} {st : Nat}

theorem tile_discarded (takes : Takes s t.pasid none) (portless : t.port = none)
    (refused : s.channelStage t.pasid t.chan.toNat = none ∨ ((s.ctx t.pasid).inChan t.chan.toNat).valid = false ∨
      ((s.ctx t.pasid).inChan t.chan.toNat).nprod < t.prod.toNat) : execTileArrival t s = .next (s.linkRecv t.stamp).discardFlit := by
  have opens := takes.opens
  rw [← portless] at opens
  unfold execTileArrival
  rw [if_neg opens, portless]
  dsimp only [State.countFrom]
  rw [if_neg takes.unbuffered]
  have stage : (s.linkRecv t.stamp).channelStage t.pasid t.chan.toNat = s.channelStage t.pasid t.chan.toNat := rfl
  rw [stage]
  cases channel : s.channelStage t.pasid t.chan.toNat with
  | none => rfl
  | some st =>
    have invalid := refused.resolve_left (by rw [channel]; exact Option.some_ne_none st)
    refine if_pos ?_
    rw [Bool.or_eq_true, Bool.not_eq_true', decide_eq_true_eq]
    exact invalid

/-- What a channel that takes the tile's producer knows of it. -/
structure Accepts (s : State) (t : Tile) (st : Nat) : Prop where
  takes : Takes s t.pasid none
  portless : t.port = none
  stage : s.channelStage t.pasid t.chan.toNat = some st
  valid : ((s.ctx t.pasid).inChan t.chan.toNat).valid = true
  registered : t.prod.toNat ≤ ((s.ctx t.pasid).inChan t.chan.toNat).nprod

/-- The channel of a tile, and its producer there. -/
def State.tileChannel (s : State) (t : Tile) : InChan := (s.ctx t.pasid).inChan t.chan.toNat
def State.tileProducer (s : State) (t : Tile) : Producer := (s.tileChannel t).producer t.prod.toNat

/-- The state in which an accepted tile stands before its channel. -/
def State.beforeTile (s : State) (t : Tile) : State := (s.linkRecv t.stamp).nextEarly (s.tileProducer t) t

theorem beforeTile_eq (s : State) (t : Tile) : ∃ l i, s.beforeTile t = { s with link := l, inputs := i } := by
  obtain ⟨i, h⟩ := nextEarly_eq (s.linkRecv t.stamp) (s.tileProducer t) t
  exact ⟨_, i, h⟩

/-- A producer's place in its channel. -/
def InChan.setProducer (v : InChan) (p : Nat) (q : Producer) : InChan := { v with prods := Table.put v.prods p q }

theorem setProducer_same (v : InChan) (p : Nat) (q : Producer) : (v.setProducer p q).producer p = q := Table.get_put_same _ _ _ _

/-- A channel of the context of the tile, with what its producer has become. -/
def State.setTileChannel (s : State) (t : Tile) (v : InChan) (q : Producer) : State :=
  s.modCtx t.pasid fun x => x.setIn t.chan.toNat (v.setProducer t.prod.toNat q)

theorem tileChannel_set (s : State) (t : Tile) (v : InChan) (q : Producer) :
    (s.setTileChannel t v q).tileChannel t = v.setProducer t.prod.toNat q := by
  rw [State.tileChannel, State.setTileChannel, State.ctx_modCtx_same]
  exact Table.get_put_same _ _ _ _

/-- A producer whose next tile has come. -/
def Producer.counted (q : Producer) (ts : Nat) : Producer :=
  { q with arrived := q.arrived + 1, watermark := some (match q.watermark with | some w => Nat.max w ts | none => ts),
           early := q.early.filter fun e => decide (q.arrived + 1 < e.seq) }

/-- A producer whose tile waits for an earlier one. -/
def Producer.keeps (q : Producer) (t : Tile) : Producer :=
  { q with early := if q.early.any (fun e => e.seq == t.seq) then q.early else q.early ++ [{ t with port := none }] }

/-- The key of the task that a tile creates. -/
def State.tileKey (s : State) (t : Tile) (st : Nat) : Key :=
  { ts := t.ts.toNat, origin := 256 + t.chan.toNat, seq := ((s.beforeTile t).takeSeq st (256 + t.chan.toNat)).1 }

theorem tileKey_eq (s : State) (t : Tile) (st : Nat) : s.tileKey t st =
    { ts := t.ts.toNat, origin := 256 + t.chan.toNat, seq := Table.get (s.stage st).seqs 0 (256 + t.chan.toNat) } := by
  obtain ⟨l, i, h⟩ := beforeTile_eq s t
  rw [State.tileKey, h]
  rfl

/-- The slot that a tile takes. -/
def State.tileSlot (s : State) (t : Tile) (st : Nat) : TileSlot :=
  { prod := t.prod.toNat, number := (s.tileProducer t).arrived, seq := (s.tileKey t st).seq, tag := t.tag.toNat, ts := t.ts.toNat,
    place := (s.tileChannel t).freePlace (s.beforeTile t).free, tid := none, stamp := (s.beforeTile t).link.clock }

/-- The state in which a tile has its slot and has not yet been written. -/
def State.tileSlotted (s : State) (t : Tile) (st : Nat) : State :=
  ((s.beforeTile t).takeSeq st (256 + t.chan.toNat)).2.takeFree.2.setTileChannel t
    { s.tileChannel t with tiles := (s.tileChannel t).tiles ++ [s.tileSlot t st] } ((s.tileProducer t).counted t.ts.toNat)

/-- What an accepted tile does: nothing when it has come before, wait when it is early, and otherwise be refused for its size, come
too late, or create its task. -/
theorem tileArrival_accepted (h : Accepts s t st) :
    (t.seq < (s.tileProducer t).arrived → execTileArrival t s = .next (s.beforeTile t)) ∧
    ((s.tileProducer t).arrived < t.seq →
      execTileArrival t s = .next ((s.beforeTile t).setTileChannel t (s.tileChannel t) ((s.tileProducer t).keeps t))) ∧
    (t.seq = (s.tileProducer t).arrived → t.data.length ≠ 128 * (s.tileChannel t).tilesz →
      execTileArrival t s = .next (((s.beforeTile t).setTileChannel t { s.tileChannel t with err := true }
        ((s.tileProducer t).counted t.ts.toNat)).openWindow t.pasid t.chan.toNat t.prod.toNat)) ∧
    (t.seq = (s.tileProducer t).arrived → t.data.length = 128 * (s.tileChannel t).tilesz →
      (∀ w, (s.tileProducer t).watermark = some w → w < t.ts.toNat) →
      (s.beforeTile t).isLate st (s.tileKey t st) = false →
      execTileArrival t s = .next (((s.tileSlotted t st).fillSlot
        ((s.tileSlotted t st).bufferAt t.pasid (s.tileChannel t) (s.tileSlot t st).place) t).createFromTile st t.pasid t.chan.toNat
          (s.tileSlot t st))) := by
  have opens := h.takes.opens
  rw [← h.portless] at opens
  have takes : ¬ (!(s.tileChannel t).valid || decide ((s.tileChannel t).nprod < t.prod.toNat)) = true := by
    rw [show (s.tileChannel t).valid = true from h.valid,
      decide_eq_false (show ¬ (s.tileChannel t).nprod < t.prod.toNat from Nat.not_lt.mpr h.registered)]
    decide
  have runs : execTileArrival t s = execTileArrival t s := rfl
  conv at runs => rhs; unfold execTileArrival
  rw [if_neg opens, h.portless] at runs
  dsimp only [State.countFrom] at runs
  rw [if_neg h.takes.unbuffered, show (s.linkRecv t.stamp).channelStage t.pasid t.chan.toNat = some st from h.stage] at runs
  have runs := runs.trans (if_neg takes)
  refine ⟨fun old => runs.trans (if_pos old), fun early => runs.trans ((if_neg (Nat.lt_asymm early)).trans (if_pos early)),
    fun next wrong => ?_, fun next right fresh timely => ?_⟩
  · exact runs.trans ((if_neg (by rw [next]; exact Nat.lt_irrefl _)).trans ((if_neg (by rw [next]; exact Nat.lt_irrefl _)).trans
      (if_pos (bne_iff_ne.mpr wrong))))
  · refine runs.trans ((if_neg (by rw [next]; exact Nat.lt_irrefl _)).trans ((if_neg (by rw [next]; exact Nat.lt_irrefl _)).trans
      ((if_neg fun wrong => bne_iff_ne.mp wrong right).trans (if_neg ?_))))
    rintro late
    rcases (Bool.or_eq_true _ _).mp late with old | late
    · change (match (s.tileProducer t).watermark with | some w => decide (t.ts.toNat ≤ w) | none => false) = true at old
      cases mark : (s.tileProducer t).watermark with
      | none => simp [mark] at old
      | some w =>
        have newer := fresh w mark
        rw [mark] at old
        exact absurd (of_decide_eq_true old) (Nat.not_le.mpr newer)
    · exact Bool.noConfusion (timely.symm.trans late)

end

end Sys2Proof.Machine
end

section
/-!
PROOFS. A tile that creates its task, and what a channel takes from its arrivals (R17, R246, R249, R254, R357).
-/
namespace Sys2Proof.Machine

/-! ### The payload of a tile (R356, R357) -/

/-- A memory in which some flits of 64 bytes of a payload have been written. -/
def writeFlits (a : Nat) (data : List Byte) (flits : List Nat) (m : Memory) : Memory :=
  flits.foldl (fun (m : Memory) n => m.writeBytes (a + 64 * n) ((data.drop (64 * n)).take 64)) m

theorem flit_length (data : List Byte) (n : Nat) : ((data.drop (64 * n)).take 64).length = min 64 (data.length - 64 * n) := by
  rw [List.length_take, List.length_drop]

theorem read_flit {data : List Byte} {j : Nat} (hj : j < data.length) (m : Memory) (a n : Nat) :
    (m.writeBytes (a + 64 * n) ((data.drop (64 * n)).take 64)).read (a + j) = if j / 64 = n then data.getD j 0 else m.read (a + j) := by
  have long := flit_length data n
  by_cases h : j / 64 = n
  · have within : j - 64 * n < ((data.drop (64 * n)).take 64).length := by omega
    have at_ : a + j = a + 64 * n + (j - 64 * n) := by omega
    rw [if_pos h, at_, Memory.read_writeBytes_inside _ _ _ within, List.getElem_take, List.getElem_drop, List.getD_eq_getElem _ _ hj]
    congr 1
    omega
  · rw [if_neg h]
    exact Memory.read_writeBytes_outside _ _ _ (by omega)

theorem read_writeFlits {data : List Byte} {j : Nat} (hj : j < data.length) (a : Nat) (flits : List Nat) (m : Memory) :
    (writeFlits a data flits m).read (a + j) = if j / 64 ∈ flits then data.getD j 0 else m.read (a + j) := by
  induction flits generalizing m with
  | nil => rw [if_neg List.not_mem_nil]; rfl
  | cons n flits ih =>
    refine (ih _).trans ?_
    rw [read_flit hj]
    by_cases later : j / 64 ∈ flits
    · rw [if_pos later, if_pos (List.mem_cons_of_mem n later)]
    · rw [if_neg later]
      exact if_congr (by simp [later]) rfl rfl

theorem writeFlits_outside (data : List Byte) (a : Nat) (flits : List Nat) (m : Memory) {q : Nat} (h : q < a ∨ a + data.length ≤ q) :
    (writeFlits a data flits m).read q = m.read q := by
  induction flits generalizing m with
  | nil => rfl
  | cons n flits ih =>
    have long := flit_length data n
    exact (ih _).trans (Memory.read_writeBytes_outside _ _ _ (by omega))

/-- What a tile leaves in its slot: its bytes but for those of poisoned flits, whose lines are poisoned. -/
structure Filled (s u : State) (a : Nat) (t : Tile) : Prop where
  only : ∃ X Z, u = { s with xs := X, poison := Z }
  written : ∀ j, j < t.data.length → u.xs.read (a + j) = if j / 64 ∈ t.bad then s.xs.read (a + j) else t.data.getD j 0
  kept : ∀ q, q < a ∨ a + t.data.length ≤ q → u.xs.read q = s.xs.read q
  poisoned : ∀ f ∈ t.bad, 64 * f < t.data.length → granOf true (a + 64 * f) ∈ u.poison

theorem fillSlot_filled (s : State) (a : Nat) {t : Tile} (whole : t.data.length % 64 = 0) : Filled s (s.fillSlot a t) a t := by
  unfold State.fillSlot
  extract_lets lines s1 flits good
  split
  next none_ =>
    have bad : t.bad = [] := List.isEmpty_iff.mp none_
    refine ⟨⟨_, _, rfl⟩, fun j hj => ?_, fun q h => Memory.read_writeBytes_outside _ _ _ h, fun f hf => ?_⟩
    · rw [bad, if_neg List.not_mem_nil, List.getD_eq_getElem _ _ hj]
      exact Memory.read_writeBytes_inside _ _ _ hj
    · rw [bad] at hf
      exact absurd hf List.not_mem_nil
  next =>
    refine ⟨⟨_, _, rfl⟩, fun j hj => ?_, fun q h => writeFlits_outside t.data a good s.xs h, fun f hf short => ?_⟩
    · refine (read_writeFlits hj a good s.xs).trans ?_
      have isGood : j / 64 ∈ good ↔ ¬ j / 64 ∈ t.bad := by
        have inside : j / 64 < t.data.length / 64 := by omega
        simp [good, flits, inside]
      by_cases bad : j / 64 ∈ t.bad
      · rw [if_pos bad, if_neg fun g => isGood.mp g bad]
      · rw [if_neg bad, if_pos (isGood.mpr bad)]
    · refine List.mem_append_right _ (List.mem_map.mpr ⟨f, List.mem_filter.mpr ⟨List.mem_range.mpr (by omega), ?_⟩, rfl⟩)
      exact List.contains_iff_mem.mpr hf

/-! ### Creations leave the channels (R242) -/

/-- The in-channels of every context stand as they did. -/
def SameChannels (s t : State) : Prop := ∀ p, (t.ctx p).inch = (s.ctx p).inch

theorem SameChannels.refl (s : State) : SameChannels s s := fun _ => rfl

theorem SameChannels.trans {s t u : State} (first : SameChannels s t) (second : SameChannels t u) : SameChannels s u :=
  fun p => (second p).trans (first p)

theorem sameChannels_modCtx (s : State) (p : Nat) {f : Context → Context} (h : (f (s.ctx p)).inch = (s.ctx p).inch) :
    SameChannels s (s.modCtx p f) := by
  intro q
  by_cases same : q = p
  · rw [same, State.ctx_modCtx_same, h]
  · rw [State.ctx_modCtx_other s f same]

theorem pumpReturns_channels (p n : Nat) (s : State) : SameChannels s (s.pumpReturns p n) := by
  induction n generalizing s with
  | zero => exact SameChannels.refl s
  | succ n ih =>
    unfold State.pumpReturns
    dsimp only
    split
    · exact SameChannels.refl s
    · split
      · exact SameChannels.refl s
      · split
        · exact sameChannels_modCtx s p rfl
        · exact (sameChannels_modCtx s.takeFree.2 p rfl).trans (ih _)

theorem want_channels (s : State) (p key : Nat) : SameChannels s (s.want p key) := by
  unfold State.want
  split
  · split
    · exact sameChannels_modCtx s.takeId.2 p rfl
    · exact SameChannels.refl s
  · exact SameChannels.refl s

theorem wantTags_channels (s : State) (p : Nat) (tags : List Nat) : SameChannels s (s.wantTags p tags) :=
  SameChannels.trans (foldl_keeps (R := SameChannels) SameChannels.refl SameChannels.trans
    (fun t _ => foldl_keeps (R := SameChannels) SameChannels.refl SameChannels.trans (fun t key => want_channels t p key) _ t) _ _)
    (pumpReturns_channels p _ _)

theorem create_channels (s : State) (st : Nat) (kind : TaskKind) (tag : Nat) (key : Key) (budget : Nat) (parent : Option (Nat × Nat))
    (tile : Option (Nat × Nat × Nat)) (stamp : Nat) : SameChannels s (s.create st kind tag key budget parent tile stamp).2 := by
  unfold State.create
  dsimp only
  split
  · exact fun p => wantTags_channels _ _ _ p
  · exact fun p => rfl

/-! ### The task of a tile (R17, R249, R254) -/

/-- The slots of a channel once the task of one of them has been created. -/
def InChan.named (v : InChan) (y : TileSlot) (tid : Nat) : InChan :=
  { v with tiles := v.tiles.map fun z => if z.prod == y.prod && z.number == y.number then { z with tid := some tid } else z }

theorem named_mem {v : InChan} {y : TileSlot} (here : y ∈ v.tiles) (tid : Nat) : { y with tid := some tid } ∈ (v.named y tid).tiles :=
  List.mem_map.mpr ⟨y, here, if_pos (by rw [beq_self_eq_true, beq_self_eq_true]; rfl)⟩

/-- The task that a tile creates, and what it leaves. -/
structure TileTask (s u : State) (st p c : Nat) (y : TileSlot) (v : InChan) : Prop where
  task : ∃ k, u.task? s.nextId = some k ∧ k.key = { ts := y.ts, origin := 256 + c, seq := y.seq } ∧ k.stage = st ∧ k.tag = y.tag ∧
    k.kind = (if v.kind then TaskKind.b else .f) ∧ k.state = .ready
  others : ∀ q, q ≠ s.nextId → u.task? q = s.task? q
  channel : (u.ctx p).inChan c = v.named y s.nextId
  xs : u.xs = s.xs
  cores : u.cores = s.cores
  pmem : u.pmem = s.pmem
  poison : u.poison = s.poison

theorem createFromTile_creates {s : State} {st p c : Nat} {y : TileSlot} (room : s.stageFull st = false) :
    TileTask s (s.createFromTile st p c y) st p c y ((s.ctx p).inChan c) := by
  let kind : TaskKind := if ((s.ctx p).inChan c).kind then .b else .f
  let budget := Table.get ((s.stage st).prog.getD {}).budgets 0 kind.code
  let made := s.create st kind y.tag { ts := y.ts, origin := 256 + c, seq := y.seq } budget none (some (c, y.prod, y.number)) y.stamp
  have runs : s.createFromTile st p c y = made.2.modCtx p fun x => x.setIn c ((x.inChan c).named y s.nextId) :=
    if_neg (by rw [room]; decide)
  obtain ⟨g, cs, n, m, only⟩ := create_eq s st kind y.tag { ts := y.ts, origin := 256 + c, seq := y.seq } budget none
    (some (c, y.prod, y.number)) y.stamp
  have channels : SameChannels s made.2 := create_channels s st kind y.tag _ budget none _ y.stamp
  have here : (made.2.ctx p).inChan c = (s.ctx p).inChan c := by rw [Context.inChan, channels p]; rfl
  rw [runs]
  refine ⟨⟨createdTask s st kind y.tag { ts := y.ts, origin := 256 + c, seq := y.seq } budget none (some (c, y.prod, y.number)) y.stamp,
    ?_, rfl, rfl, rfl, rfl, rfl⟩, fun q other => ?_, ?_, ?_, ?_, ?_, ?_⟩
  · show made.2.task? s.nextId = _
    rw [show made.2 = _ from only]
    exact Table.get?_put_same ..
  · show made.2.task? q = _
    rw [show made.2 = _ from only]
    exact Table.get?_put_other _ _ other
  · rw [State.ctx_modCtx_same, ← here]
    exact Table.get_put_same _ _ _ _
  · exact (congrArg State.xs (show made.2 = _ from only) :)
  · exact (congrArg State.cores (show made.2 = _ from only) :)
  · exact (congrArg State.pmem (show made.2 = _ from only) :)
  · exact (congrArg State.poison (show made.2 = _ from only) :)

theorem freePlace_free {v : InChan} {n : Nat} (within : n < (v.win + 1) * (v.nprod + 1)) (free : ∀ y ∈ v.tiles, y.place ≠ n) (i : Nat) :
    v.freePlace i < (v.win + 1) * (v.nprod + 1) ∧ ∀ y ∈ v.tiles, y.place ≠ v.freePlace i := by
  unfold InChan.freePlace
  extract_lets places
  have spec : ∀ m, m ∈ places ↔ m < (v.win + 1) * (v.nprod + 1) ∧ ∀ y ∈ v.tiles, y.place ≠ m := by
    intro m
    simp [places]
  have some_ : 0 < places.length := List.length_pos_of_mem ((spec n).mpr ⟨within, free⟩)
  have inside := Nat.mod_lt (Config.freeWord i) some_
  rw [List.getD_eq_getElem _ _ inside]
  exact (spec _).mp (List.getElem_mem inside)

/-- The channel of a tile that has its slot. -/
def State.slottedChannel (s : State) (t : Tile) (y : TileSlot) : InChan :=
  ({ s.tileChannel t with tiles := (s.tileChannel t).tiles ++ [y] } : InChan).setProducer t.prod.toNat ((s.tileProducer t).counted t.ts.toNat)

theorem tileSlotted_eq (s : State) (t : Tile) (st : Nat) : ∃ l i g n, s.tileSlotted t st =
    (({ s with link := l, inputs := i, stages := g, free := n } : State).modCtx t.pasid fun x =>
      x.setIn t.chan.toNat (s.slottedChannel t (s.tileSlot t st))) := by
  obtain ⟨l, i, h⟩ := beforeTile_eq s t
  unfold State.tileSlotted
  generalize s.tileSlot t st = y
  rw [h]
  exact ⟨l, i, _, _, rfl⟩

/-- The first byte of the slot of a tile. -/
def State.tilePlace (s : State) (t : Tile) (y : TileSlot) : Nat :=
  (s.ctx t.pasid).xsbase + 128 * ((s.tileChannel t).buf + y.place * (s.tileChannel t).tilesz)

/-- A tile has created a task and stands in a slot of its channel. -/
structure TileLanded (s u : State) (t : Tile) (st : Nat) (y : TileSlot) : Prop where
  task : ∃ k, u.task? s.nextId = some k ∧ k.key = s.tileKey t st ∧ k.stage = st ∧ k.tag = t.tag.toNat ∧
    k.kind = (if (s.tileChannel t).kind then TaskKind.b else .f) ∧ k.state = .ready
  others : ∀ q, q ≠ s.nextId → u.task? q = s.task? q
  channel : u.tileChannel t = (s.slottedChannel t y).named y s.nextId
  written : ∀ j, j < t.data.length → u.xs.read (s.tilePlace t y + j) =
    if j / 64 ∈ t.bad then s.xs.read (s.tilePlace t y + j) else t.data.getD j 0
  kept : ∀ q, q < s.tilePlace t y ∨ s.tilePlace t y + t.data.length ≤ q → u.xs.read q = s.xs.read q
  poisoned : ∀ f ∈ t.bad, 64 * f < t.data.length → granOf true (s.tilePlace t y + 64 * f) ∈ u.poison
  cores : u.cores = s.cores
  pmem : u.pmem = s.pmem

/-- A tile in order, of its channel's size, later than its producer's watermark and than the last commit point, creates its task. -/
theorem tile_creates {s : State} {t : Tile} {st : Nat} (h : Accepts s t st) (next : t.seq = (s.tileProducer t).arrived)
    (size : t.data.length = 128 * (s.tileChannel t).tilesz) (fresh : ∀ w, (s.tileProducer t).watermark = some w → w < t.ts.toNat)
    (timely : s.isLate st (s.tileKey t st) = false) (room : s.stageFull st = false) :
    ∃ u, execTileArrival t s = .next u ∧ TileLanded s u t st (s.tileSlot t st) := by
  obtain ⟨-, -, -, creates⟩ := tileArrival_accepted h
  have runs := creates next size fresh (by
    obtain ⟨l, i, before⟩ := beforeTile_eq s t
    rw [before]
    exact timely)
  obtain ⟨l, i, g, n, slotted⟩ := tileSlotted_eq s t st
  have ctx : (s.tileSlotted t st).ctx t.pasid = (s.ctx t.pasid).setIn t.chan.toNat (s.slottedChannel t (s.tileSlot t st)) := by
    rw [slotted]
    exact State.ctx_modCtx_same _ _ _
  have base : (s.tileSlotted t st).bufferAt t.pasid (s.tileChannel t) (s.tileSlot t st).place = s.tilePlace t (s.tileSlot t st) := by
    rw [State.bufferAt, ctx]
    rfl
  rw [base] at runs
  obtain ⟨⟨X, Z, only⟩, written, kept, poisoned⟩ := fillSlot_filled (s.tileSlotted t st) (s.tilePlace t (s.tileSlot t st)) (t := t)
    (by rw [size]; omega)
  have xs : (s.tileSlotted t st).xs = s.xs := by rw [slotted]; rfl
  rw [xs] at written kept
  have filled : ((s.tileSlotted t st).fillSlot (s.tilePlace t (s.tileSlot t st)) t).tasks = s.tasks ∧
      ((s.tileSlotted t st).fillSlot (s.tilePlace t (s.tileSlot t st)) t).nextId = s.nextId ∧
      ((s.tileSlotted t st).fillSlot (s.tilePlace t (s.tileSlot t st)) t).cores = s.cores ∧
      ((s.tileSlotted t st).fillSlot (s.tilePlace t (s.tileSlot t st)) t).pmem = s.pmem ∧
      ((s.tileSlotted t st).fillSlot (s.tilePlace t (s.tileSlot t st)) t).contexts = (s.tileSlotted t st).contexts := by
    rw [only, slotted]
    exact ⟨rfl, rfl, rfl, rfl, rfl⟩
  generalize (s.tileSlotted t st).fillSlot (s.tilePlace t (s.tileSlot t st)) t = S at runs written kept poisoned filled
  obtain ⟨tasks, nextId, cores, pmem, contexts⟩ := filled
  have full : S.stageFull st = false := by
    rw [State.stageFull, State.inFlight, tasks]
    exact room
  have channel : (S.ctx t.pasid).inChan t.chan.toNat = s.slottedChannel t (s.tileSlot t st) := by
    rw [State.ctx, contexts]
    exact (congrArg (Context.inChan · t.chan.toNat) ctx).trans (Table.get_put_same _ _ _ _)
  have made := createFromTile_creates (p := t.pasid) (c := t.chan.toNat) (y := s.tileSlot t st) full
  rw [channel] at made
  generalize S.createFromTile st t.pasid t.chan.toNat (s.tileSlot t st) = u at runs made
  obtain ⟨task, others, chan, xs', cores', pmem', poison'⟩ := made
  rw [nextId] at task others chan
  refine ⟨u, runs, task, fun q other => ?_, chan, ?_, ?_, ?_, cores'.trans cores, pmem'.trans pmem⟩
  · rw [others q other, State.task?, tasks]
    rfl
  · rw [xs']
    exact written
  · rw [xs']
    exact kept
  · rw [poison']
    exact poisoned

end Sys2Proof.Machine
end

section
/-!
PROOFS. What a chip takes over its links, assembled (R17, R246, R248-R250, R254, R357).
-/
namespace Sys2Proof.Machine

section
variable {s : State} {p : Nat} {x : Context} {port : Option Nat} {t : Tile}

theorem linkArrival_discarded (takes : Takes s p port) (mine : t.pasid = p) (via : t.port = port)
    (refused : s.channelStage p t.chan.toNat = none ∨ ((s.ctx p).inChan t.chan.toNat).valid = false ∨
      ((s.ctx p).inChan t.chan.toNat).nprod < t.prod.toNat) :
    ∃ u, exec (.tileArrival t) s = .next u ∧ u.contexts = s.contexts ∧ leavesMachine s u := by
  subst mine via
  obtain ⟨l, later, runs⟩ := tileArrival_counted takes
  obtain ⟨contexts, machine⟩ := discardFlit_quiet (({ s with link := l } : State).linkRecv t.stamp)
  exact ⟨_, runs.trans (tile_discarded (t := { t with port := none }) later rfl refused), contexts, machine⟩

/-- A tile that its channel takes has come in order. -/
theorem accepts_counted {l : LinkSide} {st : Nat} (later : Takes { s with link := l } t.pasid none)
    (stage : s.channelStage t.pasid t.chan.toNat = some st) (valid : (s.tileChannel t).valid = true)
    (registered : t.prod.toNat ≤ (s.tileChannel t).nprod) : Accepts { s with link := l } { t with port := none } st :=
  ⟨later, rfl, stage, valid, registered⟩

theorem openWindow_machine (s : State) (p chan prod : Nat) : leavesMachine s (s.openWindow p chan prod) := by
  have announced := (s.modCtx p fun y => y.setIn chan (((s.ctx p).inChan chan).opened prod)).advertise_announces p chan prod
    ((((s.ctx p).inChan chan).producer prod).freed + 1 + ((s.ctx p).inChan chan).win)
  exact announced.machine

theorem tileArrival_old {st : Nat} (takes : Takes s t.pasid t.port) (stage : s.channelStage t.pasid t.chan.toNat = some st)
    (valid : (s.tileChannel t).valid = true) (registered : t.prod.toNat ≤ (s.tileChannel t).nprod)
    (old : t.seq < (s.tileProducer t).arrived) :
    ∃ u, exec (.tileArrival t) s = .next u ∧ u.contexts = s.contexts ∧ leavesMachine s u := by
  obtain ⟨l, later, runs⟩ := tileArrival_counted takes
  obtain ⟨repeated, -, -, -⟩ := tileArrival_accepted (accepts_counted later stage valid registered)
  obtain ⟨k, i, before⟩ := beforeTile_eq { s with link := l } { t with port := none }
  refine ⟨_, runs.trans (repeated old), ?_⟩
  rw [before]
  exact ⟨rfl, rfl, rfl, rfl, rfl, rfl, rfl⟩

theorem tileArrival_early {st : Nat} (takes : Takes s t.pasid t.port) (stage : s.channelStage t.pasid t.chan.toNat = some st)
    (valid : (s.tileChannel t).valid = true) (registered : t.prod.toNat ≤ (s.tileChannel t).nprod)
    (early : (s.tileProducer t).arrived < t.seq) :
    ∃ u, exec (.tileArrival t) s = .next u ∧ leavesMachine s u ∧ (u.tileProducer t).arrived = (s.tileProducer t).arrived := by
  obtain ⟨l, later, runs⟩ := tileArrival_counted takes
  obtain ⟨-, waits, -, -⟩ := tileArrival_accepted (accepts_counted later stage valid registered)
  obtain ⟨k, i, before⟩ := beforeTile_eq { s with link := l } { t with port := none }
  refine ⟨_, runs.trans (waits early), ?_, ?_⟩
  · rw [before]
    exact ⟨rfl, rfl, rfl, rfl, rfl, rfl⟩
  · have channel := tileChannel_set (({ s with link := l } : State).beforeTile { t with port := none }) { t with port := none }
      (s.tileChannel t) ((s.tileProducer t).keeps { t with port := none })
    refine (congrArg (fun v : InChan => (v.producer t.prod.toNat).arrived) channel).trans ?_
    rw [setProducer_same]
    rfl

theorem tileArrival_misfit {st : Nat} (takes : Takes s t.pasid t.port) (stage : s.channelStage t.pasid t.chan.toNat = some st)
    (valid : (s.tileChannel t).valid = true) (registered : t.prod.toNat ≤ (s.tileChannel t).nprod)
    (next : t.seq = (s.tileProducer t).arrived) (wrong : t.data.length ≠ 128 * (s.tileChannel t).tilesz) :
    ∃ u, exec (.tileArrival t) s = .next u ∧ (u.tileChannel t).err = true ∧ u.tasks = s.tasks ∧ u.xs = s.xs ∧ u.cores = s.cores ∧
      u.pmem = s.pmem := by
  obtain ⟨l, later, runs⟩ := tileArrival_counted takes
  obtain ⟨-, -, misfit, -⟩ := tileArrival_accepted (accepts_counted later stage valid registered)
  obtain ⟨k, i, before⟩ := beforeTile_eq { s with link := l } { t with port := none }
  let q := (s.tileProducer t).counted t.ts.toNat
  let S := (({ s with link := l } : State).beforeTile { t with port := none }).setTileChannel { t with port := none }
    { s.tileChannel t with err := true } q
  have channel : S.tileChannel t = ({ s.tileChannel t with err := true } : InChan).setProducer t.prod.toNat q :=
    tileChannel_set _ { t with port := none } _ q
  obtain ⟨opens, -⟩ := S.openWindow_opens t.pasid t.chan.toNat t.prod.toNat
  have machine := openWindow_machine S t.pasid t.chan.toNat t.prod.toNat
  have same : leavesMachine s S := by
    show leavesMachine s ((({ s with link := l } : State).beforeTile { t with port := none }).setTileChannel { t with port := none }
      { s.tileChannel t with err := true } q)
    rw [before]
    exact ⟨rfl, rfl, rfl, rfl, rfl, rfl⟩
  obtain ⟨cores, -, tasks, pmem, xs, -⟩ := leavesMachine_trans same machine
  refine ⟨_, runs.trans (misfit next wrong), ?_, tasks, xs, cores, pmem⟩
  show (((S.openWindow t.pasid t.chan.toNat t.prod.toNat).ctx t.pasid).inChan t.chan.toNat).err = true
  rw [opens]
  exact congrArg InChan.err channel

theorem tileArrival_creates {st : Nat} (takes : Takes s t.pasid t.port) (stage : s.channelStage t.pasid t.chan.toNat = some st)
    (valid : (s.tileChannel t).valid = true) (registered : t.prod.toNat ≤ (s.tileChannel t).nprod)
    (next : t.seq = (s.tileProducer t).arrived) (size : t.data.length = 128 * (s.tileChannel t).tilesz)
    (fresh : ∀ w, (s.tileProducer t).watermark = some w → w < t.ts.toNat) (timely : s.isLate st (s.tileKey t st) = false)
    (room : s.stageFull st = false)
    (free : ∃ n, n < ((s.tileChannel t).win + 1) * ((s.tileChannel t).nprod + 1) ∧ ∀ y ∈ (s.tileChannel t).tiles, y.place ≠ n) :
    ∃ u y, exec (.tileArrival t) s = .next u ∧ TileLanded s u t st y ∧ y.prod = t.prod.toNat ∧ y.number = t.seq ∧
      y.place < ((s.tileChannel t).win + 1) * ((s.tileChannel t).nprod + 1) ∧ ∀ z ∈ (s.tileChannel t).tiles, z.place ≠ y.place := by
  obtain ⟨l, later, runs⟩ := tileArrival_counted takes
  have key : ({ s with link := l } : State).tileKey { t with port := none } st = s.tileKey t st := by
    rw [tileKey_eq, tileKey_eq]
    rfl
  obtain ⟨u, done, landed⟩ := tile_creates (accepts_counted later stage valid registered) next size fresh (by rw [key]; exact timely) room
  obtain ⟨n, within, apart⟩ := free
  obtain ⟨inside, empty⟩ := freePlace_free within apart (({ s with link := l } : State).beforeTile { t with port := none }).free
  obtain ⟨⟨k, task, k1, k2, k3, k4, k5⟩, others, channel, written, kept, poisoned, cores, pmem⟩ := landed
  rw [key] at k1
  exact ⟨u, _, runs.trans done, ⟨⟨k, task, k1, k2, k3, k4, k5⟩, others, channel, written, kept, poisoned, cores, pmem⟩, rfl, next.symm,
    inside, empty⟩

end

end Sys2Proof.Machine
end

section
/-!
PROOFS. End tokens and windows that arrive, and the round of a reduction that closes at its home chip (R157, R160, R163, R250).
-/
namespace Sys2Proof.Machine

/-! ### End tokens and windows (R246, R250) -/

section
variable {s : State} {p : Nat} {port : Option Nat}

theorem eosTokenArrival_counted (takes : Takes s p port) (ch : BitVec 6) (pr : BitVec 4) : ∃ l : LinkSide,
    exec (.eosTokenArrival { port := port, pasid := p } ch pr) s = .next (
      if !((s.ctx p).inChan ch.toNat).valid || ((s.ctx p).inChan ch.toNat).nprod < pr.toNat then ({ s with link := l } : State).discardFlit
      else ({ s with link := l } : State).modCtx p fun x => x.setIn ch.toNat (((s.ctx p).inChan ch.toNat).setProducer pr.toNat
        { ((s.ctx p).inChan ch.toNat).producer pr.toNat with token := true })) := by
  obtain ⟨l, counted, gangs⟩ := countFrom_eq s port 1
  have runs : exec (.eosTokenArrival { port := port, pasid := p } ch pr) s =
    execEosTokenArrival { port := port, pasid := p } ch pr s := rfl
  unfold execEosTokenArrival at runs
  dsimp only at runs
  rw [if_neg takes.opens, counted, if_neg (takes.counted gangs).unbuffered] at runs
  exact ⟨_, runs⟩

theorem eosTokenArrival_discarded (takes : Takes s p port) (ch : BitVec 6) (pr : BitVec 4)
    (refused : ((s.ctx p).inChan ch.toNat).valid = false ∨ ((s.ctx p).inChan ch.toNat).nprod < pr.toNat) :
    ∃ u, exec (.eosTokenArrival { port := port, pasid := p } ch pr) s = .next u ∧ u.contexts = s.contexts ∧ leavesMachine s u := by
  obtain ⟨l, runs⟩ := eosTokenArrival_counted takes ch pr
  rw [if_pos (by rw [Bool.or_eq_true, Bool.not_eq_true', decide_eq_true_eq]; exact refused)] at runs
  exact ⟨_, runs, discardFlit_quiet _⟩

theorem eosTokenArrival_noted (takes : Takes s p port) (ch : BitVec 6) (pr : BitVec 4)
    (valid : ((s.ctx p).inChan ch.toNat).valid = true) (registered : pr.toNat ≤ ((s.ctx p).inChan ch.toNat).nprod) :
    ∃ u, exec (.eosTokenArrival { port := port, pasid := p } ch pr) s = .next u ∧
      (((u.ctx p).inChan ch.toNat).producer pr.toNat).token = true ∧
      (∀ q, q ≠ pr.toNat → ((u.ctx p).inChan ch.toNat).producer q = ((s.ctx p).inChan ch.toNat).producer q) ∧ leavesMachine s u := by
  obtain ⟨l, runs⟩ := eosTokenArrival_counted takes ch pr
  rw [if_neg (by rw [valid, decide_eq_false (Nat.not_lt.mpr registered)]; decide)] at runs
  let q : Producer := { ((s.ctx p).inChan ch.toNat).producer pr.toNat with token := true }
  have channel : ((({ s with link := l } : State).modCtx p fun x => x.setIn ch.toNat (((s.ctx p).inChan ch.toNat).setProducer pr.toNat q)).ctx
      p).inChan ch.toNat = ((s.ctx p).inChan ch.toNat).setProducer pr.toNat q := by
    rw [State.ctx_modCtx_same]
    exact Table.get_put_same _ _ _ _
  refine ⟨_, runs, ?_, fun r other => ?_, ⟨rfl, rfl, rfl, rfl, rfl, rfl⟩⟩
  · rw [channel, setProducer_same]
  · rw [channel]
    exact Table.get_put_other _ _ _ other

theorem outChan_setOut_same (x : Context) (c : Nat) (v : OutChan) : (x.setOut c v).outChan c = v := Table.get_put_same _ _ _ _

theorem outChan_setOut_other (x : Context) (v : OutChan) {c q : Nat} (other : q ≠ c) : (x.setOut c v).outChan q = x.outChan q :=
  Table.get_put_other _ _ _ other

theorem windowAdvertisement_opens (takes : Takes s p port) (ch : BitVec 6) (n : Nat) :
    ∃ u, exec (.windowAdvertisement { port := port, pasid := p } ch n) s = .next u ∧
      ((u.ctx p).outChan ch.toNat).upto = max ((s.ctx p).outChan ch.toNat).upto (n + 1) ∧
      ((u.ctx p).outChan ch.toNat).taken = ((s.ctx p).outChan ch.toNat).taken ∧
      (∀ q, q ≠ ch.toNat → (u.ctx p).outChan q = (s.ctx p).outChan q) ∧ leavesMachine s u := by
  obtain ⟨l, counted, gangs⟩ := countFrom_eq s port 1
  have runs : exec (.windowAdvertisement { port := port, pasid := p } ch n) s =
    execWindowAdvertisement { port := port, pasid := p } ch n s := rfl
  unfold execWindowAdvertisement at runs
  dsimp only at runs
  rw [if_neg takes.opens, counted, if_neg (takes.counted gangs).unbuffered] at runs
  have channel : ∀ v : State, (v.modCtx p fun x => x.setOut ch.toNat ((x.outChan ch.toNat).opened n)).ctx p =
      (v.ctx p).setOut ch.toNat (((v.ctx p).outChan ch.toNat).opened n) := fun v => State.ctx_modCtx_same _ _ _
  refine ⟨_, runs, ?_, ?_, fun q other => ?_, ⟨rfl, rfl, rfl, rfl, rfl, rfl⟩⟩
  · rw [channel, outChan_setOut_same]
    rfl
  · rw [channel, outChan_setOut_same]
    rfl
  · rw [channel, outChan_setOut_other _ _ other]
    rfl

end

/-! ### The target of a round, line by line (R160) -/

theorem walkFrom_link (s : State) (l : LinkSide) (va n table : Nat) : walkFrom { s with link := l } va n table = walkFrom s va n table := by
  induction n generalizing table with
  | zero => rfl
  | succ n ih =>
    unfold walkFrom
    dsimp only
    rw [ih]
    rfl

/-- What a chip's links hold does not bear on its translations. -/
theorem translate_link (s : State) (l : LinkSide) (p va : Nat) : translate { s with link := l } p va = translate s p va := by
  unfold translate leafFor
  simp only [walkFrom_link, State.ctx]

/-- The first bytes of a target lie on pages of this chip that a round may write, at these places. -/
def TargetAt (s : State) (p va n : Nat) (P : Nat → Nat) : Prop :=
  ∀ i, 128 * i < n → ∃ pg, translate s p (va + 128 * i) = some pg ∧ pg.w = true ∧ pg.kind = 1 ∧ pg.home = s.chipNo ∧
    pg.pa + 128 ≤ 0x20000000000 ∧ ∀ j, j < 128 → P (128 * i + j) = pg.pa + j

/-- A line of a target in memory. -/
def targetLine (P : Nat → Nat) (n i : Nat) : Piece := { pos := 128 * i, addr := P (128 * i), len := min 128 (n - 128 * i) }

theorem cutLines_aligned {va : Nat} (aligned : va % 128 = 0) (n : Nat) : cutLines { pos := 0, addr := va, len := n } =
    (List.range ((n + 127) / 128)).map fun i => { pos := 128 * i, addr := va + 128 * i, len := min 128 (n - 128 * i) } := by
  have whole : va / 128 * 128 = va := by omega
  have lines : (va % 128 + n + 127) / 128 = (n + 127) / 128 := by rw [aligned, Nat.zero_add]
  unfold cutLines
  dsimp only
  rw [lines]
  refine List.map_congr_left fun i _ => ?_
  have first : (if i = 0 then va else (va / 128 + i) * 128) = va + 128 * i := by split <;> omega
  have last : (va / 128 + i + 1) * 128 = va + 128 * i + 128 := by omega
  rw [first, last]
  have len : Nat.min (va + n) (va + 128 * i + 128) - (va + 128 * i) = min 128 (n - 128 * i) := by
    show min (va + n) (va + 128 * i + 128) - (va + 128 * i) = min 128 (n - 128 * i)
    omega
  rw [len]
  congr 1
  omega

theorem targetPieces_lines {s : State} {p va n : Nat} {P : Nat → Nat} (aligned : va % 128 = 0) (target : TargetAt s p va n P) :
    s.targetPieces p va n = (List.range ((n + 127) / 128)).map fun i => some (some (targetLine P n i)) := by
  unfold State.targetPieces
  rw [cutLines_aligned aligned, List.map_map]
  refine List.map_congr_left fun i hi => ?_
  have inside : 128 * i < n := by
    have := List.mem_range.mp hi
    omega
  obtain ⟨pg, leaf, writes, rc, -, -, places⟩ := target i inside
  have place : P (128 * i) = pg.pa := places 0 (by decide)
  have may : (pg.w && pg.kind == 1) = true := by rw [writes, rc]; rfl
  simp only [Function.comp_apply, leaf, may, if_true, targetLine, place]

/-- Bytes of a target that have been written: each at its place, and no other. -/
structure LandedAt (m m' : Memory) (P : Nat → Nat) (bytes : List Byte) (k : Nat) : Prop where
  written : ∀ j, j < bytes.length → j < 128 * k → m'.read (P j) = bytes.getD j 0
  kept : ∀ a, (∀ j, j < bytes.length → j < 128 * k → a ≠ P j) → m'.read a = m.read a

/-- The write of a line of a target. -/
def lineWrite (P : Nat → Nat) (bytes : List Byte) (i : Nat) : Write :=
  { xs := false, addr := P (128 * i), bytes := (bytes.drop (128 * i)).take (min 128 (bytes.length - 128 * i)), core := 0, seg := 0 }

/-- The first lines of a target, written at home. -/
def State.landLines (s : State) (p : Nat) (P : Nat → Nat) (bytes : List Byte) (k : Nat) : State :=
  (List.range k).foldl (fun s i => s.homeWrite p (lineWrite P bytes i)) s

theorem homeWrite_memory {s : State} {w : Write} (p : Nat) (far : w.xs = false) (below : w.addr < doorBase) :
    ∃ Z, s.homeWrite p w = { s with pmem := s.pmem.writeBytes w.addr w.bytes, poison := Z } := by
  have notDoor : (!w.xs && decide (doorBase ≤ w.addr)) = false := by rw [far, decide_eq_false (Nat.not_le.mpr below)]; rfl
  unfold State.homeWrite
  rw [notDoor, far]
  split
  · exact Bool.noConfusion ‹false = true›
  · dsimp only
    split <;> exact ⟨_, rfl⟩

section
variable {P : Nat → Nat} {bytes : List Byte}

/-- The places of a line are those of its first byte and behind it. -/
def LinesOf (P : Nat → Nat) (n : Nat) : Prop :=
  ∀ i, 128 * i < n → P (128 * i) + 128 ≤ 0x20000000000 ∧ ∀ j, j < 128 → P (128 * i + j) = P (128 * i) + j

theorem TargetAt.lines {s : State} {p va n : Nat} (target : TargetAt s p va n P) : LinesOf P n := by
  intro i inside
  obtain ⟨pg, -, -, -, -, low, places⟩ := target i inside
  have first : P (128 * i) = pg.pa := places 0 (by decide)
  rw [first]
  exact ⟨low, places⟩

theorem LandedAt.next {m m' : Memory} {k : Nat} (landed : LandedAt m m' P bytes k) (lines : LinesOf P bytes.length)
    (apart : ∀ i j, i < bytes.length → j < bytes.length → P i = P j → i = j) (inside : 128 * k < bytes.length) :
    LandedAt m (m'.writeBytes (lineWrite P bytes k).addr (lineWrite P bytes k).bytes) P bytes (k + 1) := by
  obtain ⟨-, places⟩ := lines k inside
  have long : (lineWrite P bytes k).bytes.length = min 128 (bytes.length - 128 * k) := by
    simp [lineWrite]
  refine ⟨fun j hj hk => ?_, fun a other => ?_⟩
  · by_cases before : j < 128 * k
    · rw [Memory.read_writeBytes_outside _ _ _ ?_]
      · exact landed.written j hj before
      · rw [long]
        by_contra within
        have back : P j = P (128 * k + (P j - P (128 * k))) := by
          rw [places _ (by simp only [lineWrite] at within; omega)]
          simp only [lineWrite] at within
          omega
        have := apart j _ hj (by simp only [lineWrite] at within; omega) back
        omega
    · have at_ : P j = (lineWrite P bytes k).addr + (j - 128 * k) := by
        have := places (j - 128 * k) (by omega)
        rwa [Nat.add_sub_cancel' (Nat.le_of_not_lt before)] at this
      rw [at_, Memory.read_writeBytes_inside _ _ _ (by rw [long]; omega), List.getD_eq_getElem _ _ hj]
      simp only [lineWrite, List.getElem_take, List.getElem_drop]
      congr 1
      omega
  · rw [Memory.read_writeBytes_outside _ _ _ ?_]
    · exact landed.kept a fun j hj hk => other j hj (by omega)
    · rw [long]
      by_contra within
      simp only [lineWrite] at within
      refine other (128 * k + (a - P (128 * k))) (by omega) (by omega) ?_
      rw [places _ (by omega)]
      omega

theorem landLines_landed (s : State) (p : Nat) (lines : LinesOf P bytes.length)
    (apart : ∀ i j, i < bytes.length → j < bytes.length → P i = P j → i = j) (k : Nat) (within : k ≤ (bytes.length + 127) / 128) :
    ∃ M Z, s.landLines p P bytes k = { s with pmem := M, poison := Z } ∧ LandedAt s.pmem M P bytes k := by
  induction k with
  | zero => exact ⟨s.pmem, s.poison, rfl, fun j _ none_ => absurd none_ (Nat.not_lt_zero j), fun _ _ => rfl⟩
  | succ k ih =>
    obtain ⟨M, Z, only, landed⟩ := ih (by omega)
    have inside : 128 * k < bytes.length := by omega
    obtain ⟨low, -⟩ := lines k inside
    obtain ⟨Z', last⟩ := homeWrite_memory (s := s.landLines p P bytes k) (w := lineWrite P bytes k) p rfl (by
      show P (128 * k) < 0x20000000000
      omega)
    refine ⟨M.writeBytes (lineWrite P bytes k).addr (lineWrite P bytes k).bytes, Z', ?_, landed.next lines apart inside⟩
    have step : s.landLines p P bytes (k + 1) = (s.landLines p P bytes k).homeWrite p (lineWrite P bytes k) := by
      simp only [State.landLines, List.range_succ, List.foldl_append, List.foldl_cons, List.foldl_nil]
    rw [step, last, only]

end

/-! ### A round that closes (R160) -/

theorem window_modify (s : State) (p win : Nat) (g : Window → Window) :
    ((s.modCtx p fun x => { x with windows := Table.modify x.windows {} win g }).ctx p).window win = g ((s.ctx p).window win) := by
  rw [State.ctx_modCtx_same]
  exact Table.get_put_same _ _ _ _

theorem postRound_none {s : State} {p win : Nat} (none_ : ((s.ctx p).window win).waiting = []) (status : Nat) (f : Nat × Nat × Nat → Bool) :
    s.postRound p win status f = s.modCtx p fun x => { x with windows := Table.modify x.windows {} win fun v =>
      { v with waiting := v.waiting.filter fun y => !(f y && s.departed p y) } } := by
  unfold State.postRound
  dsimp only
  rw [none_]
  rfl

/-- A round without contributions of this chip has closed: its bytes are at the target, and its partials have left the window. -/
structure RoundClosed (s t : State) (p win : Nat) (r : Partial) (P : Nat → Nat) (bytes : List Byte) : Prop where
  landed : LandedAt s.pmem t.pmem P bytes ((bytes.length + 127) / 128)
  partials : ((t.ctx p).window win).partials = ((s.ctx p).window win).partials.filter fun q => !sameRound q r
  present : ((t.ctx p).window win).present = ((s.ctx p).window win).present
  cores : t.cores = s.cores
  xs : t.xs = s.xs

/-- The window that a round has left. -/
def Context.withoutRound (win : Nat) (r : Partial) (x : Context) : Context :=
  { x with windows := Table.modify x.windows {} win fun v => { v with partials := v.partials.filter fun q => !sameRound q r } }

theorem closeRound_eq {s : State} {p win : Nat} {r : Partial} {P : Nat → Nat} {bytes : List Byte} (sound : r.poison = false)
    (values : (r.elems.map fun e => leBytes (winBytes r.ctl.toNat) e.toNat).flatten = bytes) (aligned : r.target % 128 = 0)
    (target : TargetAt s p r.target bytes.length P) : ∃ b : Bool, s.closeRound p win r =
      (((if b then s.landLines p P bytes ((bytes.length + 127) / 128)
        else (s.landLines p P bytes ((bytes.length + 127) / 128)).emit p (.closed p win 0 none)).modCtx p
          (Context.withoutRound win r)).postRound p win 0 fun y => r.leaves.contains y.2.2) := by
  have pieces := targetPieces_lines aligned target
  have fits : (s.targetPieces p r.target bytes.length).any (·.isNone) = false := by rw [pieces]; simp
  have allowed : (s.targetPieces p r.target bytes.length).any (· == some none) = false := by rw [pieces]; simp
  refine ⟨r.leaves.all fun i => ((s.ctx p).window win).waiting.any fun y => y.2.2 == i && s.departed p y, ?_⟩
  unfold State.closeRound
  dsimp only
  rw [values, sound, fits, allowed, pieces, List.foldl_map]
  rfl

theorem closeRound_closed {s : State} {p win : Nat} {r : Partial} {P : Nat → Nat} {bytes : List Byte} (gangs : s.link.gangs = [])
    (sound : r.poison = false) (values : (r.elems.map fun e => leBytes (winBytes r.ctl.toNat) e.toNat).flatten = bytes)
    (aligned : r.target % 128 = 0) (target : TargetAt s p r.target bytes.length P)
    (apart : ∀ i j, i < bytes.length → j < bytes.length → P i = P j → i = j)
    (alone : ((s.ctx p).window win).waiting = []) : RoundClosed s (s.closeRound p win r) p win r P bytes := by
  obtain ⟨M, Z, only, landed⟩ := landLines_landed s p target.lines apart ((bytes.length + 127) / 128) (Nat.le_refl _)
  obtain ⟨b, runs⟩ := closeRound_eq (win := win) sound values aligned target
  have told : ∃ l n, (if b then s.landLines p P bytes ((bytes.length + 127) / 128)
      else (s.landLines p P bytes ((bytes.length + 127) / 128)).emit p (.closed p win 0 none)) =
        ({ s with link := l, free := n, pmem := M, poison := Z } : State) := by
    rw [only]
    cases b with
    | true => exact ⟨s.link, s.free, rfl⟩
    | false =>
      obtain ⟨⟨l, n, emits⟩, -, -, -, -⟩ := emitted_one (s := { s with pmem := M, poison := Z }) gangs p (.closed p win 0 none)
      exact ⟨l, n, emits⟩
  obtain ⟨l, n, told⟩ := told
  rw [told] at runs
  have window : ((({ s with link := l, free := n, pmem := M, poison := Z } : State).modCtx p (Context.withoutRound win r)).ctx p).window win =
      { (s.ctx p).window win with partials := ((s.ctx p).window win).partials.filter fun q => !sameRound q r } :=
    window_modify _ p win _
  rw [postRound_none (by rw [window]; exact alone)] at runs
  rw [runs]
  refine ⟨landed, ?_, ?_, rfl, rfl⟩
  · rw [window_modify, window]
  · rw [window_modify, window]

/-! ### Two contributions at their home chip (R157, R161) -/

/-- A contribution to a sum at home on this chip. -/
def contribution (home va : Nat) (ctl : Word64) (i : Nat) (l : List Word32) : Partial :=
  { lo := i, span := 1, leaves := [i], elems := l, poison := false, home := home, target := va, ctl := ctl }

/-- A sum of 32-bit integers over two contributions, in the fixed tree. -/
structure SumOfTwo (ctl : Word64) : Prop where
  count : winCount ctl.toNat = 2
  fmt : winFmt ctl.toNat = 3
  op : winOp ctl.toNat = 0
  tree : bitAt ctl.toNat 62 = false

/-- The root of the tree over two contributions. -/
def joined (home va : Nat) (ctl : Word64) (xs ys : List Word32) : Partial :=
  joinParts ctl.toNat (contribution home va ctl 0 xs) (contribution home va ctl 1 ys) 0 2

theorem enterTree_two (home va : Nat) (ctl : Word64) (xs ys : List Word32) :
    enterTree ctl.toNat 2 26 (contribution home va ctl 1 ys) [contribution home va ctl 0 xs] = [joined home va ctl xs ys] := by
  have one : sameRound (contribution home va ctl 0 xs) (contribution home va ctl 1 ys) = true := by simp [sameRound, contribution]
  have found : [contribution home va ctl 0 xs].find? (fun q => sameRound q (contribution home va ctl 1 ys) && q.lo == 0 && q.span == 1) =
      some (contribution home va ctl 0 xs) := List.find?_cons_of_pos (by rw [one]; rfl)
  have gone : [contribution home va ctl 0 xs].filter (fun x => !(sameRound x (contribution home va ctl 1 ys) && x.lo == 0 && x.span == 1)) =
      [] := List.filter_cons_of_neg (by rw [one]; simp [contribution])
  have right : ((contribution home va ctl 1 ys).lo / (contribution home va ctl 1 ys).span % 2 == 1) = true := by simp [contribution]
  have sibling : (contribution home va ctl 1 ys).lo - (contribution home va ctl 1 ys).span = 0 := rfl
  have single : (contribution home va ctl 1 ys).span = 1 := rfl
  rw [enterTree, if_neg (by simp [contribution])]
  dsimp only
  rw [right, if_neg (by simp), if_pos rfl, sibling, single, found]
  dsimp only
  rw [gone, if_pos rfl, enterTree]
  exact if_pos rfl

theorem joined_elems {ctl : Word64} (sum : SumOfTwo ctl) (home va : Nat) (xs ys : List Word32) :
    (joined home va ctl xs ys).elems = xs.zipWith (· + ·) ys := by
  unfold joined joinParts combineLists
  rw [sum.op, sum.fmt]
  rfl

/-- The bytes of a list of 32-bit words. -/
def wordBytes (l : List Word32) : List Byte := (l.map fun e => leBytes 4 e.toNat).flatten

theorem wordBytes_length (l : List Word32) : (wordBytes l).length = 4 * l.length := by
  induction l with
  | nil => rfl
  | cons e l ih =>
    have split_ : wordBytes (e :: l) = leBytes 4 e.toNat ++ wordBytes l := rfl
    rw [split_, List.length_append, ih, length_leBytes, List.length_cons]
    omega

theorem wordBytes_getD {l : List Word32} {i k : Nat} (hi : i < l.length) (hk : k < 4) :
    (wordBytes l).getD (4 * i + k) 0 = BitVec.ofNat 8 ((l.getD i 0).toNat / 2 ^ (8 * k)) := by
  induction l generalizing i with
  | nil => exact absurd hi (Nat.not_lt_zero i)
  | cons e l ih =>
    have split_ : wordBytes (e :: l) = leBytes 4 e.toNat ++ wordBytes l := rfl
    rw [split_]
    cases i with
    | zero =>
      rw [List.getD_append _ _ _ _ (by rw [length_leBytes]; omega)]
      exact leBytes_getD (by omega) (by simp)
    | succ i =>
      rw [List.getD_append_right _ _ _ _ (by rw [length_leBytes]; omega), length_leBytes]
      have back : 4 * (i + 1) + k - 4 = 4 * i + k := by omega
      rw [back, ih (Nat.lt_of_succ_lt_succ hi)]
      rfl

/-- The window in which the root of a round stands. -/
def Context.withJoined (win : Nat) (w : Window) (r : Partial) (x : Context) : Context :=
  { x with windows := Table.put x.windows win { w with present := [], partials := [r] } }

/-- The second contribution to a round at its home chip closes it. -/
theorem enterRound_closes {s : State} {p win va : Nat} {ctl : Word64} {xs ys : List Word32} (sum : SumOfTwo ctl)
    (present : ((s.ctx p).window win).present = []) (partials : ((s.ctx p).window win).partials = [contribution s.chipNo va ctl 0 xs]) :
    s.enterRound p win (contribution s.chipNo va ctl 1 ys) =
      (s.modCtx p (Context.withJoined win ((s.ctx p).window win) (joined s.chipNo va ctl xs ys))).closeRound p win
        (joined s.chipNo va ctl xs ys) := by
  unfold State.enterRound
  extract_lets w w1 N put ps
  have away : ¬ ((contribution s.chipNo va ctl 1 ys).home != s.chipNo) = true := by simp [contribution]
  have tree : ¬ bitAt w1 62 = true := Bool.not_eq_true _ ▸ sum.tree
  have one : ps = [joined s.chipNo va ctl xs ys] := by
    show (if bitAt w1 62 = true then _ else enterTree w1 N 26 _ w.partials) = _
    rw [if_neg tree, show w.partials = _ from partials, show N = 2 from sum.count]
    exact enterTree_two s.chipNo va ctl xs ys
  have root : ps.find? (fun q => sameRound q (contribution s.chipNo va ctl 1 ys) && q.lo == 0 && decide (N ≤ q.span)) =
      some (joined s.chipNo va ctl xs ys) := by
    rw [one, show N = 2 from sum.count]
    exact List.find?_cons_of_pos (by simp [sameRound, joined, joinParts, contribution])
  rw [if_neg away, if_neg tree, root]
  have left : put s ps = s.modCtx p (Context.withJoined win w (joined s.chipNo va ctl xs ys)) := by
    have none_ : w.present = [] := present
    dsimp only [put]
    rw [one, none_]
    simp only [List.filter_nil, ite_self]
    rfl
  rw [left]

end Sys2Proof.Machine
end

section
/-!
PROOFS. Contributions that close their round or are refused, and what comes over the links assembled (R160, R163, R246, R249, R250).
-/
namespace Sys2Proof.Machine

/-! ### The contribution that closes a round -/

/-- A round is one contribution short, and its target lies at these places. -/
structure OneShort (s : State) (p va : Nat) (ctl : Word64) (win : Nat) (xs ys : List Word32) (P : Nat → Nat) : Prop where
  sum : SumOfTwo ctl
  waiting : ((s.ctx p).window win).waiting = []
  present : ((s.ctx p).window win).present = []
  partials : ((s.ctx p).window win).partials = [contribution s.chipNo va ctl 0 xs]
  lengths : xs.length = ys.length
  aligned : va % 128 = 0
  target : TargetAt s p va (4 * xs.length) P
  apart : ∀ i j, i < 4 * xs.length → j < 4 * xs.length → P i = P j → i = j

/-- What a contribution that closes its round leaves. -/
structure SumLanded (s t : State) (p win : Nat) (xs ys : List Word32) (P : Nat → Nat) : Prop where
  written : ∀ i k, i < xs.length → k < 4 →
    t.pmem.read (P (4 * i + k)) = BitVec.ofNat 8 ((xs.getD i 0 + ys.getD i 0).toNat / 2 ^ (8 * k))
  kept : ∀ a, (∀ i, i < 4 * xs.length → a ≠ P i) → t.pmem.read a = s.pmem.read a
  partials : ((t.ctx p).window win).partials = []
  present : ((t.ctx p).window win).present = []
  cores : t.cores = s.cores
  xs : t.xs = s.xs

section
variable {s : State} {p va win : Nat} {ctl : Word64} {xs ys : List Word32} {P : Nat → Nat}

theorem zipWith_getD (same : xs.length = ys.length) {i : Nat} (hi : i < xs.length) :
    (xs.zipWith (· + ·) ys).getD i 0 = xs.getD i 0 + ys.getD i 0 := by
  have hy : i < ys.length := same ▸ hi
  rw [List.getD_eq_getElem _ _ (by rw [List.length_zipWith]; omega), List.getElem_zipWith, List.getD_eq_getElem _ _ hi,
    List.getD_eq_getElem _ _ hy]

theorem OneShort.closes (h : OneShort s p va ctl win xs ys P) (gangs : s.link.gangs = []) :
    SumLanded s (s.enterRound p win (contribution s.chipNo va ctl 1 ys)) p win xs ys P := by
  let r := joined s.chipNo va ctl xs ys
  let S := s.modCtx p (Context.withJoined win ((s.ctx p).window win) r)
  have window : (S.ctx p).window win = { (s.ctx p).window win with present := [], partials := [r] } := by
    show ((s.modCtx p _).ctx p).window win = _
    rw [State.ctx_modCtx_same]
    exact Table.get_put_same _ _ _ _
  have bytes : (r.elems.map fun e => leBytes (winBytes r.ctl.toNat) e.toNat).flatten = wordBytes (xs.zipWith (· + ·) ys) := by
    have four : winBytes r.ctl.toNat = 4 := by
      show (if winFmt ctl.toNat = 1 then 2 else 4) = 4
      rw [h.sum.fmt]
      rfl
    rw [four, joined_elems h.sum]
    rfl
  have long : (wordBytes (xs.zipWith (· + ·) ys)).length = 4 * xs.length := by
    rw [wordBytes_length, List.length_zipWith, ← h.lengths, Nat.min_self]
  have places : TargetAt S p va (wordBytes (xs.zipWith (· + ·) ys)).length P := by
    rw [long]
    intro i inside
    obtain ⟨pg, leaf, rest⟩ := h.target i inside
    exact ⟨pg, (translate_modCtx s p (f := Context.withJoined win ((s.ctx p).window win) r) rfl (va + 128 * i)).trans leaf, rest⟩
  have closed := closeRound_closed (s := S) (p := p) (win := win) (r := r) gangs rfl bytes h.aligned places (by rw [long]; exact h.apart)
    (by rw [window]; exact h.waiting)
  rw [enterRound_closes h.sum h.present h.partials]
  obtain ⟨⟨written, kept⟩, partials, present, cores, xs'⟩ := closed
  rw [long] at written kept
  have words : (xs.zipWith (· + ·) ys).length = xs.length := by rw [List.length_zipWith, ← h.lengths, Nat.min_self]
  refine ⟨fun i k hi hk => ?_, fun a other => ?_, ?_, ?_, cores, xs'⟩
  · rw [written _ (by omega) (by omega), wordBytes_getD (by rw [words]; exact hi) hk, zipWith_getD h.lengths hi]
  · exact kept a fun j hj _ => other j hj
  · rw [partials, window]
    exact List.filter_cons_of_neg (by simp [sameRound])
  · rw [present, window]

/-- Nothing but the links differs. -/
theorem OneShort.link (h : OneShort s p va ctl win xs ys P) (l : LinkSide) : OneShort { s with link := l } p va ctl win xs ys P := by
  obtain ⟨sum, waiting, present, partials, lengths, aligned, target, apart⟩ := h
  refine ⟨sum, waiting, present, partials, lengths, aligned, fun i inside => ?_, apart⟩
  rw [translate_link]
  exact target i inside

theorem partialArrival_closes {port : Option Nat} {w : BitVec 6} (h : OneShort s p va ctl w.toNat xs ys P) (takes : Takes s p port) :
    ∃ t, exec (.partialArrival { port := port, pasid := p } w (contribution s.chipNo va ctl 1 ys)) s = .next t ∧
      SumLanded s t p w.toNat xs ys P := by
  obtain ⟨l, counted, gangs⟩ := countFrom_eq s port (flitsOf (4 * ys.length))
  let l' : LinkSide := { l with clock := stampRecv l.clock 0 }
  have open_ : ¬ ((contribution s.chipNo va ctl 1 ys).home == s.chipNo &&
      (contribution s.chipNo va ctl 1 ys).leaves.any (({ s with link := l } : State).stands ((s.ctx p).window w.toNat)
        (contribution s.chipNo va ctl 1 ys))) = true := by
    rw [Bool.and_eq_true]
    rintro ⟨-, here⟩
    simp [State.stands, h.present, h.partials, contribution] at here
  have runs : exec (.partialArrival { port := port, pasid := p } w (contribution s.chipNo va ctl 1 ys)) s =
    execPartialArrival { port := port, pasid := p } w (contribution s.chipNo va ctl 1 ys) s := rfl
  unfold execPartialArrival at runs
  dsimp only at runs
  rw [if_neg takes.opens] at runs
  have step : exec (.partialArrival { port := port, pasid := p } w (contribution s.chipNo va ctl 1 ys)) s =
      .next (({ s with link := l' } : State).enterRound p w.toNat (contribution s.chipNo va ctl 1 ys)) := by
    rw [runs, show (contribution s.chipNo va ctl 1 ys).elems = ys from rfl, counted, if_neg (by simp [contribution]),
      if_neg (takes.counted gangs).unbuffered]
    exact if_neg open_
  obtain ⟨written, kept, partials, present, cores, xs'⟩ := (h.link l').closes (gangs.trans takes.gangs)
  exact ⟨_, step, written, kept, partials, present, cores, xs'⟩

end

/-! ### A contribution whose index stands in the round -/

/-- The window that a contribution no longer waits for. -/
def Window.without (v : Window) (o : EngOp) : Window := { v with waiting := v.waiting.filter fun y => y.2.1 != o.id }

def Context.withWindow (win : Nat) (v : Window) (x : Context) : Context := { x with windows := Table.put x.windows win v }

theorem window_withWindow (s : State) (p win : Nat) (v : Window) : ((s.modCtx p (Context.withWindow win v)).ctx p).window win = v := by
  rw [State.ctx_modCtx_same]
  exact Table.get_put_same _ _ _ _

section
variable {s : State} {p c i : Nat} {w : BitVec 6} {es : List Word32} {o : EngOp} {rest : EngQueue}

theorem partialArrival_refused (head : (s.core c).eng.redQ = o :: rest) (cmd : o.cmd = .redm w.toNat i es) (open_ : o.complete = false)
    (here : o.sent = false) (clear : opIsClear s o) (stands : i ∈ ((s.ctx p).window w.toNat).present) (works : s.recovery = false)
    (room : (s.core c).eng.evq.length < 128) :
    ∃ t, exec (.partialArrival { pasid := p } w { lo := c, span := o.id, leaves := [], elems := [], poison := false }) s = .next t ∧
      hasPosted s t c 12 7 1 o.addr 0 ∧ engineFrame s t c ∧
      ((t.ctx p).window w.toNat).present = ((s.ctx p).window w.toNat).present ∧
      ((t.ctx p).window w.toNat).partials = ((s.ctx p).window w.toNat).partials := by
  have delivered : ¬ (s.recovery || !s.delivers none) = true := by rw [works]; exact Bool.false_ne_true
  have ready : ¬ (Option.isSome (none : Option Nat) || o.id != o.id || o.sent || o.complete || w.toNat != w.toNat ||
      !s.clearFor o.clearAt o.tid) = true := by
    rw [open_, here, clearFor_of_clear clear]
    simp
  have stands' : ∀ q : Partial, s.stands ((s.ctx p).window w.toNat) q i = true := fun q =>
    Bool.or_eq_true_iff.mpr (Or.inl (List.contains_iff_mem.mpr stands))
  have runs : exec (.partialArrival { pasid := p } w { lo := c, span := o.id, leaves := [], elems := [], poison := false }) s =
    .next ((s.modCtx p (Context.withWindow w.toNat (((s.ctx p).window w.toNat).without o))).complete c o 1 0) := by
    refine Eq.trans (b := execPartialArrival { pasid := p } w { lo := c, span := o.id, leaves := [], elems := [], poison := false } s) rfl ?_
    unfold execPartialArrival
    dsimp only [State.countFrom]
    rw [if_neg delivered, if_pos (by rfl), head]
    dsimp only
    rw [cmd]
    dsimp only
    rw [if_neg ready, stands']
    rfl
  have plain : o.cmd ≠ .atomic := by
    rw [cmd]
    exact EngCmd.noConfusion
  have posted := complete_hasPosted (s := s.modCtx p (Context.withWindow w.toNat (((s.ctx p).window w.toNat).without o))) room plain 1 0
  rw [cmd] at posted
  exact ⟨_, runs, posted, engineFrame_modEng (s.modCtx p _) c _, (congrArg Window.present (window_withWindow s p w.toNat _) :),
    (congrArg Window.partials (window_withWindow s p w.toNat _) :)⟩

end

/-! ### The obligation -/

/-- The watermark of a producer whose newer tile has come is that tile's. -/
theorem counted_watermark {q : Producer} {ts : Nat} (fresh : ∀ w, q.watermark = some w → w < ts) : (q.counted ts).watermark = some ts := by
  unfold Producer.counted
  dsimp only
  cases mark : q.watermark with
  | none => rfl
  | some w => exact congrArg some (Nat.max_eq_right (Nat.le_of_lt (fresh w mark)))

section
variable {s : State} {p : Nat} {x : Context} {port : Option Nat}

theorem ctx_of_get? (there : Table.get? s.contexts p = some x) : s.ctx p = x := by
  rw [State.ctx, Table.get, there]
  rfl

/-- A tile that creates its task, as the channel and its producer then stand. -/
theorem TileLanded.channelStands {u : State} {t : Tile} {st : Nat} {y : TileSlot} (landed : TileLanded s u t st y)
    (valid : (s.tileChannel t).valid = true) (fresh : ∀ w, (s.tileProducer t).watermark = some w → w < t.ts.toNat) :
    (u.tileChannel t).valid = true ∧ (u.tileProducer t).watermark = some t.ts.toNat ∧
      { y with tid := some s.nextId } ∈ (u.tileChannel t).tiles := by
  rw [State.tileProducer, landed.channel]
  have producer : ((s.slottedChannel t y).named y s.nextId).producer t.prod.toNat = (s.tileProducer t).counted t.ts.toNat :=
    setProducer_same _ _ _
  refine ⟨valid, ?_, named_mem (List.mem_append_right _ List.mem_cons_self) _⟩
  rw [producer]
  exact counted_watermark fresh

end

/-- Settles O28. -/
theorem linkTrafficAndReductions : Obligations.LinkTrafficAndReductions := by
  unfold Obligations.LinkTrafficAndReductions
  refine ⟨fun p x port s there active gangs works up => ?_, fun p va ctl x port w xs ys P s there active gangs works up => ?_,
    fun p c i w es o rest s head cmd open_ here clear front stands works room =>
      partialArrival_refused head cmd open_ here ⟨clear, front⟩ stands works room⟩
  · have takes : Takes s p port := ⟨⟨x, there, active⟩, gangs, works, up⟩
    obtain rfl := ctx_of_get? there
    refine ⟨fun t mine via refused => linkArrival_discarded takes mine via refused, fun t st mine via stage => ?_,
      fun ch pr => ⟨eosTokenArrival_noted takes ch pr, eosTokenArrival_discarded takes ch pr⟩, windowAdvertisement_opens takes⟩
    subst mine via
    intro v key q valid registered
    refine ⟨tileArrival_old takes stage valid registered, tileArrival_early takes stage valid registered,
      fun next size fresh timely room free => ?_, tileArrival_misfit takes stage valid registered⟩
    obtain ⟨u, y, runs, landed, prod, number, within, apart⟩ := tileArrival_creates takes stage valid registered next size fresh
      (by rw [tileKey_eq]; exact timely) room free
    obtain ⟨stands, mark, member⟩ := landed.channelStands valid fresh
    obtain ⟨⟨k, task, hkey, hstage, htag, hkind, hstate⟩, others, -, written, kept, poisoned, cores, pmem⟩ := landed
    exact ⟨u, s.nextId, k, { y with tid := some s.nextId }, runs, Nat.le_refl _, task, hkey.trans (tileKey_eq s t st), hstage, htag, hkind,
      hstate, others, stands, mark, member, rfl, prod, number, within, apart, ⟨written, kept, poisoned⟩, cores, pmem⟩
  · intro v w1 part count fmt op tree waiting present partials lengths _ aligned target apart
    have takes : Takes s p port := ⟨⟨x, there, active⟩, gangs, works, up⟩
    obtain rfl := ctx_of_get? there
    have flat : bitAt ctl.toNat 62 = false := by
      rw [← tree, BitVec.getLsbD, Nat.testBit_eq_decide_div_mod_eq]
      rfl
    obtain ⟨t, runs, written, kept, left, none_, cores, xs'⟩ := partialArrival_closes (port := port)
      ⟨⟨count, fmt, op, flat⟩, waiting, present, partials, lengths, aligned, target, apart⟩ takes
    exact ⟨t, runs, written, kept, left, none_, cores, xs'⟩

end Sys2Proof.Machine
end
